-- ==== Sys2Proof/Word.lean ====
section
/-! DEFINITION. The word types of the AXV7480: 32-bit registers (00 R7), bytes, and the 64-bit values of the cores. -/
namespace Sys2Proof

/-- A 32-bit register value (00 R7). -/
abbrev Word := BitVec 32
/-- One byte. -/
abbrev Byte := BitVec 8
/-- A byte string, first byte first. -/
abbrev Bytes := List (BitVec 8)
/-- A 16-bit ring index or count (14 R339). -/
abbrev Half := BitVec 16
/-- A core register (07 R161). -/
abbrev DWord := BitVec 64

end Sys2Proof
end

