-- ==== Sys2Proof/Syntax.lean ====
section
/-! DEFINITION. The commands of the AXV7480: one constructor per row of spec/opcode_table.json, with the row's
operands. A quantity that the environment supplies (a level, a measured count, data read from host memory, a received
frame) is an operand (log 13). -/
namespace Sys2Proof

/-- The state of VPP_FUSE (R91, R145): 0 V, in the range of R479, or present and out of range. -/
inductive VppState where
  | absent | inRange | outOfRange
deriving DecidableEq, Repr

/-- What the supplies and pins show at a power-on reset (R88, R90, R91, R100). -/
structure SupplyEnv where
  /-- detected VDDIO_A level: 0b01 = 1.8 V, 0b10 = 3.3 V -/
  ioA : BitVec 2
  /-- detected VDDIO_B level -/
  ioB : BitVec 2
  /-- VPP_FUSE -/
  vpp : VppState
  /-- VBAT lies in its range (MODE_SUPPLY.VBAT_OK) -/
  vbat : Bool
  /-- NRST is low when the power-on reset would release (R100) -/
  nrstLow : Bool
deriving DecidableEq, Repr

/-- What one run of KINDLE meets outside the registers (R101, R112, R96, R91). -/
structure KindleEnv where
  /-- the FAIL codes 0x01 to 0x0A of the engines that fail their known-answer test (R112) -/
  katFail : List Nat
  /-- VPP_FUSE at the release of the reset (R91) -/
  vpp : VppState
  /-- VSNUFF is at least 3.0 V at K12 (R114) -/
  vsnuffOk : Bool
  /-- temperature in degrees Celsius -/
  temp : Int
  /-- the duration of KINDLE in microseconds, as MODE_KINDLE_TIME reports it -/
  micros : Nat
  /-- the key slots whose zeroization in K8 fails its readback twice (R239) -/
  zfail : List Nat := []
deriving DecidableEq, Repr

/-- What one tick edge meets: the temperature reading of R143 and the trim measurement of R133, each in its own unit. -/
structure TickEnv where
  /-- temperature in degrees Celsius -/
  temp : Int
  /-- a trim measurement that ended in the tick (R133): FIRC cycles counted, and for the custody bus the whole nominal
  bits it spans; `none` when none ended -/
  trim : Option (Nat × Nat)
  /-- what VPP_FUSE shows (04 R91) -/
  vpp : VppState
deriving DecidableEq, Repr

/-- The two PLLs (R117). -/
inductive Pll where
  | a | b
deriving DecidableEq, Repr

/-- The authority under which secure firmware programs a fuse word (R145). -/
inductive PgmAuth where
  | none
  /-- a factory token (R381) -/
  | factory
  /-- a provisioning token (R67) -/
  | provisioning
  /-- the two-key latch, for this operation code (R250) -/
  | latch (op : Byte)
  /-- the rollback counter, by an activation confirmation (R455) -/
  | rollback
deriving DecidableEq, Repr

/-- A CAN frame (R267). -/
structure CanFrame where
  /-- identifier -/
  id : Nat
  /-- 29-bit identifier -/
  ext : Bool
  /-- FD frame -/
  fd : Bool
  /-- bit rate switched -/
  brs : Bool
  /-- data length code -/
  dlc : Nat
  /-- data field -/
  data : Bytes
  /-- error state indicator of an FD frame: its sender is error passive -/
  esi : Bool := false
deriving DecidableEq, Repr

/-- How an attempt to send a frame ends (R270, R272, R274). -/
inductive TxEnd where
  | ok
  /-- no acknowledge; no other error in the attempt -/
  | noAck
  /-- an error other than a missing acknowledge: the steps of 8 that ISO 11898-1 adds to TEC, 0 for a stuff error in
  arbitration that it exempts, more than 1 for further errors under the error flag (R272) -/
  | error (steps : Nat)
  /-- arbitration lost -/
  | lost
deriving DecidableEq, Repr

/-- What a Snuff meets in its own domain (R414 to R417): which banks pass their readback at once, whether a late
bank passes before VSNUFF falls, the time in 10 ns units and the VSNUFF readings. -/
structure SnuffEnv where
  /-- banks (bit k = bank k) that fail their first readback -/
  failing : BitVec 7
  /-- banks that still fail when VSNUFF falls below the lower limit -/
  never : BitVec 7
  /-- VSNUFF fell below its limit during the run -/
  vlow : Bool
  /-- duration in counts of SNF_TIME -/
  time : Nat
  /-- VSNUFF before, in register units -/
  before : Nat
  /-- VSNUFF after -/
  after : Nat
deriving DecidableEq, Repr

/-- Who writes a register (R14, R335, R336): an initiator of the internal map, or the host through PF BAR0 or the
doorbell page of a function. -/
inductive RegSrc where
  | bus (init : Fin 8)
  | bar0
  | page (fn : Fin 16)
deriving DecidableEq, Repr

/-- What a host command reads and meets (log 7, log 13): the bytes of its buffers as host reads return them, and a
hardware outcome that its run may meet. -/
structure CmdIo where
  /-- the source buffer -/
  inp : Bytes
  /-- the auxiliary buffer -/
  aux : Bytes
  /-- the random bytes drawn do not enter here: they come from the DRBG of the state; this word says which hardware
  failure the run meets: 0 none; for a command that blows fuses, the copy that fails, counted from 1 in the order of
  06 R146; for a write of the database, how many readbacks of a page (bits 1:0) and of a segment
  copy (bits 3:2) differ (16 R396) -/
  fail : Word
deriving DecidableEq, Repr

/-- The kind of a bus access (R199). -/
inductive BusKind where
  | load | store | fetch | walk
deriving DecidableEq, Repr

/-- One bus access (R208). -/
structure BusReq where
  /-- the initiator (R199 table) -/
  init : Fin 8
  /-- its kind -/
  kind : BusKind
  /-- address: virtual for a core with translation, else physical -/
  addr : DWord
  /-- size in bytes, 1 to 64 -/
  size : Nat
  /-- data of a store, little-endian -/
  data : Bytes
  /-- destination register of a core load -/
  rd : Fin 32
  /-- a core load sign-extends -/
  signed : Bool
  /-- the owner on whose behalf a DMA initiator acts -/
  owner : Fin 16
  /-- an access of PKE_ operand DMA for PKE_RAW, in the normal world -/
  normal : Bool := false
deriving DecidableEq, Repr

/-- The commands: one constructor per row of spec/opcode_table.json. -/
inductive Instr where
  /-- BATTERY_POWER_ON (R479). VBAT stays above 2.20 V for 10 ms from OFF; the battery domain is cleared and VIGIL is entered (M1). -/
  | batteryPowerOn
  /-- VBAT_LOSS (R479). VBAT falls below 2.00 V while the main supplies are absent; battery-domain content is lost and the device is OFF (M4). -/
  | vbatLoss
  /-- POWER_ON_RESET (R88). The power-on reset releases 2.00 ms after the last main supply is valid, or waits for NRST to rise (R100). -/
  | powerOnReset (io : SupplyEnv)
  /-- MAIN_SUPPLY_LOSS (R89). A main supply leaves its valid range; the core domain is isolated and the device takes M3 or M4 with no completion written. -/
  | mainSupplyLoss
  /-- NRST_ASSERT (R97). NRST held low for 3200 FIRC cycles is recognised and holds the main domain in reset while the hold time is counted. -/
  | nrstAssert
  /-- NRST_RELEASE (R98). The rising edge of NRST releases the reset, logs the hold count and starts KINDLE. -/
  | nrstRelease
  /-- WATCHDOG_TIMEOUT (R96). The watchdog count reaches MODE_WDT_CFG.TIMEOUT and performs a device reset with cause 0x03. -/
  | watchdogTimeout (step : Fin 12)
  /-- MODE_WDT_KICK (R96). A write of 0x0000_5A5A restarts the watchdog count; any other value is ignored and logged. -/
  | modeWdtKick (v : Word)
  /-- WDT_LOCK (R13). A write of MODE_WDT_CFG.LOCK = 1 commits the lock on TIMEOUT until the next reset. -/
  | wdtLock
  /-- SWRST (R94). A keyed write of MODE_RST_CTL.SWRST performs a software reset followed by KINDLE. -/
  | swrst (v : Word)
  /-- RECOV (R94). A keyed write of MODE_RST_CTL.RECOV sets the recovery request flag and performs a device reset (M10). -/
  | recov (v : Word)
  /-- ENDPOINT_RESET (R359). PERST_N low, a PCIe hot reset or link down resets HIF_ state of every function without changing the mode. -/
  | endpointReset
  /-- KINDLE (R101). The release of a reset that resets the main domain runs KINDLE steps K1 to K12 from the mask ROM. -/
  | kindle (e : KindleEnv)
  /-- VSNUFF_WAIT_EXPIRY (R114). K12 waits up to 50 ms for VSNUFF_OK; on expiry KINDLE continues with ALARM_N asserted and a log entry. -/
  | vsnuffWaitExpiry
  /-- XA_FREQ_CHECK (R120). After the XA settle count the frequency meter checks XA, sets the FIRC trim once (R122) or falls back to FIRC. -/
  | xaFreqCheck (n : Nat)
  /-- XB_CHECK (R121). After XB_SETTLE the meter checks XB and moves the battery domain to XB or leaves it on SIRC. -/
  | xbCheck (n : Nat)
  /-- XB_LOST (R121). No XB edge for 4 SIRC periods in VIGIL returns the battery domain to SIRC and logs it. -/
  | xbLost
  /-- KINDLE_END (R75). At the edge of tick 1 after RUN, the device enters the destination chosen by R75 (M5). -/
  | kindleEnd
  /-- BCN_RUN (R41). A write of GLB_BCN_CTL.RUN = 1 starts the beacon at tick 0, or is refused when GLB_BCN_CFG holds a forbidden combination. -/
  | bcnRun (v : Word)
  /-- TICK_EDGE (R47). At each tick edge shadows and committed groups apply, tokens refill, budgets reload and carried trip descriptors are admitted. -/
  | tickEdge (e : TickEnv)
  /-- TICK_OVERRUN (R50). A trip candidate not admitted within MAXWAIT tick edges completes with TICK_OVERRUN after a descriptor-only fetch (R344). -/
  | tickOverrun (fn : Fin 16) (r : Fin 8) (d : Bytes)
  /-- SYNC_IN_EDGE (R43). An active SYNC_IN edge is timestamped and accepted or counted as stray, driving lock-state correction. -/
  | syncInEdge (half : Bool)
  /-- SYNC_HOLDOVER (R43). In LOCKED, the count of missed expected SYNC_IN edges reaches its limit and the beacon enters HOLDOVER. -/
  | syncHoldover
  /-- GLB_TICK_READ (R46). A read of GLB_TICK latches the current sub-tick count into GLB_SUBTICK. -/
  | glbTickRead
  /-- GLB_TRIP_LAT_CLEAR (R56). Any write to GLB_TRIP_LAT clears WORST to 0. -/
  | glbTripLatClear
  /-- BUDGET_COMMIT (R53). A write of GLB_BUD_COMMIT.BUDGET captures the budget shadows for the next tick edge. -/
  | budgetCommit
  /-- TRIPCAP_COMMIT (R159). A write of GLB_BUD_COMMIT.TRIPCAP captures the token ceilings for the next tick edge. -/
  | tripcapCommit
  /-- QUANTUM_BOUNDARY (R54). At each quantum boundary the engine scheduler runs one quantum by budget, lending and round robin. -/
  | quantumBoundary (e : Fin 8)
  /-- ANNOUNCE_WINDOW_START (R87). At the edge of START an announced window comes into force after admitted trip descriptors complete (R62). -/
  | announceWindowStart
  /-- ANNOUNCE_WINDOW_END (R87). At the edge of START + LEN the window ends, MODE_ANNOUNCE clears and carried trip candidates are admitted. -/
  | announceWindowEnd
  /-- SQ_TAIL (R340). A write of SQ_TAIL is observed, stamped and either publishes candidates, is ignored, or stops the ring with BAD_TAIL. -/
  | sqTail (fn : Fin 16) (r : Fin 8) (v : Word)
  /-- TRIP_DESC_ARRIVAL (R296). A trip descriptor read arrives; the descriptor and request-ID checks run and payload reads issue or the completion forms. -/
  | tripDescArrival (fn : Fin 16) (r : Fin 8) (d : Bytes)
  /-- TRIP_MAC_START (R297). When the whole payload has arrived, the MAC starts on the lowest free unit and the policy check reads the cached attributes. -/
  | tripMacStart (fn : Fin 16) (r : Fin 8) (slot : Half) (msg aux : Bytes)
  /-- TRIP_MAC_END (R298). A MAC unit ends after C cycles; the result commits or is squashed and the completion write issues 96 cycles later. -/
  | tripMacEnd (u : Fin 6)
  /-- DESC_FETCH_COMPLETE (R344). A non-trip descriptor fetch completes into the staging area and CONS advances. -/
  | descFetchComplete (fn : Fin 16) (r : Fin 8) (d : Bytes)
  /-- HOST_READ_ERROR (R334). A host read returns UR, CA, poisoned data or times out, stopping the ring with SQ_READ or aborting the descriptor. -/
  | hostReadError (fn : Fin 16) (r : Fin 8) (slot : Half)
  /-- CQ_HEAD (R350). A write of CQ_HEAD frees completion-ring space, writes held completions in order, or stops the ring with BAD_CQHEAD. -/
  | cqHead (fn : Fin 16) (r : Fin 8) (v : Word)
  /-- RING_ENABLE (R342). A write of RING_CTL.EN checks the ring configuration and starts the ring or reports BAD_CFG or QUOTA. -/
  | ringEnable (fn : Fin 16) (r : Fin 8)
  /-- RING_RESET (R358). A write of RING_CTL.RST stops observation, drops unstarted work and discards held completions. -/
  | ringReset (fn : Fin 16) (r : Fin 8)
  /-- FUNCTION_LEVEL_RESET (R359). An FLR of the PF or a VF resets its rings, request-ID stores, MSI-X table, mailbox and counters. -/
  | functionLevelReset (fn : Fin 16)
  /-- D3HOT_ENTRY (R360). A function entering D3hot stops observing doorbells and starting fetches. -/
  | d3hotEntry (fn : Fin 16)
  /-- D3HOT_EXIT (R360). The transition from D3hot to D0 acts as an FLR of that function. -/
  | d3hotExit (fn : Fin 16)
  /-- VF_ENABLE (R330). A write of VF Enable enables the VFs, or leaves it at 0 when NumVFs exceeds 7 without ARI. -/
  | vfEnable (on : Bool) (n : Nat) (ari : Bool)
  /-- HIF_RING_ALLOC (R338). A write of ring allowances is applied, or discarded when the sum exceeds 64 or undercuts enabled rings. -/
  | hifRingAlloc (k : Fin 2) (v : Word)
  /-- HIF_STG_TAKE (R344). Firmware marks the oldest staged descriptor taken. -/
  | hifStgTake
  /-- HIF_CPL_GO (R349). Firmware forms a completion which enters the request-ID store and is written when the CQ has space. -/
  | hifCplGo (v : Word)
  /-- SEND (R356). A host write of MBX_CTL.SEND on VF n raises the mailbox interrupt of partition n. -/
  | mbxSend (n : Fin 16)
  /-- HIF_MBX_DONE (R356). Partition n answers its mailbox, raising VF n vector 8, setting REPLY and clearing the pending bits. -/
  | hifMbxDone (v : Word)
  /-- FLT_EN (R362). Setting FLT_CTL.EN loads the fault-provocation LFSR from FLT_SEED and lets rules act. -/
  | fltEn
  /-- RELOCK_GO_A (R123). A write of CLK_RELOCK.GO_A accepts a PLLA relock at tick S and announces it, or is refused. -/
  | relockGoA
  /-- RELOCK_GO_B (R123). A write of CLK_RELOCK.GO_B accepts a PLLB relock at tick S and announces it, or is refused. -/
  | relockGoB
  /-- RELOCK_START (R124). At S:0 the domain moves to FIRC, shadow settings become active and the ramp divider is set to ÷4; CAN is parked (R127). -/
  | relockStart
  /-- RELOCK_LOCK_SHOWN (R124). The PLL shows lock, holds it for 256 reference cycles, passes the meter and the domain moves back to the PLL. -/
  | relockLockShown (p : Pll)
  /-- RELOCK_FAIL (R126). Lock does not show within 50 µs, breaks or fails the meter; the domain stays on FIRC as on a loss of lock. -/
  | relockFail (p : Pll)
  /-- RAMP_STEP (R124). Every 16 µs the ramp divider steps from ÷4 toward ÷1. -/
  | rampStep (p : Pll)
  /-- LOSS_OF_LOCK (R128). A PLL lock detector reports a loss; domains move to FIRC, operations end with CLK_LOST and SERVICE-HOLD is entered. -/
  | lossOfLock (a b : Bool)
  /-- DEGRADE (R129). A write of CLK_HOLD_CTL.DEGRADE = 1 resumes non-trip ring fetch at the FIRC clock during SERVICE-HOLD. -/
  | degrade
  /-- XA_LOST (R130). No XA edge for 8 FIRC cycles moves the time base to FIRC and forces fallback PLL settings. -/
  | xaLost
  /-- REREAD_INTERVAL (R143). 2^20 ticks since the last pass trigger a fuse re-read pass. -/
  | rereadInterval
  /-- FUS_REREAD_NOW (R143). A write of FUS_REREAD.NOW = 1 triggers a fuse re-read pass. -/
  | fusRereadNow
  /-- FUSE_REREAD_PASS (R143). A queued pass starts at a tick edge and reads all 512 words in order at three references. -/
  | fuseRereadPass
  /-- FUSE_WORD_REREAD (R144). At the end of a word's re-read, a more secure SEC result takes effect and a changed KEY or CFG word is flagged. -/
  | fuseWordReread (nom low high : Word)
  /-- FUSE_PGM_GO (R145). A keyed write of FUS_PGM_CTL.GO checks authority and starts programming the addressed word's copies. -/
  | fusePgmGo (v : Word) (auth : PgmAuth)
  /-- FUSE_PULSE_END (R146). A programming pulse ends, the word is read back and re-pulsed, the next copy starts, or PGM_FAIL stops the operation. -/
  | fusePulseEnd (nom low high : Word)
  /-- WGATE_CALL (R165). WGATE at Hypervisor or Supervisor saves state, invalidates normal-tagged state and enters the Monitor. -/
  | wgateCall (c : Fin 2)
  /-- WGATE_RETURN (R168). WGATE at Monitor returns to the caller with registers scrubbed. -/
  | wgateReturn (c : Fin 2)
  /-- TRET (R170). TRET returns from a trap, restoring the saved state exactly after an asynchronous entry. -/
  | tret (c : Fin 2)
  /-- EENTER (R182). EENTER enters a sealed enclave at an entry point, resumes it from its save slot, or returns a status. -/
  | eenter (c : Fin 2) (rs1 rs2 : Fin 32)
  /-- EEXIT (R183). EEXIT leaves the enclave to its exit return address with registers scrubbed. -/
  | eexit (c : Fin 2)
  /-- CRD (R164). CRD reads a core control register or raises an illegal instruction. -/
  | crd (c : Fin 2) (rd : Fin 32) (n : BitVec 12)
  /-- CWR (R164). CWR writes a core control register or raises an illegal instruction. -/
  | cwr (c : Fin 2) (n : BitVec 12) (rs1 : Fin 32)
  /-- TFENCE (R177). TFENCE invalidates TLB entries of all partitions or of one partition. -/
  | tfence (c : Fin 2) (rs1 : Fin 32)
  /-- ECALL (R188). ECALL raises exception 0x08 at the level R188 gives. -/
  | ecall (c : Fin 2)
  /-- EBREAK (R188). EBREAK with no debugger attached raises exception 0x07. -/
  | ebreak (c : Fin 2)
  /-- INTERRUPT_TAKEN (R187). A pending unmasked interrupt is taken at the next instruction boundary permitted for its level. -/
  | interruptTaken (c : Fin 2)
  /-- QUERY (R171). The WGATE service QUERY returns the service and secure firmware ABI versions. -/
  | query (c : Fin 2)
  /-- PART_LOAD (R174). The WGATE service PART_LOAD writes PCTXn for an existing owner's partition. -/
  | partLoad (c : Fin 2)
  /-- PART_UNLOAD (R196). The WGATE service PART_UNLOAD clears a partition and destroys its enclaves. -/
  | partUnload (c : Fin 2)
  /-- ENCL_CREATE (R180). The WGATE service ENCL_CREATE allocates a FREE enclave ID in BUILDING state. -/
  | enclCreate (c : Fin 2)
  /-- ENCL_ADD (R180). The WGATE service ENCL_ADD copies, tags and maps a page and extends MEAS (R181). -/
  | enclAdd (c : Fin 2)
  /-- ENCL_SEAL (R180). The WGATE service ENCL_SEAL sets entry offsets and seals the enclave. -/
  | enclSeal (c : Fin 2)
  /-- ENCL_DESTROY (R194). The WGATE service ENCL_DESTROY marks the enclave DYING and forces other cores out before its pages are zeroed. -/
  | enclDestroy (c : Fin 2)
  /-- ENCL_REPORT (R179). The WGATE service ENCL_REPORT returns the enclave's MEAS. -/
  | enclReport (c : Fin 2)
  /-- PKE_RAW (R305). The WGATE service PKE_RAW posts or polls a raw multiply-accumulate job on a PKE instance. -/
  | pkeRaw (c : Fin 2)
  /-- IRQ_RAISE (R171). The WGATE service IRQ_RAISE raises an MSI-X vector of the partition's own VF. -/
  | irqRaise (c : Fin 2)
  /-- MPU_CTL_EN (R212). A write of MPU_CTL.EN stops or restarts an MPU so that its regions may be changed. -/
  | mpuCtlEn (k : Fin 8) (v : Word)
  /-- MPU_STALL_TIMEOUT (R205). An access of initiators 2 to 6 stalled 2 µs while its MPU is disabled is refused with SRC 0x3. -/
  | mpuStallTimeout (k : Fin 8)
  /-- FWL_HOLD (R213). A write of FWL_HOLD stops a target's rule set or applies the written rules together. -/
  | fwlHold (v : Word)
  /-- FIREWALL_HOLD_TIMEOUT (R213). An access stalled 2 µs under a firewall hold is refused with SRC 0x7. -/
  | firewallHoldTimeout (t : Fin 26)
  /-- ZEROIZE_READBACK (R239). A zeroized slot is read back; a pass frees it, a double failure quarantines it. -/
  | zeroizeReadback (n : Fin 1024) (ok : Bool)
  /-- SEASON_WINDOW_OPEN (R231). At the edge of X − OVLEN the next key starts to verify. -/
  | seasonWindowOpen (a : BitVec 12)
  /-- SEASON_ROLLOVER (R231). At the edge of X the next key becomes current and the current key becomes retiring. -/
  | seasonRollover (a : BitVec 12)
  /-- SEASON_WINDOW_END (R231). At the edge of X + OVLEN the retiring key is zeroized. -/
  | seasonWindowEnd (a : BitVec 12)
  /-- GENERATE_COMMIT_EXPIRY (R378). A generated key not committed within 4096 ticks is zeroized and returned to the quota. -/
  | generateCommitExpiry (n : Fin 1024)
  /-- COMMIT (R246). A keyed write of CUS_CTL.COMMIT fills in and locks the request record, cancelling any open request. -/
  | custCommit (v : Word)
  /-- CANCEL (R252). A keyed write of CUS_CTL.CANCEL cancels the open request and clears the latch. -/
  | custCancel (v : Word)
  /-- VERIFY (R248). A keyed write of CUS_CTL.VERIFY starts a custody-verify run on PKE0. -/
  | custVerify (v : Word)
  /-- CUSTODY_VERIFY_END (R248). The custody-verify run ends, setting the latch when all checks pass or recording its RESULT. -/
  | custodyVerifyEnd
  /-- REQUEST_EXPIRY (R263). At the edge of EXPIRES the request closes, the latch clears and a running verification stops. -/
  | requestExpiry
  /-- REQUEST_REPEAT (R281). Every 2^12 ticks while a request is open, firmware broadcasts REQUEST again. -/
  | requestRepeat
  /-- APPROVAL (R244). An APPROVAL message from CAN0 is kept for the open request or discarded and logged. -/
  | approval
  /-- REFUSAL (R244). A REFUSAL naming the open request cancels it at once. -/
  | refusal
  /-- CREDENTIAL (R254). A CREDENTIAL message writes a candidate digest and sets its bit in CUS_CAND_MASK. -/
  | credential (n : Fin 8)
  /-- CAN_MODE (R268). A write of CANx_CTL.MODE starts bus integration, checking bit timing, or stops the controller. -/
  | canMode (ch : Fin 2) (m : Fin 4)
  /-- TXREQ (R270). A write of CANx_TXREQ makes FREE buffers PENDING. -/
  | txreq (ch : Fin 2) (m : Byte)
  /-- TXABORT (R270). A write of CANx_TXABORT aborts pending buffers, taking effect at the end of a frame on the bus. -/
  | txabort (ch : Fin 2) (m : Byte)
  /-- BOR_REQ (R273). A write of CANx_CTL.BOR_REQ starts bus-off recovery when BOR_AUTO = 0. -/
  | borReq (ch : Fin 2)
  /-- RXPOP (R271). A write of CANx_RXPOP removes the head entry of the receive FIFO. -/
  | rxpop (ch : Fin 2)
  /-- FRAME_RECEIVED (R271). A valid frame is acknowledged, filtered, stamped and stored in the FIFO or discarded; sof is the counts since its start-of-frame edge. -/
  | frameReceived (ch : Fin 2) (f : CanFrame) (sof : Nat)
  /-- FRAME_TX_END (R274). A transmission attempt ends in success, error, NO_ACK or abort at the retry limit, updating error counters; sof is the counts since its start-of-frame edge. -/
  | frameTxEnd (ch : Fin 2) (e : TxEnd) (sof : Nat)
  /-- BUS_OFF_RECOVERY (R273). After 128 occurrences of 11 recessive bits the controller is error active again. -/
  | busOffRecovery (ch : Fin 2)
  /-- VOETH_DATA (R278). A received Voeth DATA frame is accepted in order, re-acknowledged or discarded by its SEQ. -/
  | voethData (ch : Fin 2)
  /-- VOETH_ACK (R279). A received ACK releases every unacknowledged DATA frame before NEXT. -/
  | voethAck (ch : Fin 2)
  /-- HELLO (R280). A received HELLO starts a new session, is answered with an ACK and sets EXP. -/
  | hello (ch : Fin 2)
  /-- VOE_RTO (R277). VOE_RTO expires without progress; unacknowledged frames are resent or, after 5 rounds, the peer is LOST. -/
  | voeRto (ch : Fin 2) (node : Byte)
  /-- HELLO_TIMER (R280). Every 2^12 ticks while a peer is LOST, a node sends a HELLO. -/
  | helloTimer (ch : Fin 2)
  /-- ALIGN (R283). A received ALIGN message computes the tick offset to the twin and marks the link aligned or unaligned. -/
  | align
  /-- ALIGN_TIMER (R283). Every 2^14 ticks each mirror node sends ALIGN. -/
  | alignTimer
  /-- SEASON_PROPOSE (R284). A received SEASON_PROPOSE is checked and answered, setting the twin's schedule on agreement. -/
  | seasonPropose
  /-- SEASON_ANSWER (R284). A received SEASON_ANSWER sets the proposer's schedule or completes the command with DENIED. -/
  | seasonAnswer
  /-- MIRROR_SEASON_CANCEL (R284). A received SEASON_CANCEL cancels the schedule before X − OVLEN. -/
  | mirrorSeasonCancel
  /-- SEASON_STATE (R285). A received SEASON_STATE is adopted as a schedule or logged as a conflict. -/
  | seasonState
  /-- ENG_POST_GO (R289). A write of ENG_POST_GO posts an operation entry to an AES or hash lane. -/
  | engPostGo (v : Word)
  /-- ENGINE_OP_END (R291). A lane operation ends, zeroes its context and pushes a result record. -/
  | engineOpEnd (e : Fin 6)
  /-- ENG_RESPOP (R291). A write of ENG_RESPOP removes the head result record. -/
  | engRespop
  /-- PKE_POST_GO (R302). A write of PKE_POST_GO posts a PKE operation entry to an instance. -/
  | pkePostGo (v : Word)
  /-- PKE_RESIDENT (R301). A waiting PKE operation is given its slots once enough are zeroed and free. -/
  | pkeResident (p : Fin 2)
  /-- PKE_OP_END (R301). A PKE operation ends, pushes its result record and zeroes its slots. -/
  | pkeOpEnd (p : Fin 2)
  /-- PKE_RESPOP (R291). A write of PKE_RESPOP removes the head PKE result record. -/
  | pkeRespop
  /-- STARTUP_TEST_PASS (R316). The first 1024 samples after the source starts pass both health tests and are discarded. -/
  | startupTestPass (osc : List (BitVec 16))
  /-- CONDITIONING_BLOCK (R317). 512 tested samples are conditioned into 256 full-entropy bits in the pool. -/
  | conditioningBlock (osc : List (BitVec 16))
  /-- HEALTH_TEST_FAILURE (R324). A health test fails; output stops, state is zeroed, FAILED is set and ALARM_N is driven. -/
  | healthTestFailure (cause : Fin 4)
  /-- RESEED_TICK_DUE (R322). 2^(10 + TICK_LOG) ticks since the last reseed make a reseed due. -/
  | reseedTickDue
  /-- RESEED (R319). A due reseed draws 384 bits from the pool and resets the reseed counter. -/
  | reseed
  /-- RAW_CAPTURE (R312). A write of RNG_RAW_CTL.CAP diverts samples to the capture buffer, allowed only in BLANK or with debug OPEN. -/
  | rawCapture (v : Word)
  /-- SPI0_GO (R388). A write of SPI0_GO starts one flash command from SPI0_CMD. -/
  | spi0Go
  /-- SPI0_CMD_END (R388). A flash command ends after status polling and readback, setting DONE or an error. -/
  | spi0CmdEnd (ok : Bool)
  /-- SPI0_TIMEOUT (R388). SPI0_TMO elapses before write-in-progress clears; the command ends with TIMEOUT. -/
  | spi0Timeout
  /-- SPI0_ABORT (R400). A write of SPI0_ABORT releases the select at once and ends the command with ABORTED. -/
  | spi0Abort
  /-- BACKGROUND_ERASE (R397). Secure firmware erases free database pages ahead of use as ADMIN work on SPI0. -/
  | backgroundErase (p : Word)
  /-- SPI1_TX (R389). A write of SPI1_TX queues a transmit word, or is discarded when the FIFO is full. -/
  | spi1Tx (v : Word)
  /-- SPI1_WORD_COMPLETE (R390). An SPI1 word completes on its last sampling edge and enters the receive FIFO. -/
  | spi1WordComplete (v : Word)
  /-- SPI1_SELECT_RELEASE (R401). The watched select goes inactive mid-word; the partial word enters the FIFO and the transmit word is dropped. -/
  | spi1SelectRelease (n : Nat) (v : Word)
  /-- SPI1_RX (R389). A read of SPI1_RX pops the head of the receive FIFO. -/
  | spi1Rx
  /-- TAMPER_SOURCE_ACT (R409). A tamper source's condition becomes active and it acts by log, alarm or Snuff under the cell's code. -/
  | tamperSourceAct (k : Fin 13)
  /-- TMP_HOLD (R411). A write of 1 to TMP_HOLD clears the ALARM_N hold of an inactive source. -/
  | tmpHold (v : Word)
  /-- TMP_STICKY (R412). A write of 1 to TMP_STICKY clears flags only in BLANK or at consumption of OP 0x0B or 0x0C. -/
  | tmpSticky (v : Word)
  /-- TMP_CTL_LOCK (R410). A keyed write of TMP_CTL.LOCK locks TMP_RESP and the tamper configuration registers. -/
  | tmpCtlLock (v : Word)
  /-- SNUFF_TRIGGER (R414). Snuff zeroizes and verifies the seven banks from stored charge and the device enters SNUFFED. -/
  | snuffTrigger (e : SnuffEnv)
  /-- EVENT_ACCEPT (R425). The event arbiter accepts a queued event, stamps it and routes it to its channels and interrupt lines. -/
  | eventAccept
  /-- IMAGE_READY (R452). The newly activated image signals ready and firmware-class service and partitions resume. -/
  | imageReady
  /-- ACTIVATION_CONFIRM (R454). 1024 ticks after the window ends, a CONFIRM record is written and the rollback counter is raised when RAISE was set. -/
  | activationConfirm
  /-- DIM_ENTRY_CANCEL (R80). A pending DIM entry is cancelled by a doorbell or when 16 tick edges pass without the conditions holding. -/
  | dimEntryCancel
  /-- WAKE (R107). A write of MODE_CTL.WAKE = 1 starts the wake from DIM. -/
  | wake
  /-- DIM_WAKE_COMPLETE (R107). At the first tick edge 40 µs after a wake trigger, clocks are restored, engines self-test and SERVICE or SERVICE-HOLD is entered. -/
  | dimWakeComplete (fail : List Nat)
  /-- DEBUG_SWITCH (R73). At the edge of tick V + 5, engine operations abort, caches clear, the test root takes force and DEBUG is entered. -/
  | debugSwitch
  /-- REGISTER_WRITE (R14). A write to a register field without its own row takes effect by its change class, or gets a bus error. -/
  | registerWrite (src : RegSrc) (a v : Word)
  /-- AES_ECB_ENCRYPT (R369). Command 0x01 encrypts in AES-ECB. -/
  | aesEcbEncrypt (fn : Fin 16) (r : Fin 8) (io : CmdIo)
  /-- AES_ECB_DECRYPT (R369). Command 0x02 decrypts in AES-ECB. -/
  | aesEcbDecrypt (fn : Fin 16) (r : Fin 8) (io : CmdIo)
  /-- AES_CBC_ENCRYPT (R369). Command 0x03 encrypts in AES-CBC. -/
  | aesCbcEncrypt (fn : Fin 16) (r : Fin 8) (io : CmdIo)
  /-- AES_CBC_DECRYPT (R369). Command 0x04 decrypts in AES-CBC. -/
  | aesCbcDecrypt (fn : Fin 16) (r : Fin 8) (io : CmdIo)
  /-- AES_CTR_ENCRYPT (R369). Command 0x05 encrypts in AES-CTR. -/
  | aesCtrEncrypt (fn : Fin 16) (r : Fin 8) (io : CmdIo)
  /-- AES_CTR_DECRYPT (R369). Command 0x06 decrypts in AES-CTR. -/
  | aesCtrDecrypt (fn : Fin 16) (r : Fin 8) (io : CmdIo)
  /-- HMAC_SHA_256_GENERATE (R369). Command 0x08 generates an HMAC-SHA-256 tag, on the fast path on trip rings. -/
  | hmacSha256Generate (fn : Fin 16) (r : Fin 8) (io : CmdIo)
  /-- HMAC_SHA_256_VERIFY (R369). Command 0x09 verifies an HMAC-SHA-256 tag, on the fast path on trip rings. -/
  | hmacSha256Verify (fn : Fin 16) (r : Fin 8) (io : CmdIo)
  /-- HMAC_SHA_384_512_GENERATE (R370). Command 0x0A generates an HMAC-SHA-384 or SHA-512 tag. -/
  | hmacSha384512Generate (fn : Fin 16) (r : Fin 8) (io : CmdIo)
  /-- HMAC_SHA_384_512_VERIFY (R370). Command 0x0B verifies an HMAC-SHA-384 or SHA-512 tag. -/
  | hmacSha384512Verify (fn : Fin 16) (r : Fin 8) (io : CmdIo)
  /-- AES_GMAC_GENERATE (R369). Command 0x0C generates an AES-GMAC tag, on the fast path on trip rings. -/
  | aesGmacGenerate (fn : Fin 16) (r : Fin 8) (io : CmdIo)
  /-- AES_GMAC_VERIFY (R369). Command 0x0D verifies an AES-GMAC tag, on the fast path on trip rings. -/
  | aesGmacVerify (fn : Fin 16) (r : Fin 8) (io : CmdIo)
  /-- AES_GCM_ENCRYPT (R370). Command 0x0E encrypts in AES-GCM with a supplied or drawn IV. -/
  | aesGcmEncrypt (fn : Fin 16) (r : Fin 8) (io : CmdIo)
  /-- AES_GCM_DECRYPT (R370). Command 0x0F decrypts in AES-GCM and writes no plaintext when the tag fails. -/
  | aesGcmDecrypt (fn : Fin 16) (r : Fin 8) (io : CmdIo)
  /-- AES_CMAC_GENERATE (R369). Command 0x10 generates an AES-CMAC tag. -/
  | aesCmacGenerate (fn : Fin 16) (r : Fin 8) (io : CmdIo)
  /-- AES_CMAC_VERIFY (R369). Command 0x11 verifies an AES-CMAC tag. -/
  | aesCmacVerify (fn : Fin 16) (r : Fin 8) (io : CmdIo)
  /-- HASH (R370). Command 0x14 hashes data with the SHA-2 or SHA-3 function that OPND[0] selects. -/
  | hashCmd (fn : Fin 16) (r : Fin 8) (io : CmdIo)
  /-- ECDSA_SIGN (R371). Command 0x20 signs with ECDSA P-256 or P-384. -/
  | ecdsaSign (fn : Fin 16) (r : Fin 8) (io : CmdIo)
  /-- ECDSA_VERIFY (R371). Command 0x21 verifies an ECDSA signature. -/
  | ecdsaVerify (fn : Fin 16) (r : Fin 8) (io : CmdIo)
  /-- ED25519_SIGN (R371). Command 0x22 signs with Ed25519. -/
  | ed25519Sign (fn : Fin 16) (r : Fin 8) (io : CmdIo)
  /-- ED25519_VERIFY (R371). Command 0x23 verifies an Ed25519 signature. -/
  | ed25519Verify (fn : Fin 16) (r : Fin 8) (io : CmdIo)
  /-- ML_DSA_65_SIGN (R371). Command 0x24 signs with ML-DSA-65 in hedged form. -/
  | mlDsa65Sign (fn : Fin 16) (r : Fin 8) (io : CmdIo)
  /-- ML_DSA_65_VERIFY (R371). Command 0x25 verifies an ML-DSA-65 signature. -/
  | mlDsa65Verify (fn : Fin 16) (r : Fin 8) (io : CmdIo)
  /-- HYBRID_VERIFY (R372). Command 0x26 verifies an ECDSA P-384 and ML-DSA-65 signature pair. -/
  | hybridVerify (fn : Fin 16) (r : Fin 8) (io : CmdIo)
  /-- ECDH_DERIVE (R372). Command 0x28 derives a new key from an ECDH shared secret into the slot state machine. -/
  | ecdhDerive (fn : Fin 16) (r : Fin 8) (io : CmdIo)
  /-- RSA_SIGN (R372). Command 0x2A signs with a database RSA key in PKCS#1 v1.5 or PSS. -/
  | rsaSign (fn : Fin 16) (r : Fin 8) (io : CmdIo)
  /-- RSA_VERIFY (R371). Command 0x2B verifies an RSA signature. -/
  | rsaVerify (fn : Fin 16) (r : Fin 8) (io : CmdIo)
  /-- RSA_OAEP_DECRYPT (R372). Command 0x2C decrypts with RSA-OAEP under a database key. -/
  | rsaOaepDecrypt (fn : Fin 16) (r : Fin 8) (io : CmdIo)
  /-- PUBLIC_KEY_READ (R372). Command 0x2E returns the public key of a key or object. -/
  | publicKeyRead (fn : Fin 16) (r : Fin 8) (io : CmdIo)
  /-- RANDOM (R373). Command 0x40 writes random bytes from the CTR_DRBG, optionally with prediction resistance. -/
  | random (fn : Fin 16) (r : Fin 8) (io : CmdIo)
  /-- KEY_GENERATE (R375). Command 0x50 generates a key into a PENDING slot awaiting KEY_COMMIT. -/
  | keyGenerate (fn : Fin 16) (r : Fin 8) (io : CmdIo)
  /-- KEY_IMPORT (R375). Command 0x51 unwraps an imported key into the slot state machine. -/
  | keyImport (fn : Fin 16) (r : Fin 8) (io : CmdIo)
  /-- KEY_DERIVE (R375). Command 0x52 derives a child key into the slot state machine. -/
  | keyDerive (fn : Fin 16) (r : Fin 8) (io : CmdIo)
  /-- KEY_ZEROIZE (R375). Command 0x53 zeroizes one or all keys of an association. -/
  | keyZeroize (fn : Fin 16) (r : Fin 8) (io : CmdIo)
  /-- ASSOC_SET (R375). Command 0x54 sets the MIRROR flag of an association. -/
  | assocSet (fn : Fin 16) (r : Fin 8) (io : CmdIo)
  /-- KEY_COMMIT (R378). Command 0x55 commits a generated key by its SN and KCV. -/
  | keyCommit (fn : Fin 16) (r : Fin 8) (io : CmdIo)
  /-- KEY_PIN (R235). Command 0x57 pins every resolving slot of an association in the hot cache. -/
  | keyPin (fn : Fin 16) (r : Fin 8) (io : CmdIo)
  /-- KEY_UNPIN (R235). Command 0x58 unpins an association at the next tick edge. -/
  | keyUnpin (fn : Fin 16) (r : Fin 8) (io : CmdIo)
  /-- SEASON_SCHEDULE (R231). Command 0x59 schedules a rollover at X with OVLEN, proposing it to the twin when mirrored. -/
  | seasonSchedule (fn : Fin 16) (r : Fin 8) (io : CmdIo)
  /-- SEASON_CANCEL (R231). Command 0x5A cancels an association's rollover schedule. -/
  | seasonCancel (fn : Fin 16) (r : Fin 8) (io : CmdIo)
  /-- KEY_INFO (R376). Command 0x5B returns the record of an association's keys and season. -/
  | keyInfo (fn : Fin 16) (r : Fin 8) (io : CmdIo)
  /-- DB_IMPORT (R396). Command 0x5C imports a key as a wrapped database object and journals it. -/
  | dbImport (fn : Fin 16) (r : Fin 8) (io : CmdIo)
  /-- DB_LOAD (R375). Command 0x5D makes a database key resident in a vault slot. -/
  | dbLoad (fn : Fin 16) (r : Fin 8) (io : CmdIo)
  /-- DB_DELETE (R396). Command 0x5E deletes a database object and journals it. -/
  | dbDelete (fn : Fin 16) (r : Fin 8) (io : CmdIo)
  /-- DB_INFO (R376). Command 0x5F returns a database object's header. -/
  | dbInfo (fn : Fin 16) (r : Fin 8) (io : CmdIo)
  /-- CUSTODY_REQUEST (R246). Command 0x70 commits a custody request record and broadcasts REQUEST. -/
  | custodyRequest (fn : Fin 16) (r : Fin 8) (io : CmdIo)
  /-- CUSTODY_CANCEL (R379). Command 0x71 cancels the open custody request. -/
  | custodyCancel (fn : Fin 16) (r : Fin 8) (io : CmdIo)
  /-- CUSTODY_STATUS (R379). Command 0x72 returns the state of the custody request and latch. -/
  | custodyStatus (fn : Fin 16) (r : Fin 8) (io : CmdIo)
  /-- OWNER_CREATE (R256). Command 0x73 consumes the latch to create an owner and make its VF live. -/
  | ownerCreate (fn : Fin 16) (r : Fin 8) (io : CmdIo)
  /-- OWNER_DELETE (R256). Command 0x74 consumes the latch to delete an owner under R240. -/
  | ownerDelete (fn : Fin 16) (r : Fin 8) (io : CmdIo)
  /-- KEY_EXPORT (R257). Command 0x75 consumes the latch to export a key blob to a recipient point. -/
  | keyExport (fn : Fin 16) (r : Fin 8) (io : CmdIo)
  /-- KEY_RESTORE (R258). Command 0x76 consumes the latch to restore an exported key. -/
  | keyRestore (fn : Fin 16) (r : Fin 8) (io : CmdIo)
  /-- SNUFF (R260). Command 0x77 consumes the latch and starts Snuff. -/
  | snuff (fn : Fin 16) (r : Fin 8) (io : CmdIo)
  /-- DEBUG_AUTH (R259). Command 0x78 consumes the latch and announces the debug switch at tick V + 5. -/
  | debugAuth (fn : Fin 16) (r : Fin 8) (io : CmdIo)
  /-- CUS_ENROL (R255). Command 0x79 consumes the latch to program a custodian slot's digest and ENROLLED bits. -/
  | cusEnrol (fn : Fin 16) (r : Fin 8) (io : CmdIo)
  /-- CUS_REVOKE (R255). Command 0x7A consumes the latch to program a custodian slot's REVOKED bits. -/
  | cusRevoke (fn : Fin 16) (r : Fin 8) (io : CmdIo)
  /-- FUSE_PROGRAM (R379). Command 0x7B programs DBGDIS, TMPDIS or override words under the authority that R145 requires. -/
  | fuseProgram (fn : Fin 16) (r : Fin 8) (io : CmdIo)
  /-- FAULT_ENABLE (R262). Command 0x7C consumes the latch to make fault provocation available on named functions and channels. -/
  | faultEnable (fn : Fin 16) (r : Fin 8) (io : CmdIo)
  /-- RECOMMISSION (R260). Command 0x7D consumes the latch to write a new vault root, clear owners and the Snuff flag, and reset. -/
  | recommission (fn : Fin 16) (r : Fin 8) (io : CmdIo)
  /-- RETIRE (R261). Command 0x7E consumes the latch to Snuff, blow the RET group and reset. -/
  | retire (fn : Fin 16) (r : Fin 8) (io : CmdIo)
  /-- COMMISSION (R254). Command 0x7F consumes the latch to write the vault root, program CFGK, custodian slots and COMM group, and reset. -/
  | commission (fn : Fin 16) (r : Fin 8) (io : CmdIo)
  /-- STAGE_BEGIN (R449). Command 0x80 starts staging an image and erasing its unnamed slot. -/
  | stageBegin (fn : Fin 16) (r : Fin 8) (io : CmdIo)
  /-- STAGE_DATA (R449). Command 0x81 decrypts a package chunk into the staging window. -/
  | stageData (fn : Fin 16) (r : Fin 8) (io : CmdIo)
  /-- STAGE_VERIFY (R449). Command 0x82 verifies the staged image and pair and writes it at rest. -/
  | stageVerify (fn : Fin 16) (r : Fin 8) (io : CmdIo)
  /-- ACTIVATE (R451). Command 0x83 accepts an activation at tick X and announces its window, or raises the counter for KIND 2. -/
  | activate (fn : Fin 16) (r : Fin 8) (io : CmdIo)
  /-- ACTIVATE_CANCEL (R461). Command 0x84 clears an activation announcement before its window starts. -/
  | activateCancel (fn : Fin 16) (r : Fin 8) (io : CmdIo)
  /-- IMAGE_INFO (R380). Command 0x85 returns the image, counter and UK record. -/
  | imageInfo (fn : Fin 16) (r : Fin 8) (io : CmdIo)
  /-- CONFIG_WRITE (R156). Command 0x86 writes a configuration image into the copy not in use. -/
  | configWrite (fn : Fin 16) (r : Fin 8) (io : CmdIo)
  /-- PROVISION (R381). Command 0x88 verifies a provisioning token and blows DUR, VIMG, VTOK and the PROV group. -/
  | provision (fn : Fin 16) (r : Fin 8) (io : CmdIo)
  /-- TOKEN_CHALLENGE (R381). Command 0x89 issues a fresh token challenge. -/
  | tokenChallenge (fn : Fin 16) (r : Fin 8) (io : CmdIo)
  /-- TOKEN_APPLY (R381). Command 0x8A verifies a debug token and authorises debug. -/
  | tokenApply (fn : Fin 16) (r : Fin 8) (io : CmdIo)
  /-- FACTORY_FUSE (R381). Command 0x8B verifies a factory token and blows SERIAL or CAL bits. -/
  | factoryFuse (fn : Fin 16) (r : Fin 8) (io : CmdIo)
  /-- REC_READ (R438). Command 0x90 returns recorder entries of a channel in SEQ order. -/
  | recRead (fn : Fin 16) (r : Fin 8) (io : CmdIo)
  /-- REC_MARK (R382). Command 0x91 writes host bytes into a diagnostics entry. -/
  | recMark (fn : Fin 16) (r : Fin 8) (io : CmdIo)
  /-- SELFTEST (R382). Command 0x92 tests the named engines, gating any that fail and entering SERVICE-HOLD. -/
  | selftest (fn : Fin 16) (r : Fin 8) (io : CmdIo)
  /-- DIM (R80). Command 0xA0 requests DIM entry, or is refused. -/
  | dimCmd (fn : Fin 16) (r : Fin 8) (io : CmdIo)
  /-- RECOVERY (R382). Command 0xA1 sets the recovery request flag and performs the reset of M10. -/
  | recovery (fn : Fin 16) (r : Fin 8) (io : CmdIo)
  /-- PLL_SET (R123). Command 0xA2 writes PLL shadows and requests an announced relock at tick S. -/
  | pllSet (fn : Fin 16) (r : Fin 8) (io : CmdIo)
  /-- BEACON_SET (R382). Command 0xA3 commits budgets, ceilings and MAXWAIT for the next tick edge. -/
  | beaconSet (fn : Fin 16) (r : Fin 8) (io : CmdIo)
  /-- SW_RESET (R382). Command 0xA4 performs a software reset within 1 tick. -/
  | swReset (fn : Fin 16) (r : Fin 8) (io : CmdIo)
  /-- BUS_INTEGRATION (R268). A CAN controller that has left STOP, or was parked by a relock or loss of lock, sees 11 consecutive recessive bits, completes bus integration (SYNCED) and may transmit again. -/
  | busIntegration (ch : Fin 2)
  /-- RECEIVE_ERROR (R272). A CAN controller detects an error in a frame it is receiving, raises REC under ISO 11898-1 and may turn error passive. -/
  | receiveError (ch : Fin 2) (n : Nat)
  /-- CONDITION_INACTIVE (R409). A tamper source's detector stops reporting its condition, so ACTIVE clears and the source may act again and its hold may be cleared. -/
  | conditionInactive (k : Fin 13)
  /-- VSNUFF_OK (R114). The charger brings VSNUFF to 3.0 V, VSNUFF_OK reads 1, the K12 wait ends and the ALARM_N cause of R114 is released. -/
  | vsnuffOk
  /-- HALT_REQUEST (R197). A JTAG debugger requests a halt of a core, which halts at once, at its next return to the normal world, or in place inside an enclave, freezing the watchdog. -/
  | haltRequest (c : Fin 2)
  /-- DEBUGGER_RESUME (R96). A JTAG debugger releases a halted core, which resumes and lets the watchdog count again. -/
  | debuggerResume (c : Fin 2)
  /-- BUS_ACCESS (R208). A load, store, fetch or table-walk read by a core, or a JTAG memory access, passes the checks of R208 and completes or is refused with a trap or error. -/
  | busAccess (b : BusReq)
  /-- ILLEGAL_INSTRUCTION (R163). A core executes an encoding that its level does not allow, such as a CSR instruction or an unlisted custom encoding, and takes trap 0x01. -/
  | illegalInstruction (c : Fin 2)
  /-- SPI1_SELECT_ASSERT (R389). The watched CSMON pin moves to its active level, so SPI1 starts or resumes shifting the waiting transmit words. -/
  | spi1SelectAssert
  /-- LINK_UP (R329). The PCIe link trains after REFCLK becomes valid or after a link-down, so configuration and completion writes can pass again. -/
  | linkUp (width speed : Nat) (ext : Bool)
deriving DecidableEq, Repr

end Sys2Proof
end

