-- ==== Sys2Proof/Machine/Bits.lean ====
section
/-! DEFINITION. Bit fields, byte order and tick comparison. -/
namespace Sys2Proof.Machine

/-- The n bits of w from bit lo on, as a number. -/
def fld (w : Word) (lo n : Nat) : Nat := (w.toNat >>> lo) % 2 ^ n

/-- Bit k of w. -/
def bit (w : Word) (k : Nat) : Bool := w.getLsbD k

/-- A number as a register value. -/
def wordOf (n : Nat) : Word := BitVec.ofNat 32 n

/-- A Bool as 0 or 1. -/
def b2n (b : Bool) : Nat := if b then 1 else 0

/-- Little-endian value of a byte string (R7). -/
def leNat : Bytes → Nat
  | [] => 0
  | b :: t => b.toNat + 256 * leNat t

/-- n bytes of v, little-endian. -/
def leBytes : Nat → Nat → Bytes
  | 0, _ => []
  | n + 1, v => BitVec.ofNat 8 v :: leBytes n (v / 256)

/-- Big-endian value of a byte string. -/
def beNat (b : Bytes) : Nat := b.foldl (fun a x => 256 * a + x.toNat) 0

/-- n bytes of v, big-endian. -/
def beBytes (n v : Nat) : Bytes := (leBytes n v).reverse

/-- n bytes of b from offset k on; missing bytes are 0. -/
def slice (b : Bytes) (k n : Nat) : Bytes := ((b.drop k).take n) ++ List.replicate (n - ((b.drop k).take n).length) 0

/-- Byte k of b, 0 past its end. -/
def byteAt (b : Bytes) (k : Nat) : Nat := (b.getD k 0).toNat

/-- Little-endian value of n bytes at offset k. -/
def leAt (b : Bytes) (k n : Nat) : Nat := leNat (slice b k n)

/-- The bytes of an ASCII text. -/
def ascii (t : String) : Bytes := t.toList.map fun c => BitVec.ofNat 8 c.toNat

/-- Tick x lies in the future of tick n (R9). -/
def tickFuture (x n : Word) : Bool := 1 ≤ (x - n).toNat && (x - n).toNat < 2 ^ 31

/-- Tick x is tick n or lies in its past (R9). -/
def tickReached (x n : Word) : Bool := !tickFuture x n

/-- 16-bit a is newer than b (R9 applied to 16-bit values; R230). -/
def newer16 (a b : Nat) : Bool := 1 ≤ (a + 65536 - b) % 65536 && (a + 65536 - b) % 65536 < 32768

/-- A saturating increment. -/
def satInc (top n : Nat) : Nat := if n < top then n + 1 else top

/-- A two's complement field of w bits. -/
def twos (w : Nat) (i : Int) : Nat := (i % (2 ^ w : Nat)).toNat

/-- Exclusive or of two byte strings, as long as the shorter. -/
def xorBytes (a b : Bytes) : Bytes := List.zipWith (· ^^^ ·) a b

/-- One step of a 32-bit Galois register, shifting right, with feedback mask m (R362). -/
def galois (m : Word) (l : Word) : Word := if l.getLsbD 0 then (l >>> 1) ^^^ m else l >>> 1

/-- The positions of the bits that are 1, of n bits. -/
def bitsOf (n : Nat) (v : Nat) : List Nat := (List.range n).filter fun k => v.testBit k

end Sys2Proof.Machine
end

