-- ==== Sys2Proof/Machine/Aes.lean ====
section
/-! DEFINITION. AES (FIPS 197) and its modes: ECB, CBC, CTR, CMAC, GCM and GMAC, key wrap of RFC 3394 and of RFC 5649,
as the spec names them (12 R292, 09 R217, 15 R375; log 11). -/
namespace Sys2Proof.Machine

/-- The multiplication by x in GF(2^8). -/
def xtime (a : Nat) : Nat := if a < 128 then 2 * a else (2 * a) % 256 ^^^ 0x1B

/-- The product in GF(2^8): n bits of b. -/
def gmul : Nat → Nat → Nat → Nat
  | 0, _, _ => 0
  | n + 1, a, b => (if b % 2 = 1 then a else 0) ^^^ gmul n (xtime a) (b / 2)

/-- The S-box, its 256 bytes as one number, byte 0 lowest. -/
def sboxNum : Nat := 0x16BB54B00F2D99416842E6BF0D89A18CDF2855CEE9871E9B948ED9691198F8E19E1DC186B95735610EF6034866B53E708A8BBD4B1F74DDE8C6B4A61C2E2578BA08AE7A65EAF4566CA94ED58D6D37C8E779E4959162ACD3C25C2406490A3A32E0DB0B5EDE14B8EE4688902A22DC4F816073195D643D7EA7C41744975FEC130CCDD2F3FF1021DAB6BCF5389D928F40A351A89F3C507F02F94585334D43FBAAEFD0CF584C4A39BECB6A5BB1FC20ED00D153842FE329B3D63B52A05A6E1B1A2C830975B227EBE28012079A059618C323C7041531D871F1E5A534CCF73F362693FDB7C072A49CAFA2D4ADF04759FA7DC982CA76ABD7FE2B670130C56F6BF27B777C63

/-- The inverse S-box as one number. -/
def invSboxNum : Nat := 0x7D0C2155631469E126D677BA7E042B17619953833CBBEBC8B0F52AAE4D3BE0A0EF9CC9939F7AE52D0D4AB519A97F51605FEC8027591012B131C7078833A8DD1FF45ACD78FEC0DB9A2079D2C64B3E56FC1BBE18AA0E62B76F89C5291D711AF1476EDF751CE837F9E28535ADE72274AC9673E6B4F0CECFF297EADC674F4111913A6B8A130103BDAFC1020F3FCA8F1E2CD00645B3B80558E4F70AD3BC8C00ABD890849D8DA75746155EDAB9EDFD5048706C92B6655DCC5CA4D41698688664F6F87225D18B6D49A25B76B224D92866A12E084EC3FA420B954CEE3D23C2A632947B54CBE9DEC444438E3487FF2F9B8239E37CFBD7F3819EA340BF38A53630D56A0952

/-- SubBytes of a byte. -/
def sbox (a : Nat) : Nat := (sboxNum >>> (8 * a)) % 256
/-- The inverse of SubBytes. -/
def invSbox (a : Nat) : Nat := (invSboxNum >>> (8 * a)) % 256

/-- The key schedule, words newest first, n further words, i the index of the next word. -/
def aesExpand (nk : Nat) : Nat → Nat → Nat → List (List Nat) → List (List Nat)
  | 0, _, _, ws => ws
  | n + 1, i, rc, ws =>
    let t := ws.getD 0 []
    let p := ws.getD (nk - 1) []
    let t' := if i % nk = 0 then
        match (t.drop 1 ++ t.take 1).map sbox with
        | x :: r => (x ^^^ rc) :: r
        | [] => []
      else if nk > 6 && i % nk = 4 then t.map sbox
      else t
    aesExpand nk n (i + 1) (if i % nk = 0 then xtime rc else rc) (List.zipWith (· ^^^ ·) p t' :: ws)

/-- A list cut in pieces of four, n pieces. -/
def quads : Nat → List Nat → List (List Nat)
  | 0, _ => []
  | n + 1, l => l.take 4 :: quads n (l.drop 4)

/-- The round keys, 16 bytes each, in order. -/
def aesKeys (key : Bytes) : List (List Nat) :=
  let nk := key.length / 4
  let ws := (aesExpand nk (4 * (nk + 7) - nk) nk 1 (quads nk (key.map (·.toNat))).reverse).reverse
  (List.range (nk + 7)).map fun r => ((ws.drop (4 * r)).take 4).flatten

/-- ShiftRows on the 16 bytes in column order; k = 1 forward, 3 inverse. -/
def shiftRows (k : Nat) (s : List Nat) : List Nat :=
  (List.range 16).map fun i => s.getD ((i + 4 * (k * (i % 4))) % 16) 0

/-- MixColumns with the coefficients of the first row. -/
def mixColumns (m : List Nat) (s : List Nat) : List Nat :=
  (List.range 16).map fun i =>
    (List.range 4).foldl (fun a j => a ^^^ gmul 8 (s.getD (4 * (i / 4) + j) 0) (m.getD ((j + 4 - i % 4) % 4) 0)) 0

/-- AddRoundKey. -/
def addKey (k s : List Nat) : List Nat := List.zipWith (· ^^^ ·) s k

/-- The encryption of one block under expanded keys. -/
def aesEncK (ks : List (List Nat)) (b : Bytes) : Bytes :=
  let s := addKey (ks.headD []) (b.map (·.toNat))
  let s := ((ks.drop 1).dropLast).foldl
    (fun s k => addKey k (mixColumns [2, 3, 1, 1] (shiftRows 1 (s.map sbox)))) s
  (addKey (ks.getLastD []) (shiftRows 1 (s.map sbox))).map (BitVec.ofNat 8)

/-- The decryption of one block under expanded keys. -/
def aesDecK (ks : List (List Nat)) (b : Bytes) : Bytes :=
  let s := addKey (ks.getLastD []) (b.map (·.toNat))
  let s := ((ks.drop 1).dropLast).reverse.foldl
    (fun s k => mixColumns [14, 11, 13, 9] (addKey k ((shiftRows 3 s).map invSbox))) s
  (addKey (ks.headD []) ((shiftRows 3 s).map invSbox)).map (BitVec.ofNat 8)

/-- AES encryption of one block. -/
def aesEnc (key b : Bytes) : Bytes := aesEncK (aesKeys key) b
/-- AES decryption of one block. -/
def aesDec (key b : Bytes) : Bytes := aesDecK (aesKeys key) b

/-- ECB over n blocks with block function f. -/
def ecb (f : Bytes → Bytes) : Nat → Bytes → Bytes
  | 0, _ => []
  | n + 1, b => f (b.take 16) ++ ecb f n (b.drop 16)

/-- CBC encryption over n blocks. -/
def cbcEnc (f : Bytes → Bytes) : Nat → Bytes → Bytes → Bytes
  | 0, _, _ => []
  | n + 1, iv, b => let c := f (xorBytes iv (b.take 16)); c ++ cbcEnc f n c (b.drop 16)

/-- CBC decryption over n blocks. -/
def cbcDec (f : Bytes → Bytes) : Nat → Bytes → Bytes → Bytes
  | 0, _, _ => []
  | n + 1, iv, b => xorBytes iv (f (b.take 16)) ++ cbcDec f n (b.take 16) (b.drop 16)

/-- The low w bytes of a counter block incremented. -/
def incCtr (w : Nat) (c : Bytes) : Bytes :=
  c.take (16 - w) ++ beBytes w ((beNat (c.drop (16 - w)) + 1) % 256 ^ w)

/-- CTR over at most n blocks, the counter in the low w bytes. -/
def ctrMode (f : Bytes → Bytes) (w : Nat) : Nat → Bytes → Bytes → Bytes
  | 0, _, _ => []
  | n + 1, c, b => xorBytes (f c) (b.take 16) ++ ctrMode f w n (incCtr w c) (b.drop 16)

/-- Blocks of 16 that b fills, the last perhaps partial. -/
def blocks16 (b : Bytes) : Nat := (b.length + 15) / 16

/-- b padded with zero bytes to a multiple of 16. -/
def pad16 (b : Bytes) : Bytes := b ++ List.replicate (16 * blocks16 b - b.length) 0

/-- The doubling of CMAC (SP 800-38B). -/
def cmacDbl (b : Bytes) : Bytes :=
  let n := 2 * beNat b
  beBytes 16 (if n < 2 ^ 128 then n else (n % 2 ^ 128) ^^^ 0x87)

/-- AES-CMAC, 16 bytes. -/
def cmac (key b : Bytes) : Bytes :=
  let f := aesEncK (aesKeys key)
  let k1 := cmacDbl (f (List.replicate 16 0))
  let n := max 1 (blocks16 b)
  let last := b.drop (16 * (n - 1))
  let last := if last.length = 16 then xorBytes last k1
    else xorBytes (last ++ [0x80] ++ List.replicate (15 - last.length) 0) (cmacDbl k1)
  let c := cbcEnc f n (List.replicate 16 0) (b.take (16 * (n - 1)) ++ last)
  c.drop (16 * (n - 1))

/-- The product in GF(2^128) of GCM, n bits of x from the top; v the running multiple of y. -/
def ghashMul : Nat → Nat → Nat → Nat
  | 0, _, _ => 0
  | n + 1, x, v =>
    (if x.testBit n then v else 0)
      ^^^ ghashMul n x (if v % 2 = 1 then (v / 2) ^^^ (0xE1 * 2 ^ 120) else v / 2)

/-- GHASH over n blocks. -/
def ghash (h : Nat) : Nat → Nat → Bytes → Nat
  | 0, y, _ => y
  | n + 1, y, b => ghash h n (ghashMul 128 (y ^^^ beNat (b.take 16)) h) (b.drop 16)

/-- The GCM tag of 16 bytes with a 12-byte IV (SP 800-38D). -/
def gcmTag (key iv aad c : Bytes) : Bytes :=
  let f := aesEncK (aesKeys key)
  let h := beNat (f (List.replicate 16 0))
  let d := pad16 aad ++ pad16 c ++ beBytes 8 (8 * aad.length) ++ beBytes 8 (8 * c.length)
  xorBytes (beBytes 16 (ghash h (d.length / 16) 0 d)) (f (iv ++ [0, 0, 0, 1]))

/-- GCM encryption or decryption of the data (the same counter stream). -/
def gcmCrypt (key iv b : Bytes) : Bytes :=
  ctrMode (aesEncK (aesKeys key)) 4 (blocks16 b) (iv ++ [0, 0, 0, 2]) b

/-- A list cut in pieces of eight bytes, n pieces. -/
def oct : Nat → Bytes → List Bytes
  | 0, _ => []
  | n + 1, b => b.take 8 :: oct n (b.drop 8)

/-- One pass of the wrap over the registers; t the step number of the first. -/
def kwPass (f : Bytes → Bytes) : Nat → Bytes → List Bytes → Bytes × List Bytes
  | _, a, [] => (a, [])
  | t, a, r :: rs =>
    let b := f (a ++ r)
    let (a', rs') := kwPass f (t + 1) (xorBytes (b.take 8) (beBytes 8 t)) rs
    (a', b.drop 8 :: rs')

/-- Key wrap of RFC 3394 with initial value iv. -/
def kwWrap (key iv p : Bytes) : Bytes :=
  let f := aesEncK (aesKeys key)
  let n := p.length / 8
  let (a, rs) := (List.range 6).foldl (fun x j => kwPass f (n * j + 1) x.1 x.2) (iv, oct n p)
  a ++ rs.flatten

/-- One pass of the unwrap, registers last first; t the step number of the first taken. -/
def kwUnPass (f : Bytes → Bytes) : Nat → Bytes → List Bytes → Bytes × List Bytes
  | _, a, [] => (a, [])
  | t, a, r :: rs =>
    let b := f (xorBytes a (beBytes 8 t) ++ r)
    let (a', rs') := kwUnPass f (t - 1) (b.take 8) rs
    (a', b.drop 8 :: rs')

/-- Key unwrap of RFC 3394: the initial value found and the plaintext. -/
def kwUnwrap (key c : Bytes) : Bytes × Bytes :=
  let f := aesDecK (aesKeys key)
  let n := c.length / 8 - 1
  let (a, rs) := (List.range 6).foldl (fun x j => kwUnPass f (n * (6 - j)) x.1 x.2) (c.take 8, (oct n (c.drop 8)).reverse)
  (a, rs.reverse.flatten)

/-- Key unwrap with padding of RFC 5649: the plaintext, or none when a check fails. -/
def kwpUnwrap (key c : Bytes) : Option Bytes :=
  let (a, p) := if c.length = 16 then
      let b := aesDec key c
      (b.take 8, b.drop 8)
    else kwUnwrap key c
  let m := beNat (a.drop 4)
  if c.length % 8 = 0 && 16 ≤ c.length && a.take 4 = [0xA6, 0x59, 0x59, 0xA6] && m ≤ p.length && p.length < m + 8
      && (p.drop m).all (· = 0) then some (p.take m) else none

/-- Key wrap with padding of RFC 5649. -/
def kwpWrap (key p : Bytes) : Bytes :=
  let q := p ++ List.replicate ((8 - p.length % 8) % 8) 0
  let iv := [0xA6, 0x59, 0x59, 0xA6] ++ beBytes 4 p.length
  if q.length = 8 then aesEnc key (iv ++ q) else kwWrap key iv q

end Sys2Proof.Machine
end

