-- ==== Sys2Proof/Config.lean ====
section
/-! DEFINITION. What an implementation fixes and the spec leaves open: free functions with no body, so that no
proof can see a value of one (logs 8, 9, 11, 12, 20, 40, 41, 88). -/
namespace Sys2Proof

/-- Content of the 192 KiB mask ROM (01 R20): the spec gives none of it (log 8). -/
opaque Config.romByte : Nat → Byte
/-- The n-th free byte of a run (log 9): torn flash, the output of a partial overlap (12 R290). -/
opaque Config.freeByte : Nat → Nat → Byte
/-- The value a PKE operation writes when its operands break its conditions (12 R308), as limbs (log 9). -/
opaque Config.pkeUnspecified : Nat → Nat
/-- How a private scalar below the group order is formed from DRBG output (12 R309; log 12): curve, output. -/
opaque Config.scalarFrom : Nat → Bytes → Nat
/-- How the ECDSA nonce is formed from DRBG output (15 R372; log 12): curve, output. -/
opaque Config.nonceFrom : Nat → Bytes → Nat
/-- ML-DSA-65 (FIPS 204), which the spec names and does not spell out (log 11): public key of a seed. -/
opaque Config.mlDsaPub : Bytes → Bytes
/-- ML-DSA-65 signature: seed, context, message, rnd; `none` when 64 attempts were rejected (12, "keeps rejecting"). -/
opaque Config.mlDsaSign : Bytes → Bytes → Bytes → Bytes → Option Bytes
/-- ML-DSA-65 verification: public key, context, message, signature. -/
opaque Config.mlDsaVerify : Bytes → Bytes → Bytes → Bytes → Bool
/-- RSA verify accepts a PSS signature too: the spec does not state which padding 0x2B verifies (log 40). -/
opaque Config.rsaPss : Bool
/-- RSA-OAEP decryption that fails completes with DENIED, else with ABORTED: the spec states no status (log 41). -/
opaque Config.oaepDenied : Bool
/-- The mask-ROM factory key digest (06 R153, 15 R381): 32 bytes the spec does not give. -/
opaque Config.factoryDigest : Bytes
/-- The service ABI version that QUERY returns in a1[15:0] (07 R171): not given. -/
opaque Config.serviceAbi : BitVec 16
/-- Text of the mask-ROM banner on the UART (00 R3): not given. -/
opaque Config.banner : Bytes

/-- 4 KiB sectors of flash device k, as its SFDP gives them at K7 (16 R385, R392): the board's choice (log 20). -/
opaque Config.flashSectors : Nat → Nat
/-- TMP_VBAT (17): VBAT as measured in this second of TMP_BSEC; the supply is the board's (log 9). -/
opaque Config.vbatMeasured : Word → BitVec 10
/-- SNF_VNOW (17): VSNUFF as measured in this second of TMP_BSEC, at this part of it (log 9). -/
opaque Config.vsnuffMeasured : Word → Nat → Nat
/-- The level that a broken mesh returns to its sample point (17 R404): mesh, second, part of it (log 113). -/
opaque Config.meshReturn : Nat → Word → Nat → Bool
/-- SPI1_GPIO_IN (16): the levels that the board puts on the pins at this tick and sub-tick count (log 9). -/
opaque Config.gpioPins : Word → Nat → Byte
/-- The byte of the 8 of a generate call's additional input to which R319 gives no content (log 88). -/
opaque Config.addPad : Byte
/-- Whether that byte stands before the request ID or after it (log 88). -/
opaque Config.addPadFirst : Bool
/-- The SFDP bytes and the status register of a flash device (16 R385): device, offset (log 20). -/
opaque Config.flashInfo : Nat → Nat → Byte

end Sys2Proof
end

