-- ==== Sys2Proof/Machine/Tab.lean ====
section
/-! DEFINITION. Sparse tables in one canonical form: a list of key and value pairs, keys strictly rising, no entry equal
to what an unlisted key reads as. Memories, register files and descriptor tables of the State are such lists. -/
namespace Sys2Proof.Machine

/-- A sparse table. -/
abbrev Tab (α : Type) := List (Nat × α)

/-- The value at key k: the listed one, else the default d. -/
def tget {α : Type} (d : α) : Tab α → Nat → α
  | [], _ => d
  | (j, v) :: t, k => if j = k then v else tget d t k

/-- The table without key k. -/
def tdel {α : Type} : Tab α → Nat → Tab α
  | [], _ => []
  | (j, v) :: t, k => if j = k then tdel t k else (j, v) :: tdel t k

/-- Insertion of a key that is not listed, in key order. -/
def tins {α : Type} : Tab α → Nat → α → Tab α
  | [], k, v => [(k, v)]
  | (j, w) :: t, k, v => if k < j then (k, v) :: (j, w) :: t else (j, w) :: tins t k v

/-- The table with value v at key k; a value equal to the default is not listed. -/
def tput {α : Type} [DecidableEq α] (d : α) (t : Tab α) (k : Nat) (v : α) : Tab α :=
  if v = d then tdel t k else tins (tdel t k) k v

/-- All listed keys lie above k, strictly rising. -/
def tabove {α : Type} : Nat → Tab α → Bool
  | _, [] => true
  | k, (j, _) :: t => k < j && tabove j t

/-- Keys strictly rising. -/
def tsorted {α : Type} : Tab α → Bool
  | [] => true
  | (j, _) :: t => tabove j t

/-- The canonical form: keys strictly rising and no value equal to the default. -/
def twf {α : Type} [DecidableEq α] (d : α) (t : Tab α) : Bool :=
  tsorted t && t.all (fun p => p.2 ≠ d)

/-- n values from key k on. -/
def tgetN {α : Type} (d : α) (t : Tab α) (k : Nat) : Nat → List α
  | 0 => []
  | n + 1 => tget d t k :: tgetN d t (k + 1) n

/-- Values written from key k on. -/
def tputN {α : Type} [DecidableEq α] (d : α) (t : Tab α) (k : Nat) : List α → Tab α
  | [] => t
  | v :: vs => tputN d (tput d t k v) (k + 1) vs

/-- n copies of the default from key k on: the keys k to k + n - 1 are unlisted. -/
def tclear {α : Type} (t : Tab α) (k n : Nat) : Tab α :=
  t.filter (fun p => p.1 < k || k + n ≤ p.1)

end Sys2Proof.Machine
end

