-- ==== Sys2Proof/Machine/State.lean ====
section
/-! DEFINITION. The state of the AXV7480 as plain data, one structure per block. Each field's default is its value
right after a power-on reset of a factory-fresh part (log 3); a default the spec does not give is named in log 4. -/
namespace Sys2Proof.Machine

/-- A device timestamp tick:count (R11). -/
structure Stamp where
  tick : Word := 0
  count : Nat := 0
deriving DecidableEq, Repr, Inhabited

/-- The eight modes (R65). -/
inductive Mode where
  | off | vigil | kindle | service | dim | debug | recovery | snuffed
deriving DecidableEq, Repr, Inhabited

/-- The four lifecycle states (R67). -/
inductive Lc where
  | blank | provisioned | commissioned | retired
deriving DecidableEq, Repr, Inhabited

/-- The debug states (R70). -/
inductive Dbg where
  | closed | authenticated | opened
deriving DecidableEq, Repr, Inhabited

/-- The lock states of the beacon (R43). -/
inductive Lock where
  | free | acquire | locked | holdover
deriving DecidableEq, Repr, Inhabited

/-- What an event of the arbiter is: a recorder entry for one or both channels, an MSI-X interrupt, or an ALARM_N
change (R37, R425). -/
inductive EvKind where
  | entry (sec diag : Bool)
  | irq (fn vec : Nat)
  | alarm (on : Bool)
deriving DecidableEq, Repr

/-- An event on its way to the arbiter (R425, R432). -/
structure Event where
  kind : EvKind
  src : Nat := 0
  code : Nat := 0
  who : Nat := 0
  arg : Bytes := []
deriving DecidableEq, Repr

/-- A trip candidate: function, ring, slot and observation stamp (R51). -/
structure Cand where
  fn : Nat
  ring : Nat
  slot : Half
  obs : Stamp
deriving DecidableEq, Repr

/-- The three class budgets of an engine group, in quanta per tick (R53). -/
structure Bud where
  protect : Nat := 0
  bulk : Nat := 0
  admin : Nat := 0
deriving DecidableEq, Repr

/-- GLB_: beacon, tokens, budgets, event arbiter. -/
structure Glb where
  run : Bool := false
  period : Nat := 3
  pol : Bool := false
  src : Nat := 0
  maxwait : Nat := 4
  maxwaitSh : Nat := 4
  stray : Nat := 0
  budErr : Bool := false
  miss : Nat := 0
  fircTb : Bool := false
  lock : Lock := .free
  acq : Nat := 0
  tick : Word := 0
  sub : Nat := 0
  subLatch : Nat := 0
  phaseErr : Int := 0
  rate : Int := 0
  lastSync : Option Stamp := none
  /-- the tick whose edge stood nearest the last accepted SYNC_IN edge, from which the next is expected (R42) -/
  syncRef : Word := 0
  overrun : Nat := 0
  carriedStat : Nat := 0
  tokens : Nat := 24
  used : Tab Nat := []
  caps : List Nat := List.replicate 16 24
  capsSh : List Nat := List.replicate 16 24
  capsCommit : Option (List Nat) := none
  bud : List Bud := [⟨16, 12, 4⟩, ⟨16, 8, 8⟩, ⟨8, 8, 16⟩]
  budSh : List Bud := [⟨16, 12, 4⟩, ⟨16, 8, 8⟩, ⟨8, 8, 16⟩]
  budCommit : Option (List Bud) := none
  budNow : List Bud := [⟨16, 12, 4⟩, ⟨16, 12, 4⟩, ⟨16, 12, 4⟩, ⟨16, 12, 4⟩, ⟨16, 8, 8⟩, ⟨16, 8, 8⟩, ⟨8, 8, 16⟩, ⟨8, 8, 16⟩]
  rr : Tab Nat := []
  tripLat : Nat := 0
  carried : List Cand := []
  overruns : List Cand := []
  arbSeq : Nat := 0
  arbDrop : Nat := 0
  queue : List Event := []
  heldRep : List Event := []
  lost : Bool := false
  /-- a device reset has lost queued events, which the next entry written, of either channel, shows with LOST (18, At the
  edges) -/
  lostRst : Bool := false
deriving DecidableEq, Repr

/-- MODE_: mode, debug state, announcements, resets, supplies. -/
structure ModeSt where
  mode : Mode := .kindle
  hold : Bool := false
  rootlock : Bool := false
  testroot : Bool := false
  port : Bool := false
  dbg : Dbg := .closed
  dimEn : Bool := false
  cause : Nat := 0
  causeFrom : Nat := 0
  causeTo : Nat := 2
  causeTick : Word := 0
  annCause : Nat := 0
  annLen : Nat := 0
  annIn : Bool := false
  annStart : Word := 0
  recovReq : Bool := false
  nrstHold : Nat := 0
  devrst : Nat := 0
  wdtLock : Bool := false
  wdtTimeout : Nat := 0xFFFF
  wdtCount : Nat := 0
  wdtFrac : Nat := 0
  wdtStep : Option Nat := none
  vddioA : BitVec 2 := 2
  vddioB : BitVec 2 := 2
  vpp : VppState := .absent
  vbatOk : Bool := false
  vsnuffOk : Bool := false
  kindleTime : Nat := 0
  kindleStep : Nat := 0
  kindleFail : Nat := 0
  vbatIn : Bool := true
  nrstLow : Bool := false
  inReset : Bool := false
  /-- a pending DIM entry: edges left (R80) -/
  dimPend : Option Nat := none
  /-- the stamp of a wake trigger observed in DIM (R107) -/
  wake : Option Stamp := none
  wakeCause : Nat := 0
  /-- the debug level a debug switch waits to grant (M8) -/
  dbgPend : Option Dbg := none
  /-- KINDLE has run its steps K1 to K12 and RUN was written (R101) -/
  kindled : Bool := false
  pairOk : Bool := false
  vrFail : Bool := false
  katFail : List Nat := []
  gatedEng : List Nat := []
  /-- SERVICE-HOLD has cleared; admission resumes at the next tick edge (R129) -/
  resume : Bool := false
  /-- the answer of the last debug access: an error, or its data (08 R209) -/
  jtagErr : Bool := false
  jtagData : Bytes := []
deriving DecidableEq, Repr

/-- The settings of a PLL (R117): PREDIV − 1, ODIV, NDIV. -/
structure PllCfg where
  prediv : Nat := 0
  odiv : Nat
  ndiv : Nat
deriving DecidableEq, Repr

/-- The derived-clock dividers of PLLB (R118): SPIDIV − 1, CANDIV, FABDIV − 1, ENGDIV − 1. -/
structure DivCfg where
  spi : Nat := 1
  can : Nat := 6
  fab : Nat := 1
  eng : Nat := 0
deriving DecidableEq, Repr

/-- A relock: which PLL, its start tick, and whether it has started and ended (R123, R124). -/
structure Relock where
  pll : Pll
  start : Word
  started : Bool := false
  /-- its ramp has reached ÷1, or it has failed, and its announced window is not over (R124, R127) -/
  ended : Bool := false
deriving DecidableEq, Repr

/-- CLK_. -/
structure Clk where
  xaFb : Bool := false
  xaLost : Bool := false
  xbFb : Bool := false
  lockA : Bool := false
  lockB : Bool := false
  selA : Bool := false
  selB : Bool := false
  lolA : Bool := false
  lolB : Bool := false
  relock : Option Relock := none
  xaSettle : Nat := 1250
  xbSettle : Nat := 0xFFFF
  xaCount : Nat := 0
  xbCount : Nat := 0
  pllA : PllCfg := { odiv := 2, ndiv := 0x40 }
  pllAAct : PllCfg := { odiv := 2, ndiv := 0x40 }
  pllB : PllCfg := { odiv := 5, ndiv := 0x60 }
  pllBAct : PllCfg := { odiv := 5, ndiv := 0x60 }
  div : DivCfg := {}
  divAct : DivCfg := {}
  relockTick : Word := 0
  retryEn : Bool := true
  degrade : Bool := false
  gate : BitVec 22 := 0xE40FF
  trimSrc : Nat := 4
  trimSh : Nat := 4
  trimUsed : Nat := 0
  trimErr : Int := 0
  trimCode : Nat := 0x80
  rampA : Nat := 1
  rampB : Nat := 1
  attA : Bool := false
  attB : Bool := false
  /-- the reference in kHz of PLLB's active settings (R117) -/
  refBAct : Nat := 25000
  /-- XA has been lost and no relock of the PLL has started since: its next attempt takes the fallback row (R130) -/
  fbA : Bool := false
  fbB : Bool := false
  rootGated : Bool := false
  xaUsed : Bool := false
deriving DecidableEq, Repr

/-- A fuse word's three readings: nominal, low and high reference (R137, R138). -/
structure FuseWord where
  nom : Word := 0
  low : Word := 0
  high : Word := 0
deriving DecidableEq, Repr

/-- A running programming operation (R146): the copy words still to do, the bits, pulses given to the first. -/
structure PgmOp where
  words : List Nat
  bits : Word
  pulses : Nat := 0
  /-- the operation runs under the two-key latch (R145) -/
  latched : Bool := false
deriving DecidableEq, Repr

/-- FUS_. -/
structure Fus where
  cells : Tab FuseWord := []
  /-- LC and DBGDIS words in force (R140) -/
  lcW : Word := 0
  disW : Word := 0
  lc : Lc := .blank
  dbgdis : Bool := false
  tmpdis : BitVec 13 := 0
  rbc : BitVec 64 := 0
  /-- words of CUSCTL as resolved, by slot (R140) -/
  cusCtl : Tab Word := []
  /-- custodian digests, 32 bytes, by slot -/
  cusDig : Tab Bytes := []
  cusMarg : BitVec 8 := 0
  dur : Bytes := []
  vimg : Bytes := []
  vtok : Bytes := []
  cfgk : Bytes := []
  serial : Bytes := []
  held : Bool := false
  passes : Nat := 0
  pgmFail : Bool := false
  keyDrift : Bool := false
  vote : Bool := false
  secMarg : Bool := false
  tightened : Bool := false
  marginal : Bool := false
  rereadRun : Bool := false
  rereadNext : Nat := 0
  rereadQ : Bool := false
  /-- a tick edge has come since the queued pass was triggered (R143) -/
  rereadDue : Bool := false
  /-- the fields pinned at their ROM defaults for the power cycle, by TYPE; 0 stands for the trim centre of word 448
  (R142) -/
  pins : List Nat := []
  sincePass : Nat := 0
  rdAddr : Nat := 0
  pgmAddr : Nat := 0
  pgmData : Word := 0
  temp : Int := 25
  band : Int := 2
  pgm : Option PgmOp := none
  nrstStop : Bool := false
deriving DecidableEq, Repr

/-- A snapshot trigger record (R433). -/
structure SnapRec where
  src : Nat
  code : Nat
  regs : List Nat
deriving DecidableEq, Repr

/-- CFG_. -/
structure Cfg where
  fail : Nat := 0
  range : Bool := false
  pinned : Bool := false
  copy : Bool := false
  valid : Bool := false
  seq : Word := 0
  srcSel : Nat := 1
  /-- source of a TLV type: 0 ROM, 1 fuse, 2 image, 3 pinned; bit 8 is LOCKED (CFG_SRC) -/
  src : Tab Nat := []
  quota : List Nat := List.replicate 16 0
  pcie : Word := 0xFE
  snap : List SnapRec := []
deriving DecidableEq, Repr

/-- An access as the checks see it (R199, R208). kind: 0 read, 1 write, 2 fetch, 3 table-walk read. -/
structure Acc where
  init : Nat
  kind : Nat
  addr : Nat
  size : Nat
  secure : Bool
  level : Nat
  owner : Nat
  encl : Option Nat := none
deriving DecidableEq, Repr

/-- An MPU region (MPU_RBASE, RLIMIT, RATTR). -/
structure Region where
  base : Word := 0
  limit : Word := 0
  attr : Word := 0
deriving DecidableEq, Repr

/-- One initiator's MPU. -/
structure MpuUnit where
  en : Bool := false
  faults : Nat := 0
  fsyn : Word := 0
  faddr : Word := 0
  regions : Tab Region := []
deriving DecidableEq, Repr

/-- MPU_. -/
structure MpuSt where
  units : Tab MpuUnit := []
  /-- the tick of an initiator's last logged refusal, plus one (R211) -/
  logged : Tab Nat := []
  /-- accesses stalled here, with their attributes, oldest first -/
  stalled : List (BusReq × Acc) := []
deriving DecidableEq, Repr

/-- A firewall rule (FWL_RANGE, FWL_KEY). -/
structure FwRule where
  range : Word := 0
  key : Word := 0
deriving DecidableEq, Repr

/-- FWL_. Key of a rule: 8 × target + rule. -/
structure Fwl where
  rules : Tab FwRule := []
  edit : Tab FwRule := []
  hold : BitVec 26 := 0
  fsyn : Word := 0
  faddr : Word := 0
  faults : Nat := 0
  /-- accesses stalled here, with their attributes, oldest first -/
  stalled : List (BusReq × Acc) := []
deriving DecidableEq, Repr

/-- A key slot's header and sealed body (R216, R217). STATE and ROOT as coded there. -/
structure Slot where
  owner : Nat := 0
  usage : Nat := 0
  exp : Bool := false
  alg : Nat := 0
  state : Nat := 0
  root : Nat := 0
  assoc : Nat := 0
  role : Nat := 0
  sn : Nat := 0
  body : Bytes := []
deriving DecidableEq, Repr

/-- A hot-cache entry (R234): material, the slot it mirrors, PIN and STAGED, with the slot header copied. -/
structure CacheEnt where
  /-- its number among the 512 entries, by which a lane entry names it (12 R289) -/
  idx : Nat := 0
  slot : Nat
  hdr : Slot
  mat : Bytes
  pin : Bool := false
  staged : Bool := false
deriving DecidableEq, Repr

/-- A season schedule (R231). -/
structure Season where
  assoc : Nat
  x : Word
  ovlen : Nat
  opened : Bool := false
  rolled : Bool := false
deriving DecidableEq, Repr

/-- What becomes of a PENDING or ARMED slot (R229): the role asked for and, for a replacement, the slot it replaces. -/
structure KeyOp where
  slot : Nat
  assoc : Nat
  /-- 0 new key, 1 next key of a season, 2 replacement of the current key -/
  kind : Nat
  old : Option Nat := none
  armed : Bool := false
  kcv : Bytes := []
  /-- the tick at which a generated key's wait for KEY_COMMIT ends (R378) -/
  deadline : Option Word := none
  pinned : Bool := false
deriving DecidableEq, Repr

/-- An association (R226, R377). -/
structure Assoc where
  owner : Nat
  usage : Nat
  alg : Nat
  mirror : Bool := false
deriving DecidableEq, Repr

/-- The derived keys of one owner's branch (R216a, R224). -/
structure Branch where
  sealK : Bytes := []
  dbwrap : Bytes := []
deriving DecidableEq, Repr

/-- VLT_. -/
structure Vlt where
  vr : Bytes := List.replicate 32 0
  vrchk : Bytes := List.replicate 16 0
  epochs : List Word := List.replicate 16 0
  exist : BitVec 16 := 0
  slots : Tab Slot := []
  cache : List CacheEnt := []
  quar : List Nat := []
  zTry : List Nat := []
  vrOk : Bool := false
  schedLost : Bool := false
  zfail : Bool := false
  root : Nat := 0
  branches : Tab Branch := []
  ownSel : Nat := 0
  seasonSel : Nat := 0
  pincap : List Nat := List.replicate 16 0x1C0
  pincapSh : List Nat := List.replicate 16 0x1C0
  evict : Nat := 0
  seasons : List Season := []
  keyOps : List KeyOp := []
  /-- slots whose return gives an owner its spare back (R220): owner and slot -/
  spare : Tab Nat := []
  unpin : List Nat := []
  assocs : Tab (Option Assoc) := []
deriving DecidableEq, Repr

/-- The two-key latch (R249). -/
structure Latch where
  isSet : Bool := false
  op : Nat := 0
  slotA : Nat := 0
  slotB : Nat := 0
  reqNo : Word := 0
  /-- the locked record that the run checked, and whether it takes the commissioning form (R250, R260) -/
  record : Bytes := []
  form : Bool := false
  /-- consumed by an operation that keeps it set to its end (R251) -/
  used : Bool := false
deriving DecidableEq, Repr

/-- CUS_. -/
structure Cus where
  reqOpen : Bool := false
  req : Bytes := List.replicate 112 0
  reqNo : Word := 0
  win : Nat := 0x249F00
  result : Nat := 0
  which : Bool := false
  latch : Latch := {}
  cand : Tab Bytes := []
  candCfgk : Bytes := List.replicate 32 0
  candMask : BitVec 8 := 0
  candLock : Bool := false
  /-- the open request takes the commissioning form (R248, R260), settled at its COMMIT -/
  form : Bool := false
  /-- a custody-verify run: 0 none, 1 waiting for PKE0, 2 running, 3 stopping at its next quantum boundary -/
  run : Nat := 0
  /-- the RESULT with which a stopping run ends (R263, R264) -/
  stopRes : Nat := 0xA
  /-- the approvals kept for the open request, as received -/
  approvals : List Bytes := []
  state : Nat := 4
  repTicks : Nat := 0
deriving DecidableEq, Repr

/-- A transmit buffer (R269, R270). -/
structure TxBuf where
  frame : CanFrame := ⟨0, true, true, true, 0, [], false⟩
  stamp : Stamp := {}
  pend : Bool := false
  done : Bool := false
  noAck : Bool := false
  aborted : Bool := false
  tries : Nat := 0
  otherErr : Bool := false
  abortReq : Bool := false
  /-- requested in DIM, so not offered before the wake (R286) -/
  late : Bool := false
deriving DecidableEq, Repr

/-- An entry of the receive FIFO (R271). -/
structure RxEnt where
  frame : CanFrame
  stamp : Stamp
deriving DecidableEq, Repr

/-- A CAN controller. -/
structure CanCh where
  mode : Nat := 0
  borAuto : Bool := true
  retry : Nat := 16
  nbt : Word := 0x007E1F1F
  dbt : Word := 0x00A01E77
  tec : Nat := 0
  recv : Nat := 0
  conflict : Bool := false
  alone : Bool := false
  borRun : Bool := false
  state : Nat := 0
  rxovf : Bool := false
  parked : Bool := false
  synced : Bool := false
  disc : Nat := 0
  rxlost : Nat := 0
  tx : Tab TxBuf := []
  onBus : Option Nat := none
  stopReq : Bool := false
  fifo : List RxEnt := []
  fltId : Tab Word := []
  fltMask : Tab Word := []
deriving DecidableEq, Repr

/-- The Voeth state towards one node of one channel (R276 to R280). -/
structure Peer where
  isOpen : Bool := false
  lost : Bool := false
  ownAcked : Bool := false
  gotHello : Bool := false
  exp : Nat := 0
  nextSeq : Nat := 0
  /-- unacknowledged DATA frames: SEQ and data field -/
  unacked : List (Nat × Bytes) := []
  queue : List Bytes := []
  rounds : Nat := 0
  ackDue : Bool := false
  /-- the partial message: TYPE, next FRAG, NFRAG and the bytes so far -/
  part : Option (Nat × Nat × Nat × Bytes) := none
  /-- NONCE of the own HELLO and of the peer's (R280, R282) -/
  ownNonce : Bytes := []
  peerNonce : Bytes := []
  /-- START of the own HELLO; with no ownNonce there is none -/
  ownStart : Nat := 0
  /-- ticks since the oldest unacknowledged frame was sent (R277) -/
  rto : Nat := 0
  /-- a HELLO waits for random output, the keys or the wake (R280, R282) -/
  helloDue : Bool := false
deriving DecidableEq, Repr

/-- A message assembled from its fragments and not yet acted on (R276): channel, sender, TYPE, payload, and the
start-of-frame stamp of its last frame. -/
structure Msg where
  ch : Nat
  node : Nat
  typ : Nat
  pay : Bytes
  stamp : Stamp
deriving DecidableEq, Repr

/-- A season proposal, or a cancel, that waits for the twin's answer (R284). -/
structure Proposal where
  assoc : Nat
  sn : Nat
  x : Word := 0
  ovlen : Nat := 0
  cancel : Bool := false
deriving DecidableEq, Repr

/-- Voeth and the mirror (R276 to R286). Key of a peer: 256 × channel + node. -/
structure Voe where
  peers : Tab Peer := []
  bseq : Nat := 0
  aligned : Bool := false
  offset : Int := 0
  ownAlign : Option Stamp := none
  peerAlign : Option Stamp := none
  tagFail : Nat := 0
  seqFail : Nat := 0
  inbox : List Msg := []
  /-- sources whose flag was set at K8: one ALARM each at the next session on CAN0 (R424) -/
  k8 : BitVec 13 := 0
  /-- season proposals and cancels that wait for the twin's answer (R284) -/
  proposals : List Proposal := []
  /-- ticks since the last HELLO to lost peers, by channel (R280) -/
  helloAge : List Nat := [0, 0]
  alignAge : Nat := 0
  /-- ALIGN messages sent in the session; the first carries no stamp (R283) -/
  alignSent : Nat := 0
  /-- frames that wait for a free transmit buffer: channel and frame -/
  outq : List (Nat × CanFrame) := []
deriving DecidableEq, Repr

/-- An operation in an AES or hash lane's context store (R287, R289). -/
structure LaneOp where
  words : List Word
  cls : Nat
  quanta : Nat := 0
  started : Bool := false
  /-- the key latched at the start (R287, R288) -/
  key : Option Bytes := none
  /-- it ran the engine's last quantum -/
  last : Bool := false
  /-- IV or counter block and expected tag, latched at the start -/
  par : Bytes := []
  /-- the input taken so far: counter, GHASH, CMAC and hash state and the partial block are functions of it -/
  inp : Bytes := []
  /-- output bytes written to DST so far -/
  wrote : Nat := 0
  /-- it breaks a limit of R292 or R295, or an operand access was refused: it ends with ABORTED -/
  bad : Bool := false
  /-- its operand access that stalls (08 R205, R213) -/
  stall : Option Acc := none
deriving DecidableEq, Repr

/-- A job of a fast-path MAC unit (R296 to R298). -/
structure MacJob where
  fn : Nat
  ring : Nat
  slot : Half
  cpl : Nat
  /-- the tag computed -/
  tag : Bytes
  /-- verification outcome -/
  vfy : Bool
  len : Nat
  out : DWord
  adm : Stamp
  /-- status that commits: 0 OK, else a squash -/
  squash : Bool
  /-- the slot whose key the operation holds (R33) -/
  holds : Option Nat := none
deriving DecidableEq, Repr

/-- ENG_. -/
structure Eng where
  units : Tab (Option MacJob) := []
  lanes : Tab (List LaneOp) := []
  post : Tab Word := []
  res : List (List Word) := []
  fpCnt : Nat := 0
  fpSq : Nat := 0
  busy : Tab Nat := []
  /-- quanta of secure firmware housekeeping that wait for lane 0 (02 R54, 13 R318) -/
  house : Nat := 0
deriving DecidableEq, Repr

/-- An operation of a PKE instance (R301, R302). -/
structure PkeOp where
  words : List Word
  cls : Nat
  slots : List Nat := []
  quanta : Nat := 0
  /-- the density latched at the start (R288, R307) -/
  dens : Nat := 4
  /-- a PKE_RAW job: its handle; its block stands in the words after the entry (R305) -/
  raw : Option Nat := none
  /-- it ran the engine's last quantum -/
  last : Bool := false
deriving DecidableEq, Repr

/-- A PKE_RAW job of a partition (R305): its instance, its block and its steps, and the accumulator once it has ended. -/
structure RawJob where
  inst : Nat
  addr : Nat
  steps : Nat
  acc : Option Bytes := none
deriving DecidableEq, Repr

/-- One PKE instance. -/
structure PkeInst where
  resident : List PkeOp := []
  waiting : List PkeOp := []
  alloc : BitVec 48 := 0
  zeroing : List Nat := []
  inf : Bool := false
  cv : Bool := false
  busy : Bool := false
  mem : Tab Byte := []
deriving DecidableEq, Repr

/-- PKE_. -/
structure Pke where
  inst : Tab PkeInst := []
  post : Tab Word := []
  res : List (List Word) := []
  dummyFixed : Bool := false
  density : Nat := 4
  /-- PKE_RAW jobs by partition (R305) -/
  raw : Tab (Option RawJob) := []
deriving DecidableEq, Repr

/-- RNG_. -/
structure Rng where
  run : Bool := false
  restart : Bool := false
  due : Bool := false
  failed : Bool := false
  cause : Nat := 0
  pool : Bytes := []
  tickLog : Nat := 4
  reseedLog : Nat := 10
  reseedCnt : Nat := 0
  reseeds : Nat := 0
  htApt : Nat := 0
  htRct : Nat := 0
  cap : Bool := false
  capData : List Bool := []
  inst : Bool := false
  key : Bytes := []
  v : Bytes := []
  lfsr : BitVec 16 := 0
  /-- shifts since the last sample (R313), samples of the startup or restart test (R316), samples in the block (R317) -/
  phase : Nat := 0
  got : Nat := 0
  blk : List Bool := []
  /-- the health tests: last sample, its run, and the window's position, first sample and count (R315) -/
  lastBit : Bool := false
  runLen : Nat := 0
  winPos : Nat := 0
  winFirst : Bool := false
  winCnt : Nat := 0
  /-- running count of internal generate calls (R319) -/
  calls : Nat := 0
  ticks : Nat := 0
  chal : Option Bytes := none
deriving DecidableEq, Repr

/-- A completion (R348). -/
structure Cpl where
  reqId : Word := 0
  slot : Half := 0
  status : Nat := 0
  orig : Nat := 0
  detail : Half := 0
  outLen : Word := 0
  result : DWord := 0
  tick : Word := 0
  count : Nat := 0
  vfy : Bool := false
  held : Bool := false
  /-- the descriptor asked for no interrupt (R345); not part of the 32 bytes -/
  noIrq : Bool := false
  /-- the ring index of its own descriptor, which orders the holding buffer (R350); SLOT but for a DUP -/
  idx : Half := slot
  /-- its event of R362 is over: a reorder rule held it back -/
  past : Bool := false
deriving DecidableEq, Repr, Inhabited

/-- An entry of a request-ID store (R353). -/
structure StoreEnt where
  hash : Bytes
  cpl : Cpl
deriving DecidableEq, Repr

/-- A fetched descriptor (R344): staged until taken. -/
structure Staged where
  slot : Half
  desc : Bytes
  /-- copies of it that wait to complete with DUP (R354) -/
  dups : List (Half × Bytes) := []
  /-- started before a ring reset: its completion is stored and not written (R358) -/
  muted : Bool := false
deriving DecidableEq, Repr

/-- A ring context (R338 to R354). -/
structure Ring where
  sqBase : DWord := 0
  cqBase : DWord := 0
  hrec : DWord := 0
  irq : Nat := 0
  vec : Nat := 0
  cls : Nat := 3
  log2 : Nat := 4
  en : Bool := false
  state : Nat := 0
  err : Nat := 0
  lost : Nat := 0
  obs : Half := 0
  cons : Half := 0
  cqw : Half := 0
  cqHead : Half := 0
  ctx : Nat := 0
  store : List StoreEnt := []
  holding : List Cpl := []
  staged : List Staged := []
  /-- descriptors taken by firmware, or trip descriptors whose checks passed, not yet completed -/
  running : List Staged := []
  changed : Bool := false
  wrote : Bool := false
  headWr : Bool := false
deriving DecidableEq, Repr

/-- A write that left the device (log 7). -/
inductive OutWrite where
  /-- data to an output buffer in host memory -/
  | data (addr : DWord) (b : Bytes)
  /-- a completion written to entry idx of the CQ of ring r of function fn, with its phase -/
  | cpl (fn r : Nat) (idx : Nat) (phase : Bool) (c : Bytes)
  /-- a head record -/
  | head (fn r : Nat) (b : Bytes)
  /-- an MSI-X message -/
  | msix (fn vec : Nat)
  /-- a byte string on the UART (R3) -/
  | uart (b : Bytes)
deriving DecidableEq, Repr

/-- A function of the endpoint (R335 to R337, R356, R357). -/
structure Fn where
  d3 : Bool := false
  msixEn : Bool := true
  msix : Tab Word := []
  pba : BitVec 64 := 0
  mbxIn : Tab Word := []
  mbxOut : Tab Word := []
  reply : Bool := false
  ctr : Tab Nat := []
deriving DecidableEq, Repr

/-- An admitted trip descriptor (R355). -/
structure Trip where
  fn : Nat
  ring : Nat
  slot : Half
  adm : Stamp
  desc : Option Bytes := none
  /-- the stamp of its doorbell (R51) -/
  obs : Stamp := {}
  /-- the status with which it ends once its descriptor has arrived (R60, R36); 0 while it runs on -/
  ends : Nat := 0
  /-- its ring was reset after the admission (R358) -/
  muted : Bool := false
  /-- the MAC unit that it took when its descriptor passed (12 R297) -/
  unit : Option Nat := none
  /-- the tags of its present reads: none until they are issued (R28, R332) -/
  tags : Option Nat := none
deriving DecidableEq, Repr

/-- What a taken descriptor still waits for before its completion is formed (15 R366 to R382). -/
inductive WaitTag where
  /-- the edge at which this slot is LIVE (R375) -/
  | live (slot : Nat)
  /-- the readback of this slot (KEY_ZEROIZE, R375) -/
  | zeroed (assoc : Nat)
  /-- the DIM entry (R80) -/
  | dim
  /-- the edge that applies the groups (BEACON_SET) -/
  | beacon
  /-- the acknowledge of REQUEST (R246) -/
  | request
  /-- the answer of the twin (R284) -/
  | mirror (assoc : Nat)
  /-- the zeroization of every slot of the owner (R240) -/
  | owner (n : Nat)
  /-- the Snuff of a retirement, with the hardware failure that its fuse blow will meet (10 R261) -/
  | retire (fail : Nat)
deriving DecidableEq, Repr

/-- A descriptor that waits: ring key, slot, and what for. -/
structure Wait where
  key : Nat
  slot : Half
  tag : WaitTag
deriving DecidableEq, Repr

/-- HIF_. Key of a ring: 8 × function + ring. -/
structure Hif where
  fns : Tab Fn := []
  rings : Tab Ring := []
  alloc : List Nat := [8, 0, 0, 0, 0, 0, 0, 0, 0, 0, 0, 0, 0, 0, 0, 0]
  vfEnable : Bool := false
  numVfs : Nat := 0
  ari : Bool := false
  extTag : Bool := false
  linkUp : Bool := false
  width : Nat := 0
  speed : Nat := 0
  badAcc : Nat := 0
  cplW : Tab Word := []
  trips : List Trip := []
  /-- staged descriptors in fetch order: ring key and slot -/
  stgOrder : List (Nat × Half) := []
  /-- descriptors in the order in which firmware took them: ring key and slot -/
  taken : List (Nat × Half) := []
  waits : List Wait := []
  /-- completions held back by a reorder rule (R362) -/
  reorder : List (Nat × Cpl) := []
  out : List OutWrite := []
deriving DecidableEq, Repr

/-- A running flash command (R387, R388). -/
structure FlashOp where
  sel : Nat
  op : Nat
  addr : Nat
  len : Nat
  sram : Nat
deriving DecidableEq, Repr

/-- The key database beside its flash (R391 to R398): the index in force is what the flash holds. -/
structure Db where
  isOpen : Bool := false
  lost : Nat := 0
  seq : Word := 0
  erased : List Nat := []
  retired : List Nat := []
deriving DecidableEq, Repr

/-- SPI0_. -/
structure Spi0 where
  cfg : Word := 0x8F00
  cmdSel : Nat := 0
  cmdOp : Nat := 0
  addr : Word := 0
  len : Word := 0
  sram : Word := 0
  eraseMs : Nat := 400
  progUs : Nat := 3000
  done : Bool := false
  err : Nat := 0
  cur : Option FlashOp := none
  /-- the SRAM access of the command at work that stalls (08 R205, R213) -/
  stall : Option Acc := none
  db : Db := {}
deriving DecidableEq, Repr

/-- SPI1_. -/
structure Spi1 where
  mode : Nat := 0
  lsbf : Bool := false
  wlen : Nat := 7
  sckdiv : Nat := 6
  csmon : Nat := 0
  csmonEn : Bool := false
  tx : List Word := []
  /-- receive FIFO: word, PARTIAL, BITS -/
  rx : List (Word × Bool × Nat) := []
  rxovf : Bool := false
  selected : Bool := true
  stopped : Bool := false
  gpioOut : Byte := 0
  dir : Byte := 0
  idle : Byte := 0
deriving DecidableEq, Repr

/-- TMP_. -/
structure Tmp where
  /-- conditions as the board presents them, whether or not their source is armed (R421) -/
  cond : BitVec 13 := 0
  active : BitVec 13 := 0
  sticky : BitVec 13 := 0
  hold : BitVec 13 := 0
  resp : BitVec 26 := 0x19AAAAA
  lock : Bool := false
  mesh : Word := 0x00010500
  sw : Word := 0x0000030F
  light : Word := 2
  meshErr : List Nat := [0, 0, 0, 0]
  lfsr : List Word := [1, 1, 1, 1]
  bsec : Word := 0
  bfrac : Nat := 0
  nrst : Nat := 0
  nrstRun : Bool := false
  /-- counts of the hold's present second (R98) -/
  nfrac : Nat := 0
  xb : Bool := false
  /-- the mesh bit in progress (R404): how much of it has passed, in parts of 25,000,000 of a battery-clock cycle; its
  length in cycles; and whether it runs on XB, each taken at the bit boundary -/
  mpos : Nat := 0
  mlen : Nat := 1
  mxb : Bool := false
  /-- the mesh seeds of this KINDLE are still to be loaded (R404) -/
  seedDue : Bool := false
  /-- a Snuff has run and no ceremony has consumed its latch since, so that no hold can be cleared (R411) -/
  holdLock : Bool := false
  /-- causes of ALARM_N other than holds (R107, R114, R128, R239, R324), each named by a number -/
  alarm : List Nat := []
  trig : Option (Nat × Nat) := none
deriving DecidableEq, Repr

/-- SNF_. -/
structure Snf where
  flag : Bool := false
  cause : Nat := 0
  source : Nat := 0
  vigil : Bool := false
  late : Bool := false
  vlow : Bool := false
  vfail : BitVec 7 := 0
  time : Nat := 0
  when_ : Word := 0
  count : Nat := 0
  before : Nat := 0
  after : Nat := 0
  decay : Bool := false
deriving DecidableEq, Repr

/-- A recorder entry (R431). -/
structure Entry where
  seq : Word := 0
  pcyc : Nat := 0
  arbSeq : Nat := 0
  flags : Byte := 0
  src : Nat := 0
  code : Nat := 0
  who : Nat := 0
  nsnap : Nat := 0
  tick : Word := 0
  count : Nat := 0
  arg : Bytes := []
  snap : List Word := []
deriving DecidableEq, Repr

/-- EVR_. -/
structure Evr where
  sec : Tab (Option Entry) := []
  diag : Tab (Option Entry) := []
  sseq : Word := 0
  dseq : Word := 0
  pcyc : Nat := 1
  pinOn : Bool := false
  pinned : Nat := 0
  circ : Nat := 0
  irq : BitVec 2 := 2
  selChan : Bool := false
  selIdx : Nat := 0
  wroteS : Bool := false
  wroteD : Bool := false
deriving DecidableEq, Repr

/-- A verified firmware image (R443, R444): KIND, flash slot, header and signature block; its code stands in SRAM. -/
structure Img where
  kind : Nat
  slot : Nat
  hdr : Bytes := []
  sig : Bytes := []
deriving DecidableEq, Repr

/-- An open staging (R449): KIND, package length, and the package bytes received. -/
structure Staging where
  kind : Nat
  total : Nat
  got : Bytes := []
deriving DecidableEq, Repr

/-- UPD_. -/
structure Upd where
  rbcPend : Bool := false
  reverted : Bool := false
  trial : Bool := false
  /-- the KIND of an accepted activation that awaits its window or the end of its pause -/
  pending : Option Nat := none
  fail : Nat := 0
  staging : Option Staging := none
  /-- staged and verified images by KIND -/
  staged : Tab (Option Img) := []
  runSf : Option Img := none
  runPr : Option Img := none
  actTick : Word := 0
  actRaise : Bool := false
  /-- an activation's pause runs (R452) -/
  paused : Bool := false
  /-- the end of the window of a trial activation: its confirmation is due 1024 ticks later (R454) -/
  confirmAt : Option Word := none
  schema : Nat := 0
  /-- the pair that the loader verified for the power cycle (R458) -/
  held : Option (Img × Img) := none
deriving DecidableEq, Repr

/-- FLT_. -/
structure Flt where
  en : Bool := false
  seed : Word := 1
  lfsr : Word := 0
  hits : Nat := 0
  rules : Tab Word := []
  can : Tab Word := []
  /-- frames that a reorder rule holds back, by channel (R362) -/
  canHeld : List (Nat × RxEnt) := []
  /-- the request's PARAM while the latch of OP 0x0A stands (R262): functions and channels named -/
  funcs : BitVec 16 := 0
  chans : BitVec 2 := 0
deriving DecidableEq, Repr

/-- The privilege levels of a core (R161). -/
inductive Level where
  | user | sup | hyp | mon
deriving DecidableEq, Repr, Inhabited

/-- Trap registers of one level: TBASE, TCAUSE, TPC, TINFO (07, Registers). -/
structure TrapRegs where
  base : DWord := 0
  cause : DWord := 0
  pc : DWord := 0
  info : DWord := 0
  /-- the level that the last trap left, to which TRET returns (log 33) -/
  prev : Level := .user
deriving DecidableEq, Repr

/-- A translation kept in a TLB (R169, R177): its tags, the guest page with stage 1 on or off, the physical page, and
the permissions found, as R 1, W 2, X 4, U 8. -/
structure TlbEnt where
  part : Nat
  encl : Option Nat
  s1 : Bool
  vpn : Nat
  ppn : Nat
  perm : Nat
deriving DecidableEq, Repr

/-- WSAVE (R165, R170). -/
structure Wsave where
  pc : DWord := 0
  x : Tab DWord := []
  level : Level := .user
  async : Bool := false
  part : Nat := 0
  fromEncl : Bool := false
  /-- a WGATE call has entered and has not returned (R165, R168) -/
  call : Bool := false
deriving DecidableEq, Repr

/-- One application core. -/
structure Core where
  pc : DWord := 0
  x : Tab DWord := []
  level : Level := .mon
  part : Nat := 0
  encl : Option Nat := none
  sup : TrapRegs := {}
  hyp : TrapRegs := { prev := .sup }
  mon : TrapRegs := {}
  nscratch : DWord := 0
  uscratch : DWord := 0
  stg1 : Tab DWord := []
  ipendHyp : DWord := 0
  imaskHyp : DWord := 0
  ipendSup : DWord := 0
  imaskSup : DWord := 0
  ipendMon : DWord := 0
  imaskMon : DWord := 0
  pmcCtl : DWord := 0
  pmcSel : DWord := 0
  pmc : Tab DWord := []
  wsave : Wsave := {}
  pttAddr : Nat := 0
  exitRet : DWord := 0
  resv : Option Nat := none
  /-- contexts with predictor and buffer state on the core (R169): 0 secure, 1 + n partition n, 32 + e enclave e -/
  tagged : List Nat := [0]
  tlb : List TlbEnt := []
  halted : Bool := false
  haltReq : Bool := false
deriving DecidableEq, Repr

/-- A descriptor of an enclave (R179). -/
structure Encl where
  state : Nat := 0
  part : Nat := 0
  base : DWord := 0
  size : Nat := 0
  entries : List Nat := []
  meas : Bytes := []
  /-- pages added: offset from GBASE in pages, and the physical page of system SRAM -/
  pages : List (Nat × Nat) := []
  /-- cores whose save slot holds a state (SAVED) -/
  saved : List Nat := []
  /-- cores inside (CORES) -/
  inside : List Nat := []
deriving DecidableEq, Repr

/-- The shared state of the cores (R174, R178, R179). -/
structure Cores where
  core : Tab Core := []
  pctx : Tab DWord := []
  ptt : Tab Nat := []
  encl : Tab Encl := []
deriving DecidableEq, Repr

/-- The whole block. -/
structure State where
  glb : Glb := {}
  mode : ModeSt := {}
  clk : Clk := {}
  fus : Fus := {}
  cfg : Cfg := {}
  mpu : MpuSt := {}
  fwl : Fwl := {}
  vlt : Vlt := {}
  cus : Cus := {}
  can0 : CanCh := {}
  can1 : CanCh := {}
  voe : Voe := {}
  eng : Eng := {}
  pke : Pke := {}
  rng : Rng := {}
  hif : Hif := {}
  spi0 : Spi0 := {}
  spi1 : Spi1 := {}
  flash : Tab Byte := []
  tmp : Tmp := {}
  snf : Snf := {}
  evr : Evr := {}
  upd : Upd := {}
  flt : Flt := {}
  cores : Cores := {}
  sram : Tab Byte := []
  /-- the model's own: numbers the free values taken so far (log 9) -/
  free : Nat := 0
  /-- the commands that wait, first in, first out -/
  pending : List Instr := []
deriving DecidableEq, Repr

/-- No command ends in a fault; the constructor stands for a queue the block cannot read and is raised by no meaning
(safe). -/
inductive Fault where
  /-- raised by no command of this model (safe) -/
  | none
deriving DecidableEq, Repr

/-- Why a command has no meaning. -/
inductive Refusal where
  /-- the command is not modelled yet; raised by an arm of exec (safe) -/
  | notModelled (mnemonic : String)
deriving DecidableEq, Repr

/-- The machine right after reset (log 3). -/
def State.reset : State := {}

end Sys2Proof.Machine
end

