-- ==== Sys2Proof/Machine/Setters.lean ====
section
/-! DEFINITION. One update of State per field: every meaning changes the state through these and record updates of one block. -/
namespace Sys2Proof.Machine
variable (s : State)

/-- s with its glb replaced. -/
def State.setGlb (v : Glb) : State := { s with glb := v }
/-- s with its mode replaced. -/
def State.setMode (v : ModeSt) : State := { s with mode := v }
/-- s with its clk replaced. -/
def State.setClk (v : Clk) : State := { s with clk := v }
/-- s with its fus replaced. -/
def State.setFus (v : Fus) : State := { s with fus := v }
/-- s with its cfg replaced. -/
def State.setCfg (v : Cfg) : State := { s with cfg := v }
/-- s with its mpu replaced. -/
def State.setMpu (v : MpuSt) : State := { s with mpu := v }
/-- s with its fwl replaced. -/
def State.setFwl (v : Fwl) : State := { s with fwl := v }
/-- s with its vlt replaced. -/
def State.setVlt (v : Vlt) : State := { s with vlt := v }
/-- s with its cus replaced. -/
def State.setCus (v : Cus) : State := { s with cus := v }
/-- s with its can0 replaced. -/
def State.setCan0 (v : CanCh) : State := { s with can0 := v }
/-- s with its can1 replaced. -/
def State.setCan1 (v : CanCh) : State := { s with can1 := v }
/-- s with its voe replaced. -/
def State.setVoe (v : Voe) : State := { s with voe := v }
/-- s with its eng replaced. -/
def State.setEng (v : Eng) : State := { s with eng := v }
/-- s with its pke replaced. -/
def State.setPke (v : Pke) : State := { s with pke := v }
/-- s with its rng replaced. -/
def State.setRng (v : Rng) : State := { s with rng := v }
/-- s with its hif replaced. -/
def State.setHif (v : Hif) : State := { s with hif := v }
/-- s with its spi0 replaced. -/
def State.setSpi0 (v : Spi0) : State := { s with spi0 := v }
/-- s with its spi1 replaced. -/
def State.setSpi1 (v : Spi1) : State := { s with spi1 := v }
/-- s with its flash replaced. -/
def State.setFlash (v : Tab Byte) : State := { s with flash := v }
/-- s with its tmp replaced. -/
def State.setTmp (v : Tmp) : State := { s with tmp := v }
/-- s with its snf replaced. -/
def State.setSnf (v : Snf) : State := { s with snf := v }
/-- s with its evr replaced. -/
def State.setEvr (v : Evr) : State := { s with evr := v }
/-- s with its upd replaced. -/
def State.setUpd (v : Upd) : State := { s with upd := v }
/-- s with its flt replaced. -/
def State.setFlt (v : Flt) : State := { s with flt := v }
/-- s with its cores replaced. -/
def State.setCores (v : Cores) : State := { s with cores := v }
/-- s with its sram replaced. -/
def State.setSram (v : Tab Byte) : State := { s with sram := v }
/-- s with its free replaced. -/
def State.setFree (v : Nat) : State := { s with free := v }
/-- s with its pending replaced. -/
def State.setPending (v : List Instr) : State := { s with pending := v }

end Sys2Proof.Machine
end

