-- ==== Sys2Proof/Machine/Ops.lean ====
section
/-! DEFINITION. The named operations that every meaning shares: time, events, ALARM_N, mode changes, recorder entries. -/
namespace Sys2Proof.Machine

/-- The present timestamp (R11). -/
def now (s : State) : Stamp := ⟨s.glb.tick, s.glb.sub⟩

/-- Counts of one tick, N = P_T / 40 ns (R39, R40). -/
def ticksN (s : State) : Nat := (100 + 50 * s.glb.period) * 25

/-- Ticks from one expected SYNC_IN edge to the next (02 R42): 1 s, or one tick. -/
def syncTicks (s : State) : Nat := if s.glb.src = 1 then 1000000 / (100 + 50 * s.glb.period) else 1

/-- Counts from stamp a to stamp b on the timeline of one power cycle. -/
def countsBetween (s : State) (a b : Stamp) : Nat := (b.tick - a.tick).toNat * ticksN s + b.count - a.count

/-- The stamp n counts before the present. -/
def stampBefore (s : State) (n : Nat) : Stamp :=
  if n ≤ s.glb.sub then ⟨s.glb.tick, s.glb.sub - n⟩
  else
    let k := (n - s.glb.sub + ticksN s - 1) / ticksN s
    ⟨s.glb.tick - BitVec.ofNat 32 k, s.glb.sub + k * ticksN s - n⟩

/-- The code of a mode (R65). -/
def modeCode : Mode → Nat
  | .off => 0 | .vigil => 1 | .kindle => 2 | .service => 3
  | .dim => 4 | .debug => 5 | .recovery => 6 | .snuffed => 7

/-- The code of a lifecycle state (MODE_STAT.LC). -/
def lcCode : Lc → Nat
  | .blank => 0 | .provisioned => 1 | .commissioned => 2 | .retired => 3

/-- The code of a debug state (MODE_STAT.DBG). -/
def dbgCode : Dbg → Nat
  | .closed => 0 | .authenticated => 1 | .opened => 2

/-- The code of a lock state (GLB_BCN_STAT.LOCK). -/
def lockCode : Lock → Nat
  | .free => 0 | .acquire => 1 | .locked => 2 | .holdover => 3

/-- The main supplies are valid and the main domain runs (R89, R97). -/
def mainUp (s : State) : Bool := s.mode.mode ≠ .off && s.mode.mode ≠ .vigil && !s.mode.inReset

/-- KINDLE runs: its steps are not over, or its destination is not chosen; a Snuff in its course has entered SNUFFED and
the steps go on (R83, log 28). -/
def inKindle (s : State) : Bool := s.mode.mode = .kindle || (s.mode.mode = .snuffed && !s.mode.kindled)

/-! ### Recorder entries (R427 to R431) -/

/-- The place of the next security entry and the recorder after taking it (R427). -/
def secPlace (e : Evr) : Nat × Evr :=
  if e.pinOn && e.pinned < 32 then (e.pinned, { e with pinned := e.pinned + 1 })
  else (32 + e.circ % 96, { e with circ := if e.circ + 1 < 192 then e.circ + 1 else 96 })

/-- FLAGS of an entry (R431). -/
def entryFlags (diag bsec pinned lost : Bool) : Byte :=
  BitVec.ofNat 8 (b2n diag + 2 * b2n bsec + 4 * b2n pinned + 8 * b2n lost + 64)

/-- A security entry written (R427, R429); the next entry after a device reset that lost queued events carries LOST. -/
def writeSec (s : State) (bsec : Bool) (x : Entry) : State :=
  let p := secPlace s.evr
  let pin := decide (p.1 < 32)
  let s' := s.setEvr { p.2 with
    sec := tput none p.2.sec p.1 (some { x with seq := s.evr.sseq, pcyc := s.evr.pcyc,
                                                 flags := entryFlags false bsec pin s.glb.lostRst })
    sseq := s.evr.sseq + 1
    wroteS := true }
  s'.setGlb { s'.glb with lostRst := false }

/-- A diagnostics entry written (R428, R429); it carries LOST when an event was lost before it (R426), by a full queue or
by a device reset. -/
def writeDiag (s : State) (x : Entry) : State :=
  let s' := s.setEvr { s.evr with
    diag := tput none s.evr.diag (s.evr.dseq.toNat % 1024) (some { x with
      seq := s.evr.dseq, pcyc := s.evr.pcyc, flags := entryFlags true false false (s.glb.lost || s.glb.lostRst) })
    dseq := s.evr.dseq + 1
    wroteD := true }
  s'.setGlb { s'.glb with lost := false, lostRst := false }

/-- The entry of an event before its sequence number: what R431 gives it at this stamp. -/
def entryOf (e : Event) (arbSeq : Nat) (tick : Word) (count : Nat) (snap : List Word) : Entry :=
  { arbSeq := arbSeq, src := e.src, code := e.code, who := e.who, nsnap := snap.length,
    tick := tick, count := count, arg := e.arg, snap := snap }

/-! ### The event queue (R425, R426) -/

/-- The event is bound for the security channel. -/
def Event.isSec (e : Event) : Bool := match e.kind with
  | .entry sec _ => sec
  | _ => false

/-- The event is a diagnostics entry alone. -/
def Event.isDiagOnly (e : Event) : Bool := match e.kind with
  | .entry sec diag => !sec && diag
  | _ => false

/-- An event handed to the arbiter (R426): 16 places for security events, 48 for the others; a diagnostics-only event
that finds no place is dropped and counted, any other is held by its block. -/
def report (s : State) (e : Event) : State :=
  if s.mode.mode = .vigil ∨ s.mode.mode = .off ∨ s.mode.inReset then
    -- R430: the battery domain writes security entries itself; the core-domain arbiter does not run
    if e.isSec then writeSec s true (entryOf e s.glb.arbSeq s.tmp.bsec 0 []) else s
  else if e.isSec then
    if (s.glb.queue.filter Event.isSec).length < 16 then s.setGlb { s.glb with queue := s.glb.queue ++ [e] }
    else s.setGlb { s.glb with heldRep := s.glb.heldRep ++ [e] }
  else if (s.glb.queue.filter fun x => !x.isSec).length < 48 then
    s.setGlb { s.glb with queue := s.glb.queue ++ [e] }
  else if e.isDiagOnly then
    s.setGlb { s.glb with arbDrop := satInc 0xFFFF s.glb.arbDrop, lost := true }
  else s.setGlb { s.glb with heldRep := s.glb.heldRep ++ [e] }

/-- SRC values of R432: the blocks of R21 in their order. -/
inductive Blk where
  | glb | mode | clk | fus | cfg | mpu | fwl | vlt | cus | can0 | can1 | eng | pke | rng | hif | spi0 | spi1 | tmp
  | snf | evr | upd | flt | firmware | hostMark | rom
deriving DecidableEq, Repr

/-- The SRC number of a block (R432). -/
def Blk.src : Blk → Nat
  | .glb => 0 | .mode => 1 | .clk => 2 | .fus => 3 | .cfg => 4 | .mpu => 5 | .fwl => 6 | .vlt => 7 | .cus => 8
  | .can0 => 9 | .can1 => 10 | .eng => 11 | .pke => 12 | .rng => 13 | .hif => 14 | .spi0 => 15 | .spi1 => 16
  | .tmp => 17 | .snf => 18 | .evr => 19 | .upd => 20 | .flt => 21 | .firmware => 0x18 | .hostMark => 0x19 | .rom => 0x1A

/-- A diagnostics event. -/
def logD (s : State) (b : Blk) (code : Nat) (arg : Bytes) : State :=
  report s { kind := .entry false true, src := b.src, code := code, arg := arg }

/-- A security event. -/
def logS (s : State) (b : Blk) (code : Nat) (arg : Bytes) : State :=
  report s { kind := .entry true false, src := b.src, code := code, arg := arg }

/-- An event of both channels (R425). -/
def logSD (s : State) (b : Blk) (code : Nat) (arg : Bytes) : State :=
  report s { kind := .entry true true, src := b.src, code := code, arg := arg }

/-- WHO of an event of function f (R431): the owner of function f is owner f (01 R29). -/
def whoFn (f : Nat) : Nat := f + 16 * f

/-- A diagnostics event with its WHO (R431, log 115). -/
def logDW (s : State) (b : Blk) (code who : Nat) (arg : Bytes) : State :=
  report s { kind := .entry false true, src := b.src, code := code, who := who, arg := arg }

/-- A security event with its WHO (R431, log 115). -/
def logSW (s : State) (b : Blk) (code who : Nat) (arg : Bytes) : State :=
  report s { kind := .entry true false, src := b.src, code := code, who := who, arg := arg }

/-- An MSI-X interrupt handed to the arbiter (R37). -/
def irq (s : State) (fn vec : Nat) : State := report s { kind := .irq fn vec }

/-- The event that a refused HALT or RWL write writes (R13, R14; source 0x18 code 0x0002). -/
def logRefused (s : State) (addr : Nat) : State := logD s .firmware 2 (leBytes 8 addr)

/-- A diagnostics event that the chapters require and R432 gives no code: code 0 of its block (log 14). -/
def logOther (s : State) (b : Blk) (arg : Bytes) : State := logD s b 0 arg

/-- The same on the security channel (log 14). -/
def logOtherS (s : State) (b : Blk) (arg : Bytes) : State := logS s b 0 arg

/-! ### ALARM_N (R411) -/

/-- ALARM_N is asserted: a tamper hold or another cause stands. -/
def alarmOn (s : State) : Bool := s.tmp.hold ≠ 0 || !s.tmp.alarm.isEmpty

/-- The causes of ALARM_N beside the tamper holds. -/
inductive Alarm where
  | wake | vsnuff | lol | zfail | rng
deriving DecidableEq, Repr

/-- The number of a cause in tmp.alarm. -/
def Alarm.num : Alarm → Nat
  | .wake => 0 | .vsnuff => 1 | .lol => 2 | .zfail => 3 | .rng => 4

/-- A change of the tamper block followed, when ALARM_N changes, by its event, and by PF vector 11 when it is
asserted (R37, R351). -/
def withAlarm (s : State) (t : Tmp) : State :=
  let s' := s.setTmp t
  if alarmOn s' = alarmOn s then s'
  else
    let s'' := report s' { kind := .alarm (alarmOn s'), src := Blk.tmp.src }
    if alarmOn s' then irq s'' 0 11 else s''

/-- A cause of ALARM_N asserted. -/
def alarmSet (s : State) (a : Alarm) : State :=
  if s.tmp.alarm.contains a.num then s else withAlarm s { s.tmp with alarm := s.tmp.alarm ++ [a.num] }

/-- A cause of ALARM_N released. -/
def alarmClear (s : State) (a : Alarm) : State :=
  withAlarm s { s.tmp with alarm := s.tmp.alarm.filter (· ≠ a.num) }

/-! ### Modes (R85) -/

/-- MODE_CAUSE as a register value. -/
def modeCauseW (m : ModeSt) : Nat := m.cause * 256 + m.causeFrom * 16 + m.causeTo

/-- MODE_ANNOUNCE as a register value. -/
def modeAnnW (m : ModeSt) : Nat := m.annLen * 65536 + b2n m.annIn * 16 + m.annCause

/-- The diagnostics entry of a transition, an announcement or a cancellation (R85). -/
def logMode (s : State) : State := logD s .mode 1 (leBytes 4 (modeCauseW s.mode) ++ leBytes 4 (modeAnnW s.mode))

/-- A mode transition with its cause (MODE_CAUSE, MODE_CAUSE_TICK) and its recorder entry (R85). -/
def toMode (s : State) (m : Mode) (cause : Nat) : State :=
  logMode (s.setMode { s.mode with
    mode := m, cause := cause, causeFrom := modeCode s.mode.mode, causeTo := modeCode m, causeTick := s.glb.tick })

/-- No announcement is pending or in force (R86). -/
def annFree (s : State) : Bool := s.mode.annCause = 0

/-- An announcement written with its event and PF vector 10 (R61, R85, R351). -/
def announce (s : State) (cause len : Nat) (start : Word) : State :=
  irq (logMode (s.setMode { s.mode with annCause := cause, annLen := len, annIn := false, annStart := start })) 0 10

/-- The announcement cleared (R87): START stays. -/
def annClear (s : State) : State :=
  logMode (s.setMode { s.mode with annCause := 0, annLen := 0, annIn := false })

/-! ### Cores -/

/-- Core c. -/
def getCore (s : State) (c : Nat) : Core := tget {} s.cores.core c

/-- s with core c replaced. -/
def setCore (s : State) (c : Nat) (x : Core) : State := s.setCores { s.cores with core := tput {} s.cores.core c x }

/-! ### Memories (R20) -/

/-- n bytes of system SRAM from offset k on. -/
def sramRead (s : State) (k n : Nat) : Bytes := tgetN 0 s.sram k n

/-- Bytes written to system SRAM from offset k on. -/
def sramWrite (s : State) (k : Nat) (b : Bytes) : State := s.setSram (tputN 0 s.sram k b)

/-- n bytes of external flash (R391): device sel, offset k. -/
def flashRead (s : State) (sel k n : Nat) : Bytes := tgetN 0xFF s.flash (sel * 2 ^ 32 + k) n

/-- Bytes programmed into external flash: a program only clears bits (R399). -/
def flashProgram (s : State) (sel k : Nat) (b : Bytes) : State :=
  s.setFlash (tputN 0xFF s.flash (sel * 2 ^ 32 + k) (List.zipWith (· &&& ·) (flashRead s sel k b.length) b))

/-- n bytes of external flash erased. -/
def flashErase (s : State) (sel k n : Nat) : State := s.setFlash (tclear s.flash (sel * 2 ^ 32 + k) n)

/-- The next free byte string of length n (log 9). -/
def freeBytes (s : State) (n : Nat) : Bytes × State :=
  ((List.range n).map (Config.freeByte s.free), s.setFree (s.free + 1))

/-! ### The entropy source -/

/-- Housekeeping of secure firmware done on lane 0: its cycles are ADMIN work there (02 R54, 13 R318). DESIGN CHOICE
(log 107): one quantum each. -/
def housekeep (s : State) : State := s.setEng { s.eng with house := s.eng.house + 1 }

/-- s with RNG_ replaced by a function of it. -/
def onRng (s : State) (f : Rng → Rng) : State := s.setRng (f s.rng)

/-- The source starts with a startup or restart test, the LFSR at zero (13 R313, R316, R326). -/
def rngStart (r : Rng) : Rng :=
  { r with run := true, restart := true, lfsr := 0, phase := 0, got := 0, blk := [], runLen := 0, winPos := 0, winCnt := 0 }

end Sys2Proof.Machine
end

