-- ==== Sys2Proof/Machine/Matrix.lean ====
section
/-! DEFINITION. The combination matrix of R76: the root in force, the tamper answer, the engines, the rings, the counters
and the fault provocation of each mode, debug state and lifecycle. -/
namespace Sys2Proof.Machine

/-- The ring entry of a cell (R76). -/
inductive RingsCell where
  | r0 | rA | rW | rG | rP | rS
deriving DecidableEq, Repr

/-- The engine entry of a cell (R76). -/
inductive EngCell where
  | e0 | e1 | e2 | e3 | e4
deriving DecidableEq, Repr

/-- Rings (R76). -/
def ringsCell (m : Mode) : RingsCell := match m with
  | .off | .vigil | .kindle => .r0
  | .service => .rA
  | .dim => .rW
  | .debug => .rG
  | .recovery => .rP
  | .snuffed => .rS

/-- Engines (R76). -/
def engCell (m : Mode) : EngCell := match m with
  | .off | .vigil | .dim => .e0
  | .kindle => .e1
  | .service | .debug => .e2
  | .recovery => .e3
  | .snuffed => .e4

/-- A Snuff response zeroizes (code Z): every cell but those of BLANK and RETIRED, and not in OFF (R76, U5). -/
def snuffCell (m : Mode) (lc : Lc) : Bool := match m, lc with
  | .off, _ => false
  | _, .provisioned | _, .commissioned => true
  | _, _ => false

/-- The root that derivation uses: 0 test, 1 device, 2 full (R69, R72, R76). A part whose Snuff flag stands or whose
vault-root check failed has the device root only. -/
def rootInForce (s : State) : Nat :=
  if s.mode.testroot then 0
  else match s.fus.lc with
    | .blank | .retired => 0
    | .provisioned => 1
    | .commissioned => if s.snf.flag || s.mode.vrFail || s.mode.mode = .snuffed then 1 else 2

/-- Performance counters (R76): 0 not available, 1 cN, 2 cX. -/
def ctrCell (m : Mode) (d : Dbg) : Nat := match m, d with
  | .service, _ | .dim, _ => 1
  | .debug, .opened => 2
  | .debug, _ => 1
  | _, _ => 0

/-- The two-key latch for fault provocation stands (R251, R262). -/
def fltLatched (s : State) : Bool := s.cus.latch.isSet && s.cus.latch.op = 0x0A && (s.flt.funcs ≠ 0 || s.flt.chans ≠ 0)

/-- The fault-provocation entry of the present cell: 0 f0, 1 fY, 2 fQ (R76). -/
def fltCell (s : State) : Nat := match s.mode.mode with
  | .service => if s.fus.lc = .commissioned then 2 else 1
  | .debug => 1
  | _ => 0

/-- FLT_CTL.AVAIL (R361). -/
def fltAvail (s : State) : Bool := fltCell s = 1 || (fltCell s = 2 && fltLatched s)

/-- Provocation is available on function f (R361, R262). -/
def fltAvailFn (s : State) (f : Nat) : Bool := fltCell s = 1 || (fltCell s = 2 && fltLatched s && s.flt.funcs.getLsbD f)

/-- Provocation is available on channel c (R361, R262). -/
def fltAvailCh (s : State) (c : Nat) : Bool := fltCell s = 1 || (fltCell s = 2 && fltLatched s && s.flt.chans.getLsbD c)

/-- A command opcode is of a family that the ring entry serves (R364). -/
def familyServed (c : RingsCell) (op : Nat) : Bool := match c with
  | .rA | .rG => true
  | .rP => (0x80 ≤ op && op ≤ 0x8F) || (0x90 ≤ op && op ≤ 0x9F)
  | .rS => (0x70 ≤ op && op ≤ 0x7F) || (0x90 ≤ op && op ≤ 0x9F) || (0xA0 ≤ op && op ≤ 0xA7)
  | .r0 | .rW => false

/-- A function exists and is live: the PF, or an enabled VF whose owner exists (R29, R337). -/
def fnLive (s : State) (f : Nat) : Bool :=
  f = 0 || (s.hif.vfEnable && f ≤ s.hif.numVfs && s.vlt.exist.getLsbD f)

/-- A ring of the function, of this class, is served in the present mode (R76): in RECOVERY and SNUFFED only PF ADMIN
rings. -/
def ringServed (s : State) (f cls : Nat) : Bool := match ringsCell s.mode.mode with
  | .rA | .rG => true
  | .rP | .rS => f = 0 && cls = 3
  | .r0 | .rW => false

end Sys2Proof.Machine
end

