-- ==== Sys2Proof/Machine/Rings.lean ====
section
/-! DEFINITION. Ring contexts: completions, the request-ID store, holding buffers, interrupts, fault provocation
(R338 to R362), and the functions, mailboxes and counters. -/
namespace Sys2Proof.Machine

/-- The key of ring r of function fn. -/
def ringKey (fn r : Nat) : Nat := 8 * fn + r

/-- A ring context at reset: RING_CFG.VEC reads the ring's index. -/
def ringD (k : Nat) : Ring := { vec := k % 8 }

/-- The ring with key k. -/
def getRing (s : State) (k : Nat) : Ring := tget (ringD k) s.hif.rings k

/-- s with ring k replaced. -/
def setRing (s : State) (k : Nat) (r : Ring) : State := s.setHif { s.hif with rings := tput (ringD k) s.hif.rings k r }

/-- A function's state. -/
def getFn (s : State) (f : Nat) : Fn := tget {} s.hif.fns f

/-- s with function f replaced. -/
def setFn (s : State) (f : Nat) (x : Fn) : State := s.setHif { s.hif with fns := tput {} s.hif.fns f x }

/-- A write that leaves the device (log 7). -/
def emitOut (s : State) (w : OutWrite) : State := s.setHif { s.hif with out := s.hif.out ++ [w] }

/-- S, the entries of a ring (R339). -/
def ringSize (r : Ring) : Nat := 2 ^ r.log2

/-- (a − b) mod 2^16 (R339). -/
def idxSub (a b : Half) : Nat := (a - b).toNat

/-- The CQ has space (R349). -/
def cqSpace (r : Ring) : Bool := idxSub r.cqw r.cqHead < ringSize r

/-- The 32 bytes of a completion (R348), with this phase. -/
def cplBytes (c : Cpl) (phase : Bool) : Bytes :=
  leBytes 4 c.reqId.toNat ++ leBytes 2 c.slot.toNat ++ leBytes 1 c.status ++ leBytes 1 c.orig
    ++ leBytes 2 c.detail.toNat ++ leBytes 2 0 ++ leBytes 4 c.outLen.toNat ++ leBytes 8 c.result.toNat
    ++ leBytes 4 c.tick.toNat ++ leBytes 2 c.count ++ leBytes 1 0
    ++ leBytes 1 (b2n phase + 2 * b2n c.vfy + 4 * b2n c.held)

/-- The phase of the current pass: 1 on the first, inverted on each wrap (R349). -/
def cqPhase (r : Ring) : Bool := (r.cqw.toNat / ringSize r) % 2 = 0

/-- A completion written to its CQ entry: the entry, CQW, the interrupt of IRQ 0 (R349, R352). -/
def writeCpl (s : State) (k : Nat) (c : Cpl) (b : Bytes) : State :=
  let r := getRing s k
  let s := emitOut s (.cpl (k / 8) (k % 8) (r.cqw.toNat % ringSize r) (cqPhase r) b)
  let s := setRing s k { r with cqw := r.cqw + 1, wrote := true, changed := true }
  if r.irq = 0 && !c.noIrq then irq s (k / 8) r.vec else s

/-- A byte string with bit j of byte i inverted. -/
def flipBit (b : Bytes) (i j : Nat) : Bytes := b.set i ((b.getD i 0) ^^^ BitVec.ofNat 8 (2 ^ j))

/-- The feedback mask of x^32 + x^22 + x^2 + x + 1, shifting right (R362; the direction is log 15). -/
def fltMask : Word := 0x80200003

/-- Rule w names function f and ring r and is on (FLT_RULE). -/
def fltNames (w : Word) (f r : Nat) : Bool := bit w 31 && fld w 24 4 = f && bit w (16 + r)

/-- RATE of a rule, at most 16. -/
def fltRate (w : Word) : Nat := min (fld w 0 5) 16

/-- The low RATE bits of the register are 0 (R362). -/
def fltHit (lfsr : Word) (w : Word) : Bool := lfsr.toNat % 2 ^ fltRate w = 0

/-- The first ring rule that names the ring and is hit (R362): its number and word. -/
def fltFind (s : State) (k : Nat) (lfsr : Word) : Option (Nat × Word) :=
  ((List.range 16).map fun i => (i, tget 0 s.flt.rules i)).find?
    fun p => fltNames p.2 (k / 8) (k % 8) && fltHit lfsr p.2

/-- Some ring rule names the ring. -/
def fltNamed (s : State) (k : Nat) : Bool :=
  (List.range 16).any fun i => fltNames (tget 0 s.flt.rules i) (k / 8) (k % 8)

/-- A hit counted, with its diagnostics entry (R362): rule number and action. -/
def fltCount (s : State) (who rule act : Nat) : State :=
  logDW (s.setFlt { s.flt with hits := satInc 0xFFFF s.flt.hits }) .firmware 1 who (leBytes 4 rule ++ leBytes 4 act)

/-- Provocation acts on the ring at all: FLT_CTL.EN, AVAIL for its function, a rule that names it, not a TRIP ring
(R361). -/
def fltActive (s : State) (k : Nat) : Bool :=
  s.flt.en && fltAvailFn s (k / 8) && fltNamed s k && (getRing s k).cls ≠ 0

/-- A held completion in its place among those behind the waiting one, in ring order: by its slot's signed distance
from the slot of the waiting one (R59 C7; log 95). -/
def heldInsert (h : Half) (c : Cpl) : List Cpl → List Cpl
  | [] => [c]
  | x :: t => if (x.idx - h).toInt ≤ (c.idx - h).toInt then x :: heldInsert h c t else c :: x :: t

/-- The holding buffer with one completion more: behind the one that waits at its head, in ring order (R59 C7). -/
def holdPut (c : Cpl) : List Cpl → List Cpl
  | [] => [c]
  | h :: t => h :: heldInsert h.idx c t

/-- A completion held for want of CQ space (R350). -/
def holdCpl (s : State) (k : Nat) (c : Cpl) : State :=
  let r := getRing s k
  let s := setRing s k { r with holding := holdPut { c with held := true } r.holding }
  logDW s .hif 1 (whoFn (k / 8)) (leBytes 4 k ++ leBytes 4 c.slot.toNat)

/-- A completion that a reorder rule held back: written, or held where no entry is free (R350, R362). -/
def writeBack (k : Nat) (s : State) (c : Cpl) : State :=
  let r := getRing s k
  if cqSpace r && r.holding.isEmpty then writeCpl s k c (cplBytes c (cqPhase r)) else holdCpl s k { c with past := true }

/-- Completions that a reorder rule held back are written after the ring's next one (R362). -/
def flushReorder (s : State) (k : Nat) : State :=
  let mine := s.hif.reorder.filter fun p => p.1 = k
  let s := s.setHif { s.hif with reorder := s.hif.reorder.filter fun p => p.1 ≠ k }
  mine.foldl (fun s p => writeBack k s p.2) s

/-- A completion leaves the device (R349, R362): provocation first, then the write, then what a reorder held back. -/
def emitCpl (s : State) (k : Nat) (c : Cpl) : State :=
  if fltActive s k && !c.past then
    let l := galois fltMask s.flt.lfsr
    let s := s.setFlt { s.flt with lfsr := l }
    match fltFind s k l with
    | some (i, w) =>
      let act := fld w 8 2
      let s := fltCount s (whoFn (k / 8)) i act
      if act = 1 then
        flushReorder (writeCpl s k c
          (flipBit (cplBytes c (cqPhase (getRing s k))) (fld l 8 5 % 31) (fld l 0 3))) k
      else if act = 2 then s.setHif { s.hif with reorder := s.hif.reorder ++ [(k, c)] }
      else s
    | none => flushReorder (writeCpl s k c (cplBytes c (cqPhase (getRing s k)))) k
  else flushReorder (writeCpl s k c (cplBytes c (cqPhase (getRing s k)))) k

/-- A completion written at once or held (R349, R350). -/
def deliverCpl (s : State) (k : Nat) (c : Cpl) : State :=
  let r := getRing s k
  if cqSpace r && r.holding.isEmpty then emitCpl s k c
  else holdCpl s k c

/-- The store with one entry more: at most 256, the oldest evicted (R353). -/
def storePut (st : List StoreEnt) (e : StoreEnt) : List StoreEnt :=
  let st := st ++ [e]
  if st.length > 256 then st.drop 1 else st

/-- An entry is still held: it is forgotten 2^16 ticks after its formation (R353). -/
def storeLive (s : State) (e : StoreEnt) : Bool := (s.glb.tick - e.cpl.tick).toNat < 65536

/-- The entry of a ring's store with this request ID (R353, R354). -/
def storeFind (s : State) (r : Ring) (id : Word) : Option StoreEnt :=
  r.store.find? fun e => e.cpl.reqId = id && storeLive s e

/-- A completion stamped with the present (R348). -/
def stampCpl (s : State) (c : Cpl) : Cpl := { c with tick := s.glb.tick, count := s.glb.sub }

/-- The function counters of a completion with status OK (R357): class count and input bytes. -/
def countOk (s : State) (k : Nat) (c : Cpl) (len : Nat) : State :=
  if c.status = 0 then
    let f := getFn s (k / 8)
    let cls := (getRing s k).cls
    setFn s (k / 8) { f with ctr := tput 0 (tput 0 f.ctr cls ((tget 0 f.ctr cls + 1) % 2 ^ 64)) 4
                                      ((tget 0 f.ctr 4 + len) % 2 ^ 64) }
  else s

/-- A DUP of a cached completion, for the descriptor at this index (R354): it copies every field of R348 except STATUS,
ORIG, PHASE and HELD, SLOT among them. -/
def dupOf (c : Cpl) (idx : Half) (noIrq : Bool) : Cpl :=
  { c with status := 1, orig := c.status, held := false, noIrq := noIrq, idx := idx, past := false }

/-- A completion formed (R349): stamped, entered in the request-ID store under its hash (R353), then, unless a ring
reset came after its operation started (R358), written or held, followed by the DUPs of its copies (R354). -/
def formCpl (s : State) (k : Nat) (hash : Bytes) (dups : List (Half × Bool)) (mute : Bool) (c : Cpl) : State :=
  let c := stampCpl s c
  let r := getRing s k
  let s := setRing s k { r with store := storePut r.store ⟨hash, c⟩ }
  if mute then s
  else dups.foldl (fun s d => deliverCpl s k (dupOf c d.1 d.2)) (deliverCpl s k c)

/-- A completion formed and not stored: DUP, and BAD_DESC of the request-ID check (R353). -/
def formUnstored (s : State) (k : Nat) (c : Cpl) : State := deliverCpl s k c

/-- Held completions written in ring order as space appears (R350); the fuel is the number held. -/
def drainHeld (s : State) (k : Nat) : Nat → State
  | 0 => s
  | n + 1 =>
    let r := getRing s k
    match r.holding with
    | [] => s
    | c :: t => if cqSpace r then drainHeld (emitCpl (setRing s k { r with holding := t }) k c) k n else s

/-- The ring stops with an error (R343): vector 9 of its function. -/
def ringStop (s : State) (k err : Nat) : State :=
  let r := getRing s k
  irq (setRing s k { r with state := 2, err := err, changed := true }) (k / 8) 9

/-- The ring runs: enabled and not stopped (R340). -/
def ringRuns (r : Ring) : Bool := r.en && r.state = 0

/-- Outstanding operations of a ring plus held completions (R350). -/
def outstanding (s : State) (k : Nat) : Nat :=
  let r := getRing s k
  r.staged.length + r.running.length + r.holding.length
    + (s.hif.trips.filter fun t => ringKey t.fn t.ring = k && t.desc = none).length

/-- R350: with a held completion, no candidate is admitted or fetched once operations and held entries reach 32. -/
def holdBlocks (s : State) (k : Nat) : Bool := !(getRing s k).holding.isEmpty && 32 ≤ outstanding s k

/-- Enabled ring contexts. -/
def enabledRings (s : State) : Nat := ((List.range 128).filter fun k => (getRing s k).en).length

/-- Enabled rings of function f. -/
def enabledOf (s : State) (f : Nat) : Nat := ((List.range 8).filter fun r => (getRing s (ringKey f r)).en).length

/-- The ring fetches (R343, R360; DESIGN CHOICE, log 108: nor does a dormant function's): it runs, its function is live and
in D0. -/
def ringOpen (s : State) (fn r : Nat) : Bool := ringRuns (getRing s (ringKey fn r)) && fnLive s fn && !(getFn s fn).d3

/-- An entry of a request-ID store packed into 36 bytes (R353). -/
def storeBytes36 (e : StoreEnt) : Bytes :=
  let c := e.cpl
  leBytes 4 c.reqId.toNat ++ slice e.hash 0 8 ++ leBytes 2 c.slot.toNat ++ leBytes 1 c.status ++ leBytes 1 (2 * b2n c.vfy)
    ++ leBytes 2 c.detail.toNat ++ leBytes 4 c.outLen.toNat ++ leBytes 8 c.result.toNat ++ leBytes 4 c.tick.toNat ++ leBytes 2 c.count

/-- The ring that holds a context. -/
def ctxRing (s : State) (c : Nat) : Option Nat := (List.range 128).find? fun k => (getRing s k).en && (getRing s k).ctx = c

/-- A byte of system SRAM from 0x1016_0000 on, which the request-ID stores and the staging areas of the 64 contexts occupy
(R338); DESIGN CHOICE (log 54): the entries of a store stand from the oldest on, and a place that holds none reads 0. -/
def ringWindow (s : State) (a : Nat) : Byte :=
  if a < 0x101F0000 then
    let o := a - 0x10160000
    match ctxRing s (o / 0x2400) with
    | some k => match (getRing s k).store[o % 0x2400 / 36]? with
      | some e => (storeBytes36 e).getD (o % 0x2400 % 36) 0
      | none => 0
    | none => 0
  else
    let o := a - 0x101F0000
    match ctxRing s (o / 0x400) with
    | some k => match (getRing s k).staged.find? fun x => x.slot.toNat % 16 = o % 0x400 / 64 with
      | some x => x.desc.getD (o % 64) 0
      | none => 0
    | none => 0

/-- The doorbell page of f takes register accesses: a dormant or absent VF's discards them (R337). -/
def pageLive (s : State) (f : Nat) : Bool := mainUp s && fnLive s f

end Sys2Proof.Machine
end

