-- ==== Sys2Proof/Machine/Sha.lean ====
section
/-! DEFINITION. SHA-256, SHA-384 and SHA-512 (FIPS 180-4) and HMAC (FIPS 198-1), as the spec names them (12 R295; log 11). -/
namespace Sys2Proof.Machine

/-- What one hash of the SHA-2 family fixes: word size, round constants, rotation amounts, block bytes. -/
structure Sha2 where
  w : Nat
  k : List Nat
  bs : Nat × Nat × Nat
  cs : Nat × Nat × Nat
  ss : Nat × Nat × Nat
  ts : Nat × Nat × Nat

/-- The 64 constants of SHA-256. -/
def sha256K : List Nat :=
    [0x428A2F98, 0x71374491, 0xB5C0FBCF, 0xE9B5DBA5, 0x3956C25B, 0x59F111F1, 0x923F82A4, 0xAB1C5ED5]
    ++ [0xD807AA98, 0x12835B01, 0x243185BE, 0x550C7DC3, 0x72BE5D74, 0x80DEB1FE, 0x9BDC06A7, 0xC19BF174]
    ++ [0xE49B69C1, 0xEFBE4786, 0x0FC19DC6, 0x240CA1CC, 0x2DE92C6F, 0x4A7484AA, 0x5CB0A9DC, 0x76F988DA]
    ++ [0x983E5152, 0xA831C66D, 0xB00327C8, 0xBF597FC7, 0xC6E00BF3, 0xD5A79147, 0x06CA6351, 0x14292967]
    ++ [0x27B70A85, 0x2E1B2138, 0x4D2C6DFC, 0x53380D13, 0x650A7354, 0x766A0ABB, 0x81C2C92E, 0x92722C85]
    ++ [0xA2BFE8A1, 0xA81A664B, 0xC24B8B70, 0xC76C51A3, 0xD192E819, 0xD6990624, 0xF40E3585, 0x106AA070]
    ++ [0x19A4C116, 0x1E376C08, 0x2748774C, 0x34B0BCB5, 0x391C0CB3, 0x4ED8AA4A, 0x5B9CCA4F, 0x682E6FF3]
    ++ [0x748F82EE, 0x78A5636F, 0x84C87814, 0x8CC70208, 0x90BEFFFA, 0xA4506CEB, 0xBEF9A3F7, 0xC67178F2]

/-- The 80 constants of SHA-384 and SHA-512. -/
def sha512K : List Nat :=
    [0x428A2F98D728AE22, 0x7137449123EF65CD, 0xB5C0FBCFEC4D3B2F, 0xE9B5DBA58189DBBC]
    ++ [0x3956C25BF348B538, 0x59F111F1B605D019, 0x923F82A4AF194F9B, 0xAB1C5ED5DA6D8118]
    ++ [0xD807AA98A3030242, 0x12835B0145706FBE, 0x243185BE4EE4B28C, 0x550C7DC3D5FFB4E2]
    ++ [0x72BE5D74F27B896F, 0x80DEB1FE3B1696B1, 0x9BDC06A725C71235, 0xC19BF174CF692694]
    ++ [0xE49B69C19EF14AD2, 0xEFBE4786384F25E3, 0x0FC19DC68B8CD5B5, 0x240CA1CC77AC9C65]
    ++ [0x2DE92C6F592B0275, 0x4A7484AA6EA6E483, 0x5CB0A9DCBD41FBD4, 0x76F988DA831153B5]
    ++ [0x983E5152EE66DFAB, 0xA831C66D2DB43210, 0xB00327C898FB213F, 0xBF597FC7BEEF0EE4]
    ++ [0xC6E00BF33DA88FC2, 0xD5A79147930AA725, 0x06CA6351E003826F, 0x142929670A0E6E70]
    ++ [0x27B70A8546D22FFC, 0x2E1B21385C26C926, 0x4D2C6DFC5AC42AED, 0x53380D139D95B3DF]
    ++ [0x650A73548BAF63DE, 0x766A0ABB3C77B2A8, 0x81C2C92E47EDAEE6, 0x92722C851482353B]
    ++ [0xA2BFE8A14CF10364, 0xA81A664BBC423001, 0xC24B8B70D0F89791, 0xC76C51A30654BE30]
    ++ [0xD192E819D6EF5218, 0xD69906245565A910, 0xF40E35855771202A, 0x106AA07032BBD1B8]
    ++ [0x19A4C116B8D2D0C8, 0x1E376C085141AB53, 0x2748774CDF8EEB99, 0x34B0BCB5E19B48A8]
    ++ [0x391C0CB3C5C95A63, 0x4ED8AA4AE3418ACB, 0x5B9CCA4F7763E373, 0x682E6FF3D6B2B8A3]
    ++ [0x748F82EE5DEFB2FC, 0x78A5636F43172F60, 0x84C87814A1F0AB72, 0x8CC702081A6439EC]
    ++ [0x90BEFFFA23631E28, 0xA4506CEBDE82BDE9, 0xBEF9A3F7B2C67915, 0xC67178F2E372532B]
    ++ [0xCA273ECEEA26619C, 0xD186B8C721C0C207, 0xEADA7DD6CDE0EB1E, 0xF57D4F7FEE6ED178]
    ++ [0x06F067AA72176FBA, 0x0A637DC5A2C898A6, 0x113F9804BEF90DAE, 0x1B710B35131C471B]
    ++ [0x28DB77F523047D84, 0x32CAAB7B40C72493, 0x3C9EBE0A15C9BEBC, 0x431D67C49C100D4C]
    ++ [0x4CC5D4BECB3E42B6, 0x597F299CFC657E2A, 0x5FCB6FAB3AD6FAEC, 0x6C44198C4A475817]

/-- SHA-256. -/
def sha2of256 : Sha2 :=
  { w := 32, k := sha256K, bs := (2, 13, 22), cs := (6, 11, 25), ss := (7, 18, 3), ts := (17, 19, 10) }

/-- SHA-384 and SHA-512. -/
def sha2of512 : Sha2 :=
  { w := 64, k := sha512K, bs := (28, 34, 39), cs := (14, 18, 41), ss := (1, 8, 7), ts := (19, 61, 6) }

/-- Rotation to the right by n of a word of w bits. -/
def rotr (w n x : Nat) : Nat := (x >>> n) ||| ((x <<< (w - n)) % 2 ^ w)

/-- The upper-case sigma functions. -/
def bigSigma (w : Nat) (r : Nat × Nat × Nat) (x : Nat) : Nat := rotr w r.1 x ^^^ rotr w r.2.1 x ^^^ rotr w r.2.2 x

/-- The lower-case sigma functions. -/
def smallSigma (w : Nat) (r : Nat × Nat × Nat) (x : Nat) : Nat := rotr w r.1 x ^^^ rotr w r.2.1 x ^^^ (x >>> r.2.2)

/-- The message schedule, newest word first: n further words. -/
def sha2Sched (a : Sha2) : Nat → List Nat → List Nat
  | 0, ws => ws
  | n + 1, ws =>
    sha2Sched a n (((smallSigma a.w a.ts (ws.getD 1 0) + ws.getD 6 0 + smallSigma a.w a.ss (ws.getD 14 0)
      + ws.getD 15 0) % 2 ^ a.w) :: ws)

/-- The working variables after the rounds whose constants and schedule words are given. -/
def sha2Rounds (a : Sha2) : List Nat → List Nat → List Nat → List Nat
  | k :: ks, x :: xs, [va, vb, vc, vd, ve, vf, vg, vh] =>
    let t1 := vh + bigSigma a.w a.cs ve + ((ve &&& vf) ^^^ ((2 ^ a.w - 1 - ve) &&& vg)) + k + x
    let t2 := bigSigma a.w a.bs va + ((va &&& vb) ^^^ (va &&& vc) ^^^ (vb &&& vc))
    sha2Rounds a ks xs [(t1 + t2) % 2 ^ a.w, va, vb, vc, (vd + t1) % 2 ^ a.w, ve, vf, vg]
  | _, _, v => v

/-- One block of message words. -/
def sha2Block (a : Sha2) (h : List Nat) (ws : List Nat) : List Nat :=
  let sched := (sha2Sched a (a.k.length - 16) ws.reverse).reverse
  List.zipWith (fun x y => (x + y) % 2 ^ a.w) h (sha2Rounds a a.k sched h)

/-- n words of size k bytes, big-endian, from the front of b. -/
def beWords (k : Nat) : Nat → Bytes → List Nat
  | 0, _ => []
  | n + 1, b => beNat (b.take k) :: beWords k n (b.drop k)

/-- The blocks of a padded message, n of them. -/
def sha2Blocks (a : Sha2) : Nat → List Nat → Bytes → List Nat
  | 0, h, _ => h
  | n + 1, h, b => sha2Blocks a n (sha2Block a h (beWords (a.w / 8) 16 b)) (b.drop (2 * a.w))

/-- The padded message. -/
def sha2Pad (a : Sha2) (b : Bytes) : Bytes :=
  let bl := 2 * a.w
  let lf := a.w / 4
  b ++ [0x80] ++ List.replicate ((2 * bl - 1 - lf - b.length % bl) % bl) 0 ++ beBytes lf (8 * b.length)

/-- A SHA-2 digest of n bytes from the initial value h. -/
def sha2 (a : Sha2) (h : List Nat) (n : Nat) (b : Bytes) : Bytes :=
  let p := sha2Pad a b
  ((sha2Blocks a (p.length / (2 * a.w)) h p).flatMap (beBytes (a.w / 8))).take n

/-- SHA-256. -/
def sha256 (b : Bytes) : Bytes :=
  sha2 sha2of256 [0x6A09E667, 0xBB67AE85, 0x3C6EF372, 0xA54FF53A, 0x510E527F, 0x9B05688C, 0x1F83D9AB, 0x5BE0CD19] 32 b

/-- SHA-384. -/
def sha384 (b : Bytes) : Bytes :=
  sha2 sha2of512 ([0xCBBB9D5DC1059ED8, 0x629A292A367CD507, 0x9159015A3070DD17, 0x152FECD8F70E5939]
    ++ [0x67332667FFC00B31, 0x8EB44A8768581511, 0xDB0C2E0D64F98FA7, 0x47B5481DBEFA4FA4]) 48 b

/-- SHA-512. -/
def sha512 (b : Bytes) : Bytes :=
  sha2 sha2of512 ([0x6A09E667F3BCC908, 0xBB67AE8584CAA73B, 0x3C6EF372FE94F82B, 0xA54FF53A5F1D36F1]
    ++ [0x510E527FADE682D1, 0x9B05688C2B3E6C1F, 0x1F83D9ABFB41BD6B, 0x5BE0CD19137E2179]) 64 b

/-- HMAC over a hash with block size bl. -/
def hmac (h : Bytes → Bytes) (bl : Nat) (key msg : Bytes) : Bytes :=
  let k := if key.length > bl then h key else key
  let k := k ++ List.replicate (bl - k.length) 0
  h (k.map (· ^^^ 0x5C) ++ h (k.map (· ^^^ 0x36) ++ msg))

/-- HMAC-SHA-256. -/
def hmac256 (key msg : Bytes) : Bytes := hmac sha256 64 key msg
/-- HMAC-SHA-384. -/
def hmac384 (key msg : Bytes) : Bytes := hmac sha384 128 key msg
/-- HMAC-SHA-512. -/
def hmac512 (key msg : Bytes) : Bytes := hmac sha512 128 key msg

/-- Blocks 1 to n of the key-derivation function in counter mode (R216a). -/
def kdfBlocks (ki label ctx : Bytes) (bits : Nat) (i : Nat) : Nat → Bytes
  | 0 => []
  | n + 1 => hmac256 ki (beBytes 4 i ++ label ++ [0] ++ ctx ++ beBytes 4 bits) ++ kdfBlocks ki label ctx bits (i + 1) n

/-- The key-derivation function of R216a: len bytes. -/
def kdf (ki label ctx : Bytes) (len : Nat) : Bytes :=
  (kdfBlocks ki label ctx (8 * len) 1 ((len + 31) / 32)).take len

end Sys2Proof.Machine
end

