-- ==== Sys2Proof/Machine/Vault.lean ====
section
/-! DEFINITION. The key vault: slots, sealing, derivation, handles, quotas, the hot cache, the slot state machine and
seasons (09 R215 to R240). -/
namespace Sys2Proof.Machine

/-- A FREE slot (R216). -/
def freeSlot : Slot := {}

/-- Slot n. -/
def getSlot (s : State) (n : Nat) : Slot := tget freeSlot s.vlt.slots n

/-- s with slot n replaced. -/
def putSlot (s : State) (n : Nat) (x : Slot) : State := s.setVlt { s.vlt with slots := tput freeSlot s.vlt.slots n x }

/-- Material length of an ALG, in bytes (R218). -/
def algLen (alg : Nat) : Nat := match alg with
  | 0 => 16 | 1 => 24 | 2 => 32 | 3 => 32 | 4 => 48 | 5 => 32 | 6 => 48 | 7 => 32 | 8 => 32 | 9 => 32
  | 10 => 900 | 11 => 1796 | _ => 0

/-- ALG and USAGE combine (R218). USAGE: 0 ENCRYPT, 1 DECRYPT, 2 WRAP, 3 DERIVE, 4 MAC-GEN, 5 MAC-VER, 6 SIGN, 7 AGREE. -/
def algUsage (alg usage : Nat) : Bool :=
  if alg ≤ 2 then usage = 0 || usage = 1 || usage = 2 || usage = 4 || usage = 5
  else if alg ≤ 4 then usage = 4 || usage = 5
  else if alg ≤ 6 then usage = 6 || usage = 7
  else if alg ≤ 8 then usage = 6
  else if alg = 9 then usage = 3
  else if alg ≤ 11 then usage = 6 || usage = 1
  else false

/-- The 8-byte header of slot n (R216). -/
def hdrBytes (n : Nat) (x : Slot) : Bytes :=
  leBytes 8 (x.owner + 2 ^ 4 * x.usage + 2 ^ 7 * b2n x.exp + 2 ^ 8 * x.alg + 2 ^ 12 * x.state + 2 ^ 14 * x.root
    + 2 ^ 16 * x.assoc + 2 ^ 28 * x.role + 2 ^ 32 * n + 2 ^ 48 * x.sn)

/-- The branch of an owner (R216a). -/
def branchOf (s : State) (owner : Nat) : Branch := tget {} s.vlt.branches owner

/-- The sealed body of material under the owner's SEAL key with the header as initial value (R217). -/
def sealBody (s : State) (n : Nat) (x : Slot) (mat : Bytes) : Bytes :=
  kwWrap (branchOf s x.owner).sealK (hdrBytes n x) (slice mat 0 48)

/-- The material of slot n; none when the integrity check fails (R217). -/
def slotMat (s : State) (n : Nat) (x : Slot) : Option Bytes :=
  let (iv, p) := kwUnwrap (branchOf s x.owner).sealK x.body
  if x.body.length = 56 && iv = hdrBytes n x then some (p.take (algLen x.alg)) else none

/-- Slot n with its header changed and its body sealed again under the new header (R217: the header is the initial
value); without its SEAL key the body stays (log 91). -/
def reseal (s : State) (n : Nat) (f : Slot → Slot) : State :=
  let x := getSlot s n
  let y := f x
  match slotMat s n x with
  | some m => putSlot s n { y with body := sealBody s n y m }
  | none => putSlot s n y

/-- The key check value of a key (R228). -/
def kcvOf (alg : Nat) (mat : Bytes) : Bytes :=
  if alg ≤ 2 then (aesEnc mat (List.replicate 16 0)).take 3
  else (sha256 (ascii "STOLTO-KCV" ++ [BitVec.ofNat 8 alg] ++ mat)).take 3

/-! ### Derivation (R216a, R222 to R224) -/

/-- The test root TR (R222). -/
def testRoot : Bytes := sha256 (ascii "STOLTO-TEST-ROOT")

/-- The storage root for a root in force (R216a, R222). -/
def storageRoot (s : State) (root : Nat) : Bytes :=
  let ki := if root = 0 then testRoot else s.fus.dur
  let vr := if root = 2 then s.vlt.vr else List.replicate 32 0
  kdf ki (ascii "STOLTO-SR") ([BitVec.ofNat 8 root] ++ vr) 32

/-- An owner exists; the system always does (R5, R215). -/
def ownerExists (s : State) (n : Nat) : Bool := n = 0 || (n ≤ 15 && s.vlt.exist.getLsbD n)

/-- The branch keys of owner n under a storage root (R216a); owner 0's epoch is 0 (R224). -/
def branchKeys (s : State) (sr : Bytes) (n : Nat) : Branch :=
  let ep := if n = 0 then 0 else (s.vlt.epochs.getD n 0).toNat
  let or := kdf sr (ascii "STOLTO-OWNER") ([BitVec.ofNat 8 n] ++ beBytes 4 ep) 32
  { sealK := kdf or (ascii "STOLTO-SEAL") [BitVec.ofNat 8 n] 32
    dbwrap := kdf or (ascii "STOLTO-DBWRAP") [BitVec.ofNat 8 n] 32 }

/-- Every branch derived afresh from the root in force (R224). -/
def deriveAll (s : State) : State :=
  let root := rootInForce s
  let sr := storageRoot s root
  s.setVlt { s.vlt with
    root := root
    branches := (List.range 16).foldl
      (fun t n => if ownerExists s n then tput {} t n (branchKeys s sr n) else tput {} t n {}) [] }

/-- VRCHK of a vault root (R223). -/
def vrchkOf (dur vr : Bytes) : Bytes := (hmac256 dur (ascii "STOLTO-VRCHK" ++ vr)).take 16

/-- The vault-root check of K8 (R223). -/
def vrCheck (s : State) : Bool := vrchkOf s.fus.dur s.vlt.vr = s.vlt.vrchk

/-! ### Slots, quotas and associations (R215 to R221, R226, R227) -/

/-- The slots that are not FREE, with their numbers. -/
def usedSlots (s : State) : List (Nat × Slot) := s.vlt.slots.filter fun p => p.2.state ≠ 0

/-- LIVE slots of an owner; state codes of R216. -/
def countState (s : State) (owner : Nat) (f : Nat → Bool) : Nat :=
  ((usedSlots s).filter fun p => p.2.owner = owner && f p.2.state && !s.vlt.quar.contains p.1).length

/-- The quota of an owner (R220). -/
def quotaOf (s : State) (owner : Nat) : Nat := if owner = 0 then 32 else s.cfg.quota.getD owner 0

/-- The lowest-numbered FREE slot for an owner (R215, R221). -/
def freeFor (s : State) (owner : Nat) : Option Nat :=
  let r := if owner = 0 then (List.range 29).map (· + 3) else (List.range 992).map (· + 32)
  r.find? fun n => (getSlot s n).state = 0 && !s.vlt.quar.contains n

/-- The spare of an owner is held (R220). -/
def spareHeld (s : State) (owner : Nat) : Bool := tget 0 s.vlt.spare owner ≠ 0

/-- A request for one more slot is accepted (R220); system keys only need a free system slot (R215). -/
def quotaOk (s : State) (owner : Nat) (replace : Bool) : Bool :=
  let used := countState s owner fun st => st ≠ 0
  let q := quotaOf s owner
  if owner = 0 then (freeFor s 0).isSome
  else if replace then used + 1 ≤ q && !spareHeld s owner && 2 ≤ q && (freeFor s owner).isSome
  else used + 2 ≤ q && (freeFor s owner).isSome

/-- The association's record. -/
def getAssoc (s : State) (a : Nat) : Option Assoc := tget none s.vlt.assocs a

/-- The slots of an association, not ZEROIZING. -/
def assocSlots (s : State) (a : Nat) : List (Nat × Slot) :=
  (usedSlots s).filter fun p => p.2.assoc = a && p.2.state ≠ 3

/-- The LIVE slot of an association with this role whose root is in force. -/
def roleSlot (s : State) (a role : Nat) : Option (Nat × Slot) :=
  (assocSlots s a).find? fun p => p.2.state = 1 && p.2.role = role && p.2.root = s.vlt.root

/-- The schedule of an association. -/
def seasonOf (s : State) (a : Nat) : Option Season := s.vlt.seasons.find? (·.assoc = a)

/-- The association's window before X is open (R231). -/
def windowOpen (s : State) (a : Nat) : Bool := match seasonOf s a with
  | some x => x.opened && !x.rolled
  | none => false

/-- A slot serves a use now (R231, R232): current keys serve every use, next keys inside the window and retiring keys those
that accept what a key made, and none that makes (log 16). -/
def servesNow (s : State) (x : Slot) (accepts : Bool) : Bool :=
  x.role = 0 || (accepts && (x.role = 2 || (x.role = 1 && windowOpen s x.assoc)))

/-- The uses that accept what a key made: DECRYPT, WRAP, which the commands use to unwrap, MAC-VER, and the read of a public
key, which is coded as the usage plus 8. -/
def accepting (usage : Nat) : Bool := usage = 1 || usage = 2 || usage = 5 || 8 ≤ usage

/-- A handle names the slot: OWNER, ASSOC and SEL (R226). -/
def handleNames (h : Word) (x : Slot) : Bool :=
  x.owner = fld h 28 4 && x.assoc = fld h 16 12
    && (if fld h 0 16 = 0xFFFF then x.role = 0 else x.sn = fld h 0 16)

/-- The LIVE slot that a handle resolves to under the root in force (R226, R225). -/
def resolve (s : State) (h : Word) : Option (Nat × Slot) :=
  (usedSlots s).find? fun p => p.2.state = 1 && p.2.root = s.vlt.root && handleNames h p.2 && ownerExists s p.2.owner

/-! ### The hot cache (R234 to R236) -/

/-- The cache entry of a slot. -/
def cacheOf (s : State) (n : Nat) : Option CacheEnt := s.vlt.cache.find? (·.slot = n)

/-- The cache without its entries of slot n. -/
def cacheDrop (s : State) (n : Nat) : State := s.setVlt { s.vlt with cache := s.vlt.cache.filter (·.slot ≠ n) }

/-- Room for one more entry: the least recently used unpinned entry is evicted when all 512 are in use (R234). -/
def cacheRoom (s : State) : State :=
  if s.vlt.cache.length < 512 then s
  else match s.vlt.cache.find? (fun e => !e.pin && !e.staged) with
    | some e => s.setVlt { s.vlt with cache := s.vlt.cache.erase e, evict := satInc 0xFFFFFFFF s.vlt.evict }
    | none => s

/-- The lowest-numbered entry that is free (log 30). -/
def cacheFree (s : State) : Nat := ((List.range 512).find? fun i => !s.vlt.cache.any (·.idx = i)).getD 0

/-- A slot loaded into the cache, or moved to its most recently used end (R234); none when its unwrap fails (R217). -/
def cacheLoad (s : State) (n : Nat) (x : Slot) : Option (CacheEnt × State) :=
  match cacheOf s n with
  | some e => some (e, s.setVlt { s.vlt with cache := s.vlt.cache.filter (·.slot ≠ n) ++ [e] })
  | none => match slotMat s n x with
    | none => none
    | some m =>
      let s := cacheRoom s
      let e : CacheEnt := { idx := cacheFree s, slot := n, hdr := x, mat := m }
      some (e, s.setVlt { s.vlt with cache := s.vlt.cache ++ [e] })

/-- Headers copied into the cache follow their slots. -/
def cacheSync (s : State) (n : Nat) : State :=
  s.setVlt { s.vlt with cache := s.vlt.cache.map fun e => if e.slot = n then { e with hdr := getSlot s n } else e }

/-- Pinned entries of an owner. -/
def pinnedOf (s : State) (owner : Nat) : Nat := (s.vlt.cache.filter fun e => e.pin && e.hdr.owner = owner).length

/-- Pinned entries in all. -/
def pinnedAll (s : State) : Nat := (s.vlt.cache.filter (·.pin)).length

/-- Some entry of the association is pinned. -/
def assocPinned (s : State) (a : Nat) : Bool := s.vlt.cache.any fun e => e.pin && e.hdr.assoc = a

/-- The pins that a PENDING or ARMED operation adds when its key becomes LIVE: a replacement takes over its old slot's
(R235, R236). -/
def pinsOf (s : State) (op : KeyOp) : Nat :=
  let held := assocPinned s op.assoc
  if op.kind = 2 then b2n (op.pinned && !held) else b2n (op.pinned || held)

/-- The pins that the operations of an owner, or of every owner, add at their edges. -/
def pledged (s : State) (f : Nat → Bool) : Nat :=
  ((s.vlt.keyOps.filter fun o => f (getSlot s o.slot).owner).map (pinsOf s)).sum

/-- k further pins of an owner stay within both limits (R235), counted with those that accepted installs will add. -/
def pinOk (s : State) (owner k : Nat) : Bool :=
  k = 0 || (pinnedAll s + pledged s (fun _ => true) + k ≤ 448
    && pinnedOf s owner + pledged s (· = owner) + k ≤ s.vlt.pincap.getD owner 0)

/-- The pinned entry that a handle finds on the fast path (R27, R296). -/
def fastEntry (s : State) (h : Word) : Option CacheEnt :=
  s.vlt.cache.find? fun e => e.pin && !e.staged && e.hdr.state = 1 && e.hdr.root = s.vlt.root && handleNames h e.hdr

/-- A slot's material for a firmware-class use (R234): through the cache, loaded on a miss by an unwrap on an AES lane, which
ABORTED answers when all of them are gated; an unwrap that fails answers NO_KEY with a security entry that names the
slot (R217). -/
def slotUse (s : State) (n : Nat) (x : Slot) : (Nat × State) ⊕ (Bytes × State) :=
  if (cacheOf s n).isNone && [0, 1, 2, 3].all s.mode.gatedEng.contains then .inl (0x21, s)
  else match cacheLoad s n x with
    | none => .inl (0x12, logSW s .vlt 1 x.owner (leBytes 8 n))
    | some (e, s') => .inr (e.mat, s')

/-- What a firmware-class use of a handle finds: a status, or the slot, its material and the state with the cache
touched (R219, R226, R232, R234). -/
def useKey (s : State) (owner : Nat) (h : Word) (usage : Nat) (alg : Nat → Bool) :
    (Nat × State) ⊕ (Slot × Bytes × State) :=
  match resolve s h with
  | none => .inl (0x12, s)
  | some (n, x) =>
    if x.owner ≠ owner then .inl (0x10, s)
    else if x.usage ≠ usage % 8 || !alg x.alg then .inl (0x10, s)
    else if !servesNow s x (accepting usage) then .inl (0x12, s)
    else match slotUse s n x with
      | .inl e => .inl e
      | .inr (m, s') => .inr (x, m, s')

/-! ### Zeroization (R229, R239) -/

/-- A fast-path operation holds the slot: its MAC runs under the slot's key (R33). -/
def macHolds (s : State) (n : Nat) : Bool := s.eng.units.any fun p => p.2.any fun j => j.holds = some n

/-- A slot becomes ZEROIZING; its cache entry is invalid from this moment (R229, R236). Its body goes once no fast-path
operation holds it (R33). -/
def zeroize (s : State) (n : Nat) : State :=
  let x := getSlot s n
  if x.state = 0 then s
  else cacheDrop (putSlot s n { x with state := 3, body := if macHolds s n then x.body else [] }) n

/-- The association ceases to exist with its last slot (R377). -/
def assocCheck (s : State) (a : Nat) : State :=
  if (usedSlots s).any fun p => p.2.assoc = a then s
  else s.setVlt { s.vlt with assocs := tput none s.vlt.assocs a none,
                             seasons := s.vlt.seasons.filter (·.assoc ≠ a) }

/-- The spare that slot n held for its owner returns (R220). -/
def spareBack (s : State) (n : Nat) : State :=
  s.setVlt { s.vlt with spare := s.vlt.spare.filter fun p => p.2 ≠ n }

/-- The waits of R375 that a tag names, ended with a status: completion by the caller's function. -/
def waitsOf (s : State) (f : WaitTag → Bool) : List Wait := s.hif.waits.filter fun w => f w.tag

/-- A slot quarantined after two failed readbacks (R239). -/
def quarantine (s : State) (n : Nat) : State :=
  logSW (alarmSet (s.setVlt { s.vlt with quar := s.vlt.quar ++ [n], zfail := true }) .zfail) .vlt 2 (getSlot s n).owner
    (leBytes 8 n)

/-- The readback of a zeroized slot (R239): a pass frees it; a failure zeroizes it once more; a second failure
quarantines it. -/
def readback (s : State) (n : Nat) (ok : Bool) : State :=
  let x := getSlot s n
  if x.state ≠ 3 then s
  else if ok then
    let s := putSlot s n freeSlot
    let s := s.setVlt { s.vlt with zTry := s.vlt.zTry.filter (· ≠ n) }
    assocCheck (spareBack s n) x.assoc
  else if s.vlt.zTry.contains n then
    let s := putSlot s n freeSlot
    let s := s.setVlt { s.vlt with zTry := s.vlt.zTry.filter (· ≠ n) }
    assocCheck (spareBack (quarantine s n) n) x.assoc
  else s.setVlt { s.vlt with zTry := s.vlt.zTry ++ [n] }

/-! ### The slot state machine (R229) -/

/-- SN after one advance (R227). -/
def snNext (sn : Nat) : Nat := if sn = 0xFFFE then 0 else (sn + 1) % 65536

/-- A PENDING slot written for a new key (R229, R221): kind 0 first key, 1 next key, 2 replacement. -/
def pendKey (s : State) (n owner usage alg assoc sn : Nat) (exp : Bool) (mat : Bytes) (op : KeyOp) : State :=
  let x : Slot := { owner := owner, usage := usage, exp := exp, alg := alg, state := 2, root := s.vlt.root,
                    assoc := assoc, role := if op.kind = 1 then 1 else 0, sn := sn }
  let s := putSlot s n { x with body := sealBody s n x mat }
  let used := countState s owner fun st => st ≠ 0
  let s := s.setVlt { s.vlt with keyOps := s.vlt.keyOps ++ [op],
                                 assocs := match getAssoc s assoc with
                                   | some _ => s.vlt.assocs
                                   | none => tput none s.vlt.assocs assoc (some ⟨owner, usage, alg, false⟩) }
  match op.old with
  | some o => if owner ≠ 0 && quotaOf s owner ≤ used then
      s.setVlt { s.vlt with spare := tput 0 s.vlt.spare owner o } else s
  | none => s

/-- A PENDING or ARMED slot given up: zeroized, its operation dropped. A spare that it took returns with its own slot
(R220). -/
def dropKey (s : State) (n : Nat) : State :=
  let old := (s.vlt.keyOps.find? (·.slot = n)).bind (·.old)
  let s := zeroize s n
  s.setVlt { s.vlt with
    keyOps := s.vlt.keyOps.filter (·.slot ≠ n)
    spare := s.vlt.spare.map fun p => if old = some p.2 then (p.1, n) else p }

/-- The key of an ARMED replacement of a pinned key is loaded before its edge into an unpinned entry marked STAGED
(R236). -/
def stageKey (s : State) (op : KeyOp) : State :=
  if op.kind = 2 && assocPinned s op.assoc then
    match cacheLoad s op.slot (getSlot s op.slot) with
    | some (_, s) => s.setVlt { s.vlt with cache := s.vlt.cache.map fun e =>
        if e.slot = op.slot then { e with staged := true } else e }
    | none => s
  else s

/-- An ARMED slot becomes LIVE at the edge; a replaced slot becomes ZEROIZING, a pinned one hands its pin over in the
same step (R229, R235, R236). -/
def armedLive (s : State) (op : KeyOp) : State :=
  let wasPin := assocPinned s op.assoc || op.pinned
  let s := cacheSync (reseal s op.slot fun x => { x with state := 1 }) op.slot
  let s := match op.old with
    | some o => zeroize s o
    | none => s
  let s := s.setVlt { s.vlt with keyOps := s.vlt.keyOps.filter (·.slot ≠ op.slot) }
  if wasPin then
    match cacheLoad s op.slot (getSlot s op.slot) with
    | some (_, s) => s.setVlt { s.vlt with cache := s.vlt.cache.map fun e =>
        if e.slot = op.slot then { e with pin := true, staged := false } else e }
    | none => s
  else s

/-- Every ARMED operation takes its edge (R229). -/
def keySwitch (s : State) : State := (s.vlt.keyOps.filter (·.armed)).foldl armedLive s

/-- Unpins requested before the edge (R235). -/
def applyUnpins (s : State) : State :=
  s.setVlt { s.vlt with
    unpin := []
    cache := s.vlt.cache.map fun e => if s.vlt.unpin.contains e.hdr.assoc then { e with pin := false } else e }

/-! ### Seasons (R231) -/

/-- The schedule of a replaced. -/
def setSeason (s : State) (x : Season) : State :=
  s.setVlt { s.vlt with seasons := s.vlt.seasons.map fun y => if y.assoc = x.assoc then x else y }

/-- X − OVLEN of a schedule. -/
def seasonOpenAt (x : Season) : Word := x.x - wordOf x.ovlen
/-- X + OVLEN of a schedule. -/
def seasonEndAt (x : Season) : Word := x.x + wordOf x.ovlen

/-- The roles advance at X: current to retiring, next to current (R231). -/
def rollRoles (s : State) (a : Nat) : State :=
  let cur := (assocSlots s a).find? fun p => p.2.state = 1 && p.2.role = 0
  let nxt := (assocSlots s a).find? fun p => p.2.state = 1 && p.2.role = 1
  let s := match cur with
    | some (n, _) => cacheSync (reseal s n fun x => { x with role := 2 }) n
    | none => s
  match nxt with
  | some (n, _) => cacheSync (reseal s n fun x => { x with role := 0 }) n
  | none => s

/-- The retiring key of an association is zeroized (R231). -/
def dropRetiring (s : State) (a : Nat) : State :=
  match (assocSlots s a).find? fun p => p.2.state = 1 && p.2.role = 2 with
  | some (n, _) => zeroize s n
  | none => s

/-- The beacon runs with valid main supplies (R238). -/
def edgesRun (s : State) : Bool := mainUp s && s.glb.run

/-- SEASON_WINDOW_OPEN (R231): at the edge of X − OVLEN the next key starts to verify. -/
def execSeasonWindowOpen (a : BitVec 12) (s : State) : Host.Outcome State Fault Refusal :=
  match seasonOf s a.toNat with
  | some x => if edgesRun s && !x.opened && tickReached (seasonOpenAt x) s.glb.tick then
      .next (setSeason s { x with opened := true }) else .next s
  | none => .next s

/-- SEASON_ROLLOVER (R231): at the edge of X the next key becomes current and the current key retiring; with OVLEN = 0
the old key is zeroized within the tick. -/
def execSeasonRollover (a : BitVec 12) (s : State) : Host.Outcome State Fault Refusal :=
  match seasonOf s a.toNat with
  | some x => if edgesRun s && !x.rolled && tickReached x.x s.glb.tick then
      .next (setSeason (rollRoles s a.toNat) { x with opened := true, rolled := true }) else .next s
  | none => .next s

/-- SEASON_WINDOW_END (R231): at the edge of X + OVLEN the retiring key is zeroized and the schedule ends. -/
def execSeasonWindowEnd (a : BitVec 12) (s : State) : Host.Outcome State Fault Refusal :=
  match seasonOf s a.toNat with
  | some x => if edgesRun s && x.rolled && tickReached (seasonEndAt x) s.glb.tick then
      .next (let s := dropRetiring s a.toNat
             s.setVlt { s.vlt with seasons := s.vlt.seasons.filter (·.assoc ≠ a.toNat) }) else .next s
  | none => .next s

/-- GENERATE_COMMIT_EXPIRY (R378): a generated key not committed within 4096 ticks is zeroized. -/
def execGenerateCommitExpiry (n : Nat) (s : State) : Host.Outcome State Fault Refusal :=
  match s.vlt.keyOps.find? (·.slot = n) with
  | some op => match op.deadline with
    | some d => if !op.armed && (getSlot s n).state = 2 && edgesRun s && tickReached d s.glb.tick then
        .next (dropKey s n) else .next s
    | none => .next s
  | none => .next s

/-! ### KINDLE (R225, R230, R233) -/

/-- A slot does not belong with the root handed on (R225). -/
def foreignRoot (root slotRoot : Nat) : Bool := slotRoot < root

/-- Slots zeroized in one go, as KINDLE completes it: FREE at its end, but for those among bad, whose readback fails twice
(R239). -/
def wipeSlots (bad : List Nat) (s : State) (f : Nat → Slot → Bool) : State :=
  let q := ((usedSlots s).filter fun p => f p.1 p.2 && bad.contains p.1).map (·.1)
  q.foldl quarantine (s.setVlt { s.vlt with slots := s.vlt.slots.filter fun p => !f p.1 p.2 })

/-- Duplicate current slots of one association: the one with the newer SN stays (R230). -/
def dupCurrent (s : State) (n : Nat) (x : Slot) : Bool :=
  x.state = 1 && x.role = 0 && (usedSlots s).any fun p =>
    p.1 ≠ n && p.2.state = 1 && p.2.role = 0 && p.2.assoc = x.assoc && newer16 p.2.sn x.sn

/-- R233: schedules before their window are discarded; an open window is rolled to the state after X. -/
def seasonKindle (s : State) : State :=
  let opened := s.vlt.seasons.filter (·.opened)
  let lost := s.vlt.seasons.any fun x => !x.opened
  let s := opened.foldl (fun s x => if x.rolled then s else rollRoles s x.assoc) s
  s.setVlt { s.vlt with
    seasons := opened.map fun x => { x with x := 1, rolled := true }
    schedLost := s.vlt.schedLost || lost }

/-- What KINDLE does to the vault once the root is known (R225, R230, R233, R235, R239, R377); bad are the slots whose
readback fails twice. -/
def vaultKindle (bad : List Nat) (s : State) : State :=
  let s := wipeSlots bad s fun _ x => x.state = 2 || x.state = 3
  let s := wipeSlots bad s fun _ x => foreignRoot s.vlt.root x.root
  let s := wipeSlots bad s (dupCurrent s)
  let s := s.setVlt { s.vlt with cache := [], keyOps := [], unpin := [], spare := [], zTry := [] }
  let s := seasonKindle s
  s.setVlt { s.vlt with assocs := s.vlt.assocs.filter fun p => (usedSlots s).any fun q => q.2.assoc = p.1 }

/-- Every slot of an owner zeroized (R240). -/
def zeroizeOwner (s : State) (owner : Nat) : State :=
  let ns := ((usedSlots s).filter fun p => p.2.owner = owner).map (·.1)
  let s := ns.foldl zeroize s
  s.setVlt { s.vlt with keyOps := s.vlt.keyOps.filter fun o => !ns.contains o.slot,
                        seasons := s.vlt.seasons.filter fun x =>
                          match getAssoc s x.assoc with
                          | some a => a.owner ≠ owner
                          | none => true }

end Sys2Proof.Machine
end

