-- ==== Sys2Proof/Machine/Db.lean ====
section
/-! DEFINITION. The wrapped key database in external flash: pages, index segments, journaled writes and recovery
(16 R391 to R398). -/
namespace Sys2Proof.Machine

/-- The flash key FK of the root in force (R393). -/
def dbFk (s : State) : Bytes := kdf (storageRoot s s.vlt.root) (ascii "STOLTO-FLASH") [0] 32

/-- ROOTID (R393). -/
def dbRootId (s : State) : Bytes := if s.vlt.root = 2 then s.vlt.vrchk.take 8 else 1 :: List.replicate 7 0

/-- MAGIC (R394). -/
def dbMagic : Bytes := [0x53, 0x50, 0x47, 0x31]

/-- The 48-byte header of a page or a segment copy (R394). -/
def dbHeader (fk : Bytes) (kind id : Nat) (seq : Word) (body : Bytes) : Bytes :=
  let h := dbMagic ++ leBytes 1 kind ++ leBytes 1 0 ++ leBytes 2 id ++ leBytes 4 seq.toNat ++ leBytes 4 body.length
    ++ (sha256 body).take 16
  h ++ cmac fk h

/-- Offset of copy c of segment g (R391). -/
def segAddr (g c : Nat) : Nat := 0x440000 + 0x2000 * g + 0x1000 * c

/-- Flash address of a page (R392): device and offset. -/
def pageSel (p : Nat) : Nat := p / 2 ^ 29
/-- Offset of a page in its device. -/
def pageOff (p : Nat) : Nat := p % 2 ^ 29 * 4096

/-- The SEQ and body at a flash place whose header has this KIND and ID and whose body matches DIGEST. -/
def dbRead (s : State) (sel off kind id : Nat) : Option (Word × Bytes) :=
  if flashRead s sel off 4 ≠ dbMagic then none
  else
    let h := flashRead s sel off 48
    let n := leAt h 0x0C 4
    let b := flashRead s sel (off + 48) (min n 4048)
    if byteAt h 4 = kind && leAt h 6 2 = id && n ≤ 4048 && (sha256 b).take 16 = slice h 16 16 then
      some (wordOf (leAt h 8 4), b)
    else none

/-- The CMAC of the header at a flash place verifies (R393, R394). -/
def dbMac (s : State) (fk : Bytes) (sel off : Nat) : Bool :=
  let h := flashRead s sel off 48
  cmac fk (h.take 32) = h.drop 32

/-- A valid segment copy (R398 step 1). -/
def segCopy (s : State) (fk : Bytes) (g c : Nat) : Option (Word × Bytes) :=
  match dbRead s 0 (segAddr g c) 3 g with
  | some x => if dbMac s fk 0 (segAddr g c) then some x else none
  | none => none

/-- The newer of two copies: copy number, SEQ and body. -/
def newerCopy (a b : Option (Word × Bytes)) : Option (Nat × Word × Bytes) :=
  match a, b with
  | none, none => none
  | some x, none => some (0, x)
  | none, some y => some (1, y)
  | some x, some y => if tickFuture y.1 x.1 then some (1, y) else some (0, x)

/-- The copy of a segment in force (R398 step 1). -/
def segForce (s : State) (fk : Bytes) (g : Nat) : Option (Nat × Word × Bytes) :=
  newerCopy (segCopy s fk g 0) (segCopy s fk g 1)

/-- Entry j of a segment body: page and SEQ, none when empty (R395). -/
def segEntry (b : Bytes) (j : Nat) : Option (Nat × Word) :=
  if leAt b (8 + 8 * j) 4 = 0xFFFFFFFF then none else some (leAt b (8 + 8 * j) 4, wordOf (leAt b (12 + 8 * j) 4))

/-- A segment with no valid copy. -/
def segBlank (s : State) : Bytes := dbRootId s ++ List.replicate 2048 0xFF

/-- The body of a segment in force, or an empty one. -/
def segBody (s : State) (fk : Bytes) (g : Nat) : Bytes := match segForce s fk g with
  | some x => x.2.2
  | none => segBlank s

/-- The entries in force of a segment. -/
def segEntries (s : State) (fk : Bytes) (g : Nat) : List (Nat × Nat × Word) := match segForce s fk g with
  | none => []
  | some x => (List.range (if g = 256 then 16 else 256)).filterMap fun j => (segEntry x.2.2 j).map fun e => (j, e)

/-- Every segment number. -/
def segList : List Nat := List.range 257

/-- A page is named by a copy in force. -/
def pageNamed (s : State) (fk : Bytes) (p : Nat) : Bool :=
  segList.any fun g => (segEntries s fk g).any fun e => e.2.1 = p

/-- A database page of a fitted device (R392). -/
def isPage (s : State) (p : Nat) : Bool :=
  p < 2 ^ 32 && bit s.spi0.cfg (15 + pageSel p) && p % 2 ^ 29 < Config.flashSectors (pageSel p)
    && (pageSel p ≠ 0 || 0x650 ≤ p % 2 ^ 29)

/-- A free page: an erased one, else the lowest that nothing names, which is then erased (R397). -/
def freePage (s : State) (fk : Bytes) : Option Nat :=
  match s.spi0.db.erased with
  | p :: _ => some p
  | [] => (List.range 8).findSome? fun k =>
      ((List.range (Config.flashSectors k)).map (k * 2 ^ 29 + ·)).find? fun p =>
        isPage s p && !s.spi0.db.retired.contains p && !pageNamed s fk p

/-- The database's registers replaced. -/
def setDb (s : State) (d : Db) : State := s.setSpi0 { s.spi0 with db := d }

/-- Bytes whose readback differs from what was programmed: the spec does not say what they hold (R396; log 9). -/
def flashSpoil (s : State) (sel k n : Nat) : State :=
  let (f, s) := freeBytes s n
  s.setFlash (tputN 0xFF s.flash (sel * 2 ^ 32 + k) f)

/-- The copy of a segment that is not in force. -/
def segOther (s : State) (fk : Bytes) (g : Nat) : Nat := match segForce s fk g with
  | some x => 1 - x.1
  | none => 0

/-- Copy c of a segment written with this body: erased, body, then header, with the next DBSEQ (R396). -/
def segWriteAt (s : State) (fk : Bytes) (g c : Nat) (body : Bytes) : State :=
  let seq := s.spi0.db.seq + 1
  let s := setDb s { s.spi0.db with seq := seq }
  let s := flashErase s 0 (segAddr g c) 4096
  let s := flashProgram s 0 (segAddr g c + 48) body
  flashProgram s 0 (segAddr g c) (dbHeader fk 3 g seq body)

/-- The next copy of a segment written with this body. -/
def segWrite (s : State) (fk : Bytes) (g : Nat) (body : Bytes) : State := segWriteAt s fk g (segOther s fk g) body

/-- A write of copy c of a segment whose readback differs (R396). -/
def segSpoil (s : State) (g c : Nat) : State :=
  flashSpoil (setDb s { s.spi0.db with seq := s.spi0.db.seq + 1 }) 0 (segAddr g c) 4096

/-- The next copy of a segment written when this many of its readbacks differ: one more write after the first, and no
copy after the second (R396, R397). -/
def segWrites (s : State) (fk : Bytes) (g : Nat) (body : Bytes) (bad : Nat) : State :=
  let c := segOther s fk g
  if bad = 0 then segWriteAt s fk g c body
  else if bad = 1 then segWriteAt (segSpoil s g c) fk g c body
  else segSpoil (segSpoil s g c) g c

/-- A segment body with entry j replaced. -/
def segSet (b : Bytes) (j : Nat) (e : Bytes) : Bytes := b.take (8 + 8 * j) ++ e ++ b.drop (16 + 8 * j)

/-- Page p written with the next DBSEQ: erased unless it is, body, then header (R396). -/
def dbPage (s : State) (fk : Bytes) (p kind id : Nat) (body : Bytes) : State :=
  let s := if s.spi0.db.erased.contains p then s else flashErase s (pageSel p) (pageOff p) 4096
  let seq := s.spi0.db.seq + 1
  let s := setDb s { s.spi0.db with seq := seq, erased := s.spi0.db.erased.filter (· ≠ p) }
  let s := flashProgram s (pageSel p) (pageOff p + 48) body
  flashProgram s (pageSel p) (pageOff p) (dbHeader fk kind id seq body)

/-- The body of segment g with its entry j moved to page p, which was written last. -/
def segMoved (s : State) (fk : Bytes) (g j p : Nat) : Bytes :=
  segSet (segBody s fk g) j (leBytes 4 p ++ leBytes 4 s.spi0.db.seq.toNat)

/-- An object or association block written and its entry moved to it (R396); none when no page is free (R397). -/
def dbWrite (s : State) (kind id g j : Nat) (body : Bytes) : Option State :=
  let fk := dbFk s
  match freePage s fk with
  | none => none
  | some p =>
    let s := dbPage s fk p kind id body
    some (segWrite s fk g (segMoved s fk g j p))

/-- A page written whose readback differs: it is retired (R396). -/
def pageRetire (s : State) (p : Nat) : State :=
  let d := s.spi0.db
  flashSpoil (setDb s { d with seq := d.seq + 1, erased := d.erased.filter (· ≠ p), retired := d.retired ++ [p] })
    (pageSel p) (pageOff p) 4096

/-- The pages tried when this many readbacks of them differ: 0 a page stands to be written, 1 no page is free, 2 the second
readback failed (R396, R397). -/
def pagesTry (s : State) (bad : Nat) : State × Nat :=
  if bad = 0 then (s, 0)
  else match freePage s (dbFk s) with
    | none => (s, 1)
    | some p =>
      let s := pageRetire s p
      if bad = 1 then (s, 0)
      else match freePage s (dbFk s) with
        | none => (s, 1)
        | some p => (pageRetire s p, 2)

/-- A write of an object or association block with its readbacks: fail[1:0] is how many of a page differ, fail[3:2] how many
of the segment copy. 0 journaled, 1 no page is free, 2 a second readback failed (R396, R397). -/
def dbStore (s : State) (kind id g j : Nat) (body : Bytes) (fail : Word) : State × Nat :=
  let fk := dbFk s
  match pagesTry s (fld fail 0 2) with
  | (s, 0) => match freePage s fk with
    | none => (s, 1)
    | some p =>
      let s := housekeep (dbPage s fk p kind id body)
      (segWrites s fk g (segMoved s fk g j p) (fld fail 2 2), if 1 < fld fail 2 2 then 2 else 0)
  | (s, n) => (s, n)

/-- A key object written (R396). -/
def dbPutObj (s : State) (id : Nat) (body : Bytes) (fail : Word) : State × Nat := dbStore s 1 id (id / 256) (id % 256) body fail

/-- A key object removed from the index, with so many readbacks of the segment copy that differ (R396). -/
def dbDelObj (s : State) (id bad : Nat) : State :=
  let fk := dbFk s
  segWrites (housekeep s) fk (id / 256) (segSet (segBody s fk (id / 256)) (id % 256) (List.replicate 8 0xFF)) bad

/-- The entry of an object in the index. -/
def dbEntry (s : State) (id : Nat) : Option (Nat × Word) :=
  match segForce s (dbFk s) (id / 256) with
  | some x => segEntry x.2.2 (id % 256)
  | none => none

/-- The object that an open database holds under OBJ_ID: header, CMAC, SEQ and DIGEST agree (R398). -/
def dbFind (s : State) (id : Nat) : Option Bytes :=
  if !s.spi0.db.isOpen then none
  else match dbEntry s id with
    | none => none
    | some (p, seq) => match dbRead s (pageSel p) (pageOff p) 1 id with
      | some (q, b) => if q = seq && dbMac s (dbFk s) (pageSel p) (pageOff p) then some b else none
      | none => none

/-- The record of an association in its block (R394). -/
def assocRec (a : Option Assoc) : Bytes := match a with
  | none => leBytes 4 0
  | some x => leBytes 4 (x.owner + 2 ^ 4 * x.usage + 2 ^ 7 * b2n x.mirror + 2 ^ 8 * x.alg + 2 ^ 12)

/-- The body of association block b (R394). -/
def assocBlock (s : State) (b : Nat) : Bytes :=
  (List.range 256).flatMap fun j => assocRec (getAssoc s (256 * b + j))

/-- A change of association a journaled (R396, 15 R377), when the database is open and a page is free. -/
def journalAssoc (s : State) (a : Nat) : State :=
  if !s.spi0.db.isOpen then s
  else (dbWrite s 2 (a / 256) 256 (a / 256) (assocBlock s (a / 256))).getD s

/-- The same for a command whose run meets readbacks that differ. -/
def journalAssocIo (s : State) (a : Nat) (fail : Word) : State × Nat :=
  if !s.spi0.db.isOpen then (s, 0) else dbStore s 2 (a / 256) 256 (a / 256) (assocBlock s (a / 256)) fail

/-! ### Recovery at K10 (R398) -/

/-- The ROOTIDs that the segment copies record: a copy of an earlier root is told by everything but its CMAC, which is
under that root's FK (log 21). -/
def dbRoots (s : State) : List Bytes := segList.filterMap fun g =>
  (newerCopy (dbRead s 0 (segAddr g 0) 3 g) (dbRead s 0 (segAddr g 1) 3 g)).map fun x => x.2.2.take 8

/-- Every segment copy erased (R398 step 2). -/
def dbFormat (s : State) : State := flashErase s 0 0x440000 0x202000

/-- An entry names a page whose header is valid and agrees (R398 step 3). -/
def entryGood (s : State) (fk : Bytes) (kind id : Nat) (e : Nat × Word) : Bool :=
  let h := flashRead s (pageSel e.1) (pageOff e.1) 48
  h.take 4 = dbMagic && byteAt h 4 = kind && leAt h 6 2 = id && wordOf (leAt h 8 4) = e.2
    && dbMac s fk (pageSel e.1) (pageOff e.1)

/-- The entries in force whose page does not bear them out (R398 step 3). -/
def lostEntries (s : State) (fk : Bytes) : List Nat := segList.flatMap fun g =>
  ((segEntries s fk g).filter fun e =>
    !entryGood s fk (if g = 256 then 2 else 1) (if g = 256 then e.1 else 256 * g + e.1) e.2).map fun e => 256 * g + e.1

/-- The newer of two sequence numbers (R9). -/
def newerSeq (a b : Word) : Word := if tickFuture b a then b else a

/-- The newest SEQ of the copies read and the pages they name (R396). -/
def dbNewest (s : State) (fk : Bytes) : Word :=
  segList.foldl (fun m g =>
    let m := match segCopy s fk g 0 with | some x => newerSeq m x.1 | none => m
    let m := match segCopy s fk g 1 with | some x => newerSeq m x.1 | none => m
    (segEntries s fk g).foldl (fun m e => newerSeq m e.2.2) m) 0

/-- K10 of KINDLE (R393, R398). -/
def dbRecover (s : State) : State :=
  if s.vlt.root = 0 then setDb s {}
  else
    let ids := dbRoots s
    let other := !ids.isEmpty && ids.all (· ≠ dbRootId s)
    if other && s.vlt.root ≠ 2 then setDb s {}
    else
      let s := if other then logOtherS (dbFormat s) .spi0 (leBytes 8 0) else s
      let fk := dbFk s
      let lost := lostEntries s fk
      let s := setDb s { isOpen := true, lost := min 15 lost.length, seq := dbNewest s fk }
      lost.foldl (fun s id => logOtherS s .spi0 (leBytes 8 id)) s

/-- Objects in the index (SPI0_DBSTAT.OBJECTS); of a closed database nothing is read (R393). -/
def dbObjects (s : State) : Nat :=
  let fk := dbFk s
  if !s.spi0.db.isOpen then 0
  else ((List.range 256).map fun g => (segEntries s fk g).length).sum

/-- BACKGROUND_ERASE (R397): a free page erased ahead of use; none while a DIM entry is pending (03 M6). -/
def execBackgroundErase (p : Word) (s : State) : Host.Outcome State Fault Refusal :=
  let n := p.toNat
  if mainUp s && s.spi0.db.isOpen && s.mode.dimPend = none && s.spi0.cur = none && isPage s n && !s.spi0.db.retired.contains n
      && !s.spi0.db.erased.contains n && !pageNamed s (dbFk s) n then
    .next (let s := flashErase s (pageSel n) (pageOff n) 4096
           setDb s { s.spi0.db with erased := s.spi0.db.erased ++ [n] })
  else .next s

end Sys2Proof.Machine
end

