-- ==== Sys2Proof/Machine/Checks.lean ====
section
/-! DEFINITION. The checks of an access to the internal map: MPU, address map, firewall, page tag, and the syndrome and
record of a refusal (08 R199 to R213, 07 R178). -/
namespace Sys2Proof.Machine

/-- The MPU of initiator k. -/
def getMpu (s : State) (k : Nat) : MpuUnit := tget {} s.mpu.units k

/-- s with the MPU of initiator k replaced. -/
def setMpuUnit (s : State) (k : Nat) (u : MpuUnit) : State := s.setMpu { s.mpu with units := tput {} s.mpu.units k u }

/-- Initiators with a default map: the cores and JTAG (R204). -/
def privInit (k : Nat) : Bool := k = 0 || k = 1 || k = 7

/-- A region matches an access (R201). -/
def regionMatch (r : Region) (a : Acc) : Bool :=
  bit r.attr 0
    && fld r.base 6 26 * 64 ≤ a.addr && a.addr ≤ fld r.limit 6 26 * 64 + 63
    && (!privInit a.init || bit r.attr (4 + a.level))
    && (bit r.attr 12 || fld r.attr 8 4 = a.owner)

/-- The permission bit of an access kind in a region: R 1, W 2, X 3. -/
def permBit (kind : Nat) : Nat := if kind = 1 then 2 else if kind = 2 then 3 else 1

/-- A range of R20: its target number (R206), base and size. -/
def ranges : List (Nat × Nat × Nat) :=
  [(0, 0, 0x30000), (1, 0x10000000, 0x200000), (2, 0x20000000, 0x6000), (3, 0x20008000, 0x6000)]

/-- The target that holds an address (R206), none outside R20. -/
def targetOf (a : Nat) : Option Nat :=
  if 0x40000000 ≤ a && a < 0x40016000 then some (4 + (a - 0x40000000) / 4096)
  else (ranges.find? fun r => r.2.1 ≤ a && a < r.2.1 + r.2.2).map (·.1)

/-- The first address of a target. -/
def targetBase (t : Nat) : Nat :=
  if 4 ≤ t then 0x40000000 + 4096 * (t - 4) else ((ranges.find? fun r => r.1 = t).map (·.2.1)).getD 0

/-- Rights of the default map at a level: 0 User to 3 Monitor (R204). -/
def defaultAllows (a : Acc) : Bool :=
  match targetOf a.addr with
  | none => false
  | some 0 => a.level = 3 && a.kind ≠ 1
  | some 1 => 1 ≤ a.level
  | some 2 | some 3 => a.level = 3 && a.kind ≠ 2
  | some _ => 2 ≤ a.level && a.kind ≠ 2

/-- A check's answer: allowed, stalled, or refused with SRC and INDEX. -/
inductive Check where
  | ok
  | stall
  | deny (src idx : Nat)
deriving DecidableEq, Repr

/-- The first matching region, with its number. -/
def firstRegion (u : MpuUnit) (a : Acc) : Option (Nat × Region) :=
  ((List.range 16).map fun k => (k, tget {} u.regions k)).find? fun p => regionMatch p.2 a

/-- Check 2 of R208: regions, default map, disabled MPU (R201, R204, R205). -/
def mpuCheck (s : State) (a : Acc) : Check :=
  let u := getMpu s a.init
  if !u.en then
    if privInit a.init then
      if a.level = 0 then .deny 3 0 else if defaultAllows a then .ok else .deny 4 0
    else .stall
  else match firstRegion u a with
    | some (k, r) => if bit r.attr (permBit a.kind) then .ok else .deny 1 k
    | none =>
      if privInit a.init && a.level ≠ 0 then (if defaultAllows a then .ok else .deny 4 0) else .deny 2 0

/-- A rule at reset (08, Registers): rule 0 admits the secure world over the whole target. -/
def fwRuleD (k : Nat) : FwRule :=
  if k % 8 = 0 then { range := 0x01FF0000, key := 0x0003C1FF } else {}

/-- Rule r of target t; the rules of MPU_ and FWL_ are hardwired (R207): secure world, initiators 0, 1 and 7, R and W,
any owner, page 0. -/
def fwRule (tab : Tab FwRule) (t r : Nat) : FwRule :=
  if t = 9 ∨ t = 10 then (if r = 0 then { range := 0, key := 0x0001C183 } else {})
  else tget (fwRuleD (8 * t + r)) tab (8 * t + r)

/-- A rule matches an access (R206). -/
def fwMatch (w : FwRule) (a : Acc) (page : Nat) : Bool :=
  bit w.key (if a.secure then 8 else 9) && bit w.key a.init
    && (bit w.key 14 || fld w.key 10 4 = a.owner)
    && fld w.range 0 9 ≤ page && page ≤ fld w.range 16 9
    && bit w.key (14 + permBit a.kind)

/-- Check 4 of R208 on target t (R206, R213). While a custody run holds PKE0, every access to its private memory is a
firewall miss, whatever the rules and the hold say (10 R249). -/
def fwCheck (s : State) (t : Nat) (a : Acc) : Check :=
  let page := (a.addr - targetBase t) / 4096
  let pass := (List.range 8).any fun r => fwMatch (fwRule s.fwl.rules t r) a page
  if t = 2 && 2 ≤ s.cus.run then .deny 6 0
  else if s.fwl.hold.getLsbD t && !(a.secure && a.init ≤ 1) then .stall
  else if pass then .ok else .deny 6 0

/-- Check 1 of R208: a fetch outside mask ROM and system SRAM (R203). -/
def fetchRange (a : Acc) : Bool := a.kind ≠ 2 || targetOf a.addr = some 0 || targetOf a.addr = some 1

/-- Check 3 of R208: the access lies whole in one range or window (R34). -/
def inMap (a : Acc) : Bool :=
  match targetOf a.addr with
  | none => false
  | some t => targetOf (a.addr + (a.size - 1)) = some t

/-- The page tag entry of a physical SRAM address (R178). -/
def pageTag (s : State) (addr : Nat) : Nat := tget 0 s.cores.ptt ((addr - 0x10000000) / 4096)

/-- The partition an enclave belongs to. -/
def enclPart (s : State) (e : Nat) : Nat := (tget {} s.cores.encl e).part

/-- Check 5 of R208 (R178): a tagged page is reached by the Monitor or by a core inside its enclave within its bits;
a fetch inside an enclave stays in the enclave's pages. A debugger reads tagged pages (07 R197). -/
def tagCheck (s : State) (a : Acc) : Bool :=
  if targetOf a.addr ≠ some 1 then a.kind ≠ 2 || a.encl = none
  else
    let w := pageTag s a.addr
    if (a.init ≤ 1 && a.level = 3) || (a.init = 7 && a.kind = 0) then true
    else if w.testBit 15 then
      (match a.encl with
       | some e => w % 64 = e && a.owner = enclPart s e && w.testBit (if a.kind = 1 then 13 else if a.kind = 2 then 12 else 14)
       | none => false)
    else a.kind ≠ 2 || a.encl = none

/-- The block at this position in R21 is not gated (05 R131, R132). -/
def gateOk (s : State) (b : Nat) : Bool := s.clk.gate.getLsbD b && !(s.clk.rootGated && (b = 11 || b = 12))

/-- The E gating group (05 R131), by position in R21. -/
def eGroup (b : Nat) : Bool := [8, 9, 10, 11, 12, 13, 15, 16, 20, 21].contains b

/-- An access to a gated E-group block (05 R131, R132). -/
def gatedAt (s : State) (a : Acc) : Bool :=
  0x40000000 ≤ a.addr && eGroup ((a.addr - 0x40000000) / 4096) && !gateOk s ((a.addr - 0x40000000) / 4096)

/-- An access to the mailbox of a virtual function by an owner it does not belong to (14 R356). -/
def mbxForeign (a : Acc) : Bool :=
  0x4000E480 ≤ a.addr && a.addr < 0x4000EC00 && !a.secure && a.owner ≠ 0
    && a.owner ≠ (a.addr - 0x4000E400) / 0x80

/-- Checks 1 to 3 of R208: at the initiator and in the map, by the state in force when the access is issued (R212). -/
def issueCheck (s : State) (a : Acc) : Check :=
  if !fetchRange a then .deny 5 0
  else match mpuCheck s a with
    | .ok => if inMap a then .ok else .deny 8 0
    | c => c

/-- Checks 4 to 6 of R208: at the target. -/
def targetCheck (s : State) (a : Acc) : Check :=
  match fwCheck s ((targetOf a.addr).getD 31) a with
  | .ok =>
    if mbxForeign a then .deny 6 0
    else if !tagCheck s a then .deny 0xC 0
    else if gatedAt s a then .deny 9 0
    else .ok
  | c => c

/-- Checks 1 to 6 of R208, the first failure deciding. -/
def accCheck (s : State) (a : Acc) : Check := match issueCheck s a with
  | .ok => targetCheck s a
  | c => c

/-- The syndrome of a refusal (R210). -/
def syndrome (a : Acc) (src idx : Nat) : Word :=
  wordOf (src * 2 ^ 28 + idx * 2 ^ 24 + ((targetOf a.addr).getD 31) * 2 ^ 19 + a.init * 2 ^ 16 + b2n a.secure * 2 ^ 15
    + (if 2 ≤ a.init && a.init ≤ 6 then 0 else a.level) * 2 ^ 13 + a.owner * 2 ^ 9 + a.kind * 2 ^ 7)

/-- Latch of a refusal: taken while VALID is 0, else it sets OVF (R211); OVF itself goes only by its W1C. -/
def latchSyn (old : Word) (syn : Word) : Word := if bit old 0 then old ||| 2 else (old &&& 2) ||| syn ||| 1

/-- An MPU refusal counts at its MPU (R211): SRC 1 to 5. -/
def mpuSrc (src : Nat) : Bool := 1 ≤ src && src ≤ 5

/-- The diagnostics entry of a refusal, at most one per initiator and tick (R211). -/
def logAccess (s : State) (a : Acc) (src idx : Nat) : State :=
  if tget 0 s.mpu.logged a.init = s.glb.tick.toNat + 1 then s
  else
    let s := s.setMpu { s.mpu with logged := tput 0 s.mpu.logged a.init (s.glb.tick.toNat + 1) }
    logDW s (if mpuSrc src then .mpu else .fwl) 1 (a.owner % 16) (leBytes 4 (syndrome a src idx).toNat ++ leBytes 4 a.addr)

/-- A refusal counted, latched and logged (R211). -/
def refuseAcc (s : State) (a : Acc) (src idx : Nat) : State :=
  let syn := syndrome a src idx
  let s := if mpuSrc src then
      let u := getMpu s a.init
      setMpuUnit s a.init { u with
        faults := satInc 0xFFFF u.faults
        fsyn := latchSyn u.fsyn syn
        faddr := if bit u.fsyn 0 then u.faddr else wordOf a.addr }
    else s.setFwl { s.fwl with
      faults := satInc 0xFFFF s.fwl.faults
      fsyn := latchSyn s.fwl.fsyn syn
      faddr := if bit s.fwl.fsyn 0 then s.fwl.faddr else wordOf a.addr }
  logAccess s a src idx

/-- The secure firmware's access to a register, on core 0 (log 24). -/
def fwAcc (addr : Nat) : Acc :=
  { init := 0, kind := 1, addr := addr, size := 4, secure := true, level := 3, owner := 0 }

/-- A write refused for its change class: HALT (SRC 0xA) or a committed RWL lock (SRC 0xB): counted and latched (R211),
and the event of R13 and R14. -/
def refuseWrite (s : State) (addr src : Nat) : State := logRefused (refuseAcc s (fwAcc addr) src 0) addr

/-- A register write of secure firmware to an E-group block: a bus error while it is gated (05 R131, 08 R208). -/
def onE (s : State) (b addr : Nat) (f : State → State) : State :=
  if !mainUp s then s else if gateOk s b then f s else refuseAcc s (fwAcc addr) 9 0

/-- The access of a DMA initiator (R199): secure, with the owner served. -/
def dmaAcc (init owner : Nat) (write secure : Bool) (addr size : Nat) : Acc :=
  { init := init, kind := if write then 1 else 0, addr := addr, size := size, secure := secure, level := 0, owner := owner }

/-- The granules of 64 bytes that a run of bytes touches: its DMA bursts (R202). -/
def granules (addr len : Nat) : List Nat :=
  (List.range ((addr % 64 + len + 63) / 64)).map fun k => if k = 0 then addr else (addr / 64 + k) * 64

/-- How the checks of a DMA run end: all its bursts pass, one stalls, or one is refused. -/
inductive DmaRes where
  | ok
  | stall (a : Acc)
  | deny (a : Acc) (src idx : Nat)
deriving DecidableEq, Repr

/-- The SRC with which a stalled access is refused in the end: by its disabled MPU or by a firewall hold (R205, R213). -/
def stallSrc (s : State) (a : Acc) : Nat := if 2 ≤ a.init && a.init ≤ 6 && !(getMpu s a.init).en then 3 else 7

/-- The checks of a DMA run, burst by burst (R202, R208): the first burst that does not pass decides. -/
def dmaCheck (s : State) (init owner : Nat) (write secure : Bool) (addr len : Nat) : DmaRes :=
  (granules addr len).foldl (fun r g => match r with
    | .ok =>
      let a := dmaAcc init owner write secure g (min (64 - g % 64) (addr + len - g))
      match accCheck s a with
      | .ok => .ok
      | .stall => .stall a
      | .deny src idx => .deny a src idx
    | r => r) .ok

end Sys2Proof.Machine
end

