-- ==== Sys2Proof/Machine/Desc.lean ====
section
/-! DEFINITION. Descriptors: fields (R345), the rows of the command tables (15 R363 to R382), the checks of R346 and
the request-ID check (R354). -/
namespace Sys2Proof.Machine

/-- OPCODE. -/
def dOp (d : Bytes) : Nat := byteAt d 0
/-- FLAGS. -/
def dFlags (d : Bytes) : Nat := byteAt d 1
/-- REQ_ID. -/
def dReq (d : Bytes) : Word := wordOf (leAt d 4 4)
/-- KEY. -/
def dKey (d : Bytes) : Word := wordOf (leAt d 8 4)
/-- LEN. -/
def dLen (d : Bytes) : Nat := leAt d 0x0C 4
/-- IN_ADDR. -/
def dIn (d : Bytes) : Nat := leAt d 0x10 8
/-- OUT_ADDR. -/
def dOut (d : Bytes) : Nat := leAt d 0x18 8
/-- AUX_ADDR. -/
def dAux (d : Bytes) : Nat := leAt d 0x20 8
/-- AUX_LEN. -/
def dAuxLen (d : Bytes) : Nat := leAt d 0x28 2
/-- TAGLEN. -/
def dTag (d : Bytes) : Nat := byteAt d 0x2A
/-- Operand byte i. -/
def dOpnd (d : Bytes) (i : Nat) : Nat := byteAt d (0x2C + i)
/-- n operand bytes from i on, little-endian. -/
def dOpndN (d : Bytes) (i n : Nat) : Nat := leAt d (0x2C + i) n
/-- NOIRQ. -/
def dNoIrq (d : Bytes) : Bool := (dFlags d).testBit 1
/-- PR. -/
def dPr (d : Bytes) : Bool := (dFlags d).testBit 0

/-- The descriptor hash (R353). -/
def dHash (d : Bytes) : Bytes := (sha256 (slice d 0 64)).take 8

/-- What a row of the command tables fixes: ring classes (0 TRIP to 3 ADMIN), PF only, and which descriptor fields it
names; operand bytes as a bit mask. -/
structure Row where
  classes : List Nat
  pf : Bool := false
  key : Bool := false
  inp : Bool := false
  len : Bool := false
  out : Bool := false
  aux : Bool := false
  tag : Bool := false
  opnd : Nat := 0
deriving DecidableEq, Repr

/-- A mask of operand bytes lo to hi. -/
def ob (lo hi : Nat) : Nat := 2 ^ (hi + 1) - 2 ^ lo

/-- The rows of the symmetric, asymmetric and random families (R369 to R373). -/
def rowCrypto : Nat → Option Row
  | 0x01 | 0x02 => some { classes := [1, 2], key := true, inp := true, out := true }
  | 0x03 | 0x04 | 0x05 | 0x06 => some { classes := [1, 2], key := true, inp := true, out := true, aux := true }
  | 0x08 => some { classes := [0, 1, 2], key := true, inp := true, out := true, tag := true }
  | 0x09 => some { classes := [0, 1, 2], key := true, inp := true, aux := true, tag := true }
  | 0x0A => some { classes := [1, 2], key := true, inp := true, out := true, tag := true, opnd := ob 0 0 }
  | 0x0B => some { classes := [1, 2], key := true, inp := true, aux := true, tag := true, opnd := ob 0 0 }
  | 0x0C => some { classes := [0, 1, 2], key := true, inp := true, out := true, aux := true, tag := true }
  | 0x0D => some { classes := [0, 1, 2], key := true, inp := true, aux := true, tag := true }
  | 0x0E => some { classes := [1, 2], key := true, inp := true, out := true, aux := true, tag := true, opnd := ob 0 4 }
  | 0x0F => some { classes := [1, 2], key := true, inp := true, out := true, aux := true, tag := true, opnd := ob 0 3 }
  | 0x10 => some { classes := [1, 2], key := true, inp := true, out := true, tag := true }
  | 0x11 => some { classes := [1, 2], key := true, inp := true, aux := true, tag := true }
  | 0x14 => some { classes := [1, 2], inp := true, out := true, opnd := ob 0 0 }
  | 0x20 => some { classes := [1, 2], key := true, inp := true, out := true, opnd := ob 0 0 }
  | 0x21 => some { classes := [1, 2], inp := true, aux := true, opnd := ob 0 0 + ob 2 2 }
  | 0x22 => some { classes := [1, 2], key := true, inp := true, out := true }
  | 0x23 => some { classes := [1, 2], inp := true, aux := true }
  | 0x24 => some { classes := [2, 3], key := true, inp := true, aux := true, out := true, opnd := ob 3 3 }
  | 0x25 | 0x26 => some { classes := [1, 2], inp := true, aux := true, opnd := ob 3 3 }
  | 0x28 => some { classes := [3], key := true, aux := true, opnd := ob 0 19 }
  | 0x2A => some { classes := [2, 3], inp := true, out := true, opnd := ob 0 1 + ob 4 6 }
  | 0x2B => some { classes := [1, 2], inp := true, aux := true, opnd := ob 0 0 + ob 2 2 }
  | 0x2C => some { classes := [2, 3], inp := true, aux := true, out := true, opnd := ob 4 6 }
  | 0x2E => some { classes := [1, 2, 3], key := true, out := true, opnd := ob 4 6 }
  | 0x40 => some { classes := [1, 2, 3], len := true, out := true }
  | _ => none

/-- The rows of the key-management family (R375). -/
def rowKeys : Nat → Option Row
  | 0x50 => some { classes := [3], opnd := ob 0 11 }
  | 0x51 => some { classes := [3], key := true, inp := true, opnd := ob 0 11 }
  | 0x52 => some { classes := [3], key := true, aux := true, opnd := ob 0 11 }
  | 0x53 => some { classes := [3], opnd := ob 0 1 + ob 6 7 }
  | 0x54 => some { classes := [3], opnd := ob 0 1 + ob 4 4 }
  | 0x55 => some { classes := [3], opnd := ob 0 1 + ob 6 10 }
  | 0x57 | 0x58 | 0x5A => some { classes := [3], opnd := ob 0 1 }
  | 0x59 => some { classes := [3], opnd := ob 0 1 + ob 6 7 + ob 12 17 }
  | 0x5B => some { classes := [1, 2, 3], out := true, opnd := ob 0 1 }
  | 0x5C => some { classes := [3], key := true, inp := true, opnd := ob 2 4 + ob 12 13 }
  | 0x5D => some { classes := [3], opnd := ob 0 13 }
  | 0x5E => some { classes := [3], opnd := ob 12 13 }
  | 0x5F => some { classes := [3], out := true, opnd := ob 12 13 }
  | _ => none

/-- The rows of the custody, update, token, recorder and mode-control families (R379 to R382). -/
def rowAdmin : Nat → Option Row
  | 0x70 => some { classes := [3], pf := true, aux := true, opnd := ob 0 0 }
  | 0x71 | 0x72 | 0x77 | 0x7D | 0x7E | 0x7F => some { classes := [3], pf := true }
  | 0x73 | 0x74 | 0x78 | 0x79 | 0x7A => some { classes := [3], pf := true, opnd := ob 0 0 }
  | 0x75 => some { classes := [3], pf := true, key := true, aux := true, out := true, opnd := ob 1 1 + ob 4 5 }
  | 0x76 => some { classes := [3], pf := true, key := true, inp := true, opnd := ob 0 11 }
  | 0x7B => some { classes := [3], pf := true, aux := true, opnd := ob 0 1 + ob 4 7 }
  | 0x7C => some { classes := [3], pf := true, opnd := ob 0 2 }
  | 0x80 => some { classes := [3], pf := true, opnd := ob 0 0 + ob 4 7 }
  | 0x83 => some { classes := [3], pf := true, opnd := ob 0 0 + ob 4 8 }
  | 0x81 => some { classes := [3], pf := true, inp := true, opnd := ob 4 7 }
  | 0x82 | 0x84 => some { classes := [3], pf := true, opnd := ob 0 0 }
  | 0x85 => some { classes := [3], pf := true, out := true }
  | 0x86 | 0x88 | 0x8A | 0x8B => some { classes := [3], pf := true, inp := true }
  | 0x89 => some { classes := [3], pf := true }
  | 0x90 => some { classes := [3], pf := true, out := true, opnd := ob 0 0 + ob 4 9 }
  | 0x91 => some { classes := [3], aux := true }
  | 0x92 => some { classes := [3], pf := true, opnd := ob 0 0 }
  | 0xA0 | 0xA1 | 0xA4 => some { classes := [3], pf := true }
  | 0xA2 => some { classes := [3], pf := true, opnd := ob 0 0 + ob 4 19 }
  | 0xA3 => some { classes := [3], pf := true, aux := true, opnd := ob 0 0 }
  | _ => none

/-- The row of an opcode; none when it does not exist. -/
def rowOf (op : Nat) : Option Row :=
  if op < 0x50 then rowCrypto op else if op < 0x70 then rowKeys op else rowAdmin op

/-- Every field the row does not name is 0, and the reserved ones are (R345, R346 step 1, R365). -/
def reservedOk (d : Bytes) (w : Row) : Bool :=
  dFlags d < 4 && leAt d 2 2 = 0 && byteAt d 0x2B = 0
    && (w.key || dKey d = 0)
    && (w.inp || dIn d = 0) && (w.inp || w.len || dLen d = 0)
    && (w.aux || (dAux d = 0 && dAuxLen d = 0))
    && (w.tag || dTag d = 0)
    && (if w.out then dOut d ≠ 0 else dOut d = 0)
    && ((List.range 20).all fun i => w.opnd.testBit i || dOpnd d i = 0)

/-- Checks 1 to 3 of R346 with R363 and R364: none, or the status. -/
def descCheck (s : State) (fn cls : Nat) (d : Bytes) : Option Nat :=
  match rowOf (dOp d) with
  | none => some 0x11
  | some w =>
    if !reservedOk d w || !w.classes.contains cls then some 0x11
    else if (w.pf && fn ≠ 0) || !familyServed (ringsCell s.mode.mode) (dOp d) then some 0x10
    else if cls = 1 && dLen d > 65536 then some 0x11
    else none

/-- The outcome of the request-ID check (R354). -/
inductive IdCheck where
  | run
  | dup (c : Cpl)
  | bad
  | behind
deriving DecidableEq, Repr

/-- A descriptor of the list that has this request ID. -/
def findReq (l : List Staged) (id : Word) : Option Staged := l.find? fun x => dReq x.desc = id

/-- The request-ID check of a fetched descriptor (R354). -/
def idCheck (s : State) (k : Nat) (d : Bytes) : IdCheck :=
  let r := getRing s k
  match storeFind s r (dReq d) with
  | some e => if e.hash = dHash d then .dup e.cpl else .bad
  | none => match findReq (r.running ++ r.staged) (dReq d) with
    | some x => if dHash x.desc = dHash d then .behind else .bad
    | none => .run

/-- What becomes of a fetched descriptor. -/
inductive Verdict where
  | run
  | dup (c : Cpl)
  | refuse (status : Nat)
  | bad
  | behind
deriving DecidableEq, Repr

/-- The checks 1 to 4 of R346. An unchanged resubmission of a stored completion returns DUP whatever its status
(R353, R354, 20 R462), so an equal hash in the store comes first (log 17). -/
def verdict (s : State) (k fn cls : Nat) (d : Bytes) : Verdict :=
  match idCheck s k d with
  | .dup c => .dup c
  | i => match descCheck s fn cls d with
    | some st => .refuse st
    | none => match i with
      | .bad => .bad
      | .behind => .behind
      | _ => .run

/-- A completion of a descriptor with a status and nothing else. -/
def cplOf (d : Bytes) (slot : Half) (status : Nat) : Cpl :=
  { reqId := dReq d, slot := slot, status := status, noIrq := dNoIrq d }

/-- A descriptor completed that was never running: stored and written (R346 failures 1 to 3). -/
def refuseDesc (s : State) (k : Nat) (slot : Half) (d : Bytes) (status : Nat) (mute : Bool := false) : State :=
  formCpl s k (dHash d) [] mute (cplOf d slot status)

/-- The DUPs that follow a completion (R354). -/
def dupList (x : Staged) : List (Half × Bool) := x.dups.map fun p => (p.1, dNoIrq p.2)

/-- A running descriptor of the ring in this slot. -/
def runningAt (s : State) (k : Nat) (slot : Half) : Option Staged := (getRing s k).running.find? (·.slot = slot)

/-- A running descriptor ended with this completion: removed, counted (R357), completed with its DUPs (R349, R354). -/
def endRunning (s : State) (k : Nat) (x : Staged) (c : Cpl) : State :=
  let r := getRing s k
  let s := setRing s k { r with running := r.running.erase x }
  let s := countOk s k c (dLen x.desc)
  formCpl s k (dHash x.desc) (dupList x) x.muted c

/-- A copy of a running descriptor attached to it (R354). -/
def attachDup (s : State) (k : Nat) (slot : Half) (d : Bytes) : State :=
  let r := getRing s k
  let f := fun (x : Staged) => if dReq x.desc = dReq d then { x with dups := x.dups ++ [(slot, d)] } else x
  setRing s k { r with running := r.running.map f, staged := r.staged.map f }

/-- A wait ended: it is removed and its descriptor completes as f says (R366 to R382). -/
def endWait (s : State) (w : Wait) (f : Cpl → Cpl) : State :=
  let s := s.setHif { s.hif with waits := s.hif.waits.erase w }
  match runningAt s w.key w.slot with
  | some x => endRunning s w.key x (f (cplOf x.desc w.slot 0))
  | none => s

/-- Every wait with this tag ended the same way. -/
def endWaits (s : State) (t : WaitTag) (f : Cpl → Cpl) : State :=
  (s.hif.waits.filter fun w => w.tag = t).foldl (fun s w => endWait s w f) s

end Sys2Proof.Machine
end

