-- ==== Sys2Proof/Machine/Trip.lean ====
section
/-! DEFINITION. Trip admission (02 R47 to R63) and the hardware fast path (12 R296 to R299, 14 R347, R355). -/
namespace Sys2Proof.Machine

/-! ### Admission -/

/-- An announced window other than a debug switch is in force (R62, R87). -/
def windowInForce (s : State) : Bool := s.mode.annIn && s.mode.annCause ≠ 4

/-- The edge of an announced START has come and its window, or the debug switch, is held back until the admitted trip
descriptors complete (R62, 03 R78). -/
def windowDue (s : State) : Bool :=
  s.mode.annCause ≠ 0 && !s.mode.annIn && s.glb.run && tickReached s.mode.annStart s.glb.tick

/-- The mode serves trip rings (R76), and no Snuff has started (R36). -/
def tripServed (s : State) : Bool := (s.mode.mode = .service || s.mode.mode = .debug) && s.tmp.trig.isNone

/-- Trip admission runs: trip rings are served, no SERVICE-HOLD, no window in force or due (R59, R62, R76, R36). -/
def admissionRuns (s : State) : Bool :=
  tripServed s && !s.mode.hold && !s.mode.resume && !windowInForce s && !windowDue s

/-- The ceiling of function f in force. -/
def capOf (s : State) (f : Nat) : Nat := s.glb.caps.getD f 0

/-- A candidate of the function can be admitted now: its ring fetches, a token, the ceiling, and R350. -/
def canAdmit (s : State) (fn ring : Nat) : Bool :=
  admissionRuns s && ringOpen s fn ring && 0 < s.glb.tokens && tget 0 s.glb.used fn < capOf s fn && !holdBlocks s (ringKey fn ring)

/-- The tags of outstanding host reads (R329, R332). -/
def tagsAll (s : State) : Nat := if s.hif.extTag then 256 else 32

/-- The part of them that is kept for fast-path reads (R28, R332). -/
def tagsKept (s : State) : Nat := if s.hif.extTag then 144 else 24

/-- Read requests for n bytes at an address: at most 512 bytes each, none across a 4 KiB boundary (R329; log 109). -/
def readsOf (a n : Nat) : Nat :=
  let h := min n (4096 - a % 4096)
  (h + 511) / 512 + (n - h + 511) / 512

/-- The reads that a trip issues next (R355): its descriptor, or its payload and auxiliary data together. -/
def tripReads (t : Trip) : Nat := match t.desc with
  | none => 1
  | some d => readsOf (dIn d) (dLen d) + readsOf (dAux d) (dAuxLen d)

/-- The tags that fast-path reads hold. -/
def tripTags (s : State) : Nat := (s.hif.trips.map fun t => t.tags.getD 0).sum

/-- The reads of trips issued in admission order, as far as tags are free (R332). -/
def issueFrom (room : Nat) : List Trip → List Trip
  | [] => []
  | t :: l => if t.tags.isNone && tripReads t ≤ room then
      { t with tags := some (tripReads t) } :: issueFrom (room - tripReads t) l
    else t :: issueFrom room l

/-- s with the reads issued that have tags. -/
def issueReads (s : State) : State :=
  s.setHif { s.hif with trips := issueFrom (tagsAll s - tripTags s) s.hif.trips }

/-- A read outside the fast path finds a tag: the fast path does not hold all of the part that is not kept for it
(R28, R332). -/
def sharedTag (s : State) : Bool := tripTags s - tagsKept s < tagsAll s - tagsKept s

/-- A candidate admitted (R51): the token and the function's count, and the fetch of its descriptor started (R355). -/
def admitOne (s : State) (c : Cand) : State :=
  let s := s.setGlb { s.glb with
    tokens := s.glb.tokens - 1
    used := tput 0 s.glb.used c.fn (tget 0 s.glb.used c.fn + 1) }
  issueReads (s.setHif { s.hif with
    trips := s.hif.trips ++ [{ fn := c.fn, ring := c.ring, slot := c.slot, adm := now s, obs := c.obs }] })

/-- A candidate carried (R51). -/
def carry (s : State) (c : Cand) : State := s.setGlb { s.glb with carried := s.glb.carried ++ [c] }

/-- A candidate of the same ring is already carried. -/
def ringCarried (s : State) (c : Cand) : Bool := s.glb.carried.any fun x => x.fn = c.fn && x.ring = c.ring

/-- A trip candidate as it is observed (R51). -/
def observe (s : State) (c : Cand) : State :=
  if ringCarried s c then carry s c
  else if canAdmit s c.fn c.ring then admitOne s c
  else carry s c

/-- The candidates of a doorbell: n slots from this one on, in ring order (R340). -/
def doorbellCands (fn ring : Nat) (st : Stamp) : Nat → Half → List Cand
  | 0, _ => []
  | n + 1, slot => ⟨fn, ring, slot, st⟩ :: doorbellCands fn ring st n (slot + 1)

/-- Candidates in the order in which admission takes them: oldest observation first, then function, then ring (R51). -/
def candBefore (s : State) (a b : Cand) : Bool :=
  let da := (s.glb.tick - a.obs.tick).toNat
  let db := (s.glb.tick - b.obs.tick).toNat
  db < da || (da = db && (a.obs.count < b.obs.count
    || (a.obs.count = b.obs.count && (a.fn < b.fn || (a.fn = b.fn && a.ring ≤ b.ring)))))

/-- A candidate put in its place. -/
def candInsert (s : State) (c : Cand) : List Cand → List Cand
  | [] => [c]
  | x :: t => if candBefore s x c then x :: candInsert s c t else c :: x :: t

/-- Candidates in admission order. -/
def candSort (s : State) (l : List Cand) : List Cand := l.foldl (fun a c => candInsert s c a) []

/-- A trip that was observed and admitted in the present count. -/
def tripFresh (s : State) (t : Trip) : Bool :=
  t.obs = now s && t.adm = now s && t.desc = none && t.ends = 0 && !t.muted

/-- The candidates that doorbells of the present count have published, admitted or carried so far (R51). -/
def seenNow (s : State) : List Cand :=
  (s.hif.trips.filter (tripFresh s)).map (fun t => ⟨t.fn, t.ring, t.slot, t.obs⟩)
    ++ s.glb.carried.filter fun c => c.obs = now s

/-- The state before the doorbells of the present count were acted on: their tokens returned, nothing carried. -/
def unsee (s : State) : State :=
  let l := s.hif.trips.filter (tripFresh s)
  let s' := s.setGlb { s.glb with
    tokens := s.glb.tokens + l.length
    used := l.foldl (fun u t => tput 0 u t.fn (tget 0 u t.fn - 1)) s.glb.used
    carried := s.glb.carried.filter fun c => c.obs ≠ now s }
  s'.setHif { s'.hif with trips := s'.hif.trips.filter fun t => !tripFresh s t }

/-- The candidates of a doorbell with those of the other doorbells of its count, by function, then ring (R51). -/
def observeAll (s : State) (l : List Cand) : State :=
  (candSort s (seenNow s ++ l)).foldl observe (unsee s)

/-- A carried candidate at a tick edge (R51): TICK_OVERRUN when it waited too long, else admitted, else left. A ring
that has a candidate left keeps its order (R51). -/
def carriedStep (s : State) (c : Cand) : State :=
  if (s.glb.tick - c.obs.tick).toNat > s.glb.maxwait then
    s.setGlb { s.glb with overruns := s.glb.overruns ++ [c] }
  else if !ringCarried s c && canAdmit s c.fn c.ring then admitOne s c
  else carry s c

/-- The carried candidates admitted at a tick edge (R47 step 4). -/
def admitCarried (s : State) : State :=
  let l := candSort s s.glb.carried
  let s := l.foldl carriedStep (s.setGlb { s.glb with carried := [] })
  s.setGlb { s.glb with carriedStat := min 31 s.glb.carried.length }

/-! ### The descriptor check (R296, R347) -/

/-- Opcode, operand, alignment, length and tag length of a trip descriptor (R27, R296, R347). -/
def tripForm (d : Bytes) : Bool :=
  let op := dOp d
  let t := dTag d
  dLen d ≤ 1536 && dAux d % 32 = 0 &&
  (if op = 0x08 then (t = 10 || t = 16 || t = 32)
   else if op = 0x09 then (t = 10 || t = 16 || t = 32) && dAuxLen d = t
   else if op = 0x0C then (t = 8 || t = 16) && dAuxLen d = 12
   else if op = 0x0D then (t = 8 || t = 16) && dAuxLen d = 12 + t
   else false)

/-- The descriptor check of an admitted descriptor: none, or its status. -/
def tripCheck (s : State) (d : Bytes) : Option Nat :=
  if !tripForm d then some 0x11
  else if (fastEntry s (dKey d)).isNone then some 0x12 else none

/-- Engine cycles C of a MAC (R297). -/
def macCycles (op len : Nat) : Nat :=
  if op = 0x08 || op = 0x09 then 224 + 64 * (3 + (len + 9 + 63) / 64) else 184 + 8 * ((len + 15) / 16)

/-- The full tag of a fast-path operation. -/
def fastMac (op : Nat) (key msg aux : Bytes) : Bytes :=
  if op = 0x08 || op = 0x09 then hmac256 key msg else gcmTag key (aux.take 12) msg []

/-- The expected tag of a verify. -/
def fastExpected (op : Nat) (aux : Bytes) : Bytes := if op = 0x0D then aux.drop 12 else aux

/-- A verify opcode of the fast path. -/
def isVerify (op : Nat) : Bool := op = 0x09 || op = 0x0D

/-- The policy check at MAC start (R27, R232, R298): status 0, 0x10 DENIED or 0x12 NO_KEY. -/
def policy (s : State) (fn op : Nat) (e : CacheEnt) : Nat :=
  let algOk := if op = 0x08 || op = 0x09 then e.hdr.alg = 3 else e.hdr.alg ≤ 2
  if e.hdr.owner ≠ fn || e.hdr.usage ≠ (if isVerify op then 5 else 4) || !algOk then 0x10
  else if !servesNow s e.hdr (isVerify op) then 0x12
  else 0

/-- A MAC unit is taken by a descriptor or runs. -/
def unitBusy (s : State) (u : Nat) : Bool :=
  (tget none s.eng.units u).isSome || s.hif.trips.any fun t => t.unit = some u

/-- The lowest-numbered free MAC unit (R297), unless the engine is gated (03 R107, 04 R112). -/
def freeUnit (s : State) : Option Nat :=
  if s.mode.gatedEng.contains 8 then none else (List.range 6).find? fun u => !unitBusy s u

/-- The trip of this ring and slot. -/
def isTrip (fn ring : Nat) (slot : Half) (t : Trip) : Bool := t.fn = fn && t.ring = ring && t.slot = slot

/-- The oldest admitted descriptor that has passed the descriptor check and has no unit takes the lowest-numbered free
one (R297). -/
def assignUnit (s : State) : State :=
  match s.hif.trips.find? (fun t => t.desc.isSome && t.unit.isNone && t.ends = 0), freeUnit s with
  | some t, some u =>
    let take := fun (y : Trip) => if isTrip t.fn t.ring t.slot y && y.unit.isNone then { y with unit := some u } else y
    s.setHif { s.hif with trips := s.hif.trips.map take }
  | _, _ => s

/-- The free units taken, in admission order (R297). -/
def assignUnits (s : State) : State := (List.range 6).foldl (fun s _ => assignUnit s) s

/-- The admission-to-write time of a fast-path completion counts in GLB_TRIP_LAT: SERVICE, not in SERVICE-HOLD, and the
completion not held (R56, R57, R76). DESIGN CHOICE (log 94): a completion whose own reads took longer than 2 µs, whose
bound R59 extends, counts. The completion write is issued 96 cycles, 5 counts, after the end (R297). -/
def tripLat (s : State) (k : Nat) (adm : Stamp) : State :=
  let r := getRing s k
  if s.mode.mode = .service && !s.mode.hold && cqSpace r && r.holding.isEmpty then
    s.setGlb { s.glb with tripLat := min 0xFFFF (max s.glb.tripLat (countsBetween s adm (now s) + 5)) }
  else s

/-- The trip of this ring and slot removed; its tags are free. -/
def tripDrop (s : State) (fn ring : Nat) (slot : Half) : State :=
  issueReads (s.setHif { s.hif with trips := s.hif.trips.filter fun t => !(t.fn = fn && t.ring = ring && t.slot = slot) })

/-- A trip ended with a completion formed by the fast path: its running entry removed, the latency recorded. -/
def tripEnd (s : State) (t : Trip) (x : Staged) (c : Cpl) : State :=
  let k := ringKey t.fn t.ring
  let s := assignUnits (tripDrop s t.fn t.ring t.slot)
  endRunning (tripLat s k t.adm) k x c

/-- The oldest trip of a ring whose descriptor read is outstanding. -/
def tripWaiting (s : State) (fn ring : Nat) : Option Trip :=
  s.hif.trips.find? fun t => t.fn = fn && t.ring = ring && t.desc = none && t.tags.isSome

/-- CONS advances (R344). -/
def consStep (s : State) (k : Nat) : State :=
  let r := getRing s k
  setRing s k { r with cons := r.cons + 1, changed := true }

/-- TRIP_DESC_ARRIVAL (R296, R355): the descriptor of the oldest outstanding fetch arrives; the checks run; a failure
forms the completion, a pass issues the payload reads. After a loss of lock it ends with CLK_LOST (R60), from the start
of a Snuff on with TAMPER (R36). -/
def execTripDescArrival (fn r : Nat) (d : Bytes) (s : State) : Host.Outcome State Fault Refusal :=
  match tripWaiting s fn r with
  | none => .next s
  | some t =>
    let k := ringKey fn r
    let d := slice d 0 64
    let s := if t.muted then s else consStep s k
    let dr := tripDrop s fn r t.slot
    let lat := if t.muted then dr else tripLat dr k t.adm
    let ends := if s.tmp.trig.isSome then 0x3F else t.ends
    if ends ≠ 0 then .next (refuseDesc dr k t.slot d ends t.muted)
    else match verdict s k fn 0 d with
      | .refuse st => .next (refuseDesc lat k t.slot d st t.muted)
      | .dup c => .next (if t.muted then dr else formUnstored lat k (dupOf c t.slot (dNoIrq d)))
      | .bad => .next (if t.muted then dr else formUnstored lat k (stampCpl s (cplOf d t.slot 0x11)))
      | .behind => .next (attachDup dr k t.slot d)
      | .run => match tripCheck s d with
        | some st => .next (refuseDesc lat k t.slot d st t.muted)
        | none =>
          let s := s.setHif { s.hif with trips := s.hif.trips.map fun y =>
            if y = t then { y with desc := some d, tags := none } else y }
          let s := issueReads s
          let g := getRing s k
          .next (assignUnits (setRing s k { g with running := g.running ++ [{ slot := t.slot, desc := d, muted := t.muted }] }))

/-- The trip of this slot whose reads are out and whose MAC has not started. -/
def tripReady (s : State) (fn ring : Nat) (slot : Half) : Option (Trip × Bytes) :=
  match s.hif.trips.find? (isTrip fn ring slot) with
  | some t => match t.desc with
    | some d => if (List.range 6).any fun u => match tget none s.eng.units u with
          | some j => j.fn = fn && j.ring = ring && j.slot = slot
          | none => false
        then none else if t.tags.isSome then some (t, d) else none
    | none => none
  | none => none

/-- What a MAC unit runs with (R296 to R298): the policy check and the MAC of the payload under the entry's key. -/
def macJob (s : State) (t : Trip) (d msg aux : Bytes) : MacJob :=
  let op := dOp d
  let e := fastEntry s (dKey d)
  let st := match e with
    | some e => policy s t.fn op e
    | none => 0x12
  let mac := match e with
    | some e => fastMac op e.mat (slice msg 0 (dLen d)) (slice aux 0 (dAuxLen d))
    | none => []
  { fn := t.fn, ring := t.ring, slot := t.slot, cpl := st,
    tag := if st = 0 && !isVerify op then mac.take (dTag d) else [],
    vfy := st = 0 && isVerify op && mac.take (dTag d) = fastExpected op (slice aux 0 (dAuxLen d)),
    len := dLen d, out := BitVec.ofNat 64 (dOut d), adm := t.adm, squash := st ≠ 0
    holds := e.map (·.slot) }

/-- Every read of a trip has arrived: its tags are free. -/
def readsDone (s : State) (fn ring : Nat) (slot : Half) : State :=
  let done := fun (t : Trip) => if isTrip fn ring slot t then { t with tags := some 0 } else t
  issueReads (s.setHif { s.hif with trips := s.hif.trips.map done })

/-- TRIP_MAC_START (R297): the payload has arrived; the MAC starts on the unit that the descriptor took, and the policy
check reads the cached attributes (R298, R32). A descriptor that waits for a unit does not start. -/
def execTripMacStart (fn r : Nat) (slot : Half) (msg aux : Bytes) (s : State) : Host.Outcome State Fault Refusal :=
  let s := assignUnits s
  match tripReady s fn r slot with
  | some (t, d) => match t.unit with
    | some u =>
      if s.tmp.trig.isSome then .next s
      else
        let s := s.setEng { s.eng with units := tput none s.eng.units u (some (macJob s t d msg aux)) }
        .next (readsDone s fn r slot)
    | none => .next s
  | none => .next s

/-- TRIP_MAC_END (R298, R299): the unit ends after its C cycles; the result commits, with its key-load record, or is
squashed, the completion forms, and the unit's registers are zeroed. A Snuff that has been triggered takes the unit (R36). -/
def execTripMacEnd (u : Nat) (s : State) : Host.Outcome State Fault Refusal :=
  if s.tmp.trig.isSome then .next s
  else match tget none s.eng.units u with
  | none => .next s
  | some j =>
    let k := ringKey j.fn j.ring
    let s := s.setEng { s.eng with
      units := tput none s.eng.units u none
      fpCnt := if j.squash then s.eng.fpCnt else satInc 0xFFFFFFFF s.eng.fpCnt
      fpSq := if j.squash then satInc 0xFFFFFFFF s.eng.fpSq else s.eng.fpSq }
    let s := match j.holds with
      | some n => if j.squash then s else logDW s .eng 1 (whoFn j.fn) (leBytes 4 n ++ leBytes 4 6)
      | none => s
    match s.hif.trips.find? (isTrip j.fn j.ring j.slot), runningAt s k j.slot with
    | some t, some x =>
      let c := { cplOf x.desc j.slot j.cpl with vfy := j.vfy, outLen := wordOf j.tag.length }
      let s := if j.tag.isEmpty then s else emitOut s (.data j.out j.tag)
      .next (tripEnd s t x c)
    | _, _ => .next s

/-- TICK_OVERRUN (R50, R344): the descriptor of the oldest overrun candidate of the ring is read alone and completes
with TICK_OVERRUN, from the shared read capacity; nothing is read once a Snuff has started (R36) or where trip rings are not served (R76). -/
def execTickOverrun (fn r : Nat) (d : Bytes) (s : State) : Host.Outcome State Fault Refusal :=
  match s.glb.overruns.find? fun c => c.fn = fn && c.ring = r with
  | none => .next s
  | some c =>
    let k := ringKey fn r
    if !tripServed s || !ringOpen s fn r || !sharedTag s || 32 ≤ (getRing s k).holding.length then .next s
    else
      let s := s.setGlb { s.glb with
        overruns := s.glb.overruns.erase c
        overrun := satInc 0xFF s.glb.overrun }
      .next (refuseDesc (consStep s k) k c.slot (slice d 0 64) 0x22)

end Sys2Proof.Machine
end

