-- ==== Sys2Proof/Machine/RingCmds.lean ====
section
/-! DEFINITION. The ring commands: doorbells, fetches, completion-ring space, enable, reset, functions, mailboxes, the
link, and the firmware path HIF_STG_TAKE and HIF_CPL_GO (14 R329 to R362). -/
namespace Sys2Proof.Machine

/-- A pending DIM entry cancelled (R80): MODE_CAUSE 0x0F, and the DIM command completes with ABORTED. -/
def dimCancel (s : State) : State :=
  let c := modeCode s.mode.mode
  let s := logMode (s.setMode { s.mode with
    dimPend := none, cause := 0x0F, causeFrom := c, causeTo := c, causeTick := s.glb.tick })
  endWaits s .dim fun x => { x with status := 0x21 }

/-- The wake trigger observed in DIM (M7, R107): the entropy source restarts (13 R326); wakeCause is its MODE_CAUSE (0x06 doorbell, 0x07 another). -/
def wakeTrigger (s : State) (wakeCause : Nat) : State :=
  if s.mode.mode = .dim && s.mode.wake = none then
    onRng (s.setMode { s.mode with wake := some (now s), wakeCause := wakeCause }) rngStart else s

/-- A doorbell is observed at all: the page is live, the function in D0, no Snuff under way (R337, R360, R36). -/
def doorbellSeen (s : State) (fn : Nat) : Bool := pageLive s fn && !(getFn s fn).d3 && s.tmp.trig = none

/-- What a doorbell on a running ring publishes (R340). -/
def publish (s : State) (fn r : Nat) (tail : Half) : State :=
  let k := ringKey fn r
  let g := getRing s k
  let n := idxSub tail g.obs
  let s := setRing s k { g with obs := tail, changed := true }
  if g.cls = 0 then observeAll s (doorbellCands fn r (now s) n g.obs) else s

/-- The condition of R340 under which a tail publishes. -/
def tailValid (g : Ring) (tail : Half) : Bool :=
  idxSub tail g.cons ≤ ringSize g && idxSub g.obs g.cons < idxSub tail g.cons

/-- SQ_TAIL (R340): observed and stamped; publishes candidates, has no effect, is counted, or stops the ring. A doorbell
wakes the device from DIM (M7) and cancels a pending DIM entry (R80). -/
def execSqTail (fn r : Nat) (v : Word) (s : State) : Host.Outcome State Fault Refusal :=
  if !doorbellSeen s fn then .next s
  else
    let s := wakeTrigger s 6
    let s := if s.mode.dimPend.isSome then dimCancel s else s
    let k := ringKey fn r
    let g := getRing s k
    let tail : Half := BitVec.ofNat 16 v.toNat
    if !ringRuns g then .next (setRing s k { g with lost := satInc 0xFFFF g.lost })
    else if 65536 ≤ v.toNat then .next (ringStop s k 1)
    else if tail = g.obs then .next s
    else if tailValid g tail then .next (publish s fn r tail)
    else .next (ringStop s k 1)

/-- Firmware-class rings fetch (R344, R129, R360, R350): the class, the mode, SERVICE-HOLD unless DEGRADE, room in the
staging area, D0, the holding buffer, a tag. -/
def canFetch (s : State) (fn r : Nat) : Bool :=
  let g := getRing s (ringKey fn r)
  ringOpen s fn r && g.cls ≠ 0 && g.obs ≠ g.cons && ringServed s fn g.cls && sharedTag s
    && (!s.mode.hold || s.clk.degrade) && s.tmp.trig = none && g.staged.length < 16
    && !holdBlocks s (ringKey fn r)

/-- A fetched descriptor staged (R344). -/
def stage (s : State) (k : Nat) (slot : Half) (d : Bytes) : State :=
  let g := getRing s k
  let s := setRing s k { g with staged := g.staged ++ [{ slot := slot, desc := d }] }
  s.setHif { s.hif with stgOrder := s.hif.stgOrder ++ [(k, slot)] }

/-- DESC_FETCH_COMPLETE (R344): the next descriptor arrives; CONS advances; the checks of R346 stage it or complete it. -/
def execDescFetchComplete (fn r : Nat) (d : Bytes) (s : State) : Host.Outcome State Fault Refusal :=
  if !canFetch s fn r then .next s
  else
    let k := ringKey fn r
    let slot := (getRing s k).cons
    let d := slice d 0 64
    let cls := (getRing s k).cls
    let s := consStep s k
    match verdict s k fn cls d with
    | .dup c => .next (formUnstored s k (dupOf c slot (dNoIrq d)))
    | .refuse st => .next (refuseDesc s k slot d st)
    | .bad => .next (formUnstored s k (stampCpl s (cplOf d slot 0x11)))
    | .behind => .next (attachDup s k slot d)
    | .run => .next (stage s k slot d)

/-- The trips of a ring from this slot on whose descriptors have not arrived, dropped: none of them is executed (R334). -/
def tripsCut (s : State) (fn ring : Nat) (slot : Half) : State :=
  issueReads (s.setHif { s.hif with
    trips := s.hif.trips.filter fun t => !(t.fn = fn && t.ring = ring && t.desc = none && 0 ≤ (t.slot - slot).toInt) })

/-- HOST_READ_ERROR (R334): a failed descriptor read stops the ring with SQ_READ; a failed buffer read completes its
descriptor with ABORTED. -/
def execHostReadError (fn r : Nat) (slot : Half) (s : State) : Host.Outcome State Fault Refusal :=
  let k := ringKey fn r
  let g := getRing s k
  match s.hif.trips.find? fun t => t.fn = fn && t.ring = r && t.slot = slot with
  | some t => match t.desc, runningAt s k slot with
    | none, _ => .next (ringStop (tripsCut s fn r slot) k 2)
    | some _, some x => if (tripReady s fn r slot).isSome then .next (tripEnd s t x (cplOf x.desc slot 0x21)) else .next s
    | some _, none => .next s
  | none =>
    if s.glb.overruns.any fun c => c.fn = fn && c.ring = r && c.slot = slot then .next (ringStop s k 2)
    else if canFetch s fn r && g.cons = slot then .next (ringStop s k 2)
    else match runningAt s k slot with
      | some x => if s.hif.waits.any fun w => w.key = k && w.slot = slot then .next s
          else .next (endRunning s k x (cplOf x.desc slot 0x21))
      | none => .next s

/-- CQ_HEAD (R350): space is freed and held completions are written in order, or the ring stops with BAD_CQHEAD. -/
def execCqHead (fn r : Nat) (v : Word) (s : State) : Host.Outcome State Fault Refusal :=
  let k := ringKey fn r
  let g := getRing s k
  let h : Half := BitVec.ofNat 16 v.toNat
  if !pageLive s fn || !g.en then .next s
  else if ringSize g < idxSub g.cqw h then .next (ringStop s k 4)
  else .next (drainHeld (setRing s k { g with cqHead := h, headWr := true }) k g.holding.length)

/-- The block of a ring is valid (R342). -/
def ringCfgOk (g : Ring) : Bool :=
  g.sqBase.toNat % 4096 = 0 && g.cqBase.toNat % 4096 = 0 && g.hrec.toNat % 64 = 0
    && 4 ≤ g.log2 && g.log2 ≤ 12 && g.vec < 64 && g.irq ≠ 3

/-- The lowest ring context not in use (R338; log 54). -/
def freeCtx (s : State) : Nat :=
  ((List.range 64).find? fun c => !(List.range 128).any fun k => (getRing s k).en && (getRing s k).ctx = c).getD 0

/-- RING_ENABLE (R342, R338): the block is checked and the ring starts, or ERR reads BAD_CFG or QUOTA. -/
def execRingEnable (fn r : Nat) (s : State) : Host.Outcome State Fault Refusal :=
  let k := ringKey fn r
  let g := getRing s k
  if !pageLive s fn || g.en then .next s
  else if !ringCfgOk g then .next (irq (setRing s k { g with err := 3 }) fn 9)
  else if s.hif.alloc.getD fn 0 ≤ enabledOf s fn || 64 ≤ enabledRings s then
    .next (irq (setRing s k { g with err := 5 }) fn 9)
  else .next (setRing s k { g with
    en := true, state := 0, err := 0, obs := 0, cons := 0, cqw := 0, cqHead := 0, ctx := freeCtx s,
    holding := [], wrote := false, headWr := false, changed := true })

/-- What a reset of a ring drops (R358): candidates not admitted and staged descriptors; what has started is silenced;
held completions go. -/
def ringClear (s : State) (fn r : Nat) : State :=
  let k := ringKey fn r
  let g := getRing s k
  let mine := fun (c : Cand) => c.fn = fn && c.ring = r
  let s := s.setGlb { s.glb with
    carried := s.glb.carried.filter fun c => !mine c
    overruns := s.glb.overruns.filter fun c => !mine c }
  let s := s.setHif { s.hif with
    trips := s.hif.trips.map fun t => if t.fn = fn && t.ring = r then { t with muted := true } else t
    stgOrder := s.hif.stgOrder.filter fun p => p.1 ≠ k
    reorder := s.hif.reorder.filter fun p => p.1 ≠ k }
  setRing s k { g with
    staged := [], holding := [], en := false, state := 1, err := 0, changed := true,
    running := g.running.map fun x => { x with muted := true } }

/-- RING_RESET (R358). -/
def execRingReset (fn r : Nat) (s : State) : Host.Outcome State Fault Refusal :=
  if pageLive s fn then .next (ringClear s fn r) else .next s

/-- The rings of a function dropped with their stores (R359): nothing of what runs is written or stored. -/
def fnRingsClear (s : State) (fn : Nat) : State :=
  (List.range 8).foldl (fun s r =>
    let s := ringClear s fn r
    setRing s (ringKey fn r) { ringD (ringKey fn r) with state := 1, changed := false }) s

/-- The function reset of R359: rings, stores, MSI-X table, mailbox, counters. -/
def fnClear (s : State) (fn : Nat) : State :=
  let s := fnRingsClear s fn
  let s := s.setHif { s.hif with
    trips := s.hif.trips.filter fun t => t.fn ≠ fn }
  setFn s fn {}

/-- Every virtual function reset, and VF Enable cleared (R359; 03 R76, cell rS; PRESUMED from SR-IOV, log 109: the clearing of
VF Enable resets the functions). -/
def vfsOff (s : State) : State :=
  let s := ((List.range 15).map (· + 1)).foldl fnClear s
  s.setHif { s.hif with vfEnable := false }

/-- A function is there: the PF, or an enabled VF (R330). -/
def fnThere (s : State) (fn : Nat) : Bool := mainUp s && (fn = 0 || (s.hif.vfEnable && fn ≤ s.hif.numVfs))

/-- FUNCTION_LEVEL_RESET (R359): an FLR of the PF also clears VF Enable, which makes every VF absent. -/
def execFunctionLevelReset (fn : Nat) (s : State) : Host.Outcome State Fault Refusal :=
  if !fnThere s fn then .next s
  else
    let s := fnClear s fn
    .next (if fn = 0 then vfsOff s else s)

/-- D3HOT_ENTRY (R360). -/
def execD3hotEntry (fn : Nat) (s : State) : Host.Outcome State Fault Refusal :=
  if fnThere s fn then .next (setFn s fn { getFn s fn with d3 := true }) else .next s

/-- D3HOT_EXIT (R360): acts as an FLR of the function. -/
def execD3hotExit (fn : Nat) (s : State) : Host.Outcome State Fault Refusal :=
  if (getFn s fn).d3 then execFunctionLevelReset fn s else .next s

/-- Every function reset (R94 endpoint reset, R359), the link with it when it is down. -/
def endpointClear (s : State) : State :=
  let s := (List.range 16).foldl fnClear s
  s.setHif { s.hif with vfEnable := false, numVfs := 0, ari := false, extTag := false }

/-- ENDPOINT_RESET (R94, R359): PERST_N, hot reset or link down; the mode stays. -/
def execEndpointReset (s : State) : Host.Outcome State Fault Refusal :=
  if !mainUp s then .next s
  else .next (let s := endpointClear s
              s.setHif { s.hif with linkUp := false, width := 0, speed := 0 })

/-- LINK_UP (R329): the link trains at a width and speed that the PCIE entry allows (R331); ext is Extended Tag Field Enable
as the host then sets it (R332, log 109). -/
def execLinkUp (width speed : Nat) (ext : Bool) (s : State) : Host.Outcome State Fault Refusal :=
  if mainUp s && !s.hif.linkUp && (width = 1 || width = 2) && width ≤ fld s.cfg.pcie 0 2
      && 1 ≤ speed && speed ≤ fld s.cfg.pcie 2 2 then
    .next (s.setHif { s.hif with linkUp := true, width := width, speed := speed, extTag := ext })
  else .next s

/-- TotalVFs (R331). -/
def totalVfs (s : State) : Nat := fld s.cfg.pcie 4 4

/-- VF_ENABLE (R330): the SR-IOV control word written: ARI Capable Hierarchy, and VF Enable with NumVFs, which stays 0 when
more than 7 are asked for without ARI; VFs are not enabled in RECOVERY and SNUFFED (R76). -/
def execVfEnable (on : Bool) (n : Nat) (ari : Bool) (s : State) : Host.Outcome State Fault Refusal :=
  if !mainUp s then .next s
  else
    let s := s.setHif { s.hif with ari := ari }
    if !on then .next (vfsOff s)
    else if n = 0 || totalVfs s < n || (7 < n && !s.hif.ari) || s.mode.mode = .recovery || s.mode.mode = .snuffed
        || s.mode.mode = .kindle then .next s
    else .next (s.setHif { s.hif with vfEnable := true, numVfs := n })

/-- The eight allowances of a HIF_RING_ALLOC word; values above 8 are applied as 8. -/
def allocWord (v : Word) : List Nat := (List.range 8).map fun j => min 8 (fld v (4 * j) 4)

/-- HIF_RING_ALLOC (R338): applied, or discarded with a diagnostics event. -/
def execHifRingAlloc (k : Nat) (v : Word) (s : State) : Host.Outcome State Fault Refusal :=
  let a := if k = 0 then allocWord v ++ s.hif.alloc.drop 8 else s.hif.alloc.take 8 ++ allocWord v
  if !mainUp s then .next s
  else if 64 < a.sum || (List.range 16).any fun f => a.getD f 0 < enabledOf s f then
    .next (logOther s .hif (leBytes 4 (0x100 + 4 * k)))
  else .next (s.setHif { s.hif with alloc := a })

/-- A staged descriptor marked taken: it runs. -/
def takeStaged (s : State) (k : Nat) (slot : Half) : State :=
  let g := getRing s k
  match g.staged.find? (·.slot = slot) with
  | some x =>
    let s := setRing s k { g with staged := g.staged.erase x, running := g.running ++ [x] }
    s.setHif { s.hif with taken := s.hif.taken.filter (· ≠ (k, slot)) ++ [(k, slot)] }
  | none => s

/-- HIF_STG_TAKE (R344): the oldest staged descriptor is marked taken. -/
def execHifStgTake (s : State) : Host.Outcome State Fault Refusal :=
  match s.hif.stgOrder with
  | [] => .next s
  | (k, slot) :: t => .next (takeStaged (s.setHif { s.hif with stgOrder := t }) k slot)

/-- The completion that HIF_CPL_W0 to W7 hold (R348). -/
def cplRegs (s : State) : Cpl :=
  let w := fun i => tget 0 s.hif.cplW i
  { reqId := w 0, slot := BitVec.ofNat 16 (fld (w 1) 0 16), status := fld (w 1) 16 8, orig := fld (w 1) 24 8,
    detail := BitVec.ofNat 16 (fld (w 2) 0 16), outLen := w 3,
    result := BitVec.ofNat 64 ((w 4).toNat + 2 ^ 32 * (w 5).toNat), vfy := bit (w 7) 25 }

/-- A completion as it leaves for an operation in flight: TAMPER from the start of a Snuff on (R36). -/
def cplInSnuff (s : State) (x : Staged) (c : Cpl) : Cpl :=
  if s.tmp.trig.isSome then cplOf x.desc x.slot 0x3F else { c with noIrq := dNoIrq x.desc }

/-- HIF_CPL_GO (R349): the completion of the register words is formed for the taken descriptor of the ring context whose
REQ_ID and SLOT it names; otherwise nothing is formed and a diagnostics event is written. No descriptor of a TRIP ring
is taken by firmware (R25). -/
def execHifCplGo (v : Word) (s : State) : Host.Outcome State Fault Refusal :=
  let ctx := fld v 0 16
  let c := cplRegs s
  match (List.range 128).find? fun k => (getRing s k).en && (getRing s k).cls ≠ 0 && (getRing s k).ctx = ctx with
  | none => .next (logOther s .hif (leBytes 4 0x060))
  | some k => match (getRing s k).running.find? fun x => x.slot = c.slot && dReq x.desc = c.reqId with
    | none => .next (logOther s .hif (leBytes 4 0x060))
    | some x => .next (endRunning s k x (cplInSnuff s x c))

/-- A mailbox interrupt of function n on core c (07 R185, R186): partition n at Supervisor or User level has it as a
Supervisor pending bit, any other state as IPEND_HYP[16 + n]. -/
def mbxRaise (s : State) (n c : Nat) : State :=
  let x := getCore s c
  if x.part = n && (x.level = .sup || x.level = .user) then setCore s c { x with ipendSup := x.ipendSup ||| 4 }
  else setCore s c { x with ipendHyp := x.ipendHyp ||| BitVec.ofNat 64 (2 ^ (16 + n)) }

/-- IPEND_SUP [2] and the pending bit of mailbox n cleared on core c (07 R186). -/
def mbxClear (s : State) (n c : Nat) : State :=
  let x := getCore s c
  setCore s c { x with
    ipendHyp := x.ipendHyp &&& ~~~ (BitVec.ofNat 64 (2 ^ (16 + n)))
    ipendSup := x.ipendSup &&& ~~~ 4 }

/-- SEND (R356): the mailbox interrupt of partition n is raised on both cores (07 R186). -/
def execMbxSend (n : Nat) (s : State) : Host.Outcome State Fault Refusal :=
  if n = 0 || !pageLive s n then .next s
  else .next (mbxRaise (mbxRaise s n 0) n 1)

/-- One mailbox answered (R356). -/
def mbxAnswer (s : State) (n : Nat) : State :=
  mbxClear (mbxClear (irq (setFn s n { getFn s n with reply := true }) n 8) n 0) n 1

/-- HIF_MBX_DONE (R356): every partition named answers: REPLY set, the VF's vector 8 raised, the pending bits cleared. -/
def execHifMbxDone (v : Word) (s : State) : Host.Outcome State Fault Refusal :=
  if !mainUp s then .next s
  else .next (((bitsOf 16 v.toNat).filter (· ≠ 0)).foldl mbxAnswer s)

/-- FLT_EN (R362): EN is set and the register loads FLT_SEED, 0 applied as 1; FLT_ is in the E group (05 R131). -/
def execFltEn (s : State) : Host.Outcome State Fault Refusal :=
  .next (onE s 21 0x40015000 fun s =>
    s.setFlt { s.flt with en := true, lfsr := if s.flt.seed = 0 then 1 else s.flt.seed })

end Sys2Proof.Machine
end

