-- ==== Sys2Proof/Machine/Beacon.lean ====
section
/-! DEFINITION. The beacon: start, lock to SYNC_IN, time reads, COMMIT groups, quanta and the end of an announced window
(02 R39 to R54, R62, R87). -/
namespace Sys2Proof.Machine

/-- PERIOD codes whose P_T divides 1 s exactly (R42). -/
def ppsPeriod (p : Nat) : Bool := [0, 2, 3, 6, 8, 14, 18].contains p

/-- GLB_BCN_CFG holds a combination that R39 and R42 allow. -/
def bcnCfgOk (g : Glb) : Bool := g.period ≤ 18 && g.src ≠ 3 && (g.src ≠ 1 || ppsPeriod g.period)

/-- The budgets of the eight engines from the groups in force (R47 step 3). -/
def budLoad (b : List Bud) : List Bud :=
  let a := b.getD 0 {}
  let h := b.getD 1 {}
  let p := b.getD 2 {}
  [a, a, a, a, h, h, p, p]

/-- The beacon starts at tick 0 (R41, R43), on the budgets in force (R47 step 3, R53). -/
def bcnStart (s : State) : State :=
  let l : Lock := if s.glb.src = 0 then .free else .acquire
  let s' := s.setGlb { s.glb with
    run := true, tick := 0, sub := 0, lock := l, acq := 0, miss := 0, syncRef := 0, budNow := budLoad s.glb.bud }
  if l = s.glb.lock then s' else logD s' .glb 1 (leBytes 8 (lockCode l))

/-- BCN_RUN (R41): RUN = 1 starts the beacon in KINDLE, or is refused when the configuration is forbidden; RUN = 0 or a
write while it runs is a HALT-class write to a running block. -/
def execBcnRun (v : Word) (s : State) : Host.Outcome State Fault Refusal :=
  if !mainUp s then .next s
  else if s.glb.run then .next (if bit v 0 then s else refuseWrite s 0x40000100 0xA)
  else if !bit v 0 then .next s
  else if inKindle s && bcnCfgOk s.glb then .next (bcnStart s)
  else .next (refuseWrite s 0x40000100 0xA)

/-- A change of lock state with its diagnostics entry (R44). -/
def setLock (s : State) (l : Lock) : State :=
  logD (s.setGlb { s.glb with lock := l }) .glb 1 (leBytes 8 (lockCode l))

/-- The tick whose edge lies nearest a SYNC_IN edge in this count, and the signed distance from that edge to it in
units of 20 ns (R42). `half` says that it falls in the count's second 20 ns. -/
def edgeNear (s : State) (half : Bool) : Word × Int :=
  let x := 2 * s.glb.sub + b2n half
  if x ≤ ticksN s then (s.glb.tick, x) else (s.glb.tick + 1, (x : Int) - 2 * ticksN s)

/-- The rate of the LOCKED loop, in ns per tick (R43, R40). DESIGN CHOICE (log 92): the spec bounds its step only. -/
def lockedRate (ph : Int) : Int := max (-80) (min 80 (20 * ph))

/-- The correction in ACQUIRE, in ns per tick, towards the smaller phase distance (R43). DESIGN CHOICE (log 92): its
direction at phase error 0. -/
def acquireRate (ph : Int) : Int := if ph < 0 then -80 else 80

/-- An accepted SYNC_IN edge: its phase error, and the tick from which the next edge is expected (R42, R43). -/
def syncAccept (s : State) (e : Word × Int) (rate : Int) (acq : Nat) : State :=
  s.setGlb { s.glb with
    phaseErr := e.2, acq := acq, miss := 0, lastSync := some (now s), syncRef := e.1, rate := rate }

/-- An edge accepted in ACQUIRE (R43): three in a row within 200 ns, 10 units, lock. -/
def acquireEdge (s : State) (e : Word × Int) : State :=
  let n := if e.2.natAbs ≤ 10 then s.glb.acq + 1 else 0
  let s := syncAccept s e (acquireRate e.2) n
  if 3 ≤ n then setLock s .locked else s

/-- In LOCKED the edge falls within 5 µs, 250 units, of an expected instant (R42, R43). -/
def syncExpected (s : State) (e : Word × Int) : Bool :=
  e.2.natAbs ≤ 250 && (e.1 - s.glb.syncRef).toNat % syncTicks s = 0

/-- Less than 1 µs, 25 counts, after the last accepted edge (21 R488). -/
def inHoldoff (s : State) : Bool := match s.glb.lastSync with
  | some a => countsBetween s a (now s) < 25
  | none => false

/-- SYNC_IN_EDGE (R42 to R44, 21 R488): an active edge in the present count, in its second half or not, measured against
the beacon's own edges. DESIGN CHOICE (log 93): the edge that takes HOLDOVER to ACQUIRE is the first of the three. -/
def execSyncInEdge (half : Bool) (s : State) : Host.Outcome State Fault Refusal :=
  let e := edgeNear s half
  if !mainUp s || !s.glb.run || inHoldoff s then .next s
  else match s.glb.lock with
    | .free => .next s
    | .acquire => .next (acquireEdge s e)
    | .holdover => .next (acquireEdge (setLock (s.setGlb { s.glb with acq := 0 }) .acquire) e)
    | .locked =>
      if syncExpected s e then .next (syncAccept s e (lockedRate e.2) s.glb.acq)
      else .next (s.setGlb { s.glb with stray := satInc 0xFFFF s.glb.stray })

/-- The number of missed edges that ends LOCKED (R43). -/
def missLimit (src : Nat) : Nat := if src = 1 then 2 else 8

/-- SYNC_HOLDOVER (R43): the missed edges that the beacon has counted reach their limit; the last rate correction is
frozen and the tick count is not disturbed. -/
def execSyncHoldover (s : State) : Host.Outcome State Fault Refusal :=
  if mainUp s && s.glb.run && s.glb.lock = .locked && missLimit s.glb.src ≤ s.glb.miss then .next (setLock s .holdover)
  else .next s

/-- GLB_TICK_READ (R46). -/
def execGlbTickRead (s : State) : Host.Outcome State Fault Refusal :=
  if mainUp s then .next (s.setGlb { s.glb with subLatch := s.glb.sub }) else .next s

/-- GLB_TRIP_LAT_CLEAR (GLB_TRIP_LAT). -/
def execGlbTripLatClear (s : State) : Host.Outcome State Fault Refusal :=
  if mainUp s then .next (s.setGlb { s.glb with tripLat := 0 }) else .next s

/-- Every sum of a budget group is at most 32 (R53). -/
def budOk (b : List Bud) : Bool := b.all fun x => x.protect + x.bulk + x.admin ≤ 32

/-- The committed groups applied at a tick edge (R47 step 1, R53): the BUDGET group whole or not at all. -/
def applyGroups (s : State) : State :=
  let s := match s.glb.budCommit with
    | none => s
    | some b => if budOk b then s.setGlb { s.glb with bud := b, budCommit := none }
      else logOther (s.setGlb { s.glb with budErr := true, budCommit := none }) .glb (leBytes 8 0)
  match s.glb.capsCommit with
  | none => s
  | some c => s.setGlb { s.glb with caps := c.map (min 24), capsCommit := none }

/-- A COMMIT before the beacon runs takes effect at once (06 R158). -/
def commitNow (s : State) : State := if s.glb.run then s else applyGroups s

/-- BUDGET_COMMIT (R53, 06 R159): the shadows are captured for the next tick edge. -/
def execBudgetCommit (s : State) : Host.Outcome State Fault Refusal :=
  if mainUp s then .next (commitNow (s.setGlb { s.glb with budCommit := some s.glb.budSh })) else .next s

/-- TRIPCAP_COMMIT (06 R159). -/
def execTripcapCommit (s : State) : Host.Outcome State Fault Refusal :=
  if mainUp s then .next (commitNow (s.setGlb { s.glb with capsCommit := some s.glb.capsSh })) else .next s

/-- The BEACON-class shadows applied at a tick edge (R47 step 1): MAXWAIT, the trim source, the pin ceilings. -/
def applyShadows (s : State) : State :=
  let s := s.setGlb { s.glb with maxwait := if s.glb.maxwaitSh = 0 then 1 else s.glb.maxwaitSh }
  let s := s.setClk { s.clk with trimSrc := if 5 ≤ s.clk.trimSh then 0 else s.clk.trimSh }
  s.setVlt { s.vlt with pincap := s.vlt.pincapSh.map (min 448) }

/-- Tokens and budgets refilled (R47 steps 2 and 3). -/
def refill (s : State) : State :=
  s.setGlb { s.glb with tokens := 24, used := [], budNow := budLoad s.glb.bud }

/-! ### Quanta (R54) -/

/-- The function a lane operation serves (R289). -/
def laneFn (o : LaneOp) : Nat := fld (o.words.getD 0 0) 16 4

/-- The function a PKE operation serves (R302). -/
def pkeFn (o : PkeOp) : Nat := fld (o.words.getD 3 0) 0 4

/-- A PKE instance. -/
def getPke (s : State) (p : Nat) : PkeInst := tget {} s.pke.inst p

/-- s with PKE instance p replaced. -/
def setPke (s : State) (p : Nat) (x : PkeInst) : State := s.setPke { s.pke with inst := tput {} s.pke.inst p x }

/-- The operations of a lane. -/
def getLane (s : State) (e : Nat) : List LaneOp := tget [] s.eng.lanes e

/-- s with a lane's operations replaced. -/
def setLane (s : State) (e : Nat) (l : List LaneOp) : State := s.setEng { s.eng with lanes := tput [] s.eng.lanes e l }

/-- Class and function of each operation that can run on an engine: 0 to 5 lanes, 6 and 7 PKE0 and PKE1. A
custody-verify run on PKE0 is ADMIN work of function 0 (10 R248), and so is housekeeping on lane 0 (R54, 13 R318). -/
def engWork (s : State) (e : Nat) : List (Nat × Nat) :=
  if e < 6 then (if e = 0 && 0 < s.eng.house then [(3, 0)] else []) ++ (getLane s e).map fun o => (o.cls, laneFn o)
  else if e = 6 && s.cus.run = 2 then [(3, 0)]
  else (getPke s (e - 6)).resident.map fun o => (o.cls, pkeFn o)

/-- A class has work for the engine. -/
def hasWork (s : State) (e cls : Nat) : Bool := (engWork s e).any fun w => w.1 = cls

/-- The next function in round robin after the one served last (R54). -/
def nextFn (s : State) (e cls : Nat) : Nat :=
  let last := tget 0 s.glb.rr (4 * e + cls)
  let fs := ((engWork s e).filter fun w => w.1 = cls).map (·.2)
  (((List.range 16).map fun i => (last + 1 + i) % 16).find? fs.contains).getD 0

/-- The budget of a class. -/
def budOf (b : Bud) (cls : Nat) : Nat := if cls = 1 then b.protect else if cls = 2 then b.bulk else b.admin

/-- The budget with one quantum less for a class. -/
def budTake (b : Bud) (cls : Nat) : Bud :=
  if cls = 1 then { b with protect := b.protect - 1 }
  else if cls = 2 then { b with bulk := b.bulk - 1 } else { b with admin := b.admin - 1 }

/-- The engine is clocked in the present cell and not gated (R76, R106, R112). -/
def engClocked (s : State) (e : Nat) : Bool :=
  let c := engCell s.mode.mode
  (c = .e2 || (c = .e1 && (e = 0 || e = 4 || e = 5 || e = 6)) || (c = .e3 && (e = 0 || e = 4 || e = 6))
    || (c = .e4 && (e = 0 || e = 4 || e = 5 || e = 6 || e = 7))) && !s.mode.gatedEng.contains e

/-- A stopping custody-verify run ends (10 R263, R264): its RESULT stands, PKE0's private memory is zeroed. -/
def custStop (s : State) : State :=
  let s := setPke s 0 { getPke s 0 with mem := [], alloc := 0, cv := false, busy := false }
  s.setCus { s.cus with run := 0, result := s.cus.stopRes }

/-- The window of an activation on trial ends (19 R454): its confirmation is due 1024 ticks later. -/
def windowEnds (s : State) : State :=
  if (s.mode.annCause = 2 || s.mode.annCause = 3) && s.upd.trial then
    s.setUpd { s.upd with confirmAt := some (s.mode.annStart + wordOf s.mode.annLen + 1024) }
  else s

/-- The announced window of a relock that has ended is over (05 R127). -/
def relockOver (s : State) : State := match s.clk.relock with
  | some r => if s.mode.annCause = 1 && r.ended then s.setClk { s.clk with relock := none } else s
  | none => s

/-- ANNOUNCE_WINDOW_END (R87, R62): the window ends at the edge of START + LEN; MODE_ANNOUNCE clears and carried
candidates are admitted. -/
def execAnnounceWindowEnd (s : State) : Host.Outcome State Fault Refusal :=
  if mainUp s && windowInForce s && tickReached (s.mode.annStart + wordOf s.mode.annLen) s.glb.tick then
    .next (admitCarried (annClear (relockOver (windowEnds s))))
  else .next s

end Sys2Proof.Machine
end

