-- ==== Sys2Proof/Machine/SpiCut.lean ====
section
/-! DEFINITION. The end of an SPI0 command, and what a cut leaves in flash and SRAM (16 R388, R399, R400). -/
namespace Sys2Proof.Machine

/-- n bytes of system SRAM at an address lie whole in it (R20). -/
def inSram (a n : Nat) : Bool := 0x10000000 ≤ a && a + n ≤ 0x10200000

/-- Offset of a system SRAM address (R20). -/
def sramOff (a : Word) : Nat := a.toNat - 0x10000000

/-- The command ends with this error; 0 none (SPI0_STAT). -/
def spi0End (s : State) (err : Nat) : State :=
  s.setSpi0 { s.spi0 with cur := none, stall := none, done := true, err := err }

/-- The bytes a cut program may leave: old values with any of the new value's 0 bits (R399). -/
def tornProgram (old new free : Bytes) : Bytes :=
  List.zipWith (· &&& ·) old (List.zipWith (· ||| ·) new free)

/-- The bytes a cut erase may leave: any value whose 1 bits include the old value's (R399). -/
def tornErase (old free : Bytes) : Bytes := List.zipWith (· ||| ·) old free

/-- Bytes put into flash as they are. -/
def flashPut (s : State) (sel k : Nat) (b : Bytes) : State := s.setFlash (tputN 0xFF s.flash (sel * 2 ^ 32 + k) b)

/-- A PROGRAM's range torn with free bytes (R399, log 9). -/
def tearProgram (s : State) (o : FlashOp) : State :=
  let (f, s) := freeBytes s o.len
  flashPut s o.sel o.addr (tornProgram (flashRead s o.sel o.addr o.len) (sramRead s (o.sram - 0x10000000) o.len) f)

/-- An ERASE's sector torn with free bytes (R399, log 9). -/
def tearErase (s : State) (o : FlashOp) : State :=
  let (f, s) := freeBytes s 4096
  let k := o.addr / 4096 * 4096
  flashPut s o.sel k (tornErase (flashRead s o.sel k 4096) f)

/-- A READ cut after a free number of complete bytes, which stay in SRAM (R400, log 9). -/
def cutRead (s : State) (o : FlashOp) : State :=
  let (f, s) := freeBytes s 4
  let n := leNat f % (o.len + 1)
  sramWrite s (o.sram - 0x10000000) (flashRead s o.sel o.addr n)

/-- SPI0 releases its select at once: the command ends with this error (R400). -/
def spi0Cut (s : State) (err : Nat) : State :=
  match s.spi0.cur with
  | none => s
  | some o =>
    let s := if s.spi0.stall.isSome then s else if o.op = 0 then cutRead s o else if o.op = 1 then tearProgram s o
      else if o.op = 2 then tearErase s o else s
    spi0End s err

end Sys2Proof.Machine
end

