-- ==== Sys2Proof/Machine/Reset.lean ====
section
/-! DEFINITION. What each reset clears and keeps (04 R94), and the loss of the main supplies (03 R84). -/
namespace Sys2Proof.Machine

/-- The arbiter after a reset of the core domain: over a device reset, an event queued and not written is lost, and the next
entry carries LOST (18, edge "written during a device reset"). -/
def glbReset (g : Glb) (powerOn : Bool) : Glb :=
  if powerOn then {} else { lost := g.lost, lostRst := g.lostRst || !g.queue.isEmpty || !g.heldRep.isEmpty }

/-- The fuse block after a reset: the cells and the resolved security values stay (R94, R95), held once a K2 has resolved
them since the power-on reset. -/
def fusReset (f : Fus) (keepSec : Bool) : Fus :=
  if keepSec then
    { cells := f.cells, lcW := f.lcW, disW := f.disW, lc := f.lc, dbgdis := f.dbgdis, tmpdis := f.tmpdis, rbc := f.rbc, cusCtl := f.cusCtl,
      cusDig := f.cusDig, cusMarg := f.cusMarg, dur := f.dur, vimg := f.vimg, vtok := f.vtok, cfgk := f.cfgk,
      serial := f.serial, held := f.held, pins := f.pins, temp := f.temp, band := f.band }
  else { cells := f.cells, temp := f.temp, band := f.band, lcW := f.lcW, lc := f.lc, tmpdis := f.tmpdis }

/-- The vault after a reset: the BBRAM and what the database keeps stay; the cache, the operations and the branches go
(R94, R235; 09 R239 for quarantine, 15 R377 for associations). -/
def vltReset (v : Vlt) (powerOn : Bool) : Vlt :=
  { vr := v.vr, vrchk := v.vrchk, epochs := v.epochs, exist := v.exist, slots := v.slots, seasons := v.seasons,
    assocs := v.assocs, quar := if powerOn then [] else v.quar }

/-- The recorder after a reset: the security log and the counters are in the battery domain; the diagnostics array is
cleared by a power-on reset only (18 R428, R429, R94). -/
def evrReset (e : Evr) (powerOn : Bool) : Evr :=
  { sec := e.sec, diag := if powerOn then [] else e.diag, sseq := e.sseq, dseq := e.dseq, pcyc := e.pcyc,
    pinOn := e.pinOn, pinned := e.pinned, circ := e.circ }

/-- What stands outside the main domain at any reset of it: the battery domain, the fuse cells, the flash, what has
left the device, and the model's own fields (R94). Every other field is as State.reset. -/
def coreCleared (s : State) (powerOn : Bool) : State :=
  { (State.reset) with
    glb := glbReset s.glb powerOn
    fus := fusReset s.fus (!powerOn)
    vlt := vltReset s.vlt powerOn
    hif := { out := s.hif.out }
    spi1 := {}
    flash := s.flash
    tmp := { s.tmp with lock := false, seedDue := false, alarm := s.tmp.alarm.filter fun a => a = Alarm.vsnuff.num && !powerOn, trig := s.tmp.trig }
    snf := s.snf
    evr := evrReset s.evr powerOn
    -- 19 R458: the verified pair's flag and its load regions outlive a device reset
    upd := { held := if powerOn then none else s.upd.held }
    sram := if powerOn || s.upd.held.isNone then [] else s.sram.filter fun p => p.1 < 0xC0000
    free := s.free
    pending := s.pending }

/-- MODE_ after a reset of the main domain: what the supplies show stays; after a device reset the debug state, the
root lock, the recovery request and the counts stay (R72, R90, R94). -/
def modeReset (m : ModeSt) (powerOn : Bool) (cause from_ : Nat) (tick : Word) : ModeSt :=
  let base : ModeSt := {
    mode := .kindle, cause := cause, causeFrom := from_, causeTo := 2, causeTick := tick,
    vddioA := m.vddioA, vddioB := m.vddioB, vpp := m.vpp, vbatOk := m.vbatOk, vsnuffOk := m.vsnuffOk,
    vbatIn := m.vbatIn, nrstLow := m.nrstLow,
    kindleTime := m.kindleTime }
  if powerOn then base
  else { base with
    rootlock := m.rootlock, testroot := m.testroot, port := m.port, dbg := m.dbg, recovReq := m.recovReq,
    nrstHold := m.nrstHold, devrst := satInc 255 m.devrst, wdtStep := m.wdtStep,
    -- R87: a debug switch in force stands until the next power-on reset; DESIGN CHOICE (log 99): one not yet taken is dropped
    annCause := if m.annCause = 4 && m.annIn then 4 else 0,
    annIn := m.annCause = 4 && m.annIn,
    annStart := if m.annCause = 4 && m.annIn then m.annStart else 0 }

/-- A device reset (R94, M14): the main domain cleared, KINDLE entered, its recorder entry written (R85). A flash command is cut (16 R400). -/
def deviceReset (s : State) (cause : Nat) : State :=
  let t := coreCleared (spi0Cut s 2) false
  logMode (t.setMode (modeReset s.mode false cause (modeCode s.mode.mode) s.glb.tick))

/-- A power-on reset (R88, R94, M2): PCYC rises (18 R429). DEDUCED (log 98): MODE_CAUSE.FROM is the mode before it. -/
def powerOnReset (s : State) : State :=
  let t := coreCleared (spi0Cut s 2) true
  let t := t.setEvr { t.evr with pcyc := (t.evr.pcyc + 1) % 65536 }
  logMode (t.setMode (modeReset s.mode true 0 (modeCode s.mode.mode) 0))

/-- The tamper block as the main supplies go: the detectors of VGLITCH and CGLITCH have no supply, so their conditions end
(17 R402). -/
def tmpLoss (t : Tmp) : Tmp :=
  { t with cond := t.cond &&& ~~~ (0x300 : BitVec 13), active := t.active &&& ~~~ (0x300 : BitVec 13) }

/-- The core domain without supply (R84, R89): VIGIL, or OFF when VBAT is out of range, where the battery domain's
content is lost too (R65, R92). -/
def coreLost (s : State) : State :=
  let t := coreCleared (spi0Cut s 2) true
  let m : ModeSt := { mode := .vigil, vbatIn := s.mode.vbatIn, vbatOk := s.mode.vbatOk,
                      vsnuffOk := s.mode.vsnuffOk, nrstLow := s.mode.nrstLow, vpp := s.mode.vpp }
  (t.setMode m).setTmp (tmpLoss t.tmp)

/-- The battery domain without supply (R65, R92): sticky flags, security log, vault and Snuff flag lose their content. -/
def batteryLost (s : State) : State :=
  let s := s.setVlt { s.vlt with vr := List.replicate 32 0, vrchk := List.replicate 16 0,
                                 epochs := List.replicate 16 0, exist := 0, slots := [], seasons := [], cache := [] }
  let s := s.setTmp { cond := s.tmp.cond }
  let s := s.setSnf {}
  let s := s.setEvr { pcyc := 0 }
  s.setMode { s.mode with mode := .off }

/-- The entry of a NRST hold that ended (04 R98, R99): seconds, and whether a main loss ended it. -/
def logHold (s : State) (byLoss : Bool) : State :=
  logS s .tmp 0x10 (leBytes 4 s.tmp.nrst ++ leBytes 4 (b2n byLoss))

/-- NRST rises while the main domain is held in reset (04 R97, R98, R100): the hold is logged, the reset released. -/
def nrstFree (s : State) : State :=
  let s := logHold s false
  let s := s.setTmp { s.tmp with nrstRun := false }
  logMode (s.setMode { s.mode with inReset := false, nrstLow := false })

end Sys2Proof.Machine
end

