-- ==== Sys2Proof/Machine/EngBase.lean ====
section
/-! DEFINITION. The end of operations before their time: CLK_LOST, ABORTED, TAMPER (12 R311, 02 R60, 01 R36). -/
namespace Sys2Proof.Machine

/-- The secure interrupt of a block, by its position in R21, on both cores (07 R185). -/
def monRaise (s : State) (blk : Nat) : State :=
  let up := fun (s : State) (c : Nat) =>
    let x := getCore s c
    setCore s c { x with ipendMon := x.ipendMon ||| BitVec.ofNat 64 (2 ^ blk) }
  up (up s 0) 1

/-- A secure interrupt's cause clears (07, IPEND_MON). -/
def monLower (s : State) (blk : Nat) : State :=
  let dn := fun (s : State) (c : Nat) =>
    let x := getCore s c
    setCore s c { x with ipendMon := x.ipendMon &&& ~~~ (BitVec.ofNat 64 (2 ^ blk)) }
  dn (dn s 0) 1

/-- Engine cycles used: given, or a free value where the spec states none (R291, log 9). -/
def cyclesOr (s : State) (cycles : Option Nat) : Nat × State := match cycles with
  | some n => (n, s)
  | none => let (f, s) := freeBytes s 4; (leNat f, s)

/-- A result record of ENG_ (R291): its cycles are those that the spec states for its blocks (R294, R295) and a free number
beside them (log 9). -/
def pushRes (s : State) (tag : Word) (e res outLen : Nat) (blocks : Nat := 0) : State :=
  let (n, s) := cyclesOr s none
  let n := blocks + n
  monRaise (s.setEng { s.eng with
    res := s.eng.res ++ [[tag, wordOf (e + 256 * res), wordOf outLen, wordOf n]] }) 11

/-- A result record of PKE_ (R291, R302). -/
def pushPkeRes (s : State) (tag : Word) (e res outLen : Nat) (cycles : Option Nat := none) : State :=
  let (n, s) := cyclesOr s cycles
  monRaise (s.setPke { s.pke with
    res := s.pke.res ++ [[tag, wordOf (e + 256 * res), wordOf outLen, wordOf n]] }) 12

/-- What a lane operation wrote to DST, zeroed (R293, R311, 08 R209). -/
def laneWipe (s : State) (o : LaneOp) : State := s.setSram (tclear s.sram (sramOff (o.words.getD 2 0)) o.wrote)

/-- One lane operation ended without output, with this RESULT. -/
def laneAbort (s : State) (e : Nat) (res : Nat) (o : LaneOp) : State :=
  pushRes (laneWipe s o) (o.words.getD 7 0) e res 0

/-- Every operation of a lane ended early. -/
def laneAbortAll (res : Nat) (s : State) (e : Nat) : State :=
  setLane ((getLane s e).foldl (fun s o => laneAbort s e res o) s) e []

/-- The TAG of an operation's record: its entry's, or for a PKE_RAW job, whose entry the firmware makes up, a free value
(log 31). -/
def pkeTag (s : State) (o : PkeOp) : Word × State :=
  if o.raw.isSome then let (f, s) := freeBytes s 4; (wordOf (leNat f), s) else (o.words.getD 4 0, s)

/-- A PKE operation ended without a result: its record; a raw job may then be called anew (R291, R305, R311). -/
def pkeEnded (s : State) (p res : Nat) (o : PkeOp) : State :=
  let s := match o.raw with
    | some h => s.setPke { s.pke with raw := tput none s.pke.raw h none }
    | none => s
  let (t, s) := pkeTag s o
  pushPkeRes s t (6 + p) res 0

/-- Every operation of a PKE instance ended early: its allocated slots are zeroed and free, waiting operations discarded with the
same RESULT (R311). -/
def pkeAbortAll (res : Nat) (s : State) (p : Nat) : State :=
  let i := getPke s p
  let s := (i.resident ++ i.waiting).foldl (fun s o => pkeEnded s p res o) s
  setPke s p { i with
    resident := [], waiting := [], alloc := 0, zeroing := [], busy := false, cv := false
    mem := ((List.range 48).filter i.alloc.getLsbD).foldl (fun m k => tclear m (512 * k) 512) i.mem }

/-- A custody-verify run on PKE0 ends with the operations in flight there (R311): RESULT 0xB on a Snuff, else 0xA (log 50). -/
def abortCust (s : State) (res : Nat) : State :=
  if 2 ≤ s.cus.run then custStop (s.setCus { s.cus with stopRes := if res = 4 then 0xB else 0xA }) else s

/-- Every operation on the lanes and the PKE instances ended early. -/
def abortEngines (s : State) (res : Nat) : State :=
  let s := (List.range 6).foldl (laneAbortAll res) s
  (List.range 2).foldl (pkeAbortAll res) (abortCust s res)

/-- A command's work runs on an engine: every family but the recorder's and the mode-control one, which use none
(15 R366 to R382; log 97). -/
def usesEngine (op : Nat) : Bool := op < 0x90

/-- A descriptor waits for an outside event or an edge, its engine work done. -/
def isWaiting (s : State) (k : Nat) (slot : Half) : Bool := s.hif.waits.any fun w => w.key = k && w.slot = slot

/-- The running firmware-class descriptors of a ring whose engine work is in flight, completed with this status. -/
def ringAbort (f : Nat → Bool) (status : Nat) (s : State) (k : Nat) : State :=
  let r := getRing s k
  if r.cls = 0 then s
  else (r.running.filter fun x => f (dOp x.desc) && !isWaiting s k x.slot).foldl
    (fun s x => endRunning s k x (cplOf x.desc x.slot status)) s

/-- The firmware-class commands in flight on the engines ended with a status (R128, R73). -/
def abortCommands (s : State) (f : Nat → Bool) (status : Nat) : State :=
  (List.range 128).foldl (ringAbort f status) s

/-- One admitted trip ended with a status, its bound not counted (R60): at once when its descriptor has arrived, else
when it arrives. -/
def tripAbort (status : Nat) (s : State) (t : Trip) : State :=
  match t.desc, runningAt s (ringKey t.fn t.ring) t.slot with
  | some _, some x =>
    endRunning (tripDrop s t.fn t.ring t.slot) (ringKey t.fn t.ring) x (cplOf x.desc t.slot status)
  | _, _ => s.setHif { s.hif with trips := s.hif.trips.map fun y => if y = t then { y with ends := status } else y }

/-- Every admitted trip whose completion has not been formed ended (R60); the MAC units stop, zeroed. -/
def abortTrips (s : State) (status : Nat) : State :=
  let s := s.setEng { s.eng with units := [] }
  s.hif.trips.foldl (tripAbort status) s

/-- A CAN controller parked (05 R127, R128): its transmitter recessive, the frame on the bus counted as not sent; an
abort or a stop that waited for that frame takes effect. -/
def parkCan (c : CanCh) : CanCh :=
  if c.mode = 0 then c else { c with
    parked := true, synced := false, onBus := none, stopReq := false
    mode := if c.stopReq then 0 else c.mode
    tx := c.tx.map fun p => (p.1, if p.2.abortReq then
      { p.2 with pend := false, aborted := true, abortReq := false } else p.2) }

end Sys2Proof.Machine
end

