-- ==== Sys2Proof/Machine/Entropy.lean ====
section
/-! DEFINITION. The entropy source, its health tests, the pool and the CTR_DRBG (13 R312 to R328). -/
namespace Sys2Proof.Machine

/-! ### CTR_DRBG of SP 800-90A with AES-256 and Block_Cipher_df (R317, R319) -/

/-- Chained encryption of whole blocks from a chaining value. -/
def bcc (f : Bytes → Bytes) : Nat → Bytes → Bytes → Bytes
  | 0, c, _ => c
  | n + 1, c, b => bcc f n (f (xorBytes c (b.take 16))) (b.drop 16)

/-- The key of the derivation function: bytes 0x00 to 0x1F. -/
def dfKey : Bytes := (List.range 32).map fun i => BitVec.ofNat 8 i

/-- The padded input of the derivation function for n output bytes. -/
def dfInput (n : Nat) (b : Bytes) : Bytes :=
  let t := beBytes 4 b.length ++ beBytes 4 n ++ b ++ [0x80]
  t ++ List.replicate ((16 - t.length % 16) % 16) 0

/-- One block of the derivation function's first stage. -/
def dfBlock (f : Bytes → Bytes) (b : Bytes) (i : Nat) : Bytes :=
  let t := beBytes 4 i ++ List.replicate 12 0 ++ b
  bcc f (t.length / 16) (List.replicate 16 0) t

/-- Repeated encryption: n blocks. -/
def dfOut (f : Bytes → Bytes) : Nat → Bytes → Bytes
  | 0, _ => []
  | n + 1, x => let y := f x; y ++ dfOut f n y

/-- Block_Cipher_df with AES-256: n bytes from b. -/
def blockDf (n : Nat) (b : Bytes) : Bytes :=
  let f := aesEncK (aesKeys dfKey)
  let x := dfInput n b
  let t := dfBlock f x 0 ++ dfBlock f x 1 ++ dfBlock f x 2
  (dfOut (aesEncK (aesKeys (t.take 32))) ((n + 15) / 16) (slice t 32 16)).take n

/-- V increased by 1. -/
def incV (v : Bytes) : Bytes := beBytes 16 (beNat v + 1)

/-- n output blocks from V, and V after them. -/
def drbgBlocks (f : Bytes → Bytes) : Nat → Bytes → Bytes × Bytes
  | 0, v => ([], v)
  | n + 1, v => let v := incV v
                let r := drbgBlocks f n v
                (f v ++ r.1, r.2)

/-- The state update with 48 bytes of provided data. -/
def drbgUpdate (d : Bytes) (r : Rng) : Rng :=
  let t := xorBytes (drbgBlocks (aesEncK (aesKeys r.key)) 3 r.v).1 (slice d 0 48)
  { r with key := t.take 32, v := t.drop 32 }

/-- Instantiate (R319, R320): 64 bytes of the pool, the fused SERIAL and "STOLTO-DRBG". -/
def drbgInstantiate (serial : Bytes) (r : Rng) : Rng :=
  let seed := blockDf 48 (r.pool.take 64 ++ slice serial 0 8 ++ ascii "STOLTO-DRBG")
  drbgUpdate seed { r with
    key := List.replicate 32 0, v := List.replicate 16 0, pool := r.pool.drop 64
    inst := true, due := false, reseedCnt := 1, reseeds := 0, ticks := 0 }

/-- Reseed (R319, R321): 48 bytes of the pool and the current tick:count. -/
def drbgReseed (t : Stamp) (r : Rng) : Rng :=
  let seed := blockDf 48 (r.pool.take 48 ++ leBytes 4 t.tick.toNat ++ leBytes 2 t.count)
  drbgUpdate seed { r with
    pool := r.pool.drop 48, due := false, reseedCnt := 1, reseeds := satInc 0xFFFFFFFF r.reseeds, ticks := 0 }

/-- One generate call of n bytes, at most 4096, with its 8 bytes of additional input (R319, R321). -/
def drbgCall (add : Bytes) (n : Nat) (r : Rng) : Bytes × Rng :=
  let a := blockDf 48 add
  let r := drbgUpdate a r
  let o := drbgBlocks (aesEncK (aesKeys r.key)) ((n + 15) / 16) r.v
  (o.1.take n, { drbgUpdate a { r with v := o.2 } with reseedCnt := r.reseedCnt + 1 })

/-! ### Availability (R322, R323) -/

/-- RESEED_LOG as applied. -/
def reseedLimit (r : Rng) : Nat := 2 ^ max 4 (min 20 r.reseedLog)

/-- READY (RNG_STAT); held at 0 while CAP = 1. -/
def rngReady (r : Rng) : Bool := r.inst && !r.failed && !r.cap

/-- Samples still to be gathered for n bytes of the pool, with the test that runs first (R316, R320, R323): those of a
test and of a block that are in do not count. -/
def samplesFor (r : Rng) (n : Nat) : Nat :=
  (if !r.run then 1024 else if r.restart then 1024 - r.got else 0)
    + (512 * ((n - r.pool.length + 31) / 32) - (if r.run then r.blk.length else 0))

/-- A reseed is due (R322): by the counter, by the ticks since the last, or shown by DUE. -/
def dueNow (r : Rng) : Bool := r.due || reseedLimit r ≤ r.reseedCnt || 2 ^ (10 + r.tickLog) ≤ r.ticks

/-- RNG_STAT.DUE: a reseed is due and waits for the pool. -/
def dueWaits (r : Rng) : Bool := r.inst && dueNow r && r.pool.length < 48

/-- RNG_STAT.REMAIN. -/
def rngRemain (r : Rng) : Nat := if !r.inst then samplesFor r 64 else if dueWaits r then samplesFor r 48 else 0

/-- P_T in microseconds (02 R39). -/
def tickMicros (s : State) : Nat := 100 + 50 * s.glb.period

/-- WAIT for a number of samples (R323); 0xFFFF after a failure, or when the DRBG failed its test in K5. -/
def rngWait (s : State) (samples : Nat) : Nat :=
  if s.rng.failed || s.mode.gatedEng.contains 10 then 0xFFFF
  else max 1 ((samples + 20 + tickMicros s - 1) / tickMicros s)

/-- The calls of a request, 4096 bytes each (R319), reseeding before a call that is due (R322); none when one must wait
for the pool. -/
def drawCalls (t : Stamp) (add : Bytes) : Nat → Nat → Rng → Option (Bytes × Rng)
  | 0, _, r => some ([], r)
  | _ + 1, 0, r => some ([], r)
  | k + 1, n, r =>
    let go := fun (r : Rng) =>
      let o := drbgCall add (min 4096 n) r
      match drawCalls t add k (n - 4096) o.2 with
      | some x => some (o.1 ++ x.1, x.2)
      | none => none
    if dueNow r then (if 48 ≤ r.pool.length then go (drbgReseed t r) else none) else go r

/-- Random bytes for a command or an internal consumer (R319 to R323): WAIT, or the bytes and the state after. With pr
the reseed of prediction resistance comes first. -/
def rngDraw (s : State) (add : Bytes) (n : Nat) (pr : Bool) : Nat ⊕ (Bytes × State) :=
  if !rngReady s.rng then .inl (rngWait s (rngRemain s.rng))
  else if pr && s.rng.pool.length < 48 then .inl (rngWait s (samplesFor s.rng 48))
  else
    let r := if pr then drbgReseed (now s) s.rng else s.rng
    match drawCalls (now s) add ((n + 4095) / 4096) n r with
    | none => .inl (rngWait (s.setRng { r with due := true }) (samplesFor r 48))
    | some x => .inr (x.1, housekeep (s.setRng x.2))

/-- The 8 bytes of additional input (R319): three of 1 byte, the number of 4 bytes, and the one that R319 leaves open,
before or after the number (log 88). -/
def addBytes (three num : Bytes) : Bytes :=
  if Config.addPadFirst then three ++ [Config.addPad] ++ num else three ++ num ++ [Config.addPad]

/-- The additional input of a command (R319): owner, function, opcode, request ID. -/
def addOf (fn op : Nat) (req : Word) : Bytes :=
  addBytes (leBytes 1 fn ++ leBytes 1 fn ++ leBytes 1 op) (leBytes 4 req.toNat)

/-- Random bytes for an internal consumer (R319). -/
def rngInternal (s : State) (n : Nat) : Nat ⊕ (Bytes × State) :=
  match rngDraw s (addBytes (leBytes 3 0) (leBytes 4 s.rng.calls)) n false with
  | .inl w => .inl w
  | .inr (b, s) => .inr (b, onRng s fun r => { r with calls := r.calls + 1 })

/-! ### The source -/

/-- The pool, the DRBG state and the LFSR zeroed (R324, R327). -/
def rngZero (r : Rng) : Rng :=
  { r with pool := [], key := List.replicate 32 0, v := List.replicate 16 0, inst := false, due := false, lfsr := 0 }

/-- A failure of a health test (R324); a block in gathering is of no use. -/
def rngFail (s : State) (cause : Nat) : State :=
  let s := onRng s fun r => { rngZero r with failed := true, cause := cause, blk := [] }
  logSD (alarmSet s .rng) .rng 1 (leBytes 8 cause)

/-- One sample through both tests (R315): the tests' state after it. -/
def healthStep (r : Rng) (b : Bool) : Rng :=
  let run := if r.runLen ≠ 0 && b = r.lastBit then r.runLen + 1 else 1
  let first := if r.winPos = 0 then b else r.winFirst
  let cnt := if r.winPos = 0 then 1 else if b = r.winFirst then r.winCnt + 1 else r.winCnt
  { r with
    lastBit := b, runLen := run, winFirst := first, winCnt := cnt, winPos := (r.winPos + 1) % 1024
    htRct := max r.htRct (min 0xFFFF run), htApt := max r.htApt cnt }

/-- The cut-offs of R315. -/
def healthBad (r : Rng) : Nat := if 33 ≤ r.runLen then 1 else if 740 ≤ r.winCnt then 2 else 0

/-- The samples of a block, earliest in bit 0 of its first byte (log 106). -/
def samplesBytes : Nat → List Bool → Bytes
  | 0, _ => []
  | n + 1, l => BitVec.ofNat 8 ((l.take 8).foldr (fun b a => b2n b + 2 * a) 0) :: samplesBytes n (l.drop 8)

/-- The raw bit: the XOR of the 16 sampled oscillators (R312). -/
def rawBit (osc : BitVec 16) : Bool := (List.range 16).foldl (fun a k => xor a (osc.getLsbD k)) false

/-- One shift of the LFSR x^16 + x^14 + x^13 + x^11 + 1, the raw bit XORed into the feedback bit (R313; DEDUCED,
log 106: it shifts towards bit 0, and the feedback enters at bit 15). -/
def lfsrShift (l : BitVec 16) (raw : Bool) : BitVec 16 :=
  let f := xor (xor (xor (l.getLsbD 0) (l.getLsbD 2)) (xor (l.getLsbD 3) (l.getLsbD 5))) raw
  (l >>> 1) ||| (if f then 0x8000 else 0)

/-- One raw clock: a shift. -/
def rawShift (r : Rng) (osc : BitVec 16) : Rng :=
  { r with lfsr := lfsrShift r.lfsr (rawBit osc), phase := (r.phase + 1) % 4 }

/-- The pool cannot take another output (R317; DESIGN CHOICE, log 106: fewer than 256 bits are free). -/
def poolFull (r : Rng) : Bool := 96 < r.pool.length

/-- The DRBG is instantiated once the pool holds 512 bits, after its known-answer test (R319, R320). -/
def instantiateWhen (s : State) : State :=
  if !s.rng.inst && 64 ≤ s.rng.pool.length && !s.mode.gatedEng.contains 10 then
    housekeep (onRng s (drbgInstantiate s.fus.serial))
  else s

/-- A complete block is conditioned into the pool, by lane 0 where its root clock runs (R317, R318). -/
def condition (s : State) : State :=
  if s.rng.blk.length = 512 && !s.clk.rootGated then
    instantiateWhen (housekeep (onRng s fun r => { r with pool := r.pool ++ blockDf 32 (samplesBytes 64 r.blk), blk := [] }))
  else s

/-- A tested sample (R317): it enters the block being gathered, unless the pool is full. -/
def gather (s : State) (b : Bool) : State :=
  if poolFull s.rng || s.rng.blk.length = 512 then s else condition (onRng s fun r => { r with blk := r.blk ++ [b] })

/-- A tested sample of the startup or restart test, discarded; the 1024th ends the test (R316, R326). -/
def startCount (r : Rng) : Rng :=
  if 1024 ≤ r.got + 1 then { r with restart := false, got := 0 } else { r with got := r.got + 1 }

/-- One sample: to the capture buffer, or through both tests (R315) and on. -/
def sampleIn (s : State) (b : Bool) : State :=
  if s.rng.cap then onRng s fun r => { r with capData := r.capData ++ [b] }
  else
    let s := onRng s fun r => healthStep r b
    if s.rng.failed then s
    else if healthBad s.rng ≠ 0 then rngFail s (healthBad s.rng)
    else if s.rng.restart then onRng s startCount
    else gather (condition s) b

/-- One raw clock of the source (R312, R313): after every fourth shift bit 0 is a sample. -/
def rawIn (s : State) (osc : BitVec 16) : State :=
  let s := onRng s fun r => rawShift r osc
  if s.rng.phase = 0 then sampleIn s (s.rng.lfsr.getLsbD 0) else s

/-- What the oscillators show, raw clock by raw clock. -/
def sourceRun (s : State) (osc : List (BitVec 16)) : State := osc.foldl rawIn s

/-- STARTUP_TEST_PASS (R316, R326): the samples of the startup or restart test. -/
def execStartupTestPass (osc : List (BitVec 16)) (s : State) : Host.Outcome State Fault Refusal :=
  if mainUp s && s.rng.run && s.rng.restart then .next (sourceRun s osc) else .next s

/-- CONDITIONING_BLOCK (R312 to R317, R320): what the oscillators show while blocks are gathered. -/
def execConditioningBlock (osc : List (BitVec 16)) (s : State) : Host.Outcome State Fault Refusal :=
  if mainUp s && s.rng.run && !s.rng.restart then .next (sourceRun s osc) else .next s

/-- HEALTH_TEST_FAILURE (R324): a failure on samples that no row brings, or of the DRBG's own test (CAUSE 3). -/
def execHealthTestFailure (cause : Nat) (s : State) : Host.Outcome State Fault Refusal :=
  if mainUp s && s.rng.run && !s.rng.failed && cause ≠ 0 then .next (rngFail s cause) else .next s

/-- RESEED_TICK_DUE (R322): 2^(10 + TICK_LOG) ticks since the last reseed. -/
def execReseedTickDue (s : State) : Host.Outcome State Fault Refusal :=
  if mainUp s && s.rng.inst && 2 ^ (10 + s.rng.tickLog) ≤ s.rng.ticks then
    .next (onRng s fun r => { r with due := true })
  else .next s

/-- RESEED (R319, R322): a due reseed, once the pool holds 384 bits. -/
def execReseed (s : State) : Host.Outcome State Fault Refusal :=
  if mainUp s && rngReady s.rng && dueNow s.rng && 48 ≤ s.rng.pool.length then
    .next (housekeep (onRng s (drbgReseed (now s))))
  else .next s

/-- RAW_CAPTURE (RNG_RAW_CTL): writable in BLANK or with debug OPEN; elsewhere the write gets a bus error. -/
def execRawCapture (v : Word) (s : State) : Host.Outcome State Fault Refusal :=
  .next (onE s 13 0x4000D020 fun s =>
    if s.fus.lc = .blank || s.mode.dbg = .opened then
      onRng s fun r => { r with cap := bit v 0 }
    else refuseAcc s (fwAcc 0x4000D020) 0xB 0)

end Sys2Proof.Machine
end

