-- ==== Sys2Proof/Machine/CanBase.lean ====
section
/-! DEFINITION. CAN controllers: where they run, their transmit buffers, Voeth frames and broadcasts
(11 R266 to R275, R281, R286). -/
namespace Sys2Proof.Machine

/-- CANx_NBT: its fields (11, Registers). -/
def nbtApply (v : Word) : Word := v &&& 0xFFFF7F7F
/-- CANx_DBT: its fields (11, Registers). -/
def dbtApply (v : Word) : Word := v &&& 0x9FFF1FFF

/-- Controller ch. -/
def getCan (s : State) (ch : Nat) : CanCh := if ch = 0 then s.can0 else s.can1

/-- s with controller ch replaced. -/
def setCan (s : State) (ch : Nat) (c : CanCh) : State := if ch = 0 then s.setCan0 c else s.setCan1 c

/-- The block of a controller. -/
def canBlk (ch : Nat) : Blk := if ch = 0 then .can0 else .can1

/-- The first address of a controller's window. -/
def canBase (ch : Nat) : Nat := if ch = 0 then 0x40009000 else 0x4000A000

/-- Where a controller runs (R286): both in the cells of E2 and in DIM, CAN0 alone in SNUFFED. -/
def canRuns (s : State) (ch : Nat) : Bool :=
  mainUp s && gateOk s (9 + ch) && (match s.mode.mode with
    | .service | .debug | .dim => true
    | .snuffed => ch = 0
    | _ => false)

/-- The secure firmware runs and sends Voeth frames: not in DIM (R286). -/
def voeRuns (s : State) (ch : Nat) : Bool := canRuns s ch && s.mode.mode ≠ .dim

/-- This device's node on a channel (R275). -/
def ownNode (s : State) (ch : Nat) : Nat := if ch = 0 then 1 else if bit s.can1.dbt 31 then 2 else 1

/-- The twin's node on the mirror link (R275). -/
def twinNode (s : State) : Nat := 3 - ownNode s 1

/-- A transmit buffer. -/
def getTx (c : CanCh) (b : Nat) : TxBuf := tget {} c.tx b

/-- c with a transmit buffer replaced. -/
def putTx (c : CanCh) (b : Nat) (x : TxBuf) : CanCh := { c with tx := tput {} c.tx b x }

/-- The pending buffers. -/
def pendingTx (c : CanCh) : List Nat := (List.range 8).filter fun b => (getTx c b).pend

/-- The buffer offered at the next arbitration (R269): the lowest identifier, then the lowest buffer; in DIM only one that was
PENDING at its entry (R286). -/
def offered (dim : Bool) (c : CanCh) : Option Nat :=
  ((pendingTx c).filter fun b => !(dim && (getTx c b).late)).foldl (fun o b => match o with
    | none => some b
    | some a => if (getTx c b).frame.id < (getTx c a).frame.id then some b else some a) none

/-- A PLLB relock is accepted and its window is not over (05 R127). -/
def relockB (s : State) : Bool := match s.clk.relock with
  | some r => r.pll = .b
  | none => false

/-- The controller may start a frame: integrated, in NORMAL or LOOPBACK, not parked, not bus-off, no conflict, no PLLB
relock accepted (R268, R273, R275, 05 R127). -/
def canStart (s : State) (c : CanCh) : Bool :=
  (c.mode = 1 || c.mode = 3) && c.synced && !c.parked && c.state ≠ 2 && !c.conflict && !c.stopReq && !relockB s

/-- The next frame enters arbitration, with the sender's error state in ESI (R266, R269); its start-of-frame stamp comes with
the end of the attempt (R271; log 23). -/
def pickTx (s : State) (ch : Nat) : State :=
  let c := getCan s ch
  if c.onBus.isSome || !canRuns s ch || !canStart s c then s
  else match offered (s.mode.mode = .dim) c with
    | none => s
    | some b =>
      let x := getTx c b
      setCan s ch { putTx c b { x with frame := { x.frame with esi := c.state = 1 } } with onBus := some b }

/-- The interrupt of a controller: pending while its FIFO holds a frame (07 R185; log 105). -/
def canIrq (s : State) (ch : Nat) : State :=
  if (getCan s ch).fifo.isEmpty then monLower s (9 + ch) else monRaise s (9 + ch)

/-- Data lengths of the DLC codes. -/
def dlcLens : List Nat := [0, 1, 2, 3, 4, 5, 6, 7, 8, 12, 16, 20, 24, 32, 48, 64]

/-- Data length of a DLC. -/
def dlcLen (d : Nat) : Nat := dlcLens.getD d 64

/-- The smallest DLC that holds n bytes (R276). -/
def dlcFor (n : Nat) : Nat := ((List.range 16).find? fun d => n ≤ dlcLen d).getD 15

/-- A Voeth identifier (R275). -/
def voeId (pri kind dst src : Nat) : Nat := pri * 2 ^ 26 + kind * 2 ^ 24 + dst * 2 ^ 16 + src * 2 ^ 8

/-- A Voeth frame: FD, extended, bit rate switched, padded with 0. -/
def voeFrame (id : Nat) (d : Bytes) : CanFrame :=
  let n := dlcFor d.length
  { id := id, ext := true, fd := true, brs := true, dlc := n, data := slice d 0 (dlcLen n) }

/-- PRI of an identifier. -/
def idPri (id : Nat) : Nat := id / 2 ^ 26 % 8
/-- KIND of an identifier. -/
def idKind (id : Nat) : Nat := id / 2 ^ 24 % 4
/-- DST of an identifier. -/
def idDst (id : Nat) : Nat := id / 2 ^ 16 % 256
/-- SRC of an identifier. -/
def idSrc (id : Nat) : Nat := id / 2 ^ 8 % 256

/-- The FREE buffer that the secure firmware uses for a frame: 7 for priority 0, else the lowest of 0 to 6 that lies above
every pending one of the same identifier, since of two such the lower is sent first (R269, R276). -/
def freeTx (c : CanCh) (f : CanFrame) : Option Nat :=
  let p := pendingTx c
  (if idPri f.id = 0 then [7] else List.range 7).find? fun b =>
    !(p.contains b) && p.all fun x => (getTx c x).frame.id ≠ f.id || x < b

/-- A frame put into a buffer that becomes PENDING (R270). -/
def loadTx (s : State) (ch b : Nat) (f : CanFrame) : State :=
  pickTx (setCan s ch (putTx (getCan s ch) b { frame := f, pend := true })) ch

/-- A frame of the same identifier already waits for a buffer. -/
def outWaits (s : State) (ch : Nat) (f : CanFrame) : Bool := s.voe.outq.any fun p => p.1 = ch && p.2.id = f.id

/-- A frame of the secure firmware: into a FREE buffer, or waiting for one behind those of its identifier. -/
def sendFrame (s : State) (ch : Nat) (f : CanFrame) : State :=
  match if outWaits s ch f then none else freeTx (getCan s ch) f with
  | some b => loadTx s ch b f
  | none => s.setVoe { s.voe with outq := s.voe.outq ++ [(ch, f)] }

/-- Waiting frames moved into buffers that have become FREE: one try each, in order. -/
def drainOut (s : State) : State :=
  let q := s.voe.outq
  q.foldl (fun s p => sendFrame s p.1 p.2) (s.setVoe { s.voe with outq := [] })

/-- The 8-byte header of a DATA frame (R276). -/
def dataHdr (seq typ frag nfrag : Nat) : Bytes :=
  leBytes 2 seq ++ leBytes 1 typ ++ leBytes 1 0 ++ leBytes 2 frag ++ leBytes 2 nfrag

/-- Fragments of 56 bytes (R276). -/
def fragCount (n : Nat) : Nat := max 1 ((n + 55) / 56)

/-- A broadcast message on CAN0 (R281): its frames, on the one device stream. -/
def broadcast (s : State) (pri typ : Nat) (pay : Bytes) : State :=
  if !voeRuns s 0 then s
  else
    let n := fragCount pay.length
    (List.range n).foldl (fun s k =>
      let d := dataHdr s.voe.bseq typ k n ++ (pay.drop (56 * k)).take 56
      let s := s.setVoe { s.voe with bseq := (s.voe.bseq + 1) % 65536 }
      sendFrame s 0 (voeFrame (voeId pri 0 0xFF 1) d)) s

/-- ALARM (10 R243): source, mode and the event's tick:count, at priority 0. -/
def sendAlarm (s : State) (src : Nat) (t : Stamp) : State :=
  broadcast s 0 0x1F (leBytes 1 src ++ leBytes 1 (modeCode s.mode.mode) ++ leBytes 4 t.tick.toNat ++ leBytes 2 t.count)

end Sys2Proof.Machine
end

