-- ==== Sys2Proof/Machine/CusBase.lean ====
section
/-! DEFINITION. The custody request and the two-key latch: what opens, closes, clears and consumes them
(10 R241 to R252). -/
namespace Sys2Proof.Machine

/-- s with CUS_ replaced by a function of it. -/
def onCus (s : State) (f : Cus → Cus) : State := s.setCus (f s.cus)

/-- ENROLLED bits of slot n as resolved. -/
def cusEnrolledBits (s : State) (n : Nat) : Nat := fld (tget 0 s.fus.cusCtl n) 0 8
/-- REVOKED bits of slot n as resolved. -/
def cusRevokedBits (s : State) (n : Nat) : Nat := fld (tget 0 s.fus.cusCtl n) 8 8

/-- Slot n is usable (06 R140). -/
def slotUsable (s : State) (n : Nat) : Bool :=
  cusEnrolledBits s n = 0xFF && cusRevokedBits s n = 0 && !s.fus.cusMarg.getLsbD n

/-- The digest of slot n as resolved. -/
def slotDigest (s : State) (n : Nat) : Bytes := tget (List.replicate 32 0) s.fus.cusDig n

/-- Usable slots. -/
def usableSlots (s : State) : List Nat := (List.range 8).filter (slotUsable s)

/-- The security entry of the latch: REQ_NO, OP, slots (18 R432). -/
def logLatch (s : State) (l : Latch) : State :=
  logS s .cus 2 (leBytes 4 l.reqNo.toNat ++ leBytes 1 l.op ++ leBytes 1 l.slotA ++ leBytes 1 l.slotB ++ [0])

/-- The latch cleared (R252), and with OP 0x0A the functions and channels of fault provocation (R262). -/
def latchClear (s : State) : State :=
  if s.cus.latch.isSet then
    let s := logLatch s s.cus.latch
    let s := s.setFlt { s.flt with funcs := 0, chans := 0 }
    onCus s fun c => { c with latch := {} }
  else s

/-- REQ_NO of the record. -/
def reqNoOf (s : State) : Word := wordOf (leAt s.cus.req 4 4)
/-- OP of the record. -/
def reqOp (s : State) : Nat := byteAt s.cus.req 0
/-- EXPIRES of the record. -/
def reqExpires (s : State) : Word := wordOf (leAt s.cus.req 0x14 4)
/-- PARAM of the record. -/
def reqParam (s : State) : Bytes := slice s.cus.req 0x30 32
/-- ARG_HASH of the record. -/
def reqArg (s : State) : Bytes := slice s.cus.req 0x50 32

/-- STATUS broadcast (R243, R281): REQ_NO and the state. -/
def sendStatus (s : State) (st : Nat) : State := broadcast s 4 0x13 (leBytes 4 (reqNoOf s).toNat ++ leBytes 1 st)

/-- The open request closes with this state: the locks release, kept approvals go, STATUS is sent; a CUSTODY_REQUEST
that still waits for its acknowledge completes with this status (R246, log 25). -/
def reqClose (s : State) (st waitStatus : Nat) : State :=
  if s.cus.reqOpen then
    let s := onCus s fun c => { c with reqOpen := false, candLock := false, approvals := [], repTicks := 0, state := st }
    endWaits (sendStatus s st) .request fun x => { x with status := waitStatus }
  else s

/-- A run told to stop with this RESULT (R263, R264): at once while it waits for PKE0, else at its next quantum
boundary. -/
def runStop (s : State) (res : Nat) : State :=
  if s.cus.run = 1 then onCus s fun c => { c with run := 0, result := res }
  else if s.cus.run = 2 then onCus s fun c => { c with run := 3, stopRes := res }
  else s

/-- The latch clears and an open request is cancelled (R252). -/
def custCancelAll (s : State) (st res : Nat) : State := reqClose (latchClear (runStop s res)) st 0x21

/-- The latch is set for this operation (R250). -/
def latchHolds (s : State) (op : Nat) : Bool := s.cus.latch.isSet && s.cus.latch.op = op

/-- The latch stands unconsumed for this operation (R250, R251). -/
def latchFor (s : State) (op : Nat) : Bool := latchHolds s op && !s.cus.latch.used

/-- The latch consumed by an operation that keeps it set (R251): the request closes. -/
def latchUse (s : State) : State :=
  reqClose (onCus (logLatch s s.cus.latch) fun c => { c with latch := { c.latch with used := true } }) 2 0

/-- The latch consumed (R251): the request closes and the latch clears; OP 0x0A keeps it until EXPIRES. -/
def latchConsume (s : State) : State :=
  if s.cus.latch.op = 0x0A then latchUse s else reqClose (latchClear s) 2 0

/-- OP 0x0B takes the commissioning form (R260): in PROVISIONED, and in COMMISSIONED with fewer than two usable slots. -/
def commForm (s : State) (op : Nat) : Bool :=
  op = 0x0D || (op = 0x0B && (s.fus.lc = .provisioned || (s.fus.lc = .commissioned && (usableSlots s).length < 2)))

/-! ### The candidates of a commissioning form (R254) -/

/-- The candidate slots of CUS_CAND_MASK, in order. -/
def candSlots (s : State) : List Nat := bitsOf 8 s.cus.candMask.toNat

/-- Candidate digest n. -/
def candDigest (s : State) (n : Nat) : Bytes := tget (List.replicate 32 0) s.cus.cand n

/-- Slot n holds a digest that a ceremony for this candidate cannot complete: a bit that the candidate lacks is blown, or
the slot is enrolled with another digest (R242, R254). -/
def candClash (s : State) (n : Nat) : Bool :=
  let f := slotDigest s n
  let c := candDigest s n
  (List.zipWith (fun a b => a &&& ~~~ b) f c).any (· ≠ 0) || (cusEnrolledBits s n ≠ 0 && f ≠ c)

/-- The candidates of a commissioning form (R254): at least two, no two alike, no slot that clashes. -/
def candOk (s : State) : Bool :=
  2 ≤ (candSlots s).length && ((candSlots s).map (candDigest s)).Nodup && !(candSlots s).any (candClash s)

/-- ARG_HASH of a commissioning form (R254). -/
def candArg (s : State) : Bytes := sha256 ((candSlots s).flatMap (candDigest s) ++ s.cus.candCfgk)

/-- An enrolment of slot n with this digest is refused (R242): the slot has an ENROLLED bit at 1, or an enrolled slot
holds the digest. -/
def enrolClash (s : State) (n : Nat) (dig : Bytes) : Bool :=
  cusEnrolledBits s n ≠ 0 || (List.range 8).any fun k => cusEnrolledBits s k ≠ 0 && slotDigest s k = dig

/-- A revocation of slot n is refused (R242): fewer than two usable slots would be left. -/
def revokeShort (s : State) (n : Nat) : Bool := ((usableSlots s).filter (· ≠ n)).length < 2

/-! ### A slot that becomes unusable (R252, 06 R144) -/

/-- A run that uses the slot fails with RESULT 4 (R252): at its next quantum boundary, or at once while it waits for
PKE0; the failed verification closes the request (R246). -/
def runLost (s : State) (n : Nat) : State :=
  let uses := fun (off : Nat) => byteAt (tgetN 0 (getPke s 0).mem off 1) 0 = n
  if s.cus.run = 0 || !(uses 0 || uses 0x1800) then s
  else
    let t := runStop (onCus s fun c => { c with which := !uses 0 }) 4
    if s.cus.run = 1 then reqClose t 5 0x21 else t

/-- A slot became unusable (R252, 06 R144): the latch that names it clears; a run that uses it fails; kept approvals
against it are withdrawn. -/
def slotLost (s : State) (n : Nat) : State :=
  let s := if s.cus.latch.isSet && (s.cus.latch.slotA = n || s.cus.latch.slotB = n) then latchClear s else s
  onCus (runLost s n) fun c => { c with approvals := c.approvals.filter fun a => byteAt a 0 ≠ n }

/-- A change of the custodian words from s0 to s: slot n that was usable and is so no more is lost. -/
def slotCheck (s0 s : State) (n : Nat) : State := if slotUsable s0 n && !slotUsable s n then slotLost s n else s

/-- A stopping run ends at a quantum boundary (R252, R263, R264); RESULT 4 is a failed verification, which closes the
request (R246). -/
def custHalt (s : State) : State :=
  let t := custStop s
  if s.cus.stopRes = 4 then reqClose t 5 0x21 else t

end Sys2Proof.Machine
end

