-- ==== Sys2Proof/Machine/Ec.lean ====
section
/-! DEFINITION. Prime-field arithmetic, ECDSA and ECDH over P-256 and P-384 (FIPS 186-5, SP 800-186), Ed25519
(RFC 8032) and RSA (RFC 8017), as the spec names them (12 R309, 15 R371, R372; log 11). -/
namespace Sys2Proof.Machine

/-- b^e mod m, from n bits of e. -/
def powMod (m : Nat) : Nat → Nat → Nat → Nat
  | 0, _, _ => 1 % m
  | n + 1, b, e => let r := powMod m n (b * b % m) (e / 2); if e % 2 = 1 then r * b % m else r

/-- The inverse of a modulo the prime p. -/
def invMod (p a : Nat) : Nat := powMod p p.log2.succ a (p - 2)

/-- (a − b) mod p for a, b below p. -/
def subMod (p a b : Nat) : Nat := (a + p - b) % p

/-- A short Weierstrass curve with a = −3. -/
structure Curve where
  p : Nat
  b : Nat
  gx : Nat
  gy : Nat
  n : Nat
  /-- bytes of a coordinate -/
  len : Nat

/-- P-256. -/
def p256 : Curve where
  p := 0xFFFFFFFF00000001000000000000000000000000FFFFFFFFFFFFFFFFFFFFFFFF
  b := 0x5AC635D8AA3A93E7B3EBBD55769886BC651D06B0CC53B0F63BCE3C3E27D2604B
  gx := 0x6B17D1F2E12C4247F8BCE6E563A440F277037D812DEB33A0F4A13945D898C296
  gy := 0x4FE342E2FE1A7F9B8EE7EB4A7C0F9E162BCE33576B315ECECBB6406837BF51F5
  n := 0xFFFFFFFF00000000FFFFFFFFFFFFFFFFBCE6FAADA7179E84F3B9CAC2FC632551
  len := 32

/-- P-384. -/
def p384 : Curve where
  p := 0xFFFFFFFFFFFFFFFFFFFFFFFFFFFFFFFFFFFFFFFFFFFFFFFFFFFFFFFFFFFFFFFEFFFFFFFF0000000000000000FFFFFFFF
  b := 0xB3312FA7E23EE7E4988E056BE3F82D19181D9C6EFE8141120314088F5013875AC656398D8A2ED19D2A85C8EDD3EC2AEF
  gx := 0xAA87CA22BE8B05378EB1C71EF320AD746E1D3B628BA79B9859F741E082542A385502F25DBF55296C3A545E3872760AB7
  gy := 0x3617DE4A96262C6F5D9E98BF9292DC29F8F41DBD289A147CE9DA3113B5F0B8C00A60B1CE1D7E819D7A431D7C90EA0E5F
  n := 0xFFFFFFFFFFFFFFFFFFFFFFFFFFFFFFFFFFFFFFFFFFFFFFFFC7634D81F4372DDF581A0DB248B0A77AECEC196ACCC52973
  len := 48

/-- A point; none is the point at infinity. -/
abbrev Pt := Option (Nat × Nat)

/-- The sum of two points. -/
def ptAdd (c : Curve) : Pt → Pt → Pt
  | none, q => q
  | q, none => q
  | some (x1, y1), some (x2, y2) =>
    if x1 = x2 && (y1 + y2) % c.p = 0 then none
    else
      let l := if x1 = x2 then (3 * x1 * x1 + (c.p - 3)) % c.p * invMod c.p (2 * y1 % c.p) % c.p
        else subMod c.p y2 y1 * invMod c.p (subMod c.p x2 x1) % c.p
      let x3 := subMod c.p (l * l % c.p) ((x1 + x2) % c.p)
      some (x3, subMod c.p (l * subMod c.p x1 x3 % c.p) y1)

/-- k times a point, from n bits of k. -/
def ptMul (c : Curve) : Nat → Nat → Pt → Pt
  | 0, _, _ => none
  | n + 1, k, q => let r := ptMul c n (k / 2) (ptAdd c q q); if k % 2 = 1 then ptAdd c r q else r

/-- k times a point. -/
def ecMul (c : Curve) (k : Nat) (q : Pt) : Pt := ptMul c (8 * c.len) k q

/-- The base point. -/
def ecG (c : Curve) : Pt := some (c.gx, c.gy)

/-- A pair of coordinates lies on the curve and in range (12 R309). -/
def onCurve (c : Curve) (x y : Nat) : Bool :=
  x < c.p && y < c.p && y * y % c.p = (x * x % c.p * x + (c.p - 3) * x + c.b) % c.p

/-- The point of an uncompressed encoding 0x04 ‖ x ‖ y; none when the encoding or the point is invalid (12 R309). -/
def ptDecode (c : Curve) (b : Bytes) : Option (Nat × Nat) :=
  let x := beNat ((b.drop 1).take c.len)
  let y := beNat ((b.drop (1 + c.len)).take c.len)
  if b.length = 1 + 2 * c.len && b.headD 0 = 4 && onCurve c x y then some (x, y) else none

/-- The uncompressed encoding. -/
def ptEncode (c : Curve) : Pt → Bytes
  | none => List.replicate (1 + 2 * c.len) 0
  | some (x, y) => [4] ++ beBytes c.len x ++ beBytes c.len y

/-- The public point of a private scalar. -/
def ecPub (c : Curve) (d : Nat) : Bytes := ptEncode c (ecMul c d (ecG c))

/-- The integer of a digest, cut to the length of n. -/
def hashInt (c : Curve) (h : Bytes) : Nat := beNat (h.take c.len)

/-- ECDSA signature r ‖ s of a digest with scalar d and nonce k. -/
def ecdsaSignK (c : Curve) (d k : Nat) (h : Bytes) : Bytes :=
  let r := match ecMul c k (ecG c) with
    | some (x, _) => x % c.n
    | none => 0
  let s := invMod c.n k * ((hashInt c h + r * d) % c.n) % c.n
  beBytes c.len r ++ beBytes c.len s

/-- The outcome of a verification (15 R365): 0 verified, 1 mismatch, 2 public key invalid, 3 value out of range. -/
def ecdsaVerify (c : Curve) (pub sig h : Bytes) : Nat :=
  match ptDecode c pub with
  | none => 2
  | some q =>
    let r := beNat (sig.take c.len)
    let s := beNat ((sig.drop c.len).take c.len)
    if r = 0 || s = 0 || c.n ≤ r || c.n ≤ s then 3
    else
      let w := invMod c.n s
      match ptAdd c (ecMul c (hashInt c h * w % c.n) (ecG c)) (ecMul c (r * w % c.n) (some q)) with
      | some (x, _) => if x % c.n = r then 0 else 1
      | none => 1

/-- The ECDH shared secret: the x-coordinate (15 R372). -/
def ecdhZ (c : Curve) (d : Nat) (pub : Bytes) : Option Bytes :=
  match ptDecode c pub with
  | none => none
  | some q => match ecMul c d (some q) with
    | some (x, _) => some (beBytes c.len x)
    | none => none

/-! ### Ed25519 -/

/-- The field prime of Ed25519. -/
def edP : Nat := 2 ^ 255 - 19
/-- The group order of Ed25519. -/
def edL : Nat := 2 ^ 252 + 27742317777372353535851937790883648493
/-- The curve constant d. -/
def edD : Nat := 0x52036CEE2B6FFE738CC740797779E89800700A4D4141D8AB75EB4DCA135978A3
/-- The base point. -/
def edB : Nat × Nat :=
  (0x216936D3CD6E53FEC0A4E231FDD6DC5C692CC7609525A7B2C9562D608F25D51A,
   0x6666666666666666666666666666666666666666666666666666666666666658)

/-- The sum of two points. -/
def edAdd (a b : Nat × Nat) : Nat × Nat :=
  let t := edD * (a.1 * b.1 % edP * (a.2 * b.2 % edP) % edP) % edP
  ((a.1 * b.2 + a.2 * b.1) % edP * invMod edP ((1 + t) % edP) % edP,
   (a.2 * b.2 + a.1 * b.1) % edP * invMod edP (subMod edP 1 t) % edP)

/-- k times a point, from n bits of k. -/
def edMul : Nat → Nat → Nat × Nat → Nat × Nat
  | 0, _, _ => (0, 1)
  | n + 1, k, q => let r := edMul n (k / 2) (edAdd q q); if k % 2 = 1 then edAdd r q else r

/-- The 32-byte encoding of a point. -/
def edEncode (a : Nat × Nat) : Bytes := leBytes 32 (a.2 + (a.1 % 2) * 2 ^ 255)

/-- The point of an encoding; none when invalid. -/
def edDecode (b : Bytes) : Option (Nat × Nat) :=
  let v := leNat b
  let y := v % 2 ^ 255
  let sgn := v / 2 ^ 255
  let u := subMod edP (y * y % edP) 1
  let w := (edD * (y * y % edP) + 1) % edP
  let x2 := u * invMod edP w % edP
  let r := powMod edP 255 x2 ((edP + 3) / 8)
  let x := if r * r % edP = x2 then r else r * powMod edP 255 2 ((edP - 1) / 4) % edP
  if b.length ≠ 32 || edP ≤ y || x * x % edP ≠ x2 || (x = 0 && sgn = 1) then none
  else some (if x % 2 = sgn then x else (edP - x) % edP, y)

/-- The secret scalar and the prefix of a seed. -/
def edSecret (seed : Bytes) : Nat × Bytes :=
  let h := sha512 seed
  let a := leNat (h.take 32)
  (a % 2 ^ 254 / 8 * 8 + 2 ^ 254, h.drop 32)

/-- The public key of a seed. -/
def edPub (seed : Bytes) : Bytes := edEncode (edMul 256 (edSecret seed).1 edB)

/-- The Ed25519 signature of a message. -/
def edSign (seed msg : Bytes) : Bytes :=
  let (a, pre) := edSecret seed
  let pub := edPub seed
  let r := leNat (sha512 (pre ++ msg)) % edL
  let rb := edEncode (edMul 256 r edB)
  let k := leNat (sha512 (rb ++ pub ++ msg)) % edL
  rb ++ leBytes 32 ((r + k * a) % edL)

/-- The outcome of an Ed25519 verification (15 R365): 0 verified, 1 mismatch, 2 public key invalid, 3 out of range. -/
def edVerify (pub sig msg : Bytes) : Nat :=
  match edDecode pub with
  | none => 2
  | some a =>
    let s := leNat ((sig.drop 32).take 32)
    if edL ≤ s then 3
    else match edDecode (sig.take 32) with
      | none => 1
      | some r =>
        let k := leNat (sha512 (sig.take 32 ++ pub ++ msg)) % edL
        if edMul 256 s edB = edAdd r (edMul 256 k a) then 0 else 1

/-! ### RSA -/

/-- MGF1 with SHA-256, n bytes. -/
def mgf1 (seed : Bytes) (n : Nat) : Bytes :=
  ((List.range ((n + 31) / 32)).flatMap fun i => sha256 (seed ++ beBytes 4 i)).take n

/-- RSA operation: base, exponent, modulus. -/
def rsaPow (n e b : Nat) : Nat := powMod n (max 1 (e.log2 + 1)) b e

/-- EMSA-PKCS1-v1_5 of a SHA-256 digest at k bytes. -/
def pkcs1Pad (k : Nat) (h : Bytes) : Bytes :=
  let t := beBytes 19 0x3031300D060960864801650304020105000420 ++ h
  [0, 1] ++ List.replicate (k - 3 - t.length) 0xFF ++ [0] ++ t

/-- EMSA-PSS encoding at k bytes, salt given, modulus of exactly 8 k bits. -/
def pssPad (k : Nat) (h salt : Bytes) : Bytes :=
  let m := sha256 (List.replicate 8 0 ++ h ++ salt)
  let db := List.replicate (k - salt.length - 34) 0 ++ [1] ++ salt
  let masked := xorBytes db (mgf1 m (k - 33))
  (match masked with
    | x :: r => (x &&& 0x7F) :: r
    | [] => []) ++ m ++ [0xBC]

/-- EMSA-PSS verification with a 32-byte salt. -/
def pssCheck (k : Nat) (h em : Bytes) : Bool :=
  let m := (em.drop (k - 33)).take 32
  let db := xorBytes (em.take (k - 33)) (mgf1 m (k - 33))
  em.length = k && em.getLastD 0 = 0xBC && (em.headD 0).toNat < 128 && pssPad k h (db.drop (k - 65)) = em

/-- EME-OAEP decoding with SHA-256 and a label; none when a check fails. -/
def oaepDecode (k : Nat) (label em : Bytes) : Option Bytes :=
  let ms := (em.drop 1).take 32
  let mdb := em.drop 33
  let seed := xorBytes ms (mgf1 mdb 32)
  let db := xorBytes mdb (mgf1 seed (k - 33))
  let rest := (db.drop 32).dropWhile (· = 0)
  if em.headD 1 = 0 && db.take 32 = sha256 label && rest.headD 0 = 1 then some (rest.drop 1) else none

end Sys2Proof.Machine
end

