-- ==== Sys2Proof/Machine/Poly.lean ====
section
/-! DEFINITION. The polynomial mode of the big-number engine (12 R306): the transforms of FIPS 204 and FIPS 203. -/
namespace Sys2Proof.Machine

/-- The low n bits of k in reverse order. -/
def brv : Nat → Nat → Nat
  | 0, _ => 0
  | n + 1, k => (k % 2) * 2 ^ n + brv n (k / 2)

/-- b^e mod q, n bits of e. -/
def powQ (q : Nat) : Nat → Nat → Nat → Nat
  | 0, _, _ => 1
  | n + 1, b, e => (if e % 2 = 1 then b else 1) * powQ q n (b * b % q) (e / 2) % q

/-- What a ring of polynomial mode fixes: modulus, root of unity, its order, layers, the scale of the inverse. -/
structure PolyRing where
  q : Nat
  zeta : Nat
  ord : Nat
  layers : Nat
  scale : Nat

/-- The ring of SEL: q 8380417, or q 3329. -/
def polyRing (sel : Nat) : PolyRing :=
  if sel = 1 then { q := 3329, zeta := 17, ord := 256, layers := 7, scale := 3303 }
  else { q := 8380417, zeta := 1753, ord := 512, layers := 8, scale := 8347681 }

/-- The twiddle factor of node m of the transform: its root to the bit-reversed power. -/
def zetaAt (r : PolyRing) (m : Nat) : Nat := powQ r.q 9 r.zeta (brv r.layers m)

/-- Its inverse. -/
def zetaInv (r : PolyRing) (m : Nat) : Nat := powQ r.q 10 r.zeta (r.ord - brv r.layers m)

/-- Forward layers: d layers from node m on. -/
def nttRec (r : PolyRing) : Nat → Nat → List Nat → List Nat
  | 0, _, w => w
  | d + 1, m, w =>
    let h := w.length / 2
    let t := (w.drop h).map fun x => zetaAt r m * x % r.q
    nttRec r d (2 * m) (List.zipWith (fun a b => (a + b) % r.q) (w.take h) t)
      ++ nttRec r d (2 * m + 1) (List.zipWith (fun a b => (a + r.q - b) % r.q) (w.take h) t)

/-- Inverse layers. -/
def inttRec (r : PolyRing) : Nat → Nat → List Nat → List Nat
  | 0, _, w => w
  | d + 1, m, w =>
    let h := w.length / 2
    let a := inttRec r d (2 * m) (w.take h)
    let b := inttRec r d (2 * m + 1) (w.drop h)
    List.zipWith (fun x y => (x + y) % r.q) a b
      ++ List.zipWith (fun x y => zetaInv r m * (x + r.q - y) % r.q) a b

/-- NTT. -/
def ntt (r : PolyRing) (w : List Nat) : List Nat := nttRec r r.layers 1 w

/-- INTT, scaled. -/
def intt (r : PolyRing) (w : List Nat) : List Nat := (inttRec r r.layers 1 w).map fun x => r.scale * x % r.q

/-- The base multiplication of FIPS 203 on degree-1 pairs; i the number of the pair. -/
def baseMul (q : Nat) : Nat → List Nat → List Nat → List Nat
  | i, a0 :: a1 :: ta, b0 :: b1 :: tb =>
    ((a0 * b0 + a1 * b1 % q * powQ q 9 17 (2 * brv 7 i + 1)) % q) :: ((a0 * b1 + a1 * b0) % q)
      :: baseMul q (i + 1) ta tb
  | _, _, _ => []

/-- An operation of polynomial mode; none for an opcode that does not exist or a coefficient not below q. -/
def polyOp (sel opc : Nat) (a b : List Nat) : Option (List Nat) :=
  let r := polyRing sel
  let two := opc = 0x22 || opc = 0x23 || opc = 0x24
  if 2 ≤ sel || !a.all (· < r.q) || (two && !b.all (· < r.q)) then none
  else if opc = 0x20 then some (ntt r a)
  else if opc = 0x21 then some (intt r a)
  else if opc = 0x22 then
    some (if sel = 1 then baseMul r.q 0 a b else List.zipWith (fun x y => x * y % r.q) a b)
  else if opc = 0x23 then some (List.zipWith (fun x y => (x + y) % r.q) a b)
  else if opc = 0x24 then some (List.zipWith (fun x y => (x + r.q - y) % r.q) a b)
  else none

/-- Engine cycles before dummy scaling. -/
def polyCycles (opc : Nat) : Nat := if opc ≤ 0x21 then 336 else if opc = 0x22 then 96 else 72

end Sys2Proof.Machine
end

