-- ==== Sys2Proof/Machine/Sha3.lean ====
section
/-! DEFINITION. SHA3-256 and SHA3-384 (FIPS 202), as the spec names them (12 R295; log 11). -/
namespace Sys2Proof.Machine

/-- Round constants of Keccak-f[1600]. -/
def keccakRC : List Nat :=
    [0x0000000000000001, 0x0000000000008082, 0x800000000000808A, 0x8000000080008000]
    ++ [0x000000000000808B, 0x0000000080000001, 0x8000000080008081, 0x8000000000008009]
    ++ [0x000000000000008A, 0x0000000000000088, 0x0000000080008009, 0x000000008000000A]
    ++ [0x000000008000808B, 0x800000000000008B, 0x8000000000008089, 0x8000000000008003]
    ++ [0x8000000000008002, 0x8000000000000080, 0x000000000000800A, 0x800000008000000A]
    ++ [0x8000000080008081, 0x8000000000008080, 0x0000000080000001, 0x8000000080008008]

/-- Rotation offsets by x + 5 y. -/
def keccakRot : List Nat := [0, 1, 62, 28, 27, 36, 44, 6, 55, 20, 3, 10, 43, 25, 39, 41, 45, 15, 21, 8, 18, 2, 61, 56, 14]

/-- Rotation to the left of a 64-bit lane. -/
def rotl64 (n x : Nat) : Nat := ((x <<< n) % 2 ^ 64) ||| (x >>> (64 - n))

/-- One round. -/
def keccakRound (a : List Nat) (rc : Nat) : List Nat :=
  let g := fun (l : List Nat) (i : Nat) => l.getD i 0
  let c := (List.range 5).map fun x => g a x ^^^ g a (x + 5) ^^^ g a (x + 10) ^^^ g a (x + 15) ^^^ g a (x + 20)
  let d := (List.range 5).map fun x => g c ((x + 4) % 5) ^^^ rotl64 1 (g c ((x + 1) % 5))
  let t := (List.range 25).map fun i => g a i ^^^ g d (i % 5)
  let b := (List.range 25).map fun i =>
    let x := i % 5
    let y := i / 5
    let j := (x + 3 * y) % 5 + 5 * x
    rotl64 (g keccakRot j) (g t j)
  (List.range 25).map fun i =>
    let x := i % 5
    let y := 5 * (i / 5)
    let v := g b i ^^^ ((2 ^ 64 - 1 - g b ((x + 1) % 5 + y)) &&& g b ((x + 2) % 5 + y))
    if i = 0 then v ^^^ rc else v

/-- Keccak-f[1600]. -/
def keccakF (a : List Nat) : List Nat := keccakRC.foldl keccakRound a

/-- n little-endian lanes from the front of b. -/
def leLanes : Nat → Bytes → List Nat
  | 0, _ => []
  | n + 1, b => leNat (b.take 8) :: leLanes n (b.drop 8)

/-- n blocks of rate r bytes absorbed. -/
def keccakAbsorb (r : Nat) : Nat → List Nat → Bytes → List Nat
  | 0, a, _ => a
  | n + 1, a, b =>
    keccakAbsorb r n (keccakF (List.zipWith (· ^^^ ·) a (leLanes 25 (b.take r)))) (b.drop r)

/-- SHA-3 with a digest of n bytes. -/
def sha3 (n : Nat) (b : Bytes) : Bytes :=
  let r := 200 - 2 * n
  let q := r - b.length % r
  let p := b ++ (if q = 1 then [0x86] else [0x06] ++ List.replicate (q - 2) 0 ++ [0x80])
  ((keccakAbsorb r (p.length / r) (List.replicate 25 0) p).flatMap (leBytes 8)).take n

/-- SHAKE with rate r and n bytes of output, at most one block (FIPS 202). -/
def shake (r n : Nat) (b : Bytes) : Bytes :=
  let q := r - b.length % r
  let p := b ++ (if q = 1 then [0x9F] else [0x1F] ++ List.replicate (q - 2) 0 ++ [0x80])
  ((keccakAbsorb r (p.length / r) (List.replicate 25 0) p).flatMap (leBytes 8)).take n

/-- SHA3-256. -/
def sha3of256 (b : Bytes) : Bytes := sha3 32 b
/-- SHA3-384. -/
def sha3of384 (b : Bytes) : Bytes := sha3 48 b

end Sys2Proof.Machine
end

