-- ==== Sys2Proof/Machine/Engines.lean ====
section
/-! DEFINITION. The AES and hash lanes and the big-number engine: posting, quanta, residency, ends
(12 R287 to R308; 02 R54). -/
namespace Sys2Proof.Machine

/-! ### Posting to the lanes (R287, R289) -/

/-- The entry of ENG_POST_W0 to W7. -/
def engEntry (s : State) : List Word := tgetN 0 s.eng.post 0 8

/-- The post of ENG_POST_GO: discarded with a diagnostics event when the class is 0, the engine does not exist, is gated or
has no free context entry. -/
def engPost (s : State) (v : Word) : State :=
  let cls := fld v 4 2
  let e := fld v 0 3
  if cls = 0 || 5 < e || 16 ≤ (getLane s e).length || s.mode.gatedEng.contains e then logOther s .eng (leBytes 4 e)
  else setLane s e (getLane s e ++ [{ words := engEntry s, cls := cls }])

/-- ENG_POST_GO (R289). -/
def execEngPostGo (v : Word) (s : State) : Host.Outcome State Fault Refusal :=
  .next (onE s 11 0x4000B060 fun s => engPost s v)

/-- The head record removed; the block's interrupt ends with the last one. -/
def engPop (s : State) : State :=
  let s := s.setEng { s.eng with res := s.eng.res.drop 1 }
  if s.eng.res.isEmpty then monLower s 11 else s

/-- ENG_RESPOP (R291). -/
def execEngRespop (s : State) : Host.Outcome State Fault Refusal := .next (onE s 11 0x4000B090 engPop)

/-! ### What a lane computes (R289, R292 to R295) -/

/-- A field of word 0 of a lane entry. -/
def laneFld (o : LaneOp) (p n : Nat) : Nat := fld (o.words.getD 0 0) p n

/-- FUNC. -/
def laneFunc (o : LaneOp) : Nat := laneFld o 0 4
/-- DIR: decrypt, unwrap or verify. -/
def laneDec (o : LaneOp) : Bool := laneFld o 6 1 = 1
/-- TAGLEN. -/
def laneTag (o : LaneOp) : Nat := laneFld o 8 7

/-- AADLEN counts for GCM and GMAC only (R289). -/
def laneAad (e : Nat) (o : LaneOp) : Nat :=
  if e < 4 && (laneFunc o = 3 || laneFunc o = 4) then (o.words.getD 4 0).toNat else 0

/-- Input bytes: additional data, then data. -/
def laneInLen (e : Nat) (o : LaneOp) : Nat := laneAad e o + (o.words.getD 3 0).toNat

/-- PARAM is read: IV, counter block or expected tag. -/
def laneParam (e : Nat) (o : LaneOp) : Bool :=
  let f := laneFunc o
  if e < 4 then f = 1 || f = 2 || f = 3 || f = 4 || (f = 5 && laneDec o) || (f = 6 && o.words.getD 5 0 ≠ 0)
  else 5 ≤ f && f ≤ 7 && laneDec o

/-- Bytes read at PARAM: the block of 32 of R289, and as many more as an expected tag above 16 bytes needs (log 30). -/
def laneParLen (o : LaneOp) : Nat := 16 + max 16 (laneTag o)

/-- The function needs a key. -/
def laneKeyed (e func : Nat) : Bool := e < 4 || (5 ≤ func && func ≤ 7)

/-- The derivation-block registers as KEY numbers them (R289, log 30): SEAL keys of owners 0 to 15, then their DBWRAP
keys. -/
def derivReg (s : State) (k : Nat) : Option Bytes :=
  let b := branchOf s (k % 16)
  if k < 16 then some b.sealK else if k < 32 then some b.dbwrap else none

/-- Key bytes of KLEN on an AES lane; on a hash lane the whole key. -/
def laneKeyBytes (e klen : Nat) (k : Bytes) : Option Bytes :=
  if 4 ≤ e then some k
  else if klen = 3 || k.length < 16 + 8 * klen then none else some (k.take (16 + 8 * klen))

/-- The key that a lane operation latches at its start, from the hot-cache entry or the derivation register that KSRC and
KEY name (R288, R289); a function without a key takes none. -/
def laneKey (s : State) (e : Nat) (o : LaneOp) : Option Bytes :=
  let w := o.words.getD 6 0
  if !laneKeyed e (laneFunc o) then some []
  else
    ((if bit w 12 then derivReg s (fld w 0 9)
      else (s.vlt.cache.find? fun c => c.idx = fld w 0 9).map (·.mat)).bind (laneKeyBytes e (laneFld o 4 2)))

/-- Tag lengths of GCM and GMAC (R292). -/
def gcmTagLen (n : Nat) : Bool := n = 8 || (12 ≤ n && n ≤ 16)

/-- Whole blocks, 16 to 2^30 bytes. -/
def blockLen (n : Nat) : Bool := n % 16 = 0 && 16 ≤ n && n ≤ 2 ^ 30

/-- The limits of R292 on an AES lane: n data bytes, aad bytes of additional data. The LEN limit of KW and KWP is that of
the plaintext; an unwrap takes 8 bytes more (log 30). -/
def aesLimits (func n aad tag : Nat) (dec : Bool) : Bool := match func with
  | 0 | 1 => blockLen n
  | 2 => n ≤ 2 ^ 30
  | 3 => n ≤ 2 ^ 30 && aad ≤ 2 ^ 30 && gcmTagLen tag
  | 4 => n = 0 && aad ≤ 2 ^ 30 && gcmTagLen tag
  | 5 => n ≤ 2 ^ 30 && 8 ≤ tag && tag ≤ 16
  | 6 => let m := if dec then n - 8 else n
         n % 8 = 0 && 16 ≤ m && m ≤ 2048
  | 7 => if dec then n % 8 = 0 && 16 ≤ n && n ≤ 2056 else 1 ≤ n && n ≤ 2048
  | _ => false

/-- The limits of R295 on a hash lane: an HMAC tag of 10 bytes to the digest length. -/
def hashLimits (func tag : Nat) : Bool :=
  if func = 5 then 10 ≤ tag && tag ≤ 32
  else if func = 6 then 10 ≤ tag && tag ≤ 48
  else if func = 7 then 10 ≤ tag && tag ≤ 64
  else func ≤ 9

/-- An entry is within the limits of its lane. -/
def laneOk (e : Nat) (o : LaneOp) : Bool :=
  if e < 4 then aesLimits (laneFunc o) (o.words.getD 3 0).toNat (laneAad e o) (laneTag o) (laneDec o)
  else hashLimits (laneFunc o) (laneTag o)

/-- The arguments of a lane function. -/
structure LaneArgs where
  func : Nat
  dec : Bool
  tagLen : Nat
  key : Bytes
  iv : Bytes
  expect : Bytes
  aad : Bytes
  data : Bytes

/-- An expected tag matches a computed one over its length (R293). -/
def tagHolds (a : LaneArgs) (tag : Bytes) : Bool := tag.take a.tagLen = a.expect.take a.tagLen

/-- A tag given out, or verified without output. -/
def macOut (a : LaneArgs) (tag : Bytes) : Bytes × Bool := if a.dec then ([], tagHolds a tag) else (tag.take a.tagLen, true)

/-- What an AES lane writes as it goes: ECB, CBC, CTR and GCM (R292, R293). -/
def aesStream (a : LaneArgs) : Bytes :=
  let f := aesEncK (aesKeys a.key)
  let g := aesDecK (aesKeys a.key)
  let n := a.data.length / 16
  match a.func with
  | 0 => ecb (if a.dec then g else f) n a.data
  | 1 => if a.dec then cbcDec g n a.iv a.data else cbcEnc f n a.iv a.data
  | 2 => ctrMode f 16 (blocks16 a.data) a.iv a.data
  | 3 => gcmCrypt a.key (a.iv.take 12) a.data
  | _ => []

/-- The whole output of an AES lane and whether its check passed (R292). -/
def aesLane (a : LaneArgs) (kwIv : Bytes) : Bytes × Bool :=
  let iv := a.iv.take 12
  let c := aesStream a
  match a.func with
  | 3 =>
    if a.dec then (c, tagHolds a (gcmTag a.key iv a.aad a.data))
    else (c ++ (gcmTag a.key iv a.aad c).take a.tagLen, true)
  | 4 => macOut a (gcmTag a.key iv a.aad [])
  | 5 => macOut a (cmac a.key a.data)
  | 6 => if a.dec then let (i, p) := kwUnwrap a.key a.data; (p, i = kwIv) else (kwWrap a.key kwIv a.data, true)
  | 7 =>
    if a.dec then match kwpUnwrap a.key a.data with
      | some p => (p, true)
      | none => (List.replicate (a.data.length - 8) 0, false)
    else (kwpWrap a.key a.data, true)
  | _ => (c, true)

/-- The output of a hash lane and whether its check passed (R295). -/
def hashLane (a : LaneArgs) : Bytes × Bool :=
  match a.func with
  | 0 => (sha256 a.data, true)
  | 1 => (sha384 a.data, true)
  | 2 => (sha512 a.data, true)
  | 3 => (sha3of256 a.data, true)
  | 4 => (sha3of384 a.data, true)
  | 5 => macOut a (hmac256 a.key a.data)
  | 6 => macOut a (hmac384 a.key a.data)
  | 7 => macOut a (hmac512 a.key a.data)
  | 8 => (shake 168 a.tagLen a.data, true)
  | _ => (shake 136 a.tagLen a.data, true)

/-- The arguments that an operation's context entry gives: what it latched, and the input taken. -/
def laneArgs (e : Nat) (o : LaneOp) : LaneArgs :=
  { func := laneFunc o, dec := laneDec o, tagLen := laneTag o, key := o.key.getD [], iv := o.par.take 16
    expect := o.par.drop 16, aad := o.inp.take (laneAad e o), data := o.inp.drop (laneAad e o) }

/-- The output that a finished lane operation gives, and whether its check passed. -/
def laneOut (e : Nat) (o : LaneOp) : Bytes × Bool :=
  let a := laneArgs e o
  if e < 4 then aesLane a (if o.words.getD 5 0 = 0 then List.replicate 8 0xA6 else o.par.take 8) else hashLane a

/-- The output that the input taken so far gives: whole blocks, and the last part once all is taken. -/
def laneStream (e : Nat) (o : LaneOp) : Bytes :=
  let a := laneArgs e o
  if 4 ≤ e then []
  else aesStream (if o.inp.length = laneInLen e o then a else { a with data := a.data.take (a.data.length / 16 * 16) })

/-- Cycles of the blocks that R294 and R295 state; a wrap's are not stated. -/
def laneBlocks (e : Nat) (o : LaneOp) : Nat :=
  let f := laneFunc o
  let n := (o.words.getD 3 0).toNat
  let a := laneAad e o
  let up := fun (x b : Nat) => (x + b - 1) / b
  if e < 4 then
    (if f = 5 || (f = 1 && !laneDec o) then (11 + 2 * laneFld o 4 2) * max 1 (up n 16)
     else if f ≤ 4 then 4 * (up a 16 + up n 16) else 0)
  else match f with
    | 0 => 64 * up (n + 9) 64
    | 1 | 2 => 80 * up (n + 17) 128
    | 3 => 24 * (n / 136 + 1)
    | 4 => 24 * (n / 104 + 1)
    | 5 => 64 * (3 + up (n + 9) 64)
    | 6 | 7 => 80 * (3 + up (n + 17) 128)
    | _ => 0

/-! ### The operand DMA of a lane (R289, R290; 08 R199, R205, R209, R213) -/

/-- The output ranges of R290: DST is SRC or shares no byte with the input. -/
def laneOverlap (e : Nat) (o : LaneOp) (outLen : Nat) : Bool :=
  let a := (o.words.getD 1 0).toNat
  let d := (o.words.getD 2 0).toNat
  a ≠ d && a < d + outLen && d < a + laneInLen e o

/-- An operand access of a lane operation as initiator 3: f goes on when it passes; it stalls; or the operation is to end
with ABORTED, as it is when the range lies outside system SRAM. -/
def laneDma (s : State) (o : LaneOp) (write : Bool) (addr len : Nat) (f : LaneOp × State) : LaneOp × State :=
  if len = 0 then f
  else match dmaCheck s 3 (laneFld o 20 4) write true addr len with
    | .ok => if inSram addr len then f else ({ o with bad := true }, s)
    | .stall a => ({ o with stall := some a }, s)
    | .deny a src idx => ({ o with bad := true }, refuseAcc s a src idx)

/-- Bytes b of output written at DST after those written before; a partial overlap leaves free ones (R290). -/
def lanePut (s : State) (e : Nat) (o : LaneOp) (b : Bytes) : LaneOp × State :=
  let (f, t) := if laneOverlap e o (o.wrote + b.length) then freeBytes s b.length else (b, s)
  laneDma s o true ((o.words.getD 2 0).toNat + o.wrote) b.length
    ({ o with wrote := o.wrote + b.length }, sramWrite t (sramOff (o.words.getD 2 0) + o.wrote) f)

/-- A lane operation starts: the limits, its key latched, and its PARAM block read (R288, R289). -/
def laneStart (s : State) (e : Nat) (o : LaneOp) : LaneOp × State :=
  let k := laneKey s e o
  let p := (o.words.getD 5 0).toNat
  if !laneOk e o || k.isNone then ({ o with started := true, bad := true }, s)
  else if laneParam e o then
    laneDma s o false p (laneParLen o)
      ({ o with started := true, key := k, par := sramRead s (p - 0x10000000) (laneParLen o) }, s)
  else ({ o with started := true, key := k }, s)

/-- n further input bytes taken. -/
def laneTake (s : State) (o : LaneOp) (n : Nat) : LaneOp × State :=
  let a := (o.words.getD 1 0).toNat + o.inp.length
  laneDma s o false a n ({ o with inp := o.inp ++ sramRead s (a - 0x10000000) n }, s)

/-- The operation goes on: nothing refused it and no access of it stalls. -/
def laneFree (o : LaneOp) : Bool := !o.bad && o.stall.isNone

/-- n further input bytes taken, and the output that they give written as it goes (R293). -/
def laneMove (s : State) (e : Nat) (o : LaneOp) (n : Nat) : LaneOp × State :=
  let (o, s) := laneTake s o n
  if laneFree o then lanePut s e o ((laneStream e o).drop o.wrote) else (o, s)

/-- One quantum of a lane operation: its start, then a free part of the input left (R294 states the rate of its blocks, not
what a quantum holds beside them: log 30). An access that stalled is tried again. -/
def laneQuantum (s : State) (e : Nat) (o : LaneOp) : LaneOp × State :=
  let o := { o with quanta := o.quanta + 1, last := true, stall := none }
  let (o, s) := if o.started then (o, s) else laneStart s e o
  if laneFree o then
    let (f, s) := freeBytes s 4
    laneMove s e o (leNat f % (laneInLen e o - o.inp.length + 1))
  else (o, s)

/-- The first operation that p selects replaced. -/
def laneSwap (p : LaneOp → Bool) (y : LaneOp) : List LaneOp → List LaneOp
  | [] => []
  | o :: t => if p o then y :: t else o :: laneSwap p y t

/-- One quantum of a class and function on a lane: its first operation runs, and no other ran the last quantum. -/
def laneRun (s : State) (e cls fn : Nat) : State :=
  let l := (getLane s e).map fun o => { o with last := false }
  let p := fun (o : LaneOp) => o.cls = cls && laneFn o = fn
  match l.find? p with
  | none => s
  | some o => let (y, s) := laneQuantum s e o; setLane s e (laneSwap p y l)

/-- The end of a lane operation's work: the input left is taken, the output left is written, and what its check refuses is
zeroed (R293). The answer says whether its check passed. -/
def laneFinish (s : State) (e : Nat) (o : LaneOp) : LaneOp × State × Bool :=
  let (o, s) := if laneFree o then laneMove s e o (laneInLen e o - o.inp.length) else (o, s)
  if laneFree o then
    let (b, ok) := laneOut e o
    let (o, s) := lanePut s e o (b.drop o.wrote)
    (o, if laneFree o && !ok then laneWipe s o else s, ok)
  else (o, s, true)

/-- A lane operation ends (R287, R290, R291, R293): with its result, with a failed check, or with ABORTED; an access that
stalls holds it. -/
def laneEnd (s : State) (e : Nat) (o : LaneOp) : State :=
  let (o, s, ok) := laneFinish s e { o with stall := none }
  if o.stall.isSome then setLane s e (laneSwap (·.last) o (getLane s e))
  else
    let s := setLane s e ((getLane s e).eraseP (·.last))
    if o.bad then laneAbort s e 3 o
    else if ok then pushRes s (o.words.getD 7 0) e 0 o.wrote (laneBlocks e o)
    else pushRes s (o.words.getD 7 0) e 1 0 (laneBlocks e o)

/-- ENGINE_OP_END (R291): the lane operation that ran the lane's last quantum ends; with 16 records held it waits
(log 30). -/
def execEngineOpEnd (e : Nat) (s : State) : Host.Outcome State Fault Refusal :=
  if !mainUp s || !engClocked s e || s.tmp.trig.isSome || 16 ≤ s.eng.res.length then .next s
  else match (getLane s e).find? (·.last) with
    | none => .next s
    | some o => .next (laneEnd s e o)

/-! ### Quanta (02 R54) -/

/-- The first resident PKE operation of a class and function with one quantum more; its first latches the density. -/
def pkeQuantum (d cls fn : Nat) : List PkeOp → List PkeOp
  | [] => []
  | o :: t => if o.cls = cls && pkeFn o = fn then
      { o with quanta := o.quanta + 1, last := true, dens := if o.quanta = 0 then d else o.dens }
        :: t.map fun x => { x with last := false }
    else { o with last := false } :: pkeQuantum d cls fn t

/-- The permutation seed of the dummy positions, drawn at the start of a PKE operation (R307). -/
def pkeSeed (s : State) : State :=
  if s.pke.dummyFixed then s
  else match rngInternal s 8 with
    | .inl _ => s
    | .inr (_, s) => s

/-- The operation that takes the next quantum of a class and function on an instance starts with it. -/
def pkeStarts (i : PkeInst) (cls fn : Nat) : Bool :=
  match i.resident.find? fun o => o.cls = cls && pkeFn o = fn with
  | some o => o.quanta = 0
  | none => false

/-- One quantum of a class on an engine (R54). -/
def runQuantum (s : State) (e cls : Nat) : State :=
  let f := nextFn s e cls
  let s := s.setGlb { s.glb with rr := tput 0 s.glb.rr (4 * e + cls) f }
  let s := s.setEng { s.eng with busy := tput 0 s.eng.busy e 1 }
  if e = 0 && cls = 3 && f = 0 && 0 < s.eng.house then s.setEng { s.eng with house := s.eng.house - 1 }
  else if e < 6 then laneRun s e cls f
  else
    let s := if pkeStarts (getPke s (e - 6)) cls f then pkeSeed s else s
    let p := getPke s (e - 6)
    setPke s (e - 6) { p with resident := pkeQuantum (min 8 s.pke.density) cls f p.resident, busy := true }

/-- The slots of ended operations zeroed and free (R301). -/
def pkeZero (s : State) (p : Nat) : State :=
  let i := getPke s p
  setPke s p { i with
    zeroing := []
    mem := i.zeroing.foldl (fun m k => tclear m (512 * k) 512) i.mem
    alloc := i.zeroing.foldl (fun a k => a &&& ~~~ (BitVec.ofNat 48 (2 ^ k))) i.alloc }

/-- QUANTUM_BOUNDARY (R54): one quantum by budget, else lent, else the engine stays idle. The zeroing of slots that an
ended operation held is done by then (R301, log 31). -/
def execQuantumBoundary (e : Nat) (s : State) : Host.Outcome State Fault Refusal :=
  if !mainUp s || !s.glb.run || !engClocked s e || s.tmp.trig.isSome then .next s
  else if e = 6 && s.cus.run = 3 then .next (custHalt s)
  else
    let s := if e < 6 then s else pkeZero s (e - 6)
    let b := s.glb.budNow.getD e {}
    match [1, 2, 3].find? fun c => hasWork s e c && 0 < budOf b c with
    | some c => .next (runQuantum (s.setGlb { s.glb with budNow := s.glb.budNow.set e (budTake b c) }) e c)
    | none => match [1, 2, 3].find? fun c => hasWork s e c with
      | some c => .next (runQuantum s e c)
      | none =>
        let s := s.setEng { s.eng with busy := tput 0 s.eng.busy e 0 }
        .next (if e < 6 then s else setPke s (e - 6) { getPke s (e - 6) with busy := false })

/-! ### The big-number engine -/

/-- Byte k of an entry. -/
def pkeByte (o : PkeOp) (k : Nat) : Nat := fld (o.words.getD (k / 4) 0) (8 * (k % 4)) 8

/-- n slots from slot k on. -/
def slotRun (k n : Nat) : List Nat := (List.range n).map (k + ·)

/-- Slots that sources A and B, the modulus and the destination span (R300, R303, R306). -/
def pkeSpans (mode opc : Nat) : Nat × Nat × Nat × Nat :=
  if mode = 2 then (2, if 0x22 ≤ opc then 2 else 0, 0, 2)
  else if mode = 1 then (1, 1, 0, 1)
  else match opc with
    | 0x04 => (2, 0, 1, 1)
    | 0x05 => (1, 0, 1, 1)
    | 0x10 => (2, 2, 0, 2)
    | 0x11 => (2, 0, 0, 2)
    | 0x12 => (2, 1, 0, 2)
    | 0x13 => (0, 1, 0, 2)
    | 0x14 => (2, 2, 0, 2)
    | _ => (1, 1, 1, 1)

/-- The slots that an entry names. -/
def pkeNames (o : PkeOp) : List Nat :=
  let (a, b, m, d) := pkeSpans (pkeByte o 1) (pkeByte o 0)
  (slotRun (pkeByte o 4) a ++ slotRun (pkeByte o 5) b ++ slotRun (pkeByte o 6) m ++ slotRun (pkeByte o 7) d).dedup

/-- Free slots of an instance. -/
def pkeFree (i : PkeInst) : List Nat := (List.range 48).filter fun k => !i.alloc.getLsbD k

/-- The slots that an operation is given: those it names, or ten free ones for a PKE_RAW job (R301). -/
def pkeWants (i : PkeInst) (o : PkeOp) : List Nat :=
  if o.raw.isSome then (pkeFree i).take 10 else (pkeNames o).filter (· < 48)

/-- It can be made resident (R301). -/
def pkeFits (i : PkeInst) (o : PkeOp) : Bool :=
  let w := pkeWants i o
  let held := ((i.resident.filter (·.cls ≠ 1)).map (·.slots.length)).sum
  w.all (fun k => !i.alloc.getLsbD k) && (o.raw.isNone || w.length = 10)
    && (o.cls = 1 || held + w.length ≤ 36)

/-- The waiting operation whose turn it is: PROTECT, BULK, ADMIN, in posting order within a class. -/
def pkeNext (i : PkeInst) : Option PkeOp := [1, 2, 3].findSome? fun c => i.waiting.find? (·.cls = c)

/-- The post of PKE_POST_GO. -/
def pkePost (s : State) (v : Word) : State :=
  let cls := fld v 4 2
  let p := fld v 0 1
  let i := getPke s p
  if cls = 0 || 16 ≤ i.waiting.length || s.mode.gatedEng.contains (6 + p) then logOther s .pke (leBytes 4 p)
  else setPke s p { i with waiting := i.waiting ++ [{ words := tgetN 0 s.pke.post 0 8, cls := cls }] }

/-- PKE_POST_GO (R302). -/
def execPkePostGo (v : Word) (s : State) : Host.Outcome State Fault Refusal :=
  .next (onE s 12 0x4000C220 fun s => pkePost s v)

/-- The head record removed; the block's interrupt ends with the last one. -/
def pkePop (s : State) : State :=
  let s := s.setPke { s.pke with res := s.pke.res.drop 1 }
  if s.pke.res.isEmpty then monLower s 12 else s

/-- PKE_RESPOP (R291). -/
def execPkeRespop (s : State) : Host.Outcome State Fault Refusal := .next (onE s 12 0x4000C250 pkePop)

/-- PKE_RESIDENT (R301): the slots of ended operations are zeroed and free; the operation whose turn it is becomes
resident; a custody-verify run does when PKE0 has no other work. -/
def execPkeResident (p : Nat) (s : State) : Host.Outcome State Fault Refusal :=
  if !mainUp s || !engClocked s (6 + p) || s.tmp.trig.isSome || (p = 0 && 2 ≤ s.cus.run) then .next s
  else
    let s := pkeZero s p
    let i := getPke s p
    match pkeNext i with
    | some o => if pkeFits i o then
        let w := pkeWants i o
        .next (setPke s p { i with
          waiting := i.waiting.erase o
          resident := i.resident ++ [{ o with slots := w }]
          alloc := w.foldl (fun a k => a ||| BitVec.ofNat 48 (2 ^ k)) i.alloc })
      else .next s
    | none =>
      if p = 0 && s.cus.run = 1 && i.resident.isEmpty then
        .next (pkeSeed ((setPke s 0 { i with cv := true, alloc := BitVec.allOnes 48 }).setCus { s.cus with run := 2 }))
      else .next s

/-! ### What a PKE operation computes (R303 to R308) -/

/-- An integer of n limbs in slot k (R300). -/
def slotInt (i : PkeInst) (k n : Nat) : Nat := leNat (tgetN 0 i.mem (512 * k) (8 * n))

/-- A polynomial in the pair from slot k on. -/
def slotPoly (i : PkeInst) (k : Nat) : List Nat := (List.range 256).map fun j => leNat (tgetN 0 i.mem (512 * k + 4 * j) 4)

/-- Bytes written from slot k on. -/
def slotPut (i : PkeInst) (k : Nat) (b : Bytes) : PkeInst := { i with mem := tputN 0 i.mem (512 * k) b }

/-- The extended algorithm of Euclid: the last nonzero remainder and the coefficient of the first argument. -/
def egcd : Nat → Int → Int → Int → Int → Int × Int
  | 0, r, _, t, _ => (r, t)
  | n + 1, r, r', t, t' => if r' = 0 then (r, t) else egcd n r' (r % r') t' (t - r / r' * t')

/-- The inverse of a modulo m; none when there is none. -/
def modInv (a m : Nat) : Option Nat :=
  let (g, t) := egcd (2 * (m.log2 + 2)) a m 1 0
  if g = 1 then some (t % m).toNat else none

/-- An integer operation; none when its conditions are broken (R308). wide is A over two slots. -/
def intOp (opc a wide b m elen : Nat) : Option Nat :=
  if m % 2 = 0 || 4096 < elen then none
  else match opc with
    | 1 => if a < m && b < m then some ((a + b) % m) else none
    | 2 => if a < m && b < m then some ((a + m - b) % m) else none
    | 3 => if a < m && b < m then some (a * b % m) else none
    | 4 => some (wide % m)
    | 5 => if a < m then modInv a m else none
    | 6 => if a < m && 1 ≤ elen then some (powMod m elen a (b % 2 ^ elen)) else none
    | _ => none

/-- A point operation on a Weierstrass curve; none when its conditions are broken. The outer answer none is the point at
infinity. -/
def weierOp (c : Curve) (opc : Nat) (a b : Nat × Nat) (k k2 : Nat) : Option Pt :=
  let kOk := fun (k : Nat) => 1 ≤ k && k < c.n
  let aOk := onCurve c a.1 a.2
  match opc with
  | 0x10 => if aOk && onCurve c b.1 b.2 then some (ptAdd c (some a) (some b)) else none
  | 0x11 => if aOk then some (ptAdd c (some a) (some a)) else none
  | 0x12 => if aOk && kOk k then some (ecMul c k (some a)) else none
  | 0x13 => if kOk k then some (ecMul c k (ecG c)) else none
  | 0x14 => if aOk && kOk k && kOk k2 then some (ptAdd c (ecMul c k (ecG c)) (ecMul c k2 (some a))) else none
  | _ => none

/-- A pair lies on edwards25519, in its subgroup of prime order. -/
def onEd (a : Nat × Nat) : Bool :=
  a.1 < edP && a.2 < edP && (a.2 * a.2 + (edP - a.1 * a.1 % edP)) % edP = (1 + edD * (a.1 * a.1 % edP * (a.2 * a.2 % edP) % edP)) % edP
    && edMul 253 edL a = (0, 1)

/-- A point operation on edwards25519. -/
def edOp (opc : Nat) (a b : Nat × Nat) (k k2 : Nat) : Option (Nat × Nat) :=
  let kOk := fun (k : Nat) => 1 ≤ k && k < edL
  match opc with
  | 0x10 => if onEd a && onEd b then some (edAdd a b) else none
  | 0x11 => if onEd a then some (edAdd a a) else none
  | 0x12 => if onEd a && kOk k then some (edMul 253 k a) else none
  | 0x13 => if kOk k then some (edMul 253 k edB) else none
  | 0x14 => if onEd a && kOk k && kOk k2 then some (edAdd (edMul 253 k edB) (edMul 253 k2 a)) else none
  | _ => none

/-- The point that a point operation gives, infinity as (0, 0); none when its conditions are broken. -/
def pointOp (sel opc : Nat) (a b : Nat × Nat) (k k2 : Nat) : Option (Nat × Nat) :=
  let w := fun c => (weierOp c opc a b k k2).map fun p => p.getD (0, 0)
  if sel = 1 then w p256 else if sel = 2 then w p384 else if sel = 3 then edOp opc a b k k2 else none

/-- Limbs of an operation (R302). -/
def pkeLimbs (o : PkeOp) : Nat :=
  let sel := pkeByte o 2
  if sel = 0 then max 1 (min 64 (fld (o.words.getD 2 0) 0 16)) else if sel = 2 then 6 else 4

/-- An unspecified integer of n limbs (R308, log 9). -/
def pkeAny (s : State) (n : Nat) : Nat × State := (Config.pkeUnspecified s.free % 2 ^ (64 * n), s.setFree (s.free + 1))

/-- ELEN. -/
def pkeElen (o : PkeOp) : Nat := fld (o.words.getD 2 0) 16 16

/-- An integer operation of command mode written to D. -/
def pkeIntEnd (s : State) (p : Nat) (o : PkeOp) : State × Nat :=
  let i := getPke s p
  let n := pkeLimbs o
  let a := pkeByte o 4
  let lenOk := let l := fld (o.words.getD 2 0) 0 16; pkeByte o 2 ≠ 0 || (1 ≤ l && l ≤ 64)
  let r := if lenOk then
      intOp (pkeByte o 0) (slotInt i a n) (slotInt i a n + 2 ^ (64 * n) * slotInt i (a + 1) n)
        (slotInt i (pkeByte o 5) n) (slotInt i (pkeByte o 6) n) (pkeElen o)
    else none
  let (v, s) := match r with
    | some v => (v, s)
    | none => pkeAny s n
  (setPke s p (slotPut i (pkeByte o 7) (leBytes (8 * n) v)), 8 * n)

/-- A point operation of command mode written to D and D + 1, with INF (R303). -/
def pkePointEnd (s : State) (p : Nat) (o : PkeOp) : State × Nat :=
  let i := getPke s p
  let n := pkeLimbs o
  let sel := pkeByte o 2
  let a := pkeByte o 4
  let b := pkeByte o 5
  let e := pkeElen o
  let k := fun (j : Nat) => if sel = 0 then slotInt i j n else leNat (tgetN 0 i.mem (512 * j) 512) % 2 ^ e
  let r := if 1 ≤ e && e ≤ 4096 || pkeByte o 0 ≤ 0x11 then
      pointOp sel (pkeByte o 0) (slotInt i a n, slotInt i (a + 1) n) (slotInt i b n, slotInt i (b + 1) n) (k b) (k (b + 1))
    else none
  let (x, y, s) := match r with
    | some (x, y) => (x, y, s)
    | none => let (x, s) := pkeAny s n; let (y, s) := pkeAny s n; (x, y, s)
  let d := pkeByte o 7
  let i := slotPut (slotPut i d (leBytes (8 * n) x)) (d + 1) (leBytes (8 * n) y)
  (setPke s p { i with inf := (sel = 1 || sel = 2) && x = 0 && y = 0 }, 16 * n)

/-- A polynomial operation written to its pair D. -/
def pkePolyEnd (s : State) (p : Nat) (o : PkeOp) : State × Nat :=
  let i := getPke s p
  match polyOp (pkeByte o 2) (pkeByte o 0) (slotPoly i (pkeByte o 4)) (slotPoly i (pkeByte o 5)) with
  | some w => (setPke s p (slotPut i (pkeByte o 7) (w.flatMap (leBytes 4))), 1024)
  | none =>
    let (f, s) := freeBytes s 1024
    (setPke s p (slotPut (getPke s p) (pkeByte o 7) f), 1024)

/-- One step of raw mode (R305). -/
def rawStep (acc a b : Nat) : Nat := (acc + a * b) % 2 ^ 576

/-- A posted raw entry: ACC in slot D, A and B the low 256 bits of theirs (log 31). -/
def pkeRawEnd (s : State) (p : Nat) (o : PkeOp) : State × Nat :=
  let i := getPke s p
  let v := rawStep (slotInt i (pkeByte o 7) 9) (slotInt i (pkeByte o 4) 4) (slotInt i (pkeByte o 5) 4)
  (setPke s p (slotPut i (pkeByte o 7) (leBytes 72 v)), 72)

/-- The accumulator after n steps of a job block (R305). -/
def rawJob (b : Bytes) (n : Nat) : Nat :=
  (List.range n).foldl (fun acc j => rawStep acc (leAt b (0x80 + 0x40 * j) 32) (leAt b (0xA0 + 0x40 * j) 32)) (leAt b 0 72)

/-- Steps with their dummies (R307): b real steps at density d. -/
def withDummies (b d : Nat) : Nat := (b * 16 + (16 - d) - 1) / (16 - d)

/-- Engine cycles of an operation that the spec states (R305, R306, R307). -/
def pkeCycles (o : PkeOp) : Option Nat :=
  if pkeByte o 1 = 2 then some (withDummies (polyCycles (pkeByte o 0)) o.dens)
  else if pkeByte o 1 = 1 then some (withDummies 24 o.dens) else none

/-- What an operation writes, with the bytes written. -/
def pkeCompute (s : State) (p : Nat) (o : PkeOp) : State × Nat :=
  if pkeByte o 1 = 2 then pkePolyEnd s p o
  else if pkeByte o 1 = 1 then pkeRawEnd s p o
  else if 0x10 ≤ pkeByte o 0 then pkePointEnd s p o
  else pkeIntEnd s p o

/-- The slots of an ended operation start to be zeroed (R301). -/
def pkeRelease (s : State) (p : Nat) (o : PkeOp) : State :=
  let i := getPke s p
  setPke s p { i with resident := i.resident.erase o, zeroing := i.zeroing ++ o.slots }

/-- A PKE_RAW job ends (R305): its accumulator waits for the owner's next call. The answer is its steps. -/
def rawEnd (s : State) (h : Nat) (o : PkeOp) : State × Nat :=
  match tget none s.pke.raw h with
  | some j =>
    let b := (o.words.drop 8).flatMap fun w => leBytes 4 w.toNat
    (s.setPke { s.pke with raw := tput none s.pke.raw h (some { j with acc := some (leBytes 72 (rawJob b j.steps)) }) }, j.steps)
  | none => (s, 0)

/-- A PKE operation ends with its result written and its record pushed; the record of a raw job carries no output, which its
owner's next call takes (R291, R305, log 31). -/
def pkeDone (s : State) (p : Nat) (o : PkeOp) : State :=
  match o.raw with
  | some h =>
    let (s, n) := rawEnd s h o
    let (t, s) := pkeTag s o
    pushPkeRes (pkeRelease s p o) t (6 + p) 0 0 (some (withDummies (24 * n) o.dens))
  | none =>
    if (pkeNames o).all (o.slots.contains ·) then
      let (s, n) := pkeCompute s p o
      pushPkeRes (pkeRelease s p o) (o.words.getD 4 0) (6 + p) 0 n (pkeCycles o)
    else pushPkeRes (pkeRelease s p o) (o.words.getD 4 0) (6 + p) 3 0

/-- PKE_OP_END (R291, R301 to R303): the operation that ran the instance's last quantum ends, then its slots are zeroed;
with 16 records held it waits. -/
def execPkeOpEnd (p : Nat) (s : State) : Host.Outcome State Fault Refusal :=
  if !mainUp s || !engClocked s (6 + p) || s.tmp.trig.isSome || 16 ≤ s.pke.res.length then .next s
  else match (getPke s p).resident.find? (·.last) with
    | none => .next s
    | some o => .next (pkeDone s p o)

end Sys2Proof.Machine
end

