-- ==== Sys2Proof/Machine/CmdBase.lean ====
section
/-! DEFINITION. How a host command runs: the taken descriptor it serves, the order of commands on one object, and the
answer it ends with (15 R363 to R368, R384). -/
namespace Sys2Proof.Machine

/-- What a command's run answers: the state after its effect, the fields of its completion, its output, or what it
waits for. -/
structure Ans where
  st : State
  status : Nat := 0
  detail : Half := 0
  result : DWord := 0
  vfy : Bool := false
  out : Bytes := []
  wait : Option WaitTag := none
  /-- what follows the completion: a Snuff or a reset -/
  after : State → State := id

/-- A byte string as RESULT, byte 0 first. -/
def resOf (b : Bytes) : DWord := BitVec.ofNat 64 (leNat (b.take 8))

/-- A command that ends with this status and changes nothing more. -/
def Ans.stop (s : State) (status : Nat) : Ans := { st := s, status := status }

/-- BAD_DESC. -/
def Ans.bad (s : State) : Ans := .stop s 0x11
/-- DENIED. -/
def Ans.denied (s : State) : Ans := .stop s 0x10
/-- NO_KEY. -/
def Ans.noKey (s : State) : Ans := .stop s 0x12
/-- ABORTED. -/
def Ans.aborted (s : State) : Ans := .stop s 0x21
/-- NOT_READY with DETAIL = WAIT (R366). -/
def Ans.notReady (s : State) (w : Nat) : Ans := { st := s, status := 0x02, detail := BitVec.ofNat 16 w }

/-- The objects that a command names (R384): an association, or 65536 + OBJ_ID. -/
def objsOf (d : Bytes) : List Nat :=
  let op := dOp d
  (if op = 0x28 || op = 0x76 || (0x50 ≤ op && op ≤ 0x5B) || op = 0x5D then [dOpndN d 0 2 % 4096] else [])
    ++ (if 0x5C ≤ op && op ≤ 0x5F then [65536 + dOpndN d 12 2] else [])

/-- A descriptor taken earlier on a ring of the same function and not completed names one of these objects (R384). -/
def objBusy (s : State) (k : Nat) (slot : Half) (l : List Nat) : Bool :=
  (s.hif.taken.takeWhile (· ≠ (k, slot))).any fun p => p.1 / 8 = k / 8 &&
    match runningAt s p.1 p.2 with
    | some y => (objsOf y.desc).any l.contains
    | none => false

/-- Slots of the PKE operation that a host command needs (12 R301); 0 for one that the table does not name. The RSA private
ones go by the length of the object. -/
def pkeNeed (s : State) (d : Bytes) : Nat :=
  let op := dOp d
  if op = 0x20 || op = 0x22 || op = 0x28 || op = 0x75 || op = 0x76 then 8
  else if op = 0x21 || op = 0x23 then 10
  else if op = 0x24 then 36
  else if op = 0x25 || op = 0x26 then 30
  else if op = 0x2B then 4
  else if op = 0x2A || op = 0x2C then
    (match dbFind s (dOpndN d 4 2) with
     | some b => if byteAt b 3 = 10 then 10 else 8
     | none => 0)
  else 0

/-- An instance can make an operation of n slots and a class resident now (12 R301): free slots, the 12 kept for PROTECT,
no operation of its class or an earlier one waiting before it, and PKE0 not claimed by a custody-verify run (10 R249). -/
def pkeRoomAt (s : State) (p cls n : Nat) : Bool :=
  let i := getPke s p
  let held := ((i.resident.filter (·.cls ≠ 1)).map (·.slots.length)).sum
  !s.mode.gatedEng.contains (6 + p) && !(p = 0 && s.cus.run ≠ 0) && n ≤ (pkeFree i).length && (cls = 1 || held + n ≤ 36)
    && i.waiting.all fun o => cls < o.cls

/-- The PKE work of a command finds its slots, or needs none; with both instances gated it does not wait (04 R112). -/
def pkeRoom (s : State) (cls : Nat) (d : Bytes) : Bool :=
  let n := pkeNeed s d
  n = 0 || [6, 7].all s.mode.gatedEng.contains || pkeRoomAt s 0 cls n || pkeRoomAt s 1 cls n

/-- A command of this opcode reads or writes external flash: key management with its association records and objects, and the
update family (16 R388). -/
def usesFlash (op : Nat) : Bool := op = 0x28 || (0x50 ≤ op && op ≤ 0x5F) || op = 0x76 || (0x80 ≤ op && op ≤ 0x88)

/-- The descriptor that a command row serves: the oldest taken one of the ring with this opcode that does not wait; it waits
while a PKE operation of it cannot be made resident (12 R301), and while SPI0 serves another user of the flash that it
needs (16 R388).
TRIP rings are served by the fast path (14 R347). -/
def jobOf (s : State) (fn r op : Nat) : Option Staged :=
  let k := ringKey fn r
  let g := getRing s k
  if g.cls = 0 || s.tmp.trig.isSome || s.upd.paused || s.mode.inReset
      || (usesFlash op && s.spi0.cur.isSome) then none
  else match g.running.find? fun x => dOp x.desc = op && !isWaiting s k x.slot with
    | some x => if objBusy s k x.slot (objsOf x.desc) || !pkeRoom s g.cls x.desc then none else some x
    | none => none

/-- The completion of a descriptor that an answer gives. -/
def cplAns (x : Staged) (a : Ans) : Cpl :=
  { cplOf x.desc x.slot a.status with
    detail := a.detail
    outLen := BitVec.ofNat 32 (if a.status = 0 then a.out.length else 0)
    result := a.result
    vfy := a.vfy }

/-- An answer put into effect (R349, R365): a wait is noted, or the output leaves, unless a ring reset silenced the
descriptor (14 R358), and the completion is formed. -/
def conclude (k : Nat) (x : Staged) (a : Ans) : State :=
  let s := a.st
  match a.wait with
  | some t => a.after (s.setHif { s.hif with waits := s.hif.waits ++ [{ key := k, slot := x.slot, tag := t }] })
  | none =>
    let s := if a.status ≠ 0 || a.out.isEmpty || x.muted then s else emitOut s (.data (BitVec.ofNat 64 (dOut x.desc)) a.out)
    a.after (endRunning s k x (cplAns x a))

/-- One host command served: f gets the state, the function and the descriptor. Nothing happens when no taken
descriptor asks for it. -/
def serveCmd (s : State) (fn r op : Nat) (f : State → Bytes → Ans) : State :=
  match jobOf s fn r op with
  | none => s
  | some x => conclude (ringKey fn r) x (f s x.desc)

/-- The input that a descriptor's LEN takes. -/
def inOf (d : Bytes) (io : CmdIo) : Bytes := slice io.inp 0 (dLen d)

/-- The auxiliary input that AUX_LEN takes. -/
def auxOf (d : Bytes) (io : CmdIo) : Bytes := slice io.aux 0 (dAuxLen d)

/-- Every engine of the list is gated (04 R107, R112): a command that needs one of them ends with ABORTED (R366). -/
def engDown (s : State) (l : List Nat) : Bool := l.all s.mode.gatedEng.contains

/-- Some engine of the list is gated: a signature needs both PKE instances, since the other one verifies it before its
release (12 R309). -/
def engLacks (s : State) (l : List Nat) : Bool := l.any s.mode.gatedEng.contains

/-- The AES lanes. -/
def aesLanes : List Nat := [0, 1, 2, 3]
/-- The hash lanes. -/
def hashLanes : List Nat := [4, 5]
/-- The PKE instances. -/
def pkeEngs : List Nat := [6, 7]

/-- A use of the handle in KEY (09 R219, R226): f gets the state, the slot and the material. -/
def withKey (s : State) (fn : Nat) (d : Bytes) (usage : Nat) (alg : Nat → Bool) (f : State → Slot → Bytes → Ans) : Ans :=
  match useKey s fn (dKey d) usage alg with
  | .inl (st, s) => .stop s st
  | .inr (x, m, s) => f s x m

/-- Random bytes for the command, or NOT_READY (13 R319, R323). -/
def withRandom (s : State) (fn : Nat) (d : Bytes) (n : Nat) (f : State → Bytes → Ans) : Ans :=
  match rngDraw s (addOf fn (dOp d) (dReq d)) n (dPr d) with
  | .inl w => .notReady s w
  | .inr (b, s) => f s b

/-- Bytes drawn for a scalar or a nonce: 64 bits more than the group order (log 12). -/
def scalarBytes (alg : Nat) : Nat := if alg = 5 then 40 else 56

/-- The curve of ALG 0x5 or 0x6. -/
def curveOf (alg : Nat) : Curve := if alg = 5 then p256 else p384

/-- Length of a coordinate on the curve of ALG 0x5 or 0x6. -/
def coordLen (alg : Nat) : Nat := if alg = 5 then 32 else 48

/-- The material of a database object for its owner (09 R237, R219): a status, or header and material. -/
def objOpen (s : State) (owner id : Nat) (usage alg : Nat → Bool) : Nat ⊕ (Bytes × Bytes) :=
  match dbFind s id with
  | none => .inl 0x12
  | some b =>
    let h := b.take 32
    let len := leAt h 6 2
    let c := slice b 32 len
    let key := (branchOf s owner).dbwrap
    if byteAt h 2 ≠ owner then .inl 0x10
    else if byteAt h 5 / 2 % 4 ≠ s.vlt.root
        || wordOf (leAt h 8 4) ≠ (if owner = 0 then 0 else s.vlt.epochs.getD owner 0) then .inl 0x12
    else if gcmTag key (slice h 16 12) h c ≠ slice b (32 + len) 16 then .inl 0x12
    else if !usage (byteAt h 4) || !alg (byteAt h 3) then .inl 0x10
    else .inr (h, gcmCrypt key (slice h 16 12) c)

/-- A database object wrapped for an owner (09 R237), padded to a multiple of 4. -/
def objSeal (s : State) (owner id alg usage : Nat) (exp : Bool) (iv mat : Bytes) : Bytes :=
  let h := leBytes 2 id ++ leBytes 1 owner ++ leBytes 1 alg ++ leBytes 1 usage
    ++ leBytes 1 (b2n exp + 2 * s.vlt.root) ++ leBytes 2 mat.length
    ++ leBytes 4 (if owner = 0 then 0 else (s.vlt.epochs.getD owner 0).toNat) ++ leBytes 4 0 ++ iv.take 12 ++ leBytes 4 0
  let key := (branchOf s owner).dbwrap
  let c := gcmCrypt key (iv.take 12) mat
  let b := h ++ c ++ gcmTag key (iv.take 12) h c
  b ++ List.replicate ((4 - b.length % 4) % 4) 0

/-- A device reset that a command ends with (04 R94). -/
def cmdReset (s : State) (cause : Nat) : State := deviceReset (s.setMode { s.mode with wdtStep := none }) cause

/-- An announcement that a command makes: it cancels a pending DIM entry (05, "relock is requested while DIM entry is
pending"). -/
def announceCmd (s : State) (cause len : Nat) (start : Word) : State :=
  let s := announce s cause len start
  if s.mode.dimPend.isSome then dimCancel s else s

end Sys2Proof.Machine
end

