-- ==== Sys2Proof/Machine/CmdCrypto.lean ====
section
/-! DEFINITION. The symmetric, hash, asymmetric and random families (15 R369 to R373, R365). The output of a command is
computed by the lanes' own functions (12 R292, R295) and the checks of 12 R309 come first. -/
namespace Sys2Proof.Machine

/-- The end of a verification: OK with VFY, and in RESULT byte 0 the reason (R365). -/
def Ans.verified (s : State) (reason : Nat) : Ans := { st := s, vfy := reason = 0, result := BitVec.ofNat 64 reason }

/-- The same of the opcodes 0x09 and 0x0D, whose RESULT byte 0 is always 0 (R365). -/
def Ans.checked (s : State) (ok : Bool) : Ans := { st := s, vfy := ok }

/-- The arguments of a lane function for a command (12 R289). -/
def cmdArgs (func : Nat) (dec : Bool) (d key iv expect aad data : Bytes) : LaneArgs :=
  { func := func, dec := dec, tagLen := dTag d, key := key, iv := iv, expect := expect, aad := aad, data := data }

/-- A command on an engine with a key: operands within their limits, an engine of the kind, the key (R346 step 5, R366). -/
def keyed (s : State) (fn : Nat) (d : Bytes) (ok : Bool) (engs : List Nat) (usage : Nat) (alg : Nat → Bool)
    (f : State → Slot → Bytes → Ans) : Ans :=
  if !ok then .bad s else if engDown s engs then .aborted s else withKey s fn d usage alg f

/-- AES keys. -/
def algAes (a : Nat) : Bool := a ≤ 2

/-- ECB, CBC and CTR. -/
def aesBlockCmd (func : Nat) (dec : Bool) (usage ivLen : Nat) (s : State) (fn : Nat) (d : Bytes) (io : CmdIo) : Ans :=
  keyed s fn d (dAuxLen d = ivLen && (if func = 2 then dLen d ≤ 2 ^ 30 else blockLen (dLen d))) aesLanes usage algAes
    fun s _ key => { st := s, out := (aesLane (cmdArgs func dec d key (auxOf d io) [] [] (inOf d io)) []).1 }

/-- The digest length of an HMAC command, and its lane function. -/
def hmacOf (alg : Nat) (d : Bytes) : Nat × Nat :=
  if alg = 3 then (32, 5) else if dOpnd d 0 = 0 then (48, 6) else (64, 7)

/-- HMAC. -/
def hmacCmd (alg : Nat) (ver : Bool) (s : State) (fn : Nat) (d : Bytes) (io : CmdIo) : Ans :=
  let (n, func) := hmacOf alg d
  keyed s fn d (dOpnd d 0 ≤ 1 && 10 ≤ dTag d && dTag d ≤ n && dAuxLen d = (if ver then dTag d else 0)) hashLanes
    (if ver then 5 else 4) (· = alg) fun s _ key =>
      let o := hashLane (cmdArgs func ver d key [] (auxOf d io) [] (inOf d io))
      if !ver then { st := s, out := o.1 }
      else if alg = 3 then .checked s o.2
      else .verified s (if o.2 then 0 else 1)

/-- AES-GMAC: the message is the additional data. -/
def gmacCmd (ver : Bool) (s : State) (fn : Nat) (d : Bytes) (io : CmdIo) : Ans :=
  keyed s fn d (gcmTagLen (dTag d) && dLen d ≤ 2 ^ 30 && dAuxLen d = (if ver then 12 + dTag d else 12)) aesLanes
    (if ver then 5 else 4) algAes fun s _ key =>
      let aux := auxOf d io
      let o := aesLane (cmdArgs 4 ver d key (aux.take 12) (aux.drop 12) (inOf d io) []) []
      if ver then .checked s o.2 else { st := s, out := o.1 }

/-- AES-CMAC. -/
def cmacCmd (ver : Bool) (s : State) (fn : Nat) (d : Bytes) (io : CmdIo) : Ans :=
  keyed s fn d (8 ≤ dTag d && dTag d ≤ 16 && dLen d ≤ 2 ^ 30 && dAuxLen d = (if ver then dTag d else 0)) aesLanes
    (if ver then 5 else 4) algAes fun s _ key =>
      let o := aesLane (cmdArgs 5 ver d key [] (auxOf d io) [] (inOf d io)) []
      if ver then .verified s (if o.2 then 0 else 1) else { st := s, out := o.1 }

/-- AADLEN of a GCM command. -/
def gcmAad (d : Bytes) : Nat := dOpndN d 0 4

/-- The lengths of a GCM command (R370). -/
def gcmOk (d : Bytes) : Bool :=
  12 ≤ dTag d && dTag d ≤ 16 && gcmAad d ≤ dLen d && gcmAad d ≤ 2 ^ 30 && dLen d - gcmAad d ≤ 2 ^ 30

/-- AES-GCM encryption with a given IV, or with IVMODE 1 one that is drawn and written first (R370). -/
def gcmEncCmd (s : State) (fn : Nat) (d : Bytes) (io : CmdIo) : Ans :=
  let ivMode := dOpnd d 4
  let run := fun (iv : Bytes) (key : Bytes) =>
    let b := inOf d io
    (aesLane (cmdArgs 3 false d key iv [] (b.take (gcmAad d)) (b.drop (gcmAad d))) []).1
  keyed s fn d (gcmOk d && ivMode ≤ 1 && dAuxLen d = (if ivMode = 0 then 12 else 0)) aesLanes 0 algAes fun s _ key =>
    if ivMode = 0 then { st := s, out := run (auxOf d io) key }
    else withRandom s fn d 12 fun s iv => { st := s, out := iv ++ run iv key }

/-- AES-GCM decryption: no plaintext leaves when the tag fails (R370). -/
def gcmDecCmd (s : State) (fn : Nat) (d : Bytes) (io : CmdIo) : Ans :=
  keyed s fn d (gcmOk d && dAuxLen d = 12 + dTag d) aesLanes 1 algAes fun s _ key =>
    let b := inOf d io
    let aux := auxOf d io
    let o := aesLane (cmdArgs 3 true d key (aux.take 12) (aux.drop 12) (b.take (gcmAad d)) (b.drop (gcmAad d))) []
    { Ans.verified s (if o.2 then 0 else 1) with out := if o.2 then o.1 else [] }

/-- The hash functions. -/
def hashBody (s : State) (_fn : Nat) (d : Bytes) (io : CmdIo) : Ans :=
  if 4 < dOpnd d 0 then .bad s
  else if engDown s hashLanes then .aborted s
  else { st := s, out := (hashLane (cmdArgs (dOpnd d 0) false d [] [] [] [] (inOf d io))).1 }

/-- AES_ECB_ENCRYPT (15 R369, R370). -/
def execAesEcbEncrypt (fn r : Nat) (io : CmdIo) (s : State) : Host.Outcome State Fault Refusal :=
  .next (serveCmd s fn r 0x01 fun s d => aesBlockCmd 0 false 0 0 s fn d io)

/-- AES_ECB_DECRYPT (15 R369, R370). -/
def execAesEcbDecrypt (fn r : Nat) (io : CmdIo) (s : State) : Host.Outcome State Fault Refusal :=
  .next (serveCmd s fn r 0x02 fun s d => aesBlockCmd 0 true 1 0 s fn d io)

/-- AES_CBC_ENCRYPT (15 R369, R370). -/
def execAesCbcEncrypt (fn r : Nat) (io : CmdIo) (s : State) : Host.Outcome State Fault Refusal :=
  .next (serveCmd s fn r 0x03 fun s d => aesBlockCmd 1 false 0 16 s fn d io)

/-- AES_CBC_DECRYPT (15 R369, R370). -/
def execAesCbcDecrypt (fn r : Nat) (io : CmdIo) (s : State) : Host.Outcome State Fault Refusal :=
  .next (serveCmd s fn r 0x04 fun s d => aesBlockCmd 1 true 1 16 s fn d io)

/-- AES_CTR_ENCRYPT (15 R369, R370). -/
def execAesCtrEncrypt (fn r : Nat) (io : CmdIo) (s : State) : Host.Outcome State Fault Refusal :=
  .next (serveCmd s fn r 0x05 fun s d => aesBlockCmd 2 false 0 16 s fn d io)

/-- AES_CTR_DECRYPT (15 R369, R370). -/
def execAesCtrDecrypt (fn r : Nat) (io : CmdIo) (s : State) : Host.Outcome State Fault Refusal :=
  .next (serveCmd s fn r 0x06 fun s d => aesBlockCmd 2 true 1 16 s fn d io)

/-- HMAC_SHA_256_GENERATE (15 R369, R370). -/
def execHmacSha256Generate (fn r : Nat) (io : CmdIo) (s : State) : Host.Outcome State Fault Refusal :=
  .next (serveCmd s fn r 0x08 fun s d => hmacCmd 3 false s fn d io)

/-- HMAC_SHA_256_VERIFY (15 R369, R370). -/
def execHmacSha256Verify (fn r : Nat) (io : CmdIo) (s : State) : Host.Outcome State Fault Refusal :=
  .next (serveCmd s fn r 0x09 fun s d => hmacCmd 3 true s fn d io)

/-- HMAC_SHA_384_512_GENERATE (15 R369, R370). -/
def execHmacSha384512Generate (fn r : Nat) (io : CmdIo) (s : State) : Host.Outcome State Fault Refusal :=
  .next (serveCmd s fn r 0x0A fun s d => hmacCmd 4 false s fn d io)

/-- HMAC_SHA_384_512_VERIFY (15 R369, R370). -/
def execHmacSha384512Verify (fn r : Nat) (io : CmdIo) (s : State) : Host.Outcome State Fault Refusal :=
  .next (serveCmd s fn r 0x0B fun s d => hmacCmd 4 true s fn d io)

/-- AES_GMAC_GENERATE (15 R369, R370). -/
def execAesGmacGenerate (fn r : Nat) (io : CmdIo) (s : State) : Host.Outcome State Fault Refusal :=
  .next (serveCmd s fn r 0x0C fun s d => gmacCmd false s fn d io)

/-- AES_GMAC_VERIFY (15 R369, R370). -/
def execAesGmacVerify (fn r : Nat) (io : CmdIo) (s : State) : Host.Outcome State Fault Refusal :=
  .next (serveCmd s fn r 0x0D fun s d => gmacCmd true s fn d io)

/-- AES_GCM_ENCRYPT (15 R369, R370). -/
def execAesGcmEncrypt (fn r : Nat) (io : CmdIo) (s : State) : Host.Outcome State Fault Refusal :=
  .next (serveCmd s fn r 0x0E fun s d => gcmEncCmd s fn d io)

/-- AES_GCM_DECRYPT (15 R369, R370). -/
def execAesGcmDecrypt (fn r : Nat) (io : CmdIo) (s : State) : Host.Outcome State Fault Refusal :=
  .next (serveCmd s fn r 0x0F fun s d => gcmDecCmd s fn d io)

/-- AES_CMAC_GENERATE (15 R369, R370). -/
def execAesCmacGenerate (fn r : Nat) (io : CmdIo) (s : State) : Host.Outcome State Fault Refusal :=
  .next (serveCmd s fn r 0x10 fun s d => cmacCmd false s fn d io)

/-- AES_CMAC_VERIFY (15 R369, R370). -/
def execAesCmacVerify (fn r : Nat) (io : CmdIo) (s : State) : Host.Outcome State Fault Refusal :=
  .next (serveCmd s fn r 0x11 fun s d => cmacCmd true s fn d io)

/-- HASH (15 R369, R370). -/
def execHashCmd (fn r : Nat) (io : CmdIo) (s : State) : Host.Outcome State Fault Refusal :=
  .next (serveCmd s fn r 0x14 fun s d => hashBody s fn d io)

/-! ### Signatures and public keys -/

/-- The digest that an ECDSA command signs or verifies (R372 HMODE): none when the input is no digest of that length. -/
def ecMsg (alg : Nat) (d : Bytes) (io : CmdIo) : Option Bytes :=
  let b := inOf d io
  if dOpnd d 0 = 0 then some (if alg = 5 then sha256 b else sha384 b)
  else if dOpnd d 0 = 1 && b.length = coordLen alg then some b
  else none

/-- ECDSA sign: the nonce from the CTR_DRBG, and the signature verified before its release (R372, 12 R309). -/
def ecdsaSignCmd (s : State) (fn : Nat) (d : Bytes) (io : CmdIo) : Ans :=
  if engLacks s pkeEngs && (dOpnd d 0 ≤ 1) then .aborted s else
  keyed s fn d (dOpnd d 0 ≤ 1) pkeEngs 6 (fun a => a = 5 || a = 6) fun s x key =>
    match ecMsg x.alg d io with
    | none => .bad s
    | some h => withRandom s fn d (scalarBytes x.alg) fun s b =>
      let c := curveOf x.alg
      let sig := ecdsaSignK c (beNat key) (Config.nonceFrom x.alg b) h
      if ecdsaVerify c (ecPub c (beNat key)) sig h = 0 then { st := s, out := sig } else .aborted s

/-- ECDSA verify. -/
def ecdsaVerifyCmd (s : State) (_fn : Nat) (d : Bytes) (io : CmdIo) : Ans :=
  let alg := dOpnd d 2 + 4
  let n := coordLen alg
  if !(dOpnd d 2 = 1 || dOpnd d 2 = 2) || dAuxLen d ≠ 4 * n + 1 then .bad s
  else match ecMsg alg d io with
    | none => .bad s
    | some h =>
      if engDown s pkeEngs then .aborted s
      else
        let a := auxOf d io
        .verified s (ecdsaVerify (curveOf alg) (a.take (2 * n + 1)) (a.drop (2 * n + 1)) h)

/-- Ed25519 sign, its signature verified before its release. -/
def edSignCmd (s : State) (fn : Nat) (d : Bytes) (io : CmdIo) : Ans :=
  if engLacks s pkeEngs && (dLen d ≤ 65536) then .aborted s else
  keyed s fn d (dLen d ≤ 65536) pkeEngs 6 (· = 7) fun s _ key =>
    let sig := edSign key (inOf d io)
    if edVerify (edPub key) sig (inOf d io) = 0 then { st := s, out := sig } else .aborted s

/-- Ed25519 verify. -/
def edVerifyCmd (s : State) (_fn : Nat) (d : Bytes) (io : CmdIo) : Ans :=
  if dAuxLen d ≠ 96 then .bad s
  else if engDown s pkeEngs then .aborted s
  else .verified s (edVerify ((auxOf d io).take 32) ((auxOf d io).drop 32) (inOf d io))

/-- ML-DSA-65 sign in hedged form; ABORTED after 64 rejected attempts (12, "keeps rejecting"). -/
def mlSignCmd (s : State) (fn : Nat) (d : Bytes) (io : CmdIo) : Ans :=
  if engLacks s pkeEngs && (dAuxLen d = dOpnd d 3) then .aborted s else
  keyed s fn d (dAuxLen d = dOpnd d 3) pkeEngs 6 (· = 8) fun s _ key =>
    withRandom s fn d 32 fun s rnd =>
      match Config.mlDsaSign key (auxOf d io) (inOf d io) rnd with
      | none => .aborted s
      | some sig =>
        if Config.mlDsaVerify (Config.mlDsaPub key) (auxOf d io) (inOf d io) sig then { st := s, out := slice sig 0 3309 }
        else .aborted s

/-- A coefficient of z in an ML-DSA-65 signature, of 20 bits in byte pairs and halves after the 48 bytes of the challenge
(FIPS 204: γ1 = 2^19). -/
def mlZ (sig : Bytes) (k : Nat) : Int :=
  (2 ^ 19 : Int) - (leAt sig (48 + 5 * k / 2) 3 / 2 ^ (4 * (k % 2)) % 2 ^ 20 : Nat)

/-- The norm check of FIPS 204 fails: a coefficient of z is not below γ1 − β, with β = 196. -/
def mlNormBad (sig : Bytes) : Bool := (List.range 1280).any fun k => 524092 ≤ (mlZ sig k).natAbs

/-- The hint part of a signature is malformed (FIPS 204, HintBitUnpack with ω = 55 and k = 6): its positions rise within each
polynomial, its counts do not fall or pass ω, and the places after the last count are 0. -/
def mlHintBad (sig : Bytes) : Bool :=
  let y := fun k => byteAt sig (3248 + k)
  let c := fun k => if k = 0 then 0 else y (54 + k)
  !(List.range 6).all (fun i => c i ≤ c (i + 1) && c (i + 1) ≤ 55
      && (List.range 55).all fun j => !(c i < j && j < c (i + 1)) || y (j - 1) < y j)
    || !(List.range 55).all fun j => j < c 6 || y j = 0

/-- The norm and hint checks of FIPS 204 that 12 R309 asks for refuse a signature. -/
def mlRangeBad (sig : Bytes) : Bool := mlNormBad sig || mlHintBad sig

/-- The reason of an ML-DSA-65 verification (R365, 12 R309): 0 verified. -/
def mlReason (pub ctx msg sig : Bytes) : Nat :=
  if mlRangeBad sig then 3 else if Config.mlDsaVerify pub ctx msg sig then 0 else 1

/-- ML-DSA-65 verify. -/
def mlVerifyCmd (s : State) (_fn : Nat) (d : Bytes) (io : CmdIo) : Ans :=
  let a := auxOf d io
  if dAuxLen d ≠ 5261 + dOpnd d 3 then .bad s
  else if engDown s pkeEngs then .aborted s
  else .verified s (mlReason (a.take 1952) (a.drop 5261) (inOf d io) (slice a 1952 3309))

/-- Hybrid verify: both signatures; the reason is that of the first part that fails. -/
def hybridCmd (s : State) (_fn : Nat) (d : Bytes) (io : CmdIo) : Ans :=
  let a := auxOf d io
  if dAuxLen d ≠ 5454 + dOpnd d 3 then .bad s
  else if engDown s pkeEngs then .aborted s
  else
    let e := ecdsaVerify p384 (a.take 97) (slice a 2049 96) (sha384 (inOf d io))
    .verified s (if e ≠ 0 then e else mlReason (slice a 97 1952) (a.drop 5454) (inOf d io) (slice a 2145 3309))

/-- Modulus length of an RSA ALG, in bytes. -/
def rsaLen (alg : Nat) : Nat := if alg = 10 then 256 else 512

/-- n of RSA material (09 R218). -/
def rsaN (k : Nat) (m : Bytes) : Nat := beNat (m.take k)

/-- The private operation in CRT form (09 R218): material n, e, p, q, dp, dq, qinv. -/
def rsaPriv (k : Nat) (m : Bytes) (c : Nat) : Nat :=
  let h := k / 2
  let at_ := fun i => beNat (slice m (k + 4 + i * h) h)
  let p := at_ 0
  let q := at_ 1
  let m1 := rsaPow p (at_ 2) (c % p)
  let m2 := rsaPow q (at_ 3) (c % q)
  m2 + q * (at_ 4 * subMod p m1 (m2 % p) % p)

/-- A use of the RSA object that OPND names. -/
def withRsa (s : State) (fn : Nat) (d : Bytes) (usage : Nat) (f : Nat → Bytes → Ans) : Ans :=
  if dOpnd d 6 ≠ 1 then .bad s
  else if engDown s pkeEngs then .aborted s
  else match objOpen s fn (dOpndN d 4 2) (· = usage) (fun a => a = 10 || a = 11) with
    | .inl st => .stop s st
    | .inr (h, m) => f (rsaLen (byteAt h 3)) m

/-- The digest of an RSA command (R372 HMODE). -/
def rsaMsg (d : Bytes) (io : CmdIo) : Option Bytes :=
  if dOpnd d 0 = 0 then some (sha256 (inOf d io))
  else if dOpnd d 0 = 1 && dLen d = 32 then some (inOf d io)
  else none

/-- RSA sign, PKCS#1 v1.5 or PSS with a drawn salt (R372). -/
def rsaSignCmd (s : State) (fn : Nat) (d : Bytes) (io : CmdIo) : Ans :=
  match rsaMsg d io with
  | none => .bad s
  | some h =>
    if 1 < dOpnd d 1 then .bad s
    else withRsa s fn d 6 fun k m =>
      let sign := fun (em : Bytes) => beBytes k (rsaPriv k m (beNat em))
      if dOpnd d 1 = 0 then { st := s, out := sign (pkcs1Pad k h) }
      else withRandom s fn d 32 fun s salt => { st := s, out := sign (pssPad k h salt) }

/-- An RSA public key is in order (FIPS 186-5 as 12 R309 asks): an odd modulus of the full length, an odd exponent above
65536 (log 40). -/
def rsaPubOk (k n e : Nat) : Bool := n % 2 = 1 && 2 ^ (8 * k - 1) ≤ n && e % 2 = 1 && 65536 < e

/-- RSA verify: n ‖ e ‖ signature in AUX. PKCS#1 v1.5 verifies; whether PSS does too is open (log 40). -/
def rsaVerifyCmd (s : State) (_fn : Nat) (d : Bytes) (io : CmdIo) : Ans :=
  let k := if dOpnd d 2 = 1 then 256 else 512
  let a := auxOf d io
  let n := beNat (a.take k)
  let e := beNat (slice a k 4)
  let sg := beNat (a.drop (k + 4))
  if !(dOpnd d 2 = 1 || dOpnd d 2 = 2) || dAuxLen d ≠ 2 * k + 4 then .bad s
  else match rsaMsg d io with
    | none => .bad s
    | some h =>
      if engDown s pkeEngs then .aborted s
      else if !rsaPubOk k n e then .verified s 2
      else if n ≤ sg then .verified s 3
      else
        let em := beBytes k (rsaPow n e sg)
        .verified s (if em = pkcs1Pad k h || (Config.rsaPss && pssCheck k h em) then 0 else 1)

/-- RSA-OAEP decryption with a label; a failure completes with the status that the spec leaves open (log 41). -/
def rsaOaepCmd (s : State) (fn : Nat) (d : Bytes) (io : CmdIo) : Ans :=
  if 255 < dAuxLen d || !(dLen d = 256 || dLen d = 512) then .bad s
  else withRsa s fn d 1 fun k m =>
    let c := beNat (inOf d io)
    let fail := Ans.stop s (if Config.oaepDenied then 0x10 else 0x21)
    if dLen d ≠ k then .bad s
    else if rsaN k m ≤ c then fail
    else match oaepDecode k (auxOf d io) (beBytes k (rsaPriv k m c)) with
      | some p => { st := s, out := p }
      | none => fail

/-- The public key of material under an ALG (R372): none for one that has no public key. -/
def pubOf (alg : Nat) (m : Bytes) : Option Bytes :=
  if alg = 5 || alg = 6 then some (ecPub (curveOf alg) (beNat m))
  else if alg = 7 then some (edPub m)
  else if alg = 8 then some (slice (Config.mlDsaPub m) 0 1952)
  else if alg = 10 || alg = 11 then some (m.take (rsaLen alg + 4))
  else none

/-- Public key read, of a SIGN or AGREE key (usage plus 8: its public part alone) or of an object. -/
def pubReadCmd (s : State) (fn : Nat) (d : Bytes) (_io : CmdIo) : Ans :=
  let give := fun (s : State) (alg : Nat) (m : Bytes) => match pubOf alg m with
    | some p => { st := s, out := p }
    | none => Ans.denied s
  if dOpnd d 6 = 1 then
    (if dKey d ≠ 0 then .bad s
     else if engDown s pkeEngs then .aborted s
     else match objOpen s fn (dOpndN d 4 2) (fun _ => true) (fun a => 5 ≤ a && a ≠ 9) with
       | .inl st => .stop s st
       | .inr (h, m) => give s (byteAt h 3) m)
  else
    let u := match resolve s (dKey d) with
      | some p => if p.2.usage = 7 then 15 else 14
      | none => 14
    keyed s fn d (dOpnd d 6 = 0 && dOpndN d 4 2 = 0) pkeEngs u (fun a => 5 ≤ a && a ≤ 8) fun s x m => give s x.alg m

/-- ECDSA_SIGN (15 R371, R372). -/
def execEcdsaSign (fn r : Nat) (io : CmdIo) (s : State) : Host.Outcome State Fault Refusal :=
  .next (serveCmd s fn r 0x20 fun s d => ecdsaSignCmd s fn d io)

/-- ECDSA_VERIFY (15 R371, R372). -/
def execEcdsaVerify (fn r : Nat) (io : CmdIo) (s : State) : Host.Outcome State Fault Refusal :=
  .next (serveCmd s fn r 0x21 fun s d => ecdsaVerifyCmd s fn d io)

/-- ED25519_SIGN (15 R371, R372). -/
def execEd25519Sign (fn r : Nat) (io : CmdIo) (s : State) : Host.Outcome State Fault Refusal :=
  .next (serveCmd s fn r 0x22 fun s d => edSignCmd s fn d io)

/-- ED25519_VERIFY (15 R371, R372). -/
def execEd25519Verify (fn r : Nat) (io : CmdIo) (s : State) : Host.Outcome State Fault Refusal :=
  .next (serveCmd s fn r 0x23 fun s d => edVerifyCmd s fn d io)

/-- ML_DSA_65_SIGN (15 R371, R372). -/
def execMlDsa65Sign (fn r : Nat) (io : CmdIo) (s : State) : Host.Outcome State Fault Refusal :=
  .next (serveCmd s fn r 0x24 fun s d => mlSignCmd s fn d io)

/-- ML_DSA_65_VERIFY (15 R371, R372). -/
def execMlDsa65Verify (fn r : Nat) (io : CmdIo) (s : State) : Host.Outcome State Fault Refusal :=
  .next (serveCmd s fn r 0x25 fun s d => mlVerifyCmd s fn d io)

/-- HYBRID_VERIFY (15 R371, R372). -/
def execHybridVerify (fn r : Nat) (io : CmdIo) (s : State) : Host.Outcome State Fault Refusal :=
  .next (serveCmd s fn r 0x26 fun s d => hybridCmd s fn d io)

/-- RSA_SIGN (15 R371, R372). -/
def execRsaSign (fn r : Nat) (io : CmdIo) (s : State) : Host.Outcome State Fault Refusal :=
  .next (serveCmd s fn r 0x2A fun s d => rsaSignCmd s fn d io)

/-- RSA_VERIFY (15 R371, R372). -/
def execRsaVerify (fn r : Nat) (io : CmdIo) (s : State) : Host.Outcome State Fault Refusal :=
  .next (serveCmd s fn r 0x2B fun s d => rsaVerifyCmd s fn d io)

/-- RSA_OAEP_DECRYPT (15 R371, R372). -/
def execRsaOaepDecrypt (fn r : Nat) (io : CmdIo) (s : State) : Host.Outcome State Fault Refusal :=
  .next (serveCmd s fn r 0x2C fun s d => rsaOaepCmd s fn d io)

/-- PUBLIC_KEY_READ (15 R371, R372). -/
def execPublicKeyRead (fn r : Nat) (io : CmdIo) (s : State) : Host.Outcome State Fault Refusal :=
  .next (serveCmd s fn r 0x2E fun s d => pubReadCmd s fn d io)

/-- Random bytes (R373). -/
def randomCmd (s : State) (fn : Nat) (d : Bytes) (_io : CmdIo) : Ans :=
  if dLen d = 0 || 65536 < dLen d then .bad s
  else withRandom s fn d (dLen d) fun s b => { st := s, out := b }

/-- RANDOM (15 R373). -/
def execRandom (fn r : Nat) (io : CmdIo) (s : State) : Host.Outcome State Fault Refusal :=
  .next (serveCmd s fn r 0x40 fun s d => randomCmd s fn d io)

end Sys2Proof.Machine
end

