-- ==== Sys2Proof/Machine/TamperBase.lean ====
section
/-! DEFINITION. Tamper sources: how a source acts, what triggers Snuff, and the registers of TMP_ that have rows of
their own (17 R402 to R413, R420, R421). -/
namespace Sys2Proof.Machine

/-! ### Configuration registers as applied (17, Registers) -/

/-- TMP_MESH_CFG: its fields. -/
def meshApply (v : Word) : Word := v &&& 0x70707
/-- TMP_SW_CFG: its fields, DEGLITCH 0 as 1. -/
def swApply (v : Word) : Word := let w := v &&& 0xF0F; if fld w 8 4 = 0 then w ||| 0x100 else w
/-- TMP_LIGHT_CFG: its field. -/
def lightApply (v : Word) : Word := v &&& 3

/-- Bit k of the thirteen sources. -/
def srcBit (k : Nat) : BitVec 13 := BitVec.ofNat 13 (2 ^ k)

/-- Source k is armed: not disabled by its TMPDIS bit (R408). -/
def armed (s : State) (k : Nat) : Bool := !s.fus.tmpdis.getLsbD k

/-- Source k is watched: not in OFF; VGLITCH and CGLITCH not in VIGIL (R402). -/
def watched (s : State) (k : Nat) : Bool :=
  s.mode.mode ≠ .off && !(s.mode.mode = .vigil && (k = 8 || k = 9))

/-- The response of source k as TMP_RESP gives it: 0b11 counts as Snuff (R410). -/
def respOf (s : State) (k : Nat) : Nat := min 2 ((s.tmp.resp.toNat >>> (2 * k)) % 4)

/-- The response in the present cell: in cells marked L a Snuff response acts as alarm (R76, R409). -/
def respNow (s : State) (k : Nat) : Nat :=
  if snuffCell s.mode.mode s.fus.lc then respOf s k else min 1 (respOf s k)

/-- A trigger that starts no Snuff is logged (R420): by its source's own entry (R409), or by one that names its cause. -/
def trigLogged (s : State) (cause : Nat) : State := if cause = 1 then s else logOtherS s .snf (leBytes 8 cause)

/-- Snuff is triggered (R413, R414 step 1): the Snuff flag set, cause and source recorded, every hold asserted, to be
cleared only after a ceremony that has yet to consume its latch (R411); a trigger during a Snuff, or with the flag set,
starts no second one (R420). -/
def snuffTrig (s : State) (cause source : Nat) : State :=
  if s.snf.flag || s.tmp.trig.isSome then trigLogged s cause
  else
    let vig := s.mode.mode = .vigil || s.mode.mode = .off
    let s := s.setSnf { s.snf with
      flag := true, cause := cause, source := source, vigil := vig
      when_ := if vig then s.tmp.bsec else s.glb.tick
      count := if vig then 0 else s.glb.sub }
    withAlarm s { s.tmp with hold := 0x1FFF, trig := some (cause, source), holdLock := cause ≠ 3 }

/-- What an alarm response adds to a log response (R409): the hold, vector 11, ALARM on CAN0, the wake of DIM (M7). -/
def tamperAlarm (s : State) (k : Nat) : State :=
  let was := alarmOn s
  let s := withAlarm s { s.tmp with hold := s.tmp.hold ||| srcBit k }
  let s := if was && mainUp s then irq s 0 11 else s
  wakeTrigger (sendAlarm s k (now s)) 7

/-- Source k acts (R409, R412, R420). -/
def tamperAct (s : State) (k : Nat) : State :=
  let r := respNow s k
  let s := s.setTmp { s.tmp with active := s.tmp.active ||| srcBit k, sticky := s.tmp.sticky ||| srcBit k }
  let s := logS s .tmp (k + 1) (leBytes 8 r)
  let s := if 1 ≤ r then tamperAlarm s k else s
  if r = 2 then snuffTrig s 1 k else s

/-- The mismatched bits of mesh k counted, up to 0xFF (R404, TMP_MESH_ERR). -/
def meshMiss (t : Tmp) (k n : Nat) : Tmp := { t with meshErr := t.meshErr.set k (min 0xFF (t.meshErr.getD k 0 + n)) }

/-- The mismatched bits by which a mesh is found broken: MISS of them (R403); other sources count none. -/
def missed (s : State) (k : Nat) : State :=
  if k < 4 then s.setTmp (meshMiss s.tmp k (fld s.tmp.mesh 16 3 + 1)) else s

/-- The condition of source k becomes active (R403, R409): an armed and watched source acts once. -/
def sourceOn (s : State) (k : Nat) : State :=
  let s := s.setTmp { s.tmp with cond := s.tmp.cond ||| srcBit k }
  if armed s k && watched s k && !s.tmp.active.getLsbD k then tamperAct (missed s k) k else s

/-- TAMPER_SOURCE_ACT (R403, R409). -/
def execTamperSourceAct (k : Nat) (s : State) : Host.Outcome State Fault Refusal := .next (sourceOn s k)

/-- CONDITION_INACTIVE (R409): the source may act again and its hold may be cleared. -/
def execConditionInactive (k : Nat) (s : State) : Host.Outcome State Fault Refusal :=
  .next (s.setTmp { s.tmp with cond := s.tmp.cond &&& ~~~ (srcBit k), active := s.tmp.active &&& ~~~ (srcBit k) })

/-- The condition of a disabled source is never active (R408). -/
def disarm (s : State) : State := s.setTmp { s.tmp with active := s.tmp.active &&& ~~~ s.fus.tmpdis }

/-- Sources that have become armed while their condition holds act at once (R421). -/
def armedAct (s : State) : State :=
  (List.range 13).foldl (fun s k =>
    if s.tmp.cond.getLsbD k && armed s k && watched s k && !s.tmp.active.getLsbD k then tamperAct s k else s) s

/-- Sources armed at K7 by a new response act at once under it when their condition is active (R421). -/
def respAct (s : State) (old : Nat → Nat) : State :=
  (List.range 13).foldl (fun s k =>
    if s.tmp.active.getLsbD k && old k < respNow s k then tamperAct s k else s) s

/-- TMP_HOLD (R411): holds of inactive sources clear; none after Snuff until a ceremony consumes its latch. -/
def execTmpHold (v : Word) (s : State) : Host.Outcome State Fault Refusal :=
  if !mainUp s || s.tmp.holdLock then .next s
  else .next (withAlarm s { s.tmp with hold := s.tmp.hold &&& ~~~ (BitVec.ofNat 13 v.toNat &&& ~~~ s.tmp.active) })

/-- TMP_STICKY (R412): flags clear by a write only in BLANK; elsewhere the write is discarded. -/
def execTmpSticky (v : Word) (s : State) : Host.Outcome State Fault Refusal :=
  if mainUp s && s.fus.lc = .blank then
    .next (s.setTmp { s.tmp with sticky := s.tmp.sticky &&& ~~~ (BitVec.ofNat 13 v.toNat) })
  else .next s

/-- TMP_CTL_LOCK (R410): the key is 0x7A. -/
def execTmpCtlLock (v : Word) (s : State) : Host.Outcome State Fault Refusal :=
  if mainUp s && fld v 24 8 = 0x7A && bit v 0 then .next (s.setTmp { s.tmp with lock := true }) else .next s

/-- The consumption of OP 0x0B or 0x0C: the flags copied into a security entry and cleared (R412); the holds may be cleared
from now on (R411). -/
def stickyConsume (s : State) : State :=
  let s := logS s .tmp 0x11 (leBytes 8 s.tmp.sticky.toNat)
  s.setTmp { s.tmp with sticky := 0, holdLock := false }

/-- The Snuff flag cleared (R260, R261). -/
def snuffFlagClear (s : State) : State := s.setSnf { s.snf with flag := false }

end Sys2Proof.Machine
end

