-- ==== Sys2Proof/Machine/Fuses.lean ====
section
/-! DEFINITION. The fuse array: resolution at K2, re-read passes and programming (06 R135 to R146; 04 R95, R109). -/
namespace Sys2Proof.Machine

/-- s with FUS_ replaced by a function of it. -/
def onFus (s : State) (f : Fus → Fus) : State := s.setFus (f s.fus)

/-- The readings of a word. -/
def fuseCell (s : State) (w : Nat) : FuseWord := tget {} s.fus.cells w

/-- The kinds of R135. -/
inductive FuseKind where
  | sec | key | cfg | none
deriving DecidableEq, Repr

/-- Kind, copy-A address and copy stride of a word (R136). -/
def fuseAt (w : Nat) : FuseKind × Nat × Nat :=
  if w < 3 then (.sec, 0, 1)
  else if w < 6 then (.sec, 3, 1)
  else if w < 9 then (.sec, 6, 1)
  else if w < 15 then (.sec, 9 + (w - 9) % 2, 2)
  else if w < 16 then (.none, w, 0)
  else if w < 112 then (.key, 16 + 24 * ((w - 16) / 24) + (w - 16) % 8, 8)
  else if w < 328 then (.sec, 112 + 27 * ((w - 112) / 27) + (w - 112) % 27 % 9, 9)
  else if w < 334 then (.key, 328 + (w - 328) % 2, 2)
  else if w < 384 then (.none, w, 0)
  else (.cfg, w, 0)

/-- The word is the last copy of its SEC or KEY word. -/
def lastCopy (w : Nat) : Bool := let (k, a, d) := fuseAt w; (k = .sec || k = .key) && w = a + 2 * d

/-- Bits that read the same at three references with value 1. -/
def stable1 (c : FuseWord) : Word := c.nom &&& c.low &&& c.high
/-- Bits that read the same at three references with value 0. -/
def stable0 (c : FuseWord) : Word := ~~~ (c.nom ||| c.low ||| c.high)
/-- Marginal bits of a copy (R138). -/
def margBits (c : FuseWord) : Word := ~~~ (stable1 c ||| stable0 c)

/-- Bitwise majority. -/
def maj (a b c : Word) : Word := (a &&& b) ||| (a &&& c) ||| (b &&& c)

/-- The bits of a SEC word that R140 defines. DESIGN CHOICE (log 102): its reserved bits are neither voted nor programmed. -/
def secMask (a : Nat) : Word :=
  if a = 0 then 0x00FFFFFF else if a = 3 then 0xFF else if a = 6 then 0x1FFF
  else if 112 ≤ a && (a - 112) % 27 = 0 then 0xFFFF else 0xFFFFFFFF

/-- The secure values of a SEC word's bits (R140). -/
def secSecure (a : Nat) : Word :=
  if a = 6 then 0 else if 112 ≤ a then (if (a - 112) % 27 = 0 then 0xFF00 else 0) else 0xFFFFFFFF

/-- The vote of three copies (R139): value, bits that count as marginal, bits whose copies disagree. DESIGN CHOICE
(log 101): three copies that are marginal in the same way disagree too. -/
def voteOf (x y z : FuseWord) (secure mask : Word) : Word × Word × Word :=
  let one := maj (stable1 x) (stable1 y) (stable1 z)
  let zero := maj (stable0 x) (stable0 y) (stable0 z)
  let marg := ~~~ (one ||| zero) &&& mask
  let same := (stable1 x &&& stable1 y &&& stable1 z) ||| (stable0 x &&& stable0 y &&& stable0 z)
  ((one ||| (marg &&& secure)) &&& mask, marg, ~~~ same &&& mask)

/-- The vote of the SEC word whose copy A is at a. -/
def secVote (s : State) (a : Nat) : Word × Word × Word :=
  let d := (fuseAt a).2.2
  voteOf (fuseCell s a) (fuseCell s (a + d)) (fuseCell s (a + 2 * d)) (secSecure a) (secMask a)

/-- The majority of the nominal reads of the KEY word whose copy A is at a, and whether nine reads disagree (R141). -/
def keyVote (s : State) (a : Nat) : Word × Bool :=
  let d := (fuseAt a).2.2
  let x := fuseCell s a
  let y := fuseCell s (a + d)
  let z := fuseCell s (a + 2 * d)
  (maj x.nom y.nom z.nom, [x.low, x.high, y.nom, y.low, y.high, z.nom, z.low, z.high].any (· ≠ x.nom))

/-- The entry of a SEC bit (18 R432): word, bit, new value. -/
def logSec (s : State) (w b : Nat) (v : Bool) : State :=
  logS s .fus 1 (leBytes 2 w ++ leBytes 1 b ++ leBytes 1 (b2n v) ++ leBytes 4 0)

/-- The flags and entries of a vote (R139): VOTE, SEC_MARG, one entry for each marginal bit. -/
def secFlags (s : State) (a : Nat) (v : Word × Word × Word) : State :=
  let s := onFus s fun f => { f with vote := f.vote || v.2.2 ≠ 0, secMarg := f.secMarg || v.2.1 ≠ 0 }
  (bitsOf 32 v.2.1.toNat).foldl (fun s b => logSec s a b (v.1.getLsbD b)) s

/-! ### The meaning of the resolved words (R140) -/

/-- Lifecycle of a resolved LC word. -/
def lcOfWord (w : Word) : Lc :=
  if fld w 16 8 ≠ 0 then .retired else if fld w 8 8 ≠ 0 then .commissioned
  else if fld w 0 8 ≠ 0 then .provisioned else .blank

/-- The value of the rollback counter: one more than the highest bit at 1. -/
def rbcValue (b : BitVec 64) : Nat := if b = 0 then 0 else b.toNat.log2 + 1

/-- The more secure of two values bit by bit, given the secure value of each bit. -/
def tighter (secure a b : Word) : Word := (secure &&& (a ||| b)) ||| (~~~ secure &&& (a &&& b))

/-- The word of RBC in force: 9 low, 10 high. -/
def rbcWord (f : Fus) (a : Nat) : Word := if a = 9 then f.rbc.setWidth 32 else (f.rbc >>> 32).setWidth 32

/-- RBC with one of its words replaced. -/
def rbcPut (r : BitVec 64) (a : Nat) (v : Word) : BitVec 64 :=
  if a = 9 then (r &&& 0xFFFFFFFF00000000) ||| v.setWidth 64 else (r &&& 0xFFFFFFFF) ||| (v.setWidth 64 <<< 32)

/-- Custodian slot and place of a CUS word's copy A: control 0, digest words 1 to 8. -/
def cusAt (a : Nat) : Nat × Nat := ((a - 112) / 27, (a - 112) % 27)

/-- A byte string with the word at place k replaced, little-endian (R137). -/
def bytesPutWord (b : Bytes) (k : Nat) (v : Word) : Bytes := b.take (4 * k) ++ leBytes 4 v.toNat ++ b.drop (4 * k + 4)

/-- The digest of a slot as held. -/
def cusDigF (f : Fus) (n : Nat) : Bytes := tget (List.replicate 32 0) f.cusDig n

/-- The value in force of the SEC word whose copy A is at a. -/
def secForce (f : Fus) (a : Nat) : Word :=
  if a = 0 then f.lcW
  else if a = 3 then f.disW
  else if a = 6 then f.tmpdis.setWidth 32
  else if a < 112 then rbcWord f a
  else
    let (n, j) := cusAt a
    if j = 0 then tget 0 f.cusCtl n else wordOf (leAt (cusDigF f n) (4 * (j - 1)) 4)

/-- A value put in force for the SEC word whose copy A is at a. -/
def secPut (f : Fus) (a : Nat) (v : Word) : Fus :=
  if a = 0 then { f with lcW := v, lc := lcOfWord v }
  else if a = 3 then { f with disW := v, dbgdis := v ≠ 0 }
  else if a = 6 then { f with tmpdis := v.setWidth 13 }
  else if a < 112 then { f with rbc := rbcPut f.rbc a v }
  else
    let (n, j) := cusAt a
    if j = 0 then { f with cusCtl := tput 0 f.cusCtl n v }
    else { f with cusDig := tput (List.replicate 32 0) f.cusDig n (bytesPutWord (cusDigF f n) (j - 1) v) }

/-- The word is a digest word of a custodian slot. -/
def isDigest (a : Nat) : Bool := 112 ≤ a && a < 328 && (cusAt a).2 ≠ 0

/-- A marginal digest bit makes its slot unusable for the power cycle (R140). -/
def margSlot (f : Fus) (a : Nat) (marg : Word) : Fus :=
  if isDigest a && marg ≠ 0 then { f with cusMarg := f.cusMarg ||| BitVec.ofNat 8 (2 ^ (cusAt a).1) } else f

/-- Copy-A addresses of the SEC words. -/
def secWords : List Nat :=
  [0, 3, 6, 9, 10] ++ (List.range 8).flatMap fun n => (List.range 9).map fun j => 112 + 27 * n + j

/-! ### K2 (R95, R101, R138 to R142) -/

/-- One SEC word resolved at K2: the fresh value after a power-on reset, the more secure of held and fresh after a
device reset (R95). Digest bits have no more secure value; the fresh ones stand. -/
def secKindle (held : Bool) (s : State) (a : Nat) : State :=
  let v := secVote s a
  let s := secFlags s a v
  let new := if held && !isDigest a then tighter (secSecure a) (secForce s.fus a) v.1 else v.1
  onFus s fun f => secPut (margSlot f a v.2.1) a new

/-- The bytes of a run of KEY words from copy A at a on. -/
def keyBytes (s : State) (a n : Nat) : Bytes := (List.range n).flatMap fun j => leBytes 4 (keyVote s (a + j)).1.toNat

/-- Copy-A addresses of the KEY words. -/
def keyWords : List Nat :=
  ((List.range 4).flatMap fun g => (List.range 8).map fun j => 16 + 24 * g + j) ++ [328, 329]

/-- The entries of a CFG word found marginal or changed (R142). -/
def cfgFlag (s : State) (w : Nat) : State :=
  let s := onFus s fun f => { f with marginal := true }
  let s := s.setCfg { s.cfg with pinned := true }
  logSD s .fus 2 (leBytes 8 w)

/-- The types marked as overridable (R155). -/
def overridable : List Nat := [2, 3, 6, 7, 8, 9, 0x0F]

/-- The override words, lowest first. -/
def ovrWords (s : State) : List FuseWord := (List.range 64).map fun k => fuseCell s (384 + k)

/-- Some word has a marginal TYPE bit: every overridable field is pinned (R148). -/
def ovrAllPinned (s : State) : Bool := (ovrWords s).any fun c => margBits c &&& 0xFF000000 ≠ 0

/-- The fields that the CFG words pin as they read now (R142, R148); a marginal word 448 pins the trim centre, number
0. -/
def pinsNow (s : State) : List Nat :=
  (if margBits (fuseCell s 448) ≠ 0 then [0] else [])
    ++ overridable.filter fun t => ovrAllPinned s || (ovrWords s).any fun c => margBits c ≠ 0 && fld c.nom 24 8 = t

/-- The pinned fields at K2: those pinned earlier in the power cycle stay pinned (R142). -/
def pinFields (s : State) : State :=
  let s := onFus s fun f => { f with pins := (if f.held then f.pins else []) ++ (pinsNow s).filter (!f.pins.contains ·) }
  s.setCfg { s.cfg with pinned := s.cfg.pinned || !s.fus.pins.isEmpty }

/-- CFG words. -/
def cfgWords : List Nat := (List.range 128).map (384 + ·)

/-- K2: all words read, voted and resolved. -/
def fuseKindle (s : State) : State :=
  let held := s.fus.held
  let s := if held then s else onFus s fun f => { f with cusMarg := 0 }
  let s := secWords.foldl (secKindle held) s
  let s := onFus s fun f => { f with
    dur := keyBytes s 16 8, vimg := keyBytes s 40 8, vtok := keyBytes s 64 8, cfgk := keyBytes s 88 8
    serial := keyBytes s 328 2, vote := f.vote || keyWords.any fun a => (keyVote s a).2 }
  let s := cfgWords.foldl (fun s w => if margBits (fuseCell s w) ≠ 0 then cfgFlag s w else s) s
  onFus (pinFields s) fun f => { f with held := true }

/-- The fused trim centre (R136): the low byte of word 448, unless it is pinned (R142); the ROM default on a blank word
(log 27). -/
def trimCentre (s : State) : Nat :=
  let c := fuseCell s 448
  if s.fus.pins.contains 0 || fld c.nom 0 8 = 0 then 0x80 else fld c.nom 0 8

/-! ### What a tightening does (R144) -/

/-- Operations in flight of every kind ended with ABORTED, commands that wait among them, the hot cache and the engine
key registers cleared (03 R81). -/
def stopAll (s : State) : State :=
  let s := abortEngines s 3
  let s := abortCommands (s.setHif { s.hif with waits := [] }) (fun _ => true) 0x21
  let s := abortTrips s 0x21
  s.setVlt { s.vlt with cache := [] }

/-- A debug switch that is announced and not taken is cancelled with its announcement (03 R71, R83, R85). -/
def debugCancel (s : State) : State :=
  if s.mode.dbgPend.isSome then annClear (s.setMode { s.mode with dbgPend := none }) else s

/-- The effect of a tightened word (R144). -/
def tightenEffect (s : State) (old : Fus) (a : Nat) : State :=
  if a = 0 then
    (if lcCode old.lc < lcCode s.fus.lc then deviceReset (stopAll (custCancelAll s 4 0xA)) 0x0E else s)
  else if a = 3 then
    -- 03 R71, R82: debug that counts as disabled does not leave CLOSED; outside CLOSED the port closes
    (if s.fus.dbgdis then
       (let s := debugCancel s
        if s.mode.dbg ≠ .closed then s.setMode { s.mode with port := false } else s)
     else s)
  else if a = 6 then armedAct s
  else if 112 ≤ a then slotCheck (onFus s fun _ => old) s (cusAt a).1
  else s

/-- A tightened value in force, with TIGHTENED and one entry for each bit that changed and is not already logged as
marginal. -/
def tighten (s : State) (a : Nat) (new marg : Word) : State :=
  let old := s.fus
  let diff := (secForce old a ^^^ new) &&& ~~~ marg
  let s := onFus s fun f => secPut { f with tightened := true } a new
  let s := (bitsOf 32 diff.toNat).foldl (fun s b => logSec s a b (new.getLsbD b)) s
  tightenEffect s old a

/-- A SEC word resolved by a pass (R144). -/
def secPass (s : State) (a : Nat) : State :=
  let v := secVote s a
  let s := secFlags s a v
  if isDigest a then
    let n := (cusAt a).1
    if v.2.1 ≠ 0 && !s.fus.cusMarg.getLsbD n then
      slotCheck s (onFus s fun f => margSlot { f with tightened := true } a v.2.1) n
    else s
  else
    let new := tighter (secSecure a) (secForce s.fus a) v.1
    if new = secForce s.fus a then s else tighten s a new v.2.1

/-- The KEY value in force at copy A address a. -/
def keyForce (f : Fus) (a : Nat) : Word :=
  let g := fun (b : Bytes) (k : Nat) => wordOf (leAt b (4 * k) 4)
  if a < 40 then g f.dur (a - 16) else if a < 64 then g f.vimg (a - 40) else if a < 88 then g f.vtok (a - 64)
  else if a < 112 then g f.cfgk (a - 88) else g f.serial (a - 328)

/-- A KEY word resolved by a pass (R141): a different value only sets KEY_DRIFT. -/
def keyPass (s : State) (a : Nat) : State :=
  let v := keyVote s a
  let s := onFus s fun f => { f with vote := f.vote || v.2 }
  if v.1 = keyForce s.fus a then s
  else logS (onFus s fun f => { f with keyDrift := true }) .fus 3 (leBytes 8 a)

/-! ### Passes (R143) -/

/-- A pass is triggered: started at the next tick edge, or queued behind the running one (R143). -/
def fuseTrigger (s : State) : State := if s.glb.run then onFus s fun f => { f with rereadQ := true } else s

/-- REREAD_INTERVAL (R143): 2^20 ticks since the last pass started. -/
def execRereadInterval (s : State) : Host.Outcome State Fault Refusal :=
  if mainUp s && 2 ^ 20 ≤ s.fus.sincePass then .next (fuseTrigger s) else .next s

/-- FUS_REREAD_NOW (R143). -/
def execFusRereadNow (s : State) : Host.Outcome State Fault Refusal :=
  if mainUp s then .next (fuseTrigger s) else .next s

/-- The tick edge after a trigger (R143): the queued pass may start. -/
def rereadEdge (s : State) : State := onFus s fun f => { f with rereadDue := f.rereadQ && !f.rereadRun }

/-- FUSE_REREAD_PASS (R143, R146): a triggered pass starts at the tick edge, or when the programming operation that it
waits for ends. -/
def execFuseRereadPass (s : State) : Host.Outcome State Fault Refusal :=
  if mainUp s && s.glb.run && s.fus.rereadDue && !s.fus.rereadRun && s.fus.pgm.isNone then
    .next (onFus s fun f => { f with rereadRun := true, rereadQ := false, rereadDue := false, rereadNext := 0, sincePass := 0 })
  else .next s

/-- The word after a re-read; after word 511 the pass ends (R143). -/
def passNext (s : State) : State :=
  if s.fus.rereadNext = 511 then
    onFus s fun f => { f with rereadRun := false, rereadNext := 0, passes := satInc 255 f.passes }
  else onFus s fun f => { f with rereadNext := f.rereadNext + 1 }

/-- FUSE_WORD_REREAD (R144): the next word of the pass is read; a SEC or KEY word resolves when its last copy has been
read; a changed CFG word is flagged. DESIGN CHOICE (log 103): a programming operation that starts does not hold up a
pass that runs. -/
def execFuseWordReread (nom low high : Word) (s : State) : Host.Outcome State Fault Refusal :=
  if !mainUp s || !s.fus.rereadRun then .next s
  else
    let w := s.fus.rereadNext
    let c : FuseWord := ⟨nom, low, high⟩
    let old := fuseCell s w
    let s := passNext (onFus s fun f => { f with cells := tput {} f.cells w c })
    let (k, a, _) := fuseAt w
    if k = .cfg then .next (if old = c then s else cfgFlag s w)
    else if !lastCopy w then .next s
    else if k = .sec then .next (secPass s a)
    else .next (keyPass s a)

/-- The temperature of a tick and the band it leaves (R143): rising across an edge at edge + 1, falling at edge − 1. -/
def tempStep (s : State) (t : Int) : State :=
  let b := s.fus.band
  let nb := if 10 * (b + 1) + 1 ≤ t then (t - 1) / 10 else if t ≤ 10 * b - 1 then t / 10 else b
  let s := onFus s fun f => { f with temp := t, band := nb }
  if nb = b then s else fuseTrigger s

/-! ### Programming (R145, R146) -/

/-- Bits of the LC groups. -/
def lcGroup (g : Nat) : Word := BitVec.ofNat 32 (0xFF * 2 ^ (8 * g))

/-- b names only bits of m. -/
def within (b m : Word) : Bool := b &&& ~~~ m = 0

/-- R145: the word whose copy A is at a may be programmed with these bits under this authority. The digests of a
custodian slot, its ENROLLED and its REVOKED bits fall under the same rows. -/
def pgmAllowed (s : State) (a : Nat) (b : Word) (au : PgmAuth) : Bool :=
  let lc := s.fus.lc
  let early := lc = .blank || lc = .provisioned
  let latch := fun (op : Nat) => latchHolds s op && au = .latch (BitVec.ofNat 8 op)
  let comm := lc = .provisioned && (latch 0x0D || latch 0x0B)
  if lc = .retired || !within b (if (fuseAt a).1 = .sec then secMask a else 0xFFFFFFFF) then false
  else if a = 0 then
    (lc = .blank && au = .provisioning && within b (lcGroup 0))
      || (comm && within b (lcGroup 1))
      || (lc = .commissioned && latch 0x0C && within b (lcGroup 2))
  else if a = 3 then (early && au = .none) || (lc = .commissioned && latch 0x09)
  else if a = 6 then (early && au = .factory) || (lc = .commissioned && latch 0x09)
  else if a < 15 then (lc = .provisioned || lc = .commissioned) && au = .rollback
  else if a < 88 then 16 ≤ a && lc = .blank && au = .provisioning
  else if a < 112 then comm
  else if a < 328 then
    let enrol := comm || (lc = .commissioned && (latch 0x0B || latch 0x07))
    if isDigest a then enrol
    else (within b 0xFF && enrol) || (within b 0xFF00 && lc = .commissioned && latch 0x08)
  else if a < 334 then lc = .blank && au = .factory
  else if a < 384 then false
  else if a < 448 then early && au = .none
  else lc = .blank && au = .factory

/-- Where the latch is the authority, the words, bits, fields and values that its record names (R250), under the checks
that its ceremony makes before its first step (R242, R254). -/
def pgmRecord (s : State) (a : Nat) (b : Word) (au : PgmAuth) : Bool :=
  let l := s.cus.latch
  let p := slice l.record 0x30 32
  let arg := slice l.record 0x50 32
  let (n, j) := cusAt a
  match au with
  | .latch op =>
    if op = 0x09 then !l.used && leAt p 0 2 = a && wordOf (leAt p 4 4) = b
    else if op = 0x07 then
      n = byteAt p 0 && 112 ≤ a && (l.used || !enrolClash s n arg)
        && (if isDigest a then within b (wordOf (leAt arg (4 * (j - 1)) 4)) else within b 0xFF)
    else if op = 0x08 then !l.used && n = byteAt p 0 && 112 ≤ a && within b 0xFF00 && !revokeShort s n
    else if op = 0x0B || op = 0x0D then l.form && candArg s = arg && (l.used || candOk s) &&
      (if a = 0 then true
       else if a < 112 then within b (wordOf (leAt s.cus.candCfgk (4 * (a - 88)) 4))
       else s.cus.candMask.getLsbD n && (!isDigest a || within b (wordOf (leAt (candDigest s n) (4 * (j - 1)) 4))))
    else !l.used
  | _ => true

/-- The last word of a ceremony that programs by register, after which its latch clears (R251): the only word of OP 0x08,
0x09 and 0x0C, the control word of OP 0x07; of a commissioning form the LC word, or in COMMISSIONED the control word of
the last candidate (log 80). -/
def pgmLast (s : State) (a : Nat) : Bool :=
  let op := s.cus.latch.op
  if op = 0x07 then !isDigest a
  else if op = 0x0B || op = 0x0D then
    a = 0 || (s.fus.lc = .commissioned && (candSlots s).getLast? = some (cusAt a).1 && 112 ≤ a && !isDigest a)
  else true

/-- The copies to program, A first (R146). -/
def pgmCopies (a : Nat) : List Nat := match fuseAt a with
  | (.sec, a, d) => [a, a + d, a + 2 * d]
  | (.key, a, d) => [a, a + d, a + 2 * d]
  | _ => [a]

/-- VPP_FUSE is in range (R68). -/
def vppOk (s : State) : Bool := s.mode.vpp = .inRange

/-- What a ceremony that blows fuses checks before its first step (10 R253): VPP_FUSE and random output. -/
def ceremonyReady (s : State) : Bool := s.cus.latch.used || (vppOk s && rngReady s.rng)

/-- FUSE_PGM_GO (R145, R146): the key is 0x3C; a refused request blows nothing. Under the latch, the first operation
consumes it (10 R251). Whether VPP_FUSE suffices shows in the readback of each pulse. -/
def execFusePgmGo (v : Word) (auth : PgmAuth) (s : State) : Host.Outcome State Fault Refusal :=
  let a := s.fus.pgmAddr
  if !mainUp s || fld v 24 8 ≠ 0x3C || !bit v 0 || s.fus.pgm.isSome then .next s
  else if (fuseAt a).2.1 = a && pgmAllowed s a s.fus.pgmData auth && pgmRecord s a s.fus.pgmData auth then
    let start := fun (latched : Bool) (s : State) =>
      onFus s fun f => { f with pgm := some { words := pgmCopies a, bits := f.pgmData, latched := latched } }
    match auth with
    | .latch _ =>
      if ceremonyReady s then .next (start true (if s.cus.latch.used then s else latchUse s)) else .next s
    | _ => .next (start false s)
  else .next s

/-- The custodian words of a slot take effect when the last one is programmed (10 R255): the value in force is the
fresh one. -/
def cusEffect (s : State) (a : Nat) : State :=
  if 112 ≤ a && a < 328 then slotCheck s (onFus s fun f => secPut f a (secVote s a).1) (cusAt a).1 else s

/-- The operation ends (R146); under the latch, a failure or its ceremony's last word clears the latch (10 R251). -/
def pgmEnd (s : State) (o : PgmOp) (a : Nat) (fail : Bool) : State :=
  let s := if o.latched && (fail || pgmLast s a) then latchClear s else s
  onFus s fun f => { f with pgm := none, pgmFail := f.pgmFail || fail }

/-- A recognised NRST takes effect (04 R97, R98, R109): the main domain is held in reset and the hold counted from 0;
an NRST that rose while a programming pulse held it back is released at once. -/
def nrstTake (s : State) : State :=
  let low := s.mode.nrstLow
  let t := coreCleared (spi0Cut s 2) false
  let t := t.setTmp { t.tmp with nrst := 0, nfrac := 0, nrstRun := true }
  let m := modeReset s.mode false 1 (modeCode s.mode.mode) s.glb.tick
  let t := t.setMode { m with inReset := true }
  if low then t else nrstFree t

/-- FUSE_PULSE_END (R146): the word is read back; a bit not stable at 1 gets another pulse, up to four in all; then the
next copy starts, or PGM_FAIL stops the operation. A recognised NRST and a Snuff stop it at the end of the pulse
(04 R109, 17 R422). -/
def execFusePulseEnd (nom low high : Word) (s : State) : Host.Outcome State Fault Refusal :=
  match s.fus.pgm with
  | none => .next s
  | some o => match o.words with
    | [] => .next (pgmEnd s o 0 false)
    | w :: t =>
      let c : FuseWord := ⟨nom, low, high⟩
      let s := onFus s fun f => { f with cells := tput {} f.cells w c }
      let good := within o.bits (stable1 c)
      let a := (fuseAt w).2.1
      if s.fus.nrstStop then .next (nrstTake (pgmEnd s o a false))
      else if s.snf.flag && s.tmp.trig.isSome then .next (pgmEnd s o a false)
      else if good then
        (match t with
         | [] => .next (cusEffect (pgmEnd s o a false) a)
         | _ => .next (onFus s fun f => { f with pgm := some { o with words := t, pulses := 0 } }))
      else if o.pulses < 3 then .next (onFus s fun f => { f with pgm := some { o with pulses := o.pulses + 1 } })
      else .next (pgmEnd s o a true)

/-! ### Words blown by a ceremony or command, copy by copy (R146) -/

/-- Copy word w with bits blown: stable at 1 at three references. -/
def blowCell (s : State) (w : Nat) (b : Word) : State :=
  let c := fuseCell s w
  onFus s fun f => { f with cells := tput {} f.cells w ⟨c.nom ||| b, c.low ||| b, c.high ||| b⟩ }

/-- Copy word w after pulses that did not land: each bit reads at each reference what it read before or 1, by a free
value (log 9). -/
def pulseCell (s : State) (w : Nat) (b : Word) : State :=
  let (f, s) := freeBytes s 12
  let c := fuseCell s w
  let up := fun (k : Nat) => wordOf (leAt f (4 * k) 4) &&& b
  onFus s fun u => { u with cells := tput {} u.cells w ⟨c.nom ||| up 0, c.low ||| up 1, c.high ||| up 2⟩ }

/-- The copies of a list of words with their bits, in the order of R146; a word with no bit to blow takes no pulse. -/
def blowCopies (l : List (Nat × Word)) : List (Nat × Word) :=
  l.flatMap fun p => if p.2 = 0 then [] else (pgmCopies p.1).map (·, p.2)

/-- A copy blown; a word whose last copy it is takes effect where one does. -/
def blowCopy (s : State) (w : Nat) (b : Word) : State :=
  let s := blowCell s w b
  if lastCopy w then cusEffect s (fuseAt w).2.1 else s

/-- Copies blown in their order until the k-th, counted from 1, meets a programming failure (R146): it stops the
operation with PGM_FAIL, and what is not started is not programmed. With k = 0 none fails. The count left, or none after
a failure. -/
def blowRun : State → Nat → List (Nat × Word) → State × Option Nat
  | s, k, [] => (s, some k)
  | s, k, (w, b) :: t =>
    if k = 1 then (onFus (pulseCell s w b) fun f => { f with pgmFail := true }, none)
    else blowRun (blowCopy s w b) (k - 1) t

/-- Bytes as words to blow from copy A at a on. -/
def bytesWords (a : Nat) (b : Bytes) : List (Nat × Word) :=
  (List.range (b.length / 4)).map fun j => (a + j, wordOf (leAt b (4 * j) 4))

end Sys2Proof.Machine
end

