-- ==== Sys2Proof/Machine/Snuffer.lean ====
section
/-! DEFINITION. The Snuffer: what one Snuff clears, records and ends, and the end of a retirement
(17 R413 to R417; 01 R36; 10 R261). -/
namespace Sys2Proof.Machine

/-- SNF_STAT (17, Registers). -/
def snfStat (x : Snf) : Nat :=
  b2n x.flag * 2 ^ 31 + x.cause * 2 ^ 28 + x.source * 2 ^ 24 + b2n x.vigil * 2 ^ 17 + b2n x.late * 2 ^ 16
    + b2n x.vlow * 2 ^ 15 + x.vfail.toNat

/-- A taken or staged descriptor of a ring ended with TAMPER (R36); a retirement's own descriptor waits for its end. -/
def ringTamper (s : State) (k : Nat) : State :=
  let keep := fun (x : Staged) => s.hif.waits.any fun w => w.key = k && w.slot = x.slot &&
    (match w.tag with
     | .retire _ => true
     | _ => false)
  let r := getRing s k
  if r.cls = 0 then s
  else
    let run := r.running.filter fun x => !keep x
    let s := run.foldl (fun s x => endRunning s k x (cplOf x.desc x.slot 0x3F)) s
    let st := (getRing s k).staged
    let s := setRing s k { getRing s k with staged := [] }
    st.foldl (fun s x => refuseDesc s k x.slot x.desc 0x3F) s

/-- Every operation in flight ended with TAMPER (R36, 12 R311). -/
def tamperFlight (s : State) : State :=
  let s := abortTrips (abortEngines s 4) 0x3F
  let s := (List.range 128).foldl ringTamper s
  s.setHif { s.hif with
    stgOrder := []
    waits := s.hif.waits.filter fun w => match w.tag with
      | .retire _ => true
      | _ => false }

/-- Banks 0, 1 and 2 and the derivation registers of bank 6: the vault, its operations, the hot cache (R414, R417). -/
def vaultZero (v : Vlt) (vr vrchk : Bytes) : Vlt :=
  { v with
    vr := vr, vrchk := vrchk, epochs := List.replicate 16 0, exist := 0, slots := [], cache := [], zTry := []
    branches := [], seasons := [], keyOps := [], spare := [], unpin := [], assocs := [], vrOk := false }

/-- Bank 0 could not be cleared before VSNUFF fell, so its content decays to free bytes (R416, log 26). -/
def bankZero (s : State) (decays : Bool) : State :=
  if decays then
    let (f, s) := freeBytes s 48
    s.setVlt (vaultZero s.vlt (f.take 32) (f.drop 32))
  else s.setVlt (vaultZero s.vlt (List.replicate 32 0) (List.replicate 16 0))

/-- The engines of DIM come back for SNUFFED, the entropy source among them (03 R76, cell E4). -/
def snuffUngate (s : State) : State :=
  if s.mode.mode = .dim then
    onRng (s.setClk { s.clk with rootGated := false }) fun r => if r.run then r else rngStart r
  else s

/-- Custody, random state, debug and the database at a Snuff (R417, R252, R327, R83). A DIM entry and a debug switch that
wait are cancelled, each with its entry (03 R85); another pending announcement stands. DESIGN CHOICE (log 99): what the
announcement of a cancelled debug switch reads. -/
def snuffRest (s : State) : State :=
  let s := custCancelAll s 4 0xB
  let s := if s.cus.run = 3 then custStop s else s
  let s := snuffUngate (onRng s rngZero)
  let s := setDb s {}
  let s := if s.mode.dimPend.isSome then dimCancel s else s
  let s := debugCancel s
  let s := s.setMode { s.mode with dbg := .closed, port := false, testroot := false, wake := none }
  s.setVlt { s.vlt with root := rootInForce s }

/-- The result of a run latched in SNF_ (R414 to R416), in units of 10 mV; VSNUFF below 3.0 V clears VSNUFF_OK (04 R93). -/
def snuffLatch (s : State) (e : SnuffEnv) : State :=
  let vig := s.snf.vigil
  let low := e.vlow && vig
  let s := s.setMode { s.mode with vsnuffOk := s.mode.vsnuffOk && 300 ≤ e.after % 1024 }
  s.setSnf { s.snf with
    vfail := if vig then e.failing &&& 3 else e.failing
    late := 400 < e.time
    vlow := low
    time := min 0xFFFF e.time
    before := e.before % 1024, after := e.after % 1024
    decay := low && e.never &&& 3 ≠ 0 }

/-- MODE_CAUSE of SNUFFED: 0x0B by tamper, 0x0C by command (03, MODE_CAUSE). -/
def snuffCause (cause : Nat) : Nat := if cause = 1 || cause = 4 then 0x0B else 0x0C

/-- SNUFFED is entered when every bank has passed with the main supplies valid (M12), from KINDLE too (R83): its steps that
are left go on in SNUFFED (log 28). -/
def snuffedEnter (s : State) (cause : Nat) : State :=
  if !mainUp s then s else toMode (vfsOff s) .snuffed (snuffCause cause)

/-- The rest of a retirement (10 R261): the LC RET group blown, the Snuff flag cleared, the command's completion, a
device reset; a blow that fails ends it with ABORTED. -/
def retireEnd (s : State) : State :=
  match s.hif.waits.find? fun w => match w.tag with
      | .retire _ => true
      | _ => false with
  | none => s
  | some w => match w.tag with
    | .retire fail =>
      match blowRun s fail (blowCopies [(0, lcGroup 2)]) with
      | (s, none) => endWait s w fun x => { x with status := 0x21 }
      | (s, some _) => deviceReset (endWait (snuffFlagClear s) w id) 2
    | _ => s

/-- SNUFF_TRIGGER (R414 to R417): the triggered Snuff clears and verifies its banks and the device enters SNUFFED. -/
def execSnuffTrigger (e : SnuffEnv) (s : State) : Host.Outcome State Fault Refusal :=
  match s.tmp.trig with
  | none => .next s
  | some (cause, _) =>
    let s := snuffLatch s e
    let s := bankZero s (s.snf.decay && e.never.getLsbD 0)
    let s := tamperFlight s
    let s := snuffRest s
    let s := s.setTmp { s.tmp with trig := none }
    let s := logS s .snf 1 (leBytes 4 (snfStat s.snf) ++ leBytes 4 s.snf.time)
    let s := snuffedEnter s cause
    .next (if cause = 3 then retireEnd s else s)

end Sys2Proof.Machine
end

