-- ==== Sys2Proof/Machine/Voeth.lean ====
section
/-! DEFINITION. Voeth over both controllers and the mirror link (11 R275 to R285; readings in log 23). -/
namespace Sys2Proof.Machine

/-- s with the Voeth state replaced by a function of it. -/
def onVoe (s : State) (f : Voe → Voe) : State := s.setVoe (f s.voe)

/-- The key of a peer. -/
def peerKey (ch node : Nat) : Nat := 256 * ch + node

/-- The state towards a node. -/
def getPeer (s : State) (ch node : Nat) : Peer := tget {} s.voe.peers (peerKey ch node)

/-- s with a peer replaced. -/
def setPeer (s : State) (ch node : Nat) (p : Peer) : State :=
  onVoe s fun v => { v with peers := tput {} v.peers (peerKey ch node) p }

/-- The key of a system slot for the mirror (R282): AES-256, owner 0, this usage, current and LIVE under the root in
force. -/
def mirrorKey (s : State) (usage : Nat) : Option Bytes :=
  match (usedSlots s).find? fun p => p.2.owner = 0 && p.2.alg = 2 && p.2.usage = usage && p.2.state = 1
      && p.2.role = 0 && p.2.root = s.vlt.root with
  | some (n, x) => slotMat s n x
  | none => none

/-- Both mirror keys are installed (R282). -/
def mirrorUp (s : State) : Bool := (mirrorKey s 4).isSome && (mirrorKey s 5).isSome

/-- SESSION (R282): the NONCE of node 0x01 followed by that of node 0x02. -/
def session (s : State) : Bytes :=
  let p := getPeer s 1 (twinNode s)
  if ownNode s 1 = 1 then slice p.ownNonce 0 8 ++ slice p.peerNonce 0 8
  else slice p.peerNonce 0 8 ++ slice p.ownNonce 0 8

/-- The tag of a mirror frame (R282) over SESSION, the identifier and what stands before the tag. -/
def mirrorTag (key sess : Bytes) (id : Nat) (d : Bytes) : Bytes := cmac key (sess ++ leBytes 4 id ++ d)

/-- The data field of a mirror DATA frame: header and payload, padded so that the tag ends a field of DLC length. -/
def mirrorData (key sess : Bytes) (id : Nat) (d : Bytes) : Bytes :=
  let b := slice d 0 (dlcLen (dlcFor (d.length + 16)) - 16)
  b ++ mirrorTag key sess id b

/-- The link idles (R282): on the mirror link while a key is missing. -/
def linkIdle (s : State) (ch : Nat) : Bool := ch = 1 && !mirrorUp s

/-- An ACK with NEXT = EXP (R279). -/
def sendAck (s : State) (ch node : Nat) : State :=
  if linkIdle s ch then s
  else sendFrame s ch (voeFrame (voeId 1 1 node (ownNode s ch)) (leBytes 2 (getPeer s ch node).exp ++ [0, 0]))

/-- Proposals that end without an answer complete with NO_ACK (R284). -/
def proposalsFail (s : State) : State :=
  let l := s.voe.proposals
  l.foldl (fun s p => endWaits s (.mirror p.assoc) fun c => { c with status := 0x14 }) (onVoe s fun v => { v with proposals := [] })

/-- A session, or the start of one, ends (R280): partial messages are discarded, unacknowledged and waiting ones fail; on the
mirror link the alignment goes with it (R283, R284). -/
def sessionEnd (s : State) (ch node : Nat) : State :=
  let p := getPeer s ch node
  let s := setPeer s ch node { p with
    isOpen := false, ownAcked := false, gotHello := false, ownNonce := [], unacked := [], queue := [], part := none
    rounds := 0, rto := 0, ackDue := false }
  if ch = 1 then proposalsFail (onVoe s fun v => { v with aligned := false, offset := 0 }) else s

/-- A HELLO to a node, or to 0xFF on CAN0 (R280, R282). One that finds no random output, no mirror keys or the cores gated
waits, and is tried again at each tick edge. -/
def sendHello (s : State) (ch node : Nat) : State :=
  let p := getPeer s ch node
  if !voeRuns s ch || linkIdle s ch then setPeer s ch node { p with helloDue := true }
  else match rngInternal s 8 with
    | .inl _ => setPeer s ch node { p with helloDue := true }
    | .inr (nonce, s) =>
      let id := voeId 1 2 node (ownNode s ch)
      let b := leBytes 2 p.nextSeq ++ [0, 0] ++ nonce ++ List.replicate 36 0
      let tail := if ch = 1 then mirrorTag ((mirrorKey s 4).getD []) (List.replicate 16 0) id b else List.replicate 16 0
      let s := setPeer s ch node { p with helloDue := false, ownAcked := false, ownNonce := nonce, ownStart := p.nextSeq }
      sendFrame s ch (voeFrame id (b ++ tail))

/-- The header of a mirror message after SEQ, and its payload (R276, R282). -/
def mirrorMsg (typ : Nat) (pay : Bytes) : Bytes := leBytes 1 typ ++ [0] ++ leBytes 2 0 ++ leBytes 2 1 ++ pay

/-- A queued message may leave: an ALIGN always, any other once both ALIGNs of the session have gone ahead, since the twin
judges proposals and schedules when it is aligned (R283 to R285; log 23). -/
def mayLeave (s : State) (m : Bytes) : Bool := byteAt m 0 = 0x20 || 2 ≤ s.voe.alignSent

/-- Queued messages put into frames while the credit window allows (R277): the mirror link carries one frame each, tagged
with the key that both twins hold (R282). -/
def flushPeer (s : State) (node : Nat) : Nat → State
  | 0 => s
  | n + 1 =>
    let p := getPeer s 1 node
    match p.queue with
    | [] => s
    | m :: t =>
      if 8 ≤ p.unacked.length || !p.isOpen || !mirrorUp s || !mayLeave s m then s
      else
        let id := voeId 2 0 node (ownNode s 1)
        let d := mirrorData ((mirrorKey s 4).getD []) (session s) id (leBytes 2 p.nextSeq ++ m)
        let s := setPeer s 1 node { p with
          queue := t, unacked := p.unacked ++ [(p.nextSeq, d)], nextSeq := (p.nextSeq + 1) % 65536
          rto := if p.unacked.isEmpty then 0 else p.rto }
        flushPeer (sendFrame s 1 (voeFrame id d)) node n

/-- A message put into the twin's queue by f, and what may leave sent. -/
def mirrorQueue (s : State) (f : List Bytes → List Bytes) : State :=
  let node := twinNode s
  let p := getPeer s 1 node
  flushPeer (setPeer s 1 node { p with queue := f p.queue }) node (p.queue.length + 1)

/-- A mirror message to the twin (R276, R282). -/
def mirrorSend (s : State) (typ : Nat) (pay : Bytes) : State :=
  if !(getPeer s 1 (twinNode s)).isOpen || !voeRuns s 1 then s
  else mirrorQueue s fun q => q ++ [mirrorMsg typ pay]

/-- ALIGN (R283), ahead of what waits: the PERIOD code and the stamp of the own previous ALIGN, 0 in the first. -/
def sendAlign (s : State) : State :=
  let t := s.voe.ownAlign.getD {}
  let s := onVoe s fun v => { v with alignSent := v.alignSent + 1, alignAge := 0 }
  let m := mirrorMsg 0x20 (leBytes 1 s.glb.period ++ [0, 0, 0] ++ leBytes 4 t.tick.toNat ++ leBytes 2 t.count)
  if !(getPeer s 1 (twinNode s)).isOpen || !voeRuns s 1 then s else mirrorQueue s fun q => m :: q

/-- The next key of an association: its slot, header, and KCV. -/
def nextKey (s : State) (a : Nat) : Option (Nat × Slot × Bytes) :=
  match (assocSlots s a).find? fun p => p.2.state = 1 && p.2.role = 1 with
  | some (n, x) => some (n, x, kcvOf x.alg ((slotMat s n x).getD []))
  | none => none

/-- The payload of SEASON_PROPOSE and SEASON_STATE (R282). -/
def seasonMsg (a sn : Nat) (kcv : Bytes) (x : Word) (ovlen : Nat) : Bytes :=
  leBytes 2 a ++ leBytes 2 sn ++ slice kcv 0 3 ++ [0] ++ leBytes 4 x.toNat ++ leBytes 2 ovlen

/-- The association is mirrored (R284). -/
def isMirrored (s : State) (a : Nat) : Bool := match getAssoc s a with
  | some x => x.mirror
  | none => false

/-- SEASON_STATE for every mirrored association that holds a schedule (R285). -/
def sendStates (s : State) : State :=
  s.vlt.seasons.foldl (fun s x =>
    if isMirrored s x.assoc then
      match nextKey s x.assoc with
      | some (_, k, kcv) => mirrorSend s 0x24 (seasonMsg x.assoc k.sn kcv x.x x.ovlen)
      | none => s
    else s) s

/-- A session opens (R280): on the mirror link the first ALIGN, which the second and SEASON_STATE follow (R283, R285); on CAN0
one ALARM for each flag found at K8 (17 R424). -/
def sessionOpen (s : State) (ch node : Nat) : State :=
  let s := setPeer s ch node { getPeer s ch node with isOpen := true, lost := false, rounds := 0, rto := 0 }
  if ch = 1 then
    sendAlign (onVoe s fun v => { v with aligned := false, ownAlign := none, peerAlign := none, alignSent := 0 })
  else
    let k8 := s.voe.k8
    let s := onVoe s fun v => { v with k8 := 0 }
    (bitsOf 13 k8.toNat).foldl (fun s k => sendAlarm s k (now s)) s

/-- The session is open once both HELLOs have crossed (R280). -/
def openCheck (s : State) (ch node : Nat) : State :=
  let p := getPeer s ch node
  if p.gotHello && p.ownAcked && !p.isOpen then sessionOpen s ch node else s

/-- The peer is LOST (R277): its session ends and what was being sent to it fails. -/
def peerLost (s : State) (ch node : Nat) : State :=
  let s := sessionEnd s ch node
  setPeer s ch node { getPeer s ch node with lost := true }

/-- VOE_RTO in ticks (R277): 5 ms rounded up. -/
def rtoTicks (s : State) : Nat := (5000 + tickMicros s - 1) / tickMicros s

/-- Every unacknowledged frame sent again, oldest first (R277). -/
def resend (s : State) (ch node : Nat) : State :=
  (getPeer s ch node).unacked.foldl (fun s u => sendFrame s ch (voeFrame (voeId 2 0 node (ownNode s ch)) u.2)) s

/-- VOE_RTO (R277): no progress within the time-out; after 5 rounds the peer is LOST. -/
def execVoeRto (ch : Nat) (node : Byte) (s : State) : Host.Outcome State Fault Refusal :=
  let n := node.toNat
  let p := getPeer s ch n
  if !voeRuns s ch || linkIdle s ch || !p.isOpen || p.unacked.isEmpty || p.rto < rtoTicks s then .next s
  else if 5 ≤ p.rounds then .next (peerLost s ch n)
  else .next (resend (setPeer s ch n { p with rounds := p.rounds + 1, rto := 0 }) ch n)

/-- HELLO_TIMER (R280): every 2^12 ticks a HELLO to each LOST peer of the channel. -/
def execHelloTimer (ch : Nat) (s : State) : Host.Outcome State Fault Refusal :=
  if !voeRuns s ch || s.voe.helloAge.getD ch 0 < 4096 then .next s
  else
    let s := onVoe s fun v => { v with helloAge := v.helloAge.set ch 0 }
    .next ((List.range 256).foldl (fun s n => if (getPeer s ch n).lost then sendHello s ch n else s) s)

/-- ALIGN_TIMER (R283): every 2^14 ticks. -/
def execAlignTimer (s : State) : Host.Outcome State Fault Refusal :=
  if voeRuns s 1 && (getPeer s 1 (twinNode s)).isOpen && 2 ^ 14 ≤ s.voe.alignAge then .next (sendAlign s) else .next s

/-! ### Received frames -/

/-- A node that may be a peer on the channel (R275). -/
def peerOk (s : State) (ch src : Nat) : Bool :=
  if ch = 0 then 0x20 ≤ src && src ≤ 0x3F else src = twinNode s

/-- The frame is for Voeth at this node (R275): KIND, PRI, DST and sender. -/
def voeFor (s : State) (ch : Nat) (f : CanFrame) : Bool :=
  idKind f.id < 3 && idPri f.id < 5 && (idDst f.id = ownNode s ch || idDst f.id = 0xFF) && peerOk s ch (idSrc f.id)

/-- The FIFO without the frames at its head that Voeth discards (R275). -/
def voeTrim (s : State) (ch : Nat) : State :=
  let c := getCan s ch
  setCan s ch { c with fifo := c.fifo.dropWhile fun e => !voeFor s ch e.frame }

/-- The next frame for Voeth when it is of this KIND, and the state after those that it discards, and this one, are taken
from the FIFO. -/
def voeTake (s : State) (ch kind : Nat) : Option RxEnt × State :=
  if !voeRuns s ch then (none, s)
  else
    let s := voeTrim s ch
    let c := getCan s ch
    match c.fifo with
    | e :: t => if idKind e.frame.id = kind then (some e, canIrq (setCan s ch { c with fifo := t }) ch) else (none, canIrq s ch)
    | [] => (none, canIrq s ch)

/-- A frame discarded, counted and logged (R278, R282). -/
def voeBad (s : State) (ch : Nat) (tag : Bool) : State :=
  logOther (onVoe s fun v => if tag then { v with tagFail := satInc 0xFFFF v.tagFail }
    else { v with seqFail := satInc 0xFFFF v.seqFail }) (canBlk ch) []

/-- The tag of a received mirror frame holds (R282). -/
def tagOk (s : State) (sess : Bytes) (f : CanFrame) : Bool :=
  match mirrorKey s 5 with
  | some k => let n := f.data.length - 16
              16 ≤ f.data.length && mirrorTag k sess f.id (f.data.take n) = f.data.drop n
  | none => false

/-- A fragment accepted in order (R276): the message it completes, if any, and the partial message after it. -/
def assemble (part : Option (Nat × Nat × Nat × Bytes)) (typ frag nfrag : Nat) (pay : Bytes) :
    Option (Nat × Bytes) × Option (Nat × Nat × Nat × Bytes) :=
  if nfrag = 0 ∨ 128 < nfrag ∨ nfrag ≤ frag then (none, none)
  else
    let start := if frag = 0 then some pay else match part with
      | some (t, k, n, b) => if t = typ && k = frag && n = nfrag then some (b ++ pay) else none
      | none => none
    match start with
    | none => (none, none)
    | some b => if frag + 1 = nfrag then (some (typ, b), none) else (none, some (typ, frag + 1, nfrag, b))

/-- A DATA frame in order (R278): EXP advances, an ACK is due, the message goes to its handler's inbox. -/
def dataAccept (s : State) (ch src : Nat) (e : RxEnt) : State :=
  let d := e.frame.data
  let p := getPeer s ch src
  let pay := if ch = 1 then (d.drop 8).take (d.length - 24) else d.drop 8
  let r := assemble p.part (byteAt d 2) (leAt d 4 2) (leAt d 6 2) pay
  let s := setPeer s ch src { p with exp := (p.exp + 1) % 65536, ackDue := true, part := r.2 }
  match r.1 with
  | some (typ, b) => onVoe s fun v => { v with inbox := v.inbox ++ [⟨ch, src, typ, b, e.stamp⟩] }
  | none => s

/-- VOETH_DATA (R278, R282): accepted in order, acknowledged again, discarded with an ACK, or discarded and counted.
A broadcast DATA frame carries nothing for this device. -/
def execVoethData (ch : Nat) (s : State) : Host.Outcome State Fault Refusal :=
  match voeTake s ch 0 with
  | (none, s) => .next s
  | (some e, s) =>
    let src := idSrc e.frame.id
    let p := getPeer s ch src
    if idDst e.frame.id = 0xFF then .next s
    else if ch = 1 && !tagOk s (session s) e.frame then .next (voeBad s ch true)
    else if !p.gotHello then .next (voeBad s ch false)
    else
      let k := (leAt e.frame.data 0 2 + 65536 - p.exp) % 65536
      if k = 0 then .next (dataAccept s ch src e)
      else if 65504 ≤ k ∨ k ≤ 7 then .next (setPeer s ch src { p with ackDue := true })
      else .next (voeBad s ch false)

/-- An ACK of the own HELLO (R280). On CAN0 the HELLO goes to 0xFF, so a terminal's first ACK is set against it. -/
def ackHello (s : State) (ch src next : Nat) : State :=
  let p := getPeer s ch src
  let b := getPeer s ch 0xFF
  if !p.ownAcked && !p.ownNonce.isEmpty && next = p.ownStart then
    openCheck (setPeer s ch src { p with ownAcked := true }) ch src
  else if ch = 0 && !p.ownAcked && p.ownNonce.isEmpty && !b.ownNonce.isEmpty && next = b.ownStart then
    openCheck (setPeer s ch src { p with ownAcked := true, ownNonce := b.ownNonce, ownStart := b.ownStart }) ch src
  else s

/-- VOETH_ACK (R279): every unacknowledged frame before NEXT is released; progress restarts the time-out. -/
def execVoethAck (ch : Nat) (s : State) : Host.Outcome State Fault Refusal :=
  match voeTake s ch 1 with
  | (none, s) => .next s
  | (some e, s) =>
    let src := idSrc e.frame.id
    let next := leAt e.frame.data 0 2
    let s := ackHello s ch src next
    let p := getPeer s ch src
    let rest := p.unacked.filter fun u => (next + 65536 - u.1) % 65536 = 0 || 32768 ≤ (next + 65536 - u.1) % 65536
    if rest.length < p.unacked.length then
      .next (flushPeer (setPeer s ch src { p with unacked := rest, rounds := 0, rto := 0 }) src (p.queue.length))
    else .next s

/-- HELLO (R280, R282): it ends the session that was open; EXP = START, an ACK, and an own HELLO when a session was open or
none has been sent. -/
def execHello (ch : Nat) (s : State) : Host.Outcome State Fault Refusal :=
  match voeTake s ch 2 with
  | (none, s) => .next s
  | (some e, s) =>
    let src := idSrc e.frame.id
    if ch = 1 && !tagOk s (List.replicate 16 0) e.frame then .next (voeBad s ch true)
    else
      let p := getPeer s ch src
      let again := p.isOpen || p.lost || (p.ownNonce.isEmpty && (ch = 1 || (getPeer s 0 0xFF).ownNonce.isEmpty))
      let s := if p.isOpen then sessionEnd s ch src else s
      let s := setPeer s ch src { getPeer s ch src with
        gotHello := true, lost := false, exp := leAt e.frame.data 0 2, peerNonce := slice e.frame.data 4 8, part := none }
      let s := sendAck s ch src
      let s := if again then sendHello s ch src else s
      .next (openCheck s ch src)

/-! ### Mirror messages -/

/-- The first message of this channel and TYPE, and the state without it. -/
def inboxTake (s : State) (ch typ : Nat) : Option (Msg × State) :=
  if !voeRuns s ch then none
  else match s.voe.inbox.find? fun m => m.ch = ch && m.typ = typ with
    | some m => some (m, onVoe s fun v => { v with inbox := v.inbox.erase m })
    | none => none

/-- A signed difference of ticks. -/
def tickDiff (a b : Word) : Int := (a - b).toInt

/-- Nearest whole number of i / n. -/
def nearest (i : Int) (n : Nat) : Int := (2 * i + n).fdiv (2 * n)

/-- ALIGN (R283): offset and alignment from the sender's previous ALIGN. -/
def execAlign (s : State) : Host.Outcome State Fault Refusal :=
  match inboxTake s 1 0x20 with
  | none => .next s
  | some (m, s) =>
    let prev := s.voe.peerAlign
    let s := onVoe s fun v => { v with peerAlign := some m.stamp }
    let pt := wordOf (leAt m.pay 4 4)
    let pc := leAt m.pay 8 2
    match prev with
    | none => .next s
    | some rx =>
      if pt = 0 ∧ pc = 0 then .next s
      else
        let n := ticksN s
        let delta : Int := tickDiff pt rx.tick * n + ((pc : Int) - rx.count)
        let d := nearest delta n
        let ok := byteAt m.pay 0 = s.glb.period && (delta - d * n).natAbs ≤ 250
        .next (onVoe s fun v => { v with aligned := ok, offset := if ok then d else v.offset })

/-- A tick of the twin in the own numbering (R283). -/
def fromTwin (s : State) (x : Word) : Word := x - BitVec.ofInt 32 s.voe.offset

/-- The checks of R284 on a proposal, in their order. -/
def proposeCheck (s : State) (a sn : Nat) (kcv : Bytes) (x : Word) (ovlen : Nat) : Nat :=
  if !s.voe.aligned then 5
  else if !isMirrored s a then 1
  else match nextKey s a with
    | none => 2
    | some (_, k, c) =>
      if k.sn ≠ sn || c ≠ kcv then 2
      else if (seasonOf s a).isSome || (assocSlots s a).any (fun p => p.2.state = 1 && p.2.role = 2) then 4
      else if !leadOkTick s (fromTwin s x - wordOf ovlen) then 3
      else 0
where
  /-- At least 2 ticks in the future. -/
  leadOkTick (s : State) (t : Word) : Bool := 2 ≤ (t - s.glb.tick).toNat && (t - s.glb.tick).toNat < 2 ^ 31

/-- A schedule set (R231). -/
def seasonSet (s : State) (a : Nat) (x : Word) (ovlen : Nat) : State :=
  s.setVlt { s.vlt with seasons := s.vlt.seasons ++ [{ assoc := a, x := x, ovlen := ovlen }] }

/-- The schedule of an association removed. -/
def seasonDrop (s : State) (a : Nat) : State :=
  s.setVlt { s.vlt with seasons := s.vlt.seasons.filter (·.assoc ≠ a) }

/-- SEASON_ANSWER (R282). -/
def sendAnswer (s : State) (a sn res : Nat) : State := mirrorSend s 0x22 (leBytes 2 a ++ leBytes 2 sn ++ leBytes 1 res)

/-- SEASON_PROPOSE (R284): checked and answered; on agreement the own schedule is set. -/
def execSeasonPropose (s : State) : Host.Outcome State Fault Refusal :=
  match inboxTake s 1 0x21 with
  | none => .next s
  | some (m, s) =>
    let a := leAt m.pay 0 2 % 4096
    let sn := leAt m.pay 2 2
    let x := wordOf (leAt m.pay 8 4)
    let ov := leAt m.pay 12 2
    let r := proposeCheck s a sn (slice m.pay 4 3) x ov
    let s := if r = 0 then seasonSet s a (fromTwin s x) ov else s
    .next (sendAnswer s a sn r)

/-- SEASON_ANSWER (R284): the proposer's schedule is set, or removed by a cancel, and the command completes; any other
RESULT completes it with DENIED. -/
def execSeasonAnswer (s : State) : Host.Outcome State Fault Refusal :=
  match inboxTake s 1 0x22 with
  | none => .next s
  | some (m, s) =>
    let a := leAt m.pay 0 2 % 4096
    let r := byteAt m.pay 4
    match s.voe.proposals.find? fun p => p.assoc = a && p.sn = leAt m.pay 2 2 with
    | none => .next s
    | some p =>
      let s := onVoe s fun v => { v with proposals := v.proposals.erase p }
      if r ≠ 0 then .next (endWaits s (.mirror a) fun c => { c with status := 0x10, detail := BitVec.ofNat 16 r })
      else
        let s := if p.cancel then seasonDrop s a else seasonSet s a p.x p.ovlen
        .next (endWaits s (.mirror a) fun c => if p.cancel then c else { c with result := p.x.setWidth 64 })

/-- MIRROR_SEASON_CANCEL (R284): before X − OVLEN the schedule goes on this twin too, and the sender is answered. -/
def execMirrorSeasonCancel (s : State) : Host.Outcome State Fault Refusal :=
  match inboxTake s 1 0x23 with
  | none => .next s
  | some (m, s) =>
    let a := leAt m.pay 0 2 % 4096
    let sn := leAt m.pay 2 2
    if !isMirrored s a then .next (sendAnswer s a sn 1)
    else match seasonOf s a with
      | some x => if x.opened || tickReached (seasonOpenAt x) s.glb.tick then .next (sendAnswer s a sn 3)
          else .next (sendAnswer (seasonDrop s a) a sn 0)
      | none => .next (sendAnswer s a sn 0)

/-- SEASON_STATE (R285): adopted as a schedule, or a difference logged. Unaligned, X cannot be compared. -/
def execSeasonState (s : State) : Host.Outcome State Fault Refusal :=
  match inboxTake s 1 0x24 with
  | none => .next s
  | some (m, s) =>
    let a := leAt m.pay 0 2 % 4096
    let x := fromTwin s (wordOf (leAt m.pay 8 4))
    let ov := leAt m.pay 12 2
    match seasonOf s a with
    | some y => .next (if y.ovlen ≠ ov || (s.voe.aligned && y.x ≠ x) then logOther s .vlt (leBytes 8 a) else s)
    | none =>
      let same := match nextKey s a with
        | some (_, k, c) => k.sn = leAt m.pay 2 2 && c = slice m.pay 4 3
        | none => false
      if s.voe.aligned && isMirrored s a && same && tickFuture x s.glb.tick then
        let s := seasonSet s a x ov
        let s := if tickReached (x - wordOf ov) s.glb.tick then
            setSeason s { assoc := a, x := x, ovlen := ov, opened := true } else s
        .next (logOther s .vlt (leBytes 8 a))
      else .next s

/-! ### Ends of transmission -/

/-- A Voeth frame was sent: the second ALIGN of a session follows the first, and SEASON_STATE with what waits follows it (R283,
R285); the last fragment of a REQUEST
acknowledged completes its command (10 R246). -/
def voeSent (s : State) (ch : Nat) (b : TxBuf) : State :=
  let f := b.frame
  let typ := byteAt f.data 2
  if idKind f.id ≠ 0 then s
  else if ch = 1 && typ = 0x20 then
    let s := onVoe s fun v => { v with ownAlign := some b.stamp }
    if s.voe.alignSent = 1 then sendStates (sendAlign s) else s
  else if ch = 0 && typ = 0x10 && leAt f.data 4 2 + 1 = leAt f.data 6 2 then
    endWaits s .request fun c => { c with
      result := BitVec.ofNat 64 ((reqNoOf s).toNat + 2 ^ 32 * (reqExpires s).toNat) }
  else s

/-- A frame aborted with NO_ACK (R246, R277): REQUEST cancels the open request; a unicast frame makes its peer LOST. -/
def voeNoAck (s : State) (ch : Nat) (f : CanFrame) : State :=
  if ch = 0 && idKind f.id = 0 && idDst f.id = 0xFF then
    (if byteAt f.data 2 = 0x10 then
      reqClose (latchClear (runStop (endWaits s .request fun c => { c with status := 0x14 }) 0xA)) 4 0x14
     else s)
  else peerLost s ch (idDst f.id)

end Sys2Proof.Machine
end

