-- ==== Sys2Proof/Machine/CmdKeys.lean ====
section
/-! DEFINITION. The key-management family and the commands that make a key from another (15 R374 to R378, R372, R376;
09 R220, R227 to R231, R235). -/
namespace Sys2Proof.Machine

/-- A key specification (R374). -/
structure KeySpec where
  assoc : Nat
  alg : Nat
  usage : Nat
  kflags : Nat
  role : Nat
  expSn : Nat
  kcv : Bytes

/-- The specification in OPND bytes 0 to 11. -/
def specOf (d : Bytes) : KeySpec :=
  { assoc := dOpndN d 0 2 % 4096, alg := dOpnd d 2, usage := dOpnd d 3, kflags := dOpnd d 4, role := dOpnd d 5
    expSn := dOpndN d 6 2, kcv := leBytes 3 (dOpndN d 8 3) }

/-- The specification is within the limits of R374 and the table of 09 R218. -/
def specOk (d : Bytes) : Bool :=
  let k := specOf d
  dOpndN d 0 2 < 4096 && k.alg ≤ 9 && k.usage ≤ 7 && algUsage k.alg k.usage && k.kflags < 8 && k.role ≤ 2
    && (k.role = 0 || k.kflags / 2 % 2 = 0) && (k.role ≠ 0 || k.expSn = 0xFFFF) && dOpnd d 11 = 0

/-- An association number in OPND bytes 0 and 1 (R374: bits 15 to 12 are 0). -/
def assocOk (d : Bytes) : Bool := dOpndN d 0 2 < 4096

/-- SN of the current key of an association, 0xFFFF when there is none (R374). -/
def currentSn (s : State) (a : Nat) : Nat := match roleSlot s a 0 with
  | some p => p.2.sn
  | none => 0xFFFF

/-- DENIED with the current SN in RESULT bytes 0 and 1 (R374). -/
def Ans.precond (s : State) (a : Nat) : Ans := { st := s, status := 0x10, result := BitVec.ofNat 64 (currentSn s a) }

/-- Some slot belongs to the association, in whatever state. -/
def assocHolds (s : State) (a : Nat) : Bool := (usedSlots s).any fun p => p.2.assoc = a

/-- The association has a next, a retiring or a PENDING key. -/
def assocBusy (s : State) (a : Nat) : Bool :=
  (assocSlots s a).any fun p => p.2.state = 2 || p.2.role = 1 || p.2.role = 2

/-- The preconditions of a specification (R374). -/
def specPre (s : State) (fn : Nat) (k : KeySpec) : Bool :=
  let own := match getAssoc s k.assoc with
    | some x => x.owner = fn
    | none => k.role = 0
  if k.role = 0 then own && !assocHolds s k.assoc
  else own && (roleSlot s k.assoc 0).isSome && currentSn s k.assoc = k.expSn && !assocBusy s k.assoc

/-- ROLE 1 and ROLE 2 repeat the association's ALG and USAGE (R374). -/
def specAlg (s : State) (k : KeySpec) : Bool := match getAssoc s k.assoc with
  | some x => k.role = 0 || (x.alg = k.alg && x.usage = k.usage)
  | none => true

/-- The pins that the new key asks for beyond those of the association (09 R235). -/
def specPins (s : State) (k : KeySpec) : Nat :=
  let pin := k.kflags / 4 % 2 = 1
  if k.role = 2 then b2n (pin && !assocPinned s k.assoc) else b2n (pin || assocPinned s k.assoc)

/-- The checks before a new key is made: a status, or the slot it takes (R374, 09 R220, R235). -/
def newKeyCheck (s : State) (fn : Nat) (d : Bytes) : Ans ⊕ Nat :=
  let k := specOf d
  if !specOk d || !specAlg s k then .inl (.bad s)
  else if !specPre s fn k then .inl (.precond s k.assoc)
  else if !quotaOk s fn (k.role = 2) || !pinOk s fn (specPins s k) then .inl (.stop s 0x13)
  else match freeFor s fn with
    | some n => .inr n
    | none => .inl (.stop s 0x13)

/-- The new key of a pinned replacement, armed in slot n, is loaded ahead of its edge (09 R236). -/
def stageSlot (s : State) (n : Nat) : State := match s.vlt.keyOps.find? (·.slot = n) with
  | some o => stageKey s o
  | none => s

/-- A new key enters the slot state machine in slot n (09 R229): PENDING, then, unless it was generated, its KCV is
checked and it is ARMED. -/
def newKey (s : State) (fn : Nat) (d : Bytes) (n : Nat) (mat : Bytes) (generated : Bool) : Ans :=
  let k := specOf d
  let sn := if k.role = 0 then 0 else snNext k.expSn
  let kcv := kcvOf k.alg mat
  let old := if k.role = 2 then (roleSlot s k.assoc 0).map (·.1) else none
  let s := pendKey s n fn k.usage k.alg k.assoc sn (k.kflags % 2 = 1) mat
    { slot := n, assoc := k.assoc, kind := k.role, old := old, armed := !generated, kcv := kcv
      deadline := if generated then some (s.glb.tick + 4096) else none, pinned := k.kflags / 4 % 2 = 1 }
  let s := match getAssoc s k.assoc with
    | some x => if k.role = 0 then
        journalAssoc (s.setVlt { s.vlt with
          assocs := tput none s.vlt.assocs k.assoc (some { x with mirror := k.kflags / 2 % 2 = 1 }) }) k.assoc
      else s
    | none => s
  if generated then { st := s, result := resOf (leBytes 2 sn ++ kcv) }
  else if kcv = k.kcv then
    { st := stageSlot s n, wait := some (.live n) }
  else .denied (dropKey s n)

/-- KEY_GENERATE (R375, R378): drawn from the CTR_DRBG; a scalar is formed as log 12 says. -/
def keyGenerateCmd (s : State) (fn : Nat) (d : Bytes) (_io : CmdIo) : Ans :=
  let k := specOf d
  if specOk d && dOpndN d 8 3 ≠ 0 then .bad s
  else match newKeyCheck s fn d with
    | .inl a => a
    | .inr n =>
      let ec := k.alg = 5 || k.alg = 6
      if engDown s aesLanes || ((ec || k.alg = 7) && engDown s pkeEngs) then .aborted s
      else withRandom s fn d (if ec then scalarBytes k.alg else algLen k.alg) fun s b =>
        newKey s fn d n (if ec then beBytes (coordLen k.alg) (Config.scalarFrom k.alg b) else b) true

/-- Length of an RFC 5649 blob of n bytes. -/
def blobLen (n : Nat) : Nat := 8 + 8 * ((n + 7) / 8)

/-- KEY_IMPORT (R375): an unwrap that fails, or gives another length, completes with DENIED (log 42). -/
def keyImportCmd (s : State) (fn : Nat) (d : Bytes) (io : CmdIo) : Ans :=
  let len := algLen (specOf d).alg
  if specOk d && dLen d ≠ blobLen len then .bad s
  else match newKeyCheck s fn d with
    | .inl a => a
    | .inr n =>
      if engDown s aesLanes then .aborted s
      else withKey s fn d 2 algAes fun s _ key =>
        match kwpUnwrap key (inOf d io) with
        | some m => if m.length = len then newKey s fn d n m false else .denied s
        | none => .denied s

/-- KEY_DERIVE (R375, 09 R216a): a child key. -/
def keyDeriveCmd (s : State) (fn : Nat) (d : Bytes) (io : CmdIo) : Ans :=
  let k := specOf d
  if 64 < dAuxLen d then .bad s
  else match newKeyCheck s fn d with
    | .inl a => a
    | .inr n =>
      if engDown s aesLanes || engDown s [4] then .aborted s
      else withKey s fn d 3 (· = 9) fun s _ key =>
        let c := auxOf d io
        newKey s fn d n
          (kdf key (ascii "STOLTO-CHILD") (leBytes 1 k.alg ++ leBytes 1 k.usage ++ leBytes 1 c.length ++ c) (algLen k.alg))
          false

/-- ECDH_DERIVE (R372): Z, then the key by the method of 09 R216a; an invalid peer point completes with BAD_DESC. -/
def ecdhCmd (s : State) (fn : Nat) (d : Bytes) (io : CmdIo) : Ans :=
  match newKeyCheck s fn d with
  | .inl a => a
  | .inr n => keyed s fn d (dAuxLen d = 65 || dAuxLen d = 97) pkeEngs 7 (fun a => a = 5 || a = 6) fun s x key =>
      if dAuxLen d ≠ 2 * coordLen x.alg + 1 then .bad s
      else match ecdhZ (curveOf x.alg) (beNat key) (auxOf d io) with
        | none => .bad s
        | some z =>
          newKey s fn d n (kdf z (ascii "STOLTO-ECDH") (leBytes 8 (dOpndN d 12 8)) (algLen (specOf d).alg)) false

/-- The association that a command names, for its owner (R363, 09 R226): NO_KEY when it does not exist, DENIED when it is
another owner's. -/
def withAssoc (s : State) (fn : Nat) (d : Bytes) (f : Nat → Assoc → Ans) : Ans :=
  let a := dOpndN d 0 2
  if !assocOk d then .bad s
  else match getAssoc s a with
    | none => .noKey s
    | some x => if x.owner ≠ fn then .denied s else f a x

/-- A slot zeroized by command: a pending operation on it ends, none names it as its old slot, and a next key takes its
schedule with it before X − OVLEN, as a retiring key does, with which the season is over (log 43). -/
def zeroizeCmd (s : State) (p : Nat × Slot) : State :=
  let s := dropKey s p.1
  let s := s.setVlt { s.vlt with
    keyOps := s.vlt.keyOps.map fun (o : KeyOp) => if o.old = some p.1 then { o with old := none } else o }
  if p.2.role = 1 || p.2.role = 2 then seasonDrop s p.2.assoc else s

/-- KEY_ZEROIZE (R375): one season number, or 0xFFFF for all. -/
def keyZeroizeCmd (s : State) (fn : Nat) (d : Bytes) (_io : CmdIo) : Ans :=
  withAssoc s fn d fun a _ =>
    let sn := dOpndN d 6 2
    match (assocSlots s a).filter fun p => sn = 0xFFFF || p.2.sn = sn with
    | [] => .noKey s
    | l => { st := l.foldl zeroizeCmd s, wait := some (.zeroed a) }

/-- ASSOC_SET (R375, R377): ABORTED, and no change, when its journaling fails (16 R397). -/
def assocSetCmd (s : State) (fn : Nat) (d : Bytes) (io : CmdIo) : Ans :=
  if assocOk d && !(dOpnd d 4 = 0 || dOpnd d 4 = 2) then .bad s
  else withAssoc s fn d fun a x =>
    match journalAssocIo (s.setVlt { s.vlt with
        assocs := tput none s.vlt.assocs a (some { x with mirror := dOpnd d 4 = 2 }) }) a io.fail with
    | (t, 2) => .aborted (t.setVlt s.vlt)
    | (t, _) => { st := t }

/-- KEY_COMMIT (R375, R378, 09 R229): the KCV decides between ARMED and zeroization. -/
def keyCommitCmd (s : State) (fn : Nat) (d : Bytes) (_io : CmdIo) : Ans :=
  withAssoc s fn d fun a _ =>
    match s.vlt.keyOps.find? fun o => o.assoc = a && !o.armed && (getSlot s o.slot).sn = dOpndN d 6 2 with
    | none => .noKey s
    | some o =>
      let late := match o.deadline with
        | some t => tickReached t s.glb.tick
        | none => false
      if late then .noKey s
      else if o.kcv ≠ leBytes 3 (dOpndN d 8 3) then .denied (dropKey s o.slot)
      else
        { st := stageKey (s.setVlt { s.vlt with keyOps := s.vlt.keyOps.map fun (q : KeyOp) =>
            if q.slot = o.slot then { q with armed := true, deadline := none } else q }) o
          wait := some (.live o.slot) }

/-- The slots of an association that resolve (09 R226). -/
def liveSlots (s : State) (a : Nat) : List (Nat × Slot) :=
  (assocSlots s a).filter fun p => p.2.state = 1 && p.2.root = s.vlt.root

/-- One slot loaded and pinned, with the count of those pinned; one whose unwrap fails does not resolve, which a security entry
notes (09 R217). -/
def pinSlot (r : State × Nat) (p : Nat × Slot) : State × Nat := match slotUse r.1 p.1 p.2 with
  | .inr (_, s) => (s.setVlt { s.vlt with cache := s.vlt.cache.map fun (e : CacheEnt) =>
      if e.slot = p.1 then { e with pin := true } else e }, r.2 + 1)
  | .inl (_, s) => (s, r.2)

/-- The pins that KEY_PIN adds: slots not pinned yet, and next keys on their way that join a pinned association
(09 R235). -/
def pinsMore (s : State) (a : Nat) (l : List (Nat × Slot)) : Nat :=
  (l.filter fun p => !(s.vlt.cache.any fun e => e.slot = p.1 && e.pin)).length
    + (s.vlt.keyOps.filter fun o => o.assoc = a && o.kind ≠ 2 && pinsOf s o = 0).length

/-- KEY_PIN (09 R235): at once, or QUOTA and nothing; NO_KEY when no slot of the association resolves. -/
def keyPinCmd (s : State) (fn : Nat) (d : Bytes) (_io : CmdIo) : Ans :=
  withAssoc s fn d fun a _ =>
    let l := liveSlots s a
    if l.isEmpty then .noKey s
    else if !pinOk s fn (pinsMore s a l) then .stop s 0x13
    else
      let (t, n) := l.foldl pinSlot (s, 0)
      if n = 0 then .noKey t
      else { st := t.setVlt { t.vlt with unpin := t.vlt.unpin.filter (· ≠ a) }, result := BitVec.ofNat 64 n }

/-- KEY_UNPIN (09 R235): it takes effect at the next tick edge. -/
def keyUnpinCmd (s : State) (fn : Nat) (d : Bytes) (_io : CmdIo) : Ans :=
  withAssoc s fn d fun a _ => { st := s.setVlt { s.vlt with unpin := s.vlt.unpin.filter (· ≠ a) ++ [a] } }

/-- A tick refused (R383): the tick of the check and the earliest that would have been accepted. -/
def Ans.late (s : State) (earliest : Word) : Ans :=
  { st := s, status := 0x10, result := BitVec.ofNat 64 (s.glb.tick.toNat + 2 ^ 32 * earliest.toNat) }

/-- A season command on a mirrored association (11 R284): sent to the twin, its completion waits for the answer. Without a
session one must start, unless its HELLO is on its way, and that HELLO draws a nonce (R375). -/
def mirrorAsk (s : State) (p : Proposal) (typ : Nat) (pay : Bytes) : Ans :=
  let node := twinNode s
  let peer := getPeer s 1 node
  if !mirrorUp s || peer.lost || s.can1.alone then .stop s 0x14
  else
    let start := !peer.isOpen && peer.ownNonce.isEmpty
    if start && !rngReady s.rng then .notReady s (rngWait s (rngRemain s.rng))
    else
      let s := if start then sendHello s 1 node else s
      let s := onVoe s fun v => { v with proposals := v.proposals ++ [p] }
      { st := mirrorQueue s fun q => q ++ [mirrorMsg typ pay], wait := some (.mirror p.assoc) }

/-- SEASON_SCHEDULE (R375, R383, 09 R231). -/
def seasonScheduleCmd (s : State) (fn : Nat) (d : Bytes) (_io : CmdIo) : Ans :=
  withAssoc s fn d fun a x =>
    let sn := dOpndN d 6 2
    let t := wordOf (dOpndN d 12 4)
    let ov := dOpndN d 16 2
    match nextKey s a with
    | none => .precond s a
    | some (_, k, kcv) =>
      if k.sn ≠ sn || (seasonOf s a).isSome then .precond s a
      else if !tickFuture t s.glb.tick || !tickFuture (t - wordOf ov) s.glb.tick then .late s (s.glb.tick + 1 + wordOf ov)
      else if x.mirror then mirrorAsk s { assoc := a, sn := sn, x := t, ovlen := ov } 0x21 (seasonMsg a sn kcv t ov)
      else { st := seasonSet s a t ov, result := t.setWidth 64 }

/-- SEASON_CANCEL (R375, 09 R231): only before X − OVLEN. -/
def seasonCancelCmd (s : State) (fn : Nat) (d : Bytes) (_io : CmdIo) : Ans :=
  withAssoc s fn d fun a x =>
    match seasonOf s a with
    | none => .denied s
    | some y =>
      if y.opened || y.rolled || tickReached (seasonOpenAt y) s.glb.tick then .denied s
      else if x.mirror then
        let sn := match nextKey s a with
          | some (_, k, _) => k.sn
          | none => 0xFFFF
        mirrorAsk s { assoc := a, sn := sn, cancel := true } 0x23 (leBytes 2 a ++ leBytes 2 sn)
      else { st := seasonDrop s a }

/-- PHASE of an association (09, VLT_SEASON). -/
def seasonPhase (s : State) (a : Nat) : Nat :=
  if (roleSlot s a 2).isSome then 4
  else if (roleSlot s a 1).isSome then (if windowOpen s a then 3 else 2)
  else if (roleSlot s a 0).isSome then 1 else 0

/-- SN and KCV of a key of an association, 0xFFFF and 0 without one (R376). -/
def keyRec (s : State) (a role : Nat) : Bytes := match roleSlot s a role with
  | some (n, x) => leBytes 2 x.sn ++ (match slotMat s n x with
    | some m => kcvOf x.alg m
    | none => [0, 0, 0])
  | none => [0xFF, 0xFF, 0, 0, 0]

/-- EXPORT of an association's current key, or of the first it holds. -/
def assocExp (s : State) (a : Nat) : Bool := match roleSlot s a 0, assocSlots s a with
  | some p, _ => p.2.exp
  | none, p :: _ => p.2.exp
  | none, [] => false

/-- The record of KEY_INFO (R376). -/
def keyInfoRec (s : State) (a : Nat) (x : Assoc) : Bytes :=
  let (t, ov) := match seasonOf s a with
    | some y => (y.x, y.ovlen)
    | none => (0, 0)
  leBytes 2 a ++ leBytes 1 x.alg ++ leBytes 1 x.usage
    ++ leBytes 1 (b2n x.mirror + 2 * b2n (assocPinned s a) + 4 * b2n (assocExp s a)) ++ leBytes 1 (seasonPhase s a)
    ++ keyRec s a 0 ++ [0] ++ keyRec s a 1 ++ [0] ++ leBytes 4 t.toNat ++ leBytes 2 ov ++ (keyRec s a 2).take 2
    ++ List.replicate 6 0

/-- KEY_INFO (R376). -/
def keyInfoCmd (s : State) (fn : Nat) (d : Bytes) (_io : CmdIo) : Ans :=
  withAssoc s fn d fun a x => { st := s, out := keyInfoRec s a x }

/-! ### The key database -/

/-- DENIED because no page is free (16 R397). -/
def Ans.noPage (s : State) : Ans := { st := s, status := 0x10, result := 1 }

/-- The answer after a write of the database (16 R397). -/
def dbAns (r : State × Nat) : Ans := if r.2 = 0 then { st := r.1 } else if r.2 = 1 then .noPage r.1 else .aborted r.1

/-- OBJ_ID of a database command. -/
def objId (d : Bytes) : Nat := dOpndN d 12 2

/-- DB_IMPORT (R375, 09 R237, 16 R396): DENIED with the database closed (16 R393) or the OBJ_ID in use; ABORTED when a
second readback fails (16 R397). -/
def dbImportCmd (s : State) (fn : Nat) (d : Bytes) (io : CmdIo) : Ans :=
  let alg := dOpnd d 2
  let usage := dOpnd d 3
  let len := algLen alg
  if 11 < alg || 7 < usage || !algUsage alg usage || 1 < dOpnd d 4 || dLen d ≠ blobLen len then .bad s
  else if !s.spi0.db.isOpen || (dbEntry s (objId d)).isSome then .denied s
  else if engDown s aesLanes then .aborted s
  else withKey s fn d 2 algAes fun s _ key =>
    match kwpUnwrap key (inOf d io) with
    | none => .denied s
    | some m =>
      if m.length ≠ len then .denied s
      else withRandom s fn d 12 fun s iv =>
        dbAns (dbPutObj s (objId d) (objSeal s fn (objId d) alg usage (dOpnd d 4 = 1) iv m) io.fail)

/-- DB_LOAD (R375): the object becomes a key of the vault; its ALG and USAGE are the specification's, and EXPORT is not
added to a key that lacks it (09 R216; log 45). -/
def dbLoadCmd (s : State) (fn : Nat) (d : Bytes) (_io : CmdIo) : Ans :=
  let k := specOf d
  match newKeyCheck s fn d with
  | .inl a => a
  | .inr n =>
    if !s.spi0.db.isOpen then .noKey s
    else if !rngReady s.rng then .notReady s (rngWait s (rngRemain s.rng))
    else if engDown s aesLanes then .aborted s
    else match objOpen s fn (objId d) (· = k.usage) (· = k.alg) with
      | .inl st => .stop s st
      | .inr (h, m) =>
        if k.kflags % 2 = 1 && byteAt h 5 % 2 = 0 then .denied s else newKey s fn d n m false

/-- An object's header for its owner (R363): NO_KEY when it does not exist, DENIED when it is another owner's. -/
def withObj (s : State) (fn : Nat) (d : Bytes) (f : Bytes → Ans) : Ans := match dbFind s (objId d) with
  | none => .noKey s
  | some b => if byteAt b 2 ≠ fn then .denied s else f b

/-- DB_DELETE (R375, 16 R396). -/
def dbDeleteCmd (s : State) (fn : Nat) (d : Bytes) (io : CmdIo) : Ans :=
  if !s.spi0.db.isOpen then .denied s
  else withObj s fn d fun _ => dbAns (dbDelObj s (objId d) (fld io.fail 2 2), if 1 < fld io.fail 2 2 then 2 else 0)

/-- DB_INFO (R376): bytes 0x00 to 0x1F of the object header. -/
def dbInfoCmd (s : State) (fn : Nat) (d : Bytes) (_io : CmdIo) : Ans := withObj s fn d fun b => { st := s, out := b.take 32 }

/-- ECDH_DERIVE (15 R375). -/
def execEcdhDerive (fn r : Nat) (io : CmdIo) (s : State) : Host.Outcome State Fault Refusal :=
  .next (serveCmd s fn r 0x28 fun s d => ecdhCmd s fn d io)

/-- KEY_GENERATE (15 R375). -/
def execKeyGenerate (fn r : Nat) (io : CmdIo) (s : State) : Host.Outcome State Fault Refusal :=
  .next (serveCmd s fn r 0x50 fun s d => keyGenerateCmd s fn d io)

/-- KEY_IMPORT (15 R375). -/
def execKeyImport (fn r : Nat) (io : CmdIo) (s : State) : Host.Outcome State Fault Refusal :=
  .next (serveCmd s fn r 0x51 fun s d => keyImportCmd s fn d io)

/-- KEY_DERIVE (15 R375). -/
def execKeyDerive (fn r : Nat) (io : CmdIo) (s : State) : Host.Outcome State Fault Refusal :=
  .next (serveCmd s fn r 0x52 fun s d => keyDeriveCmd s fn d io)

/-- KEY_ZEROIZE (15 R375). -/
def execKeyZeroize (fn r : Nat) (io : CmdIo) (s : State) : Host.Outcome State Fault Refusal :=
  .next (serveCmd s fn r 0x53 fun s d => keyZeroizeCmd s fn d io)

/-- ASSOC_SET (15 R375). -/
def execAssocSet (fn r : Nat) (io : CmdIo) (s : State) : Host.Outcome State Fault Refusal :=
  .next (serveCmd s fn r 0x54 fun s d => assocSetCmd s fn d io)

/-- KEY_COMMIT (15 R375). -/
def execKeyCommit (fn r : Nat) (io : CmdIo) (s : State) : Host.Outcome State Fault Refusal :=
  .next (serveCmd s fn r 0x55 fun s d => keyCommitCmd s fn d io)

/-- KEY_PIN (15 R375). -/
def execKeyPin (fn r : Nat) (io : CmdIo) (s : State) : Host.Outcome State Fault Refusal :=
  .next (serveCmd s fn r 0x57 fun s d => keyPinCmd s fn d io)

/-- KEY_UNPIN (15 R375). -/
def execKeyUnpin (fn r : Nat) (io : CmdIo) (s : State) : Host.Outcome State Fault Refusal :=
  .next (serveCmd s fn r 0x58 fun s d => keyUnpinCmd s fn d io)

/-- SEASON_SCHEDULE (15 R375). -/
def execSeasonSchedule (fn r : Nat) (io : CmdIo) (s : State) : Host.Outcome State Fault Refusal :=
  .next (serveCmd s fn r 0x59 fun s d => seasonScheduleCmd s fn d io)

/-- SEASON_CANCEL (15 R375). -/
def execSeasonCancel (fn r : Nat) (io : CmdIo) (s : State) : Host.Outcome State Fault Refusal :=
  .next (serveCmd s fn r 0x5A fun s d => seasonCancelCmd s fn d io)

/-- KEY_INFO (15 R375). -/
def execKeyInfo (fn r : Nat) (io : CmdIo) (s : State) : Host.Outcome State Fault Refusal :=
  .next (serveCmd s fn r 0x5B fun s d => keyInfoCmd s fn d io)

/-- DB_IMPORT (15 R375). -/
def execDbImport (fn r : Nat) (io : CmdIo) (s : State) : Host.Outcome State Fault Refusal :=
  .next (serveCmd s fn r 0x5C fun s d => dbImportCmd s fn d io)

/-- DB_LOAD (15 R375). -/
def execDbLoad (fn r : Nat) (io : CmdIo) (s : State) : Host.Outcome State Fault Refusal :=
  .next (serveCmd s fn r 0x5D fun s d => dbLoadCmd s fn d io)

/-- DB_DELETE (15 R375). -/
def execDbDelete (fn r : Nat) (io : CmdIo) (s : State) : Host.Outcome State Fault Refusal :=
  .next (serveCmd s fn r 0x5E fun s d => dbDeleteCmd s fn d io)

/-- DB_INFO (15 R375). -/
def execDbInfo (fn r : Nat) (io : CmdIo) (s : State) : Host.Outcome State Fault Refusal :=
  .next (serveCmd s fn r 0x5F fun s d => dbInfoCmd s fn d io)

end Sys2Proof.Machine
end

