-- ==== Sys2Proof/Machine/Custody.lean ====
section
/-! DEFINITION. The custody ceremony: COMMIT, CANCEL, VERIFY, the custody-verify run, and the messages of the custody bus
(10 R241 to R248, R253, R254, R263, R264). -/
namespace Sys2Proof.Machine

/-- The digest of a credential (06 R137): 97 bytes of point, 1952 bytes of ML-DSA-65 key. -/
def credDigest (pub ml : Bytes) : Bytes := sha256 (pub ++ ml)

/-- R250: the operation is allowed in the present lifecycle and mode. -/
def custOpAllowed (s : State) (op : Nat) : Bool :=
  let comm := s.fus.lc = .commissioned
  let prov := s.fus.lc = .provisioned
  if op = 0x05 then prov || comm
  else if op = 0x0B then (prov || comm) && s.mode.mode = .snuffed
  else if op = 0x0D then prov && s.mode.mode = .service
  else 1 ≤ op && op ≤ 0x0C && comm

/-- The record as the commit fills it (R245). -/
def custRecord (s : State) (no : Word) (nonce : Bytes) : Bytes :=
  let op := reqOp s
  let win := if s.cus.win = 0 then 1 else s.cus.win
  leBytes 1 op ++ [1, 0, 0] ++ leBytes 4 no.toNat ++ slice s.fus.serial 0 8 ++ leBytes 4 s.glb.tick.toNat
    ++ leBytes 4 (s.glb.tick + wordOf win).toNat ++ slice nonce 0 16 ++ List.replicate 8 0 ++ reqParam s
    ++ (if s.cus.form then candArg s else if op = 0x0B then List.replicate 32 0 else reqArg s)

/-- REQUEST broadcast (R246, R281). -/
def sendRequest (s : State) : State := broadcast s 4 0x10 s.cus.req

/-- The request is committed (R246): the answer is OK, DENIED or NOT_READY with its WAIT. -/
def custCommitRun (s : State) : State × Nat × Nat :=
  let s := custCancelAll s 4 0xA
  let op := reqOp s
  let s := onCus s fun c => { c with form := commForm s op }
  if !custOpAllowed s op || (s.cus.form && !candOk s) then (s, 0x10, 0)
  else match rngInternal s 16 with
    | .inl w => (s, 0x02, w)
    | .inr (nonce, s) =>
      let no := s.cus.reqNo + 1
      let r := custRecord s no nonce
      let s := onCus s fun c => { c with
        reqOpen := true, req := r, reqNo := no, state := 0, repTicks := 0, approvals := []
        candLock := op = 0x0B || op = 0x0D }
      (sendRequest s, 0, 0)

/-- CUS_CTL is written with its key (R246). -/
def custKeyed (v : Word) : Bool := fld v 24 8 = 0xC5

/-- COMMIT (R246). -/
def execCustCommit (v : Word) (s : State) : Host.Outcome State Fault Refusal :=
  .next (onE s 8 0x40008084 fun s => if custKeyed v && bit v 0 then (custCommitRun s).1 else s)

/-- CANCEL (R252, R264). -/
def execCustCancel (v : Word) (s : State) : Host.Outcome State Fault Refusal :=
  .next (onE s 8 0x40008084 fun s => if custKeyed v && bit v 1 then custCancelAll s 4 0xA else s)

/-- VERIFY (R248): a run waits for PKE0. -/
def execCustVerify (v : Word) (s : State) : Host.Outcome State Fault Refusal :=
  .next (onE s 8 0x40008084 fun s =>
    if custKeyed v && bit v 2 && s.cus.run = 0 then onCus s fun c => { c with run := 1 } else s)

/-! ### The run (R248) -/

/-- An approval in PKE0 private memory (R247). -/
def approvalAt (s : State) (off : Nat) : Bytes := tgetN 0 (getPke s 0).mem off 5462

/-- The statement that an approval signs (R247), rebuilt from the locked record. -/
def approvalStmt (s : State) (a : Bytes) : Bytes := s.cus.req ++ [a.getD 0 0, a.getD 1 0]

/-- The digest that an approval must match (R248 step 5). -/
def approvalRef (s : State) (n : Nat) : Bytes := if s.cus.form then candDigest s n else slotDigest s n

/-- The slot of an approval may approve (R248 step 4). -/
def approvalSlotOk (s : State) (n : Nat) : Bool :=
  n < 8 && if s.cus.form then s.cus.candMask.getLsbD n else slotUsable s n

/-- The digest of an approval's public keys. -/
def approvalDigest (a : Bytes) : Bytes := credDigest (slice a 8 97) (slice a 0x69 1952)

/-- The ECDSA signature of an approval verifies (R248 step 6). -/
def approvalEc (s : State) (a : Bytes) : Bool :=
  ecdsaVerify p384 (slice a 8 97) (slice a 0x809 96) (sha384 (approvalStmt s a)) = 0

/-- The ML-DSA-65 signature of an approval verifies (R248 step 7). -/
def approvalMl (s : State) (a : Bytes) : Bool :=
  Config.mlDsaVerify (slice a 0x69 1952) (ascii "STOLTO-CUSTODY") (approvalStmt s a) (slice a 0x869 3309)

/-- A check over both approvals: none, or its RESULT and the approval that failed. -/
def bothOk (res : Nat) (f : Bytes → Bool) (a b : Bytes) : Option (Nat × Bool) :=
  if !f a then some (res, false) else if !f b then some (res, true) else none

/-- The checks of R248 in their order: none when all pass. -/
def custChecks (s : State) (a b : Bytes) : Option (Nat × Bool) :=
  if !s.cus.reqOpen || tickReached (reqExpires s) s.glb.tick then some (1, false)
  else (bothOk 2 (fun x => wordOf (leAt x 4 4) = reqNoOf s && byteAt x 1 = 1) a b).orElse fun _ =>
    if byteAt a 0 = byteAt b 0 then some (3, true)
    else (bothOk 4 (fun x => approvalSlotOk s (byteAt x 0)) a b).orElse fun _ =>
      (bothOk 5 (fun x => approvalDigest x = approvalRef s (byteAt x 0)) a b).orElse fun _ =>
        if approvalDigest a = approvalDigest b then some (5, true)
        else (bothOk 6 (approvalEc s) a b).orElse fun _ => bothOk 7 (approvalMl s) a b

/-- PKE0 is free again after a run: its private memory is zeroed (R264). -/
def custRunOver (s : State) : State :=
  onCus (setPke s 0 { getPke s 0 with mem := [], alloc := 0, cv := false, busy := false }) fun c => { c with run := 0 }

/-- A passing run sets the latch (R248, R249). -/
def latchSet (s : State) (slotA slotB : Nat) : State :=
  let l : Latch := { isSet := true, op := reqOp s, slotA := slotA, slotB := slotB, reqNo := reqNoOf s
                     record := s.cus.req, form := s.cus.form }
  let s := onCus s fun c => { c with latch := l, result := 0, which := false, state := 1 }
  let s := logLatch s l
  let s := if l.op = 0x0A then s.setFlt { s.flt with
    funcs := BitVec.ofNat 16 (leAt (reqParam s) 0 2), chans := BitVec.ofNat 2 (byteAt (reqParam s) 2) } else s
  sendStatus s 1

/-- CUSTODY_VERIFY_END (R248, R253 step 4). -/
def execCustodyVerifyEnd (s : State) : Host.Outcome State Fault Refusal :=
  if !mainUp s || s.cus.run ≠ 2 || !engClocked s 6 || s.tmp.trig.isSome then .next s
  else
    let a := approvalAt s 0
    let b := approvalAt s 0x1800
    let r := custChecks s a b
    let s := custRunOver s
    match r with
    | none => .next (latchSet s (byteAt a 0) (byteAt b 0))
    | some (res, w) =>
      .next (reqClose (latchClear (onCus s fun c => { c with result := res, which := w })) 5 0x21)

/-- EXPIRES of the record under which the latch was set. -/
def latchExpires (s : State) : Word := wordOf (leAt s.cus.latch.record 0x14 4)

/-- REQUEST_EXPIRY (R246, R251, R252, R263): the edge of EXPIRES of the open request, or of a consumed latch that still
stands. -/
def execRequestExpiry (s : State) : Host.Outcome State Fault Refusal :=
  if edgesRun s && ((s.cus.reqOpen && tickReached (reqExpires s) s.glb.tick)
      || (s.cus.latch.isSet && tickReached (latchExpires s) s.glb.tick)) then .next (custCancelAll s 3 1) else .next s

/-- REQUEST_REPEAT (R281). -/
def execRequestRepeat (s : State) : Host.Outcome State Fault Refusal :=
  if s.cus.reqOpen && voeRuns s 0 && 4096 ≤ s.cus.repTicks then
    .next (sendRequest (onCus s fun c => { c with repTicks := 0 }))
  else .next s

/-! ### Messages (R243, R244) -/

/-- Bytes written to PKE0 private memory. -/
def pke0Put (s : State) (off : Nat) (b : Bytes) : State :=
  setPke s 0 { getPke s 0 with mem := tputN 0 (getPke s 0).mem off b }

/-- The approvals kept, laid out where a run reads them (R248), unless a run holds PKE0. -/
def layApprovals (s : State) : State :=
  if 2 ≤ s.cus.run then s
  else
    let s := pke0Put s 0 (slice (s.cus.approvals.getD 0 []) 0 5462)
    pke0Put s 0x1800 (slice (s.cus.approvals.getD 1 []) 0 5462)

/-- The message names the open request. -/
def namesRequest (s : State) (no : Word) : Bool := s.cus.reqOpen && no = reqNoOf s

/-- The diagnostics entry of a discarded approval or refusal (R244). -/
def logDiscard (s : State) (no : Word) (slot : Nat) : State :=
  logD s .cus 1 (leBytes 4 no.toNat ++ leBytes 4 slot)

/-- APPROVAL (R244, R253 step 3): kept for the open request, or discarded and logged. -/
def execApproval (s : State) : Host.Outcome State Fault Refusal :=
  match inboxTake s 0 0x11 with
  | none => .next s
  | some (m, s) =>
    let a := slice m.pay 0 5462
    let no := wordOf (leAt a 4 4)
    if namesRequest s no then
      .next (layApprovals (onCus s fun c => { c with approvals := c.approvals ++ [a] }))
    else .next (logDiscard s no (byteAt a 0))

/-- REFUSAL (R244). -/
def execRefusal (s : State) : Host.Outcome State Fault Refusal :=
  match inboxTake s 0 0x12 with
  | none => .next s
  | some (m, s) =>
    let no := wordOf (leAt m.pay 0 4)
    if namesRequest s no then .next (custCancelAll s 4 0xA) else .next (logDiscard s no (byteAt m.pay 4))

/-- CREDENTIAL (R254 step 1): firmware writes the digest to candidate register n and sets its mask bit; the registers are
locked while a request of OP 0x0B or 0x0D is open. -/
def execCredential (n : Nat) (s : State) : Host.Outcome State Fault Refusal :=
  match inboxTake s 0 0x14 with
  | none => .next s
  | some (m, s) =>
    if s.cus.candLock then .next (refuseWrite s (0x40008100 + 0x20 * n) 0xB)
    else .next (onCus s fun c => { c with
      cand := tput (List.replicate 32 0) c.cand n (credDigest (slice m.pay 0 97) (slice m.pay 97 1952))
      candMask := c.candMask ||| BitVec.ofNat 8 (2 ^ n) })

end Sys2Proof.Machine
end

