-- ==== Sys2Proof/Machine/Cores.lean ====
section
/-! DEFINITION. The application cores: levels, traps, the world save area, WGATE, TRET, enclaves, core control registers
(07 R161 to R198). -/
namespace Sys2Proof.Machine

/-- The code of a level (R161). -/
def lvCode : Level → Nat
  | .user => 0 | .sup => 1 | .hyp => 2 | .mon => 3

/-- The level of a code. -/
def lvOf (n : Nat) : Level := match n % 4 with
  | 0 => .user | 1 => .sup | 2 => .hyp | _ => .mon

/-- s with core c replaced by a function of it. -/
def onCore (s : State) (c : Nat) (f : Core → Core) : State := setCore s c (f (getCore s c))

/-- General register n; x0 is 0. -/
def xReg (x : Core) (n : Nat) : DWord := if n = 0 then 0 else tget 0 x.x n

/-- A general register written; a write to x0 is discarded. -/
def xPut (x : Core) (n : Nat) (v : DWord) : Core := if n = 0 then x else { x with x := tput 0 x.x n v }

/-- A stalled access of the core holds its instruction (08 R205, R213). -/
def coreStalled (s : State) (c : Nat) : Bool := s.fwl.stalled.any fun p => p.1.init.val = c

/-- The core executes (03 R106, 07 R197): clocked, not halted, and no access of its own stalled. -/
def coreRuns (s : State) (c : Nat) : Bool :=
  mainUp s && s.mode.mode ≠ .dim && !(getCore s c).halted && !coreStalled s c

/-- The core goes on to the next instruction, 4 bytes on. -/
def nextPc (x : Core) : Core := { x with pc := x.pc + 4 }

/-- The context of a core's predictor and buffer state (R169). -/
def ctxOf (x : Core) : Nat := match x.encl with
  | some e => 32 + e
  | none => if x.level = .mon then 0 else 1 + x.part

/-- A world or enclave transition (R169): the state tagged with the context being left is invalidated. -/
def leaveCtx (x : Core) : Core := { x with tagged := x.tagged.filter (· ≠ ctxOf x) }

/-- Step 2 of R165: the state tagged with any context of the normal world is invalidated. -/
def leaveNormal (x : Core) : Core := { x with tagged := x.tagged.filter (· = 0) }

/-- The core runs in its present context. -/
def enterCtx (x : Core) : Core :=
  if x.tagged.contains (ctxOf x) then x else { x with tagged := x.tagged ++ [ctxOf x] }

/-! ### Performance counters (R189) -/

/-- The core counts now: EN, outside enclaves, and by the mode's entry in the normal world only (cN) or in both (cX). -/
def pmcCounts (s : State) (x : Core) : Bool :=
  let c := ctrCell s.mode.mode s.mode.dbg
  x.pmcCtl.getLsbD 0 && x.encl.isNone && ((c = 1 && x.level ≠ .mon) || c = 2)

/-- Event code of PMC_EVk. -/
def pmcCode (x : Core) (k : Nat) : Nat := (x.pmcSel.toNat >>> (8 * k)) % 256

/-- An event counted in the counters that select it. -/
def pmcEvent (s : State) (c code : Nat) : State :=
  let x := getCore s c
  if pmcCounts s x then
    setCore s c ((List.range 4).foldl (fun x k =>
      if pmcCode x k = code then { x with pmc := tput 0 x.pmc (2 + k) (tget 0 x.pmc (2 + k) + 1) } else x) x)
  else s

/-- The event codes whose events are commands of the model (WGATE call, interrupt taken), and those that count nothing. -/
def pmcExact (code : Nat) : Bool := code = 0 || 6 ≤ code

/-- Counter k (0 cycles, 1 instructions, 2 to 5 the event counters) counts what the core did between the commands of the
model. -/
def pmcFree (x : Core) (k : Nat) : Bool := k < 2 || !pmcExact (pmcCode x (k - 2))

/-- What core c did while it counted enters its counters: free amounts, since the model executes no ordinary instruction
(log 35). Taken before a counter is read, and before the core stops counting. -/
def pmcRun (s : State) (c : Nat) : State :=
  if pmcCounts s (getCore s c) then
    let (f, s) := freeBytes s 48
    onCore s c fun x => { x with pmc := (List.range 6).foldl (fun t k =>
      if pmcFree x k then tput 0 t k (tget 0 t k + BitVec.ofNat 64 (leAt f (8 * k) 8)) else t) x.pmc }
  else s

/-! ### Traps (R188) -/

/-- The trap registers of a level; User has none. -/
def trapRegs (x : Core) : Level → TrapRegs
  | .mon => x.mon
  | .hyp => x.hyp
  | _ => x.sup

/-- x with the trap registers of a level replaced. -/
def putTrap (x : Core) (l : Level) (t : TrapRegs) : Core := match l with
  | .mon => { x with mon := t }
  | .hyp => { x with hyp := t }
  | _ => { x with sup := t }

/-- A trap taken at level l: TCAUSE, TPC and TINFO written, the level changed, the pc at TBASE (R188). -/
def trapTo (x : Core) (l : Level) (cause : Nat) (info : DWord) : Core :=
  let t := trapRegs x l
  let x := putTrap x l { t with cause := BitVec.ofNat 64 cause, pc := x.pc, info := info, prev := x.level }
  { x with level := l, pc := t.base }

/-- The level at which an exception is taken (R188); stage 2 tells a stage-2 entry for code 0x0C. -/
def excLevel (l : Level) (code : Nat) (stage2 : Bool) : Level := match l with
  | .mon => .mon
  | .hyp => .hyp
  | l =>
    if code = 0x03 || code = 0x04 || code = 0x05 || code = 0x0B || code = 0x0D || (code = 0x0C && stage2) then .hyp
    else if code = 0x08 && l = .sup then .hyp
    else .sup

/-! ### Enclaves (R178 to R184) -/

/-- Enclave e's descriptor. -/
def getEncl (s : State) (e : Nat) : Encl := tget {} s.cores.encl e

/-- s with an enclave's descriptor replaced. -/
def setEncl (s : State) (e : Nat) (d : Encl) : State := s.setCores { s.cores with encl := tput {} s.cores.encl e d }

/-- The physical address of an enclave's control page (R180), as an offset in system SRAM. -/
def ctlPage (d : Encl) : Nat := 4096 * (((d.pages.find? (·.1 = 0)).map (·.2)).getD 0)

/-- The 256 bytes of a save slot: pc, then x1 to x31 (R180). -/
def saveBytes (x : Core) : Bytes :=
  leBytes 8 x.pc.toNat ++ (List.range 31).flatMap fun k => leBytes 8 (xReg x (k + 1)).toNat

/-- The pages of a destroyed enclave zeroed and untagged, its ID FREE (R180, R194), once no core is inside. -/
def enclGone (s : State) (e : Nat) : State :=
  let d := getEncl s e
  if d.state = 3 && d.inside.isEmpty then
    let s := d.pages.foldl (fun s p =>
      let s := s.setSram (tclear s.sram (4096 * p.2) 4096)
      s.setCores { s.cores with ptt := tput 0 s.cores.ptt p.2 0 }) s
    setEncl s e {}
  else s

/-- An asynchronous enclave exit (R184): the state saved, the cause word written, the registers zeroed but for a0 and
a1, the pc at the exit return address. -/
def enclExit (s : State) (c e cause : Nat) : State :=
  let x := getCore s c
  let d := getEncl s e
  let base := ctlPage d
  let s := sramWrite s (base + 0x100 * c) (saveBytes x)
  let s := sramWrite s (base + 0x200 + 8 * c) (leBytes 8 cause)
  let s := setEncl s e { d with saved := d.saved.filter (· ≠ c) ++ [c], inside := d.inside.filter (· ≠ c) }
  let y := leaveCtx x
  let y := { y with x := [], encl := none, pc := y.exitRet }
  let y := enterCtx (xPut (xPut y 10 (BitVec.ofNat 64 e)) 11 (BitVec.allOnes 64))
  enclGone (setCore s c y) e

/-- An exception on core c (R188); inside an enclave after its asynchronous exit, with code 0x0E and TINFO 0 (R184). -/
def raise (s : State) (c code : Nat) (info : DWord) (stage2 : Bool := false) : State :=
  let x := getCore s c
  let l := excLevel x.level code stage2
  match x.encl with
  | none => onCore s c fun x => enterCtx (trapTo x l code info)
  | some e => onCore (enclExit s c e code) c fun x => enterCtx (trapTo x l 0x0E 0)

/-- An instruction that its level does not allow (R163). -/
def illegal (s : State) (c : Nat) : State := raise s c 0x01 0

/-- Partition n's context entry (R174). -/
def pctxOf (s : State) (n : Nat) : DWord := if n = 0 then 0 else tget 0 s.cores.pctx n

/-- VALID of an entry. -/
def pctxValid (s : State) (n : Nat) : Bool := (pctxOf s n).getLsbD 0

/-- The core is at Supervisor or User level in a partition whose entry has been cleared (R195). -/
def partGone (s : State) (c : Nat) : Bool :=
  let x := getCore s c
  (x.level = .sup || x.level = .user) && !pctxValid s x.part

/-- An instruction of core c: none while it does not run; in a cleared partition trap 0x01 at Hypervisor level (R195). -/
def instr (s : State) (c : Nat) (f : State → State) : State :=
  if !coreRuns s c then s
  else if partGone s c then
    let x := getCore s c
    match x.encl with
    | none => onCore s c fun x => enterCtx (trapTo x .hyp 0x01 0)
    | some e => onCore (enclExit s c e 1) c fun x => enterCtx (trapTo x .hyp 0x0E 0)
  else f s

/-! ### World transitions (R165 to R170) -/

/-- The world save area filled (R166). -/
def saveWorld (x : Core) (async fromEncl : Bool) : Core :=
  { x with wsave := { pc := x.pc, x := x.x, level := x.level, async := async, part := x.part, fromEncl := fromEncl
                      call := !async } }

/-- Steps 2 and 3 of R165: the core at Monitor level, at TBASE_MON. -/
def monEnter (x : Core) (cause : Nat) : Core :=
  let x := leaveNormal x
  enterCtx { x with level := .mon, pc := x.mon.base, mon := { x.mon with cause := BitVec.ofNat 64 cause } }

/-- WGATE_CALL (R165): a call at Hypervisor or Supervisor level; at User level an illegal instruction. -/
def execWgateCall (c : Nat) (s : State) : Host.Outcome State Fault Refusal :=
  .next (instr s c fun s =>
    let x := getCore s c
    match x.level with
    | .mon => s
    | .user => illegal s c
    | _ =>
      let s := pmcEvent s c 6
      onCore s c fun x => monEnter (saveWorld x false false) 0x10)

/-- The registers as a return scrubs them (R168): all but a0 and a1. -/
def scrub (x : Core) : Core := { x with x := x.x.filter fun p => p.1 = 10 || p.1 = 11, resv := none }

/-- A halt request held back at Monitor level takes effect on the return to the normal world (R197). -/
def haltDue (x : Core) : Core := if x.haltReq && x.level ≠ .mon then { x with halted := true, haltReq := false } else x

/-- A return to Supervisor or User level needs a partition (R174). -/
def returnOk (l : Level) (part : Nat) : Bool := (l = .hyp || l = .mon) || part ≠ 0

/-- WGATE_RETURN (R168): at Monitor level after a WGATE call; with ASYNC = 1 an illegal instruction (R170). -/
def execWgateReturn (c : Nat) (s : State) : Host.Outcome State Fault Refusal :=
  .next (instr s c fun s =>
    let x := getCore s c
    let w := x.wsave
    if x.level ≠ .mon then s
    else if w.async || !returnOk w.level w.part then illegal s c
    else onCore s c fun x =>
      haltDue (enterCtx { scrub (leaveCtx x) with
        level := w.level, part := w.part, pc := w.pc + 4, wsave := { w with call := false } }))

/-- The exact restoration of an asynchronous entry (R170). -/
def asyncReturn (x : Core) : Core :=
  let w := x.wsave
  haltDue (enterCtx { leaveCtx x with x := w.x, pc := w.pc, level := w.level, part := w.part })

/-- TRET at Hypervisor or Supervisor level resumes at TPC at the level that the trap left (R188, log 33). -/
def trapReturn (x : Core) : Core :=
  let t := trapRegs x x.level
  { x with pc := t.pc, level := t.prev }

/-- TRET (R163, R170, R174, R188). -/
def execTret (c : Nat) (s : State) : Host.Outcome State Fault Refusal :=
  .next (instr s c fun s =>
    let x := getCore s c
    match x.level with
    | .user => illegal s c
    | .mon => if x.wsave.async && returnOk x.wsave.level x.wsave.part then onCore s c asyncReturn else illegal s c
    | l => if returnOk (trapRegs x l).prev x.part then onCore s c trapReturn else illegal s c)

/-! ### EENTER and EEXIT (R182, R183) -/

/-- The status of a refused EENTER, or none when it enters or resumes (R182, R194, log 34). -/
def eenterStatus (s : State) (x : Core) (c e k : Nat) : Option Nat :=
  let d := getEncl s e
  if 64 ≤ e || 5 ≤ k then some 3
  else if d.state ≠ 2 || d.part ≠ x.part then some 5
  else if k = 4 then (if d.saved.contains c then none else some 3)
  else if d.entries.getD k 0 = 0 then some 3
  else if d.saved.contains c then some 4
  else none

/-- General registers from a save slot. -/
def slotRegs (b : Bytes) : Tab DWord :=
  (List.range 31).foldl (fun t k => tput 0 t (k + 1) (BitVec.ofNat 64 (leAt b (8 + 8 * k) 8))) []

/-- EENTER (R182). -/
def execEenter (c rs1 rs2 : Nat) (s : State) : Host.Outcome State Fault Refusal :=
  .next (instr s c fun s =>
    let x := getCore s c
    let e := (xReg x rs1).toNat
    let k := (xReg x rs2).toNat
    if x.level ≠ .user || x.part = 0 || x.encl.isSome then illegal s c
    else match eenterStatus s x c e k with
      | some st => onCore s c fun x => nextPc (xPut (xPut x 10 (BitVec.ofNat 64 st)) 11 0)
      | none =>
        let s := pmcRun s c
        let x := getCore s c
        let d := getEncl s e
        let y := { leaveCtx x with encl := some e, exitRet := x.pc + 4 }
        if k = 4 then
          let b := sramRead s (ctlPage d + 0x100 * c) 256
          let s := setEncl s e { d with saved := d.saved.filter (· ≠ c), inside := d.inside.filter (· ≠ c) ++ [c] }
          setCore s c (enterCtx { y with pc := BitVec.ofNat 64 (leAt b 0 8), x := slotRegs b })
        else
          let s := setEncl s e { d with inside := d.inside.filter (· ≠ c) ++ [c] }
          setCore s c (enterCtx { y with pc := d.base + BitVec.ofNat 64 (d.entries.getD k 0) }))

/-- EEXIT (R183). -/
def execEexit (c : Nat) (s : State) : Host.Outcome State Fault Refusal :=
  .next (instr s c fun s =>
    let x := getCore s c
    match x.level, x.encl with
    | .user, some e =>
      let d := getEncl s e
      let s := setEncl s e { d with inside := d.inside.filter (· ≠ c) }
      let s := onCore s c fun x => enterCtx { scrub (leaveCtx x) with encl := none, pc := x.exitRet }
      enclGone s e
    | _, _ => illegal s c)

/-! ### Core control registers (R164) -/

/-- CORESTAT. -/
def corestat (x : Core) (c : Nat) : Nat :=
  c * 2 ^ 14 + x.part * 2 ^ 10 + (x.encl.getD 0) * 2 ^ 4 + b2n x.encl.isSome * 8 + b2n (x.level = .mon) * 4 + lvCode x.level

/-- WSAVE_CTX. -/
def wsaveCtx (w : Wsave) : Nat := b2n w.fromEncl * 256 + w.part * 16 + b2n w.async * 8 + lvCode w.level

/-- Trap register k (TBASE, TCAUSE, TPC, TINFO). -/
def trapReg (t : TrapRegs) (k : Nat) : DWord := match k with
  | 0 => t.base
  | 1 => t.cause
  | 2 => t.pc
  | _ => t.info

/-- Trap register k written: TBASE 4-byte aligned, TCAUSE with its fields. -/
def trapRegPut (t : TrapRegs) (k : Nat) (v : DWord) : TrapRegs := match k with
  | 0 => { t with base := v &&& ~~~ 3 }
  | 1 => { t with cause := v &&& 0x800000FF }
  | 2 => { t with pc := v }
  | _ => { t with info := v }

/-- The level may read PMC registers (R189). -/
def pmcReadable (x : Core) : Bool := x.level = .hyp || ((x.level = .sup || x.level = .user) && x.pmcCtl.getLsbD 1)

/-- A PMC register read: 0 where the matrix gives c0; a counter that counts has run up to the read. -/
def pmcRead (s : State) (c n : Nat) : DWord × State :=
  let x := getCore s c
  if n = 0x70 then (x.pmcCtl, s)
  else if n = 0x77 then (x.pmcSel, s)
  else if ctrCell s.mode.mode s.mode.dbg = 0 then (0, s)
  else
    let s := pmcRun s c
    (tget 0 (getCore s c).pmc (n - 0x71), s)

/-- A core control register read at the present level; none when it is not allowed. -/
def ccrRead (s : State) (x : Core) (c n : Nat) : Option (DWord × State) :=
  let hyp := x.level = .hyp
  let sup := x.level = .sup
  let mon := x.level = .mon
  let ret := fun (ok : Bool) (v : DWord) => if ok then some (v, s) else none
  if n = 0 then ret true (BitVec.ofNat 64 (corestat x c))
  else if n = 1 then ret (hyp || sup) x.nscratch
  else if n = 2 then ret (!mon) x.uscratch
  else if 0x10 ≤ n && n < 0x14 then ret (hyp || sup) (trapReg x.sup (n - 0x10))
  else if 0x18 ≤ n && n < 0x1C then ret hyp (trapReg x.hyp (n - 0x18))
  else if 0x20 ≤ n && n < 0x24 then ret mon (trapReg x.mon (n - 0x20))
  else if n = 0x30 then ret (hyp || sup) (BitVec.ofNat 64 x.part)
  else if n = 0x31 then ret sup (tget 0 x.stg1 x.part)
  else if 0x40 ≤ n && n < 0x50 then ret (mon || hyp) (pctxOf s (n - 0x40))
  else if n = 0x60 then ret hyp x.ipendHyp
  else if n = 0x61 then ret hyp x.imaskHyp
  else if n = 0x62 then ret (hyp || sup) x.ipendSup
  else if n = 0x63 then ret (hyp || sup) x.imaskSup
  else if n = 0x68 then ret mon x.ipendMon
  else if n = 0x69 then ret mon x.imaskMon
  else if 0x70 ≤ n && n < 0x78 then (if pmcReadable x then some (pmcRead s c n) else none)
  else if n = 0x80 then ret mon x.wsave.pc
  else if 0x81 ≤ n && n < 0xA0 then ret mon (tget 0 x.wsave.x (n - 0x80))
  else if n = 0xA0 then ret mon (BitVec.ofNat 64 (wsaveCtx x.wsave))
  else if n = 0xB0 then ret mon (BitVec.ofNat 64 x.pttAddr)
  else if n = 0xB1 then ret mon (BitVec.ofNat 64 (tget 0 s.cores.ptt x.pttAddr))
  else none

/-- CRD (R164). -/
def execCrd (c rd : Nat) (n : BitVec 12) (s : State) : Host.Outcome State Fault Refusal :=
  .next (instr s c fun s =>
    match ccrRead s (getCore s c) c n.toNat with
    | some (v, s) => onCore s c fun x => nextPc (xPut x rd v)
    | none => illegal s c)

/-- A core runs partition n. -/
def partInUse (s : State) (n : Nat) : Bool := (getCore s 0).part = n || (getCore s 1).part = n

/-- TLB entries of partition n dropped on core c. -/
def tlbDrop (n : Nat) (x : Core) : Core := { x with tlb := x.tlb.filter (·.part ≠ n) }

/-- PCTXn written (R174, R177): every TLB entry of partition n is invalid on both cores at once. -/
def pctxPut (s : State) (n : Nat) (v : DWord) : State :=
  if n = 0 then s
  else
    let s := s.setCores { s.cores with pctx := tput 0 s.cores.pctx n (v &&& 0xFFFFF003) }
    onCore (onCore s 0 (tlbDrop n)) 1 (tlbDrop n)

/-- A core control register written at the present level (R164); none when it is not allowed. -/
def ccrWrite (s : State) (x : Core) (c n : Nat) (v : DWord) : Option State :=
  let hyp := x.level = .hyp
  let sup := x.level = .sup
  let mon := x.level = .mon
  let put := fun (ok : Bool) (y : Core) => if ok then some (setCore s c y) else none
  if n = 1 then put (hyp || sup) { x with nscratch := v }
  else if n = 2 then put (!mon) { x with uscratch := v }
  else if 0x10 ≤ n && n < 0x14 then put (hyp || sup) { x with sup := trapRegPut x.sup (n - 0x10) v }
  else if 0x18 ≤ n && n < 0x1C then put hyp { x with hyp := trapRegPut x.hyp (n - 0x18) v }
  else if 0x20 ≤ n && n < 0x24 then put mon { x with mon := trapRegPut x.mon (n - 0x20) v }
  else if n = 0x30 then put (hyp && pctxValid s (v.toNat % 16)) { x with part := v.toNat % 16 }
  else if n = 0x31 then put sup { x with stg1 := tput 0 x.stg1 x.part (v &&& 0xFFFFF001) }
  else if 0x40 ≤ n && n < 0x50 then
    (if !mon then none
     else if partInUse s (n - 0x40) then none
     else some (pctxPut s (n - 0x40) v))
  else if n = 0x60 then put hyp { x with ipendHyp := x.ipendHyp &&& ~~~ (v &&& 0xFFFF0000) }
  else if n = 0x61 then put hyp { x with imaskHyp := v &&& 0xFFFF0003 }
  else if n = 0x62 then put hyp { x with ipendSup := v &&& 7 }
  else if n = 0x63 then put (hyp || sup) { x with imaskSup := v &&& 7 }
  else if n = 0x68 then put mon x
  else if n = 0x69 then put mon { x with imaskMon := v &&& 0x33FFFFF }
  else if n = 0x70 then
    (if hyp then some (onCore (pmcRun s c) c fun x => { x with pmcCtl := v &&& 3 }) else none)
  else if 0x71 ≤ n && n < 0x77 then put hyp { x with pmc := tput 0 x.pmc (n - 0x71) v }
  else if n = 0x77 then
    (if hyp then some (onCore (pmcRun s c) c fun x => { x with pmcSel := v &&& 0xFFFFFFFF }) else none)
  else if n = 0xB0 then put mon { x with pttAddr := v.toNat % 512 }
  else if n = 0xB1 then
    (if mon then some (s.setCores { s.cores with ptt := tput 0 s.cores.ptt x.pttAddr (v &&& 0xF03F).toNat }) else none)
  else none

/-- The diagnostics entry of a PCTX write refused because its partition runs (R198). -/
def pctxLog (s : State) (x : Core) (n : Nat) : State :=
  if x.level = .mon && 0x40 ≤ n && n < 0x50 && partInUse s (n - 0x40) then logOther s .firmware (leBytes 8 n) else s

/-- CWR (R164, R198). -/
def execCwr (c : Nat) (n : BitVec 12) (rs1 : Nat) (s : State) : Host.Outcome State Fault Refusal :=
  .next (instr s c fun s =>
    let x := getCore s c
    match ccrWrite s x c n.toNat (xReg x rs1) with
    | some s => onCore s c nextPc
    | none => illegal (pctxLog s x n.toNat) c)

/-- TFENCE (R163, R177). -/
def execTfence (c rs1 : Nat) (s : State) : Host.Outcome State Fault Refusal :=
  .next (instr s c fun s =>
    let x := getCore s c
    match x.level with
    | .hyp =>
      let n := (xReg x rs1).toNat
      onCore s c fun x => nextPc (if n = 0 then { x with tlb := [] } else tlbDrop n x)
    | .sup => onCore s c fun x => nextPc (tlbDrop x.part x)
    | _ => illegal s c)

/-! ### Exceptions and interrupts -/

/-- ECALL (R188). -/
def execEcall (c : Nat) (s : State) : Host.Outcome State Fault Refusal :=
  .next (instr s c fun s => raise s c (if (getCore s c).level = .hyp then 0x01 else 0x08) 0)

/-- JTAG access beyond IDCODE and BYPASS is open: debug is AUTHENTICATED or OPEN, whatever the mode (03 R70), and the port
has not been closed by a re-read of the debug-disable fuse (03 R82). -/
def debugAttached (s : State) : Bool := s.mode.dbg ≠ .closed && s.mode.port

/-- A halt asked for by the debugger (R197). -/
def haltCore (s : State) (c : Nat) : State :=
  onCore s c fun x => if x.level = .mon && s.mode.dbg = .authenticated then { x with haltReq := true }
    else { x with halted := true }

/-- EBREAK (R188): exception 0x07 with no debugger attached; else the core halts for it. -/
def execEbreak (c : Nat) (s : State) : Host.Outcome State Fault Refusal :=
  .next (instr s c fun s => if debugAttached s then haltCore s c else raise s c 0x07 0)

/-- ILLEGAL_INSTRUCTION (R163). -/
def execIllegalInstruction (c : Nat) (s : State) : Host.Outcome State Fault Refusal :=
  .next (instr s c fun s => illegal s c)

/-- HALT_REQUEST (R197, 04 R96). -/
def execHaltRequest (c : Nat) (s : State) : Host.Outcome State Fault Refusal :=
  .next (if mainUp s && debugAttached s then haltCore s c else s)

/-- DEBUGGER_RESUME (04 R96). -/
def execDebuggerResume (c : Nat) (s : State) : Host.Outcome State Fault Refusal :=
  .next (if mainUp s && debugAttached s then onCore s c fun x => { x with halted := false, haltReq := false } else s)

/-- The lowest pending bit that its mask leaves unmasked (R187; a mask bit of 1 masks, log 33). -/
def lowestPend (pend mask : DWord) : Option Nat := (List.range 64).find? fun k => pend.getLsbD k && !mask.getLsbD k

/-- A secure interrupt taken: an asynchronous entry from the normal world (R170); at Monitor level a trap to Monitor
(R187, R188). Bits 24 and 25 have no cause beyond their edge and clear. -/
def secureEntry (s : State) (c k : Nat) (fromEncl : Bool) : State :=
  onCore s c fun x =>
    let x := { x with ipendMon := x.ipendMon &&& ~~~ (BitVec.ofNat 64 (2 ^ k) &&& 0x3000000) }
    if x.level = .mon then enterCtx (trapTo x .mon (2 ^ 31 + k) 0) else monEnter (saveWorld x true fromEncl) (2 ^ 31 + k)

/-- Interrupt k taken at Hypervisor or Supervisor level; the read-only bits of IPEND_HYP clear when taken. -/
def normalEntry (s : State) (c k : Nat) (l : Level) : State :=
  onCore s c fun x =>
    let x := if l = .hyp then { x with ipendHyp := x.ipendHyp &&& ~~~ (BitVec.ofNat 64 (2 ^ k) &&& 3) } else x
    enterCtx (trapTo x l (2 ^ 31 + k) 0)

/-- An enclave left before an interrupt is taken (R184). -/
def leaveEncl (s : State) (c k : Nat) : State := match (getCore s c).encl with
  | some e => enclExit s c e (2 ^ 31 + k)
  | none => s

/-- The interrupt that core c takes next (R187): a secure one in any level; then, outside the Monitor level, Hypervisor;
then, at Supervisor or User level, Supervisor. -/
def nextIrq (x : Core) : Option (Level × Nat) :=
  match lowestPend x.ipendMon x.imaskMon with
  | some k => some (.mon, k)
  | none => if x.level = .mon then none
    else match lowestPend x.ipendHyp x.imaskHyp with
      | some k => some (.hyp, k)
      | none => if x.level = .hyp then none else (lowestPend x.ipendSup x.imaskSup).map fun k => (.sup, k)

/-- INTERRUPT_TAKEN (R187, R184, R170). -/
def execInterruptTaken (c : Nat) (s : State) : Host.Outcome State Fault Refusal :=
  if !coreRuns s c then .next s
  else match nextIrq (getCore s c) with
    | none => .next s
    | some (l, k) =>
      let from_ := (getCore s c).encl.isSome
      let s := leaveEncl (pmcEvent s c 7) c k
      .next (match l with
        | .mon => secureEntry s c k from_
        | l => normalEntry s c k l)

end Sys2Proof.Machine
end

