-- ==== Sys2Proof/Machine/Walk.lean ====
section
/-! DEFINITION. Address translation of the cores: the two stages, malformed entries, the TLB (07 R175 to R177). -/
namespace Sys2Proof.Machine

/-- How a translation ends. -/
inductive Walk where
  /-- physical address, and the permissions found as R 1, W 2, X 4, U 8 -/
  | ok (pa perm : Nat)
  /-- trap code, whether stage 2 is its cause, and the address -/
  | fault (code : Nat) (stage2 : Bool) (addr : Nat)
  /-- a walk read was refused (R176) -/
  | refused (a : Acc) (src idx : Nat)
  /-- a walk read stalls at a held firewall (08 R213) -/
  | stalled (a : Acc)

/-- A read of a table entry: its word, or how the walk ends there. -/
abbrev WalkRead := Nat → Walk ⊕ Word

/-- Permissions of an entry. -/
def ptPerm (w : Word) : Nat := fld w 1 4

/-- The entry maps a page. -/
def ptLeaf (w : Word) : Bool := ptPerm w % 8 ≠ 0

/-- A malformed entry (R176). -/
def ptBad (stage2 lvl1 : Bool) (w : Word) : Bool :=
  fld w 5 7 ≠ 0 || (bit w 2 && !bit w 1) || (stage2 && bit w 4)
    || (if lvl1 then ptLeaf w && fld w 12 10 ≠ 0 else bit w 0 && !ptLeaf w)

/-- The permission that an access kind needs. -/
def ptNeeds (kind : Nat) : Nat := if kind = 1 then 2 else if kind = 2 then 4 else 1

/-- One stage (R175): the walk from a root page for address a; code is the fault code of the stage. -/
def walkStage (rd : WalkRead) (stage2 : Bool) (root a : Nat) : Walk :=
  let code := if stage2 then 0x0B else 0x0A
  match rd (root * 4096 + 4 * (a / 2 ^ 22 % 1024)) with
  | .inl e => e
  | .inr w =>
    if ptBad stage2 true w then .fault 0x0C stage2 a
    else if !bit w 0 then .fault code stage2 a
    else if ptLeaf w then .ok (fld w 12 20 * 4096 + a % 2 ^ 22) (ptPerm w)
    else match rd (fld w 12 20 * 4096 + 4 * (a / 4096 % 1024)) with
      | .inl e => e
      | .inr v =>
        if ptBad stage2 false v then .fault 0x0C stage2 a
        else if !bit v 0 then .fault code stage2 a
        else .ok (fld v 12 20 * 4096 + a % 4096) (ptPerm v)

/-- A permission refused by a stage. -/
def walkPerm (stage2 : Bool) (a need : Nat) : Walk → Walk
  | .ok pa perm => if perm &&& need = need then .ok pa perm else .fault (if stage2 then 0x0B else 0x0A) stage2 a
  | w => w

/-- A word of memory as the walker reads it. -/
def walkWord (s : State) (a : Nat) : Word :=
  if inSram a 4 then wordOf (leNat (sramRead s (a - 0x10000000) 4)) else 0

/-- A walk read of core c with these attributes (R176, R208); mem gives the word at a physical address. -/
def walkRead (mem : State → Nat → Word) (s : State) (c level owner : Nat) : WalkRead := fun a =>
  let x : Acc := { init := c, kind := 3, addr := a, size := 4, secure := false, level := level, owner := owner }
  match accCheck s x with
  | .ok => .inr (mem s a)
  | .stall => .inl (.stalled x)
  | .deny src idx => .inl (.refused x src idx)

/-- The root page of a context entry or of STG1. -/
def rootPage (v : DWord) : Nat := v.toNat / 4096 % 2 ^ 20

/-- Stage 2 of partition n with a reader (R175): guest-physical to physical. -/
def stage2With (rd : WalkRead) (s : State) (n a kind : Nat) : Walk :=
  if 2 ^ 32 ≤ a then .fault 0x0B true a
  else walkPerm true a (ptNeeds kind) (walkStage rd true (rootPage (pctxOf s n)) a)

/-- Stage 2 as core c walks it. -/
def stage2 (mem : State → Nat → Word) (s : State) (c n a kind : Nat) : Walk := stage2With (walkRead mem s c 2 0) s n a kind

/-- A read of a stage-1 table: at a guest-physical address, through stage 2, with the Supervisor's attributes (R176). -/
def stage1Read (mem : State → Nat → Word) (s : State) (c n : Nat) : WalkRead := fun a => match stage2 mem s c n a 0 with
  | .ok pa _ => walkRead mem s c 1 n pa
  | e => .inl e

/-- Stage 1 of core c (R175): guest-virtual to guest-physical; a User access needs U. -/
def stage1 (mem : State → Nat → Word) (s : State) (c : Nat) (x : Core) (a kind : Nat) : Walk :=
  if 2 ^ 32 ≤ a then .fault 0x0A false a
  else walkPerm false a (ptNeeds kind + (if x.level = .user then 8 else 0))
    (walkStage (stage1Read mem s c x.part) false (rootPage (tget 0 x.stg1 x.part)) a)

/-- STG1.EN of the core's partition. -/
def stage1On (x : Core) : Bool := (tget 0 x.stg1 x.part).getLsbD 0

/-- Both stages walked. -/
def walkBoth (mem : State → Nat → Word) (s : State) (c : Nat) (x : Core) (a kind : Nat) : Walk :=
  if stage1On x then
    match stage1 mem s c x a kind with
    | .ok g p1 => match stage2 mem s c x.part g kind with
      | .ok pa p2 => .ok pa (p1 &&& (p2 ||| 8))
      | e => e
    | e => e
  else match stage2 mem s c x.part a kind with
    | .ok pa p2 => .ok pa (p2 ||| 8)
    | e => e

/-- A TLB entry serves the access: every tag matches and its permissions allow it. -/
def tlbServes (x : Core) (a kind : Nat) (t : TlbEnt) : Bool :=
  let need := ptNeeds kind + (if x.level = .user then 8 else 0)
  t.part = x.part && t.encl = x.encl && t.s1 = stage1On x && t.vpn = a / 4096 && t.perm &&& need = need

/-- The entry of a finished walk, in place of an older one of the same page. -/
def tlbFill (x : Core) (a pa perm : Nat) : Core :=
  let t : TlbEnt := { part := x.part, encl := x.encl, s1 := stage1On x, vpn := a / 4096, ppn := pa / 4096, perm := perm }
  let same := fun (u : TlbEnt) => u.part = t.part && u.encl = t.encl && u.s1 = t.s1 && u.vpn = t.vpn
  { x with tlb := x.tlb.filter (fun u => !same u) ++ [t] }

/-- The translation of an access by core c (R161, R175, R177). Monitor and Hypervisor use physical addresses. A TLB entry
may still be used (a free choice, log 36), else the tables are walked. -/
def translate (mem : State → Nat → Word) (s : State) (c a kind : Nat) : Walk × State :=
  let x := getCore s c
  if x.level = .mon || x.level = .hyp then (.ok a 15, s)
  else
    let walk := fun (s : State) =>
      let r := walkBoth mem s c x a kind
      match r with
      | .ok pa perm => (r, onCore (pmcEvent (pmcEvent s c 4) c 5) c fun x => tlbFill x a pa perm)
      | _ => (r, pmcEvent (pmcEvent s c 4) c 5)
    match x.tlb.find? (tlbServes x a kind) with
    | none => walk s
    | some t =>
      let (f, s) := freeBytes s 1
      if byteAt f 0 % 2 = 0 then (.ok (t.ppn * 4096 + a % 4096) t.perm, s) else walk s

/-! ### Translation by the secure firmware, for the WGATE services -/

/-- A guest-physical page of partition n as the firmware finds it, offset within system SRAM. -/
def gpaPage (s : State) (n a kind : Nat) : Option Nat :=
  match stage2With (fun a => .inr (walkWord s a)) s n a kind with
  | .ok pa _ => if inSram pa 1 then some (pa - 0x10000000) else none
  | _ => none

/-- n bytes at a guest-physical address; none when a page does not translate. -/
def gpaRead (s : State) (part a n : Nat) : Option Bytes :=
  ((List.range n).map fun k => (gpaPage s part (a + k) 0).map fun p => tget 0 s.sram p).foldr
    (fun o r => match o, r with
      | some b, some l => some (b :: l)
      | _, _ => none) (some [])

/-- Bytes written at a guest-physical address; none when a page does not translate. -/
def gpaWrite (s : State) (part a : Nat) (b : Bytes) : Option State :=
  (List.range b.length).foldl (fun o k => match o with
    | none => none
    | some s => (gpaPage s part (a + k) 1).map fun p => s.setSram (tput 0 s.sram p (b.getD k 0))) (some s)

end Sys2Proof.Machine
end

