-- ==== Sys2Proof/Machine/Services.lean ====
section
/-! DEFINITION. The WGATE services of the secure firmware (07 R171 to R173, R178 to R181, R191, R194 to R198;
12 R305). -/
namespace Sys2Proof.Machine

/-- Register of a call as the world save area holds it (R167). -/
def callReg (x : Core) (n : Nat) : Nat := (tget 0 x.wsave.x n).toNat

/-- The service numbers of R171. -/
def serviceNums : List Nat := [0x00, 0x01, 0x02, 0x10, 0x11, 0x12, 0x13, 0x14, 0x20, 0x30]

/-- The caller's level may ask for this service (R171). -/
def serviceLevel (num : Nat) (l : Level) : Bool :=
  if num = 0 then l = .hyp || l = .sup else if num ≤ 2 then l = .hyp else l = .sup

/-- A service completed for partition n counts at its function (14 R357). -/
def countService (s : State) (n status : Nat) : State :=
  if status ≠ 0 || n = 0 then s
  else
    let f := getFn s n
    setFn s n { f with ctr := tput 0 f.ctr 5 ((tget 0 f.ctr 5 + 1) % 2 ^ 64) }

/-- The status and the result placed for the return (R167). -/
def answer (s : State) (c status result : Nat) : State :=
  let s := countService s (getCore s c).wsave.part status
  onCore s c fun x => xPut (xPut x 10 (BitVec.ofNat 64 status)) 11 (BitVec.ofNat 64 result)

/-- A service served on core c after a WGATE call (R171, R172): f gets the caller's partition and answers. A number that
no service has gets status 1. -/
def serve (s : State) (c num : Nat) (f : Core → State) : State :=
  let x := getCore s c
  let a7 := callReg x 17
  if !coreRuns s c || x.level ≠ .mon || !x.wsave.call then s
  else if !serviceNums.contains a7 then answer s c 1 0
  else if a7 ≠ num then s
  else if !serviceLevel num x.wsave.level then answer s c 2 0
  else f x

/-- ABI_OWN of the running secure firmware (19 R443). -/
def fwAbi (s : State) : Nat := match s.upd.runSf with
  | some i => leAt i.hdr 0x2A 2
  | none => 0

/-- QUERY (R171). -/
def execQuery (c : Nat) (s : State) : Host.Outcome State Fault Refusal :=
  .next (serve s c 0x00 fun _ => answer s c 0 (Config.serviceAbi.toNat + 65536 * (fwAbi s % 65536)))

/-- PART_LOAD (R171, R174, R191, R198). -/
def execPartLoad (c : Nat) (s : State) : Host.Outcome State Fault Refusal :=
  .next (serve s c 0x01 fun x =>
    let n := callReg x 10
    let ppn := callReg x 11
    if n = 0 || 15 < n || 2 ^ 20 ≤ ppn || 2 ≤ callReg x 12 then answer s c 3 0
    else if !ownerExists s n then answer s c 5 0
    else if partInUse s n then answer (pctxLog s { x with level := .mon } (0x40 + n)) c 4 0
    else answer (pctxPut s n (BitVec.ofNat 64 (ppn * 4096 + callReg x 12 * 2 + 1))) c 0 0)

/-- An enclave marked DYING (R194): the Monitor software interrupt goes to every core inside; with none inside its pages
go at once. -/
def enclDying (s : State) (e : Nat) : State :=
  let d := getEncl s e
  if d.state = 0 then s
  else
    let s := setEncl s e { d with state := 3 }
    let s := d.inside.foldl (fun s c => onCore s c fun x => { x with ipendMon := x.ipendMon ||| 0x1000000 }) s
    enclGone s e

/-- The enclaves of a partition. -/
def enclsOf (s : State) (n : Nat) : List Nat :=
  (List.range 64).filter fun e => (getEncl s e).state ≠ 0 && (getEncl s e).part = n

/-- A partition taken down (R195, R196): its enclaves destroyed, its entry cleared. -/
def partDown (s : State) (n : Nat) : State := pctxPut ((enclsOf s n).foldl enclDying s) n 0

/-- PART_UNLOAD (R196, R198). -/
def execPartUnload (c : Nat) (s : State) : Host.Outcome State Fault Refusal :=
  .next (serve s c 0x02 fun x =>
    let n := callReg x 10
    if n = 0 || 15 < n then answer s c 3 0
    else if partInUse s n then answer (pctxLog s { x with level := .mon } (0x40 + n)) c 4 0
    else answer (partDown s n) c 0 0)

/-- The deletion of an owner reaches its partition (R195): both cores are called out of it by the Hypervisor software
interrupt. -/
def partDelete (s : State) (n : Nat) : State :=
  let call := fun (s : State) (c : Nat) => onCore s c fun x =>
    if x.part = n then { x with ipendHyp := x.ipendHyp ||| 1 } else x
  partDown (call (call s 0) 1) n

/-- ENCL_CREATE (R180, R181). -/
def execEnclCreate (c : Nat) (s : State) : Host.Outcome State Fault Refusal :=
  .next (serve s c 0x10 fun x =>
    let g := callReg x 10
    let n := x.wsave.part
    if g % 4096 ≠ 0 || 2 ^ 32 ≤ g || !(pctxOf s n).getLsbD 1 then answer s c 3 0
    else match (List.range 64).find? fun e => (getEncl s e).state = 0 with
      | none => answer s c 6 0
      | some e =>
        let m := sha256 (ascii "STOLTO-ENCL" ++ leBytes 1 n ++ leBytes 4 g)
        answer (setEncl s e { state := 1, part := n, base := BitVec.ofNat 64 g, meas := m }) c 0 e)

/-- The status that refuses a service on enclave e of the caller's partition (R171, R172, log 34). -/
def enclStatus (s : State) (x : Core) (e : Nat) (states : List Nat) : Option Nat :=
  let d := getEncl s e
  if 64 ≤ e then some 3
  else if d.state ≠ 0 && d.part ≠ x.wsave.part then some 5
  else if d.state = 0 then some 3
  else if !states.contains d.state then some 4
  else none

/-- The pages from which the firmware takes a free one: those of system SRAM above the staging window with no tag
(R180; 19 R442). -/
def freePages (s : State) : List Nat :=
  ((List.range 192).map (320 + ·)).filter fun p => !(tget 0 s.cores.ptt p).testBit 15

/-- A page mapped in partition n's stage 2 (R180); none without a level-2 table. -/
def mapPage (s : State) (n gpa phys perm : Nat) : Option State :=
  let l1 := walkWord s (rootPage (pctxOf s n) * 4096 + 4 * (gpa / 2 ^ 22 % 1024))
  let at_ := fld l1 12 20 * 4096 + 4 * (gpa / 4096 % 1024)
  if bit l1 0 && !ptLeaf l1 && inSram at_ 4 then
    some (sramWrite s (at_ - 0x10000000) (leBytes 4 (0x10000000 + 4096 * phys + 2 * perm + 1)))
  else none

/-- The permissions of a page of an enclave: the control page R and W without X, none with W and without R. -/
def enclPermOk (off perm : Nat) : Bool :=
  perm < 8 && (if off = 0 then perm = 3 else perm ≠ 0 && !(perm.testBit 1 && !perm.testBit 0))

/-- Tag entry of a page (R178). -/
def tagWord (e perm : Nat) : Nat :=
  2 ^ 15 + b2n (perm.testBit 0) * 2 ^ 14 + b2n (perm.testBit 1) * 2 ^ 13 + b2n (perm.testBit 2) * 2 ^ 12 + e

/-- ENCL_ADD (R180, R181). -/
def execEnclAdd (c : Nat) (s : State) : Host.Outcome State Fault Refusal :=
  .next (serve s c 0x11 fun x =>
    let e := callReg x 10
    let src := callReg x 11
    let off := callReg x 12
    let perm := callReg x 13
    let n := x.wsave.part
    let d := getEncl s e
    match enclStatus s x e [1] with
    | some st => answer s c st 0
    | none =>
      if off % 4096 ≠ 0 || src % 4096 ≠ 0 || 256 * 4096 ≤ off || !enclPermOk off perm
          || d.pages.any (·.1 = off / 4096) || 2 ^ 32 ≤ d.base.toNat + off then answer s c 3 0
      else match gpaRead s n src 4096 with
        | none => answer s c 3 0
        | some page =>
          let ps := freePages s
          let (f, s) := freeBytes s 2
          match ps[leNat f % max 1 ps.length]? with
          | none => answer s c 6 0
          | some p => match mapPage s n (d.base.toNat + off) p perm with
            | none => answer s c 6 0
            | some s =>
              let s := sramWrite s (4096 * p) page
              let s := s.setCores { s.cores with ptt := tput 0 s.cores.ptt p (tagWord e perm) }
              let m := sha256 (d.meas ++ leBytes 4 off ++ leBytes 1 perm ++ page)
              answer (setEncl s e { d with meas := m, pages := d.pages ++ [(off / 4096, p)] }) c 0 0)

/-- An entry offset may be sealed (R180). -/
def entryOk (s : State) (d : Encl) (o : Nat) : Bool :=
  o = 0 || (o % 4 = 0 && 4096 ≤ o && match d.pages.find? (·.1 = o / 4096) with
    | some p => (tget 0 s.cores.ptt p.2).testBit 12
    | none => false)

/-- ENCL_SEAL (R180, R181). -/
def execEnclSeal (c : Nat) (s : State) : Host.Outcome State Fault Refusal :=
  .next (serve s c 0x12 fun x =>
    let e := callReg x 10
    let d := getEncl s e
    let en := [callReg x 11, callReg x 12, callReg x 13, callReg x 14]
    match enclStatus s x e [1] with
    | some st => answer s c st 0
    | none =>
      if !en.all (entryOk s d) || !d.pages.any (·.1 = 0) then answer s c 3 0
      else
        let m := sha256 (d.meas ++ en.flatMap (leBytes 4))
        answer (setEncl s e { d with state := 2, entries := en, meas := m }) c 0 0)

/-- ENCL_DESTROY (R180, R194). -/
def execEnclDestroy (c : Nat) (s : State) : Host.Outcome State Fault Refusal :=
  .next (serve s c 0x13 fun x =>
    let e := callReg x 10
    match enclStatus s x e [1, 2] with
    | some st => answer s c st 0
    | none => answer (enclDying s e) c 0 0)

/-- ENCL_REPORT (R171, R179). -/
def execEnclReport (c : Nat) (s : State) : Host.Outcome State Fault Refusal :=
  .next (serve s c 0x14 fun x =>
    let e := callReg x 10
    match enclStatus s x e [1, 2, 3] with
    | some st => answer s c st 0
    | none => match gpaWrite s x.wsave.part (callReg x 11) (slice (getEncl s e).meas 0 32) with
      | some s => answer s c 0 0
      | none => answer s c 3 0)

/-- How an owner's operand DMA for PKE_RAW ends. -/
inductive RawDma where
  /-- every access passed -/
  | ok
  /-- an access stalls; the call is made again -/
  | wait
  /-- an access was refused, or a page does not translate -/
  | bad (s : State)

/-- The normal-world accesses of initiator 4 to a range of the caller's (R305, 08 R199, R209), granule by granule. -/
def rawDma (s : State) (n a len : Nat) (write : Bool) : RawDma :=
  (granules a len).foldl (fun r g => match r with
    | .ok => (match gpaPage s n g (if write then 1 else 0) with
      | none => .bad s
      | some p => match dmaCheck s 4 n write false (0x10000000 + p) (min (64 - g % 64) (a + len - g)) with
        | .ok => .ok
        | .stall _ => .wait
        | .deny x src idx => .bad (refuseAcc s x src idx))
    | r => r) .ok

/-- The entry of a PKE_RAW job: raw mode, FN and OWNER the partition, and its block. -/
def rawWords (n : Nat) (b : Bytes) : List Word :=
  [0x100, 0, 0, wordOf (n + 16 * n), 0, 0, 0, 0] ++ (List.range (b.length / 4)).map fun k => wordOf (leAt b (4 * k) 4)

/-- The call after a raw job's end (R305): the accumulator written back, status 0. -/
def rawBack (s : State) (c n a : Nat) (j : RawJob) (acc : Bytes) : State :=
  let done := fun (s : State) => s.setPke { s.pke with raw := tput none s.pke.raw n none }
  match rawDma s n a 72 true with
  | .wait => answer s c 4 0
  | .bad s => answer (done s) c 5 0
  | .ok => match gpaWrite s n a acc with
    | some s => answer (done s) c 0 j.steps
    | none => answer (done s) c 5 0

/-- The first call of a raw job (R305): its block read, and the job posted as BULK work of the caller's function. -/
def rawPost (s : State) (c n p a k : Nat) : State :=
  let len := 0x80 + 0x40 * k
  match rawDma s n a len false with
  | .wait => answer s c 4 0
  | .bad s => answer s c 5 0
  | .ok => match gpaRead s n a len with
    | none => answer s c 5 0
    | some b =>
      let s := s.setPke { s.pke with raw := tput none s.pke.raw n (some { inst := p, addr := a, steps := k }) }
      let i := getPke s p
      answer (setPke s p { i with waiting := i.waiting ++ [{ words := rawWords n b, cls := 2, raw := some n }] }) c 4 0

/-- PKE_RAW (R305, R249): status 4 for PKE0 while a custody-verify run is pending or resident, also for a job that has
ended. -/
def execPkeRaw (c : Nat) (s : State) : Host.Outcome State Fault Refusal :=
  .next (serve s c 0x20 fun x =>
    let p := callReg x 10
    let a := callReg x 11
    let k := callReg x 12
    let n := x.wsave.part
    if 2 ≤ p || a % 64 ≠ 0 || k = 0 || 64 < k then answer s c 3 0
    else if p = 0 && s.cus.run ≠ 0 then answer s c 4 0
    else match tget none s.pke.raw n with
      | some j => match j.acc with
        | none => answer s c 4 0
        | some acc => if j.inst ≠ p || j.addr ≠ a then answer s c 4 0 else rawBack s c n a j acc
      | none => if 16 ≤ (getPke s p).waiting.length || !gateOk s 12 then answer s c 4 0 else rawPost s c n p a k)

/-- IRQ_RAISE (R171, R191; 14 R351): a vector from 16 to 63 of the partition's own function. -/
def execIrqRaise (c : Nat) (s : State) : Host.Outcome State Fault Refusal :=
  .next (serve s c 0x30 fun x =>
    if callReg x 10 < 16 || 64 ≤ callReg x 10 then answer s c 3 0 else answer (irq s x.wsave.part (callReg x 10)) c 0 0)

end Sys2Proof.Machine
end

