-- ==== Sys2Proof/Machine/Owners.lean ====
section
/-! DEFINITION. The end of zeroizations and of owner deletions (09 R239, R240; 10 R256). -/
namespace Sys2Proof.Machine

/-- Some slot belongs to owner n. -/
def ownerHolds (s : State) (n : Nat) : Bool := (usedSlots s).any fun p => p.2.owner = n

/-- The rest of an owner deletion (R240, 10 R256): the owner ceases to exist, the branches are derived afresh (09 R224), its
function is dormant and its partition is unloaded. DESIGN CHOICE (log 96): its rings stay enabled, work already admitted
or taken goes on, and firmware-class fetches stop. -/
def ownerGone (s : State) (n : Nat) : State :=
  let s := deriveAll (s.setVlt { s.vlt with exist := s.vlt.exist &&& ~~~(BitVec.ofNat 16 (2 ^ n)) })
  endWaits (partDelete s n) (.owner n) id

/-- An owner deletion ends once no slot of the owner is left. -/
def ownerCheck (s : State) (n : Nat) : State :=
  if (s.hif.waits.any fun w => w.tag = .owner n) && !ownerHolds s n then ownerGone s n else s

/-- The deletions that wait take their edge (R240): the owner's slots are zeroized. -/
def ownerEdge (s : State) : State :=
  ((List.range 16).filter fun n => s.hif.waits.any fun w => w.tag = .owner n).foldl
    (fun s n => ownerCheck (zeroizeOwner s n) n) s

/-- Some slot of the association is ZEROIZING. -/
def assocZeroizing (s : State) (a : Nat) : Bool := (usedSlots s).any fun p => p.2.assoc = a && p.2.state = 3

/-- ZEROIZE_READBACK (R239): a pass frees the slot; a second failure quarantines it. Commands that waited for it go on.
The readback comes once no fast-path operation holds the slot (01 R33). -/
def execZeroizeReadback (n : Nat) (ok : Bool) (s : State) : Host.Outcome State Fault Refusal :=
  let x := getSlot s n
  if !mainUp s || x.state ≠ 3 || macHolds s n then .next s
  else
    let t := readback s n ok
    let t := if getAssoc t x.assoc = getAssoc s x.assoc then t else journalAssoc t x.assoc
    let t := if assocZeroizing t x.assoc then t else endWaits t (.zeroed x.assoc) id
    .next (ownerCheck t x.owner)

end Sys2Proof.Machine
end

