-- ==== Sys2Proof/Machine/CmdCustody.lean ====
section
/-! DEFINITION. The custody family (15 R379; 10 R246, R250 to R262). -/
namespace Sys2Proof.Machine

/-- CUSTODY_REQUEST (R379, R246): the record's OP, PARAM and ARG_HASH, then the commit. For the commissioning form the
second part is the CFGK digest. -/
def custodyRequestCmd (s : State) (_fn : Nat) (d : Bytes) (io : CmdIo) : Ans :=
  let op := dOpnd d 0
  let a := auxOf d io
  if dAuxLen d ≠ 64 || op = 0 || 0x0D < op then .bad s
  else
    let s := custCancelAll s 4 0xA
    let req := leBytes 1 op ++ List.replicate 47 0 ++ a.take 32 ++ a.drop 32
    let s := onCus s fun c => { c with
      req := req, candCfgk := if commForm s op then slice a 32 32 else c.candCfgk }
    match custCommitRun s with
    | (s, st, w) => if st = 0 then { st := s, wait := some .request } else if st = 2 then .notReady s w else .stop s st

/-- CUSTODY_CANCEL (R379). -/
def custodyCancelCmd (s : State) (_fn : Nat) (_d : Bytes) (_io : CmdIo) : Ans := { st := custCancelAll s 4 0xA }

/-- CUSTODY_STATUS (R379). -/
def custodyStatusCmd (s : State) (_fn : Nat) (_d : Bytes) (_io : CmdIo) : Ans :=
  { st := s
    result := resOf (leBytes 4 (reqNoOf s).toNat ++ leBytes 1 s.cus.state ++ leBytes 1 s.cus.result
      ++ leBytes 1 (if s.cus.latch.isSet then s.cus.latch.op else 0)) }

/-- The latch of an operation whose arguments the command names (R250): f consumes it. -/
def withLatch (s : State) (op : Nat) (same : Bool) (f : Ans) : Ans := if latchFor s op && same then f else .denied s

/-- PARAM byte i of the record. -/
def paramB (s : State) (i : Nat) : Nat := byteAt (reqParam s) i

/-- OWNER_CREATE (R256, 09 R224). -/
def ownerCreateCmd (s : State) (_fn : Nat) (d : Bytes) (_io : CmdIo) : Ans :=
  let n := dOpnd d 0
  if n = 0 || 15 < n then .bad s
  else withLatch s 0x01 (paramB s 0 = n)
    (if ownerExists s n then .denied s
     else
       let e := s.vlt.epochs.getD n 0
       if e = 0xFFFFFFFF then .stop s 0x13
       else
         let s := latchConsume s
         let s := s.setVlt { s.vlt with epochs := s.vlt.epochs.set n (e + 1), exist := s.vlt.exist ||| BitVec.ofNat 16 (2 ^ n) }
         { st := deriveAll s, result := (e + 1).setWidth 64 })

/-- OWNER_DELETE (R256, 09 R240): it completes once the owner's slots are FREE. -/
def ownerDeleteCmd (s : State) (_fn : Nat) (d : Bytes) (_io : CmdIo) : Ans :=
  let n := dOpnd d 0
  if n = 0 || 15 < n then .bad s
  else withLatch s 0x02 (paramB s 0 = n)
    (if !ownerExists s n then .denied s else { st := latchConsume s, wait := some (.owner n) })

/-- The blob of an export (R257) without its key: bytes 0x00 to 0x0F. -/
def blobHead (owner alg usage len : Nat) : Bytes :=
  [0x53, 0x58, 0x50, 0x54] ++ leBytes 1 owner ++ leBytes 1 alg ++ leBytes 1 usage ++ [1] ++ leBytes 2 len
    ++ List.replicate 6 0

/-- KEK of an export (R257). -/
def exportKek (z head : Bytes) : Bytes := kdf z (ascii "STOLTO-EXPORT") (head.take 16) 32

/-- The key to export: owner, ALG, USAGE, EXPORT and material, with the state after its use; or a status. A handle is used as
any firmware-class use does, by the season rule and through the cache (09 R217, R232, R234). -/
def exportKey (s : State) (d : Bytes) : (Nat × State) ⊕ (Nat × Nat × Nat × Bool × Bytes × State) :=
  let owner := paramB s 0
  if dOpnd d 1 = 0 then
    match resolve s (dKey d) with
    | none => .inl (0x12, s)
    | some (n, x) =>
      if x.owner ≠ owner then .inl (0x10, s)
      else if !servesNow s x true then .inl (0x12, s)
      else match slotUse s n x with
        | .inl e => .inl e
        | .inr (m, s) => .inr (owner, x.alg, x.usage, x.exp, m, s)
  else match objOpen s owner (dOpndN d 4 2) (fun _ => true) (fun _ => true) with
    | .inl st => .inl (st, s)
    | .inr (h, m) => .inr (owner, byteAt h 3, byteAt h 4, byteAt h 5 % 2 = 1, m, s)

/-- KEY_EXPORT (R257). -/
def keyExportCmd (s : State) (fn : Nat) (d : Bytes) (io : CmdIo) : Ans :=
  let obj := dOpnd d 1
  let p := auxOf d io
  let name := if obj = 1 then dOpndN d 4 2 else (dKey d).toNat
  if 1 < obj || (obj = 1 && dKey d ≠ 0) || (obj = 0 && dOpndN d 4 2 ≠ 0) || dAuxLen d ≠ 97 then .bad s
  else withLatch s 0x03 (paramB s 1 = obj && leAt (reqParam s) 4 4 = name && sha256 p = reqArg s)
    (match exportKey s d with
     | .inl (st, s) => .stop s st
     | .inr (owner, alg, usage, exp, m, s) =>
       if !exp then .denied s
       else if (ptDecode p384 p).isNone then .bad s
       else if engDown s pkeEngs then .aborted s
       else withRandom s fn d (scalarBytes 6) fun s b =>
         let e := Config.scalarFrom 6 b
         match ecdhZ p384 e p with
         | none => .aborted s
         | some z =>
           let h := blobHead owner alg usage m.length
           { st := latchConsume s, out := h ++ ecPub p384 e ++ kwpWrap (exportKek z h) m })

/-- KEY_RESTORE (R258): the AGREE key, the quota and the new key are those of the owner that PARAM names. -/
def keyRestoreCmd (s : State) (_fn : Nat) (d : Bytes) (io : CmdIo) : Ans :=
  let b := inOf d io
  let k := specOf d
  if !specOk d || dLen d < 0x71 + 16 then .bad s
  else withLatch s 0x04
    (leAt (reqParam s) 4 4 = (dKey d).toNat && byteAt b 4 = paramB s 0 && sha256 b = reqArg s)
    (let owner := paramB s 0
     match newKeyCheck s owner d with
     | .inl a => a
     | .inr n => withKey s owner d 7 (· = 6) fun s _ key =>
       if engDown s pkeEngs then .aborted s
       else match ecdhZ p384 (beNat key) (slice b 0x10 97) with
         | none => .bad s
         | some z => match kwpUnwrap (exportKek z b) (b.drop 0x71) with
           | none => .denied s
           | some m =>
             if m.length ≠ algLen k.alg || byteAt b 5 ≠ k.alg || byteAt b 6 ≠ k.usage then .denied s
             else newKey (latchConsume s) owner d n m false)

/-- SNUFF (R260): the completion is formed just before Snuff starts. -/
def snuffCmd (s : State) (_fn : Nat) (_d : Bytes) (_io : CmdIo) : Ans :=
  withLatch s 0x05 true { st := latchConsume s, after := fun s => snuffTrig s 2 0 }

/-- The debug level that a number names. -/
def dbgOf (n : Nat) : Dbg := if n = 2 then .opened else .authenticated

/-- A debug authorisation verified in SERVICE (03 M8, R78, R86): the switch is announced for the edge of tick V + 5. -/
def debugAnnounce (s : State) (level : Nat) : State :=
  let s := s.setMode { s.mode with dbgPend := some (dbgOf level) }
  announceCmd s 4 0 (s.glb.tick + 5)

/-- DEBUG_AUTH (R259, 03 R71): refused while the debug-disable fuse counts as disabled, outside SERVICE, or while another
announcement stands. -/
def debugAuthCmd (s : State) (_fn : Nat) (d : Bytes) (_io : CmdIo) : Ans :=
  let n := dOpnd d 0
  if n = 0 || 2 < n then .bad s
  else withLatch s 0x06 (paramB s 0 = n && !s.fus.dbgdis && s.mode.mode = .service && annFree s)
    { st := debugAnnounce (latchConsume s) n, result := (s.glb.tick + 5).setWidth 64 }

/-- Copy-A address of a custodian slot's control word (06 R136). -/
def cusWord (n : Nat) : Nat := 112 + 27 * n

/-- The words of a custodian slot's digest, then its ENROLLED bits (R254, R255). -/
def enrolWords (n : Nat) (dig : Bytes) : List (Nat × Word) := bytesWords (cusWord n + 1) dig ++ [(cusWord n, 0xFF)]

/-- Words blown by a command, the k-th copy failing: the failure ends it with ABORTED (06 R146), else f goes on with the
count left. -/
def blowPart (s : State) (k : Nat) (l : List (Nat × Word)) (f : State → Nat → Ans) : Ans :=
  match blowRun s k (blowCopies l) with
  | (s, none) => .aborted s
  | (s, some k) => f s k

/-- Words blown by a command whose io names the copy that fails. -/
def blowOr (s : State) (io : CmdIo) (l : List (Nat × Word)) (f : State → Ans) : Ans :=
  blowPart s io.fail.toNat l fun s _ => f s

/-- The checks of a ceremony that blows fuses (R253): VPP_FUSE in range, else ABORTED (03 R68); random output, else
NOT_READY (13 R323). -/
def blowReady (s : State) (a : Ans) : Ans :=
  if !vppOk s then .aborted s
  else if !rngReady s.rng then .notReady s (rngWait s (rngRemain s.rng))
  else a

/-- CUS_ENROL (R255, R242). -/
def cusEnrolCmd (s : State) (_fn : Nat) (d : Bytes) (io : CmdIo) : Ans :=
  let n := dOpnd d 0
  if 7 < n then .bad s
  else withLatch s 0x07 (paramB s 0 = n)
    (let dig := reqArg s
     if enrolClash s n dig then .denied s
     else blowReady s (blowOr (latchConsume s) io (enrolWords n dig) fun s => { st := s }))

/-- CUS_REVOKE (R255, R242). -/
def cusRevokeCmd (s : State) (_fn : Nat) (d : Bytes) (io : CmdIo) : Ans :=
  let n := dOpnd d 0
  if 7 < n then .bad s
  else withLatch s 0x08 (paramB s 0 = n)
    (if revokeShort s n then .denied s
     else blowReady s (blowOr (latchConsume s) io [(cusWord n, 0xFF00)] fun s => { st := s }))

/-- FAULT_ENABLE (R262): the latch stays set until EXPIRES. -/
def faultEnableCmd (s : State) (_fn : Nat) (d : Bytes) (_io : CmdIo) : Ans :=
  let fns := dOpndN d 0 2
  let ch := dOpnd d 2
  if 3 < ch then .bad s
  else withLatch s 0x0A (leAt (reqParam s) 0 2 = fns && paramB s 2 = ch)
    { st := latchConsume (s.setFlt { s.flt with funcs := BitVec.ofNat 16 fns, chans := BitVec.ofNat 2 ch }) }

/-- A new vault root (R254, R260, 09 R223, R224): every owner slot and owner gone, the epochs at 0. -/
def newRoot (s : State) (vr : Bytes) : State :=
  let s := s.setVlt { s.vlt with
    slots := s.vlt.slots.filter (fun p => p.2.owner = 0), exist := 0, epochs := List.replicate 16 0
    vr := vr, vrchk := vrchkOf s.fus.dur vr, keyOps := [], seasons := [], cache := s.vlt.cache.filter (fun e => e.hdr.owner = 0)
    assocs := s.vlt.assocs.filter (fun p => match p.2 with
      | some a => a.owner = 0
      | none => false) }
  s

/-- The fuses of the commissioning form (R254): CFGK, the candidates' digests and ENROLLED bits, and the LC COMM group. In
COMMISSIONED the table of 06 R145 leaves the digests and ENROLLED bits (log 80). -/
def commWords (s : State) : List (Nat × Word) :=
  let prov := s.fus.lc = .provisioned
  (if prov then bytesWords 88 s.cus.candCfgk else [])
    ++ (candSlots s).flatMap (fun n => enrolWords n (candDigest s n))
    ++ (if prov then [(0, lcGroup 1)] else [])

/-- RECOMMISSION (R260): VPP_FUSE and random output are checked first; the Snuff flag is cleared last. -/
def recommissionCmd (s : State) (fn : Nat) (d : Bytes) (io : CmdIo) : Ans :=
  withLatch s 0x0B (s.mode.mode = .snuffed && !s.mode.rootlock)
    (let form := s.cus.latch.form
     if form && !vppOk s then .aborted s
     else withRandom s fn d 32 fun s vr =>
       let words := commWords s
       let s := newRoot (stickyConsume (latchConsume s)) vr
       let fin := fun (s : State) => { st := snuffFlagClear s, after := fun s => cmdReset s 0x0D : Ans }
       if form then blowOr s io words fin else fin s)

/-- RETIRE (R261): VPP_FUSE and random output are checked before anything; Snuff runs first and the rest follows it, at once
where a Snuff has run and its flag stands, which starts no second one (17 R419, R420). -/
def retireCmd (s : State) (_fn : Nat) (_d : Bytes) (io : CmdIo) : Ans :=
  withLatch s 0x0C true
    (blowReady s
      { st := stickyConsume (latchConsume s), wait := some (.retire io.fail.toNat), 
        after := fun s => let t := snuffTrig s 3 0; if s.snf.flag then retireEnd t else t })

/-- COMMISSION (R254): the vault root before any fuse, the LC COMM group last; the security log pins its first entries from
now on (18 R427). -/
def commissionCmd (s : State) (fn : Nat) (d : Bytes) (io : CmdIo) : Ans :=
  withLatch s 0x0D (s.fus.lc = .provisioned && s.mode.mode = .service)
    (if !vppOk s then .aborted s
     else withRandom s fn d 32 fun s vr =>
       let s := latchConsume (s.setEvr { s.evr with pinOn := true })
       blowOr (newRoot s vr) io (commWords s) fun s => { st := s, after := fun s => cmdReset s 2 })

/-- CUSTODY_REQUEST (15 R379). -/
def execCustodyRequest (fn r : Nat) (io : CmdIo) (s : State) : Host.Outcome State Fault Refusal :=
  .next (serveCmd s fn r 0x70 fun s d => custodyRequestCmd s fn d io)

/-- CUSTODY_CANCEL (15 R379). -/
def execCustodyCancel (fn r : Nat) (io : CmdIo) (s : State) : Host.Outcome State Fault Refusal :=
  .next (serveCmd s fn r 0x71 fun s d => custodyCancelCmd s fn d io)

/-- CUSTODY_STATUS (15 R379). -/
def execCustodyStatus (fn r : Nat) (io : CmdIo) (s : State) : Host.Outcome State Fault Refusal :=
  .next (serveCmd s fn r 0x72 fun s d => custodyStatusCmd s fn d io)

/-- OWNER_CREATE (15 R379). -/
def execOwnerCreate (fn r : Nat) (io : CmdIo) (s : State) : Host.Outcome State Fault Refusal :=
  .next (serveCmd s fn r 0x73 fun s d => ownerCreateCmd s fn d io)

/-- OWNER_DELETE (15 R379). -/
def execOwnerDelete (fn r : Nat) (io : CmdIo) (s : State) : Host.Outcome State Fault Refusal :=
  .next (serveCmd s fn r 0x74 fun s d => ownerDeleteCmd s fn d io)

/-- KEY_EXPORT (15 R379). -/
def execKeyExport (fn r : Nat) (io : CmdIo) (s : State) : Host.Outcome State Fault Refusal :=
  .next (serveCmd s fn r 0x75 fun s d => keyExportCmd s fn d io)

/-- KEY_RESTORE (15 R379). -/
def execKeyRestore (fn r : Nat) (io : CmdIo) (s : State) : Host.Outcome State Fault Refusal :=
  .next (serveCmd s fn r 0x76 fun s d => keyRestoreCmd s fn d io)

/-- SNUFF (15 R379). -/
def execSnuff (fn r : Nat) (io : CmdIo) (s : State) : Host.Outcome State Fault Refusal :=
  .next (serveCmd s fn r 0x77 fun s d => snuffCmd s fn d io)

/-- DEBUG_AUTH (15 R379). -/
def execDebugAuth (fn r : Nat) (io : CmdIo) (s : State) : Host.Outcome State Fault Refusal :=
  .next (serveCmd s fn r 0x78 fun s d => debugAuthCmd s fn d io)

/-- CUS_ENROL (15 R379). -/
def execCusEnrol (fn r : Nat) (io : CmdIo) (s : State) : Host.Outcome State Fault Refusal :=
  .next (serveCmd s fn r 0x79 fun s d => cusEnrolCmd s fn d io)

/-- CUS_REVOKE (15 R379). -/
def execCusRevoke (fn r : Nat) (io : CmdIo) (s : State) : Host.Outcome State Fault Refusal :=
  .next (serveCmd s fn r 0x7A fun s d => cusRevokeCmd s fn d io)

/-- FAULT_ENABLE (15 R379). -/
def execFaultEnable (fn r : Nat) (io : CmdIo) (s : State) : Host.Outcome State Fault Refusal :=
  .next (serveCmd s fn r 0x7C fun s d => faultEnableCmd s fn d io)

/-- RECOMMISSION (15 R379). -/
def execRecommission (fn r : Nat) (io : CmdIo) (s : State) : Host.Outcome State Fault Refusal :=
  .next (serveCmd s fn r 0x7D fun s d => recommissionCmd s fn d io)

/-- RETIRE (15 R379). -/
def execRetire (fn r : Nat) (io : CmdIo) (s : State) : Host.Outcome State Fault Refusal :=
  .next (serveCmd s fn r 0x7E fun s d => retireCmd s fn d io)

/-- COMMISSION (15 R379). -/
def execCommission (fn r : Nat) (io : CmdIo) (s : State) : Host.Outcome State Fault Refusal :=
  .next (serveCmd s fn r 0x7F fun s d => commissionCmd s fn d io)

end Sys2Proof.Machine
end

