-- ==== Sys2Proof/Machine/Can.lean ====
section
/-! DEFINITION. The CAN controllers: modes, integration, buffers, reception, fault confinement, bus-off
(11 R266 to R274, R286; 14 R361, R362). -/
namespace Sys2Proof.Machine

/-- s with controller ch replaced by a function of it. -/
def onCan (s : State) (ch : Nat) (f : CanCh → CanCh) : State := setCan s ch (f (getCan s ch))

/-- Nominal time quanta in a bit, and kernel cycles. -/
def ntQuanta (w : Word) : Nat := 1 + (fld w 16 8 + 1) + (fld w 8 7 + 1)
/-- Nominal bit time in kernel cycles. -/
def ntCycles (w : Word) : Nat := (fld w 24 8 + 1) * ntQuanta w
/-- Data bit time in kernel cycles. -/
def dtCycles (w : Word) : Nat := (fld w 24 5 + 1) * (1 + (fld w 8 5 + 1) + (fld w 4 4 + 1))

/-- The limits of R268 at 80 MHz. -/
def timingOk (nbt dbt : Word) : Bool :=
  1 ≤ fld nbt 16 8 && fld nbt 0 7 ≤ fld nbt 8 7 && 80 ≤ ntCycles nbt
    && fld dbt 0 4 ≤ fld dbt 4 4 && 10 ≤ dtCycles dbt && dtCycles dbt ≤ ntCycles nbt
    && (80 ≤ dtCycles dbt || bit dbt 23)

/-- The controller stops at once: no frame is on the bus. -/
def canStop (c : CanCh) : CanCh := { c with mode := 0, synced := false, stopReq := false }

/-- A write of CANx_CTL.MODE (R268, CANx_CTL). -/
def canMode (s : State) (ch m : Nat) : State :=
  let c := getCan s ch
  if m = 0 then setCan s ch (if c.onBus.isSome then { c with stopReq := true } else canStop c)
  else if c.mode = 0 then
    (if timingOk c.nbt c.dbt then setCan s ch { c with mode := m, synced := false }
     else refuseWrite s (canBase ch) 0xA)
  else setCan s ch { c with mode := m, stopReq := false }

/-- CAN_MODE (R268). -/
def execCanMode (ch m : Nat) (s : State) : Host.Outcome State Fault Refusal :=
  .next (onE s (9 + ch) (canBase ch) fun s => pickTx (canMode s ch m) ch)

/-- The kernel clock lets the controller rejoin (05 R127, R129). -/
def canClocked (s : State) : Bool := !relockB s && s.clk.lockB && !s.mode.hold

/-- The HELLOs of a node that starts (R280). -/
def startHello (s : State) (ch : Nat) : State := sendHello s ch (if ch = 0 then 0xFF else twinNode s)

/-- BUS_INTEGRATION (R268, 05 R127): 11 recessive bits complete integration; a node that starts sends its HELLO (R280). -/
def execBusIntegration (ch : Nat) (s : State) : Host.Outcome State Fault Refusal :=
  let c := getCan s ch
  if c.mode ≠ 0 && !c.synced && canRuns s ch && canClocked s then
    let t := setCan s ch { c with synced := true, parked := false }
    .next (pickTx (if c.parked then t else startHello t ch) ch)
  else .next s

/-- A FREE buffer made PENDING (R270); one requested in DIM waits for the wake (R286). -/
def txReq (dim : Bool) (m : Byte) (c : CanCh) : CanCh :=
  (bitsOf 8 m.toNat).foldl (fun c b =>
    let x := getTx c b
    if x.pend then c
    else putTx c b { x with pend := true, tries := 0, otherErr := false, abortReq := false, late := dim }) c

/-- At the entry of DIM every PENDING buffer may still be sent (R286). -/
def txSettle (c : CanCh) : CanCh := { c with tx := c.tx.map fun p => (p.1, { p.2 with late := false }) }

/-- TXREQ (R270). -/
def execTxreq (ch : Nat) (m : Byte) (s : State) : Host.Outcome State Fault Refusal :=
  .next (onE s (9 + ch) (canBase ch + 0x20) fun s => pickTx (onCan s ch (txReq (s.mode.mode = .dim) m)) ch)

/-- An abort of pending buffers (R270): at the end of the frame for a buffer whose frame is on the bus. -/
def txAbort (m : Byte) (c : CanCh) : CanCh :=
  (bitsOf 8 m.toNat).foldl (fun c b =>
    let x := getTx c b
    if !x.pend then c
    else if c.onBus = some b then putTx c b { x with abortReq := true }
    else putTx c b { x with pend := false, aborted := true }) c

/-- TXABORT (R270). -/
def execTxabort (ch : Nat) (m : Byte) (s : State) : Host.Outcome State Fault Refusal :=
  .next (onE s (9 + ch) (canBase ch + 0x24) fun s => onCan s ch (txAbort m))

/-- BOR_REQ (R273). -/
def execBorReq (ch : Nat) (s : State) : Host.Outcome State Fault Refusal :=
  .next (onE s (9 + ch) (canBase ch) fun s => onCan s ch fun c =>
    if c.state = 2 && !c.borAuto then { c with borRun := true } else c)

/-- RXPOP (R271). -/
def execRxpop (ch : Nat) (s : State) : Host.Outcome State Fault Refusal :=
  .next (onE s (9 + ch) (canBase ch + 0x44) fun s =>
    canIrq (onCan s ch fun c => { c with fifo := c.fifo.drop 1 }) ch)

/-! ### Error counters (R272) -/

/-- STATE from the counters; bus-off stays until recovery. -/
def canState (c : CanCh) : CanCh :=
  if c.state = 2 then c else { c with state := if 127 < c.tec || 127 < c.recv then 1 else 0 }

/-- REC after a frame received without error: down by 1, or from above 127 to a free value from 119 to 127. -/
def recGood (s : State) (ch : Nat) : State :=
  let c := getCan s ch
  if 127 < c.recv then
    let (f, s) := freeBytes s 1
    setCan s ch (canState { c with recv := 119 + byteAt f 0 % 9 })
  else setCan s ch (canState { c with recv := c.recv - 1 })

/-- TEC raised by n steps of 8; above 255 the controller is bus-off (R272, R273). -/
def tecUp (s : State) (ch n : Nat) : State :=
  let c := getCan s ch
  if 255 < c.tec + 8 * n then
    logD (setCan s ch { c with tec := 255, state := 2, borRun := c.borAuto, onBus := none }) (canBlk ch) 1 (leBytes 8 0)
  else setCan s ch (canState { c with tec := c.tec + 8 * n })

/-- RECEIVE_ERROR (R272): REC rises by n under ISO 11898-1. -/
def execReceiveError (ch n : Nat) (s : State) : Host.Outcome State Fault Refusal :=
  let c := getCan s ch
  if c.mode ≠ 0 && c.mode ≠ 3 && c.synced && c.state ≠ 2 && canRuns s ch then
    .next (setCan s ch (canState { c with recv := min 255 (c.recv + n) }))
  else .next s

/-- BUS_OFF_RECOVERY (R273). -/
def execBusOffRecovery (ch : Nat) (s : State) : Host.Outcome State Fault Refusal :=
  let c := getCan s ch
  if c.state = 2 && c.borRun && canRuns s ch && c.mode ≠ 0 && !c.parked then
    .next (pickTx (logD (setCan s ch { c with tec := 0, recv := 0, state := 0, borRun := false }) (canBlk ch) 1 (leBytes 8 1)) ch)
  else .next s

/-! ### Reception (R267, R271) -/

/-- An enabled filter matches the identifier. -/
def fltMatches (c : CanCh) (id : Nat) : Bool :=
  (List.range 8).any fun n =>
    let w := tget 0 c.fltId n
    bit w 31 && (wordOf id ^^^ w) &&& tget 0 c.fltMask n &&& 0x1FFFFFFF = 0

/-- A frame enters the FIFO, or is lost (R271). -/
def rxPush (c : CanCh) (e : RxEnt) : CanCh :=
  if c.fifo.length < 16 then { c with fifo := c.fifo ++ [e] }
  else { c with rxovf := true, rxlost := satInc 0xFFFF c.rxlost }

/-- Frames that a reorder rule held back, delivered (R362). -/
def canFlush (s : State) (ch : Nat) : State :=
  let mine := s.flt.canHeld.filter fun p => p.1 = ch
  let s := s.setFlt { s.flt with canHeld := s.flt.canHeld.filter fun p => p.1 ≠ ch }
  onCan s ch fun c => mine.foldl (fun c p => rxPush c p.2) c

/-- Rule w names channel ch and is on (FLT_CAN). -/
def fltNamesCan (w : Word) (ch : Nat) : Bool := bit w 31 && b2n (bit w 24) = ch

/-- Provocation acts on the channel (R361). -/
def fltActiveCan (s : State) (ch : Nat) : Bool :=
  s.flt.en && fltAvailCh s ch && (List.range 4).any fun k => fltNamesCan (tget 0 s.flt.can k) ch

/-- The first CAN rule that names the channel and is hit (R362). -/
def fltFindCan (s : State) (ch : Nat) (l : Word) : Option (Nat × Word) :=
  ((List.range 4).map fun k => (k, tget 0 s.flt.can k)).find? fun p => fltNamesCan p.2 ch && fltHit l p.2

/-- The data field with the bit that LFSR bits [8:0] give inverted (R362). -/
def fltCorrupt (f : CanFrame) (l : Word) : CanFrame :=
  if f.data.isEmpty then f
  else
    let w := fld l 0 9 % (8 * f.data.length)
    { f with data := flipBit f.data (w / 8) (w % 8) }

/-- A matching frame delivered, through fault provocation (R362). -/
def rxDeliver (s : State) (ch : Nat) (e : RxEnt) : State :=
  if !fltActiveCan s ch then canFlush (onCan s ch fun c => rxPush c e) ch
  else
    let l := galois fltMask s.flt.lfsr
    let s := s.setFlt { s.flt with lfsr := l }
    match fltFindCan s ch l with
    | none => canFlush (onCan s ch fun c => rxPush c e) ch
    | some (k, w) =>
      let act := fld w 8 2
      let s := fltCount s 0 (16 + k) act
      if act = 1 then canFlush (onCan s ch fun c => rxPush c { e with frame := fltCorrupt e.frame l }) ch
      else if act = 2 then
        let s := canFlush s ch
        s.setFlt { s.flt with canHeld := s.flt.canHeld ++ [(ch, e)] }
      else canFlush s ch

/-- The twins share an address (11, "When both twins claim the same node address"). -/
def rxConflict (s : State) (ch : Nat) (f : CanFrame) : State :=
  if ch = 1 && f.ext && f.fd && idSrc f.id = ownNode s 1 && !s.can1.conflict then
    logS (s.setCan1 { s.can1 with conflict := true, onBus := none }) .can1 2 []
  else s

/-- The frame is addressed to this node or to all (R286). -/
def rxWakes (s : State) (ch : Nat) (f : CanFrame) : Bool :=
  s.mode.mode = .dim && ch = 0 && f.ext && f.fd && (idDst f.id = 1 || idDst f.id = 0xFF)

/-- A frame received without error: filtered, stored or counted (R267). -/
def rxFilter (s : State) (ch : Nat) (e : RxEnt) : State :=
  if e.frame.fd && e.frame.ext && fltMatches (getCan s ch) e.frame.id then rxDeliver s ch e
  else onCan s ch fun c => { c with disc := satInc 0xFFFF c.disc }

/-! ### Transmission (R270, R272, R274) -/

/-- The frame in buffer b was sent and acknowledged; in LOOPBACK the controller receives it itself. -/
def txOk (s : State) (ch b : Nat) : State :=
  let c := getCan s ch
  let x := getTx c b
  let s := setCan s ch (canState { putTx c b { x with pend := false, done := true, abortReq := false } with
    tec := c.tec - 1, alone := false })
  let f := { x.frame with data := slice x.frame.data 0 (dlcLen x.frame.dlc) }
  let s := if c.mode = 3 then rxFilter s ch ⟨f, x.stamp⟩ else s
  voeSent s ch x

/-- The retry limit is reached (R274). -/
def txLimit (c : CanCh) (x : TxBuf) : Bool := c.retry ≠ 0 && c.retry ≤ x.tries

/-- What a counted attempt that ended in an error leaves (R274): the frame aborts at the limit or on a request. -/
def txFailed (s : State) (ch b : Nat) (other : Bool) : State :=
  let c := getCan s ch
  let x := { getTx c b with tries := (getTx c b).tries + 1, otherErr := (getTx c b).otherErr || other }
  if txLimit c x then
    (if x.otherErr then setCan s ch (putTx c b { x with pend := false, aborted := true, abortReq := false })
     else
       voeNoAck (setCan s ch { putTx c b { x with pend := false, noAck := true, abortReq := false } with alone := true })
         ch x.frame)
  else if x.abortReq then setCan s ch (putTx c b { x with pend := false, aborted := true, abortReq := false })
  else setCan s ch (putTx c b x)

/-- An arbitration lost does not count (R274); a requested abort takes effect (R270). -/
def txLost (s : State) (ch b : Nat) : State :=
  onCan s ch fun c =>
    let x := getTx c b
    if x.abortReq then putTx c b { x with pend := false, aborted := true, abortReq := false } else c

/-- The counters after an attempt without acknowledge: an error-passive controller is exempt (R274). -/
def txNoAck (s : State) (ch : Nat) : State := if (getCan s ch).state = 1 then s else tecUp s ch 1

/-- A stop that waited for the end of the frame. -/
def canStopDue (c : CanCh) : CanCh := if c.stopReq then canStop c else c

/-- The buffer on the bus gets the stamp of its frame's start-of-frame edge, sof counts ago (R271). -/
def txStamp (s : State) (ch sof : Nat) : State := match (getCan s ch).onBus with
  | some b => onCan s ch fun c => putTx c b { getTx c b with stamp := stampBefore s sof }
  | none => s

/-- The attempt on the bus ends with its arbitration lost. -/
def lostAttempt (s : State) (ch : Nat) : State := match (getCan s ch).onBus with
  | some b => txLost (onCan s ch fun c => { c with onBus := none }) ch b
  | none => s

/-- A frame has ended: a stop that waited for it takes effect, waiting frames move up and the next one is offered. -/
def frameOver (s : State) (ch : Nat) : State :=
  let s := onCan s ch canStopDue
  pickTx (if voeRuns s ch then drainOut s else s) ch

/-- FRAME_RECEIVED (R267, R271, R274, R286): an own attempt on the bus has lost its arbitration to the frame, whose
start-of-frame edge it shared. -/
def execFrameReceived (ch : Nat) (f : CanFrame) (sof : Nat) (s : State) : Host.Outcome State Fault Refusal :=
  let c := getCan s ch
  if c.mode ≠ 0 && c.mode ≠ 3 && c.synced && c.state ≠ 2 && canRuns s ch then
    let s := lostAttempt (txStamp s ch sof) ch
    let s := recGood (onCan s ch fun c => { c with alone := false }) ch
    let s := rxConflict s ch f
    let s := canIrq (rxFilter s ch ⟨f, stampBefore s sof⟩) ch
    let s := if rxWakes s ch f then wakeTrigger s 7 else s
    .next (frameOver s ch)
  else .next s

/-- FRAME_TX_END (R270 to R274): an attempt ends, its frame stamped (R271). -/
def execFrameTxEnd (ch : Nat) (e : TxEnd) (sof : Nat) (s : State) : Host.Outcome State Fault Refusal :=
  match (getCan s ch).onBus with
  | none => .next s
  | some b =>
    let s := onCan (txStamp s ch sof) ch fun c => { c with onBus := none }
    let s := match e with
      | .ok => canIrq (txOk s ch b) ch
      | .noAck => txFailed (txNoAck s ch) ch b false
      | .error n => txFailed (tecUp s ch n) ch b true
      | .lost => txLost s ch b
    .next (frameOver s ch)

end Sys2Proof.Machine
end

