-- ==== Sys2Proof/Machine/Serial.lean ====
section
/-! DEFINITION. The serial ports: flash commands on SPI0 and the word port SPI1 (16 R385 to R390, R400, R401). -/
namespace Sys2Proof.Machine

/-- SPI0_LEN in force: at most 65,536 bytes. -/
def spi0Len (s : State) : Nat := min 65536 s.spi0.len.toNat

/-- The address that a flash command sends: 4 bytes with ADDR4 = 1, else 3 (R385). -/
def spi0Addr (s : State) : Nat := if bit s.spi0.cfg 3 then s.spi0.addr.toNat else s.spi0.addr.toNat % 2 ^ 24

/-- SPI0_SELEN_N: low while a command runs (R387). -/
def spi0Selen (s : State) : Bool := s.spi0.cur.isNone

/-- SPI0_SEL[2:0]: the device of the command at work, or of the next one (R387). -/
def spi0Sel (s : State) : Nat := match s.spi0.cur with
  | some o => o.sel
  | none => s.spi0.cmdSel

/-- The command that SPI0_CMD, ADDR, LEN and SRAM give. -/
def spi0Cmd (s : State) : FlashOp :=
  { sel := s.spi0.cmdSel, op := s.spi0.cmdOp, addr := spi0Addr s, len := spi0Len s, sram := s.spi0.sram.toNat }

/-- The command moves data from SRAM (PROGRAM) or to it (READ, STATUS, SFDP). -/
def spi0Moves (op : Nat) : Bool := op = 0 || op = 1 || op = 3 || op = 4

/-- The SRAM transfer of the command at work checked as initiator 5's: it goes on, stalls, or ends the command with error 3
(08 R205, R209, R213). -/
def spi0Dma (s : State) (o : FlashOp) : State :=
  match if spi0Moves o.op then dmaCheck s 5 0 (o.op ≠ 1) true o.sram o.len else .ok with
  | .ok => if spi0Moves o.op && !inSram o.sram o.len then spi0End s 3 else s.setSpi0 { s.spi0 with stall := none }
  | .stall a => s.setSpi0 { s.spi0 with stall := some a }
  | .deny a src idx => spi0End (refuseAcc s a src idx) 3

/-- A stalled transfer is checked again. -/
def spi0Retry (s : State) : State := match s.spi0.stall, s.spi0.cur with
  | some _, some o => spi0Dma s o
  | _, _ => s

/-- One flash command starts, its transfer checked as initiator 5's (08 R209); a write while BUSY is discarded with a
diagnostics event. -/
def spi0Go (s : State) : State :=
  if s.spi0.cur.isSome then logOther s .spi0 (leBytes 8 0x020)
  else
    let o := spi0Cmd s
    let s := s.setSpi0 { s.spi0 with done := false, err := 0 }
    spi0Dma (s.setSpi0 { s.spi0 with cur := some o }) o

/-- SPI0_GO (R388). -/
def execSpi0Go (s : State) : Host.Outcome State Fault Refusal := .next (onE s 15 0x4000F020 spi0Go)

/-- What a flash command does when it ends (R385, R388): data read to SRAM, bytes programmed, a sector erased. -/
def spi0Effect (s : State) (o : FlashOp) : State :=
  let dst := o.sram - 0x10000000
  if o.op = 0 then sramWrite s dst (flashRead s o.sel o.addr o.len)
  else if o.op = 1 then flashProgram s o.sel o.addr (sramRead s dst o.len)
  else if o.op = 2 then flashErase s o.sel (o.addr / 4096 * 4096) 4096
  else if o.op = 3 then sramWrite s dst ((List.range o.len).map fun _ => Config.flashInfo o.sel 0 &&& 0xFE)
  else if o.op = 4 then sramWrite s dst ((List.range o.len).map fun k => Config.flashInfo o.sel (o.addr + k + 1))
  else s

/-- SPI0_CMD_END (R388): write-in-progress reads 0 and the readback is done; a program whose readback differs ends with
error 5 and leaves what R399 allows. -/
def execSpi0CmdEnd (ok : Bool) (s : State) : Host.Outcome State Fault Refusal :=
  match s.spi0.cur with
  | none => .next s
  | some o =>
    if s.spi0.stall.isSome then .next s
    else if ok || o.op ≠ 1 then .next (spi0End (spi0Effect s o) 0)
    else .next (spi0End (tearProgram s o) 5)

/-- SPI0_TIMEOUT (R388, R400): SPI0_TMO elapses before a program or erase ends. -/
def execSpi0Timeout (s : State) : Host.Outcome State Fault Refusal :=
  match s.spi0.cur with
  | some o => if o.op = 1 || o.op = 2 then .next (spi0Cut s 1) else .next s
  | none => .next s

/-- SPI0_ABORT (R400). -/
def execSpi0Abort (s : State) : Host.Outcome State Fault Refusal := .next (onE s 15 0x4000F028 fun s => spi0Cut s 2)

/-! ### SPI1 -/

/-- SPI1 may shift: no watched select, or the watched pin active (R389). -/
def spi1Open (p : Spi1) : Bool := !p.csmonEn || p.selected

/-- SPI1_TX (R389): a transmit word queued, or discarded when the FIFO is full. -/
def execSpi1Tx (v : Word) (s : State) : Host.Outcome State Fault Refusal :=
  .next (onE s 16 0x40010010 fun s =>
    if s.spi1.tx.length < 16 then s.setSpi1 { s.spi1 with tx := s.spi1.tx ++ [v] } else s)

/-- A received word enters the receive FIFO, or is discarded with RXOVF when it is full (R389, 16 "receive FIFO of SPI1
is full"). -/
def spi1Push (p : Spi1) (w : Word) (part : Bool) (bits : Nat) : Spi1 :=
  if p.rx.length < 16 then { p with rx := p.rx ++ [(w, part, bits)] } else { p with rxovf := true }

/-- The low n bits of a word. -/
def lowBits (n : Nat) (v : Word) : Word := wordOf (v.toNat % 2 ^ n)

/-- SPI1_WORD_COMPLETE (R389, R390): the word's last sampling edge; the received word, right-aligned, enters the FIFO. -/
def execSpi1WordComplete (v : Word) (s : State) : Host.Outcome State Fault Refusal :=
  match s.spi1.tx with
  | [] => .next s
  | _ :: t => if mainUp s && spi1Open s.spi1 then
      .next (s.setSpi1 (spi1Push { s.spi1 with tx := t } (lowBits (s.spi1.wlen + 1) v) false (s.spi1.wlen + 1)))
    else .next s

/-- The watched select goes inactive after n sampling edges of a word (R401). -/
def spi1Release (p : Spi1) (n : Nat) (v : Word) : Spi1 :=
  match p.tx with
  | [] => { p with selected := false }
  | _ :: t =>
    let q := { p with selected := false }
    if n = 0 ∨ p.wlen < n then q else spi1Push { q with tx := t } (lowBits n v) true n

/-- The levels that SPI1 drives on its output pins: SPI1_GPIO_OUT, or each select's inactive level while a loss of lock
parks them (05 R128, R129). -/
def spi1Drive (p : Spi1) : Byte := if p.stopped then p.idle else p.gpioOut

/-- The watched pin is one that SPI1 drives (SPI1_GPIO_DIR). -/
def spi1Own (p : Spi1) : Bool := p.dir.getLsbD p.csmon

/-- A driven watched pin is at its active level, the one opposite to its SPI1_GPIO_IDLE bit (R389). -/
def spi1Level (p : Spi1) : Bool := xor ((spi1Drive p).getLsbD p.csmon) (p.idle.getLsbD p.csmon)

/-- SPI1_SELECT_RELEASE (R401): of a watched pin that is an input. -/
def execSpi1SelectRelease (n : Nat) (v : Word) (s : State) : Host.Outcome State Fault Refusal :=
  if mainUp s && s.spi1.csmonEn && !spi1Own s.spi1 && s.spi1.selected then .next (s.setSpi1 (spi1Release s.spi1 n v)) else .next s

/-- SPI1_RX (R389): a read pops the head. -/
def execSpi1Rx (s : State) : Host.Outcome State Fault Refusal :=
  .next (onE s 16 0x40010014 fun s => s.setSpi1 { s.spi1 with rx := s.spi1.rx.drop 1 })

/-- SPI1_SELECT_ASSERT (R389): the watched pin, an input, is active; shifting starts or resumes. A park of the selects by a loss of
lock keeps them inactive (05 R128). -/
def execSpi1SelectAssert (s : State) : Host.Outcome State Fault Refusal :=
  if mainUp s && s.spi1.csmonEn && !spi1Own s.spi1 && !s.spi1.stopped then .next (s.setSpi1 { s.spi1 with selected := true }) else .next s

/-- The watched select goes inactive by what SPI1 drives, after so many sampling edges as the word had by then (R401): their
number and the bits are free values (log 112). -/
def spi1Leave (s : State) : State :=
  let (f, s) := freeBytes s 5
  s.setSpi1 (spi1Release s.spi1 (leNat (f.take 1) % 32) (wordOf (leNat (f.drop 1))))

/-- A watched pin that SPI1 drives is followed as its registers change (R389). -/
def spi1Watch (s : State) : State :=
  let p := s.spi1
  if !p.csmonEn || !spi1Own p || p.selected = spi1Level p then s
  else if p.selected then spi1Leave s
  else s.setSpi1 { p with selected := true }

/-- The park of a loss of lock (05 R128): the select pins go to their idle levels, which counts as a release (R401). -/
def spi1Park (s : State) : State :=
  let s := if s.spi1.csmonEn && s.spi1.selected then spi1Leave s else s
  s.setSpi1 { s.spi1 with stopped := true }

/-- The selects are released to software (05 R129). -/
def spi1Unpark (s : State) : State := spi1Watch (s.setSpi1 { s.spi1 with stopped := false })

end Sys2Proof.Machine
end

