-- ==== Sys2Proof/Machine/Clocks.lean ====
section
/-! DEFINITION. PLLs, relocks, loss of lock, crystals and trim (05 R116 to R134). -/
namespace Sys2Proof.Machine

/-- s with CLK_ replaced by a function of it. -/
def onClk (s : State) (f : Clk → Clk) : State := s.setClk (f s.clk)

/-! ### Settings (R117 to R119); frequencies in kHz as fractions -/

/-- The PLL reference: XA, or FIRC under fallback. -/
def refKhz (c : Clk) : Nat := if c.xaFb then 64000 else 25000

/-- PREDIV. -/
def prediv (p : PllCfg) : Nat := p.prediv + 1

/-- The limits of R117 for a PLL whose output range is lo to hi. -/
def pllOk (f lo hi : Nat) (p : PllCfg) : Bool :=
  p.prediv ≤ 3 && 8000 * prediv p ≤ f && f ≤ 32000 * prediv p
    && 38 ≤ p.ndiv && p.ndiv ≤ 120
    && 1200000 * prediv p ≤ f * p.ndiv && f * p.ndiv ≤ 3000000 * prediv p
    && 1 ≤ p.odiv && p.odiv ≤ 8
    && lo * (prediv p * p.odiv) ≤ f * p.ndiv && f * p.ndiv ≤ hi * (prediv p * p.odiv)

/-- f_ref × NDIV of a setting: the output is this over pllDen. -/
def pllNum (f : Nat) (p : PllCfg) : Nat := f * p.ndiv
/-- PREDIV × ODIV. -/
def pllDen (p : PllCfg) : Nat := prediv p * p.odiv

/-- A clock of divider d lies between lo and hi kHz. -/
def clkIn (num den d lo hi : Nat) : Bool := lo * (den * d) ≤ num && num ≤ hi * (den * d)

/-- The dividers of R118 with the PLLB output they divide. -/
def divOk (f : Nat) (p : PllCfg) (d : DivCfg) : Bool :=
  d.eng ≤ 1 && d.fab ≤ 3 && 3 ≤ d.can && d.can ≤ 15 && d.spi ≤ 3
    && clkIn (pllNum f p) (pllDen p) (d.eng + 1) 0 600000
    && clkIn (pllNum f p) (pllDen p) (d.fab + 1) 0 300000
    && clkIn (pllNum f p) (pllDen p) d.can 20000 80000
    && clkIn (pllNum f p) (pllDen p) (d.spi + 1) 0 240000

/-- R119: engine and fabric floors, and CAN and SPI kernels unchanged against the active settings, which were taken at
the reference fa. -/
def serviceOk (f fa : Nat) (p pa : PllCfg) (d da : DivCfg) : Bool :=
  480000 * (pllDen p * (d.eng + 1)) ≤ pllNum f p && 240000 * (pllDen p * (d.fab + 1)) ≤ pllNum f p
    && pllNum f p * (pllDen pa * da.can) = pllNum fa pa * (pllDen p * d.can)
    && pllNum f p * (pllDen pa * (da.spi + 1)) = pllNum fa pa * (pllDen p * (d.spi + 1))

/-- The shadow settings of a PLL may be applied (R117, R118, and in SERVICE R119). -/
def relockCfgOk (s : State) (p : Pll) : Bool :=
  let f := refKhz s.clk
  match p with
  | .a => pllOk f 400000 1000000 s.clk.pllA
  | .b => pllOk f 240000 600000 s.clk.pllB && divOk f s.clk.pllB s.clk.div
      && (s.mode.mode ≠ .service || serviceOk f s.clk.refBAct s.clk.pllB s.clk.pllBAct s.clk.div s.clk.divAct)

/-- S lies at least 2 ticks ahead (R123). -/
def leadOk (s : State) (x : Word) : Bool := 2 ≤ (x - s.glb.tick).toNat && (x - s.glb.tick).toNat < 2 ^ 31

/-- The relock has been accepted and not ended. -/
def relockLive (c : Clk) : Bool := match c.relock with
  | some r => !r.ended
  | none => false

/-- A relock pending or running, announced or an attempt (R123). -/
def relockBusy (c : Clk) : Bool := relockLive c || c.attA || c.attB

/-- A relock or an attempt is under way (R129). -/
def relockRuns (c : Clk) : Bool := c.attA || c.attB || match c.relock with
  | some r => r.started && !r.ended
  | none => false

/-- A relock of p at tick x is accepted: R123, R86; in SERVICE-HOLD the announcement rule does not apply (R129). -/
def relockOk (s : State) (p : Pll) (x : Word) : Bool :=
  relockCfgOk s p && leadOk s x && !relockBusy s.clk && (s.mode.hold || annFree s)

/-- LEN of a relock (R123). -/
def relockLen (s : State) : Nat := if s.glb.period = 0 then 2 else 1

/-- A relock accepted: announced, which cancels a pending DIM entry (R80). -/
def relockAccept (s : State) (p : Pll) (x : Word) : State :=
  let s := onClk s fun c => { c with relock := some { pll := p, start := x } }
  if s.mode.hold then s
  else
    let s := announce s 1 (relockLen s) x
    if s.mode.dimPend.isSome then dimCancel s else s

/-- A GO write (R123): accepted, or refused with a bus error and a diagnostics event. -/
def relockGo (s : State) (p : Pll) : State :=
  if relockOk s p s.clk.relockTick then relockAccept s p s.clk.relockTick else refuseWrite s 0x40002040 0xA

/-- RELOCK_GO_A (R123). -/
def execRelockGoA (s : State) : Host.Outcome State Fault Refusal :=
  if mainUp s && s.glb.run then .next (relockGo s .a) else .next s

/-- RELOCK_GO_B (R123). -/
def execRelockGoB (s : State) : Host.Outcome State Fault Refusal :=
  if mainUp s && s.glb.run then .next (relockGo s .b) else .next s

/-- Both controllers parked (R127, R128). -/
def parkBoth (s : State) : State := (s.setCan0 (parkCan s.can0)).setCan1 (parkCan s.can1)

/-- Steps 1 and 2 of R124 for a PLL whose settings are the shadows: the domain on FIRC, the ramp at ÷4. -/
def startPll (s : State) (p : Pll) : State :=
  match p with
  | .a => onClk s fun c => { c with selA := false, lockA := false, pllAAct := c.pllA, rampA := 4, attA := false, fbA := false }
  | .b => parkBoth (onClk s fun c =>
      { c with selB := false, lockB := false, pllBAct := c.pllB, divAct := c.div, rampB := 4, attB := false, fbB := false
               refBAct := refKhz c })

/-- RELOCK_START (R124, R127): at S:0, once the admitted trip descriptors have completed (R62). -/
def execRelockStart (s : State) : Host.Outcome State Fault Refusal :=
  match s.clk.relock with
  | some r => if mainUp s && !r.started && tickReached r.start s.glb.tick && s.hif.trips.isEmpty then
      .next (onClk (startPll s r.pll) fun c => { c with relock := some { r with started := true } })
    else .next s
  | none => .next s

/-- The PLL's relock or attempt is under way. -/
def relocking (c : Clk) (p : Pll) : Bool :=
  (match c.relock with
   | some r => r.started && !r.ended && r.pll = p
   | none => false) || (match p with
   | .a => c.attA
   | .b => c.attB)

/-- The domains of a PLL run from it. -/
def pllSel (c : Clk) (p : Pll) : Bool := match p with
  | .a => c.selA
  | .b => c.selB

/-- The ramp divider of a PLL. -/
def pllRamp (c : Clk) (p : Pll) : Nat := match p with
  | .a => c.rampA
  | .b => c.rampB

/-- The relock or attempt of a PLL ends (R124, R126); an announced one is kept, ended, until its window ends (R127). -/
def relockEnd (announced : Bool) (c : Clk) (p : Pll) : Clk :=
  let c := match c.relock with
    | some r => if r.started && r.pll = p then { c with relock := if announced then some { r with ended := true } else none } else c
    | none => c
  match p with
  | .a => { c with attA := false }
  | .b => { c with attB := false }

/-- A relock's window is announced or in force (R123). -/
def relockAnn (s : State) : Bool := s.mode.annCause = 1

/-- HOLD clears when both PLLs are locked (R129): ALARM_N's cause is released, the selects go back to software, DEGRADE
clears, and admission resumes at the next tick edge. -/
def holdClear (s : State) : State :=
  if s.mode.hold && s.clk.lockA && s.clk.lockB then
    let s := alarmClear s .lol
    let s := onClk s fun c => { c with degrade := false }
    let s := spi1Unpark s
    s.setMode { s.mode with hold := false, resume := true }
  else s

/-- RELOCK_LOCK_SHOWN (R124 steps 3 to 6, R129): the domain moves to the PLL at ÷4. -/
def execRelockLockShown (p : Pll) (s : State) : Host.Outcome State Fault Refusal :=
  if mainUp s && relocking s.clk p && !pllSel s.clk p then
    .next (holdClear (onClk s fun c => match p with
      | .a => { c with lockA := true, selA := true }
      | .b => { c with lockB := true, selB := true }))
  else .next s

/-- The ramp divider of a PLL one step lower, at least ÷1. -/
def rampDown (c : Clk) (p : Pll) : Clk := match p with
  | .a => { c with rampA := max 1 (c.rampA - 1) }
  | .b => { c with rampB := max 1 (c.rampB - 1) }

/-- RAMP_STEP (R124 step 7): at ÷1 the relock ends. -/
def execRampStep (p : Pll) (s : State) : Host.Outcome State Fault Refusal :=
  if mainUp s && pllSel s.clk p then
    let s := onClk s fun c => rampDown c p
    .next (if pllRamp s.clk p = 1 then onClk s fun c => relockEnd (relockAnn s) c p else s)
  else .next s

/-- Step 2 of R128: ALARM_N, SPI0's select, SPI1's selects, both CAN transmitters. -/
def lossPark (s : State) : State :=
  let s := alarmSet s .lol
  let s := spi0Cut s 4
  let s := spi1Park s
  parkBoth s

/-- Step 3 of R128: operations in flight end with CLK_LOST, the conditioning block's samples go (13 R328), ring fetch stops under HOLD; R60 for admitted trips, R134 in
DIM. -/
def lossStop (s : State) : State :=
  let s := onRng (abortEngines s 2) fun r => { r with blk := [] }
  let s := abortCommands s usesEngine 0x20
  let s := abortTrips s 0x20
  let s := s.setMode { s.mode with hold := true }
  wakeTrigger s 7

/-- LOL_A and LOL_B as the ARG of the loss of lock. -/
def lolArg (c : Clk) : Bytes := leBytes 8 (b2n c.lolA + 2 * b2n c.lolB)

/-- The steps of R128 from the park step on. -/
def lossActions (s : State) : State :=
  let s := lossStop (lossPark s)
  logSD s .clk 1 (lolArg s.clk)

/-- A PLL's lock is gone: its domains run from FIRC (R128 step 1), and its relock or attempt is over. -/
def losePll (announced : Bool) (c : Clk) (p : Pll) : Clk := match p with
  | .a => { relockEnd announced c .a with lolA := true, lockA := false, selA := false, rampA := 1 }
  | .b => { relockEnd announced c .b with lolB := true, lockB := false, selB := false, rampB := 1 }

/-- RELOCK_FAIL (R126): before step 6 the domain stays on FIRC, and the device proceeds as on a loss of lock, from the park
step on, in SERVICE-HOLD too; the next attempt is left to the next edge (R129). -/
def execRelockFail (p : Pll) (s : State) : Host.Outcome State Fault Refusal :=
  if mainUp s && relocking s.clk p && !pllSel s.clk p then
    .next (lossActions (onClk s fun c => losePll (relockAnn s) c p))
  else .next s

/-- LOSS_OF_LOCK (R128): on a PLL that was locked. -/
def execLossOfLock (a b : Bool) (s : State) : Host.Outcome State Fault Refusal :=
  let la := a && s.clk.lockA
  let lb := b && s.clk.lockB
  if mainUp s && (la || lb) then
    .next (lossActions (onClk s fun c =>
      let c := if la then losePll (relockAnn s) c .a else c
      if lb then losePll (relockAnn s) c .b else c))
  else .next s

/-- DEGRADE (R129, CLK_HOLD_CTL). -/
def execDegrade (s : State) : Host.Outcome State Fault Refusal :=
  if mainUp s then .next (onClk s fun c => { c with degrade := true }) else .next s

/-- The fallback rows of R117 and the default dividers of R118 in the shadows (R130). -/
def fallbackShadows (c : Clk) : Clk :=
  { c with pllA := { prediv := 1, odiv := 2, ndiv := 50 }, pllB := { prediv := 1, odiv := 5, ndiv := 75 }, div := {} }

/-- XA_LOST (R130). DESIGN CHOICE (log 100): a relock that is pending is dropped, its announcement stands. -/
def execXaLost (s : State) : Host.Outcome State Fault Refusal :=
  if mainUp s && s.clk.xaUsed && !s.clk.xaFb then
    let s := onClk s fun c => fallbackShadows { c with
      xaLost := true, xaFb := true, fbA := true, fbB := true
      relock := if relockAnn s then c.relock.map fun r => { r with ended := true } else none }
    let s := s.setGlb { s.glb with fircTb := true }
    .next (lossActions (onClk s fun c => losePll (relockAnn s) (losePll (relockAnn s) c .a) .b))
  else .next s

/-- A quotient rounded to the nearest whole number, halves away from zero. -/
def roundDiv (a : Int) (b : Nat) : Int := if 0 ≤ a then (2 * a + b) / (2 * b) else -((2 * -a + b) / (2 * b))

/-- A trim code kept within 0 to 255. -/
def clampCode (i : Int) : Nat := (max 0 (min 255 i)).toNat

/-- XA_FREQ_CHECK (R120, R122): 2425 to 2575 passes and sets the trim once; else the core domain uses FIRC. -/
def execXaFreqCheck (n : Nat) (s : State) : Host.Outcome State Fault Refusal :=
  if s.mode.mode = .kindle && mainUp s && !s.clk.xaUsed then
    let s := onClk s fun c => { c with xaCount := min 0xFFFF n, xaUsed := true }
    if 2425 ≤ n ∧ n ≤ 2575 then
      .next (onClk s fun c => { c with trimCode := clampCode (c.trimCode + roundDiv (2000 * ((n : Int) - 2500)) 2500) })
    else
      let s := onClk s fun c =>
        let c := fallbackShadows { c with xaFb := true }
        { c with pllAAct := c.pllA, pllBAct := c.pllB, divAct := c.div, refBAct := refKhz c }
      .next (s.setGlb { s.glb with fircTb := true })
  else .next s

/-- XB_CHECK (R121): 31,250 within 3 % moves the battery domain to XB. -/
def execXbCheck (n : Nat) (s : State) : Host.Outcome State Fault Refusal :=
  if mainUp s then
    let ok := 30313 ≤ n && n ≤ 32187
    let s := onClk s fun c => { c with xbCount := min 0xFFFF n, xbFb := !ok }
    .next (s.setTmp { s.tmp with xb := ok })
  else .next s

/-- XB_LOST (R121): in VIGIL the battery domain returns to SIRC with a security-log entry. -/
def execXbLost (s : State) : Host.Outcome State Fault Refusal :=
  if s.mode.mode = .vigil && s.tmp.xb then
    .next (logS (s.setTmp { s.tmp with xb := false }) .clk 2 [])
  else .next s

/-! ### At tick edges -/

/-- The FIRC trim step of R133 from a finished measurement of the selected source: cycles counted and, for the custody
bus, its nominal bits. -/
def trimUsedNow (s : State) : Nat :=
  if s.clk.trimSrc = 4 then
    (if !s.clk.xaFb then 1
     else if (s.glb.lock = .locked || s.glb.lock = .acquire) && s.glb.lastSync.isSome then 2 else 3)
  else s.clk.trimSrc

/-- Nominal bit time in CAN kernel cycles: NBRP × (1 + NTSEG1 + NTSEG2) (11, CANx_NBT). -/
def canBitCycles (nbt : Word) : Nat := (fld nbt 24 8 + 1) * (1 + (fld nbt 16 8 + 1) + (fld nbt 8 7 + 1))

/-- Expected FIRC cycles of a measurement (R133): the custody bus's bits at its nominal rate, from the CAN kernel in
force. -/
def trimExpect (s : State) (bits : Nat) : Nat := match trimUsedNow s with
  | 1 => tickMicros s * 64
  | 2 => if s.glb.src = 1 then 64000000 else tickMicros s * 64
  | 3 =>
    bits * 64000 * canBitCycles s.can0.nbt * (pllDen s.clk.pllBAct * s.clk.divAct.can)
      / max 1 (pllNum s.clk.refBAct s.clk.pllBAct)
  | _ => 0

/-- A finished measurement is one that R133 takes: edges of SYNC_IN within 5 % of their expected interval, a custody-bus
frame of at least 8 bits. -/
def trimTaken (u e cyc bits : Nat) : Bool :=
  u ≠ 0 && e ≠ 0 && (u ≠ 3 || 8 ≤ bits) && (u ≠ 2 || (19 * e ≤ 20 * cyc && 20 * cyc ≤ 21 * e))

/-- The trim step (R133). -/
def trimStep (s : State) (m : Option (Nat × Nat)) : State :=
  let u := trimUsedNow s
  let s := onClk s fun c => { c with trimUsed := u }
  match m with
  | none => s
  | some (cyc, bits) =>
    let e := trimExpect s bits
    if !trimTaken u e cyc bits then s
    else
      let d : Int := (cyc : Int) - e
      let steps := roundDiv (2000 * d) e
      onClk s fun c => { c with
        trimErr := roundDiv (100000 * d) e
        trimCode := if 0 < steps then c.trimCode - 1 else if steps < 0 then min 255 (c.trimCode + 1) else c.trimCode }

/-- In SERVICE-HOLD, at an edge at which no attempt runs, an attempt starts for each unlocked PLL (R129): at its active
settings, or at the fallback row in the first attempt after a loss of XA (R130). -/
def holdAttempts (s : State) : State :=
  if !s.mode.hold || !s.clk.retryEn || relockRuns s.clk then s
  else
    let s := if s.clk.lockA then s else onClk s fun c => { c with
      attA := true, selA := false, rampA := 4, fbA := false
      pllAAct := if c.fbA then { prediv := 1, odiv := 2, ndiv := 50 } else c.pllAAct }
    if s.clk.lockB then s else onClk s fun c => { c with
      attB := true, selB := false, rampB := 4, fbB := false
      refBAct := if c.fbB then refKhz c else c.refBAct
      pllBAct := if c.fbB then { prediv := 1, odiv := 5, ndiv := 75 } else c.pllBAct
      divAct := if c.fbB then {} else c.divAct }

end Sys2Proof.Machine
end

