-- ==== Sys2Proof/Machine/Idle.lean ====
section
/-! DEFINITION. One 40 ns count of the clock, which an empty queue lets pass (log 10): the sub-tick count, the watchdog,
the seconds of the battery domain and the bits of the tamper meshes. -/
namespace Sys2Proof.Machine

/-- An edge was expected at this tick's start and none has been accepted since the one before (02 R43). -/
def syncMissed (s : State) : Bool :=
  s.glb.lock = .locked && tickFuture s.glb.tick s.glb.syncRef && (s.glb.tick - s.glb.syncRef).toNat % syncTicks s = 0

/-- The sub-tick count runs to N − 1 and waits there for TICK_EDGE (02 R40, log 10); past the 5 µs window of a tick edge,
125 counts, a missed expected SYNC_IN edge is counted (02 R43). -/
def idleGlb (s : State) : Glb :=
  if mainUp s && s.glb.run && s.glb.sub + 1 < ticksN s then
    { s.glb with sub := s.glb.sub + 1
                 miss := if s.glb.sub + 1 = 126 && syncMissed s then satInc 15 s.glb.miss else s.glb.miss }
  else s.glb

/-- A debugger holds a core halted in DEBUG (04 R96). -/
def anyHalted (s : State) : Bool := (getCore s 0).halted || (getCore s 1).halted

/-- The watchdog counts (04 R96): frozen in DIM, and in DEBUG while a core is halted. -/
def wdtRuns (s : State) : Bool :=
  mainUp s && s.mode.mode ≠ .dim && !(s.mode.mode = .debug && anyHalted s)

/-- Units of 400 counts, 16 µs, at the watchdog (04 R96). -/
def idleMode (s : State) : ModeSt :=
  if !wdtRuns s then s.mode
  else if s.mode.wdtFrac + 1 < 400 then { s.mode with wdtFrac := s.mode.wdtFrac + 1 }
  else { s.mode with wdtFrac := 0, wdtCount := satInc (max 1 s.mode.wdtTimeout) s.mode.wdtCount }

/-- Counts in one second, 40 ns each. -/
def secondCounts : Nat := 25000000

/-- Seconds of a NRST hold, from its start (04 R98). -/
def idleNrst (t : Tmp) : Tmp :=
  if !t.nrstRun then t
  else if t.nfrac + 1 < secondCounts then { t with nfrac := t.nfrac + 1 }
  else { t with nfrac := 0, nrst := satInc 65535 t.nrst }

/-! ### The meshes (17 R404) -/

/-- The next state of a mesh LFSR, x^32 + x^22 + x^2 + x + 1 in Fibonacci form (R404; DEDUCED, log 113: it shifts towards bit
0, and the feedback enters at bit 31). -/
def meshShift (l : Word) : Word :=
  let fb := xor (xor (l.getLsbD 0) (l.getLsbD 10)) (xor (l.getLsbD 30) (l.getLsbD 31))
  (l >>> 1) ||| (if fb then 0x80000000 else 0)

/-- Mesh k at its sample point: the return differs from the bit that is driven. A whole loop returns what is driven; what a
broken one returns is the board's (log 113). -/
def meshDiffers (s : State) (k : Nat) : Bool :=
  s.tmp.cond.getLsbD k && !s.fus.tmpdis.getLsbD k
    && Config.meshReturn k s.tmp.bsec s.tmp.bfrac ≠ (s.tmp.lfsr.getD k 0).getLsbD 0

/-- The four meshes sampled: every mismatched bit is counted (R404, TMP_MESH_ERR). -/
def meshSample (s : State) (t : Tmp) : Tmp :=
  { t with meshErr := (List.range 4).map fun k =>
      let n := t.meshErr.getD k 0
      if meshDiffers s k then satInc 0xFF n else n }

/-- The length of a mesh bit in battery-clock cycles: RATE_S with the main supplies valid, RATE_V in VIGIL (R404). -/
def meshCycles (s : State) : Nat := if s.mode.mode = .vigil then 2 ^ fld s.tmp.mesh 8 3 else 2 ^ fld s.tmp.mesh 0 3

/-- Hertz of the battery clock that a mesh bit runs on: XB, or SIRC (R402). -/
def meshHz (t : Tmp) : Nat := if t.mxb then 32768 else 32000

/-- One 40 ns count of the meshes: the sample at three quarters of the bit, and the next bit at its end, from where a changed
rate or battery clock counts (R404; 17, At the edges). -/
def meshCount (s : State) (t : Tmp) : Tmp :=
  let full := t.mlen * 25000000
  let p := t.mpos + meshHz t
  let t := if t.mpos < full * 3 / 4 ∧ full * 3 / 4 ≤ p then meshSample s t else t
  if p < full then { t with mpos := p }
  else { t with mpos := p - full, mlen := meshCycles s, mxb := t.xb, lfsr := t.lfsr.map meshShift }

/-- The battery domain's count: its meshes, its seconds and those of a NRST hold (17 R404, TMP_BSEC; 04 R98). -/
def idleTmp (s : State) : Tmp :=
  let t := meshCount s (idleNrst s.tmp)
  if s.mode.mode = .off then s.tmp
  else if t.bfrac + 1 < secondCounts then { t with bfrac := t.bfrac + 1 }
  else { t with bfrac := 0, bsec := t.bsec + 1 }

/-- One count passes. -/
def idleCount (s : State) : State :=
  ((s.setGlb (idleGlb s)).setMode (idleMode s)).setTmp (idleTmp s)

end Sys2Proof.Machine
end

