-- ==== Sys2Proof/Machine/Power.lean ====
section
/-! DEFINITION. Supplies, resets and the watchdog (03 M1 to M4, M14; 04 R88 to R100, R109, R113; 21 R479). -/
namespace Sys2Proof.Machine

/-- BATTERY_POWER_ON (03 M1, 04 R94, 21 R479): from OFF the battery domain starts cleared and VIGIL is entered, where a
source whose condition stands acts; with the main supplies valid VBAT is in range again. -/
def execBatteryPowerOn (s : State) : Host.Outcome State Fault Refusal :=
  if s.mode.mode = .off then
    let s := batteryLost s
    .next (armedAct (s.setMode { s.mode with mode := .vigil, vbatIn := true, vbatOk := true }))
  else .next (s.setMode { s.mode with vbatIn := true, vbatOk := true })

/-- VBAT_LOSS (03 M4, 04 R92, 21 R479): in VIGIL the battery domain loses its content; with the main supplies valid it
goes on from them, and BATLOW, source 12, is active (17 R423). -/
def execVbatLoss (s : State) : Host.Outcome State Fault Refusal :=
  let s := s.setMode { s.mode with vbatIn := false, vbatOk := false }
  .next (if s.mode.mode = .vigil then batteryLost s else if s.mode.mode = .off then s else sourceOn s 12)

/-- What the supplies show at a power-on reset (04 R90, R91, R93). -/
def supplyShown (io : SupplyEnv) (m : ModeSt) : ModeSt :=
  { m with vddioA := io.ioA, vddioB := io.ioB, vpp := io.vpp, vbatOk := io.vbat, vbatIn := io.vbat }

/-- Without VBAT the condition of BATLOW is active (17 R423); armed by K2, it acts there. -/
def noBattery (s : State) : State :=
  if s.mode.vbatIn then s else s.setTmp { s.tmp with cond := s.tmp.cond ||| srcBit 12 }

/-- POWER_ON_RESET (03 M2, 04 R88, R100): from OFF or VIGIL; while NRST is low the release waits for it. -/
def execPowerOnReset (io : SupplyEnv) (s : State) : Host.Outcome State Fault Refusal :=
  if s.mode.mode ≠ .off && s.mode.mode ≠ .vigil then .next s
  else
    let t := powerOnReset s
    let t := noBattery (t.setMode (supplyShown io t.mode))
    if io.nrstLow then
      let t := t.setTmp { t.tmp with nrst := 0, nfrac := 0, nrstRun := true }
      .next (t.setMode { t.mode with inReset := true, nrstLow := true })
    else .next t

/-- A supply loss during a programming pulse may leave the word marginal (04 R109). -/
def pulseCut (s : State) : State := match s.fus.pgm with
  | some { words := w :: _, bits := b, .. } => pulseCell s w b
  | _ => s

/-- MAIN_SUPPLY_LOSS (03 M3, M4, R84; 04 R89, R92, R99, R109): no completion is written; VIGIL, or OFF without VBAT. -/
def execMainSupplyLoss (s : State) : Host.Outcome State Fault Refusal :=
  if s.mode.mode = .off || s.mode.mode = .vigil then .next s
  else
    let run := s.tmp.nrstRun
    let t := coreLost (pulseCut s)
    let t := if run then
        let t := logHold t true
        t.setTmp { t.tmp with nrstRun := false }
      else t
    .next (if t.mode.vbatIn then t else batteryLost t)

/-- NRST_ASSERT (04 R97, R109): recognised at once, or at the end of the programming pulse that runs. -/
def execNrstAssert (s : State) : Host.Outcome State Fault Refusal :=
  if !mainUp s then .next s
  else
    let s := s.setMode { s.mode with nrstLow := true }
    if s.fus.pgm.isSome then .next (onFus s fun f => { f with nrstStop := true }) else .next (nrstTake s)

/-- NRST_RELEASE (04 R97, R98, R100). -/
def execNrstRelease (s : State) : Host.Outcome State Fault Refusal :=
  if s.mode.inReset then .next (nrstFree s)
  else .next (s.setMode { s.mode with nrstLow := false })

/-- The step of KINDLE at which the watchdog expires (04 R113): the one named while K1 to K11 run, which one command
performs (log 65), then K12; none outside KINDLE. -/
def wdtAt (s : State) (k : Fin 12) : Option Nat :=
  if inKindle s then some (if s.mode.kindleStep = 0 then k.val + 1 else s.mode.kindleStep) else none

/-- WATCHDOG_TIMEOUT (04 R94, R96, R113): a device reset with cause 0x03; the second expiry at the same KINDLE step sets
the recovery request flag (log 90). -/
def execWatchdogTimeout (k : Fin 12) (s : State) : Host.Outcome State Fault Refusal :=
  if !wdtRuns s || s.mode.wdtCount < max 1 s.mode.wdtTimeout then .next s
  else
    let step := wdtAt s k
    let again := step.isSome && s.mode.wdtStep = step
    let s := s.setMode { s.mode with recovReq := s.mode.recovReq || again, wdtStep := step }
    .next (deviceReset s 3)

/-- MODE_WDT_KICK (04 R96). -/
def execModeWdtKick (v : Word) (s : State) : Host.Outcome State Fault Refusal :=
  if !mainUp s then .next s
  else if v = 0x5A5A then .next (s.setMode { s.mode with wdtCount := 0, wdtFrac := 0 })
  else .next (logD s .mode 2 (leBytes 8 v.toNat))

/-- WDT_LOCK (01 R13, MODE_WDT_CFG). -/
def execWdtLock (s : State) : Host.Outcome State Fault Refusal :=
  if mainUp s then .next (s.setMode { s.mode with wdtLock := true }) else .next s

/-- MODE_RST_CTL is written with its key (04, Registers). -/
def rstKeyed (v : Word) : Bool := fld v 24 8 = 0xA5

/-- The keyed resets of MODE_RST_CTL (04 R94, 03 M10, M14): RECOV sets the recovery request flag first. -/
def rstCtl (s : State) (v : Word) : State :=
  if bit v 1 then deviceReset (s.setMode { s.mode with recovReq := true, wdtStep := none }) 9
  else if bit v 0 then deviceReset (s.setMode { s.mode with wdtStep := none }) 2
  else s

/-- A write of MODE_RST_CTL (04 R94): without its key it is ignored, with a diagnostics event. -/
def rstCtlWrite (s : State) (v : Word) : State :=
  if rstKeyed v then rstCtl s v else logOther s .mode (leBytes 8 0x40)

/-- SWRST (04 R94). -/
def execSwrst (v : Word) (s : State) : Host.Outcome State Fault Refusal :=
  if mainUp s then .next (rstCtlWrite s v) else .next s

/-- RECOV (04 R94, 03 M10). -/
def execRecov (v : Word) (s : State) : Host.Outcome State Fault Refusal :=
  if mainUp s then .next (rstCtlWrite s v) else .next s

end Sys2Proof.Machine
end

