-- ==== Sys2Proof/Machine/Layer.lean ====
section
/-! DEFINITION. Default layering at K7: override words, the Brodeb image, its verification and its entries
(06 R147 to R155). -/
namespace Sys2Proof.Machine

/-! ### The header (R150, R151) -/

/-- One bit of the CRC-32 of IEEE 802.3, bits reflected: n further bits. -/
def crcBits : Nat → Nat → Nat
  | 0, c => c
  | n + 1, c => crcBits n (if c % 2 = 1 then (c / 2) ^^^ 0xEDB88320 else c / 2)

/-- CRC-32 of IEEE 802.3. -/
def crc32 (b : Bytes) : Nat := (b.foldl (fun c x => crcBits 8 (c ^^^ x.toNat)) 0xFFFFFFFF) ^^^ 0xFFFFFFFF

/-- Offset of an image copy. -/
def cfgAddr (k : Nat) : Nat := 0x10000 * k

/-- The header of an image copy. -/
def cfgHdr (s : State) (k : Nat) : Bytes := flashRead s 0 (cfgAddr k) 64

/-- The header is valid (R150). -/
def cfgHdrOk (h : Bytes) : Bool :=
  h.take 4 = [0x42, 0x52, 0x44, 0x42] && leAt h 4 2 = 1 && leAt h 6 2 = 64 && leAt h 0x3C 4 = crc32 (h.take 60)

/-- SEQ of a header. -/
def cfgSeqOf (h : Bytes) : Word := wordOf (leAt h 8 4)

/-- The copy in use with its header (R150); copy 0 when both carry one SEQ. -/
def cfgChosen (s : State) : Option (Nat × Bytes) :=
  let a := cfgHdr s 0
  let b := cfgHdr s 1
  if cfgHdrOk a then
    (if cfgHdrOk b && tickFuture (cfgSeqOf b) (cfgSeqOf a) then some (1, b) else some (0, a))
  else if cfgHdrOk b then some (1, b) else none

/-- BODY_LEN, cut to its limit. -/
def cfgBodyLen (h : Bytes) : Nat := min (leAt h 0x0C 4) 59904

/-! ### TLV entries (R154, R155) -/

/-- The LEN of a known TYPE is right; an unknown TYPE from 0x8000 on is skipped, another is not allowed. -/
def tlvLenOk (t l : Nat) : Bool := match t with
  | 0x0001 | 0x0004 => l = 12
  | 0x0002 | 0x0003 | 0x0006 | 0x0007 | 0x0008 | 0x0009 | 0x000B | 0x000F => l = 4
  | 0x0005 => l = 16
  | 0x000A => l = 32
  | 0x000C => l = 4 || l = 8 || l = 12
  | 0x000D | 0x000E => l = 8
  | 0x0010 => true
  | _ => 0x8000 ≤ t

/-- The entries of a TLV area, TYPEs above the last one; none when malformed. The fuel bounds the entries. -/
def tlvs : Nat → Nat → Bytes → Option (List (Nat × Bytes))
  | 0, _, b => if b.isEmpty then some [] else none
  | n + 1, last, b =>
    if b.isEmpty then some []
    else
      let t := leAt b 0 2
      let l := leAt b 2 2
      let p := (l + 3) / 4 * 4
      if b.length < 4 + p || t ≤ last || !tlvLenOk t l || (slice b (4 + l) (p - l)).any (· ≠ 0) then none
      else (tlvs n t (b.drop (4 + p))).map fun r => (t, slice b 4 l) :: r

/-- The TLV area of a whole image. -/
def tlvArea (h img : Bytes) : Option (List (Nat × Bytes)) :=
  if leAt h 0x0C 4 % 4 ≠ 0 || 59904 < leAt h 0x0C 4 then none
  else tlvs 15000 0 (slice img 64 (leAt h 0x0C 4))

/-! ### Signature (R152, R153) -/

/-- The digest of the two public keys of a signature block (R137). -/
def sigDigest (sig : Bytes) : Bytes := sha256 (slice sig 4 97 ++ slice sig 0x65 1952)

/-- The ECDSA signature of a block over a message. -/
def sigEc (sig msg : Bytes) : Bool := ecdsaVerify p384 (slice sig 4 97) (slice sig 0x805 96) (sha384 msg) = 0

/-- The ML-DSA-65 signature of a block over a message in a context. -/
def sigMl (sig ctx msg : Bytes) : Bool := Config.mlDsaVerify (slice sig 0x65 1952) ctx msg (slice sig 0x865 3309)

/-- KEY_SEL that the lifecycle selects. -/
def cfgKeySel (lc : Lc) : Nat := match lc with
  | .blank => 0
  | .provisioned => 1
  | .commissioned | .retired => 2

/-- The digest of the key that the lifecycle selects. -/
def cfgKeyDigest (s : State) : Bytes := match s.fus.lc with
  | .blank => Config.factoryDigest
  | .provisioned => s.fus.vtok
  | .commissioned | .retired => s.fus.cfgk

/-- A SERIAL field names this device: 0, or the fused SERIAL. -/
def serialOk (s : State) (f : Bytes) : Bool := f.all (· = 0) || f = slice s.fus.serial 0 8

/-- The checks of R153 in order on a whole image: 0 when it verifies, else the code of CFG_STAT.FAIL. DESIGN CHOICE
(log 104): ALG and SIG_LEN, which R153 does not list, are not checked. -/
def cfgVerify (s : State) (h img : Bytes) : Nat :=
  let n := cfgBodyLen h
  let msg := img.take (64 + n)
  let sig := slice img (64 + n) 5458
  if byteAt h 0x18 ≠ cfgKeySel s.fus.lc then 3
  else if sigDigest sig ≠ cfgKeyDigest s then 4
  else if !serialOk s (slice h 0x20 8) then 2
  else if !sigEc sig msg then 5
  else if !sigMl sig (ascii "STOLTO-CFG") msg then 6
  else if (tlvArea h img).isNone then 7
  else 0

/-! ### Fields (R149, R155) -/

/-- A PLL register value. -/
def pllOf (w : Word) : PllCfg := { prediv := fld w 16 2, odiv := fld w 8 4, ndiv := fld w 0 7 }

/-- A divider register value. -/
def divOf (w : Word) : DivCfg := { spi := fld w 12 2, can := fld w 8 4, fab := fld w 4 2, eng := fld w 0 1 }

/-- A budget register value. -/
def budWord (w : Word) : Bud := { protect := fld w 0 6, bulk := fld w 8 6, admin := fld w 16 6 }

/-- The four ceilings of a register value. -/
def capWord (w : Word) : List Nat := (List.range 4).map fun k => min 24 (fld w (8 * k) 5)

/-- Word k of a value. -/
def valW (v : Bytes) (k : Nat) : Word := wordOf (leAt v (4 * k) 4)

/-- SPI0_CFG is in range (16, Registers). -/
def spi0CfgOk (s : State) (w : Word) : Bool :=
  let p := s.clk.pllBAct
  let f := s.clk.refBAct
  fld w 0 2 ≠ 3 && bit w 15 && 2 ≤ fld w 8 6
    && (bit w 14 || pllNum f p ≤ 50000 * (pllDen p * (s.clk.divAct.spi + 1) * fld w 8 6))

/-- A snapshot list (18 R433); none when it is out of range. The fuel bounds the records. -/
def snapRecs : Nat → Bytes → Option (List SnapRec)
  | 0, b => if b.isEmpty then some [] else none
  | n + 1, b =>
    if b.isEmpty then some []
    else
      let k := byteAt b 1
      let regs := (List.range k).map fun j => leAt b (4 + 4 * j) 4
      if b.length < 4 + 4 * k || k = 0 || 8 < k || regs.any (fun a => a % 4 ≠ 0 || a < 0x40000000 || 0x40015FFF < a) then none
      else (snapRecs n (b.drop (4 + 4 * k))).map fun r => ⟨byteAt b 0, leAt b 2 2, regs⟩ :: r

/-- A value is within the limits of the register it lands in (R155). -/
def fieldOk (s : State) (t : Nat) (v : Bytes) : Bool :=
  let w := valW v 0
  match t with
  | 0x0001 =>
    let f := refKhz s.clk
    pllOk f 400000 1000000 (pllOf w) && pllOk f 240000 600000 (pllOf (valW v 1)) && divOk f (pllOf (valW v 1)) (divOf (valW v 2))
  | 0x0002 => bcnCfgOk { s.glb with period := fld w 4 5, src := fld w 1 2 }
  | 0x0004 => budOk [budWord w, budWord (valW v 1), budWord (valW v 2)]
  | 0x0008 => spi0CfgOk s w
  | 0x0009 => (fld w 0 2 = 1 || fld w 0 2 = 2) && fld w 2 2 ≠ 0 && fld w 10 22 = 0
  | 0x000A => leAt v 0 2 = 0 && ((List.range 16).map fun k => leAt v (2 * k) 2).sum ≤ 992
  | 0x000B => (List.range 13).all fun k => fld w (2 * k) 2 ≠ 3
  | 0x000D | 0x000E => timingOk w (valW v 1)
  | 0x0010 => (snapRecs 64 v).isSome
  | _ => true

/-- The registers of a CAN timing entry. -/
def canTiming (c : CanCh) (v : Bytes) : CanCh := { c with nbt := nbtApply (valW v 0), dbt := dbtApply (valW v 1) }

/-- The budgets in force from a BUDGET value (R158: at once while the beacon does not run). -/
def putBudgets (s : State) (b : List Bud) : State := s.setGlb { s.glb with budSh := b, bud := b, budNow := budLoad b }

/-- GLB_BCN_CFG written. -/
def putBcnCfg (s : State) (w : Word) : State :=
  let m := if fld w 16 4 = 0 then 1 else fld w 16 4
  s.setGlb { s.glb with maxwait := m, maxwaitSh := m, period := fld w 4 5, pol := bit w 3, src := fld w 1 2 }

/-- The PLL entry applied by the K7 relock (05 R122). -/
def putPll (s : State) (v : Bytes) : State :=
  onClk s fun c =>
    { c with pllA := pllOf (valW v 0), pllAAct := pllOf (valW v 0), pllB := pllOf (valW v 1), pllBAct := pllOf (valW v 1),
             refBAct := refKhz c, div := divOf (valW v 2), divAct := divOf (valW v 2) }

/-- TAMPER_PARAM: the registers that the value holds. -/
def putTamperParam (s : State) (v : Bytes) : State :=
  let t := s.tmp
  let t := { t with mesh := meshApply (valW v 0) }
  let t := if 8 ≤ v.length then { t with sw := swApply (valW v 1) } else t
  s.setTmp (if 12 ≤ v.length then { t with light := lightApply (valW v 2) } else t)

/-- The ROM default applied at K7 to a field that no layer sets (R149): the tamper settings, which the battery domain has
kept; every other field has it since the reset (log 64). -/
def putDefault (s : State) (t : Nat) : State :=
  let d : Tmp := {}
  if t = 0x0B then s.setTmp { s.tmp with resp := d.resp }
  else if t = 0x0C then s.setTmp { s.tmp with mesh := d.mesh, sw := d.sw, light := d.light }
  else s

/-- A value applied to its register (R149). -/
def putField (s : State) (t : Nat) (v : Bytes) : State :=
  let w := valW v 0
  match t with
  | 0x0001 => putPll s v
  | 0x0002 => putBcnCfg s w
  | 0x0003 => onClk s fun c => { c with trimSh := fld w 0 3, trimSrc := if 5 ≤ fld w 0 3 then 0 else fld w 0 3 }
  | 0x0004 => putBudgets s [budWord w, budWord (valW v 1), budWord (valW v 2)]
  | 0x0005 =>
    let c := (List.range 4).flatMap fun k => capWord (valW v k)
    s.setGlb { s.glb with caps := c.map (min 24), capsSh := c }
  | 0x0006 => s.setMode { s.mode with wdtTimeout := max 1 (fld w 0 16), wdtLock := s.mode.wdtLock || bit w 16 }
  | 0x0007 => s.setMode { s.mode with dimEn := bit w 0 }
  | 0x0008 => s.setSpi0 { s.spi0 with cfg := w &&& 0x7FFFFF }
  | 0x0009 => s.setCfg { s.cfg with pcie := w }
  | 0x000A => s.setCfg { s.cfg with quota := (List.range 16).map fun k => leAt v (2 * k) 2 }
  | 0x000B => s.setTmp { s.tmp with resp := w.setWidth 26 }
  | 0x000C => putTamperParam s v
  | 0x000D => s.setCan0 (canTiming s.can0 v)
  | 0x000E => s.setCan1 (canTiming s.can1 v)
  | 0x000F => s.setPke { s.pke with density := min 8 (fld w 0 4), dummyFixed := bit w 8 }
  | 0x0010 => s.setCfg { s.cfg with snap := (snapRecs 64 v).getD [] }
  | _ => s

/-! ### Override words (R147, R148) -/

/-- A field is pinned at its ROM default (R142, R148). -/
def ovrPinned (s : State) (t : Nat) : Bool := overridable.contains t && s.fus.pins.contains t

/-- The override word that applies to a field (R147): the highest-numbered stable one. -/
def ovrWord (s : State) (t : Nat) : Option Word :=
  if !overridable.contains t then none
  else ((ovrWords s).reverse.find? fun c => margBits c = 0 && fld c.nom 24 8 = t).map (·.nom)

/-- The source of a field noted for CFG_SRC. -/
def noteSrc (s : State) (t src : Nat) : State := s.setCfg { s.cfg with src := tput 0 s.cfg.src t src }

/-- One field settled (R149), with the image value if the verified image sets it. -/
def settle (s : State) (t : Nat) (iv : Option Bytes) : State :=
  if ovrPinned s t then noteSrc (s.setCfg { s.cfg with pinned := true }) t 3
  else
    let o := ovrWord s t
    let locked := match o with
      | some w => bit w 23
      | none => false
    let s := match o with
      | some w => noteSrc (putField s t (leBytes 4 (fld w 0 23))) t (1 + 256 * b2n locked)
      | none => s
    match iv with
    | none => putDefault s t
    | some v =>
      if locked then s
      else if fieldOk s t v then noteSrc (putField s t v) t 2
      else logOther (putDefault (s.setCfg { s.cfg with range := true }) t) .cfg (leBytes 8 t)

/-- Every field settled at K7, in the order of the types. The responses of sources whose condition stands act at once
(17 R421). -/
def layerAll (s : State) (im : List (Nat × Bytes)) : State :=
  let old := respNow s
  let s := ((List.range 16).map (· + 1)).foldl
    (fun s t => settle s t ((im.find? fun p => p.1 = t).map (·.2))) s
  respAct s old

/-- K3 (R150, R151): the chosen copy, its SEQ and its settle counts. -/
def cfgK3 (s : State) : State :=
  match cfgChosen s with
  | some (k, h) =>
    onClk (s.setCfg { s.cfg with copy := k = 1, seq := cfgSeqOf h }) fun c =>
      { c with xaSettle := leAt h 0x14 2, xbSettle := leAt h 0x16 2 }
  | none => onClk s fun c => { c with xaSettle := 1250, xbSettle := 0xFFFF }

/-- K7 (R102, R149, R153): the image verified, and the layers settled. -/
def cfgK7 (s : State) : State :=
  match cfgChosen s with
  | none => layerAll (logOther (s.setCfg { s.cfg with fail := 1 }) .cfg (leBytes 8 1)) []
  | some (k, h) =>
    let img := flashRead s 0 (cfgAddr k) (64 + cfgBodyLen h + 5458)
    let f := cfgVerify s h img
    if f ≠ 0 then layerAll (logOther (s.setCfg { s.cfg with fail := f }) .cfg (leBytes 8 f)) []
    else layerAll (s.setCfg { s.cfg with fail := 0, valid := true }) ((tlvArea h img).getD [])

end Sys2Proof.Machine
end

