-- ==== Sys2Proof/Machine/Images.lean ====
section
/-! DEFINITION. Firmware images: verification, compatible pairs, the update key, transit packages, images at rest,
activation records, and the choice of K9 (19 R442 to R458). -/
namespace Sys2Proof.Machine

/-- GLB_STEPPING[7:0] of this part (01, Registers). -/
def stepping : Nat := 0x11

/-- The largest code of a KIND (R442). -/
def maxCode (kind : Nat) : Nat := if kind = 0 then 0x80000 else 0x40000

/-- Load address of a KIND, as an offset in system SRAM (R442). -/
def loadOff (kind : Nat) : Nat := if kind = 0 then 0 else 0x80000

/-- The staging window, as an offset in system SRAM (R442). -/
def stageOff : Nat := 0xC0000

/-- CODE_LEN of an image header. -/
def codeLen (h : Bytes) : Nat := leAt h 0x10 4
/-- SVN. -/
def imgSvn (h : Bytes) : Nat := byteAt h 0x0C
/-- VERSION. -/
def imgVersion (h : Bytes) : Word := wordOf (leAt h 8 4)
/-- ABI_OWN. -/
def abiOwn (h : Bytes) : Nat := leAt h 0x2A 2
/-- SCHEMA. -/
def imgSchema (h : Bytes) : Nat := leAt h 0x30 2

/-- The limits of the header (R443). -/
def imgHdrOk (kind : Nat) (h : Bytes) : Bool :=
  let n := byteAt h 0x20
  h.take 4 = [0x53, 0x46, 0x57, 0x31] && byteAt h 4 = kind && kind ≤ 1 && byteAt h 5 = 1 && leAt h 6 2 = 64
    && imgSvn h ≤ 64 && leAt h 0x0D 3 = 0 && codeLen h % 4 = 0 && codeLen h ≤ maxCode kind
    && leAt h 0x14 4 % 4 = 0 && leAt h 0x14 4 < codeLen h
    && 1 ≤ n && n ≤ 8 && (slice h (0x21 + n) (8 - n)).all (· = 0) && byteAt h 0x29 = 0
    && (kind = 0 || imgSchema h = 0) && (slice h 0x36 10).all (· = 0)

/-- The rollback counter (R140). -/
def rbcNow (s : State) : Nat := rbcValue s.fus.rbc

/-- The digest of the vendor key that the lifecycle selects (R444). -/
def imgKeyDigest (s : State) : Bytes := if s.fus.lc = .blank then Config.factoryDigest else s.fus.vimg

/-- The checks of R444 in order on header, code and signature block: 0, or the failure code. -/
def imgCheck (s : State) (kind : Nat) (h code sig : Bytes) : Nat :=
  let msg := h ++ code
  if !imgHdrOk kind h || code.length ≠ codeLen h || sig.length ≠ 5458 then 2
  else if !serialOk s (slice h 0x18 8) then 3
  else if sigDigest sig ≠ imgKeyDigest s then 4
  else if !sigEc sig msg then 5
  else if !sigMl sig (ascii "STOLTO-FW") msg then 6
  else if imgSvn h < rbcNow s then 7
  else if !((List.range (byteAt h 0x20)).any fun k => byteAt h (0x21 + k) = stepping) then 8
  else 0

/-- The same on a whole image. -/
def imgCheckAll (s : State) (kind : Nat) (b : Bytes) : Nat :=
  let n := codeLen b
  imgCheck s kind (b.take 64) ((b.drop 64).take n) (b.drop (64 + n))

/-- A pair under a schema (R445): 0, or 0x09, or 0x0A. -/
def pairCheck (f p : Bytes) (schema : Nat) : Nat :=
  let inR := fun (x : Nat) (h : Bytes) (o : Nat) => leAt h o 2 ≤ x && x ≤ leAt h (o + 2) 2
  if !inR (abiOwn p) f 0x2C || !inR (abiOwn f) p 0x2C then 9
  else if !inR schema f 0x32 || !inR (imgSchema f) p 0x32 then 0xA
  else 0

/-! ### Keys (R446 to R448) -/

/-- DUR has been blown. -/
def durBlown (dur : Bytes) : Bool := dur.any (· ≠ 0)

/-- The root key of R222 for a root in force. -/
def rootKey (s : State) : Bytes := if rootInForce s = 0 then testRoot else s.fus.dur

/-- The private scalar of the update key (R446). -/
def ukScalar (s : State) : Nat := beNat (kdf (rootKey s) (ascii "STOLTO-UPDATE") [0] 56) % (p384.n - 1) + 1

/-- RK of a KIND under a device unique root (R448). -/
def rkOf (dur : Bytes) (kind : Nat) : Bytes :=
  kdf (if durBlown dur then dur else testRoot) (ascii "STOLTO-IMAGE") [BitVec.ofNat 8 kind] 32

/-- KEK of a transit package (R447); none when its point is not valid. -/
def pkgKek (s : State) (pkg : Bytes) : Option Bytes :=
  (ecdhZ p384 (ukScalar s) (slice pkg 0x10 97)).map fun z => kdf z (ascii "STOLTO-UPDKEY") (pkg.take 16) 32

/-- The image of a transit package (R447); none on a failed point check, form or tag (code 0x01). -/
def pkgOpen (s : State) (kind : Nat) (pkg : Bytes) : Option Bytes :=
  let n := leAt pkg 8 4
  let c := slice pkg 0x80 n
  match pkgKek s pkg with
  | none => none
  | some k =>
    if pkg.take 4 = [0x53, 0x55, 0x50, 0x44] && byteAt pkg 4 = kind && pkg.length = n + 144
        && gcmTag k (slice pkg 0x71 12) (pkg.take 0x80) c = slice pkg (0x80 + n) 16 then
      some (gcmCrypt k (slice pkg 0x71 12) c)
    else none

/-- Flash offset of an image slot (16 R391). -/
def slotOff (kind slot : Nat) : Nat := 0x20000 + 0x100000 * (2 * kind + slot)

/-- The slot header of an image at rest (R448). -/
def restHdr (kind slot gen len : Nat) (iv : Bytes) : Bytes :=
  [0x53, 0x49, 0x4D, 0x47] ++ leBytes 1 kind ++ leBytes 1 slot ++ [0, 0] ++ leBytes 4 gen ++ leBytes 4 len
    ++ slice iv 0 12 ++ List.replicate 36 0

/-- The slot header that flash holds, when it is one. -/
def restHdrAt (s : State) (kind slot : Nat) : Option Bytes :=
  let h := flashRead s 0 (slotOff kind slot) 64
  if h.take 4 = [0x53, 0x49, 0x4D, 0x47] && byteAt h 4 = kind && byteAt h 5 = slot && leAt h 0x0C 4 ≤ 0x100000 - 80 then some h
  else none

/-- GEN of a slot as its header gives it, 0 without one. -/
def genAt (s : State) (kind slot : Nat) : Nat := match restHdrAt s kind slot with
  | some h => leAt h 8 4
  | none => 0

/-- The bytes of an image at rest. -/
def restBytes (rk : Bytes) (h img : Bytes) : Bytes :=
  let c := gcmCrypt rk (slice h 0x10 12) img
  h ++ c ++ gcmTag rk (slice h 0x10 12) h c

/-- The image of a slot (R448): a failure code, or the image. -/
def restOpen (s : State) (dur : Bytes) (kind slot : Nat) : Nat ⊕ Bytes :=
  match restHdrAt s kind slot with
  | none => .inl 0xB
  | some h =>
    let n := leAt h 0x0C 4
    let c := flashRead s 0 (slotOff kind slot + 64) n
    let rk := rkOf dur kind
    if gcmTag rk (slice h 0x10 12) h c = flashRead s 0 (slotOff kind slot + 64 + n) 16 then
      .inr (gcmCrypt rk (slice h 0x10 12) c)
    else .inl 0xB

/-- An image slot erased. -/
def slotErase (s : State) (kind slot : Nat) : State := flashErase s 0 (slotOff kind slot) 0x100000

/-- An image written at rest (R448, R449 step 3). -/
def slotWrite (s : State) (dur : Bytes) (kind slot gen : Nat) (iv img : Bytes) : State :=
  let h := restHdr kind slot gen img.length iv
  flashProgram (slotErase s kind slot) 0 (slotOff kind slot) (restBytes (rkOf dur kind) h img)

/-! ### Activation records (R450) -/

/-- An activation record: its place in the area and its 64 bytes. -/
structure ActRec where
  idx : Nat
  b : Bytes
deriving DecidableEq, Repr

/-- SEQ of a record. -/
def recSeq (r : ActRec) : Word := wordOf (leAt r.b 4 4)
/-- TRIAL. -/
def recTrial (r : ActRec) : Bool := (byteAt r.b 0x0A).testBit 0
/-- CONFIRM. -/
def recConfirm (r : ActRec) : Bool := (byteAt r.b 0x0A).testBit 1
/-- The slot of a KIND that a record names. -/
def recSlot (r : ActRec) (kind : Nat) : Nat := byteAt r.b (8 + kind)
/-- The GEN of a KIND that a record names. -/
def recGen (r : ActRec) (kind : Nat) : Nat := leAt r.b (0x0C + 4 * kind) 4
/-- SCHEMA in force. -/
def recSchema (r : ActRec) : Nat := leAt r.b 0x14 2

/-- Flash offset of a record place. -/
def recOff (i : Nat) : Nat := 0x420000 + 64 * i

/-- MAGIC of a record. -/
def recMagic : Bytes := [0x53, 0x41, 0x43, 0x54]

/-- The valid records, in area order. -/
def recsValid (s : State) (dur : Bytes) : List ActRec := (List.range 2048).filterMap fun i =>
  if flashRead s 0 (recOff i) 4 ≠ recMagic then none
  else
    let b := flashRead s 0 (recOff i) 64
    if cmac (rkOf dur 0) (b.take 48) = b.drop 48 then some ⟨i, b⟩ else none

/-- The newest record of a list (R9). -/
def recNewest (l : List ActRec) : Option ActRec := l.foldl (fun m r => match m with
  | none => some r
  | some x => if tickFuture (recSeq r) (recSeq x) then some r else some x) none

/-- A TRIAL record is confirmed (R450). -/
def recConfirmed (l : List ActRec) (r : ActRec) : Bool := l.any fun c =>
  recConfirm c && slice c.b 8 2 = slice r.b 8 2 && slice c.b 0x0C 8 = slice r.b 0x0C 8 && tickFuture (recSeq c) (recSeq r)

/-- The records that can be in force: confirmed, or without TRIAL. -/
def recsGood (l : List ActRec) : List ActRec := l.filter fun r => !recTrial r || recConfirmed l r

/-- The record in force (R450). -/
def recInForce (l : List ActRec) : Option ActRec := recNewest (recsGood l)

/-- A record place is erased. -/
def recFree (s : State) (i : Nat) : Bool := (flashRead s 0 (recOff i) 64).all (· = 0xFF)

/-- The place of the next record from place i on: an erased one, or the first of the next sector. -/
def recPlace (s : State) : Nat → Nat → Nat
  | 0, i => i
  | n + 1, i => if i % 64 = 0 || recFree s i then i else recPlace s n ((i + 1) % 2048)

/-- The bytes of a record (R450). -/
def recBytes (dur : Bytes) (seq : Word) (sf pr flags sfGen prGen schema : Nat) : Bytes :=
  let b := recMagic ++ leBytes 4 seq.toNat ++ leBytes 1 sf ++ leBytes 1 pr ++ leBytes 1 flags ++ [0]
    ++ leBytes 4 sfGen ++ leBytes 4 prGen ++ leBytes 2 schema ++ List.replicate 26 0
  b ++ cmac (rkOf dur 0) b

/-- A record appended: the slots, flags and schema given, the GENs from the slot headers (R450). -/
def recWrite (s : State) (sf pr flags schema : Nat) : State :=
  let l := recsValid s s.fus.dur
  let (i, seq) := match recNewest l with
    | some r => (recPlace s 64 ((r.idx + 1) % 2048), recSeq r + 1)
    | none => (0, 1)
  let s := if i % 64 = 0 then flashErase s 0 (recOff i) 4096 else s
  flashProgram s 0 (recOff i) (recBytes s.fus.dur seq sf pr flags (genAt s 0 sf) (genAt s 1 pr) schema)

/-! ### K9 (R456, R458) -/

/-- The loader cannot work: AES lane 0, hash lane 0 or PKE0 failed its known-answer test (04 R112). -/
def loaderDown (s : State) : Bool := s.mode.katFail.any fun c => c = 1 || c = 5 || c = 7

/-- A verified image as KINDLE holds it. -/
def imgOf (kind slot : Nat) (b : Bytes) : Img :=
  { kind := kind, slot := slot, hdr := b.take 64, sig := b.drop (64 + codeLen b) }

/-- The code of an image put at its load address. -/
def loadCode (s : State) (kind : Nat) (b : Bytes) : State := sramWrite s (loadOff kind) ((b.drop 64).take (codeLen b))

/-- A slot read and checked for a record (R456): a failure code, or the image. -/
def recImage (s : State) (r : ActRec) (kind : Nat) : Nat ⊕ Bytes :=
  if genAt s kind (recSlot r kind) ≠ recGen r kind then .inl 0xD
  else match restOpen s s.fus.dur kind (recSlot r kind) with
    | .inl c => .inl c
    | .inr b => if imgCheckAll s kind b ≠ 0 then .inl (imgCheckAll s kind b) else .inr b

/-- The pair of a record: a failure code, or both images. -/
def recPair (s : State) (r : ActRec) : Nat ⊕ (Bytes × Bytes) :=
  match recImage s r 0 with
  | .inl c => .inl c
  | .inr f => match recImage s r 1 with
    | .inl c => .inl c
    | .inr p => if pairCheck f p (recSchema r) ≠ 0 then .inl (pairCheck f p (recSchema r)) else .inr (f, p)

/-- A pair loaded and running. -/
def pairRun (s : State) (f p : Img) : State :=
  (s.setMode { s.mode with pairOk := true }).setUpd { s.upd with
    runSf := some f, runPr := some p, schema := imgSchema f.hdr }

/-- The first candidate that passes, of at most two (R456). -/
def tryPairs (s : State) : List ActRec → State
  | [] => s
  | r :: t => match recPair s r with
    | .inl c => tryPairs (s.setUpd { s.upd with fail := c }) t
    | .inr (f, p) =>
      pairRun (loadCode (loadCode s 0 f) 1 p) (imgOf 0 (recSlot r 0) f) (imgOf 1 (recSlot r 1) p)

/-- The candidates of K9, newest first, at most two, and whether it reverted (R456). -/
def recCandidates (l : List ActRec) : Bool × List ActRec :=
  match recNewest l with
  | none => (false, [])
  | some n =>
    let rev := recTrial n && !recConfirmed l n
    let good := recsGood l
    let a := recNewest (if rev then good.filter fun r => tickFuture (recSeq n) (recSeq r) else good)
    match a with
    | none => (rev, [])
    | some x =>
      let b := recNewest (good.filter fun r => tickFuture (recSeq x) (recSeq r))
      (rev, x :: b.toList)

/-- The schema under which the loader checks a pair (R457): that of the record in force, or the secure firmware's
SCHEMA_MIN when no record is valid. -/
def loaderSchema (s : State) (f : Bytes) : Nat := match recInForce (recsValid s s.fus.dur) with
  | some r => recSchema r
  | none => leAt f 0x32 2

/-- The pair that the loader verified for the power cycle, checked in place (R458). -/
def heldPair (s : State) (f p : Img) : State :=
  let code := fun (i : Img) => sramRead s (loadOff i.kind) (codeLen i.hdr)
  if imgCheck s 0 f.hdr (code f) f.sig = 0 && imgCheck s 1 p.hdr (code p) p.sig = 0
      && pairCheck f.hdr p.hdr (loaderSchema s f.hdr) = 0 then pairRun s f p
  else s

/-- K9: the pair chosen and loaded, or none (R456, R458; RETIRED included, 03 R75). -/
def kindleK9 (s : State) : State :=
  if loaderDown s then s
  else match s.upd.held with
    | some (f, p) => heldPair s f p
    | none =>
      let (rev, c) := recCandidates (recsValid s s.fus.dur)
      tryPairs (s.setUpd { s.upd with reverted := rev }) c

/-! ### The rollback counter (R454, R455) -/

/-- The floor of the running pair: its lower SVN (R454). -/
def pairFloor (s : State) : Nat := match s.upd.runSf, s.upd.runPr with
  | some f, some p => min (imgSvn f.hdr) (imgSvn p.hdr)
  | _, _ => 0

/-- An owed raise noted (R455). -/
def rbcOwed (s : State) : State := s.setUpd { s.upd with rbcPend := true, fail := 0x0E }

/-- The RBC words whose counter is n (06 R140): the thermometer code, low word first (R136). -/
def rbcThermo (n : Nat) : BitVec 64 := BitVec.ofNat 64 (2 ^ n - 1)

/-- The lifecycles in which RBC is programmed (06 R145). -/
def rbcLc (s : State) : Bool := s.fus.lc = .provisioned || s.fus.lc = .commissioned

/-- The raise of the rollback counter to the floor of the running pair (R454, R455, 06 R145): without VPP_FUSE in range it
is owed; a programming stop is one of the outcomes that the hardware gives (log 9). -/
def rbcRaise (s : State) : State :=
  let n := pairFloor s
  if n ≤ rbcNow s || !rbcLc s then s.setUpd { s.upd with rbcPend := false }
  else if !vppOk s then logOtherS (rbcOwed s) .upd (leBytes 8 n)
  else
    let r := rbcThermo n ||| s.fus.rbc
    let new := fun (k : Nat) => (((r &&& ~~~ s.fus.rbc) >>> (32 * k)).setWidth 32 : Word)
    let (b, s) := freeBytes s 1
    match blowRun s (leNat b % 16) (blowCopies [(9, new 0), (10, new 1)]) with
    | (s, none) => rbcOwed s
    | (s, some _) => (onFus s fun f => { f with rbc := r }).setUpd { s.upd with rbcPend := false }

end Sys2Proof.Machine
end

