-- ==== Sys2Proof/Machine/CmdUpdate.lean ====
section
/-! DEFINITION. The update and token family and FUSE_PROGRAM (15 R380, R381, R379; 19 R449 to R461; 06 R145, R156). -/
namespace Sys2Proof.Machine

/-! ### Staging (19 R449) -/

/-- The loader runs in RECOVERY with debug open, where nothing is written to flash (03 R77, 19 R458). -/
def noFlash (s : State) : Bool := s.mode.mode = .recovery && s.mode.dbg ≠ .closed

/-- The slot of a KIND that the record in force does not name; slot A without a record (log 46). -/
def freeSide (s : State) (kind : Nat) : Nat := match recInForce (recsValid s s.fus.dur) with
  | some r => 1 - recSlot r kind
  | none => 0

/-- The image of a KIND that is staged and verified. -/
def stagedOf (s : State) (kind : Nat) : Option Img := tget none s.upd.staged kind

/-- STAGE_BEGIN (R449, R451, R454, R460): a staging restarts; in RECOVERY the verified partner stays. -/
def stageBeginCmd (s : State) (_fn : Nat) (d : Bytes) (_io : CmdIo) : Ans :=
  let kind := dOpnd d 0
  let total := dOpndN d 4 4
  if 1 < kind || total < 145 || 0x100000 < total then .bad s
  else if s.upd.trial || s.mode.mode = .debug then .denied s
  else
    let st := if s.mode.mode = .recovery then tput none s.upd.staged kind none else []
    let s := s.setUpd { s.upd with staging := some { kind := kind, total := total }, staged := st }
    { st := if noFlash s then s else slotErase s kind (freeSide s kind) }

/-- Where the decrypted code of a KIND goes: the staging window, or with debug open in RECOVERY its load region (R458). -/
def stageDest (s : State) (kind : Nat) : Nat := if noFlash s then loadOff kind else stageOff

/-- The code bytes of a package received so far put in their place, from image offset a on. -/
def stageCode (s : State) (g : Staging) (a : Nat) : State :=
  match pkgKek s g.got with
  | none => s
  | some k =>
    let img := gcmCrypt k (slice g.got 0x71 12) (g.got.drop 0x80 |>.take (leAt g.got 8 4))
    let code := (img.drop 64).take (min (codeLen img) (maxCode g.kind))
    let o := a - 64
    sramWrite s (stageDest s g.kind + o) (code.drop o)

/-- STAGE_DATA (R449): bytes below the count received are ignored; a chunk beyond it completes with DENIED. -/
def stageDataCmd (s : State) (_fn : Nat) (d : Bytes) (io : CmdIo) : Ans :=
  let off := dOpndN d 4 4
  let b := inOf d io
  if dLen d = 0 || 65536 < dLen d then .bad s
  else match s.upd.staging with
    | none => .denied s
    | some g =>
      let n := g.got.length
      if n < off || g.total < off + b.length then .denied s
      else
        let h : Staging := { g with got := g.got ++ b.drop (n - off) }
        let s := s.setUpd { s.upd with staging := some h }
        { st := if h.got.length ≤ 0xC0 then s else stageCode s h (max 64 (n - 0x80)) }

/-- The partner of a staged image for the pair check: the running one, or in RECOVERY the staged one, else the one in the
slot of the record in force (R449, R457). -/
def partnerHdr (s : State) (kind : Nat) : Option Bytes :=
  let o := 1 - kind
  if s.mode.mode = .recovery then
    match stagedOf s o with
    | some i => some i.hdr
    | none => match recInForce (recsValid s s.fus.dur) with
      | some r => match recImage s r o with
        | .inr b => some (b.take 64)
        | .inl _ => none
      | none => none
  else (if o = 0 then s.upd.runSf else s.upd.runPr).map (·.hdr)

/-- The pair that an image would form (R445, R449): 0 or its failure code; without any partner in RECOVERY there is no pair
to check yet. -/
def stagePair (s : State) (kind : Nat) (h : Bytes) : Nat := match partnerHdr s kind with
  | none => 0
  | some p =>
    let f := if kind = 0 then h else p
    let q := if kind = 0 then p else h
    pairCheck f q (if s.mode.mode = .recovery then loaderSchema s f else s.upd.schema)

/-- A failed verification (R449): the code in RESULT byte 4 and in UPD_STAT, the staging discarded. -/
def stageFail (s : State) (code : Nat) : Ans :=
  { st := s.setUpd { s.upd with staging := none, fail := code }
    status := if 8 ≤ code && code ≤ 0xA then 0x30 else 0x10
    result := resOf ([0, 0, 0, 0] ++ leBytes 1 code) }

/-- VERSION as the RESULT of a verification. -/
def stageDone (s : State) (h : Bytes) : Ans := { st := s, result := (imgVersion h).setWidth 64 }

/-- GEN of the next image of a KIND: one above the highest that its slot headers hold (R449; log 47). -/
def nextGen (s : State) (kind : Nat) : Nat := max (genAt s kind 0) (genAt s kind 1) + 1

/-- STAGE_VERIFY (R449): tag, image, pair; then the image is written at rest and read back. A loader without its engines
refuses with ABORTED (04 R112), and in RETIRED every image with INCOMPATIBLE (03 R75). -/
def stageVerifyCmd (s : State) (_fn : Nat) (d : Bytes) (io : CmdIo) : Ans :=
  let kind := dOpnd d 0
  if 1 < kind then .bad s
  else match s.upd.staging, stagedOf s kind with
    | none, some i => stageDone s i.hdr
    | none, none => .denied s
    | some g, _ =>
      if g.kind ≠ kind then .denied s
      else if loaderDown s then .aborted s
      else if s.fus.lc = .retired then { Ans.denied s with status := 0x30 }
      else match pkgOpen s kind g.got with
        | none => stageFail s 1
        | some b =>
          let c := imgCheckAll s kind b
          let p := stagePair s kind b
          if g.got.length ≠ g.total then stageFail s 1
          else if c ≠ 0 then stageFail s c
          else if p ≠ 0 then stageFail s p
          else
            let side := freeSide s kind
            let put := fun (s : State) => s.setUpd { s.upd with
              staging := none, staged := tput none s.upd.staged kind (some (imgOf kind side b)) }
            if noFlash s then stageDone (put s) b
            else if io.fail ≠ 0 then stageFail s 0xB
            else
              let (iv, s) := freeBytes s 12
              stageDone (put (slotWrite s s.fus.dur kind side (nextGen s kind) iv b)) b

/-! ### Activation (19 R451 to R461) -/

/-- LEN of an activation window: its longest pause in ticks, rounded up (02 R61, 19 R442). -/
def actLen (s : State) (kind : Nat) : Nat :=
  let us := if kind = 0 then 9000 else 4000
  (us + tickMicros s - 1) / tickMicros s

/-- X lies at least 4 ticks ahead (15 R383). -/
def actLead (s : State) (x : Word) : Bool := tickFuture (x - 3) s.glb.tick && tickFuture x s.glb.tick

/-- VPP_FUSE is present (MODE_SUPPLY.VPP_PRESENT). -/
def vppPresent (s : State) : Bool := s.mode.vpp ≠ .absent

/-- An activation accepted (R451). -/
def actAccept (s : State) (kind : Nat) (x : Word) (raiseIt : Bool) : State :=
  let s := s.setUpd { s.upd with pending := some kind, actTick := x, actRaise := raiseIt }
  if kind = 2 then s else announceCmd s (2 + kind) (actLen s kind) x

/-- ACTIVATE in SERVICE (R451, R454, R455). -/
def activateService (s : State) (kind : Nat) (x : Word) (raiseIt : Bool) : Ans :=
  if s.mode.mode ≠ .service || s.upd.trial || s.upd.pending.isSome || s.upd.paused then .denied s
  else if kind ≠ 2 && ((stagedOf s kind).isNone || !annFree s) then .denied s
  else if kind = 2 && !raiseIt then .denied s
  else if !actLead s x then .late s (s.glb.tick + 4)
  else if kind ≠ 2 && (match stagedOf s kind with
      | some i => stagePair s kind i.hdr
      | none => 0) ≠ 0 then .stop s 0x30
  else if raiseIt && !vppPresent s then .aborted s
  else { st := actAccept s kind x raiseIt, result := x.setWidth 64 }

/-- The slots and headers of the pair that the loader would run (R457): staged images, else those of the record in force. -/
def loaderPair (s : State) : Option (Img × Img) :=
  let old := recInForce (recsValid s s.fus.dur)
  let side := fun (kind : Nat) => match stagedOf s kind with
    | some i => some i
    | none => match old with
      | some r => match recImage s r kind with
        | .inr b => some (imgOf kind (recSlot r kind) b)
        | .inl _ => none
      | none => none
  match side 0, side 1 with
  | some f, some p => some (f, p)
  | _, _ => none

/-- ACTIVATE in RECOVERY (R457, R458): a record without TRIAL and the device reset of M11; with debug open the pair is held
for the power cycle and nothing is written. -/
def activateLoader (s : State) (kind : Nat) (x : Word) : Ans :=
  if kind = 2 || (stagedOf s kind).isNone then .denied s
  else if loaderDown s then .aborted s
  else if s.fus.lc = .retired then .stop s 0x30
  else if !actLead s x then .late s (s.glb.tick + 4)
  else match loaderPair s with
    | none => .denied s
    | some (f, p) =>
      if pairCheck f.hdr p.hdr (loaderSchema s f.hdr) ≠ 0 then .stop s 0x30
      else if noFlash s then
        (if (stagedOf s 0).isNone || (stagedOf s 1).isNone then .denied s
         else { st := s.setUpd { s.upd with held := some (f, p) }, result := x.setWidth 64, after := fun s => cmdReset s 2 })
      else
        { st := recWrite s f.slot p.slot 0 (imgSchema f.hdr), result := x.setWidth 64, after := fun s => cmdReset s 2 }

/-- ACTIVATE (R451, R457, R460). -/
def activateCmd (s : State) (_fn : Nat) (d : Bytes) (_io : CmdIo) : Ans :=
  let kind := dOpnd d 0
  let x := wordOf (dOpndN d 4 4)
  if 2 < kind || 1 < dOpnd d 8 then .bad s
  else if s.mode.mode = .recovery then activateLoader s kind x
  else activateService s kind x (dOpnd d 8 = 1)

/-- ACTIVATE_CANCEL (R461). -/
def activateCancelCmd (s : State) (_fn : Nat) (d : Bytes) (_io : CmdIo) : Ans :=
  let kind := dOpnd d 0
  if 2 < kind then .bad s
  else if s.upd.pending ≠ some kind || tickReached s.upd.actTick s.glb.tick then .denied s
  else
    let s := s.setUpd { s.upd with pending := none, actTick := 0, actRaise := false }
    { st := if kind = 2 then s else annClear s }

/-- The record of IMAGE_INFO (19, Registers). -/
def imageInfoRec (s : State) : Bytes :=
  let one := fun (i : Option Img) => match i with
    | some i => leBytes 4 (imgVersion i.hdr).toNat ++ leBytes 1 (imgSvn i.hdr) ++ leBytes 1 i.slot ++ leBytes 2 (abiOwn i.hdr)
    | none => List.replicate 8 0
  let st := match stagedOf s 0, stagedOf s 1 with
    | some i, _ => leBytes 4 (imgVersion i.hdr).toNat ++ [0] ++ leBytes 1 (imgSvn i.hdr)
    | none, some i => leBytes 4 (imgVersion i.hdr).toNat ++ [1] ++ leBytes 1 (imgSvn i.hdr)
    | none, none => [0, 0, 0, 0, 0xFF, 0]
  let x := if s.upd.pending.isSome then s.upd.actTick.toNat else 0
  one s.upd.runSf ++ one s.upd.runPr ++ st ++ leBytes 1 (rbcNow s)
    ++ leBytes 1 (b2n s.upd.trial + 2 * b2n s.upd.reverted + 4 * b2n s.upd.pending.isSome + 8 * b2n s.upd.rbcPend)
    ++ leBytes 4 x ++ leBytes 2 s.upd.schema ++ [0, 0] ++ ecPub p384 (ukScalar s) ++ List.replicate 15 0

/-- IMAGE_INFO. -/
def imageInfoCmd (s : State) (_fn : Nat) (_d : Bytes) (_io : CmdIo) : Ans := { st := s, out := imageInfoRec s }

/-- CONFIG_WRITE (06 R156): a whole image with a valid header whose SEQ is one above the one in use goes into the copy not
in use, its header last (log 48). -/
def configWriteCmd (s : State) (_fn : Nat) (d : Bytes) (io : CmdIo) : Ans :=
  let b := inOf d io
  let h := b.take 64
  let seq := s.cfg.seq + 1
  if dLen d < 64 || 65536 < dLen d then .bad s
  else if !cfgHdrOk h || b.length ≠ 64 + leAt h 0x0C 4 + 5458 || cfgSeqOf h ≠ seq || noFlash s then .denied s
  else
    let o := cfgAddr (if s.cfg.copy then 0 else 1)
    let s := flashErase s 0 o 0x10000
    if io.fail ≠ 0 then .aborted s
    else { st := flashProgram (flashProgram s 0 (o + 64) (b.drop 64)) 0 o h, result := seq.setWidth 64 }

/-! ### Tokens (15 R381) -/

/-- The factory key's digest in BLANK, VTOK in PROVISIONED; no other lifecycle takes tokens. -/
def tokenKey (s : State) : Option Bytes := match s.fus.lc with
  | .blank => some Config.factoryDigest
  | .provisioned => some s.fus.vtok
  | _ => none

/-- A token verifies (R381): form, SERIAL, challenge, key digest, both signatures. -/
def tokenOk (s : State) (typ : Nat) (t : Bytes) : Bool :=
  let body := t.take 128
  let sig := t.drop 128
  let zero := fun (a n : Nat) => (slice t a n).all (· = 0)
  match tokenKey s with
  | none => false
  | some k =>
    t.length = 5586 && body.take 4 = [0x53, 0x54, 0x4B, 0x4E] && byteAt t 4 = typ && (typ = 2 || byteAt t 5 = 0) && zero 6 2
      && zero 0x18 8 && zero 0x60 32 && (typ ≠ 3 || zero 0x40 32)
      && slice t 8 8 = slice s.fus.serial 0 8 && s.rng.chal = some (slice t 0x10 8)
      && sigDigest sig = k && sigEc sig body && sigMl sig (ascii "STOLTO-TOKEN") body

/-- A token consumes the challenge that it carries. -/
def tokenUse (s : State) (t : Bytes) : State :=
  if s.rng.chal = some (slice t 0x10 8) then onRng s fun r => { r with chal := none } else s

/-- A command with a token in IN: refused with DENIED when it does not verify. -/
def withToken (s : State) (typ : Nat) (t : Bytes) (ok : Bool) (f : State → Ans) : Ans :=
  if tokenOk s typ t && ok then f (tokenUse s t) else .denied (tokenUse s t)

/-- The slots in force re-encrypted under RK from a new device unique root, and a record under it that names them
(19, "When the part is BLANK or RETIRED"; log 49). -/
def reencrypt (s : State) (dur : Bytes) : State :=
  match recInForce (recsValid s s.fus.dur) with
  | none => s
  | some r =>
    let one := fun (s : State) (kind : Nat) => match restOpen s s.fus.dur kind (recSlot r kind) with
      | .inl _ => s
      | .inr b =>
        let (iv, s) := freeBytes s 12
        slotWrite s dur kind (recSlot r kind) (recGen r kind) iv b
    let s := one (one s 0) 1
    let t := recWrite (onFus s fun f => { f with dur := dur }) (recSlot r 0) (recSlot r 1) 0 (recSchema r)
    onFus t fun f => { f with dur := s.fus.dur }

/-- PROVISION (R381, 03 R67, R68): DUR, VIMG and VTOK blown, the slots in force re-encrypted, then the LC PROV group. All
take effect at the next KINDLE (06 R141). -/
def provisionCmd (s : State) (fn : Nat) (d : Bytes) (io : CmdIo) : Ans :=
  let t := inOf d io
  if dLen d ≠ 5586 then .bad s
  else if s.fus.lc ≠ .blank then .denied s
  else if !vppOk s then .aborted s
  else if !rngReady s.rng then .notReady s (rngWait s (rngRemain s.rng))
  else withToken s 1 t true fun s => withRandom s fn d 32 fun s dur =>
    let keys := bytesWords 16 dur ++ bytesWords 40 (slice t 0x20 32) ++ bytesWords 64 (slice t 0x40 32)
    blowPart s io.fail.toNat keys fun s k =>
      let s := if noFlash s then s else reencrypt s (keyBytes s 16 8)
      blowPart s k [(0, lcGroup 0)] fun s _ => { st := s }

/-- TOKEN_CHALLENGE (R381). -/
def tokenChallengeCmd (s : State) (fn : Nat) (d : Bytes) (_io : CmdIo) : Ans :=
  withRandom s fn d 8 fun s b => { st := onRng s fun r => { r with chal := some b }, result := resOf b }

/-- The state of debug changed (03 R72, R73): the real roots locked, the test root in force, the caches cleared, the port open
unless debug counts as disabled, every branch derived afresh (09 R224), the database closed under the test root (16 R393), open staging discarded
(19 R460). -/
def debugOpen (s : State) (lv : Dbg) : State :=
  let s := s.setVlt { s.vlt with cache := [] }
  let s := s.setMode { s.mode with
    dbg := lv, dbgPend := none, rootlock := true, testroot := true, port := !s.fus.dbgdis }
  let s := setDb s { s.spi0.db with isOpen := false }
  deriveAll (s.setUpd { s.upd with staging := none, staged := [] })

/-- TOKEN_APPLY (R381, 03 R71, M8, M9): in SERVICE the switch is announced; in RECOVERY it happens at once. -/
def tokenApplyCmd (s : State) (_fn : Nat) (d : Bytes) (io : CmdIo) : Ans :=
  let t := inOf d io
  let lv := byteAt t 5
  if dLen d ≠ 5586 then .bad s
  else withToken s 2 t ((lv = 1 || lv = 2) && !s.fus.dbgdis && dbgCode s.mode.dbg ≤ lv
      && (s.mode.mode = .recovery || (s.mode.mode = .service && annFree s))) fun s =>
    if s.mode.mode = .recovery then { st := toMode (debugOpen s (dbgOf lv)) .recovery 8 }
    else { st := debugAnnounce s lv, result := (s.glb.tick + 5).setWidth 64 }

/-- A FACTORY_FUSE word: SERIAL or CAL (06 R136, R145). -/
def factoryWord (a : Nat) : Bool := a = 328 || a = 329 || (448 ≤ a && a < 512)

/-- FACTORY_FUSE (R381, 06 R145). -/
def factoryFuseCmd (s : State) (_fn : Nat) (d : Bytes) (io : CmdIo) : Ans :=
  let t := inOf d io
  let a := leAt t 0x20 2
  let b := wordOf (leAt t 0x24 4)
  if dLen d ≠ 5586 then .bad s
  else if s.fus.lc ≠ .blank then .denied s
  else if !vppOk s then .aborted s
  else withToken s 4 t (factoryWord a) fun s => blowOr s io [(a, b)] fun s => { st := s }

/-- FUSE_PROGRAM (R379, 06 R145): DBGDIS, TMPDIS and override words under the authority that their lifecycle asks for; no
other word. Under the two-key latch VPP_FUSE and random output are checked first (10 R253). -/
def fuseProgramCmd (s : State) (_fn : Nat) (d : Bytes) (io : CmdIo) : Ans :=
  let a := dOpndN d 0 2
  let b := wordOf (dOpndN d 4 4)
  let t := auxOf d io
  let early := s.fus.lc = .blank || s.fus.lc = .provisioned
  let blow := fun (s : State) => blowOr s io [(a, b)] fun s => { st := s : Ans }
  let plain := dAuxLen d = 0
  if !plain && dAuxLen d ≠ 5586 then .bad s
  else if early && (a = 3 || (384 ≤ a && a < 448)) then
    (if !plain then .bad s
     else if !pgmAllowed s a b .none then .denied s
     else if !vppOk s then .aborted s else blow s)
  else if early && a = 6 then
    (if plain || !pgmAllowed s a b .factory then .denied s
     else if !vppOk s then .aborted s
     else withToken s 3 t (leAt t 0x20 4 = b.toNat) blow)
  else if s.fus.lc = .commissioned && (a = 3 || a = 6) then
    (if !plain then .bad s
     else withLatch s 0x09 (pgmRecord s a b (.latch 0x09) && pgmAllowed s a b (.latch 0x09))
       (blowReady s (blow (latchConsume s))))
  else .denied s

/-- FUSE_PROGRAM (15 R380). -/
def execFuseProgram (fn r : Nat) (io : CmdIo) (s : State) : Host.Outcome State Fault Refusal :=
  .next (serveCmd s fn r 0x7B fun s d => fuseProgramCmd s fn d io)

/-- STAGE_BEGIN (15 R380). -/
def execStageBegin (fn r : Nat) (io : CmdIo) (s : State) : Host.Outcome State Fault Refusal :=
  .next (serveCmd s fn r 0x80 fun s d => stageBeginCmd s fn d io)

/-- STAGE_DATA (15 R380). -/
def execStageData (fn r : Nat) (io : CmdIo) (s : State) : Host.Outcome State Fault Refusal :=
  .next (serveCmd s fn r 0x81 fun s d => stageDataCmd s fn d io)

/-- STAGE_VERIFY (15 R380). -/
def execStageVerify (fn r : Nat) (io : CmdIo) (s : State) : Host.Outcome State Fault Refusal :=
  .next (serveCmd s fn r 0x82 fun s d => stageVerifyCmd s fn d io)

/-- ACTIVATE (15 R380). -/
def execActivate (fn r : Nat) (io : CmdIo) (s : State) : Host.Outcome State Fault Refusal :=
  .next (serveCmd s fn r 0x83 fun s d => activateCmd s fn d io)

/-- ACTIVATE_CANCEL (15 R380). -/
def execActivateCancel (fn r : Nat) (io : CmdIo) (s : State) : Host.Outcome State Fault Refusal :=
  .next (serveCmd s fn r 0x84 fun s d => activateCancelCmd s fn d io)

/-- IMAGE_INFO (15 R380). -/
def execImageInfo (fn r : Nat) (io : CmdIo) (s : State) : Host.Outcome State Fault Refusal :=
  .next (serveCmd s fn r 0x85 fun s d => imageInfoCmd s fn d io)

/-- CONFIG_WRITE (15 R380). -/
def execConfigWrite (fn r : Nat) (io : CmdIo) (s : State) : Host.Outcome State Fault Refusal :=
  .next (serveCmd s fn r 0x86 fun s d => configWriteCmd s fn d io)

/-- PROVISION (15 R380). -/
def execProvision (fn r : Nat) (io : CmdIo) (s : State) : Host.Outcome State Fault Refusal :=
  .next (serveCmd s fn r 0x88 fun s d => provisionCmd s fn d io)

/-- TOKEN_CHALLENGE (15 R380). -/
def execTokenChallenge (fn r : Nat) (io : CmdIo) (s : State) : Host.Outcome State Fault Refusal :=
  .next (serveCmd s fn r 0x89 fun s d => tokenChallengeCmd s fn d io)

/-- TOKEN_APPLY (15 R380). -/
def execTokenApply (fn r : Nat) (io : CmdIo) (s : State) : Host.Outcome State Fault Refusal :=
  .next (serveCmd s fn r 0x8A fun s d => tokenApplyCmd s fn d io)

/-- FACTORY_FUSE (15 R380). -/
def execFactoryFuse (fn r : Nat) (io : CmdIo) (s : State) : Host.Outcome State Fault Refusal :=
  .next (serveCmd s fn r 0x8B fun s d => factoryFuseCmd s fn d io)

end Sys2Proof.Machine
end

