-- ==== Sys2Proof/Machine/Kindle.lean ====
section
/-! DEFINITION. The KINDLE sequence and its end (04 R101 to R114; 03 R75). -/
namespace Sys2Proof.Machine

/-- An MPU region of the mask ROM's set-up: R and W, any owner, valid (08 R214). -/
def romRegion (base limit : Nat) : Region := { base := wordOf base, limit := wordOf limit, attr := 0x1007 }

/-- The MPU of initiator k as the mask ROM sets it up (08 R214). -/
def romMpu (k : Nat) : MpuUnit :=
  let sram := romRegion 0x10000000 0x101FFFC0
  { en := true, regions := if k = 4 then [(0, sram), (1, romRegion 0x20000000 0x2000DFC0)] else [(0, sram)] }

/-- K1: the banner, the entropy source, the clock gates and the MPUs (00 R3; 05 R131; 08 R214). -/
def kindleK1 (s : State) : State :=
  let s := emitOut s (.uart Config.banner)
  let s := onRng s rngStart
  let s := onClk s fun c => { c with gate := c.gate ||| 0xB800 }
  [2, 3, 4, 5, 6].foldl (fun s k => setMpuUnit s k (romMpu k)) s

/-- K2 to K4: the fuses, the header's settle counts, the trim centre with the step of R122 if XA has been checked. -/
def kindleK2 (s : State) : State :=
  let s := cfgK3 (fuseKindle s)
  let c := trimCentre s
  let s := onClk s fun k => { k with trimCode := clampCode ((c : Int) + k.trimCode - 0x80) }
  armedAct (disarm s)

/-- The engine that a FAIL code names: 0 to 5 lanes, 6 and 7 PKE0 and PKE1, 8 the fast path, 10 the DRBG (R112). -/
def katEng (c : Nat) : Nat := if c = 10 then 10 else c - 1

/-- MODE_KINDLE_STEP.FAIL keeps the first failure (MODE_KINDLE_STEP). -/
def noteFail (s : State) (c : Nat) : State :=
  if s.mode.kindleFail = 0 then s.setMode { s.mode with kindleFail := c } else s

/-- K5: the known-answer tests; each failing engine stays gated, with an entry that names it (R112). -/
def kindleK5 (s : State) (fail : List Nat) : State :=
  let l := ((List.range 10).map (· + 1)).filter fail.contains
  let s := s.setMode { s.mode with katFail := l, gatedEng := l.map katEng }
  l.foldl (fun s c => noteFail (logOther s .rom (leBytes 8 c)) c) s

/-- K6: both PLLs lock and take over their domains. -/
def kindleK6 (s : State) : State := onClk s fun c => { c with lockA := true, lockB := true, selA := true, selB := true }

/-- K7 (R102): the layers; an unusable image is reported. -/
def kindleK7 (s : State) : State :=
  let s := cfgK7 s
  if s.cfg.valid then s else noteFail s 0x11

/-- K8: the battery-domain review (17 R412, R424; 04 R98), the vault-root check in COMMISSIONED (09 R223; 17 R413), the
branches and the vault (09 R224, R225, R230, R239). -/
def kindleK8 (bad : List Nat) (s : State) : State :=
  let s := logOtherS s .rom (leBytes 4 s.tmp.sticky.toNat ++ leBytes 2 (b2n s.snf.flag) ++ leBytes 2 s.tmp.nrst)
  let s := s.setMode { s.mode with nrstHold := s.tmp.nrst }
  let s := onVoe s fun v => { v with k8 := s.tmp.sticky }
  let comm := s.fus.lc = .commissioned
  let ok := comm && vrCheck s
  let s := s.setVlt { s.vlt with vrOk := ok }
  let s := s.setMode { s.mode with vrFail := comm && !ok }
  let s := if comm && !ok then snuffTrig s 4 0 else s
  vaultKindle bad (deriveAll s)

/-- Where a core stands at the handover: the secure firmware at its ENTRY, with the partition runtime as the world it
returns to (log 32); without a pair, the mask ROM. -/
def handCore (s : State) (x : Core) : Core :=
  match s.upd.runSf, s.upd.runPr with
  | some f, some p => { x with
      pc := BitVec.ofNat 64 (0x10000000 + leAt f.hdr 0x14 4)
      wsave := { pc := BitVec.ofNat 64 (0x10080000 + leAt p.hdr 0x14 4 - 4), level := .hyp } }
  | _, _ => x

/-- K9 to K11: the pair, the database, the lock of the tamper configuration before the handover (17 R410, log 114), and the
handover; the meshes take their seeds once random output is available (17 R404). -/
def kindleK9to11 (s : State) : State :=
  let s := kindleK9 s
  let s := if s.mode.pairOk then s else noteFail s 0x10
  let s := dbRecover s
  let s := s.setTmp { s.tmp with lock := true, seedDue := true }
  (List.range 2).foldl (fun s c => setCore s c (handCore s (getCore s c))) s

/-- K12: RUN is written (02 R41); a forbidden GLB_BCN_CFG refuses it. -/
def kindleRun (s : State) : State :=
  if bcnCfgOk s.glb then
    let s := bcnStart s
    s.setMode { s.mode with kindled := true }
  else refuseWrite s 0x40000100 0xA

/-- VPP_FUSE found present at the release of the reset that starts KINDLE (R91). -/
def vppEntry (s : State) : State := if s.mode.vpp = .absent then s else logOther s .mode (leBytes 8 0)

/-- What the supplies show as KINDLE runs: VPP_FUSE (R91), and VSNUFF_OK, which ends a cause of ALARM_N (R114). -/
def kindleSupply (e : KindleEnv) (s : State) : State :=
  let s := vppEntry (s.setMode { s.mode with vpp := e.vpp, vsnuffOk := e.vsnuffOk })
  if e.vsnuffOk then alarmClear s .vsnuff else s

/-- The steps K1 to K11 in order. -/
def kindleSteps (e : KindleEnv) (s : State) : State :=
  let s := kindleSupply e s
  let s := if s.mode.recovReq && s.mode.wdtStep.isSome then noteFail s 0x13 else s
  let s := onFus s fun f => { f with temp := e.temp, band := e.temp / 10 }
  let s := kindleK5 (kindleK2 (kindleK1 s)) e.katFail
  let s := kindleK9to11 (kindleK8 e.zfail (kindleK7 (kindleK6 s)))
  s.setMode { s.mode with kindleStep := 12, kindleTime := e.micros, wdtCount := 0, wdtFrac := 0 }

/-- KINDLE (R101): K1 to K12; K12 waits for VSNUFF_OK when VSNUFF is not charged (R114). -/
def execKindle (e : KindleEnv) (s : State) : Host.Outcome State Fault Refusal :=
  if !inKindle s || s.mode.inReset || s.mode.kindleStep ≠ 0 then .next s
  else
    let s := kindleSteps e s
    .next (if e.vsnuffOk then kindleRun s else s)

/-- K12 waits for VSNUFF_OK (R114). -/
def kindleWaits (s : State) : Bool :=
  inKindle s && !s.mode.inReset && s.mode.kindleStep = 12 && !s.mode.kindled && !s.mode.vsnuffOk

/-- VSNUFF_WAIT_EXPIRY (R114): ALARM_N while the flag stays 0, a security-log entry, and KINDLE goes on. -/
def execVsnuffWaitExpiry (s : State) : Host.Outcome State Fault Refusal :=
  if kindleWaits s then .next (kindleRun (logOtherS (alarmSet (noteFail s 0x12) .vsnuff) .rom (leBytes 8 0x12)))
  else .next s

/-- VSNUFF_OK (R93, R114): the flag reads 1, the wait of K12 ends, the cause of ALARM_N is released. -/
def execVsnuffOk (s : State) : Host.Outcome State Fault Refusal :=
  let w := kindleWaits s
  let s := alarmClear (s.setMode { s.mode with vsnuffOk := true }) .vsnuff
  .next (if w then kindleRun s else s)

/-! ### The destination (03 R75) -/

/-- KINDLE must end in RECOVERY: the flag, no compatible pair, or a failed known-answer test (R75, R112). -/
def needsRecovery (s : State) : Bool := s.mode.recovReq || !s.mode.pairOk || !s.mode.katFail.isEmpty

/-- Debug opens at the end of a KINDLE in RETIRED (R71, R75). -/
def retiredDebug (s : State) : State :=
  toMode (s.setMode { s.mode with dbg := .opened, port := true }) .debug 4

/-- RECOVERY with its cause (MODE_CAUSE): 0x09 after a recovery request, 0x0A without a pair. -/
def enterRecovery (s : State) : State :=
  toMode s .recovery (if s.mode.recovReq then 9 else if s.mode.pairOk then 4 else 0xA)

/-- The destination of KINDLE (R75). -/
def kindleDest (s : State) : State :=
  if s.fus.lc = .retired then
    (if !s.fus.dbgdis && s.mode.pairOk && s.mode.katFail.isEmpty then retiredDebug s else enterRecovery s)
  else if needsRecovery s then enterRecovery s
  else if s.snf.flag || (s.fus.lc = .commissioned && s.mode.vrFail) then toMode s .snuffed 4
  else if s.mode.dbg ≠ .closed then toMode s .debug 4
  else toMode s .service 4

/-- KINDLE_END (03 M5, R75): at the edge of tick 1. -/
def execKindleEnd (s : State) : Host.Outcome State Fault Refusal :=
  if s.mode.mode = .kindle && !s.mode.inReset && s.mode.kindled && s.glb.run && 1 ≤ s.glb.tick.toNat then
    .next (kindleDest (s.setMode { s.mode with wdtStep := none }))
  else .next s

end Sys2Proof.Machine
end

