-- ==== Sys2Proof/Machine/Tick.lean ====
section
/-! DEFINITION. What happens at a tick edge (02 R47): shadows and groups, tokens and budgets, key switches, carried trips,
the waits that an edge ends, and the once-a-tick work of every block. -/
namespace Sys2Proof.Machine

/-! ### Groups (R47 step 1, R53; 15 R382) -/

/-- A BEACON_SET that waits for the edge (15 R382): DENIED when its BUDGET group was refused (R53). -/
def beaconDone (refused : Bool) (s : State) (w : Wait) : State :=
  let bad := refused && match runningAt s w.key w.slot with
    | some x => (dOpnd x.desc 0).testBit 0
    | none => false
  endWait s w fun c => { c with status := if bad then 0x10 else 0 }

/-- The shadows and the groups committed in the tick before, and the commands that waited for them. -/
def edgeGroups (s : State) : State :=
  let refused := match s.glb.budCommit with
    | some b => !budOk b
    | none => false
  let s := applyGroups (applyShadows s)
  (s.hif.waits.filter fun w => w.tag = .beacon).foldl (beaconDone refused) s

/-! ### Keys (09 R229, R235; 15 R375) -/

/-- SN and KCV of a slot as RESULT bytes 0 to 4 (15 R375). -/
def slotResult (s : State) (n : Nat) : DWord :=
  let x := getSlot s n
  let k := match slotMat s n x with
    | some m => leNat (kcvOf x.alg m)
    | none => 0
  BitVec.ofNat 64 (x.sn + 65536 * k)

/-- A wait for the edge at which a slot is LIVE ends: OK with SN and KCV, or ABORTED when the slot was given up. -/
def liveDone (s : State) (w : Wait) : State := match w.tag with
  | .live n =>
    if (getSlot s n).state = 1 then
      let r := slotResult s n
      endWait s w fun c => { c with result := r }
    else if (getSlot s n).state = 2 then s
    else endWait s w fun c => { c with status := 0x21 }
  | _ => s

/-- The key switches and unpins of an edge. -/
def edgeKeys (s : State) : State :=
  let s := applyUnpins (keySwitch s)
  s.hif.waits.foldl liveDone s

/-! ### Rings (14 R341, R352, R362) -/

/-- The head record of a ring (14 R341). -/
def headRec (s : State) (r : Ring) : Bytes :=
  leBytes 2 r.obs.toNat ++ leBytes 2 r.cons.toNat ++ leBytes 2 r.cqw.toNat ++ leBytes 1 r.state ++ leBytes 1 r.err
    ++ leBytes 4 s.glb.tick.toNat ++ leBytes 4 0

/-- The interrupt of a ring at a tick edge (14 R352): IRQ 1 after completions, and one further interrupt while
unconsumed completions stand and CQ_HEAD was not written. -/
def ringIrqDue (r : Ring) : Bool :=
  r.en && ((r.irq = 1 && r.wrote) || (r.irq ≤ 1 && r.cqw ≠ r.cqHead && !r.headWr))

/-- One ring at a tick edge. -/
def ringEdge (s : State) (k : Nat) : State :=
  let s := flushReorder s k
  let r := getRing s k
  let s := if r.changed then emitOut s (.head (k / 8) (k % 8) (headRec s r)) else s
  let s := if ringIrqDue r then irq s (k / 8) r.vec else s
  let live := r.store.filter (storeLive s)
  if r.changed || r.wrote || r.headWr || live.length ≠ r.store.length then
    setRing s k { r with changed := false, wrote := false, headWr := false, store := live }
  else s

/-! ### Recorder, cores, Voeth, fuses -/

/-- PF vector 12 when entries of an enabled channel were written in the tick that ended (18 R439). -/
def recorderEdge (s : State) : State :=
  let due := (s.evr.irq.getLsbD 0 && s.evr.wroteS) || (s.evr.irq.getLsbD 1 && s.evr.wroteD)
  let s := s.setEvr { s.evr with wroteS := false, wroteD := false }
  if due then irq s 0 12 else s

/-- The beacon tick and Monitor tick interrupts of a core (07 R185). -/
def coreEdge (s : State) (c : Nat) : State :=
  let x := getCore s c
  setCore s c { x with ipendHyp := x.ipendHyp ||| 2, ipendMon := x.ipendMon ||| 0x2000000 }

/-- One peer at a tick edge (11 R277, R279, R280): its ACK, a HELLO that could not be sent before, and the age of its oldest
unacknowledged frame. -/
def peerEdge (s : State) (k : Nat) : State :=
  let ch := k / 256
  let node := k % 256
  let p := getPeer s ch node
  let s := if p.unacked.isEmpty then s else setPeer s ch node { p with rto := p.rto + 1 }
  let s := if p.helloDue then sendHello s ch node else s
  let p := getPeer s ch node
  if p.ackDue && voeRuns s ch then sendAck (setPeer s ch node { p with ackDue := false }) ch node else s

/-- Voeth at a tick edge. -/
def voeEdge (s : State) : State :=
  let s := onVoe s fun v => { v with helloAge := v.helloAge.map (satInc 0xFFFF), alignAge := satInc 0xFFFF v.alignAge }
  let s := onCus s fun c => if c.reqOpen then { c with repTicks := satInc 0xFFFF c.repTicks } else c
  let s := (s.voe.peers.map (·.1)).foldl peerEdge s
  canIrq (canIrq (canFlush (canFlush s 0) 1) 0) 1

/-- The mesh seeds of this KINDLE, once random output is available (17 R404): four distinct nonzero words; any other draw
is drawn again at the next edge. -/
def meshSeed (s : State) : State :=
  if s.tmp.seedDue && rngReady s.rng then
    match rngInternal s 16 with
    | .inl _ => s
    | .inr (b, s) =>
      let l := (List.range 4).map fun k => wordOf (leAt b (4 * k) 4)
      if l.contains 0 || !decide l.Nodup then s else s.setTmp { s.tmp with lfsr := l, seedDue := false }
  else s

/-- The reseed timer and the fuse pass timer (13 R322; 06 R143). -/
def timerEdge (s : State) : State :=
  let s := onRng s fun r => { r with ticks := r.ticks + 1 }
  rereadEdge (onFus s fun f => { f with sincePass := f.sincePass + 1 })

/-! ### DIM (03 M6, R80) -/

/-- No firmware-class operation runs or is queued, but for the DIM command itself (M6). -/
def ringIdle (s : State) (k : Nat) : Bool :=
  let r := getRing s k
  r.staged.isEmpty && (r.cls = 0 || r.obs = r.cons || !ringRuns r)
    && r.running.all fun x => s.hif.waits.any fun w => w.key = k && w.slot = x.slot && w.tag = .dim

/-- The conditions of M6 beside the command. -/
def dimReady (s : State) : Bool :=
  s.mode.mode = .service && s.mode.dimEn && s.hif.trips.isEmpty && annFree s
    && s.spi0.cur = none && s.cus.run = 0
    && (List.range 128).all (ringIdle s)
    && (List.range 6).all (fun e => (getLane s e).isEmpty)
    && (List.range 2).all (fun p => (getPke s p).resident.isEmpty && (getPke s p).waiting.isEmpty)

/-- DIM is entered (M6, R106; 13 R326): the engines are gated at the root, the entropy source stops, the command
completes with OK. -/
def dimEnter (s : State) : State :=
  let s := s.setMode { s.mode with dimPend := none }
  let s := onCan (onCan s 0 txSettle) 1 txSettle
  let s := onRng (onClk s fun c => { c with rootGated := true }) fun r => { r with run := false }
  endWaits (toMode s .dim 5) .dim id

/-- A pending DIM entry at a tick edge (M6): entered, or one edge fewer is left. -/
def dimEdge (s : State) : State := match s.mode.dimPend with
  | none => s
  | some 0 => s
  | some (n + 1) => if dimReady s then dimEnter s else s.setMode { s.mode with dimPend := some n }

/-! ### The edge -/

/-- The time of the new tick. -/
def edgeTime (s : State) : State := s.setGlb { s.glb with tick := s.glb.tick + 1, sub := 0 }

/-- Clock work of an edge (05 R129, R133; 06 R143), and the level of VPP_FUSE (04 R91; log 110). -/
def edgeClk (s : State) (e : TickEnv) : State :=
  holdAttempts (trimStep (tempStep (s.setMode { s.mode with vpp := e.vpp }) e.temp) e.trim)

/-- Admission of an edge (R47 steps 2 to 5; 05 R129): tokens, budgets, carried candidates. -/
def edgeAdmit (s : State) : State :=
  let s := refill s
  admitCarried (s.setMode { s.mode with resume := false })

/-- The raise of ACTIVATE with KIND 2 (19 R451): at the edge of X. -/
def edgeRaise (s : State) : State :=
  if s.upd.pending = some 2 && tickReached s.upd.actTick s.glb.tick then
    rbcRaise (s.setUpd { s.upd with pending := none, actRaise := false })
  else s

/-- The once-a-tick work of the other blocks. -/
def edgeRest (s : State) : State :=
  let s := pkeZero (pkeZero s 0) 1
  let s := (List.range 128).foldl ringEdge s
  let s := coreEdge (coreEdge s 0) 1
  recorderEdge (timerEdge (voeEdge (meshSeed (edgeRaise s))))

/-- TICK_EDGE (R47): after the count N − 1 of the tick that ends (R40). -/
def execTickEdge (e : TickEnv) (s : State) : Host.Outcome State Fault Refusal :=
  if mainUp s && s.glb.run && s.glb.sub + 1 = ticksN s then
    .next (dimEdge (edgeRest (edgeAdmit (ownerEdge (edgeKeys (edgeGroups (edgeClk (edgeTime s) e)))))))
  else .next s

end Sys2Proof.Machine
end

