-- ==== Sys2Proof/Machine/Modes.lean ====
section
/-! DEFINITION. Announced windows and switches: the start of a window, an activation's pause and its confirmation, DIM and
its wake, the debug switch (02 R61, R62; 03 R73, R78, R80, R87; 04 R107; 19 R451 to R460). -/
namespace Sys2Proof.Machine

/-! ### The pause of an activation (19 R452, R453) -/

/-- H2 on core c: a core in the normal world leaves it for the handover routine, its state kept (19 R452; log 32). -/
def handoverIn (s : State) (c : Nat) : State :=
  if (getCore s c).level = .mon then s
  else
    let f := (getCore s c).encl.isSome
    let s := match (getCore s c).encl with
      | some e => enclExit s c e 0
      | none => s
    onCore s c fun x => monEnter (saveWorld x true f) 0

/-- H2: firmware-class operations in flight end with ABORTED and write no output; firmware-class service stops. -/
def pauseStart (s : State) : State :=
  let s := abortCommands (abortEngines s 3) (fun _ => true) 0x21
  let s := handoverIn (handoverIn s 0) 1
  s.setUpd { s.upd with paused := true, pending := none }

/-- H3 and H4: the record with TRIAL that names the new slot, and the staging window copied to the load region. -/
def pauseSwitch (s : State) (kind : Nat) (i : Img) : State :=
  let slotOf := fun (o : Option Img) => match o with
    | some x => x.slot
    | none => 0
  let sf := if kind = 0 then i.slot else slotOf s.upd.runSf
  let pr := if kind = 0 then slotOf s.upd.runPr else i.slot
  let schema := if kind = 0 then imgSchema i.hdr else s.upd.schema
  let s := recWrite s sf pr 1 schema
  let s := sramWrite s (loadOff kind) (sramRead s stageOff (codeLen i.hdr))
  s.setUpd { s.upd with
    trial := true
    staged := tput none s.upd.staged kind none
    runSf := if kind = 0 then some i else s.upd.runSf
    runPr := if kind = 0 then s.upd.runPr else some i
    schema := schema }

/-- ENTRY of an image as an address. -/
def entryAddr (kind : Nat) (i : Img) : DWord := BitVec.ofNat 64 (0x10000000 + loadOff kind + leAt i.hdr 0x14 4)

/-- H5 for secure firmware: both cores at its ENTRY; the open custody request and the latch go (R453, 10 R252). -/
def startSf (s : State) (i : Img) : State :=
  let s := custCancelAll s 4 0xA
  (List.range 2).foldl (fun s c => onCore s c fun x => { x with pc := entryAddr 0 i }) s

/-- H5 for the partition runtime: every loaded partition is restarted, which destroys its enclaves (R453, 07 R196); the
runtime is the world that the handover returns to. -/
def startPr (s : State) (i : Img) : State :=
  let restart := fun (s : State) (n : Nat) => let v := pctxOf s n; pctxPut (partDown s n) n v
  let s := ((List.range 16).filter (pctxValid s)).foldl restart s
  (List.range 2).foldl (fun s c => onCore s c fun x =>
    { x with wsave := { pc := entryAddr 1 i, level := .hyp, async := true } }) s

/-- The pause of an activation (R452, R453); without a staged image there is nothing to start. -/
def activationRun (s : State) (kind : Nat) : State := match stagedOf s kind with
  | none => s
  | some i =>
    let s := pauseSwitch (pauseStart s) kind i
    if kind = 0 then startSf s i else startPr s i

/-- ANNOUNCE_WINDOW_START (R87, R62): once START's edge has come and the admitted trip descriptors have completed, the window
is in force; an activation's pause runs. -/
def execAnnounceWindowStart (s : State) : Host.Outcome State Fault Refusal :=
  let c := s.mode.annCause
  if mainUp s && windowDue s && c ≠ 4 && s.hif.trips.isEmpty then
    let s := logMode (s.setMode { s.mode with annIn := true })
    .next (if c = 1 then s else activationRun s (c - 2))
  else .next s

/-- H6 on core c: the core returns to the normal world where it stopped, or where the runtime starts. -/
def handoverOut (s : State) (c : Nat) : State :=
  onCore s c fun x => if x.level = .mon && x.wsave.async then asyncReturn x else x

/-- IMAGE_READY (R452 H6): firmware-class service and the partitions resume. -/
def execImageReady (s : State) : Host.Outcome State Fault Refusal :=
  if mainUp s && s.upd.paused then
    .next (handoverOut (handoverOut (s.setUpd { s.upd with paused := false }) 0) 1)
  else .next s

/-- ACTIVATION_CONFIRM (R454, R455): the record with CONFIRM, then the raise that was asked for. -/
def execActivationConfirm (s : State) : Host.Outcome State Fault Refusal :=
  match s.upd.confirmAt, s.upd.runSf, s.upd.runPr with
  | some t, some f, some p =>
    if mainUp s && s.upd.trial && tickReached t s.glb.tick then
      let s := recWrite s f.slot p.slot 2 s.upd.schema
      let r := s.upd.actRaise
      let s := s.setUpd { s.upd with trial := false, confirmAt := none, actRaise := false }
      .next (if r then rbcRaise s else s)
    else .next s
  | _, _, _ => .next s

/-! ### DIM (03 M6, M7, R80; 04 R107) -/

/-- DIM_ENTRY_CANCEL (R80): the 16 tick edges of M6 have passed. A doorbell and an announcement cancel as they are seen. -/
def execDimEntryCancel (s : State) : Host.Outcome State Fault Refusal :=
  if mainUp s && s.mode.dimPend = some 0 then .next (dimCancel s) else .next s

/-- WAKE (MODE_CTL.WAKE, M7). -/
def execWake (s : State) : Host.Outcome State Fault Refusal :=
  if mainUp s then .next (wakeTrigger s 7) else .next s

/-- A tick edge at least 40 µs, 1000 counts, after the wake trigger (R107), or any once a loss of lock took SERVICE-HOLD (05 R134). -/
def wakeDue (s : State) : Bool := match s.mode.wake with
  | some t => s.mode.mode = .dim && s.glb.sub = 0 && (s.mode.hold || 1000 ≤ countsBetween s t (now s))
  | none => false

/-- Engines that failed their known-answer test of a wake: gated, ALARM_N, a diagnostics event each, SERVICE-HOLD (R107). -/
def enginesFail (s : State) (l : List Nat) : State :=
  if l.isEmpty then s
  else
    let s := s.setMode { s.mode with gatedEng := s.mode.gatedEng ++ l, hold := s.mode.hold || s.mode.mode = .service || s.mode.mode = .dim }
    l.foldl (fun s e => logOther s .eng (leBytes 8 e)) (alarmSet s .wake)

/-- The engines of the root gate: lanes 0 to 5, PKE0 and PKE1, the fast path (R106). -/
def engNumbers : List Nat := [0, 1, 2, 3, 4, 5, 6, 7, 8]

/-- DIM_WAKE_COMPLETE (M7, R107; 13 R326): clocks back, self-tests, SERVICE or SERVICE-HOLD. -/
def execDimWakeComplete (fail : List Nat) (s : State) : Host.Outcome State Fault Refusal :=
  if mainUp s && wakeDue s then
    let s := onClk s fun c => { c with rootGated := false }
    let s := enginesFail s (engNumbers.filter fail.contains)
    .next (admitCarried (toMode (s.setMode { s.mode with wake := none }) .service s.mode.wakeCause))
  else .next s

/-! ### The debug switch (03 R73, R78) -/

/-- An accepted activation whose window has not started is cancelled (19 R460). -/
def activationDrop (s : State) : State :=
  s.setUpd { s.upd with pending := none, actTick := 0, actRaise := false }

/-- The steps of R73 in order; the pool and the DRBG go with the engine key registers (13 R327), the custody request and the
latch too (10 R252). -/
def debugRun (s : State) (lv : Dbg) : State :=
  let s := abortCommands (abortEngines s 3) usesEngine 0x21
  let s := onRng s rngZero
  let s := custCancelAll (activationDrop (debugOpen s lv)) 4 0xA
  let s := logMode (s.setMode { s.mode with annIn := true })
  toMode s .debug 8

/-- DEBUG_SWITCH (R73, R78): at the edge of tick V + 5, once the admitted trip descriptors have completed; never while
debug counts as disabled (R71). -/
def execDebugSwitch (s : State) : Host.Outcome State Fault Refusal :=
  match s.mode.dbgPend with
  | some lv =>
    if mainUp s && windowDue s && s.mode.annCause = 4 && s.mode.mode = .service && s.hif.trips.isEmpty && !s.fus.dbgdis then
      .next (debugRun s lv)
    else .next s
  | none => .next s

end Sys2Proof.Machine
end

