-- ==== Sys2Proof/Machine/RegRead.lean ====
section
/-! DEFINITION. The registers as they read: every block of 01 R21, the doorbell pages and PF BAR0 (14 R335 to R337, R357),
the recorder entries (18 R431, R437). A read by the secure world without side effects (18 R434). -/
namespace Sys2Proof.Machine

/-- A word built of fields: value and lowest bit of each. -/
def packW (l : List (Nat × Nat)) : Word := wordOf (l.foldl (fun a p => a + p.1 * 2 ^ p.2) 0)

/-! ### GLB_, MODE_, CLK_ (01, 02, 03, 04, 05, 18) -/

/-- A budget register. -/
def budOut (b : Bud) : Word := packW [(b.admin, 16), (b.bulk, 8), (b.protect, 0)]

/-- Ceiling register k. -/
def capOut (l : List Nat) (k : Nat) : Word :=
  packW [(l.getD (4 * k + 3) 0, 24), (l.getD (4 * k + 2) 0, 16), (l.getD (4 * k + 1) 0, 8), (l.getD (4 * k) 0, 0)]

/-- GLB_BCN_STAT. -/
def bcnStat (g : Glb) : Word :=
  packW [(g.stray, 16), (b2n g.budErr, 8), (g.miss % 16, 4), (b2n g.fircTb, 3), (lockCode g.lock, 0)]

/-- GLB_CAP (R38). -/
def glbCap : Word := 0x000B224F

/-- GLB_. -/
def rdGlb (s : State) (o : Nat) : Word :=
  let g := s.glb
  match o with
  | 0x000 => 0x74805A71
  | 0x004 => wordOf stepping
  | 0x008 => glbCap
  | 0x100 => packW [(b2n g.run, 0)]
  | 0x104 => packW [(g.maxwait, 16), (g.period, 4), (b2n g.pol, 3), (g.src, 1)]
  | 0x108 => bcnStat g
  | 0x10C => g.tick
  | 0x110 => wordOf g.subLatch
  | 0x114 => BitVec.ofInt 32 g.phaseErr
  | 0x120 => packW [(g.overrun, 24), (g.carriedStat, 8), (g.tokens, 0)]
  | 0x130 => capOut g.caps 0
  | 0x134 => capOut g.caps 1
  | 0x138 => capOut g.caps 2
  | 0x13C => capOut g.caps 3
  | 0x140 => budOut (g.bud.getD 0 {})
  | 0x144 => budOut (g.bud.getD 1 {})
  | 0x148 => budOut (g.bud.getD 2 {})
  | 0x150 => wordOf g.tripLat
  | 0x200 => packW [(g.arbSeq, 16), (min 127 g.queue.length, 0)]
  | 0x204 => wordOf g.arbDrop
  | _ => 0

/-- MODE_STAT (03). -/
def modeStat (s : State) : Word :=
  let m := s.mode
  packW [(b2n m.port, 11), (b2n m.rootlock, 10), (b2n (rootInForce s = 0), 9), (b2n m.hold, 8), (dbgCode m.dbg, 6),
    (lcCode s.fus.lc, 4), (modeCode m.mode, 0)]

/-- MODE_SUPPLY (04). -/
def modeSupply (s : State) : Word :=
  let m := s.mode
  packW [(m.vddioB.toNat, 10), (m.vddioA.toNat, 8), (b2n (vppPresent s), 5), (b2n m.vbatOk, 4), (b2n m.vsnuffOk, 3)]

/-- MODE_. -/
def rdMode (s : State) (o : Nat) : Word :=
  let m := s.mode
  match o with
  | 0x000 => modeStat s
  | 0x010 => packW [(b2n m.dimEn, 0)]
  | 0x020 => wordOf (modeCauseW m)
  | 0x024 => m.causeTick
  | 0x030 => wordOf (modeAnnW m)
  | 0x034 => m.annStart
  | 0x044 => packW [(m.nrstHold, 16), (m.devrst, 0)]
  | 0x050 => packW [(b2n m.wdtLock, 16), (m.wdtTimeout, 0)]
  | 0x060 => modeSupply s
  | 0x070 => wordOf m.kindleTime
  | 0x074 => packW [(m.kindleFail, 8), (m.kindleStep, 0)]
  | _ => 0

/-- A PLL register. -/
def pllOut (p : PllCfg) : Word := packW [(p.prediv, 16), (p.odiv, 8), (p.ndiv, 0)]
/-- A divider register. -/
def divOut (d : DivCfg) : Word := packW [(d.spi, 12), (d.can, 8), (d.fab, 4), (d.eng, 0)]

/-- CLK_STAT. -/
def clkStat (c : Clk) : Word :=
  packW [(b2n c.lolB, 9), (b2n c.lolA, 8), (b2n (relockBusy c), 7), (b2n c.selB, 6), (b2n c.selA, 5), (b2n c.lockB, 4),
    (b2n c.lockA, 3), (b2n c.xbFb, 2), (b2n c.xaLost, 1), (b2n c.xaFb, 0)]

/-- CLK_HOLD_CTL. -/
def holdCtl (c : Clk) : Word := packW [(b2n c.degrade, 1), (b2n c.retryEn, 0)]

/-- CLK_. -/
def rdClk (s : State) (o : Nat) : Word :=
  let c := s.clk
  match o with
  | 0x000 => clkStat c
  | 0x010 => packW [(c.xbSettle, 16), (c.xaSettle, 0)]
  | 0x014 => packW [(c.xbCount, 16), (c.xaCount, 0)]
  | 0x020 => pllOut c.pllA
  | 0x028 => pllOut c.pllB
  | 0x02C => divOut c.div
  | 0x030 => pllOut c.pllAAct
  | 0x038 => pllOut c.pllBAct
  | 0x03C => divOut c.divAct
  | 0x044 => c.relockTick
  | 0x050 => holdCtl c
  | 0x060 => c.gate.setWidth 32
  | 0x070 => wordOf c.trimSrc
  | 0x074 => packW [(c.trimUsed, 24), (twos 16 c.trimErr, 8), (c.trimCode, 0)]
  | _ => 0

/-! ### FUS_, CFG_ (06) -/

/-- The word is one of DUR's. -/
def isDur (w : Nat) : Bool := match fuseAt w with
  | (.key, a, _) => 16 ≤ a && a < 24
  | _ => false

/-- FUS_RD_DATA: the resolved value; DUR reads 0. -/
def fusData (s : State) : Word :=
  let w := s.fus.rdAddr
  match fuseAt w with
  | (.sec, a, _) => secForce s.fus a
  | (.key, a, _) => if isDur w then 0 else keyForce s.fus a
  | (.cfg, _, _) => (fuseCell s w).nom
  | (.none, _, _) => 0

/-- FUS_STAT. -/
def fusStat (f : Fus) : Word :=
  packW [(f.passes, 8), (b2n f.pgm.isSome, 7), (b2n f.pgmFail, 6), (b2n f.rereadRun, 5), (b2n f.keyDrift, 4),
    (b2n f.vote, 3), (b2n f.secMarg, 2), (b2n f.tightened, 1), (b2n f.marginal, 0)]

/-- FUS_. -/
def rdFus (s : State) (o : Nat) : Word :=
  let f := s.fus
  match o with
  | 0x000 => fusStat f
  | 0x010 => wordOf f.rdAddr
  | 0x014 => fusData s
  | 0x018 => if isDur f.rdAddr then 0 else margBits (fuseCell s f.rdAddr)
  | 0x020 => packW [(twos 8 f.temp, 8), (twos 8 f.band, 0)]
  | 0x030 => wordOf f.pgmAddr
  | 0x034 => f.pgmData
  | _ => 0

/-- CFG_. -/
def rdCfg (s : State) (o : Nat) : Word :=
  let c := s.cfg
  match o with
  | 0x000 => packW [(c.fail, 8), (b2n c.range, 3), (b2n c.pinned, 2), (b2n c.copy, 1), (b2n c.valid, 0)]
  | 0x004 => c.seq
  | 0x010 => wordOf c.srcSel
  | 0x014 => wordOf (tget 0 c.src c.srcSel)
  | _ => 0

/-! ### MPU_, FWL_ (08) -/

/-- A region register: RBASE, RLIMIT, RATTR. -/
def regionWord (r : Region) (k : Nat) : Word :=
  if k = 0 then r.base else if k = 1 then r.limit else if k = 2 then r.attr else 0

/-- MPU_: the MPU of initiator k at 0x200 × k. -/
def rdMpu (s : State) (o : Nat) : Word :=
  let u := getMpu s (o / 0x200)
  let p := o % 0x200
  if p = 0 then packW [(b2n u.en, 0)]
  else if p = 4 then wordOf u.faults
  else if p = 8 then u.fsyn
  else if p = 12 then u.faddr
  else if 0x100 ≤ p then regionWord (tget {} u.regions ((p - 0x100) / 16)) (p % 16 / 4)
  else 0

/-- The rule that a read of target t shows: what is being edited while its HOLD bit is 1, else the rule in force. -/
def ruleShown (s : State) (t r : Nat) : FwRule :=
  fwRule (if s.fwl.hold.getLsbD t then s.fwl.edit else s.fwl.rules) t r

/-- FWL_. -/
def rdFwl (s : State) (o : Nat) : Word :=
  if o < 0x680 then
    let w := ruleShown s (o / 0x40) (o % 0x40 / 8)
    if o % 8 = 0 then w.range else w.key
  else if o = 0x800 then s.fwl.hold.setWidth 32
  else if o = 0x810 then s.fwl.fsyn
  else if o = 0x814 then s.fwl.faddr
  else if o = 0x818 then wordOf s.fwl.faults
  else 0

/-! ### VLT_, CUS_ (09, 10) -/

/-- VLT_OWN_SLOTS of the selected owner. -/
def ownSlots (s : State) : Word :=
  let n := s.vlt.ownSel
  packW [(quotaOf s n, 22), (countState s n (· = 1), 12), (countState s n fun st => st = 2 || st = 3, 2),
    (b2n (spareHeld s n), 1), (b2n (ownerExists s n), 0)]

/-- SN of an association's current key as VLT_SEASON shows it. -/
def shownSn (s : State) (a : Nat) : Nat := match roleSlot s a 0 with
  | some p => p.2.sn
  | none => 0

/-- VLT_. -/
def rdVlt (s : State) (o : Nat) : Word :=
  let v := s.vlt
  -- slots 0 to 2 hold records and are never FREE, nor is a quarantined slot (log 89)
  let used := 3 + (usedSlots s).length + v.quar.length
  match o with
  | 0x000 => packW [(min 255 v.quar.length, 16), (rootInForce s, 10), (b2n v.vrOk, 9), (b2n v.schedLost, 8), (b2n v.zfail, 7)]
  | 0x004 => packW [(1024 - used, 16), (used, 0)]
  | 0x010 => wordOf v.ownSel
  | 0x014 => ownSlots s
  | 0x018 => if v.ownSel = 0 then 0 else v.epochs.getD v.ownSel 0
  | 0x01C => packW [(pinnedOf s v.ownSel, 16), (v.pincap.getD v.ownSel 0, 0)]
  | 0x020 => packW [(pinnedAll s, 16), (v.cache.length, 0)]
  | 0x024 => wordOf v.evict
  | 0x030 => wordOf v.seasonSel
  | 0x034 => packW [(shownSn s v.seasonSel, 16), (seasonPhase s v.seasonSel, 10)]
  | 0x038 => match seasonOf s v.seasonSel with
    | some x => x.x
    | none => 0
  | 0x03C => match seasonOf s v.seasonSel with
    | some x => wordOf x.ovlen
    | none => 0
  | _ => 0

/-- A byte of bits, one per custodian slot. -/
def slotBits (f : Nat → Bool) : Nat := (List.range 8).foldl (fun a n => a + b2n (f n) * 2 ^ n) 0

/-- CUS_STAT. -/
def cusStat (s : State) : Word :=
  packW [(slotBits fun n => cusRevokedBits s n ≠ 0, 24), (slotBits fun n => cusEnrolledBits s n = 0xFF, 16),
    (slotBits (slotUsable s), 8), (b2n s.cus.candLock, 3), (b2n s.cus.latch.isSet, 2), (b2n (2 ≤ s.cus.run), 1),
    (b2n s.cus.reqOpen, 0)]

/-- Word k of a byte string. -/
def wordAt (b : Bytes) (k : Nat) : Word := wordOf (leAt b (4 * k) 4)

/-- CUS_. -/
def rdCus (s : State) (o : Nat) : Word :=
  let c := s.cus
  if o = 0 then cusStat s
  else if 0x010 ≤ o && o < 0x080 then wordAt c.req ((o - 0x010) / 4)
  else if o = 0x080 then wordOf c.win
  else if o = 0x088 then packW [(b2n c.which, 4), (c.result, 0)]
  else if o = 0x08C then packW [(c.latch.slotB, 20), (c.latch.slotA, 16), (c.latch.op, 8), (b2n c.latch.isSet, 0)]
  else if o = 0x090 then c.latch.reqNo
  else if 0x100 ≤ o && o < 0x200 then
    wordAt (tget (List.replicate 32 0) c.cand ((o - 0x100) / 0x20)) ((o - 0x100) % 0x20 / 4)
  else if 0x200 ≤ o && o < 0x220 then wordAt c.candCfgk ((o - 0x200) / 4)
  else if o = 0x220 then c.candMask.setWidth 32
  else 0

/-! ### CANx_ (11) -/

/-- Word at offset p of a frame entry. -/
def frameWord (f : CanFrame) (t : Stamp) (p : Nat) : Word :=
  if p = 0 then wordOf (f.id % 2 ^ 29)
  else if p = 4 then packW [(b2n f.esi, 5), (b2n f.brs, 4), (f.dlc % 16, 0)]
  else if p = 8 then t.tick
  else if p = 12 then wordOf t.count
  else wordAt f.data ((p - 16) / 4)

/-- A byte of bits, one per transmit buffer. -/
def txBits (c : CanCh) (f : TxBuf → Bool) : Nat := (List.range 8).foldl (fun a n => a + b2n (f (getTx c n)) * 2 ^ n) 0

/-- CANx_STAT. -/
def canStat (c : CanCh) : Word :=
  packW [(min 255 c.tec, 24), (min 255 c.recv, 16), (b2n c.conflict, 8), (b2n c.alone, 7), (b2n c.borRun, 6), (c.state, 4),
    (b2n c.rxovf, 3), (b2n c.parked, 2), (b2n c.synced, 1)]

/-- CANx_. -/
def rdCan (c : CanCh) (o : Nat) : Word :=
  if o = 0 then wordOf c.mode
  else if o = 4 then packW [(b2n c.borAuto, 8), (c.retry, 0)]
  else if o = 8 then c.nbt
  else if o = 0xC then c.dbt
  else if o = 0x10 then canStat c
  else if o = 0x14 then packW [(c.disc, 16), (c.rxlost, 0)]
  else if o = 0x28 then wordOf (txBits c (·.pend))
  else if o = 0x2C then wordOf (txBits c (·.done))
  else if o = 0x30 then packW [(txBits c (·.noAck), 8), (txBits c (·.aborted), 0)]
  else if o = 0x40 then wordOf c.fifo.length
  else if 0x60 ≤ o && o < 0xA0 then (if o % 8 = 0 then tget 0 c.fltId ((o - 0x60) / 8) else tget 0 c.fltMask ((o - 0x60) / 8))
  else if 0x100 ≤ o && o < 0x380 then
    let x := getTx c ((o - 0x100) / 0x50)
    frameWord x.frame x.stamp ((o - 0x100) % 0x50)
  else if 0x400 ≤ o && o < 0x450 then
    match c.fifo with
    | x :: _ => frameWord x.frame x.stamp (o - 0x400)
    | [] => 0
  else 0

/-! ### ENG_, PKE_, RNG_ (12, 13) -/

/-- Word k of the head result record. -/
def headRes (l : List (List Word)) (k : Nat) : Word := (l.headD []).getD k 0

/-- ENG_STAT. -/
def engStat (s : State) : Word :=
  let bits := fun (n : Nat) (f : Nat → Bool) => (List.range n).foldl (fun a k => a + b2n (f k) * 2 ^ k) 0
  packW [(bits 6 (unitBusy s), 24), (bits 6 fun e => 16 ≤ (getLane s e).length, 16),
    (bits 6 fun e => tget 0 s.eng.busy e ≠ 0, 0)]

/-- ENG_. -/
def rdEng (s : State) (o : Nat) : Word :=
  if o = 0 then engStat s
  else if 0x40 ≤ o && o < 0x60 then tget 0 s.eng.post ((o - 0x40) / 4)
  else if 0x80 ≤ o && o < 0x90 then headRes s.eng.res ((o - 0x80) / 4)
  else if o = 0x94 then wordOf (min 16 s.eng.res.length)
  else if o = 0xA0 then wordOf s.eng.fpCnt
  else if o = 0xA4 then wordOf s.eng.fpSq
  else 0

/-- Number of 1 bits of PKE's allocation. -/
def popSlots (a : BitVec 48) : Nat := ((List.range 48).filter a.getLsbD).length

/-- Registers of one PKE instance. -/
def rdPkeInst (i : PkeInst) (o : Nat) : Word :=
  if o = 0 then packW [(i.resident.length, 16), (48 - popSlots i.alloc, 8), (b2n i.inf, 2), (b2n i.cv, 1), (b2n i.busy, 0)]
  else if o = 4 then wordOf (i.alloc.toNat % 2 ^ 32)
  else if o = 8 then wordOf (i.alloc.toNat / 2 ^ 32)
  else 0

/-- PKE_. -/
def rdPke (s : State) (o : Nat) : Word :=
  if o < 0x100 then rdPkeInst (getPke s 0) o
  else if o < 0x200 then rdPkeInst (getPke s 1) (o - 0x100)
  else if o < 0x220 then tget 0 s.pke.post ((o - 0x200) / 4)
  else if 0x240 ≤ o && o < 0x250 then headRes s.pke.res ((o - 0x240) / 4)
  else if o = 0x254 then wordOf (min 16 s.pke.res.length)
  else if o = 0x300 then packW [(b2n s.pke.dummyFixed, 8), (s.pke.density, 0)]
  else 0

/-- RNG_STAT. -/
def rngStat (r : Rng) : Word :=
  packW [(min 4095 (rngRemain r), 20), (min 1024 (8 * r.pool.length), 9), (r.cause, 5), (b2n r.failed, 4), (b2n (dueWaits r), 3),
    (b2n r.restart, 2), (b2n (rngReady r), 1), (b2n r.run, 0)]

/-- The next 32 captured samples, earliest in bit 0; 0 with fewer. -/
def rawWord (l : List Bool) : Word :=
  if l.length < 32 then 0 else wordOf ((l.take 32).foldr (fun b a => b2n b + 2 * a) 0)

/-- RNG_. -/
def rdRng (s : State) (o : Nat) : Word :=
  let r := s.rng
  match o with
  | 0x000 => rngStat r
  | 0x004 => packW [(r.tickLog, 8), (r.reseedLog, 0)]
  | 0x008 => wordOf r.reseedCnt
  | 0x00C => wordOf r.reseeds
  | 0x010 => packW [(740, 21), (1024, 10), (33, 0)]
  | 0x014 => packW [(min 0xFFFF r.htApt, 16), (min 0xFFFF r.htRct, 0)]
  | 0x020 => packW [(b2n r.cap, 0)]
  | 0x024 => rawWord r.capData
  | _ => 0

/-! ### HIF_, FLT_ (14) -/

/-- Vendor ID and Device ID of a function (R329): 0x5A71 with 0x7480 on the PF and 0x7481 on every VF. -/
def pciId (fn : Nat) : Word := packW [(if fn = 0 then 0x7480 else 0x7481, 16), (0x5A71, 0)]

/-- HIF_STAT. -/
def hifStat (s : State) : Word := packW [(s.hif.badAcc, 16), (enabledRings s, 0)]

/-- HIF_STG_HEAD: the oldest staged descriptor not yet taken. -/
def stgHead (s : State) : Word := match s.hif.stgOrder with
  | (k, slot) :: _ => packW [((getRing s k).ctx, 16), (slot.toNat, 0)]
  | [] => 0xFFFFFFFF

/-- HIF_STG_ADDR: the place of the slot modulo 16 in the context's staging area (R338; log 54). -/
def stgAddr (s : State) : Word := match s.hif.stgOrder with
  | (k, slot) :: _ => wordOf (0x101F0000 + 0x400 * (getRing s k).ctx + 64 * (slot.toNat % 16))
  | [] => 0

/-- A mailbox word: inbound at 0, outbound at 0x40. -/
def mbxWord (x : Fn) (p : Nat) : Word :=
  if p < 0x40 then tget 0 x.mbxIn (p / 4) else tget 0 x.mbxOut ((p - 0x40) / 4)

/-- HIF_RING_ALLOC k. -/
def allocOut (s : State) (k : Nat) : Word :=
  packW ((List.range 8).map fun j => (s.hif.alloc.getD (8 * k + j) 0, 4 * j))

/-- HIF_LINK. -/
def hifLink (s : State) : Word := packW [(b2n s.hif.extTag, 8), (s.hif.width, 4), (s.hif.speed, 0)]

/-- HIF_. -/
def rdHif (s : State) (o : Nat) : Word :=
  if o = 0 then hifStat s
  else if o = 0x10 then stgHead s
  else if o = 0x14 then stgAddr s
  else if 0x40 ≤ o && o < 0x60 then tget 0 s.hif.cplW ((o - 0x40) / 4)
  else if 0x480 ≤ o && o < 0xC00 then mbxWord (getFn s ((o - 0x400) / 0x80)) ((o - 0x400) % 0x80)
  else 0

/-- FLT_. -/
def rdFlt (s : State) (o : Nat) : Word :=
  if o = 0 then packW [(b2n (fltAvail s), 1), (b2n s.flt.en, 0)]
  else if o = 4 then s.flt.seed
  else if o = 8 then wordOf s.flt.hits
  else if 0x10 ≤ o && o < 0x50 then tget 0 s.flt.rules ((o - 0x10) / 4)
  else if 0x50 ≤ o && o < 0x60 then tget 0 s.flt.can ((o - 0x50) / 4)
  else 0

/-! ### SPI0_, SPI1_ (16) -/

/-- SPI0_STAT. -/
def spi0Stat (p : Spi0) : Word := packW [(p.err, 4), (b2n p.done, 1), (b2n p.cur.isSome, 0)]

/-- SPI0_. -/
def rdSpi0 (s : State) (o : Nat) : Word :=
  let p := s.spi0
  match o with
  | 0x000 => p.cfg
  | 0x010 => packW [(p.cmdSel, 8), (p.cmdOp, 0)]
  | 0x014 => p.addr
  | 0x018 => p.len
  | 0x01C => p.sram
  | 0x024 => spi0Stat p
  | 0x02C => packW [(p.eraseMs, 16), (p.progUs, 0)]
  | 0x040 => packW [(b2n p.db.isOpen, 29), (min 15 p.db.lost, 16), (dbObjects s, 0)]
  | 0x044 => wordOf p.db.erased.length
  | 0x048 => p.db.seq
  | _ => 0

/-- SPI1 is active: a word waits and may shift (R389). -/
def spi1Active (p : Spi1) : Bool := !p.tx.isEmpty && spi1Open p && !p.stopped

/-- SPI1_RXINFO: the head of the receive FIFO. -/
def spi1Info (p : Spi1) : Word := match p.rx with
  | (_, part, n) :: _ => packW [(b2n part, 8), (n, 0)]
  | [] => 0

/-- SPI1_. -/
def rdSpi1 (s : State) (o : Nat) : Word :=
  let p := s.spi1
  match o with
  | 0x000 => packW [(b2n p.csmonEn, 19), (p.csmon, 16), (p.sckdiv, 8), (p.wlen, 3), (b2n p.lsbf, 2), (p.mode, 0)]
  | 0x014 => match p.rx with
    | (w, _, _) :: _ => w
    | [] => 0
  | 0x018 => spi1Info p
  | 0x020 => packW [(p.rx.length, 16), (p.tx.length, 8), (b2n p.rxovf, 1), (b2n (spi1Active p), 0)]
  | 0x030 => p.gpioOut.setWidth 32
  | 0x034 => p.dir.setWidth 32
  | 0x038 => ((spi1Drive p &&& p.dir) ||| (Config.gpioPins s.glb.tick s.glb.sub &&& ~~~ p.dir)).setWidth 32
  | 0x03C => p.idle.setWidth 32
  | _ => 0

/-! ### TMP_, SNF_, EVR_, UPD_ (17, 18, 19) -/

/-- TMP_. -/
def rdTmp (s : State) (o : Nat) : Word :=
  let t := s.tmp
  match o with
  | 0x000 => packW [((~~~ s.fus.tmpdis).toNat, 16), (t.active.toNat, 0)]
  | 0x004 => t.sticky.setWidth 32
  | 0x008 => t.hold.setWidth 32
  | 0x010 => t.resp.setWidth 32
  | 0x020 => t.mesh
  | 0x024 => t.sw
  | 0x028 => t.light
  | 0x030 => packW ((List.range 4).map fun k => (t.meshErr.getD k 0, 8 * k))
  | 0x040 => t.bsec
  | 0x044 => wordOf t.nrst
  | 0x048 => (Config.vbatMeasured t.bsec).setWidth 32
  | _ => 0

/-- The present VSNUFF in 10 mV (SNF_VNOW): as measured, at least 3.0 V exactly while VSNUFF_OK reads 1 (04 R93). -/
def vsnuffNow (s : State) : Nat :=
  let v := Config.vsnuffMeasured s.tmp.bsec s.tmp.bfrac
  if s.mode.vsnuffOk then 300 + v % 724 else v % 300

/-- SNF_. -/
def rdSnf (s : State) (o : Nat) : Word :=
  let x := s.snf
  match o with
  | 0x000 => wordOf (snfStat x)
  | 0x004 => wordOf x.time
  | 0x008 => x.when_
  | 0x00C => wordOf x.count
  | 0x010 => packW [(x.before, 16), (x.after, 0)]
  | 0x014 => wordOf (vsnuffNow s)
  | _ => 0

/-- The 64 bytes of an entry (R431). The host bytes of a mark fill bytes 0x18 to 0x27. -/
def entryBytes (e : Entry) : Bytes :=
  let tail := if e.arg.length ≤ 8 then slice e.arg 0 8 ++ e.snap.flatMap fun w => leBytes 4 w.toNat else e.arg
  leBytes 4 e.seq.toNat ++ leBytes 2 e.pcyc ++ leBytes 2 e.arbSeq ++ [e.flags] ++ leBytes 1 e.src ++ leBytes 2 e.code
    ++ leBytes 1 e.who ++ leBytes 1 e.nsnap ++ [0, 0] ++ leBytes 4 e.tick.toNat ++ leBytes 2 e.count ++ [0, 0]
    ++ slice tail 0 40

/-- The bytes of a recorder place; an entry never written reads 0 (R431). -/
def placeBytes (e : Option Entry) : Bytes := match e with
  | some x => entryBytes x
  | none => []

/-- The entry that EVR_SEL selects. -/
def evrSelected (e : Evr) : Option Entry :=
  if e.selChan then tget none e.diag e.selIdx else if e.selIdx < 128 then tget none e.sec e.selIdx else none

/-- EVR_. -/
def rdEvr (s : State) (o : Nat) : Word :=
  let e := s.evr
  if o = 0 then packW [(b2n (96 ≤ e.circ), 1), (b2n (32 ≤ e.pinned), 0)]
  else if o = 4 then e.sseq
  else if o = 8 then e.dseq
  else if o = 0xC then wordOf e.pcyc
  else if o = 0x10 then e.irq.setWidth 32
  else if o = 0x20 then packW [(b2n e.selChan, 16), (e.selIdx, 0)]
  else if 0x40 ≤ o && o < 0x80 then wordAt (placeBytes (evrSelected e)) ((o - 0x40) / 4)
  else 0

/-- UPD_STAT. -/
def updStat (s : State) : Word :=
  let u := s.upd
  packW [(rbcNow s, 16), (u.fail, 8), (b2n u.rbcPend, 7), (b2n u.reverted, 5), (b2n u.trial, 4),
    (b2n u.pending.isSome, 3), (b2n ((stagedOf s 0).isNone && (stagedOf s 1).isSome), 2),
    (b2n ((stagedOf s 0).isSome || (stagedOf s 1).isSome), 1), (b2n u.staging.isSome, 0)]

/-- VERSION of a running image. -/
def runVersion (i : Option Img) : Word := match i with
  | some x => imgVersion x.hdr
  | none => 0

/-- UPD_. -/
def rdUpd (s : State) (o : Nat) : Word :=
  match o with
  | 0x000 => updStat s
  | 0x010 => runVersion s.upd.runSf
  | 0x014 => runVersion s.upd.runPr
  | 0x018 => s.upd.actTick
  | _ => 0

/-! ### The internal map -/

/-- Register o of block b, by its position in R21. -/
def rdBlock (s : State) (b o : Nat) : Word :=
  match b with
  | 0 => rdGlb s o
  | 1 => rdMode s o
  | 2 => rdClk s o
  | 3 => rdFus s o
  | 4 => rdCfg s o
  | 5 => rdMpu s o
  | 6 => rdFwl s o
  | 7 => rdVlt s o
  | 8 => rdCus s o
  | 9 => rdCan s.can0 o
  | 10 => rdCan s.can1 o
  | 11 => rdEng s o
  | 12 => rdPke s o
  | 13 => rdRng s o
  | 14 => rdHif s o
  | 15 => rdSpi0 s o
  | 16 => rdSpi1 s o
  | 17 => rdTmp s o
  | 18 => rdSnf s o
  | 19 => rdEvr s o
  | 20 => rdUpd s o
  | 21 => rdFlt s o
  | _ => 0

/-- The register at an address, read by the secure world without side effects (18 R434): a gated block reads 0. -/
def regPeek (s : State) (a : Nat) : Word :=
  let b := (a - 0x40000000) / 4096
  if a < 0x40000000 || 22 ≤ b || !gateOk s b then 0 else rdBlock s b (a % 4096 / 4 * 4)

/-- What a read of the register at an address does beside giving its value: the latch of GLB_TICK (R46), the pops of SPI1_RX
and RNG_RAW_DATA. -/
def regReadEffect (s : State) (a : Nat) : State :=
  let b := (a - 0x40000000) / 4096
  if !gateOk s b then s
  else if a = 0x4000010C then s.setGlb { s.glb with subLatch := s.glb.sub }
  else if a = 0x40010014 then s.setSpi1 { s.spi1 with rx := s.spi1.rx.drop 1 }
  else if a = 0x4000D024 && 32 ≤ s.rng.capData.length then onRng s fun r => { r with capData := r.capData.drop 32 }
  else s

/-! ### What the host reads (14 R335 to R337, R357; 18 R437) -/

/-- Mirrors of PF BAR0: BAR0 offset and internal address. -/
def bar0Mirror : List (Nat × Nat) :=
  [(0x00, 0x40000000), (0x04, 0x40000004), (0x08, 0x40000008), (0x10, 0x40001000), (0x14, 0x40001020), (0x18, 0x40001024),
   (0x20, 0x40001030), (0x24, 0x40001034), (0x30, 0x4000010C), (0x34, 0x40000110), (0x38, 0x40000108), (0x3C, 0x40000120),
   (0x40, 0x40000150), (0x50, 0x40002050), (0x54, 0x40002000), (0x60, 0x4000D000), (0x70, 0x40001044), (0x74, 0x40001074),
   (0x78, 0x40001070)]

/-- The entry that slot k of the readout window shows: the diagnostics entry of that slot last written (R437). -/
def windowEntry (s : State) (k : Nat) : Option Entry :=
  let c := (List.range 8).filterMap fun m => tget none s.evr.diag (128 * m + k)
  c.foldl (fun a x => match a with
    | none => some x
    | some y => if tickFuture x.seq y.seq then some x else some y) none

/-- PF BAR0 as an aligned 32-bit read finds it. -/
def bar0Read (s : State) (o : Nat) : Word :=
  match bar0Mirror.find? fun p => p.1 = o with
  | some p => regPeek s p.2
  | none =>
    if o = 0x100 then allocOut s 0
    else if o = 0x104 then allocOut s 1
    else if o = 0x110 then hifLink s
    else if o = 0x120 then hifStat s
    else if 0x400 ≤ o && o < 0x500 then regPeek s (0x40015000 + (o - 0x400))
    else if 0x2000 ≤ o && o < 0x4000 && gateOk s 19 then
      wordAt (placeBytes (windowEntry s ((o - 0x2000) / 64))) (o % 64 / 4)
    else 0

/-- RING_CFG. -/
def ringCfgW (g : Ring) : Word := packW [(g.irq, 16), (g.vec, 8), (g.cls, 4), (g.log2, 0)]

/-- Low or high word of a 64-bit register. -/
def halfOf (v : DWord) (hi : Bool) : Word := wordOf (if hi then v.toNat / 2 ^ 32 else v.toNat)

/-- A ring's configuration block (R342). -/
def ringBlock (g : Ring) (p : Nat) : Word :=
  match p with
  | 0x00 => halfOf g.sqBase false
  | 0x04 => halfOf g.sqBase true
  | 0x08 => halfOf g.cqBase false
  | 0x0C => halfOf g.cqBase true
  | 0x10 => halfOf g.hrec false
  | 0x14 => halfOf g.hrec true
  | 0x18 => ringCfgW g
  | 0x1C => packW [(b2n g.en, 0)]
  | 0x20 => packW [(g.lost, 16), (g.state, 8), (g.err, 0)]
  | _ => 0

/-- A word of the MSI-X table at reset: each vector masked (log 55). -/
def msixD (k : Nat) : Word := if k % 4 = 3 then 1 else 0

/-- The doorbell page of a function as an aligned 32-bit read finds it (R336): a dormant VF's reads 0 but for MSI-X (R337). -/
def pageRead (s : State) (f o : Nat) : Word :=
  let x := getFn s f
  if 0x800 ≤ o && o < 0xC00 then tget (msixD ((o - 0x800) / 4)) x.msix ((o - 0x800) / 4)
  else if o = 0xC00 then wordOf (x.pba.toNat % 2 ^ 32)
  else if o = 0xC04 then wordOf (x.pba.toNat / 2 ^ 32)
  else if !pageLive s f then 0
  else if 0x100 ≤ o && o < 0x300 then ringBlock (getRing s (ringKey f ((o - 0x100) / 0x40))) (o % 0x40)
  else if 0x300 ≤ o && o < 0x380 then (if f = 0 then 0 else mbxWord x (o - 0x300))
  else if o = 0x380 then (if f = 0 then 0 else packW [(b2n x.reply, 1)])
  else if 0x400 ≤ o && o < 0x440 then
    let v := tget 0 x.ctr ((o - 0x400) / 8)
    wordOf (if o % 8 = 0 then v else v / 2 ^ 32)
  else 0

end Sys2Proof.Machine
end

