-- ==== Sys2Proof/Machine/Recorder.lean ====
section
/-! DEFINITION. The event arbiter: acceptance, snapshots, and where an event goes (18 R425 to R434; 01 R37; 14 R351). -/
namespace Sys2Proof.Machine

/-- The snapshot registers of an event (R433): a record with its exact CODE before one with CODE 0xFFFF; none for a
mark (R432). -/
def snapRegs (s : State) (e : Event) : List Nat :=
  let l := s.cfg.snap.filter fun r => r.src = e.src && e.src ≠ Blk.hostMark.src
  match l.find? fun r => r.code = e.code with
  | some r => r.regs
  | none => match l.find? fun r => r.code = 0xFFFF with
    | some r => r.regs
    | none => []

/-- The snapshot words, sampled together (R434). -/
def snapWords (s : State) (e : Event) : List Word := (snapRegs s e).map (regPeek s)

/-- Vector vec of function fn is masked in its MSI-X table (log 55). -/
def vecMasked (x : Fn) (vec : Nat) : Bool := bit (tget (msixD (4 * vec + 3)) x.msix (4 * vec + 3)) 0

/-- An MSI-X message leaves, or its pending bit is set while the function cannot send it (log 55). -/
def sendMsix (s : State) (fn vec : Nat) : State :=
  let x := getFn s fn
  if x.msixEn && !x.d3 && !vecMasked x vec then emitOut s (.msix fn vec)
  else setFn s fn { x with pba := x.pba ||| BitVec.ofNat 64 (2 ^ vec) }

/-- The event at the head of the queue put where it goes: one acceptance, one stamp for both channels (R425). -/
def routeEvent (s : State) (e : Event) : State :=
  match e.kind with
  | .entry sec diag =>
    let x := entryOf e s.glb.arbSeq s.glb.tick s.glb.sub (snapWords s e)
    let s := if sec then writeSec s false x else s
    if diag then writeDiag s x else s
  | .irq fn vec => sendMsix s fn vec
  | .alarm _ => s

/-- A held report finds a place (R426). -/
def heldFits (q : List Event) (e : Event) : Bool :=
  if e.isSec then (q.filter Event.isSec).length < 16 else (q.filter fun x => !x.isSec).length < 48

/-- The held reports that fit, oldest first. -/
def refillQueue (s : State) : State :=
  s.glb.heldRep.foldl (fun s e =>
    if heldFits s.glb.queue e then s.setGlb { s.glb with queue := s.glb.queue ++ [e] }
    else s.setGlb { s.glb with heldRep := s.glb.heldRep ++ [e] }) (s.setGlb { s.glb with heldRep := [] })

/-- EVENT_ACCEPT (R425, R426): one event accepted. -/
def execEventAccept (s : State) : Host.Outcome State Fault Refusal :=
  match s.glb.queue with
  | [] => .next s
  | e :: t =>
    if !mainUp s then .next s
    else
      let s := routeEvent (s.setGlb { s.glb with queue := t }) e
      .next (refillQueue (s.setGlb { s.glb with arbSeq := (s.glb.arbSeq + 1) % 65536 }))

end Sys2Proof.Machine
end

