-- ==== Sys2Proof/Machine/RegWrite.lean ====
section
/-! DEFINITION. A register write by its access code and change class (00 R13 to R16; 06 R157 to R160): every block of 01 R21,
the doorbell pages and PF BAR0. A write to a command's register runs that command. -/
namespace Sys2Proof.Machine

/-- A write takes effect, or is refused with the SRC of 08 R210: 0xA for its change class, 0xB for its lock. -/
inductive WrRes where
  | ok (s : State)
  | bad (src : Nat)
deriving DecidableEq, Repr

/-- A write with this condition on its block stopped (R14). -/
def halted (stopped : Bool) (s : State) : WrRes := if stopped then .ok s else .bad 0xA

/-- A write with this condition on its lock open (R13). -/
def unlocked (isOpen : Bool) (s : State) : WrRes := if isOpen then .ok s else .bad 0xB

/-- The state that a command's row answers. -/
def after (o : Host.Outcome State Fault Refusal) (s : State) : State := match o with
  | .next t => t
  | _ => s

/-- The word with the bits written as 1 cleared (W1C), within a mask. -/
def w1c (old v m : Word) : Word := old &&& ~~~ (v &&& m)

/-! ### GLB_, MODE_, CLK_ -/

/-- GLB_BCN_CFG: the HALT fields only while the beacon does not run; MAXWAIT by R158. A write that leaves the HALT fields as
they are is accepted (log 51). -/
def wrBcnCfg (s : State) (v : Word) : WrRes :=
  let g := s.glb
  let same := fld v 4 5 = g.period && bit v 3 = g.pol && fld v 1 2 = g.src
  if g.run then
    (if same then .ok (s.setGlb { g with maxwaitSh := fld v 16 4 }) else .bad 0xA)
  else .ok (s.setGlb { g with
    maxwaitSh := fld v 16 4, maxwait := max 1 (fld v 16 4), period := fld v 4 5, pol := bit v 3, src := fld v 1 2 })

/-- The shadows of a group written before RUN take effect at once (06 R158; log 52). -/
def shadowNow (s : State) : State :=
  if s.glb.run then s
  else
    let s := s.setGlb { s.glb with caps := s.glb.capsSh.map (min 24) }
    if budOk s.glb.budSh then s.setGlb { s.glb with bud := s.glb.budSh } else s

/-- The COMMIT register. -/
def wrCommit (s : State) (v : Word) : State :=
  let s := if bit v 0 then after (execBudgetCommit s) s else s
  if bit v 1 then after (execTripcapCommit s) s else s

/-- Ceiling register k written to the shadow. -/
def wrCap (s : State) (k : Nat) (v : Word) : State :=
  let c := capWord v
  shadowNow (s.setGlb { s.glb with capsSh := s.glb.capsSh.take (4 * k) ++ c ++ s.glb.capsSh.drop (4 * k + 4) })

/-- GLB_. -/
def wrGlb (s : State) (o : Nat) (v : Word) : WrRes :=
  match o with
  | 0x100 =>
    if s.glb.run then halted (bit v 0) s
    else if !bit v 0 then .ok s
    else if inKindle s && bcnCfgOk s.glb then .ok (bcnStart s) else .bad 0xA
  | 0x104 => wrBcnCfg s v
  | 0x108 => .ok (s.setGlb { s.glb with budErr := s.glb.budErr && !bit v 8 })
  | 0x130 => .ok (wrCap s 0 v)
  | 0x134 => .ok (wrCap s 1 v)
  | 0x138 => .ok (wrCap s 2 v)
  | 0x13C => .ok (wrCap s 3 v)
  | 0x140 => .ok (shadowNow (s.setGlb { s.glb with budSh := s.glb.budSh.set 0 (budWord v) }))
  | 0x144 => .ok (shadowNow (s.setGlb { s.glb with budSh := s.glb.budSh.set 1 (budWord v) }))
  | 0x148 => .ok (shadowNow (s.setGlb { s.glb with budSh := s.glb.budSh.set 2 (budWord v) }))
  | 0x14C => .ok (wrCommit s v)
  | 0x150 => .ok (s.setGlb { s.glb with tripLat := 0 })
  | 0x204 => .ok (s.setGlb { s.glb with arbDrop := 0 })
  | _ => .ok s

/-- MODE_WDT_CFG (04, Registers): TIMEOUT locks with LOCK; 0 is applied as 1. -/
def wrWdt (s : State) (v : Word) : WrRes :=
  unlocked (!s.mode.wdtLock) (s.setMode { s.mode with
    wdtTimeout := max 1 (fld v 0 16), wdtLock := s.mode.wdtLock || bit v 16 })

/-- MODE_. -/
def wrMode (s : State) (o : Nat) (v : Word) : WrRes :=
  match o with
  | 0x010 =>
    let s := s.setMode { s.mode with dimEn := bit v 0 }
    .ok (if bit v 1 then wakeTrigger s 7 else s)
  | 0x040 => .ok (rstCtlWrite s v)
  | 0x050 => wrWdt s v
  | 0x054 => .ok (after (execModeWdtKick v s) s)
  | _ => .ok s

/-- Enable bits of CLK_GATE that a write may change (05 R131). -/
def gateRw : BitVec 22 := 0x39BF10

/-- A gateable block runs (05 R132; log 56). -/
def blockRuns (s : State) (b : Nat) : Bool := match b with
  | 8 => s.cus.reqOpen || s.cus.run ≠ 0
  | 9 => s.can0.mode ≠ 0
  | 10 => s.can1.mode ≠ 0
  | 11 => s.mode.mode = .service || !s.eng.units.isEmpty || (List.range 6).any fun e => !(getLane s e).isEmpty
  | 12 => s.cus.run ≠ 0 || (List.range 2).any fun p => !(getPke s p).resident.isEmpty || !(getPke s p).waiting.isEmpty
  | 13 => s.rng.run
  | 15 => s.spi0.cur.isSome
  | 16 => spi1Active s.spi1
  | 20 => s.upd.staging.isSome || s.upd.paused
  | 21 => s.flt.en
  | _ => false

/-- CLK_GATE (05 R131, R132): setting is accepted; clearing the bit of a block that runs is refused. -/
def wrGate (s : State) (v : Word) : WrRes :=
  let new := (s.clk.gate &&& ~~~ gateRw) ||| (BitVec.ofNat 22 v.toNat &&& gateRw)
  let bad := (List.range 22).any fun b => s.clk.gate.getLsbD b && !new.getLsbD b && blockRuns s b
  halted (!bad) (onClk s fun c => { c with gate := new })

/-- CLK_RELOCK (05 R123): both bits together, and a request that R123 or R86 refuses, get a bus error. -/
def wrRelock (s : State) (v : Word) : WrRes :=
  let p : Pll := if bit v 0 then .a else .b
  if bit v 0 && bit v 1 then .bad 0xA
  else if !bit v 0 && !bit v 1 then .ok s
  else if s.glb.run && relockOk s p s.clk.relockTick then .ok (relockAccept s p s.clk.relockTick) else .bad 0xA

/-- CLK_HOLD_CTL. -/
def wrHoldCtl (s : State) (v : Word) : State := onClk s fun c => { c with degrade := bit v 1, retryEn := bit v 0 }

/-- CLK_TRIM_CFG (BEACON). -/
def wrTrim (s : State) (v : Word) : State :=
  let n := fld v 0 3
  onClk s fun c => { c with trimSh := n, trimSrc := if s.glb.run then c.trimSrc else if 5 ≤ n then 0 else n }

/-- CLK_. -/
def wrClk (s : State) (o : Nat) (v : Word) : WrRes :=
  match o with
  | 0x000 => .ok (onClk s fun c => { c with lolA := c.lolA && !bit v 8, lolB := c.lolB && !bit v 9 })
  | 0x020 => .ok (onClk s fun c => { c with pllA := pllOf v })
  | 0x028 => .ok (onClk s fun c => { c with pllB := pllOf v })
  | 0x02C => .ok (onClk s fun c => { c with div := divOf v })
  | 0x040 => wrRelock s v
  | 0x044 => .ok (onClk s fun c => { c with relockTick := v })
  | 0x050 => .ok (wrHoldCtl s v)
  | 0x060 => wrGate s v
  | 0x070 => .ok (wrTrim s v)
  | _ => .ok s

/-! ### FUS_, CFG_, MPU_, FWL_ -/

/-- The authority under which firmware programs by register (06 R145): the latch while it stands; none for the words that
a PF ADMIN command programs with no token. -/
def pgmAuthNow (s : State) : PgmAuth :=
  let a := s.fus.pgmAddr
  let early := s.fus.lc = .blank || s.fus.lc = .provisioned
  if s.cus.latch.isSet && !(early && (a = 3 || (384 ≤ a && a < 448))) then .latch (BitVec.ofNat 8 s.cus.latch.op) else .none

/-- FUS_. -/
def wrFus (s : State) (o : Nat) (v : Word) : WrRes :=
  match o with
  | 0x000 => .ok (onFus s fun f => { f with
      pgmFail := f.pgmFail && !bit v 6, keyDrift := f.keyDrift && !bit v 4, vote := f.vote && !bit v 3
      secMarg := f.secMarg && !bit v 2, tightened := f.tightened && !bit v 1, marginal := f.marginal && !bit v 0 })
  | 0x010 => .ok (onFus s fun f => { f with rdAddr := fld v 0 9 })
  | 0x024 => .ok (if bit v 0 then after (execFusRereadNow s) s else s)
  | 0x030 => halted s.fus.pgm.isNone (onFus s fun f => { f with pgmAddr := fld v 0 9 })
  | 0x034 => halted s.fus.pgm.isNone (onFus s fun f => { f with pgmData := v })
  | 0x038 => .ok (after (execFusePgmGo v (pgmAuthNow s) s) s)
  | _ => .ok s

/-- CFG_. -/
def wrCfg (s : State) (o : Nat) (v : Word) : WrRes :=
  match o with
  | 0x000 => .ok (s.setCfg { s.cfg with range := s.cfg.range && !bit v 3 })
  | 0x010 => .ok (s.setCfg { s.cfg with srcSel := fld v 0 16 })
  | _ => .ok s

/-- A latched syndrome after a W1C write: clearing VALID clears the syndrome too (08, MPU_FSYN). -/
def synClear (w v : Word) : Word := if bit v 0 then w &&& (if bit v 1 then 0 else 2) else w1c w v 2

/-- A region register written. -/
def regionPut (r : Region) (k : Nat) (v : Word) : Region := match k with
  | 0 => { r with base := v &&& 0xFFFFFFC0 }
  | 1 => { r with limit := v &&& 0xFFFFFFC0 }
  | 2 => { r with attr := v &&& 0x1FFF }
  | _ => r

/-- MPU_ (08 R212): region registers are HALT while EN = 1. -/
def wrMpu (s : State) (o : Nat) (v : Word) : WrRes :=
  let k := o / 0x200
  let p := o % 0x200
  let u := getMpu s k
  if p = 0 then .ok (setMpuUnit s k { u with en := bit v 0 })
  else if p = 4 then .ok (setMpuUnit s k { u with faults := 0 })
  else if p = 8 then .ok (setMpuUnit s k { u with fsyn := synClear u.fsyn v })
  else if 0x100 ≤ p && p % 16 ≠ 12 then
    let r := (p - 0x100) / 16
    halted (!u.en) (setMpuUnit s k { u with
      regions := tput {} u.regions r (regionPut (tget {} u.regions r) (p % 16 / 4) v) })
  else .ok s

/-- The rules of a target copied from one table to another. -/
def rulesCopy (src dst : Tab FwRule) (t : Nat) : Tab FwRule :=
  (List.range 8).foldl (fun d r =>
    let k := 8 * t + r
    tput (fwRuleD k) d k (tget (fwRuleD k) src k)) dst

/-- FWL_HOLD (R213): a bit that is set opens its target's rules for editing; a bit that is cleared applies the written rules
together. Bits 9 and 10 ignore writes. -/
def holdWrite (s : State) (v : Word) : State :=
  let new : BitVec 26 := BitVec.ofNat 26 v.toNat &&& ~~~ 0x600
  let old := s.fwl.hold
  (List.range 26).foldl (fun s t =>
    if new.getLsbD t && !old.getLsbD t then s.setFwl { s.fwl with edit := rulesCopy s.fwl.rules s.fwl.edit t }
    else if !new.getLsbD t && old.getLsbD t then s.setFwl { s.fwl with rules := rulesCopy s.fwl.edit s.fwl.rules t }
    else s) (s.setFwl { s.fwl with hold := new })

/-- A rule register written while its target's HOLD bit is 1. -/
def wrRule (s : State) (o : Nat) (v : Word) : WrRes :=
  let t := o / 0x40
  let k := 8 * t + o % 0x40 / 8
  let w := tget (fwRuleD k) s.fwl.edit k
  let x : FwRule := if o % 8 = 0 then { w with range := v &&& 0x01FF01FF } else { w with key := v &&& 0x3FFFF }
  if t = 9 || t = 10 then .ok s
  else halted (s.fwl.hold.getLsbD t) (s.setFwl { s.fwl with edit := tput (fwRuleD k) s.fwl.edit k x })

/-- FWL_. -/
def wrFwl (s : State) (o : Nat) (v : Word) : WrRes :=
  if o < 0x680 then wrRule s o v
  else if o = 0x800 then .ok (holdWrite s v)
  else if o = 0x810 then .ok (s.setFwl { s.fwl with fsyn := synClear s.fwl.fsyn v })
  else if o = 0x818 then .ok (s.setFwl { s.fwl with faults := 0 })
  else .ok s

/-! ### VLT_, CUS_, CANx_ -/

/-- VLT_STAT: the ALARM_N cause of a failed zeroization ends when ZFAIL is cleared (log 57). -/
def wrVltStat (s : State) (v : Word) : State :=
  let s := s.setVlt { s.vlt with schedLost := s.vlt.schedLost && !bit v 8 }
  if bit v 7 && s.vlt.zfail then alarmClear (s.setVlt { s.vlt with zfail := false }) .zfail else s

/-- VLT_OWN_PIN of the selected owner (BEACON). -/
def wrPinCap (s : State) (v : Word) : State :=
  let n := fld v 0 9
  let sh := s.vlt.pincapSh.set s.vlt.ownSel n
  s.setVlt { s.vlt with pincapSh := sh, pincap := if s.glb.run then s.vlt.pincap else sh.map (min 448) }

/-- VLT_. -/
def wrVlt (s : State) (o : Nat) (v : Word) : WrRes :=
  match o with
  | 0x000 => .ok (wrVltStat s v)
  | 0x010 => .ok (s.setVlt { s.vlt with ownSel := fld v 0 4 })
  | 0x01C => .ok (wrPinCap s v)
  | 0x024 => .ok (s.setVlt { s.vlt with evict := 0 })
  | 0x030 => .ok (s.setVlt { s.vlt with seasonSel := fld v 0 12 })
  | _ => .ok s

/-- CUS_CTL with its key: COMMIT, then CANCEL, then VERIFY where several are written together (log 58). -/
def wrCusCtl (s : State) (v : Word) : State :=
  let s := if bit v 0 then after (execCustCommit v s) s else s
  let s := if bit v 1 then after (execCustCancel v s) s else s
  if bit v 2 then after (execCustVerify v s) s else s

/-- The bits of word k of CUS_REQ that the record defines (10 R245, R15). -/
def reqMask (k : Nat) : Word := if k = 0 then 0x0000FFFF else if k = 10 || k = 11 then 0 else 0xFFFFFFFF

/-- CUS_ (10, Registers). -/
def wrCus (s : State) (o : Nat) (v : Word) : WrRes :=
  let put := fun (b : Bytes) (k : Nat) => bytesPutWord b k v
  let free := !s.cus.candLock
  if 0x010 ≤ o && o < 0x080 then
    unlocked (!s.cus.reqOpen) (onCus s fun c => { c with
      req := bytesPutWord c.req ((o - 0x010) / 4) (v &&& reqMask ((o - 0x010) / 4)) })
  else if o = 0x080 then .ok (onCus s fun c => { c with win := fld v 0 24 })
  else if o = 0x084 then .ok (wrCusCtl s v)
  else if 0x100 ≤ o && o < 0x200 then
    let n := (o - 0x100) / 0x20
    unlocked free (onCus s fun c => { c with
      cand := tput (List.replicate 32 0) c.cand n (put (tget (List.replicate 32 0) c.cand n) ((o - 0x100) % 0x20 / 4)) })
  else if 0x200 ≤ o && o < 0x220 then unlocked free (onCus s fun c => { c with candCfgk := put c.candCfgk ((o - 0x200) / 4) })
  else if o = 0x220 then unlocked free (onCus s fun c => { c with candMask := BitVec.ofNat 8 v.toNat })
  else .ok s

/-- Word at offset p of a frame entry written (11, "Frame entries"). -/
def frameSet (f : CanFrame) (p : Nat) (v : Word) : CanFrame :=
  if p = 0 then { f with id := fld v 0 29 }
  else if p = 4 then { f with dlc := fld v 0 4, brs := bit v 4 }
  else if 16 ≤ p then { f with data := bytesPutWord (slice f.data 0 64) ((p - 16) / 4) v }
  else f

/-- A transmit buffer's word (HALT while it is pending); its stamp is read-only. -/
def wrTxBuf (s : State) (ch o : Nat) (v : Word) : WrRes :=
  let b := (o - 0x100) / 0x50
  let p := (o - 0x100) % 0x50
  let x := getTx (getCan s ch) b
  if p = 8 || p = 12 then .ok s
  else halted (!x.pend) (onCan s ch fun c => putTx c b { x with frame := frameSet x.frame p v })

/-- CANx_CTL (R268, R273). -/
def wrCanCtl (s : State) (ch : Nat) (v : Word) : WrRes :=
  let m := fld v 0 2
  let c := getCan s ch
  let s' := if m = c.mode && !c.stopReq then s else after (execCanMode ch m s) s
  if c.mode = 0 && m ≠ 0 && !timingOk c.nbt c.dbt then .bad 0xA
  else .ok (if bit v 8 then after (execBorReq ch s') s' else s')

/-- The flags of transmit buffers cleared. -/
def txFlags (c : CanCh) (f : Nat → TxBuf → TxBuf) : CanCh :=
  (List.range 8).foldl (fun c b => putTx c b (f b (getTx c b))) c

/-- CANx_ (11, Registers). -/
def wrCan (s : State) (ch o : Nat) (v : Word) : WrRes :=
  let stop := (getCan s ch).mode = 0
  let on := onCan s ch
  if o = 0 then wrCanCtl s ch v
  else if o = 4 then halted stop (on fun c => { c with borAuto := bit v 8, retry := fld v 0 8 })
  else if o = 8 then halted stop (on fun c => { c with nbt := nbtApply v })
  else if o = 0xC then halted stop (on fun c => { c with dbt := dbtApply v })
  else if o = 0x10 then .ok (on fun c => { c with alone := c.alone && !bit v 7, rxovf := c.rxovf && !bit v 3 })
  else if o = 0x14 then .ok (on fun c => { c with disc := 0, rxlost := 0 })
  else if o = 0x20 then .ok (after (execTxreq ch (BitVec.ofNat 8 v.toNat) s) s)
  else if o = 0x24 then .ok (after (execTxabort ch (BitVec.ofNat 8 v.toNat) s) s)
  else if o = 0x2C then .ok (on fun c => txFlags c fun b x => { x with done := x.done && !bit v b })
  else if o = 0x30 then .ok (on fun c => txFlags c fun b x =>
    { x with noAck := x.noAck && !bit v (8 + b), aborted := x.aborted && !bit v b })
  else if o = 0x44 then .ok (if bit v 0 then after (execRxpop ch s) s else s)
  else if 0x60 ≤ o && o < 0xA0 then
    let n := (o - 0x60) / 8
    halted stop (on fun c =>
      if o % 8 = 0 then { c with fltId := tput 0 c.fltId n (v &&& 0x9FFFFFFF) }
      else { c with fltMask := tput 0 c.fltMask n (v &&& 0x1FFFFFFF) })
  else if 0x100 ≤ o && o < 0x380 then wrTxBuf s ch o v
  else .ok s

/-! ### ENG_, PKE_, RNG_, HIF_, FLT_ -/

/-- The bits of word k of a lane entry that 12 R289 defines (R15). -/
def laneMask (k : Nat) : Word := if k = 0 then 0x00FF7F7F else if k = 6 then 0x11FF else 0xFFFFFFFF

/-- The bits of word k of a PKE entry that 12 R302 defines (R15). -/
def pkeMask (k : Nat) : Word := if k = 0 then 0x00FFFFFF else if k = 3 then 0xFF else if 5 ≤ k then 0 else 0xFFFFFFFF

/-- The bits of word k of a completion that firmware writes and 14 R348 defines (R15). -/
def cplMask (k : Nat) : Word := if k = 2 then 0xFFFF else if k = 7 then 0x0700FFFF else 0xFFFFFFFF

/-- ENG_. -/
def wrEng (s : State) (o : Nat) (v : Word) : WrRes :=
  if 0x40 ≤ o && o < 0x60 then
    .ok (s.setEng { s.eng with post := tput 0 s.eng.post ((o - 0x40) / 4) (v &&& laneMask ((o - 0x40) / 4)) })
  else if o = 0x60 then .ok (engPost s v)
  else if o = 0x90 then .ok (if bit v 0 then engPop s else s)
  else if o = 0xA0 then .ok (s.setEng { s.eng with fpCnt := 0 })
  else if o = 0xA4 then .ok (s.setEng { s.eng with fpSq := 0 })
  else .ok s

/-- PKE_. -/
def wrPke (s : State) (o : Nat) (v : Word) : WrRes :=
  if 0x200 ≤ o && o < 0x220 then
    .ok (s.setPke { s.pke with post := tput 0 s.pke.post ((o - 0x200) / 4) (v &&& pkeMask ((o - 0x200) / 4)) })
  else if o = 0x220 then .ok (pkePost s v)
  else if o = 0x250 then .ok (if bit v 0 then pkePop s else s)
  else if o = 0x300 then .ok (s.setPke { s.pke with dummyFixed := bit v 8, density := min 8 (fld v 0 4) })
  else .ok s

/-- RNG_ (13, Registers): RAW_CTL only in BLANK or with debug OPEN. -/
def wrRng (s : State) (o : Nat) (v : Word) : WrRes :=
  match o with
  | 0x004 => .ok (onRng s fun r => { r with tickLog := fld v 8 3, reseedLog := fld v 0 5 })
  | 0x014 => .ok (onRng s fun r => { r with htApt := 0, htRct := 0 })
  | 0x020 => unlocked (s.fus.lc = .blank || s.mode.dbg = .opened) (after (execRawCapture v s) s)
  | _ => .ok s

/-- HIF_. -/
def wrHif (s : State) (o : Nat) (v : Word) : WrRes :=
  let n := (o - 0x400) / 0x80
  let p := (o - 0x400) % 0x80
  if o = 0 then .ok (s.setHif { s.hif with badAcc := 0 })
  else if o = 0x18 then .ok (if bit v 0 then after (execHifStgTake s) s else s)
  else if 0x40 ≤ o && o < 0x60 then
    .ok (s.setHif { s.hif with cplW := tput 0 s.hif.cplW ((o - 0x40) / 4) (v &&& cplMask ((o - 0x40) / 4)) })
  else if o = 0x60 then .ok (after (execHifCplGo v s) s)
  else if o = 0x100 then .ok (after (execHifMbxDone v s) s)
  else if 0x480 ≤ o && o < 0xC00 && 0x40 ≤ p then
    .ok (setFn s n { getFn s n with mbxOut := tput 0 (getFn s n).mbxOut ((p - 0x40) / 4) v })
  else .ok s

/-- FLT_ (14, Registers): the rules and the seed are stopped while EN = 0. -/
def wrFlt (s : State) (o : Nat) (v : Word) : WrRes :=
  let stop := !s.flt.en
  if o = 0 then .ok (if !bit v 0 then s.setFlt { s.flt with en := false }
    else if s.flt.en then s else after (execFltEn s) s)
  else if o = 4 then halted stop (s.setFlt { s.flt with seed := if v = 0 then 1 else v })
  else if o = 8 then .ok (s.setFlt { s.flt with hits := 0 })
  else if 0x10 ≤ o && o < 0x50 then
    halted stop (s.setFlt { s.flt with rules := tput 0 s.flt.rules ((o - 0x10) / 4) (v &&& 0x8FFF031F) })
  else if 0x50 ≤ o && o < 0x60 then
    halted stop (s.setFlt { s.flt with can := tput 0 s.flt.can ((o - 0x50) / 4) (v &&& 0x8100031F) })
  else .ok s

/-! ### SPI0_, SPI1_, TMP_, EVR_, UPD_ -/

/-- SPI0_. -/
def wrSpi0 (s : State) (o : Nat) (v : Word) : WrRes :=
  let stop := s.spi0.cur.isNone
  match o with
  | 0x000 => halted stop (s.setSpi0 { s.spi0 with cfg := v &&& 0x7FFFFF })
  | 0x010 => halted stop (s.setSpi0 { s.spi0 with cmdSel := fld v 8 3, cmdOp := fld v 0 3 })
  | 0x014 => halted stop (s.setSpi0 { s.spi0 with addr := v })
  | 0x018 => halted stop (s.setSpi0 { s.spi0 with len := v })
  | 0x01C => halted stop (s.setSpi0 { s.spi0 with sram := v })
  | 0x020 => .ok (if bit v 0 then spi0Go s else s)
  | 0x024 => .ok (s.setSpi0 { s.spi0 with done := s.spi0.done && !bit v 1 })
  | 0x028 => .ok (if bit v 0 then spi0Cut s 2 else s)
  | 0x02C => halted stop (s.setSpi0 { s.spi0 with eraseMs := max 1 (fld v 16 16), progUs := max 1 (fld v 0 16) })
  | _ => .ok s

/-- SPI1_. -/
def wrSpi1 (s : State) (o : Nat) (v : Word) : WrRes :=
  let p := s.spi1
  match o with
  | 0x000 =>
    let q := { p with
      csmonEn := bit v 19, csmon := fld v 16 3, sckdiv := fld v 8 8, wlen := fld v 3 5, lsbf := bit v 2, mode := fld v 0 2 }
    halted (!spi1Active p) (s.setSpi1 { q with selected := if spi1Own q then spi1Level q else q.selected })
  | 0x010 => .ok (after (execSpi1Tx v s) s)
  | 0x020 => .ok (s.setSpi1 { p with rxovf := p.rxovf && !bit v 1 })
  | 0x030 => .ok (spi1Watch (s.setSpi1 { p with gpioOut := BitVec.ofNat 8 v.toNat }))
  | 0x034 => .ok (spi1Watch (s.setSpi1 { p with dir := BitVec.ofNat 8 v.toNat }))
  | 0x03C => .ok (spi1Watch (s.setSpi1 { p with idle := BitVec.ofNat 8 v.toNat }))
  | _ => .ok s

/-- TMP_RESP as a write applies it (17 R410): 0b11 as 0b10. -/
def respApply (v : Word) : BitVec 26 :=
  (List.range 13).foldl (fun (a : BitVec 26) k =>
    a ||| BitVec.ofNat 26 (min 2 (fld v (2 * k) 2) * 2 ^ (2 * k))) 0

/-- TMP_ (17, Registers). -/
def wrTmp (s : State) (o : Nat) (v : Word) : WrRes :=
  let free := !s.tmp.lock
  match o with
  | 0x004 => .ok (after (execTmpSticky v s) s)
  | 0x008 => .ok (after (execTmpHold v s) s)
  | 0x010 => unlocked free (s.setTmp { s.tmp with resp := respApply v })
  | 0x014 => .ok (after (execTmpCtlLock v s) s)
  | 0x020 => unlocked free (s.setTmp { s.tmp with mesh := meshApply v })
  | 0x024 => unlocked free (s.setTmp { s.tmp with sw := swApply v })
  | 0x028 => unlocked free (s.setTmp { s.tmp with light := lightApply v })
  | 0x030 => .ok (s.setTmp { s.tmp with meshErr := [0, 0, 0, 0] })
  | _ => .ok s

/-- EVR_. -/
def wrEvr (s : State) (o : Nat) (v : Word) : WrRes :=
  match o with
  | 0x010 => .ok (s.setEvr { s.evr with irq := BitVec.ofNat 2 v.toNat })
  | 0x020 => .ok (s.setEvr { s.evr with selChan := bit v 16, selIdx := fld v 0 10 })
  | _ => .ok s

/-- UPD_. -/
def wrUpd (s : State) (o : Nat) (v : Word) : WrRes :=
  if o = 0 then .ok (s.setUpd { s.upd with reverted := s.upd.reverted && !bit v 5 }) else .ok s

/-- Register o of block b written, its gate open. -/
def wrBlock (s : State) (b o : Nat) (v : Word) : WrRes :=
  match b with
  | 0 => wrGlb s o v
  | 1 => wrMode s o v
  | 2 => wrClk s o v
  | 3 => wrFus s o v
  | 4 => wrCfg s o v
  | 5 => wrMpu s o v
  | 6 => wrFwl s o v
  | 7 => wrVlt s o v
  | 8 => wrCus s o v
  | 9 => wrCan s 0 o v
  | 10 => wrCan s 1 o v
  | 11 => wrEng s o v
  | 12 => wrPke s o v
  | 13 => wrRng s o v
  | 14 => wrHif s o v
  | 15 => wrSpi0 s o v
  | 16 => wrSpi1 s o v
  | 17 => wrTmp s o v
  | 19 => wrEvr s o v
  | 20 => wrUpd s o v
  | 21 => wrFlt s o v
  | _ => .ok s

/-- The register at an address written; a gated Q-group block discards (05 R131). -/
def regWrite (s : State) (a : Nat) (v : Word) : WrRes :=
  let b := (a - 0x40000000) / 4096
  if !gateOk s b then .ok s else wrBlock s b (a % 4096 / 4 * 4) v

/-! ### PF BAR0 and the doorbell pages (14 R335 to R337) -/

/-- A host write that its class refuses: nothing changes, and the event of R13 and R14 is written. -/
def hostWr (s : State) (a : Nat) (r : WrRes) : State := match r with
  | .ok t => t
  | .bad _ => logRefused s a

/-- A host write to FLT_ through PF BAR0: while FLT_ is gated it gets a bus error, as an access of HIF_ (05 R131). -/
def fltHostWrite (s : State) (a : Nat) (v : Word) : State :=
  if gateOk s 21 then hostWr s a (regWrite s a v)
  else refuseAcc s { init := 2, kind := 1, addr := a, size := 4, secure := true, level := 0, owner := 0 } 9 0

/-- A write to PF BAR0. -/
def bar0Write (s : State) (o : Nat) (v : Word) : State :=
  if !pageLive s 0 then s
  else if o = 0x38 then hostWr s 0x40000108 (regWrite s 0x40000108 v)
  else if o = 0x40 then hostWr s 0x40000150 (regWrite s 0x40000150 v)
  else if o = 0x50 then hostWr s 0x40002050 (regWrite s 0x40002050 v)
  else if o = 0x100 then after (execHifRingAlloc 0 v s) s
  else if o = 0x104 then after (execHifRingAlloc 1 v s) s
  else if o = 0x120 then s.setHif { s.hif with badAcc := 0 }
  else if 0x400 ≤ o && o < 0x500 then fltHostWrite s (0x40015000 + (o - 0x400)) v
  else s

/-- A 64-bit register with one half written. -/
def halfPut (w : DWord) (hi : Bool) (v : Word) : DWord :=
  if hi then BitVec.ofNat 64 (w.toNat % 2 ^ 32 + v.toNat * 2 ^ 32) else BitVec.ofNat 64 (w.toNat / 2 ^ 32 * 2 ^ 32 + v.toNat)

/-- A ring's configuration register (R342): HALT while EN = 1. The reserved low bits of the bases stay 0. -/
def ringPut (g : Ring) (p : Nat) (v : Word) : Ring :=
  match p with
  | 0x00 => { g with sqBase := halfPut g.sqBase false (v &&& 0xFFFFF000) }
  | 0x04 => { g with sqBase := halfPut g.sqBase true v }
  | 0x08 => { g with cqBase := halfPut g.cqBase false (v &&& 0xFFFFF000) }
  | 0x0C => { g with cqBase := halfPut g.cqBase true v }
  | 0x10 => { g with hrec := halfPut g.hrec false (v &&& 0xFFFFFFC0) }
  | 0x14 => { g with hrec := halfPut g.hrec true v }
  | 0x18 => { g with irq := fld v 16 2, vec := fld v 8 6, cls := fld v 4 2, log2 := fld v 0 4 }
  | _ => g

/-- RING_CTL: RST, then EN; clearing EN stops the ring as a reset of it does (log 59). -/
def ringCtl (s : State) (fn r : Nat) (v : Word) : State :=
  if bit v 1 then after (execRingReset fn r s) s
  else if bit v 0 then after (execRingEnable fn r s) s
  else if (getRing s (ringKey fn r)).en then ringClear s fn r else s

/-- The configuration block of a ring written. -/
def ringWrite (s : State) (fn r p : Nat) (v : Word) : State :=
  let k := ringKey fn r
  let g := getRing s k
  if p = 0x1C then ringCtl s fn r v
  else if p < 0x1C then (if g.en then logRefused s (0x100 + 0x40 * r + p) else setRing s k (ringPut g p v))
  else s

/-- Pending vectors of a function whose mask has opened are sent (log 55). -/
def pendSend (s : State) (fn : Nat) : State :=
  (bitsOf 64 (getFn s fn).pba.toNat).foldl (fun s vec =>
    let x := getFn s fn
    if vecMasked x vec then s
    else sendMsix (setFn s fn { x with pba := x.pba &&& ~~~ BitVec.ofNat 64 (2 ^ vec) }) fn vec) s

/-- A word of the MSI-X table written. -/
def msixWrite (s : State) (fn k : Nat) (v : Word) : State :=
  let x := getFn s fn
  pendSend (setFn s fn { x with msix := tput (msixD k) x.msix k v }) fn

/-- MBX_CTL (R356): REPLY is W1C, SEND raises the mailbox interrupt. -/
def mbxCtl (s : State) (fn : Nat) (v : Word) : State :=
  let s := if bit v 1 then setFn s fn { getFn s fn with reply := false } else s
  if bit v 0 then after (execMbxSend fn s) s else s

/-- A write to the doorbell page of a function (R336, R337): aligned 32-bit writes only; others are counted in BADACC. -/
def pageWrite (s : State) (fn o : Nat) (v : Word) : State :=
  if !fnThere s fn then s
  else if o % 4 ≠ 0 then s.setHif { s.hif with badAcc := satInc 0xFFFF s.hif.badAcc }
  else if 0x800 ≤ o && o < 0xC00 then msixWrite s fn ((o - 0x800) / 4) v
  else if !pageLive s fn then s
  else if o < 0x080 then
    (if o % 16 = 0 then after (execSqTail fn (o / 16) v s) s
     else if o % 16 = 4 then after (execCqHead fn (o / 16) v s) s else s)
  else if 0x100 ≤ o && o < 0x300 then ringWrite s fn ((o - 0x100) / 0x40) (o % 0x40) v
  else if 0x300 ≤ o && o < 0x340 && fn ≠ 0 then
    setFn s fn { getFn s fn with mbxIn := tput 0 (getFn s fn).mbxIn ((o - 0x300) / 4) v }
  else if o = 0x380 && fn ≠ 0 then mbxCtl s fn v
  else s

end Sys2Proof.Machine
end

