-- ==== Sys2Proof/Machine/Access.lean ====
section
/-! DEFINITION. An access to the internal map carried out: the checks of 08 R208 in their order, its effect on memory and
registers, a refusal's trap or error, stalled accesses (R199 to R213; 07 R161, R162, R175 to R178, R188). -/
namespace Sys2Proof.Machine

/-! ### Memory and registers by physical address (01 R20) -/

/-- The byte at a physical address, read without side effects. -/
def bytePeek (s : State) (a : Nat) : Byte := match targetOf a with
  | none => 0
  | some 0 => Config.romByte a
  | some 1 => if 0x10160000 ≤ a then ringWindow s a else tget 0 s.sram (a - 0x10000000)
  | some 2 => tget 0 (getPke s 0).mem (a - 0x20000000)
  | some 3 => tget 0 (getPke s 1).mem (a - 0x20008000)
  | some _ => BitVec.ofNat 8 ((regPeek s a).toNat / 256 ^ (a % 4))

/-- The bytes of an access. -/
def bytesPeek (s : State) (a n : Nat) : Bytes := (List.range n).map fun k => bytePeek s (a + k)

/-- A word as the table walker finds it. -/
def wordPeek (s : State) (a : Nat) : Word := wordOf (leNat (bytesPeek s a 4))

/-- The addresses of the registers that an access reaches. -/
def regsOf (a n : Nat) : List Nat := (List.range ((a % 4 + n + 3) / 4)).map fun k => a / 4 * 4 + 4 * k

/-- What a read of n bytes does beside giving them. -/
def readEffect (s : State) (a n : Nat) : State :=
  if a < 0x40000000 then s else (regsOf a n).foldl regReadEffect s

/-- Registers written in turn; a refused one leaves the whole access without effect (R209). -/
def regsWrite (s : State) (a : Nat) (b : Bytes) : WrRes :=
  (List.range (b.length / 4)).foldl (fun r k => match r with
    | .ok s => regWrite s (a + 4 * k) (wordOf (leAt b (4 * k) 4))
    | e => e) (.ok s)

/-- Bytes stored at a physical address. A register is written by whole aligned words only (log 53); mask ROM discards. -/
def storeBytes (s : State) (a : Nat) (b : Bytes) : WrRes := match targetOf a with
  | none => .ok s
  | some 0 => .ok s
  | some 1 => .ok (sramWrite s (a - 0x10000000) b)
  | some 2 => .ok (setPke s 0 { getPke s 0 with mem := tputN 0 (getPke s 0).mem (a - 0x20000000) b })
  | some 3 => .ok (setPke s 1 { getPke s 1 with mem := tputN 0 (getPke s 1).mem (a - 0x20008000) b })
  | some _ => if a % 4 = 0 && b.length % 4 = 0 then regsWrite s a b else .ok s

/-! ### How an access ends -/

/-- The access fault code of a core (R188, R209): the tag refusal has its own. -/
def faultCode (k : BusKind) (src : Nat) : Nat :=
  if src = 0xC then 0x0D
  else match k with
    | .fetch => 0x03
    | .store => 0x05
    | _ => 0x04

/-- TINFO of an access fault: the syndrome above the address (R209). -/
def faultInfo (a : Acc) (src idx : Nat) : DWord :=
  BitVec.ofNat 64 ((syndrome a src idx).toNat * 2 ^ 32 + a.addr % 2 ^ 32)

/-- What a debug access answers: an error, or its data (R209). -/
def jtagAnswer (s : State) (b : BusReq) (err : Bool) (data : Bytes) : State :=
  if b.init.val = 7 then s.setMode { s.mode with jtagErr := err, jtagData := data } else s

/-- An access refused (R209, R211): counted, latched and logged; on a core the access fault, for the debugger an error and
no data. -/
def denyAcc (s : State) (b : BusReq) (a : Acc) (src idx : Nat) : State :=
  let s := refuseAcc s a src idx
  if b.init.val ≤ 1 then raise s b.init.val (faultCode b.kind src) (faultInfo a src idx) else jtagAnswer s b true []

/-- The value that a core load writes to its register. -/
def loadValue (b : BusReq) (l : Bytes) : DWord :=
  let n := leNat l
  if b.signed && 2 ^ (8 * b.size - 1) ≤ n then BitVec.ofInt 64 ((n : Int) - 2 ^ (8 * b.size)) else BitVec.ofNat 64 n

/-- An access that the checks allow takes effect; check 7 of R208 falls on a register store. -/
def accEffect (s : State) (b : BusReq) (a : Acc) : State := match b.kind with
  | .store => match storeBytes s a.addr (slice b.data 0 b.size) with
    | .ok t => jtagAnswer t b false []
    | .bad src => logRefused (denyAcc s b a src 0) a.addr
  | .load =>
    let l := bytesPeek s a.addr b.size
    let s := readEffect s a.addr b.size
    if b.init.val ≤ 1 then onCore s b.init.val fun x => xPut x b.rd.val (loadValue b l) else jtagAnswer s b false l
  | _ => s

/-- The access is held where it stalls (R205, R213). -/
def stallAcc (s : State) (b : BusReq) (a : Acc) : State :=
  if stallSrc s a = 3 then s.setMpu { s.mpu with stalled := s.mpu.stalled ++ [(b, a)] }
  else s.setFwl { s.fwl with stalled := s.fwl.stalled ++ [(b, a)] }

/-- An access ends as a check says: carried out, refused or stalled. -/
def endAcc (s : State) (b : BusReq) (a : Acc) : Check → State
  | .ok => accEffect s b a
  | .stall => stallAcc s b a
  | .deny src idx => denyAcc s b a src idx

/-- An access checked and carried out, refused or stalled. -/
def resolveAcc (s : State) (b : BusReq) (a : Acc) : State := endAcc s b a (accCheck s a)

/-- ACC of a kind (R210). -/
def kindCode : BusKind → Nat
  | .load => 0 | .store => 1 | .fetch => 2 | .walk => 3

/-- The access of core c at a physical address with the attributes of its level (07 R161, R162). -/
def coreAcc (s : State) (c : Nat) (k : BusKind) (a n : Nat) : Acc :=
  let x := getCore s c
  { init := c, kind := kindCode k, addr := a, size := n, secure := x.level = .mon, level := lvCode x.level,
    owner := if x.level = .sup || x.level = .user then x.part else 0, encl := x.encl }

/-- An access of core c: alignment, translation, then the checks (07 R175, R176, R188; R202). A walk read that stalls holds
the access that needs it. -/
def coreResolve (s : State) (c : Nat) (b : BusReq) : State :=
  let a := b.addr.toNat
  let x := getCore s c
  match b.kind with
  | .walk =>
    if x.level = .mon || x.level = .hyp || a % 4 ≠ 0 || b.size ≠ 4 then s
    else resolveAcc s b { init := c, kind := 3, addr := a, size := 4, secure := false, level := 2, owner := 0 }
  | k =>
    if k = .fetch && a % 2 ≠ 0 then raise s c 0x02 b.addr
    else if k ≠ .fetch && a % b.size ≠ 0 then raise s c 0x06 b.addr
    else match translate wordPeek s c a (kindCode k) with
      | (.ok pa _, s) => resolveAcc s b (coreAcc s c k pa b.size)
      | (.fault code stage2 _, s) => raise s c code b.addr stage2
      | (.refused w src idx, s) => denyAcc s b w src idx
      | (.stalled w, s) => stallAcc s b w

/-- An access held at a firewall goes on: its MPU was passed when it was issued (R212), so the checks at the target are
made again; one whose table walk was held is translated anew. -/
def resumeAcc (s : State) (p : BusReq × Acc) : State :=
  if p.2.kind = 3 && p.1.kind ≠ .walk then coreResolve s p.1.init.val p.1 else endAcc s p.1 p.2 (targetCheck s p.2)

/-- Stalled accesses are checked again after a change of MPU_CTL or FWL_HOLD; those that still stall stay. -/
def releaseStalled (s : State) : State :=
  let f := s.fwl.stalled
  let m := s.mpu.stalled
  let s := s.setFwl { s.fwl with stalled := [] }
  let s := m.foldl (fun s p => resolveAcc s p.1 p.2) (s.setMpu { s.mpu with stalled := [] })
  spi0Retry (f.foldl resumeAcc s)

/-- The EN bits of the MPUs. -/
def mpuEns (s : State) : List Bool := (List.range 8).map fun k => (getMpu s k).en

/-- State t after s: a change of MPU_CTL or FWL_HOLD lets stalled accesses go on. -/
def settleAcc (s t : State) : State :=
  if t.fwl.hold ≠ s.fwl.hold || mpuEns t ≠ mpuEns s then releaseStalled t else t

/-- An access, and after a store to MPU_CTL or FWL_HOLD the accesses that it releases. -/
def runAcc (s : State) (b : BusReq) (a : Acc) : State := settleAcc s (resolveAcc s b a)

/-- An access of core c, with the accesses that it releases. -/
def coreAccess (s : State) (c : Nat) (b : BusReq) : State := settleAcc s (coreResolve s c b)

/-! ### The initiators (R199) -/

/-- The debugger's access (R199, 03 R70). -/
def debugAcc (s : State) (k : BusKind) (a n : Nat) : Acc :=
  { init := 7, kind := kindCode k, addr := a, size := n, secure := s.mode.dbg = .opened,
    level := if s.mode.dbg = .opened then 3 else 2, owner := 0 }

/-- A request that R202 admits: 1 to 64 bytes within one granule (of a core, a size of its instructions). -/
def reqOk (b : BusReq) : Bool :=
  1 ≤ b.size && b.size ≤ 64 && (b.init.val ≤ 1 || b.addr.toNat % 64 + b.size ≤ 64)
    && (2 ≤ b.init.val || b.size = 1 || b.size = 2 || b.size = 4 || b.size = 8)
    && (b.kind ≠ .fetch || b.init.val ≤ 1 && b.addr.toNat % 64 + b.size ≤ 64) && (b.kind ≠ .walk || b.init.val ≤ 1)

/-- The access of a DMA initiator (R199): of SPI0_, CAN0_ and CAN1_ with owner 0; of PKE_ in the normal world for
PKE_RAW. -/
def dmaReq (b : BusReq) : Acc :=
  dmaAcc b.init.val (if 5 ≤ b.init.val then 0 else b.owner.val) (b.kind = .store) (b.init.val ≠ 4 || !b.normal)
    b.addr.toNat b.size

/-- BUS_ACCESS (R199 to R211). -/
def execBusAccess (b : BusReq) (s : State) : Host.Outcome State Fault Refusal :=
  .next (
    if !mainUp s || !reqOk b then s
    else if b.init.val ≤ 1 then instr s b.init.val fun s => coreAccess s b.init.val b
    else if b.init.val = 7 then
      (if debugAttached s then runAcc s b (debugAcc s b.kind b.addr.toNat b.size) else s)
    else runAcc s b (dmaReq b))

/-- A 32-bit store of initiator k at a physical address. -/
def wordStore (k : Fin 8) (a v : Word) : BusReq :=
  { init := k, kind := .store, addr := a.setWidth 64, size := 4, data := leBytes 4 v.toNat, rd := 0, signed := false, owner := 0 }

/-- REGISTER_WRITE (00 R13 to R16; 06 R157 to R160): on the internal bus with the checks of R208, or by the host. -/
def execRegisterWrite (src : RegSrc) (a v : Word) (s : State) : Host.Outcome State Fault Refusal :=
  .next (
    if !mainUp s then s
    else match src with
      | .bar0 => bar0Write s a.toNat v
      | .page fn => pageWrite s fn.val a.toNat v
      | .bus k =>
        if a.toNat % 4 ≠ 0 then s
        else if k.val ≤ 1 then
          instr s k.val fun s => runAcc s (wordStore k a v) (coreAcc s k.val .store a.toNat 4)
        else if k.val = 7 then
          (if debugAttached s then runAcc s (wordStore k a v) (debugAcc s .store a.toNat 4) else s)
        else runAcc s (wordStore k a v) (dmaAcc k.val 0 true true a.toNat 4))

/-! ### MPU and firewall changes (R205, R212, R213) -/

/-- MPU_CTL_EN (R212): a write of MPU_CTL; accesses stalled under the disabled MPU are checked again once it runs. -/
def execMpuCtlEn (k : Nat) (v : Word) (s : State) : Host.Outcome State Fault Refusal :=
  .next (if !mainUp s then s else releaseStalled (setMpuUnit s k { getMpu s k with en := bit v 0 }))

/-- FWL_HOLD (R213). -/
def execFwlHold (v : Word) (s : State) : Host.Outcome State Fault Refusal :=
  .next (if !mainUp s then s else releaseStalled (holdWrite s v))

/-- A lane operation stalled at SRC src's check, of those that f admits (R205, R213). -/
def laneStalled (s : State) (e src : Nat) (f : Acc → Bool) : Option (LaneOp × Acc) :=
  (getLane s e).findSome? fun o => match o.stall with
    | some a => if stallSrc s a = src && f a then some (o, a) else none
    | none => none

/-- A stalled lane operation whose time has passed is refused: it ends with ABORTED (R205, R213, 12 R289). -/
def laneStallEnd (src : Nat) (f : Acc → Bool) (s : State) (e : Nat) : State :=
  match laneStalled s e src f with
  | some (o, a) => setLane (refuseAcc s a src 0) e (laneSwap (· = o) { o with stall := none, bad := true } (getLane s e))
  | none => s

/-- A stalled SPI0_ transfer whose time has passed is refused: its command ends with error 3. -/
def spi0StallEnd (src : Nat) (f : Acc → Bool) (s : State) : State :=
  match s.spi0.stall with
  | some a => if stallSrc s a = src && f a then spi0End (refuseAcc s a src 0) 3 else s
  | none => s

/-- The DMA runs stalled there are refused. -/
def dmaStallEnd (s : State) (src : Nat) (f : Acc → Bool) : State :=
  spi0StallEnd src f ((List.range 6).foldl (laneStallEnd src f) s)

/-- MPU_STALL_TIMEOUT (R205): the oldest access of initiator k that its disabled MPU holds is refused with SRC 0x3; with
none, the DMA runs of k that it holds. -/
def execMpuStallTimeout (k : Nat) (s : State) : Host.Outcome State Fault Refusal :=
  .next (match s.mpu.stalled.find? fun p => p.2.init = k with
    | none => dmaStallEnd s 3 fun a => a.init = k
    | some p =>
      denyAcc (s.setMpu { s.mpu with stalled := s.mpu.stalled.erase p }) p.1 p.2 3 0)

/-- FIREWALL_HOLD_TIMEOUT (R213): the oldest access held at target t is refused with SRC 0x7; with none, the DMA runs that
it holds. -/
def execFirewallHoldTimeout (t : Nat) (s : State) : Host.Outcome State Fault Refusal :=
  .next (match s.fwl.stalled.find? fun p => targetOf p.2.addr = some t with
    | none => dmaStallEnd s 7 fun a => targetOf a.addr = some t
    | some p =>
      denyAcc (s.setFwl { s.fwl with stalled := s.fwl.stalled.erase p }) p.1 p.2 7 0)

end Sys2Proof.Machine
end

