-- ==== Sys2Proof/Machine/CmdAdmin.lean ====
section
/-! DEFINITION. The recorder, diagnostics and mode-control family (15 R382, R383; 18 R438; 03 M6, M10, R80; 05 R123). -/
namespace Sys2Proof.Machine

/-! ### The recorder -/

/-- The entries that a channel holds. -/
def chanEntries (s : State) (diag : Bool) : List Entry := (if diag then s.evr.diag else s.evr.sec).filterMap (·.2)

/-- An entry put in its place by its distance from a SEQ. -/
def entryInsert (q : Word) (x : Entry) : List Entry → List Entry
  | [] => [x]
  | y :: t => if (x.seq - q).toNat < (y.seq - q).toNat then x :: y :: t else y :: entryInsert q x t

/-- The entries held at or after a SEQ, in SEQ order (R438). -/
def entriesFrom (s : State) (diag : Bool) (q : Word) : List Entry :=
  ((chanEntries s diag).filter fun e => (e.seq - q).toNat < 2 ^ 31).foldl (fun l e => entryInsert q e l) []

/-- REC_READ (R382, 18 R438): at most count entries; RESULT gives the SEQ that follows the last one and how many there
are. -/
def recReadCmd (s : State) (_fn : Nat) (d : Bytes) (_io : CmdIo) : Ans :=
  let n := dOpndN d 8 2
  let q := wordOf (dOpndN d 4 4)
  if 1 < dOpnd d 0 || n = 0 || 64 < n then .bad s
  else
    let l := (entriesFrom s (dOpnd d 0 = 1) q).take n
    let next := match l.getLast? with
      | some e => e.seq + 1
      | none => q
    { st := s, out := l.flatMap entryBytes, result := BitVec.ofNat 64 (next.toNat + 2 ^ 32 * l.length) }

/-- REC_MARK (R382, 18 R432): the host's bytes in a diagnostics entry. -/
def recMarkCmd (s : State) (fn : Nat) (d : Bytes) (io : CmdIo) : Ans :=
  if dAuxLen d ≠ 16 then .bad s
  else { st := report s { kind := .entry false true, src := Blk.hostMark.src, code := 1, who := whoFn fn, arg := auxOf d io } }

/-- SELFTEST (R382, 04 R107): an engine that fails is gated, ALARM_N is asserted, SERVICE-HOLD is entered. -/
def selftestCmd (s : State) (_fn : Nat) (d : Bytes) (io : CmdIo) : Ans :=
  let bad := bitsOf 8 (dOpnd d 0 &&& fld io.fail 0 8)
  { st := enginesFail s bad, result := BitVec.ofNat 64 (dOpnd d 0 &&& fld io.fail 0 8) }

/-! ### Modes and clocks -/

/-- DIM (03 M6, R80): the entry waits for its conditions, at most 16 tick edges. -/
def dimCmdRun (s : State) (_fn : Nat) (_d : Bytes) (_io : CmdIo) : Ans :=
  if !s.mode.dimEn || !annFree s || s.mode.mode ≠ .service then .denied s
  else { st := s.setMode { s.mode with dimPend := some (s.mode.dimPend.getD 16) }, wait := some .dim }

/-- RECOVERY (03 M10): the recovery request flag, then the device reset. -/
def recoveryCmd (s : State) (_fn : Nat) (_d : Bytes) (_io : CmdIo) : Ans :=
  if s.mode.mode ≠ .service && s.mode.mode ≠ .debug then .denied s
  else { st := s, after := fun s => cmdReset (s.setMode { s.mode with recovReq := true }) 9 }

/-- The shadow words of PLL_SET, in the order of the PLL TLV. -/
def pllShadows (s : State) (d : Bytes) : State :=
  let w := fun k => wordOf (dOpndN d (4 + 4 * k) 4)
  onClk s fun c => { c with pllA := pllOf (w 0), pllB := pllOf (w 1), div := divOf (w 2), relockTick := wordOf (dOpndN d 16 4) }

/-- PLL_SET (R382, R383, 05 R123, 03 R86): accepted whole, or DENIED with nothing changed. -/
def pllSetCmd (s : State) (_fn : Nat) (d : Bytes) (_io : CmdIo) : Ans :=
  let x := wordOf (dOpndN d 16 4)
  let p : Pll := if dOpnd d 0 = 0 then .a else .b
  let t := pllShadows s d
  if 1 < dOpnd d 0 then .bad s
  else if !leadOk s x then .late s (s.glb.tick + 2)
  else if !relockOk t p x then .denied s
  else { st := relockAccept t p x, result := x.setWidth 64 }

/-- BEACON_SET (R382, 02 R53, 06 R159): the groups named are captured and apply together at the next tick edge. -/
def beaconSetCmd (s : State) (_fn : Nat) (d : Bytes) (io : CmdIo) : Ans :=
  let g := dOpnd d 0
  let b := auxOf d io
  if dAuxLen d ≠ 32 || 7 < g then .bad s
  else
    let bud := (List.range 3).map fun k => budWord (valW b k)
    let caps := (List.range 4).flatMap fun k => capWord (valW b (3 + k))
    let s := if g.testBit 0 then s.setGlb { s.glb with budSh := bud, budCommit := some bud } else s
    let s := if g.testBit 1 then s.setGlb { s.glb with capsSh := caps, capsCommit := some caps } else s
    let s := if g.testBit 2 then s.setGlb { s.glb with maxwaitSh := leAt b 28 4 % 16 } else s
    { st := s, wait := some .beacon }

/-- SW_RESET (04 R94). -/
def swResetCmd (s : State) (_fn : Nat) (_d : Bytes) (_io : CmdIo) : Ans := { st := s, after := fun s => cmdReset s 2 }

/-- REC_READ (15 R382). -/
def execRecRead (fn r : Nat) (io : CmdIo) (s : State) : Host.Outcome State Fault Refusal :=
  .next (serveCmd s fn r 0x90 fun s d => recReadCmd s fn d io)

/-- REC_MARK (15 R382). -/
def execRecMark (fn r : Nat) (io : CmdIo) (s : State) : Host.Outcome State Fault Refusal :=
  .next (serveCmd s fn r 0x91 fun s d => recMarkCmd s fn d io)

/-- SELFTEST (15 R382). -/
def execSelftest (fn r : Nat) (io : CmdIo) (s : State) : Host.Outcome State Fault Refusal :=
  .next (serveCmd s fn r 0x92 fun s d => selftestCmd s fn d io)

/-- DIM (15 R382). -/
def execDimCmd (fn r : Nat) (io : CmdIo) (s : State) : Host.Outcome State Fault Refusal :=
  .next (serveCmd s fn r 0xA0 fun s d => dimCmdRun s fn d io)

/-- RECOVERY (15 R382). -/
def execRecovery (fn r : Nat) (io : CmdIo) (s : State) : Host.Outcome State Fault Refusal :=
  .next (serveCmd s fn r 0xA1 fun s d => recoveryCmd s fn d io)

/-- PLL_SET (15 R382). -/
def execPllSet (fn r : Nat) (io : CmdIo) (s : State) : Host.Outcome State Fault Refusal :=
  .next (serveCmd s fn r 0xA2 fun s d => pllSetCmd s fn d io)

/-- BEACON_SET (15 R382). -/
def execBeaconSet (fn r : Nat) (io : CmdIo) (s : State) : Host.Outcome State Fault Refusal :=
  .next (serveCmd s fn r 0xA3 fun s d => beaconSetCmd s fn d io)

/-- SW_RESET (15 R382). -/
def execSwReset (fn r : Nat) (io : CmdIo) (s : State) : Host.Outcome State Fault Refusal :=
  .next (serveCmd s fn r 0xA4 fun s d => swResetCmd s fn d io)

end Sys2Proof.Machine
end

