-- ==== Sys2Proof/Machine/Dispatch.lean ====
section
/-! DEFINITION. The commands' meanings, one arm each. -/
namespace Sys2Proof.Machine

/-- The effect of a command on everything but the queue. -/
def exec (i : Instr) (s : State) : Host.Outcome State Fault Refusal :=
  match i with
  | .batteryPowerOn => Sys2Proof.Machine.execBatteryPowerOn s
  | .vbatLoss => Sys2Proof.Machine.execVbatLoss s
  | .powerOnReset io => Sys2Proof.Machine.execPowerOnReset io s
  | .mainSupplyLoss => Sys2Proof.Machine.execMainSupplyLoss s
  | .nrstAssert => Sys2Proof.Machine.execNrstAssert s
  | .nrstRelease => Sys2Proof.Machine.execNrstRelease s
  | .watchdogTimeout k => Sys2Proof.Machine.execWatchdogTimeout k s
  | .modeWdtKick v => Sys2Proof.Machine.execModeWdtKick v s
  | .wdtLock => Sys2Proof.Machine.execWdtLock s
  | .swrst v => Sys2Proof.Machine.execSwrst v s
  | .recov v => Sys2Proof.Machine.execRecov v s
  | .endpointReset => Sys2Proof.Machine.execEndpointReset s
  | .kindle e => Sys2Proof.Machine.execKindle e s
  | .vsnuffWaitExpiry => Sys2Proof.Machine.execVsnuffWaitExpiry s
  | .xaFreqCheck n => Sys2Proof.Machine.execXaFreqCheck n s
  | .xbCheck n => Sys2Proof.Machine.execXbCheck n s
  | .xbLost => Sys2Proof.Machine.execXbLost s
  | .kindleEnd => Sys2Proof.Machine.execKindleEnd s
  | .bcnRun v => Sys2Proof.Machine.execBcnRun v s
  | .tickEdge e => Sys2Proof.Machine.execTickEdge e s
  | .tickOverrun fn r d => Sys2Proof.Machine.execTickOverrun fn r d s
  | .syncInEdge half => Sys2Proof.Machine.execSyncInEdge half s
  | .syncHoldover => Sys2Proof.Machine.execSyncHoldover s
  | .glbTickRead => Sys2Proof.Machine.execGlbTickRead s
  | .glbTripLatClear => Sys2Proof.Machine.execGlbTripLatClear s
  | .budgetCommit => Sys2Proof.Machine.execBudgetCommit s
  | .tripcapCommit => Sys2Proof.Machine.execTripcapCommit s
  | .quantumBoundary e => Sys2Proof.Machine.execQuantumBoundary e s
  | .announceWindowStart => Sys2Proof.Machine.execAnnounceWindowStart s
  | .announceWindowEnd => Sys2Proof.Machine.execAnnounceWindowEnd s
  | .sqTail fn r v => Sys2Proof.Machine.execSqTail fn r v s
  | .tripDescArrival fn r d => Sys2Proof.Machine.execTripDescArrival fn r d s
  | .tripMacStart fn r slot msg aux => Sys2Proof.Machine.execTripMacStart fn r slot msg aux s
  | .tripMacEnd u => Sys2Proof.Machine.execTripMacEnd u s
  | .descFetchComplete fn r d => Sys2Proof.Machine.execDescFetchComplete fn r d s
  | .hostReadError fn r slot => Sys2Proof.Machine.execHostReadError fn r slot s
  | .cqHead fn r v => Sys2Proof.Machine.execCqHead fn r v s
  | .ringEnable fn r => Sys2Proof.Machine.execRingEnable fn r s
  | .ringReset fn r => Sys2Proof.Machine.execRingReset fn r s
  | .functionLevelReset fn => Sys2Proof.Machine.execFunctionLevelReset fn s
  | .d3hotEntry fn => Sys2Proof.Machine.execD3hotEntry fn s
  | .d3hotExit fn => Sys2Proof.Machine.execD3hotExit fn s
  | .vfEnable on n ari => Sys2Proof.Machine.execVfEnable on n ari s
  | .hifRingAlloc k v => Sys2Proof.Machine.execHifRingAlloc k v s
  | .hifStgTake => Sys2Proof.Machine.execHifStgTake s
  | .hifCplGo v => Sys2Proof.Machine.execHifCplGo v s
  | .mbxSend n => Sys2Proof.Machine.execMbxSend n s
  | .hifMbxDone v => Sys2Proof.Machine.execHifMbxDone v s
  | .fltEn => Sys2Proof.Machine.execFltEn s
  | .relockGoA => Sys2Proof.Machine.execRelockGoA s
  | .relockGoB => Sys2Proof.Machine.execRelockGoB s
  | .relockStart => Sys2Proof.Machine.execRelockStart s
  | .relockLockShown p => Sys2Proof.Machine.execRelockLockShown p s
  | .relockFail p => Sys2Proof.Machine.execRelockFail p s
  | .rampStep p => Sys2Proof.Machine.execRampStep p s
  | .lossOfLock a b => Sys2Proof.Machine.execLossOfLock a b s
  | .degrade => Sys2Proof.Machine.execDegrade s
  | .xaLost => Sys2Proof.Machine.execXaLost s
  | .rereadInterval => Sys2Proof.Machine.execRereadInterval s
  | .fusRereadNow => Sys2Proof.Machine.execFusRereadNow s
  | .fuseRereadPass => Sys2Proof.Machine.execFuseRereadPass s
  | .fuseWordReread nom low high => Sys2Proof.Machine.execFuseWordReread nom low high s
  | .fusePgmGo v auth => Sys2Proof.Machine.execFusePgmGo v auth s
  | .fusePulseEnd nom low high => Sys2Proof.Machine.execFusePulseEnd nom low high s
  | .wgateCall c => Sys2Proof.Machine.execWgateCall c s
  | .wgateReturn c => Sys2Proof.Machine.execWgateReturn c s
  | .tret c => Sys2Proof.Machine.execTret c s
  | .eenter c rs1 rs2 => Sys2Proof.Machine.execEenter c rs1 rs2 s
  | .eexit c => Sys2Proof.Machine.execEexit c s
  | .crd c rd n => Sys2Proof.Machine.execCrd c rd n s
  | .cwr c n rs1 => Sys2Proof.Machine.execCwr c n rs1 s
  | .tfence c rs1 => Sys2Proof.Machine.execTfence c rs1 s
  | .ecall c => Sys2Proof.Machine.execEcall c s
  | .ebreak c => Sys2Proof.Machine.execEbreak c s
  | .interruptTaken c => Sys2Proof.Machine.execInterruptTaken c s
  | .query c => Sys2Proof.Machine.execQuery c s
  | .partLoad c => Sys2Proof.Machine.execPartLoad c s
  | .partUnload c => Sys2Proof.Machine.execPartUnload c s
  | .enclCreate c => Sys2Proof.Machine.execEnclCreate c s
  | .enclAdd c => Sys2Proof.Machine.execEnclAdd c s
  | .enclSeal c => Sys2Proof.Machine.execEnclSeal c s
  | .enclDestroy c => Sys2Proof.Machine.execEnclDestroy c s
  | .enclReport c => Sys2Proof.Machine.execEnclReport c s
  | .pkeRaw c => Sys2Proof.Machine.execPkeRaw c s
  | .irqRaise c => Sys2Proof.Machine.execIrqRaise c s
  | .mpuCtlEn k v => Sys2Proof.Machine.execMpuCtlEn k v s
  | .mpuStallTimeout k => Sys2Proof.Machine.execMpuStallTimeout k s
  | .fwlHold v => Sys2Proof.Machine.execFwlHold v s
  | .firewallHoldTimeout t => Sys2Proof.Machine.execFirewallHoldTimeout t s
  | .zeroizeReadback n ok => Sys2Proof.Machine.execZeroizeReadback n ok s
  | .seasonWindowOpen a => Sys2Proof.Machine.execSeasonWindowOpen a s
  | .seasonRollover a => Sys2Proof.Machine.execSeasonRollover a s
  | .seasonWindowEnd a => Sys2Proof.Machine.execSeasonWindowEnd a s
  | .generateCommitExpiry n => Sys2Proof.Machine.execGenerateCommitExpiry n s
  | .custCommit v => Sys2Proof.Machine.execCustCommit v s
  | .custCancel v => Sys2Proof.Machine.execCustCancel v s
  | .custVerify v => Sys2Proof.Machine.execCustVerify v s
  | .custodyVerifyEnd => Sys2Proof.Machine.execCustodyVerifyEnd s
  | .requestExpiry => Sys2Proof.Machine.execRequestExpiry s
  | .requestRepeat => Sys2Proof.Machine.execRequestRepeat s
  | .approval => Sys2Proof.Machine.execApproval s
  | .refusal => Sys2Proof.Machine.execRefusal s
  | .credential n => Sys2Proof.Machine.execCredential n s
  | .canMode ch m => Sys2Proof.Machine.execCanMode ch m s
  | .txreq ch m => Sys2Proof.Machine.execTxreq ch m s
  | .txabort ch m => Sys2Proof.Machine.execTxabort ch m s
  | .borReq ch => Sys2Proof.Machine.execBorReq ch s
  | .rxpop ch => Sys2Proof.Machine.execRxpop ch s
  | .frameReceived ch f sof => Sys2Proof.Machine.execFrameReceived ch f sof s
  | .frameTxEnd ch e sof => Sys2Proof.Machine.execFrameTxEnd ch e sof s
  | .busOffRecovery ch => Sys2Proof.Machine.execBusOffRecovery ch s
  | .voethData ch => Sys2Proof.Machine.execVoethData ch s
  | .voethAck ch => Sys2Proof.Machine.execVoethAck ch s
  | .hello ch => Sys2Proof.Machine.execHello ch s
  | .voeRto ch node => Sys2Proof.Machine.execVoeRto ch node s
  | .helloTimer ch => Sys2Proof.Machine.execHelloTimer ch s
  | .align => Sys2Proof.Machine.execAlign s
  | .alignTimer => Sys2Proof.Machine.execAlignTimer s
  | .seasonPropose => Sys2Proof.Machine.execSeasonPropose s
  | .seasonAnswer => Sys2Proof.Machine.execSeasonAnswer s
  | .mirrorSeasonCancel => Sys2Proof.Machine.execMirrorSeasonCancel s
  | .seasonState => Sys2Proof.Machine.execSeasonState s
  | .engPostGo v => Sys2Proof.Machine.execEngPostGo v s
  | .engineOpEnd e => Sys2Proof.Machine.execEngineOpEnd e s
  | .engRespop => Sys2Proof.Machine.execEngRespop s
  | .pkePostGo v => Sys2Proof.Machine.execPkePostGo v s
  | .pkeResident p => Sys2Proof.Machine.execPkeResident p s
  | .pkeOpEnd p => Sys2Proof.Machine.execPkeOpEnd p s
  | .pkeRespop => Sys2Proof.Machine.execPkeRespop s
  | .startupTestPass osc => Sys2Proof.Machine.execStartupTestPass osc s
  | .conditioningBlock osc => Sys2Proof.Machine.execConditioningBlock osc s
  | .healthTestFailure cause => Sys2Proof.Machine.execHealthTestFailure cause s
  | .reseedTickDue => Sys2Proof.Machine.execReseedTickDue s
  | .reseed => Sys2Proof.Machine.execReseed s
  | .rawCapture v => Sys2Proof.Machine.execRawCapture v s
  | .spi0Go => Sys2Proof.Machine.execSpi0Go s
  | .spi0CmdEnd ok => Sys2Proof.Machine.execSpi0CmdEnd ok s
  | .spi0Timeout => Sys2Proof.Machine.execSpi0Timeout s
  | .spi0Abort => Sys2Proof.Machine.execSpi0Abort s
  | .backgroundErase p => Sys2Proof.Machine.execBackgroundErase p s
  | .spi1Tx v => Sys2Proof.Machine.execSpi1Tx v s
  | .spi1WordComplete v => Sys2Proof.Machine.execSpi1WordComplete v s
  | .spi1SelectRelease n v => Sys2Proof.Machine.execSpi1SelectRelease n v s
  | .spi1Rx => Sys2Proof.Machine.execSpi1Rx s
  | .tamperSourceAct k => Sys2Proof.Machine.execTamperSourceAct k s
  | .tmpHold v => Sys2Proof.Machine.execTmpHold v s
  | .tmpSticky v => Sys2Proof.Machine.execTmpSticky v s
  | .tmpCtlLock v => Sys2Proof.Machine.execTmpCtlLock v s
  | .snuffTrigger e => Sys2Proof.Machine.execSnuffTrigger e s
  | .eventAccept => Sys2Proof.Machine.execEventAccept s
  | .imageReady => Sys2Proof.Machine.execImageReady s
  | .activationConfirm => Sys2Proof.Machine.execActivationConfirm s
  | .dimEntryCancel => Sys2Proof.Machine.execDimEntryCancel s
  | .wake => Sys2Proof.Machine.execWake s
  | .dimWakeComplete fail => Sys2Proof.Machine.execDimWakeComplete fail s
  | .debugSwitch => Sys2Proof.Machine.execDebugSwitch s
  | .registerWrite src a v => Sys2Proof.Machine.execRegisterWrite src a v s
  | .aesEcbEncrypt fn r io => Sys2Proof.Machine.execAesEcbEncrypt fn r io s
  | .aesEcbDecrypt fn r io => Sys2Proof.Machine.execAesEcbDecrypt fn r io s
  | .aesCbcEncrypt fn r io => Sys2Proof.Machine.execAesCbcEncrypt fn r io s
  | .aesCbcDecrypt fn r io => Sys2Proof.Machine.execAesCbcDecrypt fn r io s
  | .aesCtrEncrypt fn r io => Sys2Proof.Machine.execAesCtrEncrypt fn r io s
  | .aesCtrDecrypt fn r io => Sys2Proof.Machine.execAesCtrDecrypt fn r io s
  | .hmacSha256Generate fn r io => Sys2Proof.Machine.execHmacSha256Generate fn r io s
  | .hmacSha256Verify fn r io => Sys2Proof.Machine.execHmacSha256Verify fn r io s
  | .hmacSha384512Generate fn r io => Sys2Proof.Machine.execHmacSha384512Generate fn r io s
  | .hmacSha384512Verify fn r io => Sys2Proof.Machine.execHmacSha384512Verify fn r io s
  | .aesGmacGenerate fn r io => Sys2Proof.Machine.execAesGmacGenerate fn r io s
  | .aesGmacVerify fn r io => Sys2Proof.Machine.execAesGmacVerify fn r io s
  | .aesGcmEncrypt fn r io => Sys2Proof.Machine.execAesGcmEncrypt fn r io s
  | .aesGcmDecrypt fn r io => Sys2Proof.Machine.execAesGcmDecrypt fn r io s
  | .aesCmacGenerate fn r io => Sys2Proof.Machine.execAesCmacGenerate fn r io s
  | .aesCmacVerify fn r io => Sys2Proof.Machine.execAesCmacVerify fn r io s
  | .hashCmd fn r io => Sys2Proof.Machine.execHashCmd fn r io s
  | .ecdsaSign fn r io => Sys2Proof.Machine.execEcdsaSign fn r io s
  | .ecdsaVerify fn r io => Sys2Proof.Machine.execEcdsaVerify fn r io s
  | .ed25519Sign fn r io => Sys2Proof.Machine.execEd25519Sign fn r io s
  | .ed25519Verify fn r io => Sys2Proof.Machine.execEd25519Verify fn r io s
  | .mlDsa65Sign fn r io => Sys2Proof.Machine.execMlDsa65Sign fn r io s
  | .mlDsa65Verify fn r io => Sys2Proof.Machine.execMlDsa65Verify fn r io s
  | .hybridVerify fn r io => Sys2Proof.Machine.execHybridVerify fn r io s
  | .ecdhDerive fn r io => Sys2Proof.Machine.execEcdhDerive fn r io s
  | .rsaSign fn r io => Sys2Proof.Machine.execRsaSign fn r io s
  | .rsaVerify fn r io => Sys2Proof.Machine.execRsaVerify fn r io s
  | .rsaOaepDecrypt fn r io => Sys2Proof.Machine.execRsaOaepDecrypt fn r io s
  | .publicKeyRead fn r io => Sys2Proof.Machine.execPublicKeyRead fn r io s
  | .random fn r io => Sys2Proof.Machine.execRandom fn r io s
  | .keyGenerate fn r io => Sys2Proof.Machine.execKeyGenerate fn r io s
  | .keyImport fn r io => Sys2Proof.Machine.execKeyImport fn r io s
  | .keyDerive fn r io => Sys2Proof.Machine.execKeyDerive fn r io s
  | .keyZeroize fn r io => Sys2Proof.Machine.execKeyZeroize fn r io s
  | .assocSet fn r io => Sys2Proof.Machine.execAssocSet fn r io s
  | .keyCommit fn r io => Sys2Proof.Machine.execKeyCommit fn r io s
  | .keyPin fn r io => Sys2Proof.Machine.execKeyPin fn r io s
  | .keyUnpin fn r io => Sys2Proof.Machine.execKeyUnpin fn r io s
  | .seasonSchedule fn r io => Sys2Proof.Machine.execSeasonSchedule fn r io s
  | .seasonCancel fn r io => Sys2Proof.Machine.execSeasonCancel fn r io s
  | .keyInfo fn r io => Sys2Proof.Machine.execKeyInfo fn r io s
  | .dbImport fn r io => Sys2Proof.Machine.execDbImport fn r io s
  | .dbLoad fn r io => Sys2Proof.Machine.execDbLoad fn r io s
  | .dbDelete fn r io => Sys2Proof.Machine.execDbDelete fn r io s
  | .dbInfo fn r io => Sys2Proof.Machine.execDbInfo fn r io s
  | .custodyRequest fn r io => Sys2Proof.Machine.execCustodyRequest fn r io s
  | .custodyCancel fn r io => Sys2Proof.Machine.execCustodyCancel fn r io s
  | .custodyStatus fn r io => Sys2Proof.Machine.execCustodyStatus fn r io s
  | .ownerCreate fn r io => Sys2Proof.Machine.execOwnerCreate fn r io s
  | .ownerDelete fn r io => Sys2Proof.Machine.execOwnerDelete fn r io s
  | .keyExport fn r io => Sys2Proof.Machine.execKeyExport fn r io s
  | .keyRestore fn r io => Sys2Proof.Machine.execKeyRestore fn r io s
  | .snuff fn r io => Sys2Proof.Machine.execSnuff fn r io s
  | .debugAuth fn r io => Sys2Proof.Machine.execDebugAuth fn r io s
  | .cusEnrol fn r io => Sys2Proof.Machine.execCusEnrol fn r io s
  | .cusRevoke fn r io => Sys2Proof.Machine.execCusRevoke fn r io s
  | .fuseProgram fn r io => Sys2Proof.Machine.execFuseProgram fn r io s
  | .faultEnable fn r io => Sys2Proof.Machine.execFaultEnable fn r io s
  | .recommission fn r io => Sys2Proof.Machine.execRecommission fn r io s
  | .retire fn r io => Sys2Proof.Machine.execRetire fn r io s
  | .commission fn r io => Sys2Proof.Machine.execCommission fn r io s
  | .stageBegin fn r io => Sys2Proof.Machine.execStageBegin fn r io s
  | .stageData fn r io => Sys2Proof.Machine.execStageData fn r io s
  | .stageVerify fn r io => Sys2Proof.Machine.execStageVerify fn r io s
  | .activate fn r io => Sys2Proof.Machine.execActivate fn r io s
  | .activateCancel fn r io => Sys2Proof.Machine.execActivateCancel fn r io s
  | .imageInfo fn r io => Sys2Proof.Machine.execImageInfo fn r io s
  | .configWrite fn r io => Sys2Proof.Machine.execConfigWrite fn r io s
  | .provision fn r io => Sys2Proof.Machine.execProvision fn r io s
  | .tokenChallenge fn r io => Sys2Proof.Machine.execTokenChallenge fn r io s
  | .tokenApply fn r io => Sys2Proof.Machine.execTokenApply fn r io s
  | .factoryFuse fn r io => Sys2Proof.Machine.execFactoryFuse fn r io s
  | .recRead fn r io => Sys2Proof.Machine.execRecRead fn r io s
  | .recMark fn r io => Sys2Proof.Machine.execRecMark fn r io s
  | .selftest fn r io => Sys2Proof.Machine.execSelftest fn r io s
  | .dimCmd fn r io => Sys2Proof.Machine.execDimCmd fn r io s
  | .recovery fn r io => Sys2Proof.Machine.execRecovery fn r io s
  | .pllSet fn r io => Sys2Proof.Machine.execPllSet fn r io s
  | .beaconSet fn r io => Sys2Proof.Machine.execBeaconSet fn r io s
  | .swReset fn r io => Sys2Proof.Machine.execSwReset fn r io s
  | .busIntegration ch => Sys2Proof.Machine.execBusIntegration ch s
  | .receiveError ch n => Sys2Proof.Machine.execReceiveError ch n s
  | .conditionInactive k => Sys2Proof.Machine.execConditionInactive k s
  | .vsnuffOk => Sys2Proof.Machine.execVsnuffOk s
  | .haltRequest c => Sys2Proof.Machine.execHaltRequest c s
  | .debuggerResume c => Sys2Proof.Machine.execDebuggerResume c s
  | .busAccess b => Sys2Proof.Machine.execBusAccess b s
  | .illegalInstruction c => Sys2Proof.Machine.execIllegalInstruction c s
  | .spi1SelectAssert => Sys2Proof.Machine.execSpi1SelectAssert s
  | .linkUp width speed ext => Sys2Proof.Machine.execLinkUp width speed ext s

end Sys2Proof.Machine
end

