-- ==== Sys2Proof/Machine/Tap.lean ====
section
/-! DEFINITION. The JTAG port as IEEE 1149.1 sees it: the instructions of the test access port, its IDCODE and its
boundary-scan chain (21 R475; 03 R70). The table has no row for a scan, so no command reads them (log 116). -/
namespace Sys2Proof.Machine

/-- The instructions of the test access port that R475 names. -/
inductive TapInstr where
  | idcode | bypass | samplePreload | extest
deriving DecidableEq, Repr

/-- IDCODE (R475): version from GLB_STEPPING.MAJOR, part 0x7480, manufacturer field 0x5A7, and a 1 in the last bit. -/
def idcode : Word := wordOf (stepping / 16 % 16 * 2 ^ 28 + 0x7480 * 2 ^ 12 + 0x5A7 * 2 + 1)

/-- SAMPLE/PRELOAD and EXTEST are there only where R70 allows more than IDCODE and BYPASS (R475). -/
def tapAllows (s : State) (i : TapInstr) : Bool := match i with
  | .idcode | .bypass => true
  | .samplePreload | .extest => debugAttached s

/-- The pins of the boundary-scan chain (R472, R475): those of the VDDIO_A and VDDIO_B banks but for the crystal pins and
the port's own. -/
inductive ScanPin where
  | spi0Sck | spi0Io (k : Fin 4) | spi0Sel (k : Fin 3) | spi0SelenN | syncIn | uartTx | testmode
  | spi1Sck | spi1Mosi | spi1Miso | spi1Gpio (k : Fin 8) | can0Tx | can0Rx | can1Tx | can1Rx
deriving DecidableEq, Repr

/-- What the port selects between TDI and TDO. -/
inductive TapPath where
  | id (w : Word)
  | bypassBit
  | chain
deriving DecidableEq, Repr

/-- The register that an instruction selects; one that is not allowed selects BYPASS. DESIGN CHOICE (log 116): IEEE 1149.1 has
an instruction that is not provided select BYPASS, and R475 does not say otherwise. -/
def tapPath (s : State) (i : TapInstr) : TapPath := match i with
  | .idcode => .id idcode
  | .bypass => .bypassBit
  | .samplePreload | .extest => if tapAllows s i then .chain else .bypassBit

end Sys2Proof.Machine
end

