-- ==== Sys2Proof/Safety.lean ====
section
/-! DEFINITION. What the claims are stated in: a run that does not stop, the invariant of the state, and what a command may do
to the queue, the memories, the admission groups and the custody latch. -/
namespace Sys2Proof.Machine

/-- A step that answers a next state: neither a fault nor a refusal. -/
def goesOn (s : State) : Prop := ∃ t, step s = .next t

/-- The memories are in their canonical form: addresses strictly rising, no byte listed that an unlisted address reads as. -/
abbrev State.memWf (s : State) : Bool := twf 0 s.sram && twf 0xFF s.flash

/-- The groups in force are legal: no trip ceiling above 24 (02 R49), no budget sum above 32 (02 R53). -/
abbrev State.groupsOk (s : State) : Bool := s.glb.caps.all (· ≤ 24) && budOk s.glb.bud

/-- The invariant that every step keeps. -/
def State.Inv (s : State) : Prop := s.memWf = true ∧ s.groupsOk = true

/-- What every command does with four things on its way from z to s: the queue stays, the memories and the groups stay legal,
and the custody latch is not newly set: one that is set is the one that was, used up by its operation or not. -/
structure Keeps (z s : State) : Prop where
  pending : s.pending = z.pending
  mem : z.memWf = true → s.memWf = true
  groups : z.groupsOk = true → s.groupsOk = true
  latch : s.cus.latch.isSet = true → ∃ u, s.cus.latch = { z.cus.latch with used := u }

/-- GLB_ without the events that wait at its arbiter (18 R426). -/
def Glb.calm (g : Glb) : Glb := { g with queue := [], heldRep := [], arbDrop := 0, lost := false, lostRst := false }

/-- The parts of State: the blocks, the memories and the model's count of free values; the events that wait at the arbiter
are a part of their own beside the rest of GLB_. -/
inductive Part where
  | events | glb | mode | clk | fus | cfg | mpu | fwl | vlt | cus | can0 | can1 | voe | eng | pke | rng | hif | spi0 | spi1 | flash | tmp | snf | evr | upd | flt | cores | sram | free
deriving DecidableEq, Repr

/-- A part stands in t as in s. -/
def Part.same (s t : State) : Part → Prop
  | .events => t.glb.queue = s.glb.queue ∧ t.glb.heldRep = s.glb.heldRep ∧ t.glb.arbDrop = s.glb.arbDrop
      ∧ t.glb.lost = s.glb.lost ∧ t.glb.lostRst = s.glb.lostRst
  | .glb => t.glb.calm = s.glb.calm
  | .mode => t.mode = s.mode
  | .clk => t.clk = s.clk
  | .fus => t.fus = s.fus
  | .cfg => t.cfg = s.cfg
  | .mpu => t.mpu = s.mpu
  | .fwl => t.fwl = s.fwl
  | .vlt => t.vlt = s.vlt
  | .cus => t.cus = s.cus
  | .can0 => t.can0 = s.can0
  | .can1 => t.can1 = s.can1
  | .voe => t.voe = s.voe
  | .eng => t.eng = s.eng
  | .pke => t.pke = s.pke
  | .rng => t.rng = s.rng
  | .hif => t.hif = s.hif
  | .spi0 => t.spi0 = s.spi0
  | .spi1 => t.spi1 = s.spi1
  | .flash => t.flash = s.flash
  | .tmp => t.tmp = s.tmp
  | .snf => t.snf = s.snf
  | .evr => t.evr = s.evr
  | .upd => t.upd = s.upd
  | .flt => t.flt = s.flt
  | .cores => t.cores = s.cores
  | .sram => t.sram = s.sram
  | .free => t.free = s.free

/-- Between s and t only the parts of the list may differ; the queue stays. -/
def sameBut (l : List Part) (s t : State) : Prop := t.pending = s.pending ∧ ∀ p, p ∉ l → Part.same s t p

/-- Every part of the first list stands in the second. -/
def partsIn (a b : List Part) : Bool := a.all fun p => b.contains p

/-- The parts of State that a command may change, where it goes on; every other part stays. -/
def touches : Instr → List Part
  | .batteryPowerOn | .vbatLoss =>
    [.events, .mode, .vlt, .can0, .can1, .voe, .rng, .tmp, .snf, .evr]
  | .powerOnReset .. | .nrstAssert | .watchdogTimeout .. | .swrst .. | .recov .. | .fusePulseEnd .. | .mpuCtlEn ..
  | .fwlHold .. | .registerWrite .. | .commission .. | .activate .. | .recovery .. | .swReset .. | .busAccess .. =>
    [.events, .glb, .mode, .clk, .fus, .cfg, .mpu, .fwl, .vlt, .cus, .can0, .can1, .voe, .eng, .pke, .rng, .hif, .spi0, .spi1, .flash, .tmp, .evr, .upd, .flt, .cores, .sram, .free]
  | .mainSupplyLoss | .fuseWordReread .. | .snuffTrigger .. | .recommission .. | .retire .. =>
    [.events, .glb, .mode, .clk, .fus, .cfg, .mpu, .fwl, .vlt, .cus, .can0, .can1, .voe, .eng, .pke, .rng, .hif, .spi0, .spi1, .flash, .tmp, .snf, .evr, .upd, .flt, .cores, .sram, .free]
  | .nrstRelease =>
    [.events, .mode, .tmp, .evr]
  | .modeWdtKick .. | .kindleEnd =>
    [.events, .mode, .evr]
  | .wdtLock =>
    [.mode]
  | .endpointReset | .ringReset .. | .functionLevelReset .. | .d3hotExit .. | .vfEnable .. =>
    [.glb, .hif]
  | .kindle .. =>
    [.events, .glb, .mode, .clk, .fus, .cfg, .mpu, .fwl, .vlt, .can0, .can1, .voe, .pke, .rng, .hif, .spi0, .flash, .tmp, .snf, .evr, .upd, .cores, .sram]
  | .vsnuffWaitExpiry | .vsnuffOk =>
    [.events, .glb, .mode, .mpu, .fwl, .tmp, .evr]
  | .xaFreqCheck .. =>
    [.glb, .clk]
  | .xbCheck .. =>
    [.clk, .tmp]
  | .xbLost | .tmpHold .. =>
    [.events, .tmp, .evr]
  | .bcnRun .. =>
    [.events, .glb, .mpu, .fwl, .evr]
  | .tickEdge .. =>
    [.events, .glb, .mode, .clk, .fus, .vlt, .cus, .can0, .can1, .voe, .eng, .pke, .rng, .hif, .tmp, .evr, .upd, .flt, .cores, .sram, .free]
  | .tickOverrun .. | .tripDescArrival .. | .hostReadError .. | .beaconSet .. =>
    [.events, .glb, .hif, .evr, .flt]
  | .syncInEdge .. | .syncHoldover | .budgetCommit | .tripcapCommit =>
    [.events, .glb, .evr]
  | .glbTickRead | .glbTripLatClear =>
    [.glb]
  | .quantumBoundary .. =>
    [.events, .glb, .mpu, .fwl, .cus, .can0, .can1, .voe, .eng, .pke, .rng, .hif, .evr, .flt, .sram, .free]
  | .announceWindowStart =>
    [.events, .mode, .cus, .can0, .can1, .voe, .eng, .pke, .hif, .flash, .evr, .upd, .flt, .cores, .sram, .free]
  | .announceWindowEnd =>
    [.events, .glb, .mode, .clk, .hif, .evr, .upd]
  | .sqTail .. =>
    [.events, .glb, .mode, .rng, .hif, .evr, .flt]
  | .tripMacStart .. =>
    [.eng, .hif]
  | .tripMacEnd .. =>
    [.events, .glb, .eng, .hif, .evr, .flt]
  | .descFetchComplete .. | .cqHead .. | .hifCplGo .. | .hashCmd .. | .ecdsaVerify .. | .ed25519Verify ..
  | .mlDsa65Verify .. | .hybridVerify .. | .rsaVerify .. | .rsaOaepDecrypt .. | .keyInfo .. | .dbInfo ..
  | .custodyStatus .. | .imageInfo .. | .recRead .. | .recMark .. =>
    [.events, .hif, .evr, .flt]
  | .ringEnable .. | .hifRingAlloc .. =>
    [.events, .hif, .evr]
  | .d3hotEntry .. | .hifStgTake | .linkUp .. =>
    [.hif]
  | .mbxSend .. | .haltRequest .. | .debuggerResume .. =>
    [.cores]
  | .hifMbxDone .. | .partLoad .. | .irqRaise .. =>
    [.events, .hif, .evr, .cores]
  | .fltEn =>
    [.events, .mpu, .fwl, .evr, .flt]
  | .relockGoA | .relockGoB =>
    [.events, .mode, .clk, .mpu, .fwl, .hif, .evr, .flt]
  | .relockStart =>
    [.clk, .can0, .can1]
  | .relockLockShown .. =>
    [.events, .mode, .clk, .spi1, .tmp, .evr, .free]
  | .relockFail .. | .lossOfLock .. =>
    [.events, .mode, .clk, .cus, .can0, .can1, .eng, .pke, .rng, .hif, .spi0, .spi1, .flash, .tmp, .evr, .flt, .cores, .sram, .free]
  | .rampStep .. | .degrade =>
    [.clk]
  | .xaLost =>
    [.events, .glb, .mode, .clk, .cus, .can0, .can1, .eng, .pke, .rng, .hif, .spi0, .spi1, .flash, .tmp, .evr, .flt, .cores, .sram, .free]
  | .rereadInterval | .fusRereadNow | .fuseRereadPass =>
    [.fus]
  | .fusePgmGo .. =>
    [.events, .fus, .cus, .can0, .can1, .voe, .hif, .evr, .flt]
  | .wgateCall .. | .wgateReturn .. | .tret .. | .eexit .. | .tfence .. | .ecall .. | .ebreak .. | .interruptTaken ..
  | .illegalInstruction .. =>
    [.cores, .sram]
  | .eenter .. | .crd .. =>
    [.cores, .sram, .free]
  | .cwr .. =>
    [.events, .evr, .cores, .sram, .free]
  | .query .. | .enclCreate .. | .enclSeal .. =>
    [.hif, .cores]
  | .partUnload .. =>
    [.events, .hif, .evr, .cores, .sram]
  | .enclAdd .. =>
    [.hif, .cores, .sram, .free]
  | .enclDestroy .. | .enclReport .. =>
    [.hif, .cores, .sram]
  | .pkeRaw .. =>
    [.events, .mpu, .fwl, .pke, .hif, .evr, .cores, .sram]
  | .mpuStallTimeout .. | .firewallHoldTimeout .. =>
    [.events, .mode, .mpu, .fwl, .eng, .spi0, .evr, .cores, .sram]
  | .zeroizeReadback .. =>
    [.events, .vlt, .hif, .spi0, .flash, .tmp, .evr, .flt, .cores, .sram]
  | .seasonWindowOpen .. | .seasonRollover .. | .seasonWindowEnd .. | .generateCommitExpiry .. =>
    [.vlt]
  | .custCommit .. =>
    [.events, .mpu, .fwl, .cus, .can0, .can1, .voe, .eng, .rng, .hif, .evr, .flt]
  | .custCancel .. =>
    [.events, .mpu, .fwl, .cus, .can0, .can1, .voe, .hif, .evr, .flt]
  | .custVerify .. =>
    [.events, .mpu, .fwl, .cus, .evr]
  | .custodyVerifyEnd =>
    [.events, .cus, .can0, .can1, .voe, .pke, .hif, .evr, .flt]
  | .requestExpiry | .refusal | .custodyCancel .. | .ownerDelete .. | .faultEnable .. =>
    [.events, .cus, .can0, .can1, .voe, .hif, .evr, .flt]
  | .requestRepeat =>
    [.cus, .can0, .can1, .voe]
  | .approval =>
    [.events, .cus, .voe, .pke, .evr]
  | .credential .. =>
    [.events, .mpu, .fwl, .cus, .voe, .evr]
  | .canMode .. | .txreq .. | .txabort .. | .borReq .. =>
    [.events, .mpu, .fwl, .can0, .can1, .evr]
  | .rxpop .. =>
    [.events, .mpu, .fwl, .can0, .can1, .evr, .cores]
  | .frameReceived .. =>
    [.events, .mode, .can0, .can1, .voe, .rng, .evr, .flt, .cores, .free]
  | .frameTxEnd .. =>
    [.events, .cus, .can0, .can1, .voe, .hif, .evr, .flt, .cores]
  | .busOffRecovery .. =>
    [.events, .can0, .can1, .evr]
  | .voethData .. =>
    [.events, .can0, .can1, .voe, .evr, .cores]
  | .voethAck .. =>
    [.can0, .can1, .voe, .cores]
  | .hello .. =>
    [.events, .can0, .can1, .voe, .eng, .rng, .hif, .evr, .flt, .cores]
  | .voeRto .. =>
    [.events, .can0, .can1, .voe, .hif, .evr, .flt]
  | .helloTimer .. | .busIntegration .. =>
    [.can0, .can1, .voe, .eng, .rng]
  | .align =>
    [.voe]
  | .alignTimer =>
    [.can0, .can1, .voe]
  | .seasonPropose | .mirrorSeasonCancel =>
    [.vlt, .can0, .can1, .voe]
  | .seasonAnswer =>
    [.events, .vlt, .voe, .hif, .evr, .flt]
  | .seasonState =>
    [.events, .vlt, .voe, .evr]
  | .engPostGo .. =>
    [.events, .mpu, .fwl, .eng, .evr]
  | .engineOpEnd .. =>
    [.events, .mpu, .fwl, .eng, .evr, .cores, .sram, .free]
  | .engRespop =>
    [.events, .mpu, .fwl, .eng, .evr, .cores]
  | .pkePostGo .. =>
    [.events, .mpu, .fwl, .pke, .evr]
  | .pkeResident .. =>
    [.cus, .eng, .pke, .rng]
  | .pkeOpEnd .. =>
    [.pke, .cores, .free]
  | .pkeRespop =>
    [.events, .mpu, .fwl, .pke, .evr, .cores]
  | .startupTestPass .. | .conditioningBlock .. =>
    [.events, .eng, .rng, .tmp, .evr]
  | .healthTestFailure .. =>
    [.events, .rng, .tmp, .evr]
  | .reseedTickDue =>
    [.rng]
  | .reseed =>
    [.eng, .rng]
  | .rawCapture .. =>
    [.events, .mpu, .fwl, .rng, .evr]
  | .spi0Go =>
    [.events, .mpu, .fwl, .spi0, .evr]
  | .spi0CmdEnd .. | .spi0Timeout =>
    [.spi0, .flash, .sram, .free]
  | .spi0Abort =>
    [.events, .mpu, .fwl, .spi0, .flash, .evr, .sram, .free]
  | .backgroundErase .. =>
    [.spi0, .flash]
  | .spi1Tx .. | .spi1Rx =>
    [.events, .mpu, .fwl, .spi1, .evr]
  | .spi1WordComplete .. | .spi1SelectRelease .. | .spi1SelectAssert =>
    [.spi1]
  | .tamperSourceAct .. =>
    [.events, .mode, .can0, .can1, .voe, .rng, .tmp, .snf, .evr]
  | .tmpSticky .. | .tmpCtlLock .. | .conditionInactive .. =>
    [.tmp]
  | .eventAccept =>
    [.events, .glb, .hif, .evr]
  | .imageReady =>
    [.upd, .cores]
  | .activationConfirm =>
    [.events, .fus, .cus, .can0, .can1, .voe, .hif, .flash, .evr, .upd, .flt, .free]
  | .dimEntryCancel | .dimCmd .. =>
    [.events, .mode, .hif, .evr, .flt]
  | .wake =>
    [.mode, .rng]
  | .dimWakeComplete .. =>
    [.events, .glb, .mode, .clk, .hif, .tmp, .evr]
  | .debugSwitch =>
    [.events, .mode, .vlt, .cus, .can0, .can1, .voe, .eng, .pke, .rng, .hif, .spi0, .evr, .upd, .flt, .cores, .sram, .free]
  | .aesEcbEncrypt .. | .aesEcbDecrypt .. | .aesCbcEncrypt .. | .aesCbcDecrypt .. | .aesCtrEncrypt ..
  | .aesCtrDecrypt .. | .hmacSha256Generate .. | .hmacSha256Verify .. | .hmacSha384512Generate ..
  | .hmacSha384512Verify .. | .aesGmacGenerate .. | .aesGmacVerify .. | .aesGcmDecrypt .. | .aesCmacGenerate ..
  | .aesCmacVerify .. | .ed25519Sign .. | .publicKeyRead .. | .keyZeroize .. | .keyCommit .. | .keyPin ..
  | .keyUnpin .. =>
    [.events, .vlt, .hif, .evr, .flt]
  | .aesGcmEncrypt .. | .ecdsaSign .. | .mlDsa65Sign .. =>
    [.events, .vlt, .eng, .rng, .hif, .evr, .flt]
  | .ecdhDerive .. | .keyImport .. | .keyDerive .. | .dbLoad .. =>
    [.events, .vlt, .hif, .spi0, .flash, .evr, .flt]
  | .rsaSign .. | .random .. | .tokenChallenge .. =>
    [.events, .eng, .rng, .hif, .evr, .flt]
  | .keyGenerate .. =>
    [.events, .vlt, .eng, .rng, .hif, .spi0, .flash, .evr, .flt]
  | .assocSet .. =>
    [.events, .vlt, .eng, .hif, .spi0, .flash, .evr, .flt, .free]
  | .seasonSchedule .. | .seasonCancel .. =>
    [.events, .vlt, .can0, .can1, .voe, .eng, .rng, .hif, .evr, .flt]
  | .dbImport .. =>
    [.events, .vlt, .eng, .rng, .hif, .spi0, .flash, .evr, .flt, .free]
  | .dbDelete .. =>
    [.events, .eng, .hif, .spi0, .flash, .evr, .flt, .free]
  | .custodyRequest .. =>
    [.events, .cus, .can0, .can1, .voe, .eng, .rng, .hif, .evr, .flt]
  | .ownerCreate .. =>
    [.events, .vlt, .cus, .can0, .can1, .voe, .hif, .evr, .flt]
  | .keyExport .. =>
    [.events, .vlt, .cus, .can0, .can1, .voe, .eng, .rng, .hif, .evr, .flt]
  | .keyRestore .. =>
    [.events, .vlt, .cus, .can0, .can1, .voe, .hif, .spi0, .flash, .evr, .flt]
  | .snuff .. =>
    [.events, .cus, .can0, .can1, .voe, .hif, .tmp, .snf, .evr, .flt]
  | .debugAuth .. =>
    [.events, .mode, .cus, .can0, .can1, .voe, .hif, .evr, .flt]
  | .cusEnrol .. | .cusRevoke .. =>
    [.events, .fus, .cus, .can0, .can1, .voe, .hif, .evr, .flt, .free]
  | .fuseProgram .. | .factoryFuse .. =>
    [.events, .fus, .cus, .can0, .can1, .voe, .rng, .hif, .evr, .flt, .free]
  | .stageBegin .. =>
    [.events, .hif, .flash, .evr, .upd, .flt]
  | .stageData .. =>
    [.events, .hif, .evr, .upd, .flt, .sram]
  | .stageVerify .. =>
    [.events, .hif, .flash, .evr, .upd, .flt, .free]
  | .activateCancel .. =>
    [.events, .mode, .hif, .evr, .upd, .flt]
  | .configWrite .. =>
    [.events, .hif, .flash, .evr, .flt]
  | .provision .. =>
    [.events, .fus, .cus, .can0, .can1, .voe, .eng, .rng, .hif, .flash, .evr, .flt, .free]
  | .tokenApply .. =>
    [.events, .mode, .vlt, .rng, .hif, .spi0, .evr, .upd, .flt]
  | .selftest .. =>
    [.events, .mode, .hif, .tmp, .evr, .flt]
  | .pllSet .. =>
    [.events, .mode, .clk, .hif, .evr, .flt]
  | .receiveError .. =>
    [.can0, .can1]

/-- The command goes on from s to a state that the property holds of. -/
def leads (c : Instr) (s : State) (P : State → Prop) : Prop := ∃ t, exec c s = .next t ∧ P t

/-- Core c runs the secure firmware after a WGATE call for this service, from a level that may ask for it (07 R167, R171). -/
def asks (s : State) (c num : Nat) : Bool :=
  let x := getCore s c
  coreRuns s c && x.level = .mon && !x.wsave.async && x.wsave.call && callReg x 17 = num && serviceLevel num x.wsave.level

end Sys2Proof.Machine
end

