-- ==== Sys2Proof/Certificates/Slice0/Obligations.lean ====
section
/-! DEFINITION. The statements for the provers: what each command does on the states that its hypotheses name, the rules of
the spec that hold in every state, and what every step keeps. -/
open Sys2Proof Sys2Proof.Machine

/-- With command c at the front of the queue a step is exec of c on the state with the rest of the queue; on an empty
queue a step passes one count of 40 ns (the model's choice, log entry 10). (02_beacon_tick.md.) -/
def Obligations.StepRunsFront : Prop :=
  (∀ (c : Instr) (s : State) (q : List Instr),
       step (s.setPending (c :: q)) = exec c (s.setPending q))
  ∧ (∀ (s : State), s.pending = [] →
       step s = .next (idleCount s))

/-- In every state the register GLB_CAP, at offset 0x008 of block 0, reads 0x000B_224F. (R38.) -/
def Obligations.CapRegister : Prop :=
  ∀ (s : State),
      rdBlock s 0 0x008 = 0x000B224F

/-- For ALG 0 to 2 the first 3 bytes of the AES encryption of 16 zero bytes under the key; for every other ALG the
first 3 bytes of SHA-256 over STOLTO-KCV in ASCII, the ALG byte and the material. (R228.) -/
def Obligations.KeyCheckValue : Prop :=
  (∀ (alg : Nat) (m : Bytes), alg ≤ 2 →
       kcvOf alg m = (aesEnc m (List.replicate 16 0)).take 3)
  ∧ (∀ (alg : Nat) (m : Bytes), 2 < alg →
       kcvOf alg m = (sha256 ([0x53, 0x54, 0x4F, 0x4C, 0x54, 0x4F, 0x2D, 0x4B, 0x43, 0x56] ++ [BitVec.ofNat 8 alg] ++ m)).take 3 ∧ (kcvOf alg m).length = 3)

/-- Whatever the regions, an access that is a fetch and lies outside mask ROM and system SRAM is refused with SRC 0x5.
(R203.) -/
def Obligations.FetchesOutsideRefused : Prop :=
  ∀ (s : State) (a : Acc), a.kind = 2 → targetOf a.addr ≠ some 0 → targetOf a.addr ≠ some 1 →
      accCheck s a = .deny 5 0

/-- A byte written to system SRAM reads as written and every byte outside the written ones reads as before; a program
of flash leaves the AND of the old and the new byte; an erase leaves 0xFF; each keeps every byte outside its range and
the canonical form. (16_serial_flash_ports.md, 01_architecture.md.) -/
def Obligations.MemoryWrites : Prop :=
  (∀ (s : State) (k : Nat) (b : Bytes),
       sramRead (sramWrite s k b) k b.length = b)
  ∧ (∀ (s : State) (k j n : Nat) (b : Bytes), j + n ≤ k ∨ k + b.length ≤ j →
       sramRead (sramWrite s k b) j n = sramRead s j n)
  ∧ (∀ (s : State) (d k : Nat) (b : Bytes),
       flashRead (flashProgram s d k b) d k b.length = List.zipWith (· &&& ·) (flashRead s d k b.length) b)
  ∧ (∀ (s : State) (d k e j n : Nat) (b : Bytes),
       d * 2 ^ 32 + k + b.length ≤ e * 2 ^ 32 + j ∨ e * 2 ^ 32 + j + n ≤ d * 2 ^ 32 + k →
       flashRead (flashProgram s d k b) e j n = flashRead s e j n)
  ∧ (∀ (s : State) (d k n : Nat),
       flashRead (flashErase s d k n) d k n = List.replicate n 0xFF)
  ∧ (∀ (s : State) (k : Nat) (b : Bytes), s.memWf = true →
       (sramWrite s k b).memWf = true ∧ (flashProgram s 0 k b).memWf = true ∧ (flashErase s 0 k b.length).memWf = true)

/-- State.reset is legal: its memories list nothing, its groups in force are legal, no command waits, the latch is
clear, no entropy and no key is there. (04_power_reset_kindle.md, 03_modes_and_lifecycle.md.) -/
def Obligations.ResetInv : Prop :=
  State.reset.Inv ∧ State.reset.pending = [] ∧ State.reset.sram = [] ∧ State.reset.flash = [] ∧ State.reset.cus.latch.isSet = false ∧ State.reset.vlt.slots = [] ∧ State.reset.rng.pool = []

/-- From every state whose memories are canonical and whose groups in force are legal (every trip ceiling at most 24,
every budget sum at most 32), a step that goes on gives such a state. (02_beacon_tick.md, 01_architecture.md.) -/
def Obligations.StepKeepsInv : Prop :=
  ∀ (s t : State), s.Inv → step s = .next t →
      t.Inv

/-- Whatever command runs, other than the end of a custody verification whose checks all pass, a latch that is set
afterwards was set before for the same operation, custodians, request and form, whether or not its operation has been
used up since. (10_custody_and_dual_control.md.) -/
def Obligations.LatchOnlySetByVerify : Prop :=
  ∀ (c : Instr) (s t : State), exec c s = .next t →
      c ≠ .custodyVerifyEnd ∨ (custChecks s (approvalAt s 0) (approvalAt s 0x1800)).isSome = true →
      t.cus.latch.isSet = true →
      ∃ u, t.cus.latch = { s.cus.latch with used := u }

/-- Every command goes on, in every state, and changes only the parts of the state that touches lists for it and
leaves the queue; every register, memory and buffer of every other part stays. (01_architecture.md.) -/
def Obligations.CommandFrames : Prop :=
  (∀ (c : Instr) (s t : State), exec c s = .next t →
         sameBut (touches c) s t)
  ∧ (∀ (c : Instr) (s : State), leads c s fun t => sameBut (touches c) s t)

/-- From OFF battery power enters VIGIL with a cleared battery domain, where a tamper source whose condition stands
acts; losing VBAT in VIGIL clears the domain and enters OFF, and elsewhere it shows in MODE_SUPPLY and, with the main
supplies valid, makes the condition of BATLOW active; the power-on reset, from OFF or VIGIL, enters KINDLE with cause
0, shows the supplies, clears the diagnostics array and keeps the security log, the vault slots and the fuse cells,
and waits in reset while NRST is low; losing a main supply enters VIGIL or, without VBAT, OFF, with no output to the
host, and cuts a programming pulse that runs; NRST is recognised at once, or at the end of a programming pulse that
runs, and then holds the main domain in reset until it rises. (03_modes_and_lifecycle.md, 04_power_reset_kindle.md,
21_pins_electrical_board.md.) -/
def Obligations.SupplyEvents : Prop :=
  (∀ (s : State), s.mode.mode = .off →
       leads .batteryPowerOn s fun t => t.mode.mode = .vigil ∧ t.mode.vbatIn = true ∧ t.mode.vbatOk = true ∧ t.vlt.exist = 0
         ∧ t.vlt.slots = [] ∧ t.vlt.seasons = [])
  ∧ (∀ (s : State), s.mode.mode = .off → s.tmp.cond = 0 →
       leads .batteryPowerOn s fun t => t.evr.sec = [] ∧ t.tmp.sticky = 0 ∧ t.snf.flag = false
         ∧ sameBut [.mode, .vlt, .tmp, .snf, .evr] s t)
  ∧ (∀ (s : State), s.mode.mode ≠ .off →
       exec .batteryPowerOn s = .next (s.setMode { s.mode with vbatIn := true, vbatOk := true }))
  ∧ (∀ (s : State), s.mode.mode = .vigil →
       leads .vbatLoss s fun t => t.mode.mode = .off ∧ t.mode.vbatIn = false ∧ t.evr.sec = [] ∧ t.tmp.sticky = 0 ∧ t.vlt.slots = []
         ∧ t.snf.flag = false ∧ sameBut [.mode, .vlt, .tmp, .snf, .evr] s t)
  ∧ (∀ (s : State), s.mode.mode = .off →
       exec .vbatLoss s = .next (s.setMode { s.mode with vbatIn := false, vbatOk := false }))
  ∧ (∀ (s : State), s.mode.mode ≠ .vigil → s.mode.mode ≠ .off →
       exec .vbatLoss s = .next (sourceOn (s.setMode { s.mode with vbatIn := false, vbatOk := false }) 12)
         ∧ (sourceOn (s.setMode { s.mode with vbatIn := false, vbatOk := false }) 12).tmp.cond.getLsbD 12 = true
         ∧ (sourceOn (s.setMode { s.mode with vbatIn := false, vbatOk := false }) 12).vlt = s.vlt)
  ∧ (∀ (s : State) (io : SupplyEnv), s.mode.mode = .off ∨ s.mode.mode = .vigil →
       leads (.powerOnReset io) s fun t => t.mode.mode = .kindle ∧ t.mode.cause = 0 ∧ t.mode.inReset = io.nrstLow
         ∧ t.mode.vddioA = io.ioA ∧ t.mode.vddioB = io.ioB ∧ t.mode.vpp = io.vpp ∧ t.mode.vbatOk = io.vbat
         ∧ t.evr.pcyc = (s.evr.pcyc + 1) % 65536 ∧ t.evr.diag = [] ∧ t.evr.sec = s.evr.sec ∧ t.vlt.slots = s.vlt.slots
         ∧ t.fus.cells = s.fus.cells ∧ t.sram = [] ∧ t.glb.run = false ∧ t.glb.tick = 0)
  ∧ (∀ (s : State) (io : SupplyEnv), s.mode.mode = .off ∨ s.mode.mode = .vigil → io.nrstLow = true →
       leads (.powerOnReset io) s fun t => t.mode.nrstLow = true ∧ t.tmp.nrst = 0 ∧ t.tmp.nrstRun = true)
  ∧ (∀ (s : State), s.mode.mode ≠ .off → s.mode.mode ≠ .vigil → s.mode.vbatIn = true →
       leads .mainSupplyLoss s fun t => t.mode.mode = .vigil ∧ t.hif.out = s.hif.out ∧ t.sram = []
         ∧ t.vlt.slots = s.vlt.slots ∧ t.fus.cells = (pulseCut s).fus.cells ∧ t.tmp.sticky = s.tmp.sticky ∧ t.snf = s.snf)
  ∧ (∀ (s : State), s.mode.mode ≠ .off → s.mode.mode ≠ .vigil → s.mode.vbatIn = false →
       leads .mainSupplyLoss s fun t => t.mode.mode = .off ∧ t.hif.out = s.hif.out ∧ t.sram = [] ∧ t.vlt.slots = []
         ∧ t.evr.sec = [] ∧ t.fus.cells = (pulseCut s).fus.cells)
  ∧ (∀ (s : State), s.fus.pgm = none →
       (pulseCut s).fus.cells = s.fus.cells)
  ∧ (∀ (s : State), mainUp s = true → s.fus.pgm = none →
       leads .nrstAssert s fun t => t.mode.inReset = true ∧ t.mode.nrstLow = true ∧ t.mode.cause = 1 ∧ t.tmp.nrst = 0
         ∧ t.tmp.nrstRun = true ∧ t.vlt.slots = s.vlt.slots ∧ t.fus.cells = s.fus.cells ∧ t.hif.out = s.hif.out)
  ∧ (∀ (s : State), mainUp s = true → s.fus.pgm.isSome = true →
       leads .nrstAssert s fun t => t.mode.inReset = false ∧ t.mode.nrstLow = true ∧ t.fus.nrstStop = true
         ∧ sameBut [.mode, .fus] s t)
  ∧ (∀ (s : State), s.mode.inReset = true →
       leads .nrstRelease s fun t => t.mode.inReset = false ∧ t.mode.nrstLow = false ∧ t.tmp.nrstRun = false
         ∧ sameBut [.mode, .tmp, .events, .evr] s t)
  ∧ (∀ (s : State), s.mode.inReset = false →
       exec .nrstRelease s = .next (s.setMode { s.mode with nrstLow := false }))

/-- A device reset of any cause enters KINDLE with that cause, keeps the vault slots, the seasons and associations,
the fuse cells, the security log and the diagnostics array, the sticky tamper flags and the Snuff result, and what has
left the device; it clears the rings, the cores, the beacon, the custody request and latch, and the engines. The
watchdog at its timeout performs the device reset of cause 3, and in KINDLE the second expiry at one step, K1 to K12,
also sets the recovery request flag (that it resets too is a reading of the model, log 90, and that the command names
the step among K1 to K11 is the model's, log 65); a write of MODE_RST_CTL with its key performs with SWRST the
software reset of cause 2, or with RECOV the reset of cause 9 with the recovery request flag set, and without its key
resets nothing; the kick value restarts the watchdog and any other is only logged; LOCK locks the timeout.
(04_power_reset_kindle.md.) -/
def Obligations.DeviceResets : Prop :=
  (∀ (s : State) (cause : Nat),
       (deviceReset s cause).mode.mode = .kindle ∧ (deviceReset s cause).mode.cause = cause
         ∧ (deviceReset s cause).mode.recovReq = s.mode.recovReq
         ∧ (deviceReset s cause).vlt.slots = s.vlt.slots ∧ (deviceReset s cause).vlt.seasons = s.vlt.seasons
         ∧ (deviceReset s cause).vlt.assocs = s.vlt.assocs ∧ (deviceReset s cause).fus.cells = s.fus.cells
         ∧ (deviceReset s cause).evr.sec = s.evr.sec ∧ (deviceReset s cause).evr.diag = s.evr.diag
         ∧ (deviceReset s cause).tmp.sticky = s.tmp.sticky ∧ (deviceReset s cause).snf = s.snf
         ∧ (deviceReset s cause).hif.out = s.hif.out
         ∧ (deviceReset s cause).hif.rings = [] ∧ (deviceReset s cause).hif.trips = []
         ∧ (deviceReset s cause).cores = State.reset.cores ∧ (deviceReset s cause).glb.run = false
         ∧ (deviceReset s cause).cus = State.reset.cus ∧ (deviceReset s cause).eng = State.reset.eng)
  ∧ (∀ (s : State) (k : Fin 12), wdtRuns s = true → max 1 s.mode.wdtTimeout ≤ s.mode.wdtCount → inKindle s = false →
       exec (.watchdogTimeout k) s = .next (deviceReset (s.setMode { s.mode with wdtStep := none }) 3))
  ∧ (∀ (s : State) (k : Fin 12), wdtRuns s = true → max 1 s.mode.wdtTimeout ≤ s.mode.wdtCount → inKindle s = true →
       s.mode.kindleStep = 0 →
       exec (.watchdogTimeout k) s = .next (deviceReset (s.setMode { s.mode with recovReq := s.mode.recovReq || s.mode.wdtStep = some (k.val + 1), wdtStep := some (k.val + 1) }) 3))
  ∧ (∀ (s : State) (k : Fin 12), wdtRuns s = true → max 1 s.mode.wdtTimeout ≤ s.mode.wdtCount → inKindle s = true →
       s.mode.kindleStep = 12 →
       exec (.watchdogTimeout k) s = .next (deviceReset (s.setMode { s.mode with recovReq := s.mode.recovReq || s.mode.wdtStep = some 12, wdtStep := some 12 }) 3))
  ∧ (∀ (s : State), mainUp s = true →
       exec (.modeWdtKick 0x5A5A) s = .next (s.setMode { s.mode with wdtCount := 0, wdtFrac := 0 }))
  ∧ (∀ (s : State) (v : Word), mainUp s = true → v ≠ 0x5A5A →
       leads (.modeWdtKick v) s fun t => sameBut [.events, .evr] s t)
  ∧ (∀ (s : State), mainUp s = true →
       exec .wdtLock s = .next (s.setMode { s.mode with wdtLock := true }))
  ∧ (∀ (s : State) (v : Word), mainUp s = true → fld v 24 8 = 0xA5 → bit v 1 = false → bit v 0 = true →
       exec (.swrst v) s = .next (deviceReset (s.setMode { s.mode with wdtStep := none }) 2))
  ∧ (∀ (s : State) (v : Word), mainUp s = true → fld v 24 8 = 0xA5 → bit v 1 = true →
       exec (.recov v) s = .next (deviceReset (s.setMode { s.mode with recovReq := true, wdtStep := none }) 9))
  ∧ (∀ (s : State) (v : Word), mainUp s = true → fld v 24 8 ≠ 0xA5 →
       exec (.swrst v) s = exec (.recov v) s ∧ leads (.swrst v) s fun t => sameBut [.events, .evr] s t)
  ∧ (∀ (s : State) (v : Word), mainUp s = true → fld v 24 8 = 0xA5 →
       exec (.swrst v) s = exec (.recov v) s)

/-- KINDLE, from the release of the reset, passes K1 to K11, records its duration and restarts the watchdog; K12
starts the beacon at tick 0 when VSNUFF is charged, and otherwise waits; the wait ends when VSNUFF_OK reads 1, or at
its expiry with ALARM_N asserted and a log entry, and then the beacon starts. At the end of KINDLE the first
destination of the list whose condition holds is taken: in RETIRED, DEBUG with debug OPEN when the debug-disable fuse
is intact and a pair verified, else RECOVERY; then RECOVERY on the recovery request flag or without a pair; then
SNUFFED on the Snuff flag or, in COMMISSIONED, on a failed vault-root check; then DEBUG when debug is not CLOSED; else
SERVICE. (A failed known-answer test also leads to RECOVERY, by the table of 04 R112; the hypothesis leaves it out.).
(04_power_reset_kindle.md, 02_beacon_tick.md, 03_modes_and_lifecycle.md.) -/
def Obligations.KindleStepsAndEnd : Prop :=
  (∀ (s : State) (e : KindleEnv), inKindle s = true → s.mode.inReset = false → s.mode.kindleStep = 0 →
       e.vsnuffOk = false →
       exec (.kindle e) s = .next (kindleSteps e s) ∧ (kindleSteps e s).mode.kindleStep = 12
         ∧ (kindleSteps e s).mode.kindleTime = e.micros ∧ (kindleSteps e s).mode.wdtCount = 0
         ∧ (kindleSteps e s).mode.vsnuffOk = false ∧ (kindleSteps e s).tmp.lock = true)
  ∧ (∀ (s : State) (e : KindleEnv), inKindle s = true → s.mode.inReset = false → s.mode.kindleStep = 0 →
       e.vsnuffOk = true →
       exec (.kindle e) s = .next (kindleRun (kindleSteps e s)))
  ∧ (∀ (s : State), bcnCfgOk s.glb = true →
       (kindleRun s).mode = { s.mode with kindled := true } ∧ (kindleRun s).glb.run = true ∧ (kindleRun s).glb.tick = 0
         ∧ (kindleRun s).glb.sub = 0 ∧ (kindleRun s).glb.lock = (if s.glb.src = 0 then .free else .acquire)
         ∧ sameBut [.mode, .glb, .events, .evr] s (kindleRun s))
  ∧ (∀ (s : State), kindleWaits s = true →
       exec .vsnuffOk s = .next (kindleRun (alarmClear (s.setMode { s.mode with vsnuffOk := true }) .vsnuff)))
  ∧ (∀ (s : State), kindleWaits s = false →
       exec .vsnuffOk s = .next (alarmClear (s.setMode { s.mode with vsnuffOk := true }) .vsnuff))
  ∧ (∀ (s : State), kindleWaits s = true → bcnCfgOk s.glb = true →
       leads .vsnuffWaitExpiry s fun t => t.mode.kindled = true ∧ t.glb.run = true ∧ t.glb.tick = 0
         ∧ Alarm.vsnuff.num ∈ t.tmp.alarm ∧ t.vlt = s.vlt ∧ t.fus = s.fus)
  ∧ (∀ (s : State), s.mode.mode = .kindle → s.mode.inReset = false → s.mode.kindled = true → s.glb.run = true →
       1 ≤ s.glb.tick.toNat → s.mode.katFail = [] →
       leads .kindleEnd s fun t => t.mode.mode =
         (if s.fus.lc = .retired then (if !s.fus.dbgdis && s.mode.pairOk then .debug else .recovery)
         else if s.mode.recovReq || !s.mode.pairOk then .recovery
         else if s.snf.flag || (s.fus.lc = .commissioned && s.mode.vrFail) then .snuffed
         else if s.mode.dbg ≠ .closed then .debug
         else .service)
         ∧ t.mode.dbg = (if s.fus.lc = .retired && !s.fus.dbgdis && s.mode.pairOk then .opened else s.mode.dbg)
         ∧ t.mode.causeFrom = 2 ∧ t.mode.causeTick = s.glb.tick ∧ t.mode.wdtStep = none ∧ sameBut [.mode, .events, .evr] s t)

/-- A tick lasts 100 µs + 50 µs × PERIOD, in counts of 40 ns; with a PERIOD of 19 to 31 the RUN write starts nothing.
(R39.) -/
def Obligations.BeaconPeriod : Prop :=
  (∀ (s : State), s.glb.period ≤ 18 →
       40 * ticksN s = 1000 * (100 + 50 * s.glb.period))
  ∧ (∀ (s : State) (v : Word), mainUp s = true → s.glb.run = false → bit v 0 = true → 19 ≤ s.glb.period →
       leads (.bcnRun v) s fun t => sameBut [.events, .evr, .mpu, .fwl] s t)

/-- In KINDLE the write RUN = 1 with a permitted configuration starts the beacon at tick 0, in FREE or ACQUIRE by its
lock source, and with a forbidden one is refused; a write of RUN = 0 while it runs is refused and it runs on; with RUN
already 1 a write of 1 changes nothing. An edge is measured, in units of 20 ns, against the nearest tick edge of the
beacon. An edge within 1 µs of the last accepted one is not taken; in FREE an edge changes nothing; in ACQUIRE a phase
error within 200 ns counts and the third in a row locks, a larger one starts the count again; in LOCKED an edge within
5 µs of an expected instant is accepted, with a rate correction of at most 80 ns per tick, and any other is counted as
stray; in HOLDOVER an edge leads back to ACQUIRE (that it is itself the first of the three is the model's choice, log
93); once the missed edges reach their limit LOCKED ends in HOLDOVER, which does not disturb the tick count.
(02_beacon_tick.md.) -/
def Obligations.BeaconStartsAndSync : Prop :=
  (∀ (s : State) (v : Word), s.mode.mode = .kindle → s.mode.inReset = false → s.glb.run = false →
       bit v 0 = true → bcnCfgOk s.glb = true →
       leads (.bcnRun v) s fun t => t.glb.run = true ∧ t.glb.tick = 0 ∧ t.glb.sub = 0
         ∧ t.glb.lock = (if s.glb.src = 0 then .free else .acquire) ∧ t.glb.period = s.glb.period ∧ sameBut [.glb, .events, .evr] s t)
  ∧ (∀ (s : State) (v : Word), mainUp s = true → s.glb.run = true → bit v 0 = false →
       leads (.bcnRun v) s fun t => t.glb.run = true ∧ sameBut [.events, .evr, .mpu, .fwl] s t)
  ∧ (∀ (s : State) (v : Word), mainUp s = true → s.glb.run = true → bit v 0 = true →
       exec (.bcnRun v) s = .next s)
  ∧ (∀ (s : State) (v : Word), mainUp s = true → s.glb.run = false → bit v 0 = true → bcnCfgOk s.glb = false →
       leads (.bcnRun v) s fun t => t.glb.run = false ∧ sameBut [.events, .evr, .mpu, .fwl] s t)
  ∧ (∀ (s : State) (half : Bool), 2 * s.glb.sub + b2n half ≤ ticksN s →
       edgeNear s half = (s.glb.tick, ((2 * s.glb.sub + b2n half : Nat) : Int)))
  ∧ (∀ (s : State) (half : Bool), ticksN s < 2 * s.glb.sub + b2n half →
       edgeNear s half = (s.glb.tick + 1, ((2 * s.glb.sub + b2n half : Nat) : Int) - 2 * ticksN s))
  ∧ (∀ (s : State) (half : Bool), inHoldoff s = true →
       exec (.syncInEdge half) s = .next s)
  ∧ (∀ (s : State) (half : Bool), s.glb.lock = .free →
       exec (.syncInEdge half) s = .next s)
  ∧ (∀ (s : State) (half : Bool), mainUp s = true → s.glb.run = true → inHoldoff s = false → s.glb.lock = .acquire →
       (edgeNear s half).2.natAbs ≤ 10 → s.glb.acq = 2 →
       leads (.syncInEdge half) s fun t => t.glb.lock = .locked ∧ t.glb.phaseErr = (edgeNear s half).2
         ∧ t.glb.syncRef = (edgeNear s half).1 ∧ t.glb.tick = s.glb.tick ∧ t.glb.sub = s.glb.sub
         ∧ t.glb.lastSync = some (now s) ∧ sameBut [.glb, .events, .evr] s t)
  ∧ (∀ (s : State) (half : Bool), mainUp s = true → s.glb.run = true → inHoldoff s = false → s.glb.lock = .acquire →
       10 < (edgeNear s half).2.natAbs ∨ s.glb.acq < 2 →
       leads (.syncInEdge half) s fun t => t.glb.lock = .acquire
         ∧ t.glb.acq = (if (edgeNear s half).2.natAbs ≤ 10 then s.glb.acq + 1 else 0) ∧ t.glb.phaseErr = (edgeNear s half).2
         ∧ t.glb.miss = 0 ∧ t.glb.lastSync = some (now s) ∧ t.glb.rate.natAbs ≤ 80 ∧ t.glb.tick = s.glb.tick ∧ sameBut [.glb] s t)
  ∧ (∀ (s : State) (half : Bool), mainUp s = true → s.glb.run = true → inHoldoff s = false → s.glb.lock = .locked →
       (edgeNear s half).2.natAbs ≤ 250 → ((edgeNear s half).1 - s.glb.syncRef).toNat % syncTicks s = 0 →
       leads (.syncInEdge half) s fun t => t.glb.lock = .locked ∧ t.glb.phaseErr = (edgeNear s half).2 ∧ t.glb.miss = 0
         ∧ t.glb.lastSync = some (now s) ∧ t.glb.syncRef = (edgeNear s half).1 ∧ t.glb.rate.natAbs ≤ 80
         ∧ t.glb.tick = s.glb.tick ∧ sameBut [.glb] s t)
  ∧ (∀ (s : State) (half : Bool), mainUp s = true → s.glb.run = true → inHoldoff s = false → s.glb.lock = .locked →
       250 < (edgeNear s half).2.natAbs ∨ ((edgeNear s half).1 - s.glb.syncRef).toNat % syncTicks s ≠ 0 →
       exec (.syncInEdge half) s = .next (s.setGlb { s.glb with stray := satInc 0xFFFF s.glb.stray }))
  ∧ (∀ (s : State) (half : Bool), mainUp s = true → s.glb.run = true → inHoldoff s = false → s.glb.lock = .holdover →
       leads (.syncInEdge half) s fun t => t.glb.lock = .acquire ∧ t.glb.acq = (if (edgeNear s half).2.natAbs ≤ 10 then 1 else 0)
         ∧ t.glb.tick = s.glb.tick ∧ sameBut [.glb, .events, .evr] s t)
  ∧ (∀ (s : State), mainUp s = true → s.glb.run = true → s.glb.lock = .locked → missLimit s.glb.src ≤ s.glb.miss →
       leads .syncHoldover s fun t => t.glb.lock = .holdover ∧ t.glb.tick = s.glb.tick ∧ t.glb.sub = s.glb.sub
         ∧ t.glb.rate = s.glb.rate ∧ sameBut [.glb, .events, .evr] s t)
  ∧ (∀ (s : State), s.glb.miss < missLimit s.glb.src →
       exec .syncHoldover s = .next s)

/-- At a tick edge, which follows the count N − 1, the count starts at 0 of the next tick, the committed groups apply,
then the trip tokens are refilled to 24 with every count of tokens used at 0 and the budgets of every engine are
reloaded from the groups in force, and then the carried candidates are admitted. A read of GLB_TICK latches the
sub-tick count; a write of GLB_TRIP_LAT clears it; a commit while the beacon runs captures the shadows of its group
for the next edge and changes nothing in force, and before the beacon runs it applies them at once; at the edge a
captured budget group is applied whole when every sum is at most 32 and is otherwise dropped with its error shown, and
captured ceilings are applied, none above 24. (02_beacon_tick.md, 06_fuses_and_configuration.md.) -/
def Obligations.TickEdgeAndGroups : Prop :=
  (∀ (s : State) (e : TickEnv), mainUp s = true → s.glb.run = true → s.glb.sub + 1 = ticksN s →
       exec (.tickEdge e) s = .next (dimEdge (edgeRest (edgeAdmit (ownerEdge (edgeKeys (edgeGroups (edgeClk (edgeTime s) e))))))))
  ∧ (∀ (s : State) (e : TickEnv), mainUp s = true → s.glb.run = true → s.glb.sub + 1 = ticksN s →
       leads (.tickEdge e) s fun t => t.glb.tick = s.glb.tick + 1 ∧ t.glb.sub = 0 ∧ t.glb.run = true ∧ t.mode.vpp = e.vpp
         ∧ t.fus.cells = s.fus.cells ∧ t.glb.tokens ≤ 24)
  ∧ (∀ (s : State),
       (edgeTime s).glb.tick = s.glb.tick + 1 ∧ (edgeTime s).glb.sub = 0 ∧ sameBut [.glb] s (edgeTime s))
  ∧ (∀ (s : State),
       (refill s).glb.tokens = 24 ∧ (refill s).glb.used = [] ∧ (refill s).glb.budNow = budLoad s.glb.bud
         ∧ (refill s).glb.tick = s.glb.tick ∧ sameBut [.glb] s (refill s))
  ∧ (∀ (s : State), mainUp s = true →
       exec .glbTickRead s = .next (s.setGlb { s.glb with subLatch := s.glb.sub }))
  ∧ (∀ (s : State), mainUp s = true →
       exec .glbTripLatClear s = .next (s.setGlb { s.glb with tripLat := 0 }))
  ∧ (∀ (s : State), mainUp s = true → s.glb.run = true →
       exec .budgetCommit s = .next (s.setGlb { s.glb with budCommit := some s.glb.budSh }))
  ∧ (∀ (s : State), mainUp s = true → s.glb.run = true →
       exec .tripcapCommit s = .next (s.setGlb { s.glb with capsCommit := some s.glb.capsSh }))
  ∧ (∀ (s : State) (b : List Bud), s.glb.budCommit = some b → s.glb.capsCommit = none → budOk b = true →
       applyGroups s = s.setGlb { s.glb with bud := b, budCommit := none })
  ∧ (∀ (s : State) (b : List Bud), s.glb.budCommit = some b → s.glb.capsCommit = none → budOk b = false →
       (applyGroups s).glb.bud = s.glb.bud ∧ (applyGroups s).glb.budErr = true ∧ (applyGroups s).glb.budCommit = none
         ∧ sameBut [.glb, .events, .evr] s (applyGroups s))
  ∧ (∀ (s : State) (l : List Nat), s.glb.budCommit = none → s.glb.capsCommit = some l →
       applyGroups s = s.setGlb { s.glb with caps := l.map (min 24), capsCommit := none })
  ∧ (∀ (s : State), mainUp s = true → s.glb.run = false →
       exec .budgetCommit s = .next (applyGroups (s.setGlb { s.glb with budCommit := some s.glb.budSh }))
         ∧ exec .tripcapCommit s = .next (applyGroups (s.setGlb { s.glb with capsCommit := some s.glb.capsSh })))
  ∧ (∀ (s : State) (b : List Bud) (l : List Nat), s.glb.budCommit = some b → s.glb.capsCommit = some l → budOk b = true →
       applyGroups s = s.setGlb { s.glb with bud := b, budCommit := none, caps := l.map (min 24), capsCommit := none })

/-- In KINDLE a count of 2425 to 2575 passes the check of XA: the count is kept, the trim code moves by the rounded
deviation in steps of 0.05 % and stays within 0 to 255, and no fallback is flagged; any other count sets the fallback
and puts the rows of the fallback into the shadows and into force. A count of XB from 30,313 to 32,187 moves the
battery domain to XB and any other leaves it on SIRC with the fallback flag. In VIGIL a loss of XB returns the battery
domain to SIRC with a security-log entry. A GO write with legal shadow settings, a start at least 2 ticks ahead, no
relock under way and no announcement in force is accepted: the relock stands with its start, and announcement cause 1
is shown with it, but for SERVICE-HOLD, where none is made; a GO write that is refused changes no clock state; at the
start the domains of the PLL run from FIRC with the shadow settings in force and the ramp at a quarter; the lock shown
selects the PLL, and the last of two PLLs to lock ends SERVICE-HOLD; each ramp step raises the clock by one step, and
at ÷1 the relock ends; a failed relock sets the loss flag and proceeds as a loss of lock, in SERVICE-HOLD too.
(05_clocks.md.) -/
def Obligations.CrystalChecksAndRelocks : Prop :=
  (∀ (s : State) (n : Nat), s.mode.mode = .kindle → mainUp s = true → s.clk.xaUsed = false → 2425 ≤ n →
       n ≤ 2575 →
       exec (.xaFreqCheck n) s = .next (s.setClk { s.clk with xaCount := n, xaUsed := true, trimCode := clampCode (s.clk.trimCode + roundDiv (2000 * ((n : Int) - 2500)) 2500) }))
  ∧ (∀ (s : State) (n : Nat), s.mode.mode = .kindle → mainUp s = true → s.clk.xaUsed = false →
       n < 2425 ∨ 2575 < n →
       leads (.xaFreqCheck n) s fun t => t.clk.xaFb = true ∧ t.clk.xaUsed = true ∧ t.clk.trimCode = s.clk.trimCode ∧ t.glb.fircTb = true
         ∧ t.clk.pllA = { prediv := 1, odiv := 2, ndiv := 50 } ∧ t.clk.pllB = { prediv := 1, odiv := 5, ndiv := 75 } ∧ t.clk.div = {}
         ∧ t.clk.pllAAct = t.clk.pllA ∧ t.clk.pllBAct = t.clk.pllB ∧ t.clk.divAct = t.clk.div ∧ t.clk.refBAct = 64000
         ∧ sameBut [.glb, .clk] s t)
  ∧ (∀ (s : State) (n : Nat), mainUp s = true → 30313 ≤ n → n ≤ 32187 →
       exec (.xbCheck n) s = .next ((s.setClk { s.clk with xbCount := n, xbFb := false }).setTmp { s.tmp with xb := true }))
  ∧ (∀ (s : State) (n : Nat), mainUp s = true → n < 30313 ∨ 32187 < n →
       exec (.xbCheck n) s = .next ((s.setClk { s.clk with xbCount := min 0xFFFF n, xbFb := true }).setTmp { s.tmp with xb := false }))
  ∧ (∀ (s : State), s.mode.mode = .vigil → s.tmp.xb = true →
       leads .xbLost s fun t => t.tmp = { s.tmp with xb := false } ∧ sameBut [.events, .evr, .tmp] s t)
  ∧ (∀ (s : State), s.tmp.xb = false →
       exec .xbLost s = .next s)
  ∧ (∀ (s : State), mainUp s = true → s.glb.run = true → relockOk s .a s.clk.relockTick = true →
       s.mode.hold = false → s.mode.dimPend = none →
       leads .relockGoA s fun t => t.clk = { s.clk with relock := some { pll := .a, start := s.clk.relockTick, started := false, ended := false } }
         ∧ t.mode.annCause = 1 ∧ t.mode.annStart = s.clk.relockTick ∧ t.mode.annLen = relockLen s ∧ t.mode.annIn = false
         ∧ sameBut [.events, .evr, .mode, .clk] s t)
  ∧ (∀ (s : State), mainUp s = true → s.glb.run = true → relockOk s .b s.clk.relockTick = true →
       s.mode.hold = false → s.mode.dimPend = none →
       leads .relockGoB s fun t => t.clk = { s.clk with relock := some { pll := .b, start := s.clk.relockTick, started := false, ended := false } }
         ∧ t.mode.annCause = 1 ∧ t.mode.annStart = s.clk.relockTick ∧ sameBut [.events, .evr, .mode, .clk] s t)
  ∧ (∀ (s : State), mainUp s = true → s.glb.run = true → relockOk s .a s.clk.relockTick = false →
       leads .relockGoA s fun t => sameBut [.events, .evr, .mpu, .fwl] s t)
  ∧ (∀ (s : State), mainUp s = true → s.glb.run = true → relockOk s .b s.clk.relockTick = false →
       leads .relockGoB s fun t => sameBut [.events, .evr, .mpu, .fwl] s t)
  ∧ (∀ (s : State), mainUp s = true → s.glb.run = true → relockOk s .a s.clk.relockTick = true → s.mode.hold = true →
       exec .relockGoA s = .next (s.setClk { s.clk with relock := some { pll := .a, start := s.clk.relockTick, started := false, ended := false } }))
  ∧ (∀ (s : State) (p : Pll),
       leadOk s s.clk.relockTick = false ∨ relockCfgOk s p = false ∨ relockBusy s.clk = true →
       relockOk s p s.clk.relockTick = false)
  ∧ (∀ (s : State) (r : Relock), mainUp s = true → s.clk.relock = some r → r.started = false → r.pll = .a →
       tickReached r.start s.glb.tick = true → s.hif.trips = [] →
       exec .relockStart s = .next (s.setClk { s.clk with selA := false, lockA := false, pllAAct := s.clk.pllA, rampA := 4, attA := false, fbA := false, relock := some { r with started := true } }))
  ∧ (∀ (s : State) (r : Relock), mainUp s = true → s.clk.relock = some r → r.started = false → r.pll = .b →
       tickReached r.start s.glb.tick = true → s.hif.trips = [] →
       leads .relockStart s fun t => t.clk = { s.clk with selB := false, lockB := false, pllBAct := s.clk.pllB, divAct := s.clk.div, refBAct := refKhz s.clk, rampB := 4, attB := false, fbB := false, relock := some { r with started := true } }
         ∧ t.can0 = parkCan s.can0 ∧ t.can1 = parkCan s.can1 ∧ sameBut [.clk, .can0, .can1] s t)
  ∧ (∀ (s : State), mainUp s = true → relocking s.clk .a = true → s.clk.selA = false → s.mode.hold = false →
       exec (.relockLockShown .a) s = .next (s.setClk { s.clk with lockA := true, selA := true }))
  ∧ (∀ (s : State), mainUp s = true → relocking s.clk .b = true → s.clk.selB = false → s.mode.hold = false →
       exec (.relockLockShown .b) s = .next (s.setClk { s.clk with lockB := true, selB := true }))
  ∧ (∀ (s : State), mainUp s = true → relocking s.clk .b = true → s.clk.selB = false → s.mode.hold = true → s.clk.lockA = true →
       leads (.relockLockShown .b) s fun t => t.clk.lockB = true ∧ t.clk.selB = true ∧ t.mode.hold = false ∧ t.mode.resume = true
         ∧ t.clk.degrade = false ∧ t.spi1.stopped = false ∧ t.vlt = s.vlt ∧ t.hif = s.hif)
  ∧ (∀ (s : State), mainUp s = true → s.clk.selA = true → 2 < s.clk.rampA →
       exec (.rampStep .a) s = .next (s.setClk { s.clk with rampA := max 1 (s.clk.rampA - 1) }))
  ∧ (∀ (s : State), mainUp s = true → s.clk.selB = true → 2 < s.clk.rampB →
       exec (.rampStep .b) s = .next (s.setClk { s.clk with rampB := max 1 (s.clk.rampB - 1) }))
  ∧ (∀ (s : State) (p : Pll), mainUp s = true → pllSel s.clk p = true → pllRamp s.clk p ≤ 2 →
       leads (.rampStep p) s fun t => relocking t.clk p = false ∧ pllSel t.clk p = true ∧ pllRamp t.clk p = 1
         ∧ sameBut [.clk] s t)
  ∧ (∀ (s : State) (p : Pll), mainUp s = true → relocking s.clk p = true → pllSel s.clk p = false →
       exec (.relockFail p) s = .next (lossActions (s.setClk (losePll (s.mode.annCause = 1) s.clk p))))
  ∧ (∀ (s : State),
       (losePll true s.clk .a).lolA = true ∧ (losePll true s.clk .a).selA = false ∧ (losePll true s.clk .a).lockA = false
         ∧ relocking (losePll true s.clk .a) .a = false ∧ (losePll true s.clk .b).lolB = true
         ∧ (losePll true s.clk .b).selB = false ∧ (losePll true s.clk .b).lockB = false
         ∧ relocking (losePll true s.clk .b) .b = false)

/-- A loss of lock of a locked PLL, and a loss of XA, put the domains on FIRC with the loss flags set and perform the
actions of a loss of lock; these set SERVICE-HOLD, assert ALARM_N, park both CAN controllers, stop SPI1 and end a
flash command, and leave the clock settings, the vault slots and the fuse cells; a loss of a PLL that is not locked
changes nothing; after a loss of XA the shadows hold the fallback rows and no relock runs; DEGRADE sets its bit.
(05_clocks.md.) -/
def Obligations.ClockLosses : Prop :=
  (∀ (s : State) (b : Bool), mainUp s = true → s.clk.lockA = true → (b && s.clk.lockB) = false →
       exec (.lossOfLock true b) s = .next (lossActions (s.setClk (losePll (s.mode.annCause = 1) s.clk .a))))
  ∧ (∀ (s : State) (a : Bool), mainUp s = true → s.clk.lockB = true → (a && s.clk.lockA) = false →
       exec (.lossOfLock a true) s = .next (lossActions (s.setClk (losePll (s.mode.annCause = 1) s.clk .b))))
  ∧ (∀ (s : State), mainUp s = true → s.clk.lockA = true → s.clk.lockB = true →
       exec (.lossOfLock true true) s = .next (lossActions (s.setClk (losePll (s.mode.annCause = 1) (losePll (s.mode.annCause = 1) s.clk .a) .b))))
  ∧ (∀ (s : State) (a b : Bool), (a && s.clk.lockA) = false → (b && s.clk.lockB) = false →
       exec (.lossOfLock a b) s = .next s)
  ∧ (∀ (s : State), mainUp s = true → s.clk.xaUsed = true → s.clk.xaFb = false →
       leads .xaLost s fun t => t.clk.xaLost = true ∧ t.clk.xaFb = true ∧ t.clk.selA = false ∧ t.clk.selB = false
         ∧ t.clk.lockA = false ∧ t.clk.lockB = false ∧ t.clk.lolA = true ∧ t.clk.lolB = true
         ∧ t.clk.pllA = { prediv := 1, odiv := 2, ndiv := 50 } ∧ t.clk.pllB = { prediv := 1, odiv := 5, ndiv := 75 }
         ∧ t.clk.div = {} ∧ relocking t.clk .a = false ∧ relocking t.clk .b = false ∧ t.glb.fircTb = true ∧ t.mode.hold = true
         ∧ Alarm.lol.num ∈ t.tmp.alarm ∧ t.vlt.slots = s.vlt.slots ∧ t.fus = s.fus)
  ∧ (∀ (s : State), s.clk.xaFb = true →
       exec .xaLost s = .next s)
  ∧ (∀ (s : State),
       (lossActions s).mode.hold = true ∧ Alarm.lol.num ∈ (lossActions s).tmp.alarm ∧ (lossActions s).clk = s.clk
         ∧ (lossActions s).can0 = parkCan s.can0 ∧ (lossActions s).can1 = parkCan s.can1 ∧ (lossActions s).spi1.stopped = true
         ∧ (lossActions s).spi0.cur = none ∧ (lossActions s).vlt.slots = s.vlt.slots ∧ (lossActions s).fus = s.fus)
  ∧ (∀ (s : State), mainUp s = true →
       exec .degrade s = .next (s.setClk { s.clk with degrade := true }))

/-- A tail write on a page that is not live has no effect; on a ring that does not run it is counted; a value of
65,536 or more, or one that publishes more than the ring holds, stops the ring with its error; the present tail again
has no effect; a valid tail is observed, and on a TRIP ring each entry it publishes becomes a candidate, admitted at
once when a token, its ceiling and its ring allow it and carried otherwise, in the order of the functions and rings
among the doorbells of one count. In DIM the doorbell is a wake trigger with cause 6, and it cancels a DIM entry that
is pending. (14_host_rings.md, 02_beacon_tick.md.) -/
def Obligations.Doorbells : Prop :=
  (∀ (s : State) (fn : Fin 16) (r : Fin 8) (v : Word), doorbellSeen s fn = false →
       exec (.sqTail fn r v) s = .next s)
  ∧ (∀ (s : State) (fn : Fin 16) (r : Fin 8) (v : Word), doorbellSeen s fn = true → s.mode.mode ≠ .dim →
       s.mode.dimPend = none → ringRuns (getRing s (ringKey fn r)) = false →
       exec (.sqTail fn r v) s = .next (setRing s (ringKey fn r) { (getRing s (ringKey fn r)) with lost := satInc 0xFFFF (getRing s (ringKey fn r)).lost }))
  ∧ (∀ (s : State) (fn : Fin 16) (r : Fin 8) (v : Word), doorbellSeen s fn = true → s.mode.mode ≠ .dim →
       s.mode.dimPend = none → ringRuns (getRing s (ringKey fn r)) = true → 65536 ≤ v.toNat →
       exec (.sqTail fn r v) s = .next (ringStop s (ringKey fn r) 1))
  ∧ (∀ (s : State) (fn : Fin 16) (r : Fin 8) (v : Word), doorbellSeen s fn = true → s.mode.mode ≠ .dim →
       s.mode.dimPend = none → ringRuns (getRing s (ringKey fn r)) = true → v.toNat < 65536 →
       BitVec.ofNat 16 v.toNat = (getRing s (ringKey fn r)).obs →
       exec (.sqTail fn r v) s = .next s)
  ∧ (∀ (s : State) (fn : Fin 16) (r : Fin 8) (v : Word), doorbellSeen s fn = true → s.mode.mode ≠ .dim →
       s.mode.dimPend = none → ringRuns (getRing s (ringKey fn r)) = true → v.toNat < 65536 →
       BitVec.ofNat 16 v.toNat ≠ (getRing s (ringKey fn r)).obs →
       tailValid (getRing s (ringKey fn r)) (BitVec.ofNat 16 v.toNat) = true → (getRing s (ringKey fn r)).cls ≠ 0 →
       exec (.sqTail fn r v) s = .next (setRing s (ringKey fn r) { (getRing s (ringKey fn r)) with obs := BitVec.ofNat 16 v.toNat, changed := true }))
  ∧ (∀ (s : State) (fn : Fin 16) (r : Fin 8) (v : Word), doorbellSeen s fn = true → s.mode.mode ≠ .dim →
       s.mode.dimPend = none → ringRuns (getRing s (ringKey fn r)) = true → v.toNat < 65536 →
       BitVec.ofNat 16 v.toNat ≠ (getRing s (ringKey fn r)).obs →
       tailValid (getRing s (ringKey fn r)) (BitVec.ofNat 16 v.toNat) = true → (getRing s (ringKey fn r)).cls = 0 →
       exec (.sqTail fn r v) s = .next (observeAll (setRing s (ringKey fn r) { (getRing s (ringKey fn r)) with obs := BitVec.ofNat 16 v.toNat, changed := true })
         (doorbellCands fn r (now s) (idxSub (BitVec.ofNat 16 v.toNat) (getRing s (ringKey fn r)).obs) (getRing s (ringKey fn r)).obs)))
  ∧ (∀ (s : State) (fn : Fin 16) (r : Fin 8) (v : Word), doorbellSeen s fn = true → s.mode.mode ≠ .dim →
       s.mode.dimPend = none → ringRuns (getRing s (ringKey fn r)) = true → v.toNat < 65536 →
       BitVec.ofNat 16 v.toNat ≠ (getRing s (ringKey fn r)).obs →
       tailValid (getRing s (ringKey fn r)) (BitVec.ofNat 16 v.toNat) = false →
       exec (.sqTail fn r v) s = .next (ringStop s (ringKey fn r) 1))
  ∧ (∀ (s : State) (l : List Cand), seenNow s = [] →
       observeAll s l = (candSort s l).foldl observe (unsee s))
  ∧ (∀ (s : State) (c : Cand), ringCarried s c = false → canAdmit s c.fn c.ring = true →
       (observe s c).glb.tokens = s.glb.tokens - 1 ∧ tget 0 (observe s c).glb.used c.fn = tget 0 s.glb.used c.fn + 1
         ∧ (observe s c).hif.trips.map (fun t => (t.fn, t.ring, t.slot, t.adm, t.obs))
           = s.hif.trips.map (fun t => (t.fn, t.ring, t.slot, t.adm, t.obs)) ++ [(c.fn, c.ring, c.slot, now s, c.obs)]
         ∧ (observe s c).glb.carried = s.glb.carried)
  ∧ (∀ (s : State) (c : Cand), ringCarried s c = true ∨ canAdmit s c.fn c.ring = false →
       observe s c = s.setGlb { s.glb with carried := s.glb.carried ++ [c] })
  ∧ (∀ (s : State) (fn ring : Nat),
       s.mode.hold = true ∨ s.glb.tokens = 0 ∨ capOf s fn ≤ tget 0 s.glb.used fn ∨ ringRuns (getRing s (ringKey fn ring)) = false →
       canAdmit s fn ring = false)
  ∧ (∀ (s : State) (k err : Nat),
       (getRing (ringStop s k err) k).state = 2 ∧ (getRing (ringStop s k err) k).err = err)
  ∧ (∀ (s : State) (fn : Fin 16) (r : Fin 8) (v : Word), doorbellSeen s fn = true → s.mode.mode = .dim →
       s.mode.wake = none →
       leads (.sqTail fn r v) s fun t => t.mode.mode = .dim ∧ t.mode.wake = some (now s) ∧ t.mode.wakeCause = 6 ∧ t.rng.run = true)
  ∧ (∀ (s : State) (fn : Fin 16) (r : Fin 8) (v : Word), doorbellSeen s fn = true → s.mode.dimPend.isSome = true →
       leads (.sqTail fn r v) s fun t => t.mode.dimPend = none ∧ t.mode.cause = 0x0F ∧ t.mode.mode = s.mode.mode)

/-- A descriptor that a firmware-class ring may fetch advances CONS and meets the checks of a descriptor: it is
staged, completes with the status of the check that fails, completes with DUP of a stored completion, completes with
BAD_DESC on a request ID used with another descriptor, or follows the running descriptor it repeats. Firmware takes
the oldest staged one. A failed descriptor read, of a trip too, stops its ring with SQ_READ, and a failed buffer read
completes its descriptor with ABORTED. (14_host_rings.md.) -/
def Obligations.Fetches : Prop :=
  (∀ (s : State) (fn : Fin 16) (r : Fin 8) (d : Bytes), canFetch s fn r = false →
       exec (.descFetchComplete fn r d) s = .next s)
  ∧ (∀ (s : State) (fn : Fin 16) (r : Fin 8) (d : Bytes), canFetch s fn r = true →
       exec (.descFetchComplete fn r d) s = .next (match verdict (consStep s (ringKey fn r)) (ringKey fn r) fn (getRing s (ringKey fn r)).cls (slice d 0 64) with
         | .dup c => formUnstored (consStep s (ringKey fn r)) (ringKey fn r) (dupOf c (getRing s (ringKey fn r)).cons (dNoIrq (slice d 0 64)))
         | .refuse st => refuseDesc (consStep s (ringKey fn r)) (ringKey fn r) (getRing s (ringKey fn r)).cons (slice d 0 64) st
         | .bad => formUnstored (consStep s (ringKey fn r)) (ringKey fn r) (stampCpl (consStep s (ringKey fn r)) (cplOf (slice d 0 64) (getRing s (ringKey fn r)).cons 0x11))
         | .behind => attachDup (consStep s (ringKey fn r)) (ringKey fn r) (getRing s (ringKey fn r)).cons (slice d 0 64)
         | .run => stage (consStep s (ringKey fn r)) (ringKey fn r) (getRing s (ringKey fn r)).cons (slice d 0 64)))
  ∧ (∀ (s : State) (k fn cls : Nat) (d : Bytes), idCheck s k d = .run → descCheck s fn cls d = none →
       verdict s k fn cls d = .run)
  ∧ (∀ (s : State) (k fn cls : Nat) (d : Bytes) (n : Nat), idCheck s k d = .run → descCheck s fn cls d = some n →
       verdict s k fn cls d = .refuse n)
  ∧ (∀ (s : State) (fn cls : Nat) (d : Bytes), rowOf (dOp d) = none →
       descCheck s fn cls d = some 0x11)
  ∧ (∀ (s : State) (k : Nat) (slot : Half) (t : List (Nat × Half)) (x : Staged), s.hif.stgOrder = (k, slot) :: t →
       (getRing s k).staged.find? (·.slot = slot) = some x →
       exec .hifStgTake s = .next ((setRing (s.setHif { s.hif with stgOrder := t }) k { getRing s k with staged := (getRing s k).staged.erase x, running := (getRing s k).running ++ [x] }).setHif { (setRing (s.setHif { s.hif with stgOrder := t }) k { getRing s k with staged := (getRing s k).staged.erase x, running := (getRing s k).running ++ [x] }).hif with taken := s.hif.taken.filter (· ≠ (k, slot)) ++ [(k, slot)] }))
  ∧ (∀ (s : State), s.hif.stgOrder = [] →
       exec .hifStgTake s = .next s)
  ∧ (∀ (s : State) (fn : Fin 16) (r : Fin 8) (slot : Half), s.hif.trips = [] → s.glb.overruns = [] →
       canFetch s fn r = true → (getRing s (ringKey fn r)).cons = slot →
       exec (.hostReadError fn r slot) s = .next (ringStop s (ringKey fn r) 2))
  ∧ (∀ (s : State) (fn : Fin 16) (r : Fin 8) (slot : Half) (x : Staged), s.hif.trips = [] → s.glb.overruns = [] →
       canFetch s fn r = false → runningAt s (ringKey fn r) slot = some x → s.hif.waits = [] →
       exec (.hostReadError fn r slot) s = .next (endRunning s (ringKey fn r) x (cplOf x.desc slot 0x21)))
  ∧ (∀ (s : State) (fn : Fin 16) (r : Fin 8) (d : Bytes), canFetch s fn r = true →
       verdict (consStep s (ringKey fn r)) (ringKey fn r) fn (getRing s (ringKey fn r)).cls (slice d 0 64) = .run →
       leads (.descFetchComplete fn r d) s fun t => (getRing t (ringKey fn r)).cons = (getRing s (ringKey fn r)).cons + 1
         ∧ (getRing t (ringKey fn r)).staged = (getRing s (ringKey fn r)).staged ++ [{ slot := (getRing s (ringKey fn r)).cons, desc := slice d 0 64 }]
         ∧ t.hif.stgOrder = s.hif.stgOrder ++ [(ringKey fn r, (getRing s (ringKey fn r)).cons)] ∧ t.hif.out = s.hif.out ∧ sameBut [.hif] s t)
  ∧ (∀ (s : State) (fn : Fin 16) (r : Fin 8) (slot : Half) (t : Trip),
       s.hif.trips.find? (fun t => t.fn = fn.val && t.ring = r.val && t.slot = slot) = some t → t.desc = none →
       exec (.hostReadError fn r slot) s = .next (ringStop (tripsCut s fn r slot) (ringKey fn r) 2))
  ∧ (∀ (s : State) (fn : Fin 16) (r : Fin 8) (slot : Half), s.hif.trips = [] →
       s.glb.overruns.any (fun c => c.fn = fn.val && c.ring = r.val && c.slot = slot) = true →
       exec (.hostReadError fn r slot) s = .next (ringStop s (ringKey fn r) 2))
  ∧ (∀ (s : State) (fn : Fin 16) (r : Fin 8) (slot : Half) (t : Trip) (x : Staged) (d : Bytes),
       s.hif.trips.find? (fun t => t.fn = fn.val && t.ring = r.val && t.slot = slot) = some t → t.desc = some d →
       runningAt s (ringKey fn r) slot = some x → (tripReady s fn r slot).isSome = true →
       exec (.hostReadError fn r slot) s = .next (tripEnd s t x (cplOf x.desc slot 0x21)))

/-- A completion of a running descriptor removes it, enters the request-ID store, carries the present tick and count,
and unless it was silenced is delivered; it is written to the CQ entry at the write index with the phase of the pass
when there is space and nothing is held, the index moves by 1, and otherwise it is held, behind the one that waits;
CQ_HEAD frees space and held completions follow in order, or, beyond what was written, stops the ring with BAD_CQHEAD;
HIF_CPL_GO completes the taken descriptor that its context, which is no TRIP ring's, its slot and its request ID name,
with TAMPER once a Snuff has started, and otherwise forms nothing. (14_host_rings.md, 02_beacon_tick.md.) -/
def Obligations.Completions : Prop :=
  (∀ (s : State) (k : Nat) (x : Staged) (c : Cpl),
       endRunning s k x c = formCpl (countOk (setRing s k { getRing s k with running := (getRing s k).running.erase x }) k c (dLen x.desc)) k
         (dHash x.desc) (dupList x) x.muted c)
  ∧ (∀ (s : State) (k : Nat) (hash : Bytes) (c : Cpl),
       formCpl s k hash [] true c = setRing s k { getRing s k with store := storePut (getRing s k).store ⟨hash, { c with tick := s.glb.tick, count := s.glb.sub }⟩ })
  ∧ (∀ (s : State) (k : Nat) (c : Cpl), cqSpace (getRing s k) = true → (getRing s k).holding = [] →
       fltActive s k = false → s.hif.reorder = [] → (getRing s k).irq ≠ 0 →
       (deliverCpl s k c).hif.out = s.hif.out ++ [.cpl (k / 8) (k % 8) ((getRing s k).cqw.toNat % ringSize (getRing s k)) (cqPhase (getRing s k)) (cplBytes c (cqPhase (getRing s k)))]
         ∧ (getRing (deliverCpl s k c) k).cqw = (getRing s k).cqw + 1 ∧ (getRing (deliverCpl s k c) k).holding = []
         ∧ sameBut [.hif] s (deliverCpl s k c))
  ∧ (∀ (s : State) (k : Nat) (c : Cpl), cqSpace (getRing s k) = false ∨ (getRing s k).holding ≠ [] →
       (getRing (deliverCpl s k c) k).holding = holdPut { c with held := true } (getRing s k).holding ∧ (deliverCpl s k c).hif.out = s.hif.out)
  ∧ (∀ (s : State) (fn : Fin 16) (r : Fin 8) (v : Word), pageLive s fn = true →
       (getRing s (ringKey fn r)).en = true →
       ringSize (getRing s (ringKey fn r)) < idxSub (getRing s (ringKey fn r)).cqw (BitVec.ofNat 16 v.toNat) →
       exec (.cqHead fn r v) s = .next (ringStop s (ringKey fn r) 4))
  ∧ (∀ (s : State) (fn : Fin 16) (r : Fin 8) (v : Word), pageLive s fn = true →
       (getRing s (ringKey fn r)).en = true →
       idxSub (getRing s (ringKey fn r)).cqw (BitVec.ofNat 16 v.toNat) ≤ ringSize (getRing s (ringKey fn r)) →
       exec (.cqHead fn r v) s = .next (drainHeld (setRing s (ringKey fn r) { (getRing s (ringKey fn r)) with cqHead := BitVec.ofNat 16 v.toNat, headWr := true }) (ringKey fn r) (getRing s (ringKey fn r)).holding.length))
  ∧ (∀ (s : State) (k n : Nat) (c : Cpl) (t : List Cpl), (getRing s k).holding = c :: t →
       cqSpace (getRing s k) = true →
       drainHeld s k (n + 1) = drainHeld (emitCpl (setRing s k { getRing s k with holding := t }) k c) k n)
  ∧ (∀ (s : State) (v : Word) (k : Nat) (x : Staged),
       (List.range 128).find? (fun k => (getRing s k).en && (getRing s k).cls ≠ 0 && (getRing s k).ctx = fld v 0 16) = some k →
       (getRing s k).running.find? (fun x => x.slot = (cplRegs s).slot && dReq x.desc = (cplRegs s).reqId) = some x →
       s.tmp.trig = none →
       exec (.hifCplGo v) s = .next (endRunning s k x { cplRegs s with noIrq := dNoIrq x.desc }))
  ∧ (∀ (s : State) (v : Word),
       (List.range 128).find? (fun k => (getRing s k).en && (getRing s k).cls ≠ 0 && (getRing s k).ctx = fld v 0 16) = none →
       exec (.hifCplGo v) s = .next (logOther s .hif (leBytes 4 0x060)))
  ∧ (∀ (s : State) (v : Word) (k : Nat),
       (List.range 128).find? (fun k => (getRing s k).en && (getRing s k).cls ≠ 0 && (getRing s k).ctx = fld v 0 16) = some k →
       (getRing s k).running.find? (fun x => x.slot = (cplRegs s).slot && dReq x.desc = (cplRegs s).reqId) = none →
       exec (.hifCplGo v) s = .next (logOther s .hif (leBytes 4 0x060)))
  ∧ (∀ (s : State) (v : Word) (k : Nat) (x : Staged),
       (List.range 128).find? (fun k => (getRing s k).en && (getRing s k).cls ≠ 0 && (getRing s k).ctx = fld v 0 16) = some k →
       (getRing s k).running.find? (fun x => x.slot = (cplRegs s).slot && dReq x.desc = (cplRegs s).reqId) = some x →
       s.tmp.trig.isSome = true →
       exec (.hifCplGo v) s = .next (endRunning s k x (cplOf x.desc x.slot 0x3F)))
  ∧ (∀ (s : State) (fn : Fin 16) (r : Fin 8) (v : Word),
       pageLive s fn = false ∨ (getRing s (ringKey fn r)).en = false →
       exec (.cqHead fn r v) s = .next s)
  ∧ (∀ (c h : Cpl) (t : List Cpl),
       holdPut c [] = [c] ∧ (holdPut c (h :: t)).head? = some h ∧ (holdPut c (h :: t)).length = t.length + 2)

/-- An enable of a ring with a legal block, within the allowance of its function, clears its indices and starts it in
the lowest free context; an illegal block leaves it disabled with BAD_CFG, no allowance with QUOTA, each with the
vector of ring errors; a ring reset disables it, drops what is staged, carried or held, and silences what runs,
without any completion leaving the device. An FLR of a function that is there, and its return from D3hot, reset its
rings, stores, table, mailbox and counters, and of the PF also VF Enable; D3hot only sets the power state, in which no
descriptor is fetched or admitted and no doorbell observed; an endpoint reset clears every function and the link; a
legal training sets the link, with Extended Tag Field Enable as the host sets it; VF Enable with a legal NumVFs in
SERVICE, DIM and DEBUG sets both, and its clearing drops VF Enable and resets every VF (the reset is PRESUMED from
SR-IOV, log 109). (14_host_rings.md, 04_power_reset_kindle.md, 03_modes_and_lifecycle.md.) -/
def Obligations.RingsAndFunctions : Prop :=
  (∀ (s : State) (fn : Fin 16) (r : Fin 8), pageLive s fn = true → (getRing s (ringKey fn r)).en = false →
       ringCfgOk (getRing s (ringKey fn r)) = true → enabledOf s fn < s.hif.alloc.getD fn 0 → enabledRings s < 64 →
       exec (.ringEnable fn r) s = .next (setRing s (ringKey fn r) { (getRing s (ringKey fn r)) with en := true, state := 0, err := 0, obs := 0, cons := 0, cqw := 0, cqHead := 0, ctx := freeCtx s, holding := [], wrote := false, headWr := false, changed := true }))
  ∧ (∀ (s : State) (fn : Fin 16) (r : Fin 8), pageLive s fn = true → (getRing s (ringKey fn r)).en = false →
       ringCfgOk (getRing s (ringKey fn r)) = false →
       exec (.ringEnable fn r) s = .next (irq (setRing s (ringKey fn r) { (getRing s (ringKey fn r)) with err := 3 }) fn 9))
  ∧ (∀ (s : State) (fn : Fin 16) (r : Fin 8), pageLive s fn = true → (getRing s (ringKey fn r)).en = false →
       ringCfgOk (getRing s (ringKey fn r)) = true → s.hif.alloc.getD fn 0 ≤ enabledOf s fn →
       exec (.ringEnable fn r) s = .next (irq (setRing s (ringKey fn r) { (getRing s (ringKey fn r)) with err := 5 }) fn 9))
  ∧ (∀ (s : State) (fn : Fin 16) (r : Fin 8), pageLive s fn = true →
       leads (.ringReset fn r) s fun t => (getRing t (ringKey fn r)).en = false ∧ (getRing t (ringKey fn r)).state = 1 ∧ (getRing t (ringKey fn r)).err = 0 ∧ (getRing t (ringKey fn r)).staged = []
         ∧ (getRing t (ringKey fn r)).holding = [] ∧ (getRing t (ringKey fn r)).running = (getRing s (ringKey fn r)).running.map (fun x => { x with muted := true })
         ∧ (getRing t (ringKey fn r)).store = (getRing s (ringKey fn r)).store ∧ t.hif.out = s.hif.out ∧ t.glb.carried = s.glb.carried.filter (fun c => !(c.fn = fn.val && c.ring = r.val)))
  ∧ (∀ (s : State) (fn : Fin 16), mainUp s = true → fn ≠ 0 → s.hif.vfEnable = true → fn ≤ s.hif.numVfs →
       exec (.functionLevelReset fn) s = .next (fnClear s fn))
  ∧ (∀ (s : State), mainUp s = true →
       leads (.functionLevelReset 0) s fun t => t.hif.vfEnable = false ∧ getFn t 0 = {} ∧ t.hif.out = (fnClear s 0).hif.out)
  ∧ (∀ (s : State) (fn : Nat),
       getFn (fnClear s fn) fn = {} ∧ (fnClear s fn).hif.trips = (fnRingsClear s fn).hif.trips.filter (fun t => t.fn ≠ fn))
  ∧ (∀ (s : State) (fn r : Nat), r < 8 →
       getRing (fnRingsClear s fn) (ringKey fn r) = { ringD (ringKey fn r) with state := 1 })
  ∧ (∀ (s : State) (fn : Fin 16), fnThere s fn = true →
       exec (.d3hotEntry fn) s = .next (setFn s fn { getFn s fn with d3 := true }))
  ∧ (∀ (s : State) (fn : Fin 16) (r : Nat), (getFn s fn).d3 = true →
       canFetch s fn r = false ∧ canAdmit s fn r = false ∧ doorbellSeen s fn = false)
  ∧ (∀ (s : State) (fn : Fin 16), (getFn s fn).d3 = true →
       exec (.d3hotExit fn) s = exec (.functionLevelReset fn) s)
  ∧ (∀ (s : State) (fn : Fin 16), mainUp s = true → fn ≠ 0 → s.hif.vfEnable = true → fn ≤ s.hif.numVfs →
       (getFn s fn).d3 = true →
       leads (.d3hotExit fn) s fun t => (getFn t fn).d3 = false)
  ∧ (∀ (s : State), mainUp s = true →
       leads .endpointReset s fun t => t.hif.linkUp = false ∧ t.hif.width = 0 ∧ t.hif.speed = 0 ∧ t.hif.vfEnable = false ∧ t.hif.numVfs = 0
         ∧ t.hif.ari = false ∧ t.mode = s.mode ∧ t.vlt = s.vlt)
  ∧ (∀ (s : State) (w p : Nat) (ext : Bool), mainUp s = true → s.hif.linkUp = false → w = 1 ∨ w = 2 → w ≤ fld s.cfg.pcie 0 2 →
       1 ≤ p → p ≤ fld s.cfg.pcie 2 2 →
       exec (.linkUp w p ext) s = .next (s.setHif { s.hif with linkUp := true, width := w, speed := p, extTag := ext }))
  ∧ (∀ (s : State) (n : Nat) (ari : Bool), mainUp s = true → 1 ≤ n → n ≤ totalVfs s → n ≤ 7 ∨ ari = true →
       s.mode.mode = .service ∨ s.mode.mode = .dim ∨ s.mode.mode = .debug →
       exec (.vfEnable true n ari) s = .next (s.setHif { s.hif with ari := ari, vfEnable := true, numVfs := n }))
  ∧ (∀ (s : State) (n : Nat) (ari : Bool), mainUp s = true →
       leads (.vfEnable false n ari) s fun t => t.hif.vfEnable = false ∧ t.hif.ari = ari ∧ t.hif.numVfs = s.hif.numVfs
         ∧ ((List.range 15).map (· + 1)).all (fun f => getFn t f = {}) = true ∧ getFn t 0 = getFn s 0)
  ∧ (∀ (s : State) (fn : Fin 16), fnThere s fn = false →
       exec (.functionLevelReset fn) s = .next s ∧ exec (.d3hotEntry fn) s = .next s)
  ∧ (∀ (s : State) (fn : Fin 16) (r : Fin 8), pageLive s fn = false →
       exec (.ringEnable fn r) s = .next s ∧ exec (.ringReset fn r) s = .next s)

/-- With ARI Capable Hierarchy at 0, a write that sets VF Enable with NumVFs above 7 leaves VF Enable at 0. (R330.) -/
def Obligations.VfEnableNeedsAri : Prop :=
  (∀ (s : State) (n : Nat), 7 < n → s.hif.vfEnable = false →
         leads (.vfEnable true n false) s fun t => t.hif.vfEnable = false ∧ sameBut [.hif] s t)
  ∧ (∀ (s : State) (n : Nat), 7 < n → mainUp s = true →
         leads (.vfEnable true n false) s fun t => t.hif.ari = false ∧ t.hif.vfEnable = s.hif.vfEnable ∧ t.hif.numVfs = s.hif.numVfs)

/-- A HIF_RING_ALLOC write replaces eight allowances, none above 8, when they sum to at most 64 and cover the rings
enabled, and otherwise is discarded with a diagnostics event; SEND of a live VF raises the mailbox interrupt on both
cores, and HIF_MBX_DONE answers each VF it names with REPLY set and vector 8; FLT_CTL.EN starts the register from
FLT_SEED, 0 taken as 1. (14_host_rings.md.) -/
def Obligations.AllowancesMailboxes : Prop :=
  (∀ (s : State) (v : Word), mainUp s = true → (allocWord v ++ s.hif.alloc.drop 8).sum ≤ 64 →
       (∀ f ∈ List.range 16, enabledOf s f ≤ (allocWord v ++ s.hif.alloc.drop 8).getD f 0) →
       exec (.hifRingAlloc 0 v) s = .next (s.setHif { s.hif with alloc := allocWord v ++ s.hif.alloc.drop 8 }))
  ∧ (∀ (s : State) (v : Word), mainUp s = true → (s.hif.alloc.take 8 ++ allocWord v).sum ≤ 64 →
       (∀ f ∈ List.range 16, enabledOf s f ≤ (s.hif.alloc.take 8 ++ allocWord v).getD f 0) →
       exec (.hifRingAlloc 1 v) s = .next (s.setHif { s.hif with alloc := s.hif.alloc.take 8 ++ allocWord v }))
  ∧ (∀ (s : State) (v : Word), mainUp s = true → 64 < (allocWord v ++ s.hif.alloc.drop 8).sum →
       exec (.hifRingAlloc 0 v) s = .next (logOther s .hif (leBytes 4 0x100)))
  ∧ (∀ (v : Word),
       (allocWord v).length = 8 ∧ ∀ x ∈ allocWord v, x ≤ 8)
  ∧ (∀ (s : State) (n : Fin 16), n ≠ 0 → pageLive s n = true →
       exec (.mbxSend n) s = .next (mbxRaise (mbxRaise s n 0) n 1))
  ∧ (∀ (s : State) (n k : Nat), (getCore s k).part = n → (getCore s k).level = .sup ∨ (getCore s k).level = .user →
       (getCore (mbxRaise s n k) k).ipendSup = (getCore s k).ipendSup ||| 4)
  ∧ (∀ (s : State) (n k : Nat), (getCore s k).part ≠ n →
       (getCore (mbxRaise s n k) k).ipendHyp = (getCore s k).ipendHyp ||| BitVec.ofNat 64 (2 ^ (16 + n)))
  ∧ (∀ (s : State) (v : Word), mainUp s = true →
       exec (.hifMbxDone v) s = .next (((bitsOf 16 v.toNat).filter (· ≠ 0)).foldl mbxAnswer s))
  ∧ (∀ (s : State) (n : Nat),
       (getFn (mbxAnswer s n) n).reply = true)
  ∧ (∀ (s : State), mainUp s = true → gateOk s 21 = true →
       exec .fltEn s = .next (s.setFlt { s.flt with en := true, lfsr := if s.flt.seed = 0 then 1 else s.flt.seed }))
  ∧ (∀ (s : State), mainUp s = true → gateOk s 21 = false →
       leads .fltEn s fun t => t.flt = s.flt)

/-- The descriptor of the oldest trip whose read is out is checked at its arrival: one that fails completes with its
status, one that passes runs, and one that a loss of lock or a Snuff has caught completes with that status. A
descriptor that has passed takes the lowest free unit, in admission order; its MAC starts there once its payload has
arrived, with the policy decided on the cached key: a refused one is squashed with no output. At its end a committed
result, with its key-load record, writes its tag and completes with its status, a verification completes with its
outcome and no output, the unit is free again, and the counters tell commits from squashes; none ends once a Snuff is
triggered. An overrun candidate completes with TICK_OVERRUN. (02_beacon_tick.md, 12_crypto_engines.md,
14_host_rings.md.) -/
def Obligations.TripAdmission : Prop :=
  (∀ (s : State) (fn : Fin 16) (r : Fin 8) (d : Bytes), tripWaiting s fn r = none →
       exec (.tripDescArrival fn r d) s = .next s)
  ∧ (∀ (s : State) (fn : Fin 16) (r : Fin 8) (d : Bytes) (t : Trip), tripWaiting s fn r = some t →
       t.muted = false → t.ends = 0 → s.tmp.trig = none →
       verdict (consStep s (ringKey fn r)) (ringKey fn r) fn 0 (slice d 0 64) = .run →
       tripCheck (consStep s (ringKey fn r)) (slice d 0 64) = some 0x12 →
       exec (.tripDescArrival fn r d) s = .next (refuseDesc (tripLat (tripDrop (consStep s (ringKey fn r)) fn r t.slot) (ringKey fn r) t.adm) (ringKey fn r) t.slot (slice d 0 64) 0x12))
  ∧ (∀ (s : State) (fn : Fin 16) (r : Fin 8) (d : Bytes) (t : Trip), tripWaiting s fn r = some t →
       t.muted = false → t.ends ≠ 0 → s.tmp.trig = none →
       exec (.tripDescArrival fn r d) s = .next (refuseDesc (tripDrop (consStep s (ringKey fn r)) fn r t.slot) (ringKey fn r) t.slot (slice d 0 64) t.ends))
  ∧ (∀ (s : State) (fn : Fin 16) (r : Fin 8) (d : Bytes) (t : Trip), tripWaiting s fn r = some t →
       t.muted = false → s.tmp.trig.isSome = true →
       exec (.tripDescArrival fn r d) s = .next (refuseDesc (tripDrop (consStep s (ringKey fn r)) fn r t.slot) (ringKey fn r) t.slot (slice d 0 64) 0x3F))
  ∧ (∀ (s : State) (fn r : Nat) (slot : Half),
       (tripDrop s fn r slot).hif.trips.any (isTrip fn r slot) = false
         ∧ (tripDrop s fn r slot).hif.trips.length = (s.hif.trips.filter (fun t => !(isTrip fn r slot t))).length
         ∧ (tripDrop s fn r slot).hif.rings = s.hif.rings ∧ sameBut [.hif] s (tripDrop s fn r slot))
  ∧ (∀ (s : State) (fn : Fin 16) (r : Fin 8) (d : Bytes) (t : Trip), tripWaiting s fn r = some t →
       t.muted = false → t.ends = 0 → s.tmp.trig = none →
       verdict (consStep s (ringKey fn r)) (ringKey fn r) fn 0 (slice d 0 64) = .run →
       tripCheck (consStep s (ringKey fn r)) (slice d 0 64) = none →
       leads (.tripDescArrival fn r d) s fun u => (getRing u (ringKey fn r)).running = (getRing s (ringKey fn r)).running ++ [{ slot := t.slot, desc := slice d 0 64, muted := false }]
         ∧ (getRing u (ringKey fn r)).cons = (getRing s (ringKey fn r)).cons + 1
         ∧ u.hif.trips.map (fun y => (y.fn, y.ring, y.slot, y.desc)) = s.hif.trips.map (fun y => (y.fn, y.ring, y.slot, if y = t then some (slice d 0 64) else y.desc))
         ∧ u.hif.out = s.hif.out ∧ sameBut [.hif] s u)
  ∧ (∀ (s : State) (t : Trip) (u : Nat), s.hif.trips.find? (fun t => t.desc.isSome && t.unit.isNone && t.ends = 0) = some t →
       freeUnit s = some u →
       assignUnit s = s.setHif { s.hif with trips := s.hif.trips.map (fun y => if isTrip t.fn t.ring t.slot y && y.unit.isNone then { y with unit := some u } else y) })
  ∧ (∀ (s : State) (u v : Nat), freeUnit s = some u →
       unitBusy s u = false ∧ u < 6 ∧ (v < u → unitBusy s v = true))
  ∧ (∀ (s : State) (fn : Fin 16) (r : Fin 8) (slot : Half) (msg aux : Bytes) (t : Trip) (d : Bytes) (u : Nat),
       tripReady (assignUnits s) fn r slot = some (t, d) → t.unit = some u → s.tmp.trig = none →
       leads (.tripMacStart fn r slot msg aux) s fun v =>
         v.eng = { s.eng with units := tput none s.eng.units u (some (macJob (assignUnits s) t d msg aux)) }
         ∧ v.hif.rings = s.hif.rings ∧ v.hif.out = s.hif.out ∧ sameBut [.eng, .hif] s v)
  ∧ (∀ (s : State) (fn : Fin 16) (r : Fin 8) (slot : Half) (msg aux : Bytes) (t : Trip) (d : Bytes),
       tripReady (assignUnits s) fn r slot = some (t, d) → t.unit = none →
       exec (.tripMacStart fn r slot msg aux) s = .next (assignUnits s))
  ∧ (∀ (s : State) (t : Trip) (d msg aux : Bytes) (e : CacheEnt), fastEntry s (dKey d) = some e → policy s t.fn (dOp d) e = 0 →
       isVerify (dOp d) = false →
       macJob s t d msg aux = { fn := t.fn, ring := t.ring, slot := t.slot, cpl := 0, tag := (fastMac (dOp d) e.mat (slice msg 0 (dLen d)) (slice aux 0 (dAuxLen d))).take (dTag d), vfy := false, len := dLen d, out := BitVec.ofNat 64 (dOut d), adm := t.adm, squash := false, holds := some e.slot })
  ∧ (∀ (s : State) (t : Trip) (d msg aux : Bytes) (e : CacheEnt), fastEntry s (dKey d) = some e → policy s t.fn (dOp d) e = 0 →
       isVerify (dOp d) = true →
       macJob s t d msg aux = { fn := t.fn, ring := t.ring, slot := t.slot, cpl := 0, tag := [], vfy := (fastMac (dOp d) e.mat (slice msg 0 (dLen d)) (slice aux 0 (dAuxLen d))).take (dTag d) = fastExpected (dOp d) (slice aux 0 (dAuxLen d)), len := dLen d, out := BitVec.ofNat 64 (dOut d), adm := t.adm, squash := false, holds := some e.slot })
  ∧ (∀ (s : State) (t : Trip) (d msg aux : Bytes) (e : CacheEnt), fastEntry s (dKey d) = some e → policy s t.fn (dOp d) e ≠ 0 →
       macJob s t d msg aux = { fn := t.fn, ring := t.ring, slot := t.slot, cpl := policy s t.fn (dOp d) e, tag := [], vfy := false, len := dLen d, out := BitVec.ofNat 64 (dOut d), adm := t.adm, squash := true, holds := some e.slot })
  ∧ (∀ (s : State) (u : Fin 6), s.tmp.trig.isSome = true ∨ tget none s.eng.units u = none →
       exec (.tripMacEnd u) s = .next s)
  ∧ (∀ (s : State) (u : Fin 6) (j : MacJob) (t : Trip) (x : Staged) (n : Nat), s.tmp.trig = none →
       tget none s.eng.units u = some j → s.hif.trips.find? (isTrip j.fn j.ring j.slot) = some t →
       runningAt s (ringKey j.fn j.ring) j.slot = some x → j.squash = false → j.holds = some n → j.tag ≠ [] →
       exec (.tripMacEnd u) s = .next (tripEnd (emitOut (logDW (s.setEng { s.eng with units := tput none s.eng.units u none, fpCnt := satInc 0xFFFFFFFF s.eng.fpCnt }) .eng 1 (whoFn j.fn) (leBytes 4 n ++ leBytes 4 6)) (.data j.out j.tag)) t x
         { cplOf x.desc j.slot j.cpl with vfy := j.vfy, outLen := wordOf j.tag.length }))
  ∧ (∀ (s : State) (u : Fin 6) (j : MacJob) (t : Trip) (x : Staged) (n : Nat), s.tmp.trig = none →
       tget none s.eng.units u = some j → s.hif.trips.find? (isTrip j.fn j.ring j.slot) = some t →
       runningAt s (ringKey j.fn j.ring) j.slot = some x → j.squash = false → j.holds = some n → j.tag = [] →
       exec (.tripMacEnd u) s = .next (tripEnd (logDW (s.setEng { s.eng with units := tput none s.eng.units u none, fpCnt := satInc 0xFFFFFFFF s.eng.fpCnt }) .eng 1 (whoFn j.fn) (leBytes 4 n ++ leBytes 4 6)) t x
         { cplOf x.desc j.slot j.cpl with vfy := j.vfy, outLen := 0 }))
  ∧ (∀ (s : State) (u : Fin 6) (j : MacJob) (t : Trip) (x : Staged), s.tmp.trig = none →
       tget none s.eng.units u = some j → s.hif.trips.find? (isTrip j.fn j.ring j.slot) = some t →
       runningAt s (ringKey j.fn j.ring) j.slot = some x → j.squash = true → j.tag = [] →
       exec (.tripMacEnd u) s = .next (tripEnd (s.setEng { s.eng with units := tput none s.eng.units u none, fpSq := satInc 0xFFFFFFFF s.eng.fpSq }) t x
         { cplOf x.desc j.slot j.cpl with vfy := j.vfy, outLen := 0 }))
  ∧ (∀ (s : State) (fn : Fin 16) (r : Fin 8) (d : Bytes) (k : Cand),
       s.glb.overruns.find? (fun c => c.fn = fn.val && c.ring = r.val) = some k → tripServed s = true →
       ringOpen s fn r = true → sharedTag s = true → (getRing s (ringKey fn r)).holding.length < 32 →
       exec (.tickOverrun fn r d) s = .next (refuseDesc (consStep (s.setGlb { s.glb with overruns := s.glb.overruns.erase k, overrun := satInc 0xFF s.glb.overrun }) (ringKey fn r)) (ringKey fn r) k.slot (slice d 0 64) 0x22))
  ∧ (∀ (s : State) (k : Nat) (slot : Half) (d : Bytes) (st : Nat),
       (getRing (refuseDesc s k slot d st) k).store = storePut (getRing s k).store ⟨dHash d, { cplOf d slot st with tick := s.glb.tick, count := s.glb.sub }⟩)

/-- A window other than a debug switch is in force from the edge of START once the trip descriptors in flight have
completed, with the pause of an activation where it announces one; at the edge of START + LEN it ends, its
announcement is cleared and the carried candidates are admitted; while one is in force, or due, nothing is admitted.
An activation in trial is confirmed at its tick, with the raise that was asked for. A pending DIM entry is cancelled
by the last of its edges; a wake is noted in DIM with its time and starts the entropy source, and its completion leads
to SERVICE with the clocks back, under SERVICE-HOLD with the engine gated where one fails its test. The debug switch
runs its steps at its edge, and none while debug counts as disabled. (02_beacon_tick.md, 03_modes_and_lifecycle.md,
04_power_reset_kindle.md, 19_firmware_update.md.) -/
def Obligations.Windows : Prop :=
  (∀ (s : State), mainUp s = true → windowDue s = true → s.mode.annCause = 1 → s.hif.trips = [] →
       exec .announceWindowStart s = .next (logMode (s.setMode { s.mode with annIn := true })))
  ∧ (∀ (s : State), mainUp s = true → windowDue s = true → s.mode.annCause = 2 ∨ s.mode.annCause = 3 →
       s.hif.trips = [] →
       exec .announceWindowStart s = .next (activationRun (logMode (s.setMode { s.mode with annIn := true })) (s.mode.annCause - 2)))
  ∧ (∀ (s : State), windowDue s = false ∨ s.hif.trips ≠ [] →
       exec .announceWindowStart s = .next s)
  ∧ (∀ (s : State), mainUp s = true → windowInForce s = true →
       tickReached (s.mode.annStart + wordOf s.mode.annLen) s.glb.tick = true →
       exec .announceWindowEnd s = .next (admitCarried (annClear (relockOver (windowEnds s)))))
  ∧ (∀ (s : State),
       (annClear s).mode.annCause = 0 ∧ (annClear s).mode.annLen = 0 ∧ (annClear s).mode.annIn = false ∧ (annClear s).mode.annStart = s.mode.annStart)
  ∧ (∀ (s : State) (f r : Nat), windowInForce s = true ∨ windowDue s = true →
       canAdmit s f r = false)
  ∧ (∀ (s : State) (t : Word) (f p : Img), mainUp s = true → s.upd.confirmAt = some t → s.upd.runSf = some f →
       s.upd.runPr = some p → s.upd.trial = true → tickReached t s.glb.tick = true → s.upd.actRaise = false →
       exec .activationConfirm s = .next ((recWrite s f.slot p.slot 2 s.upd.schema).setUpd { (recWrite s f.slot p.slot 2 s.upd.schema).upd with trial := false, confirmAt := none, actRaise := false }))
  ∧ (∀ (s : State), mainUp s = true → s.mode.dimPend = some 0 →
       exec .dimEntryCancel s = .next (dimCancel s))
  ∧ (∀ (s : State), mainUp s = true → s.mode.mode = .dim → s.mode.wake = none →
       exec .wake s = .next (onRng (s.setMode { s.mode with wake := some (now s), wakeCause := 7 }) rngStart)
         ∧ (rngStart s.rng).run = true)
  ∧ (∀ (s : State), s.mode.mode ≠ .dim →
       exec .wake s = .next s)
  ∧ (∀ (s : State) (l : List Nat), mainUp s = true → wakeDue s = true → engNumbers.filter l.contains ≠ [] →
       leads (.dimWakeComplete l) s fun t => t.mode.mode = .service ∧ t.mode.hold = true ∧ t.mode.wake = none ∧ t.clk.rootGated = false
         ∧ t.mode.gatedEng = s.mode.gatedEng ++ engNumbers.filter l.contains ∧ Alarm.wake.num ∈ t.tmp.alarm)
  ∧ (∀ (s : State), mainUp s = true → wakeDue s = true →
       leads (.dimWakeComplete []) s fun t => t.mode.mode = .service ∧ t.mode.cause = s.mode.wakeCause ∧ t.mode.wake = none ∧ t.clk.rootGated = false)
  ∧ (∀ (s : State) (lv : Dbg), mainUp s = true → windowDue s = true → s.mode.dbgPend = some lv →
       s.mode.annCause = 4 → s.mode.mode = .service → s.hif.trips = [] → s.fus.dbgdis = false →
       exec .debugSwitch s = .next (debugRun s lv) ∧ (debugRun s lv).mode.mode = .debug ∧ (debugRun s lv).mode.cause = 8
         ∧ (debugRun s lv).mode.dbg = lv ∧ (debugRun s lv).mode.annIn = true ∧ (debugRun s lv).cus.latch.isSet = false
         ∧ (debugRun s lv).rng.pool = [])
  ∧ (∀ (s : State), s.fus.dbgdis = true ∨ s.mode.dbgPend = none →
       exec .debugSwitch s = .next s)
  ∧ (∀ (s : State) (t : Word) (f p : Img), mainUp s = true → s.upd.confirmAt = some t → s.upd.runSf = some f →
       s.upd.runPr = some p → s.upd.trial = true → tickReached t s.glb.tick = true → s.upd.actRaise = true →
       exec .activationConfirm s = .next (rbcRaise ((recWrite s f.slot p.slot 2 s.upd.schema).setUpd { (recWrite s f.slot p.slot 2 s.upd.schema).upd with trial := false, confirmAt := none, actRaise := false })))
  ∧ (∀ (s : State), s.upd.confirmAt = none →
       exec .activationConfirm s = .next s)

/-- At a quantum boundary of a clocked engine the first class with work and budget, in the order PROTECT, BULK, ADMIN,
runs a quantum of its budget; without one, the first class with work runs a lent quantum; without work the engine
stays idle. On a big-number engine the slots of ended operations are zeroed first. Without the clock, or with a tamper
response running, no quantum runs. A custody-verify run that stops on PKE0 ends there, its private memory zeroed and
its result shown. A post with a class, to a lane that exists, is not gated and has a free entry, queues the operation
with the words of the port; any other is discarded with a diagnostics event. The operation that ran the last quantum
of its lane ends with its record: the output written and result 0, result 1 with what it wrote zeroed on a failed
check, or result 3; while an operand access stalls, or 16 records are held, it goes on standing (both the model's
reading, log 30). A read of the result port removes the head, and the last one lowers the interrupt. A gated block
refuses each register access. (02_beacon_tick.md, 12_crypto_engines.md, 05_clocks.md.) -/
def Obligations.QuantaAndLanes : Prop :=
  (∀ (s : State) (e : Fin 8) (k : Nat), mainUp s = true → s.glb.run = true → engClocked s e = true →
       s.tmp.trig = none → e.val < 6 →
       [1, 2, 3].find? (fun k => hasWork s e k && 0 < budOf (s.glb.budNow.getD e {}) k) = some k →
       exec (.quantumBoundary e) s = .next (runQuantum (s.setGlb { s.glb with budNow := s.glb.budNow.set e (budTake (s.glb.budNow.getD e {}) k) }) e k))
  ∧ (∀ (s : State) (e : Fin 8) (k : Nat), mainUp s = true → s.glb.run = true → engClocked s e = true →
       s.tmp.trig = none → e.val < 6 →
       [1, 2, 3].find? (fun k => hasWork s e k && 0 < budOf (s.glb.budNow.getD e {}) k) = none →
       [1, 2, 3].find? (fun k => hasWork s e k) = some k →
       exec (.quantumBoundary e) s = .next (runQuantum s e k))
  ∧ (∀ (s : State) (e : Fin 8), mainUp s = true → s.glb.run = true → engClocked s e = true → s.tmp.trig = none →
       e.val < 6 → [1, 2, 3].find? (fun k => hasWork s e k) = none →
       exec (.quantumBoundary e) s = .next (s.setEng { s.eng with busy := tput 0 s.eng.busy e 0 }))
  ∧ (∀ (s : State), mainUp s = true → s.glb.run = true → engClocked s 6 = true → s.tmp.trig = none →
       s.cus.run = 3 →
       leads (.quantumBoundary 6) s fun t => t = custHalt s ∧ t.cus.run = 0 ∧ t.cus.result = s.cus.stopRes ∧ (getPke t 0).mem = [] ∧ t.cus.latch = s.cus.latch)
  ∧ (∀ (s : State) (e k : Nat), e < 6 → ¬(e = 0 ∧ k = 3 ∧ nextFn s e k = 0 ∧ 0 < s.eng.house) →
       runQuantum s e k = laneRun ((s.setGlb { s.glb with rr := tput 0 s.glb.rr (4 * e + k) (nextFn s e k) }).setEng { s.eng with busy := tput 0 s.eng.busy e 1 }) e k (nextFn s e k))
  ∧ (∀ (s : State) (o : LaneOp) (e cls fn : Nat),
       (getLane s e).find? (fun o => o.cls = cls && laneFn o = fn) = some o →
       (laneRun s e cls fn).glb = s.glb ∧ (laneQuantum s e o).1.last = true ∧ (laneQuantum s e o).1.quanta = o.quanta + 1)
  ∧ (∀ (s : State) (e : Fin 8) (k : Nat), mainUp s = true → s.glb.run = true → engClocked s e = true →
       s.tmp.trig = none → 6 ≤ e.val → ¬(e.val = 6 ∧ s.cus.run = 3) →
       [1, 2, 3].find? (fun k => hasWork (pkeZero s (e - 6)) e k && 0 < budOf (s.glb.budNow.getD e {}) k) = some k →
       exec (.quantumBoundary e) s = .next (runQuantum ((pkeZero s (e - 6)).setGlb { s.glb with budNow := s.glb.budNow.set e (budTake (s.glb.budNow.getD e {}) k) }) e k))
  ∧ (∀ (s : State) (e : Fin 8), mainUp s = true → s.glb.run = true → engClocked s e = true → s.tmp.trig = none →
       6 ≤ e.val → ¬(e.val = 6 ∧ s.cus.run = 3) → [1, 2, 3].find? (fun k => hasWork (pkeZero s (e - 6)) e k) = none →
       leads (.quantumBoundary e) s fun t => (getPke t (e - 6)).busy = false ∧ (getPke t (e - 6)).zeroing = [] ∧ t.eng.lanes = s.eng.lanes)
  ∧ (∀ (s : State) (e : Fin 8), mainUp s = false ∨ s.glb.run = false ∨ engClocked s e = false ∨ s.tmp.trig.isSome = true →
       exec (.quantumBoundary e) s = .next s)
  ∧ (∀ (s : State) (v : Word), mainUp s = true → gateOk s 11 = true → fld v 4 2 ≠ 0 → fld v 0 3 ≤ 5 →
       (getLane s (fld v 0 3)).length < 16 → s.mode.gatedEng.contains (fld v 0 3) = false →
       exec (.engPostGo v) s = .next (setLane s (fld v 0 3) (getLane s (fld v 0 3) ++ [{ words := engEntry s, cls := fld v 4 2 }])))
  ∧ (∀ (s : State) (v : Word), mainUp s = true → gateOk s 11 = true →
       fld v 4 2 = 0 ∨ 5 < fld v 0 3 ∨ 16 ≤ (getLane s (fld v 0 3)).length ∨ s.mode.gatedEng.contains (fld v 0 3) = true →
       exec (.engPostGo v) s = .next (logOther s .eng (leBytes 4 (fld v 0 3))))
  ∧ (∀ (s : State) (v : Word), mainUp s = true → gateOk s 11 = false →
       exec (.engPostGo v) s = .next (refuseAcc s (fwAcc 0x4000B060) 9 0))
  ∧ (∀ (s : State) (e : Fin 6) (o : LaneOp), mainUp s = true → engClocked s e = true → s.tmp.trig = none →
       s.eng.res.length < 16 → (getLane s e).find? (·.last) = some o →
       exec (.engineOpEnd e) s = .next (laneEnd s e o))
  ∧ (∀ (s : State) (e : Fin 6), mainUp s = false ∨ engClocked s e = false ∨ s.tmp.trig.isSome = true ∨ 16 ≤ s.eng.res.length ∨ (getLane s e).find? (·.last) = none →
       exec (.engineOpEnd e) s = .next s)
  ∧ (∀ (s : State) (e : Nat) (o : LaneOp), (laneFinish s e { o with stall := none }).1.stall.isSome = false →
       (laneFinish s e { o with stall := none }).1.bad = false →
       laneEnd s e o = pushRes (setLane (laneFinish s e { o with stall := none }).2.1 e ((getLane (laneFinish s e { o with stall := none }).2.1 e).eraseP (·.last)))
         ((laneFinish s e { o with stall := none }).1.words.getD 7 0) e (if (laneFinish s e { o with stall := none }).2.2 then 0 else 1)
         (if (laneFinish s e { o with stall := none }).2.2 then (laneFinish s e { o with stall := none }).1.wrote else 0) (laneBlocks e (laneFinish s e { o with stall := none }).1))
  ∧ (∀ (s : State) (e : Nat) (o : LaneOp), (laneFinish s e { o with stall := none }).1.stall.isSome = false →
       (laneFinish s e { o with stall := none }).1.bad = true →
       laneEnd s e o = laneAbort (setLane (laneFinish s e { o with stall := none }).2.1 e ((getLane (laneFinish s e { o with stall := none }).2.1 e).eraseP (·.last))) e 3 (laneFinish s e { o with stall := none }).1)
  ∧ (∀ (s : State), mainUp s = true → gateOk s 11 = true →
       leads .engRespop s fun t => t.eng.res = s.eng.res.drop 1 ∧ t.eng.lanes = s.eng.lanes)
  ∧ (∀ (s : State), mainUp s = true → gateOk s 11 = false →
       exec .engRespop s = .next (refuseAcc s (fwAcc 0x4000B090) 9 0))

/-- A post with a class, to an instance that is not gated and has a free entry, waits there; any other is discarded
with a diagnostics event. The waiting operation whose turn it is becomes resident when its slots are free, and takes
them, and else waits on; a custody-verify run takes PKE0 when it has no other work. The operation that ran the last
quantum of its instance ends: a PKE_RAW job keeps its accumulator for its owner and pushes a record without output,
any other writes its result and its record, and its slots are released to be zeroed; with 16 records held it stands
(the model's reading, log 31). A read of the result port removes the head. A gated block refuses each register access.
(12_crypto_engines.md.) -/
def Obligations.PkeCommands : Prop :=
  (∀ (s : State) (v : Word), mainUp s = true → gateOk s 12 = true → fld v 4 2 ≠ 0 →
       (getPke s (fld v 0 1)).waiting.length < 16 → s.mode.gatedEng.contains (6 + fld v 0 1) = false →
       exec (.pkePostGo v) s = .next (setPke s (fld v 0 1) { getPke s (fld v 0 1) with waiting := (getPke s (fld v 0 1)).waiting ++ [{ words := tgetN 0 s.pke.post 0 8, cls := fld v 4 2 }] }))
  ∧ (∀ (s : State) (v : Word), mainUp s = true → gateOk s 12 = true →
       fld v 4 2 = 0 ∨ 16 ≤ (getPke s (fld v 0 1)).waiting.length ∨ s.mode.gatedEng.contains (6 + fld v 0 1) = true →
       exec (.pkePostGo v) s = .next (logOther s .pke (leBytes 4 (fld v 0 1))))
  ∧ (∀ (s : State) (p : Fin 2) (o : PkeOp), mainUp s = true → engClocked s (6 + p) = true → s.tmp.trig = none →
       s.cus.run < 2 → pkeNext (getPke (pkeZero s p) p) = some o → pkeFits (getPke (pkeZero s p) p) o = true →
       exec (.pkeResident p) s = .next (setPke (pkeZero s p) p { getPke (pkeZero s p) p with waiting := (getPke (pkeZero s p) p).waiting.erase o, resident := (getPke (pkeZero s p) p).resident ++ [{ o with slots := pkeWants (getPke (pkeZero s p) p) o }], alloc := (pkeWants (getPke (pkeZero s p) p) o).foldl (fun a k => a ||| BitVec.ofNat 48 (2 ^ k)) (getPke (pkeZero s p) p).alloc }))
  ∧ (∀ (s : State) (p : Fin 2) (o : PkeOp), mainUp s = true → engClocked s (6 + p) = true → s.tmp.trig = none →
       s.cus.run < 2 → pkeNext (getPke (pkeZero s p) p) = some o → pkeFits (getPke (pkeZero s p) p) o = false →
       exec (.pkeResident p) s = .next (pkeZero s p))
  ∧ (∀ (s : State) (p : Fin 2), mainUp s = false ∨ engClocked s (6 + p) = false ∨ s.tmp.trig.isSome = true ∨ (p.val = 0 ∧ 2 ≤ s.cus.run) →
       exec (.pkeResident p) s = .next s)
  ∧ (∀ (s : State), mainUp s = true → engClocked s 6 = true → s.tmp.trig = none → s.cus.run = 1 →
       pkeNext (getPke (pkeZero s 0) 0) = none → (getPke (pkeZero s 0) 0).resident = [] →
       leads (.pkeResident 0) s fun t => t.cus.run = 2 ∧ t.cus.latch = s.cus.latch ∧ (getPke t 0).cv = true ∧ (getPke t 0).alloc = BitVec.allOnes 48)
  ∧ (∀ (s : State) (p : Fin 2) (o : PkeOp), mainUp s = true → engClocked s (6 + p) = true → s.tmp.trig = none →
       s.pke.res.length < 16 → (getPke s p).resident.find? (·.last) = some o →
       exec (.pkeOpEnd p) s = .next (pkeDone s p o))
  ∧ (∀ (s : State) (p : Fin 2), mainUp s = false ∨ engClocked s (6 + p) = false ∨ s.tmp.trig.isSome = true ∨ 16 ≤ s.pke.res.length ∨ (getPke s p).resident.find? (·.last) = none →
       exec (.pkeOpEnd p) s = .next s)
  ∧ (∀ (s : State) (p : Nat) (o : PkeOp) (h : Nat), o.raw = some h →
       pkeDone s p o = pushPkeRes (pkeRelease (pkeTag (rawEnd s h o).1 o).2 p o) (pkeTag (rawEnd s h o).1 o).1 (6 + p) 0 0 (some (withDummies (24 * (rawEnd s h o).2) o.dens)))
  ∧ (∀ (s : State) (p : Nat) (o : PkeOp), o.raw = none → (pkeNames o).all (o.slots.contains ·) = true →
       pkeDone s p o = pushPkeRes (pkeRelease (pkeCompute s p o).1 p o) (o.words.getD 4 0) (6 + p) 0 (pkeCompute s p o).2 (pkeCycles o))
  ∧ (∀ (s : State) (p : Nat) (o : PkeOp), o.raw = none → (pkeNames o).all (o.slots.contains ·) = false →
       pkeDone s p o = pushPkeRes (pkeRelease s p o) (o.words.getD 4 0) (6 + p) 3 0)
  ∧ (∀ (s : State) (p : Nat) (o : PkeOp),
       (getPke (pkeRelease s p o) p).resident = (getPke s p).resident.erase o ∧ (getPke (pkeRelease s p o) p).zeroing = (getPke s p).zeroing ++ o.slots)
  ∧ (∀ (s : State), mainUp s = true → gateOk s 12 = true →
       leads .pkeRespop s fun t => t.pke.res = s.pke.res.drop 1 ∧ t.pke.inst = s.pke.inst)
  ∧ (∀ (s : State), mainUp s = true → gateOk s 12 = false →
       exec .pkeRespop s = .next (refuseAcc s (fwAcc 0x4000C250) 9 0))
  ∧ (∀ (s : State) (v : Word), mainUp s = true → gateOk s 12 = false →
       exec (.pkePostGo v) s = .next (refuseAcc s (fwAcc 0x4000C220) 9 0))

/-- A bit of one copy of a fuse word is stable when its three references agree, with that common value, and otherwise
marginal: a bit stable at 1, stable at 0 and marginal are told apart for every word and every bit, and a blown bit
reads 1 at the three references. (R138.) -/
def Obligations.FuseBits : Prop :=
  (∀ (w : FuseWord) (i : Nat), i < 32 →
       ((stable1 w).getLsbD i = true ↔ (w.nom.getLsbD i = true ∧ w.low.getLsbD i = true ∧ w.high.getLsbD i = true))
         ∧ ((stable0 w).getLsbD i = true ↔ (w.nom.getLsbD i = false ∧ w.low.getLsbD i = false ∧ w.high.getLsbD i = false))
         ∧ ((margBits w).getLsbD i = true ↔ ¬ (w.nom.getLsbD i = w.low.getLsbD i ∧ w.low.getLsbD i = w.high.getLsbD i)))
  ∧ (∀ (s : State) (w : Nat) (b : Word) (i : Nat), b.getLsbD i = true →
       (fuseCell (blowCell s w b) w).nom.getLsbD i = true ∧ (fuseCell (blowCell s w b) w).low.getLsbD i = true ∧ (fuseCell (blowCell s w b) w).high.getLsbD i = true)

/-- The interval, the command and a temperature band trigger a pass in RUN, and one without a beacon that runs
triggers none; it starts at a tick edge when none runs and no programming runs, at word 0; each word read replaces its
readings and moves the pass on, and word 511 ends and counts it; a SEC word is resolved with its last copy and a
resolved value only gets tighter. Programming with the key, an allowed word and a record that names it starts with
copy A, under the two-key latch once VPP_FUSE and random output are ready; a word whose bits read stable at 1 is
followed by its next copy, else it is pulsed again at most three times, and then the operation stops with PGM_FAIL;
without the key or the authority nothing is blown. (06_fuses_and_configuration.md, 10_custody_and_dual_control.md.) -/
def Obligations.FusePasses : Prop :=
  (∀ (s : State), mainUp s = true → 2 ^ 20 ≤ s.fus.sincePass → s.glb.run = true →
       exec .rereadInterval s = .next (s.setFus { s.fus with rereadQ := true }))
  ∧ (∀ (s : State), mainUp s = true → 2 ^ 20 ≤ s.fus.sincePass → s.glb.run = false →
       exec .rereadInterval s = .next s)
  ∧ (∀ (s : State), mainUp s = false ∨ s.glb.run = false → exec .fusRereadNow s = .next s)
  ∧ (∀ (s : State), mainUp s = false ∨ s.glb.run = false ∨ s.fus.rereadDue = false →
       exec .fuseRereadPass s = .next s)
  ∧ (∀ (s : State), (rereadEdge s).fus.rereadDue = (s.fus.rereadQ && !s.fus.rereadRun))
  ∧ (∀ (s : State), s.fus.sincePass < 2 ^ 20 →
       exec .rereadInterval s = .next s)
  ∧ (∀ (s : State), mainUp s = true → s.glb.run = true →
       exec .fusRereadNow s = .next (s.setFus { s.fus with rereadQ := true }))
  ∧ (∀ (s : State), mainUp s = true → s.glb.run = true → s.fus.rereadDue = true → s.fus.rereadRun = false →
       s.fus.pgm = none →
       exec .fuseRereadPass s = .next (s.setFus { s.fus with rereadRun := true, rereadQ := false, rereadDue := false, rereadNext := 0, sincePass := 0 }))
  ∧ (∀ (s : State), s.fus.rereadRun = true ∨ s.fus.pgm.isSome = true →
       exec .fuseRereadPass s = .next s)
  ∧ (∀ (s : State) (x y z : Word), mainUp s = true → s.fus.rereadRun = true → s.fus.rereadNext < 511 →
       fuseAt s.fus.rereadNext = (.none, s.fus.rereadNext, 0) →
       exec (.fuseWordReread x y z) s = .next (s.setFus { s.fus with cells := tput {} s.fus.cells s.fus.rereadNext ⟨x, y, z⟩, rereadNext := s.fus.rereadNext + 1 }))
  ∧ (∀ (s : State) (x y z : Word), mainUp s = true → s.fus.rereadRun = true → s.fus.rereadNext = 511 →
       fuseCell s 511 = ⟨x, y, z⟩ →
       leads (.fuseWordReread x y z) s fun t => t.fus.rereadRun = false ∧ t.fus.rereadNext = 0 ∧ t.fus.passes = satInc 255 s.fus.passes)
  ∧ (∀ (s : State) (x y z : Word), mainUp s = true → s.fus.rereadRun = true → s.fus.rereadNext < 511 →
       (fuseAt s.fus.rereadNext).1 = .sec → lastCopy s.fus.rereadNext = true →
       exec (.fuseWordReread x y z) s = .next (secPass (s.setFus { s.fus with cells := tput {} s.fus.cells s.fus.rereadNext ⟨x, y, z⟩, rereadNext := s.fus.rereadNext + 1 }) (fuseAt s.fus.rereadNext).2.1))
  ∧ (∀ (s : State) (x y z : Word), mainUp s = true → s.fus.rereadRun = true → s.fus.rereadNext < 511 →
       (fuseAt s.fus.rereadNext).1 = .key → lastCopy s.fus.rereadNext = true →
       exec (.fuseWordReread x y z) s = .next (keyPass (s.setFus { s.fus with cells := tput {} s.fus.cells s.fus.rereadNext ⟨x, y, z⟩, rereadNext := s.fus.rereadNext + 1 }) (fuseAt s.fus.rereadNext).2.1))
  ∧ (∀ (s : State) (x y z : Word), mainUp s = false ∨ s.fus.rereadRun = false →
       exec (.fuseWordReread x y z) s = .next s)
  ∧ (∀ (m a b : Word) (i : Nat), i < 32 → a.getLsbD i = m.getLsbD i →
       (tighter m a b).getLsbD i = m.getLsbD i)
  ∧ (∀ (s : State) (v : Word) (au : PgmAuth), mainUp s = true → fld v 24 8 = 0x3C → bit v 0 = true →
       s.fus.pgm = none → (fuseAt s.fus.pgmAddr).2.1 = s.fus.pgmAddr → (∀ n, au ≠ .latch n) →
       pgmAllowed s s.fus.pgmAddr s.fus.pgmData au = true → pgmRecord s s.fus.pgmAddr s.fus.pgmData au = true →
       exec (.fusePgmGo v au) s = .next (s.setFus { s.fus with pgm := some { words := pgmCopies s.fus.pgmAddr, bits := s.fus.pgmData } }))
  ∧ (∀ (s : State) (v : Word) (n : Byte), mainUp s = true → fld v 24 8 = 0x3C → bit v 0 = true →
       s.fus.pgm = none → (fuseAt s.fus.pgmAddr).2.1 = s.fus.pgmAddr →
       pgmAllowed s s.fus.pgmAddr s.fus.pgmData (.latch n) = true → pgmRecord s s.fus.pgmAddr s.fus.pgmData (.latch n) = true →
       vppOk s = true → rngReady s.rng = true → s.cus.latch.used = false →
       exec (.fusePgmGo v (.latch n)) s = .next ((latchUse s).setFus { (latchUse s).fus with pgm := some { words := pgmCopies s.fus.pgmAddr, bits := s.fus.pgmData, latched := true } }))
  ∧ (∀ (s : State) (v : Word) (n : Byte), mainUp s = true →
       vppOk s = false ∨ rngReady s.rng = false → s.cus.latch.used = false →
       exec (.fusePgmGo v (.latch n)) s = .next s)
  ∧ (∀ (s : State) (v : Word) (au : PgmAuth),
       fld v 24 8 ≠ 0x3C ∨ bit v 0 = false ∨ s.fus.pgm.isSome = true ∨ (fuseAt s.fus.pgmAddr).2.1 ≠ s.fus.pgmAddr ∨ pgmAllowed s s.fus.pgmAddr s.fus.pgmData au = false ∨ pgmRecord s s.fus.pgmAddr s.fus.pgmData au = false →
       exec (.fusePgmGo v au) s = .next s)
  ∧ (∀ (s : State), s.fus.lc = .retired →
       ∀ (a : Nat) (b : Word) (au : PgmAuth), pgmAllowed s a b au = false)
  ∧ (∀ (s : State) (x y z : Word) (o : PgmOp) (w k : Nat) (l : List Nat), s.fus.pgm = some o →
       o.words = w :: k :: l → s.fus.nrstStop = false → s.snf.flag = false →
       within o.bits (stable1 ⟨x, y, z⟩) = true →
       exec (.fusePulseEnd x y z) s = .next (s.setFus { s.fus with cells := tput {} s.fus.cells w ⟨x, y, z⟩, pgm := some { o with words := k :: l, pulses := 0 } }))
  ∧ (∀ (s : State) (x y z : Word) (o : PgmOp) (w : Nat), s.fus.pgm = some o →
       o.words = [w] → s.fus.nrstStop = false → s.snf.flag = false →
       within o.bits (stable1 ⟨x, y, z⟩) = true →
       exec (.fusePulseEnd x y z) s = .next (cusEffect (pgmEnd (s.setFus { s.fus with cells := tput {} s.fus.cells w ⟨x, y, z⟩ }) o (fuseAt w).2.1 false) (fuseAt w).2.1))
  ∧ (∀ (s : State) (x y z : Word) (o : PgmOp) (w : Nat) (l : List Nat), s.fus.pgm = some o → o.words = w :: l →
       s.fus.nrstStop = true →
       exec (.fusePulseEnd x y z) s = .next (nrstTake (pgmEnd (s.setFus { s.fus with cells := tput {} s.fus.cells w ⟨x, y, z⟩ }) o (fuseAt w).2.1 false)))
  ∧ (∀ (s : State) (x y z : Word), s.fus.pgm = none → exec (.fusePulseEnd x y z) s = .next s)
  ∧ (∀ (s : State) (x y z : Word) (o : PgmOp) (w : Nat) (l : List Nat), s.fus.pgm = some o → o.words = w :: l →
       s.fus.nrstStop = false → s.snf.flag = false → within o.bits (stable1 ⟨x, y, z⟩) = false → o.pulses < 3 →
       exec (.fusePulseEnd x y z) s = .next (s.setFus { s.fus with cells := tput {} s.fus.cells w ⟨x, y, z⟩, pgm := some { o with pulses := o.pulses + 1 } }))
  ∧ (∀ (s : State) (x y z : Word) (o : PgmOp) (w : Nat) (l : List Nat), s.fus.pgm = some o → o.words = w :: l →
       s.fus.nrstStop = false → s.snf.flag = false → within o.bits (stable1 ⟨x, y, z⟩) = false → 3 ≤ o.pulses →
       exec (.fusePulseEnd x y z) s = .next (pgmEnd (s.setFus { s.fus with cells := tput {} s.fus.cells w ⟨x, y, z⟩ }) o (fuseAt w).2.1 true))
  ∧ (∀ (s : State) (o : PgmOp) (a : Nat), (pgmEnd s o a true).fus.pgm = none ∧ (pgmEnd s o a true).fus.pgmFail = true ∧ (pgmEnd s o a true).fus.cells = s.fus.cells)

/-- While the source runs, what the oscillators show goes raw clock by raw clock through the shift register, and every
fourth bit is a sample; the startup test takes 1024 samples through both health tests and discards them; then each 512
samples condition into 32 bytes of the pool while it has room (the model's choice of when it has none: log 106); a
failure zeroes the pool and the generator state, latches its cause and asserts ALARM_N, and afterwards nothing is
served; a due reseed takes 384 bits of the pool; raw capture is set only in BLANK or with debug OPEN and refused
elsewhere, and then samples are captured; without an instantiated generator a draw answers a wait and changes nothing.
(13_entropy.md.) -/
def Obligations.Entropy : Prop :=
  (∀ (s : State) (osc : List (BitVec 16)), mainUp s = true → s.rng.run = true → s.rng.restart = true →
       exec (.startupTestPass osc) s = .next (osc.foldl rawIn s))
  ∧ (∀ (s : State) (osc : List (BitVec 16)), mainUp s = false ∨ s.rng.run = false ∨ s.rng.restart = false →
       exec (.startupTestPass osc) s = .next s)
  ∧ (∀ (s : State) (o : BitVec 16), s.rng.phase ≠ 3 →
       rawIn s o = s.setRng { s.rng with lfsr := lfsrShift s.rng.lfsr (rawBit o), phase := (s.rng.phase + 1) % 4 })
  ∧ (∀ (s : State) (o : BitVec 16), s.rng.phase = 3 →
       rawIn s o = sampleIn (s.setRng { s.rng with lfsr := lfsrShift s.rng.lfsr (rawBit o), phase := 0 }) ((lfsrShift s.rng.lfsr (rawBit o)).getLsbD 0))
  ∧ (∀ (s : State) (b : Bool), s.rng.cap = false → s.rng.failed = false → s.rng.restart = true →
       healthBad (healthStep s.rng b) = 0 →
       sampleIn s b = s.setRng (startCount (healthStep s.rng b)))
  ∧ (∀ (s : State) (b : Bool), s.rng.cap = false → s.rng.failed = false → healthBad (healthStep s.rng b) ≠ 0 →
       sampleIn s b = rngFail (s.setRng (healthStep s.rng b)) (healthBad (healthStep s.rng b)))
  ∧ (∀ (s : State) (osc : List (BitVec 16)), mainUp s = true → s.rng.run = true → s.rng.restart = false →
       exec (.conditioningBlock osc) s = .next (osc.foldl rawIn s))
  ∧ (∀ (s : State) (osc : List (BitVec 16)), mainUp s = false ∨ s.rng.run = false ∨ s.rng.restart = true →
       exec (.conditioningBlock osc) s = .next s)
  ∧ (∀ (s : State) (b : Bool), s.rng.cap = true →
       sampleIn s b = s.setRng { s.rng with capData := s.rng.capData ++ [b] })
  ∧ (∀ (s : State) (b : Bool), s.rng.pool.length ≤ 96 → s.rng.blk.length < 511 →
       gather s b = s.setRng { s.rng with blk := s.rng.blk ++ [b] })
  ∧ (∀ (s : State), s.rng.blk.length = 512 → s.clk.rootGated = false → s.rng.inst = true →
       condition s = housekeep (s.setRng { s.rng with pool := s.rng.pool ++ blockDf 32 (samplesBytes 64 s.rng.blk), blk := [] }))
  ∧ (∀ (s : State) (b : Bool), 96 < s.rng.pool.length → gather s b = s)
  ∧ (∀ (s : State) (k : Fin 4), mainUp s = true → s.rng.run = true → s.rng.failed = false → k ≠ 0 →
       leads (.healthTestFailure k) s fun t => t.rng.failed = true ∧ t.rng.cause = k ∧ t.rng.pool = [] ∧ t.rng.key = List.replicate 32 0
         ∧ t.rng.v = List.replicate 16 0 ∧ rngReady t.rng = false ∧ Alarm.rng.num ∈ t.tmp.alarm)
  ∧ (∀ (s : State) (k : Fin 4), mainUp s = false ∨ s.rng.run = false ∨ s.rng.failed = true ∨ k = 0 →
       exec (.healthTestFailure k) s = .next s)
  ∧ (∀ (s : State), mainUp s = true → s.rng.inst = true → 2 ^ (10 + s.rng.tickLog) ≤ s.rng.ticks →
       exec .reseedTickDue s = .next (s.setRng { s.rng with due := true }))
  ∧ (∀ (s : State), mainUp s = false ∨ s.rng.inst = false ∨ s.rng.ticks < 2 ^ (10 + s.rng.tickLog) →
       exec .reseedTickDue s = .next s)
  ∧ (∀ (s : State), mainUp s = true → rngReady s.rng = true → dueNow s.rng = true → 48 ≤ s.rng.pool.length →
       leads .reseed s fun t => t.rng = drbgReseed (now s) s.rng ∧ t.rng.due = false ∧ t.rng.reseedCnt = 1 ∧ t.rng.ticks = 0 ∧ t.rng.pool = s.rng.pool.drop 48)
  ∧ (∀ (s : State), mainUp s = false ∨ rngReady s.rng = false ∨ dueNow s.rng = false ∨ s.rng.pool.length < 48 →
       exec .reseed s = .next s)
  ∧ (∀ (s : State) (v : Word), mainUp s = true → gateOk s 13 = true → s.fus.lc = .blank ∨ s.mode.dbg = .opened →
       exec (.rawCapture v) s = .next (s.setRng { s.rng with cap := bit v 0 }))
  ∧ (∀ (s : State) (v : Word), mainUp s = true → gateOk s 13 = true → s.fus.lc ≠ .blank → s.mode.dbg ≠ .opened →
       exec (.rawCapture v) s = .next (refuseAcc s (fwAcc 0x4000D020) 0xB 0))
  ∧ (∀ (s : State) (v : Word), mainUp s = true → gateOk s 13 = false →
       exec (.rawCapture v) s = .next (refuseAcc s (fwAcc 0x4000D020) 9 0))
  ∧ (∀ (s : State) (a : Bytes) (n : Nat), rngReady s.rng = false →
       rngDraw s a n false = .inl (rngWait s (rngRemain s.rng)))

/-- A taken AES block command whose lengths are in order, with an AES lane not gated and a key that serves its
direction, completes OK with the ECB, CBC or CTR output of its input under that key, the IV or counter block from AUX.
A GCM encryption in order gives the ciphertext and the first TAGLEN bytes of the tag, with IVMODE 1 after the 12 drawn
bytes of its IV, and answers NOT_READY while no random bytes can be drawn; a decryption whose tag holds gives the
plaintext and VFY, one whose tag fails gives no output and says so; HASH gives the digest of the function it names and
refuses a function above 4. (15_command_set.md, 12_crypto_engines.md.) -/
def Obligations.AesAndGcmCommands : Prop :=
  (∀ (s : State) (fn : Fin 16) (r : Fin 8) (io : CmdIo) (x : Staged) (h : Slot) (key : Bytes) (t : State),
       jobOf s fn r 0x01 = some x → engDown s aesLanes = false →
       useKey s fn (dKey x.desc) 0 algAes = .inr (h, key, t) → dAuxLen x.desc = 0 → blockLen (dLen x.desc) = true →
       exec (.aesEcbEncrypt fn r io) s = .next (conclude (ringKey fn r) x { st := t, out := ecb (aesEncK (aesKeys key)) (dLen x.desc / 16) (inOf x.desc io) }))
  ∧ (∀ (s : State) (fn : Fin 16) (r : Fin 8) (io : CmdIo) (x : Staged) (h : Slot) (key : Bytes) (t : State),
       jobOf s fn r 0x02 = some x → engDown s aesLanes = false →
       useKey s fn (dKey x.desc) 1 algAes = .inr (h, key, t) → dAuxLen x.desc = 0 → blockLen (dLen x.desc) = true →
       exec (.aesEcbDecrypt fn r io) s = .next (conclude (ringKey fn r) x { st := t, out := ecb (aesDecK (aesKeys key)) (dLen x.desc / 16) (inOf x.desc io) }))
  ∧ (∀ (s : State) (fn : Fin 16) (r : Fin 8) (io : CmdIo) (x : Staged) (h : Slot) (key : Bytes) (t : State),
       jobOf s fn r 0x03 = some x → engDown s aesLanes = false →
       useKey s fn (dKey x.desc) 0 algAes = .inr (h, key, t) → dAuxLen x.desc = 16 → blockLen (dLen x.desc) = true →
       exec (.aesCbcEncrypt fn r io) s = .next (conclude (ringKey fn r) x { st := t, out := cbcEnc (aesEncK (aesKeys key)) (dLen x.desc / 16) (auxOf x.desc io) (inOf x.desc io) }))
  ∧ (∀ (s : State) (fn : Fin 16) (r : Fin 8) (io : CmdIo) (x : Staged) (h : Slot) (key : Bytes) (t : State),
       jobOf s fn r 0x04 = some x → engDown s aesLanes = false →
       useKey s fn (dKey x.desc) 1 algAes = .inr (h, key, t) → dAuxLen x.desc = 16 → blockLen (dLen x.desc) = true →
       exec (.aesCbcDecrypt fn r io) s = .next (conclude (ringKey fn r) x { st := t, out := cbcDec (aesDecK (aesKeys key)) (dLen x.desc / 16) (auxOf x.desc io) (inOf x.desc io) }))
  ∧ (∀ (s : State) (fn : Fin 16) (r : Fin 8) (io : CmdIo) (x : Staged) (h : Slot) (key : Bytes) (t : State),
       jobOf s fn r 0x05 = some x → engDown s aesLanes = false →
       useKey s fn (dKey x.desc) 0 algAes = .inr (h, key, t) → dAuxLen x.desc = 16 → dLen x.desc ≤ 2 ^ 30 →
       exec (.aesCtrEncrypt fn r io) s = .next (conclude (ringKey fn r) x { st := t, out := ctrMode (aesEncK (aesKeys key)) 16 ((dLen x.desc + 15) / 16) (auxOf x.desc io) (inOf x.desc io) }))
  ∧ (∀ (s : State) (fn : Fin 16) (r : Fin 8) (io : CmdIo) (x : Staged) (h : Slot) (key : Bytes) (t : State),
       jobOf s fn r 0x06 = some x → engDown s aesLanes = false →
       useKey s fn (dKey x.desc) 1 algAes = .inr (h, key, t) → dAuxLen x.desc = 16 → dLen x.desc ≤ 2 ^ 30 →
       exec (.aesCtrDecrypt fn r io) s = .next (conclude (ringKey fn r) x { st := t, out := ctrMode (aesEncK (aesKeys key)) 16 ((dLen x.desc + 15) / 16) (auxOf x.desc io) (inOf x.desc io) }))
  ∧ (∀ (s : State) (fn : Fin 16) (r : Fin 8) (io : CmdIo) (x : Staged) (h : Slot) (key : Bytes) (t : State),
       jobOf s fn r 0x0E = some x → engDown s aesLanes = false →
       useKey s fn (dKey x.desc) 0 algAes = .inr (h, key, t) → 12 ≤ dTag x.desc → dTag x.desc ≤ 16 →
       dOpndN x.desc 0 4 ≤ dLen x.desc → dOpndN x.desc 0 4 ≤ 2 ^ 30 → dLen x.desc - dOpndN x.desc 0 4 ≤ 2 ^ 30 →
       dOpnd x.desc 4 = 0 → dAuxLen x.desc = 12 →
       exec (.aesGcmEncrypt fn r io) s = .next (conclude (ringKey fn r) x { st := t, out := gcmCrypt key (auxOf x.desc io) ((inOf x.desc io).drop (dOpndN x.desc 0 4)) ++ (gcmTag key (auxOf x.desc io) ((inOf x.desc io).take (dOpndN x.desc 0 4)) (gcmCrypt key (auxOf x.desc io) ((inOf x.desc io).drop (dOpndN x.desc 0 4)))).take (dTag x.desc) }))
  ∧ (∀ (s : State) (fn : Fin 16) (r : Fin 8) (io : CmdIo) (x : Staged) (h : Slot) (key : Bytes) (t : State),
       jobOf s fn r 0x0E = some x → engDown s aesLanes = false →
       useKey s fn (dKey x.desc) 0 algAes = .inr (h, key, t) → 12 ≤ dTag x.desc → dTag x.desc ≤ 16 →
       dOpndN x.desc 0 4 ≤ dLen x.desc → dOpndN x.desc 0 4 ≤ 2 ^ 30 → dLen x.desc - dOpndN x.desc 0 4 ≤ 2 ^ 30 →
       dOpnd x.desc 4 = 1 → dAuxLen x.desc = 0 →
       exec (.aesGcmEncrypt fn r io) s = .next (conclude (ringKey fn r) x (match rngDraw t (addOf fn (dOp x.desc) (dReq x.desc)) 12 (dPr x.desc) with
         | .inr (iv, u) => { st := u, out := iv ++ (gcmCrypt key (iv.take 12) ((inOf x.desc io).drop (dOpndN x.desc 0 4)) ++ (gcmTag key (iv.take 12) ((inOf x.desc io).take (dOpndN x.desc 0 4)) (gcmCrypt key (iv.take 12) ((inOf x.desc io).drop (dOpndN x.desc 0 4)))).take (dTag x.desc)) }
         | .inl w => .notReady t w)))
  ∧ (∀ (s : State) (fn : Fin 16) (r : Fin 8) (io : CmdIo) (x : Staged) (h : Slot) (key : Bytes) (t : State),
       jobOf s fn r 0x0F = some x → engDown s aesLanes = false →
       useKey s fn (dKey x.desc) 1 algAes = .inr (h, key, t) → 12 ≤ dTag x.desc → dTag x.desc ≤ 16 →
       dOpndN x.desc 0 4 ≤ dLen x.desc → dOpndN x.desc 0 4 ≤ 2 ^ 30 → dLen x.desc - dOpndN x.desc 0 4 ≤ 2 ^ 30 →
       dAuxLen x.desc = 12 + dTag x.desc →
       exec (.aesGcmDecrypt fn r io) s = .next (conclude (ringKey fn r) x { st := t, vfy := decide ((gcmTag key ((auxOf x.desc io).take 12) ((inOf x.desc io).take (dOpndN x.desc 0 4)) ((inOf x.desc io).drop (dOpndN x.desc 0 4))).take (dTag x.desc) = (auxOf x.desc io).drop 12), result := if (gcmTag key ((auxOf x.desc io).take 12) ((inOf x.desc io).take (dOpndN x.desc 0 4)) ((inOf x.desc io).drop (dOpndN x.desc 0 4))).take (dTag x.desc) = (auxOf x.desc io).drop 12 then 0 else 1, out := if (gcmTag key ((auxOf x.desc io).take 12) ((inOf x.desc io).take (dOpndN x.desc 0 4)) ((inOf x.desc io).drop (dOpndN x.desc 0 4))).take (dTag x.desc) = (auxOf x.desc io).drop 12 then gcmCrypt key ((auxOf x.desc io).take 12) ((inOf x.desc io).drop (dOpndN x.desc 0 4)) else [] }))
  ∧ (∀ (s : State) (fn : Fin 16) (r : Fin 8) (io : CmdIo) (x : Staged), jobOf s fn r 0x14 = some x →
       dOpnd x.desc 0 ≤ 4 → engDown s hashLanes = false →
       exec (.hashCmd fn r io) s = .next (conclude (ringKey fn r) x { st := s, out := (match dOpnd x.desc 0 with | 0 => sha256 (inOf x.desc io) | 1 => sha384 (inOf x.desc io) | 2 => sha512 (inOf x.desc io) | 3 => sha3of256 (inOf x.desc io) | _ => sha3of384 (inOf x.desc io)) }))
  ∧ (∀ (s : State) (fn : Fin 16) (r : Fin 8) (io : CmdIo) (x : Staged), jobOf s fn r 0x14 = some x →
       4 < dOpnd x.desc 0 →
       exec (.hashCmd fn r io) s = .next (conclude (ringKey fn r) x (.stop s 0x11)))

/-- A MAC command with its operands in order, a lane of its kind not gated and a key that may compute or verify,
completes OK: a generate gives the first TAGLEN bytes of the code of its input under the key; a verify sets VFY as the
first TAGLEN bytes equal those in AUX, with no output, and says a mismatch in RESULT where its opcode has a reason.
(15_command_set.md, 12_crypto_engines.md.) -/
def Obligations.MacCommands : Prop :=
  (∀ (s : State) (fn : Fin 16) (r : Fin 8) (io : CmdIo) (x : Staged) (h : Slot) (key : Bytes) (t : State),
       jobOf s fn r 0x08 = some x → engDown s hashLanes = false →
       useKey s fn (dKey x.desc) 4 (· = 3) = .inr (h, key, t) → dOpnd x.desc 0 ≤ 1 → 10 ≤ dTag x.desc →
       dTag x.desc ≤ 32 → dAuxLen x.desc = 0 →
       exec (.hmacSha256Generate fn r io) s = .next (conclude (ringKey fn r) x { st := t, out := (hmac256 key (inOf x.desc io)).take (dTag x.desc) }))
  ∧ (∀ (s : State) (fn : Fin 16) (r : Fin 8) (io : CmdIo) (x : Staged) (h : Slot) (key : Bytes) (t : State),
       jobOf s fn r 0x09 = some x → engDown s hashLanes = false →
       useKey s fn (dKey x.desc) 5 (· = 3) = .inr (h, key, t) → dOpnd x.desc 0 ≤ 1 → 10 ≤ dTag x.desc →
       dTag x.desc ≤ 32 → dAuxLen x.desc = dTag x.desc →
       exec (.hmacSha256Verify fn r io) s = .next (conclude (ringKey fn r) x { st := t, vfy := decide ((hmac256 key (inOf x.desc io)).take (dTag x.desc) = (auxOf x.desc io)) }))
  ∧ (∀ (s : State) (fn : Fin 16) (r : Fin 8) (io : CmdIo) (x : Staged) (h : Slot) (key : Bytes) (t : State),
       jobOf s fn r 0x0A = some x → engDown s hashLanes = false →
       useKey s fn (dKey x.desc) 4 (· = 4) = .inr (h, key, t) → dOpnd x.desc 0 ≤ 1 → 10 ≤ dTag x.desc →
       dTag x.desc ≤ (if dOpnd x.desc 0 = 0 then 48 else 64) → dAuxLen x.desc = 0 →
       exec (.hmacSha384512Generate fn r io) s = .next (conclude (ringKey fn r) x { st := t, out := (if dOpnd x.desc 0 = 0 then hmac384 key (inOf x.desc io) else hmac512 key (inOf x.desc io)).take (dTag x.desc) }))
  ∧ (∀ (s : State) (fn : Fin 16) (r : Fin 8) (io : CmdIo) (x : Staged) (h : Slot) (key : Bytes) (t : State),
       jobOf s fn r 0x0B = some x → engDown s hashLanes = false →
       useKey s fn (dKey x.desc) 5 (· = 4) = .inr (h, key, t) → dOpnd x.desc 0 ≤ 1 → 10 ≤ dTag x.desc →
       dTag x.desc ≤ (if dOpnd x.desc 0 = 0 then 48 else 64) → dAuxLen x.desc = dTag x.desc →
       exec (.hmacSha384512Verify fn r io) s = .next (conclude (ringKey fn r) x { st := t, vfy := decide ((if dOpnd x.desc 0 = 0 then hmac384 key (inOf x.desc io) else hmac512 key (inOf x.desc io)).take (dTag x.desc) = (auxOf x.desc io)), result := if (if dOpnd x.desc 0 = 0 then hmac384 key (inOf x.desc io) else hmac512 key (inOf x.desc io)).take (dTag x.desc) = (auxOf x.desc io) then 0 else 1 }))
  ∧ (∀ (s : State) (fn : Fin 16) (r : Fin 8) (io : CmdIo) (x : Staged) (h : Slot) (key : Bytes) (t : State),
       jobOf s fn r 0x0C = some x → engDown s aesLanes = false →
       useKey s fn (dKey x.desc) 4 algAes = .inr (h, key, t) → gcmTagLen (dTag x.desc) = true →
       dLen x.desc ≤ 2 ^ 30 → dAuxLen x.desc = 12 →
       exec (.aesGmacGenerate fn r io) s = .next (conclude (ringKey fn r) x { st := t, out := (gcmTag key (auxOf x.desc io) (inOf x.desc io) []).take (dTag x.desc) }))
  ∧ (∀ (s : State) (fn : Fin 16) (r : Fin 8) (io : CmdIo) (x : Staged) (h : Slot) (key : Bytes) (t : State),
       jobOf s fn r 0x0D = some x → engDown s aesLanes = false →
       useKey s fn (dKey x.desc) 5 algAes = .inr (h, key, t) → gcmTagLen (dTag x.desc) = true →
       dLen x.desc ≤ 2 ^ 30 → dAuxLen x.desc = 12 + dTag x.desc →
       exec (.aesGmacVerify fn r io) s = .next (conclude (ringKey fn r) x { st := t, vfy := decide ((gcmTag key ((auxOf x.desc io).take 12) (inOf x.desc io) []).take (dTag x.desc) = (auxOf x.desc io).drop 12) }))
  ∧ (∀ (s : State) (fn : Fin 16) (r : Fin 8) (io : CmdIo) (x : Staged) (h : Slot) (key : Bytes) (t : State),
       jobOf s fn r 0x10 = some x → engDown s aesLanes = false →
       useKey s fn (dKey x.desc) 4 algAes = .inr (h, key, t) → 8 ≤ dTag x.desc → dTag x.desc ≤ 16 →
       dLen x.desc ≤ 2 ^ 30 → dAuxLen x.desc = 0 →
       exec (.aesCmacGenerate fn r io) s = .next (conclude (ringKey fn r) x { st := t, out := (cmac key (inOf x.desc io)).take (dTag x.desc) }))
  ∧ (∀ (s : State) (fn : Fin 16) (r : Fin 8) (io : CmdIo) (x : Staged) (h : Slot) (key : Bytes) (t : State),
       jobOf s fn r 0x11 = some x → engDown s aesLanes = false →
       useKey s fn (dKey x.desc) 5 algAes = .inr (h, key, t) → 8 ≤ dTag x.desc → dTag x.desc ≤ 16 →
       dLen x.desc ≤ 2 ^ 30 → dAuxLen x.desc = dTag x.desc →
       exec (.aesCmacVerify fn r io) s = .next (conclude (ringKey fn r) x { st := t, vfy := decide ((cmac key (inOf x.desc io)).take (dTag x.desc) = (auxOf x.desc io)), result := if (cmac key (inOf x.desc io)).take (dTag x.desc) = (auxOf x.desc io) then 0 else 1 }))

/-- A command on an engine with a key completes BAD_DESC when its operands are out of their limits, ABORTED when every
engine of its kind is gated, NO_KEY when its handle names no LIVE slot under the root in force, and DENIED when the
slot is another owner's or its usage or algorithm does not serve; a slot that does not serve at present is NO_KEY, and
otherwise the material that its cache entry holds is used. A command row finds the oldest taken descriptor of its ring
with its opcode that does not wait, and does nothing without one. A completion with a status other than OK, without
output or of a silenced descriptor writes no data; otherwise the data goes to OUT_ADDR before the completion is
formed. An answer that waits forms none. (15_command_set.md, 09_key_vault.md, 04_power_reset_kindle.md,
14_host_rings.md.) -/
def Obligations.RefusalsAndAnswers : Prop :=
  (∀ (s : State) (fn usage : Nat) (d : Bytes) (engs : List Nat) (alg : Nat → Bool) (f : State → Slot → Bytes → Ans),
       keyed s fn d false engs usage alg f = .stop s 0x11)
  ∧ (∀ (s : State) (fn usage : Nat) (d : Bytes) (engs : List Nat) (alg : Nat → Bool) (f : State → Slot → Bytes → Ans),
       engDown s engs = true →
       keyed s fn d true engs usage alg f = .stop s 0x21)
  ∧ (∀ (s : State) (fn usage k : Nat) (d : Bytes) (engs : List Nat) (alg : Nat → Bool) (f : State → Slot → Bytes → Ans) (t : State),
       engDown s engs = false → useKey s fn (dKey d) usage alg = .inl (k, t) →
       keyed s fn d true engs usage alg f = .stop t k)
  ∧ (∀ (s : State) (owner usage : Nat) (h : Word) (alg : Nat → Bool), resolve s h = none →
       useKey s owner h usage alg = .inl (0x12, s))
  ∧ (∀ (s : State) (owner usage n : Nat) (h : Word) (alg : Nat → Bool) (y : Slot), resolve s h = some (n, y) →
       y.owner ≠ owner ∨ y.usage ≠ usage % 8 ∨ alg y.alg = false →
       useKey s owner h usage alg = .inl (0x10, s))
  ∧ (∀ (s : State) (owner usage n : Nat) (h : Word) (alg : Nat → Bool) (y : Slot), resolve s h = some (n, y) →
       y.owner = owner → y.usage = usage % 8 → alg y.alg = true → servesNow s y (accepting usage) = false →
       useKey s owner h usage alg = .inl (0x12, s))
  ∧ (∀ (s : State) (owner usage n : Nat) (h : Word) (alg : Nat → Bool) (y : Slot) (e : CacheEnt),
       resolve s h = some (n, y) → y.owner = owner → y.usage = usage % 8 → alg y.alg = true →
       servesNow s y (accepting usage) = true → cacheOf s n = some e →
       useKey s owner h usage alg = .inr (y, e.mat, s.setVlt { s.vlt with cache := s.vlt.cache.filter (·.slot ≠ n) ++ [e] }))
  ∧ (∀ (s : State) (fn r op : Nat) (f : State → Bytes → Ans), jobOf s fn r op = none →
       serveCmd s fn r op f = s)
  ∧ (∀ (s : State) (fn r op : Nat) (x : Staged), jobOf s fn r op = some x →
       (getRing s (ringKey fn r)).cls ≠ 0 ∧ x ∈ (getRing s (ringKey fn r)).running ∧ dOp x.desc = op ∧ isWaiting s (ringKey fn r) x.slot = false ∧ s.tmp.trig = none)
  ∧ (∀ (k : Nat) (x : Staged) (a : Ans), a.wait = none → a.status ≠ 0 ∨ a.out = [] ∨ x.muted = true →
       conclude k x a = a.after (endRunning a.st k x (cplAns x a)))
  ∧ (∀ (k : Nat) (x : Staged) (a : Ans), a.wait = none → a.status = 0 → a.out ≠ [] → x.muted = false →
       conclude k x a = a.after (endRunning (emitOut a.st (.data (BitVec.ofNat 64 (dOut x.desc)) a.out)) k x (cplAns x a)))
  ∧ (∀ (k : Nat) (x : Staged) (a : Ans) (t : WaitTag), a.wait = some t →
       conclude k x a = a.after (a.st.setHif { a.st.hif with waits := a.st.hif.waits ++ [{ key := k, slot := x.slot, tag := t }] }))
  ∧ (∀ (x : Staged) (a : Ans),
       (cplAns x a).status = BitVec.ofNat 8 a.status ∧ (cplAns x a).detail = a.detail ∧ (cplAns x a).result = a.result ∧ (cplAns x a).vfy = a.vfy ∧ (cplAns x a).slot = x.slot ∧ (cplAns x a).reqId = dReq x.desc ∧ (cplAns x a).outLen = BitVec.ofNat 32 (if a.status = 0 then a.out.length else 0))

/-- A sign command with its operands in order, neither PKE instance gated and a SIGN key of its algorithm completes OK
with the signature of its message, or of the digest that HMODE 1 gives, verified before its release; when it does not
verify, or ML-DSA-65 finds none, it completes ABORTED without output, and while no random bytes can be drawn
NOT_READY. With one instance gated, which could not verify it, a sign command in order completes ABORTED. How the
nonce is formed from the drawn bytes is open (log 12), and so is the ML-DSA-65 computation (log 11). A verify command
needs no key: with AUX of the length its algorithm gives and a PKE instance not gated it completes OK, VFY set as the
signature verifies, and the reason of a failure in RESULT; the hybrid command names the part that fails first; AUX of
another length is BAD_DESC. (15_command_set.md, 12_crypto_engines.md, 13_entropy.md.) -/
def Obligations.SignAndVerifyCommands : Prop :=
  (∀ (s : State) (fn : Fin 16) (r : Fin 8) (io : CmdIo) (x : Staged) (h : Slot) (key : Bytes) (t : State),
       jobOf s fn r 0x20 = some x → engLacks s pkeEngs = false →
       useKey s fn (dKey x.desc) 6 (fun a => a = 5 || a = 6) = .inr (h, key, t) → dOpnd x.desc 0 = 0 →
       exec (.ecdsaSign fn r io) s = .next (conclude (ringKey fn r) x (match rngDraw t (addOf fn (dOp x.desc) (dReq x.desc)) (if h.alg = 5 then 40 else 56) (dPr x.desc) with
         | .inr (b, u) =>
         (if ecdsaVerify (curveOf h.alg) (ecPub (curveOf h.alg) (beNat key)) (ecdsaSignK (curveOf h.alg) (beNat key) (Config.nonceFrom h.alg b) (if h.alg = 5 then sha256 (inOf x.desc io) else sha384 (inOf x.desc io))) (if h.alg = 5 then sha256 (inOf x.desc io) else sha384 (inOf x.desc io)) = 0
         then { st := u, out := ecdsaSignK (curveOf h.alg) (beNat key) (Config.nonceFrom h.alg b) (if h.alg = 5 then sha256 (inOf x.desc io) else sha384 (inOf x.desc io)) } else .stop u 0x21)
         | .inl w => .notReady t w)))
  ∧ (∀ (s : State) (fn : Fin 16) (r : Fin 8) (io : CmdIo) (x : Staged) (h : Slot) (key : Bytes) (t : State),
       jobOf s fn r 0x20 = some x → engLacks s pkeEngs = false →
       useKey s fn (dKey x.desc) 6 (fun a => a = 5 || a = 6) = .inr (h, key, t) → dOpnd x.desc 0 = 1 →
       dLen x.desc = coordLen h.alg →
       exec (.ecdsaSign fn r io) s = .next (conclude (ringKey fn r) x (match rngDraw t (addOf fn (dOp x.desc) (dReq x.desc)) (if h.alg = 5 then 40 else 56) (dPr x.desc) with
         | .inr (b, u) =>
         (if ecdsaVerify (curveOf h.alg) (ecPub (curveOf h.alg) (beNat key)) (ecdsaSignK (curveOf h.alg) (beNat key) (Config.nonceFrom h.alg b) (inOf x.desc io)) (inOf x.desc io) = 0
         then { st := u, out := ecdsaSignK (curveOf h.alg) (beNat key) (Config.nonceFrom h.alg b) (inOf x.desc io) } else .stop u 0x21)
         | .inl w => .notReady t w)))
  ∧ (∀ (s : State) (fn : Fin 16) (r : Fin 8) (io : CmdIo) (x : Staged) (h : Slot) (key : Bytes) (t : State),
       jobOf s fn r 0x20 = some x → engLacks s pkeEngs = false →
       useKey s fn (dKey x.desc) 6 (fun a => a = 5 || a = 6) = .inr (h, key, t) → dOpnd x.desc 0 = 1 →
       dLen x.desc ≠ coordLen h.alg →
       exec (.ecdsaSign fn r io) s = .next (conclude (ringKey fn r) x (.stop t 0x11)))
  ∧ (∀ (s : State) (fn : Fin 16) (r : Fin 8) (io : CmdIo) (x : Staged) (h : Slot) (key : Bytes) (t : State),
       jobOf s fn r 0x22 = some x → engLacks s pkeEngs = false →
       useKey s fn (dKey x.desc) 6 (· = 7) = .inr (h, key, t) → dLen x.desc ≤ 65536 →
       exec (.ed25519Sign fn r io) s = .next (conclude (ringKey fn r) x (if edVerify (edPub key) (edSign key (inOf x.desc io)) (inOf x.desc io) = 0 then { st := t, out := edSign key (inOf x.desc io) } else .stop t 0x21)))
  ∧ (∀ (s : State) (fn : Fin 16) (r : Fin 8) (io : CmdIo) (x : Staged) (h : Slot) (key : Bytes) (t : State),
       jobOf s fn r 0x24 = some x → engLacks s pkeEngs = false →
       useKey s fn (dKey x.desc) 6 (· = 8) = .inr (h, key, t) → dAuxLen x.desc = dOpnd x.desc 3 →
       exec (.mlDsa65Sign fn r io) s = .next (conclude (ringKey fn r) x (match rngDraw t (addOf fn (dOp x.desc) (dReq x.desc)) 32 (dPr x.desc) with
         | .inr (rnd, u) =>
         (match Config.mlDsaSign key (auxOf x.desc io) (inOf x.desc io) rnd with
         | some sig => (if Config.mlDsaVerify (Config.mlDsaPub key) (auxOf x.desc io) (inOf x.desc io) sig then { st := u, out := slice sig 0 3309 } else .stop u 0x21)
         | none => .stop u 0x21)
         | .inl w => .notReady t w)))
  ∧ (∀ (s : State) (fn : Fin 16) (r : Fin 8) (io : CmdIo) (x : Staged), jobOf s fn r 0x21 = some x →
       engDown s pkeEngs = false → dOpnd x.desc 0 = 0 → dOpnd x.desc 2 = 1 ∨ dOpnd x.desc 2 = 2 →
       dAuxLen x.desc = 4 * coordLen (dOpnd x.desc 2 + 4) + 1 →
       exec (.ecdsaVerify fn r io) s = .next (conclude (ringKey fn r) x { st := s, vfy := decide ((ecdsaVerify (curveOf (dOpnd x.desc 2 + 4)) ((auxOf x.desc io).take (2 * coordLen (dOpnd x.desc 2 + 4) + 1)) ((auxOf x.desc io).drop (2 * coordLen (dOpnd x.desc 2 + 4) + 1)) (if dOpnd x.desc 2 = 1 then sha256 (inOf x.desc io) else sha384 (inOf x.desc io))) = 0), result := BitVec.ofNat 64 (ecdsaVerify (curveOf (dOpnd x.desc 2 + 4)) ((auxOf x.desc io).take (2 * coordLen (dOpnd x.desc 2 + 4) + 1)) ((auxOf x.desc io).drop (2 * coordLen (dOpnd x.desc 2 + 4) + 1)) (if dOpnd x.desc 2 = 1 then sha256 (inOf x.desc io) else sha384 (inOf x.desc io))) }))
  ∧ (∀ (s : State) (fn : Fin 16) (r : Fin 8) (io : CmdIo) (x : Staged), jobOf s fn r 0x21 = some x →
       engDown s pkeEngs = false → dOpnd x.desc 0 = 1 → dOpnd x.desc 2 = 1 ∨ dOpnd x.desc 2 = 2 →
       dLen x.desc = coordLen (dOpnd x.desc 2 + 4) → dAuxLen x.desc = 4 * coordLen (dOpnd x.desc 2 + 4) + 1 →
       exec (.ecdsaVerify fn r io) s = .next (conclude (ringKey fn r) x { st := s, vfy := decide ((ecdsaVerify (curveOf (dOpnd x.desc 2 + 4)) ((auxOf x.desc io).take (2 * coordLen (dOpnd x.desc 2 + 4) + 1)) ((auxOf x.desc io).drop (2 * coordLen (dOpnd x.desc 2 + 4) + 1)) (inOf x.desc io)) = 0), result := BitVec.ofNat 64 (ecdsaVerify (curveOf (dOpnd x.desc 2 + 4)) ((auxOf x.desc io).take (2 * coordLen (dOpnd x.desc 2 + 4) + 1)) ((auxOf x.desc io).drop (2 * coordLen (dOpnd x.desc 2 + 4) + 1)) (inOf x.desc io)) }))
  ∧ (∀ (s : State) (fn : Fin 16) (r : Fin 8) (io : CmdIo) (x : Staged), jobOf s fn r 0x23 = some x →
       engDown s pkeEngs = false → dAuxLen x.desc = 96 →
       exec (.ed25519Verify fn r io) s = .next (conclude (ringKey fn r) x { st := s, vfy := decide ((edVerify ((auxOf x.desc io).take 32) ((auxOf x.desc io).drop 32) (inOf x.desc io)) = 0), result := BitVec.ofNat 64 (edVerify ((auxOf x.desc io).take 32) ((auxOf x.desc io).drop 32) (inOf x.desc io)) }))
  ∧ (∀ (s : State) (fn : Fin 16) (r : Fin 8) (io : CmdIo) (x : Staged), jobOf s fn r 0x23 = some x →
       dAuxLen x.desc ≠ 96 →
       exec (.ed25519Verify fn r io) s = .next (conclude (ringKey fn r) x (.stop s 0x11)))
  ∧ (∀ (s : State) (fn : Fin 16) (r : Fin 8) (io : CmdIo) (x : Staged), jobOf s fn r 0x25 = some x →
       engDown s pkeEngs = false → dAuxLen x.desc = 5261 + dOpnd x.desc 3 →
       exec (.mlDsa65Verify fn r io) s = .next (conclude (ringKey fn r) x { st := s, vfy := decide ((if mlRangeBad (slice (auxOf x.desc io) 1952 3309) then 3 else if Config.mlDsaVerify ((auxOf x.desc io).take 1952) ((auxOf x.desc io).drop 5261) (inOf x.desc io) (slice (auxOf x.desc io) 1952 3309) then 0 else 1) = 0), result := BitVec.ofNat 64 (if mlRangeBad (slice (auxOf x.desc io) 1952 3309) then 3 else if Config.mlDsaVerify ((auxOf x.desc io).take 1952) ((auxOf x.desc io).drop 5261) (inOf x.desc io) (slice (auxOf x.desc io) 1952 3309) then 0 else 1) }))
  ∧ (∀ (s : State) (fn : Fin 16) (r : Fin 8) (io : CmdIo) (x : Staged), jobOf s fn r 0x26 = some x →
       engDown s pkeEngs = false → dAuxLen x.desc = 5454 + dOpnd x.desc 3 →
       ecdsaVerify p384 ((auxOf x.desc io).take 97) (slice (auxOf x.desc io) 2049 96) (sha384 (inOf x.desc io)) ≠ 0 →
       exec (.hybridVerify fn r io) s = .next (conclude (ringKey fn r) x { st := s, vfy := false, result := BitVec.ofNat 64 (ecdsaVerify p384 ((auxOf x.desc io).take 97) (slice (auxOf x.desc io) 2049 96) (sha384 (inOf x.desc io))) }))
  ∧ (∀ (s : State) (fn : Fin 16) (r : Fin 8) (io : CmdIo) (x : Staged), jobOf s fn r 0x26 = some x →
       engDown s pkeEngs = false → dAuxLen x.desc = 5454 + dOpnd x.desc 3 →
       exec (.hybridVerify fn r io) s = .next (conclude (ringKey fn r) x { st := s, vfy := decide ((if ecdsaVerify p384 ((auxOf x.desc io).take 97) (slice (auxOf x.desc io) 2049 96) (sha384 (inOf x.desc io)) ≠ 0 then ecdsaVerify p384 ((auxOf x.desc io).take 97) (slice (auxOf x.desc io) 2049 96) (sha384 (inOf x.desc io)) else if mlRangeBad (slice (auxOf x.desc io) 2145 3309) then 3 else if Config.mlDsaVerify (slice (auxOf x.desc io) 97 1952) ((auxOf x.desc io).drop 5454) (inOf x.desc io) (slice (auxOf x.desc io) 2145 3309) then 0 else 1) = 0), result := BitVec.ofNat 64 (if ecdsaVerify p384 ((auxOf x.desc io).take 97) (slice (auxOf x.desc io) 2049 96) (sha384 (inOf x.desc io)) ≠ 0 then ecdsaVerify p384 ((auxOf x.desc io).take 97) (slice (auxOf x.desc io) 2049 96) (sha384 (inOf x.desc io)) else if mlRangeBad (slice (auxOf x.desc io) 2145 3309) then 3 else if Config.mlDsaVerify (slice (auxOf x.desc io) 97 1952) ((auxOf x.desc io).drop 5454) (inOf x.desc io) (slice (auxOf x.desc io) 2145 3309) then 0 else 1) }))
  ∧ (∀ (s : State) (fn : Fin 16) (r : Fin 8) (io : CmdIo) (x : Staged), jobOf s fn r 0x20 = some x →
       engLacks s pkeEngs = true → dOpnd x.desc 0 ≤ 1 →
       exec (.ecdsaSign fn r io) s = .next (conclude (ringKey fn r) x (.stop s 0x21)))
  ∧ (∀ (s : State) (fn : Fin 16) (r : Fin 8) (io : CmdIo) (x : Staged), jobOf s fn r 0x22 = some x →
       engLacks s pkeEngs = true → dLen x.desc ≤ 65536 →
       exec (.ed25519Sign fn r io) s = .next (conclude (ringKey fn r) x (.stop s 0x21)))
  ∧ (∀ (s : State) (fn : Fin 16) (r : Fin 8) (io : CmdIo) (x : Staged), jobOf s fn r 0x24 = some x →
       engLacks s pkeEngs = true → dAuxLen x.desc = dOpnd x.desc 3 →
       exec (.mlDsa65Sign fn r io) s = .next (conclude (ringKey fn r) x (.stop s 0x21)))

/-- RSA uses the database object that OPND names, on a PKE instance not gated: a signature over the SHA-256 digest of
the message or over the given digest, PKCS#1 v1.5 or PSS with 32 drawn bytes of salt, by the CRT form of its private
key; an OAEP decryption gives the plaintext, and the status of a failure is open (log 41); verification takes n, e and
the signature from AUX and names the reason of a failure (whether PSS also verifies is open, log 40). A status of the
object ends the command with it. A public key read of a SIGN or AGREE key, or of a database object, gives the public
part of the key and DENIED where its algorithm has none; RANDOM of 1 to 65,536 bytes gives that many bytes of the
generator, and any other length is BAD_DESC. While no bytes can be drawn the command completes NOT_READY with the wait
in DETAIL. (15_command_set.md, 12_crypto_engines.md, 09_key_vault.md, 13_entropy.md.) -/
def Obligations.RsaAndPublicCommands : Prop :=
  (∀ (s : State) (fn : Fin 16) (r : Fin 8) (io : CmdIo) (x : Staged), jobOf s fn r 0x2A = some x →
       dOpnd x.desc 0 = 0 ∨ (dOpnd x.desc 0 = 1 ∧ dLen x.desc = 32) → engDown s pkeEngs = false →
       dOpnd x.desc 1 = 0 → dOpnd x.desc 6 = 1 →
       exec (.rsaSign fn r io) s = .next (conclude (ringKey fn r) x (match objOpen s fn (dOpndN x.desc 4 2) (· = 6) (fun a => a = 10 || a = 11) with
         | .inr (h, m) => { st := s, out := beBytes (rsaLen (byteAt h 3)) (rsaPriv (rsaLen (byteAt h 3)) m (beNat (pkcs1Pad (rsaLen (byteAt h 3)) (if dOpnd x.desc 0 = 0 then sha256 (inOf x.desc io) else (inOf x.desc io))))) }
         | .inl k => .stop s k)))
  ∧ (∀ (s : State) (fn : Fin 16) (r : Fin 8) (io : CmdIo) (x : Staged), jobOf s fn r 0x2A = some x →
       dOpnd x.desc 0 = 0 ∨ (dOpnd x.desc 0 = 1 ∧ dLen x.desc = 32) → engDown s pkeEngs = false →
       dOpnd x.desc 1 = 1 → dOpnd x.desc 6 = 1 →
       exec (.rsaSign fn r io) s = .next (conclude (ringKey fn r) x (match objOpen s fn (dOpndN x.desc 4 2) (· = 6) (fun a => a = 10 || a = 11) with
         | .inr (h, m) => (match rngDraw s (addOf fn (dOp x.desc) (dReq x.desc)) 32 (dPr x.desc) with
         | .inr (salt, u) => { st := u, out := beBytes (rsaLen (byteAt h 3)) (rsaPriv (rsaLen (byteAt h 3)) m (beNat (pssPad (rsaLen (byteAt h 3)) (if dOpnd x.desc 0 = 0 then sha256 (inOf x.desc io) else (inOf x.desc io)) salt))) }
         | .inl w => .notReady s w)
         | .inl k => .stop s k)))
  ∧ (∀ (s : State) (fn : Fin 16) (r : Fin 8) (io : CmdIo) (x : Staged), jobOf s fn r 0x2B = some x →
       dOpnd x.desc 0 = 0 ∨ (dOpnd x.desc 0 = 1 ∧ dLen x.desc = 32) → engDown s pkeEngs = false →
       dOpnd x.desc 2 = 1 → dAuxLen x.desc = 516 →
       exec (.rsaVerify fn r io) s = .next (conclude (ringKey fn r) x (let n := beNat ((auxOf x.desc io).take 256); let e := beNat (slice (auxOf x.desc io) 256 4); let sg := beNat ((auxOf x.desc io).drop 260);
         let em := beBytes 256 (rsaPow n e sg);
         let why := if rsaPubOk 256 n e = false then 2 else if n ≤ sg then 3 else if em = pkcs1Pad 256 (if dOpnd x.desc 0 = 0 then sha256 (inOf x.desc io) else (inOf x.desc io)) ∨ (Config.rsaPss = true ∧ pssCheck 256 (if dOpnd x.desc 0 = 0 then sha256 (inOf x.desc io) else (inOf x.desc io)) em = true) then 0 else 1;
         { st := s, vfy := decide (why = 0), result := BitVec.ofNat 64 why })))
  ∧ (∀ (s : State) (fn : Fin 16) (r : Fin 8) (io : CmdIo) (x : Staged), jobOf s fn r 0x2B = some x →
       dOpnd x.desc 0 = 0 ∨ (dOpnd x.desc 0 = 1 ∧ dLen x.desc = 32) → engDown s pkeEngs = false →
       dOpnd x.desc 2 = 2 → dAuxLen x.desc = 1028 →
       exec (.rsaVerify fn r io) s = .next (conclude (ringKey fn r) x (let n := beNat ((auxOf x.desc io).take 512); let e := beNat (slice (auxOf x.desc io) 512 4); let sg := beNat ((auxOf x.desc io).drop 516);
         let em := beBytes 512 (rsaPow n e sg);
         let why := if rsaPubOk 512 n e = false then 2 else if n ≤ sg then 3 else if em = pkcs1Pad 512 (if dOpnd x.desc 0 = 0 then sha256 (inOf x.desc io) else (inOf x.desc io)) ∨ (Config.rsaPss = true ∧ pssCheck 512 (if dOpnd x.desc 0 = 0 then sha256 (inOf x.desc io) else (inOf x.desc io)) em = true) then 0 else 1;
         { st := s, vfy := decide (why = 0), result := BitVec.ofNat 64 why })))
  ∧ (∀ (s : State) (fn : Fin 16) (r : Fin 8) (io : CmdIo) (x : Staged), jobOf s fn r 0x2B = some x →
       dOpnd x.desc 2 ≠ 1 → dOpnd x.desc 2 ≠ 2 →
       exec (.rsaVerify fn r io) s = .next (conclude (ringKey fn r) x (.stop s 0x11)))
  ∧ (∀ (s : State) (fn : Fin 16) (r : Fin 8) (io : CmdIo) (x : Staged), jobOf s fn r 0x2C = some x →
       dAuxLen x.desc ≤ 255 → dLen x.desc = 256 ∨ dLen x.desc = 512 → engDown s pkeEngs = false →
       dOpnd x.desc 6 = 1 →
       exec (.rsaOaepDecrypt fn r io) s = .next (conclude (ringKey fn r) x (match objOpen s fn (dOpndN x.desc 4 2) (· = 1) (fun a => a = 10 || a = 11) with
         | .inr (h, m) =>
         (if dLen x.desc ≠ rsaLen (byteAt h 3) then .stop s 0x11
         else if rsaN (rsaLen (byteAt h 3)) m ≤ beNat (inOf x.desc io) then .stop s (if Config.oaepDenied then 0x10 else 0x21)
         else (match oaepDecode (rsaLen (byteAt h 3)) (auxOf x.desc io) (beBytes (rsaLen (byteAt h 3)) (rsaPriv (rsaLen (byteAt h 3)) m (beNat (inOf x.desc io)))) with
         | some p => { st := s, out := p }
         | none => .stop s (if Config.oaepDenied then 0x10 else 0x21)))
         | .inl k => .stop s k)))
  ∧ (∀ (s : State) (fn : Nat) (d : Bytes) (f : Nat → Bytes → Ans),
       withRsa s fn d 6 f = if dOpnd d 6 ≠ 1 then .stop s 0x11 else if engDown s pkeEngs = true then .stop s 0x21 else match objOpen s fn (dOpndN d 4 2) (· = 6) (fun a => a = 10 || a = 11) with | .inr (h, m) => f (rsaLen (byteAt h 3)) m | .inl k => .stop s k)
  ∧ (∀ (s : State) (fn : Fin 16) (r : Fin 8) (io : CmdIo) (x : Staged) (h : Slot) (key : Bytes) (t : State),
       jobOf s fn r 0x2E = some x → engDown s pkeEngs = false →
       useKey s fn (dKey x.desc) 14 (fun a => 5 ≤ a && a ≤ 8) = .inr (h, key, t) →
       (resolve s (dKey x.desc)).any (fun p => p.2.usage = 7) = false → dOpnd x.desc 6 = 0 → dOpndN x.desc 4 2 = 0 →
       exec (.publicKeyRead fn r io) s = .next (conclude (ringKey fn r) x (match pubOf h.alg key with | some p => { st := t, out := p } | none => .stop t 0x10)))
  ∧ (∀ (s : State) (fn : Fin 16) (r : Fin 8) (io : CmdIo) (x : Staged) (h : Slot) (key : Bytes) (t : State),
       jobOf s fn r 0x2E = some x → engDown s pkeEngs = false →
       useKey s fn (dKey x.desc) 15 (fun a => 5 ≤ a && a ≤ 8) = .inr (h, key, t) →
       (resolve s (dKey x.desc)).any (fun p => p.2.usage = 7) = true → dOpnd x.desc 6 = 0 → dOpndN x.desc 4 2 = 0 →
       exec (.publicKeyRead fn r io) s = .next (conclude (ringKey fn r) x (match pubOf h.alg key with | some p => { st := t, out := p } | none => .stop t 0x10)))
  ∧ (∀ (s : State) (fn : Fin 16) (r : Fin 8) (io : CmdIo) (x : Staged), jobOf s fn r 0x2E = some x →
       engDown s pkeEngs = false → dOpnd x.desc 6 = 1 → dKey x.desc = 0 →
       exec (.publicKeyRead fn r io) s = .next (conclude (ringKey fn r) x (match objOpen s fn (dOpndN x.desc 4 2) (fun _ => true) (fun a => 5 ≤ a && a ≠ 9) with | .inr (h, m) => (match pubOf (byteAt h 3) m with | some p => { st := s, out := p } | none => .stop s 0x10) | .inl k => .stop s k)))
  ∧ (∀ (alg : Nat) (m : Bytes), alg = 5 →
       pubOf alg m = some (ecPub p256 (beNat m)))
  ∧ (∀ (alg : Nat) (m : Bytes), alg = 6 →
       pubOf alg m = some (ecPub p384 (beNat m)))
  ∧ (∀ (alg : Nat) (m : Bytes), alg = 7 →
       pubOf alg m = some (edPub m))
  ∧ (∀ (alg : Nat) (m : Bytes), alg ≤ 4 ∨ alg = 9 →
       pubOf alg m = none)
  ∧ (∀ (s : State) (fn : Fin 16) (r : Fin 8) (io : CmdIo) (x : Staged), jobOf s fn r 0x40 = some x →
       0 < dLen x.desc → dLen x.desc ≤ 65536 →
       exec (.random fn r io) s = .next (conclude (ringKey fn r) x (match rngDraw s (addOf fn (dOp x.desc) (dReq x.desc)) (dLen x.desc) (dPr x.desc) with | .inr (b, u) => { st := u, out := b } | .inl w => .notReady s w)))
  ∧ (∀ (s : State) (fn : Fin 16) (r : Fin 8) (io : CmdIo) (x : Staged), jobOf s fn r 0x40 = some x →
       dLen x.desc = 0 ∨ 65536 < dLen x.desc →
       exec (.random fn r io) s = .next (conclude (ringKey fn r) x (.stop s 0x11)))

/-- A key specification out of its limits, or with another ALG or USAGE than its association, is BAD_DESC; one whose
precondition does not hold is DENIED with the current SN; no quota, pin or free slot is QUOTA; otherwise the
lowest-numbered free slot of the owner is taken. (15_command_set.md, 09_key_vault.md.) -/
def Obligations.KeyChecks : Prop :=
  (∀ (s : State) (fn : Nat) (d : Bytes), specOk d = false ∨ specAlg s (specOf d) = false →
       newKeyCheck s fn d = .inl (.stop s 0x11))
  ∧ (∀ (s : State) (fn : Nat) (d : Bytes), specOk d = true → specAlg s (specOf d) = true →
       specPre s fn (specOf d) = false →
       newKeyCheck s fn d = .inl { st := s, status := 0x10, result := BitVec.ofNat 64 (currentSn s (dOpndN d 0 2 % 4096)) })
  ∧ (∀ (s : State) (fn : Nat) (d : Bytes), specOk d = true → specAlg s (specOf d) = true →
       specPre s fn (specOf d) = true →
       quotaOk s fn (dOpnd d 5 = 2) = false ∨ pinOk s fn (specPins s (specOf d)) = false →
       newKeyCheck s fn d = .inl (.stop s 0x13))
  ∧ (∀ (s : State) (fn n : Nat) (d : Bytes), specOk d = true → specAlg s (specOf d) = true →
       specPre s fn (specOf d) = true → quotaOk s fn (dOpnd d 5 = 2) = true →
       pinOk s fn (specPins s (specOf d)) = true → freeFor s fn = some n →
       newKeyCheck s fn d = .inr n ∧ (getSlot s n).state = 0 ∧ (if fn = 0 then 3 ≤ n ∧ n ≤ 31 else 32 ≤ n ∧ n ≤ 1023))
  ∧ (∀ (s : State) (fn n : Nat) (d : Bytes) (m : Bytes), getAssoc s (specOf d).assoc = none →
       getSlot (newKey s fn d n m true).st n = { owner := fn, usage := (specOf d).usage, exp := (specOf d).kflags % 2 = 1, alg := (specOf d).alg, state := 2, root := s.vlt.root, assoc := (specOf d).assoc, role := if (specOf d).role = 1 then 1 else 0, sn := if (specOf d).role = 0 then 0 else snNext (specOf d).expSn, body := sealBody s n { owner := fn, usage := (specOf d).usage, exp := (specOf d).kflags % 2 = 1, alg := (specOf d).alg, state := 2, root := s.vlt.root, assoc := (specOf d).assoc, role := if (specOf d).role = 1 then 1 else 0, sn := if (specOf d).role = 0 then 0 else snNext (specOf d).expSn } m }
         ∧ (newKey s fn d n m true).wait = none ∧ (newKey s fn d n m true).status = 0)
  ∧ (∀ (s : State) (fn n : Nat) (d : Bytes) (m : Bytes), kcvOf (specOf d).alg m = (specOf d).kcv →
       (newKey s fn d n m false).wait = some (.live n))
  ∧ (∀ (s : State) (fn n : Nat) (d : Bytes) (m : Bytes), kcvOf (specOf d).alg m ≠ (specOf d).kcv →
       (newKey s fn d n m false).wait = none ∧ (newKey s fn d n m false).status = 0x10)
  ∧ (∀ (s : State) (n : Nat), (getSlot s n).state ≠ 0 →
       (getSlot (dropKey s n) n).state = 3 ∧ (macHolds s n = false → (getSlot (dropKey s n) n).body = []) ∧ (dropKey s n).vlt.cache = s.vlt.cache.filter (·.slot ≠ n))

/-- With its checks passed and its engines not gated: KEY_GENERATE draws the material and makes the key PENDING;
KEY_IMPORT unwraps it with a WRAP key; KEY_DERIVE derives it from a DERIVE key and ECDH_DERIVE from the shared secret
with the peer; DB_LOAD takes it from the database. How a scalar is formed from drawn bytes is open (log 12).
(15_command_set.md, 09_key_vault.md.) -/
def Obligations.KeyMaking : Prop :=
  (∀ (s : State) (fn : Fin 16) (r : Fin 8) (io : CmdIo) (x : Staged) (n : Nat), jobOf s fn r 0x50 = some x →
       specOk x.desc = true → dOpndN x.desc 8 3 = 0 → (newKeyCheck s fn x.desc).getRight? = some n →
       engDown s aesLanes = false → engDown s pkeEngs = false →
       exec (.keyGenerate fn r io) s = .next (conclude (ringKey fn r) x (match rngDraw s (addOf fn (dOp x.desc) (dReq x.desc))
         (if (specOf x.desc).alg = 5 ∨ (specOf x.desc).alg = 6 then scalarBytes (specOf x.desc).alg else algLen (specOf x.desc).alg) (dPr x.desc) with
         | .inr (b, t) => newKey t fn x.desc n (if (specOf x.desc).alg = 5 ∨ (specOf x.desc).alg = 6 then beBytes (coordLen (specOf x.desc).alg) (Config.scalarFrom (specOf x.desc).alg b) else b) true
         | .inl w => .notReady s w)))
  ∧ (∀ (s : State) (fn : Fin 16) (r : Fin 8) (io : CmdIo) (x : Staged) (n : Nat), jobOf s fn r 0x51 = some x →
       specOk x.desc = true → dLen x.desc = blobLen (algLen (specOf x.desc).alg) →
       (newKeyCheck s fn x.desc).getRight? = some n → engDown s aesLanes = false →
       exec (.keyImport fn r io) s = .next (conclude (ringKey fn r) x (match useKey s fn (dKey x.desc) 2 algAes with
         | .inr (_, key, t) => (match kwpUnwrap key (inOf x.desc io) with
         | some m => (if m.length = algLen (specOf x.desc).alg then newKey t fn x.desc n m false else .stop t 0x10)
         | none => .stop t 0x10)
         | .inl (k, t) => .stop t k)))
  ∧ (∀ (s : State) (fn : Fin 16) (r : Fin 8) (io : CmdIo) (x : Staged) (n : Nat), jobOf s fn r 0x52 = some x →
       dAuxLen x.desc ≤ 64 → (newKeyCheck s fn x.desc).getRight? = some n → engDown s aesLanes = false →
       engDown s [4] = false →
       exec (.keyDerive fn r io) s = .next (conclude (ringKey fn r) x (match useKey s fn (dKey x.desc) 3 (· = 9) with
         | .inr (_, key, t) => newKey t fn x.desc n (kdf key (ascii "STOLTO-CHILD") (leBytes 1 (specOf x.desc).alg ++ leBytes 1 (specOf x.desc).usage ++ leBytes 1 (dAuxLen x.desc) ++ (auxOf x.desc io)) (algLen (specOf x.desc).alg)) false
         | .inl (k, t) => .stop t k)))
  ∧ (∀ (s : State) (fn : Fin 16) (r : Fin 8) (io : CmdIo) (x : Staged) (n : Nat) (h : Slot) (key : Bytes) (t : State),
       jobOf s fn r 0x28 = some x → (newKeyCheck s fn x.desc).getRight? = some n → engDown s pkeEngs = false →
       useKey s fn (dKey x.desc) 7 (fun a => a = 5 || a = 6) = .inr (h, key, t) →
       dAuxLen x.desc = 65 ∨ dAuxLen x.desc = 97 → dAuxLen x.desc = 2 * coordLen h.alg + 1 →
       exec (.ecdhDerive fn r io) s = .next (conclude (ringKey fn r) x (match ecdhZ (curveOf h.alg) (beNat key) (auxOf x.desc io) with
         | some z => newKey t fn x.desc n (kdf z (ascii "STOLTO-ECDH") (leBytes 8 (dOpndN x.desc 12 8)) (algLen (specOf x.desc).alg)) false
         | none => .stop t 0x11)))
  ∧ (∀ (s : State) (fn : Fin 16) (r : Fin 8) (io : CmdIo) (x : Staged) (n : Nat), jobOf s fn r 0x5D = some x →
       (newKeyCheck s fn x.desc).getRight? = some n → s.spi0.db.isOpen = true → rngReady s.rng = true →
       engDown s aesLanes = false →
       exec (.dbLoad fn r io) s = .next (conclude (ringKey fn r) x (match objOpen s fn (dOpndN x.desc 12 2) (· = (specOf x.desc).usage) (· = (specOf x.desc).alg) with
         | .inr (h, m) => (if (specOf x.desc).kflags % 2 = 1 ∧ byteAt h 5 % 2 = 0 then .stop s 0x10 else newKey s fn x.desc n m false)
         | .inl k => .stop s k)))
  ∧ (∀ (s : State) (fn : Fin 16) (r : Fin 8) (io : CmdIo) (x : Staged), jobOf s fn r 0x50 = some x →
       specOk x.desc = true → specAlg s (specOf x.desc) = true → specPre s fn (specOf x.desc) = false →
       dOpndN x.desc 8 3 = 0 →
       exec (.keyGenerate fn r io) s = .next (conclude (ringKey fn r) x (.precond s (specOf x.desc).assoc)))

/-- Each names an existing association of its owner: KEY_ZEROIZE zeroizes the slots its SN selects and completes when
they have been read back; ASSOC_SET stores the mirror mode, or, when its journaling fails, is ABORTED and changes no
association; KEY_COMMIT arms a generated key when its KCV agrees, loading that of a pinned replacement ahead of its
edge, and zeroizes it otherwise; KEY_PIN pins the resolving keys within the limits, KEY_UNPIN takes effect at the next
edge; KEY_INFO gives the record. No association is NO_KEY, another owner's DENIED. (15_command_set.md,
09_key_vault.md.) -/
def Obligations.KeyCare : Prop :=
  (∀ (s : State) (fn : Fin 16) (r : Fin 8) (io : CmdIo) (x : Staged) (a : Nat) (y : Assoc),
       jobOf s fn r 0x53 = some x → dOpndN x.desc 0 2 = a → a < 4096 → getAssoc s a = some y → y.owner = fn →
       (assocSlots s a).filter (fun p => dOpndN x.desc 6 2 = 0xFFFF || p.2.sn = dOpndN x.desc 6 2) ≠ [] →
       exec (.keyZeroize fn r io) s = .next (conclude (ringKey fn r) x { st := ((assocSlots s a).filter (fun p => dOpndN x.desc 6 2 = 0xFFFF || p.2.sn = dOpndN x.desc 6 2)).foldl zeroizeCmd s, wait := some (.zeroed a) }))
  ∧ (∀ (s : State) (fn : Fin 16) (r : Fin 8) (io : CmdIo) (x : Staged) (a : Nat) (y : Assoc),
       jobOf s fn r 0x53 = some x → dOpndN x.desc 0 2 = a → a < 4096 → getAssoc s a = some y → y.owner = fn →
       (assocSlots s a).filter (fun p => dOpndN x.desc 6 2 = 0xFFFF || p.2.sn = dOpndN x.desc 6 2) = [] →
       exec (.keyZeroize fn r io) s = .next (conclude (ringKey fn r) x (.stop s 0x12)))
  ∧ (∀ (s : State) (fn : Fin 16) (r : Fin 8) (io : CmdIo) (x : Staged) (a : Nat) (y : Assoc),
       jobOf s fn r 0x54 = some x → dOpndN x.desc 0 2 = a → a < 4096 → getAssoc s a = some y → y.owner = fn →
       dOpnd x.desc 4 = 0 ∨ dOpnd x.desc 4 = 2 →
       exec (.assocSet fn r io) s = .next (conclude (ringKey fn r) x (match journalAssocIo (s.setVlt { s.vlt with assocs := tput none s.vlt.assocs a (some { y with mirror := dOpnd x.desc 4 = 2 }) }) a io.fail with | (t, 2) => .stop (t.setVlt s.vlt) 0x21 | (t, _) => { st := t })))
  ∧ (∀ (s : State) (fn : Fin 16) (r : Fin 8) (io : CmdIo) (x : Staged) (a : Nat) (y : Assoc) (o : KeyOp),
       jobOf s fn r 0x55 = some x → dOpndN x.desc 0 2 = a → a < 4096 → getAssoc s a = some y → y.owner = fn →
       s.vlt.keyOps.find? (fun o => o.assoc = a && !o.armed && (getSlot s o.slot).sn = dOpndN x.desc 6 2) = some o →
       o.deadline.any (fun t => tickReached t s.glb.tick) = false → o.kcv = leBytes 3 (dOpndN x.desc 8 3) →
       exec (.keyCommit fn r io) s = .next (conclude (ringKey fn r) x { st := stageKey (s.setVlt { s.vlt with keyOps := s.vlt.keyOps.map fun (q : KeyOp) => if q.slot = o.slot then { q with armed := true, deadline := none } else q }) o, wait := some (.live o.slot) }))
  ∧ (∀ (s : State) (fn : Fin 16) (r : Fin 8) (io : CmdIo) (x : Staged) (a : Nat) (y : Assoc) (o : KeyOp),
       jobOf s fn r 0x55 = some x → dOpndN x.desc 0 2 = a → a < 4096 → getAssoc s a = some y → y.owner = fn →
       s.vlt.keyOps.find? (fun o => o.assoc = a && !o.armed && (getSlot s o.slot).sn = dOpndN x.desc 6 2) = some o →
       o.deadline.any (fun t => tickReached t s.glb.tick) = false → o.kcv ≠ leBytes 3 (dOpndN x.desc 8 3) →
       exec (.keyCommit fn r io) s = .next (conclude (ringKey fn r) x (.stop (dropKey s o.slot) 0x10)))
  ∧ (∀ (s : State) (fn : Fin 16) (r : Fin 8) (io : CmdIo) (x : Staged) (a : Nat) (y : Assoc),
       jobOf s fn r 0x57 = some x → dOpndN x.desc 0 2 = a → a < 4096 → getAssoc s a = some y → y.owner = fn →
       liveSlots s a ≠ [] →
       pinOk s fn (pinsMore s a (liveSlots s a)) = true → ((liveSlots s a).foldl pinSlot (s, 0)).2 ≠ 0 →
       exec (.keyPin fn r io) s = .next (conclude (ringKey fn r) x { st := ((liveSlots s a).foldl pinSlot (s, 0)).1.setVlt { ((liveSlots s a).foldl pinSlot (s, 0)).1.vlt with unpin := ((liveSlots s a).foldl pinSlot (s, 0)).1.vlt.unpin.filter (· ≠ a) }, result := BitVec.ofNat 64 ((liveSlots s a).foldl pinSlot (s, 0)).2 }))
  ∧ (∀ (s : State) (fn : Fin 16) (r : Fin 8) (io : CmdIo) (x : Staged) (a : Nat) (y : Assoc),
       jobOf s fn r 0x57 = some x → dOpndN x.desc 0 2 = a → a < 4096 → getAssoc s a = some y → y.owner = fn →
       liveSlots s a ≠ [] →
       pinOk s fn (pinsMore s a (liveSlots s a)) = false →
       exec (.keyPin fn r io) s = .next (conclude (ringKey fn r) x (.stop s 0x13)))
  ∧ (∀ (s : State) (fn : Fin 16) (r : Fin 8) (io : CmdIo) (x : Staged) (a : Nat) (y : Assoc),
       jobOf s fn r 0x58 = some x → dOpndN x.desc 0 2 = a → a < 4096 → getAssoc s a = some y → y.owner = fn →
       exec (.keyUnpin fn r io) s = .next (conclude (ringKey fn r) x { st := s.setVlt { s.vlt with unpin := s.vlt.unpin.filter (· ≠ a) ++ [a] } }))
  ∧ (∀ (s : State) (fn : Fin 16) (r : Fin 8) (io : CmdIo) (x : Staged) (a : Nat) (y : Assoc),
       jobOf s fn r 0x5B = some x → dOpndN x.desc 0 2 = a → a < 4096 → getAssoc s a = some y → y.owner = fn →
       exec (.keyInfo fn r io) s = .next (conclude (ringKey fn r) x { st := s, out := keyInfoRec s a y }))
  ∧ (∀ (s : State) (fn : Nat) (d : Bytes) (f : Nat → Assoc → Ans), dOpndN d 0 2 < 4096 →
       getAssoc s (dOpndN d 0 2) = none →
       withAssoc s fn d f = .stop s 0x12)
  ∧ (∀ (s : State) (fn : Nat) (d : Bytes) (f : Nat → Assoc → Ans) (y : Assoc), dOpndN d 0 2 < 4096 →
       getAssoc s (dOpndN d 0 2) = some y → y.owner ≠ fn →
       withAssoc s fn d f = .stop s 0x10)
  ∧ (∀ (s : State) (o : KeyOp), o.kind ≠ 2 ∨ assocPinned s o.assoc = false → stageKey s o = s)

/-- A schedule names the next key of an association that has no schedule; its end and the opening of its window must
be future ticks, else it is DENIED with the present and the earliest tick; without mirror mode it is set and X is the
result; with mirror mode the twin is asked and the completion waits, or is MIRROR_LOST where no link can be. A cancel
drops a schedule whose window has not opened and is DENIED otherwise. (15_command_set.md, 09_key_vault.md,
11_can_fd_custody_and_mirror.md.) -/
def Obligations.SeasonCommands : Prop :=
  (∀ (s : State) (fn : Fin 16) (r : Fin 8) (io : CmdIo) (x : Staged) (a : Nat) (y : Assoc),
       jobOf s fn r 0x59 = some x → dOpndN x.desc 0 2 = a → a < 4096 → getAssoc s a = some y → y.owner = fn →
       nextKey s a = none ∨ (seasonOf s a).isSome = true →
       exec (.seasonSchedule fn r io) s = .next (conclude (ringKey fn r) x { st := s, status := 0x10, result := BitVec.ofNat 64 (currentSn s a) }))
  ∧ (∀ (s : State) (fn : Fin 16) (r : Fin 8) (io : CmdIo) (x : Staged) (a : Nat) (y : Assoc),
       jobOf s fn r 0x59 = some x → dOpndN x.desc 0 2 = a → a < 4096 → getAssoc s a = some y → y.owner = fn →
       (nextKey s a).any (fun p => p.2.1.sn = dOpndN x.desc 6 2) = true → seasonOf s a = none →
       tickFuture (wordOf (dOpndN x.desc 12 4)) s.glb.tick = false ∨ tickFuture (wordOf (dOpndN x.desc 12 4) - wordOf (dOpndN x.desc 16 2)) s.glb.tick = false →
       exec (.seasonSchedule fn r io) s = .next (conclude (ringKey fn r) x { st := s, status := 0x10, result := BitVec.ofNat 64 (s.glb.tick.toNat + 2 ^ 32 * (s.glb.tick + 1 + wordOf (dOpndN x.desc 16 2)).toNat) }))
  ∧ (∀ (s : State) (fn : Fin 16) (r : Fin 8) (io : CmdIo) (x : Staged) (a : Nat) (y : Assoc),
       jobOf s fn r 0x59 = some x → dOpndN x.desc 0 2 = a → a < 4096 → getAssoc s a = some y → y.owner = fn →
       (nextKey s a).any (fun p => p.2.1.sn = dOpndN x.desc 6 2) = true → seasonOf s a = none →
       tickFuture (wordOf (dOpndN x.desc 12 4)) s.glb.tick = true →
       tickFuture (wordOf (dOpndN x.desc 12 4) - wordOf (dOpndN x.desc 16 2)) s.glb.tick = true → y.mirror = false →
       exec (.seasonSchedule fn r io) s = .next (conclude (ringKey fn r) x { st := seasonSet s a (wordOf (dOpndN x.desc 12 4)) (dOpndN x.desc 16 2), result := (wordOf (dOpndN x.desc 12 4)).setWidth 64 }))
  ∧ (∀ (s : State) (fn : Fin 16) (r : Fin 8) (io : CmdIo) (x : Staged) (a : Nat) (y : Assoc),
       jobOf s fn r 0x59 = some x → dOpndN x.desc 0 2 = a → a < 4096 → getAssoc s a = some y → y.owner = fn →
       (nextKey s a).any (fun p => p.2.1.sn = dOpndN x.desc 6 2) = true → seasonOf s a = none →
       tickFuture (wordOf (dOpndN x.desc 12 4)) s.glb.tick = true →
       tickFuture (wordOf (dOpndN x.desc 12 4) - wordOf (dOpndN x.desc 16 2)) s.glb.tick = true → y.mirror = true →
       exec (.seasonSchedule fn r io) s = .next (conclude (ringKey fn r) x (mirrorAsk s { assoc := a, sn := dOpndN x.desc 6 2, x := wordOf (dOpndN x.desc 12 4), ovlen := dOpndN x.desc 16 2 } 0x21 (seasonMsg a (dOpndN x.desc 6 2) ((nextKey s a).elim [] (·.2.2)) (wordOf (dOpndN x.desc 12 4)) (dOpndN x.desc 16 2)))))
  ∧ (∀ (s : State) (fn : Fin 16) (r : Fin 8) (io : CmdIo) (x : Staged) (a : Nat) (y : Assoc) (z : Season),
       jobOf s fn r 0x5A = some x → dOpndN x.desc 0 2 = a → a < 4096 → getAssoc s a = some y → y.owner = fn →
       seasonOf s a = some z → z.opened = false → z.rolled = false →
       tickReached (seasonOpenAt z) s.glb.tick = false → y.mirror = false →
       exec (.seasonCancel fn r io) s = .next (conclude (ringKey fn r) x { st := seasonDrop s a }))
  ∧ (∀ (s : State) (fn : Fin 16) (r : Fin 8) (io : CmdIo) (x : Staged) (a : Nat) (y : Assoc) (z : Season),
       jobOf s fn r 0x5A = some x → dOpndN x.desc 0 2 = a → a < 4096 → getAssoc s a = some y → y.owner = fn →
       seasonOf s a = some z → z.opened = false → z.rolled = false →
       tickReached (seasonOpenAt z) s.glb.tick = false → y.mirror = true →
       exec (.seasonCancel fn r io) s = .next (conclude (ringKey fn r) x (mirrorAsk s { assoc := a, sn := (nextKey s a).elim 0xFFFF (·.2.1.sn), cancel := true } 0x23 (leBytes 2 a ++ leBytes 2 ((nextKey s a).elim 0xFFFF (·.2.1.sn))))))
  ∧ (∀ (s : State) (fn : Fin 16) (r : Fin 8) (io : CmdIo) (x : Staged) (a : Nat) (y : Assoc),
       jobOf s fn r 0x5A = some x → dOpndN x.desc 0 2 = a → a < 4096 → getAssoc s a = some y → y.owner = fn →
       (seasonOf s a).any (fun z => !(z.opened || z.rolled || tickReached (seasonOpenAt z) s.glb.tick)) = false →
       exec (.seasonCancel fn r io) s = .next (conclude (ringKey fn r) x (.stop s 0x10)))
  ∧ (∀ (s : State) (p : Proposal) (typ : Nat) (pay : Bytes), mirrorUp s = false ∨ (getPeer s 1 (twinNode s)).lost = true ∨ s.can1.alone = true →
       mirrorAsk s p typ pay = .stop s 0x14)
  ∧ (∀ (s : State) (p : Proposal) (typ : Nat) (pay : Bytes), (getPeer s 1 (twinNode s)).isOpen = true →
       mirrorAsk s p typ pay = if mirrorUp s = false ∨ (getPeer s 1 (twinNode s)).lost = true ∨ s.can1.alone = true then .stop s 0x14
         else { st := mirrorQueue (s.setVoe { s.voe with proposals := s.voe.proposals ++ [p] }) (fun q => q ++ [mirrorMsg typ pay]), wait := some (.mirror p.assoc) })

/-- With the database open, DB_IMPORT unwraps its input with a WRAP key and stores the object under an OBJ_ID not in
use, wrapped again for its owner with a drawn IV; DB_DELETE removes and DB_INFO reads the header of an object of its
owner. A closed database, an OBJ_ID in use, an unwrap that fails or another owner's object is DENIED, an object that
does not exist NO_KEY, no free page DENIED with RESULT 1, a second failed readback of a page or a segment copy
ABORTED. (15_command_set.md, 16_serial_flash_ports.md, 09_key_vault.md.) -/
def Obligations.DatabaseCommands : Prop :=
  (∀ (s : State) (fn : Fin 16) (r : Fin 8) (io : CmdIo) (x : Staged) (h : Slot) (key : Bytes) (t : State),
       jobOf s fn r 0x5C = some x → dOpnd x.desc 2 ≤ 11 → dOpnd x.desc 3 ≤ 7 →
       algUsage (dOpnd x.desc 2) (dOpnd x.desc 3) = true → dOpnd x.desc 4 ≤ 1 →
       dLen x.desc = blobLen (algLen (dOpnd x.desc 2)) → s.spi0.db.isOpen = true →
       dbEntry s (dOpndN x.desc 12 2) = none → engDown s aesLanes = false →
       useKey s fn (dKey x.desc) 2 algAes = .inr (h, key, t) →
       exec (.dbImport fn r io) s = .next (conclude (ringKey fn r) x (match kwpUnwrap key (inOf x.desc io) with
         | none => .stop t 0x10
         | some m => (if m.length ≠ algLen (dOpnd x.desc 2) then .stop t 0x10 else
         (match rngDraw t (addOf fn (dOp x.desc) (dReq x.desc)) 12 (dPr x.desc) with
         | .inl w => .notReady t w
         | .inr (iv, u) => dbAns (dbPutObj u (dOpndN x.desc 12 2) (objSeal u fn (dOpndN x.desc 12 2) (dOpnd x.desc 2) (dOpnd x.desc 3) (dOpnd x.desc 4 = 1) iv m) io.fail))))))
  ∧ (∀ (s : State) (fn : Fin 16) (r : Fin 8) (io : CmdIo) (x : Staged), jobOf s fn r 0x5C = some x →
       dOpnd x.desc 2 ≤ 11 → dOpnd x.desc 3 ≤ 7 → algUsage (dOpnd x.desc 2) (dOpnd x.desc 3) = true →
       dOpnd x.desc 4 ≤ 1 → dLen x.desc = blobLen (algLen (dOpnd x.desc 2)) →
       s.spi0.db.isOpen = false ∨ (dbEntry s (dOpndN x.desc 12 2)).isSome = true →
       exec (.dbImport fn r io) s = .next (conclude (ringKey fn r) x (.stop s 0x10)))
  ∧ (∀ (s : State) (fn : Fin 16) (r : Fin 8) (io : CmdIo) (x : Staged), jobOf s fn r 0x5E = some x →
       s.spi0.db.isOpen = true →
       exec (.dbDelete fn r io) s = .next (conclude (ringKey fn r) x (match dbFind s (dOpndN x.desc 12 2) with | none => .stop s 0x12 | some b => if byteAt b 2 ≠ fn then .stop s 0x10 else dbAns (dbDelObj s (dOpndN x.desc 12 2) (fld io.fail 2 2), if 1 < fld io.fail 2 2 then 2 else 0))))
  ∧ (∀ (s : State) (fn : Fin 16) (r : Fin 8) (io : CmdIo) (x : Staged), jobOf s fn r 0x5E = some x →
       s.spi0.db.isOpen = false →
       exec (.dbDelete fn r io) s = .next (conclude (ringKey fn r) x (.stop s 0x10)))
  ∧ (∀ (s : State) (fn : Fin 16) (r : Fin 8) (io : CmdIo) (x : Staged), jobOf s fn r 0x5F = some x →
       exec (.dbInfo fn r io) s = .next (conclude (ringKey fn r) x (match dbFind s (dOpndN x.desc 12 2) with | none => .stop s 0x12 | some b => if byteAt b 2 ≠ fn then .stop s 0x10 else { st := s, out := b.take 32 })))

/-- CUSTODY_REQUEST with 64 bytes of AUX and OP 1 to 0x0D ends what was open, enters the record and commits it, and
completes when the request has been acknowledged, DENIED where the operation is not allowed, or NOT_READY;
CUSTODY_CANCEL clears the latch and the request; CUSTODY_STATUS gives REQ_NO, the state, the result and the latched
OP. With the latch for the operation and the arguments its record names: OWNER_CREATE raises the owner's epoch and
derives its branch; OWNER_DELETE completes once the owner's slots are free; KEY_EXPORT wraps a key that resolves,
serves at present and has EXPORT to the escrow point; KEY_RESTORE makes the key of such a blob. Without the latch each
is DENIED and changes nothing. An owner that exists is not created anew. (15_command_set.md,
10_custody_and_dual_control.md, 09_key_vault.md.) -/
def Obligations.CustodyAndOwnerCommands : Prop :=
  (∀ (s : State) (fn : Fin 16) (r : Fin 8) (io : CmdIo) (x : Staged), jobOf s fn r 0x70 = some x →
       dAuxLen x.desc = 64 → 1 ≤ dOpnd x.desc 0 → dOpnd x.desc 0 ≤ 0x0D →
       exec (.custodyRequest fn r io) s = .next (conclude (ringKey fn r) x (let u := custCancelAll s 4 0xA;
         let v := u.setCus { u.cus with req := leBytes 1 (dOpnd x.desc 0) ++ List.replicate 47 0 ++ (auxOf x.desc io).take 32 ++ (auxOf x.desc io).drop 32, candCfgk := if commForm u (dOpnd x.desc 0) then (auxOf x.desc io).drop 32 else u.cus.candCfgk };
         let w := custCommitRun v;
         if w.2.1 = 0 then { st := w.1, wait := some .request } else if w.2.1 = 2 then .notReady w.1 w.2.2 else .stop w.1 w.2.1)))
  ∧ (∀ (s : State) (fn : Fin 16) (r : Fin 8) (io : CmdIo) (x : Staged), jobOf s fn r 0x70 = some x →
       dAuxLen x.desc ≠ 64 ∨ dOpnd x.desc 0 = 0 ∨ 0x0D < dOpnd x.desc 0 →
       exec (.custodyRequest fn r io) s = .next (conclude (ringKey fn r) x (.stop s 0x11)))
  ∧ (∀ (s : State), custOpAllowed (custCancelAll s 4 0xA) (reqOp (custCancelAll s 4 0xA)) = false →
       custCommitRun s = ((custCancelAll s 4 0xA).setCus { (custCancelAll s 4 0xA).cus with form := commForm (custCancelAll s 4 0xA) (reqOp (custCancelAll s 4 0xA)) }, 0x10, 0))
  ∧ (∀ (s : State) (fn : Fin 16) (r : Fin 8) (io : CmdIo) (x : Staged), jobOf s fn r 0x71 = some x →
       exec (.custodyCancel fn r io) s = .next (conclude (ringKey fn r) x { st := custCancelAll s 4 0xA }))
  ∧ (∀ (s : State) (fn : Fin 16) (r : Fin 8) (io : CmdIo) (x : Staged), jobOf s fn r 0x72 = some x →
       exec (.custodyStatus fn r io) s = .next (conclude (ringKey fn r) x { st := s, result := resOf (leBytes 4 (reqNoOf s).toNat ++ leBytes 1 s.cus.state ++ leBytes 1 s.cus.result ++ leBytes 1 (if s.cus.latch.isSet then s.cus.latch.op else 0)) }))
  ∧ (∀ (s : State), s.cus.latch.isSet = true →
       (custCancelAll s 4 0xA).cus.latch.isSet = false)
  ∧ (∀ (s : State) (fn : Fin 16) (r : Fin 8) (io : CmdIo) (x : Staged), jobOf s fn r 0x73 = some x →
       latchFor s 0x01 = true → 1 ≤ dOpnd x.desc 0 → dOpnd x.desc 0 ≤ 15 → paramB s 0 = dOpnd x.desc 0 →
       ownerExists s (dOpnd x.desc 0) = false → s.vlt.epochs.getD (dOpnd x.desc 0) 0 ≠ 0xFFFFFFFF →
       exec (.ownerCreate fn r io) s = .next (conclude (ringKey fn r) x { st := deriveAll ((latchConsume s).setVlt { (latchConsume s).vlt with epochs := (latchConsume s).vlt.epochs.set (dOpnd x.desc 0) (s.vlt.epochs.getD (dOpnd x.desc 0) 0 + 1), exist := (latchConsume s).vlt.exist ||| BitVec.ofNat 16 (2 ^ dOpnd x.desc 0) }), result := (s.vlt.epochs.getD (dOpnd x.desc 0) 0 + 1).setWidth 64 }))
  ∧ (∀ (s : State) (fn : Fin 16) (r : Fin 8) (io : CmdIo) (x : Staged), jobOf s fn r 0x73 = some x →
       latchFor s 0x01 = true → 1 ≤ dOpnd x.desc 0 → dOpnd x.desc 0 ≤ 15 → paramB s 0 = dOpnd x.desc 0 →
       ownerExists s (dOpnd x.desc 0) = true →
       exec (.ownerCreate fn r io) s = .next (conclude (ringKey fn r) x (.stop s 0x10)))
  ∧ (∀ (s : State) (fn : Fin 16) (r : Fin 8) (io : CmdIo) (x : Staged), jobOf s fn r 0x74 = some x →
       latchFor s 0x02 = true → 1 ≤ dOpnd x.desc 0 → dOpnd x.desc 0 ≤ 15 → paramB s 0 = dOpnd x.desc 0 →
       ownerExists s (dOpnd x.desc 0) = true →
       exec (.ownerDelete fn r io) s = .next (conclude (ringKey fn r) x { st := latchConsume s, wait := some (.owner (dOpnd x.desc 0)) }))
  ∧ (∀ (s : State) (fn : Fin 16) (r : Fin 8) (io : CmdIo) (x : Staged), jobOf s fn r 0x75 = some x →
       latchFor s 0x03 = true → dOpnd x.desc 1 = 0 → dOpndN x.desc 4 2 = 0 → dAuxLen x.desc = 97 → paramB s 1 = 0 →
       leAt (reqParam s) 4 4 = (dKey x.desc).toNat →
       exec (.keyExport fn r io) s = .next (conclude (ringKey fn r) x (if sha256 (auxOf x.desc io) ≠ reqArg s then .stop s 0x10 else
         (match exportKey s x.desc with
         | .inl k => .stop k.2 k.1
         | .inr (owner, alg, usage, exp, m, v) =>
         (if exp = false then .stop v 0x10
         else if ptDecode p384 (auxOf x.desc io) = none then .stop v 0x11
         else if engDown v pkeEngs = true then .stop v 0x21
         else (match rngDraw v (addOf fn (dOp x.desc) (dReq x.desc)) 56 (dPr x.desc) with
         | .inl w => .notReady v w
         | .inr (b, u) => (match ecdhZ p384 (Config.scalarFrom 6 b) (auxOf x.desc io) with
         | none => .stop u 0x21
         | some z => { st := latchConsume u, out := blobHead owner alg usage m.length ++ ecPub p384 (Config.scalarFrom 6 b) ++ kwpWrap (exportKek z (blobHead owner alg usage m.length)) m })))))))
  ∧ (∀ (s : State) (fn : Fin 16) (r : Fin 8) (io : CmdIo) (x : Staged) (n : Nat), jobOf s fn r 0x76 = some x →
       latchFor s 0x04 = true → specOk x.desc = true → 0x81 ≤ dLen x.desc →
       leAt (reqParam s) 4 4 = (dKey x.desc).toNat → byteAt (inOf x.desc io) 4 = paramB s 0 →
       (newKeyCheck s (paramB s 0) x.desc).getRight? = some n →
       exec (.keyRestore fn r io) s = .next (conclude (ringKey fn r) x (if sha256 (inOf x.desc io) ≠ reqArg s then .stop s 0x10 else
         (match useKey s (paramB s 0) (dKey x.desc) 7 (· = 6) with
         | .inl (k, t) => .stop t k
         | .inr (_, key, t) => (if engDown t pkeEngs = true then .stop t 0x21 else
         (match ecdhZ p384 (beNat key) (slice (inOf x.desc io) 0x10 97) with
         | none => .stop t 0x11
         | some z => (match kwpUnwrap (exportKek z (inOf x.desc io)) ((inOf x.desc io).drop 0x71) with
         | none => .stop t 0x10
         | some m => (if m.length ≠ algLen (specOf x.desc).alg ∨ byteAt (inOf x.desc io) 5 ≠ (specOf x.desc).alg ∨ byteAt (inOf x.desc io) 6 ≠ (specOf x.desc).usage then .stop t 0x10
         else newKey (latchConsume t) (paramB s 0) x.desc n m false))))))))
  ∧ (∀ (s : State) (op : Nat) (same : Bool) (f : Ans), latchFor s op = false ∨ same = false →
       withLatch s op same f = .stop s 0x10)
  ∧ (∀ (s : State) (op : Nat),
       latchFor s op = true ↔ (s.cus.latch.isSet = true ∧ s.cus.latch.op = op ∧ s.cus.latch.used = false))
  ∧ (∀ (s : State) (d : Bytes) (n : Nat) (y : Slot), dOpnd d 1 = 0 → resolve s (dKey d) = some (n, y) → y.owner = paramB s 0 →
       servesNow s y true = true →
       exportKey s d = (match slotUse s n y with | .inl e => .inl e | .inr (m, u) => .inr (y.owner, y.alg, y.usage, y.exp, m, u)))
  ∧ (∀ (s : State) (d : Bytes), dOpnd d 1 = 0 → resolve s (dKey d) = none → exportKey s d = .inl (0x12, s))

/-- With the latch for the operation and the arguments its record names: SNUFF starts Snuff after its completion;
DEBUG_AUTH announces the switch for tick V + 5; CUS_ENROL and CUS_REVOKE blow the slot's fuses; FAULT_ENABLE names
functions and channels; RECOMMISSION and COMMISSION make a vault root from 32 drawn bytes and blow the commissioning
fuses, RETIRE consumes the latch and starts the Snuff of a retirement. A blow needs VPP_FUSE in range, else the
command is ABORTED, and random output, else it is NOT_READY, each with the latch still set; one that the hardware
fails ends ABORTED. (15_command_set.md, 10_custody_and_dual_control.md, 06_fuses_and_configuration.md,
03_modes_and_lifecycle.md, 17_tamper_and_snuff.md.) -/
def Obligations.CustodyActions : Prop :=
  (∀ (s : State) (fn : Fin 16) (r : Fin 8) (io : CmdIo) (x : Staged), jobOf s fn r 0x77 = some x →
       latchFor s 0x05 = true →
       exec (.snuff fn r io) s = .next (conclude (ringKey fn r) x { st := latchConsume s, after := fun s => snuffTrig s 2 0 }))
  ∧ (∀ (s : State) (fn : Fin 16) (r : Fin 8) (io : CmdIo) (x : Staged), jobOf s fn r 0x78 = some x →
       latchFor s 0x06 = true → dOpnd x.desc 0 = 1 ∨ dOpnd x.desc 0 = 2 → paramB s 0 = dOpnd x.desc 0 →
       s.fus.dbgdis = false → s.mode.mode = .service → annFree s = true →
       exec (.debugAuth fn r io) s = .next (conclude (ringKey fn r) x { st := debugAnnounce (latchConsume s) (dOpnd x.desc 0), result := (s.glb.tick + 5).setWidth 64 }))
  ∧ (∀ (s : State) (fn : Fin 16) (r : Fin 8) (io : CmdIo) (x : Staged), jobOf s fn r 0x78 = some x →
       latchFor s 0x06 = true → dOpnd x.desc 0 = 1 ∨ dOpnd x.desc 0 = 2 →
       s.fus.dbgdis = true ∨ s.mode.mode ≠ .service ∨ annFree s = false →
       exec (.debugAuth fn r io) s = .next (conclude (ringKey fn r) x (.stop s 0x10)))
  ∧ (∀ (s : State) (fn : Fin 16) (r : Fin 8) (io : CmdIo) (x : Staged), jobOf s fn r 0x79 = some x →
       latchFor s 0x07 = true → dOpnd x.desc 0 ≤ 7 → paramB s 0 = dOpnd x.desc 0 →
       cusEnrolledBits s (dOpnd x.desc 0) = 0 →
       (List.range 8).any (fun k => cusEnrolledBits s k ≠ 0 && slotDigest s k = reqArg s) = false →
       s.mode.vpp = .inRange → rngReady s.rng = true →
       exec (.cusEnrol fn r io) s = .next (conclude (ringKey fn r) x (match blowRun (latchConsume s) io.fail.toNat (blowCopies (bytesWords (cusWord (dOpnd x.desc 0) + 1) (reqArg s) ++ [(cusWord (dOpnd x.desc 0), 0xFF)])) with
         | (u, none) => .stop u 0x21
         | (u, some _) => { st := u })))
  ∧ (∀ (s : State) (fn : Fin 16) (r : Fin 8) (io : CmdIo) (x : Staged), jobOf s fn r 0x79 = some x →
       latchFor s 0x07 = true → dOpnd x.desc 0 ≤ 7 → enrolClash s (dOpnd x.desc 0) (reqArg s) = true →
       exec (.cusEnrol fn r io) s = .next (conclude (ringKey fn r) x (.stop s 0x10)))
  ∧ (∀ (s : State) (fn : Fin 16) (r : Fin 8) (io : CmdIo) (x : Staged), jobOf s fn r 0x7A = some x →
       latchFor s 0x08 = true → dOpnd x.desc 0 ≤ 7 → paramB s 0 = dOpnd x.desc 0 →
       2 ≤ ((usableSlots s).filter (· ≠ dOpnd x.desc 0)).length → s.mode.vpp = .inRange → rngReady s.rng = true →
       exec (.cusRevoke fn r io) s = .next (conclude (ringKey fn r) x (match blowRun (latchConsume s) io.fail.toNat (blowCopies [(cusWord (dOpnd x.desc 0), 0xFF00)]) with
         | (u, none) => .stop u 0x21
         | (u, some _) => { st := u })))
  ∧ (∀ (s : State) (fn : Fin 16) (r : Fin 8) (io : CmdIo) (x : Staged), jobOf s fn r 0x7A = some x →
       latchFor s 0x08 = true → dOpnd x.desc 0 ≤ 7 → ((usableSlots s).filter (· ≠ dOpnd x.desc 0)).length < 2 →
       exec (.cusRevoke fn r io) s = .next (conclude (ringKey fn r) x (.stop s 0x10)))
  ∧ (∀ (s : State) (fn : Fin 16) (r : Fin 8) (io : CmdIo) (x : Staged), jobOf s fn r 0x7C = some x →
       latchFor s 0x0A = true → dOpnd x.desc 2 ≤ 3 → leAt (reqParam s) 0 2 = dOpndN x.desc 0 2 →
       paramB s 2 = dOpnd x.desc 2 →
       exec (.faultEnable fn r io) s = .next (conclude (ringKey fn r) x { st := latchConsume (s.setFlt { s.flt with funcs := BitVec.ofNat 16 (dOpndN x.desc 0 2), chans := BitVec.ofNat 2 (dOpnd x.desc 2) }) }))
  ∧ (∀ (s : State) (fn : Fin 16) (r : Fin 8) (io : CmdIo) (x : Staged), jobOf s fn r 0x7D = some x →
       latchFor s 0x0B = true → s.mode.mode = .snuffed → s.mode.rootlock = false → s.cus.latch.form = true →
       s.mode.vpp = .inRange →
       exec (.recommission fn r io) s = .next (conclude (ringKey fn r) x (match rngDraw s (addOf fn (dOp x.desc) (dReq x.desc)) 32 (dPr x.desc) with
         | .inl w => .notReady s w
         | .inr (vr, u) => (match blowRun (newRoot (stickyConsume (latchConsume u)) vr) io.fail.toNat (blowCopies (commWords u)) with
         | (v, none) => .stop v 0x21
         | (v, some _) => { st := snuffFlagClear v, after := fun s => cmdReset s 0x0D }))))
  ∧ (∀ (s : State) (fn : Fin 16) (r : Fin 8) (io : CmdIo) (x : Staged), jobOf s fn r 0x7D = some x →
       latchFor s 0x0B = true → s.mode.mode = .snuffed → s.mode.rootlock = false → s.cus.latch.form = true →
       s.mode.vpp ≠ .inRange →
       exec (.recommission fn r io) s = .next (conclude (ringKey fn r) x (.stop s 0x21)))
  ∧ (∀ (s : State) (fn : Fin 16) (r : Fin 8) (io : CmdIo) (x : Staged), jobOf s fn r 0x7D = some x →
       latchFor s 0x0B = true → s.mode.mode = .snuffed → s.mode.rootlock = false → s.cus.latch.form = false →
       exec (.recommission fn r io) s = .next (conclude (ringKey fn r) x (match rngDraw s (addOf fn (dOp x.desc) (dReq x.desc)) 32 (dPr x.desc) with
         | .inl w => .notReady s w
         | .inr (vr, u) => { st := snuffFlagClear (newRoot (stickyConsume (latchConsume u)) vr), after := fun s => cmdReset s 0x0D })))
  ∧ (∀ (s : State) (fn : Fin 16) (r : Fin 8) (io : CmdIo) (x : Staged), jobOf s fn r 0x7E = some x →
       latchFor s 0x0C = true → s.mode.vpp = .inRange → rngReady s.rng = true →
       exec (.retire fn r io) s = .next (conclude (ringKey fn r) x { st := stickyConsume (latchConsume s), wait := some (.retire io.fail.toNat), after := fun u => if u.snf.flag = true then retireEnd (snuffTrig u 3 0) else snuffTrig u 3 0 }))
  ∧ (∀ (s : State) (fn : Fin 16) (r : Fin 8) (io : CmdIo) (x : Staged), jobOf s fn r 0x7E = some x →
       latchFor s 0x0C = true → s.mode.vpp ≠ .inRange →
       exec (.retire fn r io) s = .next (conclude (ringKey fn r) x (.stop s 0x21)))
  ∧ (∀ (s : State) (a : Ans), s.mode.vpp ≠ .inRange → (blowReady s a).status = 0x21 ∧ (blowReady s a).st = s)
  ∧ (∀ (s : State) (a : Ans), s.mode.vpp = .inRange → rngReady s.rng = false → blowReady s a = .notReady s (rngWait s (rngRemain s.rng)))
  ∧ (∀ (s : State) (fn : Fin 16) (r : Fin 8) (io : CmdIo) (x : Staged), jobOf s fn r 0x7F = some x →
       latchFor s 0x0D = true → s.fus.lc = .provisioned → s.mode.mode = .service → s.mode.vpp = .inRange →
       exec (.commission fn r io) s = .next (conclude (ringKey fn r) x (match rngDraw s (addOf fn (dOp x.desc) (dReq x.desc)) 32 (dPr x.desc) with
         | .inl w => .notReady s w
         | .inr (vr, u) => (match blowRun (newRoot (latchConsume (u.setEvr { u.evr with pinOn := true })) vr) io.fail.toNat (blowCopies (commWords (latchConsume (u.setEvr { u.evr with pinOn := true })))) with
         | (v, none) => .stop v 0x21
         | (v, some _) => { st := v, after := fun s => cmdReset s 2 }))))

/-- STAGE_BEGIN opens a staging, discards what was staged and erases the slot not in use; STAGE_DATA takes the bytes
beyond those received; STAGE_VERIFY ends a staging whose package, image or pair fails with its code, and otherwise
writes the image at rest and stages it (its IV is a free value); ACTIVATE of a staged image with its lead,
announcement and pair is accepted; IMAGE_INFO gives its record; CONFIG_WRITE puts the next image in the copy not in
use, its header last. (19_firmware_update.md, 15_command_set.md, 06_fuses_and_configuration.md.) -/
def Obligations.UpdateCommands : Prop :=
  (∀ (s : State) (fn : Fin 16) (r : Fin 8) (io : CmdIo) (x : Staged), jobOf s fn r 0x80 = some x →
       dOpnd x.desc 0 ≤ 1 → 145 ≤ dOpndN x.desc 4 4 → dOpndN x.desc 4 4 ≤ 0x100000 → s.upd.trial = false →
       s.mode.mode = .service →
       exec (.stageBegin fn r io) s = .next (conclude (ringKey fn r) x { st := slotErase (s.setUpd { s.upd with staging := some { kind := dOpnd x.desc 0, total := dOpndN x.desc 4 4 }, staged := [] }) (dOpnd x.desc 0) (freeSide s (dOpnd x.desc 0)) }))
  ∧ (∀ (s : State) (fn : Fin 16) (r : Fin 8) (io : CmdIo) (x : Staged), jobOf s fn r 0x80 = some x →
       dOpnd x.desc 0 ≤ 1 → 145 ≤ dOpndN x.desc 4 4 → dOpndN x.desc 4 4 ≤ 0x100000 →
       s.upd.trial = true ∨ s.mode.mode = .debug →
       exec (.stageBegin fn r io) s = .next (conclude (ringKey fn r) x (.stop s 0x10)))
  ∧ (∀ (s : State) (fn : Fin 16) (r : Fin 8) (io : CmdIo) (x : Staged) (g : Staging), jobOf s fn r 0x81 = some x →
       0 < dLen x.desc → dLen x.desc ≤ 65536 → s.upd.staging = some g → dOpndN x.desc 4 4 ≤ g.got.length →
       dOpndN x.desc 4 4 + dLen x.desc ≤ g.total → g.got.length + dLen x.desc ≤ 0xC0 →
       exec (.stageData fn r io) s = .next (conclude (ringKey fn r) x { st := s.setUpd { s.upd with staging := some { g with got := g.got ++ (inOf x.desc io).drop (g.got.length - dOpndN x.desc 4 4) } } }))
  ∧ (∀ (s : State) (fn : Fin 16) (r : Fin 8) (io : CmdIo) (x : Staged) (g : Staging), jobOf s fn r 0x81 = some x →
       0 < dLen x.desc → dLen x.desc ≤ 65536 → s.upd.staging = some g → g.got.length < dOpndN x.desc 4 4 →
       exec (.stageData fn r io) s = .next (conclude (ringKey fn r) x (.stop s 0x10)))
  ∧ (∀ (s : State) (fn : Fin 16) (r : Fin 8) (io : CmdIo) (x : Staged) (g : Staging), jobOf s fn r 0x82 = some x →
       dOpnd x.desc 0 ≤ 1 → s.upd.staging = some g → g.kind = dOpnd x.desc 0 → loaderDown s = false →
       s.fus.lc ≠ .retired →
       exec (.stageVerify fn r io) s = .next (conclude (ringKey fn r) x (match pkgOpen s (dOpnd x.desc 0) g.got with
         | none => stageFail s 1
         | some b => (if g.got.length ≠ g.total then stageFail s 1
         else if imgCheckAll s (dOpnd x.desc 0) b ≠ 0 then stageFail s (imgCheckAll s (dOpnd x.desc 0) b)
         else if stagePair s (dOpnd x.desc 0) b ≠ 0 then stageFail s (stagePair s (dOpnd x.desc 0) b)
         else if noFlash s = true then stageDone (s.setUpd { s.upd with staging := none, staged := tput none s.upd.staged (dOpnd x.desc 0) (some (imgOf (dOpnd x.desc 0) (freeSide s (dOpnd x.desc 0)) b)) }) b
         else if io.fail ≠ 0 then stageFail s 0xB
         else (let u := slotWrite (freeBytes s 12).2 (freeBytes s 12).2.fus.dur (dOpnd x.desc 0) (freeSide s (dOpnd x.desc 0)) (nextGen (freeBytes s 12).2 (dOpnd x.desc 0)) (freeBytes s 12).1 b;
         stageDone (u.setUpd { u.upd with staging := none, staged := tput none u.upd.staged (dOpnd x.desc 0) (some (imgOf (dOpnd x.desc 0) (freeSide s (dOpnd x.desc 0)) b)) }) b)))))
  ∧ (∀ (s : State) (code : Nat),
       (stageFail s code).st = s.setUpd { s.upd with staging := none, fail := code } ∧ (stageFail s code).result = resOf ([0, 0, 0, 0] ++ leBytes 1 code) ∧ (stageFail s code).status = (if 8 ≤ code ∧ code ≤ 0xA then 0x30 else 0x10))
  ∧ (∀ (s : State) (fn : Fin 16) (r : Fin 8) (io : CmdIo) (x : Staged) (i : Img), jobOf s fn r 0x83 = some x →
       dOpnd x.desc 0 ≤ 1 → dOpnd x.desc 8 = 0 → s.mode.mode = .service → s.upd.trial = false →
       s.upd.pending = none → s.upd.paused = false → stagedOf s (dOpnd x.desc 0) = some i → annFree s = true →
       actLead s (wordOf (dOpndN x.desc 4 4)) = true → stagePair s (dOpnd x.desc 0) i.hdr = 0 →
       exec (.activate fn r io) s = .next (conclude (ringKey fn r) x { st := announceCmd (s.setUpd { s.upd with pending := some (dOpnd x.desc 0), actTick := wordOf (dOpndN x.desc 4 4), actRaise := false }) (2 + dOpnd x.desc 0) (actLen s (dOpnd x.desc 0)) (wordOf (dOpndN x.desc 4 4)), result := (wordOf (dOpndN x.desc 4 4)).setWidth 64 }))
  ∧ (∀ (s : State) (fn : Fin 16) (r : Fin 8) (io : CmdIo) (x : Staged), jobOf s fn r 0x83 = some x →
       dOpnd x.desc 0 ≤ 1 → dOpnd x.desc 8 = 0 → s.mode.mode = .service → s.upd.trial = false →
       s.upd.pending = none → s.upd.paused = false → (stagedOf s (dOpnd x.desc 0)).isSome = true → annFree s = true →
       actLead s (wordOf (dOpndN x.desc 4 4)) = false →
       exec (.activate fn r io) s = .next (conclude (ringKey fn r) x { st := s, status := 0x10, result := BitVec.ofNat 64 (s.glb.tick.toNat + 2 ^ 32 * (s.glb.tick + 4).toNat) }))
  ∧ (∀ (s : State) (fn : Fin 16) (r : Fin 8) (io : CmdIo) (x : Staged), jobOf s fn r 0x85 = some x →
       exec (.imageInfo fn r io) s = .next (conclude (ringKey fn r) x { st := s, out := imageInfoRec s }))
  ∧ (∀ (s : State) (fn : Fin 16) (r : Fin 8) (io : CmdIo) (x : Staged), jobOf s fn r 0x86 = some x →
       64 ≤ dLen x.desc → dLen x.desc ≤ 65536 →
       exec (.configWrite fn r io) s = .next (conclude (ringKey fn r) x (if cfgHdrOk ((inOf x.desc io).take 64) = false ∨ dLen x.desc ≠ 64 + leAt ((inOf x.desc io).take 64) 0x0C 4 + 5458 ∨ cfgSeqOf ((inOf x.desc io).take 64) ≠ s.cfg.seq + 1 ∨ noFlash s = true then .stop s 0x10
         else if io.fail ≠ 0 then .stop (flashErase s 0 (cfgAddr (if s.cfg.copy then 0 else 1)) 0x10000) 0x21
         else { st := flashProgram (flashProgram (flashErase s 0 (cfgAddr (if s.cfg.copy then 0 else 1)) 0x10000) 0 (cfgAddr (if s.cfg.copy then 0 else 1) + 64) ((inOf x.desc io).drop 64)) 0 (cfgAddr (if s.cfg.copy then 0 else 1)) ((inOf x.desc io).take 64), result := (s.cfg.seq + 1).setWidth 64 })))

/-- Before the edge of X, ACTIVATE_CANCEL of the pending image clears the announcement (CAUSE 0) and keeps the staged
image; from the edge of X it completes with DENIED and changes nothing. (R461.) -/
def Obligations.CancelActivation : Prop :=
  (∀ (s : State) (fn : Fin 16) (r : Fin 8) (io : CmdIo) (x : Staged), jobOf s fn r 0x84 = some x →
       dOpnd x.desc 0 ≤ 1 → s.upd.pending = some (dOpnd x.desc 0) → tickReached s.upd.actTick s.glb.tick = false →
       exec (.activateCancel fn r io) s = .next (conclude (ringKey fn r) x { st := annClear (s.setUpd { s.upd with pending := none, actTick := 0, actRaise := false }) }))
  ∧ (∀ (s : State),
       (annClear s).mode.annCause = 0 ∧ (annClear s).mode.annStart = s.mode.annStart ∧ (annClear s).upd = s.upd)
  ∧ (∀ (s : State) (fn : Fin 16) (r : Fin 8) (io : CmdIo) (x : Staged), jobOf s fn r 0x84 = some x →
       dOpnd x.desc 0 ≤ 2 → tickReached s.upd.actTick s.glb.tick = true →
       exec (.activateCancel fn r io) s = .next (conclude (ringKey fn r) x (.stop s 0x10)))

/-- TOKEN_CHALLENGE gives 8 drawn bytes that stand until a token uses them. A token that verifies lets PROVISION blow
the device root, VIMG, VTOK and the LC PROV group, TOKEN_APPLY open debug at once in RECOVERY, a mode change with its
entry, and announce it in SERVICE, and FACTORY_FUSE program a factory word; one that does not is DENIED. FUSE_PROGRAM
blows its words under the authority of the lifecycle; what PROVISION blows takes effect at the next KINDLE. A blow
that the hardware fails ends ABORTED. (15_command_set.md, 06_fuses_and_configuration.md,
10_custody_and_dual_control.md, 03_modes_and_lifecycle.md.) -/
def Obligations.TokenCommands : Prop :=
  (∀ (s : State) (fn : Fin 16) (r : Fin 8) (io : CmdIo) (x : Staged), jobOf s fn r 0x89 = some x →
       exec (.tokenChallenge fn r io) s = .next (conclude (ringKey fn r) x (match rngDraw s (addOf fn (dOp x.desc) (dReq x.desc)) 8 (dPr x.desc) with | .inl w => .notReady s w | .inr (b, u) => { st := u.setRng { u.rng with chal := some b }, result := resOf b })))
  ∧ (∀ (s : State) (fn : Fin 16) (r : Fin 8) (io : CmdIo) (x : Staged), jobOf s fn r 0x88 = some x →
       dLen x.desc = 5586 → s.fus.lc = .blank → s.mode.vpp = .inRange → rngReady s.rng = true →
       exec (.provision fn r io) s = .next (conclude (ringKey fn r) x (if tokenOk s 1 (inOf x.desc io) = false then .stop (tokenUse s (inOf x.desc io)) 0x10 else
         (match rngDraw (tokenUse s (inOf x.desc io)) (addOf fn (dOp x.desc) (dReq x.desc)) 32 (dPr x.desc) with
         | .inl w => .notReady (tokenUse s (inOf x.desc io)) w
         | .inr (dur, u) => (match blowRun u io.fail.toNat (blowCopies (bytesWords 16 dur ++ bytesWords 40 (slice (inOf x.desc io) 0x20 32) ++ bytesWords 64 (slice (inOf x.desc io) 0x40 32))) with
         | (v, none) => .stop v 0x21
         | (v, some k) => (match blowRun (if noFlash v = true then v else reencrypt v (keyBytes v 16 8)) k (blowCopies [(0, lcGroup 0)]) with
         | (w, none) => .stop w 0x21
         | (w, some _) => { st := w }))))))
  ∧ (∀ (s : State) (fn : Fin 16) (r : Fin 8) (io : CmdIo) (x : Staged), jobOf s fn r 0x8A = some x →
       dLen x.desc = 5586 → s.mode.mode = .recovery → s.fus.dbgdis = false →
       exec (.tokenApply fn r io) s = .next (conclude (ringKey fn r) x (if tokenOk s 2 (inOf x.desc io) = true ∧ (byteAt (inOf x.desc io) 5 = 1 ∨ byteAt (inOf x.desc io) 5 = 2) ∧ dbgCode s.mode.dbg ≤ byteAt (inOf x.desc io) 5 then { st := toMode (debugOpen (tokenUse s (inOf x.desc io)) (dbgOf (byteAt (inOf x.desc io) 5))) .recovery 8 } else .stop (tokenUse s (inOf x.desc io)) 0x10)))
  ∧ (∀ (s : State) (fn : Fin 16) (r : Fin 8) (io : CmdIo) (x : Staged), jobOf s fn r 0x8A = some x →
       dLen x.desc = 5586 → s.mode.mode = .service → s.fus.dbgdis = false → annFree s = true →
       exec (.tokenApply fn r io) s = .next (conclude (ringKey fn r) x (if tokenOk s 2 (inOf x.desc io) = true ∧ (byteAt (inOf x.desc io) 5 = 1 ∨ byteAt (inOf x.desc io) 5 = 2) ∧ dbgCode s.mode.dbg ≤ byteAt (inOf x.desc io) 5 then { st := debugAnnounce (tokenUse s (inOf x.desc io)) (byteAt (inOf x.desc io) 5), result := (s.glb.tick + 5).setWidth 64 } else .stop (tokenUse s (inOf x.desc io)) 0x10)))
  ∧ (∀ (s : State) (fn : Fin 16) (r : Fin 8) (io : CmdIo) (x : Staged), jobOf s fn r 0x8B = some x →
       dLen x.desc = 5586 → s.fus.lc = .blank → s.mode.vpp = .inRange →
       exec (.factoryFuse fn r io) s = .next (conclude (ringKey fn r) x (if tokenOk s 4 (inOf x.desc io) = true ∧ factoryWord (leAt (inOf x.desc io) 0x20 2) = true then (match blowRun (tokenUse s (inOf x.desc io)) io.fail.toNat (blowCopies [(leAt (inOf x.desc io) 0x20 2, wordOf (leAt (inOf x.desc io) 0x24 4))]) with | (u, none) => .stop u 0x21 | (u, some _) => { st := u }) else .stop (tokenUse s (inOf x.desc io)) 0x10)))
  ∧ (∀ (s : State) (fn : Fin 16) (r : Fin 8) (io : CmdIo) (x : Staged), jobOf s fn r 0x8B = some x →
       dLen x.desc = 5586 → s.fus.lc ≠ .blank →
       exec (.factoryFuse fn r io) s = .next (conclude (ringKey fn r) x (.stop s 0x10)))
  ∧ (∀ (s : State) (fn : Fin 16) (r : Fin 8) (io : CmdIo) (x : Staged), jobOf s fn r 0x7B = some x →
       dAuxLen x.desc = 0 → s.fus.lc = .blank ∨ s.fus.lc = .provisioned → 384 ≤ dOpndN x.desc 0 2 →
       dOpndN x.desc 0 2 < 448 → s.mode.vpp = .inRange →
       pgmAllowed s (dOpndN x.desc 0 2) (wordOf (dOpndN x.desc 4 4)) .none = true →
       exec (.fuseProgram fn r io) s = .next (conclude (ringKey fn r) x (match blowRun s io.fail.toNat (blowCopies [(dOpndN x.desc 0 2, wordOf (dOpndN x.desc 4 4))]) with | (u, none) => .stop u 0x21 | (u, some _) => { st := u })))
  ∧ (∀ (s : State) (fn : Fin 16) (r : Fin 8) (io : CmdIo) (x : Staged), jobOf s fn r 0x7B = some x →
       dAuxLen x.desc = 5586 → s.fus.lc = .blank ∨ s.fus.lc = .provisioned → dOpndN x.desc 0 2 = 6 →
       pgmAllowed s 6 (wordOf (dOpndN x.desc 4 4)) .factory = true → s.mode.vpp = .inRange →
       exec (.fuseProgram fn r io) s = .next (conclude (ringKey fn r) x (if tokenOk s 3 (auxOf x.desc io) = true ∧ leAt (auxOf x.desc io) 0x20 4 = (wordOf (dOpndN x.desc 4 4)).toNat then (match blowRun (tokenUse s (auxOf x.desc io)) io.fail.toNat (blowCopies [(6, wordOf (dOpndN x.desc 4 4))]) with | (u, none) => .stop u 0x21 | (u, some _) => { st := u }) else .stop (tokenUse s (auxOf x.desc io)) 0x10)))
  ∧ (∀ (s : State) (fn : Fin 16) (r : Fin 8) (io : CmdIo) (x : Staged), jobOf s fn r 0x7B = some x →
       dAuxLen x.desc = 0 → s.fus.lc = .commissioned → dOpndN x.desc 0 2 = 3 ∨ dOpndN x.desc 0 2 = 6 →
       latchFor s 0x09 = true → pgmRecord s (dOpndN x.desc 0 2) (wordOf (dOpndN x.desc 4 4)) (.latch 0x09) = true →
       pgmAllowed s (dOpndN x.desc 0 2) (wordOf (dOpndN x.desc 4 4)) (.latch 0x09) = true → s.mode.vpp = .inRange →
       rngReady s.rng = true →
       exec (.fuseProgram fn r io) s = .next (conclude (ringKey fn r) x (match blowRun (latchConsume s) io.fail.toNat (blowCopies [(dOpndN x.desc 0 2, wordOf (dOpndN x.desc 4 4))]) with | (u, none) => .stop u 0x21 | (u, some _) => { st := u })))

/-- REC_READ gives the entries from a SEQ on and what follows them; REC_MARK enters the host's bytes in diagnostics;
SELFTEST gates the engines that fail; DIM waits for its entry and is DENIED unless it is enabled in SERVICE with no
announcement; RECOVERY sets its flag and resets; PLL_SET and BEACON_SET take their operands whole; SW_RESET resets
after its completion. (15_command_set.md, 18_event_recorder.md, 03_modes_and_lifecycle.md, 05_clocks.md,
02_beacon_tick.md.) -/
def Obligations.AdminCommands : Prop :=
  (∀ (s : State) (fn : Fin 16) (r : Fin 8) (io : CmdIo) (x : Staged), jobOf s fn r 0x90 = some x →
       dOpnd x.desc 0 ≤ 1 → 1 ≤ dOpndN x.desc 8 2 → dOpndN x.desc 8 2 ≤ 64 →
       exec (.recRead fn r io) s = .next (conclude (ringKey fn r) x (let l := (entriesFrom s (dOpnd x.desc 0 = 1) (wordOf (dOpndN x.desc 4 4))).take (dOpndN x.desc 8 2);
         { st := s, out := l.flatMap entryBytes, result := BitVec.ofNat 64 ((match l.getLast? with | some e => e.seq + 1 | none => wordOf (dOpndN x.desc 4 4)).toNat + 2 ^ 32 * l.length) })))
  ∧ (∀ (s : State) (fn : Fin 16) (r : Fin 8) (io : CmdIo) (x : Staged), jobOf s fn r 0x91 = some x →
       dAuxLen x.desc = 16 →
       exec (.recMark fn r io) s = .next (conclude (ringKey fn r) x { st := report s { kind := .entry false true, src := Blk.hostMark.src, code := 1, who := fn + 16 * fn, arg := (auxOf x.desc io) } }))
  ∧ (∀ (s : State) (fn : Fin 16) (r : Fin 8) (io : CmdIo) (x : Staged), jobOf s fn r 0x92 = some x →
       exec (.selftest fn r io) s = .next (conclude (ringKey fn r) x { st := enginesFail s (bitsOf 8 (dOpnd x.desc 0 &&& fld io.fail 0 8)), result := BitVec.ofNat 64 (dOpnd x.desc 0 &&& fld io.fail 0 8) }))
  ∧ (∀ (s : State) (fn : Fin 16) (r : Fin 8) (io : CmdIo) (x : Staged), jobOf s fn r 0xA0 = some x →
       s.mode.dimEn = true → annFree s = true → s.mode.mode = .service →
       exec (.dimCmd fn r io) s = .next (conclude (ringKey fn r) x { st := s.setMode { s.mode with dimPend := some (s.mode.dimPend.getD 16) }, wait := some .dim }))
  ∧ (∀ (s : State) (fn : Fin 16) (r : Fin 8) (io : CmdIo) (x : Staged), jobOf s fn r 0xA0 = some x →
       s.mode.dimEn = false ∨ annFree s = false ∨ s.mode.mode ≠ .service →
       exec (.dimCmd fn r io) s = .next (conclude (ringKey fn r) x (.stop s 0x10)))
  ∧ (∀ (s : State) (fn : Fin 16) (r : Fin 8) (io : CmdIo) (x : Staged), jobOf s fn r 0xA1 = some x →
       s.mode.mode = .service ∨ s.mode.mode = .debug →
       exec (.recovery fn r io) s = .next (conclude (ringKey fn r) x { st := s, after := fun s => cmdReset (s.setMode { s.mode with recovReq := true }) 9 }))
  ∧ (∀ (s : State) (fn : Fin 16) (r : Fin 8) (io : CmdIo) (x : Staged), jobOf s fn r 0xA2 = some x →
       dOpnd x.desc 0 ≤ 1 → leadOk s (wordOf (dOpndN x.desc 16 4)) = true →
       relockOk (pllShadows s x.desc) (if dOpnd x.desc 0 = 0 then .a else .b) (wordOf (dOpndN x.desc 16 4)) = true →
       exec (.pllSet fn r io) s = .next (conclude (ringKey fn r) x { st := relockAccept (pllShadows s x.desc) (if dOpnd x.desc 0 = 0 then .a else .b) (wordOf (dOpndN x.desc 16 4)), result := (wordOf (dOpndN x.desc 16 4)).setWidth 64 }))
  ∧ (∀ (s : State) (fn : Fin 16) (r : Fin 8) (io : CmdIo) (x : Staged), jobOf s fn r 0xA2 = some x →
       dOpnd x.desc 0 ≤ 1 → leadOk s (wordOf (dOpndN x.desc 16 4)) = false →
       exec (.pllSet fn r io) s = .next (conclude (ringKey fn r) x { st := s, status := 0x10, result := BitVec.ofNat 64 (s.glb.tick.toNat + 2 ^ 32 * (s.glb.tick + 2).toNat) }))
  ∧ (∀ (s : State) (fn : Fin 16) (r : Fin 8) (io : CmdIo) (x : Staged), jobOf s fn r 0xA3 = some x →
       dAuxLen x.desc = 32 → dOpnd x.desc 0 = 7 →
       exec (.beaconSet fn r io) s = .next (conclude (ringKey fn r) x (let bud := (List.range 3).map fun k => budWord (valW (auxOf x.desc io) k); let caps := (List.range 4).flatMap fun k => capWord (valW (auxOf x.desc io) (3 + k));
         { st := s.setGlb { s.glb with budSh := bud, budCommit := some bud, capsSh := caps, capsCommit := some caps, maxwaitSh := leAt (auxOf x.desc io) 28 4 % 16 }, wait := some .beacon })))
  ∧ (∀ (s : State) (fn : Fin 16) (r : Fin 8) (io : CmdIo) (x : Staged), jobOf s fn r 0xA3 = some x →
       dAuxLen x.desc = 32 → dOpnd x.desc 0 = 0 →
       exec (.beaconSet fn r io) s = .next (conclude (ringKey fn r) x { st := s, wait := some .beacon }))
  ∧ (∀ (s : State) (fn : Fin 16) (r : Fin 8) (io : CmdIo) (x : Staged), jobOf s fn r 0xA4 = some x →
       exec (.swReset fn r io) s = .next (conclude (ringKey fn r) x { st := s, after := fun s => cmdReset s 2 }))

/-- A WGATE call at Hypervisor or Supervisor level saves the world and enters the Monitor at TBASE_MON with cause
0x10; its return resumes after the call at the level and partition saved with a0 and a1 kept and every other register
0; TRET after an asynchronous entry restores the world exactly, and at Hypervisor or Supervisor level resumes at TPC
at the level that the trap left, which the model keeps (log 33). Each is an illegal instruction where it is not
allowed, and nothing runs on a core that does not execute. EENTER by User code of a partition outside any enclave
answers its status in a0 where it is refused; entry 0 to 3 starts at that offset of the enclave, and 4 resumes the
state that the core saved. EEXIT goes to the exit return address with all registers but a0 and a1 zero. Anywhere else
each is an illegal instruction; WGATE at Monitor level is the return and elsewhere the call, so the row of the other
does nothing there. (07_worlds_and_partitions.md.) -/
def Obligations.WorldAndEnclaveCrossings : Prop :=
  (∀ (s : State) (c : Fin 2), coreRuns s c = true → partGone s c = false →
       (getCore s c).level = .hyp ∨ (getCore s c).level = .sup →
       exec (.wgateCall c) s = .next (onCore (pmcEvent s c 6) c fun x => monEnter (saveWorld x false false) 0x10))
  ∧ (∀ (x : Core) (k : Nat),
       (monEnter x k).level = .mon ∧ (monEnter x k).pc = x.mon.base ∧ (monEnter x k).mon.cause = BitVec.ofNat 64 k ∧ (monEnter x k).x = x.x ∧ (monEnter x k).wsave = x.wsave)
  ∧ (∀ (x : Core) (a e : Bool),
       (saveWorld x a e).wsave = { pc := x.pc, x := x.x, level := x.level, async := a, part := x.part, fromEncl := e, call := !a } ∧ (saveWorld x a e).x = x.x)
  ∧ (∀ (s : State) (c : Fin 2), coreRuns s c = true → partGone s c = false → (getCore s c).level = .user →
       exec (.wgateCall c) s = .next (raise s c 1 0))
  ∧ (∀ (s : State) (c : Fin 2), coreRuns s c = true → partGone s c = false → (getCore s c).level = .mon →
       (getCore s c).wsave.async = false → returnOk (getCore s c).wsave.level (getCore s c).wsave.part = true →
       leads (.wgateReturn c) s fun t => (getCore t c).level = (getCore s c).wsave.level ∧ (getCore t c).part = (getCore s c).wsave.part ∧ (getCore t c).pc = (getCore s c).wsave.pc + 4 ∧ (getCore t c).x = (getCore s c).x.filter (fun p => p.1 = 10 || p.1 = 11) ∧ (getCore t c).resv = none)
  ∧ (∀ (s : State) (c : Fin 2), coreRuns s c = true → partGone s c = false → (getCore s c).level = .mon →
       (getCore s c).wsave.async = true →
       exec (.wgateReturn c) s = .next (raise s c 1 0))
  ∧ (∀ (s : State) (c : Fin 2), coreRuns s c = true → partGone s c = false → (getCore s c).level = .mon →
       (getCore s c).wsave.async = true → returnOk (getCore s c).wsave.level (getCore s c).wsave.part = true →
       leads (.tret c) s fun t => (getCore t c).x = (getCore s c).wsave.x ∧ (getCore t c).pc = (getCore s c).wsave.pc ∧ (getCore t c).level = (getCore s c).wsave.level ∧ (getCore t c).part = (getCore s c).wsave.part)
  ∧ (∀ (s : State) (c : Fin 2), coreRuns s c = true → partGone s c = false →
       (getCore s c).level = .sup ∨ (getCore s c).level = .hyp →
       returnOk (trapRegs (getCore s c) (getCore s c).level).prev (getCore s c).part = true →
       leads (.tret c) s fun t => (getCore t c).pc = (trapRegs (getCore s c) (getCore s c).level).pc ∧ (getCore t c).level = (trapRegs (getCore s c) (getCore s c).level).prev ∧ (getCore t c).x = (getCore s c).x)
  ∧ (∀ (s : State) (c : Fin 2), coreRuns s c = true → partGone s c = false → (getCore s c).level = .user →
       exec (.tret c) s = .next (raise s c 1 0))
  ∧ (∀ (s : State) (c : Fin 2) (f : State → State), coreRuns s c = false →
       instr s c f = s)
  ∧ (∀ (s : State) (c : Fin 2) (rs1 rs2 : Fin 32) (k : Nat), coreRuns s c = true → partGone s c = false →
       (getCore s c).level = .user → (getCore s c).part ≠ 0 → (getCore s c).encl = none →
       eenterStatus s (getCore s c) c (xReg (getCore s c) rs1).toNat (xReg (getCore s c) rs2).toNat = some k →
       exec (.eenter c rs1 rs2) s = .next (onCore s c fun x => nextPc (xPut (xPut x 10 (BitVec.ofNat 64 k)) 11 0)))
  ∧ (∀ (s : State) (c : Fin 2) (rs1 rs2 : Fin 32), coreRuns s c = true → partGone s c = false →
       (getCore s c).level = .user → (getCore s c).part ≠ 0 → (getCore s c).encl = none →
       eenterStatus s (getCore s c) c (xReg (getCore s c) rs1).toNat (xReg (getCore s c) rs2).toNat = none →
       (xReg (getCore s c) rs2).toNat ≠ 4 →
       leads (.eenter c rs1 rs2) s fun t => (getCore t c).pc = (getEncl s (xReg (getCore s c) rs1).toNat).base + BitVec.ofNat 64 ((getEncl s (xReg (getCore s c) rs1).toNat).entries.getD (xReg (getCore s c) rs2).toNat 0) ∧ (getCore t c).encl = some (xReg (getCore s c) rs1).toNat
         ∧ (getCore t c).exitRet = (getCore s c).pc + 4 ∧ (getCore t c).x = (getCore s c).x ∧ (getEncl t (xReg (getCore s c) rs1).toNat).inside = (getEncl s (xReg (getCore s c) rs1).toNat).inside.filter (· ≠ c.val) ++ [c.val])
  ∧ (∀ (s : State) (c : Fin 2) (rs1 rs2 : Fin 32), coreRuns s c = true → partGone s c = false →
       (getCore s c).level = .user → (getCore s c).part ≠ 0 → (getCore s c).encl = none →
       eenterStatus s (getCore s c) c (xReg (getCore s c) rs1).toNat (xReg (getCore s c) rs2).toNat = none →
       (xReg (getCore s c) rs2).toNat = 4 →
       leads (.eenter c rs1 rs2) s fun t => (getCore t c).pc = BitVec.ofNat 64 (leAt (sramRead s (ctlPage (getEncl s (xReg (getCore s c) rs1).toNat) + 0x100 * c) 256) 0 8) ∧ (getCore t c).encl = some (xReg (getCore s c) rs1).toNat
         ∧ (getCore t c).x = slotRegs (sramRead s (ctlPage (getEncl s (xReg (getCore s c) rs1).toNat) + 0x100 * c) 256) ∧ (getEncl t (xReg (getCore s c) rs1).toNat).saved = (getEncl s (xReg (getCore s c) rs1).toNat).saved.filter (· ≠ c.val))
  ∧ (∀ (s : State) (c : Fin 2) (rs1 rs2 : Fin 32), coreRuns s c = true → partGone s c = false →
       (getCore s c).level ≠ .user ∨ (getCore s c).part = 0 ∨ (getCore s c).encl.isSome = true →
       exec (.eenter c rs1 rs2) s = .next (raise s c 1 0))
  ∧ (∀ (s : State) (c : Fin 2) (e : Nat), coreRuns s c = true → partGone s c = false →
       (getCore s c).level = .user → (getCore s c).encl = some e → (getEncl s e).state ≠ 3 →
       leads (.eexit c) s fun t => (getCore t c).pc = (getCore s c).exitRet ∧ (getCore t c).encl = none ∧ (getCore t c).x = (getCore s c).x.filter (fun p => p.1 = 10 || p.1 = 11)
         ∧ (getEncl t e).inside = (getEncl s e).inside.filter (· ≠ c.val))
  ∧ (∀ (s : State) (c : Fin 2), coreRuns s c = true → partGone s c = false →
       (getCore s c).level ≠ .user ∨ (getCore s c).encl = none →
       exec (.eexit c) s = .next (raise s c 1 0))
  ∧ (∀ (s : State) (c : Fin 2), coreRuns s c = true → partGone s c = false → (getCore s c).level = .mon →
       exec (.wgateCall c) s = .next s)
  ∧ (∀ (s : State) (c : Fin 2), coreRuns s c = true → partGone s c = false → (getCore s c).level ≠ .mon →
       exec (.wgateReturn c) s = .next s)
  ∧ (∀ (s : State) (c : Fin 2), coreRuns s c = true → partGone s c = false → (getCore s c).level = .mon →
       (getCore s c).wsave.async = false →
       exec (.tret c) s = .next (raise s c 1 0))
  ∧ (∀ (s : State) (c : Fin 2) (rs1 rs2 : Fin 32), coreRuns s c = false →
       exec (.wgateCall c) s = .next s ∧ exec (.wgateReturn c) s = .next s ∧ exec (.tret c) s = .next s ∧ exec (.eenter c rs1 rs2) s = .next s ∧ exec (.eexit c) s = .next s)
  ∧ (∀ (s : State) (c : Fin 2) (e : Nat), coreRuns s c = true → partGone s c = false →
       (getCore s c).level = .user → (getCore s c).encl = some e → (getEncl s e).state = 3 →
       leads (.eexit c) s fun t => (getCore t c).pc = (getCore s c).exitRet ∧ (getCore t c).encl = none)

/-- CRD and CWR reach a register where the level may and are illegal instructions elsewhere; TFENCE drops the entries
of the partition named, or all. An exception outside an enclave is taken at its level: TCAUSE, TPC and TINFO are
written, the level changes and the pc is TBASE; ECALL raises 0x08, at Hypervisor level 0x01; EBREAK raises 0x07 with
no debugger attached and else halts the core. The interrupt taken is the lowest unmasked one, secure before Hypervisor
before Supervisor, a secure one also at Monitor level, where it is a trap to Monitor. A debugger with the port open
and debug AUTHENTICATED or OPEN halts and resumes a core in any mode; at Monitor level under AUTHENTICATED the halt
waits. IDCODE reads 0x1748_0B4F always, and the boundary scan is there only with that access.
(07_worlds_and_partitions.md, 03_modes_and_lifecycle.md, 21_pins_electrical_board.md.) -/
def Obligations.CoreRegisters : Prop :=
  (∀ (s : State) (c : Fin 2) (rd : Fin 32) (n : BitVec 12) (v : DWord) (t : State), coreRuns s c = true →
       partGone s c = false → ccrRead s (getCore s c) c n.toNat = some (v, t) →
       exec (.crd c rd n) s = .next (onCore t c fun x => nextPc (xPut x rd v)))
  ∧ (∀ (s : State) (c : Fin 2) (rd : Fin 32) (n : BitVec 12), coreRuns s c = true → partGone s c = false →
       ccrRead s (getCore s c) c n.toNat = none →
       exec (.crd c rd n) s = .next (raise s c 1 0))
  ∧ (∀ (s : State) (c : Fin 2) (n : BitVec 12) (rs1 : Fin 32) (t : State), coreRuns s c = true →
       partGone s c = false → ccrWrite s (getCore s c) c n.toNat (xReg (getCore s c) rs1) = some t →
       exec (.cwr c n rs1) s = .next (onCore t c nextPc))
  ∧ (∀ (s : State) (c : Fin 2) (n : BitVec 12) (rs1 : Fin 32), coreRuns s c = true → partGone s c = false →
       ccrWrite s (getCore s c) c n.toNat (xReg (getCore s c) rs1) = none → (getCore s c).level ≠ .mon →
       exec (.cwr c n rs1) s = .next (raise s c 1 0))
  ∧ (∀ (s : State) (c : Fin 2) (n : BitVec 12) (rs1 : Fin 32), coreRuns s c = true → partGone s c = false →
       ccrWrite s (getCore s c) c n.toNat (xReg (getCore s c) rs1) = none →
       exec (.cwr c n rs1) s = .next (raise (pctxLog s (getCore s c) n.toNat) c 1 0))
  ∧ (∀ (s : State) (c : Fin 2) (rs1 : Fin 32), coreRuns s c = true → partGone s c = false →
       (getCore s c).level = .hyp →
       exec (.tfence c rs1) s = .next (onCore s c fun x => nextPc { x with tlb := x.tlb.filter fun e => (xReg (getCore s c) rs1).toNat ≠ 0 && e.part ≠ (xReg (getCore s c) rs1).toNat }))
  ∧ (∀ (s : State) (c : Fin 2) (rs1 : Fin 32), coreRuns s c = true → partGone s c = false →
       (getCore s c).level = .sup →
       exec (.tfence c rs1) s = .next (onCore s c fun x => nextPc { x with tlb := x.tlb.filter (·.part ≠ (getCore s c).part) }))
  ∧ (∀ (s : State) (c : Fin 2) (rs1 : Fin 32), coreRuns s c = true → partGone s c = false →
       (getCore s c).level = .mon ∨ (getCore s c).level = .user →
       exec (.tfence c rs1) s = .next (raise s c 1 0))
  ∧ (∀ (s : State) (c : Fin 2) (code : Nat) (info : DWord), (getCore s c).encl = none →
       (let t := raise s c code info; let l := excLevel (getCore s c).level code false;
         (getCore t c).level = l ∧ (getCore t c).pc = (trapRegs (getCore s c) l).base ∧ (trapRegs (getCore t c) l).cause = BitVec.ofNat 64 code ∧ (trapRegs (getCore t c) l).pc = (getCore s c).pc
         ∧ (trapRegs (getCore t c) l).info = info ∧ (getCore t c).x = (getCore s c).x))
  ∧ (∀ (s : State) (c : Fin 2), coreRuns s c = true → partGone s c = false →
       exec (.ecall c) s = .next (raise s c (if (getCore s c).level = .hyp then 1 else 8) 0))
  ∧ (∀ (s : State) (c : Fin 2), coreRuns s c = true → partGone s c = false → debugAttached s = false →
       exec (.ebreak c) s = .next (raise s c 7 0))
  ∧ (∀ (s : State) (c : Fin 2), coreRuns s c = true → partGone s c = false → debugAttached s = true →
       exec (.ebreak c) s = .next (haltCore s c))
  ∧ (∀ (s : State) (c : Fin 2), coreRuns s c = true → partGone s c = false →
       exec (.illegalInstruction c) s = .next (raise s c 1 0))
  ∧ (∀ (l : Level) (code : Nat),
       excLevel .mon code false = .mon ∧ excLevel .hyp code false = .hyp ∧ excLevel .user 8 false = .sup ∧ excLevel .sup 8 false = .hyp ∧ excLevel .sup 0x0B false = .hyp ∧ excLevel .user 0x0A false = .sup)
  ∧ (∀ (s : State) (c : Fin 2) (k : Nat), coreRuns s c = true → nextIrq (getCore s c) = some (.mon, k) →
       (getCore s c).encl = none →
       exec (.interruptTaken c) s = .next (secureEntry (pmcEvent s c 7) c k false))
  ∧ (∀ (s : State) (c : Fin 2) (k : Nat) (l : Level), coreRuns s c = true → nextIrq (getCore s c) = some (l, k) → l ≠ .mon →
       (getCore s c).encl = none →
       exec (.interruptTaken c) s = .next (normalEntry (pmcEvent s c 7) c k l))
  ∧ (∀ (s : State) (c : Fin 2), coreRuns s c = false →
       exec (.interruptTaken c) s = .next s ∧ exec (.ecall c) s = .next s ∧ exec (.ebreak c) s = .next s ∧ exec (.illegalInstruction c) s = .next s)
  ∧ (∀ (s : State) (c : Fin 2), coreRuns s c = true → nextIrq (getCore s c) = none →
       exec (.interruptTaken c) s = .next s)
  ∧ (∀ (x : Core), x.level = .mon → lowestPend x.ipendMon x.imaskMon = none →
       nextIrq x = none)
  ∧ (∀ (x : Core) (k : Nat), lowestPend x.ipendMon x.imaskMon = some k →
       nextIrq x = some (.mon, k))
  ∧ (∀ (x : Core) (k : Nat), lowestPend x.ipendMon x.imaskMon = none → x.level ≠ .mon → lowestPend x.ipendHyp x.imaskHyp = some k →
       nextIrq x = some (.hyp, k))
  ∧ (∀ (x : Core) (k : Nat), lowestPend x.ipendMon x.imaskMon = none → x.level = .sup ∨ x.level = .user → lowestPend x.ipendHyp x.imaskHyp = none →
       lowestPend x.ipendSup x.imaskSup = some k →
       nextIrq x = some (.sup, k))
  ∧ (∀ (s : State) (c : Fin 2), mainUp s = true → s.mode.dbg ≠ .closed → s.mode.port = true →
       exec (.haltRequest c) s = .next (onCore s c fun x => if x.level = .mon && s.mode.dbg = .authenticated then { x with haltReq := true } else { x with halted := true }))
  ∧ (∀ (s : State) (c : Fin 2), mainUp s = true → s.mode.dbg ≠ .closed → s.mode.port = true →
       exec (.debuggerResume c) s = .next (onCore s c fun x => { x with halted := false, haltReq := false }))
  ∧ (∀ (s : State) (c : Fin 2), mainUp s = false ∨ s.mode.dbg = .closed ∨ s.mode.port = false →
       exec (.haltRequest c) s = .next s ∧ exec (.debuggerResume c) s = .next s)
  ∧ (idcode = 0x17480B4F)
  ∧ (∀ (s : State), tapPath s .idcode = .id 0x17480B4F ∧ tapAllows s .idcode = true ∧ tapAllows s .bypass = true)
  ∧ (∀ (s : State), (tapAllows s .samplePreload = true ↔ (s.mode.dbg ≠ .closed ∧ s.mode.port = true)) ∧ (tapAllows s .extest = true ↔ (s.mode.dbg ≠ .closed ∧ s.mode.port = true)))

/-- A write of PCTXn by the Monitor while a core has PARTSEL = n is an illegal instruction that leaves every entry
unchanged and writes a diagnostics entry; PART_UNLOAD of that partition answers status 4. (R198.) -/
def Obligations.PartitionInUse : Prop :=
  (∀ (s : State) (c : Fin 2) (n : Fin 16) (rs1 : Fin 32), coreRuns s c = true → partGone s c = false →
       (getCore s c).level = .mon → (getCore s 0).part = n ∨ (getCore s 1).part = n →
       exec (.cwr c (0x40 + n.val) rs1) s = .next (raise (logOther s .firmware (leBytes 8 (0x40 + n.val))) c 1 0) ∧ (logOther s .firmware (leBytes 8 (0x40 + n.val))).cores = s.cores)
  ∧ (∀ (s : State) (c : Fin 2) (n : Nat), asks s c 2 = true → callReg (getCore s c) 10 = n → 1 ≤ n → n ≤ 15 →
       (getCore s 0).part = n ∨ (getCore s 1).part = n →
       exec (.partUnload c) s = .next (answer (logOther s .firmware (leBytes 8 (0x40 + n))) c 4 0))

/-- A service asked for from a level that may ask for it answers in a0 and a1 of the return and, with status 0, counts
at the caller's function. QUERY gives the interface and image versions; PART_LOAD sets a context entry not in use and
PART_UNLOAD destroys the enclaves and clears it; ENCL_CREATE, ADD, SEAL, DESTROY and REPORT take an enclave through
its states and its measurement (the page that ADD takes is a free choice of the model, log 60); PKE_RAW posts a job
and answers 4 until it has ended, and on PKE0 while a custody run stands; then it writes the accumulator back;
IRQ_RAISE raises a vector from 16 to 63 of the partition's own function. A number without a service answers 1, a level
that may not ask 2. (07_worlds_and_partitions.md, 12_crypto_engines.md.) -/
def Obligations.Services : Prop :=
  (∀ (s : State) (c : Fin 2), asks s c 0x00 = true →
       exec (.query c) s = .next (answer s c 0 (Config.serviceAbi.toNat + 65536 * (fwAbi s % 65536))))
  ∧ (∀ (s : State) (c : Fin 2), asks s c 0x01 = true → 1 ≤ callReg (getCore s c) 10 →
       callReg (getCore s c) 10 ≤ 15 → callReg (getCore s c) 11 < 2 ^ 20 → callReg (getCore s c) 12 < 2 →
       ownerExists s (callReg (getCore s c) 10) = true → partInUse s (callReg (getCore s c) 10) = false →
       exec (.partLoad c) s = .next (answer (pctxPut s (callReg (getCore s c) 10) (BitVec.ofNat 64 (callReg (getCore s c) 11 * 4096 + callReg (getCore s c) 12 * 2 + 1))) c 0 0))
  ∧ (∀ (s : State) (c : Fin 2), asks s c 0x02 = true → 1 ≤ callReg (getCore s c) 10 →
       callReg (getCore s c) 10 ≤ 15 → partInUse s (callReg (getCore s c) 10) = false →
       exec (.partUnload c) s = .next (answer (pctxPut ((enclsOf s (callReg (getCore s c) 10)).foldl enclDying s) (callReg (getCore s c) 10) 0) c 0 0))
  ∧ (∀ (s : State) (c : Fin 2) (e : Nat), asks s c 0x10 = true → callReg (getCore s c) 10 % 4096 = 0 →
       callReg (getCore s c) 10 < 2 ^ 32 → (pctxOf s (getCore s c).wsave.part).getLsbD 1 = true →
       (List.range 64).find? (fun e => (getEncl s e).state = 0) = some e →
       exec (.enclCreate c) s = .next (answer (setEncl s e { state := 1, part := (getCore s c).wsave.part, base := BitVec.ofNat 64 (callReg (getCore s c) 10), meas := sha256 (ascii "STOLTO-ENCL" ++ leBytes 1 (getCore s c).wsave.part ++ leBytes 4 (callReg (getCore s c) 10)) }) c 0 e))
  ∧ (∀ (s : State) (c : Fin 2), asks s c 0x11 = true →
       enclStatus s (getCore s c) (callReg (getCore s c) 10) [1] = none → callReg (getCore s c) 11 % 4096 = 0 →
       callReg (getCore s c) 12 % 4096 = 0 → callReg (getCore s c) 12 < 256 * 4096 →
       enclPermOk (callReg (getCore s c) 12) (callReg (getCore s c) 13) = true →
       (getEncl s (callReg (getCore s c) 10)).pages.any (·.1 = callReg (getCore s c) 12 / 4096) = false →
       (getEncl s (callReg (getCore s c) 10)).base.toNat + callReg (getCore s c) 12 < 2 ^ 32 →
       exec (.enclAdd c) s = .next ((match gpaRead s (getCore s c).wsave.part (callReg (getCore s c) 11) 4096 with
         | none => answer s c 3 0
         | some page => (match (freePages s)[leNat (freeBytes s 2).1 % max 1 (freePages s).length]? with
         | none => answer (freeBytes s 2).2 c 6 0
         | some p => (match mapPage (freeBytes s 2).2 (getCore s c).wsave.part ((getEncl s (callReg (getCore s c) 10)).base.toNat + callReg (getCore s c) 12) p (callReg (getCore s c) 13) with
         | none => answer (freeBytes s 2).2 c 6 0
         | some t => (let u := sramWrite t (4096 * p) page;
         let v := u.setCores { u.cores with ptt := tput 0 u.cores.ptt p (tagWord (callReg (getCore s c) 10) (callReg (getCore s c) 13)) };
         answer (setEncl v (callReg (getCore s c) 10) { getEncl s (callReg (getCore s c) 10) with meas := sha256 ((getEncl s (callReg (getCore s c) 10)).meas ++ leBytes 4 (callReg (getCore s c) 12) ++ leBytes 1 (callReg (getCore s c) 13) ++ page), pages := (getEncl s (callReg (getCore s c) 10)).pages ++ [(callReg (getCore s c) 12 / 4096, p)] }) c 0 0))))))
  ∧ (∀ (s : State) (c : Fin 2), asks s c 0x12 = true →
       enclStatus s (getCore s c) (callReg (getCore s c) 10) [1] = none →
       [callReg (getCore s c) 11, callReg (getCore s c) 12, callReg (getCore s c) 13, callReg (getCore s c) 14].all (entryOk s (getEncl s (callReg (getCore s c) 10))) = true →
       (getEncl s (callReg (getCore s c) 10)).pages.any (·.1 = 0) = true →
       exec (.enclSeal c) s = .next (answer (setEncl s (callReg (getCore s c) 10) { getEncl s (callReg (getCore s c) 10) with state := 2, entries := [callReg (getCore s c) 11, callReg (getCore s c) 12, callReg (getCore s c) 13, callReg (getCore s c) 14], meas := sha256 ((getEncl s (callReg (getCore s c) 10)).meas ++ [callReg (getCore s c) 11, callReg (getCore s c) 12, callReg (getCore s c) 13, callReg (getCore s c) 14].flatMap (leBytes 4)) }) c 0 0))
  ∧ (∀ (s : State) (c : Fin 2), asks s c 0x13 = true →
       enclStatus s (getCore s c) (callReg (getCore s c) 10) [1, 2] = none →
       exec (.enclDestroy c) s = .next (answer (enclDying s (callReg (getCore s c) 10)) c 0 0))
  ∧ (∀ (s : State) (c : Fin 2), asks s c 0x14 = true →
       enclStatus s (getCore s c) (callReg (getCore s c) 10) [1, 2, 3] = none →
       exec (.enclReport c) s = .next (match gpaWrite s (getCore s c).wsave.part (callReg (getCore s c) 11) (slice (getEncl s (callReg (getCore s c) 10)).meas 0 32) with | some t => answer t c 0 0 | none => answer s c 3 0))
  ∧ (∀ (s : State) (c : Fin 2), asks s c 0x20 = true → callReg (getCore s c) 10 < 2 →
       callReg (getCore s c) 11 % 64 = 0 → 1 ≤ callReg (getCore s c) 12 → callReg (getCore s c) 12 ≤ 64 →
       tget none s.pke.raw (getCore s c).wsave.part = none → callReg (getCore s c) 10 ≠ 0 ∨ s.cus.run = 0 →
       (getPke s (callReg (getCore s c) 10)).waiting.length < 16 → gateOk s 12 = true →
       exec (.pkeRaw c) s = .next (match rawDma s (getCore s c).wsave.part (callReg (getCore s c) 11) (0x80 + 0x40 * callReg (getCore s c) 12) false with
         | .wait => answer s c 4 0
         | .bad t => answer t c 5 0
         | .ok => (match gpaRead s (getCore s c).wsave.part (callReg (getCore s c) 11) (0x80 + 0x40 * callReg (getCore s c) 12) with
         | none => answer s c 5 0
         | some b => (let t := s.setPke { s.pke with raw := tput none s.pke.raw (getCore s c).wsave.part (some { inst := callReg (getCore s c) 10, addr := callReg (getCore s c) 11, steps := callReg (getCore s c) 12 }) };
         answer (setPke t (callReg (getCore s c) 10) { getPke t (callReg (getCore s c) 10) with waiting := (getPke t (callReg (getCore s c) 10)).waiting ++ [{ words := rawWords (getCore s c).wsave.part b, cls := 2, raw := some (getCore s c).wsave.part }] }) c 4 0))))
  ∧ (∀ (s : State) (c : Fin 2), asks s c 0x20 = true → callReg (getCore s c) 10 < 2 →
       callReg (getCore s c) 11 % 64 = 0 → 1 ≤ callReg (getCore s c) 12 → callReg (getCore s c) 12 ≤ 64 →
       callReg (getCore s c) 10 = 0 → s.cus.run ≠ 0 →
       exec (.pkeRaw c) s = .next (answer s c 4 0))
  ∧ (∀ (s : State) (c : Fin 2) (j : RawJob) (acc : Bytes), asks s c 0x20 = true → callReg (getCore s c) 10 < 2 →
       callReg (getCore s c) 11 % 64 = 0 → 1 ≤ callReg (getCore s c) 12 → callReg (getCore s c) 12 ≤ 64 →
       callReg (getCore s c) 10 ≠ 0 ∨ s.cus.run = 0 →
       tget none s.pke.raw (getCore s c).wsave.part = some j → j.acc = some acc → j.inst = callReg (getCore s c) 10 → j.addr = callReg (getCore s c) 11 →
       exec (.pkeRaw c) s = .next (match rawDma s (getCore s c).wsave.part (callReg (getCore s c) 11) 72 true with
         | .wait => answer s c 4 0
         | .bad t => answer (t.setPke { t.pke with raw := tput none t.pke.raw (getCore s c).wsave.part none }) c 5 0
         | .ok => (match gpaWrite s (getCore s c).wsave.part (callReg (getCore s c) 11) acc with
         | some t => answer (t.setPke { t.pke with raw := tput none t.pke.raw (getCore s c).wsave.part none }) c 0 j.steps
         | none => answer (s.setPke { s.pke with raw := tput none s.pke.raw (getCore s c).wsave.part none }) c 5 0)))
  ∧ (∀ (s : State) (c : Fin 2), asks s c 0x30 = true → 16 ≤ callReg (getCore s c) 10 → callReg (getCore s c) 10 < 64 →
       exec (.irqRaise c) s = .next (answer (irq s (getCore s c).wsave.part (callReg (getCore s c) 10)) c 0 0))
  ∧ (∀ (s : State) (c : Fin 2), asks s c 0x30 = true → callReg (getCore s c) 10 < 16 ∨ 64 ≤ callReg (getCore s c) 10 →
       exec (.irqRaise c) s = .next (answer s c 3 0))
  ∧ (∀ (s : State) (c : Fin 2) (i : Instr), i ∈ [.query c, .partLoad c, .partUnload c, .enclCreate c, .enclAdd c, .enclSeal c, .enclDestroy c, .enclReport c, .pkeRaw c, .irqRaise c] →
       coreRuns s c = true → (getCore s c).level = .mon → (getCore s c).wsave.call = true → callReg (getCore s c) 17 ∉ serviceNums →
       exec i s = .next (answer s c 1 0))
  ∧ (∀ (s : State) (c : Fin 2) (i : Instr) (k : Nat), (i, k) ∈ [(Instr.query c, 0), (.partLoad c, 1), (.partUnload c, 2), (.enclCreate c, 0x10), (.enclAdd c, 0x11), (.enclSeal c, 0x12), (.enclDestroy c, 0x13), (.enclReport c, 0x14), (.pkeRaw c, 0x20), (.irqRaise c, 0x30)] →
       coreRuns s c = true → (getCore s c).level = .mon → (getCore s c).wsave.call = true → callReg (getCore s c) 17 = k → serviceLevel k (getCore s c).wsave.level = false →
       exec i s = .next (answer s c 2 0))
  ∧ (∀ (s : State) (c : Fin 2) (i : Instr), i ∈ [.query c, .partLoad c, .partUnload c, .enclCreate c, .enclAdd c, .enclSeal c, .enclDestroy c, .enclReport c, .pkeRaw c, .irqRaise c] →
       coreRuns s c = false ∨ (getCore s c).level ≠ .mon ∨ (getCore s c).wsave.call = false →
       exec i s = .next s)
  ∧ (∀ (s : State) (c : Fin 2) (k v : Nat),
       xReg (getCore (answer s c k v) c) 10 = BitVec.ofNat 64 k ∧ xReg (getCore (answer s c k v) c) 11 = BitVec.ofNat 64 v)

/-- An access of a DMA initiator, or of the debugger with the port open, is checked and carried out, refused or
stalled; of a core after translation, at Monitor and Hypervisor level at its physical address. A store to system SRAM
writes its bytes and no other; a load of a core gives its register the bytes found; a refusal is counted and logged
and is an access fault on a core, and an error without data for the debugger. A stalled access waits and is checked
again after a write of MPU_CTL or FWL_HOLD, or is refused with SRC 0x3 or 0x7 at the end of its time (which access
that is, is the model's choice, log 61), a lane operation or a transfer of SPI0_ then with its command. A register
store reaches the register of its class or is refused. (08_access_checks.md, 07_worlds_and_partitions.md,
00_scope.md.) -/
def Obligations.Accesses : Prop :=
  (∀ (s : State) (b : BusReq), mainUp s = true → reqOk b = true → 2 ≤ b.init.val → b.init.val ≤ 4 → b.normal = false →
       exec (.busAccess b) s = .next (runAcc s b (dmaAcc b.init.val b.owner.val (b.kind = .store) true b.addr.toNat b.size)))
  ∧ (∀ (s : State) (b : BusReq), mainUp s = true → reqOk b = true → b.init.val = 4 → b.normal = true →
       exec (.busAccess b) s = .next (runAcc s b (dmaAcc 4 b.owner.val (b.kind = .store) false b.addr.toNat b.size)))
  ∧ (∀ (s : State) (b : BusReq), mainUp s = true → reqOk b = true → b.init.val = 5 ∨ b.init.val = 6 →
       exec (.busAccess b) s = .next (runAcc s b (dmaAcc b.init.val 0 (b.kind = .store) true b.addr.toNat b.size)))
  ∧ (∀ (s : State) (b : BusReq), mainUp s = true → reqOk b = true → b.init.val = 7 → debugAttached s = true →
       exec (.busAccess b) s = .next (runAcc s b (debugAcc s b.kind b.addr.toNat b.size)))
  ∧ (∀ (s : State) (b : BusReq), mainUp s = false ∨ reqOk b = false ∨ (b.init.val = 7 ∧ debugAttached s = false) ∨ (b.init.val ≤ 1 ∧ coreRuns s b.init.val = false) →
       exec (.busAccess b) s = .next s)
  ∧ (∀ (s t : State), t.fwl.hold = s.fwl.hold → mpuEns t = mpuEns s → settleAcc s t = t)
  ∧ (∀ (s : State) (b : BusReq), mainUp s = true → reqOk b = true → b.init.val ≤ 1 → coreRuns s b.init.val = true →
       partGone s b.init.val = false →
       exec (.busAccess b) s = .next (coreAccess s b.init.val b))
  ∧ (∀ (s : State) (b : BusReq) (c : Fin 2), (getCore s c).level = .mon ∨ (getCore s c).level = .hyp →
       b.kind = .load ∨ b.kind = .store → b.addr.toNat % b.size = 0 →
       coreAccess s c b = runAcc s b (coreAcc s c b.kind b.addr.toNat b.size))
  ∧ (∀ (s : State) (b : BusReq) (a : Acc), accCheck s a = .ok →
       resolveAcc s b a = accEffect s b a)
  ∧ (∀ (s : State) (b : BusReq) (a : Acc) (src idx : Nat), accCheck s a = .deny src idx →
       resolveAcc s b a = (if b.init.val ≤ 1 then raise (refuseAcc s a src idx) b.init.val (faultCode b.kind src) (faultInfo a src idx) else if b.init.val = 7 then (refuseAcc s a src idx).setMode { (refuseAcc s a src idx).mode with jtagErr := true, jtagData := [] } else refuseAcc s a src idx))
  ∧ (∀ (s : State) (b : BusReq) (a : Acc) (k : Nat), b.kind = .store → b.init.val ≠ 7 → targetOf a.addr = some 1 →
       a.addr = 0x10000000 + k →
       (∀ j, j < b.size → tget 0 (accEffect s b a).sram (k + j) = (slice b.data 0 b.size).getD j 0) ∧ (∀ j, j < k ∨ k + b.size ≤ j → tget 0 (accEffect s b a).sram j = tget 0 s.sram j)
         ∧ sameBut [.sram] s (accEffect s b a))
  ∧ (∀ (s : State) (b : BusReq) (a : Acc), b.kind = .load → b.init.val ≤ 1 →
       accEffect s b a = onCore (readEffect s a.addr b.size) b.init.val fun x => xPut x b.rd.val (loadValue b (bytesPeek s a.addr b.size)))
  ∧ (∀ (s : State) (b : BusReq) (a : Acc), b.kind = .load → b.init.val = 7 →
       accEffect s b a = (readEffect s a.addr b.size).setMode { (readEffect s a.addr b.size).mode with jtagErr := false, jtagData := bytesPeek s a.addr b.size })
  ∧ (∀ (s : State) (b : BusReq) (a : Acc), b.kind = .fetch ∨ b.kind = .walk → accEffect s b a = s)
  ∧ (∀ (s : State) (b : BusReq) (a : Acc), accCheck s a = .stall → 2 ≤ a.init → a.init ≤ 6 →
       (getMpu s a.init).en = false →
       resolveAcc s b a = s.setMpu { s.mpu with stalled := s.mpu.stalled ++ [(b, a)] })
  ∧ (∀ (s : State) (k : Fin 8) (v : Word), mainUp s = true →
       exec (.mpuCtlEn k v) s = .next (releaseStalled (s.setMpu { s.mpu with units := tput {} s.mpu.units k { getMpu s k with en := bit v 0 } })))
  ∧ (∀ (s : State) (v : Word), mainUp s = true →
       exec (.fwlHold v) s = .next (releaseStalled (holdWrite s v)))
  ∧ (∀ (s : State) (k : Fin 8) (b : BusReq) (a : Acc),
       s.mpu.stalled.find? (fun p => p.2.init = k.val) = some (b, a) →
       exec (.mpuStallTimeout k) s = .next (denyAcc (s.setMpu { s.mpu with stalled := s.mpu.stalled.erase (b, a) }) b a 3 0))
  ∧ (∀ (s : State) (k : Fin 26) (b : BusReq) (a : Acc),
       s.fwl.stalled.find? (fun p => targetOf p.2.addr = some k.val) = some (b, a) →
       exec (.firewallHoldTimeout k) s = .next (denyAcc (s.setFwl { s.fwl with stalled := s.fwl.stalled.erase (b, a) }) b a 7 0))
  ∧ (∀ (s : State) (k : Fin 8), s.mpu.stalled.find? (fun p => p.2.init = k.val) = none →
       exec (.mpuStallTimeout k) s = .next (spi0StallEnd 3 (fun a => a.init = k.val) ((List.range 6).foldl (laneStallEnd 3 (fun a => a.init = k.val)) s)))
  ∧ (∀ (s : State) (k : Fin 26), s.fwl.stalled.find? (fun p => targetOf p.2.addr = some k.val) = none →
       exec (.firewallHoldTimeout k) s = .next (spi0StallEnd 7 (fun a => targetOf a.addr = some k.val) ((List.range 6).foldl (laneStallEnd 7 (fun a => targetOf a.addr = some k.val)) s)))
  ∧ (∀ (s : State) (e src : Nat) (f : Acc → Bool) (o : LaneOp) (a : Acc), laneStalled s e src f = some (o, a) →
       laneStallEnd src f s e = setLane (refuseAcc s a src 0) e (laneSwap (· = o) { o with stall := none, bad := true } (getLane s e)))
  ∧ (∀ (s : State) (k : Fin 8) (a v : Word), mainUp s = true → a.toNat % 4 = 0 → 2 ≤ k.val → k.val ≠ 7 →
       exec (.registerWrite (.bus k) a v) s = .next (runAcc s (wordStore k a v) (dmaAcc k.val 0 true true a.toNat 4)))
  ∧ (∀ (s : State) (k : Fin 8) (a v : Word), mainUp s = true → a.toNat % 4 = 0 → k.val ≤ 1 →
       coreRuns s k.val = true → partGone s k.val = false →
       exec (.registerWrite (.bus k) a v) s = .next (runAcc s (wordStore k a v) (coreAcc s k.val .store a.toNat 4)))
  ∧ (∀ (s : State) (b : BusReq) (a : Acc) (t : State), b.kind = .store → b.init.val ≠ 7 → b.size = 4 → a.addr % 4 = 0 →
       0x40000000 ≤ a.addr → a.addr < 0x40016000 → regWrite s a.addr (wordOf (leAt (slice b.data 0 4) 0 4)) = .ok t →
       accEffect s b a = t)
  ∧ (∀ (s : State) (v : Word), mainUp s = true → pageLive s 0 = true →
       exec (.registerWrite .bar0 0x120 v) s = .next (s.setHif { s.hif with badAcc := 0 }))
  ∧ (∀ (s : State) (fn : Fin 16) (v : Word), mainUp s = true → fnThere s fn = true →
       exec (.registerWrite (.page fn) 0x101 v) s = .next (s.setHif { s.hif with badAcc := satInc 0xFFFF s.hif.badAcc }))

/-- A readback, made once no trip operation holds the slot, frees a zeroized slot when it passes, a first failure
keeps it, a second quarantines it, sets ZFAIL, asserts the alarm and is logged. At the edge of X − OVLEN the window
opens; at X the next key becomes current and the current key retiring; at X + OVLEN the retiring key is zeroized and
the schedule ends; before its tick each does nothing. A generated key not committed in time is zeroized.
(09_key_vault.md, 01_architecture.md, 15_command_set.md.) -/
def Obligations.VaultEvents : Prop :=
  (∀ (s : State) (n : Fin 1024) (ok : Bool), mainUp s = true → (getSlot s n).state = 3 → macHolds s n = false →
       exec (.zeroizeReadback n ok) s = .next (let t := readback s n ok; let u := if getAssoc t (getSlot s n).assoc = getAssoc s (getSlot s n).assoc then t else journalAssoc t (getSlot s n).assoc;
         ownerCheck (if assocZeroizing u (getSlot s n).assoc then u else endWaits u (.zeroed (getSlot s n).assoc) id) (getSlot s n).owner))
  ∧ (∀ (s : State) (n : Nat), (getSlot s n).state = 3 →
       getSlot (readback s n true) n = freeSlot ∧ (readback s n true).vlt.quar = s.vlt.quar)
  ∧ (∀ (s : State) (n : Nat), (getSlot s n).state = 3 → s.vlt.zTry.contains n = false →
       readback s n false = s.setVlt { s.vlt with zTry := s.vlt.zTry ++ [n] })
  ∧ (∀ (s : State) (n : Nat), (getSlot s n).state = 3 → s.vlt.zTry.contains n = true →
       (readback s n false).vlt.quar = s.vlt.quar ++ [n] ∧ (readback s n false).vlt.zfail = true ∧ Alarm.zfail.num ∈ (readback s n false).tmp.alarm ∧ (getSlot (readback s n false) n).state = 0)
  ∧ (∀ (s : State) (a : BitVec 12) (x : Season), seasonOf s a.toNat = some x → mainUp s = true → s.glb.run = true →
       x.opened = false → tickReached (x.x - wordOf x.ovlen) s.glb.tick = true →
       exec (.seasonWindowOpen a) s = .next (setSeason s { x with opened := true }))
  ∧ (∀ (s : State) (a : BitVec 12) (x : Season), seasonOf s a.toNat = some x → mainUp s = true → s.glb.run = true →
       x.rolled = false → tickReached x.x s.glb.tick = true →
       exec (.seasonRollover a) s = .next (setSeason (rollRoles s a.toNat) { x with opened := true, rolled := true }))
  ∧ (∀ (s : State) (a : BitVec 12) (x : Season), seasonOf s a.toNat = some x → mainUp s = true → s.glb.run = true →
       x.rolled = true → tickReached (x.x + wordOf x.ovlen) s.glb.tick = true →
       exec (.seasonWindowEnd a) s = .next ((dropRetiring s a.toNat).setVlt { (dropRetiring s a.toNat).vlt with seasons := (dropRetiring s a.toNat).vlt.seasons.filter (·.assoc ≠ a.toNat) }))
  ∧ (∀ (s : State) (a : BitVec 12) (x : Season), seasonOf s a.toNat = some x →
       tickReached (x.x - wordOf x.ovlen) s.glb.tick = false → tickReached x.x s.glb.tick = false →
       tickReached (x.x + wordOf x.ovlen) s.glb.tick = false →
       exec (.seasonWindowOpen a) s = .next s ∧ exec (.seasonRollover a) s = .next s ∧ exec (.seasonWindowEnd a) s = .next s)
  ∧ (∀ (s : State) (n : Nat) (x : Slot) (a : Nat),
       (assocSlots s a).find? (fun p => p.2.state = 1 && p.2.role = 2) = some (n, x) →
       dropRetiring s a = zeroize s n)
  ∧ (∀ (s : State) (n : Fin 1024) (o : KeyOp) (d : Word), s.vlt.keyOps.find? (fun o => o.slot = n.val) = some o →
       o.deadline = some d → o.armed = false → (getSlot s n).state = 2 → mainUp s = true → s.glb.run = true →
       tickReached d s.glb.tick = true →
       exec (.generateCommitExpiry n) s = .next (dropKey s n))
  ∧ (∀ (s : State) (n : Fin 1024) (ok : Bool), mainUp s = false ∨ (getSlot s n).state ≠ 3 ∨ macHolds s n = true →
       exec (.zeroizeReadback n ok) s = .next s)
  ∧ (∀ (s : State) (a : BitVec 12), seasonOf s a.toNat = none →
       exec (.seasonWindowOpen a) s = .next s ∧ exec (.seasonRollover a) s = .next s ∧ exec (.seasonWindowEnd a) s = .next s)
  ∧ (∀ (s : State) (n : Fin 1024), s.vlt.keyOps.find? (fun o => o.slot = n.val) = none ∨ (getSlot s n).state ≠ 2 →
       exec (.generateCommitExpiry n) s = .next s)

/-- CUS_CTL with its key commits the record, cancels, or asks for a verification; without the key it does nothing. The
run ends with the checks in their order: all passed sets the latch, any failed names its RESULT and clears what is
open. A request, or a consumed latch that still stands, expires at its tick and a request repeats every 4096; an
approval of the open request is kept and a refusal cancels it, any other is discarded and logged, a credential enters
its candidate unless the candidates are locked. (10_custody_and_dual_control.md, 11_can_fd_custody_and_mirror.md.) -/
def Obligations.CustodyEvents : Prop :=
  (∀ (s : State) (v : Word), mainUp s = true → gateOk s 8 = true → fld v 24 8 = 0xC5 → bit v 0 = true →
       exec (.custCommit v) s = .next (custCommitRun s).1)
  ∧ (∀ (s : State) (v : Word), mainUp s = true → gateOk s 8 = true → fld v 24 8 = 0xC5 → bit v 1 = true →
       exec (.custCancel v) s = .next (custCancelAll s 4 0xA))
  ∧ (∀ (s : State) (v : Word), mainUp s = true → gateOk s 8 = true → fld v 24 8 = 0xC5 → bit v 2 = true →
       s.cus.run = 0 →
       exec (.custVerify v) s = .next (s.setCus { s.cus with run := 1 }))
  ∧ (∀ (s : State) (v : Word), mainUp s = true → gateOk s 8 = true → fld v 24 8 ≠ 0xC5 →
       exec (.custCommit v) s = .next s ∧ exec (.custCancel v) s = .next s ∧ exec (.custVerify v) s = .next s)
  ∧ (∀ (s : State) (v : Word), mainUp s = true → gateOk s 8 = true →
       (bit v 0 = false → exec (.custCommit v) s = .next s) ∧ (bit v 1 = false → exec (.custCancel v) s = .next s) ∧ (bit v 2 = false ∨ s.cus.run ≠ 0 → exec (.custVerify v) s = .next s))
  ∧ (∀ (s : State) (v : Word), mainUp s = true → gateOk s 8 = false →
       exec (.custCommit v) s = .next (refuseAcc s (fwAcc 0x40008084) 9 0) ∧ exec (.custCancel v) s = .next (refuseAcc s (fwAcc 0x40008084) 9 0) ∧ exec (.custVerify v) s = .next (refuseAcc s (fwAcc 0x40008084) 9 0))
  ∧ (∀ (s : State), mainUp s = true → s.cus.run = 2 → engClocked s 6 = true → s.tmp.trig = none →
       exec .custodyVerifyEnd s = .next (match custChecks s (approvalAt s 0) (approvalAt s 0x1800) with
         | none => latchSet (custRunOver s) (byteAt (approvalAt s 0) 0) (byteAt (approvalAt s 0x1800) 0)
         | some (k, w) => reqClose (latchClear ((custRunOver s).setCus { (custRunOver s).cus with result := k, which := w })) 5 0x21))
  ∧ (∀ (s : State), mainUp s = false ∨ s.cus.run ≠ 2 ∨ engClocked s 6 = false ∨ s.tmp.trig.isSome = true →
       exec .custodyVerifyEnd s = .next s)
  ∧ (∀ (s : State) (a b : Nat),
       (latchSet s a b).cus.latch = { isSet := true, op := reqOp s, slotA := a, slotB := b, reqNo := reqNoOf s, record := s.cus.req, form := s.cus.form, used := false })
  ∧ (∀ (s : State) (a b : Bytes), s.cus.reqOpen = false ∨ tickReached (reqExpires s) s.glb.tick = true →
       custChecks s a b = some (1, false))
  ∧ (∀ (s : State) (a b : Bytes),
       custChecks s a b = none ↔ s.cus.reqOpen = true ∧ tickReached (reqExpires s) s.glb.tick = false ∧ wordOf (leAt a 4 4) = reqNoOf s ∧ byteAt a 1 = 1 ∧ wordOf (leAt b 4 4) = reqNoOf s ∧ byteAt b 1 = 1
         ∧ byteAt a 0 ≠ byteAt b 0 ∧ approvalSlotOk s (byteAt a 0) = true ∧ approvalSlotOk s (byteAt b 0) = true
         ∧ approvalDigest a = approvalRef s (byteAt a 0) ∧ approvalDigest b = approvalRef s (byteAt b 0) ∧ approvalDigest a ≠ approvalDigest b
         ∧ approvalEc s a = true ∧ approvalEc s b = true ∧ approvalMl s a = true ∧ approvalMl s b = true)
  ∧ (∀ (s : State), mainUp s = true → s.glb.run = true → s.cus.reqOpen = true →
       tickReached (reqExpires s) s.glb.tick = true →
       exec .requestExpiry s = .next (custCancelAll s 3 1))
  ∧ (∀ (s : State), mainUp s = true → s.glb.run = true → s.cus.latch.isSet = true → tickReached (latchExpires s) s.glb.tick = true →
       exec .requestExpiry s = .next (custCancelAll s 3 1))
  ∧ (∀ (s : State), s.cus.reqOpen = false ∨ tickReached (reqExpires s) s.glb.tick = false →
       s.cus.latch.isSet = false ∨ tickReached (latchExpires s) s.glb.tick = false →
       exec .requestExpiry s = .next s)
  ∧ (∀ (s : State), s.cus.reqOpen = true → voeRuns s 0 = true → 4096 ≤ s.cus.repTicks →
       exec .requestRepeat s = .next (sendRequest (s.setCus { s.cus with repTicks := 0 })))
  ∧ (∀ (s : State), s.cus.reqOpen = false ∨ voeRuns s 0 = false ∨ s.cus.repTicks < 4096 →
       exec .requestRepeat s = .next s)
  ∧ (∀ (s t : State) (m : Msg), inboxTake s 0 0x11 = some (m, t) →
       namesRequest t (wordOf (leAt (slice m.pay 0 5462) 4 4)) = true →
       exec .approval s = .next (layApprovals (t.setCus { t.cus with approvals := t.cus.approvals ++ [slice m.pay 0 5462] })))
  ∧ (∀ (s t : State) (m : Msg), inboxTake s 0 0x11 = some (m, t) →
       namesRequest t (wordOf (leAt (slice m.pay 0 5462) 4 4)) = false →
       exec .approval s = .next (logDiscard t (wordOf (leAt (slice m.pay 0 5462) 4 4)) (byteAt (slice m.pay 0 5462) 0)))
  ∧ (∀ (s t : State) (m : Msg), inboxTake s 0 0x12 = some (m, t) →
       namesRequest t (wordOf (leAt m.pay 0 4)) = true →
       exec .refusal s = .next (custCancelAll t 4 0xA))
  ∧ (∀ (s t : State) (m : Msg), inboxTake s 0 0x12 = some (m, t) →
       namesRequest t (wordOf (leAt m.pay 0 4)) = false →
       exec .refusal s = .next (logDiscard t (wordOf (leAt m.pay 0 4)) (byteAt m.pay 4)))
  ∧ (∀ (s : State) (n : Fin 8), (inboxTake s 0 0x11 = none → exec .approval s = .next s) ∧ (inboxTake s 0 0x12 = none → exec .refusal s = .next s) ∧ (inboxTake s 0 0x14 = none → exec (.credential n) s = .next s))
  ∧ (∀ (s t : State) (m : Msg) (n : Fin 8), inboxTake s 0 0x14 = some (m, t) → t.cus.candLock = false →
       exec (.credential n) s = .next (t.setCus { t.cus with cand := tput (List.replicate 32 0) t.cus.cand n (sha256 (slice m.pay 0 97 ++ slice m.pay 97 1952)), candMask := t.cus.candMask ||| BitVec.ofNat 8 (2 ^ n.val) }))
  ∧ (∀ (s t : State) (m : Msg) (n : Fin 8), inboxTake s 0 0x14 = some (m, t) → t.cus.candLock = true →
       exec (.credential n) s = .next (refuseWrite t (0x40008100 + 0x20 * n.val) 0xB))

/-- A write of MODE other than STOP starts a stopped controller whose timing lies within the limits and refuses it
with a bus error otherwise; STOP takes effect at once with no frame on the bus and at its end otherwise. TXREQ makes
each named FREE buffer PENDING and leaves a PENDING one; one requested in DIM is not offered there. TXABORT frees a
PENDING buffer with ABORTED at once, or once its frame leaves the bus, and leaves a FREE one. At each arbitration the
lowest identifier is offered, then the lowest buffer, with the error state in ESI. BOR_REQ starts recovery at bus-off
when BOR_AUTO is 0. RXPOP removes the head, and the interrupt follows the FIFO. Integration sets SYNCED once the
kernel clock stands and has no other effect. With the clock gate off each write gets a bus error; while the main
domain is down none has an effect. (11_can_fd_custody_and_mirror.md, 05_clocks.md.) -/
def Obligations.CanControl : Prop :=
  (∀ (s : State) (ch : Fin 2) (m : Fin 4), mainUp s = true → gateOk s (9 + ch.val) = true → m ≠ 0 →
       (getCan s ch).mode = 0 → timingOk (getCan s ch).nbt (getCan s ch).dbt = true →
       exec (.canMode ch m) s = .next (pickTx (setCan s ch { getCan s ch with mode := m, synced := false }) ch))
  ∧ (∀ (s : State) (ch : Fin 2) (m : Fin 4), mainUp s = true → gateOk s (9 + ch.val) = true → m ≠ 0 →
       (getCan s ch).mode = 0 → timingOk (getCan s ch).nbt (getCan s ch).dbt = false →
       exec (.canMode ch m) s = .next (pickTx (refuseWrite s (canBase ch) 0xA) ch))
  ∧ (∀ (s : State) (ch : Fin 2) (m : Fin 4), mainUp s = true → gateOk s (9 + ch.val) = true → m ≠ 0 →
       (getCan s ch).mode ≠ 0 →
       exec (.canMode ch m) s = .next (pickTx (setCan s ch { getCan s ch with mode := m, stopReq := false }) ch))
  ∧ (∀ (s : State) (ch : Fin 2), mainUp s = true → gateOk s (9 + ch.val) = true → (getCan s ch).onBus = none →
       exec (.canMode ch 0) s = .next (pickTx (setCan s ch { getCan s ch with mode := 0, synced := false, stopReq := false }) ch))
  ∧ (∀ (s : State) (ch : Fin 2), mainUp s = true → gateOk s (9 + ch.val) = true →
       (getCan s ch).onBus.isSome = true →
       exec (.canMode ch 0) s = .next (pickTx (setCan s ch { getCan s ch with stopReq := true }) ch))
  ∧ (∀ (s : State) (ch : Fin 2) (m : Byte), mainUp s = true → gateOk s (9 + ch.val) = true →
       exec (.txreq ch m) s = .next (pickTx (setCan s ch (txReq (s.mode.mode = .dim) m (getCan s ch))) ch))
  ∧ (∀ (d : Bool) (x : CanCh) (m : Byte) (b : Fin 8), m.getLsbD b = true → (getTx x b).pend = false →
       getTx (txReq d m x) b = { getTx x b with pend := true, tries := 0, otherErr := false, abortReq := false, late := d })
  ∧ (∀ (d : Bool) (x : CanCh) (m : Byte) (b : Fin 8), m.getLsbD b = false ∨ (getTx x b).pend = true →
       getTx (txReq d m x) b = getTx x b)
  ∧ (∀ (s : State) (ch : Fin 2) (m : Byte), mainUp s = true → gateOk s (9 + ch.val) = true →
       exec (.txabort ch m) s = .next (setCan s ch (txAbort m (getCan s ch))))
  ∧ (∀ (x : CanCh) (m : Byte) (b : Fin 8), m.getLsbD b = true → (getTx x b).pend = true → x.onBus ≠ some b.val →
       getTx (txAbort m x) b = { getTx x b with pend := false, aborted := true })
  ∧ (∀ (s : State) (ch : Fin 2), mainUp s = true → gateOk s (9 + ch.val) = true → (getCan s ch).state = 2 →
       (getCan s ch).borAuto = false →
       exec (.borReq ch) s = .next (setCan s ch { getCan s ch with borRun := true }))
  ∧ (∀ (s : State) (ch : Fin 2), mainUp s = true → gateOk s (9 + ch.val) = true →
       exec (.rxpop ch) s = .next (canIrq (setCan s ch { getCan s ch with fifo := (getCan s ch).fifo.drop 1 }) ch))
  ∧ (∀ (s : State) (ch : Fin 2), (getCan s ch).mode ≠ 0 → (getCan s ch).synced = false → canRuns s ch = true →
       canClocked s = true → (getCan s ch).parked = true →
       exec (.busIntegration ch) s = .next (pickTx (setCan s ch { getCan s ch with synced := true, parked := false }) ch))
  ∧ (∀ (s : State) (ch : Fin 2), (getCan s ch).mode ≠ 0 → (getCan s ch).synced = false → canRuns s ch = true →
       canClocked s = true → (getCan s ch).parked = false →
       exec (.busIntegration ch) s = .next (pickTx (startHello (setCan s ch { getCan s ch with synced := true, parked := false }) ch) ch))
  ∧ (∀ (s : State) (ch : Fin 2) (m : Fin 4) (b : Byte), mainUp s = false →
       exec (.canMode ch m) s = .next s ∧ exec (.txreq ch b) s = .next s ∧ exec (.txabort ch b) s = .next s ∧ exec (.borReq ch) s = .next s ∧ exec (.rxpop ch) s = .next s)
  ∧ (∀ (x : CanCh) (m : Byte) (b : Fin 8), m.getLsbD b = true → (getTx x b).pend = true → x.onBus = some b.val →
       getTx (txAbort m x) b = { getTx x b with abortReq := true })
  ∧ (∀ (x : CanCh) (m : Byte) (b : Fin 8), m.getLsbD b = false ∨ (getTx x b).pend = false →
       getTx (txAbort m x) b = getTx x b)
  ∧ (∀ (s : State) (ch : Fin 2), mainUp s = true → gateOk s (9 + ch.val) = true →
       (getCan s ch).state ≠ 2 ∨ (getCan s ch).borAuto = true →
       exec (.borReq ch) s = .next (setCan s ch (getCan s ch)))
  ∧ (∀ (s : State) (ch : Fin 2) (m : Fin 4) (b : Byte), mainUp s = true → gateOk s (9 + ch.val) = false →
       exec (.canMode ch m) s = .next (refuseAcc s (fwAcc (canBase ch)) 9 0) ∧
       exec (.txreq ch b) s = .next (refuseAcc s (fwAcc (canBase ch + 0x20)) 9 0) ∧
       exec (.txabort ch b) s = .next (refuseAcc s (fwAcc (canBase ch + 0x24)) 9 0) ∧
       exec (.borReq ch) s = .next (refuseAcc s (fwAcc (canBase ch)) 9 0) ∧
       exec (.rxpop ch) s = .next (refuseAcc s (fwAcc (canBase ch + 0x44)) 9 0))
  ∧ (∀ (s : State) (ch : Fin 2), (getCan s ch).mode = 0 ∨ (getCan s ch).synced = true ∨ canRuns s ch = false ∨ canClocked s = false →
       exec (.busIntegration ch) s = .next s)
  ∧ (∀ (s : State), canClocked s = (!relockB s && s.clk.lockB && !s.mode.hold))
  ∧ (∀ (s : State) (ch : Fin 2), canIrq s ch = if (getCan s ch).fifo = [] then monLower s (9 + ch) else monRaise s (9 + ch))
  ∧ (∀ (s : State) (ch : Fin 2) (b : Nat), (getCan s ch).onBus = none → canRuns s ch = true → canStart s (getCan s ch) = true →
       offered (decide (s.mode.mode = .dim)) (getCan s ch) = some b →
       pickTx s ch = setCan s ch { putTx (getCan s ch) b { getTx (getCan s ch) b with frame := { (getTx (getCan s ch) b).frame with esi := decide ((getCan s ch).state = 1) } } with onBus := some b })
  ∧ (∀ (s : State) (ch : Fin 2), (getCan s ch).onBus.isSome = true ∨ canRuns s ch = false ∨ canStart s (getCan s ch) = false ∨ offered (decide (s.mode.mode = .dim)) (getCan s ch) = none →
       pickTx s ch = s)
  ∧ (∀ (d : Bool) (x : CanCh) (b : Fin 8), offered d x = some b.val →
       (getTx x b).pend = true ∧ (d && (getTx x b).late) = false)
  ∧ (∀ (d : Bool) (x : CanCh) (b k : Fin 8), offered d x = some b.val → (getTx x k).pend = true →
       (d && (getTx x k).late) = false →
       (getTx x b).frame.id ≤ (getTx x k).frame.id ∧ ((getTx x k).frame.id ≠ (getTx x b).frame.id ∨ b.val ≤ k.val))

/-- A frame received without error lowers REC (a free value from 119 to 127 from above 127), clears ALONE, takes an
own attempt on the bus as lost, and enters the FIFO only as an FD frame with an extended identifier that an enabled
filter matches; any other is counted in DISC; a full FIFO loses it, sets RXOVF and counts it. A frame acknowledged
frees its buffer with DONE and lowers TEC. An attempt without acknowledge raises TEC by 8 unless the controller is
error passive, any other error by 8 for each step that ISO 11898-1 gives; a lost arbitration counts nothing; below the
limit the buffer stays PENDING unless an abort was requested; at the limit the buffer is FREE with NO_ACK, which sets
ALONE, or ABORTED. Above 255 the controller is bus-off, keeps its buffers, and writes a diagnostics entry; recovery
zeroes both counters. A receive error raises REC. Both stamps are of the start-of-frame edge. In LOOPBACK a sent frame
is also received. A controller that does not take part is left as it is. (11_can_fd_custody_and_mirror.md.) -/
def Obligations.CanFrames : Prop :=
  (∀ (s : State) (ch : Fin 2) (f : CanFrame) (n : Nat) (c : CanCh), getCan s ch = c → c.mode ≠ 0 → c.mode ≠ 3 →
       c.synced = true → c.state ≠ 2 → canRuns s ch = true → c.onBus = none →
       exec (.frameReceived ch f n) s = .next (let t := rxConflict (recGood (setCan s ch { c with alone := false }) ch) ch f;
         let u := canIrq (rxFilter t ch ⟨f, stampBefore s n⟩) ch; frameOver (if rxWakes u ch f then wakeTrigger u 7 else u) ch))
  ∧ (∀ (x : CanCh) (e : RxEnt), x.fifo.length < 16 →
       rxPush x e = { x with fifo := x.fifo ++ [e] })
  ∧ (∀ (x : CanCh) (e : RxEnt), 16 ≤ x.fifo.length →
       (rxPush x e).fifo = x.fifo ∧ (rxPush x e).rxovf = true ∧ (rxPush x e).rxlost = satInc 0xFFFF x.rxlost)
  ∧ (∀ (s : State) (ch : Fin 2) (e : RxEnt), e.frame.fd = true → e.frame.ext = true →
       fltMatches (getCan s ch) e.frame.id = true → fltActiveCan s ch = false → s.flt.canHeld = [] →
       rxFilter s ch e = setCan s ch (rxPush (getCan s ch) e))
  ∧ (∀ (s : State) (ch : Fin 2) (e : RxEnt),
       (e.frame.fd && e.frame.ext && fltMatches (getCan s ch) e.frame.id) = false →
       rxFilter s ch e = setCan s ch { getCan s ch with disc := satInc 0xFFFF (getCan s ch).disc })
  ∧ (∀ (s : State) (ch : Fin 2), (getCan s ch).recv ≤ 127 →
       recGood s ch = setCan s ch (canState { getCan s ch with recv := (getCan s ch).recv - 1 }))
  ∧ (∀ (s : State) (ch : Fin 2), 127 < (getCan s ch).recv →
       119 ≤ (getCan (recGood s ch) ch).recv ∧ (getCan (recGood s ch) ch).recv ≤ 127)
  ∧ (∀ (s : State) (ch : Fin 2) (b n : Nat), (getCan s ch).onBus = some b →
       exec (.frameTxEnd ch .ok n) s = .next (let u := setCan s ch { putTx (getCan s ch) b { getTx (getCan s ch) b with stamp := stampBefore s n } with onBus := none }; frameOver (canIrq (txOk u ch b) ch) ch))
  ∧ (∀ (s : State) (ch : Fin 2) (b n : Nat), (getCan s ch).onBus = some b →
       exec (.frameTxEnd ch .noAck n) s = .next (let u := setCan s ch { putTx (getCan s ch) b { getTx (getCan s ch) b with stamp := stampBefore s n } with onBus := none }; frameOver (txFailed (txNoAck u ch) ch b false) ch))
  ∧ (∀ (s : State) (ch : Fin 2) (b n k : Nat), (getCan s ch).onBus = some b →
       exec (.frameTxEnd ch (.error k) n) s = .next (let u := setCan s ch { putTx (getCan s ch) b { getTx (getCan s ch) b with stamp := stampBefore s n } with onBus := none }; frameOver (txFailed (tecUp u ch k) ch b true) ch))
  ∧ (∀ (s : State) (ch : Fin 2) (b n : Nat), (getCan s ch).onBus = some b →
       exec (.frameTxEnd ch .lost n) s = .next (let u := setCan s ch { putTx (getCan s ch) b { getTx (getCan s ch) b with stamp := stampBefore s n } with onBus := none }; frameOver (txLost u ch b) ch))
  ∧ (∀ (s : State) (ch : Fin 2) (b : Nat) (x : TxBuf), getTx (getCan s ch) b = x → idKind x.frame.id ≠ 0 →
       (getCan s ch).mode ≠ 3 →
       txOk s ch b = setCan s ch (canState { putTx (getCan s ch) b { x with pend := false, done := true, abortReq := false } with tec := (getCan s ch).tec - 1, alone := false }))
  ∧ (∀ (s : State) (ch : Fin 2) (b : Nat), (getTx (getCan s ch) b).abortReq = false →
       txLost s ch b = setCan s ch (getCan s ch))
  ∧ (∀ (s : State) (ch : Fin 2) (b : Nat),
       txLimit (getCan s ch) { getTx (getCan s ch) b with tries := (getTx (getCan s ch) b).tries + 1 } = true →
       txFailed s ch b true = setCan s ch (putTx (getCan s ch) b { getTx (getCan s ch) b with tries := (getTx (getCan s ch) b).tries + 1, otherErr := true, pend := false, aborted := true, abortReq := false }))
  ∧ (∀ (s : State) (ch : Fin 2), (getCan s ch).state = 1 →
       txNoAck s ch = s)
  ∧ (∀ (s : State) (ch : Fin 2), (getCan s ch).state ≠ 1 →
       txNoAck s ch = tecUp s ch 1)
  ∧ (∀ (s : State) (ch : Fin 2) (n : Nat), (getCan s ch).tec + 8 * n ≤ 255 →
       tecUp s ch n = setCan s ch (canState { getCan s ch with tec := (getCan s ch).tec + 8 * n }))
  ∧ (∀ (s : State) (ch : Fin 2) (n : Nat), 255 < (getCan s ch).tec + 8 * n →
       tecUp s ch n = logD (setCan s ch { getCan s ch with tec := 255, state := 2, borRun := (getCan s ch).borAuto, onBus := none }) (canBlk ch) 1 (leBytes 8 0))
  ∧ (∀ (x : CanCh), x.state ≠ 2 →
       canState x = { x with state := if 127 < x.tec ∨ 127 < x.recv then 1 else 0 })
  ∧ (∀ (x : CanCh) (y : TxBuf),
       txLimit x y = (decide (x.retry ≠ 0) && decide (x.retry ≤ y.tries)))
  ∧ (∀ (s : State) (ch : Fin 2) (b : Nat),
       txLimit (getCan s ch) { getTx (getCan s ch) b with tries := (getTx (getCan s ch) b).tries + 1 } = true →
       (getTx (getCan s ch) b).otherErr = false →
       txFailed s ch b false = voeNoAck (setCan s ch { putTx (getCan s ch) b { getTx (getCan s ch) b with tries := (getTx (getCan s ch) b).tries + 1, pend := false, noAck := true, abortReq := false } with alone := true }) ch (getTx (getCan s ch) b).frame)
  ∧ (∀ (s : State) (ch : Fin 2), (getCan s ch).state = 2 → (getCan s ch).borRun = true → canRuns s ch = true →
       (getCan s ch).mode ≠ 0 → (getCan s ch).parked = false →
       exec (.busOffRecovery ch) s = .next (pickTx (logD (setCan s ch { getCan s ch with tec := 0, recv := 0, state := 0, borRun := false }) (canBlk ch) 1 (leBytes 8 1)) ch))
  ∧ (∀ (s : State) (ch : Fin 2) (n : Nat) (c : CanCh), getCan s ch = c → c.mode ≠ 0 → c.mode ≠ 3 →
       c.synced = true → c.state ≠ 2 → canRuns s ch = true →
       exec (.receiveError ch n) s = .next (setCan s ch (canState { c with recv := min 255 (c.recv + n) })))
  ∧ (∀ (s : State) (ch : Fin 2) (f : CanFrame) (n b : Nat) (c : CanCh), getCan s ch = c → c.mode ≠ 0 → c.mode ≠ 3 →
       c.synced = true → c.state ≠ 2 → canRuns s ch = true → c.onBus = some b →
       exec (.frameReceived ch f n) s = .next (let r := txLost (setCan s ch { putTx c b { getTx c b with stamp := stampBefore s n } with onBus := none }) ch b;
         let t := rxConflict (recGood (setCan r ch { getCan r ch with alone := false }) ch) ch f;
         let u := canIrq (rxFilter t ch ⟨f, stampBefore s n⟩) ch; frameOver (if rxWakes u ch f then wakeTrigger u 7 else u) ch))
  ∧ (∀ (s : State) (ch : Fin 2) (f : CanFrame) (n : Nat), (getCan s ch).mode = 0 ∨ (getCan s ch).mode = 3 ∨ (getCan s ch).synced = false ∨
       (getCan s ch).state = 2 ∨ canRuns s ch = false →
       exec (.frameReceived ch f n) s = .next s ∧ exec (.receiveError ch n) s = .next s)
  ∧ (∀ (s : State) (ch : Fin 2) (e : TxEnd) (n : Nat), (getCan s ch).onBus = none →
       exec (.frameTxEnd ch e n) s = .next s)
  ∧ (∀ (s : State) (ch : Fin 2), (getCan s ch).state ≠ 2 ∨ (getCan s ch).borRun = false ∨ canRuns s ch = false ∨
       (getCan s ch).mode = 0 ∨ (getCan s ch).parked = true →
       exec (.busOffRecovery ch) s = .next s)
  ∧ (∀ (s : State) (ch : Fin 2) (b : Nat), (getTx (getCan s ch) b).abortReq = true →
       txLost s ch b = setCan s ch (putTx (getCan s ch) b { getTx (getCan s ch) b with pend := false, aborted := true, abortReq := false }))
  ∧ (∀ (s : State) (ch : Fin 2) (b : Nat) (o : Bool),
       txLimit (getCan s ch) { getTx (getCan s ch) b with tries := (getTx (getCan s ch) b).tries + 1 } = false →
       (getTx (getCan s ch) b).abortReq = false →
       txFailed s ch b o = setCan s ch (putTx (getCan s ch) b { getTx (getCan s ch) b with tries := (getTx (getCan s ch) b).tries + 1, otherErr := (getTx (getCan s ch) b).otherErr || o }))
  ∧ (∀ (s : State) (ch : Fin 2) (b : Nat) (o : Bool),
       txLimit (getCan s ch) { getTx (getCan s ch) b with tries := (getTx (getCan s ch) b).tries + 1 } = false →
       (getTx (getCan s ch) b).abortReq = true →
       txFailed s ch b o = setCan s ch (putTx (getCan s ch) b { getTx (getCan s ch) b with tries := (getTx (getCan s ch) b).tries + 1, otherErr := (getTx (getCan s ch) b).otherErr || o, pend := false, aborted := true, abortReq := false }))
  ∧ (∀ (s : State) (ch : Fin 2) (b : Nat),
       txLimit (getCan s ch) { getTx (getCan s ch) b with tries := (getTx (getCan s ch) b).tries + 1 } = true →
       (getTx (getCan s ch) b).otherErr = true →
       txFailed s ch b false = setCan s ch (putTx (getCan s ch) b { getTx (getCan s ch) b with tries := (getTx (getCan s ch) b).tries + 1, pend := false, aborted := true, abortReq := false }))
  ∧ (∀ (s : State) (ch : Fin 2), voeRuns s ch = true →
       frameOver s ch = pickTx (drainOut (setCan s ch (canStopDue (getCan s ch)))) ch)
  ∧ (∀ (s : State) (ch : Fin 2), voeRuns s ch = false →
       frameOver s ch = pickTx (setCan s ch (canStopDue (getCan s ch))) ch)
  ∧ (∀ (s : State) (n : Nat), n ≤ s.glb.sub → stampBefore s n = ⟨s.glb.tick, s.glb.sub - n⟩)
  ∧ (∀ (s : State) (ch : Fin 2) (b : Nat) (x : TxBuf), getTx (getCan s ch) b = x → idKind x.frame.id ≠ 0 →
       (getCan s ch).mode = 3 →
       txOk s ch b = rxFilter (setCan s ch (canState { putTx (getCan s ch) b { x with pend := false, done := true, abortReq := false } with tec := (getCan s ch).tec - 1, alone := false })) ch ⟨{ x.frame with data := slice x.frame.data 0 (dlcLen x.frame.dlc) }, x.stamp⟩)

/-- Frames for another node, of KIND 3 or of PRI 5 to 7 are taken from the head of the FIFO and dropped; the next one
for this node is taken by the row of its KIND, and a row that finds none only follows the interrupt. A DATA frame in
order is processed, EXP advances and an ACK is due; one of the last 32, or one ahead of a gap, makes an ACK due and is
not processed; any other is counted and logged, and a broadcast one carries nothing for this device. An ACK releases
every frame before NEXT and restarts the time-out. A HELLO sets EXP = START, is acknowledged and ends the old session;
an own HELLO answers it when a session was open, the peer was LOST or none has been sent. A HELLO that finds the cores
gated or the mirror keys missing waits. A mirror frame whose tag fails is counted and nothing is sent. A time-out
sends every unacknowledged frame again and the sixth without progress makes the peer LOST; before the time-out it has
no effect; every 4096 ticks a HELLO goes to each LOST peer. The HELLO handshake on the broadcast bus is read as log
entry 23 says. (11_can_fd_custody_and_mirror.md.) -/
def Obligations.VoethFrames : Prop :=
  (∀ (s : State) (ch : Fin 2) (e : RxEnt) (l : List RxEnt), voeRuns s ch = true → (getCan s ch).fifo = e :: l →
       voeFor s ch e.frame = true →
       voeTake s ch (idKind e.frame.id) = (some e, canIrq (setCan s ch { getCan s ch with fifo := l }) ch))
  ∧ (∀ (s : State) (ch : Fin 2) (f : CanFrame),
       3 ≤ idKind f.id ∨ 5 ≤ idPri f.id ∨ (idDst f.id ≠ ownNode s ch ∧ idDst f.id ≠ 0xFF) →
       voeFor s ch f = false)
  ∧ (∀ (s t : State) (ch : Fin 2) (e : RxEnt) (p : Peer), voeTake s ch 0 = (some e, t) →
       getPeer t ch (idSrc e.frame.id) = p → idDst e.frame.id ≠ 0xFF → ch = 0 ∨ tagOk t (session t) e.frame = true →
       p.gotHello = true → (leAt e.frame.data 0 2 + 65536 - p.exp) % 65536 = 0 →
       exec (.voethData ch) s = .next (dataAccept t ch (idSrc e.frame.id) e))
  ∧ (∀ (s t : State) (ch : Fin 2) (e : RxEnt) (p : Peer), voeTake s ch 0 = (some e, t) →
       getPeer t ch (idSrc e.frame.id) = p → idDst e.frame.id ≠ 0xFF → ch = 0 ∨ tagOk t (session t) e.frame = true →
       p.gotHello = true →
       65504 ≤ (leAt e.frame.data 0 2 + 65536 - p.exp) % 65536 ∨ (1 ≤ (leAt e.frame.data 0 2 + 65536 - p.exp) % 65536 ∧ (leAt e.frame.data 0 2 + 65536 - p.exp) % 65536 ≤ 7) →
       exec (.voethData ch) s = .next (setPeer t ch (idSrc e.frame.id) { p with ackDue := true }))
  ∧ (∀ (s t : State) (ch : Fin 2) (e : RxEnt) (p : Peer), voeTake s ch 0 = (some e, t) →
       getPeer t ch (idSrc e.frame.id) = p → idDst e.frame.id ≠ 0xFF → ch = 0 ∨ tagOk t (session t) e.frame = true →
       p.gotHello = false ∨ (8 ≤ (leAt e.frame.data 0 2 + 65536 - p.exp) % 65536 ∧ (leAt e.frame.data 0 2 + 65536 - p.exp) % 65536 ≤ 65503) →
       exec (.voethData ch) s = .next (voeBad t ch false))
  ∧ (∀ (s t : State) (e : RxEnt), voeTake s 1 0 = (some e, t) → idDst e.frame.id ≠ 0xFF →
       tagOk t (session t) e.frame = false →
       exec (.voethData 1) s = .next (voeBad t 1 true))
  ∧ (∀ (s : State) (ch src : Nat) (e : RxEnt),
       (getPeer (dataAccept s ch src e) ch src).exp = ((getPeer s ch src).exp + 1) % 65536 ∧ (getPeer (dataAccept s ch src e) ch src).ackDue = true)
  ∧ (∀ (s : State) (src : Nat) (e : RxEnt), leAt e.frame.data 4 2 = 0 → leAt e.frame.data 6 2 = 1 →
       (dataAccept s 0 src e).voe.inbox = s.voe.inbox ++ [⟨0, src, byteAt e.frame.data 2, e.frame.data.drop 8, e.stamp⟩])
  ∧ (∀ (s t u : State) (ch : Fin 2) (e : RxEnt) (p : Peer), voeTake s ch 1 = (some e, t) →
       ackHello t ch (idSrc e.frame.id) (leAt e.frame.data 0 2) = u → getPeer u ch (idSrc e.frame.id) = p →
       (p.unacked.filter fun v => (leAt e.frame.data 0 2 + 65536 - v.1) % 65536 = 0 || 32768 ≤ (leAt e.frame.data 0 2 + 65536 - v.1) % 65536).length < p.unacked.length →
       exec (.voethAck ch) s = .next (flushPeer (setPeer u ch (idSrc e.frame.id) { p with unacked := p.unacked.filter fun v => (leAt e.frame.data 0 2 + 65536 - v.1) % 65536 = 0 || 32768 ≤ (leAt e.frame.data 0 2 + 65536 - v.1) % 65536, rounds := 0, rto := 0 }) (idSrc e.frame.id) p.queue.length))
  ∧ (∀ (s t u : State) (ch : Fin 2) (e : RxEnt), voeTake s ch 1 = (some e, t) →
       ackHello t ch (idSrc e.frame.id) (leAt e.frame.data 0 2) = u →
       (getPeer u ch (idSrc e.frame.id)).unacked = [] →
       exec (.voethAck ch) s = .next u)
  ∧ (∀ (s : State) (ch src next : Nat) (p : Peer), getPeer s ch src = p → p.ownAcked = false → p.ownNonce ≠ [] →
       p.ownStart = next →
       ackHello s ch src next = openCheck (setPeer s ch src { p with ownAcked := true }) ch src)
  ∧ (∀ (s : State) (ch node : Nat) (p : Peer), getPeer s ch node = p → p.gotHello = true → p.ownAcked = true →
       p.isOpen = false →
       openCheck s ch node = sessionOpen s ch node)
  ∧ (∀ (s t u v : State) (ch : Fin 2) (e : RxEnt), voeTake s ch 2 = (some e, t) →
       ch = 0 ∨ tagOk t (List.replicate 16 0) e.frame = true → (getPeer t ch (idSrc e.frame.id)).isOpen = true →
       sessionEnd t ch (idSrc e.frame.id) = v → setPeer v ch (idSrc e.frame.id) { getPeer v ch (idSrc e.frame.id) with gotHello := true, lost := false, exp := leAt e.frame.data 0 2, peerNonce := slice e.frame.data 4 8, part := none } = u →
       exec (.hello ch) s = .next (openCheck (sendHello (sendAck u ch (idSrc e.frame.id)) ch (idSrc e.frame.id)) ch (idSrc e.frame.id)))
  ∧ (∀ (s t u : State) (ch : Fin 2) (e : RxEnt) (p : Peer), voeTake s ch 2 = (some e, t) →
       getPeer t ch (idSrc e.frame.id) = p → ch = 0 ∨ tagOk t (List.replicate 16 0) e.frame = true →
       p.isOpen = false → p.lost = false → p.ownNonce ≠ [] ∨ (ch = 0 ∧ (getPeer t 0 0xFF).ownNonce ≠ []) →
       setPeer t ch (idSrc e.frame.id) { p with gotHello := true, lost := false, exp := leAt e.frame.data 0 2, peerNonce := slice e.frame.data 4 8, part := none } = u →
       exec (.hello ch) s = .next (openCheck (sendAck u ch (idSrc e.frame.id)) ch (idSrc e.frame.id)))
  ∧ (∀ (s t : State) (e : RxEnt), voeTake s 1 2 = (some e, t) → tagOk t (List.replicate 16 0) e.frame = false →
       exec (.hello 1) s = .next (voeBad t 1 true))
  ∧ (∀ (s : State) (ch : Fin 2) (n : Byte) (p : Peer), voeRuns s ch = true → linkIdle s ch = false → getPeer s ch n.toNat = p →
       p.isOpen = true → p.unacked ≠ [] → rtoTicks s ≤ p.rto → p.rounds < 5 →
       exec (.voeRto ch n) s = .next (resend (setPeer s ch n.toNat { p with rounds := p.rounds + 1, rto := 0 }) ch n.toNat))
  ∧ (∀ (s : State) (ch : Fin 2) (n : Byte) (p : Peer), voeRuns s ch = true → linkIdle s ch = false → getPeer s ch n.toNat = p →
       p.isOpen = true → p.unacked ≠ [] → rtoTicks s ≤ p.rto → 5 ≤ p.rounds →
       exec (.voeRto ch n) s = .next (peerLost s ch n.toNat))
  ∧ (∀ (s : State) (ch : Fin 2), voeRuns s ch = true → 4096 ≤ s.voe.helloAge.getD ch 0 →
       exec (.helloTimer ch) s = .next ((List.range 256).foldl (fun t n => if (getPeer t ch n).lost then sendHello t ch n else t) (s.setVoe { s.voe with helloAge := s.voe.helloAge.set ch 0 })))
  ∧ (∀ (s t u : State) (ch : Fin 2) (e : RxEnt) (p : Peer), voeTake s ch 2 = (some e, t) →
       getPeer t ch (idSrc e.frame.id) = p → ch = 0 ∨ tagOk t (List.replicate 16 0) e.frame = true →
       p.isOpen = false → p.lost = true ∨ (p.ownNonce = [] ∧ (ch = 1 ∨ (getPeer t 0 0xFF).ownNonce = [])) →
       setPeer t ch (idSrc e.frame.id) { p with gotHello := true, lost := false, exp := leAt e.frame.data 0 2, peerNonce := slice e.frame.data 4 8, part := none } = u →
       exec (.hello ch) s = .next (openCheck (sendHello (sendAck u ch (idSrc e.frame.id)) ch (idSrc e.frame.id)) ch (idSrc e.frame.id)))
  ∧ (∀ (s : State) (ch : Fin 2) (e : RxEnt) (l : List RxEnt) (k : Nat), (getCan s ch).fifo = e :: l →
       voeFor s ch e.frame = false → voeRuns s ch = true →
       voeTake s ch k = voeTake (setCan s ch { getCan s ch with fifo := l }) ch k)
  ∧ (∀ (s : State) (ch : Fin 2) (e : RxEnt) (l : List RxEnt) (k : Nat), (getCan s ch).fifo = e :: l →
       voeFor s ch e.frame = true → voeRuns s ch = true → idKind e.frame.id ≠ k →
       voeTake s ch k = (none, canIrq s ch))
  ∧ (∀ (s : State) (ch : Fin 2) (k : Nat), (getCan s ch).fifo = [] → voeRuns s ch = true →
       voeTake s ch k = (none, canIrq s ch))
  ∧ (∀ (s : State) (ch : Fin 2) (k : Nat), voeRuns s ch = false → voeTake s ch k = (none, s))
  ∧ (∀ (s t : State) (ch : Fin 2), voeTake s ch 0 = (none, t) → exec (.voethData ch) s = .next t)
  ∧ (∀ (s t : State) (ch : Fin 2), voeTake s ch 1 = (none, t) → exec (.voethAck ch) s = .next t)
  ∧ (∀ (s t : State) (ch : Fin 2), voeTake s ch 2 = (none, t) → exec (.hello ch) s = .next t)
  ∧ (∀ (s t : State) (ch : Fin 2) (e : RxEnt), voeTake s ch 0 = (some e, t) → idDst e.frame.id = 0xFF →
       exec (.voethData ch) s = .next t)
  ∧ (∀ (s t u : State) (ch : Fin 2) (e : RxEnt) (p : Peer), voeTake s ch 1 = (some e, t) →
       ackHello t ch (idSrc e.frame.id) (leAt e.frame.data 0 2) = u → getPeer u ch (idSrc e.frame.id) = p →
       (p.unacked.filter fun v => (leAt e.frame.data 0 2 + 65536 - v.1) % 65536 = 0 || 32768 ≤ (leAt e.frame.data 0 2 + 65536 - v.1) % 65536).length = p.unacked.length →
       exec (.voethAck ch) s = .next u)
  ∧ (∀ (s : State) (src next : Nat) (p b : Peer), getPeer s 0 src = p → getPeer s 0 0xFF = b → p.ownAcked = false →
       p.ownNonce = [] → b.ownNonce ≠ [] → next = b.ownStart →
       ackHello s 0 src next = openCheck (setPeer s 0 src { p with ownAcked := true, ownNonce := b.ownNonce, ownStart := b.ownStart }) 0 src)
  ∧ (∀ (s : State) (ch src next : Nat) (p : Peer), getPeer s ch src = p → p.ownAcked = true ∨ (p.ownNonce ≠ [] ∧ next ≠ p.ownStart) ∨
       (p.ownNonce = [] ∧ (ch ≠ 0 ∨ (getPeer s 0 0xFF).ownNonce = [] ∨ next ≠ (getPeer s 0 0xFF).ownStart)) →
       ackHello s ch src next = s)
  ∧ (∀ (s : State) (ch node : Nat) (p : Peer), getPeer s ch node = p → p.gotHello = false ∨ p.ownAcked = false ∨
       p.isOpen = true →
       openCheck s ch node = s)
  ∧ (∀ (s : State) (ch : Fin 2) (n : Byte) (p : Peer), getPeer s ch n.toNat = p → voeRuns s ch = false ∨ linkIdle s ch = true ∨
       p.isOpen = false ∨ p.unacked = [] ∨ p.rto < rtoTicks s →
       exec (.voeRto ch n) s = .next s)
  ∧ (∀ (s : State) (ch : Fin 2), voeRuns s ch = false ∨ s.voe.helloAge.getD ch 0 < 4096 →
       exec (.helloTimer ch) s = .next s)
  ∧ (∀ (s : State), rtoTicks s = (5000 + tickMicros s - 1) / tickMicros s)
  ∧ (∀ (s : State), linkIdle s 0 = false ∧ (linkIdle s 1 = true ↔ mirrorKey s 4 = none ∨ mirrorKey s 5 = none))
  ∧ (∀ (s : State) (ch node : Nat), voeRuns s ch = false ∨ linkIdle s ch = true →
       sendHello s ch node = setPeer s ch node { getPeer s ch node with helloDue := true })
  ∧ (∀ (s : State) (node : Nat), sessionEnd s 0 node = setPeer s 0 node { getPeer s 0 node with isOpen := false, ownAcked := false, gotHello := false, ownNonce := [], unacked := [], queue := [], part := none, rounds := 0, rto := 0, ackDue := false })
  ∧ (∀ (s : State) (ch node : Nat),
       peerLost s ch node = setPeer (sessionEnd s ch node) ch node { getPeer (sessionEnd s ch node) ch node with lost := true })
  ∧ (∀ (s : State) (src : Nat) (e : RxEnt), leAt e.frame.data 4 2 = 0 → leAt e.frame.data 6 2 = 1 →
       (dataAccept s 1 src e).voe.inbox = s.voe.inbox ++ [⟨1, src, byteAt e.frame.data 2, (e.frame.data.drop 8).take (e.frame.data.length - 24), e.stamp⟩])

/-- ALIGN compares the twin's stamp of its previous ALIGN with the own stamp of that frame: d is the nearest whole
number of ticks, and the link is aligned with offset d when the periods agree and the residual is at most 250 counts.
A proposal is checked in the order alignment, mirrored, next key, other schedule, lead; RESULT is the first failure,
and on agreement the schedule is set at X − d. An answer of 0 sets the proposer's schedule, or drops it after a
cancel; any other completes with DENIED and that RESULT. A cancel before the window drops the schedule on this twin,
and a later one is answered with 3. A schedule reported by the twin is adopted and logged when its next key is held
here and X lies ahead, and a difference from the own one is logged; unaligned, X is not compared. A row that finds no
message of its type has no effect. No message but ALIGN leaves before both ALIGNs of a session have. X − d must lie at
least 2 ticks ahead and within half the tick range. (11_can_fd_custody_and_mirror.md.) -/
def Obligations.MirrorMessages : Prop :=
  (∀ (s t : State) (m : Msg), inboxTake s 1 0x20 = some (m, t) → t.voe.peerAlign = none →
       exec .align s = .next (t.setVoe { t.voe with peerAlign := some m.stamp }))
  ∧ (∀ (s t : State) (m : Msg) (r : Stamp), inboxTake s 1 0x20 = some (m, t) → t.voe.peerAlign = some r →
       wordOf (leAt m.pay 4 4) = 0 → leAt m.pay 8 2 = 0 →
       exec .align s = .next (t.setVoe { t.voe with peerAlign := some m.stamp }))
  ∧ (∀ (s t : State) (m : Msg) (r : Stamp) (delta d : Int), inboxTake s 1 0x20 = some (m, t) →
       t.voe.peerAlign = some r → wordOf (leAt m.pay 4 4) ≠ 0 ∨ leAt m.pay 8 2 ≠ 0 →
       delta = (wordOf (leAt m.pay 4 4) - r.tick).toInt * ticksN t + ((leAt m.pay 8 2 : Int) - r.count) →
       d = nearest delta (ticksN t) →
       exec .align s = .next (t.setVoe { t.voe with peerAlign := some m.stamp, aligned := byteAt m.pay 0 = t.glb.period && (delta - d * ticksN t).natAbs ≤ 250, offset := if byteAt m.pay 0 = t.glb.period && (delta - d * ticksN t).natAbs ≤ 250 then d else t.voe.offset }))
  ∧ (∀ (i : Int) (n : Nat), 0 < n →
       2 * i - n ≤ 2 * (nearest i n) * n ∧ 2 * (nearest i n) * n ≤ 2 * i + n)
  ∧ (∀ (s : State) (a sn : Nat) (k : Bytes) (x : Word) (ov r : Nat), proposeCheck s a sn k x ov = r →
       (r = 5 ↔ s.voe.aligned = false) ∧ (s.voe.aligned = true → (r = 1 ↔ isMirrored s a = false)) ∧ (r = 0 → s.voe.aligned = true ∧ isMirrored s a = true
         ∧ (∃ n h, nextKey s a = some (n, h, k) ∧ h.sn = sn) ∧ seasonOf s a = none ∧ 2 ≤ (fromTwin s x - wordOf ov - s.glb.tick).toNat))
  ∧ (∀ (s t : State) (m : Msg), inboxTake s 1 0x21 = some (m, t) →
       proposeCheck t (leAt m.pay 0 2 % 4096) (leAt m.pay 2 2) (slice m.pay 4 3) (wordOf (leAt m.pay 8 4)) (leAt m.pay 12 2) ≠ 0 →
       exec .seasonPropose s = .next (sendAnswer t (leAt m.pay 0 2 % 4096) (leAt m.pay 2 2) (proposeCheck t (leAt m.pay 0 2 % 4096) (leAt m.pay 2 2) (slice m.pay 4 3) (wordOf (leAt m.pay 8 4)) (leAt m.pay 12 2))))
  ∧ (∀ (s t : State) (m : Msg), inboxTake s 1 0x21 = some (m, t) →
       proposeCheck t (leAt m.pay 0 2 % 4096) (leAt m.pay 2 2) (slice m.pay 4 3) (wordOf (leAt m.pay 8 4)) (leAt m.pay 12 2) = 0 →
       exec .seasonPropose s = .next (sendAnswer (seasonSet t (leAt m.pay 0 2 % 4096) (wordOf (leAt m.pay 8 4) - BitVec.ofInt 32 t.voe.offset) (leAt m.pay 12 2)) (leAt m.pay 0 2 % 4096) (leAt m.pay 2 2) 0))
  ∧ (∀ (s t : State) (m : Msg) (p : Proposal), inboxTake s 1 0x22 = some (m, t) →
       t.voe.proposals.find? (fun p => p.assoc = (leAt m.pay 0 2 % 4096) && p.sn = leAt m.pay 2 2) = some p →
       byteAt m.pay 4 = 0 → p.cancel = false →
       exec .seasonAnswer s = .next (endWaits (seasonSet (t.setVoe { t.voe with proposals := t.voe.proposals.erase p }) (leAt m.pay 0 2 % 4096) p.x p.ovlen) (.mirror (leAt m.pay 0 2 % 4096)) fun c => { c with result := p.x.setWidth 64 }))
  ∧ (∀ (s t : State) (m : Msg) (p : Proposal), inboxTake s 1 0x22 = some (m, t) →
       t.voe.proposals.find? (fun p => p.assoc = (leAt m.pay 0 2 % 4096) && p.sn = leAt m.pay 2 2) = some p →
       byteAt m.pay 4 = 0 → p.cancel = true →
       exec .seasonAnswer s = .next (endWaits (seasonDrop (t.setVoe { t.voe with proposals := t.voe.proposals.erase p }) (leAt m.pay 0 2 % 4096)) (.mirror (leAt m.pay 0 2 % 4096)) id))
  ∧ (∀ (s t : State) (m : Msg) (p : Proposal), inboxTake s 1 0x22 = some (m, t) →
       t.voe.proposals.find? (fun p => p.assoc = (leAt m.pay 0 2 % 4096) && p.sn = leAt m.pay 2 2) = some p →
       byteAt m.pay 4 ≠ 0 →
       exec .seasonAnswer s = .next (endWaits (t.setVoe { t.voe with proposals := t.voe.proposals.erase p }) (.mirror (leAt m.pay 0 2 % 4096)) fun c => { c with status := 0x10, detail := BitVec.ofNat 16 (byteAt m.pay 4) }))
  ∧ (∀ (s t : State) (m : Msg), inboxTake s 1 0x23 = some (m, t) → isMirrored t (leAt m.pay 0 2 % 4096) = false →
       exec .mirrorSeasonCancel s = .next (sendAnswer t (leAt m.pay 0 2 % 4096) (leAt m.pay 2 2) 1))
  ∧ (∀ (s t : State) (m : Msg) (x : Season), inboxTake s 1 0x23 = some (m, t) →
       isMirrored t (leAt m.pay 0 2 % 4096) = true → seasonOf t (leAt m.pay 0 2 % 4096) = some x → x.opened = false →
       tickReached (seasonOpenAt x) t.glb.tick = false →
       exec .mirrorSeasonCancel s = .next (sendAnswer (seasonDrop t (leAt m.pay 0 2 % 4096)) (leAt m.pay 0 2 % 4096) (leAt m.pay 2 2) 0))
  ∧ (∀ (s t : State) (m : Msg) (x : Season), inboxTake s 1 0x23 = some (m, t) →
       isMirrored t (leAt m.pay 0 2 % 4096) = true → seasonOf t (leAt m.pay 0 2 % 4096) = some x →
       x.opened = true ∨ tickReached (seasonOpenAt x) t.glb.tick = true →
       exec .mirrorSeasonCancel s = .next (sendAnswer t (leAt m.pay 0 2 % 4096) (leAt m.pay 2 2) 3))
  ∧ (∀ (s t : State) (m : Msg) (y : Season), inboxTake s 1 0x24 = some (m, t) →
       seasonOf t (leAt m.pay 0 2 % 4096) = some y → t.voe.aligned = false ∨ y.x = fromTwin t (wordOf (leAt m.pay 8 4)) → y.ovlen = leAt m.pay 12 2 →
       exec .seasonState s = .next t)
  ∧ (∀ (s t : State) (m : Msg) (y : Season), inboxTake s 1 0x24 = some (m, t) →
       seasonOf t (leAt m.pay 0 2 % 4096) = some y → (t.voe.aligned = true ∧ y.x ≠ fromTwin t (wordOf (leAt m.pay 8 4))) ∨ y.ovlen ≠ leAt m.pay 12 2 →
       exec .seasonState s = .next (logOther t .vlt (leBytes 8 (leAt m.pay 0 2 % 4096))))
  ∧ (∀ (s t : State) (m : Msg) (n : Nat) (h : Slot) (x : Word), inboxTake s 1 0x24 = some (m, t) →
       seasonOf t (leAt m.pay 0 2 % 4096) = none → t.voe.aligned = true →
       isMirrored t (leAt m.pay 0 2 % 4096) = true →
       nextKey t (leAt m.pay 0 2 % 4096) = some (n, h, slice m.pay 4 3) → h.sn = leAt m.pay 2 2 →
       x = fromTwin t (wordOf (leAt m.pay 8 4)) → tickFuture x t.glb.tick = true →
       tickReached (x - wordOf (leAt m.pay 12 2)) t.glb.tick = false →
       exec .seasonState s = .next (logOther (seasonSet t (leAt m.pay 0 2 % 4096) x (leAt m.pay 12 2)) .vlt (leBytes 8 (leAt m.pay 0 2 % 4096))))
  ∧ (∀ (s : State), voeRuns s 1 = true → (getPeer s 1 (twinNode s)).isOpen = true → 2 ^ 14 ≤ s.voe.alignAge →
       exec .alignTimer s = .next (sendAlign s))
  ∧ (∀ (s : State), inboxTake s 1 0x20 = none → exec .align s = .next s)
  ∧ (∀ (s : State), inboxTake s 1 0x21 = none → exec .seasonPropose s = .next s)
  ∧ (∀ (s : State), inboxTake s 1 0x22 = none → exec .seasonAnswer s = .next s)
  ∧ (∀ (s : State), inboxTake s 1 0x23 = none → exec .mirrorSeasonCancel s = .next s)
  ∧ (∀ (s : State), inboxTake s 1 0x24 = none → exec .seasonState s = .next s)
  ∧ (∀ (s : State) (ch typ : Nat) (m : Msg) (l : List Msg), voeRuns s ch = true → s.voe.inbox = m :: l → m.ch = ch → m.typ = typ →
       inboxTake s ch typ = some (m, s.setVoe { s.voe with inbox := l }))
  ∧ (∀ (s t : State) (m : Msg), inboxTake s 1 0x22 = some (m, t) →
       t.voe.proposals.find? (fun p => p.assoc = (leAt m.pay 0 2 % 4096) && p.sn = leAt m.pay 2 2) = none →
       exec .seasonAnswer s = .next t)
  ∧ (∀ (s t : State) (m : Msg), inboxTake s 1 0x23 = some (m, t) →
       isMirrored t (leAt m.pay 0 2 % 4096) = true → seasonOf t (leAt m.pay 0 2 % 4096) = none →
       exec .mirrorSeasonCancel s = .next (sendAnswer t (leAt m.pay 0 2 % 4096) (leAt m.pay 2 2) 0))
  ∧ (∀ (s t : State) (m : Msg), inboxTake s 1 0x24 = some (m, t) → seasonOf t (leAt m.pay 0 2 % 4096) = none →
       t.voe.aligned = false ∨ isMirrored t (leAt m.pay 0 2 % 4096) = false ∨ nextKey t (leAt m.pay 0 2 % 4096) = none ∨
         tickFuture (fromTwin t (wordOf (leAt m.pay 8 4))) t.glb.tick = false →
       exec .seasonState s = .next t)
  ∧ (∀ (s t : State) (m : Msg) (n : Nat) (h : Slot) (k : Bytes), inboxTake s 1 0x24 = some (m, t) →
       seasonOf t (leAt m.pay 0 2 % 4096) = none → nextKey t (leAt m.pay 0 2 % 4096) = some (n, h, k) →
       k ≠ slice m.pay 4 3 ∨ h.sn ≠ leAt m.pay 2 2 →
       exec .seasonState s = .next t)
  ∧ (∀ (s t : State) (m : Msg) (n : Nat) (h : Slot) (x : Word), inboxTake s 1 0x24 = some (m, t) →
       seasonOf t (leAt m.pay 0 2 % 4096) = none → t.voe.aligned = true →
       isMirrored t (leAt m.pay 0 2 % 4096) = true →
       nextKey t (leAt m.pay 0 2 % 4096) = some (n, h, slice m.pay 4 3) → h.sn = leAt m.pay 2 2 →
       x = fromTwin t (wordOf (leAt m.pay 8 4)) → tickFuture x t.glb.tick = true →
       tickReached (x - wordOf (leAt m.pay 12 2)) t.glb.tick = true →
       exec .seasonState s = .next (logOther (setSeason (seasonSet t (leAt m.pay 0 2 % 4096) x (leAt m.pay 12 2)) { assoc := leAt m.pay 0 2 % 4096, x := x, ovlen := leAt m.pay 12 2, opened := true }) .vlt (leBytes 8 (leAt m.pay 0 2 % 4096))))
  ∧ (∀ (s : State), voeRuns s 1 = false ∨ (getPeer s 1 (twinNode s)).isOpen = false ∨ s.voe.alignAge < 2 ^ 14 →
       exec .alignTimer s = .next s)
  ∧ (∀ (s : State) (a sn : Nat) (k : Bytes) (x : Word) (ov n : Nat) (h : Slot), s.voe.aligned = true → isMirrored s a = true →
       nextKey s a = some (n, h, k) → h.sn = sn →
       (seasonOf s a).isSome = true ∨ (assocSlots s a).any (fun p => p.2.state = 1 && p.2.role = 2) = true →
       proposeCheck s a sn k x ov = 4)
  ∧ (∀ (s : State) (a sn : Nat) (k : Bytes) (x : Word) (ov n : Nat) (h : Slot), s.voe.aligned = true → isMirrored s a = true →
       nextKey s a = some (n, h, k) → h.sn = sn → seasonOf s a = none →
       (assocSlots s a).any (fun p => p.2.state = 1 && p.2.role = 2) = false →
       proposeCheck s a sn k x ov = if 2 ≤ (fromTwin s x - wordOf ov - s.glb.tick).toNat ∧ (fromTwin s x - wordOf ov - s.glb.tick).toNat < 2 ^ 31 then 0 else 3)
  ∧ (∀ (s : State) (a sn : Nat) (k c : Bytes) (x : Word) (ov n : Nat) (h : Slot), s.voe.aligned = true → isMirrored s a = true →
       nextKey s a = some (n, h, c) → h.sn ≠ sn ∨ c ≠ k →
       proposeCheck s a sn k x ov = 2)
  ∧ (∀ (s : State) (a sn : Nat) (k : Bytes) (x : Word) (ov : Nat), s.voe.aligned = true → isMirrored s a = true →
       nextKey s a = none →
       proposeCheck s a sn k x ov = 2)
  ∧ (∀ (s : State) (m : Bytes), mayLeave s m = (decide (byteAt m 0 = 0x20) || decide (2 ≤ s.voe.alignSent)))

/-- A start records the command, stalls with its transfer, or ends it with error 3 when that is refused or does not
lie in SRAM, and is discarded with a diagnostics entry while BUSY. Its end leaves data in SRAM, the programmed bytes
or the erased sector and DONE with no error; a program whose readback differs ends with error 5 and each byte keeps
only bits that R399 allows. A time-out of a program or an erase ends it with error 1, an abort with error 2, and a
read keeps the bytes that had arrived; with no command running the port changes nothing. An open database, with the
port idle and no DIM entry pending, erases ahead of use a page of a fitted device that is neither retired nor erased
nor named by an object; the device sizes are those of the board (log 20). A word written is queued for transmission
while the FIFO has room and dropped when it is full. At the last sampling edge of a word the transmit head is consumed
and the word received, right-aligned in its length, enters the receive FIFO; a full receive FIFO discards it and sets
RXOVF. While a watched select is inactive nothing shifts; its release in the middle of a word ends that word, whose
received bits enter the FIFO marked partial with their number, and between words consumes nothing. A watched select
that SPI1 drives follows its own registers. A read pops the head. With the clock gate off each access gets a bus
error; with the main domain down none has an effect. (16_serial_flash_ports.md, 08_access_checks.md.) -/
def Obligations.SerialPorts : Prop :=
  (∀ (s : State), mainUp s = true → gateOk s 15 = true → s.spi0.cur.isSome = true →
       exec .spi0Go s = .next (logOther s .spi0 (leBytes 8 0x020)))
  ∧ (∀ (s : State), mainUp s = true → gateOk s 15 = true → s.spi0.cur = none → spi0Moves s.spi0.cmdOp = false →
       exec .spi0Go s = .next (s.setSpi0 { s.spi0 with done := false, err := 0, cur := some (spi0Cmd s), stall := none }))
  ∧ (∀ (s t : State), mainUp s = true → gateOk s 15 = true → s.spi0.cur = none → spi0Moves s.spi0.cmdOp = true →
       s.setSpi0 { s.spi0 with done := false, err := 0, cur := some (spi0Cmd s) } = t →
       dmaCheck t 5 0 (s.spi0.cmdOp ≠ 1) true s.spi0.sram.toNat (spi0Len s) = .ok → inSram s.spi0.sram.toNat (spi0Len s) = true →
       exec .spi0Go s = .next (t.setSpi0 { t.spi0 with stall := none }))
  ∧ (∀ (s t : State) (a : Acc) (src idx : Nat), mainUp s = true → gateOk s 15 = true → s.spi0.cur = none →
       spi0Moves s.spi0.cmdOp = true → s.setSpi0 { s.spi0 with done := false, err := 0, cur := some (spi0Cmd s) } = t →
       dmaCheck t 5 0 (s.spi0.cmdOp ≠ 1) true s.spi0.sram.toNat (spi0Len s) = .deny a src idx →
       exec .spi0Go s = .next (spi0End (refuseAcc t a src idx) 3))
  ∧ (∀ (s : State) (ok : Bool) (o : FlashOp), s.spi0.cur = some o → s.spi0.stall = none → ok = true ∨ o.op ≠ 1 →
       exec (.spi0CmdEnd ok) s = .next (spi0End (spi0Effect s o) 0))
  ∧ (∀ (s : State) (o : FlashOp), s.spi0.cur = some o → s.spi0.stall = none → o.op = 1 →
       exec (.spi0CmdEnd false) s = .next (spi0End (tearProgram s o) 5))
  ∧ (∀ (s : State) (o : FlashOp), o.op = 0 →
       spi0Effect s o = sramWrite s (o.sram - 0x10000000) (flashRead s o.sel o.addr o.len))
  ∧ (∀ (s : State) (o : FlashOp), o.op = 1 →
       spi0Effect s o = flashProgram s o.sel o.addr (sramRead s (o.sram - 0x10000000) o.len))
  ∧ (∀ (s : State) (o : FlashOp), o.op = 2 →
       spi0Effect s o = flashErase s o.sel (o.addr / 4096 * 4096) 4096)
  ∧ (∀ (old new free : Bytes) (k : Nat) (i : Nat) (x y : Byte), (tornProgram old new free)[k]? = some x →
       old[k]? = some y → x.getLsbD i = true →
       y.getLsbD i = true)
  ∧ (∀ (old new free : Bytes) (k : Nat) (i : Nat) (x y n : Byte), (tornProgram old new free)[k]? = some x →
       old[k]? = some y → new[k]? = some n → x.getLsbD i = false → y.getLsbD i = true →
       n.getLsbD i = false)
  ∧ (∀ (old free : Bytes) (k : Nat) (i : Nat) (x y : Byte), (tornErase old free)[k]? = some x → old[k]? = some y →
       y.getLsbD i = true →
       x.getLsbD i = true)
  ∧ (∀ (s : State) (o : FlashOp), s.spi0.cur = some o → s.spi0.stall = none → o.op = 1 ∨ o.op = 2 →
       exec .spi0Timeout s = .next (spi0End (if o.op = 1 then tearProgram s o else tearErase s o) 1))
  ∧ (∀ (s : State), mainUp s = true → gateOk s 15 = true → s.spi0.cur = none →
       exec .spi0Abort s = .next s ∧ exec .spi0Timeout s = .next s ∧ exec (.spi0CmdEnd true) s = .next s)
  ∧ (∀ (s : State) (o : FlashOp), mainUp s = true → gateOk s 15 = true → s.spi0.cur = some o → s.spi0.stall = none → o.op = 0 →
       exec .spi0Abort s = .next (spi0End (cutRead s o) 2))
  ∧ (∀ (s : State) (o : FlashOp), mainUp s = true → gateOk s 15 = true → s.spi0.cur = some o → s.spi0.stall = none → o.op = 1 →
       exec .spi0Abort s = .next (spi0End (tearProgram s o) 2))
  ∧ (∀ (s : State) (o : FlashOp),
       ∃ n ≤ o.len, cutRead s o = sramWrite (s.setFree (s.free + 1)) (o.sram - 0x10000000) (flashRead (s.setFree (s.free + 1)) o.sel o.addr n))
  ∧ (∀ (s : State) (w : Word), mainUp s = true → s.spi0.db.isOpen = true → s.spi0.cur = none → s.mode.dimPend = none →
       exec (.backgroundErase w) s = .next (if isPage s w.toNat && !s.spi0.db.retired.contains w.toNat && !s.spi0.db.erased.contains w.toNat && !pageNamed s (dbFk s) w.toNat
         then setDb (flashErase s (pageSel w.toNat) (pageOff w.toNat) 4096) { s.spi0.db with erased := s.spi0.db.erased ++ [w.toNat] } else s))
  ∧ (∀ (s : State) (v : Word), mainUp s = true → gateOk s 16 = true → s.spi1.tx.length < 16 →
       exec (.spi1Tx v) s = .next (s.setSpi1 { s.spi1 with tx := s.spi1.tx ++ [v] }))
  ∧ (∀ (s : State) (v : Word), mainUp s = true → gateOk s 16 = true → 16 ≤ s.spi1.tx.length →
       exec (.spi1Tx v) s = .next s)
  ∧ (∀ (s : State) (v h : Word) (t : List Word), mainUp s = true → s.spi1.tx = h :: t → spi1Open s.spi1 = true →
       s.spi1.rx.length < 16 →
       exec (.spi1WordComplete v) s = .next (s.setSpi1 { s.spi1 with tx := t, rx := s.spi1.rx ++ [(lowBits (s.spi1.wlen + 1) v, false, s.spi1.wlen + 1)] }))
  ∧ (∀ (s : State) (v h : Word) (t : List Word), mainUp s = true → s.spi1.tx = h :: t → spi1Open s.spi1 = true →
       16 ≤ s.spi1.rx.length →
       exec (.spi1WordComplete v) s = .next (s.setSpi1 { s.spi1 with tx := t, rxovf := true }))
  ∧ (∀ (s : State) (v : Word), s.spi1.tx = [] ∨ spi1Open s.spi1 = false →
       exec (.spi1WordComplete v) s = .next s)
  ∧ (∀ (n : Nat) (v : Word), n ≤ 32 →
       lowBits n v = v &&& BitVec.ofNat 32 (2 ^ n - 1))
  ∧ (∀ (s : State) (n : Nat) (v h : Word) (t : List Word), mainUp s = true → s.spi1.csmonEn = true → spi1Own s.spi1 = false →
       s.spi1.selected = true → s.spi1.tx = h :: t → 1 ≤ n → n ≤ s.spi1.wlen → s.spi1.rx.length < 16 →
       exec (.spi1SelectRelease n v) s = .next (s.setSpi1 { s.spi1 with selected := false, tx := t, rx := s.spi1.rx ++ [(lowBits n v, true, n)] }))
  ∧ (∀ (s : State) (v : Word), mainUp s = true → s.spi1.csmonEn = true → spi1Own s.spi1 = false → s.spi1.selected = true →
       exec (.spi1SelectRelease 0 v) s = .next (s.setSpi1 { s.spi1 with selected := false }))
  ∧ (∀ (s : State), mainUp s = true → s.spi1.csmonEn = true → spi1Own s.spi1 = false → s.spi1.stopped = false →
       exec .spi1SelectAssert s = .next (s.setSpi1 { s.spi1 with selected := true }))
  ∧ (∀ (s : State), mainUp s = true → gateOk s 16 = true →
       exec .spi1Rx s = .next (s.setSpi1 { s.spi1 with rx := s.spi1.rx.drop 1 }))
  ∧ (∀ (s t : State) (a : Acc), mainUp s = true → gateOk s 15 = true → s.spi0.cur = none →
       spi0Moves s.spi0.cmdOp = true → s.setSpi0 { s.spi0 with done := false, err := 0, cur := some (spi0Cmd s) } = t →
       dmaCheck t 5 0 (s.spi0.cmdOp ≠ 1) true s.spi0.sram.toNat (spi0Len s) = .stall a →
       exec .spi0Go s = .next (t.setSpi0 { t.spi0 with stall := some a }))
  ∧ (∀ (s t : State), mainUp s = true → gateOk s 15 = true → s.spi0.cur = none → spi0Moves s.spi0.cmdOp = true →
       s.setSpi0 { s.spi0 with done := false, err := 0, cur := some (spi0Cmd s) } = t →
       dmaCheck t 5 0 (s.spi0.cmdOp ≠ 1) true s.spi0.sram.toNat (spi0Len s) = .ok → inSram s.spi0.sram.toNat (spi0Len s) = false →
       exec .spi0Go s = .next (spi0End t 3))
  ∧ (∀ (s : State) (ok : Bool), s.spi0.stall.isSome = true →
       exec (.spi0CmdEnd ok) s = .next s)
  ∧ (∀ (s : State) (o : FlashOp), s.spi0.cur = some o → o.op ≠ 1 → o.op ≠ 2 →
       exec .spi0Timeout s = .next s)
  ∧ (∀ (s : State), s.spi1.csmonEn = false ∨ spi1Own s.spi1 = true ∨ mainUp s = false →
       exec .spi1SelectAssert s = .next s ∧ exec (.spi1SelectRelease 0 0) s = .next s)
  ∧ (∀ (s : State) (n : Nat) (v : Word), s.spi1.csmonEn = false ∨ spi1Own s.spi1 = true ∨ s.spi1.selected = false ∨ mainUp s = false →
       exec (.spi1SelectRelease n v) s = .next s)
  ∧ (∀ (s : State), s.spi1.stopped = true → exec .spi1SelectAssert s = .next s)
  ∧ (∀ (s : State) (v : Word), mainUp s = true → gateOk s 15 = false → gateOk s 16 = false →
       exec .spi0Go s = .next (refuseAcc s (fwAcc 0x4000F020) 9 0) ∧ exec .spi0Abort s = .next (refuseAcc s (fwAcc 0x4000F028) 9 0) ∧
       exec (.spi1Tx v) s = .next (refuseAcc s (fwAcc 0x40010010) 9 0) ∧ exec .spi1Rx s = .next (refuseAcc s (fwAcc 0x40010014) 9 0))
  ∧ (∀ (s : State) (v : Word), mainUp s = false →
       exec .spi0Go s = .next s ∧ exec .spi0Abort s = .next s ∧ exec (.spi1Tx v) s = .next s ∧ exec .spi1Rx s = .next s ∧
       exec (.spi1WordComplete v) s = .next s ∧ exec (.backgroundErase v) s = .next s)
  ∧ (∀ (s : State) (w : Word), s.spi0.db.isOpen = false ∨ s.spi0.cur.isSome = true ∨ s.mode.dimPend ≠ none →
       exec (.backgroundErase w) s = .next s)
  ∧ (∀ (s : State) (o : FlashOp), mainUp s = true → gateOk s 15 = true → s.spi0.cur = some o → s.spi0.stall = none → o.op = 2 →
       exec .spi0Abort s = .next (spi0End (tearErase s o) 2))
  ∧ (∀ (p : Spi1), spi1Own p = p.dir.getLsbD p.csmon ∧ spi1Open p = (!p.csmonEn || p.selected) ∧ spi1Drive p = (if p.stopped = true then p.idle else p.gpioOut))
  ∧ (∀ (s : State), s.spi1.csmonEn = true → spi1Own s.spi1 = true → s.spi1.selected = false → spi1Level s.spi1 = true →
       spi1Watch s = s.setSpi1 { s.spi1 with selected := true })
  ∧ (∀ (s : State) (o : FlashOp), mainUp s = true → gateOk s 15 = true → s.spi0.cur = some o → s.spi0.stall.isSome = true →
       exec .spi0Abort s = .next (spi0End s 2))
  ∧ (∀ (s : State) (o : FlashOp), s.spi0.cur = some o → s.spi0.stall.isSome = true → o.op = 1 ∨ o.op = 2 →
       exec .spi0Timeout s = .next (spi0End s 1))

/-- A source acts once while its condition stays active: armed and watched, it sets its sticky flag and a security
entry; an alarm response asserts its hold and ALARM_N; a Snuff response triggers Snuff where the cell allows it and
acts as alarm where it does not. A disarmed or unwatched source does nothing. When the condition ends it may act
again. A write of TMP_HOLD clears the holds of inactive sources and, after Snuff, none until a ceremony has consumed
its latch; a mesh found broken adds MISS and one to its count; TMP_STICKY clears only in BLANK; the lock needs its
key. (17_tamper_and_snuff.md, 03_modes_and_lifecycle.md.) -/
def Obligations.TamperSources : Prop :=
  (∀ (s : State) (k : Fin 13), armed s k = true → watched s k = true → s.tmp.active.getLsbD k = false →
       exec (.tamperSourceAct k) s = .next (tamperAct (missed (s.setTmp { s.tmp with cond := s.tmp.cond ||| srcBit k }) k) k))
  ∧ (∀ (s : State) (k : Fin 13), armed s k = false ∨ watched s k = false ∨ s.tmp.active.getLsbD k = true →
       exec (.tamperSourceAct k) s = .next (s.setTmp { s.tmp with cond := s.tmp.cond ||| srcBit k }))
  ∧ (∀ (s : State) (k : Nat), respNow s k = 0 →
       tamperAct s k = logS (s.setTmp { s.tmp with active := s.tmp.active ||| srcBit k, sticky := s.tmp.sticky ||| srcBit k }) .tmp (k + 1) (leBytes 8 0))
  ∧ (∀ (s : State) (k : Nat), respNow s k = 1 →
       tamperAct s k = tamperAlarm (logS (s.setTmp { s.tmp with active := s.tmp.active ||| srcBit k, sticky := s.tmp.sticky ||| srcBit k }) .tmp (k + 1) (leBytes 8 1)) k)
  ∧ (∀ (s : State) (k : Nat), respNow s k = 2 →
       tamperAct s k = snuffTrig (tamperAlarm (logS (s.setTmp { s.tmp with active := s.tmp.active ||| srcBit k, sticky := s.tmp.sticky ||| srcBit k }) .tmp (k + 1) (leBytes 8 2)) k) 1 k)
  ∧ (∀ (s : State) (k : Fin 13),
       (tamperAlarm s k).tmp.hold = s.tmp.hold ||| srcBit k ∧ alarmOn (tamperAlarm s k) = true)
  ∧ (∀ (s : State) (k : Nat),
       respNow s k ≤ 2 ∧ (snuffCell s.mode.mode s.fus.lc = false → respNow s k ≤ 1))
  ∧ (∀ (s : State) (k : Fin 13),
       armed s k = !s.fus.tmpdis.getLsbD k)
  ∧ (∀ (s : State) (k : Fin 13),
       watched s k = true ↔ s.mode.mode ≠ .off ∧ (s.mode.mode = .vigil → k ≠ 8 ∧ k ≠ 9))
  ∧ (∀ (s : State) (k : Fin 13),
       exec (.conditionInactive k) s = .next (s.setTmp { s.tmp with cond := s.tmp.cond &&& ~~~ (srcBit k), active := s.tmp.active &&& ~~~ (srcBit k) }))
  ∧ (∀ (s : State) (v : Word), mainUp s = true → s.tmp.holdLock = false →
       exec (.tmpHold v) s = .next (withAlarm s { s.tmp with hold := s.tmp.hold &&& ~~~ (BitVec.ofNat 13 v.toNat &&& ~~~ s.tmp.active) }))
  ∧ (∀ (s : State) (v : Word), mainUp s = false ∨ s.tmp.holdLock = true →
       exec (.tmpHold v) s = .next s)
  ∧ (∀ (s : State) (v : Word), mainUp s = true → s.fus.lc = .blank →
       exec (.tmpSticky v) s = .next (s.setTmp { s.tmp with sticky := s.tmp.sticky &&& ~~~ (BitVec.ofNat 13 v.toNat) }))
  ∧ (∀ (s : State) (v : Word), mainUp s = false ∨ s.fus.lc ≠ .blank →
       exec (.tmpSticky v) s = .next s)
  ∧ (∀ (s : State) (v : Word), mainUp s = true → fld v 24 8 = 0x7A → bit v 0 = true →
       exec (.tmpCtlLock v) s = .next (s.setTmp { s.tmp with lock := true }))
  ∧ (∀ (s : State) (v : Word), mainUp s = false ∨ fld v 24 8 ≠ 0x7A ∨ bit v 0 = false →
       exec (.tmpCtlLock v) s = .next s)
  ∧ (∀ (s : State) (k : Nat), k < 4 →
       (missed s k).tmp = { s.tmp with meshErr := s.tmp.meshErr.set k (min 0xFF (s.tmp.meshErr.getD k 0 + (fld s.tmp.mesh 16 3 + 1))) })
  ∧ (∀ (s : State) (k : Nat), 4 ≤ k → missed s k = s)
  ∧ (∀ (s : State) (a b : Nat), s.snf.flag = false → s.tmp.trig = none → a ≠ 3 →
       (snuffTrig s a b).tmp.holdLock = true)
  ∧ (∀ (s : State), (stickyConsume s).tmp.holdLock = false ∧ (stickyConsume s).tmp.sticky = 0)

/-- A trigger sets the flag, its cause and source and every hold, once; another starts no second run and is logged by
its cause, unless its source's entry says it. The run zeroes the vault root, its check value, the epochs, the slots,
the cache, the associations and the schedules (a bank that could not be cleared before its supply fell holds free
bytes), zeroes the random state, closes debug, latches whether it was late, and SNUFFED is entered with the main
supplies valid. Nothing happens without a trigger. An event accepted leaves the queue with the next sequence number,
and an image that is ready resumes what the activation paused. (17_tamper_and_snuff.md, 18_event_recorder.md,
19_firmware_update.md, 09_key_vault.md.) -/
def Obligations.SnuffRun : Prop :=
  (∀ (s : State) (a b : Nat), s.snf.flag = true ∨ s.tmp.trig.isSome = true →
       snuffTrig s a b = if a = 1 then s else logOtherS s .snf (leBytes 8 a))
  ∧ (∀ (s : State) (a b : Nat), s.snf.flag = false → s.tmp.trig = none →
       (snuffTrig s a b).snf.flag = true ∧ (snuffTrig s a b).snf.cause = a ∧ (snuffTrig s a b).snf.source = b ∧ (snuffTrig s a b).tmp.hold = 0x1FFF ∧ (snuffTrig s a b).tmp.trig = some (a, b))
  ∧ (∀ (s : State) (e : SnuffEnv) (n : Nat) (k : Nat), s.tmp.trig = some (k, n) → k ≠ 3 →
       (s.snf.vigil && e.vlow) = false →
       leads (.snuffTrigger e) s fun t => t.vlt.vr = List.replicate 32 0 ∧ t.vlt.vrchk = List.replicate 16 0 ∧ t.vlt.epochs = List.replicate 16 0 ∧ t.vlt.slots = []
         ∧ t.vlt.cache = [] ∧ t.vlt.assocs = [] ∧ t.vlt.seasons = [] ∧ t.vlt.keyOps = [] ∧ t.rng.key = List.replicate 32 0 ∧ t.rng.v = List.replicate 16 0 ∧ t.rng.pool = []
         ∧ t.mode.dbg = .closed ∧ t.tmp.trig = none ∧ t.snf.late = decide (400 < e.time))
  ∧ (∀ (s : State) (e : SnuffEnv) (n k : Nat), s.tmp.trig = some (k, n) → k ≠ 3 → mainUp s = true →
       leads (.snuffTrigger e) s fun t => t.mode.mode = .snuffed ∧ t.mode.cause = if k = 1 ∨ k = 4 then 0x0B else 0x0C)
  ∧ (∀ (s : State) (d : Bool),
       (bankZero s d).vlt.slots = [] ∧ (bankZero s d).vlt.cache = [] ∧ (bankZero s d).vlt.vrOk = false ∧ (bankZero s d).vlt.vr.length = 32)
  ∧ (∀ (s : State) (k : Nat), mainUp s = true →
       snuffedEnter s k = toMode (vfsOff s) .snuffed (if k = 1 ∨ k = 4 then 0x0B else 0x0C))
  ∧ (∀ (s : State) (e : SnuffEnv), s.tmp.trig = none →
       exec (.snuffTrigger e) s = .next s)
  ∧ (∀ (s : State) (e : Event) (l : List Event), mainUp s = true → s.glb.queue = e :: l →
       exec .eventAccept s = .next (let t := routeEvent (s.setGlb { s.glb with queue := l }) e; refillQueue (t.setGlb { t.glb with arbSeq := (t.glb.arbSeq + 1) % 65536 })))
  ∧ (∀ (s : State), mainUp s = true → s.upd.paused = true →
       exec .imageReady s = .next (handoverOut (handoverOut (s.setUpd { s.upd with paused := false }) 0) 1))
  ∧ (∀ (s : State), mainUp s = false ∨ s.upd.paused = false →
       exec .imageReady s = .next s)
  ∧ (∀ (s : State) (k : Nat), mainUp s = false → snuffedEnter s k = s)
  ∧ (∀ (s : State) (e : SnuffEnv), (snuffLatch s e).mode.vsnuffOk = (s.mode.vsnuffOk && decide (300 ≤ e.after % 1024)) ∧ (snuffLatch s e).snf.after = e.after % 1024 ∧
       (snuffLatch s e).snf.before = e.before % 1024 ∧ (snuffLatch s e).snf.vlow = (e.vlow && s.snf.vigil))
  ∧ (∀ (s : State), mainUp s = false ∨ s.glb.queue = [] →
       exec .eventAccept s = .next s)
end

