-- ==== Sys2Proof/Laws/State.lean ====
section
/-! SUPPORT. One lemma per field per update of State, each true by rfl. -/
namespace Sys2Proof.Machine

section
variable (s : State) (v : Glb)
@[simp] theorem State.setGlb_glb : (s.setGlb v).glb = v := rfl
@[simp] theorem State.setGlb_mode : (s.setGlb v).mode = s.mode := rfl
@[simp] theorem State.setGlb_clk : (s.setGlb v).clk = s.clk := rfl
@[simp] theorem State.setGlb_fus : (s.setGlb v).fus = s.fus := rfl
@[simp] theorem State.setGlb_cfg : (s.setGlb v).cfg = s.cfg := rfl
@[simp] theorem State.setGlb_mpu : (s.setGlb v).mpu = s.mpu := rfl
@[simp] theorem State.setGlb_fwl : (s.setGlb v).fwl = s.fwl := rfl
@[simp] theorem State.setGlb_vlt : (s.setGlb v).vlt = s.vlt := rfl
@[simp] theorem State.setGlb_cus : (s.setGlb v).cus = s.cus := rfl
@[simp] theorem State.setGlb_can0 : (s.setGlb v).can0 = s.can0 := rfl
@[simp] theorem State.setGlb_can1 : (s.setGlb v).can1 = s.can1 := rfl
@[simp] theorem State.setGlb_voe : (s.setGlb v).voe = s.voe := rfl
@[simp] theorem State.setGlb_eng : (s.setGlb v).eng = s.eng := rfl
@[simp] theorem State.setGlb_pke : (s.setGlb v).pke = s.pke := rfl
@[simp] theorem State.setGlb_rng : (s.setGlb v).rng = s.rng := rfl
@[simp] theorem State.setGlb_hif : (s.setGlb v).hif = s.hif := rfl
@[simp] theorem State.setGlb_spi0 : (s.setGlb v).spi0 = s.spi0 := rfl
@[simp] theorem State.setGlb_spi1 : (s.setGlb v).spi1 = s.spi1 := rfl
@[simp] theorem State.setGlb_flash : (s.setGlb v).flash = s.flash := rfl
@[simp] theorem State.setGlb_tmp : (s.setGlb v).tmp = s.tmp := rfl
@[simp] theorem State.setGlb_snf : (s.setGlb v).snf = s.snf := rfl
@[simp] theorem State.setGlb_evr : (s.setGlb v).evr = s.evr := rfl
@[simp] theorem State.setGlb_upd : (s.setGlb v).upd = s.upd := rfl
@[simp] theorem State.setGlb_flt : (s.setGlb v).flt = s.flt := rfl
@[simp] theorem State.setGlb_cores : (s.setGlb v).cores = s.cores := rfl
@[simp] theorem State.setGlb_sram : (s.setGlb v).sram = s.sram := rfl
@[simp] theorem State.setGlb_free : (s.setGlb v).free = s.free := rfl
@[simp] theorem State.setGlb_pending : (s.setGlb v).pending = s.pending := rfl
end

section
variable (s : State) (v : ModeSt)
@[simp] theorem State.setMode_glb : (s.setMode v).glb = s.glb := rfl
@[simp] theorem State.setMode_mode : (s.setMode v).mode = v := rfl
@[simp] theorem State.setMode_clk : (s.setMode v).clk = s.clk := rfl
@[simp] theorem State.setMode_fus : (s.setMode v).fus = s.fus := rfl
@[simp] theorem State.setMode_cfg : (s.setMode v).cfg = s.cfg := rfl
@[simp] theorem State.setMode_mpu : (s.setMode v).mpu = s.mpu := rfl
@[simp] theorem State.setMode_fwl : (s.setMode v).fwl = s.fwl := rfl
@[simp] theorem State.setMode_vlt : (s.setMode v).vlt = s.vlt := rfl
@[simp] theorem State.setMode_cus : (s.setMode v).cus = s.cus := rfl
@[simp] theorem State.setMode_can0 : (s.setMode v).can0 = s.can0 := rfl
@[simp] theorem State.setMode_can1 : (s.setMode v).can1 = s.can1 := rfl
@[simp] theorem State.setMode_voe : (s.setMode v).voe = s.voe := rfl
@[simp] theorem State.setMode_eng : (s.setMode v).eng = s.eng := rfl
@[simp] theorem State.setMode_pke : (s.setMode v).pke = s.pke := rfl
@[simp] theorem State.setMode_rng : (s.setMode v).rng = s.rng := rfl
@[simp] theorem State.setMode_hif : (s.setMode v).hif = s.hif := rfl
@[simp] theorem State.setMode_spi0 : (s.setMode v).spi0 = s.spi0 := rfl
@[simp] theorem State.setMode_spi1 : (s.setMode v).spi1 = s.spi1 := rfl
@[simp] theorem State.setMode_flash : (s.setMode v).flash = s.flash := rfl
@[simp] theorem State.setMode_tmp : (s.setMode v).tmp = s.tmp := rfl
@[simp] theorem State.setMode_snf : (s.setMode v).snf = s.snf := rfl
@[simp] theorem State.setMode_evr : (s.setMode v).evr = s.evr := rfl
@[simp] theorem State.setMode_upd : (s.setMode v).upd = s.upd := rfl
@[simp] theorem State.setMode_flt : (s.setMode v).flt = s.flt := rfl
@[simp] theorem State.setMode_cores : (s.setMode v).cores = s.cores := rfl
@[simp] theorem State.setMode_sram : (s.setMode v).sram = s.sram := rfl
@[simp] theorem State.setMode_free : (s.setMode v).free = s.free := rfl
@[simp] theorem State.setMode_pending : (s.setMode v).pending = s.pending := rfl
end

section
variable (s : State) (v : Clk)
@[simp] theorem State.setClk_glb : (s.setClk v).glb = s.glb := rfl
@[simp] theorem State.setClk_mode : (s.setClk v).mode = s.mode := rfl
@[simp] theorem State.setClk_clk : (s.setClk v).clk = v := rfl
@[simp] theorem State.setClk_fus : (s.setClk v).fus = s.fus := rfl
@[simp] theorem State.setClk_cfg : (s.setClk v).cfg = s.cfg := rfl
@[simp] theorem State.setClk_mpu : (s.setClk v).mpu = s.mpu := rfl
@[simp] theorem State.setClk_fwl : (s.setClk v).fwl = s.fwl := rfl
@[simp] theorem State.setClk_vlt : (s.setClk v).vlt = s.vlt := rfl
@[simp] theorem State.setClk_cus : (s.setClk v).cus = s.cus := rfl
@[simp] theorem State.setClk_can0 : (s.setClk v).can0 = s.can0 := rfl
@[simp] theorem State.setClk_can1 : (s.setClk v).can1 = s.can1 := rfl
@[simp] theorem State.setClk_voe : (s.setClk v).voe = s.voe := rfl
@[simp] theorem State.setClk_eng : (s.setClk v).eng = s.eng := rfl
@[simp] theorem State.setClk_pke : (s.setClk v).pke = s.pke := rfl
@[simp] theorem State.setClk_rng : (s.setClk v).rng = s.rng := rfl
@[simp] theorem State.setClk_hif : (s.setClk v).hif = s.hif := rfl
@[simp] theorem State.setClk_spi0 : (s.setClk v).spi0 = s.spi0 := rfl
@[simp] theorem State.setClk_spi1 : (s.setClk v).spi1 = s.spi1 := rfl
@[simp] theorem State.setClk_flash : (s.setClk v).flash = s.flash := rfl
@[simp] theorem State.setClk_tmp : (s.setClk v).tmp = s.tmp := rfl
@[simp] theorem State.setClk_snf : (s.setClk v).snf = s.snf := rfl
@[simp] theorem State.setClk_evr : (s.setClk v).evr = s.evr := rfl
@[simp] theorem State.setClk_upd : (s.setClk v).upd = s.upd := rfl
@[simp] theorem State.setClk_flt : (s.setClk v).flt = s.flt := rfl
@[simp] theorem State.setClk_cores : (s.setClk v).cores = s.cores := rfl
@[simp] theorem State.setClk_sram : (s.setClk v).sram = s.sram := rfl
@[simp] theorem State.setClk_free : (s.setClk v).free = s.free := rfl
@[simp] theorem State.setClk_pending : (s.setClk v).pending = s.pending := rfl
end

section
variable (s : State) (v : Fus)
@[simp] theorem State.setFus_glb : (s.setFus v).glb = s.glb := rfl
@[simp] theorem State.setFus_mode : (s.setFus v).mode = s.mode := rfl
@[simp] theorem State.setFus_clk : (s.setFus v).clk = s.clk := rfl
@[simp] theorem State.setFus_fus : (s.setFus v).fus = v := rfl
@[simp] theorem State.setFus_cfg : (s.setFus v).cfg = s.cfg := rfl
@[simp] theorem State.setFus_mpu : (s.setFus v).mpu = s.mpu := rfl
@[simp] theorem State.setFus_fwl : (s.setFus v).fwl = s.fwl := rfl
@[simp] theorem State.setFus_vlt : (s.setFus v).vlt = s.vlt := rfl
@[simp] theorem State.setFus_cus : (s.setFus v).cus = s.cus := rfl
@[simp] theorem State.setFus_can0 : (s.setFus v).can0 = s.can0 := rfl
@[simp] theorem State.setFus_can1 : (s.setFus v).can1 = s.can1 := rfl
@[simp] theorem State.setFus_voe : (s.setFus v).voe = s.voe := rfl
@[simp] theorem State.setFus_eng : (s.setFus v).eng = s.eng := rfl
@[simp] theorem State.setFus_pke : (s.setFus v).pke = s.pke := rfl
@[simp] theorem State.setFus_rng : (s.setFus v).rng = s.rng := rfl
@[simp] theorem State.setFus_hif : (s.setFus v).hif = s.hif := rfl
@[simp] theorem State.setFus_spi0 : (s.setFus v).spi0 = s.spi0 := rfl
@[simp] theorem State.setFus_spi1 : (s.setFus v).spi1 = s.spi1 := rfl
@[simp] theorem State.setFus_flash : (s.setFus v).flash = s.flash := rfl
@[simp] theorem State.setFus_tmp : (s.setFus v).tmp = s.tmp := rfl
@[simp] theorem State.setFus_snf : (s.setFus v).snf = s.snf := rfl
@[simp] theorem State.setFus_evr : (s.setFus v).evr = s.evr := rfl
@[simp] theorem State.setFus_upd : (s.setFus v).upd = s.upd := rfl
@[simp] theorem State.setFus_flt : (s.setFus v).flt = s.flt := rfl
@[simp] theorem State.setFus_cores : (s.setFus v).cores = s.cores := rfl
@[simp] theorem State.setFus_sram : (s.setFus v).sram = s.sram := rfl
@[simp] theorem State.setFus_free : (s.setFus v).free = s.free := rfl
@[simp] theorem State.setFus_pending : (s.setFus v).pending = s.pending := rfl
end

section
variable (s : State) (v : Cfg)
@[simp] theorem State.setCfg_glb : (s.setCfg v).glb = s.glb := rfl
@[simp] theorem State.setCfg_mode : (s.setCfg v).mode = s.mode := rfl
@[simp] theorem State.setCfg_clk : (s.setCfg v).clk = s.clk := rfl
@[simp] theorem State.setCfg_fus : (s.setCfg v).fus = s.fus := rfl
@[simp] theorem State.setCfg_cfg : (s.setCfg v).cfg = v := rfl
@[simp] theorem State.setCfg_mpu : (s.setCfg v).mpu = s.mpu := rfl
@[simp] theorem State.setCfg_fwl : (s.setCfg v).fwl = s.fwl := rfl
@[simp] theorem State.setCfg_vlt : (s.setCfg v).vlt = s.vlt := rfl
@[simp] theorem State.setCfg_cus : (s.setCfg v).cus = s.cus := rfl
@[simp] theorem State.setCfg_can0 : (s.setCfg v).can0 = s.can0 := rfl
@[simp] theorem State.setCfg_can1 : (s.setCfg v).can1 = s.can1 := rfl
@[simp] theorem State.setCfg_voe : (s.setCfg v).voe = s.voe := rfl
@[simp] theorem State.setCfg_eng : (s.setCfg v).eng = s.eng := rfl
@[simp] theorem State.setCfg_pke : (s.setCfg v).pke = s.pke := rfl
@[simp] theorem State.setCfg_rng : (s.setCfg v).rng = s.rng := rfl
@[simp] theorem State.setCfg_hif : (s.setCfg v).hif = s.hif := rfl
@[simp] theorem State.setCfg_spi0 : (s.setCfg v).spi0 = s.spi0 := rfl
@[simp] theorem State.setCfg_spi1 : (s.setCfg v).spi1 = s.spi1 := rfl
@[simp] theorem State.setCfg_flash : (s.setCfg v).flash = s.flash := rfl
@[simp] theorem State.setCfg_tmp : (s.setCfg v).tmp = s.tmp := rfl
@[simp] theorem State.setCfg_snf : (s.setCfg v).snf = s.snf := rfl
@[simp] theorem State.setCfg_evr : (s.setCfg v).evr = s.evr := rfl
@[simp] theorem State.setCfg_upd : (s.setCfg v).upd = s.upd := rfl
@[simp] theorem State.setCfg_flt : (s.setCfg v).flt = s.flt := rfl
@[simp] theorem State.setCfg_cores : (s.setCfg v).cores = s.cores := rfl
@[simp] theorem State.setCfg_sram : (s.setCfg v).sram = s.sram := rfl
@[simp] theorem State.setCfg_free : (s.setCfg v).free = s.free := rfl
@[simp] theorem State.setCfg_pending : (s.setCfg v).pending = s.pending := rfl
end

section
variable (s : State) (v : MpuSt)
@[simp] theorem State.setMpu_glb : (s.setMpu v).glb = s.glb := rfl
@[simp] theorem State.setMpu_mode : (s.setMpu v).mode = s.mode := rfl
@[simp] theorem State.setMpu_clk : (s.setMpu v).clk = s.clk := rfl
@[simp] theorem State.setMpu_fus : (s.setMpu v).fus = s.fus := rfl
@[simp] theorem State.setMpu_cfg : (s.setMpu v).cfg = s.cfg := rfl
@[simp] theorem State.setMpu_mpu : (s.setMpu v).mpu = v := rfl
@[simp] theorem State.setMpu_fwl : (s.setMpu v).fwl = s.fwl := rfl
@[simp] theorem State.setMpu_vlt : (s.setMpu v).vlt = s.vlt := rfl
@[simp] theorem State.setMpu_cus : (s.setMpu v).cus = s.cus := rfl
@[simp] theorem State.setMpu_can0 : (s.setMpu v).can0 = s.can0 := rfl
@[simp] theorem State.setMpu_can1 : (s.setMpu v).can1 = s.can1 := rfl
@[simp] theorem State.setMpu_voe : (s.setMpu v).voe = s.voe := rfl
@[simp] theorem State.setMpu_eng : (s.setMpu v).eng = s.eng := rfl
@[simp] theorem State.setMpu_pke : (s.setMpu v).pke = s.pke := rfl
@[simp] theorem State.setMpu_rng : (s.setMpu v).rng = s.rng := rfl
@[simp] theorem State.setMpu_hif : (s.setMpu v).hif = s.hif := rfl
@[simp] theorem State.setMpu_spi0 : (s.setMpu v).spi0 = s.spi0 := rfl
@[simp] theorem State.setMpu_spi1 : (s.setMpu v).spi1 = s.spi1 := rfl
@[simp] theorem State.setMpu_flash : (s.setMpu v).flash = s.flash := rfl
@[simp] theorem State.setMpu_tmp : (s.setMpu v).tmp = s.tmp := rfl
@[simp] theorem State.setMpu_snf : (s.setMpu v).snf = s.snf := rfl
@[simp] theorem State.setMpu_evr : (s.setMpu v).evr = s.evr := rfl
@[simp] theorem State.setMpu_upd : (s.setMpu v).upd = s.upd := rfl
@[simp] theorem State.setMpu_flt : (s.setMpu v).flt = s.flt := rfl
@[simp] theorem State.setMpu_cores : (s.setMpu v).cores = s.cores := rfl
@[simp] theorem State.setMpu_sram : (s.setMpu v).sram = s.sram := rfl
@[simp] theorem State.setMpu_free : (s.setMpu v).free = s.free := rfl
@[simp] theorem State.setMpu_pending : (s.setMpu v).pending = s.pending := rfl
end

section
variable (s : State) (v : Fwl)
@[simp] theorem State.setFwl_glb : (s.setFwl v).glb = s.glb := rfl
@[simp] theorem State.setFwl_mode : (s.setFwl v).mode = s.mode := rfl
@[simp] theorem State.setFwl_clk : (s.setFwl v).clk = s.clk := rfl
@[simp] theorem State.setFwl_fus : (s.setFwl v).fus = s.fus := rfl
@[simp] theorem State.setFwl_cfg : (s.setFwl v).cfg = s.cfg := rfl
@[simp] theorem State.setFwl_mpu : (s.setFwl v).mpu = s.mpu := rfl
@[simp] theorem State.setFwl_fwl : (s.setFwl v).fwl = v := rfl
@[simp] theorem State.setFwl_vlt : (s.setFwl v).vlt = s.vlt := rfl
@[simp] theorem State.setFwl_cus : (s.setFwl v).cus = s.cus := rfl
@[simp] theorem State.setFwl_can0 : (s.setFwl v).can0 = s.can0 := rfl
@[simp] theorem State.setFwl_can1 : (s.setFwl v).can1 = s.can1 := rfl
@[simp] theorem State.setFwl_voe : (s.setFwl v).voe = s.voe := rfl
@[simp] theorem State.setFwl_eng : (s.setFwl v).eng = s.eng := rfl
@[simp] theorem State.setFwl_pke : (s.setFwl v).pke = s.pke := rfl
@[simp] theorem State.setFwl_rng : (s.setFwl v).rng = s.rng := rfl
@[simp] theorem State.setFwl_hif : (s.setFwl v).hif = s.hif := rfl
@[simp] theorem State.setFwl_spi0 : (s.setFwl v).spi0 = s.spi0 := rfl
@[simp] theorem State.setFwl_spi1 : (s.setFwl v).spi1 = s.spi1 := rfl
@[simp] theorem State.setFwl_flash : (s.setFwl v).flash = s.flash := rfl
@[simp] theorem State.setFwl_tmp : (s.setFwl v).tmp = s.tmp := rfl
@[simp] theorem State.setFwl_snf : (s.setFwl v).snf = s.snf := rfl
@[simp] theorem State.setFwl_evr : (s.setFwl v).evr = s.evr := rfl
@[simp] theorem State.setFwl_upd : (s.setFwl v).upd = s.upd := rfl
@[simp] theorem State.setFwl_flt : (s.setFwl v).flt = s.flt := rfl
@[simp] theorem State.setFwl_cores : (s.setFwl v).cores = s.cores := rfl
@[simp] theorem State.setFwl_sram : (s.setFwl v).sram = s.sram := rfl
@[simp] theorem State.setFwl_free : (s.setFwl v).free = s.free := rfl
@[simp] theorem State.setFwl_pending : (s.setFwl v).pending = s.pending := rfl
end

section
variable (s : State) (v : Vlt)
@[simp] theorem State.setVlt_glb : (s.setVlt v).glb = s.glb := rfl
@[simp] theorem State.setVlt_mode : (s.setVlt v).mode = s.mode := rfl
@[simp] theorem State.setVlt_clk : (s.setVlt v).clk = s.clk := rfl
@[simp] theorem State.setVlt_fus : (s.setVlt v).fus = s.fus := rfl
@[simp] theorem State.setVlt_cfg : (s.setVlt v).cfg = s.cfg := rfl
@[simp] theorem State.setVlt_mpu : (s.setVlt v).mpu = s.mpu := rfl
@[simp] theorem State.setVlt_fwl : (s.setVlt v).fwl = s.fwl := rfl
@[simp] theorem State.setVlt_vlt : (s.setVlt v).vlt = v := rfl
@[simp] theorem State.setVlt_cus : (s.setVlt v).cus = s.cus := rfl
@[simp] theorem State.setVlt_can0 : (s.setVlt v).can0 = s.can0 := rfl
@[simp] theorem State.setVlt_can1 : (s.setVlt v).can1 = s.can1 := rfl
@[simp] theorem State.setVlt_voe : (s.setVlt v).voe = s.voe := rfl
@[simp] theorem State.setVlt_eng : (s.setVlt v).eng = s.eng := rfl
@[simp] theorem State.setVlt_pke : (s.setVlt v).pke = s.pke := rfl
@[simp] theorem State.setVlt_rng : (s.setVlt v).rng = s.rng := rfl
@[simp] theorem State.setVlt_hif : (s.setVlt v).hif = s.hif := rfl
@[simp] theorem State.setVlt_spi0 : (s.setVlt v).spi0 = s.spi0 := rfl
@[simp] theorem State.setVlt_spi1 : (s.setVlt v).spi1 = s.spi1 := rfl
@[simp] theorem State.setVlt_flash : (s.setVlt v).flash = s.flash := rfl
@[simp] theorem State.setVlt_tmp : (s.setVlt v).tmp = s.tmp := rfl
@[simp] theorem State.setVlt_snf : (s.setVlt v).snf = s.snf := rfl
@[simp] theorem State.setVlt_evr : (s.setVlt v).evr = s.evr := rfl
@[simp] theorem State.setVlt_upd : (s.setVlt v).upd = s.upd := rfl
@[simp] theorem State.setVlt_flt : (s.setVlt v).flt = s.flt := rfl
@[simp] theorem State.setVlt_cores : (s.setVlt v).cores = s.cores := rfl
@[simp] theorem State.setVlt_sram : (s.setVlt v).sram = s.sram := rfl
@[simp] theorem State.setVlt_free : (s.setVlt v).free = s.free := rfl
@[simp] theorem State.setVlt_pending : (s.setVlt v).pending = s.pending := rfl
end

section
variable (s : State) (v : Cus)
@[simp] theorem State.setCus_glb : (s.setCus v).glb = s.glb := rfl
@[simp] theorem State.setCus_mode : (s.setCus v).mode = s.mode := rfl
@[simp] theorem State.setCus_clk : (s.setCus v).clk = s.clk := rfl
@[simp] theorem State.setCus_fus : (s.setCus v).fus = s.fus := rfl
@[simp] theorem State.setCus_cfg : (s.setCus v).cfg = s.cfg := rfl
@[simp] theorem State.setCus_mpu : (s.setCus v).mpu = s.mpu := rfl
@[simp] theorem State.setCus_fwl : (s.setCus v).fwl = s.fwl := rfl
@[simp] theorem State.setCus_vlt : (s.setCus v).vlt = s.vlt := rfl
@[simp] theorem State.setCus_cus : (s.setCus v).cus = v := rfl
@[simp] theorem State.setCus_can0 : (s.setCus v).can0 = s.can0 := rfl
@[simp] theorem State.setCus_can1 : (s.setCus v).can1 = s.can1 := rfl
@[simp] theorem State.setCus_voe : (s.setCus v).voe = s.voe := rfl
@[simp] theorem State.setCus_eng : (s.setCus v).eng = s.eng := rfl
@[simp] theorem State.setCus_pke : (s.setCus v).pke = s.pke := rfl
@[simp] theorem State.setCus_rng : (s.setCus v).rng = s.rng := rfl
@[simp] theorem State.setCus_hif : (s.setCus v).hif = s.hif := rfl
@[simp] theorem State.setCus_spi0 : (s.setCus v).spi0 = s.spi0 := rfl
@[simp] theorem State.setCus_spi1 : (s.setCus v).spi1 = s.spi1 := rfl
@[simp] theorem State.setCus_flash : (s.setCus v).flash = s.flash := rfl
@[simp] theorem State.setCus_tmp : (s.setCus v).tmp = s.tmp := rfl
@[simp] theorem State.setCus_snf : (s.setCus v).snf = s.snf := rfl
@[simp] theorem State.setCus_evr : (s.setCus v).evr = s.evr := rfl
@[simp] theorem State.setCus_upd : (s.setCus v).upd = s.upd := rfl
@[simp] theorem State.setCus_flt : (s.setCus v).flt = s.flt := rfl
@[simp] theorem State.setCus_cores : (s.setCus v).cores = s.cores := rfl
@[simp] theorem State.setCus_sram : (s.setCus v).sram = s.sram := rfl
@[simp] theorem State.setCus_free : (s.setCus v).free = s.free := rfl
@[simp] theorem State.setCus_pending : (s.setCus v).pending = s.pending := rfl
end

section
variable (s : State) (v : CanCh)
@[simp] theorem State.setCan0_glb : (s.setCan0 v).glb = s.glb := rfl
@[simp] theorem State.setCan0_mode : (s.setCan0 v).mode = s.mode := rfl
@[simp] theorem State.setCan0_clk : (s.setCan0 v).clk = s.clk := rfl
@[simp] theorem State.setCan0_fus : (s.setCan0 v).fus = s.fus := rfl
@[simp] theorem State.setCan0_cfg : (s.setCan0 v).cfg = s.cfg := rfl
@[simp] theorem State.setCan0_mpu : (s.setCan0 v).mpu = s.mpu := rfl
@[simp] theorem State.setCan0_fwl : (s.setCan0 v).fwl = s.fwl := rfl
@[simp] theorem State.setCan0_vlt : (s.setCan0 v).vlt = s.vlt := rfl
@[simp] theorem State.setCan0_cus : (s.setCan0 v).cus = s.cus := rfl
@[simp] theorem State.setCan0_can0 : (s.setCan0 v).can0 = v := rfl
@[simp] theorem State.setCan0_can1 : (s.setCan0 v).can1 = s.can1 := rfl
@[simp] theorem State.setCan0_voe : (s.setCan0 v).voe = s.voe := rfl
@[simp] theorem State.setCan0_eng : (s.setCan0 v).eng = s.eng := rfl
@[simp] theorem State.setCan0_pke : (s.setCan0 v).pke = s.pke := rfl
@[simp] theorem State.setCan0_rng : (s.setCan0 v).rng = s.rng := rfl
@[simp] theorem State.setCan0_hif : (s.setCan0 v).hif = s.hif := rfl
@[simp] theorem State.setCan0_spi0 : (s.setCan0 v).spi0 = s.spi0 := rfl
@[simp] theorem State.setCan0_spi1 : (s.setCan0 v).spi1 = s.spi1 := rfl
@[simp] theorem State.setCan0_flash : (s.setCan0 v).flash = s.flash := rfl
@[simp] theorem State.setCan0_tmp : (s.setCan0 v).tmp = s.tmp := rfl
@[simp] theorem State.setCan0_snf : (s.setCan0 v).snf = s.snf := rfl
@[simp] theorem State.setCan0_evr : (s.setCan0 v).evr = s.evr := rfl
@[simp] theorem State.setCan0_upd : (s.setCan0 v).upd = s.upd := rfl
@[simp] theorem State.setCan0_flt : (s.setCan0 v).flt = s.flt := rfl
@[simp] theorem State.setCan0_cores : (s.setCan0 v).cores = s.cores := rfl
@[simp] theorem State.setCan0_sram : (s.setCan0 v).sram = s.sram := rfl
@[simp] theorem State.setCan0_free : (s.setCan0 v).free = s.free := rfl
@[simp] theorem State.setCan0_pending : (s.setCan0 v).pending = s.pending := rfl
end

section
variable (s : State) (v : CanCh)
@[simp] theorem State.setCan1_glb : (s.setCan1 v).glb = s.glb := rfl
@[simp] theorem State.setCan1_mode : (s.setCan1 v).mode = s.mode := rfl
@[simp] theorem State.setCan1_clk : (s.setCan1 v).clk = s.clk := rfl
@[simp] theorem State.setCan1_fus : (s.setCan1 v).fus = s.fus := rfl
@[simp] theorem State.setCan1_cfg : (s.setCan1 v).cfg = s.cfg := rfl
@[simp] theorem State.setCan1_mpu : (s.setCan1 v).mpu = s.mpu := rfl
@[simp] theorem State.setCan1_fwl : (s.setCan1 v).fwl = s.fwl := rfl
@[simp] theorem State.setCan1_vlt : (s.setCan1 v).vlt = s.vlt := rfl
@[simp] theorem State.setCan1_cus : (s.setCan1 v).cus = s.cus := rfl
@[simp] theorem State.setCan1_can0 : (s.setCan1 v).can0 = s.can0 := rfl
@[simp] theorem State.setCan1_can1 : (s.setCan1 v).can1 = v := rfl
@[simp] theorem State.setCan1_voe : (s.setCan1 v).voe = s.voe := rfl
@[simp] theorem State.setCan1_eng : (s.setCan1 v).eng = s.eng := rfl
@[simp] theorem State.setCan1_pke : (s.setCan1 v).pke = s.pke := rfl
@[simp] theorem State.setCan1_rng : (s.setCan1 v).rng = s.rng := rfl
@[simp] theorem State.setCan1_hif : (s.setCan1 v).hif = s.hif := rfl
@[simp] theorem State.setCan1_spi0 : (s.setCan1 v).spi0 = s.spi0 := rfl
@[simp] theorem State.setCan1_spi1 : (s.setCan1 v).spi1 = s.spi1 := rfl
@[simp] theorem State.setCan1_flash : (s.setCan1 v).flash = s.flash := rfl
@[simp] theorem State.setCan1_tmp : (s.setCan1 v).tmp = s.tmp := rfl
@[simp] theorem State.setCan1_snf : (s.setCan1 v).snf = s.snf := rfl
@[simp] theorem State.setCan1_evr : (s.setCan1 v).evr = s.evr := rfl
@[simp] theorem State.setCan1_upd : (s.setCan1 v).upd = s.upd := rfl
@[simp] theorem State.setCan1_flt : (s.setCan1 v).flt = s.flt := rfl
@[simp] theorem State.setCan1_cores : (s.setCan1 v).cores = s.cores := rfl
@[simp] theorem State.setCan1_sram : (s.setCan1 v).sram = s.sram := rfl
@[simp] theorem State.setCan1_free : (s.setCan1 v).free = s.free := rfl
@[simp] theorem State.setCan1_pending : (s.setCan1 v).pending = s.pending := rfl
end

section
variable (s : State) (v : Voe)
@[simp] theorem State.setVoe_glb : (s.setVoe v).glb = s.glb := rfl
@[simp] theorem State.setVoe_mode : (s.setVoe v).mode = s.mode := rfl
@[simp] theorem State.setVoe_clk : (s.setVoe v).clk = s.clk := rfl
@[simp] theorem State.setVoe_fus : (s.setVoe v).fus = s.fus := rfl
@[simp] theorem State.setVoe_cfg : (s.setVoe v).cfg = s.cfg := rfl
@[simp] theorem State.setVoe_mpu : (s.setVoe v).mpu = s.mpu := rfl
@[simp] theorem State.setVoe_fwl : (s.setVoe v).fwl = s.fwl := rfl
@[simp] theorem State.setVoe_vlt : (s.setVoe v).vlt = s.vlt := rfl
@[simp] theorem State.setVoe_cus : (s.setVoe v).cus = s.cus := rfl
@[simp] theorem State.setVoe_can0 : (s.setVoe v).can0 = s.can0 := rfl
@[simp] theorem State.setVoe_can1 : (s.setVoe v).can1 = s.can1 := rfl
@[simp] theorem State.setVoe_voe : (s.setVoe v).voe = v := rfl
@[simp] theorem State.setVoe_eng : (s.setVoe v).eng = s.eng := rfl
@[simp] theorem State.setVoe_pke : (s.setVoe v).pke = s.pke := rfl
@[simp] theorem State.setVoe_rng : (s.setVoe v).rng = s.rng := rfl
@[simp] theorem State.setVoe_hif : (s.setVoe v).hif = s.hif := rfl
@[simp] theorem State.setVoe_spi0 : (s.setVoe v).spi0 = s.spi0 := rfl
@[simp] theorem State.setVoe_spi1 : (s.setVoe v).spi1 = s.spi1 := rfl
@[simp] theorem State.setVoe_flash : (s.setVoe v).flash = s.flash := rfl
@[simp] theorem State.setVoe_tmp : (s.setVoe v).tmp = s.tmp := rfl
@[simp] theorem State.setVoe_snf : (s.setVoe v).snf = s.snf := rfl
@[simp] theorem State.setVoe_evr : (s.setVoe v).evr = s.evr := rfl
@[simp] theorem State.setVoe_upd : (s.setVoe v).upd = s.upd := rfl
@[simp] theorem State.setVoe_flt : (s.setVoe v).flt = s.flt := rfl
@[simp] theorem State.setVoe_cores : (s.setVoe v).cores = s.cores := rfl
@[simp] theorem State.setVoe_sram : (s.setVoe v).sram = s.sram := rfl
@[simp] theorem State.setVoe_free : (s.setVoe v).free = s.free := rfl
@[simp] theorem State.setVoe_pending : (s.setVoe v).pending = s.pending := rfl
end

section
variable (s : State) (v : Eng)
@[simp] theorem State.setEng_glb : (s.setEng v).glb = s.glb := rfl
@[simp] theorem State.setEng_mode : (s.setEng v).mode = s.mode := rfl
@[simp] theorem State.setEng_clk : (s.setEng v).clk = s.clk := rfl
@[simp] theorem State.setEng_fus : (s.setEng v).fus = s.fus := rfl
@[simp] theorem State.setEng_cfg : (s.setEng v).cfg = s.cfg := rfl
@[simp] theorem State.setEng_mpu : (s.setEng v).mpu = s.mpu := rfl
@[simp] theorem State.setEng_fwl : (s.setEng v).fwl = s.fwl := rfl
@[simp] theorem State.setEng_vlt : (s.setEng v).vlt = s.vlt := rfl
@[simp] theorem State.setEng_cus : (s.setEng v).cus = s.cus := rfl
@[simp] theorem State.setEng_can0 : (s.setEng v).can0 = s.can0 := rfl
@[simp] theorem State.setEng_can1 : (s.setEng v).can1 = s.can1 := rfl
@[simp] theorem State.setEng_voe : (s.setEng v).voe = s.voe := rfl
@[simp] theorem State.setEng_eng : (s.setEng v).eng = v := rfl
@[simp] theorem State.setEng_pke : (s.setEng v).pke = s.pke := rfl
@[simp] theorem State.setEng_rng : (s.setEng v).rng = s.rng := rfl
@[simp] theorem State.setEng_hif : (s.setEng v).hif = s.hif := rfl
@[simp] theorem State.setEng_spi0 : (s.setEng v).spi0 = s.spi0 := rfl
@[simp] theorem State.setEng_spi1 : (s.setEng v).spi1 = s.spi1 := rfl
@[simp] theorem State.setEng_flash : (s.setEng v).flash = s.flash := rfl
@[simp] theorem State.setEng_tmp : (s.setEng v).tmp = s.tmp := rfl
@[simp] theorem State.setEng_snf : (s.setEng v).snf = s.snf := rfl
@[simp] theorem State.setEng_evr : (s.setEng v).evr = s.evr := rfl
@[simp] theorem State.setEng_upd : (s.setEng v).upd = s.upd := rfl
@[simp] theorem State.setEng_flt : (s.setEng v).flt = s.flt := rfl
@[simp] theorem State.setEng_cores : (s.setEng v).cores = s.cores := rfl
@[simp] theorem State.setEng_sram : (s.setEng v).sram = s.sram := rfl
@[simp] theorem State.setEng_free : (s.setEng v).free = s.free := rfl
@[simp] theorem State.setEng_pending : (s.setEng v).pending = s.pending := rfl
end

section
variable (s : State) (v : Pke)
@[simp] theorem State.setPke_glb : (s.setPke v).glb = s.glb := rfl
@[simp] theorem State.setPke_mode : (s.setPke v).mode = s.mode := rfl
@[simp] theorem State.setPke_clk : (s.setPke v).clk = s.clk := rfl
@[simp] theorem State.setPke_fus : (s.setPke v).fus = s.fus := rfl
@[simp] theorem State.setPke_cfg : (s.setPke v).cfg = s.cfg := rfl
@[simp] theorem State.setPke_mpu : (s.setPke v).mpu = s.mpu := rfl
@[simp] theorem State.setPke_fwl : (s.setPke v).fwl = s.fwl := rfl
@[simp] theorem State.setPke_vlt : (s.setPke v).vlt = s.vlt := rfl
@[simp] theorem State.setPke_cus : (s.setPke v).cus = s.cus := rfl
@[simp] theorem State.setPke_can0 : (s.setPke v).can0 = s.can0 := rfl
@[simp] theorem State.setPke_can1 : (s.setPke v).can1 = s.can1 := rfl
@[simp] theorem State.setPke_voe : (s.setPke v).voe = s.voe := rfl
@[simp] theorem State.setPke_eng : (s.setPke v).eng = s.eng := rfl
@[simp] theorem State.setPke_pke : (s.setPke v).pke = v := rfl
@[simp] theorem State.setPke_rng : (s.setPke v).rng = s.rng := rfl
@[simp] theorem State.setPke_hif : (s.setPke v).hif = s.hif := rfl
@[simp] theorem State.setPke_spi0 : (s.setPke v).spi0 = s.spi0 := rfl
@[simp] theorem State.setPke_spi1 : (s.setPke v).spi1 = s.spi1 := rfl
@[simp] theorem State.setPke_flash : (s.setPke v).flash = s.flash := rfl
@[simp] theorem State.setPke_tmp : (s.setPke v).tmp = s.tmp := rfl
@[simp] theorem State.setPke_snf : (s.setPke v).snf = s.snf := rfl
@[simp] theorem State.setPke_evr : (s.setPke v).evr = s.evr := rfl
@[simp] theorem State.setPke_upd : (s.setPke v).upd = s.upd := rfl
@[simp] theorem State.setPke_flt : (s.setPke v).flt = s.flt := rfl
@[simp] theorem State.setPke_cores : (s.setPke v).cores = s.cores := rfl
@[simp] theorem State.setPke_sram : (s.setPke v).sram = s.sram := rfl
@[simp] theorem State.setPke_free : (s.setPke v).free = s.free := rfl
@[simp] theorem State.setPke_pending : (s.setPke v).pending = s.pending := rfl
end

section
variable (s : State) (v : Rng)
@[simp] theorem State.setRng_glb : (s.setRng v).glb = s.glb := rfl
@[simp] theorem State.setRng_mode : (s.setRng v).mode = s.mode := rfl
@[simp] theorem State.setRng_clk : (s.setRng v).clk = s.clk := rfl
@[simp] theorem State.setRng_fus : (s.setRng v).fus = s.fus := rfl
@[simp] theorem State.setRng_cfg : (s.setRng v).cfg = s.cfg := rfl
@[simp] theorem State.setRng_mpu : (s.setRng v).mpu = s.mpu := rfl
@[simp] theorem State.setRng_fwl : (s.setRng v).fwl = s.fwl := rfl
@[simp] theorem State.setRng_vlt : (s.setRng v).vlt = s.vlt := rfl
@[simp] theorem State.setRng_cus : (s.setRng v).cus = s.cus := rfl
@[simp] theorem State.setRng_can0 : (s.setRng v).can0 = s.can0 := rfl
@[simp] theorem State.setRng_can1 : (s.setRng v).can1 = s.can1 := rfl
@[simp] theorem State.setRng_voe : (s.setRng v).voe = s.voe := rfl
@[simp] theorem State.setRng_eng : (s.setRng v).eng = s.eng := rfl
@[simp] theorem State.setRng_pke : (s.setRng v).pke = s.pke := rfl
@[simp] theorem State.setRng_rng : (s.setRng v).rng = v := rfl
@[simp] theorem State.setRng_hif : (s.setRng v).hif = s.hif := rfl
@[simp] theorem State.setRng_spi0 : (s.setRng v).spi0 = s.spi0 := rfl
@[simp] theorem State.setRng_spi1 : (s.setRng v).spi1 = s.spi1 := rfl
@[simp] theorem State.setRng_flash : (s.setRng v).flash = s.flash := rfl
@[simp] theorem State.setRng_tmp : (s.setRng v).tmp = s.tmp := rfl
@[simp] theorem State.setRng_snf : (s.setRng v).snf = s.snf := rfl
@[simp] theorem State.setRng_evr : (s.setRng v).evr = s.evr := rfl
@[simp] theorem State.setRng_upd : (s.setRng v).upd = s.upd := rfl
@[simp] theorem State.setRng_flt : (s.setRng v).flt = s.flt := rfl
@[simp] theorem State.setRng_cores : (s.setRng v).cores = s.cores := rfl
@[simp] theorem State.setRng_sram : (s.setRng v).sram = s.sram := rfl
@[simp] theorem State.setRng_free : (s.setRng v).free = s.free := rfl
@[simp] theorem State.setRng_pending : (s.setRng v).pending = s.pending := rfl
end

section
variable (s : State) (v : Hif)
@[simp] theorem State.setHif_glb : (s.setHif v).glb = s.glb := rfl
@[simp] theorem State.setHif_mode : (s.setHif v).mode = s.mode := rfl
@[simp] theorem State.setHif_clk : (s.setHif v).clk = s.clk := rfl
@[simp] theorem State.setHif_fus : (s.setHif v).fus = s.fus := rfl
@[simp] theorem State.setHif_cfg : (s.setHif v).cfg = s.cfg := rfl
@[simp] theorem State.setHif_mpu : (s.setHif v).mpu = s.mpu := rfl
@[simp] theorem State.setHif_fwl : (s.setHif v).fwl = s.fwl := rfl
@[simp] theorem State.setHif_vlt : (s.setHif v).vlt = s.vlt := rfl
@[simp] theorem State.setHif_cus : (s.setHif v).cus = s.cus := rfl
@[simp] theorem State.setHif_can0 : (s.setHif v).can0 = s.can0 := rfl
@[simp] theorem State.setHif_can1 : (s.setHif v).can1 = s.can1 := rfl
@[simp] theorem State.setHif_voe : (s.setHif v).voe = s.voe := rfl
@[simp] theorem State.setHif_eng : (s.setHif v).eng = s.eng := rfl
@[simp] theorem State.setHif_pke : (s.setHif v).pke = s.pke := rfl
@[simp] theorem State.setHif_rng : (s.setHif v).rng = s.rng := rfl
@[simp] theorem State.setHif_hif : (s.setHif v).hif = v := rfl
@[simp] theorem State.setHif_spi0 : (s.setHif v).spi0 = s.spi0 := rfl
@[simp] theorem State.setHif_spi1 : (s.setHif v).spi1 = s.spi1 := rfl
@[simp] theorem State.setHif_flash : (s.setHif v).flash = s.flash := rfl
@[simp] theorem State.setHif_tmp : (s.setHif v).tmp = s.tmp := rfl
@[simp] theorem State.setHif_snf : (s.setHif v).snf = s.snf := rfl
@[simp] theorem State.setHif_evr : (s.setHif v).evr = s.evr := rfl
@[simp] theorem State.setHif_upd : (s.setHif v).upd = s.upd := rfl
@[simp] theorem State.setHif_flt : (s.setHif v).flt = s.flt := rfl
@[simp] theorem State.setHif_cores : (s.setHif v).cores = s.cores := rfl
@[simp] theorem State.setHif_sram : (s.setHif v).sram = s.sram := rfl
@[simp] theorem State.setHif_free : (s.setHif v).free = s.free := rfl
@[simp] theorem State.setHif_pending : (s.setHif v).pending = s.pending := rfl
end

section
variable (s : State) (v : Spi0)
@[simp] theorem State.setSpi0_glb : (s.setSpi0 v).glb = s.glb := rfl
@[simp] theorem State.setSpi0_mode : (s.setSpi0 v).mode = s.mode := rfl
@[simp] theorem State.setSpi0_clk : (s.setSpi0 v).clk = s.clk := rfl
@[simp] theorem State.setSpi0_fus : (s.setSpi0 v).fus = s.fus := rfl
@[simp] theorem State.setSpi0_cfg : (s.setSpi0 v).cfg = s.cfg := rfl
@[simp] theorem State.setSpi0_mpu : (s.setSpi0 v).mpu = s.mpu := rfl
@[simp] theorem State.setSpi0_fwl : (s.setSpi0 v).fwl = s.fwl := rfl
@[simp] theorem State.setSpi0_vlt : (s.setSpi0 v).vlt = s.vlt := rfl
@[simp] theorem State.setSpi0_cus : (s.setSpi0 v).cus = s.cus := rfl
@[simp] theorem State.setSpi0_can0 : (s.setSpi0 v).can0 = s.can0 := rfl
@[simp] theorem State.setSpi0_can1 : (s.setSpi0 v).can1 = s.can1 := rfl
@[simp] theorem State.setSpi0_voe : (s.setSpi0 v).voe = s.voe := rfl
@[simp] theorem State.setSpi0_eng : (s.setSpi0 v).eng = s.eng := rfl
@[simp] theorem State.setSpi0_pke : (s.setSpi0 v).pke = s.pke := rfl
@[simp] theorem State.setSpi0_rng : (s.setSpi0 v).rng = s.rng := rfl
@[simp] theorem State.setSpi0_hif : (s.setSpi0 v).hif = s.hif := rfl
@[simp] theorem State.setSpi0_spi0 : (s.setSpi0 v).spi0 = v := rfl
@[simp] theorem State.setSpi0_spi1 : (s.setSpi0 v).spi1 = s.spi1 := rfl
@[simp] theorem State.setSpi0_flash : (s.setSpi0 v).flash = s.flash := rfl
@[simp] theorem State.setSpi0_tmp : (s.setSpi0 v).tmp = s.tmp := rfl
@[simp] theorem State.setSpi0_snf : (s.setSpi0 v).snf = s.snf := rfl
@[simp] theorem State.setSpi0_evr : (s.setSpi0 v).evr = s.evr := rfl
@[simp] theorem State.setSpi0_upd : (s.setSpi0 v).upd = s.upd := rfl
@[simp] theorem State.setSpi0_flt : (s.setSpi0 v).flt = s.flt := rfl
@[simp] theorem State.setSpi0_cores : (s.setSpi0 v).cores = s.cores := rfl
@[simp] theorem State.setSpi0_sram : (s.setSpi0 v).sram = s.sram := rfl
@[simp] theorem State.setSpi0_free : (s.setSpi0 v).free = s.free := rfl
@[simp] theorem State.setSpi0_pending : (s.setSpi0 v).pending = s.pending := rfl
end

section
variable (s : State) (v : Spi1)
@[simp] theorem State.setSpi1_glb : (s.setSpi1 v).glb = s.glb := rfl
@[simp] theorem State.setSpi1_mode : (s.setSpi1 v).mode = s.mode := rfl
@[simp] theorem State.setSpi1_clk : (s.setSpi1 v).clk = s.clk := rfl
@[simp] theorem State.setSpi1_fus : (s.setSpi1 v).fus = s.fus := rfl
@[simp] theorem State.setSpi1_cfg : (s.setSpi1 v).cfg = s.cfg := rfl
@[simp] theorem State.setSpi1_mpu : (s.setSpi1 v).mpu = s.mpu := rfl
@[simp] theorem State.setSpi1_fwl : (s.setSpi1 v).fwl = s.fwl := rfl
@[simp] theorem State.setSpi1_vlt : (s.setSpi1 v).vlt = s.vlt := rfl
@[simp] theorem State.setSpi1_cus : (s.setSpi1 v).cus = s.cus := rfl
@[simp] theorem State.setSpi1_can0 : (s.setSpi1 v).can0 = s.can0 := rfl
@[simp] theorem State.setSpi1_can1 : (s.setSpi1 v).can1 = s.can1 := rfl
@[simp] theorem State.setSpi1_voe : (s.setSpi1 v).voe = s.voe := rfl
@[simp] theorem State.setSpi1_eng : (s.setSpi1 v).eng = s.eng := rfl
@[simp] theorem State.setSpi1_pke : (s.setSpi1 v).pke = s.pke := rfl
@[simp] theorem State.setSpi1_rng : (s.setSpi1 v).rng = s.rng := rfl
@[simp] theorem State.setSpi1_hif : (s.setSpi1 v).hif = s.hif := rfl
@[simp] theorem State.setSpi1_spi0 : (s.setSpi1 v).spi0 = s.spi0 := rfl
@[simp] theorem State.setSpi1_spi1 : (s.setSpi1 v).spi1 = v := rfl
@[simp] theorem State.setSpi1_flash : (s.setSpi1 v).flash = s.flash := rfl
@[simp] theorem State.setSpi1_tmp : (s.setSpi1 v).tmp = s.tmp := rfl
@[simp] theorem State.setSpi1_snf : (s.setSpi1 v).snf = s.snf := rfl
@[simp] theorem State.setSpi1_evr : (s.setSpi1 v).evr = s.evr := rfl
@[simp] theorem State.setSpi1_upd : (s.setSpi1 v).upd = s.upd := rfl
@[simp] theorem State.setSpi1_flt : (s.setSpi1 v).flt = s.flt := rfl
@[simp] theorem State.setSpi1_cores : (s.setSpi1 v).cores = s.cores := rfl
@[simp] theorem State.setSpi1_sram : (s.setSpi1 v).sram = s.sram := rfl
@[simp] theorem State.setSpi1_free : (s.setSpi1 v).free = s.free := rfl
@[simp] theorem State.setSpi1_pending : (s.setSpi1 v).pending = s.pending := rfl
end

section
variable (s : State) (v : Tab Byte)
@[simp] theorem State.setFlash_glb : (s.setFlash v).glb = s.glb := rfl
@[simp] theorem State.setFlash_mode : (s.setFlash v).mode = s.mode := rfl
@[simp] theorem State.setFlash_clk : (s.setFlash v).clk = s.clk := rfl
@[simp] theorem State.setFlash_fus : (s.setFlash v).fus = s.fus := rfl
@[simp] theorem State.setFlash_cfg : (s.setFlash v).cfg = s.cfg := rfl
@[simp] theorem State.setFlash_mpu : (s.setFlash v).mpu = s.mpu := rfl
@[simp] theorem State.setFlash_fwl : (s.setFlash v).fwl = s.fwl := rfl
@[simp] theorem State.setFlash_vlt : (s.setFlash v).vlt = s.vlt := rfl
@[simp] theorem State.setFlash_cus : (s.setFlash v).cus = s.cus := rfl
@[simp] theorem State.setFlash_can0 : (s.setFlash v).can0 = s.can0 := rfl
@[simp] theorem State.setFlash_can1 : (s.setFlash v).can1 = s.can1 := rfl
@[simp] theorem State.setFlash_voe : (s.setFlash v).voe = s.voe := rfl
@[simp] theorem State.setFlash_eng : (s.setFlash v).eng = s.eng := rfl
@[simp] theorem State.setFlash_pke : (s.setFlash v).pke = s.pke := rfl
@[simp] theorem State.setFlash_rng : (s.setFlash v).rng = s.rng := rfl
@[simp] theorem State.setFlash_hif : (s.setFlash v).hif = s.hif := rfl
@[simp] theorem State.setFlash_spi0 : (s.setFlash v).spi0 = s.spi0 := rfl
@[simp] theorem State.setFlash_spi1 : (s.setFlash v).spi1 = s.spi1 := rfl
@[simp] theorem State.setFlash_flash : (s.setFlash v).flash = v := rfl
@[simp] theorem State.setFlash_tmp : (s.setFlash v).tmp = s.tmp := rfl
@[simp] theorem State.setFlash_snf : (s.setFlash v).snf = s.snf := rfl
@[simp] theorem State.setFlash_evr : (s.setFlash v).evr = s.evr := rfl
@[simp] theorem State.setFlash_upd : (s.setFlash v).upd = s.upd := rfl
@[simp] theorem State.setFlash_flt : (s.setFlash v).flt = s.flt := rfl
@[simp] theorem State.setFlash_cores : (s.setFlash v).cores = s.cores := rfl
@[simp] theorem State.setFlash_sram : (s.setFlash v).sram = s.sram := rfl
@[simp] theorem State.setFlash_free : (s.setFlash v).free = s.free := rfl
@[simp] theorem State.setFlash_pending : (s.setFlash v).pending = s.pending := rfl
end

section
variable (s : State) (v : Tmp)
@[simp] theorem State.setTmp_glb : (s.setTmp v).glb = s.glb := rfl
@[simp] theorem State.setTmp_mode : (s.setTmp v).mode = s.mode := rfl
@[simp] theorem State.setTmp_clk : (s.setTmp v).clk = s.clk := rfl
@[simp] theorem State.setTmp_fus : (s.setTmp v).fus = s.fus := rfl
@[simp] theorem State.setTmp_cfg : (s.setTmp v).cfg = s.cfg := rfl
@[simp] theorem State.setTmp_mpu : (s.setTmp v).mpu = s.mpu := rfl
@[simp] theorem State.setTmp_fwl : (s.setTmp v).fwl = s.fwl := rfl
@[simp] theorem State.setTmp_vlt : (s.setTmp v).vlt = s.vlt := rfl
@[simp] theorem State.setTmp_cus : (s.setTmp v).cus = s.cus := rfl
@[simp] theorem State.setTmp_can0 : (s.setTmp v).can0 = s.can0 := rfl
@[simp] theorem State.setTmp_can1 : (s.setTmp v).can1 = s.can1 := rfl
@[simp] theorem State.setTmp_voe : (s.setTmp v).voe = s.voe := rfl
@[simp] theorem State.setTmp_eng : (s.setTmp v).eng = s.eng := rfl
@[simp] theorem State.setTmp_pke : (s.setTmp v).pke = s.pke := rfl
@[simp] theorem State.setTmp_rng : (s.setTmp v).rng = s.rng := rfl
@[simp] theorem State.setTmp_hif : (s.setTmp v).hif = s.hif := rfl
@[simp] theorem State.setTmp_spi0 : (s.setTmp v).spi0 = s.spi0 := rfl
@[simp] theorem State.setTmp_spi1 : (s.setTmp v).spi1 = s.spi1 := rfl
@[simp] theorem State.setTmp_flash : (s.setTmp v).flash = s.flash := rfl
@[simp] theorem State.setTmp_tmp : (s.setTmp v).tmp = v := rfl
@[simp] theorem State.setTmp_snf : (s.setTmp v).snf = s.snf := rfl
@[simp] theorem State.setTmp_evr : (s.setTmp v).evr = s.evr := rfl
@[simp] theorem State.setTmp_upd : (s.setTmp v).upd = s.upd := rfl
@[simp] theorem State.setTmp_flt : (s.setTmp v).flt = s.flt := rfl
@[simp] theorem State.setTmp_cores : (s.setTmp v).cores = s.cores := rfl
@[simp] theorem State.setTmp_sram : (s.setTmp v).sram = s.sram := rfl
@[simp] theorem State.setTmp_free : (s.setTmp v).free = s.free := rfl
@[simp] theorem State.setTmp_pending : (s.setTmp v).pending = s.pending := rfl
end

section
variable (s : State) (v : Snf)
@[simp] theorem State.setSnf_glb : (s.setSnf v).glb = s.glb := rfl
@[simp] theorem State.setSnf_mode : (s.setSnf v).mode = s.mode := rfl
@[simp] theorem State.setSnf_clk : (s.setSnf v).clk = s.clk := rfl
@[simp] theorem State.setSnf_fus : (s.setSnf v).fus = s.fus := rfl
@[simp] theorem State.setSnf_cfg : (s.setSnf v).cfg = s.cfg := rfl
@[simp] theorem State.setSnf_mpu : (s.setSnf v).mpu = s.mpu := rfl
@[simp] theorem State.setSnf_fwl : (s.setSnf v).fwl = s.fwl := rfl
@[simp] theorem State.setSnf_vlt : (s.setSnf v).vlt = s.vlt := rfl
@[simp] theorem State.setSnf_cus : (s.setSnf v).cus = s.cus := rfl
@[simp] theorem State.setSnf_can0 : (s.setSnf v).can0 = s.can0 := rfl
@[simp] theorem State.setSnf_can1 : (s.setSnf v).can1 = s.can1 := rfl
@[simp] theorem State.setSnf_voe : (s.setSnf v).voe = s.voe := rfl
@[simp] theorem State.setSnf_eng : (s.setSnf v).eng = s.eng := rfl
@[simp] theorem State.setSnf_pke : (s.setSnf v).pke = s.pke := rfl
@[simp] theorem State.setSnf_rng : (s.setSnf v).rng = s.rng := rfl
@[simp] theorem State.setSnf_hif : (s.setSnf v).hif = s.hif := rfl
@[simp] theorem State.setSnf_spi0 : (s.setSnf v).spi0 = s.spi0 := rfl
@[simp] theorem State.setSnf_spi1 : (s.setSnf v).spi1 = s.spi1 := rfl
@[simp] theorem State.setSnf_flash : (s.setSnf v).flash = s.flash := rfl
@[simp] theorem State.setSnf_tmp : (s.setSnf v).tmp = s.tmp := rfl
@[simp] theorem State.setSnf_snf : (s.setSnf v).snf = v := rfl
@[simp] theorem State.setSnf_evr : (s.setSnf v).evr = s.evr := rfl
@[simp] theorem State.setSnf_upd : (s.setSnf v).upd = s.upd := rfl
@[simp] theorem State.setSnf_flt : (s.setSnf v).flt = s.flt := rfl
@[simp] theorem State.setSnf_cores : (s.setSnf v).cores = s.cores := rfl
@[simp] theorem State.setSnf_sram : (s.setSnf v).sram = s.sram := rfl
@[simp] theorem State.setSnf_free : (s.setSnf v).free = s.free := rfl
@[simp] theorem State.setSnf_pending : (s.setSnf v).pending = s.pending := rfl
end

section
variable (s : State) (v : Evr)
@[simp] theorem State.setEvr_glb : (s.setEvr v).glb = s.glb := rfl
@[simp] theorem State.setEvr_mode : (s.setEvr v).mode = s.mode := rfl
@[simp] theorem State.setEvr_clk : (s.setEvr v).clk = s.clk := rfl
@[simp] theorem State.setEvr_fus : (s.setEvr v).fus = s.fus := rfl
@[simp] theorem State.setEvr_cfg : (s.setEvr v).cfg = s.cfg := rfl
@[simp] theorem State.setEvr_mpu : (s.setEvr v).mpu = s.mpu := rfl
@[simp] theorem State.setEvr_fwl : (s.setEvr v).fwl = s.fwl := rfl
@[simp] theorem State.setEvr_vlt : (s.setEvr v).vlt = s.vlt := rfl
@[simp] theorem State.setEvr_cus : (s.setEvr v).cus = s.cus := rfl
@[simp] theorem State.setEvr_can0 : (s.setEvr v).can0 = s.can0 := rfl
@[simp] theorem State.setEvr_can1 : (s.setEvr v).can1 = s.can1 := rfl
@[simp] theorem State.setEvr_voe : (s.setEvr v).voe = s.voe := rfl
@[simp] theorem State.setEvr_eng : (s.setEvr v).eng = s.eng := rfl
@[simp] theorem State.setEvr_pke : (s.setEvr v).pke = s.pke := rfl
@[simp] theorem State.setEvr_rng : (s.setEvr v).rng = s.rng := rfl
@[simp] theorem State.setEvr_hif : (s.setEvr v).hif = s.hif := rfl
@[simp] theorem State.setEvr_spi0 : (s.setEvr v).spi0 = s.spi0 := rfl
@[simp] theorem State.setEvr_spi1 : (s.setEvr v).spi1 = s.spi1 := rfl
@[simp] theorem State.setEvr_flash : (s.setEvr v).flash = s.flash := rfl
@[simp] theorem State.setEvr_tmp : (s.setEvr v).tmp = s.tmp := rfl
@[simp] theorem State.setEvr_snf : (s.setEvr v).snf = s.snf := rfl
@[simp] theorem State.setEvr_evr : (s.setEvr v).evr = v := rfl
@[simp] theorem State.setEvr_upd : (s.setEvr v).upd = s.upd := rfl
@[simp] theorem State.setEvr_flt : (s.setEvr v).flt = s.flt := rfl
@[simp] theorem State.setEvr_cores : (s.setEvr v).cores = s.cores := rfl
@[simp] theorem State.setEvr_sram : (s.setEvr v).sram = s.sram := rfl
@[simp] theorem State.setEvr_free : (s.setEvr v).free = s.free := rfl
@[simp] theorem State.setEvr_pending : (s.setEvr v).pending = s.pending := rfl
end

section
variable (s : State) (v : Upd)
@[simp] theorem State.setUpd_glb : (s.setUpd v).glb = s.glb := rfl
@[simp] theorem State.setUpd_mode : (s.setUpd v).mode = s.mode := rfl
@[simp] theorem State.setUpd_clk : (s.setUpd v).clk = s.clk := rfl
@[simp] theorem State.setUpd_fus : (s.setUpd v).fus = s.fus := rfl
@[simp] theorem State.setUpd_cfg : (s.setUpd v).cfg = s.cfg := rfl
@[simp] theorem State.setUpd_mpu : (s.setUpd v).mpu = s.mpu := rfl
@[simp] theorem State.setUpd_fwl : (s.setUpd v).fwl = s.fwl := rfl
@[simp] theorem State.setUpd_vlt : (s.setUpd v).vlt = s.vlt := rfl
@[simp] theorem State.setUpd_cus : (s.setUpd v).cus = s.cus := rfl
@[simp] theorem State.setUpd_can0 : (s.setUpd v).can0 = s.can0 := rfl
@[simp] theorem State.setUpd_can1 : (s.setUpd v).can1 = s.can1 := rfl
@[simp] theorem State.setUpd_voe : (s.setUpd v).voe = s.voe := rfl
@[simp] theorem State.setUpd_eng : (s.setUpd v).eng = s.eng := rfl
@[simp] theorem State.setUpd_pke : (s.setUpd v).pke = s.pke := rfl
@[simp] theorem State.setUpd_rng : (s.setUpd v).rng = s.rng := rfl
@[simp] theorem State.setUpd_hif : (s.setUpd v).hif = s.hif := rfl
@[simp] theorem State.setUpd_spi0 : (s.setUpd v).spi0 = s.spi0 := rfl
@[simp] theorem State.setUpd_spi1 : (s.setUpd v).spi1 = s.spi1 := rfl
@[simp] theorem State.setUpd_flash : (s.setUpd v).flash = s.flash := rfl
@[simp] theorem State.setUpd_tmp : (s.setUpd v).tmp = s.tmp := rfl
@[simp] theorem State.setUpd_snf : (s.setUpd v).snf = s.snf := rfl
@[simp] theorem State.setUpd_evr : (s.setUpd v).evr = s.evr := rfl
@[simp] theorem State.setUpd_upd : (s.setUpd v).upd = v := rfl
@[simp] theorem State.setUpd_flt : (s.setUpd v).flt = s.flt := rfl
@[simp] theorem State.setUpd_cores : (s.setUpd v).cores = s.cores := rfl
@[simp] theorem State.setUpd_sram : (s.setUpd v).sram = s.sram := rfl
@[simp] theorem State.setUpd_free : (s.setUpd v).free = s.free := rfl
@[simp] theorem State.setUpd_pending : (s.setUpd v).pending = s.pending := rfl
end

section
variable (s : State) (v : Flt)
@[simp] theorem State.setFlt_glb : (s.setFlt v).glb = s.glb := rfl
@[simp] theorem State.setFlt_mode : (s.setFlt v).mode = s.mode := rfl
@[simp] theorem State.setFlt_clk : (s.setFlt v).clk = s.clk := rfl
@[simp] theorem State.setFlt_fus : (s.setFlt v).fus = s.fus := rfl
@[simp] theorem State.setFlt_cfg : (s.setFlt v).cfg = s.cfg := rfl
@[simp] theorem State.setFlt_mpu : (s.setFlt v).mpu = s.mpu := rfl
@[simp] theorem State.setFlt_fwl : (s.setFlt v).fwl = s.fwl := rfl
@[simp] theorem State.setFlt_vlt : (s.setFlt v).vlt = s.vlt := rfl
@[simp] theorem State.setFlt_cus : (s.setFlt v).cus = s.cus := rfl
@[simp] theorem State.setFlt_can0 : (s.setFlt v).can0 = s.can0 := rfl
@[simp] theorem State.setFlt_can1 : (s.setFlt v).can1 = s.can1 := rfl
@[simp] theorem State.setFlt_voe : (s.setFlt v).voe = s.voe := rfl
@[simp] theorem State.setFlt_eng : (s.setFlt v).eng = s.eng := rfl
@[simp] theorem State.setFlt_pke : (s.setFlt v).pke = s.pke := rfl
@[simp] theorem State.setFlt_rng : (s.setFlt v).rng = s.rng := rfl
@[simp] theorem State.setFlt_hif : (s.setFlt v).hif = s.hif := rfl
@[simp] theorem State.setFlt_spi0 : (s.setFlt v).spi0 = s.spi0 := rfl
@[simp] theorem State.setFlt_spi1 : (s.setFlt v).spi1 = s.spi1 := rfl
@[simp] theorem State.setFlt_flash : (s.setFlt v).flash = s.flash := rfl
@[simp] theorem State.setFlt_tmp : (s.setFlt v).tmp = s.tmp := rfl
@[simp] theorem State.setFlt_snf : (s.setFlt v).snf = s.snf := rfl
@[simp] theorem State.setFlt_evr : (s.setFlt v).evr = s.evr := rfl
@[simp] theorem State.setFlt_upd : (s.setFlt v).upd = s.upd := rfl
@[simp] theorem State.setFlt_flt : (s.setFlt v).flt = v := rfl
@[simp] theorem State.setFlt_cores : (s.setFlt v).cores = s.cores := rfl
@[simp] theorem State.setFlt_sram : (s.setFlt v).sram = s.sram := rfl
@[simp] theorem State.setFlt_free : (s.setFlt v).free = s.free := rfl
@[simp] theorem State.setFlt_pending : (s.setFlt v).pending = s.pending := rfl
end

section
variable (s : State) (v : Cores)
@[simp] theorem State.setCores_glb : (s.setCores v).glb = s.glb := rfl
@[simp] theorem State.setCores_mode : (s.setCores v).mode = s.mode := rfl
@[simp] theorem State.setCores_clk : (s.setCores v).clk = s.clk := rfl
@[simp] theorem State.setCores_fus : (s.setCores v).fus = s.fus := rfl
@[simp] theorem State.setCores_cfg : (s.setCores v).cfg = s.cfg := rfl
@[simp] theorem State.setCores_mpu : (s.setCores v).mpu = s.mpu := rfl
@[simp] theorem State.setCores_fwl : (s.setCores v).fwl = s.fwl := rfl
@[simp] theorem State.setCores_vlt : (s.setCores v).vlt = s.vlt := rfl
@[simp] theorem State.setCores_cus : (s.setCores v).cus = s.cus := rfl
@[simp] theorem State.setCores_can0 : (s.setCores v).can0 = s.can0 := rfl
@[simp] theorem State.setCores_can1 : (s.setCores v).can1 = s.can1 := rfl
@[simp] theorem State.setCores_voe : (s.setCores v).voe = s.voe := rfl
@[simp] theorem State.setCores_eng : (s.setCores v).eng = s.eng := rfl
@[simp] theorem State.setCores_pke : (s.setCores v).pke = s.pke := rfl
@[simp] theorem State.setCores_rng : (s.setCores v).rng = s.rng := rfl
@[simp] theorem State.setCores_hif : (s.setCores v).hif = s.hif := rfl
@[simp] theorem State.setCores_spi0 : (s.setCores v).spi0 = s.spi0 := rfl
@[simp] theorem State.setCores_spi1 : (s.setCores v).spi1 = s.spi1 := rfl
@[simp] theorem State.setCores_flash : (s.setCores v).flash = s.flash := rfl
@[simp] theorem State.setCores_tmp : (s.setCores v).tmp = s.tmp := rfl
@[simp] theorem State.setCores_snf : (s.setCores v).snf = s.snf := rfl
@[simp] theorem State.setCores_evr : (s.setCores v).evr = s.evr := rfl
@[simp] theorem State.setCores_upd : (s.setCores v).upd = s.upd := rfl
@[simp] theorem State.setCores_flt : (s.setCores v).flt = s.flt := rfl
@[simp] theorem State.setCores_cores : (s.setCores v).cores = v := rfl
@[simp] theorem State.setCores_sram : (s.setCores v).sram = s.sram := rfl
@[simp] theorem State.setCores_free : (s.setCores v).free = s.free := rfl
@[simp] theorem State.setCores_pending : (s.setCores v).pending = s.pending := rfl
end

section
variable (s : State) (v : Tab Byte)
@[simp] theorem State.setSram_glb : (s.setSram v).glb = s.glb := rfl
@[simp] theorem State.setSram_mode : (s.setSram v).mode = s.mode := rfl
@[simp] theorem State.setSram_clk : (s.setSram v).clk = s.clk := rfl
@[simp] theorem State.setSram_fus : (s.setSram v).fus = s.fus := rfl
@[simp] theorem State.setSram_cfg : (s.setSram v).cfg = s.cfg := rfl
@[simp] theorem State.setSram_mpu : (s.setSram v).mpu = s.mpu := rfl
@[simp] theorem State.setSram_fwl : (s.setSram v).fwl = s.fwl := rfl
@[simp] theorem State.setSram_vlt : (s.setSram v).vlt = s.vlt := rfl
@[simp] theorem State.setSram_cus : (s.setSram v).cus = s.cus := rfl
@[simp] theorem State.setSram_can0 : (s.setSram v).can0 = s.can0 := rfl
@[simp] theorem State.setSram_can1 : (s.setSram v).can1 = s.can1 := rfl
@[simp] theorem State.setSram_voe : (s.setSram v).voe = s.voe := rfl
@[simp] theorem State.setSram_eng : (s.setSram v).eng = s.eng := rfl
@[simp] theorem State.setSram_pke : (s.setSram v).pke = s.pke := rfl
@[simp] theorem State.setSram_rng : (s.setSram v).rng = s.rng := rfl
@[simp] theorem State.setSram_hif : (s.setSram v).hif = s.hif := rfl
@[simp] theorem State.setSram_spi0 : (s.setSram v).spi0 = s.spi0 := rfl
@[simp] theorem State.setSram_spi1 : (s.setSram v).spi1 = s.spi1 := rfl
@[simp] theorem State.setSram_flash : (s.setSram v).flash = s.flash := rfl
@[simp] theorem State.setSram_tmp : (s.setSram v).tmp = s.tmp := rfl
@[simp] theorem State.setSram_snf : (s.setSram v).snf = s.snf := rfl
@[simp] theorem State.setSram_evr : (s.setSram v).evr = s.evr := rfl
@[simp] theorem State.setSram_upd : (s.setSram v).upd = s.upd := rfl
@[simp] theorem State.setSram_flt : (s.setSram v).flt = s.flt := rfl
@[simp] theorem State.setSram_cores : (s.setSram v).cores = s.cores := rfl
@[simp] theorem State.setSram_sram : (s.setSram v).sram = v := rfl
@[simp] theorem State.setSram_free : (s.setSram v).free = s.free := rfl
@[simp] theorem State.setSram_pending : (s.setSram v).pending = s.pending := rfl
end

section
variable (s : State) (v : Nat)
@[simp] theorem State.setFree_glb : (s.setFree v).glb = s.glb := rfl
@[simp] theorem State.setFree_mode : (s.setFree v).mode = s.mode := rfl
@[simp] theorem State.setFree_clk : (s.setFree v).clk = s.clk := rfl
@[simp] theorem State.setFree_fus : (s.setFree v).fus = s.fus := rfl
@[simp] theorem State.setFree_cfg : (s.setFree v).cfg = s.cfg := rfl
@[simp] theorem State.setFree_mpu : (s.setFree v).mpu = s.mpu := rfl
@[simp] theorem State.setFree_fwl : (s.setFree v).fwl = s.fwl := rfl
@[simp] theorem State.setFree_vlt : (s.setFree v).vlt = s.vlt := rfl
@[simp] theorem State.setFree_cus : (s.setFree v).cus = s.cus := rfl
@[simp] theorem State.setFree_can0 : (s.setFree v).can0 = s.can0 := rfl
@[simp] theorem State.setFree_can1 : (s.setFree v).can1 = s.can1 := rfl
@[simp] theorem State.setFree_voe : (s.setFree v).voe = s.voe := rfl
@[simp] theorem State.setFree_eng : (s.setFree v).eng = s.eng := rfl
@[simp] theorem State.setFree_pke : (s.setFree v).pke = s.pke := rfl
@[simp] theorem State.setFree_rng : (s.setFree v).rng = s.rng := rfl
@[simp] theorem State.setFree_hif : (s.setFree v).hif = s.hif := rfl
@[simp] theorem State.setFree_spi0 : (s.setFree v).spi0 = s.spi0 := rfl
@[simp] theorem State.setFree_spi1 : (s.setFree v).spi1 = s.spi1 := rfl
@[simp] theorem State.setFree_flash : (s.setFree v).flash = s.flash := rfl
@[simp] theorem State.setFree_tmp : (s.setFree v).tmp = s.tmp := rfl
@[simp] theorem State.setFree_snf : (s.setFree v).snf = s.snf := rfl
@[simp] theorem State.setFree_evr : (s.setFree v).evr = s.evr := rfl
@[simp] theorem State.setFree_upd : (s.setFree v).upd = s.upd := rfl
@[simp] theorem State.setFree_flt : (s.setFree v).flt = s.flt := rfl
@[simp] theorem State.setFree_cores : (s.setFree v).cores = s.cores := rfl
@[simp] theorem State.setFree_sram : (s.setFree v).sram = s.sram := rfl
@[simp] theorem State.setFree_free : (s.setFree v).free = v := rfl
@[simp] theorem State.setFree_pending : (s.setFree v).pending = s.pending := rfl
end

section
variable (s : State) (v : List Instr)
@[simp] theorem State.setPending_glb : (s.setPending v).glb = s.glb := rfl
@[simp] theorem State.setPending_mode : (s.setPending v).mode = s.mode := rfl
@[simp] theorem State.setPending_clk : (s.setPending v).clk = s.clk := rfl
@[simp] theorem State.setPending_fus : (s.setPending v).fus = s.fus := rfl
@[simp] theorem State.setPending_cfg : (s.setPending v).cfg = s.cfg := rfl
@[simp] theorem State.setPending_mpu : (s.setPending v).mpu = s.mpu := rfl
@[simp] theorem State.setPending_fwl : (s.setPending v).fwl = s.fwl := rfl
@[simp] theorem State.setPending_vlt : (s.setPending v).vlt = s.vlt := rfl
@[simp] theorem State.setPending_cus : (s.setPending v).cus = s.cus := rfl
@[simp] theorem State.setPending_can0 : (s.setPending v).can0 = s.can0 := rfl
@[simp] theorem State.setPending_can1 : (s.setPending v).can1 = s.can1 := rfl
@[simp] theorem State.setPending_voe : (s.setPending v).voe = s.voe := rfl
@[simp] theorem State.setPending_eng : (s.setPending v).eng = s.eng := rfl
@[simp] theorem State.setPending_pke : (s.setPending v).pke = s.pke := rfl
@[simp] theorem State.setPending_rng : (s.setPending v).rng = s.rng := rfl
@[simp] theorem State.setPending_hif : (s.setPending v).hif = s.hif := rfl
@[simp] theorem State.setPending_spi0 : (s.setPending v).spi0 = s.spi0 := rfl
@[simp] theorem State.setPending_spi1 : (s.setPending v).spi1 = s.spi1 := rfl
@[simp] theorem State.setPending_flash : (s.setPending v).flash = s.flash := rfl
@[simp] theorem State.setPending_tmp : (s.setPending v).tmp = s.tmp := rfl
@[simp] theorem State.setPending_snf : (s.setPending v).snf = s.snf := rfl
@[simp] theorem State.setPending_evr : (s.setPending v).evr = s.evr := rfl
@[simp] theorem State.setPending_upd : (s.setPending v).upd = s.upd := rfl
@[simp] theorem State.setPending_flt : (s.setPending v).flt = s.flt := rfl
@[simp] theorem State.setPending_cores : (s.setPending v).cores = s.cores := rfl
@[simp] theorem State.setPending_sram : (s.setPending v).sram = s.sram := rfl
@[simp] theorem State.setPending_free : (s.setPending v).free = s.free := rfl
@[simp] theorem State.setPending_pending : (s.setPending v).pending = v := rfl
end

end Sys2Proof.Machine
end

