-- ==== Sys2Proof/Laws/Tab.lean ====
section
/-! SUPPORT. The laws of sparse tables: a read after a write at the same key gives the value, a write leaves every
other key alone, and every operation keeps the canonical form. -/
namespace Sys2Proof.Machine

variable {α : Type}

theorem tget_tdel_same (d : α) (t : Tab α) (k : Nat) : tget d (tdel t k) k = d := by
  induction t with
  | nil => rfl
  | cons p t ih => obtain ⟨j, v⟩ := p; by_cases h : j = k <;> simp [tdel, tget, h, ih]

theorem tget_tdel_ne (d : α) (t : Tab α) {k j : Nat} (h : j ≠ k) : tget d (tdel t k) j = tget d t j := by
  induction t with
  | nil => rfl
  | cons p t ih =>
    obtain ⟨i, v⟩ := p
    by_cases hi : i = k
    · subst hi; simp [tdel, tget, ih, Ne.symm h]
    · simp only [tdel, hi, if_false, tget, ih]

theorem tget_tins_same (d : α) (t : Tab α) (k : Nat) (v : α) (h : ∀ w, (k, w) ∉ t) :
    tget d (tins t k v) k = v := by
  induction t with
  | nil => simp [tins, tget]
  | cons p t ih =>
    obtain ⟨j, w⟩ := p
    have hj : j ≠ k := fun e => h w (by simp [e])
    by_cases hlt : k < j
    · simp [tins, tget, hlt]
    · simp [tins, tget, hlt, hj]; exact ih fun w hw => h w (by simp [hw])

theorem tget_tins_ne (d : α) (t : Tab α) {k j : Nat} (v : α) (h : j ≠ k) :
    tget d (tins t k v) j = tget d t j := by
  induction t with
  | nil => simp [tins, tget, Ne.symm h]
  | cons p t ih =>
    obtain ⟨i, w⟩ := p
    by_cases hlt : k < i
    · simp [tins, tget, hlt, Ne.symm h]
    · simp only [tins, hlt, if_false, tget, ih]

theorem not_mem_tdel (t : Tab α) (k : Nat) (w : α) : (k, w) ∉ tdel t k := by
  induction t with
  | nil => simp [tdel]
  | cons p t ih =>
    obtain ⟨j, v⟩ := p
    by_cases h : j = k
    · simp [tdel, h, ih]
    · simp [tdel, h, ih, Ne.symm h]

/-- A read after a write at the same key gives the value written. -/
@[simp] theorem tget_tput_same [DecidableEq α] (d : α) (t : Tab α) (k : Nat) (v : α) :
    tget d (tput d t k v) k = v := by
  by_cases h : v = d
  · simp [tput, h, tget_tdel_same]
  · simp [tput, h, tget_tins_same d _ k v (not_mem_tdel t k)]

/-- A write leaves every other key alone. -/
theorem tget_tput_ne [DecidableEq α] (d : α) (t : Tab α) {k j : Nat} (v : α) (h : j ≠ k) :
    tget d (tput d t k v) j = tget d t j := by
  by_cases hv : v = d
  · simp [tput, hv, tget_tdel_ne d t h]
  · simp [tput, hv, tget_tins_ne d _ v h, tget_tdel_ne d t h]

@[simp] theorem tget_nil (d : α) (k : Nat) : tget d [] k = d := rfl

theorem tabove_mono {i k : Nat} (h : i ≤ k) (t : Tab α) (ht : tabove k t = true) : tabove i t = true := by
  cases t with
  | nil => rfl
  | cons p t => obtain ⟨j, v⟩ := p; simp [tabove] at *; exact ⟨by omega, ht.2⟩

theorem tsorted_of_tabove {k : Nat} {t : Tab α} (h : tabove k t = true) : tsorted t = true := by
  cases t with
  | nil => rfl
  | cons p t => obtain ⟨j, v⟩ := p; simp [tabove, tsorted] at *; exact h.2

theorem tabove_tdel {k : Nat} (t : Tab α) (j : Nat) (h : tabove k t = true) : tabove k (tdel t j) = true := by
  induction t generalizing k with
  | nil => rfl
  | cons p t ih =>
    obtain ⟨i, v⟩ := p
    simp [tabove] at h
    by_cases hi : i = j
    · simpa [tdel, hi] using ih (tabove_mono (Nat.le_of_lt h.1) t h.2)
    · simp [tdel, hi, tabove, h.1, ih h.2]

theorem tsorted_tdel (t : Tab α) (k : Nat) (h : tsorted t = true) : tsorted (tdel t k) = true := by
  cases t with
  | nil => rfl
  | cons p t =>
    obtain ⟨j, v⟩ := p
    simp [tsorted] at h
    by_cases hj : j = k
    · simpa [tdel, hj] using tsorted_of_tabove (tabove_tdel t k h)
    · simpa [tdel, hj, tsorted] using tabove_tdel t k h

theorem tabove_tins {i k : Nat} (t : Tab α) (v : α) (h : tabove i t = true) (hk : i < k) (hn : ∀ w, (k, w) ∉ t) :
    tabove i (tins t k v) = true := by
  induction t generalizing i with
  | nil => simp [tins, tabove, hk]
  | cons p t ih =>
    obtain ⟨j, w⟩ := p
    have hj : j ≠ k := fun e => hn w (by simp [e])
    simp [tabove] at h
    by_cases hlt : k < j
    · simp [tins, hlt, tabove, hk, h.2]
    · simp [tins, hlt, tabove, h.1, ih h.2 (by omega) fun w hw => hn w (by simp [hw])]

theorem tsorted_tins (t : Tab α) (k : Nat) (v : α) (h : tsorted t = true) (hn : ∀ w, (k, w) ∉ t) :
    tsorted (tins t k v) = true := by
  cases t with
  | nil => rfl
  | cons p t =>
    obtain ⟨j, w⟩ := p
    have hj : j ≠ k := fun e => hn w (by simp [e])
    simp [tsorted] at h
    by_cases hlt : k < j
    · simp [tins, hlt, tsorted, tabove, h]
    · simpa [tins, hlt, tsorted] using tabove_tins t v h (by omega) fun w hw => hn w (by simp [hw])

theorem mem_tdel {t : Tab α} {k : Nat} {p : Nat × α} (h : p ∈ tdel t k) : p ∈ t := by
  induction t with
  | nil => simp [tdel] at h
  | cons q t ih =>
    obtain ⟨j, v⟩ := q
    by_cases hj : j = k
    · simp [tdel, hj] at h; simp [ih h]
    · simp [tdel, hj] at h
      rcases h with h | h
      · simp [h]
      · simp [ih h]

theorem mem_tins {t : Tab α} {k : Nat} {v : α} {p : Nat × α} (h : p ∈ tins t k v) : p = (k, v) ∨ p ∈ t := by
  induction t with
  | nil => simpa [tins] using h
  | cons q t ih =>
    obtain ⟨j, w⟩ := q
    by_cases hlt : k < j
    · simpa [tins, hlt] using h
    · simp only [tins, hlt, if_false, List.mem_cons] at h
      rcases h with h | h
      · simp [h]
      · rcases ih h with h | h <;> simp [h]

/-- A write keeps the canonical form. -/
theorem twf_tput [DecidableEq α] (d : α) (t : Tab α) (k : Nat) (v : α) (h : twf d t = true) :
    twf d (tput d t k v) = true := by
  simp only [twf, Bool.and_eq_true, List.all_eq_true, decide_eq_true_eq] at *
  by_cases hv : v = d
  · simp only [tput, hv, if_true]
    exact ⟨tsorted_tdel t k h.1, fun p hp => h.2 p (mem_tdel hp)⟩
  · simp only [tput, hv, if_false]
    refine ⟨tsorted_tins _ k v (tsorted_tdel t k h.1) (not_mem_tdel t k), fun p hp => ?_⟩
    rcases mem_tins hp with rfl | hp
    · exact hv
    · exact h.2 p (mem_tdel hp)

theorem twf_tputN [DecidableEq α] (d : α) (t : Tab α) (k : Nat) (vs : List α) (h : twf d t = true) :
    twf d (tputN d t k vs) = true := by
  induction vs generalizing t k with
  | nil => exact h
  | cons v vs ih => exact ih _ _ (twf_tput d t k v h)

theorem tsorted_filter (t : Tab α) (f : Nat × α → Bool) (h : tsorted t = true) : tsorted (t.filter f) = true := by
  have aux : ∀ (t : Tab α) (k : Nat), tabove k t = true → tabove k (t.filter f) = true := by
    intro t
    induction t with
    | nil => intro k h; exact h
    | cons p t ih =>
      obtain ⟨j, v⟩ := p
      intro k h
      simp only [tabove, Bool.and_eq_true, decide_eq_true_eq] at h
      by_cases hf : f (j, v) = true
      · simp [hf, tabove, h.1, ih j h.2]
      · simpa [hf] using ih k (tabove_mono (Nat.le_of_lt h.1) t h.2)
  cases t with
  | nil => rfl
  | cons p t =>
    obtain ⟨j, v⟩ := p
    by_cases hf : f (j, v) = true
    · simpa [hf, tsorted] using aux t j h
    · simpa [hf] using tsorted_of_tabove (aux t j h)

theorem twf_filter [DecidableEq α] (d : α) (t : Tab α) (f : Nat × α → Bool) (h : twf d t = true) :
    twf d (t.filter f) = true := by
  simp only [twf, Bool.and_eq_true, List.all_eq_true] at *
  exact ⟨tsorted_filter t _ h.1, fun p hp => h.2 p (List.mem_of_mem_filter hp)⟩

theorem twf_tclear [DecidableEq α] (d : α) (t : Tab α) (k n : Nat) (h : twf d t = true) :
    twf d (tclear t k n) = true := by
  simp only [twf, Bool.and_eq_true, List.all_eq_true, tclear] at *
  exact ⟨tsorted_filter t _ h.1, fun p hp => h.2 p (List.mem_of_mem_filter hp)⟩

/-- A write of several values leaves every key outside them alone. -/
theorem tget_tputN_ne [DecidableEq α] (d : α) (t : Tab α) (k j : Nat) (vs : List α)
    (h : j < k ∨ k + vs.length ≤ j) : tget d (tputN d t k vs) j = tget d t j := by
  induction vs generalizing t k with
  | nil => rfl
  | cons v vs ih =>
    simp only [List.length_cons] at h
    rw [tputN, ih _ _ (by omega), tget_tput_ne d t v (by omega)]

end Sys2Proof.Machine
end

