-- ==== Sys2Proof/Laws/KeepsBase.lean ====
section
/-! SUPPORT. Keeps for the setters and the folds. -/
namespace Sys2Proof.Machine

theorem Keeps.refl (s : State) : Keeps s s := ⟨rfl, id, id, fun _ => ⟨_, rfl⟩⟩

section
variable {z s : State}
theorem keeps_blkMode {v : ModeSt} (h : Keeps z s) : Keeps z (s.setMode v) := ⟨h.1, h.2, h.3, h.4⟩
theorem keeps_blkClk {v : Clk} (h : Keeps z s) : Keeps z (s.setClk v) := ⟨h.1, h.2, h.3, h.4⟩
theorem keeps_blkFus {v : Fus} (h : Keeps z s) : Keeps z (s.setFus v) := ⟨h.1, h.2, h.3, h.4⟩
theorem keeps_blkCfg {v : Cfg} (h : Keeps z s) : Keeps z (s.setCfg v) := ⟨h.1, h.2, h.3, h.4⟩
theorem keeps_blkMpu {v : MpuSt} (h : Keeps z s) : Keeps z (s.setMpu v) := ⟨h.1, h.2, h.3, h.4⟩
theorem keeps_blkFwl {v : Fwl} (h : Keeps z s) : Keeps z (s.setFwl v) := ⟨h.1, h.2, h.3, h.4⟩
theorem keeps_blkVlt {v : Vlt} (h : Keeps z s) : Keeps z (s.setVlt v) := ⟨h.1, h.2, h.3, h.4⟩
theorem keeps_blkCan0 {v : CanCh} (h : Keeps z s) : Keeps z (s.setCan0 v) := ⟨h.1, h.2, h.3, h.4⟩
theorem keeps_blkCan1 {v : CanCh} (h : Keeps z s) : Keeps z (s.setCan1 v) := ⟨h.1, h.2, h.3, h.4⟩
theorem keeps_blkVoe {v : Voe} (h : Keeps z s) : Keeps z (s.setVoe v) := ⟨h.1, h.2, h.3, h.4⟩
theorem keeps_blkEng {v : Eng} (h : Keeps z s) : Keeps z (s.setEng v) := ⟨h.1, h.2, h.3, h.4⟩
theorem keeps_blkPke {v : Pke} (h : Keeps z s) : Keeps z (s.setPke v) := ⟨h.1, h.2, h.3, h.4⟩
theorem keeps_blkRng {v : Rng} (h : Keeps z s) : Keeps z (s.setRng v) := ⟨h.1, h.2, h.3, h.4⟩
theorem keeps_blkHif {v : Hif} (h : Keeps z s) : Keeps z (s.setHif v) := ⟨h.1, h.2, h.3, h.4⟩
theorem keeps_blkSpi0 {v : Spi0} (h : Keeps z s) : Keeps z (s.setSpi0 v) := ⟨h.1, h.2, h.3, h.4⟩
theorem keeps_blkSpi1 {v : Spi1} (h : Keeps z s) : Keeps z (s.setSpi1 v) := ⟨h.1, h.2, h.3, h.4⟩
theorem keeps_blkTmp {v : Tmp} (h : Keeps z s) : Keeps z (s.setTmp v) := ⟨h.1, h.2, h.3, h.4⟩
theorem keeps_blkSnf {v : Snf} (h : Keeps z s) : Keeps z (s.setSnf v) := ⟨h.1, h.2, h.3, h.4⟩
theorem keeps_blkEvr {v : Evr} (h : Keeps z s) : Keeps z (s.setEvr v) := ⟨h.1, h.2, h.3, h.4⟩
theorem keeps_blkUpd {v : Upd} (h : Keeps z s) : Keeps z (s.setUpd v) := ⟨h.1, h.2, h.3, h.4⟩
theorem keeps_blkFlt {v : Flt} (h : Keeps z s) : Keeps z (s.setFlt v) := ⟨h.1, h.2, h.3, h.4⟩
theorem keeps_blkCores {v : Cores} (h : Keeps z s) : Keeps z (s.setCores v) := ⟨h.1, h.2, h.3, h.4⟩
theorem keeps_blkFree {v : Nat} (h : Keeps z s) : Keeps z (s.setFree v) := ⟨h.1, h.2, h.3, h.4⟩
theorem keeps_blkGlb {v : Glb} (h : Keeps z s) (hc : v.caps = s.glb.caps) (hb : v.bud = s.glb.bud) :
    Keeps z (s.setGlb v) := by
  refine ⟨h.1, h.2, fun hz => ?_, h.4⟩
  have := h.3 hz
  simpa [State.groupsOk, hc, hb] using this

/-- The latch marked as used, or not, or cleared. -/
theorem keeps_blkCusUsed {v : Cus} (h : Keeps z s)
    (hl : v.latch.isSet = true → ∃ u, v.latch = { s.cus.latch with used := u }) : Keeps z (s.setCus v) :=
  ⟨h.1, h.2, h.3, fun hv => by
    obtain ⟨u, e⟩ := hl hv
    have hs : s.cus.latch.isSet = true := by rw [State.setCus_cus, e] at hv; exact hv
    obtain ⟨w, k⟩ := h.4 hs
    exact ⟨u, by rw [State.setCus_cus, e, k]⟩⟩

theorem keeps_blkCus {v : Cus} (h : Keeps z s) (hl : v.latch.isSet = true → v.latch = s.cus.latch) :
    Keeps z (s.setCus v) := keeps_blkCusUsed h fun hv => ⟨s.cus.latch.used, hl hv⟩

theorem keeps_blkSram {v : Tab Byte} (h : Keeps z s) (hv : twf 0 s.sram = true → twf 0 v = true) :
    Keeps z (s.setSram v) :=
  ⟨h.1, fun hz => by have := h.2 hz; simp [State.memWf] at *; exact ⟨hv this.1, this.2⟩, h.3, h.4⟩

theorem keeps_blkFlash {v : Tab Byte} (h : Keeps z s) (hv : twf 0xFF s.flash = true → twf 0xFF v = true) :
    Keeps z (s.setFlash v) :=
  ⟨h.1, fun hz => by have := h.2 hz; simp [State.memWf] at *; exact ⟨this.1, hv this.2⟩, h.3, h.4⟩

/-- Groups made legal. -/
theorem keeps_blkGroups {v : Glb} (h : Keeps z s) (hc : v.caps = s.glb.caps ∨ v.caps.all (· ≤ 24) = true)
    (hb : v.bud = s.glb.bud ∨ budOk v.bud = true) : Keeps z (s.setGlb v) := by
  refine ⟨h.1, h.2, fun hz => ?_, h.4⟩
  have := h.3 hz
  simp only [State.groupsOk, State.setGlb_glb, Bool.and_eq_true] at *
  exact ⟨by rcases hc with e | e <;> simp_all, by rcases hb with e | e <;> simp_all⟩

theorem keeps_foldl {α : Type} {l : List α} {f : State → α → State}
    (hf : ∀ s a, Keeps z s → Keeps z (f s a)) (h : Keeps z s) : Keeps z (l.foldl f s) := by
  induction l generalizing s with
  | nil => exact h
  | cons a l ih => exact ih (hf s a h)

theorem keeps_ite {c : Prop} [Decidable c] {t : State} (h1 : c → Keeps z s) (h2 : ¬c → Keeps z t) :
    Keeps z (if c then s else t) := by
  split
  · exact h1 ‹_›
  · exact h2 ‹_›
end

/-- An answer of a host command keeps what Keeps says, also in what follows its completion. -/
structure AnsKeeps (z : State) (a : Ans) : Prop where
  st : Keeps z a.st
  after : ∀ s, Keeps z s → Keeps z (a.after s)

theorem keeps_id {z s : State} (h : Keeps z s) : Keeps z (id s) := h

theorem ansKeeps_mk {z s : State} {st : Nat} {dt : Half} {r : DWord} {v : Bool} {o : Bytes} {w : Option WaitTag}
    {f : State → State} (h : Keeps z s) (hf : ∀ t, Keeps z t → Keeps z (f t)) : AnsKeeps z ⟨s, st, dt, r, v, o, w, f⟩ :=
  ⟨h, hf⟩

/-- An optional state keeps it where there is one. -/
structure OptKeeps (z : State) (o : Option State) : Prop where
  of : ∀ t, o = some t → Keeps z t

theorem optKeeps_some {z t : State} (h : Keeps z t) : OptKeeps z (some t) := ⟨fun u e => by cases e; exact h⟩

theorem optKeeps_none {z : State} : OptKeeps z none := ⟨fun _ e => by cases e⟩

theorem optKeeps_getD {z s : State} {o : Option State} (h : OptKeeps z o) (hs : Keeps z s) : Keeps z (o.getD s) := by
  cases o with
  | none => exact hs
  | some t => exact h.of t rfl

theorem optKeeps_ite {z : State} {c : Prop} [Decidable c] {a b : Option State}
    (h1 : c → OptKeeps z a) (h2 : ¬c → OptKeeps z b) : OptKeeps z (if c then a else b) := by
  split
  · exact h1 ‹_›
  · exact h2 ‹_›

/-- A register write keeps it where it takes effect. -/
structure WrKeeps (z : State) (r : WrRes) : Prop where
  ok : ∀ t, r = .ok t → Keeps z t

/-- A command keeps it where it goes on. -/
structure OutKeeps (z : State) (o : Host.Outcome State Fault Refusal) : Prop where
  next : ∀ t, o = .next t → Keeps z t

theorem outKeeps_next {z t : State} (h : Keeps z t) : OutKeeps z (.next t) := ⟨fun u e => by cases e; exact h⟩

theorem outKeeps_ite {z : State} {c : Prop} [Decidable c] {a b : Host.Outcome State Fault Refusal}
    (h1 : c → OutKeeps z a) (h2 : ¬c → OutKeeps z b) : OutKeeps z (if c then a else b) := by
  split
  · exact h1 ‹_›
  · exact h2 ‹_›

theorem wrKeeps_ok {z t : State} (h : Keeps z t) : WrKeeps z (.ok t) := ⟨fun u e => by cases e; exact h⟩

theorem wrKeeps_bad {z : State} {n : Nat} : WrKeeps z (.bad n) := ⟨fun _ e => by cases e⟩

theorem wrKeeps_ite {z : State} {c : Prop} [Decidable c] {a b : WrRes}
    (h1 : c → WrKeeps z a) (h2 : ¬c → WrKeeps z b) : WrKeeps z (if c then a else b) := by
  split
  · exact h1 ‹_›
  · exact h2 ‹_›

theorem ansKeeps_ite {z : State} {c : Prop} [Decidable c] {a b : Ans}
    (h1 : c → AnsKeeps z a) (h2 : ¬c → AnsKeeps z b) : AnsKeeps z (if c then a else b) := by
  split
  · exact h1 ‹_›
  · exact h2 ‹_›

end Sys2Proof.Machine
end

