-- ==== Sys2Proof/Laws/KeepsEngines.lean ====
section
/-! SUPPORT. Keeps for the shared operations, rings, vault, engines and the database. -/
namespace Sys2Proof.Machine

/-! ### Machine/Ops.lean -/

theorem keeps_writeSec {z : State} {s : State} {bsec : Bool} {x : Entry} (hk : Keeps z s) :
    Keeps z (writeSec s bsec x) := by
  unfold writeSec
  try dsimp only
  repeat' first | (with_reducible first | assumption | rfl | intro _ | apply keeps_blkEvr | apply keeps_blkGlb | apply keeps_ite) | split

theorem keeps_writeDiag {z : State} {s : State} {x : Entry} (hk : Keeps z s) :
    Keeps z (writeDiag s x) := by
  unfold writeDiag
  try dsimp only
  repeat' first | (with_reducible first | assumption | rfl | intro _ | apply keeps_blkEvr | apply keeps_blkGlb | apply keeps_ite) | split

theorem keeps_report {z : State} {s : State} {e : Event} (hk : Keeps z s)  :
    Keeps z (report s e) := by
  unfold report
  repeat' first | (with_reducible first | assumption | rfl | intro _ | apply keeps_blkGlb | apply keeps_writeSec | apply keeps_ite) | split

theorem keeps_logD {z : State} {s : State} {b : Blk} {code : Nat} {arg : Bytes} (hk : Keeps z s)  :
    Keeps z (logD s b code arg) := by
  unfold logD
  repeat' first | (with_reducible first | assumption | rfl | intro _ | apply keeps_report) | split

theorem keeps_logS {z : State} {s : State} {b : Blk} {code : Nat} {arg : Bytes} (hk : Keeps z s)  :
    Keeps z (logS s b code arg) := by
  unfold logS
  repeat' first | (with_reducible first | assumption | rfl | intro _ | apply keeps_report) | split

theorem keeps_logSD {z : State} {s : State} {b : Blk} {code : Nat} {arg : Bytes} (hk : Keeps z s)  :
    Keeps z (logSD s b code arg) := by
  unfold logSD
  repeat' first | (with_reducible first | assumption | rfl | intro _ | apply keeps_report) | split

theorem keeps_logDW {z : State} {s : State} {b : Blk} {code who : Nat} {arg : Bytes} (hk : Keeps z s) :
    Keeps z (logDW s b code who arg) := by
  unfold logDW
  repeat' first | (with_reducible first | assumption | rfl | intro _ | apply keeps_report | apply keeps_ite) | split

theorem keeps_logSW {z : State} {s : State} {b : Blk} {code who : Nat} {arg : Bytes} (hk : Keeps z s) :
    Keeps z (logSW s b code who arg) := by
  unfold logSW
  repeat' first | (with_reducible first | assumption | rfl | intro _ | apply keeps_report | apply keeps_ite) | split

theorem keeps_irq {z : State} {s : State} {fn vec : Nat} (hk : Keeps z s)  :
    Keeps z (irq s fn vec) := by
  unfold irq
  repeat' first | (with_reducible first | assumption | rfl | intro _ | apply keeps_report) | split

theorem keeps_logRefused {z : State} {s : State} {addr : Nat} (hk : Keeps z s)  :
    Keeps z (logRefused s addr) := by
  unfold logRefused
  repeat' first | (with_reducible first | assumption | rfl | intro _ | apply keeps_logD) | split

theorem keeps_logOther {z : State} {s : State} {b : Blk} {arg : Bytes} (hk : Keeps z s)  :
    Keeps z (logOther s b arg) := by
  unfold logOther
  repeat' first | (with_reducible first | assumption | rfl | intro _ | apply keeps_logD) | split

theorem keeps_logOtherS {z : State} {s : State} {b : Blk} {arg : Bytes} (hk : Keeps z s)  :
    Keeps z (logOtherS s b arg) := by
  unfold logOtherS
  repeat' first | (with_reducible first | assumption | rfl | intro _ | apply keeps_logS) | split

theorem keeps_withAlarm {z : State} {s : State} {t : Tmp} (hk : Keeps z s)  :
    Keeps z (withAlarm s t) := by
  unfold withAlarm
  dsimp only
  repeat' first | (with_reducible first | assumption | rfl | intro _ | apply keeps_blkTmp | apply keeps_report | apply keeps_irq | apply keeps_ite) | split

theorem keeps_alarmSet {z : State} {s : State} {a : Alarm} (hk : Keeps z s)  :
    Keeps z (alarmSet s a) := by
  unfold alarmSet
  repeat' first | (with_reducible first | assumption | rfl | intro _ | apply keeps_withAlarm | apply keeps_ite) | split

theorem keeps_alarmClear {z : State} {s : State} {a : Alarm} (hk : Keeps z s)  :
    Keeps z (alarmClear s a) := by
  unfold alarmClear
  repeat' first | (with_reducible first | assumption | rfl | intro _ | apply keeps_withAlarm) | split

theorem keeps_logMode {z : State} {s : State} (hk : Keeps z s)  :
    Keeps z (logMode s) := by
  unfold logMode
  repeat' first | (with_reducible first | assumption | rfl | intro _ | apply keeps_logD) | split

theorem keeps_toMode {z : State} {s : State} {m : Mode} {cause : Nat} (hk : Keeps z s)  :
    Keeps z (toMode s m cause) := by
  unfold toMode
  repeat' first | (with_reducible first | assumption | rfl | intro _ | apply keeps_blkMode | apply keeps_logMode) | split

theorem keeps_announce {z : State} {s : State} {cause len : Nat} {start : Word} (hk : Keeps z s)  :
    Keeps z (announce s cause len start) := by
  unfold announce
  repeat' first | (with_reducible first | assumption | rfl | intro _ | apply keeps_blkMode | apply keeps_irq | apply keeps_logMode) | split

theorem keeps_annClear {z : State} {s : State} (hk : Keeps z s)  :
    Keeps z (annClear s) := by
  unfold annClear
  repeat' first | (with_reducible first | assumption | rfl | intro _ | apply keeps_blkMode | apply keeps_logMode) | split

theorem keeps_setCore {z : State} {s : State} {c : Nat} {x : Core} (hk : Keeps z s)  :
    Keeps z (setCore s c x) := by
  unfold setCore
  repeat' first | (with_reducible first | assumption | rfl | intro _ | apply keeps_blkCores) | split

theorem keeps_sramWrite {z : State} {s : State} {k : Nat} {b : Bytes} (hk : Keeps z s)  :
    Keeps z (sramWrite s k b) := by
  unfold sramWrite
  repeat' first | (with_reducible first | assumption | rfl | intro _ | apply keeps_blkSram | apply twf_tputN | apply twf_tclear | apply twf_tput) | split

theorem keeps_flashProgram {z : State} {s : State} {sel k : Nat} {b : Bytes} (hk : Keeps z s)  :
    Keeps z (flashProgram s sel k b) := by
  unfold flashProgram
  repeat' first | (with_reducible first | assumption | rfl | intro _ | apply keeps_blkFlash | apply twf_tputN | apply twf_tclear | apply twf_tput) | split

theorem keeps_flashErase {z : State} {s : State} {sel k n : Nat} (hk : Keeps z s)  :
    Keeps z (flashErase s sel k n) := by
  unfold flashErase
  repeat' first | (with_reducible first | assumption | rfl | intro _ | apply keeps_blkFlash | apply twf_tputN | apply twf_tclear | apply twf_tput) | split

theorem keeps_freeBytes {z : State} {s : State} {n : Nat} (hk : Keeps z s)  {a : Bytes} {t : State} (e : freeBytes s n = (a, t)) :
    Keeps z t := by
  unfold freeBytes at e
  try dsimp only at e
  repeat' split at e
  all_goals cases e
  all_goals repeat' first | (with_reducible first | assumption | rfl | intro _ | apply keeps_blkFree) | split

theorem keeps_freeBytes_p {z : State} {s : State} {n : Nat} (hk : Keeps z s) : Keeps z (freeBytes s n).2 := keeps_freeBytes hk (Prod.eta _).symm

theorem keeps_housekeep {z : State} {s : State} (hk : Keeps z s) :
    Keeps z (housekeep s) := by
  unfold housekeep
  repeat' first | (with_reducible first | assumption | rfl | intro _ | apply keeps_blkEng | apply keeps_ite) | split

theorem keeps_onRng {z : State} {s : State} {f : Rng → Rng} (hk : Keeps z s)  :
    Keeps z (onRng s f) := by
  unfold onRng
  repeat' first | (with_reducible first | assumption | rfl | intro _ | apply keeps_blkRng) | split

/-! ### Machine/Rings.lean -/

theorem keeps_setRing {z : State} {s : State} {k : Nat} {r : Ring} (hk : Keeps z s)  :
    Keeps z (setRing s k r) := by
  unfold setRing
  repeat' first | (with_reducible first | assumption | rfl | intro _ | apply keeps_blkHif) | split

theorem keeps_setFn {z : State} {s : State} {f : Nat} {x : Fn} (hk : Keeps z s)  :
    Keeps z (setFn s f x) := by
  unfold setFn
  repeat' first | (with_reducible first | assumption | rfl | intro _ | apply keeps_blkHif) | split

theorem keeps_emitOut {z : State} {s : State} {w : OutWrite} (hk : Keeps z s)  :
    Keeps z (emitOut s w) := by
  unfold emitOut
  repeat' first | (with_reducible first | assumption | rfl | intro _ | apply keeps_blkHif) | split

theorem keeps_writeCpl {z : State} {s : State} {k : Nat} {c : Cpl} {b : Bytes} (hk : Keeps z s)  :
    Keeps z (writeCpl s k c b) := by
  unfold writeCpl
  dsimp only
  repeat' first | (with_reducible first | assumption | rfl | intro _ | apply keeps_irq | apply keeps_setRing | apply keeps_emitOut | apply keeps_ite) | split

theorem keeps_fltCount {z : State} {s : State} {who rule act : Nat} (hk : Keeps z s) :
    Keeps z (fltCount s who rule act) := by
  unfold fltCount
  repeat' first | (with_reducible first | assumption | rfl | intro _ | apply keeps_blkFlt | apply keeps_logDW | apply keeps_ite) | split

theorem keeps_holdCpl {z : State} {s : State} {k : Nat} {c : Cpl} (hk : Keeps z s) :
    Keeps z (holdCpl s k c) := by
  unfold holdCpl
  try dsimp only
  repeat' first | (with_reducible first | assumption | rfl | intro _ | apply keeps_setRing | apply keeps_logDW | apply keeps_ite) | split

theorem keeps_writeBack {z : State} {k : Nat} {s : State} {c : Cpl} (hk : Keeps z s) :
    Keeps z (writeBack k s c) := by
  unfold writeBack
  try dsimp only
  repeat' first | (with_reducible first | assumption | rfl | intro _ | apply keeps_writeCpl | apply keeps_holdCpl | apply keeps_ite) | split

theorem keeps_flushReorder {z : State} {s : State} {k : Nat} (hk : Keeps z s) :
    Keeps z (flushReorder s k) := by
  unfold flushReorder
  try dsimp only
  repeat' first | (with_reducible first | assumption | rfl | intro _ | apply keeps_blkHif | apply keeps_writeBack | apply keeps_foldl | apply keeps_ite) | split

theorem keeps_emitCpl {z : State} {s : State} {k : Nat} {c : Cpl} (hk : Keeps z s) :
    Keeps z (emitCpl s k c) := by
  unfold emitCpl
  try dsimp only
  repeat' first | (with_reducible first | assumption | rfl | intro _ | apply keeps_blkFlt | apply keeps_blkHif | apply keeps_fltCount | apply keeps_flushReorder | apply keeps_writeCpl | apply keeps_ite) | split

theorem keeps_deliverCpl {z : State} {s : State} {k : Nat} {c : Cpl} (hk : Keeps z s) :
    Keeps z (deliverCpl s k c) := by
  unfold deliverCpl
  try dsimp only
  repeat' first | (with_reducible first | assumption | rfl | intro _ | apply keeps_emitCpl | apply keeps_holdCpl | apply keeps_ite) | split

theorem keeps_countOk {z : State} {s : State} {k : Nat} {c : Cpl} {len : Nat} (hk : Keeps z s)  :
    Keeps z (countOk s k c len) := by
  unfold countOk
  dsimp only
  repeat' first | (with_reducible first | assumption | rfl | intro _ | apply keeps_setFn | apply keeps_ite) | split

theorem keeps_formCpl {z : State} {s : State} {k : Nat} {hash : Bytes} {dups : List (Half × Bool)} {mute : Bool} {c : Cpl} (hk : Keeps z s)  :
    Keeps z (formCpl s k hash dups mute c) := by
  unfold formCpl
  dsimp only
  repeat' first | (with_reducible first | assumption | rfl | intro _ | apply keeps_setRing | apply keeps_deliverCpl | apply keeps_foldl | apply keeps_ite) | split

theorem keeps_formUnstored {z : State} {s : State} {k : Nat} {c : Cpl} (hk : Keeps z s)  :
    Keeps z (formUnstored s k c) := by
  unfold formUnstored
  repeat' first | (with_reducible first | assumption | rfl | intro _ | apply keeps_deliverCpl) | split

theorem keeps_drainHeld {z : State} {s : State} {k n : Nat} (h : Keeps z s) : Keeps z (drainHeld s k n) := by
  induction n generalizing s with
  | zero => exact h
  | succ n ih =>
    unfold drainHeld
    dsimp only
    split
    · exact h
    · split
      · exact ih (keeps_emitCpl (keeps_setRing h))
      · exact h

theorem keeps_ringStop {z : State} {s : State} {k err : Nat} (hk : Keeps z s)  :
    Keeps z (ringStop s k err) := by
  unfold ringStop
  dsimp only
  repeat' first | (with_reducible first | assumption | rfl | intro _ | apply keeps_irq | apply keeps_setRing) | split

/-! ### Machine/Vault.lean -/

theorem keeps_putSlot {z : State} {s : State} {n : Nat} {x : Slot} (hk : Keeps z s)  :
    Keeps z (putSlot s n x) := by
  unfold putSlot
  repeat' first | (with_reducible first | assumption | rfl | intro _ | apply keeps_blkVlt) | split

theorem keeps_reseal {z : State} {s : State} {n : Nat} {f : Slot → Slot} (hk : Keeps z s)  :
    Keeps z (reseal s n f) := by
  unfold reseal
  dsimp only
  repeat' first | (with_reducible first | assumption | rfl | intro _ | apply keeps_putSlot) | split

theorem keeps_deriveAll {z : State} {s : State} (hk : Keeps z s)  :
    Keeps z (deriveAll s) := by
  unfold deriveAll
  dsimp only
  repeat' first | (with_reducible first | assumption | rfl | intro _ | apply keeps_blkVlt | apply keeps_foldl | apply keeps_ite) | split

theorem keeps_cacheDrop {z : State} {s : State} {n : Nat} (hk : Keeps z s)  :
    Keeps z (cacheDrop s n) := by
  unfold cacheDrop
  repeat' first | (with_reducible first | assumption | rfl | intro _ | apply keeps_blkVlt) | split

theorem keeps_cacheRoom {z : State} {s : State} (hk : Keeps z s)  :
    Keeps z (cacheRoom s) := by
  unfold cacheRoom
  repeat' first | (with_reducible first | assumption | rfl | intro _ | apply keeps_blkVlt | apply keeps_ite) | split

theorem keeps_cacheLoad {z : State} {s : State} {n : Nat} {x : Slot} (hk : Keeps z s) {a : CacheEnt} {t : State} (e : cacheLoad s n x = some (a, t)) :
    Keeps z t := by
  unfold cacheLoad at e
  split at e
  · simp only [Option.some.injEq, Prod.mk.injEq] at e
    obtain ⟨_, rfl⟩ := e
    exact keeps_blkVlt hk
  · split at e
    · simp at e
    · simp only [Option.some.injEq, Prod.mk.injEq] at e
      obtain ⟨_, rfl⟩ := e
      exact keeps_blkVlt (keeps_cacheRoom hk)

theorem keeps_cacheSync {z : State} {s : State} {n : Nat} (hk : Keeps z s)  :
    Keeps z (cacheSync s n) := by
  unfold cacheSync
  repeat' first | (with_reducible first | assumption | rfl | intro _ | apply keeps_blkVlt | apply keeps_ite) | split

theorem keeps_slotUse_inl {z : State} {s : State} {n : Nat} {x : Slot} {a : Nat} {t : State} (hk : Keeps z s)
    (e : slotUse s n x = .inl (a, t)) : Keeps z t := by
  unfold slotUse at e
  repeat' split at e
  all_goals cases e
  all_goals first | exact hk | exact keeps_logSW hk

theorem keeps_slotUse_inr {z : State} {s : State} {n : Nat} {x : Slot} {a : Bytes} {t : State} (hk : Keeps z s)
    (e : slotUse s n x = .inr (a, t)) : Keeps z t := by
  unfold slotUse at e
  repeat' split at e
  all_goals cases e
  exact keeps_cacheLoad hk (by assumption)

theorem keeps_useKey_inl {z s t : State} {owner usage : Nat} {k : Word} {alg : Nat → Bool} {a : Nat} (h : Keeps z s)
    (e : useKey s owner k usage alg = .inl (a, t)) : Keeps z t := by
  unfold useKey at e
  repeat' split at e
  all_goals cases e
  all_goals first | exact h | exact keeps_slotUse_inl h (by assumption)

theorem keeps_useKey_inr {z s t : State} {owner usage : Nat} {k : Word} {alg : Nat → Bool} {x : Slot} {b : Bytes}
    (h : Keeps z s) (e : useKey s owner k usage alg = .inr (x, b, t)) : Keeps z t := by
  unfold useKey at e
  repeat' split at e
  all_goals cases e
  exact keeps_slotUse_inr h (by assumption)

theorem keeps_zeroize {z : State} {s : State} {n : Nat} (hk : Keeps z s) :
    Keeps z (zeroize s n) := by
  unfold zeroize
  try dsimp only
  repeat' first | (with_reducible first | assumption | rfl | intro _ | apply keeps_cacheDrop | apply keeps_putSlot | apply keeps_ite) | split

theorem keeps_assocCheck {z : State} {s : State} {a : Nat} (hk : Keeps z s)  :
    Keeps z (assocCheck s a) := by
  unfold assocCheck
  repeat' first | (with_reducible first | assumption | rfl | intro _ | apply keeps_blkVlt | apply keeps_ite) | split

theorem keeps_spareBack {z : State} {s : State} {n : Nat} (hk : Keeps z s)  :
    Keeps z (spareBack s n) := by
  unfold spareBack
  repeat' first | (with_reducible first | assumption | rfl | intro _ | apply keeps_blkVlt) | split

theorem keeps_quarantine {z : State} {s : State} {n : Nat} (hk : Keeps z s) :
    Keeps z (quarantine s n) := by
  unfold quarantine
  repeat' first | (with_reducible first | assumption | rfl | intro _ | apply keeps_blkVlt | apply keeps_logSW | apply keeps_alarmSet | apply keeps_ite) | split

theorem keeps_readback {z : State} {s : State} {n : Nat} {ok : Bool} (hk : Keeps z s) :
    Keeps z (readback s n ok) := by
  unfold readback
  try dsimp only
  repeat' first | (with_reducible first | assumption | rfl | intro _ | apply keeps_blkVlt | apply keeps_putSlot | apply keeps_assocCheck | apply keeps_spareBack | apply keeps_quarantine | apply keeps_ite) | split

theorem keeps_pendKey {z : State} {s : State} {n owner usage alg assoc sn : Nat} {exp : Bool} {mat : Bytes} {op : KeyOp} (hk : Keeps z s)  :
    Keeps z (pendKey s n owner usage alg assoc sn exp mat op) := by
  unfold pendKey
  dsimp only
  repeat' first | (with_reducible first | assumption | rfl | intro _ | apply keeps_blkVlt | apply keeps_putSlot | apply keeps_ite) | split

theorem keeps_dropKey {z : State} {s : State} {n : Nat} (hk : Keeps z s) :
    Keeps z (dropKey s n) := by
  unfold dropKey
  try dsimp only
  repeat' first | (with_reducible first | assumption | rfl | intro _ | apply keeps_blkVlt | apply keeps_zeroize | apply keeps_ite) | split

theorem keeps_stageKey {z : State} {s : State} {op : KeyOp} (hk : Keeps z s) :
    Keeps z (stageKey s op) := by
  unfold stageKey
  try dsimp only
  repeat' first | (with_reducible first | assumption | rfl | intro _ | apply keeps_blkVlt | apply keeps_ite) | (refine keeps_cacheLoad ?_ (by with_reducible assumption)) | split

theorem keeps_armedLive {z : State} {s : State} {op : KeyOp} (hk : Keeps z s) :
    Keeps z (armedLive s op) := by
  unfold armedLive
  try dsimp only
  repeat' first | (with_reducible first | assumption | rfl | intro _ | apply keeps_blkVlt | apply keeps_cacheSync | apply keeps_reseal | apply keeps_zeroize | apply keeps_ite) | (refine keeps_cacheLoad ?_ (by with_reducible assumption)) | split

theorem keeps_keySwitch {z : State} {s : State} (hk : Keeps z s)  :
    Keeps z (keySwitch s) := by
  unfold keySwitch
  repeat' first | (with_reducible first | assumption | rfl | intro _ | apply keeps_armedLive | apply keeps_foldl) | split

theorem keeps_applyUnpins {z : State} {s : State} (hk : Keeps z s)  :
    Keeps z (applyUnpins s) := by
  unfold applyUnpins
  repeat' first | (with_reducible first | assumption | rfl | intro _ | apply keeps_blkVlt | apply keeps_ite) | split

theorem keeps_setSeason {z : State} {s : State} {x : Season} (hk : Keeps z s)  :
    Keeps z (setSeason s x) := by
  unfold setSeason
  repeat' first | (with_reducible first | assumption | rfl | intro _ | apply keeps_blkVlt | apply keeps_ite) | split

theorem keeps_rollRoles {z : State} {s : State} {a : Nat} (hk : Keeps z s)  :
    Keeps z (rollRoles s a) := by
  unfold rollRoles
  dsimp only
  repeat' first | (with_reducible first | assumption | rfl | intro _ | apply keeps_cacheSync | apply keeps_reseal) | split

theorem keeps_dropRetiring {z : State} {s : State} {a : Nat} (hk : Keeps z s)  :
    Keeps z (dropRetiring s a) := by
  unfold dropRetiring
  repeat' first | (with_reducible first | assumption | rfl | intro _ | apply keeps_zeroize) | split

theorem keeps_execSeasonWindowOpen {z : State} {a : BitVec 12} {s : State} (hk : Keeps z s)  :
    OutKeeps z (execSeasonWindowOpen a s) := by
  unfold execSeasonWindowOpen
  repeat' first | (with_reducible first | assumption | rfl | intro _ | apply keeps_setSeason | apply keeps_ite | apply outKeeps_ite | apply outKeeps_next) | split

theorem keeps_execSeasonRollover {z : State} {a : BitVec 12} {s : State} (hk : Keeps z s)  :
    OutKeeps z (execSeasonRollover a s) := by
  unfold execSeasonRollover
  repeat' first | (with_reducible first | assumption | rfl | intro _ | apply keeps_rollRoles | apply keeps_setSeason | apply keeps_ite | apply outKeeps_ite | apply outKeeps_next) | split

theorem keeps_execSeasonWindowEnd {z : State} {a : BitVec 12} {s : State} (hk : Keeps z s)  :
    OutKeeps z (execSeasonWindowEnd a s) := by
  unfold execSeasonWindowEnd
  dsimp only
  repeat' first | (with_reducible first | assumption | rfl | intro _ | apply keeps_blkVlt | apply keeps_dropRetiring | apply keeps_ite | apply outKeeps_ite | apply outKeeps_next) | split

theorem keeps_execGenerateCommitExpiry {z : State} {n : Nat} {s : State} (hk : Keeps z s)  :
    OutKeeps z (execGenerateCommitExpiry n s) := by
  unfold execGenerateCommitExpiry
  repeat' first | (with_reducible first | assumption | rfl | intro _ | apply keeps_dropKey | apply keeps_ite | apply outKeeps_ite | apply outKeeps_next) | split

theorem keeps_wipeSlots {z : State} {bad : List Nat} {s : State} {f : Nat → Slot → Bool} (hk : Keeps z s) :
    Keeps z (wipeSlots bad s f) := by
  unfold wipeSlots
  try dsimp only
  repeat' first | (with_reducible first | assumption | rfl | intro _ | apply keeps_blkVlt | apply keeps_quarantine | apply keeps_foldl | apply keeps_ite) | split

theorem keeps_seasonKindle {z : State} {s : State} (hk : Keeps z s)  :
    Keeps z (seasonKindle s) := by
  unfold seasonKindle
  dsimp only
  repeat' first | (with_reducible first | assumption | rfl | intro _ | apply keeps_blkVlt | apply keeps_rollRoles | apply keeps_foldl | apply keeps_ite) | split

theorem keeps_vaultKindle {z : State} {bad : List Nat} {s : State} (hk : Keeps z s) :
    Keeps z (vaultKindle bad s) := by
  unfold vaultKindle
  try dsimp only
  repeat' first | (with_reducible first | assumption | rfl | intro _ | apply keeps_blkVlt | apply keeps_wipeSlots | apply keeps_seasonKindle | apply keeps_ite) | split

theorem keeps_zeroizeOwner {z : State} {s : State} {owner : Nat} (hk : Keeps z s)  :
    Keeps z (zeroizeOwner s owner) := by
  unfold zeroizeOwner
  dsimp only
  repeat' first | (with_reducible first | assumption | rfl | intro _ | apply keeps_blkVlt | apply keeps_zeroize | apply keeps_foldl) | split

/-! ### Machine/Desc.lean -/

theorem keeps_refuseDesc {z : State} {s : State} {k : Nat} {slot : Half} {d : Bytes} {status : Nat} {mute : Bool} (hk : Keeps z s)  :
    Keeps z (refuseDesc s k slot d status mute) := by
  unfold refuseDesc
  repeat' first | (with_reducible first | assumption | rfl | intro _ | apply keeps_formCpl) | split

theorem keeps_endRunning {z : State} {s : State} {k : Nat} {x : Staged} {c : Cpl} (hk : Keeps z s)  :
    Keeps z (endRunning s k x c) := by
  unfold endRunning
  dsimp only
  repeat' first | (with_reducible first | assumption | rfl | intro _ | apply keeps_formCpl | apply keeps_setRing | apply keeps_countOk) | split

theorem keeps_attachDup {z : State} {s : State} {k : Nat} {slot : Half} {d : Bytes} (hk : Keeps z s)  :
    Keeps z (attachDup s k slot d) := by
  unfold attachDup
  dsimp only
  repeat' first | (with_reducible first | assumption | rfl | intro _ | apply keeps_setRing | apply keeps_ite) | split

theorem keeps_endWait {z : State} {s : State} {w : Wait} {f : Cpl → Cpl} (hk : Keeps z s)  :
    Keeps z (endWait s w f) := by
  unfold endWait
  dsimp only
  repeat' first | (with_reducible first | assumption | rfl | intro _ | apply keeps_blkHif | apply keeps_endRunning | apply keeps_ite) | split

theorem keeps_endWaits {z : State} {s : State} {t : WaitTag} {f : Cpl → Cpl} (hk : Keeps z s)  :
    Keeps z (endWaits s t f) := by
  unfold endWaits
  repeat' first | (with_reducible first | assumption | rfl | intro _ | apply keeps_endWait | apply keeps_foldl) | split

/-! ### Machine/Trip.lean -/

theorem keeps_issueReads {z : State} {s : State} (hk : Keeps z s) :
    Keeps z (issueReads s) := by
  unfold issueReads
  repeat' first | (with_reducible first | assumption | rfl | intro _ | apply keeps_blkHif | apply keeps_ite) | split

theorem keeps_admitOne {z : State} {s : State} {c : Cand} (hk : Keeps z s) :
    Keeps z (admitOne s c) := by
  unfold admitOne
  try dsimp only
  repeat' first | (with_reducible first | assumption | rfl | intro _ | apply keeps_blkGlb | apply keeps_blkHif | apply keeps_issueReads | apply keeps_ite) | split

theorem keeps_carry {z : State} {s : State} {c : Cand} (hk : Keeps z s)  :
    Keeps z (carry s c) := by
  unfold carry
  repeat' first | (with_reducible first | assumption | rfl | intro _ | apply keeps_blkGlb) | split

theorem keeps_observe {z : State} {s : State} {c : Cand} (hk : Keeps z s)  :
    Keeps z (observe s c) := by
  unfold observe
  repeat' first | (with_reducible first | assumption | rfl | intro _ | apply keeps_carry | apply keeps_admitOne | apply keeps_ite) | split

theorem keeps_unsee {z : State} {s : State} (hk : Keeps z s) :
    Keeps z (unsee s) := by
  unfold unsee
  try dsimp only
  repeat' first | (with_reducible first | assumption | rfl | intro _ | apply keeps_blkGlb | apply keeps_blkHif | apply keeps_foldl | apply keeps_ite) | split

theorem keeps_observeAll {z : State} {s : State} {l : List Cand} (hk : Keeps z s) :
    Keeps z (observeAll s l) := by
  unfold observeAll
  repeat' first | (with_reducible first | assumption | rfl | intro _ | apply keeps_observe | apply keeps_unsee | apply keeps_foldl | apply keeps_ite) | split

theorem keeps_carriedStep {z : State} {s : State} {c : Cand} (hk : Keeps z s)  :
    Keeps z (carriedStep s c) := by
  unfold carriedStep
  repeat' first | (with_reducible first | assumption | rfl | intro _ | apply keeps_blkGlb | apply keeps_carry | apply keeps_admitOne | apply keeps_ite) | split

theorem keeps_admitCarried {z : State} {s : State} (hk : Keeps z s)  :
    Keeps z (admitCarried s) := by
  unfold admitCarried
  dsimp only
  repeat' first | (with_reducible first | assumption | rfl | intro _ | apply keeps_blkGlb | apply keeps_carriedStep | apply keeps_foldl) | split

theorem keeps_assignUnit {z : State} {s : State} (hk : Keeps z s) :
    Keeps z (assignUnit s) := by
  unfold assignUnit
  try dsimp only
  repeat' first | (with_reducible first | assumption | rfl | intro _ | apply keeps_blkHif | apply keeps_ite) | split

theorem keeps_assignUnits {z : State} {s : State} (hk : Keeps z s) :
    Keeps z (assignUnits s) := by
  unfold assignUnits
  try dsimp only
  repeat' first | (with_reducible first | assumption | rfl | intro _ | apply keeps_assignUnit | apply keeps_foldl | apply keeps_ite) | split

theorem keeps_tripLat {z : State} {s : State} {k : Nat} {adm : Stamp} (hk : Keeps z s)  :
    Keeps z (tripLat s k adm) := by
  unfold tripLat
  dsimp only
  repeat' first | (with_reducible first | assumption | rfl | intro _ | apply keeps_blkGlb | apply keeps_ite) | split

theorem keeps_tripDrop {z : State} {s : State} {fn ring : Nat} {slot : Half} (hk : Keeps z s) :
    Keeps z (tripDrop s fn ring slot) := by
  unfold tripDrop
  try dsimp only
  repeat' first | (with_reducible first | assumption | rfl | intro _ | apply keeps_blkHif | apply keeps_issueReads | apply keeps_ite) | split

theorem keeps_tripEnd {z : State} {s : State} {t : Trip} {x : Staged} {c : Cpl} (hk : Keeps z s) :
    Keeps z (tripEnd s t x c) := by
  unfold tripEnd
  try dsimp only
  repeat' first | (with_reducible first | assumption | rfl | intro _ | apply keeps_assignUnits | apply keeps_tripDrop | apply keeps_endRunning | apply keeps_tripLat | apply keeps_ite) | split

theorem keeps_consStep {z : State} {s : State} {k : Nat} (hk : Keeps z s)  :
    Keeps z (consStep s k) := by
  unfold consStep
  dsimp only
  repeat' first | (with_reducible first | assumption | rfl | intro _ | apply keeps_setRing) | split

theorem keeps_execTripDescArrival {z : State} {fn r : Nat} {d : Bytes} {s : State} (hk : Keeps z s) :
    OutKeeps z (execTripDescArrival fn r d s) := by
  unfold execTripDescArrival
  try dsimp only
  repeat' first | (with_reducible first | assumption | rfl | intro _ | apply keeps_blkHif | apply keeps_consStep | apply keeps_tripDrop | apply keeps_tripLat | apply keeps_refuseDesc | apply keeps_formUnstored | apply keeps_attachDup | apply keeps_issueReads | apply keeps_assignUnits | apply keeps_setRing | apply keeps_ite | apply outKeeps_ite | apply outKeeps_next) | split

theorem keeps_readsDone {z : State} {s : State} {fn ring : Nat} {slot : Half} (hk : Keeps z s) :
    Keeps z (readsDone s fn ring slot) := by
  unfold readsDone
  try dsimp only
  repeat' first | (with_reducible first | assumption | rfl | intro _ | apply keeps_blkHif | apply keeps_issueReads | apply keeps_ite) | split

theorem keeps_execTripMacStart {z : State} {fn r : Nat} {slot : Half} {msg aux : Bytes} {s : State} (hk : Keeps z s) :
    OutKeeps z (execTripMacStart fn r slot msg aux s) := by
  unfold execTripMacStart
  try dsimp only
  repeat' first | (with_reducible first | assumption | rfl | intro _ | apply keeps_blkEng | apply keeps_assignUnits | apply keeps_readsDone | apply keeps_ite | apply outKeeps_ite | apply outKeeps_next) | split

theorem keeps_execTripMacEnd {z : State} {u : Nat} {s : State} (hk : Keeps z s) :
    OutKeeps z (execTripMacEnd u s) := by
  unfold execTripMacEnd
  try dsimp only
  repeat' first | (with_reducible first | assumption | rfl | intro _ | apply keeps_blkEng | apply keeps_logDW | apply keeps_emitOut | apply keeps_tripEnd | apply keeps_ite | apply outKeeps_ite | apply outKeeps_next) | split

theorem keeps_execTickOverrun {z : State} {fn r : Nat} {d : Bytes} {s : State} (hk : Keeps z s) :
    OutKeeps z (execTickOverrun fn r d s) := by
  unfold execTickOverrun
  try dsimp only
  repeat' first | (with_reducible first | assumption | rfl | intro _ | apply keeps_blkGlb | apply keeps_refuseDesc | apply keeps_consStep | apply keeps_ite | apply outKeeps_ite | apply outKeeps_next) | split

/-! ### Machine/Checks.lean -/

theorem keeps_setMpuUnit {z : State} {s : State} {k : Nat} {u : MpuUnit} (hk : Keeps z s)  :
    Keeps z (setMpuUnit s k u) := by
  unfold setMpuUnit
  repeat' first | (with_reducible first | assumption | rfl | intro _ | apply keeps_blkMpu) | split

theorem keeps_logAccess {z : State} {s : State} {a : Acc} {src idx : Nat} (hk : Keeps z s) :
    Keeps z (logAccess s a src idx) := by
  unfold logAccess
  try dsimp only
  repeat' first | (with_reducible first | assumption | rfl | intro _ | apply keeps_blkMpu | apply keeps_logDW | apply keeps_ite) | split

theorem keeps_refuseAcc {z : State} {s : State} {a : Acc} {src idx : Nat} (hk : Keeps z s)  :
    Keeps z (refuseAcc s a src idx) := by
  unfold refuseAcc
  dsimp only
  repeat' first | (with_reducible first | assumption | rfl | intro _ | apply keeps_blkFwl | apply keeps_setMpuUnit | apply keeps_logAccess | apply keeps_ite) | split

theorem keeps_refuseWrite {z : State} {s : State} {addr src : Nat} (hk : Keeps z s)  :
    Keeps z (refuseWrite s addr src) := by
  unfold refuseWrite
  repeat' first | (with_reducible first | assumption | rfl | intro _ | apply keeps_refuseAcc | apply keeps_logRefused) | split

theorem keeps_onE {z : State} {s : State} {b addr : Nat} {f : State → State} (hk : Keeps z s) (hf : ∀ s, Keeps z s → Keeps z (f s)) :
    Keeps z (onE s b addr f) := by
  unfold onE
  repeat' first | (with_reducible first | assumption | rfl | intro _ | apply keeps_refuseAcc | apply keeps_ite | apply hf) | split

/-! ### Machine/RingCmds.lean -/

theorem keeps_dimCancel {z : State} {s : State} (hk : Keeps z s)  :
    Keeps z (dimCancel s) := by
  unfold dimCancel
  dsimp only
  repeat' first | (with_reducible first | assumption | rfl | intro _ | apply keeps_blkMode | apply keeps_logMode | apply keeps_endWaits) | split

theorem keeps_wakeTrigger {z : State} {s : State} {wakeCause : Nat} (hk : Keeps z s) :
    Keeps z (wakeTrigger s wakeCause) := by
  unfold wakeTrigger
  repeat' first | (with_reducible first | assumption | rfl | intro _ | apply keeps_blkMode | apply keeps_onRng | apply keeps_ite) | split

theorem keeps_publish {z : State} {s : State} {fn r : Nat} {tail : Half} (hk : Keeps z s) :
    Keeps z (publish s fn r tail) := by
  unfold publish
  try dsimp only
  repeat' first | (with_reducible first | assumption | rfl | intro _ | apply keeps_setRing | apply keeps_observeAll | apply keeps_ite) | split

theorem keeps_execSqTail {z : State} {fn r : Nat} {v : Word} {s : State} (hk : Keeps z s)  :
    OutKeeps z (execSqTail fn r v s) := by
  unfold execSqTail
  dsimp only
  repeat' first | (with_reducible first | assumption | rfl | intro _ | apply keeps_wakeTrigger | apply keeps_dimCancel | apply keeps_setRing | apply keeps_ringStop | apply keeps_publish | apply keeps_ite | apply outKeeps_ite | apply outKeeps_next) | split

theorem keeps_stage {z : State} {s : State} {k : Nat} {slot : Half} {d : Bytes} (hk : Keeps z s)  :
    Keeps z (stage s k slot d) := by
  unfold stage
  dsimp only
  repeat' first | (with_reducible first | assumption | rfl | intro _ | apply keeps_blkHif | apply keeps_setRing | apply keeps_ite) | split

theorem keeps_execDescFetchComplete {z : State} {fn r : Nat} {d : Bytes} {s : State} (hk : Keeps z s)  :
    OutKeeps z (execDescFetchComplete fn r d s) := by
  unfold execDescFetchComplete
  dsimp only
  repeat' first | (with_reducible first | assumption | rfl | intro _ | apply keeps_formUnstored | apply keeps_stage | apply keeps_consStep | apply keeps_refuseDesc | apply keeps_attachDup | apply keeps_ite | apply outKeeps_ite | apply outKeeps_next) | split

theorem keeps_tripsCut {z : State} {s : State} {fn ring : Nat} {slot : Half} (hk : Keeps z s) :
    Keeps z (tripsCut s fn ring slot) := by
  unfold tripsCut
  try dsimp only
  repeat' first | (with_reducible first | assumption | rfl | intro _ | apply keeps_blkHif | apply keeps_issueReads | apply keeps_ite) | split

theorem keeps_execHostReadError {z : State} {fn r : Nat} {slot : Half} {s : State} (hk : Keeps z s) :
    OutKeeps z (execHostReadError fn r slot s) := by
  unfold execHostReadError
  try dsimp only
  repeat' first | (with_reducible first | assumption | rfl | intro _ | apply keeps_ringStop | apply keeps_tripsCut | apply keeps_tripEnd | apply keeps_endRunning | apply keeps_ite | apply outKeeps_ite | apply outKeeps_next) | split

theorem keeps_execCqHead {z : State} {fn r : Nat} {v : Word} {s : State} (hk : Keeps z s)  :
    OutKeeps z (execCqHead fn r v s) := by
  unfold execCqHead
  dsimp only
  repeat' first | (with_reducible first | assumption | rfl | intro _ | apply keeps_drainHeld | apply keeps_setRing | apply keeps_ringStop | apply keeps_ite | apply outKeeps_ite | apply outKeeps_next) | split

theorem keeps_execRingEnable {z : State} {fn r : Nat} {s : State} (hk : Keeps z s)  :
    OutKeeps z (execRingEnable fn r s) := by
  unfold execRingEnable
  dsimp only
  repeat' first | (with_reducible first | assumption | rfl | intro _ | apply keeps_irq | apply keeps_setRing | apply keeps_ite | apply outKeeps_ite | apply outKeeps_next | apply optKeeps_getD) | split

theorem keeps_ringClear {z : State} {s : State} {fn r : Nat} (hk : Keeps z s)  :
    Keeps z (ringClear s fn r) := by
  unfold ringClear
  dsimp only
  repeat' first | (with_reducible first | assumption | rfl | intro _ | apply keeps_blkHif | apply keeps_blkGlb | apply keeps_setRing | apply keeps_ite) | split

theorem keeps_execRingReset {z : State} {fn r : Nat} {s : State} (hk : Keeps z s)  :
    OutKeeps z (execRingReset fn r s) := by
  unfold execRingReset
  repeat' first | (with_reducible first | assumption | rfl | intro _ | apply keeps_ringClear | apply keeps_ite | apply outKeeps_ite | apply outKeeps_next) | split

theorem keeps_fnRingsClear {z : State} {s : State} {fn : Nat} (hk : Keeps z s)  :
    Keeps z (fnRingsClear s fn) := by
  unfold fnRingsClear
  dsimp only
  repeat' first | (with_reducible first | assumption | rfl | intro _ | apply keeps_ringClear | apply keeps_setRing | apply keeps_foldl) | split

theorem keeps_fnClear {z : State} {s : State} {fn : Nat} (hk : Keeps z s)  :
    Keeps z (fnClear s fn) := by
  unfold fnClear
  dsimp only
  repeat' first | (with_reducible first | assumption | rfl | intro _ | apply keeps_blkHif | apply keeps_fnRingsClear | apply keeps_setFn | apply keeps_ite) | split

theorem keeps_vfsOff {z : State} {s : State} (hk : Keeps z s) :
    Keeps z (vfsOff s) := by
  unfold vfsOff
  try dsimp only
  repeat' first | (with_reducible first | assumption | rfl | intro _ | apply keeps_blkHif | apply keeps_fnClear | apply keeps_foldl | apply keeps_ite) | split

theorem keeps_execFunctionLevelReset {z : State} {fn : Nat} {s : State} (hk : Keeps z s) :
    OutKeeps z (execFunctionLevelReset fn s) := by
  unfold execFunctionLevelReset
  try dsimp only
  repeat' first | (with_reducible first | assumption | rfl | intro _ | apply keeps_fnClear | apply keeps_vfsOff | apply keeps_ite | apply outKeeps_ite | apply outKeeps_next) | split

theorem keeps_execD3hotEntry {z : State} {fn : Nat} {s : State} (hk : Keeps z s) :
    OutKeeps z (execD3hotEntry fn s) := by
  unfold execD3hotEntry
  repeat' first | (with_reducible first | assumption | rfl | intro _ | apply keeps_setFn | apply keeps_ite | apply outKeeps_ite | apply outKeeps_next) | split

theorem keeps_execD3hotExit {z : State} {fn : Nat} {s : State} (hk : Keeps z s)  :
    OutKeeps z (execD3hotExit fn s) := by
  unfold execD3hotExit
  repeat' first | (with_reducible first | assumption | rfl | intro _ | apply keeps_execFunctionLevelReset | apply keeps_ite | apply outKeeps_ite | apply outKeeps_next) | split

theorem keeps_endpointClear {z : State} {s : State} (hk : Keeps z s)  :
    Keeps z (endpointClear s) := by
  unfold endpointClear
  dsimp only
  repeat' first | (with_reducible first | assumption | rfl | intro _ | apply keeps_blkHif | apply keeps_fnClear | apply keeps_foldl | apply keeps_ite) | split

theorem keeps_execEndpointReset {z : State} {s : State} (hk : Keeps z s)  :
    OutKeeps z (execEndpointReset s) := by
  unfold execEndpointReset
  dsimp only
  repeat' first | (with_reducible first | assumption | rfl | intro _ | apply keeps_blkHif | apply keeps_endpointClear | apply keeps_ite | apply outKeeps_ite | apply outKeeps_next) | split

theorem keeps_execLinkUp {z : State} {width speed : Nat} {ext : Bool} {s : State} (hk : Keeps z s) :
    OutKeeps z (execLinkUp width speed ext s) := by
  unfold execLinkUp
  repeat' first | (with_reducible first | assumption | rfl | intro _ | apply keeps_blkHif | apply keeps_ite | apply outKeeps_ite | apply outKeeps_next) | split

theorem keeps_execVfEnable {z : State} {on : Bool} {n : Nat} {ari : Bool} {s : State} (hk : Keeps z s) :
    OutKeeps z (execVfEnable on n ari s) := by
  unfold execVfEnable
  try dsimp only
  repeat' first | (with_reducible first | assumption | rfl | intro _ | apply keeps_blkHif | apply keeps_vfsOff | apply keeps_ite | apply outKeeps_ite | apply outKeeps_next) | split

theorem keeps_execHifRingAlloc {z : State} {k : Nat} {v : Word} {s : State} (hk : Keeps z s)  :
    OutKeeps z (execHifRingAlloc k v s) := by
  unfold execHifRingAlloc
  dsimp only
  repeat' first | (with_reducible first | assumption | rfl | intro _ | apply keeps_blkHif | apply keeps_logOther | apply keeps_ite | apply outKeeps_ite | apply outKeeps_next | apply optKeeps_getD) | split

theorem keeps_takeStaged {z : State} {s : State} {k : Nat} {slot : Half} (hk : Keeps z s)  :
    Keeps z (takeStaged s k slot) := by
  unfold takeStaged
  dsimp only
  repeat' first | (with_reducible first | assumption | rfl | intro _ | apply keeps_blkHif | apply keeps_setRing | apply keeps_ite) | split

theorem keeps_execHifStgTake {z : State} {s : State} (hk : Keeps z s)  :
    OutKeeps z (execHifStgTake s) := by
  unfold execHifStgTake
  repeat' first | (with_reducible first | assumption | rfl | intro _ | apply keeps_blkHif | apply keeps_takeStaged | apply keeps_ite | apply outKeeps_ite | apply outKeeps_next) | split

theorem keeps_execHifCplGo {z : State} {v : Word} {s : State} (hk : Keeps z s) :
    OutKeeps z (execHifCplGo v s) := by
  unfold execHifCplGo
  try dsimp only
  repeat' first | (with_reducible first | assumption | rfl | intro _ | apply keeps_logOther | apply keeps_endRunning | apply keeps_ite | apply outKeeps_ite | apply outKeeps_next) | split

theorem keeps_mbxRaise {z : State} {s : State} {n c : Nat} (hk : Keeps z s)  :
    Keeps z (mbxRaise s n c) := by
  unfold mbxRaise
  dsimp only
  repeat' first | (with_reducible first | assumption | rfl | intro _ | apply keeps_setCore | apply keeps_ite) | split

theorem keeps_mbxClear {z : State} {s : State} {n c : Nat} (hk : Keeps z s) :
    Keeps z (mbxClear s n c) := by
  unfold mbxClear
  try dsimp only
  repeat' first | (with_reducible first | assumption | rfl | intro _ | apply keeps_setCore | apply keeps_ite) | split

theorem keeps_execMbxSend {z : State} {n : Nat} {s : State} (hk : Keeps z s)  :
    OutKeeps z (execMbxSend n s) := by
  unfold execMbxSend
  repeat' first | (with_reducible first | assumption | rfl | intro _ | apply keeps_setFn | apply keeps_mbxRaise | apply keeps_ite | apply outKeeps_ite | apply outKeeps_next) | split

theorem keeps_mbxAnswer {z : State} {s : State} {n : Nat} (hk : Keeps z s)  :
    Keeps z (mbxAnswer s n) := by
  unfold mbxAnswer
  repeat' first | (with_reducible first | assumption | rfl | intro _ | apply keeps_irq | apply keeps_setFn | apply keeps_mbxClear) | split

theorem keeps_execHifMbxDone {z : State} {v : Word} {s : State} (hk : Keeps z s)  :
    OutKeeps z (execHifMbxDone v s) := by
  unfold execHifMbxDone
  repeat' first | (with_reducible first | assumption | rfl | intro _ | apply keeps_mbxAnswer | apply keeps_foldl | apply keeps_ite | apply outKeeps_ite | apply outKeeps_next) | split

theorem keeps_execFltEn {z : State} {s : State} (hk : Keeps z s)  :
    OutKeeps z (execFltEn s) := by
  unfold execFltEn
  repeat' first | (with_reducible first | assumption | rfl | intro _ | apply keeps_blkFlt | apply keeps_onE | apply keeps_ite | apply outKeeps_ite | apply outKeeps_next) | split

/-! ### Machine/Beacon.lean -/

theorem keeps_bcnStart {z : State} {s : State} (hk : Keeps z s) :
    Keeps z (bcnStart s) := by
  unfold bcnStart
  try dsimp only
  repeat' first | (with_reducible first | assumption | rfl | intro _ | apply keeps_blkGlb | apply keeps_logD | apply keeps_ite) | split

theorem keeps_execBcnRun {z : State} {v : Word} {s : State} (hk : Keeps z s) :
    OutKeeps z (execBcnRun v s) := by
  unfold execBcnRun
  repeat' first | (with_reducible first | assumption | rfl | intro _ | apply keeps_refuseWrite | apply keeps_bcnStart | apply keeps_ite | apply outKeeps_ite | apply outKeeps_next) | split

theorem keeps_setLock {z : State} {s : State} {l : Lock} (hk : Keeps z s)  :
    Keeps z (setLock s l) := by
  unfold setLock
  repeat' first | (with_reducible first | assumption | rfl | intro _ | apply keeps_blkGlb | apply keeps_logD) | split

theorem keeps_syncAccept {z : State} {s : State} {e : Word × Int} {rate : Int} {acq : Nat} (hk : Keeps z s) :
    Keeps z (syncAccept s e rate acq) := by
  unfold syncAccept
  repeat' first | (with_reducible first | assumption | rfl | intro _ | apply keeps_blkGlb | apply keeps_ite) | split

theorem keeps_acquireEdge {z : State} {s : State} {e : Word × Int} (hk : Keeps z s) :
    Keeps z (acquireEdge s e) := by
  unfold acquireEdge
  try dsimp only
  repeat' first | (with_reducible first | assumption | rfl | intro _ | apply keeps_syncAccept | apply keeps_setLock | apply keeps_ite) | split

theorem keeps_execSyncInEdge {z : State} {half : Bool} {s : State} (hk : Keeps z s) :
    OutKeeps z (execSyncInEdge half s) := by
  unfold execSyncInEdge
  try dsimp only
  repeat' first | (with_reducible first | assumption | rfl | intro _ | apply keeps_blkGlb | apply keeps_acquireEdge | apply keeps_setLock | apply keeps_syncAccept | apply keeps_ite | apply outKeeps_ite | apply outKeeps_next) | split

theorem keeps_execSyncHoldover {z : State} {s : State} (hk : Keeps z s) :
    OutKeeps z (execSyncHoldover s) := by
  unfold execSyncHoldover
  repeat' first | (with_reducible first | assumption | rfl | intro _ | apply keeps_setLock | apply keeps_ite | apply outKeeps_ite | apply outKeeps_next) | split

theorem keeps_execGlbTickRead {z : State} {s : State} (hk : Keeps z s)  :
    OutKeeps z (execGlbTickRead s) := by
  unfold execGlbTickRead
  repeat' first | (with_reducible first | assumption | rfl | intro _ | apply keeps_blkGlb | apply keeps_ite | apply outKeeps_ite | apply outKeeps_next) | split

theorem keeps_execGlbTripLatClear {z : State} {s : State} (hk : Keeps z s)  :
    OutKeeps z (execGlbTripLatClear s) := by
  unfold execGlbTripLatClear
  repeat' first | (with_reducible first | assumption | rfl | intro _ | apply keeps_blkGlb | apply keeps_tripLat | apply keeps_ite | apply outKeeps_ite | apply outKeeps_next) | split

theorem keeps_applyGroups {z : State} {s : State} (h : Keeps z s) : Keeps z (applyGroups s) := by
  have caps : ∀ c : List Nat, (c.map (min 24)).all (· ≤ 24) = true := by simp
  unfold applyGroups
  lift_lets
  intro g t
  have ht : Keeps z t := by
    dsimp only [t]
    split
    · exact h
    · split
      · exact keeps_blkGroups h (.inl rfl) (.inr ‹_›)
      · exact keeps_logOther (keeps_blkGlb h rfl rfl)
  clear_value t
  lift_lets
  try intro _
  split
  · exact ht
  · exact keeps_blkGroups ht (.inr (caps _)) (.inl rfl)

theorem keeps_commitNow {z : State} {s : State} (hk : Keeps z s)  :
    Keeps z (commitNow s) := by
  unfold commitNow
  repeat' first | (with_reducible first | assumption | rfl | intro _ | apply keeps_applyGroups | apply keeps_ite) | split

theorem keeps_execBudgetCommit {z : State} {s : State} (hk : Keeps z s)  :
    OutKeeps z (execBudgetCommit s) := by
  unfold execBudgetCommit
  repeat' first | (with_reducible first | assumption | rfl | intro _ | apply keeps_blkGlb | apply keeps_commitNow | apply keeps_ite | apply outKeeps_ite | apply outKeeps_next) | split

theorem keeps_execTripcapCommit {z : State} {s : State} (hk : Keeps z s)  :
    OutKeeps z (execTripcapCommit s) := by
  unfold execTripcapCommit
  repeat' first | (with_reducible first | assumption | rfl | intro _ | apply keeps_blkGlb | apply keeps_commitNow | apply keeps_ite | apply outKeeps_ite | apply outKeeps_next) | split

theorem keeps_applyShadows {z : State} {s : State} (hk : Keeps z s)  :
    Keeps z (applyShadows s) := by
  unfold applyShadows
  dsimp only
  repeat' first | (with_reducible first | assumption | rfl | intro _ | apply keeps_blkClk | apply keeps_blkVlt | apply keeps_blkGlb | apply keeps_ite) | split

theorem keeps_refill {z : State} {s : State} (hk : Keeps z s)  :
    Keeps z (refill s) := by
  unfold refill
  repeat' first | (with_reducible first | assumption | rfl | intro _ | apply keeps_blkGlb) | split

theorem keeps_setPke {z : State} {s : State} {p : Nat} {x : PkeInst} (hk : Keeps z s)  :
    Keeps z (setPke s p x) := by
  unfold setPke
  repeat' first | (with_reducible first | assumption | rfl | intro _ | apply keeps_blkPke) | split

theorem keeps_setLane {z : State} {s : State} {e : Nat} {l : List LaneOp} (hk : Keeps z s)  :
    Keeps z (setLane s e l) := by
  unfold setLane
  repeat' first | (with_reducible first | assumption | rfl | intro _ | apply keeps_blkEng) | split

theorem keeps_custStop {z : State} {s : State} (hk : Keeps z s)  :
    Keeps z (custStop s) := by
  unfold custStop
  dsimp only
  repeat' first | (with_reducible first | assumption | rfl | intro _ | apply keeps_blkCus | apply keeps_setPke) | split

theorem keeps_windowEnds {z : State} {s : State} (hk : Keeps z s)  :
    Keeps z (windowEnds s) := by
  unfold windowEnds
  repeat' first | (with_reducible first | assumption | rfl | intro _ | apply keeps_blkUpd | apply keeps_ite) | split

theorem keeps_relockOver {z : State} {s : State} (hk : Keeps z s) :
    Keeps z (relockOver s) := by
  unfold relockOver
  repeat' first | (with_reducible first | assumption | rfl | intro _ | apply keeps_blkClk | apply keeps_ite) | split

theorem keeps_execAnnounceWindowEnd {z : State} {s : State} (hk : Keeps z s) :
    OutKeeps z (execAnnounceWindowEnd s) := by
  unfold execAnnounceWindowEnd
  repeat' first | (with_reducible first | assumption | rfl | intro _ | apply keeps_admitCarried | apply keeps_annClear | apply keeps_relockOver | apply keeps_windowEnds | apply keeps_ite | apply outKeeps_ite | apply outKeeps_next) | split

/-! ### Machine/SpiCut.lean -/

theorem keeps_spi0End {z : State} {s : State} {err : Nat} (hk : Keeps z s) :
    Keeps z (spi0End s err) := by
  unfold spi0End
  repeat' first | (with_reducible first | assumption | rfl | intro _ | apply keeps_blkSpi0 | apply keeps_ite) | split

theorem keeps_flashPut {z : State} {s : State} {sel k : Nat} {b : Bytes} (hk : Keeps z s)  :
    Keeps z (flashPut s sel k b) := by
  unfold flashPut
  repeat' first | (with_reducible first | assumption | rfl | intro _ | apply keeps_blkFlash | apply twf_tputN | apply twf_tclear | apply twf_tput) | split

theorem keeps_tearProgram {z : State} {s : State} {o : FlashOp} (hk : Keeps z s)  :
    Keeps z (tearProgram s o) := by
  unfold tearProgram
  dsimp only
  repeat' first | (with_reducible first | assumption | rfl | intro _ | apply keeps_freeBytes_p | apply keeps_flashPut) | (refine keeps_freeBytes ?_ (by with_reducible assumption)) | split

theorem keeps_tearErase {z : State} {s : State} {o : FlashOp} (hk : Keeps z s)  :
    Keeps z (tearErase s o) := by
  unfold tearErase
  dsimp only
  repeat' first | (with_reducible first | assumption | rfl | intro _ | apply keeps_freeBytes_p | apply keeps_flashPut) | (refine keeps_freeBytes ?_ (by with_reducible assumption)) | split

theorem keeps_cutRead {z : State} {s : State} {o : FlashOp} (hk : Keeps z s)  :
    Keeps z (cutRead s o) := by
  unfold cutRead
  dsimp only
  repeat' first | (with_reducible first | assumption | rfl | intro _ | apply keeps_sramWrite | apply keeps_freeBytes_p) | (refine keeps_freeBytes ?_ (by with_reducible assumption)) | split

theorem keeps_spi0Cut {z : State} {s : State} {err : Nat} (hk : Keeps z s) :
    Keeps z (spi0Cut s err) := by
  unfold spi0Cut
  try dsimp only
  repeat' first | (with_reducible first | assumption | rfl | intro _ | apply keeps_cutRead | apply keeps_tearProgram | apply keeps_tearErase | apply keeps_spi0End | apply keeps_ite) | split

/-! ### Machine/Reset.lean -/

theorem keeps_coreCleared {z : State} {s : State} {powerOn : Bool} (h : Keeps z s) :
    Keeps z (coreCleared s powerOn) := by
  refine ⟨h.1, fun hz => ?_, fun _ => ?_, fun hl => by cases hl⟩
  · have hm := h.2 hz
    simp only [State.memWf, Bool.and_eq_true, coreCleared] at *
    refine ⟨?_, hm.2⟩
    split
    · rfl
    · exact twf_filter 0 _ _ hm.1
  · unfold State.groupsOk coreCleared glbReset
    dsimp only
    split <;> rfl

theorem keeps_deviceReset {z : State} {s : State} {cause : Nat} (hk : Keeps z s)  :
    Keeps z (deviceReset s cause) := by
  unfold deviceReset
  dsimp only
  repeat' first | (with_reducible first | assumption | rfl | intro _ | apply keeps_blkMode | apply keeps_coreCleared | apply keeps_logMode | apply keeps_spi0Cut) | split

theorem keeps_powerOnReset {z : State} {s : State} (hk : Keeps z s)  :
    Keeps z (powerOnReset s) := by
  unfold powerOnReset
  dsimp only
  repeat' first | (with_reducible first | assumption | rfl | intro _ | apply keeps_blkMode | apply keeps_blkEvr | apply keeps_coreCleared | apply keeps_logMode | apply keeps_spi0Cut) | split

theorem keeps_coreLost {z : State} {s : State} (hk : Keeps z s) :
    Keeps z (coreLost s) := by
  unfold coreLost
  try dsimp only
  repeat' first | (with_reducible first | assumption | rfl | intro _ | apply keeps_blkMode | apply keeps_blkTmp | apply keeps_coreCleared | apply keeps_spi0Cut | apply keeps_ite) | split

theorem keeps_batteryLost {z : State} {s : State} (hk : Keeps z s)  :
    Keeps z (batteryLost s) := by
  unfold batteryLost
  dsimp only
  repeat' first | (with_reducible first | assumption | rfl | intro _ | apply keeps_blkMode | apply keeps_blkVlt | apply keeps_blkTmp | apply keeps_blkSnf | apply keeps_blkEvr) | split

theorem keeps_logHold {z : State} {s : State} {byLoss : Bool} (hk : Keeps z s)  :
    Keeps z (logHold s byLoss) := by
  unfold logHold
  repeat' first | (with_reducible first | assumption | rfl | intro _ | apply keeps_logS) | split

theorem keeps_nrstFree {z : State} {s : State} (hk : Keeps z s)  :
    Keeps z (nrstFree s) := by
  unfold nrstFree
  dsimp only
  repeat' first | (with_reducible first | assumption | rfl | intro _ | apply keeps_blkMode | apply keeps_blkTmp | apply keeps_logMode | apply keeps_logHold) | split

/-! ### Machine/Entropy.lean -/

theorem keeps_rngDraw {z : State} {s : State} {add : Bytes} {n : Nat} {pr : Bool} (hk : Keeps z s) {a : Bytes} {t : State} (he : rngDraw s add n pr = .inr (a, t)) :
    Keeps z t := by
  unfold rngDraw at he
  try dsimp only at he
  repeat' split at he
  all_goals cases he
  all_goals repeat' first | (with_reducible first | assumption | rfl | intro _ | apply keeps_blkRng | apply keeps_housekeep | apply keeps_ite) | split

theorem keeps_rngInternal {z : State} {s : State} {n : Nat} (hk : Keeps z s)  {a : Bytes} {t : State} (e : rngInternal s n = .inr (a, t)) :
    Keeps z t := by
  unfold rngInternal at e
  try dsimp only at e
  repeat' split at e
  all_goals cases e
  all_goals repeat' first | (with_reducible first | assumption | rfl | intro _ | apply keeps_onRng) | (refine keeps_rngDraw ?_ (by with_reducible assumption)) | split

theorem keeps_rngFail {z : State} {s : State} {cause : Nat} (hk : Keeps z s) :
    Keeps z (rngFail s cause) := by
  unfold rngFail
  try dsimp only
  repeat' first | (with_reducible first | assumption | rfl | intro _ | apply keeps_onRng | apply keeps_logSD | apply keeps_alarmSet | apply keeps_ite) | split

theorem keeps_instantiateWhen {z : State} {s : State} (hk : Keeps z s) :
    Keeps z (instantiateWhen s) := by
  unfold instantiateWhen
  repeat' first | (with_reducible first | assumption | rfl | intro _ | apply keeps_housekeep | apply keeps_onRng | apply keeps_ite) | split

theorem keeps_condition {z : State} {s : State} (hk : Keeps z s) :
    Keeps z (condition s) := by
  unfold condition
  try dsimp only
  repeat' first | (with_reducible first | assumption | rfl | intro _ | apply keeps_instantiateWhen | apply keeps_housekeep | apply keeps_onRng | apply keeps_ite) | split

theorem keeps_gather {z : State} {s : State} {b : Bool} (hk : Keeps z s) :
    Keeps z (gather s b) := by
  unfold gather
  try dsimp only
  repeat' first | (with_reducible first | assumption | rfl | intro _ | apply keeps_condition | apply keeps_onRng | apply keeps_ite) | split

theorem keeps_sampleIn {z : State} {s : State} {b : Bool} (hk : Keeps z s) :
    Keeps z (sampleIn s b) := by
  unfold sampleIn
  try dsimp only
  repeat' first | (with_reducible first | assumption | rfl | intro _ | apply keeps_onRng | apply keeps_rngFail | apply keeps_gather | apply keeps_condition | apply keeps_ite) | split

theorem keeps_rawIn {z : State} {s : State} {osc : BitVec 16} (hk : Keeps z s) :
    Keeps z (rawIn s osc) := by
  unfold rawIn
  try dsimp only
  repeat' first | (with_reducible first | assumption | rfl | intro _ | apply keeps_onRng | apply keeps_sampleIn | apply keeps_ite) | split

theorem keeps_sourceRun {z : State} {s : State} {osc : List (BitVec 16)} (hk : Keeps z s) :
    Keeps z (sourceRun s osc) := by
  unfold sourceRun
  repeat' first | (with_reducible first | assumption | rfl | intro _ | apply keeps_rawIn | apply keeps_foldl | apply keeps_ite) | split

theorem keeps_execStartupTestPass {z : State} {osc : List (BitVec 16)} {s : State} (hk : Keeps z s) :
    OutKeeps z (execStartupTestPass osc s) := by
  unfold execStartupTestPass
  repeat' first | (with_reducible first | assumption | rfl | intro _ | apply keeps_sourceRun | apply keeps_ite | apply outKeeps_ite | apply outKeeps_next) | split

theorem keeps_execConditioningBlock {z : State} {osc : List (BitVec 16)} {s : State} (hk : Keeps z s) :
    OutKeeps z (execConditioningBlock osc s) := by
  unfold execConditioningBlock
  repeat' first | (with_reducible first | assumption | rfl | intro _ | apply keeps_sourceRun | apply keeps_ite | apply outKeeps_ite | apply outKeeps_next) | split

theorem keeps_execHealthTestFailure {z : State} {cause : Nat} {s : State} (hk : Keeps z s)  :
    OutKeeps z (execHealthTestFailure cause s) := by
  unfold execHealthTestFailure
  repeat' first | (with_reducible first | assumption | rfl | intro _ | apply keeps_rngFail | apply keeps_ite | apply outKeeps_ite | apply outKeeps_next) | split

theorem keeps_execReseedTickDue {z : State} {s : State} (hk : Keeps z s)  :
    OutKeeps z (execReseedTickDue s) := by
  unfold execReseedTickDue
  repeat' first | (with_reducible first | assumption | rfl | intro _ | apply keeps_onRng | apply keeps_ite | apply outKeeps_ite | apply outKeeps_next) | split

theorem keeps_execReseed {z : State} {s : State} (hk : Keeps z s) :
    OutKeeps z (execReseed s) := by
  unfold execReseed
  repeat' first | (with_reducible first | assumption | rfl | intro _ | apply keeps_housekeep | apply keeps_onRng | apply keeps_ite | apply outKeeps_ite | apply outKeeps_next) | split

theorem keeps_execRawCapture {z : State} {v : Word} {s : State} (hk : Keeps z s) :
    OutKeeps z (execRawCapture v s) := by
  unfold execRawCapture
  try dsimp only
  repeat' first | (with_reducible first | assumption | rfl | intro _ | apply keeps_onE | apply keeps_onRng | apply keeps_refuseAcc | apply keeps_ite | apply outKeeps_ite | apply outKeeps_next) | split

/-! ### Machine/EngBase.lean -/

theorem keeps_monRaise {z : State} {s : State} {blk : Nat} (hk : Keeps z s)  :
    Keeps z (monRaise s blk) := by
  unfold monRaise
  dsimp only
  repeat' first | (with_reducible first | assumption | rfl | intro _ | apply keeps_setCore) | split

theorem keeps_monLower {z : State} {s : State} {blk : Nat} (hk : Keeps z s)  :
    Keeps z (monLower s blk) := by
  unfold monLower
  dsimp only
  repeat' first | (with_reducible first | assumption | rfl | intro _ | apply keeps_setCore) | split

theorem keeps_cyclesOr {z : State} {s : State} {cycles : Option Nat} (hk : Keeps z s)  {a : Nat} {t : State} (e : cyclesOr s cycles = (a, t)) :
    Keeps z t := by
  unfold cyclesOr at e
  try dsimp only at e
  repeat' split at e
  all_goals cases e
  all_goals repeat' first | (with_reducible first | assumption | rfl | intro _ | apply keeps_freeBytes_p) | (refine keeps_freeBytes ?_ (by with_reducible assumption)) | split

theorem keeps_cyclesOr_p {z : State} {s : State} {cycles : Option Nat} (hk : Keeps z s) : Keeps z (cyclesOr s cycles).2 := keeps_cyclesOr hk (Prod.eta _).symm

theorem keeps_pushRes {z : State} {s : State} {tag : Word} {e res outLen : Nat} {blocks : Nat} (hk : Keeps z s) :
    Keeps z (pushRes s tag e res outLen blocks) := by
  unfold pushRes
  try dsimp only
  repeat' first | (with_reducible first | assumption | rfl | intro _ | apply keeps_blkEng | apply keeps_cyclesOr_p | apply keeps_monRaise | apply keeps_ite) | (refine keeps_cyclesOr ?_ (by with_reducible assumption)) | split

theorem keeps_pushPkeRes {z : State} {s : State} {tag : Word} {e res outLen : Nat} {cycles : Option Nat} (hk : Keeps z s)  :
    Keeps z (pushPkeRes s tag e res outLen cycles) := by
  unfold pushPkeRes
  dsimp only
  repeat' first | (with_reducible first | assumption | rfl | intro _ | apply keeps_blkPke | apply keeps_monRaise | apply keeps_cyclesOr_p) | (refine keeps_cyclesOr ?_ (by with_reducible assumption)) | split

theorem keeps_laneWipe {z : State} {s : State} {o : LaneOp} (hk : Keeps z s) :
    Keeps z (laneWipe s o) := by
  unfold laneWipe
  repeat' first | (with_reducible first | assumption | rfl | intro _ | apply keeps_blkSram | apply twf_tputN | apply twf_tclear | apply twf_tput | apply keeps_ite | apply optKeeps_getD) | split

theorem keeps_laneAbort {z : State} {s : State} {e : Nat} {res : Nat} {o : LaneOp} (hk : Keeps z s) :
    Keeps z (laneAbort s e res o) := by
  unfold laneAbort
  repeat' first | (with_reducible first | assumption | rfl | intro _ | apply keeps_pushRes | apply keeps_laneWipe | apply keeps_ite | apply optKeeps_getD) | split

theorem keeps_laneAbortAll {z : State} {res : Nat} {s : State} {e : Nat} (hk : Keeps z s)  :
    Keeps z (laneAbortAll res s e) := by
  unfold laneAbortAll
  repeat' first | (with_reducible first | assumption | rfl | intro _ | apply keeps_setLane | apply keeps_laneAbort | apply keeps_foldl) | split

theorem keeps_pkeTag_p {z : State} {s : State} {o : PkeOp} (hk : Keeps z s) : Keeps z (pkeTag s o).2 := by
  unfold pkeTag
  try dsimp only
  repeat' first | (with_reducible first | assumption | rfl | intro _ | apply keeps_freeBytes_p | apply keeps_ite | apply optKeeps_getD) | (refine keeps_freeBytes ?_ (by with_reducible assumption)) | split

theorem keeps_pkeTag {z : State} {s : State} {o : PkeOp} (hk : Keeps z s) {a : Word} {t : State} (he : pkeTag s o = (a, t)) : Keeps z t := by
  have h' := keeps_pkeTag_p hk (z := z) (s := s) (o := o)
  rw [he] at h'
  exact h'

theorem keeps_pkeEnded {z : State} {s : State} {p res : Nat} {o : PkeOp} (hk : Keeps z s) :
    Keeps z (pkeEnded s p res o) := by
  unfold pkeEnded
  try dsimp only
  repeat' first | (with_reducible first | assumption | rfl | intro _ | apply keeps_blkPke | apply keeps_pkeTag_p | apply keeps_pushPkeRes | apply keeps_ite) | (refine keeps_pkeTag ?_ (by with_reducible assumption)) | split

theorem keeps_pkeAbortAll {z : State} {res : Nat} {s : State} {p : Nat} (hk : Keeps z s) :
    Keeps z (pkeAbortAll res s p) := by
  unfold pkeAbortAll
  try dsimp only
  repeat' first | (with_reducible first | assumption | rfl | intro _ | apply keeps_pkeEnded | apply keeps_setPke | apply keeps_foldl | apply keeps_ite) | split

theorem keeps_abortCust {z : State} {s : State} {res : Nat} (hk : Keeps z s)  :
    Keeps z (abortCust s res) := by
  unfold abortCust
  repeat' first | (with_reducible first | assumption | rfl | intro _ | apply keeps_blkCus | apply keeps_custStop | apply keeps_ite) | split

theorem keeps_abortEngines {z : State} {s : State} {res : Nat} (hk : Keeps z s)  :
    Keeps z (abortEngines s res) := by
  unfold abortEngines
  dsimp only
  repeat' first | (with_reducible first | assumption | rfl | intro _ | apply keeps_pkeAbortAll | apply keeps_abortCust | apply keeps_laneAbortAll | apply keeps_foldl) | split

theorem keeps_ringAbort {z : State} {f : Nat → Bool} {status : Nat} {s : State} {k : Nat} (hk : Keeps z s)  :
    Keeps z (ringAbort f status s k) := by
  unfold ringAbort
  dsimp only
  repeat' first | (with_reducible first | assumption | rfl | intro _ | apply keeps_endRunning | apply keeps_foldl | apply keeps_ite) | split

theorem keeps_abortCommands {z : State} {s : State} {f : Nat → Bool} {status : Nat} (hk : Keeps z s)  :
    Keeps z (abortCommands s f status) := by
  unfold abortCommands
  repeat' first | (with_reducible first | assumption | rfl | intro _ | apply keeps_ringAbort | apply keeps_foldl) | split

theorem keeps_tripAbort {z : State} {status : Nat} {s : State} {t : Trip} (hk : Keeps z s) :
    Keeps z (tripAbort status s t) := by
  unfold tripAbort
  try dsimp only
  repeat' first | (with_reducible first | assumption | rfl | intro _ | apply keeps_blkHif | apply keeps_endRunning | apply keeps_tripDrop | apply keeps_ite) | split

theorem keeps_abortTrips {z : State} {s : State} {status : Nat} (hk : Keeps z s)  :
    Keeps z (abortTrips s status) := by
  unfold abortTrips
  dsimp only
  repeat' first | (with_reducible first | assumption | rfl | intro _ | apply keeps_blkEng | apply keeps_tripAbort | apply keeps_foldl) | split

/-! ### Machine/CanBase.lean -/

theorem keeps_setCan {z : State} {s : State} {ch : Nat} {c : CanCh} (hk : Keeps z s)  :
    Keeps z (setCan s ch c) := by
  unfold setCan
  repeat' first | (with_reducible first | assumption | rfl | intro _ | apply keeps_blkCan0 | apply keeps_blkCan1 | apply keeps_ite) | split

theorem keeps_pickTx {z : State} {s : State} {ch : Nat} (hk : Keeps z s) :
    Keeps z (pickTx s ch) := by
  unfold pickTx
  try dsimp only
  repeat' first | (with_reducible first | assumption | rfl | intro _ | apply keeps_setCan | apply keeps_ite) | split

theorem keeps_canIrq {z : State} {s : State} {ch : Nat} (hk : Keeps z s) :
    Keeps z (canIrq s ch) := by
  unfold canIrq
  repeat' first | (with_reducible first | assumption | rfl | intro _ | apply keeps_monLower | apply keeps_monRaise | apply keeps_ite) | split

theorem keeps_loadTx {z : State} {s : State} {ch b : Nat} {f : CanFrame} (hk : Keeps z s)  :
    Keeps z (loadTx s ch b f) := by
  unfold loadTx
  repeat' first | (with_reducible first | assumption | rfl | intro _ | apply keeps_setCan | apply keeps_pickTx) | split

theorem keeps_sendFrame {z : State} {s : State} {ch : Nat} {f : CanFrame} (hk : Keeps z s) :
    Keeps z (sendFrame s ch f) := by
  unfold sendFrame
  repeat' first | (with_reducible first | assumption | rfl | intro _ | apply keeps_blkVoe | apply keeps_loadTx | apply keeps_ite) | split

theorem keeps_drainOut {z : State} {s : State} (hk : Keeps z s)  :
    Keeps z (drainOut s) := by
  unfold drainOut
  dsimp only
  repeat' first | (with_reducible first | assumption | rfl | intro _ | apply keeps_blkVoe | apply keeps_sendFrame | apply keeps_foldl) | split

theorem keeps_broadcast {z : State} {s : State} {pri typ : Nat} {pay : Bytes} (hk : Keeps z s)  :
    Keeps z (broadcast s pri typ pay) := by
  unfold broadcast
  dsimp only
  repeat' first | (with_reducible first | assumption | rfl | intro _ | apply keeps_blkVoe | apply keeps_sendFrame | apply keeps_foldl | apply keeps_ite) | split

theorem keeps_sendAlarm {z : State} {s : State} {src : Nat} {t : Stamp} (hk : Keeps z s)  :
    Keeps z (sendAlarm s src t) := by
  unfold sendAlarm
  repeat' first | (with_reducible first | assumption | rfl | intro _ | apply keeps_broadcast) | split

/-! ### Machine/CusBase.lean -/

theorem keeps_onCus {z : State} {s : State} {f : Cus → Cus} (hk : Keeps z s) (hf : (f s.cus).latch.isSet = true → (f s.cus).latch = s.cus.latch) :
    Keeps z (onCus s f) := by
  unfold onCus
  repeat' first | (with_reducible first | assumption | rfl | intro _ | apply keeps_blkCus | apply hf) | split

theorem keeps_logLatch {z : State} {s : State} {l : Latch} (hk : Keeps z s)  :
    Keeps z (logLatch s l) := by
  unfold logLatch
  repeat' first | (with_reducible first | assumption | rfl | intro _ | apply keeps_logS) | split

theorem keeps_latchClear {z s : State} (h : Keeps z s) : Keeps z (latchClear s) := by
  unfold latchClear
  split
  · exact keeps_onCus (keeps_blkFlt (keeps_logLatch h)) (fun e => by cases e)
  · exact h

theorem keeps_sendStatus {z : State} {s : State} {st : Nat} (hk : Keeps z s)  :
    Keeps z (sendStatus s st) := by
  unfold sendStatus
  repeat' first | (with_reducible first | assumption | rfl | intro _ | apply keeps_broadcast) | split

theorem keeps_reqClose {z : State} {s : State} {st waitStatus : Nat} (hk : Keeps z s)  :
    Keeps z (reqClose s st waitStatus) := by
  unfold reqClose
  dsimp only
  repeat' first | (with_reducible first | assumption | rfl | intro _ | apply keeps_endWaits | apply keeps_onCus | apply keeps_sendStatus | apply keeps_ite) | split

theorem keeps_runStop {z : State} {s : State} {res : Nat} (hk : Keeps z s)  :
    Keeps z (runStop s res) := by
  unfold runStop
  repeat' first | (with_reducible first | assumption | rfl | intro _ | apply keeps_onCus | apply keeps_ite) | split

theorem keeps_custCancelAll {z : State} {s : State} {st res : Nat} (hk : Keeps z s)  :
    Keeps z (custCancelAll s st res) := by
  unfold custCancelAll
  repeat' first | (with_reducible first | assumption | rfl | intro _ | apply keeps_reqClose | apply keeps_runStop | apply keeps_latchClear) | split

theorem keeps_latchUse {z : State} {s : State} (hk : Keeps z s) : Keeps z (latchUse s) := by
  unfold latchUse onCus
  exact keeps_reqClose (keeps_blkCusUsed (keeps_logLatch hk) fun _ => ⟨true, rfl⟩)

theorem keeps_latchConsume {z : State} {s : State} (hk : Keeps z s) :
    Keeps z (latchConsume s) := by
  unfold latchConsume
  repeat' first | (with_reducible first | assumption | rfl | intro _ | apply keeps_latchUse | apply keeps_reqClose | apply keeps_latchClear | apply keeps_ite) | split

theorem keeps_runLost {z : State} {s : State} {n : Nat} (hk : Keeps z s) :
    Keeps z (runLost s n) := by
  unfold runLost
  try dsimp only
  repeat' first | (with_reducible first | assumption | rfl | intro _ | apply keeps_runStop | apply keeps_onCus | apply keeps_reqClose | apply keeps_ite) | split

theorem keeps_slotLost {z : State} {s : State} {n : Nat} (hk : Keeps z s) :
    Keeps z (slotLost s n) := by
  unfold slotLost
  try dsimp only
  repeat' first | (with_reducible first | assumption | rfl | intro _ | apply keeps_latchClear | apply keeps_onCus | apply keeps_runLost | apply keeps_ite) | split

theorem keeps_slotCheck {z : State} {s0 s : State} {n : Nat} (hk : Keeps z s) (hs0 : Keeps z s0) :
    Keeps z (slotCheck s0 s n) := by
  unfold slotCheck
  repeat' first | (with_reducible first | assumption | rfl | intro _ | apply keeps_slotLost | apply keeps_ite) | split

theorem keeps_custHalt {z : State} {s : State} (hk : Keeps z s) :
    Keeps z (custHalt s) := by
  unfold custHalt
  try dsimp only
  repeat' first | (with_reducible first | assumption | rfl | intro _ | apply keeps_custStop | apply keeps_reqClose | apply keeps_ite) | split

/-! ### Machine/Engines.lean -/

theorem keeps_engPost {z : State} {s : State} {v : Word} (hk : Keeps z s)  :
    Keeps z (engPost s v) := by
  unfold engPost
  dsimp only
  repeat' first | (with_reducible first | assumption | rfl | intro _ | apply keeps_setLane | apply keeps_logOther | apply keeps_ite) | split

theorem keeps_execEngPostGo {z : State} {v : Word} {s : State} (hk : Keeps z s)  :
    OutKeeps z (execEngPostGo v s) := by
  unfold execEngPostGo
  repeat' first | (with_reducible first | assumption | rfl | intro _ | apply keeps_engPost | apply keeps_onE | apply outKeeps_next) | split

theorem keeps_engPop {z : State} {s : State} (hk : Keeps z s)  :
    Keeps z (engPop s) := by
  unfold engPop
  dsimp only
  repeat' first | (with_reducible first | assumption | rfl | intro _ | apply keeps_blkEng | apply keeps_monLower | apply keeps_ite) | split

theorem keeps_execEngRespop {z : State} {s : State} (hk : Keeps z s)  :
    OutKeeps z (execEngRespop s) := by
  unfold execEngRespop
  repeat' first | (with_reducible first | assumption | rfl | intro _ | apply keeps_engPop | apply keeps_onE | apply outKeeps_next) | split

theorem keeps_laneDma_p {z : State} {s : State} {o : LaneOp} {write : Bool} {addr len : Nat} {f : LaneOp × State} (hk : Keeps z s) (hf : Keeps z f.2) : Keeps z (laneDma s o write addr len f).2 := by
  unfold laneDma
  try dsimp only
  repeat' first | (with_reducible first | assumption | rfl | intro _ | apply keeps_refuseAcc | apply keeps_ite) | split

theorem keeps_laneDma {z : State} {s : State} {o : LaneOp} {write : Bool} {addr len : Nat} {f : LaneOp × State} (hk : Keeps z s) (hf : Keeps z f.2) {a : LaneOp} {t : State} (he : laneDma s o write addr len f = (a, t)) : Keeps z t := by
  have h' := keeps_laneDma_p hk hf (z := z) (s := s) (o := o) (write := write) (addr := addr) (len := len) (f := f)
  rw [he] at h'
  exact h'

theorem keeps_lanePut_p {z : State} {s : State} {e : Nat} {o : LaneOp} {b : Bytes} (hk : Keeps z s) : Keeps z (lanePut s e o b).2 := by
  unfold lanePut
  try dsimp only
  repeat' first | (with_reducible first | assumption | rfl | intro _ | apply keeps_freeBytes_p | apply keeps_laneDma_p | apply keeps_sramWrite | apply keeps_ite | apply optKeeps_getD) | (refine keeps_freeBytes ?_ (by with_reducible assumption)) | (refine keeps_laneDma ?_ (by with_reducible assumption)) | split

theorem keeps_lanePut {z : State} {s : State} {e : Nat} {o : LaneOp} {b : Bytes} (hk : Keeps z s) {a : LaneOp} {t : State} (he : lanePut s e o b = (a, t)) : Keeps z t := by
  have h' := keeps_lanePut_p hk (z := z) (s := s) (e := e) (o := o) (b := b)
  rw [he] at h'
  exact h'

theorem keeps_laneStart_p {z : State} {s : State} {e : Nat} {o : LaneOp} (hk : Keeps z s) : Keeps z (laneStart s e o).2 := by
  unfold laneStart
  try dsimp only
  repeat' first | (with_reducible first | assumption | rfl | intro _ | apply keeps_laneDma_p | apply keeps_ite | apply optKeeps_getD) | (refine keeps_laneDma ?_ (by with_reducible assumption)) | split

theorem keeps_laneStart {z : State} {s : State} {e : Nat} {o : LaneOp} (hk : Keeps z s) {a : LaneOp} {t : State} (he : laneStart s e o = (a, t)) : Keeps z t := by
  have h' := keeps_laneStart_p hk (z := z) (s := s) (e := e) (o := o)
  rw [he] at h'
  exact h'

theorem keeps_laneTake_p {z : State} {s : State} {o : LaneOp} {n : Nat} (hk : Keeps z s) : Keeps z (laneTake s o n).2 := by
  unfold laneTake
  try dsimp only
  repeat' first | (with_reducible first | assumption | rfl | intro _ | apply keeps_laneDma_p | apply keeps_ite | apply optKeeps_getD) | (refine keeps_laneDma ?_ (by with_reducible assumption)) | split

theorem keeps_laneTake {z : State} {s : State} {o : LaneOp} {n : Nat} (hk : Keeps z s) {a : LaneOp} {t : State} (he : laneTake s o n = (a, t)) : Keeps z t := by
  have h' := keeps_laneTake_p hk (z := z) (s := s) (o := o) (n := n)
  rw [he] at h'
  exact h'

theorem keeps_laneMove_p {z : State} {s : State} {e : Nat} {o : LaneOp} {n : Nat} (hk : Keeps z s) : Keeps z (laneMove s e o n).2 := by
  unfold laneMove
  try dsimp only
  repeat' first | (with_reducible first | assumption | rfl | intro _ | apply keeps_laneTake_p | apply keeps_lanePut_p | apply keeps_ite) | (refine keeps_laneTake ?_ (by with_reducible assumption)) | (refine keeps_lanePut ?_ (by with_reducible assumption)) | split

theorem keeps_laneMove {z : State} {s : State} {e : Nat} {o : LaneOp} {n : Nat} (hk : Keeps z s) {a : LaneOp} {t : State} (he : laneMove s e o n = (a, t)) : Keeps z t := by
  have h' := keeps_laneMove_p hk (z := z) (s := s) (e := e) (o := o) (n := n)
  rw [he] at h'
  exact h'

theorem keeps_laneQuantum_p {z : State} {s : State} {e : Nat} {o : LaneOp} (hk : Keeps z s) : Keeps z (laneQuantum s e o).2 := by
  unfold laneQuantum
  try dsimp only
  repeat' first | (with_reducible first | assumption | rfl | intro _ | apply keeps_laneStart_p | apply keeps_freeBytes_p | apply keeps_laneMove_p | apply keeps_ite) | (refine keeps_laneStart ?_ (by with_reducible assumption)) | (refine keeps_freeBytes ?_ (by with_reducible assumption)) | (refine keeps_laneMove ?_ (by with_reducible assumption)) | split

theorem keeps_laneQuantum {z : State} {s : State} {e : Nat} {o : LaneOp} (hk : Keeps z s) {a : LaneOp} {t : State} (he : laneQuantum s e o = (a, t)) : Keeps z t := by
  have h' := keeps_laneQuantum_p hk (z := z) (s := s) (e := e) (o := o)
  rw [he] at h'
  exact h'

theorem keeps_laneRun {z : State} {s : State} {e cls fn : Nat} (hk : Keeps z s) :
    Keeps z (laneRun s e cls fn) := by
  unfold laneRun
  try dsimp only
  repeat' first | (with_reducible first | assumption | rfl | intro _ | apply keeps_laneQuantum_p | apply keeps_setLane | apply keeps_ite) | (refine keeps_laneQuantum ?_ (by with_reducible assumption)) | split

theorem keeps_laneFinish_p {z : State} {s : State} {e : Nat} {o : LaneOp} (hk : Keeps z s) : Keeps z (laneFinish s e o).2.1 := by
  unfold laneFinish
  try dsimp only
  repeat' first | (with_reducible first | assumption | rfl | intro _ | apply keeps_laneMove_p | apply keeps_lanePut_p | apply keeps_laneWipe | apply keeps_ite) | (refine keeps_laneMove ?_ (by with_reducible assumption)) | (refine keeps_lanePut ?_ (by with_reducible assumption)) | split

theorem keeps_laneFinish {z : State} {s : State} {e : Nat} {o : LaneOp} (hk : Keeps z s) {a : LaneOp} {b : Bool} {t : State} (he : laneFinish s e o = (a, t, b)) : Keeps z t := by
  have h' := keeps_laneFinish_p hk (z := z) (s := s) (e := e) (o := o)
  rw [he] at h'
  exact h'

theorem keeps_laneEnd {z : State} {s : State} {e : Nat} {o : LaneOp} (hk : Keeps z s) :
    Keeps z (laneEnd s e o) := by
  unfold laneEnd
  try dsimp only
  repeat' first | (with_reducible first | assumption | rfl | intro _ | apply keeps_laneFinish_p | apply keeps_setLane | apply keeps_laneAbort | apply keeps_pushRes | apply keeps_ite | apply optKeeps_getD) | (refine keeps_laneFinish ?_ (by with_reducible assumption)) | split

theorem keeps_execEngineOpEnd {z : State} {e : Nat} {s : State} (hk : Keeps z s) :
    OutKeeps z (execEngineOpEnd e s) := by
  unfold execEngineOpEnd
  repeat' first | (with_reducible first | assumption | rfl | intro _ | apply keeps_laneEnd | apply keeps_ite | apply outKeeps_ite | apply outKeeps_next) | split

theorem keeps_pkeSeed {z : State} {s : State} (hk : Keeps z s)  :
    Keeps z (pkeSeed s) := by
  unfold pkeSeed
  repeat' first | (with_reducible first | assumption | rfl | intro _ | apply keeps_ite) | (refine keeps_rngInternal ?_ (by with_reducible assumption)) | split

theorem keeps_runQuantum {z : State} {s : State} {e cls : Nat} (hk : Keeps z s) :
    Keeps z (runQuantum s e cls) := by
  unfold runQuantum
  try dsimp only
  repeat' first | (with_reducible first | assumption | rfl | intro _ | apply keeps_blkGlb | apply keeps_blkEng | apply keeps_laneRun | apply keeps_pkeSeed | apply keeps_setPke | apply keeps_ite) | split

theorem keeps_pkeZero {z : State} {s : State} {p : Nat} (hk : Keeps z s)  :
    Keeps z (pkeZero s p) := by
  unfold pkeZero
  dsimp only
  repeat' first | (with_reducible first | assumption | rfl | intro _ | apply keeps_setPke | apply keeps_foldl) | split

theorem keeps_execQuantumBoundary {z : State} {e : Nat} {s : State} (hk : Keeps z s) :
    OutKeeps z (execQuantumBoundary e s) := by
  unfold execQuantumBoundary
  try dsimp only
  repeat' first | (with_reducible first | assumption | rfl | intro _ | apply keeps_blkGlb | apply keeps_blkEng | apply keeps_custHalt | apply keeps_pkeZero | apply keeps_runQuantum | apply keeps_setPke | apply keeps_ite | apply outKeeps_ite | apply outKeeps_next | apply optKeeps_getD) | split

theorem keeps_pkePost {z : State} {s : State} {v : Word} (hk : Keeps z s)  :
    Keeps z (pkePost s v) := by
  unfold pkePost
  dsimp only
  repeat' first | (with_reducible first | assumption | rfl | intro _ | apply keeps_setPke | apply keeps_logOther | apply keeps_ite) | split

theorem keeps_execPkePostGo {z : State} {v : Word} {s : State} (hk : Keeps z s)  :
    OutKeeps z (execPkePostGo v s) := by
  unfold execPkePostGo
  repeat' first | (with_reducible first | assumption | rfl | intro _ | apply keeps_pkePost | apply keeps_onE | apply outKeeps_next) | split

theorem keeps_pkePop {z : State} {s : State} (hk : Keeps z s)  :
    Keeps z (pkePop s) := by
  unfold pkePop
  dsimp only
  repeat' first | (with_reducible first | assumption | rfl | intro _ | apply keeps_blkPke | apply keeps_monLower | apply keeps_ite) | split

theorem keeps_execPkeRespop {z : State} {s : State} (hk : Keeps z s)  :
    OutKeeps z (execPkeRespop s) := by
  unfold execPkeRespop
  repeat' first | (with_reducible first | assumption | rfl | intro _ | apply keeps_pkePop | apply keeps_onE | apply outKeeps_next) | split

theorem keeps_execPkeResident {z : State} {p : Nat} {s : State} (h : Keeps z s) :
    OutKeeps z (execPkeResident p s) := by
  unfold execPkeResident
  split
  · exact outKeeps_next h
  dsimp only
  have h2 : Keeps z (pkeZero s p) := keeps_pkeZero h
  generalize pkeZero s p = t at *
  split
  · split
    · exact outKeeps_next (keeps_setPke h2)
    · exact outKeeps_next h2
  · split
    · exact outKeeps_next (keeps_pkeSeed (keeps_blkCus (keeps_setPke h2) (fun _ => rfl)))
    · exact outKeeps_next h2

theorem keeps_pkeAny {z : State} {s : State} {n : Nat} (hk : Keeps z s)  {a : Nat} {t : State} (e : pkeAny s n = (a, t)) :
    Keeps z t := by
  unfold pkeAny at e
  try dsimp only at e
  repeat' split at e
  all_goals cases e
  all_goals repeat' first | (with_reducible first | assumption | rfl | intro _ | apply keeps_blkFree) | split

theorem keeps_pkeAny_p {z : State} {s : State} {n : Nat} (hk : Keeps z s) : Keeps z (pkeAny s n).2 := keeps_pkeAny hk (Prod.eta _).symm

theorem keeps_pkeIntEnd_p {z : State} {s : State} {p : Nat} {o : PkeOp} (hk : Keeps z s) : Keeps z (pkeIntEnd s p o).1 := by
  unfold pkeIntEnd
  try dsimp only
  repeat' first | (with_reducible first | assumption | rfl | intro _ | apply keeps_setPke | apply keeps_pkeAny_p | apply keeps_ite | apply optKeeps_getD) | (refine keeps_pkeAny ?_ (by with_reducible assumption)) | split

theorem keeps_pkeIntEnd {z : State} {s : State} {p : Nat} {o : PkeOp} (hk : Keeps z s)  {a : Nat} {t : State} (e : pkeIntEnd s p o = (t, a)) :
    Keeps z t := by
  have := keeps_pkeIntEnd_p (s := s) (p := p) (o := o) hk
  rw [e] at this
  exact this

theorem keeps_pkePointEnd_p {z : State} {s : State} {p : Nat} {o : PkeOp} (hk : Keeps z s) : Keeps z (pkePointEnd s p o).1 := by
  unfold pkePointEnd
  try dsimp only
  repeat' first | (with_reducible first | assumption | rfl | intro _ | apply keeps_setPke | apply keeps_pkeAny_p | apply keeps_ite) | (refine keeps_pkeAny ?_ (by with_reducible assumption)) | split

theorem keeps_pkePointEnd {z : State} {s : State} {p : Nat} {o : PkeOp} (hk : Keeps z s)  {a : Nat} {t : State} (e : pkePointEnd s p o = (t, a)) :
    Keeps z t := by
  have := keeps_pkePointEnd_p (s := s) (p := p) (o := o) hk
  rw [e] at this
  exact this

theorem keeps_pkePolyEnd_p {z : State} {s : State} {p : Nat} {o : PkeOp} (hk : Keeps z s) : Keeps z (pkePolyEnd s p o).1 := by
  unfold pkePolyEnd
  try dsimp only
  repeat' first | (with_reducible first | assumption | rfl | intro _ | apply keeps_freeBytes_p | apply keeps_setPke) | (refine keeps_freeBytes ?_ (by with_reducible assumption)) | split

theorem keeps_pkePolyEnd {z : State} {s : State} {p : Nat} {o : PkeOp} (hk : Keeps z s)  {a : Nat} {t : State} (e : pkePolyEnd s p o = (t, a)) :
    Keeps z t := by
  have := keeps_pkePolyEnd_p (s := s) (p := p) (o := o) hk
  rw [e] at this
  exact this

theorem keeps_pkeRawEnd {z : State} {s : State} {p : Nat} {o : PkeOp} (hk : Keeps z s)  {a : Nat} {t : State} (e : pkeRawEnd s p o = (t, a)) :
    Keeps z t := by
  unfold pkeRawEnd at e
  try dsimp only at e
  repeat' split at e
  all_goals cases e
  all_goals repeat' first | (with_reducible first | assumption | rfl | intro _ | apply keeps_setPke) | split

theorem keeps_pkeRawEnd_p {z : State} {s : State} {p : Nat} {o : PkeOp} (hk : Keeps z s) : Keeps z (pkeRawEnd s p o).1 := keeps_pkeRawEnd hk (Prod.eta _).symm

theorem keeps_pkeCompute_p {z : State} {s : State} {p : Nat} {o : PkeOp} (hk : Keeps z s) : Keeps z (pkeCompute s p o).1 := by
  unfold pkeCompute
  try dsimp only
  repeat' first | (with_reducible first | assumption | rfl | intro _ | apply keeps_pkeIntEnd_p | apply keeps_pkePointEnd_p | apply keeps_pkeRawEnd_p | apply keeps_pkePolyEnd_p | apply keeps_ite) | (refine keeps_pkeIntEnd ?_ (by with_reducible assumption)) | (refine keeps_pkePointEnd ?_ (by with_reducible assumption)) | (refine keeps_pkeRawEnd ?_ (by with_reducible assumption)) | (refine keeps_pkePolyEnd ?_ (by with_reducible assumption)) | split

theorem keeps_pkeCompute {z : State} {s : State} {p : Nat} {o : PkeOp} (hk : Keeps z s)  {a : Nat} {t : State} (e : pkeCompute s p o = (t, a)) :
    Keeps z t := by
  have := keeps_pkeCompute_p (s := s) (p := p) (o := o) hk
  rw [e] at this
  exact this

theorem keeps_pkeRelease {z : State} {s : State} {p : Nat} {o : PkeOp} (hk : Keeps z s)  :
    Keeps z (pkeRelease s p o) := by
  unfold pkeRelease
  dsimp only
  repeat' first | (with_reducible first | assumption | rfl | intro _ | apply keeps_setPke) | split

theorem keeps_rawEnd_p {z : State} {s : State} {h : Nat} {o : PkeOp} (hk : Keeps z s) : Keeps z (rawEnd s h o).1 := by
  unfold rawEnd
  try dsimp only
  repeat' first | (with_reducible first | assumption | rfl | intro _ | apply keeps_blkPke | apply keeps_ite) | split

theorem keeps_rawEnd {z : State} {s : State} {h : Nat} {o : PkeOp} (hk : Keeps z s) {a : Nat} {t : State} (he : rawEnd s h o = (t, a)) : Keeps z t := by
  have h' := keeps_rawEnd_p hk (z := z) (s := s) (h := h) (o := o)
  rw [he] at h'
  exact h'

theorem keeps_pkeDone {z : State} {s : State} {p : Nat} {o : PkeOp} (hk : Keeps z s) :
    Keeps z (pkeDone s p o) := by
  unfold pkeDone
  try dsimp only
  repeat' first | (with_reducible first | assumption | rfl | intro _ | apply keeps_rawEnd_p | apply keeps_pkeTag_p | apply keeps_pushPkeRes | apply keeps_pkeRelease | apply keeps_pkeCompute_p | apply keeps_ite | apply optKeeps_getD) | (refine keeps_rawEnd ?_ (by with_reducible assumption)) | (refine keeps_pkeTag ?_ (by with_reducible assumption)) | (refine keeps_pkeCompute ?_ (by with_reducible assumption)) | split

theorem keeps_execPkeOpEnd {z : State} {p : Nat} {s : State} (hk : Keeps z s) :
    OutKeeps z (execPkeOpEnd p s) := by
  unfold execPkeOpEnd
  repeat' first | (with_reducible first | assumption | rfl | intro _ | apply keeps_pkeDone | apply keeps_ite | apply outKeeps_ite | apply outKeeps_next) | split

/-! ### Machine/Db.lean -/

theorem keeps_setDb {z : State} {s : State} {d : Db} (hk : Keeps z s)  :
    Keeps z (setDb s d) := by
  unfold setDb
  repeat' first | (with_reducible first | assumption | rfl | intro _ | apply keeps_blkSpi0) | split

theorem keeps_flashSpoil {z : State} {s : State} {sel k n : Nat} (hk : Keeps z s) :
    Keeps z (flashSpoil s sel k n) := by
  unfold flashSpoil
  try dsimp only
  repeat' first | (with_reducible first | assumption | rfl | intro _ | apply keeps_blkFlash | apply twf_tputN | apply twf_tclear | apply twf_tput | apply keeps_flashProgram | apply keeps_flashErase | apply keeps_setDb | apply keeps_freeBytes_p | apply keeps_ite) | split

theorem keeps_segWriteAt {z : State} {s : State} {fk : Bytes} {g c : Nat} {body : Bytes} (hk : Keeps z s) :
    Keeps z (segWriteAt s fk g c body) := by
  unfold segWriteAt
  try dsimp only
  repeat' first | (with_reducible first | assumption | rfl | intro _ | apply keeps_blkFlash | apply twf_tputN | apply twf_tclear | apply twf_tput | apply keeps_flashProgram | apply keeps_flashErase | apply keeps_setDb | apply keeps_freeBytes_p | apply keeps_ite) | split

theorem keeps_segWrite {z : State} {s : State} {fk : Bytes} {g : Nat} {body : Bytes} (hk : Keeps z s) :
    Keeps z (segWrite s fk g body) := by
  unfold segWrite
  try dsimp only
  repeat' first | (with_reducible first | assumption | rfl | intro _ | apply keeps_blkFlash | apply twf_tputN | apply twf_tclear | apply twf_tput | apply keeps_flashProgram | apply keeps_flashErase | apply keeps_setDb | apply keeps_freeBytes_p | apply keeps_segWriteAt | apply keeps_ite) | split

theorem keeps_segSpoil {z : State} {s : State} {g c : Nat} (hk : Keeps z s) :
    Keeps z (segSpoil s g c) := by
  unfold segSpoil
  try dsimp only
  repeat' first | (with_reducible first | assumption | rfl | intro _ | apply keeps_blkFlash | apply twf_tputN | apply twf_tclear | apply twf_tput | apply keeps_flashProgram | apply keeps_flashErase | apply keeps_setDb | apply keeps_freeBytes_p | apply keeps_flashSpoil | apply keeps_ite) | split

theorem keeps_segWrites {z : State} {s : State} {fk : Bytes} {g : Nat} {body : Bytes} {bad : Nat} (hk : Keeps z s) :
    Keeps z (segWrites s fk g body bad) := by
  unfold segWrites
  try dsimp only
  repeat' first | (with_reducible first | assumption | rfl | intro _ | apply keeps_blkFlash | apply twf_tputN | apply twf_tclear | apply twf_tput | apply keeps_flashProgram | apply keeps_flashErase | apply keeps_setDb | apply keeps_freeBytes_p | apply keeps_segWriteAt | apply keeps_segSpoil | apply keeps_ite) | split

theorem keeps_dbPage {z : State} {s : State} {fk : Bytes} {p kind id : Nat} {body : Bytes} (hk : Keeps z s) :
    Keeps z (dbPage s fk p kind id body) := by
  unfold dbPage
  try dsimp only
  repeat' first | (with_reducible first | assumption | rfl | intro _ | apply keeps_blkFlash | apply twf_tputN | apply twf_tclear | apply twf_tput | apply keeps_flashProgram | apply keeps_flashErase | apply keeps_setDb | apply keeps_freeBytes_p | apply keeps_ite) | split

theorem optKeeps_dbWrite {z : State} {s : State} {kind id g j : Nat} {body : Bytes} (hk : Keeps z s) : OptKeeps z (dbWrite s kind id g j body) := by
  unfold dbWrite
  try dsimp only
  repeat' first | (with_reducible first | assumption | rfl | intro _ | apply keeps_segWrite | apply keeps_dbPage | apply optKeeps_some | apply optKeeps_none) | split

theorem keeps_dbWrite {z : State} {s : State} {kind id g j : Nat} {body : Bytes} (hk : Keeps z s)  {t : State} (e : dbWrite s kind id g j body = some t) :
    Keeps z t := (optKeeps_dbWrite hk).of t e

theorem keeps_pageRetire {z : State} {s : State} {p : Nat} (hk : Keeps z s) :
    Keeps z (pageRetire s p) := by
  unfold pageRetire
  try dsimp only
  repeat' first | (with_reducible first | assumption | rfl | intro _ | apply keeps_blkFlash | apply twf_tputN | apply twf_tclear | apply twf_tput | apply keeps_flashProgram | apply keeps_flashErase | apply keeps_setDb | apply keeps_freeBytes_p | apply keeps_flashSpoil | apply keeps_ite) | split

theorem keeps_pagesTry_p {z : State} {s : State} {bad : Nat} (hk : Keeps z s) :
    Keeps z ((pagesTry s bad).1) := by
  unfold pagesTry
  try dsimp only
  repeat' first | (with_reducible first | assumption | rfl | intro _ | apply keeps_blkFlash | apply twf_tputN | apply twf_tclear | apply twf_tput | apply keeps_flashProgram | apply keeps_flashErase | apply keeps_setDb | apply keeps_freeBytes_p | apply keeps_pageRetire | apply keeps_ite) | split

theorem keeps_pagesTry {z : State} {s : State} {bad : Nat} (hk : Keeps z s) {t : State} {n : Nat} (e : pagesTry s bad = (t, n)) :
    Keeps z t := by
  have := keeps_pagesTry_p (bad := bad) hk
  rw [e] at this
  exact this

theorem keeps_dbStore_p {z : State} {s : State} {kind id g j : Nat} {body : Bytes} {fail : Word} (hk : Keeps z s) : Keeps z (dbStore s kind id g j body fail).1 := by
  unfold dbStore
  try dsimp only
  repeat' first | (with_reducible first | assumption | rfl | intro _ | apply keeps_pagesTry_p | apply keeps_housekeep | apply keeps_dbPage | apply keeps_segWrites | apply keeps_ite) | (refine keeps_pagesTry ?_ (by with_reducible assumption)) | split

theorem keeps_dbStore {z : State} {s : State} {kind id g j : Nat} {body : Bytes} {fail : Word} (hk : Keeps z s) {a : Nat} {t : State} (he : dbStore s kind id g j body fail = (t, a)) : Keeps z t := by
  have h' := keeps_dbStore_p hk (z := z) (s := s) (kind := kind) (id := id) (g := g) (j := j) (body := body) (fail := fail)
  rw [he] at h'
  exact h'

theorem keeps_dbPutObj_p {z : State} {s : State} {id : Nat} {body : Bytes} {fail : Word} (hk : Keeps z s) : Keeps z (dbPutObj s id body fail).1 := by
  unfold dbPutObj
  try dsimp only
  repeat' first | (with_reducible first | assumption | rfl | intro _ | apply keeps_dbStore_p | apply keeps_ite) | (refine keeps_dbStore ?_ (by with_reducible assumption)) | split

theorem keeps_dbPutObj {z : State} {s : State} {id : Nat} {body : Bytes} {fail : Word} (hk : Keeps z s) {a : Nat} {t : State} (he : dbPutObj s id body fail = (t, a)) : Keeps z t := by
  have h' := keeps_dbPutObj_p hk (z := z) (s := s) (id := id) (body := body) (fail := fail)
  rw [he] at h'
  exact h'

theorem keeps_dbDelObj {z : State} {s : State} {id bad : Nat} (hk : Keeps z s) :
    Keeps z (dbDelObj s id bad) := by
  unfold dbDelObj
  try dsimp only
  repeat' first | (with_reducible first | assumption | rfl | intro _ | apply keeps_segWrites | apply keeps_housekeep | apply keeps_ite) | split

theorem keeps_journalAssoc {z : State} {s : State} {a : Nat} (hk : Keeps z s)  :
    Keeps z (journalAssoc s a) := by
  unfold journalAssoc
  repeat' first | (with_reducible first | assumption | rfl | intro _ | apply optKeeps_dbWrite | apply keeps_ite | apply optKeeps_getD) | (refine keeps_dbWrite ?_ (by with_reducible assumption)) | split

theorem keeps_journalAssocIo_p {z : State} {s : State} {a : Nat} {fail : Word} (hk : Keeps z s) : Keeps z (journalAssocIo s a fail).1 := by
  unfold journalAssocIo
  try dsimp only
  repeat' first | (with_reducible first | assumption | rfl | intro _ | apply keeps_dbStore_p | apply keeps_ite) | (refine keeps_dbStore ?_ (by with_reducible assumption)) | split

theorem keeps_journalAssocIo {z : State} {s : State} {a : Nat} {fail : Word} (hk : Keeps z s) {a : Nat} {t : State} (he : journalAssocIo s a fail = (t, a)) : Keeps z t := by
  have h' := keeps_journalAssocIo_p hk (z := z) (s := s) (a := a) (fail := fail)
  rw [he] at h'
  exact h'

theorem keeps_dbFormat {z : State} {s : State} (hk : Keeps z s)  :
    Keeps z (dbFormat s) := by
  unfold dbFormat
  repeat' first | (with_reducible first | assumption | rfl | intro _ | apply keeps_flashErase) | split

theorem keeps_dbRecover {z : State} {s : State} (hk : Keeps z s)  :
    Keeps z (dbRecover s) := by
  unfold dbRecover
  dsimp only
  repeat' first | (with_reducible first | assumption | rfl | intro _ | apply keeps_dbFormat | apply keeps_logOtherS | apply keeps_setDb | apply keeps_foldl | apply keeps_ite) | split

theorem keeps_execBackgroundErase {z : State} {p : Word} {s : State} (hk : Keeps z s) :
    OutKeeps z (execBackgroundErase p s) := by
  unfold execBackgroundErase
  try dsimp only
  repeat' first | (with_reducible first | assumption | rfl | intro _ | apply keeps_flashErase | apply keeps_setDb | apply keeps_ite | apply outKeeps_ite | apply outKeeps_next) | split

end Sys2Proof.Machine
end

