-- ==== Sys2Proof/Laws/KeepsCrypto.lean ====
section
/-! SUPPORT. Keeps for how host commands run, the cryptographic commands, fuses and the Snuffer. -/
namespace Sys2Proof.Machine

/-! ### Machine/CmdBase.lean -/

theorem keeps_Ans.stop {z : State} {s : State} {status : Nat} (hk : Keeps z s)  :
    AnsKeeps z (Ans.stop s status) := by
  unfold Ans.stop
  repeat' first | (with_reducible first | assumption | rfl | intro _ | apply keeps_id) | split | with_reducible apply ansKeeps_mk

theorem keeps_Ans.bad {z s : State} (h : Keeps z s) : AnsKeeps z (Ans.bad s) := ⟨h, fun _ ht => ht⟩

theorem keeps_Ans.denied {z s : State} (h : Keeps z s) : AnsKeeps z (Ans.denied s) := ⟨h, fun _ ht => ht⟩

theorem keeps_Ans.noKey {z s : State} (h : Keeps z s) : AnsKeeps z (Ans.noKey s) := ⟨h, fun _ ht => ht⟩

theorem keeps_Ans.aborted {z s : State} (h : Keeps z s) : AnsKeeps z (Ans.aborted s) := ⟨h, fun _ ht => ht⟩

theorem keeps_Ans.notReady {z s : State} {w : Nat} (h : Keeps z s) : AnsKeeps z (Ans.notReady s w) := ⟨h, fun _ ht => ht⟩

theorem keeps_conclude {z : State} {k : Nat} {x : Staged} {a : Ans} (ha : AnsKeeps z a) : Keeps z (conclude k x a) := by
  unfold conclude
  dsimp only
  split
  · exact ha.after _ (keeps_blkHif ha.st)
  · apply ha.after
    apply keeps_endRunning
    split
    · exact ha.st
    · exact keeps_emitOut ha.st

theorem keeps_serveCmd {z : State} {s : State} {fn r op : Nat} {f : State → Bytes → Ans} (hk : Keeps z s) (hf : ∀ s b, Keeps z s → AnsKeeps z (f s b)) :
    Keeps z (serveCmd s fn r op f) := by
  unfold serveCmd
  repeat' first | (with_reducible first | assumption | rfl | intro _ | apply keeps_conclude | apply hf) | split

theorem keeps_withKey {z : State} {s : State} {fn : Nat} {d : Bytes} {usage : Nat} {alg : Nat → Bool} {f : State → Slot → Bytes → Ans} (hk : Keeps z s) (hf : ∀ s x b, Keeps z s → AnsKeeps z (f s x b)) :
    AnsKeeps z (withKey s fn d usage alg f) := by
  unfold withKey
  repeat' first | (with_reducible first | assumption | rfl | intro _ | apply hf | apply keeps_Ans.stop | apply keeps_id) | (refine keeps_useKey_inl ?_ (by with_reducible assumption)) | (refine keeps_useKey_inr ?_ (by with_reducible assumption)) | split | with_reducible apply ansKeeps_mk | with_reducible apply AnsKeeps.st | with_reducible apply AnsKeeps.after

theorem keeps_withRandom {z : State} {s : State} {fn : Nat} {d : Bytes} {n : Nat} {f : State → Bytes → Ans} (hk : Keeps z s) (hf : ∀ s b, Keeps z s → AnsKeeps z (f s b)) :
    AnsKeeps z (withRandom s fn d n f) := by
  unfold withRandom
  repeat' first | (with_reducible first | assumption | rfl | intro _ | apply hf | apply keeps_Ans.notReady | apply keeps_id) | (refine keeps_rngDraw ?_ (by with_reducible assumption)) | split | with_reducible apply ansKeeps_mk | with_reducible apply AnsKeeps.st | with_reducible apply AnsKeeps.after

theorem keeps_cmdReset {z : State} {s : State} {cause : Nat} (hk : Keeps z s)  :
    Keeps z (cmdReset s cause) := by
  unfold cmdReset
  repeat' first | (with_reducible first | assumption | rfl | intro _ | apply keeps_blkMode | apply keeps_deviceReset) | split

theorem keeps_announceCmd {z : State} {s : State} {cause len : Nat} {start : Word} (hk : Keeps z s)  :
    Keeps z (announceCmd s cause len start) := by
  unfold announceCmd
  dsimp only
  repeat' first | (with_reducible first | assumption | rfl | intro _ | apply keeps_announce | apply keeps_dimCancel | apply keeps_ite) | split

/-! ### Machine/CmdCrypto.lean -/

theorem keeps_Ans.verified {z : State} {s : State} {reason : Nat} (hk : Keeps z s)  :
    AnsKeeps z (Ans.verified s reason) := by
  unfold Ans.verified
  repeat' first | (with_reducible first | assumption | rfl | intro _ | apply keeps_id) | split | with_reducible apply ansKeeps_mk

theorem keeps_Ans.checked {z : State} {s : State} {ok : Bool} (hk : Keeps z s)  :
    AnsKeeps z (Ans.checked s ok) := by
  unfold Ans.checked
  repeat' first | (with_reducible first | assumption | rfl | intro _ | apply keeps_id) | split | with_reducible apply ansKeeps_mk

theorem keeps_keyed {z : State} {s : State} {fn : Nat} {d : Bytes} {ok : Bool} {engs : List Nat} {usage : Nat} {alg : Nat → Bool} {f : State → Slot → Bytes → Ans} (hk : Keeps z s) (hf : ∀ s x b, Keeps z s → AnsKeeps z (f s x b)) :
    AnsKeeps z (keyed s fn d ok engs usage alg f) := by
  unfold keyed
  repeat' first | (with_reducible first | assumption | rfl | intro _ | apply keeps_withKey | apply keeps_ite | apply ansKeeps_ite | apply hf | apply keeps_Ans.aborted | apply keeps_Ans.bad | apply keeps_id) | split | with_reducible apply ansKeeps_mk | with_reducible apply AnsKeeps.st | with_reducible apply AnsKeeps.after

theorem keeps_aesBlockCmd {z : State} {func : Nat} {dec : Bool} {usage ivLen : Nat} {s : State} {fn : Nat} {d : Bytes} {io : CmdIo} (hk : Keeps z s) :
    AnsKeeps z (aesBlockCmd func dec usage ivLen s fn d io) := by
  unfold aesBlockCmd
  try dsimp only
  repeat' first | (with_reducible first | assumption | rfl | intro _ | apply keeps_keyed | apply keeps_ite | apply ansKeeps_ite | apply keeps_id) | split | with_reducible apply ansKeeps_mk | with_reducible apply AnsKeeps.st | with_reducible apply AnsKeeps.after

theorem keeps_hmacCmd {z : State} {alg : Nat} {ver : Bool} {s : State} {fn : Nat} {d : Bytes} {io : CmdIo} (hk : Keeps z s) :
    AnsKeeps z (hmacCmd alg ver s fn d io) := by
  unfold hmacCmd
  try dsimp only
  repeat' first | (with_reducible first | assumption | rfl | intro _ | apply keeps_keyed | apply keeps_Ans.checked | apply keeps_Ans.verified | apply keeps_ite | apply ansKeeps_ite | apply keeps_id) | split | with_reducible apply ansKeeps_mk | with_reducible apply AnsKeeps.st | with_reducible apply AnsKeeps.after

theorem keeps_gmacCmd {z : State} {ver : Bool} {s : State} {fn : Nat} {d : Bytes} {io : CmdIo} (hk : Keeps z s) :
    AnsKeeps z (gmacCmd ver s fn d io) := by
  unfold gmacCmd
  try dsimp only
  repeat' first | (with_reducible first | assumption | rfl | intro _ | apply keeps_keyed | apply keeps_Ans.checked | apply keeps_ite | apply ansKeeps_ite | apply keeps_id) | split | with_reducible apply ansKeeps_mk | with_reducible apply AnsKeeps.st | with_reducible apply AnsKeeps.after

theorem keeps_cmacCmd {z : State} {ver : Bool} {s : State} {fn : Nat} {d : Bytes} {io : CmdIo} (hk : Keeps z s) :
    AnsKeeps z (cmacCmd ver s fn d io) := by
  unfold cmacCmd
  try dsimp only
  repeat' first | (with_reducible first | assumption | rfl | intro _ | apply keeps_keyed | apply keeps_Ans.verified | apply keeps_ite | apply ansKeeps_ite | apply keeps_id) | split | with_reducible apply ansKeeps_mk | with_reducible apply AnsKeeps.st | with_reducible apply AnsKeeps.after

theorem keeps_gcmEncCmd {z : State} {s : State} {fn : Nat} {d : Bytes} {io : CmdIo} (hk : Keeps z s) :
    AnsKeeps z (gcmEncCmd s fn d io) := by
  unfold gcmEncCmd
  try dsimp only
  repeat' first | (with_reducible first | assumption | rfl | intro _ | apply keeps_keyed | apply keeps_withRandom | apply keeps_ite | apply ansKeeps_ite | apply keeps_id) | split | with_reducible apply ansKeeps_mk | with_reducible apply AnsKeeps.st | with_reducible apply AnsKeeps.after

theorem keeps_gcmDecCmd {z : State} {s : State} {fn : Nat} {d : Bytes} {io : CmdIo} (hk : Keeps z s) :
    AnsKeeps z (gcmDecCmd s fn d io) := by
  unfold gcmDecCmd
  try dsimp only
  repeat' first | (with_reducible first | assumption | rfl | intro _ | apply keeps_keyed | apply keeps_Ans.verified | apply keeps_ite | apply ansKeeps_ite | apply keeps_id) | split | with_reducible apply ansKeeps_mk | with_reducible apply AnsKeeps.st | with_reducible apply AnsKeeps.after

theorem keeps_hashBody {z : State} {s : State} {_fn : Nat} {d : Bytes} {io : CmdIo} (hk : Keeps z s) :
    AnsKeeps z (hashBody s _fn d io) := by
  unfold hashBody
  repeat' first | (with_reducible first | assumption | rfl | intro _ | apply keeps_Ans.bad | apply keeps_Ans.aborted | apply keeps_ite | apply ansKeeps_ite | apply keeps_id) | split | with_reducible apply ansKeeps_mk | with_reducible apply AnsKeeps.st | with_reducible apply AnsKeeps.after

theorem keeps_execAesEcbEncrypt {z : State} {fn r : Nat} {io : CmdIo} {s : State} (hk : Keeps z s)  :
    OutKeeps z (execAesEcbEncrypt fn r io s) := by
  unfold execAesEcbEncrypt
  repeat' first | (with_reducible first | assumption | rfl | intro _ | apply keeps_aesBlockCmd | apply keeps_serveCmd | apply outKeeps_next) | split

theorem keeps_execAesEcbDecrypt {z : State} {fn r : Nat} {io : CmdIo} {s : State} (hk : Keeps z s)  :
    OutKeeps z (execAesEcbDecrypt fn r io s) := by
  unfold execAesEcbDecrypt
  repeat' first | (with_reducible first | assumption | rfl | intro _ | apply keeps_aesBlockCmd | apply keeps_serveCmd | apply outKeeps_next) | split

theorem keeps_execAesCbcEncrypt {z : State} {fn r : Nat} {io : CmdIo} {s : State} (hk : Keeps z s)  :
    OutKeeps z (execAesCbcEncrypt fn r io s) := by
  unfold execAesCbcEncrypt
  repeat' first | (with_reducible first | assumption | rfl | intro _ | apply keeps_aesBlockCmd | apply keeps_serveCmd | apply outKeeps_next) | split

theorem keeps_execAesCbcDecrypt {z : State} {fn r : Nat} {io : CmdIo} {s : State} (hk : Keeps z s)  :
    OutKeeps z (execAesCbcDecrypt fn r io s) := by
  unfold execAesCbcDecrypt
  repeat' first | (with_reducible first | assumption | rfl | intro _ | apply keeps_aesBlockCmd | apply keeps_serveCmd | apply outKeeps_next) | split

theorem keeps_execAesCtrEncrypt {z : State} {fn r : Nat} {io : CmdIo} {s : State} (hk : Keeps z s)  :
    OutKeeps z (execAesCtrEncrypt fn r io s) := by
  unfold execAesCtrEncrypt
  repeat' first | (with_reducible first | assumption | rfl | intro _ | apply keeps_aesBlockCmd | apply keeps_serveCmd | apply outKeeps_next) | split

theorem keeps_execAesCtrDecrypt {z : State} {fn r : Nat} {io : CmdIo} {s : State} (hk : Keeps z s)  :
    OutKeeps z (execAesCtrDecrypt fn r io s) := by
  unfold execAesCtrDecrypt
  repeat' first | (with_reducible first | assumption | rfl | intro _ | apply keeps_aesBlockCmd | apply keeps_serveCmd | apply outKeeps_next) | split

theorem keeps_execHmacSha256Generate {z : State} {fn r : Nat} {io : CmdIo} {s : State} (hk : Keeps z s)  :
    OutKeeps z (execHmacSha256Generate fn r io s) := by
  unfold execHmacSha256Generate
  repeat' first | (with_reducible first | assumption | rfl | intro _ | apply keeps_hmacCmd | apply keeps_serveCmd | apply outKeeps_next) | split

theorem keeps_execHmacSha256Verify {z : State} {fn r : Nat} {io : CmdIo} {s : State} (hk : Keeps z s)  :
    OutKeeps z (execHmacSha256Verify fn r io s) := by
  unfold execHmacSha256Verify
  repeat' first | (with_reducible first | assumption | rfl | intro _ | apply keeps_hmacCmd | apply keeps_serveCmd | apply outKeeps_next) | split

theorem keeps_execHmacSha384512Generate {z : State} {fn r : Nat} {io : CmdIo} {s : State} (hk : Keeps z s)  :
    OutKeeps z (execHmacSha384512Generate fn r io s) := by
  unfold execHmacSha384512Generate
  repeat' first | (with_reducible first | assumption | rfl | intro _ | apply keeps_hmacCmd | apply keeps_serveCmd | apply outKeeps_next) | split

theorem keeps_execHmacSha384512Verify {z : State} {fn r : Nat} {io : CmdIo} {s : State} (hk : Keeps z s)  :
    OutKeeps z (execHmacSha384512Verify fn r io s) := by
  unfold execHmacSha384512Verify
  repeat' first | (with_reducible first | assumption | rfl | intro _ | apply keeps_hmacCmd | apply keeps_serveCmd | apply outKeeps_next) | split

theorem keeps_execAesGmacGenerate {z : State} {fn r : Nat} {io : CmdIo} {s : State} (hk : Keeps z s)  :
    OutKeeps z (execAesGmacGenerate fn r io s) := by
  unfold execAesGmacGenerate
  repeat' first | (with_reducible first | assumption | rfl | intro _ | apply keeps_serveCmd | apply keeps_gmacCmd | apply outKeeps_next) | split

theorem keeps_execAesGmacVerify {z : State} {fn r : Nat} {io : CmdIo} {s : State} (hk : Keeps z s)  :
    OutKeeps z (execAesGmacVerify fn r io s) := by
  unfold execAesGmacVerify
  repeat' first | (with_reducible first | assumption | rfl | intro _ | apply keeps_serveCmd | apply keeps_gmacCmd | apply outKeeps_next) | split

theorem keeps_execAesGcmEncrypt {z : State} {fn r : Nat} {io : CmdIo} {s : State} (hk : Keeps z s)  :
    OutKeeps z (execAesGcmEncrypt fn r io s) := by
  unfold execAesGcmEncrypt
  repeat' first | (with_reducible first | assumption | rfl | intro _ | apply keeps_gcmEncCmd | apply keeps_serveCmd | apply outKeeps_next) | split

theorem keeps_execAesGcmDecrypt {z : State} {fn r : Nat} {io : CmdIo} {s : State} (hk : Keeps z s)  :
    OutKeeps z (execAesGcmDecrypt fn r io s) := by
  unfold execAesGcmDecrypt
  repeat' first | (with_reducible first | assumption | rfl | intro _ | apply keeps_serveCmd | apply keeps_gcmDecCmd | apply outKeeps_next) | split

theorem keeps_execAesCmacGenerate {z : State} {fn r : Nat} {io : CmdIo} {s : State} (hk : Keeps z s)  :
    OutKeeps z (execAesCmacGenerate fn r io s) := by
  unfold execAesCmacGenerate
  repeat' first | (with_reducible first | assumption | rfl | intro _ | apply keeps_cmacCmd | apply keeps_serveCmd | apply outKeeps_next) | split

theorem keeps_execAesCmacVerify {z : State} {fn r : Nat} {io : CmdIo} {s : State} (hk : Keeps z s)  :
    OutKeeps z (execAesCmacVerify fn r io s) := by
  unfold execAesCmacVerify
  repeat' first | (with_reducible first | assumption | rfl | intro _ | apply keeps_cmacCmd | apply keeps_serveCmd | apply outKeeps_next) | split

theorem keeps_execHashCmd {z : State} {fn r : Nat} {io : CmdIo} {s : State} (hk : Keeps z s)  :
    OutKeeps z (execHashCmd fn r io s) := by
  unfold execHashCmd
  repeat' first | (with_reducible first | assumption | rfl | intro _ | apply keeps_hashBody | apply keeps_serveCmd | apply outKeeps_next) | split

theorem keeps_ecdsaSignCmd {z : State} {s : State} {fn : Nat} {d : Bytes} {io : CmdIo} (hk : Keeps z s) :
    AnsKeeps z (ecdsaSignCmd s fn d io) := by
  unfold ecdsaSignCmd
  try dsimp only
  repeat' first | (with_reducible first | assumption | rfl | intro _ | apply keeps_keyed | apply keeps_withRandom | apply keeps_Ans.aborted | apply keeps_Ans.bad | apply keeps_ite | apply ansKeeps_ite | apply keeps_id) | split | with_reducible apply ansKeeps_mk | with_reducible apply AnsKeeps.st | with_reducible apply AnsKeeps.after

theorem keeps_ecdsaVerifyCmd {z : State} {s : State} {_fn : Nat} {d : Bytes} {io : CmdIo} (hk : Keeps z s)  :
    AnsKeeps z (ecdsaVerifyCmd s _fn d io) := by
  unfold ecdsaVerifyCmd
  dsimp only
  repeat' first | (with_reducible first | assumption | rfl | intro _ | apply keeps_ite | apply ansKeeps_ite | apply keeps_Ans.aborted | apply keeps_Ans.bad | apply keeps_Ans.verified | apply keeps_id) | split | with_reducible apply ansKeeps_mk | with_reducible apply AnsKeeps.st | with_reducible apply AnsKeeps.after

theorem keeps_edSignCmd {z : State} {s : State} {fn : Nat} {d : Bytes} {io : CmdIo} (hk : Keeps z s) :
    AnsKeeps z (edSignCmd s fn d io) := by
  unfold edSignCmd
  try dsimp only
  repeat' first | (with_reducible first | assumption | rfl | intro _ | apply keeps_keyed | apply keeps_Ans.aborted | apply keeps_ite | apply ansKeeps_ite | apply keeps_id) | split | with_reducible apply ansKeeps_mk | with_reducible apply AnsKeeps.st | with_reducible apply AnsKeeps.after

theorem keeps_edVerifyCmd {z : State} {s : State} {_fn : Nat} {d : Bytes} {io : CmdIo} (hk : Keeps z s)  :
    AnsKeeps z (edVerifyCmd s _fn d io) := by
  unfold edVerifyCmd
  repeat' first | (with_reducible first | assumption | rfl | intro _ | apply keeps_ite | apply ansKeeps_ite | apply keeps_Ans.aborted | apply keeps_Ans.bad | apply keeps_Ans.verified | apply keeps_id) | split | with_reducible apply ansKeeps_mk

theorem keeps_mlSignCmd {z : State} {s : State} {fn : Nat} {d : Bytes} {io : CmdIo} (hk : Keeps z s) :
    AnsKeeps z (mlSignCmd s fn d io) := by
  unfold mlSignCmd
  try dsimp only
  repeat' first | (with_reducible first | assumption | rfl | intro _ | apply keeps_keyed | apply keeps_withRandom | apply keeps_Ans.aborted | apply keeps_ite | apply ansKeeps_ite | apply keeps_id) | split | with_reducible apply ansKeeps_mk | with_reducible apply AnsKeeps.st | with_reducible apply AnsKeeps.after

theorem keeps_mlVerifyCmd {z : State} {s : State} {_fn : Nat} {d : Bytes} {io : CmdIo} (hk : Keeps z s)  :
    AnsKeeps z (mlVerifyCmd s _fn d io) := by
  unfold mlVerifyCmd
  dsimp only
  repeat' first | (with_reducible first | assumption | rfl | intro _ | apply keeps_ite | apply ansKeeps_ite | apply keeps_Ans.aborted | apply keeps_Ans.bad | apply keeps_Ans.verified | apply keeps_id) | split | with_reducible apply ansKeeps_mk

theorem keeps_hybridCmd {z : State} {s : State} {_fn : Nat} {d : Bytes} {io : CmdIo} (hk : Keeps z s)  :
    AnsKeeps z (hybridCmd s _fn d io) := by
  unfold hybridCmd
  dsimp only
  repeat' first | (with_reducible first | assumption | rfl | intro _ | apply keeps_ite | apply ansKeeps_ite | apply keeps_Ans.aborted | apply keeps_Ans.bad | apply keeps_Ans.verified | apply keeps_id) | split | with_reducible apply ansKeeps_mk

theorem keeps_withRsa {z : State} {s : State} {fn : Nat} {d : Bytes} {usage : Nat} {f : Nat → Bytes → Ans} (hk : Keeps z s) (hf : ∀ a0 a1, AnsKeeps z (f a0 a1)) :
    AnsKeeps z (withRsa s fn d usage f) := by
  unfold withRsa
  repeat' first | (with_reducible first | assumption | rfl | intro _ | apply keeps_ite | apply ansKeeps_ite | apply hf | apply keeps_Ans.aborted | apply keeps_Ans.bad | apply keeps_Ans.stop | apply keeps_id) | split | with_reducible apply ansKeeps_mk | with_reducible apply AnsKeeps.st | with_reducible apply AnsKeeps.after

theorem keeps_rsaSignCmd {z : State} {s : State} {fn : Nat} {d : Bytes} {io : CmdIo} (hk : Keeps z s)  :
    AnsKeeps z (rsaSignCmd s fn d io) := by
  unfold rsaSignCmd
  dsimp only
  repeat' first | (with_reducible first | assumption | rfl | intro _ | apply keeps_withRsa | apply keeps_withRandom | apply keeps_ite | apply ansKeeps_ite | apply keeps_Ans.bad | apply keeps_id) | split | with_reducible apply ansKeeps_mk | with_reducible apply AnsKeeps.st | with_reducible apply AnsKeeps.after

theorem keeps_rsaVerifyCmd {z : State} {s : State} {_fn : Nat} {d : Bytes} {io : CmdIo} (hk : Keeps z s)  :
    AnsKeeps z (rsaVerifyCmd s _fn d io) := by
  unfold rsaVerifyCmd
  dsimp only
  repeat' first | (with_reducible first | assumption | rfl | intro _ | apply keeps_ite | apply ansKeeps_ite | apply keeps_Ans.aborted | apply keeps_Ans.bad | apply keeps_Ans.verified | apply keeps_id) | split | with_reducible apply ansKeeps_mk | with_reducible apply AnsKeeps.st | with_reducible apply AnsKeeps.after

theorem keeps_rsaOaepCmd {z : State} {s : State} {fn : Nat} {d : Bytes} {io : CmdIo} (hk : Keeps z s)  :
    AnsKeeps z (rsaOaepCmd s fn d io) := by
  unfold rsaOaepCmd
  dsimp only
  repeat' first | (with_reducible first | assumption | rfl | intro _ | apply keeps_withRsa | apply keeps_Ans.stop | apply keeps_ite | apply ansKeeps_ite | apply keeps_Ans.bad | apply keeps_id) | split | with_reducible apply ansKeeps_mk | with_reducible apply AnsKeeps.st | with_reducible apply AnsKeeps.after

theorem keeps_pubReadCmd {z : State} {s : State} {fn : Nat} {d : Bytes} {_io : CmdIo} (hk : Keeps z s)  :
    AnsKeeps z (pubReadCmd s fn d _io) := by
  unfold pubReadCmd
  dsimp only
  repeat' first | (with_reducible first | assumption | rfl | intro _ | apply keeps_Ans.denied | apply keeps_keyed | apply keeps_ite | apply ansKeeps_ite | apply keeps_Ans.aborted | apply keeps_Ans.bad | apply keeps_Ans.stop | apply keeps_id) | split | with_reducible apply ansKeeps_mk | with_reducible apply AnsKeeps.st | with_reducible apply AnsKeeps.after

theorem keeps_execEcdsaSign {z : State} {fn r : Nat} {io : CmdIo} {s : State} (hk : Keeps z s)  :
    OutKeeps z (execEcdsaSign fn r io s) := by
  unfold execEcdsaSign
  repeat' first | (with_reducible first | assumption | rfl | intro _ | apply keeps_ecdsaSignCmd | apply keeps_serveCmd | apply outKeeps_next) | split

theorem keeps_execEcdsaVerify {z : State} {fn r : Nat} {io : CmdIo} {s : State} (hk : Keeps z s)  :
    OutKeeps z (execEcdsaVerify fn r io s) := by
  unfold execEcdsaVerify
  repeat' first | (with_reducible first | assumption | rfl | intro _ | apply keeps_ecdsaVerifyCmd | apply keeps_serveCmd | apply outKeeps_next) | split

theorem keeps_execEd25519Sign {z : State} {fn r : Nat} {io : CmdIo} {s : State} (hk : Keeps z s)  :
    OutKeeps z (execEd25519Sign fn r io s) := by
  unfold execEd25519Sign
  repeat' first | (with_reducible first | assumption | rfl | intro _ | apply keeps_edSignCmd | apply keeps_serveCmd | apply outKeeps_next) | split

theorem keeps_execEd25519Verify {z : State} {fn r : Nat} {io : CmdIo} {s : State} (hk : Keeps z s)  :
    OutKeeps z (execEd25519Verify fn r io s) := by
  unfold execEd25519Verify
  repeat' first | (with_reducible first | assumption | rfl | intro _ | apply keeps_serveCmd | apply keeps_edVerifyCmd | apply outKeeps_next) | split

theorem keeps_execMlDsa65Sign {z : State} {fn r : Nat} {io : CmdIo} {s : State} (hk : Keeps z s)  :
    OutKeeps z (execMlDsa65Sign fn r io s) := by
  unfold execMlDsa65Sign
  repeat' first | (with_reducible first | assumption | rfl | intro _ | apply keeps_mlSignCmd | apply keeps_serveCmd | apply outKeeps_next) | split

theorem keeps_execMlDsa65Verify {z : State} {fn r : Nat} {io : CmdIo} {s : State} (hk : Keeps z s)  :
    OutKeeps z (execMlDsa65Verify fn r io s) := by
  unfold execMlDsa65Verify
  repeat' first | (with_reducible first | assumption | rfl | intro _ | apply keeps_mlVerifyCmd | apply keeps_serveCmd | apply outKeeps_next) | split

theorem keeps_execHybridVerify {z : State} {fn r : Nat} {io : CmdIo} {s : State} (hk : Keeps z s)  :
    OutKeeps z (execHybridVerify fn r io s) := by
  unfold execHybridVerify
  repeat' first | (with_reducible first | assumption | rfl | intro _ | apply keeps_hybridCmd | apply keeps_serveCmd | apply outKeeps_next) | split

theorem keeps_execRsaSign {z : State} {fn r : Nat} {io : CmdIo} {s : State} (hk : Keeps z s)  :
    OutKeeps z (execRsaSign fn r io s) := by
  unfold execRsaSign
  repeat' first | (with_reducible first | assumption | rfl | intro _ | apply keeps_rsaSignCmd | apply keeps_serveCmd | apply outKeeps_next) | split

theorem keeps_execRsaVerify {z : State} {fn r : Nat} {io : CmdIo} {s : State} (hk : Keeps z s)  :
    OutKeeps z (execRsaVerify fn r io s) := by
  unfold execRsaVerify
  repeat' first | (with_reducible first | assumption | rfl | intro _ | apply keeps_rsaVerifyCmd | apply keeps_serveCmd | apply outKeeps_next) | split

theorem keeps_execRsaOaepDecrypt {z : State} {fn r : Nat} {io : CmdIo} {s : State} (hk : Keeps z s)  :
    OutKeeps z (execRsaOaepDecrypt fn r io s) := by
  unfold execRsaOaepDecrypt
  repeat' first | (with_reducible first | assumption | rfl | intro _ | apply keeps_rsaOaepCmd | apply keeps_serveCmd | apply outKeeps_next) | split

theorem keeps_execPublicKeyRead {z : State} {fn r : Nat} {io : CmdIo} {s : State} (hk : Keeps z s)  :
    OutKeeps z (execPublicKeyRead fn r io s) := by
  unfold execPublicKeyRead
  repeat' first | (with_reducible first | assumption | rfl | intro _ | apply keeps_pubReadCmd | apply keeps_serveCmd | apply outKeeps_next) | split

theorem keeps_randomCmd {z : State} {s : State} {fn : Nat} {d : Bytes} {_io : CmdIo} (hk : Keeps z s)  :
    AnsKeeps z (randomCmd s fn d _io) := by
  unfold randomCmd
  repeat' first | (with_reducible first | assumption | rfl | intro _ | apply keeps_withRandom | apply keeps_ite | apply ansKeeps_ite | apply keeps_Ans.bad | apply keeps_id) | split | with_reducible apply ansKeeps_mk | with_reducible apply AnsKeeps.st | with_reducible apply AnsKeeps.after

theorem keeps_execRandom {z : State} {fn r : Nat} {io : CmdIo} {s : State} (hk : Keeps z s)  :
    OutKeeps z (execRandom fn r io s) := by
  unfold execRandom
  repeat' first | (with_reducible first | assumption | rfl | intro _ | apply keeps_randomCmd | apply keeps_serveCmd | apply outKeeps_next) | split

/-! ### Machine/TamperBase.lean -/

theorem keeps_trigLogged {z : State} {s : State} {cause : Nat} (hk : Keeps z s) :
    Keeps z (trigLogged s cause) := by
  unfold trigLogged
  repeat' first | (with_reducible first | assumption | rfl | intro _ | apply keeps_logOtherS | apply keeps_ite) | split

theorem keeps_snuffTrig {z : State} {s : State} {cause source : Nat} (hk : Keeps z s) :
    Keeps z (snuffTrig s cause source) := by
  unfold snuffTrig
  try dsimp only
  repeat' first | (with_reducible first | assumption | rfl | intro _ | apply keeps_blkSnf | apply keeps_trigLogged | apply keeps_withAlarm | apply keeps_ite) | split

theorem keeps_tamperAlarm {z : State} {s : State} {k : Nat} (hk : Keeps z s)  :
    Keeps z (tamperAlarm s k) := by
  unfold tamperAlarm
  dsimp only
  repeat' first | (with_reducible first | assumption | rfl | intro _ | apply keeps_withAlarm | apply keeps_wakeTrigger | apply keeps_sendAlarm | apply keeps_irq | apply keeps_ite) | split

theorem keeps_tamperAct {z : State} {s : State} {k : Nat} (hk : Keeps z s)  :
    Keeps z (tamperAct s k) := by
  unfold tamperAct
  dsimp only
  repeat' first | (with_reducible first | assumption | rfl | intro _ | apply keeps_blkTmp | apply keeps_snuffTrig | apply keeps_logS | apply keeps_tamperAlarm | apply keeps_ite) | split

theorem keeps_missed {z : State} {s : State} {k : Nat} (hk : Keeps z s) :
    Keeps z (missed s k) := by
  unfold missed
  repeat' first | (with_reducible first | assumption | rfl | intro _ | apply keeps_blkTmp | apply keeps_ite) | split

theorem keeps_sourceOn {z : State} {s : State} {k : Nat} (hk : Keeps z s) :
    Keeps z (sourceOn s k) := by
  unfold sourceOn
  try dsimp only
  repeat' first | (with_reducible first | assumption | rfl | intro _ | apply keeps_blkTmp | apply keeps_tamperAct | apply keeps_missed | apply keeps_ite) | split

theorem keeps_execTamperSourceAct {z : State} {k : Nat} {s : State} (hk : Keeps z s) :
    OutKeeps z (execTamperSourceAct k s) := by
  unfold execTamperSourceAct
  repeat' first | (with_reducible first | assumption | rfl | intro _ | apply keeps_sourceOn | apply keeps_ite | apply outKeeps_ite | apply outKeeps_next) | split

theorem keeps_execConditionInactive {z : State} {k : Nat} {s : State} (hk : Keeps z s)  :
    OutKeeps z (execConditionInactive k s) := by
  unfold execConditionInactive
  repeat' first | (with_reducible first | assumption | rfl | intro _ | apply keeps_blkTmp | apply outKeeps_next) | split

theorem keeps_disarm {z : State} {s : State} (hk : Keeps z s) :
    Keeps z (disarm s) := by
  unfold disarm
  repeat' first | (with_reducible first | assumption | rfl | intro _ | apply keeps_blkTmp | apply keeps_ite) | split

theorem keeps_armedAct {z : State} {s : State} (hk : Keeps z s)  :
    Keeps z (armedAct s) := by
  unfold armedAct
  repeat' first | (with_reducible first | assumption | rfl | intro _ | apply keeps_tamperAct | apply keeps_foldl | apply keeps_ite) | split

theorem keeps_respAct {z : State} {s : State} {old : Nat → Nat} (hk : Keeps z s)  :
    Keeps z (respAct s old) := by
  unfold respAct
  repeat' first | (with_reducible first | assumption | rfl | intro _ | apply keeps_tamperAct | apply keeps_foldl | apply keeps_ite) | split

theorem keeps_execTmpHold {z : State} {v : Word} {s : State} (hk : Keeps z s) :
    OutKeeps z (execTmpHold v s) := by
  unfold execTmpHold
  repeat' first | (with_reducible first | assumption | rfl | intro _ | apply keeps_withAlarm | apply keeps_ite | apply outKeeps_ite | apply outKeeps_next) | split

theorem keeps_execTmpSticky {z : State} {v : Word} {s : State} (hk : Keeps z s)  :
    OutKeeps z (execTmpSticky v s) := by
  unfold execTmpSticky
  repeat' first | (with_reducible first | assumption | rfl | intro _ | apply keeps_blkTmp | apply keeps_ite | apply outKeeps_ite | apply outKeeps_next) | split

theorem keeps_execTmpCtlLock {z : State} {v : Word} {s : State} (hk : Keeps z s)  :
    OutKeeps z (execTmpCtlLock v s) := by
  unfold execTmpCtlLock
  repeat' first | (with_reducible first | assumption | rfl | intro _ | apply keeps_blkTmp | apply keeps_ite | apply outKeeps_ite | apply outKeeps_next) | split

theorem keeps_stickyConsume {z : State} {s : State} (hk : Keeps z s) :
    Keeps z (stickyConsume s) := by
  unfold stickyConsume
  try dsimp only
  repeat' first | (with_reducible first | assumption | rfl | intro _ | apply keeps_blkTmp | apply keeps_logS | apply keeps_ite) | split

theorem keeps_snuffFlagClear {z : State} {s : State} (hk : Keeps z s)  :
    Keeps z (snuffFlagClear s) := by
  unfold snuffFlagClear
  repeat' first | (with_reducible first | assumption | rfl | intro _ | apply keeps_blkSnf) | split

/-! ### Machine/Fuses.lean -/

theorem keeps_onFus {z : State} {s : State} {f : Fus → Fus} (hk : Keeps z s)  :
    Keeps z (onFus s f) := by
  unfold onFus
  repeat' first | (with_reducible first | assumption | rfl | intro _ | apply keeps_blkFus) | split

theorem keeps_logSec {z : State} {s : State} {w b : Nat} {v : Bool} (hk : Keeps z s)  :
    Keeps z (logSec s w b v) := by
  unfold logSec
  repeat' first | (with_reducible first | assumption | rfl | intro _ | apply keeps_logS) | split

theorem keeps_secFlags {z : State} {s : State} {a : Nat} {v : Word × Word × Word} (hk : Keeps z s)  :
    Keeps z (secFlags s a v) := by
  unfold secFlags
  dsimp only
  repeat' first | (with_reducible first | assumption | rfl | intro _ | apply keeps_logSec | apply keeps_onFus | apply keeps_foldl) | split

theorem keeps_secKindle {z : State} {held : Bool} {s : State} {a : Nat} (hk : Keeps z s)  :
    Keeps z (secKindle held s a) := by
  unfold secKindle
  dsimp only
  repeat' first | (with_reducible first | assumption | rfl | intro _ | apply keeps_secFlags | apply keeps_onFus | apply keeps_ite) | split

theorem keeps_cfgFlag {z : State} {s : State} {w : Nat} (hk : Keeps z s)  :
    Keeps z (cfgFlag s w) := by
  unfold cfgFlag
  dsimp only
  repeat' first | (with_reducible first | assumption | rfl | intro _ | apply keeps_blkCfg | apply keeps_onFus | apply keeps_logSD) | split

theorem keeps_pinFields {z : State} {s : State} (hk : Keeps z s) :
    Keeps z (pinFields s) := by
  unfold pinFields
  try dsimp only
  repeat' first | (with_reducible first | assumption | rfl | intro _ | apply keeps_blkCfg | apply keeps_onFus | apply keeps_ite) | split

theorem keeps_fuseKindle {z : State} {s : State} (hk : Keeps z s) :
    Keeps z (fuseKindle s) := by
  unfold fuseKindle
  try dsimp only
  repeat' first | (with_reducible first | assumption | rfl | intro _ | apply keeps_onFus | apply keeps_secKindle | apply keeps_cfgFlag | apply keeps_pinFields | apply keeps_foldl | apply keeps_ite) | split

theorem keeps_stopAll {z : State} {s : State} (hk : Keeps z s) :
    Keeps z (stopAll s) := by
  unfold stopAll
  try dsimp only
  repeat' first | (with_reducible first | assumption | rfl | intro _ | apply keeps_blkHif | apply keeps_blkVlt | apply keeps_abortEngines | apply keeps_abortCommands | apply keeps_abortTrips | apply keeps_ite) | split

theorem keeps_debugCancel {z : State} {s : State} (hk : Keeps z s) :
    Keeps z (debugCancel s) := by
  unfold debugCancel
  repeat' first | (with_reducible first | assumption | rfl | intro _ | apply keeps_blkMode | apply keeps_annClear | apply keeps_ite) | split

theorem keeps_tightenEffect {z : State} {s : State} {old : Fus} {a : Nat} (hk : Keeps z s) :
    Keeps z (tightenEffect s old a) := by
  unfold tightenEffect
  try dsimp only
  repeat' first | (with_reducible first | assumption | rfl | intro _ | apply keeps_blkMode | apply keeps_deviceReset | apply keeps_stopAll | apply keeps_custCancelAll | apply keeps_debugCancel | apply keeps_armedAct | apply keeps_slotCheck | apply keeps_onFus | apply keeps_ite) | split

theorem keeps_tighten {z : State} {s : State} {a : Nat} {new marg : Word} (hk : Keeps z s)  :
    Keeps z (tighten s a new marg) := by
  unfold tighten
  dsimp only
  repeat' first | (with_reducible first | assumption | rfl | intro _ | apply keeps_logSec | apply keeps_tightenEffect | apply keeps_onFus | apply keeps_foldl) | split

theorem keeps_secPass {z : State} {s : State} {a : Nat} (hk : Keeps z s) :
    Keeps z (secPass s a) := by
  unfold secPass
  try dsimp only
  repeat' first | (with_reducible first | assumption | rfl | intro _ | apply keeps_secFlags | apply keeps_slotCheck | apply keeps_onFus | apply keeps_tighten | apply keeps_ite) | split

theorem keeps_keyPass {z : State} {s : State} {a : Nat} (hk : Keeps z s)  :
    Keeps z (keyPass s a) := by
  unfold keyPass
  dsimp only
  repeat' first | (with_reducible first | assumption | rfl | intro _ | apply keeps_logS | apply keeps_onFus | apply keeps_ite) | split

theorem keeps_fuseTrigger {z : State} {s : State} (hk : Keeps z s)  :
    Keeps z (fuseTrigger s) := by
  unfold fuseTrigger
  repeat' first | (with_reducible first | assumption | rfl | intro _ | apply keeps_onFus | apply keeps_ite) | split

theorem keeps_execRereadInterval {z : State} {s : State} (hk : Keeps z s)  :
    OutKeeps z (execRereadInterval s) := by
  unfold execRereadInterval
  repeat' first | (with_reducible first | assumption | rfl | intro _ | apply keeps_fuseTrigger | apply keeps_ite | apply outKeeps_ite | apply outKeeps_next) | split

theorem keeps_execFusRereadNow {z : State} {s : State} (hk : Keeps z s)  :
    OutKeeps z (execFusRereadNow s) := by
  unfold execFusRereadNow
  repeat' first | (with_reducible first | assumption | rfl | intro _ | apply keeps_fuseTrigger | apply keeps_ite | apply outKeeps_ite | apply outKeeps_next) | split

theorem keeps_rereadEdge {z : State} {s : State} (hk : Keeps z s) :
    Keeps z (rereadEdge s) := by
  unfold rereadEdge
  try dsimp only
  repeat' first | (with_reducible first | assumption | rfl | intro _ | apply keeps_onFus | apply keeps_ite) | split

theorem keeps_execFuseRereadPass {z : State} {s : State} (hk : Keeps z s) :
    OutKeeps z (execFuseRereadPass s) := by
  unfold execFuseRereadPass
  try dsimp only
  repeat' first | (with_reducible first | assumption | rfl | intro _ | apply keeps_onFus | apply keeps_ite | apply outKeeps_ite | apply outKeeps_next) | split

theorem keeps_passNext {z : State} {s : State} (hk : Keeps z s)  :
    Keeps z (passNext s) := by
  unfold passNext
  repeat' first | (with_reducible first | assumption | rfl | intro _ | apply keeps_onFus | apply keeps_ite) | split

theorem keeps_execFuseWordReread {z : State} {nom low high : Word} {s : State} (hk : Keeps z s)  :
    OutKeeps z (execFuseWordReread nom low high s) := by
  unfold execFuseWordReread
  dsimp only
  repeat' first | (with_reducible first | assumption | rfl | intro _ | apply keeps_cfgFlag | apply keeps_passNext | apply keeps_secPass | apply keeps_onFus | apply keeps_keyPass | apply keeps_ite | apply outKeeps_ite | apply outKeeps_next) | split

theorem keeps_tempStep {z : State} {s : State} {t : Int} (hk : Keeps z s)  :
    Keeps z (tempStep s t) := by
  unfold tempStep
  dsimp only
  repeat' first | (with_reducible first | assumption | rfl | intro _ | apply keeps_onFus | apply keeps_fuseTrigger | apply keeps_ite) | split

theorem keeps_execFusePgmGo {z : State} {v : Word} {auth : PgmAuth} {s : State} (hk : Keeps z s) :
    OutKeeps z (execFusePgmGo v auth s) := by
  unfold execFusePgmGo
  try dsimp only
  repeat' first | (with_reducible first | assumption | rfl | intro _ | apply keeps_onFus | apply keeps_latchUse | apply keeps_ite | apply outKeeps_ite | apply outKeeps_next) | split

theorem keeps_cusEffect {z : State} {s : State} {a : Nat} (hk : Keeps z s) :
    Keeps z (cusEffect s a) := by
  unfold cusEffect
  try dsimp only
  repeat' first | (with_reducible first | assumption | rfl | intro _ | apply keeps_slotCheck | apply keeps_onFus | apply keeps_ite) | split

theorem keeps_pgmEnd {z : State} {s : State} {o : PgmOp} {a : Nat} {fail : Bool} (hk : Keeps z s) :
    Keeps z (pgmEnd s o a fail) := by
  unfold pgmEnd
  try dsimp only
  repeat' first | (with_reducible first | assumption | rfl | intro _ | apply keeps_latchClear | apply keeps_onFus | apply keeps_ite) | split

theorem keeps_nrstTake {z : State} {s : State} (hk : Keeps z s) :
    Keeps z (nrstTake s) := by
  unfold nrstTake
  try dsimp only
  repeat' first | (with_reducible first | assumption | rfl | intro _ | apply keeps_blkTmp | apply keeps_blkMode | apply keeps_coreCleared | apply keeps_spi0Cut | apply keeps_nrstFree | apply keeps_ite) | split

theorem keeps_execFusePulseEnd {z : State} {nom low high : Word} {s : State} (hk : Keeps z s) :
    OutKeeps z (execFusePulseEnd nom low high s) := by
  unfold execFusePulseEnd
  try dsimp only
  repeat' first | (with_reducible first | assumption | rfl | intro _ | apply keeps_pgmEnd | apply keeps_onFus | apply keeps_nrstTake | apply keeps_cusEffect | apply keeps_ite | apply outKeeps_ite | apply outKeeps_next) | split

theorem keeps_blowCell {z : State} {s : State} {w : Nat} {b : Word} (hk : Keeps z s) :
    Keeps z (blowCell s w b) := by
  unfold blowCell
  try dsimp only
  repeat' first | (with_reducible first | assumption | rfl | intro _ | apply keeps_onFus | apply keeps_ite) | split

theorem keeps_pulseCell {z : State} {s : State} {w : Nat} {b : Word} (hk : Keeps z s) :
    Keeps z (pulseCell s w b) := by
  unfold pulseCell
  try dsimp only
  repeat' first | (with_reducible first | assumption | rfl | intro _ | apply keeps_freeBytes_p | apply keeps_onFus | apply keeps_ite) | (refine keeps_freeBytes ?_ (by with_reducible assumption)) | split

theorem keeps_blowCopy {z : State} {s : State} {w : Nat} {b : Word} (hk : Keeps z s) :
    Keeps z (blowCopy s w b) := by
  unfold blowCopy
  try dsimp only
  repeat' first | (with_reducible first | assumption | rfl | intro _ | apply keeps_blowCell | apply keeps_cusEffect | apply keeps_ite) | split

theorem keeps_blowRun_p {z : State} {s : State} {k : Nat} {l : List (Nat × Word)} (hk : Keeps z s) :
    Keeps z (blowRun s k l).1 := by
  induction l generalizing s k with
  | nil => exact hk
  | cons p t ih =>
    obtain ⟨w, b⟩ := p
    unfold blowRun
    split
    · dsimp only
      exact keeps_onFus (keeps_pulseCell hk)
    · exact ih (keeps_blowCopy hk)

theorem keeps_blowRun {z : State} {s : State} {k : Nat} {l : List (Nat × Word)} (hk : Keeps z s) {a : Option Nat} {t : State}
    (he : blowRun s k l = (t, a)) : Keeps z t := by
  have h' := keeps_blowRun_p hk (z := z) (s := s) (k := k) (l := l)
  rw [he] at h'
  exact h'

/-! ### Machine/Snuffer.lean -/

theorem keeps_ringTamper {z : State} {s : State} {k : Nat} (hk : Keeps z s)  :
    Keeps z (ringTamper s k) := by
  unfold ringTamper
  dsimp only
  repeat' first | (with_reducible first | assumption | rfl | intro _ | apply keeps_endRunning | apply keeps_setRing | apply keeps_refuseDesc | apply keeps_foldl | apply keeps_ite) | split

theorem keeps_tamperFlight {z : State} {s : State} (hk : Keeps z s)  :
    Keeps z (tamperFlight s) := by
  unfold tamperFlight
  dsimp only
  repeat' first | (with_reducible first | assumption | rfl | intro _ | apply keeps_blkHif | apply keeps_ringTamper | apply keeps_abortEngines | apply keeps_abortTrips | apply keeps_foldl | apply keeps_ite) | split

theorem keeps_bankZero {z : State} {s : State} {decays : Bool} (hk : Keeps z s)  :
    Keeps z (bankZero s decays) := by
  unfold bankZero
  dsimp only
  repeat' first | (with_reducible first | assumption | rfl | intro _ | apply keeps_blkVlt | apply keeps_freeBytes_p | apply keeps_ite) | (refine keeps_freeBytes ?_ (by with_reducible assumption)) | split

theorem keeps_snuffUngate {z : State} {s : State} (hk : Keeps z s) :
    Keeps z (snuffUngate s) := by
  unfold snuffUngate
  try dsimp only
  repeat' first | (with_reducible first | assumption | rfl | intro _ | apply keeps_blkClk | apply keeps_onRng | apply keeps_ite) | split

theorem keeps_snuffRest {z : State} {s : State} (hk : Keeps z s) :
    Keeps z (snuffRest s) := by
  unfold snuffRest
  try dsimp only
  repeat' first | (with_reducible first | assumption | rfl | intro _ | apply keeps_blkMode | apply keeps_blkVlt | apply keeps_custCancelAll | apply keeps_custStop | apply keeps_snuffUngate | apply keeps_onRng | apply keeps_setDb | apply keeps_dimCancel | apply keeps_debugCancel | apply keeps_ite) | split

theorem keeps_snuffLatch {z : State} {s : State} {e : SnuffEnv} (hk : Keeps z s) :
    Keeps z (snuffLatch s e) := by
  unfold snuffLatch
  try dsimp only
  repeat' first | (with_reducible first | assumption | rfl | intro _ | apply keeps_blkMode | apply keeps_blkSnf | apply keeps_ite) | split

theorem keeps_snuffedEnter {z : State} {s : State} {cause : Nat} (hk : Keeps z s) :
    Keeps z (snuffedEnter s cause) := by
  unfold snuffedEnter
  repeat' first | (with_reducible first | assumption | rfl | intro _ | apply keeps_toMode | apply keeps_vfsOff | apply keeps_ite) | split

theorem keeps_retireEnd {z : State} {s : State} (hk : Keeps z s) :
    Keeps z (retireEnd s) := by
  unfold retireEnd
  try dsimp only
  repeat' first | (with_reducible first | assumption | rfl | intro _ | apply keeps_blowRun_p | apply keeps_endWait | apply keeps_deviceReset | apply keeps_snuffFlagClear | apply keeps_ite) | (refine keeps_blowRun ?_ (by with_reducible assumption)) | split

theorem keeps_execSnuffTrigger {z : State} {e : SnuffEnv} {s : State} (hk : Keeps z s)  :
    OutKeeps z (execSnuffTrigger e s) := by
  unfold execSnuffTrigger
  dsimp only
  repeat' first | (with_reducible first | assumption | rfl | intro _ | apply keeps_blkTmp | apply keeps_bankZero | apply keeps_logS | apply keeps_tamperFlight | apply keeps_snuffedEnter | apply keeps_retireEnd | apply keeps_snuffRest | apply keeps_snuffLatch | apply keeps_ite | apply outKeeps_ite | apply outKeeps_next) | split

end Sys2Proof.Machine
end

