-- ==== Sys2Proof/Laws/KeepsKeys.lean ====
section
/-! SUPPORT. Keeps for Voeth, the key commands and custody; what a latch that is set keeps. -/
namespace Sys2Proof.Machine

/-! ### Machine/Voeth.lean -/

theorem keeps_onVoe {z : State} {s : State} {f : Voe → Voe} (hk : Keeps z s)  :
    Keeps z (onVoe s f) := by
  unfold onVoe
  repeat' first | (with_reducible first | assumption | rfl | intro _ | apply keeps_blkVoe) | split

theorem keeps_setPeer {z : State} {s : State} {ch node : Nat} {p : Peer} (hk : Keeps z s)  :
    Keeps z (setPeer s ch node p) := by
  unfold setPeer
  repeat' first | (with_reducible first | assumption | rfl | intro _ | apply keeps_onVoe) | split

theorem keeps_sendAck {z : State} {s : State} {ch node : Nat} (hk : Keeps z s) :
    Keeps z (sendAck s ch node) := by
  unfold sendAck
  repeat' first | (with_reducible first | assumption | rfl | intro _ | apply keeps_sendFrame | apply keeps_ite) | split

theorem keeps_proposalsFail {z : State} {s : State} (hk : Keeps z s)  :
    Keeps z (proposalsFail s) := by
  unfold proposalsFail
  dsimp only
  repeat' first | (with_reducible first | assumption | rfl | intro _ | apply keeps_endWaits | apply keeps_onVoe | apply keeps_foldl) | split

theorem keeps_sessionEnd {z : State} {s : State} {ch node : Nat} (hk : Keeps z s) :
    Keeps z (sessionEnd s ch node) := by
  unfold sessionEnd
  try dsimp only
  repeat' first | (with_reducible first | assumption | rfl | intro _ | apply keeps_setPeer | apply keeps_proposalsFail | apply keeps_onVoe | apply keeps_ite) | split

theorem keeps_sendHello {z : State} {s : State} {ch node : Nat} (hk : Keeps z s) :
    Keeps z (sendHello s ch node) := by
  unfold sendHello
  try dsimp only
  repeat' first | (with_reducible first | assumption | rfl | intro _ | apply keeps_setPeer | apply keeps_sendFrame | apply keeps_ite | apply optKeeps_getD) | (refine keeps_rngInternal ?_ (by with_reducible assumption)) | split

theorem keeps_flushPeer {z : State} {s : State} {node n : Nat} (h : Keeps z s) : Keeps z (flushPeer s node n) := by
  induction n generalizing s with
  | zero => exact h
  | succ n ih =>
    unfold flushPeer
    dsimp only
    split
    · exact h
    · split
      · exact h
      · exact ih (keeps_sendFrame (keeps_setPeer h))

theorem keeps_mirrorQueue {z : State} {s : State} {f : List Bytes → List Bytes} (hk : Keeps z s) :
    Keeps z (mirrorQueue s f) := by
  unfold mirrorQueue
  try dsimp only
  repeat' first | (with_reducible first | assumption | rfl | intro _ | apply keeps_flushPeer | apply keeps_setPeer | apply keeps_ite) | split

theorem keeps_mirrorSend {z : State} {s : State} {typ : Nat} {pay : Bytes} (hk : Keeps z s) :
    Keeps z (mirrorSend s typ pay) := by
  unfold mirrorSend
  try dsimp only
  repeat' first | (with_reducible first | assumption | rfl | intro _ | apply keeps_mirrorQueue | apply keeps_ite) | split

theorem keeps_sendAlign {z : State} {s : State} (hk : Keeps z s) :
    Keeps z (sendAlign s) := by
  unfold sendAlign
  try dsimp only
  repeat' first | (with_reducible first | assumption | rfl | intro _ | apply keeps_onVoe | apply keeps_mirrorQueue | apply keeps_ite | apply optKeeps_getD) | split

theorem keeps_sendStates {z : State} {s : State} (hk : Keeps z s)  :
    Keeps z (sendStates s) := by
  unfold sendStates
  repeat' first | (with_reducible first | assumption | rfl | intro _ | apply keeps_mirrorSend | apply keeps_foldl | apply keeps_ite) | split

theorem keeps_sessionOpen {z : State} {s : State} {ch node : Nat} (hk : Keeps z s) :
    Keeps z (sessionOpen s ch node) := by
  unfold sessionOpen
  try dsimp only
  repeat' first | (with_reducible first | assumption | rfl | intro _ | apply keeps_setPeer | apply keeps_sendAlign | apply keeps_onVoe | apply keeps_sendAlarm | apply keeps_foldl | apply keeps_ite) | split

theorem keeps_openCheck {z : State} {s : State} {ch node : Nat} (hk : Keeps z s)  :
    Keeps z (openCheck s ch node) := by
  unfold openCheck
  dsimp only
  repeat' first | (with_reducible first | assumption | rfl | intro _ | apply keeps_sessionOpen | apply keeps_ite) | split

theorem keeps_peerLost {z : State} {s : State} {ch node : Nat} (hk : Keeps z s) :
    Keeps z (peerLost s ch node) := by
  unfold peerLost
  try dsimp only
  repeat' first | (with_reducible first | assumption | rfl | intro _ | apply keeps_sessionEnd | apply keeps_setPeer | apply keeps_ite) | split

theorem keeps_resend {z : State} {s : State} {ch node : Nat} (hk : Keeps z s)  :
    Keeps z (resend s ch node) := by
  unfold resend
  repeat' first | (with_reducible first | assumption | rfl | intro _ | apply keeps_sendFrame | apply keeps_foldl) | split

theorem keeps_execVoeRto {z : State} {ch : Nat} {node : Byte} {s : State} (hk : Keeps z s) :
    OutKeeps z (execVoeRto ch node s) := by
  unfold execVoeRto
  try dsimp only
  repeat' first | (with_reducible first | assumption | rfl | intro _ | apply keeps_peerLost | apply keeps_resend | apply keeps_setPeer | apply keeps_ite | apply outKeeps_ite | apply outKeeps_next) | split

theorem keeps_execHelloTimer {z : State} {ch : Nat} {s : State} (hk : Keeps z s)  :
    OutKeeps z (execHelloTimer ch s) := by
  unfold execHelloTimer
  dsimp only
  repeat' first | (with_reducible first | assumption | rfl | intro _ | apply keeps_onVoe | apply keeps_sendHello | apply keeps_foldl | apply keeps_ite | apply outKeeps_ite | apply outKeeps_next | apply optKeeps_getD) | split

theorem keeps_execAlignTimer {z : State} {s : State} (hk : Keeps z s)  :
    OutKeeps z (execAlignTimer s) := by
  unfold execAlignTimer
  repeat' first | (with_reducible first | assumption | rfl | intro _ | apply keeps_sendAlign | apply keeps_ite | apply outKeeps_ite | apply outKeeps_next) | split

theorem keeps_voeTrim {z : State} {s : State} {ch : Nat} (hk : Keeps z s)  :
    Keeps z (voeTrim s ch) := by
  unfold voeTrim
  dsimp only
  repeat' first | (with_reducible first | assumption | rfl | intro _ | apply keeps_setCan) | split

theorem keeps_voeTake_p {z : State} {s : State} {ch kind : Nat} (hk : Keeps z s) : Keeps z (voeTake s ch kind).2 := by
  unfold voeTake
  try dsimp only
  repeat' first | (with_reducible first | assumption | rfl | intro _ | apply keeps_voeTrim | apply keeps_canIrq | apply keeps_setCan | apply keeps_ite) | split

theorem keeps_voeTake {z : State} {s : State} {ch kind : Nat} (hk : Keeps z s) {a : Option RxEnt} {t : State} (he : voeTake s ch kind = (a, t)) : Keeps z t := by
  have h' := keeps_voeTake_p hk (z := z) (s := s) (ch := ch) (kind := kind)
  rw [he] at h'
  exact h'

theorem keeps_voeBad {z : State} {s : State} {ch : Nat} {tag : Bool} (hk : Keeps z s)  :
    Keeps z (voeBad s ch tag) := by
  unfold voeBad
  repeat' first | (with_reducible first | assumption | rfl | intro _ | apply keeps_onVoe | apply keeps_logOther | apply keeps_ite) | split

theorem keeps_dataAccept {z : State} {s : State} {ch src : Nat} {e : RxEnt} (hk : Keeps z s)  :
    Keeps z (dataAccept s ch src e) := by
  unfold dataAccept
  dsimp only
  repeat' first | (with_reducible first | assumption | rfl | intro _ | apply keeps_onVoe | apply keeps_setPeer | apply keeps_ite) | split

theorem keeps_execVoethData {z : State} {ch : Nat} {s : State} (hk : Keeps z s) :
    OutKeeps z (execVoethData ch s) := by
  unfold execVoethData
  try dsimp only
  repeat' first | (with_reducible first | assumption | rfl | intro _ | apply keeps_voeTake_p | apply keeps_voeBad | apply keeps_dataAccept | apply keeps_setPeer | apply keeps_ite | apply outKeeps_ite | apply outKeeps_next) | (refine keeps_voeTake ?_ (by with_reducible assumption)) | split

theorem keeps_ackHello {z : State} {s : State} {ch src next : Nat} (hk : Keeps z s)  :
    Keeps z (ackHello s ch src next) := by
  unfold ackHello
  dsimp only
  repeat' first | (with_reducible first | assumption | rfl | intro _ | apply keeps_openCheck | apply keeps_setPeer | apply keeps_ite) | split

theorem keeps_execVoethAck {z : State} {ch : Nat} {s : State} (hk : Keeps z s) :
    OutKeeps z (execVoethAck ch s) := by
  unfold execVoethAck
  try dsimp only
  repeat' first | (with_reducible first | assumption | rfl | intro _ | apply keeps_voeTake_p | apply keeps_ackHello | apply keeps_flushPeer | apply keeps_setPeer | apply keeps_ite | apply outKeeps_ite | apply outKeeps_next) | (refine keeps_voeTake ?_ (by with_reducible assumption)) | split

theorem keeps_execHello {z : State} {ch : Nat} {s : State} (hk : Keeps z s) :
    OutKeeps z (execHello ch s) := by
  unfold execHello
  try dsimp only
  repeat' first | (with_reducible first | assumption | rfl | intro _ | apply keeps_voeTake_p | apply keeps_voeBad | apply keeps_sessionEnd | apply keeps_setPeer | apply keeps_sendAck | apply keeps_sendHello | apply keeps_openCheck | apply keeps_ite | apply outKeeps_ite | apply outKeeps_next) | (refine keeps_voeTake ?_ (by with_reducible assumption)) | split

theorem keeps_inboxTake {z : State} {s : State} {ch typ : Nat} (hk : Keeps z s)  {a : Msg} {t : State} (e : inboxTake s ch typ = some (a, t)) :
    Keeps z t := by
  unfold inboxTake at e
  try dsimp only at e
  repeat' split at e
  all_goals cases e
  all_goals repeat' first | (with_reducible first | assumption | rfl | intro _ | apply keeps_onVoe | apply keeps_ite) | split

theorem keeps_execAlign {z : State} {s : State} (hk : Keeps z s)  :
    OutKeeps z (execAlign s) := by
  unfold execAlign
  dsimp only
  repeat' first | (with_reducible first | assumption | rfl | intro _ | apply keeps_onVoe | apply keeps_ite | apply outKeeps_ite | apply outKeeps_next) | (refine keeps_inboxTake ?_ (by with_reducible assumption)) | split

theorem keeps_seasonSet {z : State} {s : State} {a : Nat} {x : Word} {ovlen : Nat} (hk : Keeps z s)  :
    Keeps z (seasonSet s a x ovlen) := by
  unfold seasonSet
  repeat' first | (with_reducible first | assumption | rfl | intro _ | apply keeps_blkVlt) | split

theorem keeps_seasonDrop {z : State} {s : State} {a : Nat} (hk : Keeps z s)  :
    Keeps z (seasonDrop s a) := by
  unfold seasonDrop
  repeat' first | (with_reducible first | assumption | rfl | intro _ | apply keeps_blkVlt) | split

theorem keeps_sendAnswer {z : State} {s : State} {a sn res : Nat} (hk : Keeps z s)  :
    Keeps z (sendAnswer s a sn res) := by
  unfold sendAnswer
  repeat' first | (with_reducible first | assumption | rfl | intro _ | apply keeps_mirrorSend) | split

theorem keeps_execSeasonPropose {z : State} {s : State} (hk : Keeps z s)  :
    OutKeeps z (execSeasonPropose s) := by
  unfold execSeasonPropose
  dsimp only
  repeat' first | (with_reducible first | assumption | rfl | intro _ | apply keeps_seasonSet | apply keeps_sendAnswer | apply keeps_ite | apply outKeeps_ite | apply outKeeps_next) | (refine keeps_inboxTake ?_ (by with_reducible assumption)) | split

theorem keeps_execSeasonAnswer {z : State} {s : State} (hk : Keeps z s)  :
    OutKeeps z (execSeasonAnswer s) := by
  unfold execSeasonAnswer
  dsimp only
  repeat' first | (with_reducible first | assumption | rfl | intro _ | apply keeps_endWaits | apply keeps_seasonSet | apply keeps_onVoe | apply keeps_seasonDrop | apply keeps_ite | apply outKeeps_ite | apply outKeeps_next) | (refine keeps_inboxTake ?_ (by with_reducible assumption)) | split

theorem keeps_execMirrorSeasonCancel {z : State} {s : State} (hk : Keeps z s)  :
    OutKeeps z (execMirrorSeasonCancel s) := by
  unfold execMirrorSeasonCancel
  dsimp only
  repeat' first | (with_reducible first | assumption | rfl | intro _ | apply keeps_sendAnswer | apply keeps_seasonDrop | apply keeps_ite | apply outKeeps_ite | apply outKeeps_next) | (refine keeps_inboxTake ?_ (by with_reducible assumption)) | split

theorem keeps_execSeasonState {z : State} {s : State} (hk : Keeps z s) :
    OutKeeps z (execSeasonState s) := by
  unfold execSeasonState
  try dsimp only
  repeat' first | (with_reducible first | assumption | rfl | intro _ | apply keeps_logOther | apply keeps_seasonSet | apply keeps_setSeason | apply keeps_ite | apply outKeeps_ite | apply outKeeps_next) | (refine keeps_inboxTake ?_ (by with_reducible assumption)) | split

theorem keeps_voeSent {z : State} {s : State} {ch : Nat} {b : TxBuf} (hk : Keeps z s) :
    Keeps z (voeSent s ch b) := by
  unfold voeSent
  try dsimp only
  repeat' first | (with_reducible first | assumption | rfl | intro _ | apply keeps_onVoe | apply keeps_sendStates | apply keeps_sendAlign | apply keeps_endWaits | apply keeps_ite) | split

theorem keeps_voeNoAck {z : State} {s : State} {ch : Nat} {f : CanFrame} (hk : Keeps z s)  :
    Keeps z (voeNoAck s ch f) := by
  unfold voeNoAck
  repeat' first | (with_reducible first | assumption | rfl | intro _ | apply keeps_latchClear | apply keeps_reqClose | apply keeps_runStop | apply keeps_peerLost | apply keeps_endWaits | apply keeps_ite) | split

/-! ### Machine/CmdKeys.lean -/

theorem keeps_Ans.precond {z : State} {s : State} {a : Nat} (hk : Keeps z s)  :
    AnsKeeps z (Ans.precond s a) := by
  unfold Ans.precond
  repeat' first | (with_reducible first | assumption | rfl | intro _ | apply keeps_id) | split | with_reducible apply ansKeeps_mk

theorem keeps_newKeyCheck {z s : State} {fn : Nat} {d : Bytes} {a : Ans} (h : Keeps z s) (e : newKeyCheck s fn d = .inl a) :
    AnsKeeps z a := by
  unfold newKeyCheck at e
  dsimp only at e
  split at e
  · cases e; exact keeps_Ans.bad h
  split at e
  · cases e; exact keeps_Ans.precond h
  split at e
  · cases e; exact keeps_Ans.stop h
  split at e
  · cases e
  · cases e; exact keeps_Ans.stop h

theorem keeps_stageSlot {z : State} {s : State} {n : Nat} (hk : Keeps z s) :
    Keeps z (stageSlot s n) := by
  unfold stageSlot
  repeat' first | (with_reducible first | assumption | rfl | intro _ | apply keeps_stageKey | apply keeps_ite) | split

theorem keeps_newKey {z : State} {s : State} {fn : Nat} {d : Bytes} {n : Nat} {mat : Bytes} {generated : Bool} (hk : Keeps z s) :
    AnsKeeps z (newKey s fn d n mat generated) := by
  unfold newKey
  try dsimp only
  repeat' first | (with_reducible first | assumption | rfl | intro _ | apply keeps_blkVlt | apply keeps_pendKey | apply keeps_journalAssoc | apply keeps_stageSlot | apply keeps_dropKey | apply keeps_Ans.denied | apply keeps_ite | apply ansKeeps_ite | apply keeps_id) | split | with_reducible apply ansKeeps_mk | with_reducible apply AnsKeeps.st | with_reducible apply AnsKeeps.after

theorem keeps_keyGenerateCmd {z : State} {s : State} {fn : Nat} {d : Bytes} {_io : CmdIo} (hk : Keeps z s)  :
    AnsKeeps z (keyGenerateCmd s fn d _io) := by
  unfold keyGenerateCmd
  dsimp only
  repeat' first | (with_reducible first | assumption | rfl | intro _ | apply keeps_newKey | apply keeps_withRandom | apply keeps_ite | apply ansKeeps_ite | apply keeps_Ans.aborted | apply keeps_Ans.bad | apply keeps_id) | (refine keeps_newKeyCheck ?_ (by with_reducible assumption)) | split | with_reducible apply ansKeeps_mk | with_reducible apply AnsKeeps.st | with_reducible apply AnsKeeps.after

theorem keeps_keyImportCmd {z : State} {s : State} {fn : Nat} {d : Bytes} {io : CmdIo} (hk : Keeps z s)  :
    AnsKeeps z (keyImportCmd s fn d io) := by
  unfold keyImportCmd
  dsimp only
  repeat' first | (with_reducible first | assumption | rfl | intro _ | apply keeps_withKey | apply keeps_newKey | apply keeps_ite | apply ansKeeps_ite | apply keeps_Ans.aborted | apply keeps_Ans.bad | apply keeps_Ans.denied | apply keeps_id) | (refine keeps_newKeyCheck ?_ (by with_reducible assumption)) | split | with_reducible apply ansKeeps_mk | with_reducible apply AnsKeeps.st | with_reducible apply AnsKeeps.after

theorem keeps_keyDeriveCmd {z : State} {s : State} {fn : Nat} {d : Bytes} {io : CmdIo} (hk : Keeps z s)  :
    AnsKeeps z (keyDeriveCmd s fn d io) := by
  unfold keyDeriveCmd
  dsimp only
  repeat' first | (with_reducible first | assumption | rfl | intro _ | apply keeps_withKey | apply keeps_newKey | apply keeps_ite | apply ansKeeps_ite | apply keeps_Ans.aborted | apply keeps_Ans.bad | apply keeps_id) | (refine keeps_newKeyCheck ?_ (by with_reducible assumption)) | split | with_reducible apply ansKeeps_mk | with_reducible apply AnsKeeps.st | with_reducible apply AnsKeeps.after

theorem keeps_ecdhCmd {z : State} {s : State} {fn : Nat} {d : Bytes} {io : CmdIo} (hk : Keeps z s)  :
    AnsKeeps z (ecdhCmd s fn d io) := by
  unfold ecdhCmd
  repeat' first | (with_reducible first | assumption | rfl | intro _ | apply keeps_keyed | apply keeps_newKey | apply keeps_ite | apply ansKeeps_ite | apply keeps_Ans.bad | apply keeps_id) | (refine keeps_newKeyCheck ?_ (by with_reducible assumption)) | split | with_reducible apply ansKeeps_mk | with_reducible apply AnsKeeps.st | with_reducible apply AnsKeeps.after

theorem keeps_withAssoc {z : State} {s : State} {fn : Nat} {d : Bytes} {f : Nat → Assoc → Ans} (hk : Keeps z s) (hf : ∀ a0 a1, AnsKeeps z (f a0 a1)) :
    AnsKeeps z (withAssoc s fn d f) := by
  unfold withAssoc
  dsimp only
  repeat' first | (with_reducible first | assumption | rfl | intro _ | apply keeps_ite | apply ansKeeps_ite | apply hf | apply keeps_Ans.bad | apply keeps_Ans.denied | apply keeps_Ans.noKey | apply keeps_id) | split | with_reducible apply ansKeeps_mk | with_reducible apply AnsKeeps.st | with_reducible apply AnsKeeps.after

theorem keeps_zeroizeCmd {z : State} {s : State} {p : Nat × Slot} (hk : Keeps z s) :
    Keeps z (zeroizeCmd s p) := by
  unfold zeroizeCmd
  try dsimp only
  repeat' first | (with_reducible first | assumption | rfl | intro _ | apply keeps_blkVlt | apply keeps_dropKey | apply keeps_seasonDrop | apply keeps_ite) | split

theorem keeps_keyZeroizeCmd {z : State} {s : State} {fn : Nat} {d : Bytes} {_io : CmdIo} (hk : Keeps z s)  :
    AnsKeeps z (keyZeroizeCmd s fn d _io) := by
  unfold keyZeroizeCmd
  dsimp only
  repeat' first | (with_reducible first | assumption | rfl | intro _ | apply keeps_withAssoc | apply keeps_zeroizeCmd | apply keeps_foldl | apply keeps_Ans.noKey | apply keeps_id) | split | with_reducible apply ansKeeps_mk | with_reducible apply AnsKeeps.st | with_reducible apply AnsKeeps.after

theorem keeps_assocSetCmd {z : State} {s : State} {fn : Nat} {d : Bytes} {io : CmdIo} (hk : Keeps z s) :
    AnsKeeps z (assocSetCmd s fn d io) := by
  unfold assocSetCmd
  refine ansKeeps_ite (fun _ => keeps_Ans.bad hk) (fun _ => keeps_withAssoc hk (fun a x => ?_))
  have h := keeps_journalAssocIo_p (a := a) (fail := io.fail)
    (keeps_blkVlt (v := { s.vlt with assocs := tput none s.vlt.assocs a (some { x with mirror := dOpnd d 4 = 2 }) }) hk)
  split
  · rename_i e
    rw [e] at h
    exact keeps_Ans.aborted (keeps_blkVlt h)
  · rename_i e
    rw [e] at h
    exact ansKeeps_mk h fun _ h => h

theorem keeps_keyCommitCmd {z : State} {s : State} {fn : Nat} {d : Bytes} {_io : CmdIo} (hk : Keeps z s) :
    AnsKeeps z (keyCommitCmd s fn d _io) := by
  unfold keyCommitCmd
  try dsimp only
  repeat' first | (with_reducible first | assumption | rfl | intro _ | apply keeps_blkVlt | apply keeps_withAssoc | apply keeps_dropKey | apply keeps_stageKey | apply keeps_Ans.noKey | apply keeps_Ans.denied | apply keeps_ite | apply ansKeeps_ite | apply keeps_id) | split | with_reducible apply ansKeeps_mk | with_reducible apply AnsKeeps.st | with_reducible apply AnsKeeps.after

theorem keeps_pinSlot_p {z : State} {r : State × Nat} {p : Nat × Slot} (hr : Keeps z r.1) : Keeps z (pinSlot r p).1 := by
  unfold pinSlot
  try dsimp only
  repeat' first | (with_reducible first | assumption | rfl | intro _ | apply keeps_blkVlt | apply keeps_ite) | (refine keeps_slotUse_inl ?_ (by with_reducible assumption)) | (refine keeps_slotUse_inr ?_ (by with_reducible assumption)) | split

theorem keeps_pinSlot {z : State} {r : State × Nat} {p : Nat × Slot} (hr : Keeps z r.1) {a : Nat} {t : State} (he : pinSlot r p = (t, a)) : Keeps z t := by
  have h' := keeps_pinSlot_p hr (z := z) (r := r) (p := p)
  rw [he] at h'
  exact h'

theorem keeps_pinFold {z : State} {l : List (Nat × Slot)} {r : State × Nat} (hr : Keeps z r.1) :
    Keeps z (l.foldl pinSlot r).1 := by
  induction l generalizing r with
  | nil => exact hr
  | cons p l ih => exact ih (keeps_pinSlot_p hr)

theorem keeps_keyPinCmd {z : State} {s : State} {fn : Nat} {d : Bytes} {_io : CmdIo} (hk : Keeps z s) :
    AnsKeeps z (keyPinCmd s fn d _io) := by
  unfold keyPinCmd
  refine keeps_withAssoc hk (fun a x => ?_)
  dsimp only
  have hf : Keeps z ((liveSlots s a).foldl pinSlot (s, 0)).1 := keeps_pinFold hk
  split
  · exact keeps_Ans.noKey hk
  · split
    · exact keeps_Ans.stop hk
    · split
      · exact keeps_Ans.noKey hf
      · exact ansKeeps_mk (keeps_blkVlt hf) fun _ h => h

theorem keeps_keyUnpinCmd {z : State} {s : State} {fn : Nat} {d : Bytes} {_io : CmdIo} (hk : Keeps z s)  :
    AnsKeeps z (keyUnpinCmd s fn d _io) := by
  unfold keyUnpinCmd
  repeat' first | (with_reducible first | assumption | rfl | intro _ | apply keeps_blkVlt | apply keeps_withAssoc | apply keeps_id) | split | with_reducible apply ansKeeps_mk | with_reducible apply AnsKeeps.st | with_reducible apply AnsKeeps.after

theorem keeps_Ans.late {z : State} {s : State} {earliest : Word} (hk : Keeps z s)  :
    AnsKeeps z (Ans.late s earliest) := by
  unfold Ans.late
  repeat' first | (with_reducible first | assumption | rfl | intro _ | apply keeps_id) | split | with_reducible apply ansKeeps_mk

theorem keeps_mirrorAsk {z : State} {s : State} {p : Proposal} {typ : Nat} {pay : Bytes} (hk : Keeps z s) :
    AnsKeeps z (mirrorAsk s p typ pay) := by
  unfold mirrorAsk
  try dsimp only
  repeat' first | (with_reducible first | assumption | rfl | intro _ | apply keeps_sendHello | apply keeps_onVoe | apply keeps_mirrorQueue | apply keeps_Ans.stop | apply keeps_Ans.notReady | apply keeps_ite | apply ansKeeps_ite | apply keeps_id) | split | with_reducible apply ansKeeps_mk | with_reducible apply AnsKeeps.st | with_reducible apply AnsKeeps.after

theorem keeps_seasonScheduleCmd {z : State} {s : State} {fn : Nat} {d : Bytes} {_io : CmdIo} (hk : Keeps z s) :
    AnsKeeps z (seasonScheduleCmd s fn d _io) := by
  unfold seasonScheduleCmd
  try dsimp only
  repeat' first | (with_reducible first | assumption | rfl | intro _ | apply keeps_withAssoc | apply keeps_mirrorAsk | apply keeps_seasonSet | apply keeps_Ans.precond | apply keeps_Ans.late | apply keeps_ite | apply ansKeeps_ite | apply keeps_id) | split | with_reducible apply ansKeeps_mk | with_reducible apply AnsKeeps.st | with_reducible apply AnsKeeps.after

theorem keeps_seasonCancelCmd {z : State} {s : State} {fn : Nat} {d : Bytes} {_io : CmdIo} (hk : Keeps z s)  :
    AnsKeeps z (seasonCancelCmd s fn d _io) := by
  unfold seasonCancelCmd
  dsimp only
  repeat' first | (with_reducible first | assumption | rfl | intro _ | apply keeps_withAssoc | apply keeps_mirrorAsk | apply keeps_seasonDrop | apply keeps_ite | apply ansKeeps_ite | apply keeps_Ans.denied | apply keeps_id) | split | with_reducible apply ansKeeps_mk | with_reducible apply AnsKeeps.st | with_reducible apply AnsKeeps.after

theorem keeps_keyInfoCmd {z : State} {s : State} {fn : Nat} {d : Bytes} {_io : CmdIo} (hk : Keeps z s)  :
    AnsKeeps z (keyInfoCmd s fn d _io) := by
  unfold keyInfoCmd
  repeat' first | (with_reducible first | assumption | rfl | intro _ | apply keeps_withAssoc | apply keeps_id) | split | with_reducible apply ansKeeps_mk | with_reducible apply AnsKeeps.st | with_reducible apply AnsKeeps.after

theorem keeps_Ans.noPage {z : State} {s : State} (hk : Keeps z s)  :
    AnsKeeps z (Ans.noPage s) := by
  unfold Ans.noPage
  repeat' first | (with_reducible first | assumption | rfl | intro _ | apply keeps_id) | split | with_reducible apply ansKeeps_mk

theorem keeps_dbAns {z : State} {r : State × Nat} (hk : Keeps z r.1) : AnsKeeps z (dbAns r) := by
  unfold dbAns
  repeat' first | (with_reducible first | assumption | rfl | intro _ | apply ansKeeps_ite | apply keeps_Ans.aborted | apply keeps_Ans.noPage | apply keeps_id) | split | with_reducible apply ansKeeps_mk

theorem keeps_dbImportCmd {z : State} {s : State} {fn : Nat} {d : Bytes} {io : CmdIo} (hk : Keeps z s)  :
    AnsKeeps z (dbImportCmd s fn d io) := by
  unfold dbImportCmd
  dsimp only
  repeat' first | (with_reducible first | assumption | rfl | intro _ | apply keeps_withKey | apply keeps_withRandom | apply keeps_dbAns | apply keeps_dbPutObj | apply keeps_ite | apply ansKeeps_ite | apply keeps_Ans.aborted | apply keeps_Ans.bad | apply keeps_Ans.denied | apply keeps_Ans.noPage | apply keeps_id) | split | with_reducible apply ansKeeps_mk | with_reducible apply AnsKeeps.st | with_reducible apply AnsKeeps.after

theorem keeps_dbLoadCmd {z : State} {s : State} {fn : Nat} {d : Bytes} {_io : CmdIo} (hk : Keeps z s)  :
    AnsKeeps z (dbLoadCmd s fn d _io) := by
  unfold dbLoadCmd
  dsimp only
  repeat' first | (with_reducible first | assumption | rfl | intro _ | apply keeps_newKey | apply keeps_ite | apply ansKeeps_ite | apply keeps_Ans.aborted | apply keeps_Ans.denied | apply keeps_Ans.noKey | apply keeps_Ans.notReady | apply keeps_Ans.stop | apply keeps_id) | (refine keeps_newKeyCheck ?_ (by with_reducible assumption)) | split | with_reducible apply ansKeeps_mk | with_reducible apply AnsKeeps.st | with_reducible apply AnsKeeps.after

theorem keeps_withObj {z : State} {s : State} {fn : Nat} {d : Bytes} {f : Bytes → Ans} (hk : Keeps z s) (hf : ∀ a0, AnsKeeps z (f a0)) :
    AnsKeeps z (withObj s fn d f) := by
  unfold withObj
  repeat' first | (with_reducible first | assumption | rfl | intro _ | apply keeps_ite | apply ansKeeps_ite | apply hf | apply keeps_Ans.denied | apply keeps_Ans.noKey | apply keeps_id) | split | with_reducible apply ansKeeps_mk | with_reducible apply AnsKeeps.st | with_reducible apply AnsKeeps.after

theorem keeps_dbDeleteCmd {z : State} {s : State} {fn : Nat} {d : Bytes} {io : CmdIo} (hk : Keeps z s)  :
    AnsKeeps z (dbDeleteCmd s fn d io) := by
  unfold dbDeleteCmd
  repeat' first | (with_reducible first | assumption | rfl | intro _ | apply keeps_withObj | apply keeps_dbAns | apply keeps_dbDelObj | apply keeps_ite | apply ansKeeps_ite | apply keeps_Ans.aborted | apply keeps_Ans.denied | apply keeps_id) | split | with_reducible apply ansKeeps_mk | with_reducible apply AnsKeeps.st | with_reducible apply AnsKeeps.after

theorem keeps_dbInfoCmd {z : State} {s : State} {fn : Nat} {d : Bytes} {_io : CmdIo} (hk : Keeps z s)  :
    AnsKeeps z (dbInfoCmd s fn d _io) := by
  unfold dbInfoCmd
  repeat' first | (with_reducible first | assumption | rfl | intro _ | apply keeps_withObj | apply keeps_id) | split | with_reducible apply ansKeeps_mk | with_reducible apply AnsKeeps.st | with_reducible apply AnsKeeps.after

theorem keeps_execEcdhDerive {z : State} {fn r : Nat} {io : CmdIo} {s : State} (hk : Keeps z s)  :
    OutKeeps z (execEcdhDerive fn r io s) := by
  unfold execEcdhDerive
  repeat' first | (with_reducible first | assumption | rfl | intro _ | apply keeps_ecdhCmd | apply keeps_serveCmd | apply outKeeps_next) | split

theorem keeps_execKeyGenerate {z : State} {fn r : Nat} {io : CmdIo} {s : State} (hk : Keeps z s)  :
    OutKeeps z (execKeyGenerate fn r io s) := by
  unfold execKeyGenerate
  repeat' first | (with_reducible first | assumption | rfl | intro _ | apply keeps_keyGenerateCmd | apply keeps_serveCmd | apply outKeeps_next) | split

theorem keeps_execKeyImport {z : State} {fn r : Nat} {io : CmdIo} {s : State} (hk : Keeps z s)  :
    OutKeeps z (execKeyImport fn r io s) := by
  unfold execKeyImport
  repeat' first | (with_reducible first | assumption | rfl | intro _ | apply keeps_keyImportCmd | apply keeps_serveCmd | apply outKeeps_next) | split

theorem keeps_execKeyDerive {z : State} {fn r : Nat} {io : CmdIo} {s : State} (hk : Keeps z s)  :
    OutKeeps z (execKeyDerive fn r io s) := by
  unfold execKeyDerive
  repeat' first | (with_reducible first | assumption | rfl | intro _ | apply keeps_keyDeriveCmd | apply keeps_serveCmd | apply outKeeps_next) | split

theorem keeps_execKeyZeroize {z : State} {fn r : Nat} {io : CmdIo} {s : State} (hk : Keeps z s)  :
    OutKeeps z (execKeyZeroize fn r io s) := by
  unfold execKeyZeroize
  repeat' first | (with_reducible first | assumption | rfl | intro _ | apply keeps_serveCmd | apply keeps_keyZeroizeCmd | apply outKeeps_next) | split

theorem keeps_execAssocSet {z : State} {fn r : Nat} {io : CmdIo} {s : State} (hk : Keeps z s)  :
    OutKeeps z (execAssocSet fn r io s) := by
  unfold execAssocSet
  repeat' first | (with_reducible first | assumption | rfl | intro _ | apply keeps_serveCmd | apply keeps_assocSetCmd | apply outKeeps_next) | split

theorem keeps_execKeyCommit {z : State} {fn r : Nat} {io : CmdIo} {s : State} (hk : Keeps z s)  :
    OutKeeps z (execKeyCommit fn r io s) := by
  unfold execKeyCommit
  repeat' first | (with_reducible first | assumption | rfl | intro _ | apply keeps_keyCommitCmd | apply keeps_serveCmd | apply outKeeps_next) | split

theorem keeps_execKeyPin {z : State} {fn r : Nat} {io : CmdIo} {s : State} (hk : Keeps z s)  :
    OutKeeps z (execKeyPin fn r io s) := by
  unfold execKeyPin
  repeat' first | (with_reducible first | assumption | rfl | intro _ | apply keeps_keyPinCmd | apply keeps_serveCmd | apply outKeeps_next) | split

theorem keeps_execKeyUnpin {z : State} {fn r : Nat} {io : CmdIo} {s : State} (hk : Keeps z s)  :
    OutKeeps z (execKeyUnpin fn r io s) := by
  unfold execKeyUnpin
  repeat' first | (with_reducible first | assumption | rfl | intro _ | apply keeps_serveCmd | apply keeps_keyUnpinCmd | apply outKeeps_next) | split

theorem keeps_execSeasonSchedule {z : State} {fn r : Nat} {io : CmdIo} {s : State} (hk : Keeps z s)  :
    OutKeeps z (execSeasonSchedule fn r io s) := by
  unfold execSeasonSchedule
  repeat' first | (with_reducible first | assumption | rfl | intro _ | apply keeps_serveCmd | apply keeps_seasonScheduleCmd | apply outKeeps_next) | split

theorem keeps_execSeasonCancel {z : State} {fn r : Nat} {io : CmdIo} {s : State} (hk : Keeps z s)  :
    OutKeeps z (execSeasonCancel fn r io s) := by
  unfold execSeasonCancel
  repeat' first | (with_reducible first | assumption | rfl | intro _ | apply keeps_seasonCancelCmd | apply keeps_serveCmd | apply outKeeps_next) | split

theorem keeps_execKeyInfo {z : State} {fn r : Nat} {io : CmdIo} {s : State} (hk : Keeps z s)  :
    OutKeeps z (execKeyInfo fn r io s) := by
  unfold execKeyInfo
  repeat' first | (with_reducible first | assumption | rfl | intro _ | apply keeps_serveCmd | apply keeps_keyInfoCmd | apply outKeeps_next) | split

theorem keeps_execDbImport {z : State} {fn r : Nat} {io : CmdIo} {s : State} (hk : Keeps z s)  :
    OutKeeps z (execDbImport fn r io s) := by
  unfold execDbImport
  repeat' first | (with_reducible first | assumption | rfl | intro _ | apply keeps_dbImportCmd | apply keeps_serveCmd | apply outKeeps_next) | split

theorem keeps_execDbLoad {z : State} {fn r : Nat} {io : CmdIo} {s : State} (hk : Keeps z s)  :
    OutKeeps z (execDbLoad fn r io s) := by
  unfold execDbLoad
  repeat' first | (with_reducible first | assumption | rfl | intro _ | apply keeps_dbLoadCmd | apply keeps_serveCmd | apply outKeeps_next) | split

theorem keeps_execDbDelete {z : State} {fn r : Nat} {io : CmdIo} {s : State} (hk : Keeps z s)  :
    OutKeeps z (execDbDelete fn r io s) := by
  unfold execDbDelete
  repeat' first | (with_reducible first | assumption | rfl | intro _ | apply keeps_dbDeleteCmd | apply keeps_serveCmd | apply outKeeps_next) | split

theorem keeps_execDbInfo {z : State} {fn r : Nat} {io : CmdIo} {s : State} (hk : Keeps z s)  :
    OutKeeps z (execDbInfo fn r io s) := by
  unfold execDbInfo
  repeat' first | (with_reducible first | assumption | rfl | intro _ | apply keeps_serveCmd | apply keeps_dbInfoCmd | apply outKeeps_next) | split

/-! ### Machine/Custody.lean -/

theorem keeps_sendRequest {z : State} {s : State} (hk : Keeps z s)  :
    Keeps z (sendRequest s) := by
  unfold sendRequest
  repeat' first | (with_reducible first | assumption | rfl | intro _ | apply keeps_broadcast) | split

theorem keeps_custCommitRun_p {z : State} {s : State} (hk : Keeps z s) : Keeps z (custCommitRun s).1 := by
  unfold custCommitRun
  try dsimp only
  repeat' first | (with_reducible first | assumption | rfl | intro _ | apply keeps_custCancelAll | apply keeps_onCus | apply keeps_sendRequest | apply keeps_ite) | (refine keeps_rngInternal ?_ (by with_reducible assumption)) | split

theorem keeps_custCommitRun {z : State} {s : State} (hk : Keeps z s) {a : Nat} {b : Nat} {t : State} (he : custCommitRun s = (t, a, b)) : Keeps z t := by
  have h' := keeps_custCommitRun_p hk (z := z) (s := s)
  rw [he] at h'
  exact h'

theorem keeps_execCustCommit {z : State} {v : Word} {s : State} (hk : Keeps z s)  :
    OutKeeps z (execCustCommit v s) := by
  unfold execCustCommit
  repeat' first | (with_reducible first | assumption | rfl | intro _ | apply keeps_custCommitRun_p | apply keeps_onE | apply keeps_ite | apply outKeeps_ite | apply outKeeps_next) | (refine keeps_custCommitRun ?_ (by with_reducible assumption)) | split

theorem keeps_execCustCancel {z : State} {v : Word} {s : State} (hk : Keeps z s)  :
    OutKeeps z (execCustCancel v s) := by
  unfold execCustCancel
  repeat' first | (with_reducible first | assumption | rfl | intro _ | apply keeps_onE | apply keeps_custCancelAll | apply keeps_ite | apply outKeeps_ite | apply outKeeps_next) | split

theorem keeps_execCustVerify {z : State} {v : Word} {s : State} (hk : Keeps z s)  :
    OutKeeps z (execCustVerify v s) := by
  unfold execCustVerify
  repeat' first | (with_reducible first | assumption | rfl | intro _ | apply keeps_onE | apply keeps_onCus | apply keeps_ite | apply outKeeps_ite | apply outKeeps_next) | split

theorem keeps_custRunOver {z : State} {s : State} (hk : Keeps z s)  :
    Keeps z (custRunOver s) := by
  unfold custRunOver
  repeat' first | (with_reducible first | assumption | rfl | intro _ | apply keeps_onCus | apply keeps_setPke) | split

/-- A latch newly set is the one thing that Keeps does not allow. -/
theorem latchSet_rest {z s : State} {a b : Nat} (h : Keeps z s) :
    (latchSet s a b).pending = z.pending ∧ (z.memWf = true → (latchSet s a b).memWf = true)
      ∧ (z.groupsOk = true → (latchSet s a b).groupsOk = true) := by
  have aux : ∀ (c : Cus), Keeps (s.setCus c) (s.setCus c) := fun c => Keeps.refl _
  have k : ∃ c, Keeps (s.setCus c) (latchSet s a b) := by
    refine ⟨{ s.cus with
                         latch := { isSet := true, op := reqOp s, slotA := a, slotB := b, reqNo := reqNoOf s
                                    record := s.cus.req, form := s.cus.form },
                         result := 0, which := false, state := 1 }, ?_⟩
    unfold latchSet
    dsimp only
    refine keeps_sendStatus ?_
    split
    · exact keeps_blkFlt (keeps_logLatch (aux _))
    · exact keeps_logLatch (aux _)
  obtain ⟨c, k⟩ := k
  exact ⟨k.1.trans h.1, fun hz => k.2 (h.2 hz), fun hz => k.3 (h.3 hz)⟩

theorem custodyVerifyEnd_rest {z s t : State} (h : Keeps z s) (e : execCustodyVerifyEnd s = .next t) :
    t.pending = z.pending ∧ (z.memWf = true → t.memWf = true) ∧ (z.groupsOk = true → t.groupsOk = true) := by
  unfold execCustodyVerifyEnd at e
  split at e
  · cases e; exact ⟨h.1, h.2, h.3⟩
  · dsimp only at e
    have k := keeps_custRunOver h
    split at e
    · cases e; exact latchSet_rest k
    · cases e
      have k2 := fun (res : Nat) (w : Bool) => keeps_reqClose (st := 5) (waitStatus := 0x21)
        (keeps_latchClear (keeps_onCus (f := fun c => { c with result := res, which := w }) k (fun _ => rfl)))
      exact ⟨(k2 _ _).1, (k2 _ _).2, (k2 _ _).3⟩

theorem keeps_execRequestExpiry {z : State} {s : State} (hk : Keeps z s) :
    OutKeeps z (execRequestExpiry s) := by
  unfold execRequestExpiry
  repeat' first | (with_reducible first | assumption | rfl | intro _ | apply keeps_custCancelAll | apply keeps_ite | apply outKeeps_ite | apply outKeeps_next) | split

theorem keeps_execRequestRepeat {z : State} {s : State} (hk : Keeps z s)  :
    OutKeeps z (execRequestRepeat s) := by
  unfold execRequestRepeat
  repeat' first | (with_reducible first | assumption | rfl | intro _ | apply keeps_onCus | apply keeps_sendRequest | apply keeps_ite | apply outKeeps_ite | apply outKeeps_next) | split

theorem keeps_pke0Put {z : State} {s : State} {off : Nat} {b : Bytes} (hk : Keeps z s)  :
    Keeps z (pke0Put s off b) := by
  unfold pke0Put
  repeat' first | (with_reducible first | assumption | rfl | intro _ | apply keeps_setPke) | split

theorem keeps_layApprovals {z : State} {s : State} (hk : Keeps z s)  :
    Keeps z (layApprovals s) := by
  unfold layApprovals
  dsimp only
  repeat' first | (with_reducible first | assumption | rfl | intro _ | apply keeps_pke0Put | apply keeps_ite | apply optKeeps_getD) | split

theorem keeps_logDiscard {z : State} {s : State} {no : Word} {slot : Nat} (hk : Keeps z s)  :
    Keeps z (logDiscard s no slot) := by
  unfold logDiscard
  repeat' first | (with_reducible first | assumption | rfl | intro _ | apply keeps_logD) | split

theorem keeps_execApproval {z : State} {s : State} (hk : Keeps z s)  :
    OutKeeps z (execApproval s) := by
  unfold execApproval
  dsimp only
  repeat' first | (with_reducible first | assumption | rfl | intro _ | apply keeps_layApprovals | apply keeps_onCus | apply keeps_logDiscard | apply keeps_ite | apply outKeeps_ite | apply outKeeps_next) | (refine keeps_inboxTake ?_ (by with_reducible assumption)) | split

theorem keeps_execRefusal {z : State} {s : State} (hk : Keeps z s)  :
    OutKeeps z (execRefusal s) := by
  unfold execRefusal
  dsimp only
  repeat' first | (with_reducible first | assumption | rfl | intro _ | apply keeps_logDiscard | apply keeps_custCancelAll | apply keeps_ite | apply outKeeps_ite | apply outKeeps_next) | (refine keeps_inboxTake ?_ (by with_reducible assumption)) | split

theorem keeps_execCredential {z : State} {n : Nat} {s : State} (hk : Keeps z s)  :
    OutKeeps z (execCredential n s) := by
  unfold execCredential
  repeat' first | (with_reducible first | assumption | rfl | intro _ | apply keeps_refuseWrite | apply keeps_onCus | apply keeps_ite | apply outKeeps_ite | apply outKeeps_next) | (refine keeps_inboxTake ?_ (by with_reducible assumption)) | split

end Sys2Proof.Machine
end

