-- ==== Sys2Proof/Laws/KeepsCores.lean ====
section
/-! SUPPORT. Keeps for the cores, the services, power, serial ports, clocks and CAN. -/
namespace Sys2Proof.Machine

/-! ### Machine/Cores.lean -/

theorem keeps_onCore {z : State} {s : State} {c : Nat} {f : Core → Core} (hk : Keeps z s)  :
    Keeps z (onCore s c f) := by
  unfold onCore
  repeat' first | (with_reducible first | assumption | rfl | intro _ | apply keeps_setCore) | split

theorem keeps_pmcEvent {z : State} {s : State} {c code : Nat} (hk : Keeps z s)  :
    Keeps z (pmcEvent s c code) := by
  unfold pmcEvent
  dsimp only
  repeat' first | (with_reducible first | assumption | rfl | intro _ | apply keeps_setCore | apply keeps_foldl | apply keeps_ite) | split

theorem keeps_pmcRun {z : State} {s : State} {c : Nat} (hk : Keeps z s) :
    Keeps z (pmcRun s c) := by
  unfold pmcRun
  try dsimp only
  repeat' first | (with_reducible first | assumption | rfl | intro _ | apply keeps_freeBytes_p | apply keeps_onCore | apply keeps_foldl | apply keeps_ite) | (refine keeps_freeBytes ?_ (by with_reducible assumption)) | split

theorem keeps_setEncl {z : State} {s : State} {e : Nat} {d : Encl} (hk : Keeps z s)  :
    Keeps z (setEncl s e d) := by
  unfold setEncl
  repeat' first | (with_reducible first | assumption | rfl | intro _ | apply keeps_blkCores) | split

theorem keeps_enclGone {z : State} {s : State} {e : Nat} (hk : Keeps z s)  :
    Keeps z (enclGone s e) := by
  unfold enclGone
  dsimp only
  repeat' first | (with_reducible first | assumption | rfl | intro _ | apply keeps_blkCores | apply keeps_blkSram | apply twf_tputN | apply twf_tclear | apply twf_tput | apply keeps_setEncl | apply keeps_foldl | apply keeps_ite) | split

theorem keeps_enclExit {z : State} {s : State} {c e cause : Nat} (hk : Keeps z s)  :
    Keeps z (enclExit s c e cause) := by
  unfold enclExit
  dsimp only
  repeat' first | (with_reducible first | assumption | rfl | intro _ | apply keeps_enclGone | apply keeps_sramWrite | apply keeps_setEncl | apply keeps_setCore) | split

theorem keeps_raise {z : State} {s : State} {c code : Nat} {info : DWord} {stage2 : Bool} (hk : Keeps z s)  :
    Keeps z (raise s c code info stage2) := by
  unfold raise
  dsimp only
  repeat' first | (with_reducible first | assumption | rfl | intro _ | apply keeps_onCore | apply keeps_enclExit) | split

theorem keeps_illegal {z : State} {s : State} {c : Nat} (hk : Keeps z s)  :
    Keeps z (illegal s c) := by
  unfold illegal
  repeat' first | (with_reducible first | assumption | rfl | intro _ | apply keeps_raise) | split

theorem keeps_instr {z : State} {s : State} {c : Nat} {f : State → State} (hk : Keeps z s) (hf : ∀ s, Keeps z s → Keeps z (f s)) :
    Keeps z (instr s c f) := by
  unfold instr
  dsimp only
  repeat' first | (with_reducible first | assumption | rfl | intro _ | apply keeps_onCore | apply keeps_enclExit | apply keeps_ite | apply hf) | split

theorem keeps_execWgateCall {z : State} {c : Nat} {s : State} (hk : Keeps z s)  :
    OutKeeps z (execWgateCall c s) := by
  unfold execWgateCall
  dsimp only
  repeat' first | (with_reducible first | assumption | rfl | intro _ | apply keeps_instr | apply keeps_illegal | apply keeps_onCore | apply keeps_pmcEvent | apply outKeeps_next) | split

theorem keeps_execWgateReturn {z : State} {c : Nat} {s : State} (hk : Keeps z s) :
    OutKeeps z (execWgateReturn c s) := by
  unfold execWgateReturn
  try dsimp only
  repeat' first | (with_reducible first | assumption | rfl | intro _ | apply keeps_instr | apply keeps_illegal | apply keeps_onCore | apply keeps_ite | apply outKeeps_ite | apply outKeeps_next) | split

theorem keeps_execTret {z : State} {c : Nat} {s : State} (hk : Keeps z s)  :
    OutKeeps z (execTret c s) := by
  unfold execTret
  dsimp only
  repeat' first | (with_reducible first | assumption | rfl | intro _ | apply keeps_instr | apply keeps_illegal | apply keeps_onCore | apply keeps_ite | apply outKeeps_ite | apply outKeeps_next) | split

theorem keeps_execEenter {z : State} {c rs1 rs2 : Nat} {s : State} (hk : Keeps z s) :
    OutKeeps z (execEenter c rs1 rs2 s) := by
  unfold execEenter
  try dsimp only
  repeat' first | (with_reducible first | assumption | rfl | intro _ | apply keeps_instr | apply keeps_illegal | apply keeps_onCore | apply keeps_pmcRun | apply keeps_setEncl | apply keeps_setCore | apply keeps_ite | apply outKeeps_ite | apply outKeeps_next | apply optKeeps_getD) | split

theorem keeps_execEexit {z : State} {c : Nat} {s : State} (hk : Keeps z s)  :
    OutKeeps z (execEexit c s) := by
  unfold execEexit
  dsimp only
  repeat' first | (with_reducible first | assumption | rfl | intro _ | apply keeps_instr | apply keeps_enclGone | apply keeps_illegal | apply keeps_onCore | apply keeps_setEncl | apply outKeeps_next) | split

theorem keeps_pmcRead_p {z : State} {s : State} {c n : Nat} (hk : Keeps z s) : Keeps z (pmcRead s c n).2 := by
  unfold pmcRead
  try dsimp only
  repeat' first | (with_reducible first | assumption | rfl | intro _ | apply keeps_pmcRun | apply keeps_ite) | split

theorem keeps_pmcRead {z : State} {s : State} {c n : Nat} (hk : Keeps z s) {a : DWord} {t : State} (he : pmcRead s c n = (a, t)) : Keeps z t := by
  have h' := keeps_pmcRead_p hk (z := z) (s := s) (c := c) (n := n)
  rw [he] at h'
  exact h'

theorem keeps_ccrRead {z s t : State} {x : Core} {c n : Nat} {a : DWord} (h : Keeps z s)
    (e : ccrRead s x c n = some (a, t)) : Keeps z t := by
  let P := fun (o : Option (DWord × State)) => ∀ a t, o = some (a, t) → Keeps z t
  have ite : ∀ (b : Prop) [Decidable b] (o p : Option (DWord × State)), P o → P p → P (if b then o else p) := by
    intro b _ o p ho hp
    split
    · exact ho
    · exact hp
  have no : P none := fun _ _ e => by cases e
  have rd : ∀ v, P (some (v, s)) := fun v _ _ e => by cases e; exact h
  have pm : P (some (pmcRead s c n)) := fun _ _ e => keeps_pmcRead h (Option.some.inj e)
  have all : P (ccrRead s x c n) := by
    unfold ccrRead
    dsimp only
    repeat' first | exact no | exact rd _ | exact pm | apply ite
  exact all _ _ e

theorem keeps_execCrd {z : State} {c rd : Nat} {n : BitVec 12} {s : State} (hk : Keeps z s)  :
    OutKeeps z (execCrd c rd n s) := by
  unfold execCrd
  repeat' first | (with_reducible first | assumption | rfl | intro _ | apply keeps_instr | apply keeps_illegal | apply keeps_onCore | apply outKeeps_next) | (refine keeps_ccrRead ?_ (by with_reducible assumption)) | split

theorem keeps_pctxPut {z : State} {s : State} {n : Nat} {v : DWord} (hk : Keeps z s)  :
    Keeps z (pctxPut s n v) := by
  unfold pctxPut
  dsimp only
  repeat' first | (with_reducible first | assumption | rfl | intro _ | apply keeps_blkCores | apply keeps_onCore | apply keeps_ite) | split

theorem optKeeps_ccrWrite {z s : State} {x : Core} {c n : Nat} {v : DWord} (h : Keeps z s) :
    OptKeeps z (ccrWrite s x c n v) := by
  have hp : ∀ (ok : Bool) (y : Core), OptKeeps z (if ok = true then some (setCore s c y) else none) := fun ok y =>
    optKeeps_ite (fun _ => optKeeps_some (keeps_setCore h)) (fun _ => optKeeps_none)
  unfold ccrWrite
  dsimp only
  repeat' first | exact hp _ _ | exact optKeeps_none | exact optKeeps_some (keeps_pctxPut h)
                | exact optKeeps_some (keeps_blkCores h)
                | exact optKeeps_some (keeps_onCore (keeps_pmcRun h)) | apply optKeeps_ite | intro _

theorem keeps_ccrWrite {z s t : State} {x : Core} {c n : Nat} {v : DWord} (h : Keeps z s)
    (e : ccrWrite s x c n v = some t) : Keeps z t := (optKeeps_ccrWrite h).of t e

theorem keeps_pctxLog {z : State} {s : State} {x : Core} {n : Nat} (hk : Keeps z s) :
    Keeps z (pctxLog s x n) := by
  unfold pctxLog
  repeat' first | (with_reducible first | assumption | rfl | intro _ | apply keeps_logOther | apply keeps_ite) | split

theorem keeps_execCwr {z : State} {c : Nat} {n : BitVec 12} {rs1 : Nat} {s : State} (hk : Keeps z s)  :
    OutKeeps z (execCwr c n rs1 s) := by
  unfold execCwr
  dsimp only
  repeat' first | (with_reducible first | assumption | rfl | intro _ | apply keeps_instr | apply keeps_illegal | apply keeps_onCore | apply keeps_pctxLog | apply optKeeps_ccrWrite | apply outKeeps_next) | (refine keeps_ccrWrite ?_ (by with_reducible assumption)) | split

theorem keeps_execTfence {z : State} {c rs1 : Nat} {s : State} (hk : Keeps z s)  :
    OutKeeps z (execTfence c rs1 s) := by
  unfold execTfence
  dsimp only
  repeat' first | (with_reducible first | assumption | rfl | intro _ | apply keeps_instr | apply keeps_illegal | apply keeps_onCore | apply keeps_ite | apply outKeeps_ite | apply outKeeps_next) | split

theorem keeps_execEcall {z : State} {c : Nat} {s : State} (hk : Keeps z s)  :
    OutKeeps z (execEcall c s) := by
  unfold execEcall
  repeat' first | (with_reducible first | assumption | rfl | intro _ | apply keeps_instr | apply keeps_raise | apply keeps_ite | apply outKeeps_ite | apply outKeeps_next) | split

theorem keeps_haltCore {z : State} {s : State} {c : Nat} (hk : Keeps z s)  :
    Keeps z (haltCore s c) := by
  unfold haltCore
  repeat' first | (with_reducible first | assumption | rfl | intro _ | apply keeps_onCore | apply keeps_ite) | split

theorem keeps_execEbreak {z : State} {c : Nat} {s : State} (hk : Keeps z s)  :
    OutKeeps z (execEbreak c s) := by
  unfold execEbreak
  repeat' first | (with_reducible first | assumption | rfl | intro _ | apply keeps_instr | apply keeps_raise | apply keeps_haltCore | apply keeps_ite | apply outKeeps_ite | apply outKeeps_next) | split

theorem keeps_execIllegalInstruction {z : State} {c : Nat} {s : State} (hk : Keeps z s)  :
    OutKeeps z (execIllegalInstruction c s) := by
  unfold execIllegalInstruction
  repeat' first | (with_reducible first | assumption | rfl | intro _ | apply keeps_instr | apply keeps_illegal | apply outKeeps_next) | split

theorem keeps_execHaltRequest {z : State} {c : Nat} {s : State} (hk : Keeps z s)  :
    OutKeeps z (execHaltRequest c s) := by
  unfold execHaltRequest
  repeat' first | (with_reducible first | assumption | rfl | intro _ | apply keeps_haltCore | apply keeps_ite | apply outKeeps_ite | apply outKeeps_next) | split

theorem keeps_execDebuggerResume {z : State} {c : Nat} {s : State} (hk : Keeps z s)  :
    OutKeeps z (execDebuggerResume c s) := by
  unfold execDebuggerResume
  repeat' first | (with_reducible first | assumption | rfl | intro _ | apply keeps_onCore | apply keeps_ite | apply outKeeps_ite | apply outKeeps_next) | split

theorem keeps_secureEntry {z : State} {s : State} {c k : Nat} {fromEncl : Bool} (hk : Keeps z s) :
    Keeps z (secureEntry s c k fromEncl) := by
  unfold secureEntry
  try dsimp only
  repeat' first | (with_reducible first | assumption | rfl | intro _ | apply keeps_onCore | apply keeps_ite) | split

theorem keeps_normalEntry {z : State} {s : State} {c k : Nat} {l : Level} (hk : Keeps z s)  :
    Keeps z (normalEntry s c k l) := by
  unfold normalEntry
  dsimp only
  repeat' first | (with_reducible first | assumption | rfl | intro _ | apply keeps_onCore | apply keeps_ite) | split

theorem keeps_leaveEncl {z : State} {s : State} {c k : Nat} (hk : Keeps z s)  :
    Keeps z (leaveEncl s c k) := by
  unfold leaveEncl
  repeat' first | (with_reducible first | assumption | rfl | intro _ | apply keeps_enclExit) | split

theorem keeps_execInterruptTaken {z : State} {c : Nat} {s : State} (hk : Keeps z s)  :
    OutKeeps z (execInterruptTaken c s) := by
  unfold execInterruptTaken
  dsimp only
  repeat' first | (with_reducible first | assumption | rfl | intro _ | apply keeps_secureEntry | apply keeps_leaveEncl | apply keeps_normalEntry | apply keeps_pmcEvent | apply keeps_ite | apply outKeeps_ite | apply outKeeps_next) | split

/-! ### Machine/Walk.lean -/

theorem keeps_translate_p {z : State} {mem : State → Nat → Word} {s : State} {c a kind : Nat} (h : Keeps z s) :
    Keeps z (translate mem s c a kind).2 := by
  have walk : ∀ s (x : Core), Keeps z s → Keeps z (match walkBoth mem s c x a kind with
      | .ok pa perm => (walkBoth mem s c x a kind, onCore (pmcEvent (pmcEvent s c 4) c 5) c fun x => tlbFill x a pa perm)
      | _ => (walkBoth mem s c x a kind, pmcEvent (pmcEvent s c 4) c 5)).2 := by
    intro s x h
    have k : Keeps z (pmcEvent (pmcEvent s c 4) c 5) := keeps_pmcEvent (keeps_pmcEvent h)
    split
    · dsimp only
      exact keeps_onCore k
    · exact k
  unfold translate
  dsimp only
  split
  · exact h
  split
  · exact walk _ _ h
  · split
    · exact keeps_freeBytes_p (n := 1) h
    · exact walk _ _ (keeps_freeBytes_p (n := 1) h)

theorem keeps_translate {z : State} {mem : State → Nat → Word} {s t : State} {c a kind : Nat} {w : Walk} (h : Keeps z s)
    (e : translate mem s c a kind = (w, t)) : Keeps z t := by
  have := keeps_translate_p (mem := mem) (c := c) (a := a) (kind := kind) h
  rw [e] at this
  exact this

theorem optKeeps_gpaWrite {z s : State} {part a : Nat} {b : Bytes} (h : Keeps z s) : OptKeeps z (gpaWrite s part a b) := by
  unfold gpaWrite
  have aux : ∀ (l : List Nat) (o : Option State), OptKeeps z o → OptKeeps z (l.foldl (fun o k => match o with
      | none => none
      | some s => (gpaPage s part (a + k) 1).map fun p => s.setSram (tput 0 s.sram p (b.getD k 0))) o) := by
    intro l
    induction l with
    | nil => exact fun o ho => ho
    | cons k l ih =>
      intro o ho
      refine ih _ ?_
      cases o with
      | none => exact optKeeps_none
      | some s =>
        have hs := ho.of s rfl
        dsimp only
        cases gpaPage s part (a + k) 1 with
        | none => exact optKeeps_none
        | some p => exact optKeeps_some (keeps_blkSram hs (twf_tput 0 _ _ _))
  exact aux _ _ (optKeeps_some h)

theorem keeps_gpaWrite {z s t : State} {part a : Nat} {b : Bytes} (h : Keeps z s) (e : gpaWrite s part a b = some t) :
    Keeps z t := (optKeeps_gpaWrite h).of t e

/-! ### Machine/Services.lean -/

theorem keeps_countService {z : State} {s : State} {n status : Nat} (hk : Keeps z s)  :
    Keeps z (countService s n status) := by
  unfold countService
  dsimp only
  repeat' first | (with_reducible first | assumption | rfl | intro _ | apply keeps_setFn | apply keeps_ite) | split

theorem keeps_answer {z : State} {s : State} {c status result : Nat} (hk : Keeps z s)  :
    Keeps z (answer s c status result) := by
  unfold answer
  dsimp only
  repeat' first | (with_reducible first | assumption | rfl | intro _ | apply keeps_onCore | apply keeps_countService) | split

theorem keeps_serve {z : State} {s : State} {c num : Nat} {f : Core → State} (hk : Keeps z s) (hf : ∀ a0, Keeps z (f a0)) :
    Keeps z (serve s c num f) := by
  unfold serve
  try dsimp only
  repeat' first | (with_reducible first | assumption | rfl | intro _ | apply keeps_answer | apply keeps_ite | apply hf) | split

theorem keeps_execQuery {z : State} {c : Nat} {s : State} (hk : Keeps z s)  :
    OutKeeps z (execQuery c s) := by
  unfold execQuery
  repeat' first | (with_reducible first | assumption | rfl | intro _ | apply keeps_answer | apply keeps_serve | apply outKeeps_next) | split

theorem keeps_execPartLoad {z : State} {c : Nat} {s : State} (hk : Keeps z s)  :
    OutKeeps z (execPartLoad c s) := by
  unfold execPartLoad
  dsimp only
  repeat' first | (with_reducible first | assumption | rfl | intro _ | apply keeps_answer | apply keeps_serve | apply keeps_pctxPut | apply keeps_pctxLog | apply keeps_ite | apply outKeeps_ite | apply outKeeps_next) | split

theorem keeps_enclDying {z : State} {s : State} {e : Nat} (hk : Keeps z s)  :
    Keeps z (enclDying s e) := by
  unfold enclDying
  dsimp only
  repeat' first | (with_reducible first | assumption | rfl | intro _ | apply keeps_enclGone | apply keeps_onCore | apply keeps_setEncl | apply keeps_foldl | apply keeps_ite) | split

theorem keeps_partDown {z : State} {s : State} {n : Nat} (hk : Keeps z s)  :
    Keeps z (partDown s n) := by
  unfold partDown
  repeat' first | (with_reducible first | assumption | rfl | intro _ | apply keeps_enclDying | apply keeps_pctxPut | apply keeps_foldl) | split

theorem keeps_execPartUnload {z : State} {c : Nat} {s : State} (hk : Keeps z s)  :
    OutKeeps z (execPartUnload c s) := by
  unfold execPartUnload
  dsimp only
  repeat' first | (with_reducible first | assumption | rfl | intro _ | apply keeps_answer | apply keeps_serve | apply keeps_partDown | apply keeps_pctxLog | apply keeps_ite | apply outKeeps_ite | apply outKeeps_next) | split

theorem keeps_partDelete {z : State} {s : State} {n : Nat} (hk : Keeps z s)  :
    Keeps z (partDelete s n) := by
  unfold partDelete
  dsimp only
  repeat' first | (with_reducible first | assumption | rfl | intro _ | apply keeps_partDown | apply keeps_onCore | apply keeps_ite) | split

theorem keeps_execEnclCreate {z : State} {c : Nat} {s : State} (hk : Keeps z s)  :
    OutKeeps z (execEnclCreate c s) := by
  unfold execEnclCreate
  dsimp only
  repeat' first | (with_reducible first | assumption | rfl | intro _ | apply keeps_answer | apply keeps_serve | apply keeps_setEncl | apply keeps_ite | apply outKeeps_ite | apply outKeeps_next) | split

theorem optKeeps_mapPage {z : State} {s : State} {n gpa phys perm : Nat} (hk : Keeps z s)  : OptKeeps z (mapPage s n gpa phys perm) := by
  unfold mapPage
  dsimp only
  repeat' first | (with_reducible first | assumption | rfl | intro _ | apply keeps_sramWrite | apply keeps_ite | apply optKeeps_some | apply optKeeps_none | apply optKeeps_ite) | split

theorem keeps_mapPage {z : State} {s : State} {n gpa phys perm : Nat} (hk : Keeps z s)  {t : State} (e : mapPage s n gpa phys perm = some t) :
    Keeps z t := (optKeeps_mapPage hk).of t e

theorem keeps_execEnclAdd {z : State} {c : Nat} {s : State} (hk : Keeps z s)  :
    OutKeeps z (execEnclAdd c s) := by
  unfold execEnclAdd
  dsimp only
  repeat' first | (with_reducible first | assumption | rfl | intro _ | apply keeps_blkCores | apply keeps_freeBytes_p | apply keeps_answer | apply keeps_serve | apply optKeeps_mapPage | apply keeps_sramWrite | apply keeps_setEncl | apply keeps_ite | apply outKeeps_ite | apply outKeeps_next) | (refine keeps_freeBytes ?_ (by with_reducible assumption)) | (refine keeps_mapPage ?_ (by with_reducible assumption)) | split

theorem keeps_execEnclSeal {z : State} {c : Nat} {s : State} (hk : Keeps z s)  :
    OutKeeps z (execEnclSeal c s) := by
  unfold execEnclSeal
  dsimp only
  repeat' first | (with_reducible first | assumption | rfl | intro _ | apply keeps_answer | apply keeps_serve | apply keeps_setEncl | apply keeps_ite | apply outKeeps_ite | apply outKeeps_next) | split

theorem keeps_execEnclDestroy {z : State} {c : Nat} {s : State} (hk : Keeps z s)  :
    OutKeeps z (execEnclDestroy c s) := by
  unfold execEnclDestroy
  dsimp only
  repeat' first | (with_reducible first | assumption | rfl | intro _ | apply keeps_enclDying | apply keeps_answer | apply keeps_serve | apply outKeeps_next) | split

theorem keeps_execEnclReport {z : State} {c : Nat} {s : State} (hk : Keeps z s)  :
    OutKeeps z (execEnclReport c s) := by
  unfold execEnclReport
  dsimp only
  repeat' first | (with_reducible first | assumption | rfl | intro _ | apply keeps_answer | apply keeps_serve | apply optKeeps_gpaWrite | apply outKeeps_next) | (refine keeps_gpaWrite ?_ (by with_reducible assumption)) | split

theorem keeps_rawDma {z s t : State} {n a len : Nat} {write : Bool} (h : Keeps z s) (e : rawDma s n a len write = .bad t) :
    Keeps z t := by
  have aux : ∀ (l : List Nat) (r : RawDma), (∀ t, r = .bad t → Keeps z t) → ∀ t, l.foldl (fun r g => match r with
      | .ok => (match gpaPage s n g (if write = true then 1 else 0) with
        | none => .bad s
        | some p => match dmaCheck s 4 n write false (0x10000000 + p) (min (64 - g % 64) (a + len - g)) with
          | .ok => .ok
          | .stall _ => .wait
          | .deny x src idx => .bad (refuseAcc s x src idx))
      | r => r) r = .bad t → Keeps z t := by
    intro l
    induction l with
    | nil => exact fun r hr => hr
    | cons g l ih =>
      intro r hr
      refine ih _ ?_
      cases r with
      | ok =>
        intro t e
        dsimp only at e
        repeat' split at e
        all_goals cases e
        all_goals first | exact h | exact keeps_refuseAcc h
      | wait => intro t e; cases e
      | bad u => exact hr
  exact aux _ _ (fun t e => by cases e) t e

theorem keeps_rawBack {z : State} {s : State} {c n a : Nat} {j : RawJob} {acc : Bytes} (hk : Keeps z s) :
    Keeps z (rawBack s c n a j acc) := by
  unfold rawBack
  try dsimp only
  repeat' first | (with_reducible first | assumption | rfl | intro _ | apply keeps_blkPke | apply keeps_answer | apply optKeeps_gpaWrite | apply keeps_ite) | (refine keeps_rawDma ?_ (by with_reducible assumption)) | (refine keeps_gpaWrite ?_ (by with_reducible assumption)) | split

theorem keeps_rawPost {z : State} {s : State} {c n p a k : Nat} (hk : Keeps z s) :
    Keeps z (rawPost s c n p a k) := by
  unfold rawPost
  try dsimp only
  repeat' first | (with_reducible first | assumption | rfl | intro _ | apply keeps_blkPke | apply keeps_answer | apply keeps_setPke | apply keeps_ite) | (refine keeps_rawDma ?_ (by with_reducible assumption)) | split

theorem keeps_execPkeRaw {z : State} {c : Nat} {s : State} (hk : Keeps z s) :
    OutKeeps z (execPkeRaw c s) := by
  unfold execPkeRaw
  try dsimp only
  repeat' first | (with_reducible first | assumption | rfl | intro _ | apply keeps_serve | apply keeps_answer | apply keeps_rawBack | apply keeps_rawPost | apply keeps_ite | apply outKeeps_ite | apply outKeeps_next) | split

theorem keeps_execIrqRaise {z : State} {c : Nat} {s : State} (hk : Keeps z s) :
    OutKeeps z (execIrqRaise c s) := by
  unfold execIrqRaise
  try dsimp only
  repeat' first | (with_reducible first | assumption | rfl | intro _ | apply keeps_serve | apply keeps_answer | apply keeps_irq | apply keeps_ite | apply outKeeps_ite | apply outKeeps_next) | split

/-! ### Machine/Owners.lean -/

theorem keeps_ownerGone {z : State} {s : State} {n : Nat} (hk : Keeps z s)  :
    Keeps z (ownerGone s n) := by
  unfold ownerGone
  dsimp only
  repeat' first | (with_reducible first | assumption | rfl | intro _ | apply keeps_blkVlt | apply keeps_endWaits | apply keeps_partDelete | apply keeps_deriveAll) | split

theorem keeps_ownerCheck {z : State} {s : State} {n : Nat} (hk : Keeps z s)  :
    Keeps z (ownerCheck s n) := by
  unfold ownerCheck
  repeat' first | (with_reducible first | assumption | rfl | intro _ | apply keeps_ownerGone | apply keeps_ite) | split

theorem keeps_ownerEdge {z : State} {s : State} (hk : Keeps z s)  :
    Keeps z (ownerEdge s) := by
  unfold ownerEdge
  repeat' first | (with_reducible first | assumption | rfl | intro _ | apply keeps_ownerCheck | apply keeps_zeroizeOwner | apply keeps_foldl) | split

theorem keeps_execZeroizeReadback {z : State} {n : Nat} {ok : Bool} {s : State} (hk : Keeps z s) :
    OutKeeps z (execZeroizeReadback n ok s) := by
  unfold execZeroizeReadback
  try dsimp only
  repeat' first | (with_reducible first | assumption | rfl | intro _ | apply keeps_readback | apply keeps_journalAssoc | apply keeps_endWaits | apply keeps_ownerCheck | apply keeps_ite | apply outKeeps_ite | apply outKeeps_next) | split

/-! ### Machine/CmdCustody.lean -/

theorem keeps_custodyRequestCmd {z : State} {s : State} {_fn : Nat} {d : Bytes} {io : CmdIo} (hk : Keeps z s) :
    AnsKeeps z (custodyRequestCmd s _fn d io) := by
  unfold custodyRequestCmd
  try dsimp only
  repeat' first | (with_reducible first | assumption | rfl | intro _ | apply keeps_custCancelAll | apply keeps_onCus | apply keeps_custCommitRun_p | apply keeps_Ans.bad | apply keeps_Ans.notReady | apply keeps_Ans.stop | apply keeps_ite | apply ansKeeps_ite | apply keeps_id) | (refine keeps_custCommitRun ?_ (by with_reducible assumption)) | split | with_reducible apply ansKeeps_mk | with_reducible apply AnsKeeps.st | with_reducible apply AnsKeeps.after

theorem keeps_custodyCancelCmd {z : State} {s : State} {_fn : Nat} {_d : Bytes} {_io : CmdIo} (hk : Keeps z s)  :
    AnsKeeps z (custodyCancelCmd s _fn _d _io) := by
  unfold custodyCancelCmd
  repeat' first | (with_reducible first | assumption | rfl | intro _ | apply keeps_custCancelAll | apply keeps_id) | split | with_reducible apply ansKeeps_mk

theorem keeps_custodyStatusCmd {z : State} {s : State} {_fn : Nat} {_d : Bytes} {_io : CmdIo} (hk : Keeps z s)  :
    AnsKeeps z (custodyStatusCmd s _fn _d _io) := by
  unfold custodyStatusCmd
  repeat' first | (with_reducible first | assumption | rfl | intro _ | apply keeps_ite | apply ansKeeps_ite | apply keeps_id) | split | with_reducible apply ansKeeps_mk

theorem keeps_withLatch {z : State} {s : State} {op : Nat} {same : Bool} {f : Ans} (hk : Keeps z s) (hf : AnsKeeps z f) :
    AnsKeeps z (withLatch s op same f) := by
  unfold withLatch
  repeat' first | (with_reducible first | assumption | rfl | intro _ | apply keeps_ite | apply ansKeeps_ite | apply hf | apply keeps_Ans.denied | apply keeps_id) | split | with_reducible apply ansKeeps_mk

theorem keeps_ownerCreateCmd {z : State} {s : State} {_fn : Nat} {d : Bytes} {_io : CmdIo} (hk : Keeps z s)  :
    AnsKeeps z (ownerCreateCmd s _fn d _io) := by
  unfold ownerCreateCmd
  dsimp only
  repeat' first | (with_reducible first | assumption | rfl | intro _ | apply keeps_blkVlt | apply keeps_latchConsume | apply keeps_withLatch | apply keeps_deriveAll | apply keeps_ite | apply ansKeeps_ite | apply keeps_Ans.bad | apply keeps_Ans.denied | apply keeps_Ans.stop | apply keeps_id | apply optKeeps_getD) | split | with_reducible apply ansKeeps_mk | with_reducible apply AnsKeeps.st | with_reducible apply AnsKeeps.after

theorem keeps_ownerDeleteCmd {z : State} {s : State} {_fn : Nat} {d : Bytes} {_io : CmdIo} (hk : Keeps z s)  :
    AnsKeeps z (ownerDeleteCmd s _fn d _io) := by
  unfold ownerDeleteCmd
  dsimp only
  repeat' first | (with_reducible first | assumption | rfl | intro _ | apply keeps_latchConsume | apply keeps_withLatch | apply keeps_ite | apply ansKeeps_ite | apply keeps_Ans.bad | apply keeps_Ans.denied | apply keeps_id) | split | with_reducible apply ansKeeps_mk | with_reducible apply AnsKeeps.st | with_reducible apply AnsKeeps.after

theorem keeps_exportKey_inl {z s t : State} {d : Bytes} {a : Nat} (h : Keeps z s) (e : exportKey s d = .inl (a, t)) :
    Keeps z t := by
  unfold exportKey at e
  dsimp only at e
  repeat' split at e
  all_goals cases e
  all_goals first | exact h | exact keeps_slotUse_inl h (by assumption)

theorem keeps_exportKey_inr {z s t : State} {d : Bytes} {a b c : Nat} {x : Bool} {y : Bytes} (h : Keeps z s)
    (e : exportKey s d = .inr (a, b, c, x, y, t)) : Keeps z t := by
  unfold exportKey at e
  dsimp only at e
  repeat' split at e
  all_goals cases e
  all_goals first | exact h | exact keeps_slotUse_inr h (by assumption)

theorem keeps_keyExportCmd {z : State} {s : State} {fn : Nat} {d : Bytes} {io : CmdIo} (hk : Keeps z s) :
    AnsKeeps z (keyExportCmd s fn d io) := by
  unfold keyExportCmd
  try dsimp only
  repeat' first | (with_reducible first | assumption | rfl | intro _ | apply keeps_withLatch | apply keeps_withRandom | apply keeps_latchConsume | apply keeps_Ans.bad | apply keeps_Ans.stop | apply keeps_Ans.denied | apply keeps_Ans.aborted | apply keeps_ite | apply ansKeeps_ite | apply keeps_id) | (refine keeps_exportKey_inl ?_ (by with_reducible assumption)) | (refine keeps_exportKey_inr ?_ (by with_reducible assumption)) | split | with_reducible apply ansKeeps_mk | with_reducible apply AnsKeeps.st | with_reducible apply AnsKeeps.after

theorem keeps_keyRestoreCmd {z : State} {s : State} {_fn : Nat} {d : Bytes} {io : CmdIo} (hk : Keeps z s)  :
    AnsKeeps z (keyRestoreCmd s _fn d io) := by
  unfold keyRestoreCmd
  dsimp only
  repeat' first | (with_reducible first | assumption | rfl | intro _ | apply keeps_latchConsume | apply keeps_withKey | apply keeps_newKey | apply keeps_withLatch | apply keeps_ite | apply ansKeeps_ite | apply keeps_Ans.aborted | apply keeps_Ans.bad | apply keeps_Ans.denied | apply keeps_id) | (refine keeps_newKeyCheck ?_ (by with_reducible assumption)) | split | with_reducible apply ansKeeps_mk | with_reducible apply AnsKeeps.st | with_reducible apply AnsKeeps.after

theorem keeps_snuffCmd {z : State} {s : State} {_fn : Nat} {_d : Bytes} {_io : CmdIo} (hk : Keeps z s)  :
    AnsKeeps z (snuffCmd s _fn _d _io) := by
  unfold snuffCmd
  repeat' first | (with_reducible first | assumption | rfl | intro _ | apply keeps_snuffTrig | apply keeps_latchConsume | apply keeps_withLatch | apply keeps_id) | split | with_reducible apply ansKeeps_mk | with_reducible apply AnsKeeps.st | with_reducible apply AnsKeeps.after

theorem keeps_debugAnnounce {z : State} {s : State} {level : Nat} (hk : Keeps z s)  :
    Keeps z (debugAnnounce s level) := by
  unfold debugAnnounce
  dsimp only
  repeat' first | (with_reducible first | assumption | rfl | intro _ | apply keeps_blkMode | apply keeps_announceCmd) | split

theorem keeps_debugAuthCmd {z : State} {s : State} {_fn : Nat} {d : Bytes} {_io : CmdIo} (hk : Keeps z s)  :
    AnsKeeps z (debugAuthCmd s _fn d _io) := by
  unfold debugAuthCmd
  dsimp only
  repeat' first | (with_reducible first | assumption | rfl | intro _ | apply keeps_latchConsume | apply keeps_debugAnnounce | apply keeps_withLatch | apply keeps_ite | apply ansKeeps_ite | apply keeps_Ans.bad | apply keeps_id) | split | with_reducible apply ansKeeps_mk | with_reducible apply AnsKeeps.st | with_reducible apply AnsKeeps.after

theorem keeps_blowPart {z : State} {s : State} {k : Nat} {l : List (Nat × Word)} {f : State → Nat → Ans} (hk : Keeps z s) (hf : ∀ s a0, Keeps z s → AnsKeeps z (f s a0)) :
    AnsKeeps z (blowPart s k l f) := by
  unfold blowPart
  repeat' first | (with_reducible first | assumption | rfl | intro _ | apply keeps_blowRun_p | apply keeps_Ans.aborted | apply keeps_ite | apply hf | apply ansKeeps_ite | apply keeps_id) | (refine keeps_blowRun ?_ (by with_reducible assumption)) | split | with_reducible apply ansKeeps_mk | with_reducible apply AnsKeeps.st | with_reducible apply AnsKeeps.after

theorem keeps_blowOr {z : State} {s : State} {io : CmdIo} {l : List (Nat × Word)} {f : State → Ans} (hk : Keeps z s) (hf : ∀ s, Keeps z s → AnsKeeps z (f s)) :
    AnsKeeps z (blowOr s io l f) := by
  unfold blowOr
  try dsimp only
  repeat' first | (with_reducible first | assumption | rfl | intro _ | apply keeps_blowPart | apply keeps_ite | apply hf | apply ansKeeps_ite | apply keeps_id) | split | with_reducible apply ansKeeps_mk | with_reducible apply AnsKeeps.st | with_reducible apply AnsKeeps.after

theorem keeps_blowReady {z : State} {s : State} {a : Ans} (hk : Keeps z s) (ha : AnsKeeps z a) :
    AnsKeeps z (blowReady s a) := by
  unfold blowReady
  repeat' first | (with_reducible first | assumption | rfl | intro _ | apply keeps_Ans.aborted | apply keeps_Ans.notReady | apply keeps_ite | apply ha | apply ansKeeps_ite | apply keeps_id) | split | with_reducible apply ansKeeps_mk | with_reducible apply AnsKeeps.st | with_reducible apply AnsKeeps.after

theorem keeps_cusEnrolCmd {z : State} {s : State} {_fn : Nat} {d : Bytes} {io : CmdIo} (hk : Keeps z s) :
    AnsKeeps z (cusEnrolCmd s _fn d io) := by
  unfold cusEnrolCmd
  try dsimp only
  repeat' first | (with_reducible first | assumption | rfl | intro _ | apply keeps_withLatch | apply keeps_blowReady | apply keeps_blowOr | apply keeps_latchConsume | apply keeps_Ans.bad | apply keeps_Ans.denied | apply keeps_ite | apply ansKeeps_ite | apply keeps_id) | split | with_reducible apply ansKeeps_mk | with_reducible apply AnsKeeps.st | with_reducible apply AnsKeeps.after

theorem keeps_cusRevokeCmd {z : State} {s : State} {_fn : Nat} {d : Bytes} {io : CmdIo} (hk : Keeps z s) :
    AnsKeeps z (cusRevokeCmd s _fn d io) := by
  unfold cusRevokeCmd
  try dsimp only
  repeat' first | (with_reducible first | assumption | rfl | intro _ | apply keeps_withLatch | apply keeps_blowReady | apply keeps_blowOr | apply keeps_latchConsume | apply keeps_Ans.bad | apply keeps_Ans.denied | apply keeps_ite | apply ansKeeps_ite | apply keeps_id) | split | with_reducible apply ansKeeps_mk | with_reducible apply AnsKeeps.st | with_reducible apply AnsKeeps.after

theorem keeps_faultEnableCmd {z : State} {s : State} {_fn : Nat} {d : Bytes} {_io : CmdIo} (hk : Keeps z s)  :
    AnsKeeps z (faultEnableCmd s _fn d _io) := by
  unfold faultEnableCmd
  dsimp only
  repeat' first | (with_reducible first | assumption | rfl | intro _ | apply keeps_blkFlt | apply keeps_latchConsume | apply keeps_withLatch | apply keeps_ite | apply ansKeeps_ite | apply keeps_Ans.bad | apply keeps_id) | split | with_reducible apply ansKeeps_mk | with_reducible apply AnsKeeps.st | with_reducible apply AnsKeeps.after

theorem keeps_newRoot {z : State} {s : State} {vr : Bytes} (hk : Keeps z s)  :
    Keeps z (newRoot s vr) := by
  unfold newRoot
  dsimp only
  repeat' first | (with_reducible first | assumption | rfl | intro _ | apply keeps_blkVlt) | split

theorem keeps_recommissionCmd {z : State} {s : State} {fn : Nat} {d : Bytes} {io : CmdIo} (hk : Keeps z s) :
    AnsKeeps z (recommissionCmd s fn d io) := by
  unfold recommissionCmd
  try dsimp only
  repeat' first | (with_reducible first | assumption | rfl | intro _ | apply keeps_withLatch | apply keeps_withRandom | apply keeps_newRoot | apply keeps_stickyConsume | apply keeps_latchConsume | apply keeps_snuffFlagClear | apply keeps_cmdReset | apply keeps_blowOr | apply keeps_Ans.aborted | apply keeps_ite | apply ansKeeps_ite | apply keeps_id) | split | with_reducible apply ansKeeps_mk | with_reducible apply AnsKeeps.st | with_reducible apply AnsKeeps.after

theorem keeps_retireCmd {z : State} {s : State} {_fn : Nat} {_d : Bytes} {io : CmdIo} (hk : Keeps z s) :
    AnsKeeps z (retireCmd s _fn _d io) := by
  unfold retireCmd
  try dsimp only
  repeat' first | (with_reducible first | assumption | rfl | intro _ | apply keeps_withLatch | apply keeps_blowReady | apply keeps_stickyConsume | apply keeps_latchConsume | apply keeps_snuffTrig | apply keeps_retireEnd | apply keeps_ite | apply ansKeeps_ite | apply keeps_id) | split | with_reducible apply ansKeeps_mk | with_reducible apply AnsKeeps.st | with_reducible apply AnsKeeps.after

theorem keeps_commissionCmd {z : State} {s : State} {fn : Nat} {d : Bytes} {io : CmdIo} (hk : Keeps z s) :
    AnsKeeps z (commissionCmd s fn d io) := by
  unfold commissionCmd
  try dsimp only
  repeat' first | (with_reducible first | assumption | rfl | intro _ | apply keeps_blkEvr | apply keeps_withLatch | apply keeps_withRandom | apply keeps_latchConsume | apply keeps_blowOr | apply keeps_newRoot | apply keeps_cmdReset | apply keeps_Ans.aborted | apply keeps_ite | apply ansKeeps_ite | apply keeps_id) | split | with_reducible apply ansKeeps_mk | with_reducible apply AnsKeeps.st | with_reducible apply AnsKeeps.after

theorem keeps_execCustodyRequest {z : State} {fn r : Nat} {io : CmdIo} {s : State} (hk : Keeps z s)  :
    OutKeeps z (execCustodyRequest fn r io s) := by
  unfold execCustodyRequest
  repeat' first | (with_reducible first | assumption | rfl | intro _ | apply keeps_custodyRequestCmd | apply keeps_serveCmd | apply outKeeps_next) | split

theorem keeps_execCustodyCancel {z : State} {fn r : Nat} {io : CmdIo} {s : State} (hk : Keeps z s)  :
    OutKeeps z (execCustodyCancel fn r io s) := by
  unfold execCustodyCancel
  repeat' first | (with_reducible first | assumption | rfl | intro _ | apply keeps_custodyCancelCmd | apply keeps_serveCmd | apply outKeeps_next) | split

theorem keeps_execCustodyStatus {z : State} {fn r : Nat} {io : CmdIo} {s : State} (hk : Keeps z s)  :
    OutKeeps z (execCustodyStatus fn r io s) := by
  unfold execCustodyStatus
  repeat' first | (with_reducible first | assumption | rfl | intro _ | apply keeps_serveCmd | apply keeps_custodyStatusCmd | apply outKeeps_next) | split

theorem keeps_execOwnerCreate {z : State} {fn r : Nat} {io : CmdIo} {s : State} (hk : Keeps z s)  :
    OutKeeps z (execOwnerCreate fn r io s) := by
  unfold execOwnerCreate
  repeat' first | (with_reducible first | assumption | rfl | intro _ | apply keeps_ownerCreateCmd | apply keeps_serveCmd | apply outKeeps_next) | split

theorem keeps_execOwnerDelete {z : State} {fn r : Nat} {io : CmdIo} {s : State} (hk : Keeps z s)  :
    OutKeeps z (execOwnerDelete fn r io s) := by
  unfold execOwnerDelete
  repeat' first | (with_reducible first | assumption | rfl | intro _ | apply keeps_serveCmd | apply keeps_ownerDeleteCmd | apply outKeeps_next) | split

theorem keeps_execKeyExport {z : State} {fn r : Nat} {io : CmdIo} {s : State} (hk : Keeps z s)  :
    OutKeeps z (execKeyExport fn r io s) := by
  unfold execKeyExport
  repeat' first | (with_reducible first | assumption | rfl | intro _ | apply keeps_serveCmd | apply keeps_keyExportCmd | apply outKeeps_next) | split

theorem keeps_execKeyRestore {z : State} {fn r : Nat} {io : CmdIo} {s : State} (hk : Keeps z s)  :
    OutKeeps z (execKeyRestore fn r io s) := by
  unfold execKeyRestore
  repeat' first | (with_reducible first | assumption | rfl | intro _ | apply keeps_keyRestoreCmd | apply keeps_serveCmd | apply outKeeps_next) | split

theorem keeps_execSnuff {z : State} {fn r : Nat} {io : CmdIo} {s : State} (hk : Keeps z s)  :
    OutKeeps z (execSnuff fn r io s) := by
  unfold execSnuff
  repeat' first | (with_reducible first | assumption | rfl | intro _ | apply keeps_serveCmd | apply keeps_snuffCmd | apply outKeeps_next) | split

theorem keeps_execDebugAuth {z : State} {fn r : Nat} {io : CmdIo} {s : State} (hk : Keeps z s)  :
    OutKeeps z (execDebugAuth fn r io s) := by
  unfold execDebugAuth
  repeat' first | (with_reducible first | assumption | rfl | intro _ | apply keeps_debugAuthCmd | apply keeps_serveCmd | apply outKeeps_next) | split

theorem keeps_execCusEnrol {z : State} {fn r : Nat} {io : CmdIo} {s : State} (hk : Keeps z s)  :
    OutKeeps z (execCusEnrol fn r io s) := by
  unfold execCusEnrol
  repeat' first | (with_reducible first | assumption | rfl | intro _ | apply keeps_serveCmd | apply keeps_cusEnrolCmd | apply outKeeps_next) | split

theorem keeps_execCusRevoke {z : State} {fn r : Nat} {io : CmdIo} {s : State} (hk : Keeps z s)  :
    OutKeeps z (execCusRevoke fn r io s) := by
  unfold execCusRevoke
  repeat' first | (with_reducible first | assumption | rfl | intro _ | apply keeps_serveCmd | apply keeps_cusRevokeCmd | apply outKeeps_next) | split

theorem keeps_execFaultEnable {z : State} {fn r : Nat} {io : CmdIo} {s : State} (hk : Keeps z s)  :
    OutKeeps z (execFaultEnable fn r io s) := by
  unfold execFaultEnable
  repeat' first | (with_reducible first | assumption | rfl | intro _ | apply keeps_faultEnableCmd | apply keeps_serveCmd | apply outKeeps_next) | split

theorem keeps_execRecommission {z : State} {fn r : Nat} {io : CmdIo} {s : State} (hk : Keeps z s)  :
    OutKeeps z (execRecommission fn r io s) := by
  unfold execRecommission
  repeat' first | (with_reducible first | assumption | rfl | intro _ | apply keeps_serveCmd | apply keeps_recommissionCmd | apply outKeeps_next) | split

theorem keeps_execRetire {z : State} {fn r : Nat} {io : CmdIo} {s : State} (hk : Keeps z s)  :
    OutKeeps z (execRetire fn r io s) := by
  unfold execRetire
  repeat' first | (with_reducible first | assumption | rfl | intro _ | apply keeps_retireCmd | apply keeps_serveCmd | apply outKeeps_next) | split

theorem keeps_execCommission {z : State} {fn r : Nat} {io : CmdIo} {s : State} (hk : Keeps z s)  :
    OutKeeps z (execCommission fn r io s) := by
  unfold execCommission
  repeat' first | (with_reducible first | assumption | rfl | intro _ | apply keeps_commissionCmd | apply keeps_serveCmd | apply outKeeps_next) | split

/-! ### Machine/Idle.lean -/

theorem keeps_idleCount {z s : State} (h : Keeps z s) : Keeps z (idleCount s) := by
  have hc : (idleGlb s).caps = s.glb.caps := by unfold idleGlb; split <;> rfl
  have hb : (idleGlb s).bud = s.glb.bud := by unfold idleGlb; split <;> rfl
  exact keeps_blkTmp (keeps_blkMode (keeps_blkGlb h hc hb))

/-! ### Machine/Power.lean -/

theorem keeps_execBatteryPowerOn {z : State} {s : State} (hk : Keeps z s)  :
    OutKeeps z (execBatteryPowerOn s) := by
  unfold execBatteryPowerOn
  dsimp only
  repeat' first | (with_reducible first | assumption | rfl | intro _ | apply keeps_blkMode | apply keeps_armedAct | apply keeps_batteryLost | apply keeps_ite | apply outKeeps_ite | apply outKeeps_next) | split

theorem keeps_execVbatLoss {z : State} {s : State} (hk : Keeps z s) :
    OutKeeps z (execVbatLoss s) := by
  unfold execVbatLoss
  try dsimp only
  repeat' first | (with_reducible first | assumption | rfl | intro _ | apply keeps_blkMode | apply keeps_batteryLost | apply keeps_sourceOn | apply keeps_ite | apply outKeeps_ite | apply outKeeps_next) | split

theorem keeps_noBattery {z : State} {s : State} (hk : Keeps z s) :
    Keeps z (noBattery s) := by
  unfold noBattery
  repeat' first | (with_reducible first | assumption | rfl | intro _ | apply keeps_blkTmp | apply keeps_ite) | split

theorem keeps_execPowerOnReset {z : State} {io : SupplyEnv} {s : State} (hk : Keeps z s) :
    OutKeeps z (execPowerOnReset io s) := by
  unfold execPowerOnReset
  try dsimp only
  repeat' first | (with_reducible first | assumption | rfl | intro _ | apply keeps_blkMode | apply keeps_blkTmp | apply keeps_powerOnReset | apply keeps_noBattery | apply keeps_ite | apply outKeeps_ite | apply outKeeps_next) | split

theorem keeps_pulseCut {z : State} {s : State} (hk : Keeps z s) :
    Keeps z (pulseCut s) := by
  unfold pulseCut
  repeat' first | (with_reducible first | assumption | rfl | intro _ | apply keeps_pulseCell | apply keeps_ite) | split

theorem keeps_execMainSupplyLoss {z : State} {s : State} (hk : Keeps z s) :
    OutKeeps z (execMainSupplyLoss s) := by
  unfold execMainSupplyLoss
  try dsimp only
  repeat' first | (with_reducible first | assumption | rfl | intro _ | apply keeps_blkTmp | apply keeps_coreLost | apply keeps_pulseCut | apply keeps_logHold | apply keeps_batteryLost | apply keeps_ite | apply outKeeps_ite | apply outKeeps_next) | split

theorem keeps_execNrstAssert {z : State} {s : State} (hk : Keeps z s)  :
    OutKeeps z (execNrstAssert s) := by
  unfold execNrstAssert
  dsimp only
  repeat' first | (with_reducible first | assumption | rfl | intro _ | apply keeps_blkMode | apply keeps_nrstTake | apply keeps_onFus | apply keeps_ite | apply outKeeps_ite | apply outKeeps_next) | split

theorem keeps_execNrstRelease {z : State} {s : State} (hk : Keeps z s) :
    OutKeeps z (execNrstRelease s) := by
  unfold execNrstRelease
  repeat' first | (with_reducible first | assumption | rfl | intro _ | apply keeps_blkMode | apply keeps_nrstFree | apply keeps_ite | apply outKeeps_ite | apply outKeeps_next) | split

theorem keeps_execWatchdogTimeout {z : State} {k : Fin 12} {s : State} (hk : Keeps z s) :
    OutKeeps z (execWatchdogTimeout k s) := by
  unfold execWatchdogTimeout
  try dsimp only
  repeat' first | (with_reducible first | assumption | rfl | intro _ | apply keeps_blkMode | apply keeps_deviceReset | apply keeps_ite | apply outKeeps_ite | apply outKeeps_next) | split

theorem keeps_execModeWdtKick {z : State} {v : Word} {s : State} (hk : Keeps z s)  :
    OutKeeps z (execModeWdtKick v s) := by
  unfold execModeWdtKick
  repeat' first | (with_reducible first | assumption | rfl | intro _ | apply keeps_blkMode | apply keeps_logD | apply keeps_ite | apply outKeeps_ite | apply outKeeps_next) | split

theorem keeps_execWdtLock {z : State} {s : State} (hk : Keeps z s)  :
    OutKeeps z (execWdtLock s) := by
  unfold execWdtLock
  repeat' first | (with_reducible first | assumption | rfl | intro _ | apply keeps_blkMode | apply keeps_ite | apply outKeeps_ite | apply outKeeps_next) | split

theorem keeps_rstCtl {z : State} {s : State} {v : Word} (hk : Keeps z s)  :
    Keeps z (rstCtl s v) := by
  unfold rstCtl
  repeat' first | (with_reducible first | assumption | rfl | intro _ | apply keeps_blkMode | apply keeps_deviceReset | apply keeps_ite) | split

theorem keeps_rstCtlWrite {z : State} {s : State} {v : Word} (hk : Keeps z s)  :
    Keeps z (rstCtlWrite s v) := by
  unfold rstCtlWrite
  repeat' first | (with_reducible first | assumption | rfl | intro _ | apply keeps_rstCtl | apply keeps_logOther | apply keeps_ite) | split

theorem keeps_execSwrst {z : State} {v : Word} {s : State} (hk : Keeps z s)  :
    OutKeeps z (execSwrst v s) := by
  unfold execSwrst
  repeat' first | (with_reducible first | assumption | rfl | intro _ | apply keeps_rstCtlWrite | apply keeps_ite | apply outKeeps_ite | apply outKeeps_next) | split

theorem keeps_execRecov {z : State} {v : Word} {s : State} (hk : Keeps z s)  :
    OutKeeps z (execRecov v s) := by
  unfold execRecov
  repeat' first | (with_reducible first | assumption | rfl | intro _ | apply keeps_rstCtlWrite | apply keeps_ite | apply outKeeps_ite | apply outKeeps_next) | split

/-! ### Machine/Serial.lean -/

theorem keeps_spi0Dma {z : State} {s : State} {o : FlashOp} (hk : Keeps z s) :
    Keeps z (spi0Dma s o) := by
  unfold spi0Dma
  repeat' first | (with_reducible first | assumption | rfl | intro _ | apply keeps_blkSpi0 | apply keeps_spi0End | apply keeps_refuseAcc | apply keeps_ite) | split

theorem keeps_spi0Retry {z : State} {s : State} (hk : Keeps z s) :
    Keeps z (spi0Retry s) := by
  unfold spi0Retry
  repeat' first | (with_reducible first | assumption | rfl | intro _ | apply keeps_spi0Dma | apply keeps_ite) | split

theorem keeps_spi0Go {z : State} {s : State} (hk : Keeps z s) :
    Keeps z (spi0Go s) := by
  unfold spi0Go
  try dsimp only
  repeat' first | (with_reducible first | assumption | rfl | intro _ | apply keeps_blkSpi0 | apply keeps_logOther | apply keeps_spi0Dma | apply keeps_ite) | split

theorem keeps_execSpi0Go {z : State} {s : State} (hk : Keeps z s)  :
    OutKeeps z (execSpi0Go s) := by
  unfold execSpi0Go
  repeat' first | (with_reducible first | assumption | rfl | intro _ | apply keeps_spi0Go | apply keeps_onE | apply outKeeps_next) | split

theorem keeps_spi0Effect {z : State} {s : State} {o : FlashOp} (hk : Keeps z s)  :
    Keeps z (spi0Effect s o) := by
  unfold spi0Effect
  dsimp only
  repeat' first | (with_reducible first | assumption | rfl | intro _ | apply keeps_flashProgram | apply keeps_sramWrite | apply keeps_flashErase | apply keeps_ite) | split

theorem keeps_execSpi0CmdEnd {z : State} {ok : Bool} {s : State} (hk : Keeps z s) :
    OutKeeps z (execSpi0CmdEnd ok s) := by
  unfold execSpi0CmdEnd
  repeat' first | (with_reducible first | assumption | rfl | intro _ | apply keeps_spi0End | apply keeps_spi0Effect | apply keeps_tearProgram | apply keeps_ite | apply outKeeps_ite | apply outKeeps_next) | split

theorem keeps_execSpi0Timeout {z : State} {s : State} (hk : Keeps z s)  :
    OutKeeps z (execSpi0Timeout s) := by
  unfold execSpi0Timeout
  repeat' first | (with_reducible first | assumption | rfl | intro _ | apply keeps_spi0Cut | apply keeps_ite | apply outKeeps_ite | apply outKeeps_next) | split

theorem keeps_execSpi0Abort {z : State} {s : State} (hk : Keeps z s)  :
    OutKeeps z (execSpi0Abort s) := by
  unfold execSpi0Abort
  repeat' first | (with_reducible first | assumption | rfl | intro _ | apply keeps_spi0Cut | apply keeps_onE | apply outKeeps_next) | split

theorem keeps_execSpi1Tx {z : State} {v : Word} {s : State} (hk : Keeps z s)  :
    OutKeeps z (execSpi1Tx v s) := by
  unfold execSpi1Tx
  repeat' first | (with_reducible first | assumption | rfl | intro _ | apply keeps_blkSpi1 | apply keeps_onE | apply keeps_ite | apply outKeeps_ite | apply outKeeps_next) | split

theorem keeps_execSpi1WordComplete {z : State} {v : Word} {s : State} (hk : Keeps z s)  :
    OutKeeps z (execSpi1WordComplete v s) := by
  unfold execSpi1WordComplete
  repeat' first | (with_reducible first | assumption | rfl | intro _ | apply keeps_blkSpi1 | apply keeps_ite | apply outKeeps_ite | apply outKeeps_next) | split

theorem keeps_execSpi1SelectRelease {z : State} {n : Nat} {v : Word} {s : State} (hk : Keeps z s) :
    OutKeeps z (execSpi1SelectRelease n v s) := by
  unfold execSpi1SelectRelease
  repeat' first | (with_reducible first | assumption | rfl | intro _ | apply keeps_blkSpi1 | apply keeps_ite | apply outKeeps_ite | apply outKeeps_next) | split

theorem keeps_execSpi1Rx {z : State} {s : State} (hk : Keeps z s)  :
    OutKeeps z (execSpi1Rx s) := by
  unfold execSpi1Rx
  repeat' first | (with_reducible first | assumption | rfl | intro _ | apply keeps_blkSpi1 | apply keeps_onE | apply outKeeps_next) | split

theorem keeps_execSpi1SelectAssert {z : State} {s : State} (hk : Keeps z s) :
    OutKeeps z (execSpi1SelectAssert s) := by
  unfold execSpi1SelectAssert
  repeat' first | (with_reducible first | assumption | rfl | intro _ | apply keeps_blkSpi1 | apply keeps_ite | apply outKeeps_ite | apply outKeeps_next) | split

theorem keeps_spi1Leave {z : State} {s : State} (hk : Keeps z s) :
    Keeps z (spi1Leave s) := by
  unfold spi1Leave
  try dsimp only
  repeat' first | (with_reducible first | assumption | rfl | intro _ | apply keeps_blkSpi1 | apply keeps_freeBytes_p | apply keeps_ite) | (refine keeps_freeBytes ?_ (by with_reducible assumption)) | split

theorem keeps_spi1Watch {z : State} {s : State} (hk : Keeps z s) :
    Keeps z (spi1Watch s) := by
  unfold spi1Watch
  try dsimp only
  repeat' first | (with_reducible first | assumption | rfl | intro _ | apply keeps_blkSpi1 | apply keeps_spi1Leave | apply keeps_ite) | split

theorem keeps_spi1Park {z : State} {s : State} (hk : Keeps z s) :
    Keeps z (spi1Park s) := by
  unfold spi1Park
  try dsimp only
  repeat' first | (with_reducible first | assumption | rfl | intro _ | apply keeps_blkSpi1 | apply keeps_spi1Leave | apply keeps_ite) | split

theorem keeps_spi1Unpark {z : State} {s : State} (hk : Keeps z s) :
    Keeps z (spi1Unpark s) := by
  unfold spi1Unpark
  repeat' first | (with_reducible first | assumption | rfl | intro _ | apply keeps_blkSpi1 | apply keeps_spi1Watch | apply keeps_ite) | split

/-! ### Machine/Clocks.lean -/

theorem keeps_onClk {z : State} {s : State} {f : Clk → Clk} (hk : Keeps z s)  :
    Keeps z (onClk s f) := by
  unfold onClk
  repeat' first | (with_reducible first | assumption | rfl | intro _ | apply keeps_blkClk) | split

theorem keeps_relockAccept {z : State} {s : State} {p : Pll} {x : Word} (hk : Keeps z s)  :
    Keeps z (relockAccept s p x) := by
  unfold relockAccept
  dsimp only
  repeat' first | (with_reducible first | assumption | rfl | intro _ | apply keeps_dimCancel | apply keeps_onClk | apply keeps_announce | apply keeps_ite) | split

theorem keeps_relockGo {z : State} {s : State} {p : Pll} (hk : Keeps z s)  :
    Keeps z (relockGo s p) := by
  unfold relockGo
  repeat' first | (with_reducible first | assumption | rfl | intro _ | apply keeps_relockAccept | apply keeps_refuseWrite | apply keeps_ite) | split

theorem keeps_execRelockGoA {z : State} {s : State} (hk : Keeps z s)  :
    OutKeeps z (execRelockGoA s) := by
  unfold execRelockGoA
  repeat' first | (with_reducible first | assumption | rfl | intro _ | apply keeps_relockGo | apply keeps_ite | apply outKeeps_ite | apply outKeeps_next) | split

theorem keeps_execRelockGoB {z : State} {s : State} (hk : Keeps z s)  :
    OutKeeps z (execRelockGoB s) := by
  unfold execRelockGoB
  repeat' first | (with_reducible first | assumption | rfl | intro _ | apply keeps_relockGo | apply keeps_ite | apply outKeeps_ite | apply outKeeps_next) | split

theorem keeps_parkBoth {z : State} {s : State} (hk : Keeps z s)  :
    Keeps z (parkBoth s) := by
  unfold parkBoth
  repeat' first | (with_reducible first | assumption | rfl | intro _ | apply keeps_blkCan0 | apply keeps_blkCan1) | split

theorem keeps_startPll {z : State} {s : State} {p : Pll} (hk : Keeps z s) :
    Keeps z (startPll s p) := by
  unfold startPll
  try dsimp only
  repeat' first | (with_reducible first | assumption | rfl | intro _ | apply keeps_onClk | apply keeps_parkBoth | apply keeps_ite) | split

theorem keeps_execRelockStart {z : State} {s : State} (hk : Keeps z s)  :
    OutKeeps z (execRelockStart s) := by
  unfold execRelockStart
  repeat' first | (with_reducible first | assumption | rfl | intro _ | apply keeps_startPll | apply keeps_onClk | apply keeps_ite | apply outKeeps_ite | apply outKeeps_next) | split

theorem keeps_holdClear {z : State} {s : State} (hk : Keeps z s) :
    Keeps z (holdClear s) := by
  unfold holdClear
  try dsimp only
  repeat' first | (with_reducible first | assumption | rfl | intro _ | apply keeps_blkMode | apply keeps_alarmClear | apply keeps_onClk | apply keeps_spi1Unpark | apply keeps_ite) | split

theorem keeps_execRelockLockShown {z : State} {p : Pll} {s : State} (hk : Keeps z s) :
    OutKeeps z (execRelockLockShown p s) := by
  unfold execRelockLockShown
  try dsimp only
  repeat' first | (with_reducible first | assumption | rfl | intro _ | apply keeps_holdClear | apply keeps_onClk | apply keeps_ite | apply outKeeps_ite | apply outKeeps_next) | split

theorem keeps_execRampStep {z : State} {p : Pll} {s : State} (hk : Keeps z s) :
    OutKeeps z (execRampStep p s) := by
  unfold execRampStep
  try dsimp only
  repeat' first | (with_reducible first | assumption | rfl | intro _ | apply keeps_onClk | apply keeps_ite | apply outKeeps_ite | apply outKeeps_next) | split

theorem keeps_lossPark {z : State} {s : State} (hk : Keeps z s) :
    Keeps z (lossPark s) := by
  unfold lossPark
  try dsimp only
  repeat' first | (with_reducible first | assumption | rfl | intro _ | apply keeps_alarmSet | apply keeps_spi0Cut | apply keeps_spi1Park | apply keeps_parkBoth | apply keeps_ite) | split

theorem keeps_lossStop {z : State} {s : State} (hk : Keeps z s) :
    Keeps z (lossStop s) := by
  unfold lossStop
  try dsimp only
  repeat' first | (with_reducible first | assumption | rfl | intro _ | apply keeps_blkMode | apply keeps_onRng | apply keeps_abortEngines | apply keeps_abortCommands | apply keeps_abortTrips | apply keeps_wakeTrigger | apply keeps_ite) | split

theorem keeps_lossActions {z : State} {s : State} (hk : Keeps z s)  :
    Keeps z (lossActions s) := by
  unfold lossActions
  dsimp only
  repeat' first | (with_reducible first | assumption | rfl | intro _ | apply keeps_logSD | apply keeps_lossStop | apply keeps_lossPark) | split

theorem keeps_execRelockFail {z : State} {p : Pll} {s : State} (hk : Keeps z s) :
    OutKeeps z (execRelockFail p s) := by
  unfold execRelockFail
  try dsimp only
  repeat' first | (with_reducible first | assumption | rfl | intro _ | apply keeps_lossActions | apply keeps_onClk | apply keeps_ite | apply outKeeps_ite | apply outKeeps_next) | split

theorem keeps_execLossOfLock {z : State} {a b : Bool} {s : State} (hk : Keeps z s) :
    OutKeeps z (execLossOfLock a b s) := by
  unfold execLossOfLock
  try dsimp only
  repeat' first | (with_reducible first | assumption | rfl | intro _ | apply keeps_lossActions | apply keeps_onClk | apply keeps_ite | apply outKeeps_ite | apply outKeeps_next) | split

theorem keeps_execDegrade {z : State} {s : State} (hk : Keeps z s)  :
    OutKeeps z (execDegrade s) := by
  unfold execDegrade
  repeat' first | (with_reducible first | assumption | rfl | intro _ | apply keeps_onClk | apply keeps_ite | apply outKeeps_ite | apply outKeeps_next) | split

theorem keeps_execXaLost {z : State} {s : State} (hk : Keeps z s) :
    OutKeeps z (execXaLost s) := by
  unfold execXaLost
  try dsimp only
  repeat' first | (with_reducible first | assumption | rfl | intro _ | apply keeps_blkGlb | apply keeps_onClk | apply keeps_lossActions | apply keeps_ite | apply outKeeps_ite | apply outKeeps_next) | split

theorem keeps_execXaFreqCheck {z : State} {n : Nat} {s : State} (hk : Keeps z s) :
    OutKeeps z (execXaFreqCheck n s) := by
  unfold execXaFreqCheck
  try dsimp only
  repeat' first | (with_reducible first | assumption | rfl | intro _ | apply keeps_blkGlb | apply keeps_onClk | apply keeps_ite | apply outKeeps_ite | apply outKeeps_next) | split

theorem keeps_execXbCheck {z : State} {n : Nat} {s : State} (hk : Keeps z s)  :
    OutKeeps z (execXbCheck n s) := by
  unfold execXbCheck
  dsimp only
  repeat' first | (with_reducible first | assumption | rfl | intro _ | apply keeps_blkTmp | apply keeps_onClk | apply keeps_ite | apply outKeeps_ite | apply outKeeps_next) | split

theorem keeps_execXbLost {z : State} {s : State} (hk : Keeps z s)  :
    OutKeeps z (execXbLost s) := by
  unfold execXbLost
  repeat' first | (with_reducible first | assumption | rfl | intro _ | apply keeps_blkTmp | apply keeps_logS | apply keeps_ite | apply outKeeps_ite | apply outKeeps_next) | split

theorem keeps_trimStep {z : State} {s : State} {m : Option (Nat × Nat)} (hk : Keeps z s) :
    Keeps z (trimStep s m) := by
  unfold trimStep
  try dsimp only
  repeat' first | (with_reducible first | assumption | rfl | intro _ | apply keeps_onClk | apply keeps_ite) | split

theorem keeps_holdAttempts {z : State} {s : State} (hk : Keeps z s) :
    Keeps z (holdAttempts s) := by
  unfold holdAttempts
  try dsimp only
  repeat' first | (with_reducible first | assumption | rfl | intro _ | apply keeps_onClk | apply keeps_ite) | split

/-! ### Machine/Can.lean -/

theorem keeps_onCan {z : State} {s : State} {ch : Nat} {f : CanCh → CanCh} (hk : Keeps z s)  :
    Keeps z (onCan s ch f) := by
  unfold onCan
  repeat' first | (with_reducible first | assumption | rfl | intro _ | apply keeps_setCan) | split

theorem keeps_canMode {z : State} {s : State} {ch m : Nat} (hk : Keeps z s)  :
    Keeps z (canMode s ch m) := by
  unfold canMode
  dsimp only
  repeat' first | (with_reducible first | assumption | rfl | intro _ | apply keeps_refuseWrite | apply keeps_setCan | apply keeps_ite) | split

theorem keeps_execCanMode {z : State} {ch m : Nat} {s : State} (hk : Keeps z s)  :
    OutKeeps z (execCanMode ch m s) := by
  unfold execCanMode
  repeat' first | (with_reducible first | assumption | rfl | intro _ | apply keeps_canMode | apply keeps_onE | apply keeps_pickTx | apply outKeeps_next) | split

theorem keeps_startHello {z : State} {s : State} {ch : Nat} (hk : Keeps z s)  :
    Keeps z (startHello s ch) := by
  unfold startHello
  repeat' first | (with_reducible first | assumption | rfl | intro _ | apply keeps_sendHello) | split

theorem keeps_execBusIntegration {z : State} {ch : Nat} {s : State} (hk : Keeps z s)  :
    OutKeeps z (execBusIntegration ch s) := by
  unfold execBusIntegration
  dsimp only
  repeat' first | (with_reducible first | assumption | rfl | intro _ | apply keeps_pickTx | apply keeps_setCan | apply keeps_startHello | apply keeps_ite | apply outKeeps_ite | apply outKeeps_next) | split

theorem keeps_execTxreq {z : State} {ch : Nat} {m : Byte} {s : State} (hk : Keeps z s) :
    OutKeeps z (execTxreq ch m s) := by
  unfold execTxreq
  try dsimp only
  repeat' first | (with_reducible first | assumption | rfl | intro _ | apply keeps_onE | apply keeps_pickTx | apply keeps_onCan | apply keeps_ite | apply outKeeps_ite | apply outKeeps_next) | split

theorem keeps_execTxabort {z : State} {ch : Nat} {m : Byte} {s : State} (hk : Keeps z s)  :
    OutKeeps z (execTxabort ch m s) := by
  unfold execTxabort
  repeat' first | (with_reducible first | assumption | rfl | intro _ | apply keeps_onE | apply keeps_onCan | apply outKeeps_next) | split

theorem keeps_execBorReq {z : State} {ch : Nat} {s : State} (hk : Keeps z s)  :
    OutKeeps z (execBorReq ch s) := by
  unfold execBorReq
  repeat' first | (with_reducible first | assumption | rfl | intro _ | apply keeps_onCan | apply keeps_onE | apply keeps_ite | apply outKeeps_ite | apply outKeeps_next) | split

theorem keeps_execRxpop {z : State} {ch : Nat} {s : State} (hk : Keeps z s) :
    OutKeeps z (execRxpop ch s) := by
  unfold execRxpop
  try dsimp only
  repeat' first | (with_reducible first | assumption | rfl | intro _ | apply keeps_onE | apply keeps_canIrq | apply keeps_onCan | apply keeps_ite | apply outKeeps_ite | apply outKeeps_next) | split

theorem keeps_recGood {z : State} {s : State} {ch : Nat} (hk : Keeps z s)  :
    Keeps z (recGood s ch) := by
  unfold recGood
  dsimp only
  repeat' first | (with_reducible first | assumption | rfl | intro _ | apply keeps_setCan | apply keeps_freeBytes_p | apply keeps_ite) | (refine keeps_freeBytes ?_ (by with_reducible assumption)) | split

theorem keeps_tecUp {z : State} {s : State} {ch n : Nat} (hk : Keeps z s) :
    Keeps z (tecUp s ch n) := by
  unfold tecUp
  try dsimp only
  repeat' first | (with_reducible first | assumption | rfl | intro _ | apply keeps_logD | apply keeps_setCan | apply keeps_ite) | split

theorem keeps_execReceiveError {z : State} {ch n : Nat} {s : State} (hk : Keeps z s)  :
    OutKeeps z (execReceiveError ch n s) := by
  unfold execReceiveError
  dsimp only
  repeat' first | (with_reducible first | assumption | rfl | intro _ | apply keeps_setCan | apply keeps_ite | apply outKeeps_ite | apply outKeeps_next) | split

theorem keeps_execBusOffRecovery {z : State} {ch : Nat} {s : State} (hk : Keeps z s)  :
    OutKeeps z (execBusOffRecovery ch s) := by
  unfold execBusOffRecovery
  dsimp only
  repeat' first | (with_reducible first | assumption | rfl | intro _ | apply keeps_pickTx | apply keeps_setCan | apply keeps_logD | apply keeps_ite | apply outKeeps_ite | apply outKeeps_next) | split

theorem keeps_canFlush {z : State} {s : State} {ch : Nat} (hk : Keeps z s)  :
    Keeps z (canFlush s ch) := by
  unfold canFlush
  dsimp only
  repeat' first | (with_reducible first | assumption | rfl | intro _ | apply keeps_blkFlt | apply keeps_onCan | apply keeps_foldl) | split

theorem keeps_rxDeliver {z : State} {s : State} {ch : Nat} {e : RxEnt} (hk : Keeps z s) :
    Keeps z (rxDeliver s ch e) := by
  unfold rxDeliver
  try dsimp only
  repeat' first | (with_reducible first | assumption | rfl | intro _ | apply keeps_blkFlt | apply keeps_canFlush | apply keeps_onCan | apply keeps_fltCount | apply keeps_ite) | split

theorem keeps_rxConflict {z : State} {s : State} {ch : Nat} {f : CanFrame} (hk : Keeps z s)  :
    Keeps z (rxConflict s ch f) := by
  unfold rxConflict
  repeat' first | (with_reducible first | assumption | rfl | intro _ | apply keeps_blkCan1 | apply keeps_logS | apply keeps_ite) | split

theorem keeps_rxFilter {z : State} {s : State} {ch : Nat} {e : RxEnt} (hk : Keeps z s)  :
    Keeps z (rxFilter s ch e) := by
  unfold rxFilter
  repeat' first | (with_reducible first | assumption | rfl | intro _ | apply keeps_onCan | apply keeps_rxDeliver | apply keeps_ite) | split

theorem keeps_txOk {z : State} {s : State} {ch b : Nat} (hk : Keeps z s)  :
    Keeps z (txOk s ch b) := by
  unfold txOk
  dsimp only
  repeat' first | (with_reducible first | assumption | rfl | intro _ | apply keeps_rxFilter | apply keeps_setCan | apply keeps_voeSent | apply keeps_ite) | split

theorem keeps_txFailed {z : State} {s : State} {ch b : Nat} {other : Bool} (hk : Keeps z s)  :
    Keeps z (txFailed s ch b other) := by
  unfold txFailed
  dsimp only
  repeat' first | (with_reducible first | assumption | rfl | intro _ | apply keeps_setCan | apply keeps_voeNoAck | apply keeps_ite) | split

theorem keeps_txLost {z : State} {s : State} {ch b : Nat} (hk : Keeps z s)  :
    Keeps z (txLost s ch b) := by
  unfold txLost
  dsimp only
  repeat' first | (with_reducible first | assumption | rfl | intro _ | apply keeps_onCan | apply keeps_ite) | split

theorem keeps_txNoAck {z : State} {s : State} {ch : Nat} (hk : Keeps z s) :
    Keeps z (txNoAck s ch) := by
  unfold txNoAck
  repeat' first | (with_reducible first | assumption | rfl | intro _ | apply keeps_tecUp | apply keeps_ite) | split

theorem keeps_txStamp {z : State} {s : State} {ch sof : Nat} (hk : Keeps z s) :
    Keeps z (txStamp s ch sof) := by
  unfold txStamp
  try dsimp only
  repeat' first | (with_reducible first | assumption | rfl | intro _ | apply keeps_onCan | apply keeps_ite) | split

theorem keeps_lostAttempt {z : State} {s : State} {ch : Nat} (hk : Keeps z s) :
    Keeps z (lostAttempt s ch) := by
  unfold lostAttempt
  try dsimp only
  repeat' first | (with_reducible first | assumption | rfl | intro _ | apply keeps_txLost | apply keeps_onCan | apply keeps_ite) | split

theorem keeps_frameOver {z : State} {s : State} {ch : Nat} (hk : Keeps z s) :
    Keeps z (frameOver s ch) := by
  unfold frameOver
  try dsimp only
  repeat' first | (with_reducible first | assumption | rfl | intro _ | apply keeps_onCan | apply keeps_pickTx | apply keeps_drainOut | apply keeps_ite) | split

theorem keeps_execFrameReceived {z : State} {ch : Nat} {f : CanFrame} {sof : Nat} {s : State} (hk : Keeps z s) :
    OutKeeps z (execFrameReceived ch f sof s) := by
  unfold execFrameReceived
  try dsimp only
  repeat' first | (with_reducible first | assumption | rfl | intro _ | apply keeps_lostAttempt | apply keeps_txStamp | apply keeps_recGood | apply keeps_onCan | apply keeps_rxConflict | apply keeps_canIrq | apply keeps_rxFilter | apply keeps_wakeTrigger | apply keeps_frameOver | apply keeps_ite | apply outKeeps_ite | apply outKeeps_next) | split

theorem keeps_execFrameTxEnd {z : State} {ch : Nat} {e : TxEnd} {sof : Nat} {s : State} (hk : Keeps z s) :
    OutKeeps z (execFrameTxEnd ch e sof s) := by
  unfold execFrameTxEnd
  try dsimp only
  repeat' first | (with_reducible first | assumption | rfl | intro _ | apply keeps_onCan | apply keeps_txStamp | apply keeps_canIrq | apply keeps_txOk | apply keeps_txFailed | apply keeps_txNoAck | apply keeps_tecUp | apply keeps_txLost | apply keeps_frameOver | apply keeps_ite | apply outKeeps_ite | apply outKeeps_next) | split

end Sys2Proof.Machine
end

