-- ==== Sys2Proof/Laws/KeepsUpdate.lean ====
section
/-! SUPPORT. Keeps for configuration, images, the recorder, KINDLE, the tick edge and the modes. -/
namespace Sys2Proof.Machine

/-! ### Machine/Layer.lean -/

theorem keeps_putBudgets {z s : State} {b : List Bud} (h : Keeps z s) (hb : budOk b = true) : Keeps z (putBudgets s b) :=
  keeps_blkGroups h (.inl rfl) (.inr hb)

theorem keeps_putBcnCfg {z : State} {s : State} {w : Word} (hk : Keeps z s)  :
    Keeps z (putBcnCfg s w) := by
  unfold putBcnCfg
  dsimp only
  repeat' first | (with_reducible first | assumption | rfl | intro _ | apply keeps_blkGlb | apply keeps_ite) | split

theorem keeps_putPll {z : State} {s : State} {v : Bytes} (hk : Keeps z s) :
    Keeps z (putPll s v) := by
  unfold putPll
  try dsimp only
  repeat' first | (with_reducible first | assumption | rfl | intro _ | apply keeps_onClk | apply keeps_ite) | split

theorem keeps_putTamperParam {z : State} {s : State} {v : Bytes} (hk : Keeps z s) :
    Keeps z (putTamperParam s v) := by
  unfold putTamperParam
  try dsimp only
  repeat' first | (with_reducible first | assumption | rfl | intro _ | apply keeps_blkTmp | apply keeps_ite) | split

theorem keeps_putDefault {z : State} {s : State} {t : Nat} (hk : Keeps z s) :
    Keeps z (putDefault s t) := by
  unfold putDefault
  try dsimp only
  repeat' first | (with_reducible first | assumption | rfl | intro _ | apply keeps_blkTmp | apply keeps_ite) | split

/-- No ceiling of a clamped list is above 24. -/
theorem caps_clamped (c : List Nat) : (c.map (min 24)).all (· ≤ 24) = true := by
  simp only [List.all_map, List.all_eq_true, Function.comp, decide_eq_true_eq]
  exact fun x _ => Nat.min_le_left 24 x

/-- A field put keeps the groups legal: budgets must have been found in range. -/
theorem keeps_putField {z s : State} {t : Nat} {v : Bytes} (h : Keeps z s) (ok : t ≠ 4 ∨ fieldOk s t v = true) :
    Keeps z (putField s t v) := by
  unfold putField
  dsimp only
  split
  · exact keeps_putPll h
  · exact keeps_putBcnCfg h
  · exact keeps_onClk h
  · rcases ok with ok | ok
    · exact absurd rfl ok
    · exact keeps_putBudgets h ok
  · exact keeps_blkGroups h (.inr (caps_clamped _)) (.inl rfl)
  · exact keeps_blkMode h
  · exact keeps_blkMode h
  · exact keeps_blkSpi0 h
  · exact keeps_blkCfg h
  · exact keeps_blkCfg h
  · exact keeps_blkTmp h
  · exact keeps_putTamperParam h
  · exact keeps_blkCan0 h
  · exact keeps_blkCan1 h
  · exact keeps_blkPke h
  · exact keeps_blkCfg h
  · exact h

theorem keeps_noteSrc {z : State} {s : State} {t src : Nat} (hk : Keeps z s)  :
    Keeps z (noteSrc s t src) := by
  unfold noteSrc
  repeat' first | (with_reducible first | assumption | rfl | intro _ | apply keeps_blkCfg) | split

theorem keeps_settle {z s : State} {t : Nat} {iv : Option Bytes} (h : Keeps z s) : Keeps z (settle s t iv) := by
  have img : ∀ (locked : Bool) (s : State), Keeps z s → Keeps z (match iv with
      | none => putDefault s t
      | some v =>
        if locked = true then s
        else if fieldOk s t v = true then noteSrc (putField s t v) t 2
        else logOther (putDefault (s.setCfg { s.cfg with range := true }) t) .cfg (leBytes 8 t)) := by
    intro locked s h
    split
    · exact keeps_putDefault h
    · split
      · exact h
      · split
        · exact keeps_noteSrc (keeps_putField h (.inr ‹_›))
        · exact keeps_logOther (keeps_putDefault (keeps_blkCfg h))
  unfold settle
  split
  · exact keeps_noteSrc (keeps_blkCfg h)
  · cases ho : ovrWord s t with
    | none => exact img _ _ h
    | some w =>
      have ht : t ≠ 4 := by
        intro e
        subst e
        exact absurd ho (by simp [ovrWord, overridable])
      exact img _ _ (keeps_noteSrc (keeps_putField h (.inl ht)))

theorem keeps_layerAll {z : State} {s : State} {im : List (Nat × Bytes)} (hk : Keeps z s)  :
    Keeps z (layerAll s im) := by
  unfold layerAll
  dsimp only
  repeat' first | (with_reducible first | assumption | rfl | intro _ | apply keeps_respAct | apply keeps_settle | apply keeps_foldl) | split

theorem keeps_cfgK3 {z : State} {s : State} (hk : Keeps z s)  :
    Keeps z (cfgK3 s) := by
  unfold cfgK3
  repeat' first | (with_reducible first | assumption | rfl | intro _ | apply keeps_blkCfg | apply keeps_onClk) | split

theorem keeps_cfgK7 {z : State} {s : State} (hk : Keeps z s)  :
    Keeps z (cfgK7 s) := by
  unfold cfgK7
  dsimp only
  repeat' first | (with_reducible first | assumption | rfl | intro _ | apply keeps_blkCfg | apply keeps_layerAll | apply keeps_logOther | apply keeps_ite | apply optKeeps_getD) | split

/-! ### Machine/Images.lean -/

theorem keeps_slotErase {z : State} {s : State} {kind slot : Nat} (hk : Keeps z s)  :
    Keeps z (slotErase s kind slot) := by
  unfold slotErase
  repeat' first | (with_reducible first | assumption | rfl | intro _ | apply keeps_flashErase) | split

theorem keeps_slotWrite {z : State} {s : State} {dur : Bytes} {kind slot gen : Nat} {iv img : Bytes} (hk : Keeps z s)  :
    Keeps z (slotWrite s dur kind slot gen iv img) := by
  unfold slotWrite
  dsimp only
  repeat' first | (with_reducible first | assumption | rfl | intro _ | apply keeps_slotErase | apply keeps_flashProgram) | split

theorem keeps_recWrite {z : State} {s : State} {sf pr flags schema : Nat} (hk : Keeps z s)  :
    Keeps z (recWrite s sf pr flags schema) := by
  unfold recWrite
  dsimp only
  repeat' first | (with_reducible first | assumption | rfl | intro _ | apply keeps_flashProgram | apply keeps_flashErase | apply keeps_ite) | split

theorem keeps_loadCode {z : State} {s : State} {kind : Nat} {b : Bytes} (hk : Keeps z s)  :
    Keeps z (loadCode s kind b) := by
  unfold loadCode
  repeat' first | (with_reducible first | assumption | rfl | intro _ | apply keeps_sramWrite) | split

theorem keeps_pairRun {z : State} {s : State} {f p : Img} (hk : Keeps z s)  :
    Keeps z (pairRun s f p) := by
  unfold pairRun
  repeat' first | (with_reducible first | assumption | rfl | intro _ | apply keeps_blkMode | apply keeps_blkUpd) | split

theorem keeps_tryPairs {z : State} {s : State} {l : List ActRec} (h : Keeps z s) : Keeps z (tryPairs s l) := by
  induction l generalizing s with
  | nil => exact h
  | cons r t ih =>
    unfold tryPairs
    split
    · exact ih (keeps_blkUpd h)
    · exact keeps_pairRun (keeps_loadCode (keeps_loadCode h))

theorem keeps_heldPair {z : State} {s : State} {f p : Img} (hk : Keeps z s)  :
    Keeps z (heldPair s f p) := by
  unfold heldPair
  dsimp only
  repeat' first | (with_reducible first | assumption | rfl | intro _ | apply keeps_pairRun | apply keeps_ite) | split

theorem keeps_kindleK9 {z : State} {s : State} (hk : Keeps z s)  :
    Keeps z (kindleK9 s) := by
  unfold kindleK9
  dsimp only
  repeat' first | (with_reducible first | assumption | rfl | intro _ | apply keeps_blkUpd | apply keeps_heldPair | apply keeps_tryPairs | apply keeps_ite) | split

theorem keeps_rbcOwed {z : State} {s : State} (hk : Keeps z s) :
    Keeps z (rbcOwed s) := by
  unfold rbcOwed
  repeat' first | (with_reducible first | assumption | rfl | intro _ | apply keeps_blkUpd | apply keeps_ite) | split

theorem keeps_rbcRaise {z : State} {s : State} (hk : Keeps z s) :
    Keeps z (rbcRaise s) := by
  unfold rbcRaise
  try dsimp only
  repeat' first | (with_reducible first | assumption | rfl | intro _ | apply keeps_blkUpd | apply keeps_logOtherS | apply keeps_rbcOwed | apply keeps_freeBytes_p | apply keeps_blowRun_p | apply keeps_onFus | apply keeps_ite) | (refine keeps_freeBytes ?_ (by with_reducible assumption)) | (refine keeps_blowRun ?_ (by with_reducible assumption)) | split

/-! ### Machine/CmdUpdate.lean -/

theorem keeps_stageBeginCmd {z : State} {s : State} {_fn : Nat} {d : Bytes} {_io : CmdIo} (hk : Keeps z s)  :
    AnsKeeps z (stageBeginCmd s _fn d _io) := by
  unfold stageBeginCmd
  dsimp only
  repeat' first | (with_reducible first | assumption | rfl | intro _ | apply keeps_blkUpd | apply keeps_slotErase | apply keeps_ite | apply ansKeeps_ite | apply keeps_Ans.bad | apply keeps_Ans.denied | apply keeps_id) | split | with_reducible apply ansKeeps_mk | with_reducible apply AnsKeeps.st | with_reducible apply AnsKeeps.after

theorem keeps_stageCode {z : State} {s : State} {g : Staging} {a : Nat} (hk : Keeps z s)  :
    Keeps z (stageCode s g a) := by
  unfold stageCode
  dsimp only
  repeat' first | (with_reducible first | assumption | rfl | intro _ | apply keeps_sramWrite) | split

theorem keeps_stageDataCmd {z : State} {s : State} {_fn : Nat} {d : Bytes} {io : CmdIo} (hk : Keeps z s)  :
    AnsKeeps z (stageDataCmd s _fn d io) := by
  unfold stageDataCmd
  dsimp only
  repeat' first | (with_reducible first | assumption | rfl | intro _ | apply keeps_blkUpd | apply keeps_stageCode | apply keeps_ite | apply ansKeeps_ite | apply keeps_Ans.bad | apply keeps_Ans.denied | apply keeps_id) | split | with_reducible apply ansKeeps_mk | with_reducible apply AnsKeeps.st | with_reducible apply AnsKeeps.after

theorem keeps_stageFail {z : State} {s : State} {code : Nat} (hk : Keeps z s)  :
    AnsKeeps z (stageFail s code) := by
  unfold stageFail
  repeat' first | (with_reducible first | assumption | rfl | intro _ | apply keeps_blkUpd | apply keeps_ite | apply ansKeeps_ite | apply keeps_id) | split | with_reducible apply ansKeeps_mk | with_reducible apply AnsKeeps.st | with_reducible apply AnsKeeps.after

theorem keeps_stageDone {z : State} {s : State} {h : Bytes} (hk : Keeps z s)  :
    AnsKeeps z (stageDone s h) := by
  unfold stageDone
  repeat' first | (with_reducible first | assumption | rfl | intro _ | apply keeps_id) | split | with_reducible apply ansKeeps_mk

theorem keeps_stageVerifyCmd {z : State} {s : State} {_fn : Nat} {d : Bytes} {io : CmdIo} (hk : Keeps z s)  :
    AnsKeeps z (stageVerifyCmd s _fn d io) := by
  unfold stageVerifyCmd
  dsimp only
  repeat' first | (with_reducible first | assumption | rfl | intro _ | apply keeps_blkUpd | apply keeps_freeBytes_p | apply keeps_slotWrite | apply keeps_Ans.denied | apply keeps_stageFail | apply keeps_stageDone | apply keeps_ite | apply ansKeeps_ite | apply keeps_Ans.aborted | apply keeps_Ans.bad | apply keeps_id) | (refine keeps_freeBytes ?_ (by with_reducible assumption)) | split | with_reducible apply ansKeeps_mk | with_reducible apply AnsKeeps.st | with_reducible apply AnsKeeps.after

theorem keeps_actAccept {z : State} {s : State} {kind : Nat} {x : Word} {raiseIt : Bool} (hk : Keeps z s)  :
    Keeps z (actAccept s kind x raiseIt) := by
  unfold actAccept
  dsimp only
  repeat' first | (with_reducible first | assumption | rfl | intro _ | apply keeps_blkUpd | apply keeps_announceCmd | apply keeps_ite) | split

theorem keeps_activateService {z : State} {s : State} {kind : Nat} {x : Word} {raiseIt : Bool} (hk : Keeps z s)  :
    AnsKeeps z (activateService s kind x raiseIt) := by
  unfold activateService
  repeat' first | (with_reducible first | assumption | rfl | intro _ | apply keeps_actAccept | apply keeps_ite | apply ansKeeps_ite | apply keeps_Ans.aborted | apply keeps_Ans.denied | apply keeps_Ans.late | apply keeps_Ans.stop | apply keeps_id) | split | with_reducible apply ansKeeps_mk | with_reducible apply AnsKeeps.st | with_reducible apply AnsKeeps.after

theorem keeps_activateLoader {z : State} {s : State} {kind : Nat} {x : Word} (hk : Keeps z s)  :
    AnsKeeps z (activateLoader s kind x) := by
  unfold activateLoader
  repeat' first | (with_reducible first | assumption | rfl | intro _ | apply keeps_blkUpd | apply keeps_cmdReset | apply keeps_recWrite | apply keeps_ite | apply ansKeeps_ite | apply keeps_Ans.aborted | apply keeps_Ans.denied | apply keeps_Ans.late | apply keeps_Ans.stop | apply keeps_id) | split | with_reducible apply ansKeeps_mk | with_reducible apply AnsKeeps.st | with_reducible apply AnsKeeps.after

theorem keeps_activateCmd {z : State} {s : State} {_fn : Nat} {d : Bytes} {_io : CmdIo} (hk : Keeps z s)  :
    AnsKeeps z (activateCmd s _fn d _io) := by
  unfold activateCmd
  dsimp only
  repeat' first | (with_reducible first | assumption | rfl | intro _ | apply keeps_activateService | apply keeps_activateLoader | apply keeps_ite | apply ansKeeps_ite | apply keeps_Ans.bad | apply keeps_id) | split | with_reducible apply ansKeeps_mk

theorem keeps_activateCancelCmd {z : State} {s : State} {_fn : Nat} {d : Bytes} {_io : CmdIo} (hk : Keeps z s)  :
    AnsKeeps z (activateCancelCmd s _fn d _io) := by
  unfold activateCancelCmd
  dsimp only
  repeat' first | (with_reducible first | assumption | rfl | intro _ | apply keeps_blkUpd | apply keeps_annClear | apply keeps_ite | apply ansKeeps_ite | apply keeps_Ans.bad | apply keeps_Ans.denied | apply keeps_id) | split | with_reducible apply ansKeeps_mk | with_reducible apply AnsKeeps.st | with_reducible apply AnsKeeps.after

theorem keeps_imageInfoCmd {z : State} {s : State} {_fn : Nat} {_d : Bytes} {_io : CmdIo} (hk : Keeps z s)  :
    AnsKeeps z (imageInfoCmd s _fn _d _io) := by
  unfold imageInfoCmd
  repeat' first | (with_reducible first | assumption | rfl | intro _ | apply keeps_id) | split | with_reducible apply ansKeeps_mk

theorem keeps_configWriteCmd {z : State} {s : State} {_fn : Nat} {d : Bytes} {io : CmdIo} (hk : Keeps z s)  :
    AnsKeeps z (configWriteCmd s _fn d io) := by
  unfold configWriteCmd
  dsimp only
  repeat' first | (with_reducible first | assumption | rfl | intro _ | apply keeps_flashProgram | apply keeps_flashErase | apply keeps_ite | apply ansKeeps_ite | apply keeps_Ans.aborted | apply keeps_Ans.bad | apply keeps_Ans.denied | apply keeps_id) | split | with_reducible apply ansKeeps_mk

theorem keeps_tokenUse {z : State} {s : State} {t : Bytes} (hk : Keeps z s)  :
    Keeps z (tokenUse s t) := by
  unfold tokenUse
  repeat' first | (with_reducible first | assumption | rfl | intro _ | apply keeps_onRng | apply keeps_ite) | split

theorem keeps_withToken {z : State} {s : State} {typ : Nat} {t : Bytes} {ok : Bool} {f : State → Ans} (hk : Keeps z s) (hf : ∀ s, Keeps z s → AnsKeeps z (f s)) :
    AnsKeeps z (withToken s typ t ok f) := by
  unfold withToken
  repeat' first | (with_reducible first | assumption | rfl | intro _ | apply keeps_tokenUse | apply keeps_ite | apply ansKeeps_ite | apply hf | apply keeps_Ans.denied | apply keeps_id) | split | with_reducible apply ansKeeps_mk

theorem keeps_reencrypt {z : State} {s : State} {dur : Bytes} (hk : Keeps z s) :
    Keeps z (reencrypt s dur) := by
  unfold reencrypt
  try dsimp only
  repeat' first | (with_reducible first | assumption | rfl | intro _ | apply keeps_freeBytes_p | apply keeps_slotWrite | apply keeps_recWrite | apply keeps_onFus | apply keeps_ite) | (refine keeps_freeBytes ?_ (by with_reducible assumption)) | split

theorem keeps_provisionCmd {z : State} {s : State} {fn : Nat} {d : Bytes} {io : CmdIo} (hk : Keeps z s) :
    AnsKeeps z (provisionCmd s fn d io) := by
  unfold provisionCmd
  try dsimp only
  repeat' first | (with_reducible first | assumption | rfl | intro _ | apply keeps_withToken | apply keeps_withRandom | apply keeps_blowPart | apply keeps_reencrypt | apply keeps_Ans.bad | apply keeps_Ans.denied | apply keeps_Ans.aborted | apply keeps_Ans.notReady | apply keeps_ite | apply ansKeeps_ite | apply keeps_id) | split | with_reducible apply ansKeeps_mk | with_reducible apply AnsKeeps.st | with_reducible apply AnsKeeps.after

theorem keeps_tokenChallengeCmd {z : State} {s : State} {fn : Nat} {d : Bytes} {_io : CmdIo} (hk : Keeps z s)  :
    AnsKeeps z (tokenChallengeCmd s fn d _io) := by
  unfold tokenChallengeCmd
  repeat' first | (with_reducible first | assumption | rfl | intro _ | apply keeps_onRng | apply keeps_withRandom | apply keeps_id) | split | with_reducible apply ansKeeps_mk | with_reducible apply AnsKeeps.st | with_reducible apply AnsKeeps.after

theorem keeps_debugOpen {z : State} {s : State} {lv : Dbg} (hk : Keeps z s) :
    Keeps z (debugOpen s lv) := by
  unfold debugOpen
  try dsimp only
  repeat' first | (with_reducible first | assumption | rfl | intro _ | apply keeps_blkVlt | apply keeps_blkMode | apply keeps_blkUpd | apply keeps_setDb | apply keeps_deriveAll | apply keeps_ite) | split

theorem keeps_tokenApplyCmd {z : State} {s : State} {_fn : Nat} {d : Bytes} {io : CmdIo} (hk : Keeps z s) :
    AnsKeeps z (tokenApplyCmd s _fn d io) := by
  unfold tokenApplyCmd
  try dsimp only
  repeat' first | (with_reducible first | assumption | rfl | intro _ | apply keeps_withToken | apply keeps_toMode | apply keeps_debugOpen | apply keeps_debugAnnounce | apply keeps_Ans.bad | apply keeps_ite | apply ansKeeps_ite | apply keeps_id) | split | with_reducible apply ansKeeps_mk | with_reducible apply AnsKeeps.st | with_reducible apply AnsKeeps.after

theorem keeps_factoryFuseCmd {z : State} {s : State} {_fn : Nat} {d : Bytes} {io : CmdIo} (hk : Keeps z s) :
    AnsKeeps z (factoryFuseCmd s _fn d io) := by
  unfold factoryFuseCmd
  try dsimp only
  repeat' first | (with_reducible first | assumption | rfl | intro _ | apply keeps_withToken | apply keeps_blowOr | apply keeps_Ans.bad | apply keeps_Ans.denied | apply keeps_Ans.aborted | apply keeps_ite | apply ansKeeps_ite | apply keeps_id) | split | with_reducible apply ansKeeps_mk | with_reducible apply AnsKeeps.st | with_reducible apply AnsKeeps.after

theorem keeps_fuseProgramCmd {z : State} {s : State} {_fn : Nat} {d : Bytes} {io : CmdIo} (hk : Keeps z s) :
    AnsKeeps z (fuseProgramCmd s _fn d io) := by
  unfold fuseProgramCmd
  try dsimp only
  repeat' first | (with_reducible first | assumption | rfl | intro _ | apply keeps_blowOr | apply keeps_withToken | apply keeps_withLatch | apply keeps_blowReady | apply keeps_latchConsume | apply keeps_Ans.bad | apply keeps_Ans.denied | apply keeps_Ans.aborted | apply keeps_ite | apply ansKeeps_ite | apply keeps_id) | split | with_reducible apply ansKeeps_mk | with_reducible apply AnsKeeps.st | with_reducible apply AnsKeeps.after

theorem keeps_execFuseProgram {z : State} {fn r : Nat} {io : CmdIo} {s : State} (hk : Keeps z s)  :
    OutKeeps z (execFuseProgram fn r io s) := by
  unfold execFuseProgram
  repeat' first | (with_reducible first | assumption | rfl | intro _ | apply keeps_fuseProgramCmd | apply keeps_serveCmd | apply outKeeps_next) | split

theorem keeps_execStageBegin {z : State} {fn r : Nat} {io : CmdIo} {s : State} (hk : Keeps z s)  :
    OutKeeps z (execStageBegin fn r io s) := by
  unfold execStageBegin
  repeat' first | (with_reducible first | assumption | rfl | intro _ | apply keeps_serveCmd | apply keeps_stageBeginCmd | apply outKeeps_next) | split

theorem keeps_execStageData {z : State} {fn r : Nat} {io : CmdIo} {s : State} (hk : Keeps z s)  :
    OutKeeps z (execStageData fn r io s) := by
  unfold execStageData
  repeat' first | (with_reducible first | assumption | rfl | intro _ | apply keeps_stageDataCmd | apply keeps_serveCmd | apply outKeeps_next) | split

theorem keeps_execStageVerify {z : State} {fn r : Nat} {io : CmdIo} {s : State} (hk : Keeps z s)  :
    OutKeeps z (execStageVerify fn r io s) := by
  unfold execStageVerify
  repeat' first | (with_reducible first | assumption | rfl | intro _ | apply keeps_stageVerifyCmd | apply keeps_serveCmd | apply outKeeps_next) | split

theorem keeps_execActivate {z : State} {fn r : Nat} {io : CmdIo} {s : State} (hk : Keeps z s)  :
    OutKeeps z (execActivate fn r io s) := by
  unfold execActivate
  repeat' first | (with_reducible first | assumption | rfl | intro _ | apply keeps_activateCmd | apply keeps_serveCmd | apply outKeeps_next) | split

theorem keeps_execActivateCancel {z : State} {fn r : Nat} {io : CmdIo} {s : State} (hk : Keeps z s)  :
    OutKeeps z (execActivateCancel fn r io s) := by
  unfold execActivateCancel
  repeat' first | (with_reducible first | assumption | rfl | intro _ | apply keeps_serveCmd | apply keeps_activateCancelCmd | apply outKeeps_next) | split

theorem keeps_execImageInfo {z : State} {fn r : Nat} {io : CmdIo} {s : State} (hk : Keeps z s)  :
    OutKeeps z (execImageInfo fn r io s) := by
  unfold execImageInfo
  repeat' first | (with_reducible first | assumption | rfl | intro _ | apply keeps_imageInfoCmd | apply keeps_serveCmd | apply outKeeps_next) | split

theorem keeps_execConfigWrite {z : State} {fn r : Nat} {io : CmdIo} {s : State} (hk : Keeps z s)  :
    OutKeeps z (execConfigWrite fn r io s) := by
  unfold execConfigWrite
  repeat' first | (with_reducible first | assumption | rfl | intro _ | apply keeps_serveCmd | apply keeps_configWriteCmd | apply outKeeps_next) | split

theorem keeps_execProvision {z : State} {fn r : Nat} {io : CmdIo} {s : State} (hk : Keeps z s)  :
    OutKeeps z (execProvision fn r io s) := by
  unfold execProvision
  repeat' first | (with_reducible first | assumption | rfl | intro _ | apply keeps_serveCmd | apply keeps_provisionCmd | apply outKeeps_next) | split

theorem keeps_execTokenChallenge {z : State} {fn r : Nat} {io : CmdIo} {s : State} (hk : Keeps z s)  :
    OutKeeps z (execTokenChallenge fn r io s) := by
  unfold execTokenChallenge
  repeat' first | (with_reducible first | assumption | rfl | intro _ | apply keeps_tokenChallengeCmd | apply keeps_serveCmd | apply outKeeps_next) | split

theorem keeps_execTokenApply {z : State} {fn r : Nat} {io : CmdIo} {s : State} (hk : Keeps z s)  :
    OutKeeps z (execTokenApply fn r io s) := by
  unfold execTokenApply
  repeat' first | (with_reducible first | assumption | rfl | intro _ | apply keeps_tokenApplyCmd | apply keeps_serveCmd | apply outKeeps_next) | split

theorem keeps_execFactoryFuse {z : State} {fn r : Nat} {io : CmdIo} {s : State} (hk : Keeps z s)  :
    OutKeeps z (execFactoryFuse fn r io s) := by
  unfold execFactoryFuse
  repeat' first | (with_reducible first | assumption | rfl | intro _ | apply keeps_serveCmd | apply keeps_factoryFuseCmd | apply outKeeps_next) | split

/-! ### Machine/RegRead.lean -/

theorem keeps_regReadEffect {z : State} {s : State} {a : Nat} (hk : Keeps z s)  :
    Keeps z (regReadEffect s a) := by
  unfold regReadEffect
  dsimp only
  repeat' first | (with_reducible first | assumption | rfl | intro _ | apply keeps_blkSpi1 | apply keeps_blkGlb | apply keeps_onRng | apply keeps_ite) | split

/-! ### Machine/Recorder.lean -/

theorem keeps_sendMsix {z : State} {s : State} {fn vec : Nat} (hk : Keeps z s)  :
    Keeps z (sendMsix s fn vec) := by
  unfold sendMsix
  dsimp only
  repeat' first | (with_reducible first | assumption | rfl | intro _ | apply keeps_setFn | apply keeps_emitOut | apply keeps_ite) | split

theorem keeps_routeEvent {z : State} {s : State} {e : Event} (hk : Keeps z s)  :
    Keeps z (routeEvent s e) := by
  unfold routeEvent
  dsimp only
  repeat' first | (with_reducible first | assumption | rfl | intro _ | apply keeps_irq | apply keeps_sendMsix | apply keeps_writeDiag | apply keeps_writeSec | apply keeps_ite) | split

theorem keeps_refillQueue {z : State} {s : State} (hk : Keeps z s)  :
    Keeps z (refillQueue s) := by
  unfold refillQueue
  repeat' first | (with_reducible first | assumption | rfl | intro _ | apply keeps_blkGlb | apply keeps_foldl | apply keeps_ite) | split

theorem keeps_execEventAccept {z : State} {s : State} (hk : Keeps z s)  :
    OutKeeps z (execEventAccept s) := by
  unfold execEventAccept
  dsimp only
  repeat' first | (with_reducible first | assumption | rfl | intro _ | apply keeps_blkGlb | apply keeps_routeEvent | apply keeps_refillQueue | apply keeps_ite | apply outKeeps_ite | apply outKeeps_next) | split

/-! ### Machine/Kindle.lean -/

theorem keeps_kindleK1 {z : State} {s : State} (hk : Keeps z s)  :
    Keeps z (kindleK1 s) := by
  unfold kindleK1
  dsimp only
  repeat' first | (with_reducible first | assumption | rfl | intro _ | apply keeps_setMpuUnit | apply keeps_onRng | apply keeps_onClk | apply keeps_emitOut | apply keeps_foldl) | split

theorem keeps_kindleK2 {z : State} {s : State} (hk : Keeps z s) :
    Keeps z (kindleK2 s) := by
  unfold kindleK2
  try dsimp only
  repeat' first | (with_reducible first | assumption | rfl | intro _ | apply keeps_cfgK3 | apply keeps_fuseKindle | apply keeps_onClk | apply keeps_armedAct | apply keeps_disarm | apply keeps_ite) | split

theorem keeps_noteFail {z : State} {s : State} {c : Nat} (hk : Keeps z s)  :
    Keeps z (noteFail s c) := by
  unfold noteFail
  repeat' first | (with_reducible first | assumption | rfl | intro _ | apply keeps_blkMode | apply keeps_ite) | split

theorem keeps_kindleK5 {z : State} {s : State} {fail : List Nat} (hk : Keeps z s)  :
    Keeps z (kindleK5 s fail) := by
  unfold kindleK5
  dsimp only
  repeat' first | (with_reducible first | assumption | rfl | intro _ | apply keeps_blkMode | apply keeps_noteFail | apply keeps_logOther | apply keeps_foldl) | split

theorem keeps_kindleK6 {z : State} {s : State} (hk : Keeps z s)  :
    Keeps z (kindleK6 s) := by
  unfold kindleK6
  repeat' first | (with_reducible first | assumption | rfl | intro _ | apply keeps_onClk) | split

theorem keeps_kindleK7 {z : State} {s : State} (hk : Keeps z s)  :
    Keeps z (kindleK7 s) := by
  unfold kindleK7
  dsimp only
  repeat' first | (with_reducible first | assumption | rfl | intro _ | apply keeps_noteFail | apply keeps_cfgK7 | apply keeps_ite) | split

theorem keeps_kindleK8 {z : State} {bad : List Nat} {s : State} (hk : Keeps z s) :
    Keeps z (kindleK8 bad s) := by
  unfold kindleK8
  try dsimp only
  repeat' first | (with_reducible first | assumption | rfl | intro _ | apply keeps_blkMode | apply keeps_blkVlt | apply keeps_logOtherS | apply keeps_onVoe | apply keeps_snuffTrig | apply keeps_vaultKindle | apply keeps_deriveAll | apply keeps_ite) | split

theorem keeps_kindleK9to11 {z : State} {s : State} (hk : Keeps z s) :
    Keeps z (kindleK9to11 s) := by
  unfold kindleK9to11
  try dsimp only
  repeat' first | (with_reducible first | assumption | rfl | intro _ | apply keeps_blkTmp | apply keeps_kindleK9 | apply keeps_noteFail | apply keeps_dbRecover | apply keeps_setCore | apply keeps_foldl | apply keeps_ite) | split

theorem keeps_kindleRun {z : State} {s : State} (hk : Keeps z s)  :
    Keeps z (kindleRun s) := by
  unfold kindleRun
  dsimp only
  repeat' first | (with_reducible first | assumption | rfl | intro _ | apply keeps_blkMode | apply keeps_bcnStart | apply keeps_refuseWrite | apply keeps_ite) | split

theorem keeps_vppEntry {z : State} {s : State} (hk : Keeps z s)  :
    Keeps z (vppEntry s) := by
  unfold vppEntry
  repeat' first | (with_reducible first | assumption | rfl | intro _ | apply keeps_logOther | apply keeps_ite) | split

theorem keeps_kindleSupply {z : State} {e : KindleEnv} {s : State} (hk : Keeps z s) :
    Keeps z (kindleSupply e s) := by
  unfold kindleSupply
  try dsimp only
  repeat' first | (with_reducible first | assumption | rfl | intro _ | apply keeps_blkMode | apply keeps_vppEntry | apply keeps_alarmClear | apply keeps_ite) | split

theorem keeps_kindleSteps {z : State} {e : KindleEnv} {s : State} (hk : Keeps z s) :
    Keeps z (kindleSteps e s) := by
  unfold kindleSteps
  try dsimp only
  repeat' first | (with_reducible first | assumption | rfl | intro _ | apply keeps_blkMode | apply keeps_kindleSupply | apply keeps_noteFail | apply keeps_onFus | apply keeps_kindleK5 | apply keeps_kindleK2 | apply keeps_kindleK1 | apply keeps_kindleK9to11 | apply keeps_kindleK8 | apply keeps_kindleK7 | apply keeps_kindleK6 | apply keeps_ite) | split

theorem keeps_execKindle {z : State} {e : KindleEnv} {s : State} (hk : Keeps z s) :
    OutKeeps z (execKindle e s) := by
  unfold execKindle
  try dsimp only
  repeat' first | (with_reducible first | assumption | rfl | intro _ | apply keeps_kindleSteps | apply keeps_kindleRun | apply keeps_ite | apply outKeeps_ite | apply outKeeps_next) | split

theorem keeps_execVsnuffWaitExpiry {z : State} {s : State} (hk : Keeps z s)  :
    OutKeeps z (execVsnuffWaitExpiry s) := by
  unfold execVsnuffWaitExpiry
  repeat' first | (with_reducible first | assumption | rfl | intro _ | apply keeps_alarmSet | apply keeps_noteFail | apply keeps_kindleRun | apply keeps_logOtherS | apply keeps_ite | apply outKeeps_ite | apply outKeeps_next) | split

theorem keeps_execVsnuffOk {z : State} {s : State} (hk : Keeps z s)  :
    OutKeeps z (execVsnuffOk s) := by
  unfold execVsnuffOk
  dsimp only
  repeat' first | (with_reducible first | assumption | rfl | intro _ | apply keeps_blkMode | apply keeps_kindleRun | apply keeps_alarmClear | apply keeps_ite | apply outKeeps_ite | apply outKeeps_next) | split

theorem keeps_retiredDebug {z : State} {s : State} (hk : Keeps z s)  :
    Keeps z (retiredDebug s) := by
  unfold retiredDebug
  repeat' first | (with_reducible first | assumption | rfl | intro _ | apply keeps_blkMode | apply keeps_toMode) | split

theorem keeps_enterRecovery {z : State} {s : State} (hk : Keeps z s)  :
    Keeps z (enterRecovery s) := by
  unfold enterRecovery
  repeat' first | (with_reducible first | assumption | rfl | intro _ | apply keeps_toMode | apply keeps_ite) | split

theorem keeps_kindleDest {z : State} {s : State} (hk : Keeps z s)  :
    Keeps z (kindleDest s) := by
  unfold kindleDest
  repeat' first | (with_reducible first | assumption | rfl | intro _ | apply keeps_retiredDebug | apply keeps_enterRecovery | apply keeps_toMode | apply keeps_ite) | split

theorem keeps_execKindleEnd {z : State} {s : State} (hk : Keeps z s)  :
    OutKeeps z (execKindleEnd s) := by
  unfold execKindleEnd
  repeat' first | (with_reducible first | assumption | rfl | intro _ | apply keeps_blkMode | apply keeps_kindleDest | apply keeps_ite | apply outKeeps_ite | apply outKeeps_next) | split

/-! ### Machine/Tick.lean -/

theorem keeps_beaconDone {z : State} {refused : Bool} {s : State} {w : Wait} (hk : Keeps z s)  :
    Keeps z (beaconDone refused s w) := by
  unfold beaconDone
  dsimp only
  repeat' first | (with_reducible first | assumption | rfl | intro _ | apply keeps_endWait | apply keeps_ite) | split

theorem keeps_edgeGroups {z : State} {s : State} (hk : Keeps z s)  :
    Keeps z (edgeGroups s) := by
  unfold edgeGroups
  dsimp only
  repeat' first | (with_reducible first | assumption | rfl | intro _ | apply keeps_applyGroups | apply keeps_applyShadows | apply keeps_beaconDone | apply keeps_foldl) | split

theorem keeps_liveDone {z : State} {s : State} {w : Wait} (hk : Keeps z s)  :
    Keeps z (liveDone s w) := by
  unfold liveDone
  dsimp only
  repeat' first | (with_reducible first | assumption | rfl | intro _ | apply keeps_endWait | apply keeps_ite) | split

theorem keeps_edgeKeys {z : State} {s : State} (hk : Keeps z s)  :
    Keeps z (edgeKeys s) := by
  unfold edgeKeys
  dsimp only
  repeat' first | (with_reducible first | assumption | rfl | intro _ | apply keeps_liveDone | apply keeps_keySwitch | apply keeps_applyUnpins | apply keeps_foldl) | split

theorem keeps_ringEdge {z : State} {s : State} {k : Nat} (hk : Keeps z s) :
    Keeps z (ringEdge s k) := by
  unfold ringEdge
  try dsimp only
  repeat' first | (with_reducible first | assumption | rfl | intro _ | apply keeps_flushReorder | apply keeps_emitOut | apply keeps_irq | apply keeps_setRing | apply keeps_ite) | split

theorem keeps_recorderEdge {z : State} {s : State} (hk : Keeps z s)  :
    Keeps z (recorderEdge s) := by
  unfold recorderEdge
  dsimp only
  repeat' first | (with_reducible first | assumption | rfl | intro _ | apply keeps_blkEvr | apply keeps_irq | apply keeps_ite) | split

theorem keeps_coreEdge {z : State} {s : State} {c : Nat} (hk : Keeps z s)  :
    Keeps z (coreEdge s c) := by
  unfold coreEdge
  dsimp only
  repeat' first | (with_reducible first | assumption | rfl | intro _ | apply keeps_setCore) | split

theorem keeps_peerEdge {z : State} {s : State} {k : Nat} (hk : Keeps z s) :
    Keeps z (peerEdge s k) := by
  unfold peerEdge
  try dsimp only
  repeat' first | (with_reducible first | assumption | rfl | intro _ | apply keeps_setPeer | apply keeps_sendHello | apply keeps_sendAck | apply keeps_ite) | split

theorem keeps_voeEdge {z : State} {s : State} (hk : Keeps z s) :
    Keeps z (voeEdge s) := by
  unfold voeEdge
  try dsimp only
  repeat' first | (with_reducible first | assumption | rfl | intro _ | apply keeps_onVoe | apply keeps_onCus | apply keeps_peerEdge | apply keeps_canIrq | apply keeps_canFlush | apply keeps_foldl | apply keeps_ite) | split

theorem keeps_meshSeed {z : State} {s : State} (hk : Keeps z s) :
    Keeps z (meshSeed s) := by
  unfold meshSeed
  try dsimp only
  repeat' first | (with_reducible first | assumption | rfl | intro _ | apply keeps_blkTmp | apply keeps_ite) | (refine keeps_rngInternal ?_ (by with_reducible assumption)) | split

theorem keeps_timerEdge {z : State} {s : State} (hk : Keeps z s) :
    Keeps z (timerEdge s) := by
  unfold timerEdge
  try dsimp only
  repeat' first | (with_reducible first | assumption | rfl | intro _ | apply keeps_onRng | apply keeps_rereadEdge | apply keeps_onFus | apply keeps_ite) | split

theorem keeps_dimEnter {z : State} {s : State} (hk : Keeps z s) :
    Keeps z (dimEnter s) := by
  unfold dimEnter
  try dsimp only
  repeat' first | (with_reducible first | assumption | rfl | intro _ | apply keeps_blkMode | apply keeps_onCan | apply keeps_onRng | apply keeps_onClk | apply keeps_endWaits | apply keeps_toMode | apply keeps_ite) | split

theorem keeps_dimEdge {z : State} {s : State} (hk : Keeps z s)  :
    Keeps z (dimEdge s) := by
  unfold dimEdge
  repeat' first | (with_reducible first | assumption | rfl | intro _ | apply keeps_blkMode | apply keeps_dimEnter | apply keeps_ite) | split

theorem keeps_edgeTime {z : State} {s : State} (hk : Keeps z s)  :
    Keeps z (edgeTime s) := by
  unfold edgeTime
  repeat' first | (with_reducible first | assumption | rfl | intro _ | apply keeps_blkGlb) | split

theorem keeps_edgeClk {z : State} {s : State} {e : TickEnv} (hk : Keeps z s) :
    Keeps z (edgeClk s e) := by
  unfold edgeClk
  repeat' first | (with_reducible first | assumption | rfl | intro _ | apply keeps_blkMode | apply keeps_holdAttempts | apply keeps_trimStep | apply keeps_tempStep | apply keeps_ite) | split

theorem keeps_edgeAdmit {z : State} {s : State} (hk : Keeps z s)  :
    Keeps z (edgeAdmit s) := by
  unfold edgeAdmit
  dsimp only
  repeat' first | (with_reducible first | assumption | rfl | intro _ | apply keeps_blkMode | apply keeps_refill | apply keeps_admitCarried) | split

theorem keeps_edgeRaise {z : State} {s : State} (hk : Keeps z s)  :
    Keeps z (edgeRaise s) := by
  unfold edgeRaise
  repeat' first | (with_reducible first | assumption | rfl | intro _ | apply keeps_blkUpd | apply keeps_rbcRaise | apply keeps_ite) | split

theorem keeps_edgeRest {z : State} {s : State} (hk : Keeps z s) :
    Keeps z (edgeRest s) := by
  unfold edgeRest
  try dsimp only
  repeat' first | (with_reducible first | assumption | rfl | intro _ | apply keeps_pkeZero | apply keeps_ringEdge | apply keeps_coreEdge | apply keeps_recorderEdge | apply keeps_timerEdge | apply keeps_voeEdge | apply keeps_meshSeed | apply keeps_edgeRaise | apply keeps_foldl | apply keeps_ite) | split

theorem keeps_execTickEdge {z : State} {e : TickEnv} {s : State} (hk : Keeps z s) :
    OutKeeps z (execTickEdge e s) := by
  unfold execTickEdge
  repeat' first | (with_reducible first | assumption | rfl | intro _ | apply keeps_dimEdge | apply keeps_edgeRest | apply keeps_edgeAdmit | apply keeps_ownerEdge | apply keeps_edgeKeys | apply keeps_edgeGroups | apply keeps_edgeClk | apply keeps_edgeTime | apply keeps_ite | apply outKeeps_ite | apply outKeeps_next) | split

/-! ### Machine/Modes.lean -/

theorem keeps_handoverIn {z : State} {s : State} {c : Nat} (hk : Keeps z s)  :
    Keeps z (handoverIn s c) := by
  unfold handoverIn
  dsimp only
  repeat' first | (with_reducible first | assumption | rfl | intro _ | apply keeps_onCore | apply keeps_enclExit | apply keeps_ite) | split

theorem keeps_pauseStart {z : State} {s : State} (hk : Keeps z s)  :
    Keeps z (pauseStart s) := by
  unfold pauseStart
  dsimp only
  repeat' first | (with_reducible first | assumption | rfl | intro _ | apply keeps_blkUpd | apply keeps_handoverIn | apply keeps_abortCommands | apply keeps_abortEngines) | split

theorem keeps_pauseSwitch {z : State} {s : State} {kind : Nat} {i : Img} (hk : Keeps z s)  :
    Keeps z (pauseSwitch s kind i) := by
  unfold pauseSwitch
  dsimp only
  repeat' first | (with_reducible first | assumption | rfl | intro _ | apply keeps_blkUpd | apply keeps_recWrite | apply keeps_sramWrite | apply keeps_ite) | split

theorem keeps_startSf {z : State} {s : State} {i : Img} (hk : Keeps z s)  :
    Keeps z (startSf s i) := by
  unfold startSf
  dsimp only
  repeat' first | (with_reducible first | assumption | rfl | intro _ | apply keeps_onCore | apply keeps_custCancelAll | apply keeps_foldl) | split

theorem keeps_startPr {z : State} {s : State} {i : Img} (hk : Keeps z s)  :
    Keeps z (startPr s i) := by
  unfold startPr
  dsimp only
  repeat' first | (with_reducible first | assumption | rfl | intro _ | apply keeps_pctxPut | apply keeps_onCore | apply keeps_partDown | apply keeps_foldl) | split

theorem keeps_activationRun {z : State} {s : State} {kind : Nat} (hk : Keeps z s)  :
    Keeps z (activationRun s kind) := by
  unfold activationRun
  dsimp only
  repeat' first | (with_reducible first | assumption | rfl | intro _ | apply keeps_pauseSwitch | apply keeps_startPr | apply keeps_startSf | apply keeps_pauseStart | apply keeps_ite) | split

theorem keeps_execAnnounceWindowStart {z : State} {s : State} (hk : Keeps z s)  :
    OutKeeps z (execAnnounceWindowStart s) := by
  unfold execAnnounceWindowStart
  dsimp only
  repeat' first | (with_reducible first | assumption | rfl | intro _ | apply keeps_blkMode | apply keeps_logMode | apply keeps_activationRun | apply keeps_ite | apply outKeeps_ite | apply outKeeps_next) | split

theorem keeps_handoverOut {z : State} {s : State} {c : Nat} (hk : Keeps z s)  :
    Keeps z (handoverOut s c) := by
  unfold handoverOut
  repeat' first | (with_reducible first | assumption | rfl | intro _ | apply keeps_onCore | apply keeps_ite) | split

theorem keeps_execImageReady {z : State} {s : State} (hk : Keeps z s)  :
    OutKeeps z (execImageReady s) := by
  unfold execImageReady
  repeat' first | (with_reducible first | assumption | rfl | intro _ | apply keeps_blkUpd | apply keeps_handoverOut | apply keeps_ite | apply outKeeps_ite | apply outKeeps_next) | split

theorem keeps_execActivationConfirm {z : State} {s : State} (hk : Keeps z s)  :
    OutKeeps z (execActivationConfirm s) := by
  unfold execActivationConfirm
  dsimp only
  repeat' first | (with_reducible first | assumption | rfl | intro _ | apply keeps_blkUpd | apply keeps_rbcRaise | apply keeps_recWrite | apply keeps_ite | apply outKeeps_ite | apply outKeeps_next) | split

theorem keeps_execDimEntryCancel {z : State} {s : State} (hk : Keeps z s)  :
    OutKeeps z (execDimEntryCancel s) := by
  unfold execDimEntryCancel
  repeat' first | (with_reducible first | assumption | rfl | intro _ | apply keeps_dimCancel | apply keeps_ite | apply outKeeps_ite | apply outKeeps_next) | split

theorem keeps_execWake {z : State} {s : State} (hk : Keeps z s)  :
    OutKeeps z (execWake s) := by
  unfold execWake
  repeat' first | (with_reducible first | assumption | rfl | intro _ | apply keeps_wakeTrigger | apply keeps_ite | apply outKeeps_ite | apply outKeeps_next) | split

theorem keeps_enginesFail {z : State} {s : State} {l : List Nat} (hk : Keeps z s)  :
    Keeps z (enginesFail s l) := by
  unfold enginesFail
  dsimp only
  repeat' first | (with_reducible first | assumption | rfl | intro _ | apply keeps_blkMode | apply keeps_alarmSet | apply keeps_logOther | apply keeps_foldl | apply keeps_ite) | split

theorem keeps_execDimWakeComplete {z : State} {fail : List Nat} {s : State} (hk : Keeps z s) :
    OutKeeps z (execDimWakeComplete fail s) := by
  unfold execDimWakeComplete
  try dsimp only
  repeat' first | (with_reducible first | assumption | rfl | intro _ | apply keeps_blkMode | apply keeps_onClk | apply keeps_enginesFail | apply keeps_admitCarried | apply keeps_toMode | apply keeps_ite | apply outKeeps_ite | apply outKeeps_next) | split

theorem keeps_activationDrop {z : State} {s : State} (hk : Keeps z s)  :
    Keeps z (activationDrop s) := by
  unfold activationDrop
  repeat' first | (with_reducible first | assumption | rfl | intro _ | apply keeps_blkUpd) | split

theorem keeps_debugRun {z : State} {s : State} {lv : Dbg} (hk : Keeps z s) :
    Keeps z (debugRun s lv) := by
  unfold debugRun
  try dsimp only
  repeat' first | (with_reducible first | assumption | rfl | intro _ | apply keeps_blkMode | apply keeps_abortCommands | apply keeps_abortEngines | apply keeps_onRng | apply keeps_custCancelAll | apply keeps_activationDrop | apply keeps_debugOpen | apply keeps_logMode | apply keeps_toMode | apply keeps_ite) | split

theorem keeps_execDebugSwitch {z : State} {s : State} (hk : Keeps z s) :
    OutKeeps z (execDebugSwitch s) := by
  unfold execDebugSwitch
  repeat' first | (with_reducible first | assumption | rfl | intro _ | apply keeps_debugRun | apply keeps_ite | apply outKeeps_ite | apply outKeeps_next) | split

end Sys2Proof.Machine
end

