-- ==== Sys2Proof/Laws/KeepsAccess.lean ====
section
/-! SUPPORT. Keeps for register writes, bus accesses and the administration commands. -/
namespace Sys2Proof.Machine

/-! ### Machine/RegWrite.lean -/

theorem keeps_halted {z : State} {stopped : Bool} {s : State} (hk : Keeps z s)  :
    WrKeeps z (halted stopped s) := by
  unfold halted
  repeat' first | (with_reducible first | assumption | rfl | intro _ | apply keeps_ite | apply wrKeeps_ite | apply wrKeeps_ok | apply wrKeeps_bad) | split

theorem keeps_unlocked {z : State} {isOpen : Bool} {s : State} (hk : Keeps z s)  :
    WrKeeps z (unlocked isOpen s) := by
  unfold unlocked
  repeat' first | (with_reducible first | assumption | rfl | intro _ | apply keeps_ite | apply wrKeeps_ite | apply wrKeeps_ok | apply wrKeeps_bad) | split

theorem keeps_after {z s : State} {o : Host.Outcome State Fault Refusal} (ho : OutKeeps z o) (h : Keeps z s) :
    Keeps z (after o s) := by
  unfold after
  split
  · exact ho.next _ rfl
  · exact h

theorem keeps_wrBcnCfg {z : State} {s : State} {v : Word} (hk : Keeps z s)  :
    WrKeeps z (wrBcnCfg s v) := by
  unfold wrBcnCfg
  dsimp only
  repeat' first | (with_reducible first | assumption | rfl | intro _ | apply keeps_blkGlb | apply keeps_ite | apply wrKeeps_ite | apply wrKeeps_ok | apply wrKeeps_bad) | split

theorem keeps_shadowNow {z s : State} (h : Keeps z s) : Keeps z (shadowNow s) := by
  unfold shadowNow
  dsimp only
  have hc := caps_clamped s.glb.capsSh
  split
  · exact h
  · split
    · rename_i hb
      exact keeps_blkGroups (keeps_blkGroups h (.inr hc) (.inl rfl)) (.inl rfl) (.inr hb)
    · exact keeps_blkGroups h (.inr hc) (.inl rfl)

theorem keeps_wrCommit {z : State} {s : State} {v : Word} (hk : Keeps z s)  :
    Keeps z (wrCommit s v) := by
  unfold wrCommit
  dsimp only
  repeat' first | (with_reducible first | assumption | rfl | intro _ | apply keeps_execBudgetCommit | apply keeps_after | apply keeps_execTripcapCommit | apply keeps_ite) | split

theorem keeps_wrCap {z : State} {s : State} {k : Nat} {v : Word} (hk : Keeps z s)  :
    Keeps z (wrCap s k v) := by
  unfold wrCap
  dsimp only
  repeat' first | (with_reducible first | assumption | rfl | intro _ | apply keeps_blkGlb | apply keeps_shadowNow) | split

theorem keeps_wrGlb {z : State} {s : State} {o : Nat} {v : Word} (hk : Keeps z s) :
    WrKeeps z (wrGlb s o v) := by
  unfold wrGlb
  repeat' first | (with_reducible first | assumption | rfl | intro _ | apply keeps_blkGlb | apply keeps_halted | apply keeps_bcnStart | apply keeps_wrBcnCfg | apply keeps_wrCap | apply keeps_shadowNow | apply keeps_wrCommit | apply keeps_tripLat | apply keeps_Ans.bad | apply keeps_ite | apply wrKeeps_ite | apply wrKeeps_ok | apply wrKeeps_bad | apply keeps_id) | split | with_reducible apply ansKeeps_mk | with_reducible apply AnsKeeps.st | with_reducible apply AnsKeeps.after

theorem keeps_wrWdt {z : State} {s : State} {v : Word} (hk : Keeps z s)  :
    WrKeeps z (wrWdt s v) := by
  unfold wrWdt
  repeat' first | (with_reducible first | assumption | rfl | intro _ | apply keeps_blkMode | apply keeps_unlocked | apply wrKeeps_ok | apply wrKeeps_bad) | split

theorem keeps_wrMode {z : State} {s : State} {o : Nat} {v : Word} (hk : Keeps z s)  :
    WrKeeps z (wrMode s o v) := by
  unfold wrMode
  dsimp only
  repeat' first | (with_reducible first | assumption | rfl | intro _ | apply keeps_blkMode | apply keeps_wakeTrigger | apply keeps_execModeWdtKick | apply keeps_wrWdt | apply keeps_after | apply keeps_rstCtlWrite | apply keeps_ite | apply wrKeeps_ite | apply wrKeeps_ok | apply wrKeeps_bad) | split

theorem keeps_wrGate {z : State} {s : State} {v : Word} (hk : Keeps z s)  :
    WrKeeps z (wrGate s v) := by
  unfold wrGate
  dsimp only
  repeat' first | (with_reducible first | assumption | rfl | intro _ | apply keeps_onClk | apply keeps_halted | apply wrKeeps_ok | apply wrKeeps_bad) | split

theorem keeps_wrRelock {z : State} {s : State} {v : Word} (hk : Keeps z s)  :
    WrKeeps z (wrRelock s v) := by
  unfold wrRelock
  dsimp only
  repeat' first | (with_reducible first | assumption | rfl | intro _ | apply keeps_relockAccept | apply keeps_ite | apply wrKeeps_ite | apply wrKeeps_ok | apply wrKeeps_bad) | split

theorem keeps_wrHoldCtl {z : State} {s : State} {v : Word} (hk : Keeps z s)  :
    Keeps z (wrHoldCtl s v) := by
  unfold wrHoldCtl
  repeat' first | (with_reducible first | assumption | rfl | intro _ | apply keeps_onClk) | split

theorem keeps_wrTrim {z : State} {s : State} {v : Word} (hk : Keeps z s)  :
    Keeps z (wrTrim s v) := by
  unfold wrTrim
  dsimp only
  repeat' first | (with_reducible first | assumption | rfl | intro _ | apply keeps_onClk | apply keeps_ite) | split

theorem keeps_wrClk {z : State} {s : State} {o : Nat} {v : Word} (hk : Keeps z s)  :
    WrKeeps z (wrClk s o v) := by
  unfold wrClk
  repeat' first | (with_reducible first | assumption | rfl | intro _ | apply keeps_wrRelock | apply keeps_onClk | apply keeps_wrGate | apply keeps_wrHoldCtl | apply keeps_wrTrim | apply wrKeeps_ok | apply wrKeeps_bad) | split

theorem keeps_wrFus {z : State} {s : State} {o : Nat} {v : Word} (hk : Keeps z s)  :
    WrKeeps z (wrFus s o v) := by
  unfold wrFus
  repeat' first | (with_reducible first | assumption | rfl | intro _ | apply keeps_halted | apply keeps_onFus | apply keeps_execFusRereadNow | apply keeps_after | apply keeps_execFusePgmGo | apply keeps_ite | apply wrKeeps_ite | apply wrKeeps_ok | apply wrKeeps_bad) | split

theorem keeps_wrCfg {z : State} {s : State} {o : Nat} {v : Word} (hk : Keeps z s)  :
    WrKeeps z (wrCfg s o v) := by
  unfold wrCfg
  repeat' first | (with_reducible first | assumption | rfl | intro _ | apply keeps_blkCfg | apply wrKeeps_ok | apply wrKeeps_bad) | split

theorem keeps_wrMpu {z : State} {s : State} {o : Nat} {v : Word} (hk : Keeps z s) :
    WrKeeps z (wrMpu s o v) := by
  unfold wrMpu
  try dsimp only
  repeat' first | (with_reducible first | assumption | rfl | intro _ | apply keeps_setMpuUnit | apply keeps_halted | apply keeps_ite | apply wrKeeps_ite | apply wrKeeps_ok | apply wrKeeps_bad) | split

theorem keeps_holdWrite {z : State} {s : State} {v : Word} (hk : Keeps z s)  :
    Keeps z (holdWrite s v) := by
  unfold holdWrite
  dsimp only
  repeat' first | (with_reducible first | assumption | rfl | intro _ | apply keeps_blkFwl | apply keeps_foldl | apply keeps_ite) | split

theorem keeps_wrRule {z : State} {s : State} {o : Nat} {v : Word} (hk : Keeps z s)  :
    WrKeeps z (wrRule s o v) := by
  unfold wrRule
  dsimp only
  repeat' first | (with_reducible first | assumption | rfl | intro _ | apply keeps_blkFwl | apply keeps_halted | apply keeps_ite | apply wrKeeps_ite | apply wrKeeps_ok | apply wrKeeps_bad) | split

theorem keeps_wrFwl {z : State} {s : State} {o : Nat} {v : Word} (hk : Keeps z s)  :
    WrKeeps z (wrFwl s o v) := by
  unfold wrFwl
  repeat' first | (with_reducible first | assumption | rfl | intro _ | apply keeps_blkFwl | apply keeps_holdWrite | apply keeps_wrRule | apply keeps_ite | apply wrKeeps_ite | apply wrKeeps_ok | apply wrKeeps_bad) | split

theorem keeps_wrVltStat {z : State} {s : State} {v : Word} (hk : Keeps z s)  :
    Keeps z (wrVltStat s v) := by
  unfold wrVltStat
  dsimp only
  repeat' first | (with_reducible first | assumption | rfl | intro _ | apply keeps_blkVlt | apply keeps_alarmClear | apply keeps_ite) | split

theorem keeps_wrPinCap {z : State} {s : State} {v : Word} (hk : Keeps z s)  :
    Keeps z (wrPinCap s v) := by
  unfold wrPinCap
  dsimp only
  repeat' first | (with_reducible first | assumption | rfl | intro _ | apply keeps_blkVlt | apply keeps_ite) | split

theorem keeps_wrVlt {z : State} {s : State} {o : Nat} {v : Word} (hk : Keeps z s)  :
    WrKeeps z (wrVlt s o v) := by
  unfold wrVlt
  repeat' first | (with_reducible first | assumption | rfl | intro _ | apply keeps_blkVlt | apply keeps_wrPinCap | apply keeps_wrVltStat | apply wrKeeps_ok | apply wrKeeps_bad) | split

theorem keeps_wrCusCtl {z : State} {s : State} {v : Word} (hk : Keeps z s)  :
    Keeps z (wrCusCtl s v) := by
  unfold wrCusCtl
  dsimp only
  repeat' first | (with_reducible first | assumption | rfl | intro _ | apply keeps_after | apply keeps_execCustCommit | apply keeps_execCustVerify | apply keeps_execCustCancel | apply keeps_ite) | split

theorem keeps_wrCus {z : State} {s : State} {o : Nat} {v : Word} (hk : Keeps z s) :
    WrKeeps z (wrCus s o v) := by
  unfold wrCus
  try dsimp only
  repeat' first | (with_reducible first | assumption | rfl | intro _ | apply keeps_unlocked | apply keeps_onCus | apply keeps_wrCusCtl | apply keeps_ite | apply wrKeeps_ite | apply wrKeeps_ok | apply wrKeeps_bad) | split

theorem keeps_wrTxBuf {z : State} {s : State} {ch o : Nat} {v : Word} (hk : Keeps z s) :
    WrKeeps z (wrTxBuf s ch o v) := by
  unfold wrTxBuf
  try dsimp only
  repeat' first | (with_reducible first | assumption | rfl | intro _ | apply keeps_halted | apply keeps_onCan | apply keeps_ite | apply wrKeeps_ite | apply wrKeeps_ok | apply wrKeeps_bad) | split

theorem keeps_wrCanCtl {z : State} {s : State} {ch : Nat} {v : Word} (hk : Keeps z s)  :
    WrKeeps z (wrCanCtl s ch v) := by
  unfold wrCanCtl
  dsimp only
  repeat' first | (with_reducible first | assumption | rfl | intro _ | apply keeps_execBorReq | apply keeps_execCanMode | apply keeps_after | apply keeps_ite | apply wrKeeps_ite | apply wrKeeps_ok | apply wrKeeps_bad) | split

theorem keeps_wrCan {z : State} {s : State} {ch o : Nat} {v : Word} (hk : Keeps z s) :
    WrKeeps z (wrCan s ch o v) := by
  unfold wrCan
  try dsimp only
  repeat' first | (with_reducible first | assumption | rfl | intro _ | apply keeps_onCan | apply keeps_wrCanCtl | apply keeps_halted | apply keeps_after | apply keeps_execTxreq | apply keeps_execTxabort | apply keeps_execRxpop | apply keeps_wrTxBuf | apply keeps_ite | apply wrKeeps_ite | apply wrKeeps_ok | apply wrKeeps_bad) | split

theorem keeps_wrEng {z : State} {s : State} {o : Nat} {v : Word} (hk : Keeps z s) :
    WrKeeps z (wrEng s o v) := by
  unfold wrEng
  repeat' first | (with_reducible first | assumption | rfl | intro _ | apply keeps_blkEng | apply keeps_engPost | apply keeps_engPop | apply keeps_ite | apply wrKeeps_ite | apply wrKeeps_ok | apply wrKeeps_bad) | split

theorem keeps_wrPke {z : State} {s : State} {o : Nat} {v : Word} (hk : Keeps z s) :
    WrKeeps z (wrPke s o v) := by
  unfold wrPke
  repeat' first | (with_reducible first | assumption | rfl | intro _ | apply keeps_blkPke | apply keeps_pkePost | apply keeps_pkePop | apply keeps_ite | apply wrKeeps_ite | apply wrKeeps_ok | apply wrKeeps_bad) | split

theorem keeps_wrRng {z : State} {s : State} {o : Nat} {v : Word} (hk : Keeps z s)  :
    WrKeeps z (wrRng s o v) := by
  unfold wrRng
  repeat' first | (with_reducible first | assumption | rfl | intro _ | apply keeps_onRng | apply keeps_unlocked | apply keeps_after | apply keeps_execRawCapture | apply wrKeeps_ok | apply wrKeeps_bad) | split

theorem keeps_wrHif {z : State} {s : State} {o : Nat} {v : Word} (hk : Keeps z s) :
    WrKeeps z (wrHif s o v) := by
  unfold wrHif
  try dsimp only
  repeat' first | (with_reducible first | assumption | rfl | intro _ | apply keeps_blkHif | apply keeps_after | apply keeps_execHifStgTake | apply keeps_execHifCplGo | apply keeps_execHifMbxDone | apply keeps_setFn | apply keeps_ite | apply wrKeeps_ite | apply wrKeeps_ok | apply wrKeeps_bad) | split

theorem keeps_wrFlt {z : State} {s : State} {o : Nat} {v : Word} (hk : Keeps z s)  :
    WrKeeps z (wrFlt s o v) := by
  unfold wrFlt
  dsimp only
  repeat' first | (with_reducible first | assumption | rfl | intro _ | apply keeps_blkFlt | apply keeps_execFltEn | apply keeps_halted | apply keeps_after | apply keeps_ite | apply wrKeeps_ite | apply wrKeeps_ok | apply wrKeeps_bad) | split

theorem keeps_wrSpi0 {z : State} {s : State} {o : Nat} {v : Word} (hk : Keeps z s)  :
    WrKeeps z (wrSpi0 s o v) := by
  unfold wrSpi0
  dsimp only
  repeat' first | (with_reducible first | assumption | rfl | intro _ | apply keeps_blkSpi0 | apply keeps_spi0Cut | apply keeps_spi0Go | apply keeps_halted | apply keeps_ite | apply wrKeeps_ite | apply wrKeeps_ok | apply wrKeeps_bad) | split

theorem keeps_wrSpi1 {z : State} {s : State} {o : Nat} {v : Word} (hk : Keeps z s) :
    WrKeeps z (wrSpi1 s o v) := by
  unfold wrSpi1
  try dsimp only
  repeat' first | (with_reducible first | assumption | rfl | intro _ | apply keeps_blkSpi1 | apply keeps_halted | apply keeps_after | apply keeps_execSpi1Tx | apply keeps_spi1Watch | apply keeps_ite | apply wrKeeps_ite | apply wrKeeps_ok | apply wrKeeps_bad) | split

theorem keeps_wrTmp {z : State} {s : State} {o : Nat} {v : Word} (hk : Keeps z s) :
    WrKeeps z (wrTmp s o v) := by
  unfold wrTmp
  try dsimp only
  repeat' first | (with_reducible first | assumption | rfl | intro _ | apply keeps_blkTmp | apply keeps_after | apply keeps_execTmpSticky | apply keeps_execTmpHold | apply keeps_unlocked | apply keeps_execTmpCtlLock | apply keeps_ite | apply wrKeeps_ite | apply wrKeeps_ok | apply wrKeeps_bad) | split

theorem keeps_wrEvr {z : State} {s : State} {o : Nat} {v : Word} (hk : Keeps z s)  :
    WrKeeps z (wrEvr s o v) := by
  unfold wrEvr
  repeat' first | (with_reducible first | assumption | rfl | intro _ | apply keeps_blkEvr | apply keeps_irq | apply wrKeeps_ok | apply wrKeeps_bad) | split

theorem keeps_wrUpd {z : State} {s : State} {o : Nat} {v : Word} (hk : Keeps z s)  :
    WrKeeps z (wrUpd s o v) := by
  unfold wrUpd
  repeat' first | (with_reducible first | assumption | rfl | intro _ | apply keeps_blkUpd | apply keeps_ite | apply wrKeeps_ite | apply wrKeeps_ok | apply wrKeeps_bad) | split

theorem keeps_wrBlock {z : State} {s : State} {b o : Nat} {v : Word} (hk : Keeps z s)  :
    WrKeeps z (wrBlock s b o v) := by
  unfold wrBlock
  repeat' first | (with_reducible first | assumption | rfl | intro _ | apply keeps_wrHif | apply keeps_wrEng | apply keeps_wrGlb | apply keeps_wrClk | apply keeps_wrFwl | apply keeps_wrRng | apply keeps_wrCus | apply keeps_wrUpd | apply keeps_wrSpi1 | apply keeps_wrTmp | apply keeps_wrSpi0 | apply keeps_wrCfg | apply keeps_wrVlt | apply keeps_wrMpu | apply keeps_wrCan | apply keeps_wrFlt | apply keeps_wrFus | apply keeps_wrMode | apply keeps_wrPke | apply keeps_wrEvr | apply keeps_ite | apply wrKeeps_ite | apply wrKeeps_ok | apply wrKeeps_bad) | split

theorem keeps_regWrite {z : State} {s : State} {a : Nat} {v : Word} (hk : Keeps z s)  :
    WrKeeps z (regWrite s a v) := by
  unfold regWrite
  dsimp only
  repeat' first | (with_reducible first | assumption | rfl | intro _ | apply keeps_wrBlock | apply keeps_ite | apply wrKeeps_ite | apply wrKeeps_ok | apply wrKeeps_bad) | split

theorem keeps_hostWr {z s : State} {a : Nat} {r : WrRes} (hr : WrKeeps z r) (h : Keeps z s) : Keeps z (hostWr s a r) := by
  unfold hostWr
  split
  · exact hr.ok _ rfl
  · exact keeps_logRefused h

theorem keeps_fltHostWrite {z : State} {s : State} {a : Nat} {v : Word} (hk : Keeps z s) :
    Keeps z (fltHostWrite s a v) := by
  unfold fltHostWrite
  repeat' first | (with_reducible first | assumption | rfl | intro _ | apply keeps_hostWr | apply keeps_regWrite | apply keeps_refuseAcc | apply keeps_ite) | split

theorem keeps_bar0Write {z : State} {s : State} {o : Nat} {v : Word} (hk : Keeps z s) :
    Keeps z (bar0Write s o v) := by
  unfold bar0Write
  repeat' first | (with_reducible first | assumption | rfl | intro _ | apply keeps_blkHif | apply keeps_hostWr | apply keeps_regWrite | apply keeps_after | apply keeps_execHifRingAlloc | apply keeps_fltHostWrite | apply keeps_ite) | split

theorem keeps_ringCtl {z : State} {s : State} {fn r : Nat} {v : Word} (hk : Keeps z s)  :
    Keeps z (ringCtl s fn r v) := by
  unfold ringCtl
  repeat' first | (with_reducible first | assumption | rfl | intro _ | apply keeps_execRingEnable | apply keeps_after | apply keeps_execRingReset | apply keeps_ringClear | apply keeps_ite) | split

theorem keeps_ringWrite {z : State} {s : State} {fn r p : Nat} {v : Word} (hk : Keeps z s)  :
    Keeps z (ringWrite s fn r p v) := by
  unfold ringWrite
  dsimp only
  repeat' first | (with_reducible first | assumption | rfl | intro _ | apply keeps_setRing | apply keeps_logRefused | apply keeps_ringCtl | apply keeps_ite) | split

theorem keeps_pendSend {z : State} {s : State} {fn : Nat} (hk : Keeps z s)  :
    Keeps z (pendSend s fn) := by
  unfold pendSend
  dsimp only
  repeat' first | (with_reducible first | assumption | rfl | intro _ | apply keeps_sendMsix | apply keeps_setFn | apply keeps_foldl | apply keeps_ite) | split

theorem keeps_msixWrite {z : State} {s : State} {fn k : Nat} {v : Word} (hk : Keeps z s)  :
    Keeps z (msixWrite s fn k v) := by
  unfold msixWrite
  dsimp only
  repeat' first | (with_reducible first | assumption | rfl | intro _ | apply keeps_pendSend | apply keeps_setFn) | split

theorem keeps_mbxCtl {z : State} {s : State} {fn : Nat} {v : Word} (hk : Keeps z s)  :
    Keeps z (mbxCtl s fn v) := by
  unfold mbxCtl
  dsimp only
  repeat' first | (with_reducible first | assumption | rfl | intro _ | apply keeps_execMbxSend | apply keeps_after | apply keeps_setFn | apply keeps_ite) | split

theorem keeps_pageWrite {z : State} {s : State} {fn o : Nat} {v : Word} (hk : Keeps z s)  :
    Keeps z (pageWrite s fn o v) := by
  unfold pageWrite
  repeat' first | (with_reducible first | assumption | rfl | intro _ | apply keeps_blkHif | apply keeps_msixWrite | apply keeps_execCqHead | apply keeps_mbxCtl | apply keeps_setFn | apply keeps_after | apply keeps_ringWrite | apply keeps_execSqTail | apply keeps_ite) | split

/-! ### Machine/Access.lean -/

theorem keeps_readEffect {z : State} {s : State} {a n : Nat} (hk : Keeps z s)  :
    Keeps z (readEffect s a n) := by
  unfold readEffect
  repeat' first | (with_reducible first | assumption | rfl | intro _ | apply keeps_regReadEffect | apply keeps_foldl | apply keeps_ite) | split

theorem keeps_regsWrite {z s : State} {a : Nat} {b : Bytes} (h : Keeps z s) : WrKeeps z (regsWrite s a b) := by
  have aux : ∀ (l : List Nat) (r : WrRes), WrKeeps z r → WrKeeps z (l.foldl (fun r k => match r with
      | .ok s => regWrite s (a + 4 * k) (wordOf (leAt b (4 * k) 4))
      | e => e) r) := by
    intro l
    induction l with
    | nil => exact fun r hr => hr
    | cons k l ih =>
      intro r hr
      refine ih _ ?_
      cases r with
      | ok t => exact keeps_regWrite (hr.ok t rfl)
      | bad n => exact wrKeeps_bad
  exact aux _ _ (wrKeeps_ok h)

theorem keeps_storeBytes {z : State} {s : State} {a : Nat} {b : Bytes} (hk : Keeps z s)  :
    WrKeeps z (storeBytes s a b) := by
  unfold storeBytes
  repeat' first | (with_reducible first | assumption | rfl | intro _ | apply keeps_setPke | apply keeps_regsWrite | apply keeps_sramWrite | apply keeps_ite | apply wrKeeps_ite | apply wrKeeps_ok | apply wrKeeps_bad) | split

theorem keeps_jtagAnswer {z : State} {s : State} {b : BusReq} {err : Bool} {data : Bytes} (hk : Keeps z s) :
    Keeps z (jtagAnswer s b err data) := by
  unfold jtagAnswer
  repeat' first | (with_reducible first | assumption | rfl | intro _ | apply keeps_blkMode | apply keeps_ite) | split

theorem keeps_denyAcc {z : State} {s : State} {b : BusReq} {a : Acc} {src idx : Nat} (hk : Keeps z s) :
    Keeps z (denyAcc s b a src idx) := by
  unfold denyAcc
  try dsimp only
  repeat' first | (with_reducible first | assumption | rfl | intro _ | apply keeps_refuseAcc | apply keeps_raise | apply keeps_jtagAnswer | apply keeps_ite) | split

theorem keeps_accEffect {z s : State} {b : BusReq} {a : Acc} (h : Keeps z s) : Keeps z (accEffect s b a) := by
  unfold accEffect
  split
  · split
    · rename_i t e
      exact keeps_jtagAnswer ((keeps_storeBytes h).ok t e)
    · exact keeps_logRefused (keeps_denyAcc h)
  · dsimp only
    split
    · exact keeps_onCore (keeps_readEffect h)
    · exact keeps_jtagAnswer (keeps_readEffect h)
  · exact h

theorem keeps_stallAcc {z : State} {s : State} {b : BusReq} {a : Acc} (hk : Keeps z s) :
    Keeps z (stallAcc s b a) := by
  unfold stallAcc
  repeat' first | (with_reducible first | assumption | rfl | intro _ | apply keeps_blkMpu | apply keeps_blkFwl | apply keeps_ite) | split

theorem keeps_endAcc {z s : State} {b : BusReq} {a : Acc} {c : Check} (h : Keeps z s) : Keeps z (endAcc s b a c) := by
  cases c with
  | ok => exact keeps_accEffect h
  | stall => exact keeps_stallAcc h
  | deny x y => exact keeps_denyAcc h

theorem keeps_resolveAcc {z : State} {s : State} {b : BusReq} {a : Acc} (hk : Keeps z s) :
    Keeps z (resolveAcc s b a) := by
  unfold resolveAcc
  repeat' first | (with_reducible first | assumption | rfl | intro _ | apply keeps_endAcc | apply keeps_ite) | split

theorem keeps_coreResolve {z : State} {s : State} {c : Nat} {b : BusReq} (hk : Keeps z s) :
    Keeps z (coreResolve s c b) := by
  unfold coreResolve
  try dsimp only
  repeat' first | (with_reducible first | assumption | rfl | intro _ | apply keeps_resolveAcc | apply keeps_raise | apply keeps_translate_p | apply keeps_denyAcc | apply keeps_stallAcc | apply keeps_ite) | (refine keeps_translate ?_ (by with_reducible assumption)) | split

theorem keeps_resumeAcc {z : State} {s : State} {p : BusReq × Acc} (hk : Keeps z s) :
    Keeps z (resumeAcc s p) := by
  unfold resumeAcc
  repeat' first | (with_reducible first | assumption | rfl | intro _ | apply keeps_coreResolve | apply keeps_endAcc | apply keeps_ite) | split

theorem keeps_releaseStalled {z : State} {s : State} (hk : Keeps z s) :
    Keeps z (releaseStalled s) := by
  unfold releaseStalled
  try dsimp only
  repeat' first | (with_reducible first | assumption | rfl | intro _ | apply keeps_blkFwl | apply keeps_blkMpu | apply keeps_resolveAcc | apply keeps_spi0Retry | apply keeps_resumeAcc | apply keeps_foldl | apply keeps_ite) | split

theorem keeps_settleAcc {z : State} {s t : State} (hk : Keeps z s) (ht : Keeps z t) :
    Keeps z (settleAcc s t) := by
  unfold settleAcc
  repeat' first | (with_reducible first | assumption | rfl | intro _ | apply keeps_releaseStalled | apply keeps_ite) | split

theorem keeps_runAcc {z : State} {s : State} {b : BusReq} {a : Acc} (hk : Keeps z s) :
    Keeps z (runAcc s b a) := by
  unfold runAcc
  repeat' first | (with_reducible first | assumption | rfl | intro _ | apply keeps_settleAcc | apply keeps_resolveAcc | apply keeps_ite) | split

theorem keeps_coreAccess {z : State} {s : State} {c : Nat} {b : BusReq} (hk : Keeps z s) :
    Keeps z (coreAccess s c b) := by
  unfold coreAccess
  repeat' first | (with_reducible first | assumption | rfl | intro _ | apply keeps_settleAcc | apply keeps_coreResolve | apply keeps_ite) | split

theorem keeps_execBusAccess {z : State} {b : BusReq} {s : State} (hk : Keeps z s) :
    OutKeeps z (execBusAccess b s) := by
  unfold execBusAccess
  try dsimp only
  repeat' first | (with_reducible first | assumption | rfl | intro _ | apply keeps_instr | apply keeps_coreAccess | apply keeps_runAcc | apply keeps_ite | apply outKeeps_ite | apply outKeeps_next) | split

theorem keeps_execRegisterWrite {z : State} {src : RegSrc} {a v : Word} {s : State} (hk : Keeps z s)  :
    OutKeeps z (execRegisterWrite src a v s) := by
  unfold execRegisterWrite
  repeat' first | (with_reducible first | assumption | rfl | intro _ | apply keeps_runAcc | apply keeps_instr | apply keeps_bar0Write | apply keeps_pageWrite | apply keeps_ite | apply outKeeps_ite | apply outKeeps_next) | split

theorem keeps_execMpuCtlEn {z : State} {k : Nat} {v : Word} {s : State} (hk : Keeps z s)  :
    OutKeeps z (execMpuCtlEn k v s) := by
  unfold execMpuCtlEn
  repeat' first | (with_reducible first | assumption | rfl | intro _ | apply keeps_setMpuUnit | apply keeps_releaseStalled | apply keeps_ite | apply outKeeps_ite | apply outKeeps_next) | split

theorem keeps_execFwlHold {z : State} {v : Word} {s : State} (hk : Keeps z s)  :
    OutKeeps z (execFwlHold v s) := by
  unfold execFwlHold
  repeat' first | (with_reducible first | assumption | rfl | intro _ | apply keeps_holdWrite | apply keeps_releaseStalled | apply keeps_ite | apply outKeeps_ite | apply outKeeps_next) | split

theorem keeps_laneStallEnd {z : State} {src : Nat} {f : Acc → Bool} {s : State} {e : Nat} (hk : Keeps z s) :
    Keeps z (laneStallEnd src f s e) := by
  unfold laneStallEnd
  repeat' first | (with_reducible first | assumption | rfl | intro _ | apply keeps_setLane | apply keeps_refuseAcc | apply keeps_ite) | split

theorem keeps_spi0StallEnd {z : State} {src : Nat} {f : Acc → Bool} {s : State} (hk : Keeps z s) :
    Keeps z (spi0StallEnd src f s) := by
  unfold spi0StallEnd
  repeat' first | (with_reducible first | assumption | rfl | intro _ | apply keeps_spi0End | apply keeps_refuseAcc | apply keeps_ite) | split

theorem keeps_dmaStallEnd {z : State} {s : State} {src : Nat} {f : Acc → Bool} (hk : Keeps z s) :
    Keeps z (dmaStallEnd s src f) := by
  unfold dmaStallEnd
  repeat' first | (with_reducible first | assumption | rfl | intro _ | apply keeps_spi0StallEnd | apply keeps_laneStallEnd | apply keeps_foldl | apply keeps_ite) | split

theorem keeps_execMpuStallTimeout {z : State} {k : Nat} {s : State} (hk : Keeps z s) :
    OutKeeps z (execMpuStallTimeout k s) := by
  unfold execMpuStallTimeout
  try dsimp only
  repeat' first | (with_reducible first | assumption | rfl | intro _ | apply keeps_blkMpu | apply keeps_dmaStallEnd | apply keeps_denyAcc | apply keeps_ite | apply outKeeps_ite | apply outKeeps_next) | split

theorem keeps_execFirewallHoldTimeout {z : State} {t : Nat} {s : State} (hk : Keeps z s) :
    OutKeeps z (execFirewallHoldTimeout t s) := by
  unfold execFirewallHoldTimeout
  try dsimp only
  repeat' first | (with_reducible first | assumption | rfl | intro _ | apply keeps_blkFwl | apply keeps_dmaStallEnd | apply keeps_denyAcc | apply keeps_ite | apply outKeeps_ite | apply outKeeps_next) | split

/-! ### Machine/CmdAdmin.lean -/

theorem keeps_recReadCmd {z : State} {s : State} {_fn : Nat} {d : Bytes} {_io : CmdIo} (hk : Keeps z s)  :
    AnsKeeps z (recReadCmd s _fn d _io) := by
  unfold recReadCmd
  dsimp only
  repeat' first | (with_reducible first | assumption | rfl | intro _ | apply keeps_ite | apply ansKeeps_ite | apply keeps_Ans.bad | apply keeps_id) | split | with_reducible apply ansKeeps_mk | with_reducible apply AnsKeeps.st | with_reducible apply AnsKeeps.after

theorem keeps_recMarkCmd {z : State} {s : State} {fn : Nat} {d : Bytes} {io : CmdIo} (hk : Keeps z s) :
    AnsKeeps z (recMarkCmd s fn d io) := by
  unfold recMarkCmd
  repeat' first | (with_reducible first | assumption | rfl | intro _ | apply keeps_report | apply keeps_Ans.bad | apply keeps_ite | apply ansKeeps_ite | apply keeps_id) | split | with_reducible apply ansKeeps_mk | with_reducible apply AnsKeeps.st | with_reducible apply AnsKeeps.after

theorem keeps_selftestCmd {z : State} {s : State} {_fn : Nat} {d : Bytes} {io : CmdIo} (hk : Keeps z s)  :
    AnsKeeps z (selftestCmd s _fn d io) := by
  unfold selftestCmd
  dsimp only
  repeat' first | (with_reducible first | assumption | rfl | intro _ | apply keeps_enginesFail | apply keeps_id) | split | with_reducible apply ansKeeps_mk

theorem keeps_dimCmdRun {z : State} {s : State} {_fn : Nat} {_d : Bytes} {_io : CmdIo} (hk : Keeps z s)  :
    AnsKeeps z (dimCmdRun s _fn _d _io) := by
  unfold dimCmdRun
  repeat' first | (with_reducible first | assumption | rfl | intro _ | apply keeps_blkMode | apply keeps_ite | apply ansKeeps_ite | apply keeps_Ans.denied | apply keeps_id | apply optKeeps_getD) | split | with_reducible apply ansKeeps_mk | with_reducible apply AnsKeeps.st | with_reducible apply AnsKeeps.after

theorem keeps_recoveryCmd {z : State} {s : State} {_fn : Nat} {_d : Bytes} {_io : CmdIo} (hk : Keeps z s)  :
    AnsKeeps z (recoveryCmd s _fn _d _io) := by
  unfold recoveryCmd
  repeat' first | (with_reducible first | assumption | rfl | intro _ | apply keeps_blkMode | apply keeps_cmdReset | apply keeps_after | apply keeps_ite | apply ansKeeps_ite | apply keeps_Ans.denied | apply keeps_id) | split | with_reducible apply ansKeeps_mk | with_reducible apply AnsKeeps.st | with_reducible apply AnsKeeps.after

theorem keeps_pllShadows {z : State} {s : State} {d : Bytes} (hk : Keeps z s)  :
    Keeps z (pllShadows s d) := by
  unfold pllShadows
  dsimp only
  repeat' first | (with_reducible first | assumption | rfl | intro _ | apply keeps_onClk) | split

theorem keeps_pllSetCmd {z : State} {s : State} {_fn : Nat} {d : Bytes} {_io : CmdIo} (hk : Keeps z s)  :
    AnsKeeps z (pllSetCmd s _fn d _io) := by
  unfold pllSetCmd
  dsimp only
  repeat' first | (with_reducible first | assumption | rfl | intro _ | apply keeps_pllShadows | apply keeps_relockAccept | apply keeps_ite | apply ansKeeps_ite | apply keeps_Ans.bad | apply keeps_Ans.denied | apply keeps_Ans.late | apply keeps_id) | split | with_reducible apply ansKeeps_mk

theorem keeps_beaconSetCmd {z : State} {s : State} {_fn : Nat} {d : Bytes} {io : CmdIo} (hk : Keeps z s)  :
    AnsKeeps z (beaconSetCmd s _fn d io) := by
  unfold beaconSetCmd
  dsimp only
  repeat' first | (with_reducible first | assumption | rfl | intro _ | apply keeps_blkGlb | apply keeps_ite | apply ansKeeps_ite | apply keeps_Ans.bad | apply keeps_id) | split | with_reducible apply ansKeeps_mk | with_reducible apply AnsKeeps.st | with_reducible apply AnsKeeps.after

theorem keeps_swResetCmd {z : State} {s : State} {_fn : Nat} {_d : Bytes} {_io : CmdIo} (hk : Keeps z s)  :
    AnsKeeps z (swResetCmd s _fn _d _io) := by
  unfold swResetCmd
  repeat' first | (with_reducible first | assumption | rfl | intro _ | apply keeps_cmdReset | apply keeps_after | apply keeps_id) | split | with_reducible apply ansKeeps_mk

theorem keeps_execRecRead {z : State} {fn r : Nat} {io : CmdIo} {s : State} (hk : Keeps z s)  :
    OutKeeps z (execRecRead fn r io s) := by
  unfold execRecRead
  repeat' first | (with_reducible first | assumption | rfl | intro _ | apply keeps_recReadCmd | apply keeps_serveCmd | apply outKeeps_next) | split

theorem keeps_execRecMark {z : State} {fn r : Nat} {io : CmdIo} {s : State} (hk : Keeps z s)  :
    OutKeeps z (execRecMark fn r io s) := by
  unfold execRecMark
  repeat' first | (with_reducible first | assumption | rfl | intro _ | apply keeps_serveCmd | apply keeps_recMarkCmd | apply outKeeps_next) | split

theorem keeps_execSelftest {z : State} {fn r : Nat} {io : CmdIo} {s : State} (hk : Keeps z s)  :
    OutKeeps z (execSelftest fn r io s) := by
  unfold execSelftest
  repeat' first | (with_reducible first | assumption | rfl | intro _ | apply keeps_serveCmd | apply keeps_selftestCmd | apply outKeeps_next) | split

theorem keeps_execDimCmd {z : State} {fn r : Nat} {io : CmdIo} {s : State} (hk : Keeps z s)  :
    OutKeeps z (execDimCmd fn r io s) := by
  unfold execDimCmd
  repeat' first | (with_reducible first | assumption | rfl | intro _ | apply keeps_serveCmd | apply keeps_dimCmdRun | apply outKeeps_next) | split

theorem keeps_execRecovery {z : State} {fn r : Nat} {io : CmdIo} {s : State} (hk : Keeps z s)  :
    OutKeeps z (execRecovery fn r io s) := by
  unfold execRecovery
  repeat' first | (with_reducible first | assumption | rfl | intro _ | apply keeps_recoveryCmd | apply keeps_serveCmd | apply outKeeps_next) | split

theorem keeps_execPllSet {z : State} {fn r : Nat} {io : CmdIo} {s : State} (hk : Keeps z s)  :
    OutKeeps z (execPllSet fn r io s) := by
  unfold execPllSet
  repeat' first | (with_reducible first | assumption | rfl | intro _ | apply keeps_pllSetCmd | apply keeps_serveCmd | apply outKeeps_next) | split

theorem keeps_execBeaconSet {z : State} {fn r : Nat} {io : CmdIo} {s : State} (hk : Keeps z s)  :
    OutKeeps z (execBeaconSet fn r io s) := by
  unfold execBeaconSet
  repeat' first | (with_reducible first | assumption | rfl | intro _ | apply keeps_beaconSetCmd | apply keeps_serveCmd | apply outKeeps_next) | split

theorem keeps_execSwReset {z : State} {fn r : Nat} {io : CmdIo} {s : State} (hk : Keeps z s)  :
    OutKeeps z (execSwReset fn r io s) := by
  unfold execSwReset
  repeat' first | (with_reducible first | assumption | rfl | intro _ | apply keeps_swResetCmd | apply keeps_serveCmd | apply outKeeps_next) | split

end Sys2Proof.Machine
end

