-- ==== Sys2Proof/Laws/Report.lean ====
section
/-! SUPPORT. What an event handed to the arbiter leaves alone: every part but GLB_ and EVR_. -/
namespace Sys2Proof.Machine

section
variable (s : State) (e : Event)
@[simp] theorem report_mode : (report s e).mode = s.mode := by
  unfold report writeSec; repeat' (first | rfl | split)
@[simp] theorem report_clk : (report s e).clk = s.clk := by
  unfold report writeSec; repeat' (first | rfl | split)
@[simp] theorem report_fus : (report s e).fus = s.fus := by
  unfold report writeSec; repeat' (first | rfl | split)
@[simp] theorem report_cfg : (report s e).cfg = s.cfg := by
  unfold report writeSec; repeat' (first | rfl | split)
@[simp] theorem report_mpu : (report s e).mpu = s.mpu := by
  unfold report writeSec; repeat' (first | rfl | split)
@[simp] theorem report_fwl : (report s e).fwl = s.fwl := by
  unfold report writeSec; repeat' (first | rfl | split)
@[simp] theorem report_vlt : (report s e).vlt = s.vlt := by
  unfold report writeSec; repeat' (first | rfl | split)
@[simp] theorem report_cus : (report s e).cus = s.cus := by
  unfold report writeSec; repeat' (first | rfl | split)
@[simp] theorem report_can0 : (report s e).can0 = s.can0 := by
  unfold report writeSec; repeat' (first | rfl | split)
@[simp] theorem report_can1 : (report s e).can1 = s.can1 := by
  unfold report writeSec; repeat' (first | rfl | split)
@[simp] theorem report_voe : (report s e).voe = s.voe := by
  unfold report writeSec; repeat' (first | rfl | split)
@[simp] theorem report_eng : (report s e).eng = s.eng := by
  unfold report writeSec; repeat' (first | rfl | split)
@[simp] theorem report_pke : (report s e).pke = s.pke := by
  unfold report writeSec; repeat' (first | rfl | split)
@[simp] theorem report_rng : (report s e).rng = s.rng := by
  unfold report writeSec; repeat' (first | rfl | split)
@[simp] theorem report_hif : (report s e).hif = s.hif := by
  unfold report writeSec; repeat' (first | rfl | split)
@[simp] theorem report_spi0 : (report s e).spi0 = s.spi0 := by
  unfold report writeSec; repeat' (first | rfl | split)
@[simp] theorem report_spi1 : (report s e).spi1 = s.spi1 := by
  unfold report writeSec; repeat' (first | rfl | split)
@[simp] theorem report_flash : (report s e).flash = s.flash := by
  unfold report writeSec; repeat' (first | rfl | split)
@[simp] theorem report_tmp : (report s e).tmp = s.tmp := by
  unfold report writeSec; repeat' (first | rfl | split)
@[simp] theorem report_snf : (report s e).snf = s.snf := by
  unfold report writeSec; repeat' (first | rfl | split)
@[simp] theorem report_upd : (report s e).upd = s.upd := by
  unfold report writeSec; repeat' (first | rfl | split)
@[simp] theorem report_flt : (report s e).flt = s.flt := by
  unfold report writeSec; repeat' (first | rfl | split)
@[simp] theorem report_cores : (report s e).cores = s.cores := by
  unfold report writeSec; repeat' (first | rfl | split)
@[simp] theorem report_sram : (report s e).sram = s.sram := by
  unfold report writeSec; repeat' (first | rfl | split)
@[simp] theorem report_free : (report s e).free = s.free := by
  unfold report writeSec; repeat' (first | rfl | split)
@[simp] theorem report_pending : (report s e).pending = s.pending := by
  unfold report writeSec; repeat' (first | rfl | split)
end

section
variable (s : State) (e : Event)
@[simp] theorem report_glb_run : (report s e).glb.run = s.glb.run := by
  unfold report writeSec; repeat' (first | rfl | split)
@[simp] theorem report_glb_period : (report s e).glb.period = s.glb.period := by
  unfold report writeSec; repeat' (first | rfl | split)
@[simp] theorem report_glb_pol : (report s e).glb.pol = s.glb.pol := by
  unfold report writeSec; repeat' (first | rfl | split)
@[simp] theorem report_glb_src : (report s e).glb.src = s.glb.src := by
  unfold report writeSec; repeat' (first | rfl | split)
@[simp] theorem report_glb_maxwait : (report s e).glb.maxwait = s.glb.maxwait := by
  unfold report writeSec; repeat' (first | rfl | split)
@[simp] theorem report_glb_maxwaitSh : (report s e).glb.maxwaitSh = s.glb.maxwaitSh := by
  unfold report writeSec; repeat' (first | rfl | split)
@[simp] theorem report_glb_stray : (report s e).glb.stray = s.glb.stray := by
  unfold report writeSec; repeat' (first | rfl | split)
@[simp] theorem report_glb_budErr : (report s e).glb.budErr = s.glb.budErr := by
  unfold report writeSec; repeat' (first | rfl | split)
@[simp] theorem report_glb_miss : (report s e).glb.miss = s.glb.miss := by
  unfold report writeSec; repeat' (first | rfl | split)
@[simp] theorem report_glb_fircTb : (report s e).glb.fircTb = s.glb.fircTb := by
  unfold report writeSec; repeat' (first | rfl | split)
@[simp] theorem report_glb_lock : (report s e).glb.lock = s.glb.lock := by
  unfold report writeSec; repeat' (first | rfl | split)
@[simp] theorem report_glb_acq : (report s e).glb.acq = s.glb.acq := by
  unfold report writeSec; repeat' (first | rfl | split)
@[simp] theorem report_glb_tick : (report s e).glb.tick = s.glb.tick := by
  unfold report writeSec; repeat' (first | rfl | split)
@[simp] theorem report_glb_sub : (report s e).glb.sub = s.glb.sub := by
  unfold report writeSec; repeat' (first | rfl | split)
@[simp] theorem report_glb_subLatch : (report s e).glb.subLatch = s.glb.subLatch := by
  unfold report writeSec; repeat' (first | rfl | split)
@[simp] theorem report_glb_phaseErr : (report s e).glb.phaseErr = s.glb.phaseErr := by
  unfold report writeSec; repeat' (first | rfl | split)
@[simp] theorem report_glb_rate : (report s e).glb.rate = s.glb.rate := by
  unfold report writeSec; repeat' (first | rfl | split)
@[simp] theorem report_glb_lastSync : (report s e).glb.lastSync = s.glb.lastSync := by
  unfold report writeSec; repeat' (first | rfl | split)
@[simp] theorem report_glb_overrun : (report s e).glb.overrun = s.glb.overrun := by
  unfold report writeSec; repeat' (first | rfl | split)
@[simp] theorem report_glb_carriedStat : (report s e).glb.carriedStat = s.glb.carriedStat := by
  unfold report writeSec; repeat' (first | rfl | split)
@[simp] theorem report_glb_tokens : (report s e).glb.tokens = s.glb.tokens := by
  unfold report writeSec; repeat' (first | rfl | split)
@[simp] theorem report_glb_used : (report s e).glb.used = s.glb.used := by
  unfold report writeSec; repeat' (first | rfl | split)
@[simp] theorem report_glb_caps : (report s e).glb.caps = s.glb.caps := by
  unfold report writeSec; repeat' (first | rfl | split)
@[simp] theorem report_glb_capsSh : (report s e).glb.capsSh = s.glb.capsSh := by
  unfold report writeSec; repeat' (first | rfl | split)
@[simp] theorem report_glb_capsCommit : (report s e).glb.capsCommit = s.glb.capsCommit := by
  unfold report writeSec; repeat' (first | rfl | split)
@[simp] theorem report_glb_bud : (report s e).glb.bud = s.glb.bud := by
  unfold report writeSec; repeat' (first | rfl | split)
@[simp] theorem report_glb_budSh : (report s e).glb.budSh = s.glb.budSh := by
  unfold report writeSec; repeat' (first | rfl | split)
@[simp] theorem report_glb_budCommit : (report s e).glb.budCommit = s.glb.budCommit := by
  unfold report writeSec; repeat' (first | rfl | split)
@[simp] theorem report_glb_budNow : (report s e).glb.budNow = s.glb.budNow := by
  unfold report writeSec; repeat' (first | rfl | split)
@[simp] theorem report_glb_rr : (report s e).glb.rr = s.glb.rr := by
  unfold report writeSec; repeat' (first | rfl | split)
@[simp] theorem report_glb_tripLat : (report s e).glb.tripLat = s.glb.tripLat := by
  unfold report writeSec; repeat' (first | rfl | split)
@[simp] theorem report_glb_carried : (report s e).glb.carried = s.glb.carried := by
  unfold report writeSec; repeat' (first | rfl | split)
@[simp] theorem report_glb_overruns : (report s e).glb.overruns = s.glb.overruns := by
  unfold report writeSec; repeat' (first | rfl | split)
@[simp] theorem report_glb_arbSeq : (report s e).glb.arbSeq = s.glb.arbSeq := by
  unfold report writeSec; repeat' (first | rfl | split)

/-- Where the core domain runs, no event reaches the recorder before the arbiter accepts it. -/
theorem report_evr (h : mainUp s = true) : (report s e).evr = s.evr := by
  simp only [mainUp, Bool.and_eq_true, decide_eq_true_eq, Bool.not_eq_true'] at h
  obtain ⟨⟨h1, h2⟩, h3⟩ := h
  unfold report
  rw [if_neg (by simp [h1, h2, h3])]
  repeat' (first | rfl | split)
end

section
variable (s : State) (b : Blk) (k : Nat) (a : Bytes)
@[simp] theorem logD_mode : (logD s b k a).mode = s.mode := report_mode _ _
@[simp] theorem logD_clk : (logD s b k a).clk = s.clk := report_clk _ _
@[simp] theorem logD_fus : (logD s b k a).fus = s.fus := report_fus _ _
@[simp] theorem logD_cfg : (logD s b k a).cfg = s.cfg := report_cfg _ _
@[simp] theorem logD_mpu : (logD s b k a).mpu = s.mpu := report_mpu _ _
@[simp] theorem logD_fwl : (logD s b k a).fwl = s.fwl := report_fwl _ _
@[simp] theorem logD_vlt : (logD s b k a).vlt = s.vlt := report_vlt _ _
@[simp] theorem logD_cus : (logD s b k a).cus = s.cus := report_cus _ _
@[simp] theorem logD_can0 : (logD s b k a).can0 = s.can0 := report_can0 _ _
@[simp] theorem logD_can1 : (logD s b k a).can1 = s.can1 := report_can1 _ _
@[simp] theorem logD_voe : (logD s b k a).voe = s.voe := report_voe _ _
@[simp] theorem logD_eng : (logD s b k a).eng = s.eng := report_eng _ _
@[simp] theorem logD_pke : (logD s b k a).pke = s.pke := report_pke _ _
@[simp] theorem logD_rng : (logD s b k a).rng = s.rng := report_rng _ _
@[simp] theorem logD_hif : (logD s b k a).hif = s.hif := report_hif _ _
@[simp] theorem logD_spi0 : (logD s b k a).spi0 = s.spi0 := report_spi0 _ _
@[simp] theorem logD_spi1 : (logD s b k a).spi1 = s.spi1 := report_spi1 _ _
@[simp] theorem logD_flash : (logD s b k a).flash = s.flash := report_flash _ _
@[simp] theorem logD_tmp : (logD s b k a).tmp = s.tmp := report_tmp _ _
@[simp] theorem logD_snf : (logD s b k a).snf = s.snf := report_snf _ _
@[simp] theorem logD_upd : (logD s b k a).upd = s.upd := report_upd _ _
@[simp] theorem logD_flt : (logD s b k a).flt = s.flt := report_flt _ _
@[simp] theorem logD_cores : (logD s b k a).cores = s.cores := report_cores _ _
@[simp] theorem logD_sram : (logD s b k a).sram = s.sram := report_sram _ _
@[simp] theorem logD_free : (logD s b k a).free = s.free := report_free _ _
@[simp] theorem logD_pending : (logD s b k a).pending = s.pending := report_pending _ _
@[simp] theorem logS_mode : (logS s b k a).mode = s.mode := report_mode _ _
@[simp] theorem logS_clk : (logS s b k a).clk = s.clk := report_clk _ _
@[simp] theorem logS_fus : (logS s b k a).fus = s.fus := report_fus _ _
@[simp] theorem logS_cfg : (logS s b k a).cfg = s.cfg := report_cfg _ _
@[simp] theorem logS_mpu : (logS s b k a).mpu = s.mpu := report_mpu _ _
@[simp] theorem logS_fwl : (logS s b k a).fwl = s.fwl := report_fwl _ _
@[simp] theorem logS_vlt : (logS s b k a).vlt = s.vlt := report_vlt _ _
@[simp] theorem logS_cus : (logS s b k a).cus = s.cus := report_cus _ _
@[simp] theorem logS_can0 : (logS s b k a).can0 = s.can0 := report_can0 _ _
@[simp] theorem logS_can1 : (logS s b k a).can1 = s.can1 := report_can1 _ _
@[simp] theorem logS_voe : (logS s b k a).voe = s.voe := report_voe _ _
@[simp] theorem logS_eng : (logS s b k a).eng = s.eng := report_eng _ _
@[simp] theorem logS_pke : (logS s b k a).pke = s.pke := report_pke _ _
@[simp] theorem logS_rng : (logS s b k a).rng = s.rng := report_rng _ _
@[simp] theorem logS_hif : (logS s b k a).hif = s.hif := report_hif _ _
@[simp] theorem logS_spi0 : (logS s b k a).spi0 = s.spi0 := report_spi0 _ _
@[simp] theorem logS_spi1 : (logS s b k a).spi1 = s.spi1 := report_spi1 _ _
@[simp] theorem logS_flash : (logS s b k a).flash = s.flash := report_flash _ _
@[simp] theorem logS_tmp : (logS s b k a).tmp = s.tmp := report_tmp _ _
@[simp] theorem logS_snf : (logS s b k a).snf = s.snf := report_snf _ _
@[simp] theorem logS_upd : (logS s b k a).upd = s.upd := report_upd _ _
@[simp] theorem logS_flt : (logS s b k a).flt = s.flt := report_flt _ _
@[simp] theorem logS_cores : (logS s b k a).cores = s.cores := report_cores _ _
@[simp] theorem logS_sram : (logS s b k a).sram = s.sram := report_sram _ _
@[simp] theorem logS_free : (logS s b k a).free = s.free := report_free _ _
@[simp] theorem logS_pending : (logS s b k a).pending = s.pending := report_pending _ _
@[simp] theorem logSD_mode : (logSD s b k a).mode = s.mode := report_mode _ _
@[simp] theorem logSD_clk : (logSD s b k a).clk = s.clk := report_clk _ _
@[simp] theorem logSD_fus : (logSD s b k a).fus = s.fus := report_fus _ _
@[simp] theorem logSD_cfg : (logSD s b k a).cfg = s.cfg := report_cfg _ _
@[simp] theorem logSD_mpu : (logSD s b k a).mpu = s.mpu := report_mpu _ _
@[simp] theorem logSD_fwl : (logSD s b k a).fwl = s.fwl := report_fwl _ _
@[simp] theorem logSD_vlt : (logSD s b k a).vlt = s.vlt := report_vlt _ _
@[simp] theorem logSD_cus : (logSD s b k a).cus = s.cus := report_cus _ _
@[simp] theorem logSD_can0 : (logSD s b k a).can0 = s.can0 := report_can0 _ _
@[simp] theorem logSD_can1 : (logSD s b k a).can1 = s.can1 := report_can1 _ _
@[simp] theorem logSD_voe : (logSD s b k a).voe = s.voe := report_voe _ _
@[simp] theorem logSD_eng : (logSD s b k a).eng = s.eng := report_eng _ _
@[simp] theorem logSD_pke : (logSD s b k a).pke = s.pke := report_pke _ _
@[simp] theorem logSD_rng : (logSD s b k a).rng = s.rng := report_rng _ _
@[simp] theorem logSD_hif : (logSD s b k a).hif = s.hif := report_hif _ _
@[simp] theorem logSD_spi0 : (logSD s b k a).spi0 = s.spi0 := report_spi0 _ _
@[simp] theorem logSD_spi1 : (logSD s b k a).spi1 = s.spi1 := report_spi1 _ _
@[simp] theorem logSD_flash : (logSD s b k a).flash = s.flash := report_flash _ _
@[simp] theorem logSD_tmp : (logSD s b k a).tmp = s.tmp := report_tmp _ _
@[simp] theorem logSD_snf : (logSD s b k a).snf = s.snf := report_snf _ _
@[simp] theorem logSD_upd : (logSD s b k a).upd = s.upd := report_upd _ _
@[simp] theorem logSD_flt : (logSD s b k a).flt = s.flt := report_flt _ _
@[simp] theorem logSD_cores : (logSD s b k a).cores = s.cores := report_cores _ _
@[simp] theorem logSD_sram : (logSD s b k a).sram = s.sram := report_sram _ _
@[simp] theorem logSD_free : (logSD s b k a).free = s.free := report_free _ _
@[simp] theorem logSD_pending : (logSD s b k a).pending = s.pending := report_pending _ _
@[simp] theorem logOther_mode : (logOther s b a).mode = s.mode := report_mode _ _
@[simp] theorem logOther_clk : (logOther s b a).clk = s.clk := report_clk _ _
@[simp] theorem logOther_fus : (logOther s b a).fus = s.fus := report_fus _ _
@[simp] theorem logOther_cfg : (logOther s b a).cfg = s.cfg := report_cfg _ _
@[simp] theorem logOther_mpu : (logOther s b a).mpu = s.mpu := report_mpu _ _
@[simp] theorem logOther_fwl : (logOther s b a).fwl = s.fwl := report_fwl _ _
@[simp] theorem logOther_vlt : (logOther s b a).vlt = s.vlt := report_vlt _ _
@[simp] theorem logOther_cus : (logOther s b a).cus = s.cus := report_cus _ _
@[simp] theorem logOther_can0 : (logOther s b a).can0 = s.can0 := report_can0 _ _
@[simp] theorem logOther_can1 : (logOther s b a).can1 = s.can1 := report_can1 _ _
@[simp] theorem logOther_voe : (logOther s b a).voe = s.voe := report_voe _ _
@[simp] theorem logOther_eng : (logOther s b a).eng = s.eng := report_eng _ _
@[simp] theorem logOther_pke : (logOther s b a).pke = s.pke := report_pke _ _
@[simp] theorem logOther_rng : (logOther s b a).rng = s.rng := report_rng _ _
@[simp] theorem logOther_hif : (logOther s b a).hif = s.hif := report_hif _ _
@[simp] theorem logOther_spi0 : (logOther s b a).spi0 = s.spi0 := report_spi0 _ _
@[simp] theorem logOther_spi1 : (logOther s b a).spi1 = s.spi1 := report_spi1 _ _
@[simp] theorem logOther_flash : (logOther s b a).flash = s.flash := report_flash _ _
@[simp] theorem logOther_tmp : (logOther s b a).tmp = s.tmp := report_tmp _ _
@[simp] theorem logOther_snf : (logOther s b a).snf = s.snf := report_snf _ _
@[simp] theorem logOther_upd : (logOther s b a).upd = s.upd := report_upd _ _
@[simp] theorem logOther_flt : (logOther s b a).flt = s.flt := report_flt _ _
@[simp] theorem logOther_cores : (logOther s b a).cores = s.cores := report_cores _ _
@[simp] theorem logOther_sram : (logOther s b a).sram = s.sram := report_sram _ _
@[simp] theorem logOther_free : (logOther s b a).free = s.free := report_free _ _
@[simp] theorem logOther_pending : (logOther s b a).pending = s.pending := report_pending _ _
@[simp] theorem logOtherS_mode : (logOtherS s b a).mode = s.mode := report_mode _ _
@[simp] theorem logOtherS_clk : (logOtherS s b a).clk = s.clk := report_clk _ _
@[simp] theorem logOtherS_fus : (logOtherS s b a).fus = s.fus := report_fus _ _
@[simp] theorem logOtherS_cfg : (logOtherS s b a).cfg = s.cfg := report_cfg _ _
@[simp] theorem logOtherS_mpu : (logOtherS s b a).mpu = s.mpu := report_mpu _ _
@[simp] theorem logOtherS_fwl : (logOtherS s b a).fwl = s.fwl := report_fwl _ _
@[simp] theorem logOtherS_vlt : (logOtherS s b a).vlt = s.vlt := report_vlt _ _
@[simp] theorem logOtherS_cus : (logOtherS s b a).cus = s.cus := report_cus _ _
@[simp] theorem logOtherS_can0 : (logOtherS s b a).can0 = s.can0 := report_can0 _ _
@[simp] theorem logOtherS_can1 : (logOtherS s b a).can1 = s.can1 := report_can1 _ _
@[simp] theorem logOtherS_voe : (logOtherS s b a).voe = s.voe := report_voe _ _
@[simp] theorem logOtherS_eng : (logOtherS s b a).eng = s.eng := report_eng _ _
@[simp] theorem logOtherS_pke : (logOtherS s b a).pke = s.pke := report_pke _ _
@[simp] theorem logOtherS_rng : (logOtherS s b a).rng = s.rng := report_rng _ _
@[simp] theorem logOtherS_hif : (logOtherS s b a).hif = s.hif := report_hif _ _
@[simp] theorem logOtherS_spi0 : (logOtherS s b a).spi0 = s.spi0 := report_spi0 _ _
@[simp] theorem logOtherS_spi1 : (logOtherS s b a).spi1 = s.spi1 := report_spi1 _ _
@[simp] theorem logOtherS_flash : (logOtherS s b a).flash = s.flash := report_flash _ _
@[simp] theorem logOtherS_tmp : (logOtherS s b a).tmp = s.tmp := report_tmp _ _
@[simp] theorem logOtherS_snf : (logOtherS s b a).snf = s.snf := report_snf _ _
@[simp] theorem logOtherS_upd : (logOtherS s b a).upd = s.upd := report_upd _ _
@[simp] theorem logOtherS_flt : (logOtherS s b a).flt = s.flt := report_flt _ _
@[simp] theorem logOtherS_cores : (logOtherS s b a).cores = s.cores := report_cores _ _
@[simp] theorem logOtherS_sram : (logOtherS s b a).sram = s.sram := report_sram _ _
@[simp] theorem logOtherS_free : (logOtherS s b a).free = s.free := report_free _ _
@[simp] theorem logOtherS_pending : (logOtherS s b a).pending = s.pending := report_pending _ _
@[simp] theorem logRefused_mode : (logRefused s k).mode = s.mode := report_mode _ _
@[simp] theorem logRefused_clk : (logRefused s k).clk = s.clk := report_clk _ _
@[simp] theorem logRefused_fus : (logRefused s k).fus = s.fus := report_fus _ _
@[simp] theorem logRefused_cfg : (logRefused s k).cfg = s.cfg := report_cfg _ _
@[simp] theorem logRefused_mpu : (logRefused s k).mpu = s.mpu := report_mpu _ _
@[simp] theorem logRefused_fwl : (logRefused s k).fwl = s.fwl := report_fwl _ _
@[simp] theorem logRefused_vlt : (logRefused s k).vlt = s.vlt := report_vlt _ _
@[simp] theorem logRefused_cus : (logRefused s k).cus = s.cus := report_cus _ _
@[simp] theorem logRefused_can0 : (logRefused s k).can0 = s.can0 := report_can0 _ _
@[simp] theorem logRefused_can1 : (logRefused s k).can1 = s.can1 := report_can1 _ _
@[simp] theorem logRefused_voe : (logRefused s k).voe = s.voe := report_voe _ _
@[simp] theorem logRefused_eng : (logRefused s k).eng = s.eng := report_eng _ _
@[simp] theorem logRefused_pke : (logRefused s k).pke = s.pke := report_pke _ _
@[simp] theorem logRefused_rng : (logRefused s k).rng = s.rng := report_rng _ _
@[simp] theorem logRefused_hif : (logRefused s k).hif = s.hif := report_hif _ _
@[simp] theorem logRefused_spi0 : (logRefused s k).spi0 = s.spi0 := report_spi0 _ _
@[simp] theorem logRefused_spi1 : (logRefused s k).spi1 = s.spi1 := report_spi1 _ _
@[simp] theorem logRefused_flash : (logRefused s k).flash = s.flash := report_flash _ _
@[simp] theorem logRefused_tmp : (logRefused s k).tmp = s.tmp := report_tmp _ _
@[simp] theorem logRefused_snf : (logRefused s k).snf = s.snf := report_snf _ _
@[simp] theorem logRefused_upd : (logRefused s k).upd = s.upd := report_upd _ _
@[simp] theorem logRefused_flt : (logRefused s k).flt = s.flt := report_flt _ _
@[simp] theorem logRefused_cores : (logRefused s k).cores = s.cores := report_cores _ _
@[simp] theorem logRefused_sram : (logRefused s k).sram = s.sram := report_sram _ _
@[simp] theorem logRefused_free : (logRefused s k).free = s.free := report_free _ _
@[simp] theorem logRefused_pending : (logRefused s k).pending = s.pending := report_pending _ _
@[simp] theorem irq_mode (j : Nat) : (irq s k j).mode = s.mode := report_mode _ _
@[simp] theorem irq_clk (j : Nat) : (irq s k j).clk = s.clk := report_clk _ _
@[simp] theorem irq_fus (j : Nat) : (irq s k j).fus = s.fus := report_fus _ _
@[simp] theorem irq_cfg (j : Nat) : (irq s k j).cfg = s.cfg := report_cfg _ _
@[simp] theorem irq_mpu (j : Nat) : (irq s k j).mpu = s.mpu := report_mpu _ _
@[simp] theorem irq_fwl (j : Nat) : (irq s k j).fwl = s.fwl := report_fwl _ _
@[simp] theorem irq_vlt (j : Nat) : (irq s k j).vlt = s.vlt := report_vlt _ _
@[simp] theorem irq_cus (j : Nat) : (irq s k j).cus = s.cus := report_cus _ _
@[simp] theorem irq_can0 (j : Nat) : (irq s k j).can0 = s.can0 := report_can0 _ _
@[simp] theorem irq_can1 (j : Nat) : (irq s k j).can1 = s.can1 := report_can1 _ _
@[simp] theorem irq_voe (j : Nat) : (irq s k j).voe = s.voe := report_voe _ _
@[simp] theorem irq_eng (j : Nat) : (irq s k j).eng = s.eng := report_eng _ _
@[simp] theorem irq_pke (j : Nat) : (irq s k j).pke = s.pke := report_pke _ _
@[simp] theorem irq_rng (j : Nat) : (irq s k j).rng = s.rng := report_rng _ _
@[simp] theorem irq_hif (j : Nat) : (irq s k j).hif = s.hif := report_hif _ _
@[simp] theorem irq_spi0 (j : Nat) : (irq s k j).spi0 = s.spi0 := report_spi0 _ _
@[simp] theorem irq_spi1 (j : Nat) : (irq s k j).spi1 = s.spi1 := report_spi1 _ _
@[simp] theorem irq_flash (j : Nat) : (irq s k j).flash = s.flash := report_flash _ _
@[simp] theorem irq_tmp (j : Nat) : (irq s k j).tmp = s.tmp := report_tmp _ _
@[simp] theorem irq_snf (j : Nat) : (irq s k j).snf = s.snf := report_snf _ _
@[simp] theorem irq_upd (j : Nat) : (irq s k j).upd = s.upd := report_upd _ _
@[simp] theorem irq_flt (j : Nat) : (irq s k j).flt = s.flt := report_flt _ _
@[simp] theorem irq_cores (j : Nat) : (irq s k j).cores = s.cores := report_cores _ _
@[simp] theorem irq_sram (j : Nat) : (irq s k j).sram = s.sram := report_sram _ _
@[simp] theorem irq_free (j : Nat) : (irq s k j).free = s.free := report_free _ _
@[simp] theorem irq_pending (j : Nat) : (irq s k j).pending = s.pending := report_pending _ _
@[simp] theorem logMode_mode : (logMode s).mode = s.mode := report_mode _ _
@[simp] theorem logMode_clk : (logMode s).clk = s.clk := report_clk _ _
@[simp] theorem logMode_fus : (logMode s).fus = s.fus := report_fus _ _
@[simp] theorem logMode_cfg : (logMode s).cfg = s.cfg := report_cfg _ _
@[simp] theorem logMode_mpu : (logMode s).mpu = s.mpu := report_mpu _ _
@[simp] theorem logMode_fwl : (logMode s).fwl = s.fwl := report_fwl _ _
@[simp] theorem logMode_vlt : (logMode s).vlt = s.vlt := report_vlt _ _
@[simp] theorem logMode_cus : (logMode s).cus = s.cus := report_cus _ _
@[simp] theorem logMode_can0 : (logMode s).can0 = s.can0 := report_can0 _ _
@[simp] theorem logMode_can1 : (logMode s).can1 = s.can1 := report_can1 _ _
@[simp] theorem logMode_voe : (logMode s).voe = s.voe := report_voe _ _
@[simp] theorem logMode_eng : (logMode s).eng = s.eng := report_eng _ _
@[simp] theorem logMode_pke : (logMode s).pke = s.pke := report_pke _ _
@[simp] theorem logMode_rng : (logMode s).rng = s.rng := report_rng _ _
@[simp] theorem logMode_hif : (logMode s).hif = s.hif := report_hif _ _
@[simp] theorem logMode_spi0 : (logMode s).spi0 = s.spi0 := report_spi0 _ _
@[simp] theorem logMode_spi1 : (logMode s).spi1 = s.spi1 := report_spi1 _ _
@[simp] theorem logMode_flash : (logMode s).flash = s.flash := report_flash _ _
@[simp] theorem logMode_tmp : (logMode s).tmp = s.tmp := report_tmp _ _
@[simp] theorem logMode_snf : (logMode s).snf = s.snf := report_snf _ _
@[simp] theorem logMode_upd : (logMode s).upd = s.upd := report_upd _ _
@[simp] theorem logMode_flt : (logMode s).flt = s.flt := report_flt _ _
@[simp] theorem logMode_cores : (logMode s).cores = s.cores := report_cores _ _
@[simp] theorem logMode_sram : (logMode s).sram = s.sram := report_sram _ _
@[simp] theorem logMode_free : (logMode s).free = s.free := report_free _ _
@[simp] theorem logMode_pending : (logMode s).pending = s.pending := report_pending _ _
end

end Sys2Proof.Machine
end

