-- ==== Sys2Proof/Laws/Parts.lean ====
section
/-! SUPPORT. Which parts of State the shared operations may change. -/
namespace Sys2Proof.Machine

/-! A second update of one part replaces the first. -/

section
variable (s : State)
@[simp] theorem State.setGlb_setGlb (a b) : (s.setGlb a).setGlb b = s.setGlb b := rfl
@[simp] theorem State.setMode_setMode (a b) : (s.setMode a).setMode b = s.setMode b := rfl
@[simp] theorem State.setClk_setClk (a b) : (s.setClk a).setClk b = s.setClk b := rfl
@[simp] theorem State.setFus_setFus (a b) : (s.setFus a).setFus b = s.setFus b := rfl
@[simp] theorem State.setCfg_setCfg (a b) : (s.setCfg a).setCfg b = s.setCfg b := rfl
@[simp] theorem State.setMpu_setMpu (a b) : (s.setMpu a).setMpu b = s.setMpu b := rfl
@[simp] theorem State.setFwl_setFwl (a b) : (s.setFwl a).setFwl b = s.setFwl b := rfl
@[simp] theorem State.setVlt_setVlt (a b) : (s.setVlt a).setVlt b = s.setVlt b := rfl
@[simp] theorem State.setCus_setCus (a b) : (s.setCus a).setCus b = s.setCus b := rfl
@[simp] theorem State.setCan0_setCan0 (a b) : (s.setCan0 a).setCan0 b = s.setCan0 b := rfl
@[simp] theorem State.setCan1_setCan1 (a b) : (s.setCan1 a).setCan1 b = s.setCan1 b := rfl
@[simp] theorem State.setVoe_setVoe (a b) : (s.setVoe a).setVoe b = s.setVoe b := rfl
@[simp] theorem State.setEng_setEng (a b) : (s.setEng a).setEng b = s.setEng b := rfl
@[simp] theorem State.setPke_setPke (a b) : (s.setPke a).setPke b = s.setPke b := rfl
@[simp] theorem State.setRng_setRng (a b) : (s.setRng a).setRng b = s.setRng b := rfl
@[simp] theorem State.setHif_setHif (a b) : (s.setHif a).setHif b = s.setHif b := rfl
@[simp] theorem State.setSpi0_setSpi0 (a b) : (s.setSpi0 a).setSpi0 b = s.setSpi0 b := rfl
@[simp] theorem State.setSpi1_setSpi1 (a b) : (s.setSpi1 a).setSpi1 b = s.setSpi1 b := rfl
@[simp] theorem State.setFlash_setFlash (a b) : (s.setFlash a).setFlash b = s.setFlash b := rfl
@[simp] theorem State.setTmp_setTmp (a b) : (s.setTmp a).setTmp b = s.setTmp b := rfl
@[simp] theorem State.setSnf_setSnf (a b) : (s.setSnf a).setSnf b = s.setSnf b := rfl
@[simp] theorem State.setEvr_setEvr (a b) : (s.setEvr a).setEvr b = s.setEvr b := rfl
@[simp] theorem State.setUpd_setUpd (a b) : (s.setUpd a).setUpd b = s.setUpd b := rfl
@[simp] theorem State.setFlt_setFlt (a b) : (s.setFlt a).setFlt b = s.setFlt b := rfl
@[simp] theorem State.setCores_setCores (a b) : (s.setCores a).setCores b = s.setCores b := rfl
@[simp] theorem State.setSram_setSram (a b) : (s.setSram a).setSram b = s.setSram b := rfl
@[simp] theorem State.setFree_setFree (a b) : (s.setFree a).setFree b = s.setFree b := rfl
@[simp] theorem State.setPending_setPending (a b) : (s.setPending a).setPending b = s.setPending b := rfl
end

theorem sameBut_refl (l : List Part) (s : State) : sameBut l s s := by
  refine ⟨rfl, fun p _ => ?_⟩
  cases p <;> first | rfl | exact ⟨rfl, rfl, rfl, rfl, rfl⟩

/-- Two steps that keep the same parts. -/
theorem sameBut_trans {l : List Part} {s t u : State} (h : sameBut l s t) (k : sameBut l t u) : sameBut l s u := by
  refine ⟨k.1.trans h.1, fun p hp => ?_⟩
  have x := h.2 p hp
  have y := k.2 p hp
  cases p <;> simp only [Part.same] at * <;> first
    | exact y.trans x
    | exact ⟨y.1.trans x.1, y.2.1.trans x.2.1, y.2.2.1.trans x.2.2.1, y.2.2.2.1.trans x.2.2.2.1, y.2.2.2.2.trans x.2.2.2.2⟩

/-- A longer list of parts that may differ. -/
theorem sameBut_mono {l m : List Part} {s t : State} (h : sameBut l s t) (k : ∀ p, p ∈ l → p ∈ m) : sameBut m s t :=
  ⟨h.1, fun p hp => h.2 p fun q => hp (k p q)⟩

/-- Every part of the first list stands in the second. -/
theorem partsIn_trans {a b m : List Part} (h : partsIn b m = true) (k : partsIn a b = true) : partsIn a m = true := by
  simp only [partsIn, List.all_eq_true, List.contains_iff_mem] at *
  exact fun p hp => h p (k p hp)

/-- A step of fewer parts after a step. -/
theorem sameBut_then {l m : List Part} {s t u : State} (h : sameBut l s t) (k : sameBut m t u) (e : partsIn m l = true) :
    sameBut l s u :=
  sameBut_trans h (sameBut_mono k (by simpa only [partsIn, List.all_eq_true, List.contains_iff_mem] using e))

section
variable (s : State) (e : Event)
@[simp] theorem report_calm : (report s e).glb.calm = s.glb.calm := by
  unfold report writeSec; repeat' (first | rfl | split)
@[simp] theorem logD_calm (b : Blk) (c : Nat) (a : Bytes) : (logD s b c a).glb.calm = s.glb.calm := report_calm _ _
@[simp] theorem logS_calm (b : Blk) (c : Nat) (a : Bytes) : (logS s b c a).glb.calm = s.glb.calm := report_calm _ _
@[simp] theorem logSD_calm (b : Blk) (c : Nat) (a : Bytes) : (logSD s b c a).glb.calm = s.glb.calm := report_calm _ _
@[simp] theorem logOther_calm (b : Blk) (a : Bytes) : (logOther s b a).glb.calm = s.glb.calm := report_calm _ _
@[simp] theorem logOtherS_calm (b : Blk) (a : Bytes) : (logOtherS s b a).glb.calm = s.glb.calm := report_calm _ _
@[simp] theorem logRefused_calm (a : Nat) : (logRefused s a).glb.calm = s.glb.calm := report_calm _ _
@[simp] theorem logMode_calm : (logMode s).glb.calm = s.glb.calm := report_calm _ _
@[simp] theorem irq_calm (k j : Nat) : (irq s k j).glb.calm = s.glb.calm := report_calm _ _
end

/-- An event only reaches the arbiter, or the recorder where the arbiter does not run (18 R426, R430). -/
theorem report_sameBut (s : State) (e : Event) : sameBut [.events, .evr] s (report s e) := by
  refine ⟨by simp, fun p hp => ?_⟩
  cases p <;> simp_all [Part.same]

/-- A refused access is counted, latched and logged, and nothing else. -/
theorem refuseAcc_sameBut (s : State) (a : Acc) (x y : Nat) : sameBut [.events, .evr, .mpu, .fwl] s (refuseAcc s a x y) := by
  have h : ∀ z : State, sameBut [.events, .evr, .mpu, .fwl] z (logAccess z a x y) := by
    intro z
    unfold logAccess
    split
    · exact sameBut_refl _ _
    · exact sameBut_trans (t := z.setMpu { z.mpu with logged := tput 0 z.mpu.logged a.init (z.glb.tick.toNat + 1) })
        ⟨rfl, fun p hp => by cases p <;> simp_all [Part.same]⟩ (sameBut_mono (report_sameBut _ _) (by simp_all))
  unfold refuseAcc
  dsimp only
  split
  · exact sameBut_trans (t := setMpuUnit s a.init { getMpu s a.init with
        faults := satInc 0xFFFF (getMpu s a.init).faults, fsyn := latchSyn (getMpu s a.init).fsyn (syndrome a x y),
        faddr := if bit (getMpu s a.init).fsyn 0 then (getMpu s a.init).faddr else wordOf a.addr })
      ⟨rfl, fun p hp => by cases p <;> simp_all [Part.same, setMpuUnit]⟩ (h _)
  · refine sameBut_trans ?_ (h _)
    exact ⟨rfl, fun p hp => by cases p <;> simp_all [Part.same]⟩

/-- A register write refused by its block (R13, R14): counted, latched and logged, and nothing else. -/
theorem refuseWrite_sameBut (s : State) (a x : Nat) : sameBut [.events, .evr, .mpu, .fwl] s (refuseWrite s a x) :=
  sameBut_trans (refuseAcc_sameBut _ _ _ _) (sameBut_mono (report_sameBut _ _) (by simp_all))

/-- A cause of ALARM_N asserted. -/
theorem alarmSet_sameBut (s : State) (a : Alarm) : sameBut [.events, .evr, .tmp] s (alarmSet s a) := by
  unfold alarmSet withAlarm
  dsimp only
  split
  · exact sameBut_refl _ _
  · split
    · exact ⟨rfl, fun p hp => by cases p <;> simp_all [Part.same]⟩
    · split <;> exact ⟨by simp, fun p hp => by cases p <;> simp_all [Part.same]⟩

/-- A cause of ALARM_N released. -/
theorem alarmClear_sameBut (s : State) (a : Alarm) : sameBut [.events, .evr, .tmp] s (alarmClear s a) := by
  unfold alarmClear withAlarm
  dsimp only
  split
  · exact ⟨rfl, fun p hp => by cases p <;> simp_all [Part.same]⟩
  · split <;> exact ⟨by simp, fun p hp => by cases p <;> simp_all [Part.same]⟩

/-- A mode transition writes the mode and its cause, and leaves an event. -/
theorem toMode_sameBut (s : State) (m : Mode) (k : Nat) : sameBut [.events, .evr, .mode] s (toMode s m k) := by
  unfold toMode
  exact ⟨by simp, fun p hp => by cases p <;> simp_all [Part.same]⟩

@[simp] theorem toMode_mode (s : State) (m : Mode) (k : Nat) : (toMode s m k).mode =
    { s.mode with mode := m, cause := k, causeFrom := modeCode s.mode.mode, causeTo := modeCode m, causeTick := s.glb.tick } := by
  simp [toMode]

/-- The causes of ALARM_N after one was asserted. -/
theorem alarmSet_alarm (s : State) (a : Alarm) : a.num ∈ (alarmSet s a).tmp.alarm := by
  unfold alarmSet withAlarm
  dsimp only
  split
  · simp_all
  · repeat' split
    all_goals simp

end Sys2Proof.Machine
end

