-- ==== Sys2Proof/Laws/SameBase.lean ====
section
/-! SUPPORT. Which parts of State the setters, the folds and the answers may change. -/
namespace Sys2Proof.Machine

section
variable {l : List Part} {z s : State}
theorem sb_blkMode {v : ModeSt} (h : sameBut l z s) (hl : partsIn [.mode] l = true) : sameBut l z (s.setMode v) :=
  sameBut_then h ⟨rfl, fun p hp => by cases p <;> simp_all [Part.same]⟩ hl
theorem sb_blkClk {v : Clk} (h : sameBut l z s) (hl : partsIn [.clk] l = true) : sameBut l z (s.setClk v) :=
  sameBut_then h ⟨rfl, fun p hp => by cases p <;> simp_all [Part.same]⟩ hl
theorem sb_blkFus {v : Fus} (h : sameBut l z s) (hl : partsIn [.fus] l = true) : sameBut l z (s.setFus v) :=
  sameBut_then h ⟨rfl, fun p hp => by cases p <;> simp_all [Part.same]⟩ hl
theorem sb_blkCfg {v : Cfg} (h : sameBut l z s) (hl : partsIn [.cfg] l = true) : sameBut l z (s.setCfg v) :=
  sameBut_then h ⟨rfl, fun p hp => by cases p <;> simp_all [Part.same]⟩ hl
theorem sb_blkMpu {v : MpuSt} (h : sameBut l z s) (hl : partsIn [.mpu] l = true) : sameBut l z (s.setMpu v) :=
  sameBut_then h ⟨rfl, fun p hp => by cases p <;> simp_all [Part.same]⟩ hl
theorem sb_blkFwl {v : Fwl} (h : sameBut l z s) (hl : partsIn [.fwl] l = true) : sameBut l z (s.setFwl v) :=
  sameBut_then h ⟨rfl, fun p hp => by cases p <;> simp_all [Part.same]⟩ hl
theorem sb_blkVlt {v : Vlt} (h : sameBut l z s) (hl : partsIn [.vlt] l = true) : sameBut l z (s.setVlt v) :=
  sameBut_then h ⟨rfl, fun p hp => by cases p <;> simp_all [Part.same]⟩ hl
theorem sb_blkCus {v : Cus} (h : sameBut l z s) (hl : partsIn [.cus] l = true) : sameBut l z (s.setCus v) :=
  sameBut_then h ⟨rfl, fun p hp => by cases p <;> simp_all [Part.same]⟩ hl
theorem sb_blkCan0 {v : CanCh} (h : sameBut l z s) (hl : partsIn [.can0] l = true) : sameBut l z (s.setCan0 v) :=
  sameBut_then h ⟨rfl, fun p hp => by cases p <;> simp_all [Part.same]⟩ hl
theorem sb_blkCan1 {v : CanCh} (h : sameBut l z s) (hl : partsIn [.can1] l = true) : sameBut l z (s.setCan1 v) :=
  sameBut_then h ⟨rfl, fun p hp => by cases p <;> simp_all [Part.same]⟩ hl
theorem sb_blkVoe {v : Voe} (h : sameBut l z s) (hl : partsIn [.voe] l = true) : sameBut l z (s.setVoe v) :=
  sameBut_then h ⟨rfl, fun p hp => by cases p <;> simp_all [Part.same]⟩ hl
theorem sb_blkEng {v : Eng} (h : sameBut l z s) (hl : partsIn [.eng] l = true) : sameBut l z (s.setEng v) :=
  sameBut_then h ⟨rfl, fun p hp => by cases p <;> simp_all [Part.same]⟩ hl
theorem sb_blkPke {v : Pke} (h : sameBut l z s) (hl : partsIn [.pke] l = true) : sameBut l z (s.setPke v) :=
  sameBut_then h ⟨rfl, fun p hp => by cases p <;> simp_all [Part.same]⟩ hl
theorem sb_blkRng {v : Rng} (h : sameBut l z s) (hl : partsIn [.rng] l = true) : sameBut l z (s.setRng v) :=
  sameBut_then h ⟨rfl, fun p hp => by cases p <;> simp_all [Part.same]⟩ hl
theorem sb_blkHif {v : Hif} (h : sameBut l z s) (hl : partsIn [.hif] l = true) : sameBut l z (s.setHif v) :=
  sameBut_then h ⟨rfl, fun p hp => by cases p <;> simp_all [Part.same]⟩ hl
theorem sb_blkSpi0 {v : Spi0} (h : sameBut l z s) (hl : partsIn [.spi0] l = true) : sameBut l z (s.setSpi0 v) :=
  sameBut_then h ⟨rfl, fun p hp => by cases p <;> simp_all [Part.same]⟩ hl
theorem sb_blkSpi1 {v : Spi1} (h : sameBut l z s) (hl : partsIn [.spi1] l = true) : sameBut l z (s.setSpi1 v) :=
  sameBut_then h ⟨rfl, fun p hp => by cases p <;> simp_all [Part.same]⟩ hl
theorem sb_blkFlash {v : Tab Byte} (h : sameBut l z s) (hl : partsIn [.flash] l = true) : sameBut l z (s.setFlash v) :=
  sameBut_then h ⟨rfl, fun p hp => by cases p <;> simp_all [Part.same]⟩ hl
theorem sb_blkTmp {v : Tmp} (h : sameBut l z s) (hl : partsIn [.tmp] l = true) : sameBut l z (s.setTmp v) :=
  sameBut_then h ⟨rfl, fun p hp => by cases p <;> simp_all [Part.same]⟩ hl
theorem sb_blkSnf {v : Snf} (h : sameBut l z s) (hl : partsIn [.snf] l = true) : sameBut l z (s.setSnf v) :=
  sameBut_then h ⟨rfl, fun p hp => by cases p <;> simp_all [Part.same]⟩ hl
theorem sb_blkEvr {v : Evr} (h : sameBut l z s) (hl : partsIn [.evr] l = true) : sameBut l z (s.setEvr v) :=
  sameBut_then h ⟨rfl, fun p hp => by cases p <;> simp_all [Part.same]⟩ hl
theorem sb_blkUpd {v : Upd} (h : sameBut l z s) (hl : partsIn [.upd] l = true) : sameBut l z (s.setUpd v) :=
  sameBut_then h ⟨rfl, fun p hp => by cases p <;> simp_all [Part.same]⟩ hl
theorem sb_blkFlt {v : Flt} (h : sameBut l z s) (hl : partsIn [.flt] l = true) : sameBut l z (s.setFlt v) :=
  sameBut_then h ⟨rfl, fun p hp => by cases p <;> simp_all [Part.same]⟩ hl
theorem sb_blkCores {v : Cores} (h : sameBut l z s) (hl : partsIn [.cores] l = true) : sameBut l z (s.setCores v) :=
  sameBut_then h ⟨rfl, fun p hp => by cases p <;> simp_all [Part.same]⟩ hl
theorem sb_blkSram {v : Tab Byte} (h : sameBut l z s) (hl : partsIn [.sram] l = true) : sameBut l z (s.setSram v) :=
  sameBut_then h ⟨rfl, fun p hp => by cases p <;> simp_all [Part.same]⟩ hl
theorem sb_blkFree {v : Nat} (h : sameBut l z s) (hl : partsIn [.free] l = true) : sameBut l z (s.setFree v) :=
  sameBut_then h ⟨rfl, fun p hp => by cases p <;> simp_all [Part.same]⟩ hl

theorem sb_blkGlb {v : Glb} (h : sameBut l z s) (hq : v.queue = s.glb.queue ∧ v.heldRep = s.glb.heldRep ∧ v.arbDrop = s.glb.arbDrop ∧ v.lost = s.glb.lost ∧ v.lostRst = s.glb.lostRst) (hl : partsIn [.glb] l = true) : sameBut l z (s.setGlb v) :=
  sameBut_then h ⟨rfl, fun p hp => by cases p <;> simp_all [Part.same]⟩ hl
theorem sb_blkEv {v : Glb} (h : sameBut l z s) (hc : v.calm = s.glb.calm) (hl : partsIn [.events] l = true) : sameBut l z (s.setGlb v) :=
  sameBut_then h ⟨rfl, fun p hp => by cases p <;> simp_all [Part.same]⟩ hl
theorem sb_blkGlbE {v : Glb} (h : sameBut l z s) (hl : partsIn [.events, .glb] l = true) : sameBut l z (s.setGlb v) :=
  sameBut_then h ⟨rfl, fun p hp => by cases p <;> simp_all [Part.same]⟩ hl

theorem sb_foldl {α : Type} {x : List α} {f : State → α → State}
    (hf : ∀ s a, sameBut l z s → sameBut l z (f s a)) (h : sameBut l z s) : sameBut l z (x.foldl f s) := by
  induction x generalizing s with
  | nil => exact h
  | cons a x ih => exact ih (hf s a h)

theorem sb_ite {c : Prop} [Decidable c] {t : State} (h1 : c → sameBut l z s) (h2 : ¬c → sameBut l z t) :
    sameBut l z (if c then s else t) := by
  split
  · exact h1 ‹_›
  · exact h2 ‹_›
end

/-- An answer of a host command changes only the listed parts, also in what follows its completion. -/
structure AnsParts (l : List Part) (z : State) (a : Ans) : Prop where
  st : sameBut l z a.st
  after : ∀ s, sameBut l z s → sameBut l z (a.after s)

variable {l : List Part}

theorem sb_id {z s : State} (h : sameBut l z s) : sameBut l z (id s) := h

theorem ansSb_mk {z s : State} {st : Nat} {dt : Half} {r : DWord} {v : Bool} {o : Bytes} {w : Option WaitTag}
    {f : State → State} (h : sameBut l z s) (hf : ∀ t, sameBut l z t → sameBut l z (f t)) :
    AnsParts l z ⟨s, st, dt, r, v, o, w, f⟩ := ⟨h, hf⟩

/-- An optional state changes them where there is one. -/
structure OptParts (l : List Part) (z : State) (o : Option State) : Prop where
  of : ∀ t, o = some t → sameBut l z t

theorem optSb_some {z t : State} (h : sameBut l z t) : OptParts l z (some t) := ⟨fun u e => by cases e; exact h⟩

theorem optSb_none {z : State} : OptParts l z none := ⟨fun _ e => by cases e⟩

theorem optSb_getD {z s : State} {o : Option State} (h : OptParts l z o) (hs : sameBut l z s) : sameBut l z (o.getD s) := by
  cases o with
  | none => exact hs
  | some t => exact h.of t rfl

theorem optSb_ite {z : State} {c : Prop} [Decidable c] {a b : Option State}
    (h1 : c → OptParts l z a) (h2 : ¬c → OptParts l z b) : OptParts l z (if c then a else b) := by
  split
  · exact h1 ‹_›
  · exact h2 ‹_›

/-- A register write changes them where it takes effect. -/
structure WrParts (l : List Part) (z : State) (r : WrRes) : Prop where
  ok : ∀ t, r = .ok t → sameBut l z t

/-- A command changes them where it goes on. -/
structure OutParts (l : List Part) (z : State) (o : Host.Outcome State Fault Refusal) : Prop where
  next : ∀ t, o = .next t → sameBut l z t

theorem outSb_next {z t : State} (h : sameBut l z t) : OutParts l z (.next t) := ⟨fun u e => by cases e; exact h⟩

theorem outSb_ite {z : State} {c : Prop} [Decidable c] {a b : Host.Outcome State Fault Refusal}
    (h1 : c → OutParts l z a) (h2 : ¬c → OutParts l z b) : OutParts l z (if c then a else b) := by
  split
  · exact h1 ‹_›
  · exact h2 ‹_›

theorem wrSb_ok {z t : State} (h : sameBut l z t) : WrParts l z (.ok t) := ⟨fun u e => by cases e; exact h⟩

theorem wrSb_bad {z : State} {n : Nat} : WrParts l z (.bad n) := ⟨fun _ e => by cases e⟩

theorem wrSb_ite {z : State} {c : Prop} [Decidable c] {a b : WrRes}
    (h1 : c → WrParts l z a) (h2 : ¬c → WrParts l z b) : WrParts l z (if c then a else b) := by
  split
  · exact h1 ‹_›
  · exact h2 ‹_›

theorem ansSb_ite {z : State} {c : Prop} [Decidable c] {a b : Ans}
    (h1 : c → AnsParts l z a) (h2 : ¬c → AnsParts l z b) : AnsParts l z (if c then a else b) := by
  split
  · exact h1 ‹_›
  · exact h2 ‹_›

end Sys2Proof.Machine
end

