-- ==== Sys2Proof/Laws/SameEngines.lean ====
section
/-! SUPPORT. Which parts of State each operation may change: Engines. -/
namespace Sys2Proof.Machine

/-! ### Machine/Ops.lean -/

theorem sb_writeSec {pl : List Part} {z : State} {s : State} {bsec : Bool} {x : Entry} (hk : sameBut pl z s) (hl : partsIn [.events, .evr] pl = true) :
    sameBut pl z (writeSec s bsec x) := by
  unfold writeSec
  try dsimp only
  repeat' first | (with_reducible first | assumption | rfl | intro _ | apply sb_blkEvr | apply sb_ite) | refine sb_blkGlb ?_ ⟨rfl, rfl, rfl, rfl, rfl⟩ ?_ | refine sb_blkEv ?_ rfl ?_ | apply sb_blkGlbE | exact partsIn_trans hl rfl | split

theorem sb_writeDiag {pl : List Part} {z : State} {s : State} {x : Entry} (hk : sameBut pl z s) (hl : partsIn [.events, .evr] pl = true) :
    sameBut pl z (writeDiag s x) := by
  unfold writeDiag
  try dsimp only
  repeat' first | (with_reducible first | assumption | rfl | intro _ | apply sb_blkEvr | apply sb_ite) | refine sb_blkGlb ?_ ⟨rfl, rfl, rfl, rfl, rfl⟩ ?_ | refine sb_blkEv ?_ rfl ?_ | apply sb_blkGlbE | exact partsIn_trans hl rfl | split

theorem sb_report {pl : List Part} {z : State} {s : State} {e : Event} (hk : sameBut pl z s) (hl : partsIn [.events, .evr] pl = true) :
    sameBut pl z (report s e) := by
  unfold report
  repeat' first | (with_reducible first | assumption | rfl | intro _ | apply sb_writeSec | apply sb_ite) | refine sb_blkGlb ?_ ⟨rfl, rfl, rfl, rfl, rfl⟩ ?_ | refine sb_blkEv ?_ rfl ?_ | apply sb_blkGlbE | exact partsIn_trans hl rfl | split

theorem sb_logD {pl : List Part} {z : State} {s : State} {b : Blk} {code : Nat} {arg : Bytes} (hk : sameBut pl z s) (hl : partsIn [.events, .evr] pl = true) :
    sameBut pl z (logD s b code arg) := by
  unfold logD
  repeat' first | (with_reducible first | assumption | rfl | intro _ | apply sb_report) | exact partsIn_trans hl rfl | split

theorem sb_logS {pl : List Part} {z : State} {s : State} {b : Blk} {code : Nat} {arg : Bytes} (hk : sameBut pl z s) (hl : partsIn [.events, .evr] pl = true) :
    sameBut pl z (logS s b code arg) := by
  unfold logS
  repeat' first | (with_reducible first | assumption | rfl | intro _ | apply sb_report) | exact partsIn_trans hl rfl | split

theorem sb_logSD {pl : List Part} {z : State} {s : State} {b : Blk} {code : Nat} {arg : Bytes} (hk : sameBut pl z s) (hl : partsIn [.events, .evr] pl = true) :
    sameBut pl z (logSD s b code arg) := by
  unfold logSD
  repeat' first | (with_reducible first | assumption | rfl | intro _ | apply sb_report) | exact partsIn_trans hl rfl | split

theorem sb_logDW {pl : List Part} {z : State} {s : State} {b : Blk} {code who : Nat} {arg : Bytes} (hk : sameBut pl z s) (hl : partsIn [.events, .evr] pl = true) :
    sameBut pl z (logDW s b code who arg) := by
  unfold logDW
  repeat' first | (with_reducible first | assumption | rfl | intro _ | apply sb_report | apply sb_ite) | exact partsIn_trans hl rfl | split

theorem sb_logSW {pl : List Part} {z : State} {s : State} {b : Blk} {code who : Nat} {arg : Bytes} (hk : sameBut pl z s) (hl : partsIn [.events, .evr] pl = true) :
    sameBut pl z (logSW s b code who arg) := by
  unfold logSW
  repeat' first | (with_reducible first | assumption | rfl | intro _ | apply sb_report | apply sb_ite) | exact partsIn_trans hl rfl | split

theorem sb_irq {pl : List Part} {z : State} {s : State} {fn vec : Nat} (hk : sameBut pl z s) (hl : partsIn [.events, .evr] pl = true) :
    sameBut pl z (irq s fn vec) := by
  unfold irq
  repeat' first | (with_reducible first | assumption | rfl | intro _ | apply sb_report) | exact partsIn_trans hl rfl | split

theorem sb_logRefused {pl : List Part} {z : State} {s : State} {addr : Nat} (hk : sameBut pl z s) (hl : partsIn [.events, .evr] pl = true) :
    sameBut pl z (logRefused s addr) := by
  unfold logRefused
  repeat' first | (with_reducible first | assumption | rfl | intro _ | apply sb_logD) | exact partsIn_trans hl rfl | split

theorem sb_logOther {pl : List Part} {z : State} {s : State} {b : Blk} {arg : Bytes} (hk : sameBut pl z s) (hl : partsIn [.events, .evr] pl = true) :
    sameBut pl z (logOther s b arg) := by
  unfold logOther
  repeat' first | (with_reducible first | assumption | rfl | intro _ | apply sb_logD) | exact partsIn_trans hl rfl | split

theorem sb_logOtherS {pl : List Part} {z : State} {s : State} {b : Blk} {arg : Bytes} (hk : sameBut pl z s) (hl : partsIn [.events, .evr] pl = true) :
    sameBut pl z (logOtherS s b arg) := by
  unfold logOtherS
  repeat' first | (with_reducible first | assumption | rfl | intro _ | apply sb_logS) | exact partsIn_trans hl rfl | split

theorem sb_withAlarm {pl : List Part} {z : State} {s : State} {t : Tmp} (hk : sameBut pl z s) (hl : partsIn [.events, .tmp, .evr] pl = true) :
    sameBut pl z (withAlarm s t) := by
  unfold withAlarm
  dsimp only
  repeat' first | (with_reducible first | assumption | rfl | intro _ | apply sb_blkTmp | apply sb_report | apply sb_irq | apply sb_ite) | exact partsIn_trans hl rfl | split

theorem sb_alarmSet {pl : List Part} {z : State} {s : State} {a : Alarm} (hk : sameBut pl z s) (hl : partsIn [.events, .tmp, .evr] pl = true) :
    sameBut pl z (alarmSet s a) := by
  unfold alarmSet
  repeat' first | (with_reducible first | assumption | rfl | intro _ | apply sb_withAlarm | apply sb_ite) | exact partsIn_trans hl rfl | split

theorem sb_alarmClear {pl : List Part} {z : State} {s : State} {a : Alarm} (hk : sameBut pl z s) (hl : partsIn [.events, .tmp, .evr] pl = true) :
    sameBut pl z (alarmClear s a) := by
  unfold alarmClear
  repeat' first | (with_reducible first | assumption | rfl | intro _ | apply sb_withAlarm) | exact partsIn_trans hl rfl | split

theorem sb_logMode {pl : List Part} {z : State} {s : State} (hk : sameBut pl z s) (hl : partsIn [.events, .evr] pl = true) :
    sameBut pl z (logMode s) := by
  unfold logMode
  repeat' first | (with_reducible first | assumption | rfl | intro _ | apply sb_logD) | exact partsIn_trans hl rfl | split

theorem sb_toMode {pl : List Part} {z : State} {s : State} {m : Mode} {cause : Nat} (hk : sameBut pl z s) (hl : partsIn [.events, .mode, .evr] pl = true) :
    sameBut pl z (toMode s m cause) := by
  unfold toMode
  repeat' first | (with_reducible first | assumption | rfl | intro _ | apply sb_blkMode | apply sb_logMode) | exact partsIn_trans hl rfl | split

theorem sb_announce {pl : List Part} {z : State} {s : State} {cause len : Nat} {start : Word} (hk : sameBut pl z s) (hl : partsIn [.events, .mode, .evr] pl = true) :
    sameBut pl z (announce s cause len start) := by
  unfold announce
  repeat' first | (with_reducible first | assumption | rfl | intro _ | apply sb_blkMode | apply sb_irq | apply sb_logMode) | exact partsIn_trans hl rfl | split

theorem sb_annClear {pl : List Part} {z : State} {s : State} (hk : sameBut pl z s) (hl : partsIn [.events, .mode, .evr] pl = true) :
    sameBut pl z (annClear s) := by
  unfold annClear
  repeat' first | (with_reducible first | assumption | rfl | intro _ | apply sb_blkMode | apply sb_logMode) | exact partsIn_trans hl rfl | split

theorem sb_setCore {pl : List Part} {z : State} {s : State} {c : Nat} {x : Core} (hk : sameBut pl z s) (hl : partsIn [.cores] pl = true) :
    sameBut pl z (setCore s c x) := by
  unfold setCore
  repeat' first | (with_reducible first | assumption | rfl | intro _ | apply sb_blkCores) | exact partsIn_trans hl rfl | split

theorem sb_sramWrite {pl : List Part} {z : State} {s : State} {k : Nat} {b : Bytes} (hk : sameBut pl z s) (hl : partsIn [.sram] pl = true) :
    sameBut pl z (sramWrite s k b) := by
  unfold sramWrite
  repeat' first | (with_reducible first | assumption | rfl | intro _ | apply sb_blkSram | apply twf_tputN | apply twf_tclear | apply twf_tput) | exact partsIn_trans hl rfl | split

theorem sb_flashProgram {pl : List Part} {z : State} {s : State} {sel k : Nat} {b : Bytes} (hk : sameBut pl z s) (hl : partsIn [.flash] pl = true) :
    sameBut pl z (flashProgram s sel k b) := by
  unfold flashProgram
  repeat' first | (with_reducible first | assumption | rfl | intro _ | apply sb_blkFlash | apply twf_tputN | apply twf_tclear | apply twf_tput) | exact partsIn_trans hl rfl | split

theorem sb_flashErase {pl : List Part} {z : State} {s : State} {sel k n : Nat} (hk : sameBut pl z s) (hl : partsIn [.flash] pl = true) :
    sameBut pl z (flashErase s sel k n) := by
  unfold flashErase
  repeat' first | (with_reducible first | assumption | rfl | intro _ | apply sb_blkFlash | apply twf_tputN | apply twf_tclear | apply twf_tput) | exact partsIn_trans hl rfl | split

theorem sb_freeBytes {pl : List Part} {z : State} {s : State} {n : Nat} (hk : sameBut pl z s)  {a : Bytes} {t : State} (e : freeBytes s n = (a, t)) (hl : partsIn [.free] pl = true) :
    sameBut pl z t := by
  unfold freeBytes at e
  try dsimp only at e
  repeat' split at e
  all_goals cases e
  all_goals repeat' first | (with_reducible first | assumption | rfl | intro _ | apply sb_blkFree) | exact partsIn_trans hl rfl | split

theorem sb_freeBytes_p {pl : List Part} {z : State} {s : State} {n : Nat} (hk : sameBut pl z s) (hl : partsIn [.free] pl = true) : sameBut pl z (freeBytes s n).2 := sb_freeBytes hk (Prod.eta _).symm hl

theorem sb_housekeep {pl : List Part} {z : State} {s : State} (hk : sameBut pl z s) (hl : partsIn [.eng] pl = true) :
    sameBut pl z (housekeep s) := by
  unfold housekeep
  repeat' first | (with_reducible first | assumption | rfl | intro _ | apply sb_blkEng | apply sb_ite) | exact partsIn_trans hl rfl | split

theorem sb_onRng {pl : List Part} {z : State} {s : State} {f : Rng → Rng} (hk : sameBut pl z s) (hl : partsIn [.rng] pl = true) :
    sameBut pl z (onRng s f) := by
  unfold onRng
  repeat' first | (with_reducible first | assumption | rfl | intro _ | apply sb_blkRng) | exact partsIn_trans hl rfl | split

/-! ### Machine/Rings.lean -/

theorem sb_setRing {pl : List Part} {z : State} {s : State} {k : Nat} {r : Ring} (hk : sameBut pl z s) (hl : partsIn [.hif] pl = true) :
    sameBut pl z (setRing s k r) := by
  unfold setRing
  repeat' first | (with_reducible first | assumption | rfl | intro _ | apply sb_blkHif) | exact partsIn_trans hl rfl | split

theorem sb_setFn {pl : List Part} {z : State} {s : State} {f : Nat} {x : Fn} (hk : sameBut pl z s) (hl : partsIn [.hif] pl = true) :
    sameBut pl z (setFn s f x) := by
  unfold setFn
  repeat' first | (with_reducible first | assumption | rfl | intro _ | apply sb_blkHif) | exact partsIn_trans hl rfl | split

theorem sb_emitOut {pl : List Part} {z : State} {s : State} {w : OutWrite} (hk : sameBut pl z s) (hl : partsIn [.hif] pl = true) :
    sameBut pl z (emitOut s w) := by
  unfold emitOut
  repeat' first | (with_reducible first | assumption | rfl | intro _ | apply sb_blkHif) | exact partsIn_trans hl rfl | split

theorem sb_writeCpl {pl : List Part} {z : State} {s : State} {k : Nat} {c : Cpl} {b : Bytes} (hk : sameBut pl z s) (hl : partsIn [.events, .hif, .evr] pl = true) :
    sameBut pl z (writeCpl s k c b) := by
  unfold writeCpl
  dsimp only
  repeat' first | (with_reducible first | assumption | rfl | intro _ | apply sb_irq | apply sb_setRing | apply sb_emitOut | apply sb_ite) | exact partsIn_trans hl rfl | split

theorem sb_fltCount {pl : List Part} {z : State} {s : State} {who rule act : Nat} (hk : sameBut pl z s) (hl : partsIn [.events, .evr, .flt] pl = true) :
    sameBut pl z (fltCount s who rule act) := by
  unfold fltCount
  repeat' first | (with_reducible first | assumption | rfl | intro _ | apply sb_blkFlt | apply sb_logDW | apply sb_ite) | exact partsIn_trans hl rfl | split

theorem sb_holdCpl {pl : List Part} {z : State} {s : State} {k : Nat} {c : Cpl} (hk : sameBut pl z s) (hl : partsIn [.events, .hif, .evr] pl = true) :
    sameBut pl z (holdCpl s k c) := by
  unfold holdCpl
  try dsimp only
  repeat' first | (with_reducible first | assumption | rfl | intro _ | apply sb_setRing | apply sb_logDW | apply sb_ite) | exact partsIn_trans hl rfl | split

theorem sb_writeBack {pl : List Part} {z : State} {k : Nat} {s : State} {c : Cpl} (hk : sameBut pl z s) (hl : partsIn [.events, .hif, .evr] pl = true) :
    sameBut pl z (writeBack k s c) := by
  unfold writeBack
  try dsimp only
  repeat' first | (with_reducible first | assumption | rfl | intro _ | apply sb_writeCpl | apply sb_holdCpl | apply sb_ite) | exact partsIn_trans hl rfl | split

theorem sb_flushReorder {pl : List Part} {z : State} {s : State} {k : Nat} (hk : sameBut pl z s) (hl : partsIn [.events, .hif, .evr] pl = true) :
    sameBut pl z (flushReorder s k) := by
  unfold flushReorder
  try dsimp only
  repeat' first | (with_reducible first | assumption | rfl | intro _ | apply sb_blkHif | apply sb_writeBack | apply sb_foldl | apply sb_ite) | exact partsIn_trans hl rfl | split

theorem sb_emitCpl {pl : List Part} {z : State} {s : State} {k : Nat} {c : Cpl} (hk : sameBut pl z s) (hl : partsIn [.events, .hif, .evr, .flt] pl = true) :
    sameBut pl z (emitCpl s k c) := by
  unfold emitCpl
  try dsimp only
  repeat' first | (with_reducible first | assumption | rfl | intro _ | apply sb_blkFlt | apply sb_blkHif | apply sb_fltCount | apply sb_flushReorder | apply sb_writeCpl | apply sb_ite) | exact partsIn_trans hl rfl | split

theorem sb_deliverCpl {pl : List Part} {z : State} {s : State} {k : Nat} {c : Cpl} (hk : sameBut pl z s) (hl : partsIn [.events, .hif, .evr, .flt] pl = true) :
    sameBut pl z (deliverCpl s k c) := by
  unfold deliverCpl
  try dsimp only
  repeat' first | (with_reducible first | assumption | rfl | intro _ | apply sb_emitCpl | apply sb_holdCpl | apply sb_ite) | exact partsIn_trans hl rfl | split

theorem sb_countOk {pl : List Part} {z : State} {s : State} {k : Nat} {c : Cpl} {len : Nat} (hk : sameBut pl z s) (hl : partsIn [.hif] pl = true) :
    sameBut pl z (countOk s k c len) := by
  unfold countOk
  dsimp only
  repeat' first | (with_reducible first | assumption | rfl | intro _ | apply sb_setFn | apply sb_ite) | exact partsIn_trans hl rfl | split

theorem sb_formCpl {pl : List Part} {z : State} {s : State} {k : Nat} {hash : Bytes} {dups : List (Half × Bool)} {mute : Bool} {c : Cpl} (hk : sameBut pl z s) (hl : partsIn [.events, .hif, .evr, .flt] pl = true) :
    sameBut pl z (formCpl s k hash dups mute c) := by
  unfold formCpl
  dsimp only
  repeat' first | (with_reducible first | assumption | rfl | intro _ | apply sb_setRing | apply sb_deliverCpl | apply sb_foldl | apply sb_ite) | exact partsIn_trans hl rfl | split

theorem sb_formUnstored {pl : List Part} {z : State} {s : State} {k : Nat} {c : Cpl} (hk : sameBut pl z s) (hl : partsIn [.events, .hif, .evr, .flt] pl = true) :
    sameBut pl z (formUnstored s k c) := by
  unfold formUnstored
  repeat' first | (with_reducible first | assumption | rfl | intro _ | apply sb_deliverCpl) | exact partsIn_trans hl rfl | split

theorem sb_drainHeld {pl : List Part} {z : State} {s : State} {k n : Nat} (h : sameBut pl z s) (hl : partsIn [.events, .hif, .evr, .flt] pl = true) : sameBut pl z (drainHeld s k n) := by
  induction n generalizing s with
  | zero => exact h
  | succ n ih =>
    unfold drainHeld
    dsimp only
    split
    · exact h
    · split
      · exact ih (sb_emitCpl (sb_setRing h (partsIn_trans hl rfl)) (partsIn_trans hl rfl))
      · exact h

theorem sb_ringStop {pl : List Part} {z : State} {s : State} {k err : Nat} (hk : sameBut pl z s) (hl : partsIn [.events, .hif, .evr] pl = true) :
    sameBut pl z (ringStop s k err) := by
  unfold ringStop
  dsimp only
  repeat' first | (with_reducible first | assumption | rfl | intro _ | apply sb_irq | apply sb_setRing) | exact partsIn_trans hl rfl | split

/-! ### Machine/Vault.lean -/

theorem sb_putSlot {pl : List Part} {z : State} {s : State} {n : Nat} {x : Slot} (hk : sameBut pl z s) (hl : partsIn [.vlt] pl = true) :
    sameBut pl z (putSlot s n x) := by
  unfold putSlot
  repeat' first | (with_reducible first | assumption | rfl | intro _ | apply sb_blkVlt) | exact partsIn_trans hl rfl | split

theorem sb_reseal {pl : List Part} {z : State} {s : State} {n : Nat} {f : Slot → Slot} (hk : sameBut pl z s) (hl : partsIn [.vlt] pl = true) :
    sameBut pl z (reseal s n f) := by
  unfold reseal
  dsimp only
  repeat' first | (with_reducible first | assumption | rfl | intro _ | apply sb_putSlot) | exact partsIn_trans hl rfl | split

theorem sb_deriveAll {pl : List Part} {z : State} {s : State} (hk : sameBut pl z s) (hl : partsIn [.vlt] pl = true) :
    sameBut pl z (deriveAll s) := by
  unfold deriveAll
  dsimp only
  repeat' first | (with_reducible first | assumption | rfl | intro _ | apply sb_blkVlt | apply sb_foldl | apply sb_ite) | exact partsIn_trans hl rfl | split

theorem sb_cacheDrop {pl : List Part} {z : State} {s : State} {n : Nat} (hk : sameBut pl z s) (hl : partsIn [.vlt] pl = true) :
    sameBut pl z (cacheDrop s n) := by
  unfold cacheDrop
  repeat' first | (with_reducible first | assumption | rfl | intro _ | apply sb_blkVlt) | exact partsIn_trans hl rfl | split

theorem sb_cacheRoom {pl : List Part} {z : State} {s : State} (hk : sameBut pl z s) (hl : partsIn [.vlt] pl = true) :
    sameBut pl z (cacheRoom s) := by
  unfold cacheRoom
  repeat' first | (with_reducible first | assumption | rfl | intro _ | apply sb_blkVlt | apply sb_ite) | exact partsIn_trans hl rfl | split

theorem sb_cacheLoad {pl : List Part} {z : State} {s : State} {n : Nat} {x : Slot} (hk : sameBut pl z s) {a : CacheEnt} {t : State} (e : cacheLoad s n x = some (a, t)) (hl : partsIn [.vlt] pl = true) :
    sameBut pl z t := by
  unfold cacheLoad at e
  split at e
  · simp only [Option.some.injEq, Prod.mk.injEq] at e
    obtain ⟨_, rfl⟩ := e
    exact sb_blkVlt hk (partsIn_trans hl rfl)
  · split at e
    · simp at e
    · simp only [Option.some.injEq, Prod.mk.injEq] at e
      obtain ⟨_, rfl⟩ := e
      exact sb_blkVlt (sb_cacheRoom hk (partsIn_trans hl rfl)) (partsIn_trans hl rfl)

theorem sb_cacheSync {pl : List Part} {z : State} {s : State} {n : Nat} (hk : sameBut pl z s) (hl : partsIn [.vlt] pl = true) :
    sameBut pl z (cacheSync s n) := by
  unfold cacheSync
  repeat' first | (with_reducible first | assumption | rfl | intro _ | apply sb_blkVlt | apply sb_ite) | exact partsIn_trans hl rfl | split

theorem sb_slotUse_inl {pl : List Part} {z : State} {s : State} {n : Nat} {x : Slot} {a : Nat} {t : State} (hk : sameBut pl z s)
    (e : slotUse s n x = .inl (a, t)) (hl : partsIn [.events, .vlt, .evr] pl = true) : sameBut pl z t := by
  unfold slotUse at e
  repeat' split at e
  all_goals cases e
  all_goals first | exact hk | exact sb_logSW hk (partsIn_trans hl rfl)

theorem sb_slotUse_inr {pl : List Part} {z : State} {s : State} {n : Nat} {x : Slot} {a : Bytes} {t : State} (hk : sameBut pl z s)
    (e : slotUse s n x = .inr (a, t)) (hl : partsIn [.events, .vlt, .evr] pl = true) : sameBut pl z t := by
  unfold slotUse at e
  repeat' split at e
  all_goals cases e
  exact sb_cacheLoad hk (by assumption) (partsIn_trans hl rfl)

theorem sb_useKey_inl {pl : List Part} {z s t : State} {owner usage : Nat} {k : Word} {alg : Nat → Bool} {a : Nat} (h : sameBut pl z s)
    (e : useKey s owner k usage alg = .inl (a, t)) (hl : partsIn [.events, .vlt, .evr] pl = true) : sameBut pl z t := by
  unfold useKey at e
  repeat' split at e
  all_goals cases e
  all_goals first | exact h | exact sb_slotUse_inl h (by assumption) (partsIn_trans hl rfl)

theorem sb_useKey_inr {pl : List Part} {z s t : State} {owner usage : Nat} {k : Word} {alg : Nat → Bool} {x : Slot} {b : Bytes}
    (h : sameBut pl z s) (e : useKey s owner k usage alg = .inr (x, b, t)) (hl : partsIn [.events, .vlt, .evr] pl = true) : sameBut pl z t := by
  unfold useKey at e
  repeat' split at e
  all_goals cases e
  exact sb_slotUse_inr h (by assumption) (partsIn_trans hl rfl)

theorem sb_zeroize {pl : List Part} {z : State} {s : State} {n : Nat} (hk : sameBut pl z s) (hl : partsIn [.vlt] pl = true) :
    sameBut pl z (zeroize s n) := by
  unfold zeroize
  try dsimp only
  repeat' first | (with_reducible first | assumption | rfl | intro _ | apply sb_cacheDrop | apply sb_putSlot | apply sb_ite) | exact partsIn_trans hl rfl | split

theorem sb_assocCheck {pl : List Part} {z : State} {s : State} {a : Nat} (hk : sameBut pl z s) (hl : partsIn [.vlt] pl = true) :
    sameBut pl z (assocCheck s a) := by
  unfold assocCheck
  repeat' first | (with_reducible first | assumption | rfl | intro _ | apply sb_blkVlt | apply sb_ite) | exact partsIn_trans hl rfl | split

theorem sb_spareBack {pl : List Part} {z : State} {s : State} {n : Nat} (hk : sameBut pl z s) (hl : partsIn [.vlt] pl = true) :
    sameBut pl z (spareBack s n) := by
  unfold spareBack
  repeat' first | (with_reducible first | assumption | rfl | intro _ | apply sb_blkVlt) | exact partsIn_trans hl rfl | split

theorem sb_quarantine {pl : List Part} {z : State} {s : State} {n : Nat} (hk : sameBut pl z s) (hl : partsIn [.events, .vlt, .tmp, .evr] pl = true) :
    sameBut pl z (quarantine s n) := by
  unfold quarantine
  repeat' first | (with_reducible first | assumption | rfl | intro _ | apply sb_blkVlt | apply sb_logSW | apply sb_alarmSet | apply sb_ite) | exact partsIn_trans hl rfl | split

theorem sb_readback {pl : List Part} {z : State} {s : State} {n : Nat} {ok : Bool} (hk : sameBut pl z s) (hl : partsIn [.events, .vlt, .tmp, .evr] pl = true) :
    sameBut pl z (readback s n ok) := by
  unfold readback
  try dsimp only
  repeat' first | (with_reducible first | assumption | rfl | intro _ | apply sb_blkVlt | apply sb_putSlot | apply sb_assocCheck | apply sb_spareBack | apply sb_quarantine | apply sb_ite) | exact partsIn_trans hl rfl | split

theorem sb_pendKey {pl : List Part} {z : State} {s : State} {n owner usage alg assoc sn : Nat} {exp : Bool} {mat : Bytes} {op : KeyOp} (hk : sameBut pl z s) (hl : partsIn [.vlt] pl = true) :
    sameBut pl z (pendKey s n owner usage alg assoc sn exp mat op) := by
  unfold pendKey
  dsimp only
  repeat' first | (with_reducible first | assumption | rfl | intro _ | apply sb_blkVlt | apply sb_putSlot | apply sb_ite) | exact partsIn_trans hl rfl | split

theorem sb_dropKey {pl : List Part} {z : State} {s : State} {n : Nat} (hk : sameBut pl z s) (hl : partsIn [.vlt] pl = true) :
    sameBut pl z (dropKey s n) := by
  unfold dropKey
  try dsimp only
  repeat' first | (with_reducible first | assumption | rfl | intro _ | apply sb_blkVlt | apply sb_zeroize | apply sb_ite) | exact partsIn_trans hl rfl | split

theorem sb_stageKey {pl : List Part} {z : State} {s : State} {op : KeyOp} (hk : sameBut pl z s) (hl : partsIn [.vlt] pl = true) :
    sameBut pl z (stageKey s op) := by
  unfold stageKey
  try dsimp only
  repeat' first | (with_reducible first | assumption | rfl | intro _ | apply sb_blkVlt | apply sb_ite) | exact partsIn_trans hl rfl | (refine sb_cacheLoad ?_ (by with_reducible assumption) ?_) | split

theorem sb_armedLive {pl : List Part} {z : State} {s : State} {op : KeyOp} (hk : sameBut pl z s) (hl : partsIn [.vlt] pl = true) :
    sameBut pl z (armedLive s op) := by
  unfold armedLive
  try dsimp only
  repeat' first | (with_reducible first | assumption | rfl | intro _ | apply sb_blkVlt | apply sb_cacheSync | apply sb_reseal | apply sb_zeroize | apply sb_ite) | exact partsIn_trans hl rfl | (refine sb_cacheLoad ?_ (by with_reducible assumption) ?_) | split

theorem sb_keySwitch {pl : List Part} {z : State} {s : State} (hk : sameBut pl z s) (hl : partsIn [.vlt] pl = true) :
    sameBut pl z (keySwitch s) := by
  unfold keySwitch
  repeat' first | (with_reducible first | assumption | rfl | intro _ | apply sb_armedLive | apply sb_foldl) | exact partsIn_trans hl rfl | split

theorem sb_applyUnpins {pl : List Part} {z : State} {s : State} (hk : sameBut pl z s) (hl : partsIn [.vlt] pl = true) :
    sameBut pl z (applyUnpins s) := by
  unfold applyUnpins
  repeat' first | (with_reducible first | assumption | rfl | intro _ | apply sb_blkVlt | apply sb_ite) | exact partsIn_trans hl rfl | split

theorem sb_setSeason {pl : List Part} {z : State} {s : State} {x : Season} (hk : sameBut pl z s) (hl : partsIn [.vlt] pl = true) :
    sameBut pl z (setSeason s x) := by
  unfold setSeason
  repeat' first | (with_reducible first | assumption | rfl | intro _ | apply sb_blkVlt | apply sb_ite) | exact partsIn_trans hl rfl | split

theorem sb_rollRoles {pl : List Part} {z : State} {s : State} {a : Nat} (hk : sameBut pl z s) (hl : partsIn [.vlt] pl = true) :
    sameBut pl z (rollRoles s a) := by
  unfold rollRoles
  dsimp only
  repeat' first | (with_reducible first | assumption | rfl | intro _ | apply sb_cacheSync | apply sb_reseal) | exact partsIn_trans hl rfl | split

theorem sb_dropRetiring {pl : List Part} {z : State} {s : State} {a : Nat} (hk : sameBut pl z s) (hl : partsIn [.vlt] pl = true) :
    sameBut pl z (dropRetiring s a) := by
  unfold dropRetiring
  repeat' first | (with_reducible first | assumption | rfl | intro _ | apply sb_zeroize) | exact partsIn_trans hl rfl | split

theorem sb_execSeasonWindowOpen {pl : List Part} {z : State} {a : BitVec 12} {s : State} (hk : sameBut pl z s) (hl : partsIn [.vlt] pl = true) :
    OutParts pl z (execSeasonWindowOpen a s) := by
  unfold execSeasonWindowOpen
  repeat' first | (with_reducible first | assumption | rfl | intro _ | apply sb_setSeason | apply sb_ite | apply outSb_ite | apply outSb_next) | exact partsIn_trans hl rfl | split

theorem sb_execSeasonRollover {pl : List Part} {z : State} {a : BitVec 12} {s : State} (hk : sameBut pl z s) (hl : partsIn [.vlt] pl = true) :
    OutParts pl z (execSeasonRollover a s) := by
  unfold execSeasonRollover
  repeat' first | (with_reducible first | assumption | rfl | intro _ | apply sb_rollRoles | apply sb_setSeason | apply sb_ite | apply outSb_ite | apply outSb_next) | exact partsIn_trans hl rfl | split

theorem sb_execSeasonWindowEnd {pl : List Part} {z : State} {a : BitVec 12} {s : State} (hk : sameBut pl z s) (hl : partsIn [.vlt] pl = true) :
    OutParts pl z (execSeasonWindowEnd a s) := by
  unfold execSeasonWindowEnd
  dsimp only
  repeat' first | (with_reducible first | assumption | rfl | intro _ | apply sb_blkVlt | apply sb_dropRetiring | apply sb_ite | apply outSb_ite | apply outSb_next) | exact partsIn_trans hl rfl | split

theorem sb_execGenerateCommitExpiry {pl : List Part} {z : State} {n : Nat} {s : State} (hk : sameBut pl z s) (hl : partsIn [.vlt] pl = true) :
    OutParts pl z (execGenerateCommitExpiry n s) := by
  unfold execGenerateCommitExpiry
  repeat' first | (with_reducible first | assumption | rfl | intro _ | apply sb_dropKey | apply sb_ite | apply outSb_ite | apply outSb_next) | exact partsIn_trans hl rfl | split

theorem sb_wipeSlots {pl : List Part} {z : State} {bad : List Nat} {s : State} {f : Nat → Slot → Bool} (hk : sameBut pl z s) (hl : partsIn [.events, .vlt, .tmp, .evr] pl = true) :
    sameBut pl z (wipeSlots bad s f) := by
  unfold wipeSlots
  try dsimp only
  repeat' first | (with_reducible first | assumption | rfl | intro _ | apply sb_blkVlt | apply sb_quarantine | apply sb_foldl | apply sb_ite) | exact partsIn_trans hl rfl | split

theorem sb_seasonKindle {pl : List Part} {z : State} {s : State} (hk : sameBut pl z s) (hl : partsIn [.vlt] pl = true) :
    sameBut pl z (seasonKindle s) := by
  unfold seasonKindle
  dsimp only
  repeat' first | (with_reducible first | assumption | rfl | intro _ | apply sb_blkVlt | apply sb_rollRoles | apply sb_foldl | apply sb_ite) | exact partsIn_trans hl rfl | split

theorem sb_vaultKindle {pl : List Part} {z : State} {bad : List Nat} {s : State} (hk : sameBut pl z s) (hl : partsIn [.events, .vlt, .tmp, .evr] pl = true) :
    sameBut pl z (vaultKindle bad s) := by
  unfold vaultKindle
  try dsimp only
  repeat' first | (with_reducible first | assumption | rfl | intro _ | apply sb_blkVlt | apply sb_wipeSlots | apply sb_seasonKindle | apply sb_ite) | exact partsIn_trans hl rfl | split

theorem sb_zeroizeOwner {pl : List Part} {z : State} {s : State} {owner : Nat} (hk : sameBut pl z s) (hl : partsIn [.vlt] pl = true) :
    sameBut pl z (zeroizeOwner s owner) := by
  unfold zeroizeOwner
  dsimp only
  repeat' first | (with_reducible first | assumption | rfl | intro _ | apply sb_blkVlt | apply sb_zeroize | apply sb_foldl) | exact partsIn_trans hl rfl | split

/-! ### Machine/Desc.lean -/

theorem sb_refuseDesc {pl : List Part} {z : State} {s : State} {k : Nat} {slot : Half} {d : Bytes} {status : Nat} {mute : Bool} (hk : sameBut pl z s) (hl : partsIn [.events, .hif, .evr, .flt] pl = true) :
    sameBut pl z (refuseDesc s k slot d status mute) := by
  unfold refuseDesc
  repeat' first | (with_reducible first | assumption | rfl | intro _ | apply sb_formCpl) | exact partsIn_trans hl rfl | split

theorem sb_endRunning {pl : List Part} {z : State} {s : State} {k : Nat} {x : Staged} {c : Cpl} (hk : sameBut pl z s) (hl : partsIn [.events, .hif, .evr, .flt] pl = true) :
    sameBut pl z (endRunning s k x c) := by
  unfold endRunning
  dsimp only
  repeat' first | (with_reducible first | assumption | rfl | intro _ | apply sb_formCpl | apply sb_setRing | apply sb_countOk) | exact partsIn_trans hl rfl | split

theorem sb_attachDup {pl : List Part} {z : State} {s : State} {k : Nat} {slot : Half} {d : Bytes} (hk : sameBut pl z s) (hl : partsIn [.hif] pl = true) :
    sameBut pl z (attachDup s k slot d) := by
  unfold attachDup
  dsimp only
  repeat' first | (with_reducible first | assumption | rfl | intro _ | apply sb_setRing | apply sb_ite) | exact partsIn_trans hl rfl | split

theorem sb_endWait {pl : List Part} {z : State} {s : State} {w : Wait} {f : Cpl → Cpl} (hk : sameBut pl z s) (hl : partsIn [.events, .hif, .evr, .flt] pl = true) :
    sameBut pl z (endWait s w f) := by
  unfold endWait
  dsimp only
  repeat' first | (with_reducible first | assumption | rfl | intro _ | apply sb_blkHif | apply sb_endRunning | apply sb_ite) | exact partsIn_trans hl rfl | split

theorem sb_endWaits {pl : List Part} {z : State} {s : State} {t : WaitTag} {f : Cpl → Cpl} (hk : sameBut pl z s) (hl : partsIn [.events, .hif, .evr, .flt] pl = true) :
    sameBut pl z (endWaits s t f) := by
  unfold endWaits
  repeat' first | (with_reducible first | assumption | rfl | intro _ | apply sb_endWait | apply sb_foldl) | exact partsIn_trans hl rfl | split

/-! ### Machine/Trip.lean -/

theorem sb_issueReads {pl : List Part} {z : State} {s : State} (hk : sameBut pl z s) (hl : partsIn [.hif] pl = true) :
    sameBut pl z (issueReads s) := by
  unfold issueReads
  repeat' first | (with_reducible first | assumption | rfl | intro _ | apply sb_blkHif | apply sb_ite) | exact partsIn_trans hl rfl | split

theorem sb_admitOne {pl : List Part} {z : State} {s : State} {c : Cand} (hk : sameBut pl z s) (hl : partsIn [.glb, .hif] pl = true) :
    sameBut pl z (admitOne s c) := by
  unfold admitOne
  try dsimp only
  repeat' first | (with_reducible first | assumption | rfl | intro _ | apply sb_blkHif | apply sb_issueReads | apply sb_ite) | refine sb_blkGlb ?_ ⟨rfl, rfl, rfl, rfl, rfl⟩ ?_ | refine sb_blkEv ?_ rfl ?_ | apply sb_blkGlbE | exact partsIn_trans hl rfl | split

theorem sb_carry {pl : List Part} {z : State} {s : State} {c : Cand} (hk : sameBut pl z s) (hl : partsIn [.glb] pl = true) :
    sameBut pl z (carry s c) := by
  unfold carry
  repeat' first | (with_reducible first | assumption | rfl | intro _) | refine sb_blkGlb ?_ ⟨rfl, rfl, rfl, rfl, rfl⟩ ?_ | refine sb_blkEv ?_ rfl ?_ | apply sb_blkGlbE | exact partsIn_trans hl rfl | split

theorem sb_observe {pl : List Part} {z : State} {s : State} {c : Cand} (hk : sameBut pl z s) (hl : partsIn [.glb, .hif] pl = true) :
    sameBut pl z (observe s c) := by
  unfold observe
  repeat' first | (with_reducible first | assumption | rfl | intro _ | apply sb_carry | apply sb_admitOne | apply sb_ite) | exact partsIn_trans hl rfl | split

theorem sb_unsee {pl : List Part} {z : State} {s : State} (hk : sameBut pl z s) (hl : partsIn [.glb, .hif] pl = true) :
    sameBut pl z (unsee s) := by
  unfold unsee
  try dsimp only
  repeat' first | (with_reducible first | assumption | rfl | intro _ | apply sb_blkHif | apply sb_foldl | apply sb_ite) | refine sb_blkGlb ?_ ⟨rfl, rfl, rfl, rfl, rfl⟩ ?_ | refine sb_blkEv ?_ rfl ?_ | apply sb_blkGlbE | exact partsIn_trans hl rfl | split

theorem sb_observeAll {pl : List Part} {z : State} {s : State} {l : List Cand} (hk : sameBut pl z s) (hl : partsIn [.glb, .hif] pl = true) :
    sameBut pl z (observeAll s l) := by
  unfold observeAll
  repeat' first | (with_reducible first | assumption | rfl | intro _ | apply sb_observe | apply sb_unsee | apply sb_foldl | apply sb_ite) | exact partsIn_trans hl rfl | split

theorem sb_carriedStep {pl : List Part} {z : State} {s : State} {c : Cand} (hk : sameBut pl z s) (hl : partsIn [.glb, .hif] pl = true) :
    sameBut pl z (carriedStep s c) := by
  unfold carriedStep
  repeat' first | (with_reducible first | assumption | rfl | intro _ | apply sb_carry | apply sb_admitOne | apply sb_ite) | refine sb_blkGlb ?_ ⟨rfl, rfl, rfl, rfl, rfl⟩ ?_ | refine sb_blkEv ?_ rfl ?_ | apply sb_blkGlbE | exact partsIn_trans hl rfl | split

theorem sb_admitCarried {pl : List Part} {z : State} {s : State} (hk : sameBut pl z s) (hl : partsIn [.glb, .hif] pl = true) :
    sameBut pl z (admitCarried s) := by
  unfold admitCarried
  dsimp only
  repeat' first | (with_reducible first | assumption | rfl | intro _ | apply sb_carriedStep | apply sb_foldl) | refine sb_blkGlb ?_ ⟨rfl, rfl, rfl, rfl, rfl⟩ ?_ | refine sb_blkEv ?_ rfl ?_ | apply sb_blkGlbE | exact partsIn_trans hl rfl | split

theorem sb_assignUnit {pl : List Part} {z : State} {s : State} (hk : sameBut pl z s) (hl : partsIn [.hif] pl = true) :
    sameBut pl z (assignUnit s) := by
  unfold assignUnit
  try dsimp only
  repeat' first | (with_reducible first | assumption | rfl | intro _ | apply sb_blkHif | apply sb_ite) | exact partsIn_trans hl rfl | split

theorem sb_assignUnits {pl : List Part} {z : State} {s : State} (hk : sameBut pl z s) (hl : partsIn [.hif] pl = true) :
    sameBut pl z (assignUnits s) := by
  unfold assignUnits
  try dsimp only
  repeat' first | (with_reducible first | assumption | rfl | intro _ | apply sb_assignUnit | apply sb_foldl | apply sb_ite) | exact partsIn_trans hl rfl | split

theorem sb_tripLat {pl : List Part} {z : State} {s : State} {k : Nat} {adm : Stamp} (hk : sameBut pl z s) (hl : partsIn [.glb] pl = true) :
    sameBut pl z (tripLat s k adm) := by
  unfold tripLat
  dsimp only
  repeat' first | (with_reducible first | assumption | rfl | intro _ | apply sb_ite) | refine sb_blkGlb ?_ ⟨rfl, rfl, rfl, rfl, rfl⟩ ?_ | refine sb_blkEv ?_ rfl ?_ | apply sb_blkGlbE | exact partsIn_trans hl rfl | split

theorem sb_tripDrop {pl : List Part} {z : State} {s : State} {fn ring : Nat} {slot : Half} (hk : sameBut pl z s) (hl : partsIn [.hif] pl = true) :
    sameBut pl z (tripDrop s fn ring slot) := by
  unfold tripDrop
  try dsimp only
  repeat' first | (with_reducible first | assumption | rfl | intro _ | apply sb_blkHif | apply sb_issueReads | apply sb_ite) | exact partsIn_trans hl rfl | split

theorem sb_tripEnd {pl : List Part} {z : State} {s : State} {t : Trip} {x : Staged} {c : Cpl} (hk : sameBut pl z s) (hl : partsIn [.events, .glb, .hif, .evr, .flt] pl = true) :
    sameBut pl z (tripEnd s t x c) := by
  unfold tripEnd
  try dsimp only
  repeat' first | (with_reducible first | assumption | rfl | intro _ | apply sb_assignUnits | apply sb_tripDrop | apply sb_endRunning | apply sb_tripLat | apply sb_ite) | exact partsIn_trans hl rfl | split

theorem sb_consStep {pl : List Part} {z : State} {s : State} {k : Nat} (hk : sameBut pl z s) (hl : partsIn [.hif] pl = true) :
    sameBut pl z (consStep s k) := by
  unfold consStep
  dsimp only
  repeat' first | (with_reducible first | assumption | rfl | intro _ | apply sb_setRing) | exact partsIn_trans hl rfl | split

theorem sb_execTripDescArrival {pl : List Part} {z : State} {fn r : Nat} {d : Bytes} {s : State} (hk : sameBut pl z s) (hl : partsIn [.events, .glb, .hif, .evr, .flt] pl = true) :
    OutParts pl z (execTripDescArrival fn r d s) := by
  unfold execTripDescArrival
  try dsimp only
  repeat' first | (with_reducible first | assumption | rfl | intro _ | apply sb_blkHif | apply sb_consStep | apply sb_tripDrop | apply sb_tripLat | apply sb_refuseDesc | apply sb_formUnstored | apply sb_attachDup | apply sb_issueReads | apply sb_assignUnits | apply sb_setRing | apply sb_ite | apply outSb_ite | apply outSb_next) | exact partsIn_trans hl rfl | split

theorem sb_readsDone {pl : List Part} {z : State} {s : State} {fn ring : Nat} {slot : Half} (hk : sameBut pl z s) (hl : partsIn [.hif] pl = true) :
    sameBut pl z (readsDone s fn ring slot) := by
  unfold readsDone
  try dsimp only
  repeat' first | (with_reducible first | assumption | rfl | intro _ | apply sb_blkHif | apply sb_issueReads | apply sb_ite) | exact partsIn_trans hl rfl | split

theorem sb_execTripMacStart {pl : List Part} {z : State} {fn r : Nat} {slot : Half} {msg aux : Bytes} {s : State} (hk : sameBut pl z s) (hl : partsIn [.eng, .hif] pl = true) :
    OutParts pl z (execTripMacStart fn r slot msg aux s) := by
  unfold execTripMacStart
  try dsimp only
  repeat' first | (with_reducible first | assumption | rfl | intro _ | apply sb_blkEng | apply sb_assignUnits | apply sb_readsDone | apply sb_ite | apply outSb_ite | apply outSb_next) | exact partsIn_trans hl rfl | split

theorem sb_execTripMacEnd {pl : List Part} {z : State} {u : Nat} {s : State} (hk : sameBut pl z s) (hl : partsIn [.events, .glb, .eng, .hif, .evr, .flt] pl = true) :
    OutParts pl z (execTripMacEnd u s) := by
  unfold execTripMacEnd
  try dsimp only
  repeat' first | (with_reducible first | assumption | rfl | intro _ | apply sb_blkEng | apply sb_logDW | apply sb_emitOut | apply sb_tripEnd | apply sb_ite | apply outSb_ite | apply outSb_next) | exact partsIn_trans hl rfl | split

theorem sb_execTickOverrun {pl : List Part} {z : State} {fn r : Nat} {d : Bytes} {s : State} (hk : sameBut pl z s) (hl : partsIn [.events, .glb, .hif, .evr, .flt] pl = true) :
    OutParts pl z (execTickOverrun fn r d s) := by
  unfold execTickOverrun
  try dsimp only
  repeat' first | (with_reducible first | assumption | rfl | intro _ | apply sb_refuseDesc | apply sb_consStep | apply sb_ite | apply outSb_ite | apply outSb_next) | refine sb_blkGlb ?_ ⟨rfl, rfl, rfl, rfl, rfl⟩ ?_ | refine sb_blkEv ?_ rfl ?_ | apply sb_blkGlbE | exact partsIn_trans hl rfl | split

/-! ### Machine/Checks.lean -/

theorem sb_setMpuUnit {pl : List Part} {z : State} {s : State} {k : Nat} {u : MpuUnit} (hk : sameBut pl z s) (hl : partsIn [.mpu] pl = true) :
    sameBut pl z (setMpuUnit s k u) := by
  unfold setMpuUnit
  repeat' first | (with_reducible first | assumption | rfl | intro _ | apply sb_blkMpu) | exact partsIn_trans hl rfl | split

theorem sb_logAccess {pl : List Part} {z : State} {s : State} {a : Acc} {src idx : Nat} (hk : sameBut pl z s) (hl : partsIn [.events, .mpu, .evr] pl = true) :
    sameBut pl z (logAccess s a src idx) := by
  unfold logAccess
  try dsimp only
  repeat' first | (with_reducible first | assumption | rfl | intro _ | apply sb_blkMpu | apply sb_logDW | apply sb_ite) | exact partsIn_trans hl rfl | split

theorem sb_refuseAcc {pl : List Part} {z : State} {s : State} {a : Acc} {src idx : Nat} (hk : sameBut pl z s) (hl : partsIn [.events, .mpu, .fwl, .evr] pl = true) :
    sameBut pl z (refuseAcc s a src idx) := by
  unfold refuseAcc
  dsimp only
  repeat' first | (with_reducible first | assumption | rfl | intro _ | apply sb_blkFwl | apply sb_setMpuUnit | apply sb_logAccess | apply sb_ite) | exact partsIn_trans hl rfl | split

theorem sb_refuseWrite {pl : List Part} {z : State} {s : State} {addr src : Nat} (hk : sameBut pl z s) (hl : partsIn [.events, .mpu, .fwl, .evr] pl = true) :
    sameBut pl z (refuseWrite s addr src) := by
  unfold refuseWrite
  repeat' first | (with_reducible first | assumption | rfl | intro _ | apply sb_refuseAcc | apply sb_logRefused) | exact partsIn_trans hl rfl | split

theorem sb_onE {pl : List Part} {z : State} {s : State} {b addr : Nat} {f : State → State} (hk : sameBut pl z s) (hf : ∀ s, sameBut pl z s → sameBut pl z (f s)) (hl : partsIn [.events, .mpu, .fwl, .evr] pl = true) :
    sameBut pl z (onE s b addr f) := by
  unfold onE
  repeat' first | (with_reducible first | assumption | rfl | intro _ | apply sb_refuseAcc | apply sb_ite | apply hf) | exact partsIn_trans hl rfl | split

/-! ### Machine/RingCmds.lean -/

theorem sb_dimCancel {pl : List Part} {z : State} {s : State} (hk : sameBut pl z s) (hl : partsIn [.events, .mode, .hif, .evr, .flt] pl = true) :
    sameBut pl z (dimCancel s) := by
  unfold dimCancel
  dsimp only
  repeat' first | (with_reducible first | assumption | rfl | intro _ | apply sb_blkMode | apply sb_logMode | apply sb_endWaits) | exact partsIn_trans hl rfl | split

theorem sb_wakeTrigger {pl : List Part} {z : State} {s : State} {wakeCause : Nat} (hk : sameBut pl z s) (hl : partsIn [.mode, .rng] pl = true) :
    sameBut pl z (wakeTrigger s wakeCause) := by
  unfold wakeTrigger
  repeat' first | (with_reducible first | assumption | rfl | intro _ | apply sb_blkMode | apply sb_onRng | apply sb_ite) | exact partsIn_trans hl rfl | split

theorem sb_publish {pl : List Part} {z : State} {s : State} {fn r : Nat} {tail : Half} (hk : sameBut pl z s) (hl : partsIn [.glb, .hif] pl = true) :
    sameBut pl z (publish s fn r tail) := by
  unfold publish
  try dsimp only
  repeat' first | (with_reducible first | assumption | rfl | intro _ | apply sb_setRing | apply sb_observeAll | apply sb_ite) | exact partsIn_trans hl rfl | split

theorem sb_execSqTail {pl : List Part} {z : State} {fn r : Nat} {v : Word} {s : State} (hk : sameBut pl z s) (hl : partsIn [.events, .glb, .mode, .rng, .hif, .evr, .flt] pl = true) :
    OutParts pl z (execSqTail fn r v s) := by
  unfold execSqTail
  dsimp only
  repeat' first | (with_reducible first | assumption | rfl | intro _ | apply sb_wakeTrigger | apply sb_dimCancel | apply sb_setRing | apply sb_ringStop | apply sb_publish | apply sb_ite | apply outSb_ite | apply outSb_next) | exact partsIn_trans hl rfl | split

theorem sb_stage {pl : List Part} {z : State} {s : State} {k : Nat} {slot : Half} {d : Bytes} (hk : sameBut pl z s) (hl : partsIn [.hif] pl = true) :
    sameBut pl z (stage s k slot d) := by
  unfold stage
  dsimp only
  repeat' first | (with_reducible first | assumption | rfl | intro _ | apply sb_blkHif | apply sb_setRing | apply sb_ite) | exact partsIn_trans hl rfl | split

theorem sb_execDescFetchComplete {pl : List Part} {z : State} {fn r : Nat} {d : Bytes} {s : State} (hk : sameBut pl z s) (hl : partsIn [.events, .hif, .evr, .flt] pl = true) :
    OutParts pl z (execDescFetchComplete fn r d s) := by
  unfold execDescFetchComplete
  dsimp only
  repeat' first | (with_reducible first | assumption | rfl | intro _ | apply sb_formUnstored | apply sb_stage | apply sb_consStep | apply sb_refuseDesc | apply sb_attachDup | apply sb_ite | apply outSb_ite | apply outSb_next) | exact partsIn_trans hl rfl | split

theorem sb_tripsCut {pl : List Part} {z : State} {s : State} {fn ring : Nat} {slot : Half} (hk : sameBut pl z s) (hl : partsIn [.hif] pl = true) :
    sameBut pl z (tripsCut s fn ring slot) := by
  unfold tripsCut
  try dsimp only
  repeat' first | (with_reducible first | assumption | rfl | intro _ | apply sb_blkHif | apply sb_issueReads | apply sb_ite) | exact partsIn_trans hl rfl | split

theorem sb_execHostReadError {pl : List Part} {z : State} {fn r : Nat} {slot : Half} {s : State} (hk : sameBut pl z s) (hl : partsIn [.events, .glb, .hif, .evr, .flt] pl = true) :
    OutParts pl z (execHostReadError fn r slot s) := by
  unfold execHostReadError
  try dsimp only
  repeat' first | (with_reducible first | assumption | rfl | intro _ | apply sb_ringStop | apply sb_tripsCut | apply sb_tripEnd | apply sb_endRunning | apply sb_ite | apply outSb_ite | apply outSb_next) | exact partsIn_trans hl rfl | split

theorem sb_execCqHead {pl : List Part} {z : State} {fn r : Nat} {v : Word} {s : State} (hk : sameBut pl z s) (hl : partsIn [.events, .hif, .evr, .flt] pl = true) :
    OutParts pl z (execCqHead fn r v s) := by
  unfold execCqHead
  dsimp only
  repeat' first | (with_reducible first | assumption | rfl | intro _ | apply sb_drainHeld | apply sb_setRing | apply sb_ringStop | apply sb_ite | apply outSb_ite | apply outSb_next) | exact partsIn_trans hl rfl | split

theorem sb_execRingEnable {pl : List Part} {z : State} {fn r : Nat} {s : State} (hk : sameBut pl z s) (hl : partsIn [.events, .hif, .evr] pl = true) :
    OutParts pl z (execRingEnable fn r s) := by
  unfold execRingEnable
  dsimp only
  repeat' first | (with_reducible first | assumption | rfl | intro _ | apply sb_irq | apply sb_setRing | apply sb_ite | apply outSb_ite | apply outSb_next | apply optSb_getD) | exact partsIn_trans hl rfl | split

theorem sb_ringClear {pl : List Part} {z : State} {s : State} {fn r : Nat} (hk : sameBut pl z s) (hl : partsIn [.glb, .hif] pl = true) :
    sameBut pl z (ringClear s fn r) := by
  unfold ringClear
  dsimp only
  repeat' first | (with_reducible first | assumption | rfl | intro _ | apply sb_blkHif | apply sb_setRing | apply sb_ite) | refine sb_blkGlb ?_ ⟨rfl, rfl, rfl, rfl, rfl⟩ ?_ | refine sb_blkEv ?_ rfl ?_ | apply sb_blkGlbE | exact partsIn_trans hl rfl | split

theorem sb_execRingReset {pl : List Part} {z : State} {fn r : Nat} {s : State} (hk : sameBut pl z s) (hl : partsIn [.glb, .hif] pl = true) :
    OutParts pl z (execRingReset fn r s) := by
  unfold execRingReset
  repeat' first | (with_reducible first | assumption | rfl | intro _ | apply sb_ringClear | apply sb_ite | apply outSb_ite | apply outSb_next) | exact partsIn_trans hl rfl | split

theorem sb_fnRingsClear {pl : List Part} {z : State} {s : State} {fn : Nat} (hk : sameBut pl z s) (hl : partsIn [.glb, .hif] pl = true) :
    sameBut pl z (fnRingsClear s fn) := by
  unfold fnRingsClear
  dsimp only
  repeat' first | (with_reducible first | assumption | rfl | intro _ | apply sb_ringClear | apply sb_setRing | apply sb_foldl) | exact partsIn_trans hl rfl | split

theorem sb_fnClear {pl : List Part} {z : State} {s : State} {fn : Nat} (hk : sameBut pl z s) (hl : partsIn [.glb, .hif] pl = true) :
    sameBut pl z (fnClear s fn) := by
  unfold fnClear
  dsimp only
  repeat' first | (with_reducible first | assumption | rfl | intro _ | apply sb_blkHif | apply sb_fnRingsClear | apply sb_setFn | apply sb_ite) | exact partsIn_trans hl rfl | split

theorem sb_vfsOff {pl : List Part} {z : State} {s : State} (hk : sameBut pl z s) (hl : partsIn [.glb, .hif] pl = true) :
    sameBut pl z (vfsOff s) := by
  unfold vfsOff
  try dsimp only
  repeat' first | (with_reducible first | assumption | rfl | intro _ | apply sb_blkHif | apply sb_fnClear | apply sb_foldl | apply sb_ite) | exact partsIn_trans hl rfl | split

theorem sb_execFunctionLevelReset {pl : List Part} {z : State} {fn : Nat} {s : State} (hk : sameBut pl z s) (hl : partsIn [.glb, .hif] pl = true) :
    OutParts pl z (execFunctionLevelReset fn s) := by
  unfold execFunctionLevelReset
  try dsimp only
  repeat' first | (with_reducible first | assumption | rfl | intro _ | apply sb_fnClear | apply sb_vfsOff | apply sb_ite | apply outSb_ite | apply outSb_next) | exact partsIn_trans hl rfl | split

theorem sb_execD3hotEntry {pl : List Part} {z : State} {fn : Nat} {s : State} (hk : sameBut pl z s) (hl : partsIn [.hif] pl = true) :
    OutParts pl z (execD3hotEntry fn s) := by
  unfold execD3hotEntry
  repeat' first | (with_reducible first | assumption | rfl | intro _ | apply sb_setFn | apply sb_ite | apply outSb_ite | apply outSb_next) | exact partsIn_trans hl rfl | split

theorem sb_execD3hotExit {pl : List Part} {z : State} {fn : Nat} {s : State} (hk : sameBut pl z s) (hl : partsIn [.glb, .hif] pl = true) :
    OutParts pl z (execD3hotExit fn s) := by
  unfold execD3hotExit
  repeat' first | (with_reducible first | assumption | rfl | intro _ | apply sb_execFunctionLevelReset | apply sb_ite | apply outSb_ite | apply outSb_next) | exact partsIn_trans hl rfl | split

theorem sb_endpointClear {pl : List Part} {z : State} {s : State} (hk : sameBut pl z s) (hl : partsIn [.glb, .hif] pl = true) :
    sameBut pl z (endpointClear s) := by
  unfold endpointClear
  dsimp only
  repeat' first | (with_reducible first | assumption | rfl | intro _ | apply sb_blkHif | apply sb_fnClear | apply sb_foldl | apply sb_ite) | exact partsIn_trans hl rfl | split

theorem sb_execEndpointReset {pl : List Part} {z : State} {s : State} (hk : sameBut pl z s) (hl : partsIn [.glb, .hif] pl = true) :
    OutParts pl z (execEndpointReset s) := by
  unfold execEndpointReset
  dsimp only
  repeat' first | (with_reducible first | assumption | rfl | intro _ | apply sb_blkHif | apply sb_endpointClear | apply sb_ite | apply outSb_ite | apply outSb_next) | exact partsIn_trans hl rfl | split

theorem sb_execLinkUp {pl : List Part} {z : State} {width speed : Nat} {ext : Bool} {s : State} (hk : sameBut pl z s) (hl : partsIn [.hif] pl = true) :
    OutParts pl z (execLinkUp width speed ext s) := by
  unfold execLinkUp
  repeat' first | (with_reducible first | assumption | rfl | intro _ | apply sb_blkHif | apply sb_ite | apply outSb_ite | apply outSb_next) | exact partsIn_trans hl rfl | split

theorem sb_execVfEnable {pl : List Part} {z : State} {on : Bool} {n : Nat} {ari : Bool} {s : State} (hk : sameBut pl z s) (hl : partsIn [.glb, .hif] pl = true) :
    OutParts pl z (execVfEnable on n ari s) := by
  unfold execVfEnable
  try dsimp only
  repeat' first | (with_reducible first | assumption | rfl | intro _ | apply sb_blkHif | apply sb_vfsOff | apply sb_ite | apply outSb_ite | apply outSb_next) | exact partsIn_trans hl rfl | split

theorem sb_execHifRingAlloc {pl : List Part} {z : State} {k : Nat} {v : Word} {s : State} (hk : sameBut pl z s) (hl : partsIn [.events, .hif, .evr] pl = true) :
    OutParts pl z (execHifRingAlloc k v s) := by
  unfold execHifRingAlloc
  dsimp only
  repeat' first | (with_reducible first | assumption | rfl | intro _ | apply sb_blkHif | apply sb_logOther | apply sb_ite | apply outSb_ite | apply outSb_next | apply optSb_getD) | exact partsIn_trans hl rfl | split

theorem sb_takeStaged {pl : List Part} {z : State} {s : State} {k : Nat} {slot : Half} (hk : sameBut pl z s) (hl : partsIn [.hif] pl = true) :
    sameBut pl z (takeStaged s k slot) := by
  unfold takeStaged
  dsimp only
  repeat' first | (with_reducible first | assumption | rfl | intro _ | apply sb_blkHif | apply sb_setRing | apply sb_ite) | exact partsIn_trans hl rfl | split

theorem sb_execHifStgTake {pl : List Part} {z : State} {s : State} (hk : sameBut pl z s) (hl : partsIn [.hif] pl = true) :
    OutParts pl z (execHifStgTake s) := by
  unfold execHifStgTake
  repeat' first | (with_reducible first | assumption | rfl | intro _ | apply sb_blkHif | apply sb_takeStaged | apply sb_ite | apply outSb_ite | apply outSb_next) | exact partsIn_trans hl rfl | split

theorem sb_execHifCplGo {pl : List Part} {z : State} {v : Word} {s : State} (hk : sameBut pl z s) (hl : partsIn [.events, .hif, .evr, .flt] pl = true) :
    OutParts pl z (execHifCplGo v s) := by
  unfold execHifCplGo
  try dsimp only
  repeat' first | (with_reducible first | assumption | rfl | intro _ | apply sb_logOther | apply sb_endRunning | apply sb_ite | apply outSb_ite | apply outSb_next) | exact partsIn_trans hl rfl | split

theorem sb_mbxRaise {pl : List Part} {z : State} {s : State} {n c : Nat} (hk : sameBut pl z s) (hl : partsIn [.cores] pl = true) :
    sameBut pl z (mbxRaise s n c) := by
  unfold mbxRaise
  dsimp only
  repeat' first | (with_reducible first | assumption | rfl | intro _ | apply sb_setCore | apply sb_ite) | exact partsIn_trans hl rfl | split

theorem sb_mbxClear {pl : List Part} {z : State} {s : State} {n c : Nat} (hk : sameBut pl z s) (hl : partsIn [.cores] pl = true) :
    sameBut pl z (mbxClear s n c) := by
  unfold mbxClear
  try dsimp only
  repeat' first | (with_reducible first | assumption | rfl | intro _ | apply sb_setCore | apply sb_ite) | exact partsIn_trans hl rfl | split

theorem sb_execMbxSend {pl : List Part} {z : State} {n : Nat} {s : State} (hk : sameBut pl z s) (hl : partsIn [.cores] pl = true) :
    OutParts pl z (execMbxSend n s) := by
  unfold execMbxSend
  repeat' first | (with_reducible first | assumption | rfl | intro _ | apply sb_setFn | apply sb_mbxRaise | apply sb_ite | apply outSb_ite | apply outSb_next) | exact partsIn_trans hl rfl | split

theorem sb_mbxAnswer {pl : List Part} {z : State} {s : State} {n : Nat} (hk : sameBut pl z s) (hl : partsIn [.events, .hif, .evr, .cores] pl = true) :
    sameBut pl z (mbxAnswer s n) := by
  unfold mbxAnswer
  repeat' first | (with_reducible first | assumption | rfl | intro _ | apply sb_irq | apply sb_setFn | apply sb_mbxClear) | exact partsIn_trans hl rfl | split

theorem sb_execHifMbxDone {pl : List Part} {z : State} {v : Word} {s : State} (hk : sameBut pl z s) (hl : partsIn [.events, .hif, .evr, .cores] pl = true) :
    OutParts pl z (execHifMbxDone v s) := by
  unfold execHifMbxDone
  repeat' first | (with_reducible first | assumption | rfl | intro _ | apply sb_mbxAnswer | apply sb_foldl | apply sb_ite | apply outSb_ite | apply outSb_next) | exact partsIn_trans hl rfl | split

theorem sb_execFltEn {pl : List Part} {z : State} {s : State} (hk : sameBut pl z s) (hl : partsIn [.events, .mpu, .fwl, .evr, .flt] pl = true) :
    OutParts pl z (execFltEn s) := by
  unfold execFltEn
  repeat' first | (with_reducible first | assumption | rfl | intro _ | apply sb_blkFlt | apply sb_onE | apply sb_ite | apply outSb_ite | apply outSb_next) | exact partsIn_trans hl rfl | split

/-! ### Machine/Beacon.lean -/

theorem sb_bcnStart {pl : List Part} {z : State} {s : State} (hk : sameBut pl z s) (hl : partsIn [.events, .glb, .evr] pl = true) :
    sameBut pl z (bcnStart s) := by
  unfold bcnStart
  try dsimp only
  repeat' first | (with_reducible first | assumption | rfl | intro _ | apply sb_logD | apply sb_ite) | refine sb_blkGlb ?_ ⟨rfl, rfl, rfl, rfl, rfl⟩ ?_ | refine sb_blkEv ?_ rfl ?_ | apply sb_blkGlbE | exact partsIn_trans hl rfl | split

theorem sb_execBcnRun {pl : List Part} {z : State} {v : Word} {s : State} (hk : sameBut pl z s) (hl : partsIn [.events, .glb, .mpu, .fwl, .evr] pl = true) :
    OutParts pl z (execBcnRun v s) := by
  unfold execBcnRun
  repeat' first | (with_reducible first | assumption | rfl | intro _ | apply sb_refuseWrite | apply sb_bcnStart | apply sb_ite | apply outSb_ite | apply outSb_next) | exact partsIn_trans hl rfl | split

theorem sb_setLock {pl : List Part} {z : State} {s : State} {l : Lock} (hk : sameBut pl z s) (hl : partsIn [.events, .glb, .evr] pl = true) :
    sameBut pl z (setLock s l) := by
  unfold setLock
  repeat' first | (with_reducible first | assumption | rfl | intro _ | apply sb_logD) | refine sb_blkGlb ?_ ⟨rfl, rfl, rfl, rfl, rfl⟩ ?_ | refine sb_blkEv ?_ rfl ?_ | apply sb_blkGlbE | exact partsIn_trans hl rfl | split

theorem sb_syncAccept {pl : List Part} {z : State} {s : State} {e : Word × Int} {rate : Int} {acq : Nat} (hk : sameBut pl z s) (hl : partsIn [.glb] pl = true) :
    sameBut pl z (syncAccept s e rate acq) := by
  unfold syncAccept
  repeat' first | (with_reducible first | assumption | rfl | intro _ | apply sb_ite) | refine sb_blkGlb ?_ ⟨rfl, rfl, rfl, rfl, rfl⟩ ?_ | refine sb_blkEv ?_ rfl ?_ | apply sb_blkGlbE | exact partsIn_trans hl rfl | split

theorem sb_acquireEdge {pl : List Part} {z : State} {s : State} {e : Word × Int} (hk : sameBut pl z s) (hl : partsIn [.events, .glb, .evr] pl = true) :
    sameBut pl z (acquireEdge s e) := by
  unfold acquireEdge
  try dsimp only
  repeat' first | (with_reducible first | assumption | rfl | intro _ | apply sb_syncAccept | apply sb_setLock | apply sb_ite) | exact partsIn_trans hl rfl | split

theorem sb_execSyncInEdge {pl : List Part} {z : State} {half : Bool} {s : State} (hk : sameBut pl z s) (hl : partsIn [.events, .glb, .evr] pl = true) :
    OutParts pl z (execSyncInEdge half s) := by
  unfold execSyncInEdge
  try dsimp only
  repeat' first | (with_reducible first | assumption | rfl | intro _ | apply sb_acquireEdge | apply sb_setLock | apply sb_syncAccept | apply sb_ite | apply outSb_ite | apply outSb_next) | refine sb_blkGlb ?_ ⟨rfl, rfl, rfl, rfl, rfl⟩ ?_ | refine sb_blkEv ?_ rfl ?_ | apply sb_blkGlbE | exact partsIn_trans hl rfl | split

theorem sb_execSyncHoldover {pl : List Part} {z : State} {s : State} (hk : sameBut pl z s) (hl : partsIn [.events, .glb, .evr] pl = true) :
    OutParts pl z (execSyncHoldover s) := by
  unfold execSyncHoldover
  repeat' first | (with_reducible first | assumption | rfl | intro _ | apply sb_setLock | apply sb_ite | apply outSb_ite | apply outSb_next) | exact partsIn_trans hl rfl | split

theorem sb_execGlbTickRead {pl : List Part} {z : State} {s : State} (hk : sameBut pl z s) (hl : partsIn [.glb] pl = true) :
    OutParts pl z (execGlbTickRead s) := by
  unfold execGlbTickRead
  repeat' first | (with_reducible first | assumption | rfl | intro _ | apply sb_ite | apply outSb_ite | apply outSb_next) | refine sb_blkGlb ?_ ⟨rfl, rfl, rfl, rfl, rfl⟩ ?_ | refine sb_blkEv ?_ rfl ?_ | apply sb_blkGlbE | exact partsIn_trans hl rfl | split

theorem sb_execGlbTripLatClear {pl : List Part} {z : State} {s : State} (hk : sameBut pl z s) (hl : partsIn [.glb] pl = true) :
    OutParts pl z (execGlbTripLatClear s) := by
  unfold execGlbTripLatClear
  repeat' first | (with_reducible first | assumption | rfl | intro _ | apply sb_tripLat | apply sb_ite | apply outSb_ite | apply outSb_next) | refine sb_blkGlb ?_ ⟨rfl, rfl, rfl, rfl, rfl⟩ ?_ | refine sb_blkEv ?_ rfl ?_ | apply sb_blkGlbE | exact partsIn_trans hl rfl | split

theorem sb_applyGroups {pl : List Part} {z : State} {s : State} (h : sameBut pl z s) (hl : partsIn [.events, .glb, .evr] pl = true) : sameBut pl z (applyGroups s) := by
  have caps : ∀ c : List Nat, (c.map (min 24)).all (· ≤ 24) = true := by simp
  unfold applyGroups
  lift_lets
  intro g t
  have ht : sameBut pl z t := by
    dsimp only [t]
    split
    · exact h
    · split
      · exact sb_blkGlbE h (partsIn_trans hl rfl)
      · exact sb_logOther (sb_blkGlbE h (partsIn_trans hl rfl)) (partsIn_trans hl rfl)
  clear_value t
  lift_lets
  try intro _
  split
  · exact ht
  · exact sb_blkGlbE ht (partsIn_trans hl rfl)

theorem sb_commitNow {pl : List Part} {z : State} {s : State} (hk : sameBut pl z s) (hl : partsIn [.events, .glb, .evr] pl = true) :
    sameBut pl z (commitNow s) := by
  unfold commitNow
  repeat' first | (with_reducible first | assumption | rfl | intro _ | apply sb_applyGroups | apply sb_ite) | exact partsIn_trans hl rfl | split

theorem sb_execBudgetCommit {pl : List Part} {z : State} {s : State} (hk : sameBut pl z s) (hl : partsIn [.events, .glb, .evr] pl = true) :
    OutParts pl z (execBudgetCommit s) := by
  unfold execBudgetCommit
  repeat' first | (with_reducible first | assumption | rfl | intro _ | apply sb_commitNow | apply sb_ite | apply outSb_ite | apply outSb_next) | refine sb_blkGlb ?_ ⟨rfl, rfl, rfl, rfl, rfl⟩ ?_ | refine sb_blkEv ?_ rfl ?_ | apply sb_blkGlbE | exact partsIn_trans hl rfl | split

theorem sb_execTripcapCommit {pl : List Part} {z : State} {s : State} (hk : sameBut pl z s) (hl : partsIn [.events, .glb, .evr] pl = true) :
    OutParts pl z (execTripcapCommit s) := by
  unfold execTripcapCommit
  repeat' first | (with_reducible first | assumption | rfl | intro _ | apply sb_commitNow | apply sb_ite | apply outSb_ite | apply outSb_next) | refine sb_blkGlb ?_ ⟨rfl, rfl, rfl, rfl, rfl⟩ ?_ | refine sb_blkEv ?_ rfl ?_ | apply sb_blkGlbE | exact partsIn_trans hl rfl | split

theorem sb_applyShadows {pl : List Part} {z : State} {s : State} (hk : sameBut pl z s) (hl : partsIn [.glb, .clk, .vlt] pl = true) :
    sameBut pl z (applyShadows s) := by
  unfold applyShadows
  dsimp only
  repeat' first | (with_reducible first | assumption | rfl | intro _ | apply sb_blkClk | apply sb_blkVlt | apply sb_ite) | refine sb_blkGlb ?_ ⟨rfl, rfl, rfl, rfl, rfl⟩ ?_ | refine sb_blkEv ?_ rfl ?_ | apply sb_blkGlbE | exact partsIn_trans hl rfl | split

theorem sb_refill {pl : List Part} {z : State} {s : State} (hk : sameBut pl z s) (hl : partsIn [.glb] pl = true) :
    sameBut pl z (refill s) := by
  unfold refill
  repeat' first | (with_reducible first | assumption | rfl | intro _) | refine sb_blkGlb ?_ ⟨rfl, rfl, rfl, rfl, rfl⟩ ?_ | refine sb_blkEv ?_ rfl ?_ | apply sb_blkGlbE | exact partsIn_trans hl rfl | split

theorem sb_setPke {pl : List Part} {z : State} {s : State} {p : Nat} {x : PkeInst} (hk : sameBut pl z s) (hl : partsIn [.pke] pl = true) :
    sameBut pl z (setPke s p x) := by
  unfold setPke
  repeat' first | (with_reducible first | assumption | rfl | intro _ | apply sb_blkPke) | exact partsIn_trans hl rfl | split

theorem sb_setLane {pl : List Part} {z : State} {s : State} {e : Nat} {l : List LaneOp} (hk : sameBut pl z s) (hl : partsIn [.eng] pl = true) :
    sameBut pl z (setLane s e l) := by
  unfold setLane
  repeat' first | (with_reducible first | assumption | rfl | intro _ | apply sb_blkEng) | exact partsIn_trans hl rfl | split

theorem sb_custStop {pl : List Part} {z : State} {s : State} (hk : sameBut pl z s) (hl : partsIn [.cus, .pke] pl = true) :
    sameBut pl z (custStop s) := by
  unfold custStop
  dsimp only
  repeat' first | (with_reducible first | assumption | rfl | intro _ | apply sb_blkCus | apply sb_setPke) | exact partsIn_trans hl rfl | split

theorem sb_windowEnds {pl : List Part} {z : State} {s : State} (hk : sameBut pl z s) (hl : partsIn [.upd] pl = true) :
    sameBut pl z (windowEnds s) := by
  unfold windowEnds
  repeat' first | (with_reducible first | assumption | rfl | intro _ | apply sb_blkUpd | apply sb_ite) | exact partsIn_trans hl rfl | split

theorem sb_relockOver {pl : List Part} {z : State} {s : State} (hk : sameBut pl z s) (hl : partsIn [.clk] pl = true) :
    sameBut pl z (relockOver s) := by
  unfold relockOver
  repeat' first | (with_reducible first | assumption | rfl | intro _ | apply sb_blkClk | apply sb_ite) | exact partsIn_trans hl rfl | split

theorem sb_execAnnounceWindowEnd {pl : List Part} {z : State} {s : State} (hk : sameBut pl z s) (hl : partsIn [.events, .glb, .mode, .clk, .hif, .evr, .upd] pl = true) :
    OutParts pl z (execAnnounceWindowEnd s) := by
  unfold execAnnounceWindowEnd
  repeat' first | (with_reducible first | assumption | rfl | intro _ | apply sb_admitCarried | apply sb_annClear | apply sb_relockOver | apply sb_windowEnds | apply sb_ite | apply outSb_ite | apply outSb_next) | exact partsIn_trans hl rfl | split

/-! ### Machine/SpiCut.lean -/

theorem sb_spi0End {pl : List Part} {z : State} {s : State} {err : Nat} (hk : sameBut pl z s) (hl : partsIn [.spi0] pl = true) :
    sameBut pl z (spi0End s err) := by
  unfold spi0End
  repeat' first | (with_reducible first | assumption | rfl | intro _ | apply sb_blkSpi0 | apply sb_ite) | exact partsIn_trans hl rfl | split

theorem sb_flashPut {pl : List Part} {z : State} {s : State} {sel k : Nat} {b : Bytes} (hk : sameBut pl z s) (hl : partsIn [.flash] pl = true) :
    sameBut pl z (flashPut s sel k b) := by
  unfold flashPut
  repeat' first | (with_reducible first | assumption | rfl | intro _ | apply sb_blkFlash | apply twf_tputN | apply twf_tclear | apply twf_tput) | exact partsIn_trans hl rfl | split

theorem sb_tearProgram {pl : List Part} {z : State} {s : State} {o : FlashOp} (hk : sameBut pl z s) (hl : partsIn [.flash, .free] pl = true) :
    sameBut pl z (tearProgram s o) := by
  unfold tearProgram
  dsimp only
  repeat' first | (with_reducible first | assumption | rfl | intro _ | apply sb_freeBytes_p | apply sb_flashPut) | exact partsIn_trans hl rfl | (refine sb_freeBytes ?_ (by with_reducible assumption) ?_) | split

theorem sb_tearErase {pl : List Part} {z : State} {s : State} {o : FlashOp} (hk : sameBut pl z s) (hl : partsIn [.flash, .free] pl = true) :
    sameBut pl z (tearErase s o) := by
  unfold tearErase
  dsimp only
  repeat' first | (with_reducible first | assumption | rfl | intro _ | apply sb_freeBytes_p | apply sb_flashPut) | exact partsIn_trans hl rfl | (refine sb_freeBytes ?_ (by with_reducible assumption) ?_) | split

theorem sb_cutRead {pl : List Part} {z : State} {s : State} {o : FlashOp} (hk : sameBut pl z s) (hl : partsIn [.sram, .free] pl = true) :
    sameBut pl z (cutRead s o) := by
  unfold cutRead
  dsimp only
  repeat' first | (with_reducible first | assumption | rfl | intro _ | apply sb_sramWrite | apply sb_freeBytes_p) | exact partsIn_trans hl rfl | (refine sb_freeBytes ?_ (by with_reducible assumption) ?_) | split

theorem sb_spi0Cut {pl : List Part} {z : State} {s : State} {err : Nat} (hk : sameBut pl z s) (hl : partsIn [.spi0, .flash, .sram, .free] pl = true) :
    sameBut pl z (spi0Cut s err) := by
  unfold spi0Cut
  try dsimp only
  repeat' first | (with_reducible first | assumption | rfl | intro _ | apply sb_cutRead | apply sb_tearProgram | apply sb_tearErase | apply sb_spi0End | apply sb_ite) | exact partsIn_trans hl rfl | split

/-! ### Machine/Reset.lean -/

theorem sb_coreCleared {pl : List Part} {z : State} {s : State} {powerOn : Bool} (h : sameBut pl z s) (hl : partsIn [.events, .glb, .mode, .clk, .fus, .cfg, .mpu, .fwl, .vlt, .cus, .can0, .can1, .voe, .eng, .pke, .rng, .hif, .spi0, .spi1, .tmp, .evr, .upd, .flt, .cores, .sram] pl = true) :
    sameBut pl z (coreCleared s powerOn) :=
  sameBut_then h ⟨rfl, fun p hp => by cases p <;> simp_all [Part.same, coreCleared]⟩ hl

theorem sb_deviceReset {pl : List Part} {z : State} {s : State} {cause : Nat} (hk : sameBut pl z s) (hl : partsIn [.events, .glb, .mode, .clk, .fus, .cfg, .mpu, .fwl, .vlt, .cus, .can0, .can1, .voe, .eng, .pke, .rng, .hif, .spi0, .spi1, .flash, .tmp, .evr, .upd, .flt, .cores, .sram, .free] pl = true) :
    sameBut pl z (deviceReset s cause) := by
  unfold deviceReset
  dsimp only
  repeat' first | (with_reducible first | assumption | rfl | intro _ | apply sb_blkMode | apply sb_coreCleared | apply sb_logMode | apply sb_spi0Cut) | exact partsIn_trans hl rfl | split

theorem sb_powerOnReset {pl : List Part} {z : State} {s : State} (hk : sameBut pl z s) (hl : partsIn [.events, .glb, .mode, .clk, .fus, .cfg, .mpu, .fwl, .vlt, .cus, .can0, .can1, .voe, .eng, .pke, .rng, .hif, .spi0, .spi1, .flash, .tmp, .evr, .upd, .flt, .cores, .sram, .free] pl = true) :
    sameBut pl z (powerOnReset s) := by
  unfold powerOnReset
  dsimp only
  repeat' first | (with_reducible first | assumption | rfl | intro _ | apply sb_blkMode | apply sb_blkEvr | apply sb_coreCleared | apply sb_logMode | apply sb_spi0Cut) | exact partsIn_trans hl rfl | split

theorem sb_coreLost {pl : List Part} {z : State} {s : State} (hk : sameBut pl z s) (hl : partsIn [.events, .glb, .mode, .clk, .fus, .cfg, .mpu, .fwl, .vlt, .cus, .can0, .can1, .voe, .eng, .pke, .rng, .hif, .spi0, .spi1, .flash, .tmp, .evr, .upd, .flt, .cores, .sram, .free] pl = true) :
    sameBut pl z (coreLost s) := by
  unfold coreLost
  try dsimp only
  repeat' first | (with_reducible first | assumption | rfl | intro _ | apply sb_blkMode | apply sb_blkTmp | apply sb_coreCleared | apply sb_spi0Cut | apply sb_ite) | exact partsIn_trans hl rfl | split

theorem sb_batteryLost {pl : List Part} {z : State} {s : State} (hk : sameBut pl z s) (hl : partsIn [.mode, .vlt, .tmp, .snf, .evr] pl = true) :
    sameBut pl z (batteryLost s) := by
  unfold batteryLost
  dsimp only
  repeat' first | (with_reducible first | assumption | rfl | intro _ | apply sb_blkMode | apply sb_blkVlt | apply sb_blkTmp | apply sb_blkSnf | apply sb_blkEvr) | exact partsIn_trans hl rfl | split

theorem sb_logHold {pl : List Part} {z : State} {s : State} {byLoss : Bool} (hk : sameBut pl z s) (hl : partsIn [.events, .evr] pl = true) :
    sameBut pl z (logHold s byLoss) := by
  unfold logHold
  repeat' first | (with_reducible first | assumption | rfl | intro _ | apply sb_logS) | exact partsIn_trans hl rfl | split

theorem sb_nrstFree {pl : List Part} {z : State} {s : State} (hk : sameBut pl z s) (hl : partsIn [.events, .mode, .tmp, .evr] pl = true) :
    sameBut pl z (nrstFree s) := by
  unfold nrstFree
  dsimp only
  repeat' first | (with_reducible first | assumption | rfl | intro _ | apply sb_blkMode | apply sb_blkTmp | apply sb_logMode | apply sb_logHold) | exact partsIn_trans hl rfl | split

/-! ### Machine/Entropy.lean -/

theorem sb_rngDraw {pl : List Part} {z : State} {s : State} {add : Bytes} {n : Nat} {pr : Bool} (hk : sameBut pl z s) {a : Bytes} {t : State} (he : rngDraw s add n pr = .inr (a, t)) (hl : partsIn [.eng, .rng] pl = true) :
    sameBut pl z t := by
  unfold rngDraw at he
  try dsimp only at he
  repeat' split at he
  all_goals cases he
  all_goals repeat' first | (with_reducible first | assumption | rfl | intro _ | apply sb_blkRng | apply sb_housekeep | apply sb_ite) | exact partsIn_trans hl rfl | split

theorem sb_rngInternal {pl : List Part} {z : State} {s : State} {n : Nat} (hk : sameBut pl z s)  {a : Bytes} {t : State} (e : rngInternal s n = .inr (a, t)) (hl : partsIn [.eng, .rng] pl = true) :
    sameBut pl z t := by
  unfold rngInternal at e
  try dsimp only at e
  repeat' split at e
  all_goals cases e
  all_goals repeat' first | (with_reducible first | assumption | rfl | intro _ | apply sb_onRng) | exact partsIn_trans hl rfl | (refine sb_rngDraw ?_ (by with_reducible assumption) ?_) | split

theorem sb_rngFail {pl : List Part} {z : State} {s : State} {cause : Nat} (hk : sameBut pl z s) (hl : partsIn [.events, .rng, .tmp, .evr] pl = true) :
    sameBut pl z (rngFail s cause) := by
  unfold rngFail
  try dsimp only
  repeat' first | (with_reducible first | assumption | rfl | intro _ | apply sb_onRng | apply sb_logSD | apply sb_alarmSet | apply sb_ite) | exact partsIn_trans hl rfl | split

theorem sb_instantiateWhen {pl : List Part} {z : State} {s : State} (hk : sameBut pl z s) (hl : partsIn [.eng, .rng] pl = true) :
    sameBut pl z (instantiateWhen s) := by
  unfold instantiateWhen
  repeat' first | (with_reducible first | assumption | rfl | intro _ | apply sb_housekeep | apply sb_onRng | apply sb_ite) | exact partsIn_trans hl rfl | split

theorem sb_condition {pl : List Part} {z : State} {s : State} (hk : sameBut pl z s) (hl : partsIn [.eng, .rng] pl = true) :
    sameBut pl z (condition s) := by
  unfold condition
  try dsimp only
  repeat' first | (with_reducible first | assumption | rfl | intro _ | apply sb_instantiateWhen | apply sb_housekeep | apply sb_onRng | apply sb_ite) | exact partsIn_trans hl rfl | split

theorem sb_gather {pl : List Part} {z : State} {s : State} {b : Bool} (hk : sameBut pl z s) (hl : partsIn [.eng, .rng] pl = true) :
    sameBut pl z (gather s b) := by
  unfold gather
  try dsimp only
  repeat' first | (with_reducible first | assumption | rfl | intro _ | apply sb_condition | apply sb_onRng | apply sb_ite) | exact partsIn_trans hl rfl | split

theorem sb_sampleIn {pl : List Part} {z : State} {s : State} {b : Bool} (hk : sameBut pl z s) (hl : partsIn [.events, .eng, .rng, .tmp, .evr] pl = true) :
    sameBut pl z (sampleIn s b) := by
  unfold sampleIn
  try dsimp only
  repeat' first | (with_reducible first | assumption | rfl | intro _ | apply sb_onRng | apply sb_rngFail | apply sb_gather | apply sb_condition | apply sb_ite) | exact partsIn_trans hl rfl | split

theorem sb_rawIn {pl : List Part} {z : State} {s : State} {osc : BitVec 16} (hk : sameBut pl z s) (hl : partsIn [.events, .eng, .rng, .tmp, .evr] pl = true) :
    sameBut pl z (rawIn s osc) := by
  unfold rawIn
  try dsimp only
  repeat' first | (with_reducible first | assumption | rfl | intro _ | apply sb_onRng | apply sb_sampleIn | apply sb_ite) | exact partsIn_trans hl rfl | split

theorem sb_sourceRun {pl : List Part} {z : State} {s : State} {osc : List (BitVec 16)} (hk : sameBut pl z s) (hl : partsIn [.events, .eng, .rng, .tmp, .evr] pl = true) :
    sameBut pl z (sourceRun s osc) := by
  unfold sourceRun
  repeat' first | (with_reducible first | assumption | rfl | intro _ | apply sb_rawIn | apply sb_foldl | apply sb_ite) | exact partsIn_trans hl rfl | split

theorem sb_execStartupTestPass {pl : List Part} {z : State} {osc : List (BitVec 16)} {s : State} (hk : sameBut pl z s) (hl : partsIn [.events, .eng, .rng, .tmp, .evr] pl = true) :
    OutParts pl z (execStartupTestPass osc s) := by
  unfold execStartupTestPass
  repeat' first | (with_reducible first | assumption | rfl | intro _ | apply sb_sourceRun | apply sb_ite | apply outSb_ite | apply outSb_next) | exact partsIn_trans hl rfl | split

theorem sb_execConditioningBlock {pl : List Part} {z : State} {osc : List (BitVec 16)} {s : State} (hk : sameBut pl z s) (hl : partsIn [.events, .eng, .rng, .tmp, .evr] pl = true) :
    OutParts pl z (execConditioningBlock osc s) := by
  unfold execConditioningBlock
  repeat' first | (with_reducible first | assumption | rfl | intro _ | apply sb_sourceRun | apply sb_ite | apply outSb_ite | apply outSb_next) | exact partsIn_trans hl rfl | split

theorem sb_execHealthTestFailure {pl : List Part} {z : State} {cause : Nat} {s : State} (hk : sameBut pl z s) (hl : partsIn [.events, .rng, .tmp, .evr] pl = true) :
    OutParts pl z (execHealthTestFailure cause s) := by
  unfold execHealthTestFailure
  repeat' first | (with_reducible first | assumption | rfl | intro _ | apply sb_rngFail | apply sb_ite | apply outSb_ite | apply outSb_next) | exact partsIn_trans hl rfl | split

theorem sb_execReseedTickDue {pl : List Part} {z : State} {s : State} (hk : sameBut pl z s) (hl : partsIn [.rng] pl = true) :
    OutParts pl z (execReseedTickDue s) := by
  unfold execReseedTickDue
  repeat' first | (with_reducible first | assumption | rfl | intro _ | apply sb_onRng | apply sb_ite | apply outSb_ite | apply outSb_next) | exact partsIn_trans hl rfl | split

theorem sb_execReseed {pl : List Part} {z : State} {s : State} (hk : sameBut pl z s) (hl : partsIn [.eng, .rng] pl = true) :
    OutParts pl z (execReseed s) := by
  unfold execReseed
  repeat' first | (with_reducible first | assumption | rfl | intro _ | apply sb_housekeep | apply sb_onRng | apply sb_ite | apply outSb_ite | apply outSb_next) | exact partsIn_trans hl rfl | split

theorem sb_execRawCapture {pl : List Part} {z : State} {v : Word} {s : State} (hk : sameBut pl z s) (hl : partsIn [.events, .mpu, .fwl, .rng, .evr] pl = true) :
    OutParts pl z (execRawCapture v s) := by
  unfold execRawCapture
  try dsimp only
  repeat' first | (with_reducible first | assumption | rfl | intro _ | apply sb_onE | apply sb_onRng | apply sb_refuseAcc | apply sb_ite | apply outSb_ite | apply outSb_next) | exact partsIn_trans hl rfl | split

/-! ### Machine/EngBase.lean -/

theorem sb_monRaise {pl : List Part} {z : State} {s : State} {blk : Nat} (hk : sameBut pl z s) (hl : partsIn [.cores] pl = true) :
    sameBut pl z (monRaise s blk) := by
  unfold monRaise
  dsimp only
  repeat' first | (with_reducible first | assumption | rfl | intro _ | apply sb_setCore) | exact partsIn_trans hl rfl | split

theorem sb_monLower {pl : List Part} {z : State} {s : State} {blk : Nat} (hk : sameBut pl z s) (hl : partsIn [.cores] pl = true) :
    sameBut pl z (monLower s blk) := by
  unfold monLower
  dsimp only
  repeat' first | (with_reducible first | assumption | rfl | intro _ | apply sb_setCore) | exact partsIn_trans hl rfl | split

theorem sb_cyclesOr {pl : List Part} {z : State} {s : State} {cycles : Option Nat} (hk : sameBut pl z s)  {a : Nat} {t : State} (e : cyclesOr s cycles = (a, t)) (hl : partsIn [.free] pl = true) :
    sameBut pl z t := by
  unfold cyclesOr at e
  try dsimp only at e
  repeat' split at e
  all_goals cases e
  all_goals repeat' first | (with_reducible first | assumption | rfl | intro _ | apply sb_freeBytes_p) | exact partsIn_trans hl rfl | (refine sb_freeBytes ?_ (by with_reducible assumption) ?_) | split

theorem sb_cyclesOr_p {pl : List Part} {z : State} {s : State} {cycles : Option Nat} (hk : sameBut pl z s) (hl : partsIn [.free] pl = true) : sameBut pl z (cyclesOr s cycles).2 := sb_cyclesOr hk (Prod.eta _).symm hl

theorem sb_pushRes {pl : List Part} {z : State} {s : State} {tag : Word} {e res outLen : Nat} {blocks : Nat} (hk : sameBut pl z s) (hl : partsIn [.eng, .cores, .free] pl = true) :
    sameBut pl z (pushRes s tag e res outLen blocks) := by
  unfold pushRes
  try dsimp only
  repeat' first | (with_reducible first | assumption | rfl | intro _ | apply sb_blkEng | apply sb_cyclesOr_p | apply sb_monRaise | apply sb_ite) | exact partsIn_trans hl rfl | (refine sb_cyclesOr ?_ (by with_reducible assumption) ?_) | split

theorem sb_pushPkeRes {pl : List Part} {z : State} {s : State} {tag : Word} {e res outLen : Nat} {cycles : Option Nat} (hk : sameBut pl z s) (hl : partsIn [.pke, .cores, .free] pl = true) :
    sameBut pl z (pushPkeRes s tag e res outLen cycles) := by
  unfold pushPkeRes
  dsimp only
  repeat' first | (with_reducible first | assumption | rfl | intro _ | apply sb_blkPke | apply sb_monRaise | apply sb_cyclesOr_p) | exact partsIn_trans hl rfl | (refine sb_cyclesOr ?_ (by with_reducible assumption) ?_) | split

theorem sb_laneWipe {pl : List Part} {z : State} {s : State} {o : LaneOp} (hk : sameBut pl z s) (hl : partsIn [.sram] pl = true) :
    sameBut pl z (laneWipe s o) := by
  unfold laneWipe
  repeat' first | (with_reducible first | assumption | rfl | intro _ | apply sb_blkSram | apply sb_ite | apply optSb_getD) | exact partsIn_trans hl rfl | split

theorem sb_laneAbort {pl : List Part} {z : State} {s : State} {e : Nat} {res : Nat} {o : LaneOp} (hk : sameBut pl z s) (hl : partsIn [.eng, .cores, .sram, .free] pl = true) :
    sameBut pl z (laneAbort s e res o) := by
  unfold laneAbort
  repeat' first | (with_reducible first | assumption | rfl | intro _ | apply sb_pushRes | apply sb_laneWipe | apply sb_ite | apply optSb_getD) | exact partsIn_trans hl rfl | split

theorem sb_laneAbortAll {pl : List Part} {z : State} {res : Nat} {s : State} {e : Nat} (hk : sameBut pl z s) (hl : partsIn [.eng, .cores, .sram, .free] pl = true) :
    sameBut pl z (laneAbortAll res s e) := by
  unfold laneAbortAll
  repeat' first | (with_reducible first | assumption | rfl | intro _ | apply sb_setLane | apply sb_laneAbort | apply sb_foldl) | exact partsIn_trans hl rfl | split

theorem sb_pkeTag_p {pl : List Part} {z : State} {s : State} {o : PkeOp} (hk : sameBut pl z s) (hl : partsIn [.free] pl = true) : sameBut pl z (pkeTag s o).2 := by
  unfold pkeTag
  try dsimp only
  repeat' first | (with_reducible first | assumption | rfl | intro _ | apply sb_freeBytes_p | apply sb_ite | apply optSb_getD) | exact partsIn_trans hl rfl | (refine sb_freeBytes ?_ (by with_reducible assumption) ?_) | split

theorem sb_pkeTag {pl : List Part} {z : State} {s : State} {o : PkeOp} (hk : sameBut pl z s) {a : Word} {t : State} (he : pkeTag s o = (a, t)) (hl : partsIn [.free] pl = true) : sameBut pl z t := by
  have h' := sb_pkeTag_p hk hl (z := z) (s := s) (o := o)
  rw [he] at h'
  exact h'

theorem sb_pkeEnded {pl : List Part} {z : State} {s : State} {p res : Nat} {o : PkeOp} (hk : sameBut pl z s) (hl : partsIn [.pke, .cores, .free] pl = true) :
    sameBut pl z (pkeEnded s p res o) := by
  unfold pkeEnded
  try dsimp only
  repeat' first | (with_reducible first | assumption | rfl | intro _ | apply sb_blkPke | apply sb_pkeTag_p | apply sb_pushPkeRes | apply sb_ite) | exact partsIn_trans hl rfl | (refine sb_pkeTag ?_ (by with_reducible assumption) ?_) | split

theorem sb_pkeAbortAll {pl : List Part} {z : State} {res : Nat} {s : State} {p : Nat} (hk : sameBut pl z s) (hl : partsIn [.pke, .cores, .free] pl = true) :
    sameBut pl z (pkeAbortAll res s p) := by
  unfold pkeAbortAll
  try dsimp only
  repeat' first | (with_reducible first | assumption | rfl | intro _ | apply sb_pkeEnded | apply sb_setPke | apply sb_foldl | apply sb_ite) | exact partsIn_trans hl rfl | split

theorem sb_abortCust {pl : List Part} {z : State} {s : State} {res : Nat} (hk : sameBut pl z s) (hl : partsIn [.cus, .pke] pl = true) :
    sameBut pl z (abortCust s res) := by
  unfold abortCust
  repeat' first | (with_reducible first | assumption | rfl | intro _ | apply sb_blkCus | apply sb_custStop | apply sb_ite) | exact partsIn_trans hl rfl | split

theorem sb_abortEngines {pl : List Part} {z : State} {s : State} {res : Nat} (hk : sameBut pl z s) (hl : partsIn [.cus, .eng, .pke, .cores, .sram, .free] pl = true) :
    sameBut pl z (abortEngines s res) := by
  unfold abortEngines
  dsimp only
  repeat' first | (with_reducible first | assumption | rfl | intro _ | apply sb_pkeAbortAll | apply sb_abortCust | apply sb_laneAbortAll | apply sb_foldl) | exact partsIn_trans hl rfl | split

theorem sb_ringAbort {pl : List Part} {z : State} {f : Nat → Bool} {status : Nat} {s : State} {k : Nat} (hk : sameBut pl z s) (hl : partsIn [.events, .hif, .evr, .flt] pl = true) :
    sameBut pl z (ringAbort f status s k) := by
  unfold ringAbort
  dsimp only
  repeat' first | (with_reducible first | assumption | rfl | intro _ | apply sb_endRunning | apply sb_foldl | apply sb_ite) | exact partsIn_trans hl rfl | split

theorem sb_abortCommands {pl : List Part} {z : State} {s : State} {f : Nat → Bool} {status : Nat} (hk : sameBut pl z s) (hl : partsIn [.events, .hif, .evr, .flt] pl = true) :
    sameBut pl z (abortCommands s f status) := by
  unfold abortCommands
  repeat' first | (with_reducible first | assumption | rfl | intro _ | apply sb_ringAbort | apply sb_foldl) | exact partsIn_trans hl rfl | split

theorem sb_tripAbort {pl : List Part} {z : State} {status : Nat} {s : State} {t : Trip} (hk : sameBut pl z s) (hl : partsIn [.events, .hif, .evr, .flt] pl = true) :
    sameBut pl z (tripAbort status s t) := by
  unfold tripAbort
  try dsimp only
  repeat' first | (with_reducible first | assumption | rfl | intro _ | apply sb_blkHif | apply sb_endRunning | apply sb_tripDrop | apply sb_ite) | exact partsIn_trans hl rfl | split

theorem sb_abortTrips {pl : List Part} {z : State} {s : State} {status : Nat} (hk : sameBut pl z s) (hl : partsIn [.events, .eng, .hif, .evr, .flt] pl = true) :
    sameBut pl z (abortTrips s status) := by
  unfold abortTrips
  dsimp only
  repeat' first | (with_reducible first | assumption | rfl | intro _ | apply sb_blkEng | apply sb_tripAbort | apply sb_foldl) | exact partsIn_trans hl rfl | split

/-! ### Machine/CanBase.lean -/

theorem sb_setCan {pl : List Part} {z : State} {s : State} {ch : Nat} {c : CanCh} (hk : sameBut pl z s) (hl : partsIn [.can0, .can1] pl = true) :
    sameBut pl z (setCan s ch c) := by
  unfold setCan
  repeat' first | (with_reducible first | assumption | rfl | intro _ | apply sb_blkCan0 | apply sb_blkCan1 | apply sb_ite) | exact partsIn_trans hl rfl | split

theorem sb_pickTx {pl : List Part} {z : State} {s : State} {ch : Nat} (hk : sameBut pl z s) (hl : partsIn [.can0, .can1] pl = true) :
    sameBut pl z (pickTx s ch) := by
  unfold pickTx
  try dsimp only
  repeat' first | (with_reducible first | assumption | rfl | intro _ | apply sb_setCan | apply sb_ite) | exact partsIn_trans hl rfl | split

theorem sb_canIrq {pl : List Part} {z : State} {s : State} {ch : Nat} (hk : sameBut pl z s) (hl : partsIn [.cores] pl = true) :
    sameBut pl z (canIrq s ch) := by
  unfold canIrq
  repeat' first | (with_reducible first | assumption | rfl | intro _ | apply sb_monLower | apply sb_monRaise | apply sb_ite) | exact partsIn_trans hl rfl | split

theorem sb_loadTx {pl : List Part} {z : State} {s : State} {ch b : Nat} {f : CanFrame} (hk : sameBut pl z s) (hl : partsIn [.can0, .can1] pl = true) :
    sameBut pl z (loadTx s ch b f) := by
  unfold loadTx
  repeat' first | (with_reducible first | assumption | rfl | intro _ | apply sb_setCan | apply sb_pickTx) | exact partsIn_trans hl rfl | split

theorem sb_sendFrame {pl : List Part} {z : State} {s : State} {ch : Nat} {f : CanFrame} (hk : sameBut pl z s) (hl : partsIn [.can0, .can1, .voe] pl = true) :
    sameBut pl z (sendFrame s ch f) := by
  unfold sendFrame
  repeat' first | (with_reducible first | assumption | rfl | intro _ | apply sb_blkVoe | apply sb_loadTx | apply sb_ite) | exact partsIn_trans hl rfl | split

theorem sb_drainOut {pl : List Part} {z : State} {s : State} (hk : sameBut pl z s) (hl : partsIn [.can0, .can1, .voe] pl = true) :
    sameBut pl z (drainOut s) := by
  unfold drainOut
  dsimp only
  repeat' first | (with_reducible first | assumption | rfl | intro _ | apply sb_blkVoe | apply sb_sendFrame | apply sb_foldl) | exact partsIn_trans hl rfl | split

theorem sb_broadcast {pl : List Part} {z : State} {s : State} {pri typ : Nat} {pay : Bytes} (hk : sameBut pl z s) (hl : partsIn [.can0, .can1, .voe] pl = true) :
    sameBut pl z (broadcast s pri typ pay) := by
  unfold broadcast
  dsimp only
  repeat' first | (with_reducible first | assumption | rfl | intro _ | apply sb_blkVoe | apply sb_sendFrame | apply sb_foldl | apply sb_ite) | exact partsIn_trans hl rfl | split

theorem sb_sendAlarm {pl : List Part} {z : State} {s : State} {src : Nat} {t : Stamp} (hk : sameBut pl z s) (hl : partsIn [.can0, .can1, .voe] pl = true) :
    sameBut pl z (sendAlarm s src t) := by
  unfold sendAlarm
  repeat' first | (with_reducible first | assumption | rfl | intro _ | apply sb_broadcast) | exact partsIn_trans hl rfl | split

/-! ### Machine/CusBase.lean -/

theorem sb_onCus {pl : List Part} {z : State} {s : State} {f : Cus → Cus} (hk : sameBut pl z s) (hl : partsIn [.cus] pl = true) :
    sameBut pl z (onCus s f) := by
  unfold onCus
  repeat' first | (with_reducible first | assumption | rfl | intro _ | apply sb_blkCus | apply hf) | exact partsIn_trans hl rfl | split

theorem sb_logLatch {pl : List Part} {z : State} {s : State} {l : Latch} (hk : sameBut pl z s) (hl : partsIn [.events, .evr] pl = true) :
    sameBut pl z (logLatch s l) := by
  unfold logLatch
  repeat' first | (with_reducible first | assumption | rfl | intro _ | apply sb_logS) | exact partsIn_trans hl rfl | split

theorem sb_latchClear {pl : List Part} {z s : State} (h : sameBut pl z s) (hl : partsIn [.events, .cus, .evr, .flt] pl = true) : sameBut pl z (latchClear s) := by
  unfold latchClear
  split
  · exact sb_onCus (sb_blkFlt (sb_logLatch h (partsIn_trans hl rfl)) (partsIn_trans hl rfl)) (partsIn_trans hl rfl)
  · exact h

theorem sb_sendStatus {pl : List Part} {z : State} {s : State} {st : Nat} (hk : sameBut pl z s) (hl : partsIn [.can0, .can1, .voe] pl = true) :
    sameBut pl z (sendStatus s st) := by
  unfold sendStatus
  repeat' first | (with_reducible first | assumption | rfl | intro _ | apply sb_broadcast) | exact partsIn_trans hl rfl | split

theorem sb_reqClose {pl : List Part} {z : State} {s : State} {st waitStatus : Nat} (hk : sameBut pl z s) (hl : partsIn [.events, .cus, .can0, .can1, .voe, .hif, .evr, .flt] pl = true) :
    sameBut pl z (reqClose s st waitStatus) := by
  unfold reqClose
  dsimp only
  repeat' first | (with_reducible first | assumption | rfl | intro _ | apply sb_endWaits | apply sb_onCus | apply sb_sendStatus | apply sb_ite) | exact partsIn_trans hl rfl | split

theorem sb_runStop {pl : List Part} {z : State} {s : State} {res : Nat} (hk : sameBut pl z s) (hl : partsIn [.cus] pl = true) :
    sameBut pl z (runStop s res) := by
  unfold runStop
  repeat' first | (with_reducible first | assumption | rfl | intro _ | apply sb_onCus | apply sb_ite) | exact partsIn_trans hl rfl | split

theorem sb_custCancelAll {pl : List Part} {z : State} {s : State} {st res : Nat} (hk : sameBut pl z s) (hl : partsIn [.events, .cus, .can0, .can1, .voe, .hif, .evr, .flt] pl = true) :
    sameBut pl z (custCancelAll s st res) := by
  unfold custCancelAll
  repeat' first | (with_reducible first | assumption | rfl | intro _ | apply sb_reqClose | apply sb_runStop | apply sb_latchClear) | exact partsIn_trans hl rfl | split

theorem sb_latchUse {pl : List Part} {z : State} {s : State} (hk : sameBut pl z s) (hl : partsIn [.events, .cus, .can0, .can1, .voe, .hif, .evr, .flt] pl = true) :
    sameBut pl z (latchUse s) := by
  unfold latchUse
  try dsimp only
  repeat' first | (with_reducible first | assumption | rfl | intro _ | apply sb_reqClose | apply sb_onCus | apply sb_logLatch | apply sb_ite) | exact partsIn_trans hl rfl | split

theorem sb_latchConsume {pl : List Part} {z : State} {s : State} (hk : sameBut pl z s) (hl : partsIn [.events, .cus, .can0, .can1, .voe, .hif, .evr, .flt] pl = true) :
    sameBut pl z (latchConsume s) := by
  unfold latchConsume
  repeat' first | (with_reducible first | assumption | rfl | intro _ | apply sb_latchUse | apply sb_reqClose | apply sb_latchClear | apply sb_ite) | exact partsIn_trans hl rfl | split

theorem sb_runLost {pl : List Part} {z : State} {s : State} {n : Nat} (hk : sameBut pl z s) (hl : partsIn [.events, .cus, .can0, .can1, .voe, .hif, .evr, .flt] pl = true) :
    sameBut pl z (runLost s n) := by
  unfold runLost
  try dsimp only
  repeat' first | (with_reducible first | assumption | rfl | intro _ | apply sb_runStop | apply sb_onCus | apply sb_reqClose | apply sb_ite) | exact partsIn_trans hl rfl | split

theorem sb_slotLost {pl : List Part} {z : State} {s : State} {n : Nat} (hk : sameBut pl z s) (hl : partsIn [.events, .cus, .can0, .can1, .voe, .hif, .evr, .flt] pl = true) :
    sameBut pl z (slotLost s n) := by
  unfold slotLost
  try dsimp only
  repeat' first | (with_reducible first | assumption | rfl | intro _ | apply sb_latchClear | apply sb_onCus | apply sb_runLost | apply sb_ite) | exact partsIn_trans hl rfl | split

theorem sb_slotCheck {pl : List Part} {z : State} {s0 s : State} {n : Nat} (hk : sameBut pl z s) (hs0 : sameBut pl z s0) (hl : partsIn [.events, .cus, .can0, .can1, .voe, .hif, .evr, .flt] pl = true) :
    sameBut pl z (slotCheck s0 s n) := by
  unfold slotCheck
  repeat' first | (with_reducible first | assumption | rfl | intro _ | apply sb_slotLost | apply sb_ite) | exact partsIn_trans hl rfl | split

theorem sb_custHalt {pl : List Part} {z : State} {s : State} (hk : sameBut pl z s) (hl : partsIn [.events, .cus, .can0, .can1, .voe, .pke, .hif, .evr, .flt] pl = true) :
    sameBut pl z (custHalt s) := by
  unfold custHalt
  try dsimp only
  repeat' first | (with_reducible first | assumption | rfl | intro _ | apply sb_custStop | apply sb_reqClose | apply sb_ite) | exact partsIn_trans hl rfl | split

/-! ### Machine/Engines.lean -/

theorem sb_engPost {pl : List Part} {z : State} {s : State} {v : Word} (hk : sameBut pl z s) (hl : partsIn [.events, .eng, .evr] pl = true) :
    sameBut pl z (engPost s v) := by
  unfold engPost
  dsimp only
  repeat' first | (with_reducible first | assumption | rfl | intro _ | apply sb_setLane | apply sb_logOther | apply sb_ite) | exact partsIn_trans hl rfl | split

theorem sb_execEngPostGo {pl : List Part} {z : State} {v : Word} {s : State} (hk : sameBut pl z s) (hl : partsIn [.events, .mpu, .fwl, .eng, .evr] pl = true) :
    OutParts pl z (execEngPostGo v s) := by
  unfold execEngPostGo
  repeat' first | (with_reducible first | assumption | rfl | intro _ | apply sb_engPost | apply sb_onE | apply outSb_next) | exact partsIn_trans hl rfl | split

theorem sb_engPop {pl : List Part} {z : State} {s : State} (hk : sameBut pl z s) (hl : partsIn [.eng, .cores] pl = true) :
    sameBut pl z (engPop s) := by
  unfold engPop
  dsimp only
  repeat' first | (with_reducible first | assumption | rfl | intro _ | apply sb_blkEng | apply sb_monLower | apply sb_ite) | exact partsIn_trans hl rfl | split

theorem sb_execEngRespop {pl : List Part} {z : State} {s : State} (hk : sameBut pl z s) (hl : partsIn [.events, .mpu, .fwl, .eng, .evr, .cores] pl = true) :
    OutParts pl z (execEngRespop s) := by
  unfold execEngRespop
  repeat' first | (with_reducible first | assumption | rfl | intro _ | apply sb_engPop | apply sb_onE | apply outSb_next) | exact partsIn_trans hl rfl | split

theorem sb_laneDma_p {pl : List Part} {z : State} {s : State} {o : LaneOp} {write : Bool} {addr len : Nat} {f : LaneOp × State} (hk : sameBut pl z s) (hf : sameBut pl z f.2) (hl : partsIn [.events, .mpu, .fwl, .evr] pl = true) : sameBut pl z (laneDma s o write addr len f).2 := by
  unfold laneDma
  try dsimp only
  repeat' first | (with_reducible first | assumption | rfl | intro _ | apply sb_refuseAcc | apply sb_ite) | exact partsIn_trans hl rfl | split

theorem sb_laneDma {pl : List Part} {z : State} {s : State} {o : LaneOp} {write : Bool} {addr len : Nat} {f : LaneOp × State} (hk : sameBut pl z s) (hf : sameBut pl z f.2) {a : LaneOp} {t : State} (he : laneDma s o write addr len f = (a, t)) (hl : partsIn [.events, .mpu, .fwl, .evr] pl = true) : sameBut pl z t := by
  have h' := sb_laneDma_p hk hf hl (z := z) (s := s) (o := o) (write := write) (addr := addr) (len := len) (f := f)
  rw [he] at h'
  exact h'

theorem sb_lanePut_p {pl : List Part} {z : State} {s : State} {e : Nat} {o : LaneOp} {b : Bytes} (hk : sameBut pl z s) (hl : partsIn [.events, .mpu, .fwl, .evr, .sram, .free] pl = true) : sameBut pl z (lanePut s e o b).2 := by
  unfold lanePut
  try dsimp only
  repeat' first | (with_reducible first | assumption | rfl | intro _ | apply sb_freeBytes_p | apply sb_laneDma_p | apply sb_sramWrite | apply sb_ite | apply optSb_getD) | exact partsIn_trans hl rfl | (refine sb_freeBytes ?_ (by with_reducible assumption) ?_) | (refine sb_laneDma ?_ (by with_reducible assumption) ?_) | split

theorem sb_lanePut {pl : List Part} {z : State} {s : State} {e : Nat} {o : LaneOp} {b : Bytes} (hk : sameBut pl z s) {a : LaneOp} {t : State} (he : lanePut s e o b = (a, t)) (hl : partsIn [.events, .mpu, .fwl, .evr, .sram, .free] pl = true) : sameBut pl z t := by
  have h' := sb_lanePut_p hk hl (z := z) (s := s) (e := e) (o := o) (b := b)
  rw [he] at h'
  exact h'

theorem sb_laneStart_p {pl : List Part} {z : State} {s : State} {e : Nat} {o : LaneOp} (hk : sameBut pl z s) (hl : partsIn [.events, .mpu, .fwl, .evr] pl = true) : sameBut pl z (laneStart s e o).2 := by
  unfold laneStart
  try dsimp only
  repeat' first | (with_reducible first | assumption | rfl | intro _ | apply sb_laneDma_p | apply sb_ite | apply optSb_getD) | exact partsIn_trans hl rfl | (refine sb_laneDma ?_ (by with_reducible assumption) ?_) | split

theorem sb_laneStart {pl : List Part} {z : State} {s : State} {e : Nat} {o : LaneOp} (hk : sameBut pl z s) {a : LaneOp} {t : State} (he : laneStart s e o = (a, t)) (hl : partsIn [.events, .mpu, .fwl, .evr] pl = true) : sameBut pl z t := by
  have h' := sb_laneStart_p hk hl (z := z) (s := s) (e := e) (o := o)
  rw [he] at h'
  exact h'

theorem sb_laneTake_p {pl : List Part} {z : State} {s : State} {o : LaneOp} {n : Nat} (hk : sameBut pl z s) (hl : partsIn [.events, .mpu, .fwl, .evr] pl = true) : sameBut pl z (laneTake s o n).2 := by
  unfold laneTake
  try dsimp only
  repeat' first | (with_reducible first | assumption | rfl | intro _ | apply sb_laneDma_p | apply sb_ite | apply optSb_getD) | exact partsIn_trans hl rfl | (refine sb_laneDma ?_ (by with_reducible assumption) ?_) | split

theorem sb_laneTake {pl : List Part} {z : State} {s : State} {o : LaneOp} {n : Nat} (hk : sameBut pl z s) {a : LaneOp} {t : State} (he : laneTake s o n = (a, t)) (hl : partsIn [.events, .mpu, .fwl, .evr] pl = true) : sameBut pl z t := by
  have h' := sb_laneTake_p hk hl (z := z) (s := s) (o := o) (n := n)
  rw [he] at h'
  exact h'

theorem sb_laneMove_p {pl : List Part} {z : State} {s : State} {e : Nat} {o : LaneOp} {n : Nat} (hk : sameBut pl z s) (hl : partsIn [.events, .mpu, .fwl, .evr, .sram, .free] pl = true) : sameBut pl z (laneMove s e o n).2 := by
  unfold laneMove
  try dsimp only
  repeat' first | (with_reducible first | assumption | rfl | intro _ | apply sb_laneTake_p | apply sb_lanePut_p | apply sb_ite) | exact partsIn_trans hl rfl | (refine sb_laneTake ?_ (by with_reducible assumption) ?_) | (refine sb_lanePut ?_ (by with_reducible assumption) ?_) | split

theorem sb_laneMove {pl : List Part} {z : State} {s : State} {e : Nat} {o : LaneOp} {n : Nat} (hk : sameBut pl z s) {a : LaneOp} {t : State} (he : laneMove s e o n = (a, t)) (hl : partsIn [.events, .mpu, .fwl, .evr, .sram, .free] pl = true) : sameBut pl z t := by
  have h' := sb_laneMove_p hk hl (z := z) (s := s) (e := e) (o := o) (n := n)
  rw [he] at h'
  exact h'

theorem sb_laneQuantum_p {pl : List Part} {z : State} {s : State} {e : Nat} {o : LaneOp} (hk : sameBut pl z s) (hl : partsIn [.events, .mpu, .fwl, .evr, .sram, .free] pl = true) : sameBut pl z (laneQuantum s e o).2 := by
  unfold laneQuantum
  try dsimp only
  repeat' first | (with_reducible first | assumption | rfl | intro _ | apply sb_laneStart_p | apply sb_freeBytes_p | apply sb_laneMove_p | apply sb_ite) | exact partsIn_trans hl rfl | (refine sb_laneStart ?_ (by with_reducible assumption) ?_) | (refine sb_freeBytes ?_ (by with_reducible assumption) ?_) | (refine sb_laneMove ?_ (by with_reducible assumption) ?_) | split

theorem sb_laneQuantum {pl : List Part} {z : State} {s : State} {e : Nat} {o : LaneOp} (hk : sameBut pl z s) {a : LaneOp} {t : State} (he : laneQuantum s e o = (a, t)) (hl : partsIn [.events, .mpu, .fwl, .evr, .sram, .free] pl = true) : sameBut pl z t := by
  have h' := sb_laneQuantum_p hk hl (z := z) (s := s) (e := e) (o := o)
  rw [he] at h'
  exact h'

theorem sb_laneRun {pl : List Part} {z : State} {s : State} {e cls fn : Nat} (hk : sameBut pl z s) (hl : partsIn [.events, .mpu, .fwl, .eng, .evr, .sram, .free] pl = true) :
    sameBut pl z (laneRun s e cls fn) := by
  unfold laneRun
  try dsimp only
  repeat' first | (with_reducible first | assumption | rfl | intro _ | apply sb_laneQuantum_p | apply sb_setLane | apply sb_ite) | exact partsIn_trans hl rfl | (refine sb_laneQuantum ?_ (by with_reducible assumption) ?_) | split

theorem sb_laneFinish_p {pl : List Part} {z : State} {s : State} {e : Nat} {o : LaneOp} (hk : sameBut pl z s) (hl : partsIn [.events, .mpu, .fwl, .evr, .sram, .free] pl = true) : sameBut pl z (laneFinish s e o).2.1 := by
  unfold laneFinish
  try dsimp only
  repeat' first | (with_reducible first | assumption | rfl | intro _ | apply sb_laneMove_p | apply sb_lanePut_p | apply sb_laneWipe | apply sb_ite) | exact partsIn_trans hl rfl | (refine sb_laneMove ?_ (by with_reducible assumption) ?_) | (refine sb_lanePut ?_ (by with_reducible assumption) ?_) | split

theorem sb_laneFinish {pl : List Part} {z : State} {s : State} {e : Nat} {o : LaneOp} (hk : sameBut pl z s) {a : LaneOp} {b : Bool} {t : State} (he : laneFinish s e o = (a, t, b)) (hl : partsIn [.events, .mpu, .fwl, .evr, .sram, .free] pl = true) : sameBut pl z t := by
  have h' := sb_laneFinish_p hk hl (z := z) (s := s) (e := e) (o := o)
  rw [he] at h'
  exact h'

theorem sb_laneEnd {pl : List Part} {z : State} {s : State} {e : Nat} {o : LaneOp} (hk : sameBut pl z s) (hl : partsIn [.events, .mpu, .fwl, .eng, .evr, .cores, .sram, .free] pl = true) :
    sameBut pl z (laneEnd s e o) := by
  unfold laneEnd
  try dsimp only
  repeat' first | (with_reducible first | assumption | rfl | intro _ | apply sb_laneFinish_p | apply sb_setLane | apply sb_laneAbort | apply sb_pushRes | apply sb_ite | apply optSb_getD) | exact partsIn_trans hl rfl | (refine sb_laneFinish ?_ (by with_reducible assumption) ?_) | split

theorem sb_execEngineOpEnd {pl : List Part} {z : State} {e : Nat} {s : State} (hk : sameBut pl z s) (hl : partsIn [.events, .mpu, .fwl, .eng, .evr, .cores, .sram, .free] pl = true) :
    OutParts pl z (execEngineOpEnd e s) := by
  unfold execEngineOpEnd
  repeat' first | (with_reducible first | assumption | rfl | intro _ | apply sb_laneEnd | apply sb_ite | apply outSb_ite | apply outSb_next) | exact partsIn_trans hl rfl | split

theorem sb_pkeSeed {pl : List Part} {z : State} {s : State} (hk : sameBut pl z s) (hl : partsIn [.eng, .rng] pl = true) :
    sameBut pl z (pkeSeed s) := by
  unfold pkeSeed
  repeat' first | (with_reducible first | assumption | rfl | intro _ | apply sb_ite) | exact partsIn_trans hl rfl | (refine sb_rngInternal ?_ (by with_reducible assumption) ?_) | split

theorem sb_runQuantum {pl : List Part} {z : State} {s : State} {e cls : Nat} (hk : sameBut pl z s) (hl : partsIn [.events, .glb, .mpu, .fwl, .eng, .pke, .rng, .evr, .sram, .free] pl = true) :
    sameBut pl z (runQuantum s e cls) := by
  unfold runQuantum
  try dsimp only
  repeat' first | (with_reducible first | assumption | rfl | intro _ | apply sb_blkEng | apply sb_laneRun | apply sb_pkeSeed | apply sb_setPke | apply sb_ite) | refine sb_blkGlb ?_ ⟨rfl, rfl, rfl, rfl, rfl⟩ ?_ | refine sb_blkEv ?_ rfl ?_ | apply sb_blkGlbE | exact partsIn_trans hl rfl | split

theorem sb_pkeZero {pl : List Part} {z : State} {s : State} {p : Nat} (hk : sameBut pl z s) (hl : partsIn [.pke] pl = true) :
    sameBut pl z (pkeZero s p) := by
  unfold pkeZero
  dsimp only
  repeat' first | (with_reducible first | assumption | rfl | intro _ | apply sb_setPke | apply sb_foldl) | exact partsIn_trans hl rfl | split

theorem sb_execQuantumBoundary {pl : List Part} {z : State} {e : Nat} {s : State} (hk : sameBut pl z s) (hl : partsIn [.events, .glb, .mpu, .fwl, .cus, .can0, .can1, .voe, .eng, .pke, .rng, .hif, .evr, .flt, .sram, .free] pl = true) :
    OutParts pl z (execQuantumBoundary e s) := by
  unfold execQuantumBoundary
  try dsimp only
  repeat' first | (with_reducible first | assumption | rfl | intro _ | apply sb_blkEng | apply sb_custHalt | apply sb_pkeZero | apply sb_runQuantum | apply sb_setPke | apply sb_ite | apply outSb_ite | apply outSb_next | apply optSb_getD) | refine sb_blkGlb ?_ ⟨rfl, rfl, rfl, rfl, rfl⟩ ?_ | refine sb_blkEv ?_ rfl ?_ | apply sb_blkGlbE | exact partsIn_trans hl rfl | split

theorem sb_pkePost {pl : List Part} {z : State} {s : State} {v : Word} (hk : sameBut pl z s) (hl : partsIn [.events, .pke, .evr] pl = true) :
    sameBut pl z (pkePost s v) := by
  unfold pkePost
  dsimp only
  repeat' first | (with_reducible first | assumption | rfl | intro _ | apply sb_setPke | apply sb_logOther | apply sb_ite) | exact partsIn_trans hl rfl | split

theorem sb_execPkePostGo {pl : List Part} {z : State} {v : Word} {s : State} (hk : sameBut pl z s) (hl : partsIn [.events, .mpu, .fwl, .pke, .evr] pl = true) :
    OutParts pl z (execPkePostGo v s) := by
  unfold execPkePostGo
  repeat' first | (with_reducible first | assumption | rfl | intro _ | apply sb_pkePost | apply sb_onE | apply outSb_next) | exact partsIn_trans hl rfl | split

theorem sb_pkePop {pl : List Part} {z : State} {s : State} (hk : sameBut pl z s) (hl : partsIn [.pke, .cores] pl = true) :
    sameBut pl z (pkePop s) := by
  unfold pkePop
  dsimp only
  repeat' first | (with_reducible first | assumption | rfl | intro _ | apply sb_blkPke | apply sb_monLower | apply sb_ite) | exact partsIn_trans hl rfl | split

theorem sb_execPkeRespop {pl : List Part} {z : State} {s : State} (hk : sameBut pl z s) (hl : partsIn [.events, .mpu, .fwl, .pke, .evr, .cores] pl = true) :
    OutParts pl z (execPkeRespop s) := by
  unfold execPkeRespop
  repeat' first | (with_reducible first | assumption | rfl | intro _ | apply sb_pkePop | apply sb_onE | apply outSb_next) | exact partsIn_trans hl rfl | split

theorem sb_execPkeResident {pl : List Part} {z : State} {p : Nat} {s : State} (h : sameBut pl z s) (hl : partsIn [.cus, .eng, .pke, .rng] pl = true) :
    OutParts pl z (execPkeResident p s) := by
  unfold execPkeResident
  split
  · exact outSb_next h
  dsimp only
  have h2 : sameBut pl z (pkeZero s p) := sb_pkeZero h (partsIn_trans hl rfl)
  generalize pkeZero s p = t at *
  split
  · split
    · exact outSb_next (sb_setPke h2 (partsIn_trans hl rfl))
    · exact outSb_next h2
  · split
    · exact outSb_next (sb_pkeSeed (sb_blkCus (sb_setPke h2 (partsIn_trans hl rfl)) (partsIn_trans hl rfl)) (partsIn_trans hl rfl))
    · exact outSb_next h2

theorem sb_pkeAny {pl : List Part} {z : State} {s : State} {n : Nat} (hk : sameBut pl z s)  {a : Nat} {t : State} (e : pkeAny s n = (a, t)) (hl : partsIn [.free] pl = true) :
    sameBut pl z t := by
  unfold pkeAny at e
  try dsimp only at e
  repeat' split at e
  all_goals cases e
  all_goals repeat' first | (with_reducible first | assumption | rfl | intro _ | apply sb_blkFree) | exact partsIn_trans hl rfl | split

theorem sb_pkeAny_p {pl : List Part} {z : State} {s : State} {n : Nat} (hk : sameBut pl z s) (hl : partsIn [.free] pl = true) : sameBut pl z (pkeAny s n).2 := sb_pkeAny hk (Prod.eta _).symm hl

theorem sb_pkeIntEnd_p {pl : List Part} {z : State} {s : State} {p : Nat} {o : PkeOp} (hk : sameBut pl z s) (hl : partsIn [.pke, .free] pl = true) : sameBut pl z (pkeIntEnd s p o).1 := by
  unfold pkeIntEnd
  try dsimp only
  repeat' first | (with_reducible first | assumption | rfl | intro _ | apply sb_setPke | apply sb_pkeAny_p | apply sb_ite | apply optSb_getD) | exact partsIn_trans hl rfl | (refine sb_pkeAny ?_ (by with_reducible assumption) ?_) | split

theorem sb_pkeIntEnd {pl : List Part} {z : State} {s : State} {p : Nat} {o : PkeOp} (hk : sameBut pl z s)  {a : Nat} {t : State} (e : pkeIntEnd s p o = (t, a)) (hl : partsIn [.pke, .free] pl = true) :
    sameBut pl z t := by
  have := sb_pkeIntEnd_p (s := s) (p := p) (o := o) hk hl
  rw [e] at this
  exact this

theorem sb_pkePointEnd_p {pl : List Part} {z : State} {s : State} {p : Nat} {o : PkeOp} (hk : sameBut pl z s) (hl : partsIn [.pke, .free] pl = true) : sameBut pl z (pkePointEnd s p o).1 := by
  unfold pkePointEnd
  try dsimp only
  repeat' first | (with_reducible first | assumption | rfl | intro _ | apply sb_setPke | apply sb_pkeAny_p | apply sb_ite) | exact partsIn_trans hl rfl | (refine sb_pkeAny ?_ (by with_reducible assumption) ?_) | split

theorem sb_pkePointEnd {pl : List Part} {z : State} {s : State} {p : Nat} {o : PkeOp} (hk : sameBut pl z s)  {a : Nat} {t : State} (e : pkePointEnd s p o = (t, a)) (hl : partsIn [.pke, .free] pl = true) :
    sameBut pl z t := by
  have := sb_pkePointEnd_p (s := s) (p := p) (o := o) hk hl
  rw [e] at this
  exact this

theorem sb_pkePolyEnd_p {pl : List Part} {z : State} {s : State} {p : Nat} {o : PkeOp} (hk : sameBut pl z s) (hl : partsIn [.pke, .free] pl = true) : sameBut pl z (pkePolyEnd s p o).1 := by
  unfold pkePolyEnd
  try dsimp only
  repeat' first | (with_reducible first | assumption | rfl | intro _ | apply sb_freeBytes_p | apply sb_setPke) | exact partsIn_trans hl rfl | (refine sb_freeBytes ?_ (by with_reducible assumption) ?_) | split

theorem sb_pkePolyEnd {pl : List Part} {z : State} {s : State} {p : Nat} {o : PkeOp} (hk : sameBut pl z s)  {a : Nat} {t : State} (e : pkePolyEnd s p o = (t, a)) (hl : partsIn [.pke, .free] pl = true) :
    sameBut pl z t := by
  have := sb_pkePolyEnd_p (s := s) (p := p) (o := o) hk hl
  rw [e] at this
  exact this

theorem sb_pkeRawEnd {pl : List Part} {z : State} {s : State} {p : Nat} {o : PkeOp} (hk : sameBut pl z s)  {a : Nat} {t : State} (e : pkeRawEnd s p o = (t, a)) (hl : partsIn [.pke] pl = true) :
    sameBut pl z t := by
  unfold pkeRawEnd at e
  try dsimp only at e
  repeat' split at e
  all_goals cases e
  all_goals repeat' first | (with_reducible first | assumption | rfl | intro _ | apply sb_setPke) | exact partsIn_trans hl rfl | split

theorem sb_pkeRawEnd_p {pl : List Part} {z : State} {s : State} {p : Nat} {o : PkeOp} (hk : sameBut pl z s) (hl : partsIn [.pke] pl = true) : sameBut pl z (pkeRawEnd s p o).1 := sb_pkeRawEnd hk (Prod.eta _).symm hl

theorem sb_pkeCompute_p {pl : List Part} {z : State} {s : State} {p : Nat} {o : PkeOp} (hk : sameBut pl z s) (hl : partsIn [.pke, .free] pl = true) : sameBut pl z (pkeCompute s p o).1 := by
  unfold pkeCompute
  try dsimp only
  repeat' first | (with_reducible first | assumption | rfl | intro _ | apply sb_pkeIntEnd_p | apply sb_pkePointEnd_p | apply sb_pkeRawEnd_p | apply sb_pkePolyEnd_p | apply sb_ite) | exact partsIn_trans hl rfl | (refine sb_pkeIntEnd ?_ (by with_reducible assumption) ?_) | (refine sb_pkePointEnd ?_ (by with_reducible assumption) ?_) | (refine sb_pkeRawEnd ?_ (by with_reducible assumption) ?_) | (refine sb_pkePolyEnd ?_ (by with_reducible assumption) ?_) | split

theorem sb_pkeCompute {pl : List Part} {z : State} {s : State} {p : Nat} {o : PkeOp} (hk : sameBut pl z s)  {a : Nat} {t : State} (e : pkeCompute s p o = (t, a)) (hl : partsIn [.pke, .free] pl = true) :
    sameBut pl z t := by
  have := sb_pkeCompute_p (s := s) (p := p) (o := o) hk hl
  rw [e] at this
  exact this

theorem sb_pkeRelease {pl : List Part} {z : State} {s : State} {p : Nat} {o : PkeOp} (hk : sameBut pl z s) (hl : partsIn [.pke] pl = true) :
    sameBut pl z (pkeRelease s p o) := by
  unfold pkeRelease
  dsimp only
  repeat' first | (with_reducible first | assumption | rfl | intro _ | apply sb_setPke) | exact partsIn_trans hl rfl | split

theorem sb_rawEnd_p {pl : List Part} {z : State} {s : State} {h : Nat} {o : PkeOp} (hk : sameBut pl z s) (hl : partsIn [.pke] pl = true) : sameBut pl z (rawEnd s h o).1 := by
  unfold rawEnd
  try dsimp only
  repeat' first | (with_reducible first | assumption | rfl | intro _ | apply sb_blkPke | apply sb_ite) | exact partsIn_trans hl rfl | split

theorem sb_rawEnd {pl : List Part} {z : State} {s : State} {h : Nat} {o : PkeOp} (hk : sameBut pl z s) {a : Nat} {t : State} (he : rawEnd s h o = (t, a)) (hl : partsIn [.pke] pl = true) : sameBut pl z t := by
  have h' := sb_rawEnd_p hk hl (z := z) (s := s) (h := h) (o := o)
  rw [he] at h'
  exact h'

theorem sb_pkeDone {pl : List Part} {z : State} {s : State} {p : Nat} {o : PkeOp} (hk : sameBut pl z s) (hl : partsIn [.pke, .cores, .free] pl = true) :
    sameBut pl z (pkeDone s p o) := by
  unfold pkeDone
  try dsimp only
  repeat' first | (with_reducible first | assumption | rfl | intro _ | apply sb_rawEnd_p | apply sb_pkeTag_p | apply sb_pushPkeRes | apply sb_pkeRelease | apply sb_pkeCompute_p | apply sb_ite | apply optSb_getD) | exact partsIn_trans hl rfl | (refine sb_rawEnd ?_ (by with_reducible assumption) ?_) | (refine sb_pkeTag ?_ (by with_reducible assumption) ?_) | (refine sb_pkeCompute ?_ (by with_reducible assumption) ?_) | split

theorem sb_execPkeOpEnd {pl : List Part} {z : State} {p : Nat} {s : State} (hk : sameBut pl z s) (hl : partsIn [.pke, .cores, .free] pl = true) :
    OutParts pl z (execPkeOpEnd p s) := by
  unfold execPkeOpEnd
  repeat' first | (with_reducible first | assumption | rfl | intro _ | apply sb_pkeDone | apply sb_ite | apply outSb_ite | apply outSb_next) | exact partsIn_trans hl rfl | split

/-! ### Machine/Db.lean -/

theorem sb_setDb {pl : List Part} {z : State} {s : State} {d : Db} (hk : sameBut pl z s) (hl : partsIn [.spi0] pl = true) :
    sameBut pl z (setDb s d) := by
  unfold setDb
  repeat' first | (with_reducible first | assumption | rfl | intro _ | apply sb_blkSpi0) | exact partsIn_trans hl rfl | split

theorem sb_flashSpoil {pl : List Part} {z : State} {s : State} {sel k n : Nat} (hk : sameBut pl z s) (hl : partsIn [.flash, .free] pl = true) :
    sameBut pl z (flashSpoil s sel k n) := by
  unfold flashSpoil
  try dsimp only
  repeat' first | (with_reducible first | assumption | rfl | intro _ | apply sb_blkFlash | apply sb_flashProgram | apply sb_flashErase | apply sb_setDb | apply sb_freeBytes_p | apply sb_ite) | exact partsIn_trans hl rfl | split

theorem sb_segWriteAt {pl : List Part} {z : State} {s : State} {fk : Bytes} {g c : Nat} {body : Bytes} (hk : sameBut pl z s) (hl : partsIn [.spi0, .flash] pl = true) :
    sameBut pl z (segWriteAt s fk g c body) := by
  unfold segWriteAt
  try dsimp only
  repeat' first | (with_reducible first | assumption | rfl | intro _ | apply sb_blkFlash | apply sb_flashProgram | apply sb_flashErase | apply sb_setDb | apply sb_freeBytes_p | apply sb_ite) | exact partsIn_trans hl rfl | split

theorem sb_segWrite {pl : List Part} {z : State} {s : State} {fk : Bytes} {g : Nat} {body : Bytes} (hk : sameBut pl z s) (hl : partsIn [.spi0, .flash] pl = true) :
    sameBut pl z (segWrite s fk g body) := by
  unfold segWrite
  try dsimp only
  repeat' first | (with_reducible first | assumption | rfl | intro _ | apply sb_blkFlash | apply sb_flashProgram | apply sb_flashErase | apply sb_setDb | apply sb_freeBytes_p | apply sb_segWriteAt | apply sb_ite) | exact partsIn_trans hl rfl | split

theorem sb_segSpoil {pl : List Part} {z : State} {s : State} {g c : Nat} (hk : sameBut pl z s) (hl : partsIn [.spi0, .flash, .free] pl = true) :
    sameBut pl z (segSpoil s g c) := by
  unfold segSpoil
  try dsimp only
  repeat' first | (with_reducible first | assumption | rfl | intro _ | apply sb_blkFlash | apply sb_flashProgram | apply sb_flashErase | apply sb_setDb | apply sb_freeBytes_p | apply sb_flashSpoil | apply sb_ite) | exact partsIn_trans hl rfl | split

theorem sb_segWrites {pl : List Part} {z : State} {s : State} {fk : Bytes} {g : Nat} {body : Bytes} {bad : Nat} (hk : sameBut pl z s) (hl : partsIn [.spi0, .flash, .free] pl = true) :
    sameBut pl z (segWrites s fk g body bad) := by
  unfold segWrites
  try dsimp only
  repeat' first | (with_reducible first | assumption | rfl | intro _ | apply sb_blkFlash | apply sb_flashProgram | apply sb_flashErase | apply sb_setDb | apply sb_freeBytes_p | apply sb_segWriteAt | apply sb_segSpoil | apply sb_ite) | exact partsIn_trans hl rfl | split

theorem sb_dbPage {pl : List Part} {z : State} {s : State} {fk : Bytes} {p kind id : Nat} {body : Bytes} (hk : sameBut pl z s) (hl : partsIn [.spi0, .flash] pl = true) :
    sameBut pl z (dbPage s fk p kind id body) := by
  unfold dbPage
  try dsimp only
  repeat' first | (with_reducible first | assumption | rfl | intro _ | apply sb_blkFlash | apply sb_flashProgram | apply sb_flashErase | apply sb_setDb | apply sb_freeBytes_p | apply sb_ite) | exact partsIn_trans hl rfl | split

theorem optSb_dbWrite {pl : List Part} {z : State} {s : State} {kind id g j : Nat} {body : Bytes} (hk : sameBut pl z s) (hl : partsIn [.spi0, .flash] pl = true) : OptParts pl z (dbWrite s kind id g j body) := by
  unfold dbWrite
  try dsimp only
  repeat' first | (with_reducible first | assumption | rfl | intro _ | apply sb_segWrite | apply sb_dbPage | apply optSb_some | apply optSb_none) | exact partsIn_trans hl rfl | split

theorem sb_dbWrite {pl : List Part} {z : State} {s : State} {kind id g j : Nat} {body : Bytes} (hk : sameBut pl z s)  {t : State} (e : dbWrite s kind id g j body = some t) (hl : partsIn [.spi0, .flash] pl = true) :
    sameBut pl z t := (optSb_dbWrite hk hl).of t e

theorem sb_pageRetire {pl : List Part} {z : State} {s : State} {p : Nat} (hk : sameBut pl z s) (hl : partsIn [.spi0, .flash, .free] pl = true) :
    sameBut pl z (pageRetire s p) := by
  unfold pageRetire
  try dsimp only
  repeat' first | (with_reducible first | assumption | rfl | intro _ | apply sb_blkFlash | apply sb_flashProgram | apply sb_flashErase | apply sb_setDb | apply sb_freeBytes_p | apply sb_flashSpoil | apply sb_ite) | exact partsIn_trans hl rfl | split

theorem sb_pagesTry_p {pl : List Part} {z : State} {s : State} {bad : Nat} (hk : sameBut pl z s) (hl : partsIn [.spi0, .flash, .free] pl = true) :
    sameBut pl z ((pagesTry s bad).1) := by
  unfold pagesTry
  try dsimp only
  repeat' first | (with_reducible first | assumption | rfl | intro _ | apply sb_blkFlash | apply sb_flashProgram | apply sb_flashErase | apply sb_setDb | apply sb_freeBytes_p | apply sb_pageRetire | apply sb_ite) | exact partsIn_trans hl rfl | split

theorem sb_pagesTry {pl : List Part} {z : State} {s : State} {bad : Nat} (hk : sameBut pl z s) {t : State} {n : Nat} (e : pagesTry s bad = (t, n)) (hl : partsIn [.spi0, .flash, .free] pl = true) :
    sameBut pl z t := by
  have := sb_pagesTry_p (bad := bad) hk hl
  rw [e] at this
  exact this

theorem sb_dbStore_p {pl : List Part} {z : State} {s : State} {kind id g j : Nat} {body : Bytes} {fail : Word} (hk : sameBut pl z s) (hl : partsIn [.eng, .spi0, .flash, .free] pl = true) : sameBut pl z (dbStore s kind id g j body fail).1 := by
  unfold dbStore
  try dsimp only
  repeat' first | (with_reducible first | assumption | rfl | intro _ | apply sb_pagesTry_p | apply sb_housekeep | apply sb_dbPage | apply sb_segWrites | apply sb_ite) | exact partsIn_trans hl rfl | (refine sb_pagesTry ?_ (by with_reducible assumption) ?_) | split

theorem sb_dbStore {pl : List Part} {z : State} {s : State} {kind id g j : Nat} {body : Bytes} {fail : Word} (hk : sameBut pl z s) {a : Nat} {t : State} (he : dbStore s kind id g j body fail = (t, a)) (hl : partsIn [.eng, .spi0, .flash, .free] pl = true) : sameBut pl z t := by
  have h' := sb_dbStore_p hk hl (z := z) (s := s) (kind := kind) (id := id) (g := g) (j := j) (body := body) (fail := fail)
  rw [he] at h'
  exact h'

theorem sb_dbPutObj_p {pl : List Part} {z : State} {s : State} {id : Nat} {body : Bytes} {fail : Word} (hk : sameBut pl z s) (hl : partsIn [.eng, .spi0, .flash, .free] pl = true) : sameBut pl z (dbPutObj s id body fail).1 := by
  unfold dbPutObj
  try dsimp only
  repeat' first | (with_reducible first | assumption | rfl | intro _ | apply sb_dbStore_p | apply sb_ite) | exact partsIn_trans hl rfl | (refine sb_dbStore ?_ (by with_reducible assumption) ?_) | split

theorem sb_dbPutObj {pl : List Part} {z : State} {s : State} {id : Nat} {body : Bytes} {fail : Word} (hk : sameBut pl z s) {a : Nat} {t : State} (he : dbPutObj s id body fail = (t, a)) (hl : partsIn [.eng, .spi0, .flash, .free] pl = true) : sameBut pl z t := by
  have h' := sb_dbPutObj_p hk hl (z := z) (s := s) (id := id) (body := body) (fail := fail)
  rw [he] at h'
  exact h'

theorem sb_dbDelObj {pl : List Part} {z : State} {s : State} {id bad : Nat} (hk : sameBut pl z s) (hl : partsIn [.eng, .spi0, .flash, .free] pl = true) :
    sameBut pl z (dbDelObj s id bad) := by
  unfold dbDelObj
  try dsimp only
  repeat' first | (with_reducible first | assumption | rfl | intro _ | apply sb_segWrites | apply sb_housekeep | apply sb_ite) | exact partsIn_trans hl rfl | split

theorem sb_journalAssoc {pl : List Part} {z : State} {s : State} {a : Nat} (hk : sameBut pl z s) (hl : partsIn [.spi0, .flash] pl = true) :
    sameBut pl z (journalAssoc s a) := by
  unfold journalAssoc
  repeat' first | (with_reducible first | assumption | rfl | intro _ | apply optSb_dbWrite | apply sb_ite | apply optSb_getD) | exact partsIn_trans hl rfl | (refine sb_dbWrite ?_ (by with_reducible assumption) ?_) | split

theorem sb_journalAssocIo_p {pl : List Part} {z : State} {s : State} {a : Nat} {fail : Word} (hk : sameBut pl z s) (hl : partsIn [.eng, .spi0, .flash, .free] pl = true) : sameBut pl z (journalAssocIo s a fail).1 := by
  unfold journalAssocIo
  try dsimp only
  repeat' first | (with_reducible first | assumption | rfl | intro _ | apply sb_dbStore_p | apply sb_ite) | exact partsIn_trans hl rfl | (refine sb_dbStore ?_ (by with_reducible assumption) ?_) | split

theorem sb_journalAssocIo {pl : List Part} {z : State} {s : State} {a : Nat} {fail : Word} (hk : sameBut pl z s) {a : Nat} {t : State} (he : journalAssocIo s a fail = (t, a)) (hl : partsIn [.eng, .spi0, .flash, .free] pl = true) : sameBut pl z t := by
  have h' := sb_journalAssocIo_p hk hl (z := z) (s := s) (a := a) (fail := fail)
  rw [he] at h'
  exact h'

theorem sb_dbFormat {pl : List Part} {z : State} {s : State} (hk : sameBut pl z s) (hl : partsIn [.flash] pl = true) :
    sameBut pl z (dbFormat s) := by
  unfold dbFormat
  repeat' first | (with_reducible first | assumption | rfl | intro _ | apply sb_flashErase) | exact partsIn_trans hl rfl | split

theorem sb_dbRecover {pl : List Part} {z : State} {s : State} (hk : sameBut pl z s) (hl : partsIn [.events, .spi0, .flash, .evr] pl = true) :
    sameBut pl z (dbRecover s) := by
  unfold dbRecover
  dsimp only
  repeat' first | (with_reducible first | assumption | rfl | intro _ | apply sb_dbFormat | apply sb_logOtherS | apply sb_setDb | apply sb_foldl | apply sb_ite) | exact partsIn_trans hl rfl | split

theorem sb_execBackgroundErase {pl : List Part} {z : State} {p : Word} {s : State} (hk : sameBut pl z s) (hl : partsIn [.spi0, .flash] pl = true) :
    OutParts pl z (execBackgroundErase p s) := by
  unfold execBackgroundErase
  try dsimp only
  repeat' first | (with_reducible first | assumption | rfl | intro _ | apply sb_flashErase | apply sb_setDb | apply sb_ite | apply outSb_ite | apply outSb_next) | exact partsIn_trans hl rfl | split

end Sys2Proof.Machine
end

