-- ==== Sys2Proof/Laws/SameCrypto.lean ====
section
/-! SUPPORT. Which parts of State each operation may change: Crypto. -/
namespace Sys2Proof.Machine

/-! ### Machine/CmdBase.lean -/

theorem sb_Ans.stop {pl : List Part} {z : State} {s : State} {status : Nat} (hk : sameBut pl z s) (hl : partsIn [] pl = true) :
    AnsParts pl z (Ans.stop s status) := by
  unfold Ans.stop
  repeat' first | (with_reducible first | assumption | rfl | intro _ | apply sb_id) | exact partsIn_trans hl rfl | split | with_reducible apply ansSb_mk

theorem sb_Ans.bad {pl : List Part} {z s : State} (h : sameBut pl z s) (hl : partsIn [] pl = true) : AnsParts pl z (Ans.bad s) := ⟨h, fun _ ht => ht⟩

theorem sb_Ans.denied {pl : List Part} {z s : State} (h : sameBut pl z s) : AnsParts pl z (Ans.denied s) := ⟨h, fun _ ht => ht⟩

theorem sb_Ans.noKey {pl : List Part} {z s : State} (h : sameBut pl z s) : AnsParts pl z (Ans.noKey s) := ⟨h, fun _ ht => ht⟩

theorem sb_Ans.aborted {pl : List Part} {z s : State} (h : sameBut pl z s) : AnsParts pl z (Ans.aborted s) := ⟨h, fun _ ht => ht⟩

theorem sb_Ans.notReady {pl : List Part} {z s : State} {w : Nat} (h : sameBut pl z s) : AnsParts pl z (Ans.notReady s w) := ⟨h, fun _ ht => ht⟩

theorem sb_conclude {pl : List Part} {z : State} {k : Nat} {x : Staged} {a : Ans} (ha : AnsParts pl z a) (hl : partsIn [.events, .hif, .evr, .flt] pl = true) : sameBut pl z (conclude k x a) := by
  unfold conclude
  dsimp only
  split
  · exact ha.after _ (sb_blkHif ha.st (partsIn_trans hl rfl))
  · apply ha.after
    refine sb_endRunning ?_ (partsIn_trans hl rfl)
    split
    · exact ha.st
    · exact sb_emitOut ha.st (partsIn_trans hl rfl)

theorem sb_serveCmd {pl : List Part} {z : State} {s : State} {fn r op : Nat} {f : State → Bytes → Ans} (hk : sameBut pl z s) (hf : ∀ s b, sameBut pl z s → AnsParts pl z (f s b)) (hl : partsIn [.events, .hif, .evr, .flt] pl = true) :
    sameBut pl z (serveCmd s fn r op f) := by
  unfold serveCmd
  repeat' first | (with_reducible first | assumption | rfl | intro _ | apply sb_conclude | apply hf) | exact partsIn_trans hl rfl | split

theorem sb_withKey {pl : List Part} {z : State} {s : State} {fn : Nat} {d : Bytes} {usage : Nat} {alg : Nat → Bool} {f : State → Slot → Bytes → Ans} (hk : sameBut pl z s) (hf : ∀ s x b, sameBut pl z s → AnsParts pl z (f s x b)) (hl : partsIn [.events, .vlt, .evr] pl = true) :
    AnsParts pl z (withKey s fn d usage alg f) := by
  unfold withKey
  repeat' first | (with_reducible first | assumption | rfl | intro _ | apply hf | apply sb_Ans.stop | apply sb_id) | exact partsIn_trans hl rfl | (refine sb_useKey_inl ?_ (by with_reducible assumption) ?_) | (refine sb_useKey_inr ?_ (by with_reducible assumption) ?_) | split | with_reducible apply ansSb_mk | with_reducible apply AnsParts.st | with_reducible apply AnsParts.after

theorem sb_withRandom {pl : List Part} {z : State} {s : State} {fn : Nat} {d : Bytes} {n : Nat} {f : State → Bytes → Ans} (hk : sameBut pl z s) (hf : ∀ s b, sameBut pl z s → AnsParts pl z (f s b)) (hl : partsIn [.eng, .rng] pl = true) :
    AnsParts pl z (withRandom s fn d n f) := by
  unfold withRandom
  repeat' first | (with_reducible first | assumption | rfl | intro _ | apply hf | apply sb_Ans.notReady | apply sb_id) | exact partsIn_trans hl rfl | (refine sb_rngDraw ?_ (by with_reducible assumption) ?_) | split | with_reducible apply ansSb_mk | with_reducible apply AnsParts.st | with_reducible apply AnsParts.after

theorem sb_cmdReset {pl : List Part} {z : State} {s : State} {cause : Nat} (hk : sameBut pl z s) (hl : partsIn [.events, .glb, .mode, .clk, .fus, .cfg, .mpu, .fwl, .vlt, .cus, .can0, .can1, .voe, .eng, .pke, .rng, .hif, .spi0, .spi1, .flash, .tmp, .evr, .upd, .flt, .cores, .sram, .free] pl = true) :
    sameBut pl z (cmdReset s cause) := by
  unfold cmdReset
  repeat' first | (with_reducible first | assumption | rfl | intro _ | apply sb_blkMode | apply sb_deviceReset) | exact partsIn_trans hl rfl | split

theorem sb_announceCmd {pl : List Part} {z : State} {s : State} {cause len : Nat} {start : Word} (hk : sameBut pl z s) (hl : partsIn [.events, .mode, .hif, .evr, .flt] pl = true) :
    sameBut pl z (announceCmd s cause len start) := by
  unfold announceCmd
  dsimp only
  repeat' first | (with_reducible first | assumption | rfl | intro _ | apply sb_announce | apply sb_dimCancel | apply sb_ite) | exact partsIn_trans hl rfl | split

/-! ### Machine/CmdCrypto.lean -/

theorem sb_Ans.verified {pl : List Part} {z : State} {s : State} {reason : Nat} (hk : sameBut pl z s) (hl : partsIn [] pl = true) :
    AnsParts pl z (Ans.verified s reason) := by
  unfold Ans.verified
  repeat' first | (with_reducible first | assumption | rfl | intro _ | apply sb_id) | exact partsIn_trans hl rfl | split | with_reducible apply ansSb_mk

theorem sb_Ans.checked {pl : List Part} {z : State} {s : State} {ok : Bool} (hk : sameBut pl z s) (hl : partsIn [] pl = true) :
    AnsParts pl z (Ans.checked s ok) := by
  unfold Ans.checked
  repeat' first | (with_reducible first | assumption | rfl | intro _ | apply sb_id) | exact partsIn_trans hl rfl | split | with_reducible apply ansSb_mk

theorem sb_keyed {pl : List Part} {z : State} {s : State} {fn : Nat} {d : Bytes} {ok : Bool} {engs : List Nat} {usage : Nat} {alg : Nat → Bool} {f : State → Slot → Bytes → Ans} (hk : sameBut pl z s) (hf : ∀ s x b, sameBut pl z s → AnsParts pl z (f s x b)) (hl : partsIn [.events, .vlt, .evr] pl = true) :
    AnsParts pl z (keyed s fn d ok engs usage alg f) := by
  unfold keyed
  repeat' first | (with_reducible first | assumption | rfl | intro _ | apply sb_withKey | apply sb_ite | apply ansSb_ite | apply hf | apply sb_Ans.aborted | apply sb_Ans.bad | apply sb_id) | exact partsIn_trans hl rfl | split | with_reducible apply ansSb_mk | with_reducible apply AnsParts.st | with_reducible apply AnsParts.after

theorem sb_aesBlockCmd {pl : List Part} {z : State} {func : Nat} {dec : Bool} {usage ivLen : Nat} {s : State} {fn : Nat} {d : Bytes} {io : CmdIo} (hk : sameBut pl z s) (hl : partsIn [.events, .vlt, .evr] pl = true) :
    AnsParts pl z (aesBlockCmd func dec usage ivLen s fn d io) := by
  unfold aesBlockCmd
  try dsimp only
  repeat' first | (with_reducible first | assumption | rfl | intro _ | apply sb_keyed | apply sb_ite | apply ansSb_ite | apply sb_id) | exact partsIn_trans hl rfl | split | with_reducible apply ansSb_mk | with_reducible apply AnsParts.st | with_reducible apply AnsParts.after

theorem sb_hmacCmd {pl : List Part} {z : State} {alg : Nat} {ver : Bool} {s : State} {fn : Nat} {d : Bytes} {io : CmdIo} (hk : sameBut pl z s) (hl : partsIn [.events, .vlt, .evr] pl = true) :
    AnsParts pl z (hmacCmd alg ver s fn d io) := by
  unfold hmacCmd
  try dsimp only
  repeat' first | (with_reducible first | assumption | rfl | intro _ | apply sb_keyed | apply sb_Ans.checked | apply sb_Ans.verified | apply sb_ite | apply ansSb_ite | apply sb_id) | exact partsIn_trans hl rfl | split | with_reducible apply ansSb_mk | with_reducible apply AnsParts.st | with_reducible apply AnsParts.after

theorem sb_gmacCmd {pl : List Part} {z : State} {ver : Bool} {s : State} {fn : Nat} {d : Bytes} {io : CmdIo} (hk : sameBut pl z s) (hl : partsIn [.events, .vlt, .evr] pl = true) :
    AnsParts pl z (gmacCmd ver s fn d io) := by
  unfold gmacCmd
  try dsimp only
  repeat' first | (with_reducible first | assumption | rfl | intro _ | apply sb_keyed | apply sb_Ans.checked | apply sb_ite | apply ansSb_ite | apply sb_id) | exact partsIn_trans hl rfl | split | with_reducible apply ansSb_mk | with_reducible apply AnsParts.st | with_reducible apply AnsParts.after

theorem sb_cmacCmd {pl : List Part} {z : State} {ver : Bool} {s : State} {fn : Nat} {d : Bytes} {io : CmdIo} (hk : sameBut pl z s) (hl : partsIn [.events, .vlt, .evr] pl = true) :
    AnsParts pl z (cmacCmd ver s fn d io) := by
  unfold cmacCmd
  try dsimp only
  repeat' first | (with_reducible first | assumption | rfl | intro _ | apply sb_keyed | apply sb_Ans.verified | apply sb_ite | apply ansSb_ite | apply sb_id) | exact partsIn_trans hl rfl | split | with_reducible apply ansSb_mk | with_reducible apply AnsParts.st | with_reducible apply AnsParts.after

theorem sb_gcmEncCmd {pl : List Part} {z : State} {s : State} {fn : Nat} {d : Bytes} {io : CmdIo} (hk : sameBut pl z s) (hl : partsIn [.events, .vlt, .eng, .rng, .evr] pl = true) :
    AnsParts pl z (gcmEncCmd s fn d io) := by
  unfold gcmEncCmd
  try dsimp only
  repeat' first | (with_reducible first | assumption | rfl | intro _ | apply sb_keyed | apply sb_withRandom | apply sb_ite | apply ansSb_ite | apply sb_id) | exact partsIn_trans hl rfl | split | with_reducible apply ansSb_mk | with_reducible apply AnsParts.st | with_reducible apply AnsParts.after

theorem sb_gcmDecCmd {pl : List Part} {z : State} {s : State} {fn : Nat} {d : Bytes} {io : CmdIo} (hk : sameBut pl z s) (hl : partsIn [.events, .vlt, .evr] pl = true) :
    AnsParts pl z (gcmDecCmd s fn d io) := by
  unfold gcmDecCmd
  try dsimp only
  repeat' first | (with_reducible first | assumption | rfl | intro _ | apply sb_keyed | apply sb_Ans.verified | apply sb_ite | apply ansSb_ite | apply sb_id) | exact partsIn_trans hl rfl | split | with_reducible apply ansSb_mk | with_reducible apply AnsParts.st | with_reducible apply AnsParts.after

theorem sb_hashBody {pl : List Part} {z : State} {s : State} {_fn : Nat} {d : Bytes} {io : CmdIo} (hk : sameBut pl z s) (hl : partsIn [] pl = true) :
    AnsParts pl z (hashBody s _fn d io) := by
  unfold hashBody
  repeat' first | (with_reducible first | assumption | rfl | intro _ | apply sb_Ans.bad | apply sb_Ans.aborted | apply sb_ite | apply ansSb_ite | apply sb_id) | exact partsIn_trans hl rfl | split | with_reducible apply ansSb_mk | with_reducible apply AnsParts.st | with_reducible apply AnsParts.after

theorem sb_execAesEcbEncrypt {pl : List Part} {z : State} {fn r : Nat} {io : CmdIo} {s : State} (hk : sameBut pl z s) (hl : partsIn [.events, .vlt, .hif, .evr, .flt] pl = true) :
    OutParts pl z (execAesEcbEncrypt fn r io s) := by
  unfold execAesEcbEncrypt
  repeat' first | (with_reducible first | assumption | rfl | intro _ | apply sb_aesBlockCmd | apply sb_serveCmd | apply outSb_next) | exact partsIn_trans hl rfl | split

theorem sb_execAesEcbDecrypt {pl : List Part} {z : State} {fn r : Nat} {io : CmdIo} {s : State} (hk : sameBut pl z s) (hl : partsIn [.events, .vlt, .hif, .evr, .flt] pl = true) :
    OutParts pl z (execAesEcbDecrypt fn r io s) := by
  unfold execAesEcbDecrypt
  repeat' first | (with_reducible first | assumption | rfl | intro _ | apply sb_aesBlockCmd | apply sb_serveCmd | apply outSb_next) | exact partsIn_trans hl rfl | split

theorem sb_execAesCbcEncrypt {pl : List Part} {z : State} {fn r : Nat} {io : CmdIo} {s : State} (hk : sameBut pl z s) (hl : partsIn [.events, .vlt, .hif, .evr, .flt] pl = true) :
    OutParts pl z (execAesCbcEncrypt fn r io s) := by
  unfold execAesCbcEncrypt
  repeat' first | (with_reducible first | assumption | rfl | intro _ | apply sb_aesBlockCmd | apply sb_serveCmd | apply outSb_next) | exact partsIn_trans hl rfl | split

theorem sb_execAesCbcDecrypt {pl : List Part} {z : State} {fn r : Nat} {io : CmdIo} {s : State} (hk : sameBut pl z s) (hl : partsIn [.events, .vlt, .hif, .evr, .flt] pl = true) :
    OutParts pl z (execAesCbcDecrypt fn r io s) := by
  unfold execAesCbcDecrypt
  repeat' first | (with_reducible first | assumption | rfl | intro _ | apply sb_aesBlockCmd | apply sb_serveCmd | apply outSb_next) | exact partsIn_trans hl rfl | split

theorem sb_execAesCtrEncrypt {pl : List Part} {z : State} {fn r : Nat} {io : CmdIo} {s : State} (hk : sameBut pl z s) (hl : partsIn [.events, .vlt, .hif, .evr, .flt] pl = true) :
    OutParts pl z (execAesCtrEncrypt fn r io s) := by
  unfold execAesCtrEncrypt
  repeat' first | (with_reducible first | assumption | rfl | intro _ | apply sb_aesBlockCmd | apply sb_serveCmd | apply outSb_next) | exact partsIn_trans hl rfl | split

theorem sb_execAesCtrDecrypt {pl : List Part} {z : State} {fn r : Nat} {io : CmdIo} {s : State} (hk : sameBut pl z s) (hl : partsIn [.events, .vlt, .hif, .evr, .flt] pl = true) :
    OutParts pl z (execAesCtrDecrypt fn r io s) := by
  unfold execAesCtrDecrypt
  repeat' first | (with_reducible first | assumption | rfl | intro _ | apply sb_aesBlockCmd | apply sb_serveCmd | apply outSb_next) | exact partsIn_trans hl rfl | split

theorem sb_execHmacSha256Generate {pl : List Part} {z : State} {fn r : Nat} {io : CmdIo} {s : State} (hk : sameBut pl z s) (hl : partsIn [.events, .vlt, .hif, .evr, .flt] pl = true) :
    OutParts pl z (execHmacSha256Generate fn r io s) := by
  unfold execHmacSha256Generate
  repeat' first | (with_reducible first | assumption | rfl | intro _ | apply sb_hmacCmd | apply sb_serveCmd | apply outSb_next) | exact partsIn_trans hl rfl | split

theorem sb_execHmacSha256Verify {pl : List Part} {z : State} {fn r : Nat} {io : CmdIo} {s : State} (hk : sameBut pl z s) (hl : partsIn [.events, .vlt, .hif, .evr, .flt] pl = true) :
    OutParts pl z (execHmacSha256Verify fn r io s) := by
  unfold execHmacSha256Verify
  repeat' first | (with_reducible first | assumption | rfl | intro _ | apply sb_hmacCmd | apply sb_serveCmd | apply outSb_next) | exact partsIn_trans hl rfl | split

theorem sb_execHmacSha384512Generate {pl : List Part} {z : State} {fn r : Nat} {io : CmdIo} {s : State} (hk : sameBut pl z s) (hl : partsIn [.events, .vlt, .hif, .evr, .flt] pl = true) :
    OutParts pl z (execHmacSha384512Generate fn r io s) := by
  unfold execHmacSha384512Generate
  repeat' first | (with_reducible first | assumption | rfl | intro _ | apply sb_hmacCmd | apply sb_serveCmd | apply outSb_next) | exact partsIn_trans hl rfl | split

theorem sb_execHmacSha384512Verify {pl : List Part} {z : State} {fn r : Nat} {io : CmdIo} {s : State} (hk : sameBut pl z s) (hl : partsIn [.events, .vlt, .hif, .evr, .flt] pl = true) :
    OutParts pl z (execHmacSha384512Verify fn r io s) := by
  unfold execHmacSha384512Verify
  repeat' first | (with_reducible first | assumption | rfl | intro _ | apply sb_hmacCmd | apply sb_serveCmd | apply outSb_next) | exact partsIn_trans hl rfl | split

theorem sb_execAesGmacGenerate {pl : List Part} {z : State} {fn r : Nat} {io : CmdIo} {s : State} (hk : sameBut pl z s) (hl : partsIn [.events, .vlt, .hif, .evr, .flt] pl = true) :
    OutParts pl z (execAesGmacGenerate fn r io s) := by
  unfold execAesGmacGenerate
  repeat' first | (with_reducible first | assumption | rfl | intro _ | apply sb_serveCmd | apply sb_gmacCmd | apply outSb_next) | exact partsIn_trans hl rfl | split

theorem sb_execAesGmacVerify {pl : List Part} {z : State} {fn r : Nat} {io : CmdIo} {s : State} (hk : sameBut pl z s) (hl : partsIn [.events, .vlt, .hif, .evr, .flt] pl = true) :
    OutParts pl z (execAesGmacVerify fn r io s) := by
  unfold execAesGmacVerify
  repeat' first | (with_reducible first | assumption | rfl | intro _ | apply sb_serveCmd | apply sb_gmacCmd | apply outSb_next) | exact partsIn_trans hl rfl | split

theorem sb_execAesGcmEncrypt {pl : List Part} {z : State} {fn r : Nat} {io : CmdIo} {s : State} (hk : sameBut pl z s) (hl : partsIn [.events, .vlt, .eng, .rng, .hif, .evr, .flt] pl = true) :
    OutParts pl z (execAesGcmEncrypt fn r io s) := by
  unfold execAesGcmEncrypt
  repeat' first | (with_reducible first | assumption | rfl | intro _ | apply sb_gcmEncCmd | apply sb_serveCmd | apply outSb_next) | exact partsIn_trans hl rfl | split

theorem sb_execAesGcmDecrypt {pl : List Part} {z : State} {fn r : Nat} {io : CmdIo} {s : State} (hk : sameBut pl z s) (hl : partsIn [.events, .vlt, .hif, .evr, .flt] pl = true) :
    OutParts pl z (execAesGcmDecrypt fn r io s) := by
  unfold execAesGcmDecrypt
  repeat' first | (with_reducible first | assumption | rfl | intro _ | apply sb_serveCmd | apply sb_gcmDecCmd | apply outSb_next) | exact partsIn_trans hl rfl | split

theorem sb_execAesCmacGenerate {pl : List Part} {z : State} {fn r : Nat} {io : CmdIo} {s : State} (hk : sameBut pl z s) (hl : partsIn [.events, .vlt, .hif, .evr, .flt] pl = true) :
    OutParts pl z (execAesCmacGenerate fn r io s) := by
  unfold execAesCmacGenerate
  repeat' first | (with_reducible first | assumption | rfl | intro _ | apply sb_cmacCmd | apply sb_serveCmd | apply outSb_next) | exact partsIn_trans hl rfl | split

theorem sb_execAesCmacVerify {pl : List Part} {z : State} {fn r : Nat} {io : CmdIo} {s : State} (hk : sameBut pl z s) (hl : partsIn [.events, .vlt, .hif, .evr, .flt] pl = true) :
    OutParts pl z (execAesCmacVerify fn r io s) := by
  unfold execAesCmacVerify
  repeat' first | (with_reducible first | assumption | rfl | intro _ | apply sb_cmacCmd | apply sb_serveCmd | apply outSb_next) | exact partsIn_trans hl rfl | split

theorem sb_execHashCmd {pl : List Part} {z : State} {fn r : Nat} {io : CmdIo} {s : State} (hk : sameBut pl z s) (hl : partsIn [.events, .hif, .evr, .flt] pl = true) :
    OutParts pl z (execHashCmd fn r io s) := by
  unfold execHashCmd
  repeat' first | (with_reducible first | assumption | rfl | intro _ | apply sb_hashBody | apply sb_serveCmd | apply outSb_next) | exact partsIn_trans hl rfl | split

theorem sb_ecdsaSignCmd {pl : List Part} {z : State} {s : State} {fn : Nat} {d : Bytes} {io : CmdIo} (hk : sameBut pl z s) (hl : partsIn [.events, .vlt, .eng, .rng, .evr] pl = true) :
    AnsParts pl z (ecdsaSignCmd s fn d io) := by
  unfold ecdsaSignCmd
  try dsimp only
  repeat' first | (with_reducible first | assumption | rfl | intro _ | apply sb_keyed | apply sb_withRandom | apply sb_Ans.aborted | apply sb_Ans.bad | apply sb_ite | apply ansSb_ite | apply sb_id) | exact partsIn_trans hl rfl | split | with_reducible apply ansSb_mk | with_reducible apply AnsParts.st | with_reducible apply AnsParts.after

theorem sb_ecdsaVerifyCmd {pl : List Part} {z : State} {s : State} {_fn : Nat} {d : Bytes} {io : CmdIo} (hk : sameBut pl z s) (hl : partsIn [] pl = true) :
    AnsParts pl z (ecdsaVerifyCmd s _fn d io) := by
  unfold ecdsaVerifyCmd
  dsimp only
  repeat' first | (with_reducible first | assumption | rfl | intro _ | apply sb_ite | apply ansSb_ite | apply sb_Ans.aborted | apply sb_Ans.bad | apply sb_Ans.verified | apply sb_id) | exact partsIn_trans hl rfl | split | with_reducible apply ansSb_mk | with_reducible apply AnsParts.st | with_reducible apply AnsParts.after

theorem sb_edSignCmd {pl : List Part} {z : State} {s : State} {fn : Nat} {d : Bytes} {io : CmdIo} (hk : sameBut pl z s) (hl : partsIn [.events, .vlt, .evr] pl = true) :
    AnsParts pl z (edSignCmd s fn d io) := by
  unfold edSignCmd
  try dsimp only
  repeat' first | (with_reducible first | assumption | rfl | intro _ | apply sb_keyed | apply sb_Ans.aborted | apply sb_ite | apply ansSb_ite | apply sb_id) | exact partsIn_trans hl rfl | split | with_reducible apply ansSb_mk | with_reducible apply AnsParts.st | with_reducible apply AnsParts.after

theorem sb_edVerifyCmd {pl : List Part} {z : State} {s : State} {_fn : Nat} {d : Bytes} {io : CmdIo} (hk : sameBut pl z s) (hl : partsIn [] pl = true) :
    AnsParts pl z (edVerifyCmd s _fn d io) := by
  unfold edVerifyCmd
  repeat' first | (with_reducible first | assumption | rfl | intro _ | apply sb_ite | apply ansSb_ite | apply sb_Ans.aborted | apply sb_Ans.bad | apply sb_Ans.verified | apply sb_id) | exact partsIn_trans hl rfl | split | with_reducible apply ansSb_mk

theorem sb_mlSignCmd {pl : List Part} {z : State} {s : State} {fn : Nat} {d : Bytes} {io : CmdIo} (hk : sameBut pl z s) (hl : partsIn [.events, .vlt, .eng, .rng, .evr] pl = true) :
    AnsParts pl z (mlSignCmd s fn d io) := by
  unfold mlSignCmd
  try dsimp only
  repeat' first | (with_reducible first | assumption | rfl | intro _ | apply sb_keyed | apply sb_withRandom | apply sb_Ans.aborted | apply sb_ite | apply ansSb_ite | apply sb_id) | exact partsIn_trans hl rfl | split | with_reducible apply ansSb_mk | with_reducible apply AnsParts.st | with_reducible apply AnsParts.after

theorem sb_mlVerifyCmd {pl : List Part} {z : State} {s : State} {_fn : Nat} {d : Bytes} {io : CmdIo} (hk : sameBut pl z s) (hl : partsIn [] pl = true) :
    AnsParts pl z (mlVerifyCmd s _fn d io) := by
  unfold mlVerifyCmd
  dsimp only
  repeat' first | (with_reducible first | assumption | rfl | intro _ | apply sb_ite | apply ansSb_ite | apply sb_Ans.aborted | apply sb_Ans.bad | apply sb_Ans.verified | apply sb_id) | exact partsIn_trans hl rfl | split | with_reducible apply ansSb_mk

theorem sb_hybridCmd {pl : List Part} {z : State} {s : State} {_fn : Nat} {d : Bytes} {io : CmdIo} (hk : sameBut pl z s) (hl : partsIn [] pl = true) :
    AnsParts pl z (hybridCmd s _fn d io) := by
  unfold hybridCmd
  dsimp only
  repeat' first | (with_reducible first | assumption | rfl | intro _ | apply sb_ite | apply ansSb_ite | apply sb_Ans.aborted | apply sb_Ans.bad | apply sb_Ans.verified | apply sb_id) | exact partsIn_trans hl rfl | split | with_reducible apply ansSb_mk

theorem sb_withRsa {pl : List Part} {z : State} {s : State} {fn : Nat} {d : Bytes} {usage : Nat} {f : Nat → Bytes → Ans} (hk : sameBut pl z s) (hf : ∀ a0 a1, AnsParts pl z (f a0 a1)) (hl : partsIn [] pl = true) :
    AnsParts pl z (withRsa s fn d usage f) := by
  unfold withRsa
  repeat' first | (with_reducible first | assumption | rfl | intro _ | apply sb_ite | apply ansSb_ite | apply hf | apply sb_Ans.aborted | apply sb_Ans.bad | apply sb_Ans.stop | apply sb_id) | exact partsIn_trans hl rfl | split | with_reducible apply ansSb_mk | with_reducible apply AnsParts.st | with_reducible apply AnsParts.after

theorem sb_rsaSignCmd {pl : List Part} {z : State} {s : State} {fn : Nat} {d : Bytes} {io : CmdIo} (hk : sameBut pl z s) (hl : partsIn [.eng, .rng] pl = true) :
    AnsParts pl z (rsaSignCmd s fn d io) := by
  unfold rsaSignCmd
  dsimp only
  repeat' first | (with_reducible first | assumption | rfl | intro _ | apply sb_withRsa | apply sb_withRandom | apply sb_ite | apply ansSb_ite | apply sb_Ans.bad | apply sb_id) | exact partsIn_trans hl rfl | split | with_reducible apply ansSb_mk | with_reducible apply AnsParts.st | with_reducible apply AnsParts.after

theorem sb_rsaVerifyCmd {pl : List Part} {z : State} {s : State} {_fn : Nat} {d : Bytes} {io : CmdIo} (hk : sameBut pl z s) (hl : partsIn [] pl = true) :
    AnsParts pl z (rsaVerifyCmd s _fn d io) := by
  unfold rsaVerifyCmd
  dsimp only
  repeat' first | (with_reducible first | assumption | rfl | intro _ | apply sb_ite | apply ansSb_ite | apply sb_Ans.aborted | apply sb_Ans.bad | apply sb_Ans.verified | apply sb_id) | exact partsIn_trans hl rfl | split | with_reducible apply ansSb_mk | with_reducible apply AnsParts.st | with_reducible apply AnsParts.after

theorem sb_rsaOaepCmd {pl : List Part} {z : State} {s : State} {fn : Nat} {d : Bytes} {io : CmdIo} (hk : sameBut pl z s) (hl : partsIn [] pl = true) :
    AnsParts pl z (rsaOaepCmd s fn d io) := by
  unfold rsaOaepCmd
  dsimp only
  repeat' first | (with_reducible first | assumption | rfl | intro _ | apply sb_withRsa | apply sb_Ans.stop | apply sb_ite | apply ansSb_ite | apply sb_Ans.bad | apply sb_id) | exact partsIn_trans hl rfl | split | with_reducible apply ansSb_mk | with_reducible apply AnsParts.st | with_reducible apply AnsParts.after

theorem sb_pubReadCmd {pl : List Part} {z : State} {s : State} {fn : Nat} {d : Bytes} {_io : CmdIo} (hk : sameBut pl z s) (hl : partsIn [.events, .vlt, .evr] pl = true) :
    AnsParts pl z (pubReadCmd s fn d _io) := by
  unfold pubReadCmd
  dsimp only
  repeat' first | (with_reducible first | assumption | rfl | intro _ | apply sb_Ans.denied | apply sb_keyed | apply sb_ite | apply ansSb_ite | apply sb_Ans.aborted | apply sb_Ans.bad | apply sb_Ans.stop | apply sb_id) | exact partsIn_trans hl rfl | split | with_reducible apply ansSb_mk | with_reducible apply AnsParts.st | with_reducible apply AnsParts.after

theorem sb_execEcdsaSign {pl : List Part} {z : State} {fn r : Nat} {io : CmdIo} {s : State} (hk : sameBut pl z s) (hl : partsIn [.events, .vlt, .eng, .rng, .hif, .evr, .flt] pl = true) :
    OutParts pl z (execEcdsaSign fn r io s) := by
  unfold execEcdsaSign
  repeat' first | (with_reducible first | assumption | rfl | intro _ | apply sb_ecdsaSignCmd | apply sb_serveCmd | apply outSb_next) | exact partsIn_trans hl rfl | split

theorem sb_execEcdsaVerify {pl : List Part} {z : State} {fn r : Nat} {io : CmdIo} {s : State} (hk : sameBut pl z s) (hl : partsIn [.events, .hif, .evr, .flt] pl = true) :
    OutParts pl z (execEcdsaVerify fn r io s) := by
  unfold execEcdsaVerify
  repeat' first | (with_reducible first | assumption | rfl | intro _ | apply sb_ecdsaVerifyCmd | apply sb_serveCmd | apply outSb_next) | exact partsIn_trans hl rfl | split

theorem sb_execEd25519Sign {pl : List Part} {z : State} {fn r : Nat} {io : CmdIo} {s : State} (hk : sameBut pl z s) (hl : partsIn [.events, .vlt, .hif, .evr, .flt] pl = true) :
    OutParts pl z (execEd25519Sign fn r io s) := by
  unfold execEd25519Sign
  repeat' first | (with_reducible first | assumption | rfl | intro _ | apply sb_edSignCmd | apply sb_serveCmd | apply outSb_next) | exact partsIn_trans hl rfl | split

theorem sb_execEd25519Verify {pl : List Part} {z : State} {fn r : Nat} {io : CmdIo} {s : State} (hk : sameBut pl z s) (hl : partsIn [.events, .hif, .evr, .flt] pl = true) :
    OutParts pl z (execEd25519Verify fn r io s) := by
  unfold execEd25519Verify
  repeat' first | (with_reducible first | assumption | rfl | intro _ | apply sb_serveCmd | apply sb_edVerifyCmd | apply outSb_next) | exact partsIn_trans hl rfl | split

theorem sb_execMlDsa65Sign {pl : List Part} {z : State} {fn r : Nat} {io : CmdIo} {s : State} (hk : sameBut pl z s) (hl : partsIn [.events, .vlt, .eng, .rng, .hif, .evr, .flt] pl = true) :
    OutParts pl z (execMlDsa65Sign fn r io s) := by
  unfold execMlDsa65Sign
  repeat' first | (with_reducible first | assumption | rfl | intro _ | apply sb_mlSignCmd | apply sb_serveCmd | apply outSb_next) | exact partsIn_trans hl rfl | split

theorem sb_execMlDsa65Verify {pl : List Part} {z : State} {fn r : Nat} {io : CmdIo} {s : State} (hk : sameBut pl z s) (hl : partsIn [.events, .hif, .evr, .flt] pl = true) :
    OutParts pl z (execMlDsa65Verify fn r io s) := by
  unfold execMlDsa65Verify
  repeat' first | (with_reducible first | assumption | rfl | intro _ | apply sb_mlVerifyCmd | apply sb_serveCmd | apply outSb_next) | exact partsIn_trans hl rfl | split

theorem sb_execHybridVerify {pl : List Part} {z : State} {fn r : Nat} {io : CmdIo} {s : State} (hk : sameBut pl z s) (hl : partsIn [.events, .hif, .evr, .flt] pl = true) :
    OutParts pl z (execHybridVerify fn r io s) := by
  unfold execHybridVerify
  repeat' first | (with_reducible first | assumption | rfl | intro _ | apply sb_hybridCmd | apply sb_serveCmd | apply outSb_next) | exact partsIn_trans hl rfl | split

theorem sb_execRsaSign {pl : List Part} {z : State} {fn r : Nat} {io : CmdIo} {s : State} (hk : sameBut pl z s) (hl : partsIn [.events, .eng, .rng, .hif, .evr, .flt] pl = true) :
    OutParts pl z (execRsaSign fn r io s) := by
  unfold execRsaSign
  repeat' first | (with_reducible first | assumption | rfl | intro _ | apply sb_rsaSignCmd | apply sb_serveCmd | apply outSb_next) | exact partsIn_trans hl rfl | split

theorem sb_execRsaVerify {pl : List Part} {z : State} {fn r : Nat} {io : CmdIo} {s : State} (hk : sameBut pl z s) (hl : partsIn [.events, .hif, .evr, .flt] pl = true) :
    OutParts pl z (execRsaVerify fn r io s) := by
  unfold execRsaVerify
  repeat' first | (with_reducible first | assumption | rfl | intro _ | apply sb_rsaVerifyCmd | apply sb_serveCmd | apply outSb_next) | exact partsIn_trans hl rfl | split

theorem sb_execRsaOaepDecrypt {pl : List Part} {z : State} {fn r : Nat} {io : CmdIo} {s : State} (hk : sameBut pl z s) (hl : partsIn [.events, .hif, .evr, .flt] pl = true) :
    OutParts pl z (execRsaOaepDecrypt fn r io s) := by
  unfold execRsaOaepDecrypt
  repeat' first | (with_reducible first | assumption | rfl | intro _ | apply sb_rsaOaepCmd | apply sb_serveCmd | apply outSb_next) | exact partsIn_trans hl rfl | split

theorem sb_execPublicKeyRead {pl : List Part} {z : State} {fn r : Nat} {io : CmdIo} {s : State} (hk : sameBut pl z s) (hl : partsIn [.events, .vlt, .hif, .evr, .flt] pl = true) :
    OutParts pl z (execPublicKeyRead fn r io s) := by
  unfold execPublicKeyRead
  repeat' first | (with_reducible first | assumption | rfl | intro _ | apply sb_pubReadCmd | apply sb_serveCmd | apply outSb_next) | exact partsIn_trans hl rfl | split

theorem sb_randomCmd {pl : List Part} {z : State} {s : State} {fn : Nat} {d : Bytes} {_io : CmdIo} (hk : sameBut pl z s) (hl : partsIn [.eng, .rng] pl = true) :
    AnsParts pl z (randomCmd s fn d _io) := by
  unfold randomCmd
  repeat' first | (with_reducible first | assumption | rfl | intro _ | apply sb_withRandom | apply sb_ite | apply ansSb_ite | apply sb_Ans.bad | apply sb_id) | exact partsIn_trans hl rfl | split | with_reducible apply ansSb_mk | with_reducible apply AnsParts.st | with_reducible apply AnsParts.after

theorem sb_execRandom {pl : List Part} {z : State} {fn r : Nat} {io : CmdIo} {s : State} (hk : sameBut pl z s) (hl : partsIn [.events, .eng, .rng, .hif, .evr, .flt] pl = true) :
    OutParts pl z (execRandom fn r io s) := by
  unfold execRandom
  repeat' first | (with_reducible first | assumption | rfl | intro _ | apply sb_randomCmd | apply sb_serveCmd | apply outSb_next) | exact partsIn_trans hl rfl | split

/-! ### Machine/TamperBase.lean -/

theorem sb_trigLogged {pl : List Part} {z : State} {s : State} {cause : Nat} (hk : sameBut pl z s) (hl : partsIn [.events, .evr] pl = true) :
    sameBut pl z (trigLogged s cause) := by
  unfold trigLogged
  repeat' first | (with_reducible first | assumption | rfl | intro _ | apply sb_logOtherS | apply sb_ite) | exact partsIn_trans hl rfl | split

theorem sb_snuffTrig {pl : List Part} {z : State} {s : State} {cause source : Nat} (hk : sameBut pl z s) (hl : partsIn [.events, .tmp, .snf, .evr] pl = true) :
    sameBut pl z (snuffTrig s cause source) := by
  unfold snuffTrig
  try dsimp only
  repeat' first | (with_reducible first | assumption | rfl | intro _ | apply sb_blkSnf | apply sb_trigLogged | apply sb_withAlarm | apply sb_ite) | exact partsIn_trans hl rfl | split

theorem sb_tamperAlarm {pl : List Part} {z : State} {s : State} {k : Nat} (hk : sameBut pl z s) (hl : partsIn [.events, .mode, .can0, .can1, .voe, .rng, .tmp, .evr] pl = true) :
    sameBut pl z (tamperAlarm s k) := by
  unfold tamperAlarm
  dsimp only
  repeat' first | (with_reducible first | assumption | rfl | intro _ | apply sb_withAlarm | apply sb_wakeTrigger | apply sb_sendAlarm | apply sb_irq | apply sb_ite) | exact partsIn_trans hl rfl | split

theorem sb_tamperAct {pl : List Part} {z : State} {s : State} {k : Nat} (hk : sameBut pl z s) (hl : partsIn [.events, .mode, .can0, .can1, .voe, .rng, .tmp, .snf, .evr] pl = true) :
    sameBut pl z (tamperAct s k) := by
  unfold tamperAct
  dsimp only
  repeat' first | (with_reducible first | assumption | rfl | intro _ | apply sb_blkTmp | apply sb_snuffTrig | apply sb_logS | apply sb_tamperAlarm | apply sb_ite) | exact partsIn_trans hl rfl | split

theorem sb_missed {pl : List Part} {z : State} {s : State} {k : Nat} (hk : sameBut pl z s) (hl : partsIn [.tmp] pl = true) :
    sameBut pl z (missed s k) := by
  unfold missed
  repeat' first | (with_reducible first | assumption | rfl | intro _ | apply sb_blkTmp | apply sb_ite) | exact partsIn_trans hl rfl | split

theorem sb_sourceOn {pl : List Part} {z : State} {s : State} {k : Nat} (hk : sameBut pl z s) (hl : partsIn [.events, .mode, .can0, .can1, .voe, .rng, .tmp, .snf, .evr] pl = true) :
    sameBut pl z (sourceOn s k) := by
  unfold sourceOn
  try dsimp only
  repeat' first | (with_reducible first | assumption | rfl | intro _ | apply sb_blkTmp | apply sb_tamperAct | apply sb_missed | apply sb_ite) | exact partsIn_trans hl rfl | split

theorem sb_execTamperSourceAct {pl : List Part} {z : State} {k : Nat} {s : State} (hk : sameBut pl z s) (hl : partsIn [.events, .mode, .can0, .can1, .voe, .rng, .tmp, .snf, .evr] pl = true) :
    OutParts pl z (execTamperSourceAct k s) := by
  unfold execTamperSourceAct
  repeat' first | (with_reducible first | assumption | rfl | intro _ | apply sb_sourceOn | apply sb_ite | apply outSb_ite | apply outSb_next) | exact partsIn_trans hl rfl | split

theorem sb_execConditionInactive {pl : List Part} {z : State} {k : Nat} {s : State} (hk : sameBut pl z s) (hl : partsIn [.tmp] pl = true) :
    OutParts pl z (execConditionInactive k s) := by
  unfold execConditionInactive
  repeat' first | (with_reducible first | assumption | rfl | intro _ | apply sb_blkTmp | apply outSb_next) | exact partsIn_trans hl rfl | split

theorem sb_disarm {pl : List Part} {z : State} {s : State} (hk : sameBut pl z s) (hl : partsIn [.tmp] pl = true) :
    sameBut pl z (disarm s) := by
  unfold disarm
  repeat' first | (with_reducible first | assumption | rfl | intro _ | apply sb_blkTmp | apply sb_ite) | exact partsIn_trans hl rfl | split

theorem sb_armedAct {pl : List Part} {z : State} {s : State} (hk : sameBut pl z s) (hl : partsIn [.events, .mode, .can0, .can1, .voe, .rng, .tmp, .snf, .evr] pl = true) :
    sameBut pl z (armedAct s) := by
  unfold armedAct
  repeat' first | (with_reducible first | assumption | rfl | intro _ | apply sb_tamperAct | apply sb_foldl | apply sb_ite) | exact partsIn_trans hl rfl | split

theorem sb_respAct {pl : List Part} {z : State} {s : State} {old : Nat → Nat} (hk : sameBut pl z s) (hl : partsIn [.events, .mode, .can0, .can1, .voe, .rng, .tmp, .snf, .evr] pl = true) :
    sameBut pl z (respAct s old) := by
  unfold respAct
  repeat' first | (with_reducible first | assumption | rfl | intro _ | apply sb_tamperAct | apply sb_foldl | apply sb_ite) | exact partsIn_trans hl rfl | split

theorem sb_execTmpHold {pl : List Part} {z : State} {v : Word} {s : State} (hk : sameBut pl z s) (hl : partsIn [.events, .tmp, .evr] pl = true) :
    OutParts pl z (execTmpHold v s) := by
  unfold execTmpHold
  repeat' first | (with_reducible first | assumption | rfl | intro _ | apply sb_withAlarm | apply sb_ite | apply outSb_ite | apply outSb_next) | exact partsIn_trans hl rfl | split

theorem sb_execTmpSticky {pl : List Part} {z : State} {v : Word} {s : State} (hk : sameBut pl z s) (hl : partsIn [.tmp] pl = true) :
    OutParts pl z (execTmpSticky v s) := by
  unfold execTmpSticky
  repeat' first | (with_reducible first | assumption | rfl | intro _ | apply sb_blkTmp | apply sb_ite | apply outSb_ite | apply outSb_next) | exact partsIn_trans hl rfl | split

theorem sb_execTmpCtlLock {pl : List Part} {z : State} {v : Word} {s : State} (hk : sameBut pl z s) (hl : partsIn [.tmp] pl = true) :
    OutParts pl z (execTmpCtlLock v s) := by
  unfold execTmpCtlLock
  repeat' first | (with_reducible first | assumption | rfl | intro _ | apply sb_blkTmp | apply sb_ite | apply outSb_ite | apply outSb_next) | exact partsIn_trans hl rfl | split

theorem sb_stickyConsume {pl : List Part} {z : State} {s : State} (hk : sameBut pl z s) (hl : partsIn [.events, .tmp, .evr] pl = true) :
    sameBut pl z (stickyConsume s) := by
  unfold stickyConsume
  try dsimp only
  repeat' first | (with_reducible first | assumption | rfl | intro _ | apply sb_blkTmp | apply sb_logS | apply sb_ite) | exact partsIn_trans hl rfl | split

theorem sb_snuffFlagClear {pl : List Part} {z : State} {s : State} (hk : sameBut pl z s) (hl : partsIn [.snf] pl = true) :
    sameBut pl z (snuffFlagClear s) := by
  unfold snuffFlagClear
  repeat' first | (with_reducible first | assumption | rfl | intro _ | apply sb_blkSnf) | exact partsIn_trans hl rfl | split

/-! ### Machine/Fuses.lean -/

theorem sb_onFus {pl : List Part} {z : State} {s : State} {f : Fus → Fus} (hk : sameBut pl z s) (hl : partsIn [.fus] pl = true) :
    sameBut pl z (onFus s f) := by
  unfold onFus
  repeat' first | (with_reducible first | assumption | rfl | intro _ | apply sb_blkFus) | exact partsIn_trans hl rfl | split

theorem sb_logSec {pl : List Part} {z : State} {s : State} {w b : Nat} {v : Bool} (hk : sameBut pl z s) (hl : partsIn [.events, .evr] pl = true) :
    sameBut pl z (logSec s w b v) := by
  unfold logSec
  repeat' first | (with_reducible first | assumption | rfl | intro _ | apply sb_logS) | exact partsIn_trans hl rfl | split

theorem sb_secFlags {pl : List Part} {z : State} {s : State} {a : Nat} {v : Word × Word × Word} (hk : sameBut pl z s) (hl : partsIn [.events, .fus, .evr] pl = true) :
    sameBut pl z (secFlags s a v) := by
  unfold secFlags
  dsimp only
  repeat' first | (with_reducible first | assumption | rfl | intro _ | apply sb_logSec | apply sb_onFus | apply sb_foldl) | exact partsIn_trans hl rfl | split

theorem sb_secKindle {pl : List Part} {z : State} {held : Bool} {s : State} {a : Nat} (hk : sameBut pl z s) (hl : partsIn [.events, .fus, .evr] pl = true) :
    sameBut pl z (secKindle held s a) := by
  unfold secKindle
  dsimp only
  repeat' first | (with_reducible first | assumption | rfl | intro _ | apply sb_secFlags | apply sb_onFus | apply sb_ite) | exact partsIn_trans hl rfl | split

theorem sb_cfgFlag {pl : List Part} {z : State} {s : State} {w : Nat} (hk : sameBut pl z s) (hl : partsIn [.events, .fus, .cfg, .evr] pl = true) :
    sameBut pl z (cfgFlag s w) := by
  unfold cfgFlag
  dsimp only
  repeat' first | (with_reducible first | assumption | rfl | intro _ | apply sb_blkCfg | apply sb_onFus | apply sb_logSD) | exact partsIn_trans hl rfl | split

theorem sb_pinFields {pl : List Part} {z : State} {s : State} (hk : sameBut pl z s) (hl : partsIn [.fus, .cfg] pl = true) :
    sameBut pl z (pinFields s) := by
  unfold pinFields
  try dsimp only
  repeat' first | (with_reducible first | assumption | rfl | intro _ | apply sb_blkCfg | apply sb_onFus | apply sb_ite) | exact partsIn_trans hl rfl | split

theorem sb_fuseKindle {pl : List Part} {z : State} {s : State} (hk : sameBut pl z s) (hl : partsIn [.events, .fus, .cfg, .evr] pl = true) :
    sameBut pl z (fuseKindle s) := by
  unfold fuseKindle
  try dsimp only
  repeat' first | (with_reducible first | assumption | rfl | intro _ | apply sb_onFus | apply sb_secKindle | apply sb_cfgFlag | apply sb_pinFields | apply sb_foldl | apply sb_ite) | exact partsIn_trans hl rfl | split

theorem sb_stopAll {pl : List Part} {z : State} {s : State} (hk : sameBut pl z s) (hl : partsIn [.events, .vlt, .cus, .eng, .pke, .hif, .evr, .flt, .cores, .sram, .free] pl = true) :
    sameBut pl z (stopAll s) := by
  unfold stopAll
  try dsimp only
  repeat' first | (with_reducible first | assumption | rfl | intro _ | apply sb_blkHif | apply sb_blkVlt | apply sb_abortEngines | apply sb_abortCommands | apply sb_abortTrips | apply sb_ite) | exact partsIn_trans hl rfl | split

theorem sb_debugCancel {pl : List Part} {z : State} {s : State} (hk : sameBut pl z s) (hl : partsIn [.events, .mode, .evr] pl = true) :
    sameBut pl z (debugCancel s) := by
  unfold debugCancel
  repeat' first | (with_reducible first | assumption | rfl | intro _ | apply sb_blkMode | apply sb_annClear | apply sb_ite) | exact partsIn_trans hl rfl | split

theorem sb_tightenEffect {pl : List Part} {z : State} {s : State} {old : Fus} {a : Nat} (hk : sameBut pl z s) (hl : partsIn [.events, .glb, .mode, .clk, .fus, .cfg, .mpu, .fwl, .vlt, .cus, .can0, .can1, .voe, .eng, .pke, .rng, .hif, .spi0, .spi1, .flash, .tmp, .snf, .evr, .upd, .flt, .cores, .sram, .free] pl = true) :
    sameBut pl z (tightenEffect s old a) := by
  unfold tightenEffect
  try dsimp only
  repeat' first | (with_reducible first | assumption | rfl | intro _ | apply sb_blkMode | apply sb_deviceReset | apply sb_stopAll | apply sb_custCancelAll | apply sb_debugCancel | apply sb_armedAct | apply sb_slotCheck | apply sb_onFus | apply sb_ite) | exact partsIn_trans hl rfl | split

theorem sb_tighten {pl : List Part} {z : State} {s : State} {a : Nat} {new marg : Word} (hk : sameBut pl z s) (hl : partsIn [.events, .glb, .mode, .clk, .fus, .cfg, .mpu, .fwl, .vlt, .cus, .can0, .can1, .voe, .eng, .pke, .rng, .hif, .spi0, .spi1, .flash, .tmp, .snf, .evr, .upd, .flt, .cores, .sram, .free] pl = true) :
    sameBut pl z (tighten s a new marg) := by
  unfold tighten
  dsimp only
  repeat' first | (with_reducible first | assumption | rfl | intro _ | apply sb_logSec | apply sb_tightenEffect | apply sb_onFus | apply sb_foldl) | exact partsIn_trans hl rfl | split

theorem sb_secPass {pl : List Part} {z : State} {s : State} {a : Nat} (hk : sameBut pl z s) (hl : partsIn [.events, .glb, .mode, .clk, .fus, .cfg, .mpu, .fwl, .vlt, .cus, .can0, .can1, .voe, .eng, .pke, .rng, .hif, .spi0, .spi1, .flash, .tmp, .snf, .evr, .upd, .flt, .cores, .sram, .free] pl = true) :
    sameBut pl z (secPass s a) := by
  unfold secPass
  try dsimp only
  repeat' first | (with_reducible first | assumption | rfl | intro _ | apply sb_secFlags | apply sb_slotCheck | apply sb_onFus | apply sb_tighten | apply sb_ite) | exact partsIn_trans hl rfl | split

theorem sb_keyPass {pl : List Part} {z : State} {s : State} {a : Nat} (hk : sameBut pl z s) (hl : partsIn [.events, .fus, .evr] pl = true) :
    sameBut pl z (keyPass s a) := by
  unfold keyPass
  dsimp only
  repeat' first | (with_reducible first | assumption | rfl | intro _ | apply sb_logS | apply sb_onFus | apply sb_ite) | exact partsIn_trans hl rfl | split

theorem sb_fuseTrigger {pl : List Part} {z : State} {s : State} (hk : sameBut pl z s) (hl : partsIn [.fus] pl = true) :
    sameBut pl z (fuseTrigger s) := by
  unfold fuseTrigger
  repeat' first | (with_reducible first | assumption | rfl | intro _ | apply sb_onFus | apply sb_ite) | exact partsIn_trans hl rfl | split

theorem sb_execRereadInterval {pl : List Part} {z : State} {s : State} (hk : sameBut pl z s) (hl : partsIn [.fus] pl = true) :
    OutParts pl z (execRereadInterval s) := by
  unfold execRereadInterval
  repeat' first | (with_reducible first | assumption | rfl | intro _ | apply sb_fuseTrigger | apply sb_ite | apply outSb_ite | apply outSb_next) | exact partsIn_trans hl rfl | split

theorem sb_execFusRereadNow {pl : List Part} {z : State} {s : State} (hk : sameBut pl z s) (hl : partsIn [.fus] pl = true) :
    OutParts pl z (execFusRereadNow s) := by
  unfold execFusRereadNow
  repeat' first | (with_reducible first | assumption | rfl | intro _ | apply sb_fuseTrigger | apply sb_ite | apply outSb_ite | apply outSb_next) | exact partsIn_trans hl rfl | split

theorem sb_rereadEdge {pl : List Part} {z : State} {s : State} (hk : sameBut pl z s) (hl : partsIn [.fus] pl = true) :
    sameBut pl z (rereadEdge s) := by
  unfold rereadEdge
  try dsimp only
  repeat' first | (with_reducible first | assumption | rfl | intro _ | apply sb_onFus | apply sb_ite) | exact partsIn_trans hl rfl | split

theorem sb_execFuseRereadPass {pl : List Part} {z : State} {s : State} (hk : sameBut pl z s) (hl : partsIn [.fus] pl = true) :
    OutParts pl z (execFuseRereadPass s) := by
  unfold execFuseRereadPass
  try dsimp only
  repeat' first | (with_reducible first | assumption | rfl | intro _ | apply sb_onFus | apply sb_ite | apply outSb_ite | apply outSb_next) | exact partsIn_trans hl rfl | split

theorem sb_passNext {pl : List Part} {z : State} {s : State} (hk : sameBut pl z s) (hl : partsIn [.fus] pl = true) :
    sameBut pl z (passNext s) := by
  unfold passNext
  repeat' first | (with_reducible first | assumption | rfl | intro _ | apply sb_onFus | apply sb_ite) | exact partsIn_trans hl rfl | split

theorem sb_execFuseWordReread {pl : List Part} {z : State} {nom low high : Word} {s : State} (hk : sameBut pl z s) (hl : partsIn [.events, .glb, .mode, .clk, .fus, .cfg, .mpu, .fwl, .vlt, .cus, .can0, .can1, .voe, .eng, .pke, .rng, .hif, .spi0, .spi1, .flash, .tmp, .snf, .evr, .upd, .flt, .cores, .sram, .free] pl = true) :
    OutParts pl z (execFuseWordReread nom low high s) := by
  unfold execFuseWordReread
  dsimp only
  repeat' first | (with_reducible first | assumption | rfl | intro _ | apply sb_cfgFlag | apply sb_passNext | apply sb_secPass | apply sb_onFus | apply sb_keyPass | apply sb_ite | apply outSb_ite | apply outSb_next) | exact partsIn_trans hl rfl | split

theorem sb_tempStep {pl : List Part} {z : State} {s : State} {t : Int} (hk : sameBut pl z s) (hl : partsIn [.fus] pl = true) :
    sameBut pl z (tempStep s t) := by
  unfold tempStep
  dsimp only
  repeat' first | (with_reducible first | assumption | rfl | intro _ | apply sb_onFus | apply sb_fuseTrigger | apply sb_ite) | exact partsIn_trans hl rfl | split

theorem sb_execFusePgmGo {pl : List Part} {z : State} {v : Word} {auth : PgmAuth} {s : State} (hk : sameBut pl z s) (hl : partsIn [.events, .fus, .cus, .can0, .can1, .voe, .hif, .evr, .flt] pl = true) :
    OutParts pl z (execFusePgmGo v auth s) := by
  unfold execFusePgmGo
  try dsimp only
  repeat' first | (with_reducible first | assumption | rfl | intro _ | apply sb_onFus | apply sb_latchUse | apply sb_ite | apply outSb_ite | apply outSb_next) | exact partsIn_trans hl rfl | split

theorem sb_cusEffect {pl : List Part} {z : State} {s : State} {a : Nat} (hk : sameBut pl z s) (hl : partsIn [.events, .fus, .cus, .can0, .can1, .voe, .hif, .evr, .flt] pl = true) :
    sameBut pl z (cusEffect s a) := by
  unfold cusEffect
  try dsimp only
  repeat' first | (with_reducible first | assumption | rfl | intro _ | apply sb_slotCheck | apply sb_onFus | apply sb_ite) | exact partsIn_trans hl rfl | split

theorem sb_pgmEnd {pl : List Part} {z : State} {s : State} {o : PgmOp} {a : Nat} {fail : Bool} (hk : sameBut pl z s) (hl : partsIn [.events, .fus, .cus, .evr, .flt] pl = true) :
    sameBut pl z (pgmEnd s o a fail) := by
  unfold pgmEnd
  try dsimp only
  repeat' first | (with_reducible first | assumption | rfl | intro _ | apply sb_latchClear | apply sb_onFus | apply sb_ite) | exact partsIn_trans hl rfl | split

theorem sb_nrstTake {pl : List Part} {z : State} {s : State} (hk : sameBut pl z s) (hl : partsIn [.events, .glb, .mode, .clk, .fus, .cfg, .mpu, .fwl, .vlt, .cus, .can0, .can1, .voe, .eng, .pke, .rng, .hif, .spi0, .spi1, .flash, .tmp, .evr, .upd, .flt, .cores, .sram, .free] pl = true) :
    sameBut pl z (nrstTake s) := by
  unfold nrstTake
  try dsimp only
  repeat' first | (with_reducible first | assumption | rfl | intro _ | apply sb_blkTmp | apply sb_blkMode | apply sb_coreCleared | apply sb_spi0Cut | apply sb_nrstFree | apply sb_ite) | exact partsIn_trans hl rfl | split

theorem sb_execFusePulseEnd {pl : List Part} {z : State} {nom low high : Word} {s : State} (hk : sameBut pl z s) (hl : partsIn [.events, .glb, .mode, .clk, .fus, .cfg, .mpu, .fwl, .vlt, .cus, .can0, .can1, .voe, .eng, .pke, .rng, .hif, .spi0, .spi1, .flash, .tmp, .evr, .upd, .flt, .cores, .sram, .free] pl = true) :
    OutParts pl z (execFusePulseEnd nom low high s) := by
  unfold execFusePulseEnd
  try dsimp only
  repeat' first | (with_reducible first | assumption | rfl | intro _ | apply sb_pgmEnd | apply sb_onFus | apply sb_nrstTake | apply sb_cusEffect | apply sb_ite | apply outSb_ite | apply outSb_next) | exact partsIn_trans hl rfl | split

theorem sb_blowCell {pl : List Part} {z : State} {s : State} {w : Nat} {b : Word} (hk : sameBut pl z s) (hl : partsIn [.fus] pl = true) :
    sameBut pl z (blowCell s w b) := by
  unfold blowCell
  try dsimp only
  repeat' first | (with_reducible first | assumption | rfl | intro _ | apply sb_onFus | apply sb_ite) | exact partsIn_trans hl rfl | split

theorem sb_pulseCell {pl : List Part} {z : State} {s : State} {w : Nat} {b : Word} (hk : sameBut pl z s) (hl : partsIn [.fus, .free] pl = true) :
    sameBut pl z (pulseCell s w b) := by
  unfold pulseCell
  try dsimp only
  repeat' first | (with_reducible first | assumption | rfl | intro _ | apply sb_freeBytes_p | apply sb_onFus | apply sb_ite) | exact partsIn_trans hl rfl | (refine sb_freeBytes ?_ (by with_reducible assumption) ?_) | split

theorem sb_blowCopy {pl : List Part} {z : State} {s : State} {w : Nat} {b : Word} (hk : sameBut pl z s) (hl : partsIn [.events, .fus, .cus, .can0, .can1, .voe, .hif, .evr, .flt] pl = true) :
    sameBut pl z (blowCopy s w b) := by
  unfold blowCopy
  try dsimp only
  repeat' first | (with_reducible first | assumption | rfl | intro _ | apply sb_blowCell | apply sb_cusEffect | apply sb_ite) | exact partsIn_trans hl rfl | split

theorem sb_blowRun_p {pl : List Part} {z : State} {s : State} {k : Nat} {l : List (Nat × Word)} (hk : sameBut pl z s) (hl : partsIn [.events, .fus, .cus, .can0, .can1, .voe, .hif, .evr, .flt, .free] pl = true) :
    sameBut pl z (blowRun s k l).1 := by
  induction l generalizing s k with
  | nil => exact hk
  | cons p t ih =>
    obtain ⟨w, b⟩ := p
    unfold blowRun
    split
    · dsimp only
      exact sb_onFus (sb_pulseCell hk (partsIn_trans hl rfl)) (partsIn_trans hl rfl)
    · exact ih (sb_blowCopy hk (partsIn_trans hl rfl))

theorem sb_blowRun {pl : List Part} {z : State} {s : State} {k : Nat} {l : List (Nat × Word)} (hk : sameBut pl z s) {a : Option Nat} {t : State}
    (he : blowRun s k l = (t, a)) (hl : partsIn [.events, .fus, .cus, .can0, .can1, .voe, .hif, .evr, .flt, .free] pl = true) : sameBut pl z t := by
  have h' := sb_blowRun_p hk hl (z := z) (s := s) (k := k) (l := l)
  rw [he] at h'
  exact h'

/-! ### Machine/Snuffer.lean -/

theorem sb_ringTamper {pl : List Part} {z : State} {s : State} {k : Nat} (hk : sameBut pl z s) (hl : partsIn [.events, .hif, .evr, .flt] pl = true) :
    sameBut pl z (ringTamper s k) := by
  unfold ringTamper
  dsimp only
  repeat' first | (with_reducible first | assumption | rfl | intro _ | apply sb_endRunning | apply sb_setRing | apply sb_refuseDesc | apply sb_foldl | apply sb_ite) | exact partsIn_trans hl rfl | split

theorem sb_tamperFlight {pl : List Part} {z : State} {s : State} (hk : sameBut pl z s) (hl : partsIn [.events, .cus, .eng, .pke, .hif, .evr, .flt, .cores, .sram, .free] pl = true) :
    sameBut pl z (tamperFlight s) := by
  unfold tamperFlight
  dsimp only
  repeat' first | (with_reducible first | assumption | rfl | intro _ | apply sb_blkHif | apply sb_ringTamper | apply sb_abortEngines | apply sb_abortTrips | apply sb_foldl | apply sb_ite) | exact partsIn_trans hl rfl | split

theorem sb_bankZero {pl : List Part} {z : State} {s : State} {decays : Bool} (hk : sameBut pl z s) (hl : partsIn [.vlt, .free] pl = true) :
    sameBut pl z (bankZero s decays) := by
  unfold bankZero
  dsimp only
  repeat' first | (with_reducible first | assumption | rfl | intro _ | apply sb_blkVlt | apply sb_freeBytes_p | apply sb_ite) | exact partsIn_trans hl rfl | (refine sb_freeBytes ?_ (by with_reducible assumption) ?_) | split

theorem sb_snuffUngate {pl : List Part} {z : State} {s : State} (hk : sameBut pl z s) (hl : partsIn [.clk, .rng] pl = true) :
    sameBut pl z (snuffUngate s) := by
  unfold snuffUngate
  try dsimp only
  repeat' first | (with_reducible first | assumption | rfl | intro _ | apply sb_blkClk | apply sb_onRng | apply sb_ite) | exact partsIn_trans hl rfl | split

theorem sb_snuffRest {pl : List Part} {z : State} {s : State} (hk : sameBut pl z s) (hl : partsIn [.events, .mode, .clk, .vlt, .cus, .can0, .can1, .voe, .pke, .rng, .hif, .spi0, .evr, .flt] pl = true) :
    sameBut pl z (snuffRest s) := by
  unfold snuffRest
  try dsimp only
  repeat' first | (with_reducible first | assumption | rfl | intro _ | apply sb_blkMode | apply sb_blkVlt | apply sb_custCancelAll | apply sb_custStop | apply sb_snuffUngate | apply sb_onRng | apply sb_setDb | apply sb_dimCancel | apply sb_debugCancel | apply sb_ite) | exact partsIn_trans hl rfl | split

theorem sb_snuffLatch {pl : List Part} {z : State} {s : State} {e : SnuffEnv} (hk : sameBut pl z s) (hl : partsIn [.mode, .snf] pl = true) :
    sameBut pl z (snuffLatch s e) := by
  unfold snuffLatch
  try dsimp only
  repeat' first | (with_reducible first | assumption | rfl | intro _ | apply sb_blkMode | apply sb_blkSnf | apply sb_ite) | exact partsIn_trans hl rfl | split

theorem sb_snuffedEnter {pl : List Part} {z : State} {s : State} {cause : Nat} (hk : sameBut pl z s) (hl : partsIn [.events, .glb, .mode, .hif, .evr] pl = true) :
    sameBut pl z (snuffedEnter s cause) := by
  unfold snuffedEnter
  repeat' first | (with_reducible first | assumption | rfl | intro _ | apply sb_toMode | apply sb_vfsOff | apply sb_ite) | exact partsIn_trans hl rfl | split

theorem sb_retireEnd {pl : List Part} {z : State} {s : State} (hk : sameBut pl z s) (hl : partsIn [.events, .glb, .mode, .clk, .fus, .cfg, .mpu, .fwl, .vlt, .cus, .can0, .can1, .voe, .eng, .pke, .rng, .hif, .spi0, .spi1, .flash, .tmp, .snf, .evr, .upd, .flt, .cores, .sram, .free] pl = true) :
    sameBut pl z (retireEnd s) := by
  unfold retireEnd
  try dsimp only
  repeat' first | (with_reducible first | assumption | rfl | intro _ | apply sb_blowRun_p | apply sb_endWait | apply sb_deviceReset | apply sb_snuffFlagClear | apply sb_ite) | exact partsIn_trans hl rfl | (refine sb_blowRun ?_ (by with_reducible assumption) ?_) | split

theorem sb_execSnuffTrigger {pl : List Part} {z : State} {e : SnuffEnv} {s : State} (hk : sameBut pl z s) (hl : partsIn [.events, .glb, .mode, .clk, .fus, .cfg, .mpu, .fwl, .vlt, .cus, .can0, .can1, .voe, .eng, .pke, .rng, .hif, .spi0, .spi1, .flash, .tmp, .snf, .evr, .upd, .flt, .cores, .sram, .free] pl = true) :
    OutParts pl z (execSnuffTrigger e s) := by
  unfold execSnuffTrigger
  dsimp only
  repeat' first | (with_reducible first | assumption | rfl | intro _ | apply sb_blkTmp | apply sb_bankZero | apply sb_logS | apply sb_tamperFlight | apply sb_snuffedEnter | apply sb_retireEnd | apply sb_snuffRest | apply sb_snuffLatch | apply sb_ite | apply outSb_ite | apply outSb_next) | exact partsIn_trans hl rfl | split

end Sys2Proof.Machine
end

