-- ==== Sys2Proof/Laws/SameKeys.lean ====
section
/-! SUPPORT. Which parts of State each operation may change: Keys. -/
namespace Sys2Proof.Machine

/-! ### Machine/Voeth.lean -/

theorem sb_onVoe {pl : List Part} {z : State} {s : State} {f : Voe → Voe} (hk : sameBut pl z s) (hl : partsIn [.voe] pl = true) :
    sameBut pl z (onVoe s f) := by
  unfold onVoe
  repeat' first | (with_reducible first | assumption | rfl | intro _ | apply sb_blkVoe) | exact partsIn_trans hl rfl | split

theorem sb_setPeer {pl : List Part} {z : State} {s : State} {ch node : Nat} {p : Peer} (hk : sameBut pl z s) (hl : partsIn [.voe] pl = true) :
    sameBut pl z (setPeer s ch node p) := by
  unfold setPeer
  repeat' first | (with_reducible first | assumption | rfl | intro _ | apply sb_onVoe) | exact partsIn_trans hl rfl | split

theorem sb_sendAck {pl : List Part} {z : State} {s : State} {ch node : Nat} (hk : sameBut pl z s) (hl : partsIn [.can0, .can1, .voe] pl = true) :
    sameBut pl z (sendAck s ch node) := by
  unfold sendAck
  repeat' first | (with_reducible first | assumption | rfl | intro _ | apply sb_sendFrame | apply sb_ite) | exact partsIn_trans hl rfl | split

theorem sb_proposalsFail {pl : List Part} {z : State} {s : State} (hk : sameBut pl z s) (hl : partsIn [.events, .voe, .hif, .evr, .flt] pl = true) :
    sameBut pl z (proposalsFail s) := by
  unfold proposalsFail
  dsimp only
  repeat' first | (with_reducible first | assumption | rfl | intro _ | apply sb_endWaits | apply sb_onVoe | apply sb_foldl) | exact partsIn_trans hl rfl | split

theorem sb_sessionEnd {pl : List Part} {z : State} {s : State} {ch node : Nat} (hk : sameBut pl z s) (hl : partsIn [.events, .voe, .hif, .evr, .flt] pl = true) :
    sameBut pl z (sessionEnd s ch node) := by
  unfold sessionEnd
  try dsimp only
  repeat' first | (with_reducible first | assumption | rfl | intro _ | apply sb_setPeer | apply sb_proposalsFail | apply sb_onVoe | apply sb_ite) | exact partsIn_trans hl rfl | split

theorem sb_sendHello {pl : List Part} {z : State} {s : State} {ch node : Nat} (hk : sameBut pl z s) (hl : partsIn [.can0, .can1, .voe, .eng, .rng] pl = true) :
    sameBut pl z (sendHello s ch node) := by
  unfold sendHello
  try dsimp only
  repeat' first | (with_reducible first | assumption | rfl | intro _ | apply sb_setPeer | apply sb_sendFrame | apply sb_ite | apply optSb_getD) | exact partsIn_trans hl rfl | (refine sb_rngInternal ?_ (by with_reducible assumption) ?_) | split

theorem sb_flushPeer {pl : List Part} {z : State} {s : State} {node n : Nat} (h : sameBut pl z s) (hl : partsIn [.can0, .can1, .voe] pl = true) : sameBut pl z (flushPeer s node n) := by
  induction n generalizing s with
  | zero => exact h
  | succ n ih =>
    unfold flushPeer
    dsimp only
    split
    · exact h
    · split
      · exact h
      · exact ih (sb_sendFrame (sb_setPeer h (partsIn_trans hl rfl)) (partsIn_trans hl rfl))

theorem sb_mirrorQueue {pl : List Part} {z : State} {s : State} {f : List Bytes → List Bytes} (hk : sameBut pl z s) (hl : partsIn [.can0, .can1, .voe] pl = true) :
    sameBut pl z (mirrorQueue s f) := by
  unfold mirrorQueue
  try dsimp only
  repeat' first | (with_reducible first | assumption | rfl | intro _ | apply sb_flushPeer | apply sb_setPeer | apply sb_ite) | exact partsIn_trans hl rfl | split

theorem sb_mirrorSend {pl : List Part} {z : State} {s : State} {typ : Nat} {pay : Bytes} (hk : sameBut pl z s) (hl : partsIn [.can0, .can1, .voe] pl = true) :
    sameBut pl z (mirrorSend s typ pay) := by
  unfold mirrorSend
  try dsimp only
  repeat' first | (with_reducible first | assumption | rfl | intro _ | apply sb_mirrorQueue | apply sb_ite) | exact partsIn_trans hl rfl | split

theorem sb_sendAlign {pl : List Part} {z : State} {s : State} (hk : sameBut pl z s) (hl : partsIn [.can0, .can1, .voe] pl = true) :
    sameBut pl z (sendAlign s) := by
  unfold sendAlign
  try dsimp only
  repeat' first | (with_reducible first | assumption | rfl | intro _ | apply sb_onVoe | apply sb_mirrorQueue | apply sb_ite | apply optSb_getD) | exact partsIn_trans hl rfl | split

theorem sb_sendStates {pl : List Part} {z : State} {s : State} (hk : sameBut pl z s) (hl : partsIn [.can0, .can1, .voe] pl = true) :
    sameBut pl z (sendStates s) := by
  unfold sendStates
  repeat' first | (with_reducible first | assumption | rfl | intro _ | apply sb_mirrorSend | apply sb_foldl | apply sb_ite) | exact partsIn_trans hl rfl | split

theorem sb_sessionOpen {pl : List Part} {z : State} {s : State} {ch node : Nat} (hk : sameBut pl z s) (hl : partsIn [.can0, .can1, .voe] pl = true) :
    sameBut pl z (sessionOpen s ch node) := by
  unfold sessionOpen
  try dsimp only
  repeat' first | (with_reducible first | assumption | rfl | intro _ | apply sb_setPeer | apply sb_sendAlign | apply sb_onVoe | apply sb_sendAlarm | apply sb_foldl | apply sb_ite) | exact partsIn_trans hl rfl | split

theorem sb_openCheck {pl : List Part} {z : State} {s : State} {ch node : Nat} (hk : sameBut pl z s) (hl : partsIn [.can0, .can1, .voe] pl = true) :
    sameBut pl z (openCheck s ch node) := by
  unfold openCheck
  dsimp only
  repeat' first | (with_reducible first | assumption | rfl | intro _ | apply sb_sessionOpen | apply sb_ite) | exact partsIn_trans hl rfl | split

theorem sb_peerLost {pl : List Part} {z : State} {s : State} {ch node : Nat} (hk : sameBut pl z s) (hl : partsIn [.events, .voe, .hif, .evr, .flt] pl = true) :
    sameBut pl z (peerLost s ch node) := by
  unfold peerLost
  try dsimp only
  repeat' first | (with_reducible first | assumption | rfl | intro _ | apply sb_sessionEnd | apply sb_setPeer | apply sb_ite) | exact partsIn_trans hl rfl | split

theorem sb_resend {pl : List Part} {z : State} {s : State} {ch node : Nat} (hk : sameBut pl z s) (hl : partsIn [.can0, .can1, .voe] pl = true) :
    sameBut pl z (resend s ch node) := by
  unfold resend
  repeat' first | (with_reducible first | assumption | rfl | intro _ | apply sb_sendFrame | apply sb_foldl) | exact partsIn_trans hl rfl | split

theorem sb_execVoeRto {pl : List Part} {z : State} {ch : Nat} {node : Byte} {s : State} (hk : sameBut pl z s) (hl : partsIn [.events, .can0, .can1, .voe, .hif, .evr, .flt] pl = true) :
    OutParts pl z (execVoeRto ch node s) := by
  unfold execVoeRto
  try dsimp only
  repeat' first | (with_reducible first | assumption | rfl | intro _ | apply sb_peerLost | apply sb_resend | apply sb_setPeer | apply sb_ite | apply outSb_ite | apply outSb_next) | exact partsIn_trans hl rfl | split

theorem sb_execHelloTimer {pl : List Part} {z : State} {ch : Nat} {s : State} (hk : sameBut pl z s) (hl : partsIn [.can0, .can1, .voe, .eng, .rng] pl = true) :
    OutParts pl z (execHelloTimer ch s) := by
  unfold execHelloTimer
  dsimp only
  repeat' first | (with_reducible first | assumption | rfl | intro _ | apply sb_onVoe | apply sb_sendHello | apply sb_foldl | apply sb_ite | apply outSb_ite | apply outSb_next | apply optSb_getD) | exact partsIn_trans hl rfl | split

theorem sb_execAlignTimer {pl : List Part} {z : State} {s : State} (hk : sameBut pl z s) (hl : partsIn [.can0, .can1, .voe] pl = true) :
    OutParts pl z (execAlignTimer s) := by
  unfold execAlignTimer
  repeat' first | (with_reducible first | assumption | rfl | intro _ | apply sb_sendAlign | apply sb_ite | apply outSb_ite | apply outSb_next) | exact partsIn_trans hl rfl | split

theorem sb_voeTrim {pl : List Part} {z : State} {s : State} {ch : Nat} (hk : sameBut pl z s) (hl : partsIn [.can0, .can1] pl = true) :
    sameBut pl z (voeTrim s ch) := by
  unfold voeTrim
  dsimp only
  repeat' first | (with_reducible first | assumption | rfl | intro _ | apply sb_setCan) | exact partsIn_trans hl rfl | split

theorem sb_voeTake_p {pl : List Part} {z : State} {s : State} {ch kind : Nat} (hk : sameBut pl z s) (hl : partsIn [.can0, .can1, .cores] pl = true) : sameBut pl z (voeTake s ch kind).2 := by
  unfold voeTake
  try dsimp only
  repeat' first | (with_reducible first | assumption | rfl | intro _ | apply sb_voeTrim | apply sb_canIrq | apply sb_setCan | apply sb_ite) | exact partsIn_trans hl rfl | split

theorem sb_voeTake {pl : List Part} {z : State} {s : State} {ch kind : Nat} (hk : sameBut pl z s) {a : Option RxEnt} {t : State} (he : voeTake s ch kind = (a, t)) (hl : partsIn [.can0, .can1, .cores] pl = true) : sameBut pl z t := by
  have h' := sb_voeTake_p hk hl (z := z) (s := s) (ch := ch) (kind := kind)
  rw [he] at h'
  exact h'

theorem sb_voeBad {pl : List Part} {z : State} {s : State} {ch : Nat} {tag : Bool} (hk : sameBut pl z s) (hl : partsIn [.events, .voe, .evr] pl = true) :
    sameBut pl z (voeBad s ch tag) := by
  unfold voeBad
  repeat' first | (with_reducible first | assumption | rfl | intro _ | apply sb_onVoe | apply sb_logOther | apply sb_ite) | exact partsIn_trans hl rfl | split

theorem sb_dataAccept {pl : List Part} {z : State} {s : State} {ch src : Nat} {e : RxEnt} (hk : sameBut pl z s) (hl : partsIn [.voe] pl = true) :
    sameBut pl z (dataAccept s ch src e) := by
  unfold dataAccept
  dsimp only
  repeat' first | (with_reducible first | assumption | rfl | intro _ | apply sb_onVoe | apply sb_setPeer | apply sb_ite) | exact partsIn_trans hl rfl | split

theorem sb_execVoethData {pl : List Part} {z : State} {ch : Nat} {s : State} (hk : sameBut pl z s) (hl : partsIn [.events, .can0, .can1, .voe, .evr, .cores] pl = true) :
    OutParts pl z (execVoethData ch s) := by
  unfold execVoethData
  try dsimp only
  repeat' first | (with_reducible first | assumption | rfl | intro _ | apply sb_voeTake_p | apply sb_voeBad | apply sb_dataAccept | apply sb_setPeer | apply sb_ite | apply outSb_ite | apply outSb_next) | exact partsIn_trans hl rfl | (refine sb_voeTake ?_ (by with_reducible assumption) ?_) | split

theorem sb_ackHello {pl : List Part} {z : State} {s : State} {ch src next : Nat} (hk : sameBut pl z s) (hl : partsIn [.can0, .can1, .voe] pl = true) :
    sameBut pl z (ackHello s ch src next) := by
  unfold ackHello
  dsimp only
  repeat' first | (with_reducible first | assumption | rfl | intro _ | apply sb_openCheck | apply sb_setPeer | apply sb_ite) | exact partsIn_trans hl rfl | split

theorem sb_execVoethAck {pl : List Part} {z : State} {ch : Nat} {s : State} (hk : sameBut pl z s) (hl : partsIn [.can0, .can1, .voe, .cores] pl = true) :
    OutParts pl z (execVoethAck ch s) := by
  unfold execVoethAck
  try dsimp only
  repeat' first | (with_reducible first | assumption | rfl | intro _ | apply sb_voeTake_p | apply sb_ackHello | apply sb_flushPeer | apply sb_setPeer | apply sb_ite | apply outSb_ite | apply outSb_next) | exact partsIn_trans hl rfl | (refine sb_voeTake ?_ (by with_reducible assumption) ?_) | split

theorem sb_execHello {pl : List Part} {z : State} {ch : Nat} {s : State} (hk : sameBut pl z s) (hl : partsIn [.events, .can0, .can1, .voe, .eng, .rng, .hif, .evr, .flt, .cores] pl = true) :
    OutParts pl z (execHello ch s) := by
  unfold execHello
  try dsimp only
  repeat' first | (with_reducible first | assumption | rfl | intro _ | apply sb_voeTake_p | apply sb_voeBad | apply sb_sessionEnd | apply sb_setPeer | apply sb_sendAck | apply sb_sendHello | apply sb_openCheck | apply sb_ite | apply outSb_ite | apply outSb_next) | exact partsIn_trans hl rfl | (refine sb_voeTake ?_ (by with_reducible assumption) ?_) | split

theorem sb_inboxTake {pl : List Part} {z : State} {s : State} {ch typ : Nat} (hk : sameBut pl z s)  {a : Msg} {t : State} (e : inboxTake s ch typ = some (a, t)) (hl : partsIn [.voe] pl = true) :
    sameBut pl z t := by
  unfold inboxTake at e
  try dsimp only at e
  repeat' split at e
  all_goals cases e
  all_goals repeat' first | (with_reducible first | assumption | rfl | intro _ | apply sb_onVoe | apply sb_ite) | exact partsIn_trans hl rfl | split

theorem sb_execAlign {pl : List Part} {z : State} {s : State} (hk : sameBut pl z s) (hl : partsIn [.voe] pl = true) :
    OutParts pl z (execAlign s) := by
  unfold execAlign
  dsimp only
  repeat' first | (with_reducible first | assumption | rfl | intro _ | apply sb_onVoe | apply sb_ite | apply outSb_ite | apply outSb_next) | exact partsIn_trans hl rfl | (refine sb_inboxTake ?_ (by with_reducible assumption) ?_) | split

theorem sb_seasonSet {pl : List Part} {z : State} {s : State} {a : Nat} {x : Word} {ovlen : Nat} (hk : sameBut pl z s) (hl : partsIn [.vlt] pl = true) :
    sameBut pl z (seasonSet s a x ovlen) := by
  unfold seasonSet
  repeat' first | (with_reducible first | assumption | rfl | intro _ | apply sb_blkVlt) | exact partsIn_trans hl rfl | split

theorem sb_seasonDrop {pl : List Part} {z : State} {s : State} {a : Nat} (hk : sameBut pl z s) (hl : partsIn [.vlt] pl = true) :
    sameBut pl z (seasonDrop s a) := by
  unfold seasonDrop
  repeat' first | (with_reducible first | assumption | rfl | intro _ | apply sb_blkVlt) | exact partsIn_trans hl rfl | split

theorem sb_sendAnswer {pl : List Part} {z : State} {s : State} {a sn res : Nat} (hk : sameBut pl z s) (hl : partsIn [.can0, .can1, .voe] pl = true) :
    sameBut pl z (sendAnswer s a sn res) := by
  unfold sendAnswer
  repeat' first | (with_reducible first | assumption | rfl | intro _ | apply sb_mirrorSend) | exact partsIn_trans hl rfl | split

theorem sb_execSeasonPropose {pl : List Part} {z : State} {s : State} (hk : sameBut pl z s) (hl : partsIn [.vlt, .can0, .can1, .voe] pl = true) :
    OutParts pl z (execSeasonPropose s) := by
  unfold execSeasonPropose
  dsimp only
  repeat' first | (with_reducible first | assumption | rfl | intro _ | apply sb_seasonSet | apply sb_sendAnswer | apply sb_ite | apply outSb_ite | apply outSb_next) | exact partsIn_trans hl rfl | (refine sb_inboxTake ?_ (by with_reducible assumption) ?_) | split

theorem sb_execSeasonAnswer {pl : List Part} {z : State} {s : State} (hk : sameBut pl z s) (hl : partsIn [.events, .vlt, .voe, .hif, .evr, .flt] pl = true) :
    OutParts pl z (execSeasonAnswer s) := by
  unfold execSeasonAnswer
  dsimp only
  repeat' first | (with_reducible first | assumption | rfl | intro _ | apply sb_endWaits | apply sb_seasonSet | apply sb_onVoe | apply sb_seasonDrop | apply sb_ite | apply outSb_ite | apply outSb_next) | exact partsIn_trans hl rfl | (refine sb_inboxTake ?_ (by with_reducible assumption) ?_) | split

theorem sb_execMirrorSeasonCancel {pl : List Part} {z : State} {s : State} (hk : sameBut pl z s) (hl : partsIn [.vlt, .can0, .can1, .voe] pl = true) :
    OutParts pl z (execMirrorSeasonCancel s) := by
  unfold execMirrorSeasonCancel
  dsimp only
  repeat' first | (with_reducible first | assumption | rfl | intro _ | apply sb_sendAnswer | apply sb_seasonDrop | apply sb_ite | apply outSb_ite | apply outSb_next) | exact partsIn_trans hl rfl | (refine sb_inboxTake ?_ (by with_reducible assumption) ?_) | split

theorem sb_execSeasonState {pl : List Part} {z : State} {s : State} (hk : sameBut pl z s) (hl : partsIn [.events, .vlt, .voe, .evr] pl = true) :
    OutParts pl z (execSeasonState s) := by
  unfold execSeasonState
  try dsimp only
  repeat' first | (with_reducible first | assumption | rfl | intro _ | apply sb_logOther | apply sb_seasonSet | apply sb_setSeason | apply sb_ite | apply outSb_ite | apply outSb_next) | exact partsIn_trans hl rfl | (refine sb_inboxTake ?_ (by with_reducible assumption) ?_) | split

theorem sb_voeSent {pl : List Part} {z : State} {s : State} {ch : Nat} {b : TxBuf} (hk : sameBut pl z s) (hl : partsIn [.events, .can0, .can1, .voe, .hif, .evr, .flt] pl = true) :
    sameBut pl z (voeSent s ch b) := by
  unfold voeSent
  try dsimp only
  repeat' first | (with_reducible first | assumption | rfl | intro _ | apply sb_onVoe | apply sb_sendStates | apply sb_sendAlign | apply sb_endWaits | apply sb_ite) | exact partsIn_trans hl rfl | split

theorem sb_voeNoAck {pl : List Part} {z : State} {s : State} {ch : Nat} {f : CanFrame} (hk : sameBut pl z s) (hl : partsIn [.events, .cus, .can0, .can1, .voe, .hif, .evr, .flt] pl = true) :
    sameBut pl z (voeNoAck s ch f) := by
  unfold voeNoAck
  repeat' first | (with_reducible first | assumption | rfl | intro _ | apply sb_latchClear | apply sb_reqClose | apply sb_runStop | apply sb_peerLost | apply sb_endWaits | apply sb_ite) | exact partsIn_trans hl rfl | split

/-! ### Machine/CmdKeys.lean -/

theorem sb_Ans.precond {pl : List Part} {z : State} {s : State} {a : Nat} (hk : sameBut pl z s) (hl : partsIn [] pl = true) :
    AnsParts pl z (Ans.precond s a) := by
  unfold Ans.precond
  repeat' first | (with_reducible first | assumption | rfl | intro _ | apply sb_id) | exact partsIn_trans hl rfl | split | with_reducible apply ansSb_mk

theorem sb_newKeyCheck {pl : List Part} {z s : State} {fn : Nat} {d : Bytes} {a : Ans} (h : sameBut pl z s) (e : newKeyCheck s fn d = .inl a) (hl : partsIn [] pl = true) :
    AnsParts pl z a := by
  unfold newKeyCheck at e
  dsimp only at e
  split at e
  · cases e; exact sb_Ans.bad h (partsIn_trans hl rfl)
  split at e
  · cases e; exact sb_Ans.precond h (partsIn_trans hl rfl)
  split at e
  · cases e; exact sb_Ans.stop h (partsIn_trans hl rfl)
  split at e
  · cases e
  · cases e; exact sb_Ans.stop h (partsIn_trans hl rfl)

theorem sb_stageSlot {pl : List Part} {z : State} {s : State} {n : Nat} (hk : sameBut pl z s) (hl : partsIn [.vlt] pl = true) :
    sameBut pl z (stageSlot s n) := by
  unfold stageSlot
  repeat' first | (with_reducible first | assumption | rfl | intro _ | apply sb_stageKey | apply sb_ite) | exact partsIn_trans hl rfl | split

theorem sb_newKey {pl : List Part} {z : State} {s : State} {fn : Nat} {d : Bytes} {n : Nat} {mat : Bytes} {generated : Bool} (hk : sameBut pl z s) (hl : partsIn [.vlt, .spi0, .flash] pl = true) :
    AnsParts pl z (newKey s fn d n mat generated) := by
  unfold newKey
  try dsimp only
  repeat' first | (with_reducible first | assumption | rfl | intro _ | apply sb_blkVlt | apply sb_pendKey | apply sb_journalAssoc | apply sb_stageSlot | apply sb_dropKey | apply sb_Ans.denied | apply sb_ite | apply ansSb_ite | apply sb_id) | exact partsIn_trans hl rfl | split | with_reducible apply ansSb_mk | with_reducible apply AnsParts.st | with_reducible apply AnsParts.after

theorem sb_keyGenerateCmd {pl : List Part} {z : State} {s : State} {fn : Nat} {d : Bytes} {_io : CmdIo} (hk : sameBut pl z s) (hl : partsIn [.vlt, .eng, .rng, .spi0, .flash] pl = true) :
    AnsParts pl z (keyGenerateCmd s fn d _io) := by
  unfold keyGenerateCmd
  dsimp only
  repeat' first | (with_reducible first | assumption | rfl | intro _ | apply sb_newKey | apply sb_withRandom | apply sb_ite | apply ansSb_ite | apply sb_Ans.aborted | apply sb_Ans.bad | apply sb_id) | exact partsIn_trans hl rfl | (refine sb_newKeyCheck ?_ (by with_reducible assumption) ?_) | split | with_reducible apply ansSb_mk | with_reducible apply AnsParts.st | with_reducible apply AnsParts.after

theorem sb_keyImportCmd {pl : List Part} {z : State} {s : State} {fn : Nat} {d : Bytes} {io : CmdIo} (hk : sameBut pl z s) (hl : partsIn [.events, .vlt, .spi0, .flash, .evr] pl = true) :
    AnsParts pl z (keyImportCmd s fn d io) := by
  unfold keyImportCmd
  dsimp only
  repeat' first | (with_reducible first | assumption | rfl | intro _ | apply sb_withKey | apply sb_newKey | apply sb_ite | apply ansSb_ite | apply sb_Ans.aborted | apply sb_Ans.bad | apply sb_Ans.denied | apply sb_id) | exact partsIn_trans hl rfl | (refine sb_newKeyCheck ?_ (by with_reducible assumption) ?_) | split | with_reducible apply ansSb_mk | with_reducible apply AnsParts.st | with_reducible apply AnsParts.after

theorem sb_keyDeriveCmd {pl : List Part} {z : State} {s : State} {fn : Nat} {d : Bytes} {io : CmdIo} (hk : sameBut pl z s) (hl : partsIn [.events, .vlt, .spi0, .flash, .evr] pl = true) :
    AnsParts pl z (keyDeriveCmd s fn d io) := by
  unfold keyDeriveCmd
  dsimp only
  repeat' first | (with_reducible first | assumption | rfl | intro _ | apply sb_withKey | apply sb_newKey | apply sb_ite | apply ansSb_ite | apply sb_Ans.aborted | apply sb_Ans.bad | apply sb_id) | exact partsIn_trans hl rfl | (refine sb_newKeyCheck ?_ (by with_reducible assumption) ?_) | split | with_reducible apply ansSb_mk | with_reducible apply AnsParts.st | with_reducible apply AnsParts.after

theorem sb_ecdhCmd {pl : List Part} {z : State} {s : State} {fn : Nat} {d : Bytes} {io : CmdIo} (hk : sameBut pl z s) (hl : partsIn [.events, .vlt, .spi0, .flash, .evr] pl = true) :
    AnsParts pl z (ecdhCmd s fn d io) := by
  unfold ecdhCmd
  repeat' first | (with_reducible first | assumption | rfl | intro _ | apply sb_keyed | apply sb_newKey | apply sb_ite | apply ansSb_ite | apply sb_Ans.bad | apply sb_id) | exact partsIn_trans hl rfl | (refine sb_newKeyCheck ?_ (by with_reducible assumption) ?_) | split | with_reducible apply ansSb_mk | with_reducible apply AnsParts.st | with_reducible apply AnsParts.after

theorem sb_withAssoc {pl : List Part} {z : State} {s : State} {fn : Nat} {d : Bytes} {f : Nat → Assoc → Ans} (hk : sameBut pl z s) (hf : ∀ a0 a1, AnsParts pl z (f a0 a1)) (hl : partsIn [] pl = true) :
    AnsParts pl z (withAssoc s fn d f) := by
  unfold withAssoc
  dsimp only
  repeat' first | (with_reducible first | assumption | rfl | intro _ | apply sb_ite | apply ansSb_ite | apply hf | apply sb_Ans.bad | apply sb_Ans.denied | apply sb_Ans.noKey | apply sb_id) | exact partsIn_trans hl rfl | split | with_reducible apply ansSb_mk | with_reducible apply AnsParts.st | with_reducible apply AnsParts.after

theorem sb_zeroizeCmd {pl : List Part} {z : State} {s : State} {p : Nat × Slot} (hk : sameBut pl z s) (hl : partsIn [.vlt] pl = true) :
    sameBut pl z (zeroizeCmd s p) := by
  unfold zeroizeCmd
  try dsimp only
  repeat' first | (with_reducible first | assumption | rfl | intro _ | apply sb_blkVlt | apply sb_dropKey | apply sb_seasonDrop | apply sb_ite) | exact partsIn_trans hl rfl | split

theorem sb_keyZeroizeCmd {pl : List Part} {z : State} {s : State} {fn : Nat} {d : Bytes} {_io : CmdIo} (hk : sameBut pl z s) (hl : partsIn [.vlt] pl = true) :
    AnsParts pl z (keyZeroizeCmd s fn d _io) := by
  unfold keyZeroizeCmd
  dsimp only
  repeat' first | (with_reducible first | assumption | rfl | intro _ | apply sb_withAssoc | apply sb_zeroizeCmd | apply sb_foldl | apply sb_Ans.noKey | apply sb_id) | exact partsIn_trans hl rfl | split | with_reducible apply ansSb_mk | with_reducible apply AnsParts.st | with_reducible apply AnsParts.after

theorem sb_assocSetCmd {pl : List Part} {z : State} {s : State} {fn : Nat} {d : Bytes} {io : CmdIo} (hk : sameBut pl z s) (hl : partsIn [.vlt, .eng, .spi0, .flash, .free] pl = true) :
    AnsParts pl z (assocSetCmd s fn d io) := by
  unfold assocSetCmd
  refine ansSb_ite (fun _ => sb_Ans.bad hk (partsIn_trans hl rfl)) (fun _ => sb_withAssoc hk (fun a x => ?_) (partsIn_trans hl rfl))
  have h := sb_journalAssocIo_p (a := a) (fail := io.fail)
    (sb_blkVlt (v := { s.vlt with assocs := tput none s.vlt.assocs a (some { x with mirror := dOpnd d 4 = 2 }) }) hk (partsIn_trans hl rfl)) (partsIn_trans hl rfl)
  split
  · rename_i e
    rw [e] at h
    exact sb_Ans.aborted (sb_blkVlt h (partsIn_trans hl rfl))
  · rename_i e
    rw [e] at h
    exact ansSb_mk h fun _ h => h

theorem sb_keyCommitCmd {pl : List Part} {z : State} {s : State} {fn : Nat} {d : Bytes} {_io : CmdIo} (hk : sameBut pl z s) (hl : partsIn [.vlt] pl = true) :
    AnsParts pl z (keyCommitCmd s fn d _io) := by
  unfold keyCommitCmd
  try dsimp only
  repeat' first | (with_reducible first | assumption | rfl | intro _ | apply sb_blkVlt | apply sb_withAssoc | apply sb_dropKey | apply sb_stageKey | apply sb_Ans.noKey | apply sb_Ans.denied | apply sb_ite | apply ansSb_ite | apply sb_id) | exact partsIn_trans hl rfl | split | with_reducible apply ansSb_mk | with_reducible apply AnsParts.st | with_reducible apply AnsParts.after

theorem sb_pinSlot_p {pl : List Part} {z : State} {r : State × Nat} {p : Nat × Slot} (hr : sameBut pl z r.1) (hl : partsIn [.events, .vlt, .evr] pl = true) : sameBut pl z (pinSlot r p).1 := by
  unfold pinSlot
  try dsimp only
  repeat' first | (with_reducible first | assumption | rfl | intro _ | apply sb_blkVlt | apply sb_ite) | exact partsIn_trans hl rfl | (refine sb_slotUse_inl ?_ (by with_reducible assumption) ?_) | (refine sb_slotUse_inr ?_ (by with_reducible assumption) ?_) | split

theorem sb_pinSlot {pl : List Part} {z : State} {r : State × Nat} {p : Nat × Slot} (hr : sameBut pl z r.1) {a : Nat} {t : State} (he : pinSlot r p = (t, a)) (hl : partsIn [.events, .vlt, .evr] pl = true) : sameBut pl z t := by
  have h' := sb_pinSlot_p hr hl (z := z) (r := r) (p := p)
  rw [he] at h'
  exact h'

theorem sb_pinFold {pl : List Part} {z : State} {l : List (Nat × Slot)} {r : State × Nat} (hr : sameBut pl z r.1) (hl : partsIn [.events, .vlt, .evr] pl = true) :
    sameBut pl z (l.foldl pinSlot r).1 := by
  induction l generalizing r with
  | nil => exact hr
  | cons p l ih => exact ih (sb_pinSlot_p hr (partsIn_trans hl rfl))

theorem sb_keyPinCmd {pl : List Part} {z : State} {s : State} {fn : Nat} {d : Bytes} {_io : CmdIo} (hk : sameBut pl z s) (hl : partsIn [.events, .vlt, .evr] pl = true) :
    AnsParts pl z (keyPinCmd s fn d _io) := by
  unfold keyPinCmd
  refine sb_withAssoc hk (fun a x => ?_) (partsIn_trans hl rfl)
  dsimp only
  have hf : sameBut pl z ((liveSlots s a).foldl pinSlot (s, 0)).1 := sb_pinFold hk (partsIn_trans hl rfl)
  split
  · exact sb_Ans.noKey hk
  · split
    · exact sb_Ans.stop hk (partsIn_trans hl rfl)
    · split
      · exact sb_Ans.noKey hf
      · exact ansSb_mk (sb_blkVlt hf (partsIn_trans hl rfl)) fun _ h => h

theorem sb_keyUnpinCmd {pl : List Part} {z : State} {s : State} {fn : Nat} {d : Bytes} {_io : CmdIo} (hk : sameBut pl z s) (hl : partsIn [.vlt] pl = true) :
    AnsParts pl z (keyUnpinCmd s fn d _io) := by
  unfold keyUnpinCmd
  repeat' first | (with_reducible first | assumption | rfl | intro _ | apply sb_blkVlt | apply sb_withAssoc | apply sb_id) | exact partsIn_trans hl rfl | split | with_reducible apply ansSb_mk | with_reducible apply AnsParts.st | with_reducible apply AnsParts.after

theorem sb_Ans.late {pl : List Part} {z : State} {s : State} {earliest : Word} (hk : sameBut pl z s) (hl : partsIn [] pl = true) :
    AnsParts pl z (Ans.late s earliest) := by
  unfold Ans.late
  repeat' first | (with_reducible first | assumption | rfl | intro _ | apply sb_id) | exact partsIn_trans hl rfl | split | with_reducible apply ansSb_mk

theorem sb_mirrorAsk {pl : List Part} {z : State} {s : State} {p : Proposal} {typ : Nat} {pay : Bytes} (hk : sameBut pl z s) (hl : partsIn [.can0, .can1, .voe, .eng, .rng] pl = true) :
    AnsParts pl z (mirrorAsk s p typ pay) := by
  unfold mirrorAsk
  try dsimp only
  repeat' first | (with_reducible first | assumption | rfl | intro _ | apply sb_sendHello | apply sb_onVoe | apply sb_mirrorQueue | apply sb_Ans.stop | apply sb_Ans.notReady | apply sb_ite | apply ansSb_ite | apply sb_id) | exact partsIn_trans hl rfl | split | with_reducible apply ansSb_mk | with_reducible apply AnsParts.st | with_reducible apply AnsParts.after

theorem sb_seasonScheduleCmd {pl : List Part} {z : State} {s : State} {fn : Nat} {d : Bytes} {_io : CmdIo} (hk : sameBut pl z s) (hl : partsIn [.vlt, .can0, .can1, .voe, .eng, .rng] pl = true) :
    AnsParts pl z (seasonScheduleCmd s fn d _io) := by
  unfold seasonScheduleCmd
  try dsimp only
  repeat' first | (with_reducible first | assumption | rfl | intro _ | apply sb_withAssoc | apply sb_mirrorAsk | apply sb_seasonSet | apply sb_Ans.precond | apply sb_Ans.late | apply sb_ite | apply ansSb_ite | apply sb_id) | exact partsIn_trans hl rfl | split | with_reducible apply ansSb_mk | with_reducible apply AnsParts.st | with_reducible apply AnsParts.after

theorem sb_seasonCancelCmd {pl : List Part} {z : State} {s : State} {fn : Nat} {d : Bytes} {_io : CmdIo} (hk : sameBut pl z s) (hl : partsIn [.vlt, .can0, .can1, .voe, .eng, .rng] pl = true) :
    AnsParts pl z (seasonCancelCmd s fn d _io) := by
  unfold seasonCancelCmd
  dsimp only
  repeat' first | (with_reducible first | assumption | rfl | intro _ | apply sb_withAssoc | apply sb_mirrorAsk | apply sb_seasonDrop | apply sb_ite | apply ansSb_ite | apply sb_Ans.denied | apply sb_id) | exact partsIn_trans hl rfl | split | with_reducible apply ansSb_mk | with_reducible apply AnsParts.st | with_reducible apply AnsParts.after

theorem sb_keyInfoCmd {pl : List Part} {z : State} {s : State} {fn : Nat} {d : Bytes} {_io : CmdIo} (hk : sameBut pl z s) (hl : partsIn [] pl = true) :
    AnsParts pl z (keyInfoCmd s fn d _io) := by
  unfold keyInfoCmd
  repeat' first | (with_reducible first | assumption | rfl | intro _ | apply sb_withAssoc | apply sb_id) | exact partsIn_trans hl rfl | split | with_reducible apply ansSb_mk | with_reducible apply AnsParts.st | with_reducible apply AnsParts.after

theorem sb_Ans.noPage {pl : List Part} {z : State} {s : State} (hk : sameBut pl z s) (hl : partsIn [] pl = true) :
    AnsParts pl z (Ans.noPage s) := by
  unfold Ans.noPage
  repeat' first | (with_reducible first | assumption | rfl | intro _ | apply sb_id) | exact partsIn_trans hl rfl | split | with_reducible apply ansSb_mk

theorem sb_dbAns {pl : List Part} {z : State} {r : State × Nat} (hk : sameBut pl z r.1) (hl : partsIn [] pl = true) : AnsParts pl z (dbAns r) := by
  unfold dbAns
  repeat' first | (with_reducible first | assumption | rfl | intro _ | apply ansSb_ite | apply sb_Ans.aborted | apply sb_Ans.noPage | apply sb_id) | exact partsIn_trans hl rfl | split | with_reducible apply ansSb_mk

theorem sb_dbImportCmd {pl : List Part} {z : State} {s : State} {fn : Nat} {d : Bytes} {io : CmdIo} (hk : sameBut pl z s) (hl : partsIn [.events, .vlt, .eng, .rng, .spi0, .flash, .evr, .free] pl = true) :
    AnsParts pl z (dbImportCmd s fn d io) := by
  unfold dbImportCmd
  dsimp only
  repeat' first | (with_reducible first | assumption | rfl | intro _ | apply sb_withKey | apply sb_withRandom | apply sb_dbAns | apply sb_dbPutObj | apply sb_ite | apply ansSb_ite | apply sb_Ans.aborted | apply sb_Ans.bad | apply sb_Ans.denied | apply sb_Ans.noPage | apply sb_id) | exact partsIn_trans hl rfl | split | with_reducible apply ansSb_mk | with_reducible apply AnsParts.st | with_reducible apply AnsParts.after

theorem sb_dbLoadCmd {pl : List Part} {z : State} {s : State} {fn : Nat} {d : Bytes} {_io : CmdIo} (hk : sameBut pl z s) (hl : partsIn [.vlt, .spi0, .flash] pl = true) :
    AnsParts pl z (dbLoadCmd s fn d _io) := by
  unfold dbLoadCmd
  dsimp only
  repeat' first | (with_reducible first | assumption | rfl | intro _ | apply sb_newKey | apply sb_ite | apply ansSb_ite | apply sb_Ans.aborted | apply sb_Ans.denied | apply sb_Ans.noKey | apply sb_Ans.notReady | apply sb_Ans.stop | apply sb_id) | exact partsIn_trans hl rfl | (refine sb_newKeyCheck ?_ (by with_reducible assumption) ?_) | split | with_reducible apply ansSb_mk | with_reducible apply AnsParts.st | with_reducible apply AnsParts.after

theorem sb_withObj {pl : List Part} {z : State} {s : State} {fn : Nat} {d : Bytes} {f : Bytes → Ans} (hk : sameBut pl z s) (hf : ∀ a0, AnsParts pl z (f a0)) (hl : partsIn [] pl = true) :
    AnsParts pl z (withObj s fn d f) := by
  unfold withObj
  repeat' first | (with_reducible first | assumption | rfl | intro _ | apply sb_ite | apply ansSb_ite | apply hf | apply sb_Ans.denied | apply sb_Ans.noKey | apply sb_id) | exact partsIn_trans hl rfl | split | with_reducible apply ansSb_mk | with_reducible apply AnsParts.st | with_reducible apply AnsParts.after

theorem sb_dbDeleteCmd {pl : List Part} {z : State} {s : State} {fn : Nat} {d : Bytes} {io : CmdIo} (hk : sameBut pl z s) (hl : partsIn [.eng, .spi0, .flash, .free] pl = true) :
    AnsParts pl z (dbDeleteCmd s fn d io) := by
  unfold dbDeleteCmd
  repeat' first | (with_reducible first | assumption | rfl | intro _ | apply sb_withObj | apply sb_dbAns | apply sb_dbDelObj | apply sb_ite | apply ansSb_ite | apply sb_Ans.aborted | apply sb_Ans.denied | apply sb_id) | exact partsIn_trans hl rfl | split | with_reducible apply ansSb_mk | with_reducible apply AnsParts.st | with_reducible apply AnsParts.after

theorem sb_dbInfoCmd {pl : List Part} {z : State} {s : State} {fn : Nat} {d : Bytes} {_io : CmdIo} (hk : sameBut pl z s) (hl : partsIn [] pl = true) :
    AnsParts pl z (dbInfoCmd s fn d _io) := by
  unfold dbInfoCmd
  repeat' first | (with_reducible first | assumption | rfl | intro _ | apply sb_withObj | apply sb_id) | exact partsIn_trans hl rfl | split | with_reducible apply ansSb_mk | with_reducible apply AnsParts.st | with_reducible apply AnsParts.after

theorem sb_execEcdhDerive {pl : List Part} {z : State} {fn r : Nat} {io : CmdIo} {s : State} (hk : sameBut pl z s) (hl : partsIn [.events, .vlt, .hif, .spi0, .flash, .evr, .flt] pl = true) :
    OutParts pl z (execEcdhDerive fn r io s) := by
  unfold execEcdhDerive
  repeat' first | (with_reducible first | assumption | rfl | intro _ | apply sb_ecdhCmd | apply sb_serveCmd | apply outSb_next) | exact partsIn_trans hl rfl | split

theorem sb_execKeyGenerate {pl : List Part} {z : State} {fn r : Nat} {io : CmdIo} {s : State} (hk : sameBut pl z s) (hl : partsIn [.events, .vlt, .eng, .rng, .hif, .spi0, .flash, .evr, .flt] pl = true) :
    OutParts pl z (execKeyGenerate fn r io s) := by
  unfold execKeyGenerate
  repeat' first | (with_reducible first | assumption | rfl | intro _ | apply sb_keyGenerateCmd | apply sb_serveCmd | apply outSb_next) | exact partsIn_trans hl rfl | split

theorem sb_execKeyImport {pl : List Part} {z : State} {fn r : Nat} {io : CmdIo} {s : State} (hk : sameBut pl z s) (hl : partsIn [.events, .vlt, .hif, .spi0, .flash, .evr, .flt] pl = true) :
    OutParts pl z (execKeyImport fn r io s) := by
  unfold execKeyImport
  repeat' first | (with_reducible first | assumption | rfl | intro _ | apply sb_keyImportCmd | apply sb_serveCmd | apply outSb_next) | exact partsIn_trans hl rfl | split

theorem sb_execKeyDerive {pl : List Part} {z : State} {fn r : Nat} {io : CmdIo} {s : State} (hk : sameBut pl z s) (hl : partsIn [.events, .vlt, .hif, .spi0, .flash, .evr, .flt] pl = true) :
    OutParts pl z (execKeyDerive fn r io s) := by
  unfold execKeyDerive
  repeat' first | (with_reducible first | assumption | rfl | intro _ | apply sb_keyDeriveCmd | apply sb_serveCmd | apply outSb_next) | exact partsIn_trans hl rfl | split

theorem sb_execKeyZeroize {pl : List Part} {z : State} {fn r : Nat} {io : CmdIo} {s : State} (hk : sameBut pl z s) (hl : partsIn [.events, .vlt, .hif, .evr, .flt] pl = true) :
    OutParts pl z (execKeyZeroize fn r io s) := by
  unfold execKeyZeroize
  repeat' first | (with_reducible first | assumption | rfl | intro _ | apply sb_serveCmd | apply sb_keyZeroizeCmd | apply outSb_next) | exact partsIn_trans hl rfl | split

theorem sb_execAssocSet {pl : List Part} {z : State} {fn r : Nat} {io : CmdIo} {s : State} (hk : sameBut pl z s) (hl : partsIn [.events, .vlt, .eng, .hif, .spi0, .flash, .evr, .flt, .free] pl = true) :
    OutParts pl z (execAssocSet fn r io s) := by
  unfold execAssocSet
  repeat' first | (with_reducible first | assumption | rfl | intro _ | apply sb_serveCmd | apply sb_assocSetCmd | apply outSb_next) | exact partsIn_trans hl rfl | split

theorem sb_execKeyCommit {pl : List Part} {z : State} {fn r : Nat} {io : CmdIo} {s : State} (hk : sameBut pl z s) (hl : partsIn [.events, .vlt, .hif, .evr, .flt] pl = true) :
    OutParts pl z (execKeyCommit fn r io s) := by
  unfold execKeyCommit
  repeat' first | (with_reducible first | assumption | rfl | intro _ | apply sb_keyCommitCmd | apply sb_serveCmd | apply outSb_next) | exact partsIn_trans hl rfl | split

theorem sb_execKeyPin {pl : List Part} {z : State} {fn r : Nat} {io : CmdIo} {s : State} (hk : sameBut pl z s) (hl : partsIn [.events, .vlt, .hif, .evr, .flt] pl = true) :
    OutParts pl z (execKeyPin fn r io s) := by
  unfold execKeyPin
  repeat' first | (with_reducible first | assumption | rfl | intro _ | apply sb_keyPinCmd | apply sb_serveCmd | apply outSb_next) | exact partsIn_trans hl rfl | split

theorem sb_execKeyUnpin {pl : List Part} {z : State} {fn r : Nat} {io : CmdIo} {s : State} (hk : sameBut pl z s) (hl : partsIn [.events, .vlt, .hif, .evr, .flt] pl = true) :
    OutParts pl z (execKeyUnpin fn r io s) := by
  unfold execKeyUnpin
  repeat' first | (with_reducible first | assumption | rfl | intro _ | apply sb_serveCmd | apply sb_keyUnpinCmd | apply outSb_next) | exact partsIn_trans hl rfl | split

theorem sb_execSeasonSchedule {pl : List Part} {z : State} {fn r : Nat} {io : CmdIo} {s : State} (hk : sameBut pl z s) (hl : partsIn [.events, .vlt, .can0, .can1, .voe, .eng, .rng, .hif, .evr, .flt] pl = true) :
    OutParts pl z (execSeasonSchedule fn r io s) := by
  unfold execSeasonSchedule
  repeat' first | (with_reducible first | assumption | rfl | intro _ | apply sb_serveCmd | apply sb_seasonScheduleCmd | apply outSb_next) | exact partsIn_trans hl rfl | split

theorem sb_execSeasonCancel {pl : List Part} {z : State} {fn r : Nat} {io : CmdIo} {s : State} (hk : sameBut pl z s) (hl : partsIn [.events, .vlt, .can0, .can1, .voe, .eng, .rng, .hif, .evr, .flt] pl = true) :
    OutParts pl z (execSeasonCancel fn r io s) := by
  unfold execSeasonCancel
  repeat' first | (with_reducible first | assumption | rfl | intro _ | apply sb_seasonCancelCmd | apply sb_serveCmd | apply outSb_next) | exact partsIn_trans hl rfl | split

theorem sb_execKeyInfo {pl : List Part} {z : State} {fn r : Nat} {io : CmdIo} {s : State} (hk : sameBut pl z s) (hl : partsIn [.events, .hif, .evr, .flt] pl = true) :
    OutParts pl z (execKeyInfo fn r io s) := by
  unfold execKeyInfo
  repeat' first | (with_reducible first | assumption | rfl | intro _ | apply sb_serveCmd | apply sb_keyInfoCmd | apply outSb_next) | exact partsIn_trans hl rfl | split

theorem sb_execDbImport {pl : List Part} {z : State} {fn r : Nat} {io : CmdIo} {s : State} (hk : sameBut pl z s) (hl : partsIn [.events, .vlt, .eng, .rng, .hif, .spi0, .flash, .evr, .flt, .free] pl = true) :
    OutParts pl z (execDbImport fn r io s) := by
  unfold execDbImport
  repeat' first | (with_reducible first | assumption | rfl | intro _ | apply sb_dbImportCmd | apply sb_serveCmd | apply outSb_next) | exact partsIn_trans hl rfl | split

theorem sb_execDbLoad {pl : List Part} {z : State} {fn r : Nat} {io : CmdIo} {s : State} (hk : sameBut pl z s) (hl : partsIn [.events, .vlt, .hif, .spi0, .flash, .evr, .flt] pl = true) :
    OutParts pl z (execDbLoad fn r io s) := by
  unfold execDbLoad
  repeat' first | (with_reducible first | assumption | rfl | intro _ | apply sb_dbLoadCmd | apply sb_serveCmd | apply outSb_next) | exact partsIn_trans hl rfl | split

theorem sb_execDbDelete {pl : List Part} {z : State} {fn r : Nat} {io : CmdIo} {s : State} (hk : sameBut pl z s) (hl : partsIn [.events, .eng, .hif, .spi0, .flash, .evr, .flt, .free] pl = true) :
    OutParts pl z (execDbDelete fn r io s) := by
  unfold execDbDelete
  repeat' first | (with_reducible first | assumption | rfl | intro _ | apply sb_dbDeleteCmd | apply sb_serveCmd | apply outSb_next) | exact partsIn_trans hl rfl | split

theorem sb_execDbInfo {pl : List Part} {z : State} {fn r : Nat} {io : CmdIo} {s : State} (hk : sameBut pl z s) (hl : partsIn [.events, .hif, .evr, .flt] pl = true) :
    OutParts pl z (execDbInfo fn r io s) := by
  unfold execDbInfo
  repeat' first | (with_reducible first | assumption | rfl | intro _ | apply sb_serveCmd | apply sb_dbInfoCmd | apply outSb_next) | exact partsIn_trans hl rfl | split

/-! ### Machine/Custody.lean -/

theorem sb_sendRequest {pl : List Part} {z : State} {s : State} (hk : sameBut pl z s) (hl : partsIn [.can0, .can1, .voe] pl = true) :
    sameBut pl z (sendRequest s) := by
  unfold sendRequest
  repeat' first | (with_reducible first | assumption | rfl | intro _ | apply sb_broadcast) | exact partsIn_trans hl rfl | split

theorem sb_custCommitRun_p {pl : List Part} {z : State} {s : State} (hk : sameBut pl z s) (hl : partsIn [.events, .cus, .can0, .can1, .voe, .eng, .rng, .hif, .evr, .flt] pl = true) : sameBut pl z (custCommitRun s).1 := by
  unfold custCommitRun
  try dsimp only
  repeat' first | (with_reducible first | assumption | rfl | intro _ | apply sb_custCancelAll | apply sb_onCus | apply sb_sendRequest | apply sb_ite) | exact partsIn_trans hl rfl | (refine sb_rngInternal ?_ (by with_reducible assumption) ?_) | split

theorem sb_custCommitRun {pl : List Part} {z : State} {s : State} (hk : sameBut pl z s) {a : Nat} {b : Nat} {t : State} (he : custCommitRun s = (t, a, b)) (hl : partsIn [.events, .cus, .can0, .can1, .voe, .eng, .rng, .hif, .evr, .flt] pl = true) : sameBut pl z t := by
  have h' := sb_custCommitRun_p hk hl (z := z) (s := s)
  rw [he] at h'
  exact h'

theorem sb_execCustCommit {pl : List Part} {z : State} {v : Word} {s : State} (hk : sameBut pl z s) (hl : partsIn [.events, .mpu, .fwl, .cus, .can0, .can1, .voe, .eng, .rng, .hif, .evr, .flt] pl = true) :
    OutParts pl z (execCustCommit v s) := by
  unfold execCustCommit
  repeat' first | (with_reducible first | assumption | rfl | intro _ | apply sb_custCommitRun_p | apply sb_onE | apply sb_ite | apply outSb_ite | apply outSb_next) | exact partsIn_trans hl rfl | (refine sb_custCommitRun ?_ (by with_reducible assumption) ?_) | split

theorem sb_execCustCancel {pl : List Part} {z : State} {v : Word} {s : State} (hk : sameBut pl z s) (hl : partsIn [.events, .mpu, .fwl, .cus, .can0, .can1, .voe, .hif, .evr, .flt] pl = true) :
    OutParts pl z (execCustCancel v s) := by
  unfold execCustCancel
  repeat' first | (with_reducible first | assumption | rfl | intro _ | apply sb_onE | apply sb_custCancelAll | apply sb_ite | apply outSb_ite | apply outSb_next) | exact partsIn_trans hl rfl | split

theorem sb_execCustVerify {pl : List Part} {z : State} {v : Word} {s : State} (hk : sameBut pl z s) (hl : partsIn [.events, .mpu, .fwl, .cus, .evr] pl = true) :
    OutParts pl z (execCustVerify v s) := by
  unfold execCustVerify
  repeat' first | (with_reducible first | assumption | rfl | intro _ | apply sb_onE | apply sb_onCus | apply sb_ite | apply outSb_ite | apply outSb_next) | exact partsIn_trans hl rfl | split

theorem sb_custRunOver {pl : List Part} {z : State} {s : State} (hk : sameBut pl z s) (hl : partsIn [.cus, .pke] pl = true) :
    sameBut pl z (custRunOver s) := by
  unfold custRunOver
  repeat' first | (with_reducible first | assumption | rfl | intro _ | apply sb_onCus | apply sb_setPke) | exact partsIn_trans hl rfl | split

theorem sb_latchSet {pl : List Part} {z : State} {s : State} {a b : Nat} (h : sameBut pl z s) (hl : partsIn [.events, .cus, .can0, .can1, .voe, .evr, .flt] pl = true) :
    sameBut pl z (latchSet s a b) := by
  unfold latchSet
  dsimp only
  repeat' first | (with_reducible first | assumption | rfl | intro _ | apply sb_onCus | apply sb_logLatch | apply sb_blkFlt | apply sb_sendStatus | apply sb_custRunOver | apply sb_latchClear | apply sb_reqClose | apply sb_latchSet | apply sb_ite | apply outSb_next) | exact partsIn_trans hl rfl | split

theorem sb_execCustodyVerifyEnd {pl : List Part} {z : State} {s : State} (h : sameBut pl z s) (hl : partsIn [.events, .cus, .can0, .can1, .voe, .pke, .hif, .evr, .flt] pl = true) :
    OutParts pl z (execCustodyVerifyEnd s) := by
  unfold execCustodyVerifyEnd
  dsimp only
  repeat' first | (with_reducible first | assumption | rfl | intro _ | apply sb_onCus | apply sb_logLatch | apply sb_blkFlt | apply sb_sendStatus | apply sb_custRunOver | apply sb_latchClear | apply sb_reqClose | apply sb_latchSet | apply sb_ite | apply outSb_next) | exact partsIn_trans hl rfl | split

theorem sb_execRequestExpiry {pl : List Part} {z : State} {s : State} (hk : sameBut pl z s) (hl : partsIn [.events, .cus, .can0, .can1, .voe, .hif, .evr, .flt] pl = true) :
    OutParts pl z (execRequestExpiry s) := by
  unfold execRequestExpiry
  repeat' first | (with_reducible first | assumption | rfl | intro _ | apply sb_custCancelAll | apply sb_ite | apply outSb_ite | apply outSb_next) | exact partsIn_trans hl rfl | split

theorem sb_execRequestRepeat {pl : List Part} {z : State} {s : State} (hk : sameBut pl z s) (hl : partsIn [.cus, .can0, .can1, .voe] pl = true) :
    OutParts pl z (execRequestRepeat s) := by
  unfold execRequestRepeat
  repeat' first | (with_reducible first | assumption | rfl | intro _ | apply sb_onCus | apply sb_sendRequest | apply sb_ite | apply outSb_ite | apply outSb_next) | exact partsIn_trans hl rfl | split

theorem sb_pke0Put {pl : List Part} {z : State} {s : State} {off : Nat} {b : Bytes} (hk : sameBut pl z s) (hl : partsIn [.pke] pl = true) :
    sameBut pl z (pke0Put s off b) := by
  unfold pke0Put
  repeat' first | (with_reducible first | assumption | rfl | intro _ | apply sb_setPke) | exact partsIn_trans hl rfl | split

theorem sb_layApprovals {pl : List Part} {z : State} {s : State} (hk : sameBut pl z s) (hl : partsIn [.pke] pl = true) :
    sameBut pl z (layApprovals s) := by
  unfold layApprovals
  dsimp only
  repeat' first | (with_reducible first | assumption | rfl | intro _ | apply sb_pke0Put | apply sb_ite | apply optSb_getD) | exact partsIn_trans hl rfl | split

theorem sb_logDiscard {pl : List Part} {z : State} {s : State} {no : Word} {slot : Nat} (hk : sameBut pl z s) (hl : partsIn [.events, .evr] pl = true) :
    sameBut pl z (logDiscard s no slot) := by
  unfold logDiscard
  repeat' first | (with_reducible first | assumption | rfl | intro _ | apply sb_logD) | exact partsIn_trans hl rfl | split

theorem sb_execApproval {pl : List Part} {z : State} {s : State} (hk : sameBut pl z s) (hl : partsIn [.events, .cus, .voe, .pke, .evr] pl = true) :
    OutParts pl z (execApproval s) := by
  unfold execApproval
  dsimp only
  repeat' first | (with_reducible first | assumption | rfl | intro _ | apply sb_layApprovals | apply sb_onCus | apply sb_logDiscard | apply sb_ite | apply outSb_ite | apply outSb_next) | exact partsIn_trans hl rfl | (refine sb_inboxTake ?_ (by with_reducible assumption) ?_) | split

theorem sb_execRefusal {pl : List Part} {z : State} {s : State} (hk : sameBut pl z s) (hl : partsIn [.events, .cus, .can0, .can1, .voe, .hif, .evr, .flt] pl = true) :
    OutParts pl z (execRefusal s) := by
  unfold execRefusal
  dsimp only
  repeat' first | (with_reducible first | assumption | rfl | intro _ | apply sb_logDiscard | apply sb_custCancelAll | apply sb_ite | apply outSb_ite | apply outSb_next) | exact partsIn_trans hl rfl | (refine sb_inboxTake ?_ (by with_reducible assumption) ?_) | split

theorem sb_execCredential {pl : List Part} {z : State} {n : Nat} {s : State} (hk : sameBut pl z s) (hl : partsIn [.events, .mpu, .fwl, .cus, .voe, .evr] pl = true) :
    OutParts pl z (execCredential n s) := by
  unfold execCredential
  repeat' first | (with_reducible first | assumption | rfl | intro _ | apply sb_refuseWrite | apply sb_onCus | apply sb_ite | apply outSb_ite | apply outSb_next) | exact partsIn_trans hl rfl | (refine sb_inboxTake ?_ (by with_reducible assumption) ?_) | split

end Sys2Proof.Machine
end

