-- ==== Sys2Proof/Laws/SameCores.lean ====
section
/-! SUPPORT. Which parts of State each operation may change: Cores. -/
namespace Sys2Proof.Machine

/-! ### Machine/Cores.lean -/

theorem sb_onCore {pl : List Part} {z : State} {s : State} {c : Nat} {f : Core → Core} (hk : sameBut pl z s) (hl : partsIn [.cores] pl = true) :
    sameBut pl z (onCore s c f) := by
  unfold onCore
  repeat' first | (with_reducible first | assumption | rfl | intro _ | apply sb_setCore) | exact partsIn_trans hl rfl | split

theorem sb_pmcEvent {pl : List Part} {z : State} {s : State} {c code : Nat} (hk : sameBut pl z s) (hl : partsIn [.cores] pl = true) :
    sameBut pl z (pmcEvent s c code) := by
  unfold pmcEvent
  dsimp only
  repeat' first | (with_reducible first | assumption | rfl | intro _ | apply sb_setCore | apply sb_foldl | apply sb_ite) | exact partsIn_trans hl rfl | split

theorem sb_pmcRun {pl : List Part} {z : State} {s : State} {c : Nat} (hk : sameBut pl z s) (hl : partsIn [.cores, .free] pl = true) :
    sameBut pl z (pmcRun s c) := by
  unfold pmcRun
  try dsimp only
  repeat' first | (with_reducible first | assumption | rfl | intro _ | apply sb_freeBytes_p | apply sb_onCore | apply sb_foldl | apply sb_ite) | exact partsIn_trans hl rfl | (refine sb_freeBytes ?_ (by with_reducible assumption) ?_) | split

theorem sb_setEncl {pl : List Part} {z : State} {s : State} {e : Nat} {d : Encl} (hk : sameBut pl z s) (hl : partsIn [.cores] pl = true) :
    sameBut pl z (setEncl s e d) := by
  unfold setEncl
  repeat' first | (with_reducible first | assumption | rfl | intro _ | apply sb_blkCores) | exact partsIn_trans hl rfl | split

theorem sb_enclGone {pl : List Part} {z : State} {s : State} {e : Nat} (hk : sameBut pl z s) (hl : partsIn [.cores, .sram] pl = true) :
    sameBut pl z (enclGone s e) := by
  unfold enclGone
  dsimp only
  repeat' first | (with_reducible first | assumption | rfl | intro _ | apply sb_blkCores | apply sb_blkSram | apply twf_tputN | apply twf_tclear | apply twf_tput | apply sb_setEncl | apply sb_foldl | apply sb_ite) | exact partsIn_trans hl rfl | split

theorem sb_enclExit {pl : List Part} {z : State} {s : State} {c e cause : Nat} (hk : sameBut pl z s) (hl : partsIn [.cores, .sram] pl = true) :
    sameBut pl z (enclExit s c e cause) := by
  unfold enclExit
  dsimp only
  repeat' first | (with_reducible first | assumption | rfl | intro _ | apply sb_enclGone | apply sb_sramWrite | apply sb_setEncl | apply sb_setCore) | exact partsIn_trans hl rfl | split

theorem sb_raise {pl : List Part} {z : State} {s : State} {c code : Nat} {info : DWord} {stage2 : Bool} (hk : sameBut pl z s) (hl : partsIn [.cores, .sram] pl = true) :
    sameBut pl z (raise s c code info stage2) := by
  unfold raise
  dsimp only
  repeat' first | (with_reducible first | assumption | rfl | intro _ | apply sb_onCore | apply sb_enclExit) | exact partsIn_trans hl rfl | split

theorem sb_illegal {pl : List Part} {z : State} {s : State} {c : Nat} (hk : sameBut pl z s) (hl : partsIn [.cores, .sram] pl = true) :
    sameBut pl z (illegal s c) := by
  unfold illegal
  repeat' first | (with_reducible first | assumption | rfl | intro _ | apply sb_raise) | exact partsIn_trans hl rfl | split

theorem sb_instr {pl : List Part} {z : State} {s : State} {c : Nat} {f : State → State} (hk : sameBut pl z s) (hf : ∀ s, sameBut pl z s → sameBut pl z (f s)) (hl : partsIn [.cores, .sram] pl = true) :
    sameBut pl z (instr s c f) := by
  unfold instr
  dsimp only
  repeat' first | (with_reducible first | assumption | rfl | intro _ | apply sb_onCore | apply sb_enclExit | apply sb_ite | apply hf) | exact partsIn_trans hl rfl | split

theorem sb_execWgateCall {pl : List Part} {z : State} {c : Nat} {s : State} (hk : sameBut pl z s) (hl : partsIn [.cores, .sram] pl = true) :
    OutParts pl z (execWgateCall c s) := by
  unfold execWgateCall
  dsimp only
  repeat' first | (with_reducible first | assumption | rfl | intro _ | apply sb_instr | apply sb_illegal | apply sb_onCore | apply sb_pmcEvent | apply outSb_next) | exact partsIn_trans hl rfl | split

theorem sb_execWgateReturn {pl : List Part} {z : State} {c : Nat} {s : State} (hk : sameBut pl z s) (hl : partsIn [.cores, .sram] pl = true) :
    OutParts pl z (execWgateReturn c s) := by
  unfold execWgateReturn
  try dsimp only
  repeat' first | (with_reducible first | assumption | rfl | intro _ | apply sb_instr | apply sb_illegal | apply sb_onCore | apply sb_ite | apply outSb_ite | apply outSb_next) | exact partsIn_trans hl rfl | split

theorem sb_execTret {pl : List Part} {z : State} {c : Nat} {s : State} (hk : sameBut pl z s) (hl : partsIn [.cores, .sram] pl = true) :
    OutParts pl z (execTret c s) := by
  unfold execTret
  dsimp only
  repeat' first | (with_reducible first | assumption | rfl | intro _ | apply sb_instr | apply sb_illegal | apply sb_onCore | apply sb_ite | apply outSb_ite | apply outSb_next) | exact partsIn_trans hl rfl | split

theorem sb_execEenter {pl : List Part} {z : State} {c rs1 rs2 : Nat} {s : State} (hk : sameBut pl z s) (hl : partsIn [.cores, .sram, .free] pl = true) :
    OutParts pl z (execEenter c rs1 rs2 s) := by
  unfold execEenter
  try dsimp only
  repeat' first | (with_reducible first | assumption | rfl | intro _ | apply sb_instr | apply sb_illegal | apply sb_onCore | apply sb_pmcRun | apply sb_setEncl | apply sb_setCore | apply sb_ite | apply outSb_ite | apply outSb_next | apply optSb_getD) | exact partsIn_trans hl rfl | split

theorem sb_execEexit {pl : List Part} {z : State} {c : Nat} {s : State} (hk : sameBut pl z s) (hl : partsIn [.cores, .sram] pl = true) :
    OutParts pl z (execEexit c s) := by
  unfold execEexit
  dsimp only
  repeat' first | (with_reducible first | assumption | rfl | intro _ | apply sb_instr | apply sb_enclGone | apply sb_illegal | apply sb_onCore | apply sb_setEncl | apply outSb_next) | exact partsIn_trans hl rfl | split

theorem sb_pmcRead_p {pl : List Part} {z : State} {s : State} {c n : Nat} (hk : sameBut pl z s) (hl : partsIn [.cores, .free] pl = true) : sameBut pl z (pmcRead s c n).2 := by
  unfold pmcRead
  try dsimp only
  repeat' first | (with_reducible first | assumption | rfl | intro _ | apply sb_pmcRun | apply sb_ite) | exact partsIn_trans hl rfl | split

theorem sb_pmcRead {pl : List Part} {z : State} {s : State} {c n : Nat} (hk : sameBut pl z s) {a : DWord} {t : State} (he : pmcRead s c n = (a, t)) (hl : partsIn [.cores, .free] pl = true) : sameBut pl z t := by
  have h' := sb_pmcRead_p hk hl (z := z) (s := s) (c := c) (n := n)
  rw [he] at h'
  exact h'

theorem sb_ccrRead {pl : List Part} {z s t : State} {x : Core} {c n : Nat} {a : DWord} (h : sameBut pl z s)
    (e : ccrRead s x c n = some (a, t)) (hl : partsIn [.cores, .free] pl = true) : sameBut pl z t := by
  let P := fun (o : Option (DWord × State)) => ∀ a t, o = some (a, t) → sameBut pl z t
  have ite : ∀ (b : Prop) [Decidable b] (o p : Option (DWord × State)), P o → P p → P (if b then o else p) := by
    intro b _ o p ho hp
    split
    · exact ho
    · exact hp
  have no : P none := fun _ _ e => by cases e
  have rd : ∀ v, P (some (v, s)) := fun v _ _ e => by cases e; exact h
  have pm : P (some (pmcRead s c n)) := fun _ _ e => sb_pmcRead h (Option.some.inj e) (partsIn_trans hl rfl)
  have all : P (ccrRead s x c n) := by
    unfold ccrRead
    dsimp only
    repeat' first | exact no | exact rd _ | exact pm | apply ite
  exact all _ _ e

theorem sb_execCrd {pl : List Part} {z : State} {c rd : Nat} {n : BitVec 12} {s : State} (hk : sameBut pl z s) (hl : partsIn [.cores, .sram, .free] pl = true) :
    OutParts pl z (execCrd c rd n s) := by
  unfold execCrd
  repeat' first | (with_reducible first | assumption | rfl | intro _ | apply sb_instr | apply sb_illegal | apply sb_onCore | apply outSb_next) | exact partsIn_trans hl rfl | (refine sb_ccrRead ?_ (by with_reducible assumption) ?_) | split

theorem sb_pctxPut {pl : List Part} {z : State} {s : State} {n : Nat} {v : DWord} (hk : sameBut pl z s) (hl : partsIn [.cores] pl = true) :
    sameBut pl z (pctxPut s n v) := by
  unfold pctxPut
  dsimp only
  repeat' first | (with_reducible first | assumption | rfl | intro _ | apply sb_blkCores | apply sb_onCore | apply sb_ite) | exact partsIn_trans hl rfl | split

theorem optSb_ccrWrite {pl : List Part} {z s : State} {x : Core} {c n : Nat} {v : DWord} (h : sameBut pl z s) (hl : partsIn [.cores, .free] pl = true) :
    OptParts pl z (ccrWrite s x c n v) := by
  have hp : ∀ (ok : Bool) (y : Core), OptParts pl z (if ok = true then some (setCore s c y) else none) := fun ok y =>
    optSb_ite (fun _ => optSb_some (sb_setCore h (partsIn_trans hl rfl))) (fun _ => optSb_none)
  unfold ccrWrite
  dsimp only
  repeat' first | exact hp _ _ | exact optSb_none | exact optSb_some (sb_pctxPut h (partsIn_trans hl rfl))
                | exact optSb_some (sb_blkCores h (partsIn_trans hl rfl))
                | exact optSb_some (sb_onCore (sb_pmcRun h (partsIn_trans hl rfl)) (partsIn_trans hl rfl)) | apply optSb_ite | intro _

theorem sb_ccrWrite {pl : List Part} {z s t : State} {x : Core} {c n : Nat} {v : DWord} (h : sameBut pl z s)
    (e : ccrWrite s x c n v = some t) (hl : partsIn [.cores, .free] pl = true) : sameBut pl z t := (optSb_ccrWrite h hl).of t e

theorem sb_pctxLog {pl : List Part} {z : State} {s : State} {x : Core} {n : Nat} (hk : sameBut pl z s) (hl : partsIn [.events, .evr] pl = true) :
    sameBut pl z (pctxLog s x n) := by
  unfold pctxLog
  repeat' first | (with_reducible first | assumption | rfl | intro _ | apply sb_logOther | apply sb_ite) | exact partsIn_trans hl rfl | split

theorem sb_execCwr {pl : List Part} {z : State} {c : Nat} {n : BitVec 12} {rs1 : Nat} {s : State} (hk : sameBut pl z s) (hl : partsIn [.events, .evr, .cores, .sram, .free] pl = true) :
    OutParts pl z (execCwr c n rs1 s) := by
  unfold execCwr
  dsimp only
  repeat' first | (with_reducible first | assumption | rfl | intro _ | apply sb_instr | apply sb_illegal | apply sb_onCore | apply sb_pctxLog | apply optSb_ccrWrite | apply outSb_next) | exact partsIn_trans hl rfl | (refine sb_ccrWrite ?_ (by with_reducible assumption) ?_) | split

theorem sb_execTfence {pl : List Part} {z : State} {c rs1 : Nat} {s : State} (hk : sameBut pl z s) (hl : partsIn [.cores, .sram] pl = true) :
    OutParts pl z (execTfence c rs1 s) := by
  unfold execTfence
  dsimp only
  repeat' first | (with_reducible first | assumption | rfl | intro _ | apply sb_instr | apply sb_illegal | apply sb_onCore | apply sb_ite | apply outSb_ite | apply outSb_next) | exact partsIn_trans hl rfl | split

theorem sb_execEcall {pl : List Part} {z : State} {c : Nat} {s : State} (hk : sameBut pl z s) (hl : partsIn [.cores, .sram] pl = true) :
    OutParts pl z (execEcall c s) := by
  unfold execEcall
  repeat' first | (with_reducible first | assumption | rfl | intro _ | apply sb_instr | apply sb_raise | apply sb_ite | apply outSb_ite | apply outSb_next) | exact partsIn_trans hl rfl | split

theorem sb_haltCore {pl : List Part} {z : State} {s : State} {c : Nat} (hk : sameBut pl z s) (hl : partsIn [.cores] pl = true) :
    sameBut pl z (haltCore s c) := by
  unfold haltCore
  repeat' first | (with_reducible first | assumption | rfl | intro _ | apply sb_onCore | apply sb_ite) | exact partsIn_trans hl rfl | split

theorem sb_execEbreak {pl : List Part} {z : State} {c : Nat} {s : State} (hk : sameBut pl z s) (hl : partsIn [.cores, .sram] pl = true) :
    OutParts pl z (execEbreak c s) := by
  unfold execEbreak
  repeat' first | (with_reducible first | assumption | rfl | intro _ | apply sb_instr | apply sb_raise | apply sb_haltCore | apply sb_ite | apply outSb_ite | apply outSb_next) | exact partsIn_trans hl rfl | split

theorem sb_execIllegalInstruction {pl : List Part} {z : State} {c : Nat} {s : State} (hk : sameBut pl z s) (hl : partsIn [.cores, .sram] pl = true) :
    OutParts pl z (execIllegalInstruction c s) := by
  unfold execIllegalInstruction
  repeat' first | (with_reducible first | assumption | rfl | intro _ | apply sb_instr | apply sb_illegal | apply outSb_next) | exact partsIn_trans hl rfl | split

theorem sb_execHaltRequest {pl : List Part} {z : State} {c : Nat} {s : State} (hk : sameBut pl z s) (hl : partsIn [.cores] pl = true) :
    OutParts pl z (execHaltRequest c s) := by
  unfold execHaltRequest
  repeat' first | (with_reducible first | assumption | rfl | intro _ | apply sb_haltCore | apply sb_ite | apply outSb_ite | apply outSb_next) | exact partsIn_trans hl rfl | split

theorem sb_execDebuggerResume {pl : List Part} {z : State} {c : Nat} {s : State} (hk : sameBut pl z s) (hl : partsIn [.cores] pl = true) :
    OutParts pl z (execDebuggerResume c s) := by
  unfold execDebuggerResume
  repeat' first | (with_reducible first | assumption | rfl | intro _ | apply sb_onCore | apply sb_ite | apply outSb_ite | apply outSb_next) | exact partsIn_trans hl rfl | split

theorem sb_secureEntry {pl : List Part} {z : State} {s : State} {c k : Nat} {fromEncl : Bool} (hk : sameBut pl z s) (hl : partsIn [.cores] pl = true) :
    sameBut pl z (secureEntry s c k fromEncl) := by
  unfold secureEntry
  try dsimp only
  repeat' first | (with_reducible first | assumption | rfl | intro _ | apply sb_onCore | apply sb_ite) | exact partsIn_trans hl rfl | split

theorem sb_normalEntry {pl : List Part} {z : State} {s : State} {c k : Nat} {l : Level} (hk : sameBut pl z s) (hl : partsIn [.cores] pl = true) :
    sameBut pl z (normalEntry s c k l) := by
  unfold normalEntry
  dsimp only
  repeat' first | (with_reducible first | assumption | rfl | intro _ | apply sb_onCore | apply sb_ite) | exact partsIn_trans hl rfl | split

theorem sb_leaveEncl {pl : List Part} {z : State} {s : State} {c k : Nat} (hk : sameBut pl z s) (hl : partsIn [.cores, .sram] pl = true) :
    sameBut pl z (leaveEncl s c k) := by
  unfold leaveEncl
  repeat' first | (with_reducible first | assumption | rfl | intro _ | apply sb_enclExit) | exact partsIn_trans hl rfl | split

theorem sb_execInterruptTaken {pl : List Part} {z : State} {c : Nat} {s : State} (hk : sameBut pl z s) (hl : partsIn [.cores, .sram] pl = true) :
    OutParts pl z (execInterruptTaken c s) := by
  unfold execInterruptTaken
  dsimp only
  repeat' first | (with_reducible first | assumption | rfl | intro _ | apply sb_secureEntry | apply sb_leaveEncl | apply sb_normalEntry | apply sb_pmcEvent | apply sb_ite | apply outSb_ite | apply outSb_next) | exact partsIn_trans hl rfl | split

/-! ### Machine/Walk.lean -/

theorem sb_translate_p {pl : List Part} {z : State} {mem : State → Nat → Word} {s : State} {c a kind : Nat} (h : sameBut pl z s) (hl : partsIn [.cores, .free] pl = true) :
    sameBut pl z (translate mem s c a kind).2 := by
  have walk : ∀ s (x : Core), sameBut pl z s → sameBut pl z (match walkBoth mem s c x a kind with
      | .ok pa perm => (walkBoth mem s c x a kind, onCore (pmcEvent (pmcEvent s c 4) c 5) c fun x => tlbFill x a pa perm)
      | _ => (walkBoth mem s c x a kind, pmcEvent (pmcEvent s c 4) c 5)).2 := by
    intro s x h
    have k : sameBut pl z (pmcEvent (pmcEvent s c 4) c 5) := sb_pmcEvent (sb_pmcEvent h (partsIn_trans hl rfl)) (partsIn_trans hl rfl)
    split
    · dsimp only
      exact sb_onCore k (partsIn_trans hl rfl)
    · exact k
  unfold translate
  dsimp only
  split
  · exact h
  split
  · exact walk _ _ h
  · split
    · exact sb_freeBytes_p (n := 1) h (partsIn_trans hl rfl)
    · exact walk _ _ (sb_freeBytes_p (n := 1) h (partsIn_trans hl rfl))

theorem sb_translate {pl : List Part} {z : State} {mem : State → Nat → Word} {s t : State} {c a kind : Nat} {w : Walk} (h : sameBut pl z s)
    (e : translate mem s c a kind = (w, t)) (hl : partsIn [.cores, .free] pl = true) : sameBut pl z t := by
  have := sb_translate_p (mem := mem) (c := c) (a := a) (kind := kind) h (partsIn_trans hl rfl)
  rw [e] at this
  exact this

theorem optSb_gpaWrite {pl : List Part} {z s : State} {part a : Nat} {b : Bytes} (h : sameBut pl z s) (hl : partsIn [.sram] pl = true) : OptParts pl z (gpaWrite s part a b) := by
  unfold gpaWrite
  have aux : ∀ (l : List Nat) (o : Option State), OptParts pl z o → OptParts pl z (l.foldl (fun o k => match o with
      | none => none
      | some s => (gpaPage s part (a + k) 1).map fun p => s.setSram (tput 0 s.sram p (b.getD k 0))) o) := by
    intro l
    induction l with
    | nil => exact fun o ho => ho
    | cons k l ih =>
      intro o ho
      refine ih _ ?_
      cases o with
      | none => exact optSb_none
      | some s =>
        have hs := ho.of s rfl
        dsimp only
        cases gpaPage s part (a + k) 1 with
        | none => exact optSb_none
        | some p => exact optSb_some (sb_blkSram hs (partsIn_trans hl rfl))
  exact aux _ _ (optSb_some h)

theorem sb_gpaWrite {pl : List Part} {z s t : State} {part a : Nat} {b : Bytes} (h : sameBut pl z s) (e : gpaWrite s part a b = some t) (hl : partsIn [.sram] pl = true) :
    sameBut pl z t := (optSb_gpaWrite h hl).of t e

/-! ### Machine/Services.lean -/

theorem sb_countService {pl : List Part} {z : State} {s : State} {n status : Nat} (hk : sameBut pl z s) (hl : partsIn [.hif] pl = true) :
    sameBut pl z (countService s n status) := by
  unfold countService
  dsimp only
  repeat' first | (with_reducible first | assumption | rfl | intro _ | apply sb_setFn | apply sb_ite) | exact partsIn_trans hl rfl | split

theorem sb_answer {pl : List Part} {z : State} {s : State} {c status result : Nat} (hk : sameBut pl z s) (hl : partsIn [.hif, .cores] pl = true) :
    sameBut pl z (answer s c status result) := by
  unfold answer
  dsimp only
  repeat' first | (with_reducible first | assumption | rfl | intro _ | apply sb_onCore | apply sb_countService) | exact partsIn_trans hl rfl | split

theorem sb_serve {pl : List Part} {z : State} {s : State} {c num : Nat} {f : Core → State} (hk : sameBut pl z s) (hf : ∀ a0, sameBut pl z (f a0)) (hl : partsIn [.hif, .cores] pl = true) :
    sameBut pl z (serve s c num f) := by
  unfold serve
  try dsimp only
  repeat' first | (with_reducible first | assumption | rfl | intro _ | apply sb_answer | apply sb_ite | apply hf) | exact partsIn_trans hl rfl | split

theorem sb_execQuery {pl : List Part} {z : State} {c : Nat} {s : State} (hk : sameBut pl z s) (hl : partsIn [.hif, .cores] pl = true) :
    OutParts pl z (execQuery c s) := by
  unfold execQuery
  repeat' first | (with_reducible first | assumption | rfl | intro _ | apply sb_answer | apply sb_serve | apply outSb_next) | exact partsIn_trans hl rfl | split

theorem sb_execPartLoad {pl : List Part} {z : State} {c : Nat} {s : State} (hk : sameBut pl z s) (hl : partsIn [.events, .hif, .evr, .cores] pl = true) :
    OutParts pl z (execPartLoad c s) := by
  unfold execPartLoad
  dsimp only
  repeat' first | (with_reducible first | assumption | rfl | intro _ | apply sb_answer | apply sb_serve | apply sb_pctxPut | apply sb_pctxLog | apply sb_ite | apply outSb_ite | apply outSb_next) | exact partsIn_trans hl rfl | split

theorem sb_enclDying {pl : List Part} {z : State} {s : State} {e : Nat} (hk : sameBut pl z s) (hl : partsIn [.cores, .sram] pl = true) :
    sameBut pl z (enclDying s e) := by
  unfold enclDying
  dsimp only
  repeat' first | (with_reducible first | assumption | rfl | intro _ | apply sb_enclGone | apply sb_onCore | apply sb_setEncl | apply sb_foldl | apply sb_ite) | exact partsIn_trans hl rfl | split

theorem sb_partDown {pl : List Part} {z : State} {s : State} {n : Nat} (hk : sameBut pl z s) (hl : partsIn [.cores, .sram] pl = true) :
    sameBut pl z (partDown s n) := by
  unfold partDown
  repeat' first | (with_reducible first | assumption | rfl | intro _ | apply sb_enclDying | apply sb_pctxPut | apply sb_foldl) | exact partsIn_trans hl rfl | split

theorem sb_execPartUnload {pl : List Part} {z : State} {c : Nat} {s : State} (hk : sameBut pl z s) (hl : partsIn [.events, .hif, .evr, .cores, .sram] pl = true) :
    OutParts pl z (execPartUnload c s) := by
  unfold execPartUnload
  dsimp only
  repeat' first | (with_reducible first | assumption | rfl | intro _ | apply sb_answer | apply sb_serve | apply sb_partDown | apply sb_pctxLog | apply sb_ite | apply outSb_ite | apply outSb_next) | exact partsIn_trans hl rfl | split

theorem sb_partDelete {pl : List Part} {z : State} {s : State} {n : Nat} (hk : sameBut pl z s) (hl : partsIn [.cores, .sram] pl = true) :
    sameBut pl z (partDelete s n) := by
  unfold partDelete
  dsimp only
  repeat' first | (with_reducible first | assumption | rfl | intro _ | apply sb_partDown | apply sb_onCore | apply sb_ite) | exact partsIn_trans hl rfl | split

theorem sb_execEnclCreate {pl : List Part} {z : State} {c : Nat} {s : State} (hk : sameBut pl z s) (hl : partsIn [.hif, .cores] pl = true) :
    OutParts pl z (execEnclCreate c s) := by
  unfold execEnclCreate
  dsimp only
  repeat' first | (with_reducible first | assumption | rfl | intro _ | apply sb_answer | apply sb_serve | apply sb_setEncl | apply sb_ite | apply outSb_ite | apply outSb_next) | exact partsIn_trans hl rfl | split

theorem optSb_mapPage {pl : List Part} {z : State} {s : State} {n gpa phys perm : Nat} (hk : sameBut pl z s) (hl : partsIn [.sram] pl = true) : OptParts pl z (mapPage s n gpa phys perm) := by
  unfold mapPage
  dsimp only
  repeat' first | (with_reducible first | assumption | rfl | intro _ | apply sb_sramWrite | apply sb_ite | apply optSb_some | apply optSb_none | apply optSb_ite) | exact partsIn_trans hl rfl | split

theorem sb_mapPage {pl : List Part} {z : State} {s : State} {n gpa phys perm : Nat} (hk : sameBut pl z s)  {t : State} (e : mapPage s n gpa phys perm = some t) (hl : partsIn [.sram] pl = true) :
    sameBut pl z t := (optSb_mapPage hk hl).of t e

theorem sb_execEnclAdd {pl : List Part} {z : State} {c : Nat} {s : State} (hk : sameBut pl z s) (hl : partsIn [.hif, .cores, .sram, .free] pl = true) :
    OutParts pl z (execEnclAdd c s) := by
  unfold execEnclAdd
  dsimp only
  repeat' first | (with_reducible first | assumption | rfl | intro _ | apply sb_blkCores | apply sb_freeBytes_p | apply sb_answer | apply sb_serve | apply optSb_mapPage | apply sb_sramWrite | apply sb_setEncl | apply sb_ite | apply outSb_ite | apply outSb_next) | exact partsIn_trans hl rfl | (refine sb_freeBytes ?_ (by with_reducible assumption) ?_) | (refine sb_mapPage ?_ (by with_reducible assumption) ?_) | split

theorem sb_execEnclSeal {pl : List Part} {z : State} {c : Nat} {s : State} (hk : sameBut pl z s) (hl : partsIn [.hif, .cores] pl = true) :
    OutParts pl z (execEnclSeal c s) := by
  unfold execEnclSeal
  dsimp only
  repeat' first | (with_reducible first | assumption | rfl | intro _ | apply sb_answer | apply sb_serve | apply sb_setEncl | apply sb_ite | apply outSb_ite | apply outSb_next) | exact partsIn_trans hl rfl | split

theorem sb_execEnclDestroy {pl : List Part} {z : State} {c : Nat} {s : State} (hk : sameBut pl z s) (hl : partsIn [.hif, .cores, .sram] pl = true) :
    OutParts pl z (execEnclDestroy c s) := by
  unfold execEnclDestroy
  dsimp only
  repeat' first | (with_reducible first | assumption | rfl | intro _ | apply sb_enclDying | apply sb_answer | apply sb_serve | apply outSb_next) | exact partsIn_trans hl rfl | split

theorem sb_execEnclReport {pl : List Part} {z : State} {c : Nat} {s : State} (hk : sameBut pl z s) (hl : partsIn [.hif, .cores, .sram] pl = true) :
    OutParts pl z (execEnclReport c s) := by
  unfold execEnclReport
  dsimp only
  repeat' first | (with_reducible first | assumption | rfl | intro _ | apply sb_answer | apply sb_serve | apply optSb_gpaWrite | apply outSb_next) | exact partsIn_trans hl rfl | (refine sb_gpaWrite ?_ (by with_reducible assumption) ?_) | split

theorem sb_rawDma {pl : List Part} {z s t : State} {n a len : Nat} {write : Bool} (h : sameBut pl z s) (e : rawDma s n a len write = .bad t) (hl : partsIn [.events, .mpu, .fwl, .evr] pl = true) :
    sameBut pl z t := by
  have aux : ∀ (l : List Nat) (r : RawDma), (∀ t, r = .bad t → sameBut pl z t) → ∀ t, l.foldl (fun r g => match r with
      | .ok => (match gpaPage s n g (if write = true then 1 else 0) with
        | none => .bad s
        | some p => match dmaCheck s 4 n write false (0x10000000 + p) (min (64 - g % 64) (a + len - g)) with
          | .ok => .ok
          | .stall _ => .wait
          | .deny x src idx => .bad (refuseAcc s x src idx))
      | r => r) r = .bad t → sameBut pl z t := by
    intro l
    induction l with
    | nil => exact fun r hr => hr
    | cons g l ih =>
      intro r hr
      refine ih _ ?_
      cases r with
      | ok =>
        intro t e
        dsimp only at e
        repeat' split at e
        all_goals cases e
        all_goals first | exact h | exact sb_refuseAcc h (partsIn_trans hl rfl)
      | wait => intro t e; cases e
      | bad u => exact hr
  exact aux _ _ (fun t e => by cases e) t e

theorem sb_rawBack {pl : List Part} {z : State} {s : State} {c n a : Nat} {j : RawJob} {acc : Bytes} (hk : sameBut pl z s) (hl : partsIn [.events, .mpu, .fwl, .pke, .hif, .evr, .cores, .sram] pl = true) :
    sameBut pl z (rawBack s c n a j acc) := by
  unfold rawBack
  try dsimp only
  repeat' first | (with_reducible first | assumption | rfl | intro _ | apply sb_blkPke | apply sb_answer | apply optSb_gpaWrite | apply sb_ite) | exact partsIn_trans hl rfl | (refine sb_rawDma ?_ (by with_reducible assumption) ?_) | (refine sb_gpaWrite ?_ (by with_reducible assumption) ?_) | split

theorem sb_rawPost {pl : List Part} {z : State} {s : State} {c n p a k : Nat} (hk : sameBut pl z s) (hl : partsIn [.events, .mpu, .fwl, .pke, .hif, .evr, .cores] pl = true) :
    sameBut pl z (rawPost s c n p a k) := by
  unfold rawPost
  try dsimp only
  repeat' first | (with_reducible first | assumption | rfl | intro _ | apply sb_blkPke | apply sb_answer | apply sb_setPke | apply sb_ite) | exact partsIn_trans hl rfl | (refine sb_rawDma ?_ (by with_reducible assumption) ?_) | split

theorem sb_execPkeRaw {pl : List Part} {z : State} {c : Nat} {s : State} (hk : sameBut pl z s) (hl : partsIn [.events, .mpu, .fwl, .pke, .hif, .evr, .cores, .sram] pl = true) :
    OutParts pl z (execPkeRaw c s) := by
  unfold execPkeRaw
  try dsimp only
  repeat' first | (with_reducible first | assumption | rfl | intro _ | apply sb_serve | apply sb_answer | apply sb_rawBack | apply sb_rawPost | apply sb_ite | apply outSb_ite | apply outSb_next) | exact partsIn_trans hl rfl | split

theorem sb_execIrqRaise {pl : List Part} {z : State} {c : Nat} {s : State} (hk : sameBut pl z s) (hl : partsIn [.events, .hif, .evr, .cores] pl = true) :
    OutParts pl z (execIrqRaise c s) := by
  unfold execIrqRaise
  try dsimp only
  repeat' first | (with_reducible first | assumption | rfl | intro _ | apply sb_serve | apply sb_answer | apply sb_irq | apply sb_ite | apply outSb_ite | apply outSb_next) | exact partsIn_trans hl rfl | split

/-! ### Machine/Owners.lean -/

theorem sb_ownerGone {pl : List Part} {z : State} {s : State} {n : Nat} (hk : sameBut pl z s) (hl : partsIn [.events, .vlt, .hif, .evr, .flt, .cores, .sram] pl = true) :
    sameBut pl z (ownerGone s n) := by
  unfold ownerGone
  dsimp only
  repeat' first | (with_reducible first | assumption | rfl | intro _ | apply sb_blkVlt | apply sb_endWaits | apply sb_partDelete | apply sb_deriveAll) | exact partsIn_trans hl rfl | split

theorem sb_ownerCheck {pl : List Part} {z : State} {s : State} {n : Nat} (hk : sameBut pl z s) (hl : partsIn [.events, .vlt, .hif, .evr, .flt, .cores, .sram] pl = true) :
    sameBut pl z (ownerCheck s n) := by
  unfold ownerCheck
  repeat' first | (with_reducible first | assumption | rfl | intro _ | apply sb_ownerGone | apply sb_ite) | exact partsIn_trans hl rfl | split

theorem sb_ownerEdge {pl : List Part} {z : State} {s : State} (hk : sameBut pl z s) (hl : partsIn [.events, .vlt, .hif, .evr, .flt, .cores, .sram] pl = true) :
    sameBut pl z (ownerEdge s) := by
  unfold ownerEdge
  repeat' first | (with_reducible first | assumption | rfl | intro _ | apply sb_ownerCheck | apply sb_zeroizeOwner | apply sb_foldl) | exact partsIn_trans hl rfl | split

theorem sb_execZeroizeReadback {pl : List Part} {z : State} {n : Nat} {ok : Bool} {s : State} (hk : sameBut pl z s) (hl : partsIn [.events, .vlt, .hif, .spi0, .flash, .tmp, .evr, .flt, .cores, .sram] pl = true) :
    OutParts pl z (execZeroizeReadback n ok s) := by
  unfold execZeroizeReadback
  try dsimp only
  repeat' first | (with_reducible first | assumption | rfl | intro _ | apply sb_readback | apply sb_journalAssoc | apply sb_endWaits | apply sb_ownerCheck | apply sb_ite | apply outSb_ite | apply outSb_next) | exact partsIn_trans hl rfl | split

/-! ### Machine/CmdCustody.lean -/

theorem sb_custodyRequestCmd {pl : List Part} {z : State} {s : State} {_fn : Nat} {d : Bytes} {io : CmdIo} (hk : sameBut pl z s) (hl : partsIn [.events, .cus, .can0, .can1, .voe, .eng, .rng, .hif, .evr, .flt] pl = true) :
    AnsParts pl z (custodyRequestCmd s _fn d io) := by
  unfold custodyRequestCmd
  try dsimp only
  repeat' first | (with_reducible first | assumption | rfl | intro _ | apply sb_custCancelAll | apply sb_onCus | apply sb_custCommitRun_p | apply sb_Ans.bad | apply sb_Ans.notReady | apply sb_Ans.stop | apply sb_ite | apply ansSb_ite | apply sb_id) | exact partsIn_trans hl rfl | (refine sb_custCommitRun ?_ (by with_reducible assumption) ?_) | split | with_reducible apply ansSb_mk | with_reducible apply AnsParts.st | with_reducible apply AnsParts.after

theorem sb_custodyCancelCmd {pl : List Part} {z : State} {s : State} {_fn : Nat} {_d : Bytes} {_io : CmdIo} (hk : sameBut pl z s) (hl : partsIn [.events, .cus, .can0, .can1, .voe, .hif, .evr, .flt] pl = true) :
    AnsParts pl z (custodyCancelCmd s _fn _d _io) := by
  unfold custodyCancelCmd
  repeat' first | (with_reducible first | assumption | rfl | intro _ | apply sb_custCancelAll | apply sb_id) | exact partsIn_trans hl rfl | split | with_reducible apply ansSb_mk

theorem sb_custodyStatusCmd {pl : List Part} {z : State} {s : State} {_fn : Nat} {_d : Bytes} {_io : CmdIo} (hk : sameBut pl z s) (hl : partsIn [] pl = true) :
    AnsParts pl z (custodyStatusCmd s _fn _d _io) := by
  unfold custodyStatusCmd
  repeat' first | (with_reducible first | assumption | rfl | intro _ | apply sb_ite | apply ansSb_ite | apply sb_id) | exact partsIn_trans hl rfl | split | with_reducible apply ansSb_mk

theorem sb_withLatch {pl : List Part} {z : State} {s : State} {op : Nat} {same : Bool} {f : Ans} (hk : sameBut pl z s) (hf : AnsParts pl z f) (hl : partsIn [] pl = true) :
    AnsParts pl z (withLatch s op same f) := by
  unfold withLatch
  repeat' first | (with_reducible first | assumption | rfl | intro _ | apply sb_ite | apply ansSb_ite | apply hf | apply sb_Ans.denied | apply sb_id) | exact partsIn_trans hl rfl | split | with_reducible apply ansSb_mk

theorem sb_ownerCreateCmd {pl : List Part} {z : State} {s : State} {_fn : Nat} {d : Bytes} {_io : CmdIo} (hk : sameBut pl z s) (hl : partsIn [.events, .vlt, .cus, .can0, .can1, .voe, .hif, .evr, .flt] pl = true) :
    AnsParts pl z (ownerCreateCmd s _fn d _io) := by
  unfold ownerCreateCmd
  dsimp only
  repeat' first | (with_reducible first | assumption | rfl | intro _ | apply sb_blkVlt | apply sb_latchConsume | apply sb_withLatch | apply sb_deriveAll | apply sb_ite | apply ansSb_ite | apply sb_Ans.bad | apply sb_Ans.denied | apply sb_Ans.stop | apply sb_id | apply optSb_getD) | exact partsIn_trans hl rfl | split | with_reducible apply ansSb_mk | with_reducible apply AnsParts.st | with_reducible apply AnsParts.after

theorem sb_ownerDeleteCmd {pl : List Part} {z : State} {s : State} {_fn : Nat} {d : Bytes} {_io : CmdIo} (hk : sameBut pl z s) (hl : partsIn [.events, .cus, .can0, .can1, .voe, .hif, .evr, .flt] pl = true) :
    AnsParts pl z (ownerDeleteCmd s _fn d _io) := by
  unfold ownerDeleteCmd
  dsimp only
  repeat' first | (with_reducible first | assumption | rfl | intro _ | apply sb_latchConsume | apply sb_withLatch | apply sb_ite | apply ansSb_ite | apply sb_Ans.bad | apply sb_Ans.denied | apply sb_id) | exact partsIn_trans hl rfl | split | with_reducible apply ansSb_mk | with_reducible apply AnsParts.st | with_reducible apply AnsParts.after

theorem sb_exportKey_inl {pl : List Part} {z s t : State} {d : Bytes} {a : Nat} (h : sameBut pl z s) (e : exportKey s d = .inl (a, t)) (hl : partsIn [.events, .vlt, .evr] pl = true) :
    sameBut pl z t := by
  unfold exportKey at e
  dsimp only at e
  repeat' split at e
  all_goals cases e
  all_goals first | exact h | exact sb_slotUse_inl h (by assumption) (partsIn_trans hl rfl)

theorem sb_exportKey_inr {pl : List Part} {z s t : State} {d : Bytes} {a b c : Nat} {x : Bool} {y : Bytes} (h : sameBut pl z s)
    (e : exportKey s d = .inr (a, b, c, x, y, t)) (hl : partsIn [.events, .vlt, .evr] pl = true) : sameBut pl z t := by
  unfold exportKey at e
  dsimp only at e
  repeat' split at e
  all_goals cases e
  all_goals first | exact h | exact sb_slotUse_inr h (by assumption) (partsIn_trans hl rfl)

theorem sb_keyExportCmd {pl : List Part} {z : State} {s : State} {fn : Nat} {d : Bytes} {io : CmdIo} (hk : sameBut pl z s) (hl : partsIn [.events, .vlt, .cus, .can0, .can1, .voe, .eng, .rng, .hif, .evr, .flt] pl = true) :
    AnsParts pl z (keyExportCmd s fn d io) := by
  unfold keyExportCmd
  try dsimp only
  repeat' first | (with_reducible first | assumption | rfl | intro _ | apply sb_withLatch | apply sb_withRandom | apply sb_latchConsume | apply sb_Ans.bad | apply sb_Ans.stop | apply sb_Ans.denied | apply sb_Ans.aborted | apply sb_ite | apply ansSb_ite | apply sb_id) | exact partsIn_trans hl rfl | (refine sb_exportKey_inl ?_ (by with_reducible assumption) ?_) | (refine sb_exportKey_inr ?_ (by with_reducible assumption) ?_) | split | with_reducible apply ansSb_mk | with_reducible apply AnsParts.st | with_reducible apply AnsParts.after

theorem sb_keyRestoreCmd {pl : List Part} {z : State} {s : State} {_fn : Nat} {d : Bytes} {io : CmdIo} (hk : sameBut pl z s) (hl : partsIn [.events, .vlt, .cus, .can0, .can1, .voe, .hif, .spi0, .flash, .evr, .flt] pl = true) :
    AnsParts pl z (keyRestoreCmd s _fn d io) := by
  unfold keyRestoreCmd
  dsimp only
  repeat' first | (with_reducible first | assumption | rfl | intro _ | apply sb_latchConsume | apply sb_withKey | apply sb_newKey | apply sb_withLatch | apply sb_ite | apply ansSb_ite | apply sb_Ans.aborted | apply sb_Ans.bad | apply sb_Ans.denied | apply sb_id) | exact partsIn_trans hl rfl | (refine sb_newKeyCheck ?_ (by with_reducible assumption) ?_) | split | with_reducible apply ansSb_mk | with_reducible apply AnsParts.st | with_reducible apply AnsParts.after

theorem sb_snuffCmd {pl : List Part} {z : State} {s : State} {_fn : Nat} {_d : Bytes} {_io : CmdIo} (hk : sameBut pl z s) (hl : partsIn [.events, .cus, .can0, .can1, .voe, .hif, .tmp, .snf, .evr, .flt] pl = true) :
    AnsParts pl z (snuffCmd s _fn _d _io) := by
  unfold snuffCmd
  repeat' first | (with_reducible first | assumption | rfl | intro _ | apply sb_snuffTrig | apply sb_latchConsume | apply sb_withLatch | apply sb_id) | exact partsIn_trans hl rfl | split | with_reducible apply ansSb_mk | with_reducible apply AnsParts.st | with_reducible apply AnsParts.after

theorem sb_debugAnnounce {pl : List Part} {z : State} {s : State} {level : Nat} (hk : sameBut pl z s) (hl : partsIn [.events, .mode, .hif, .evr, .flt] pl = true) :
    sameBut pl z (debugAnnounce s level) := by
  unfold debugAnnounce
  dsimp only
  repeat' first | (with_reducible first | assumption | rfl | intro _ | apply sb_blkMode | apply sb_announceCmd) | exact partsIn_trans hl rfl | split

theorem sb_debugAuthCmd {pl : List Part} {z : State} {s : State} {_fn : Nat} {d : Bytes} {_io : CmdIo} (hk : sameBut pl z s) (hl : partsIn [.events, .mode, .cus, .can0, .can1, .voe, .hif, .evr, .flt] pl = true) :
    AnsParts pl z (debugAuthCmd s _fn d _io) := by
  unfold debugAuthCmd
  dsimp only
  repeat' first | (with_reducible first | assumption | rfl | intro _ | apply sb_latchConsume | apply sb_debugAnnounce | apply sb_withLatch | apply sb_ite | apply ansSb_ite | apply sb_Ans.bad | apply sb_id) | exact partsIn_trans hl rfl | split | with_reducible apply ansSb_mk | with_reducible apply AnsParts.st | with_reducible apply AnsParts.after

theorem sb_blowPart {pl : List Part} {z : State} {s : State} {k : Nat} {l : List (Nat × Word)} {f : State → Nat → Ans} (hk : sameBut pl z s) (hf : ∀ s a0, sameBut pl z s → AnsParts pl z (f s a0)) (hl : partsIn [.events, .fus, .cus, .can0, .can1, .voe, .hif, .evr, .flt, .free] pl = true) :
    AnsParts pl z (blowPart s k l f) := by
  unfold blowPart
  repeat' first | (with_reducible first | assumption | rfl | intro _ | apply sb_blowRun_p | apply sb_Ans.aborted | apply sb_ite | apply hf | apply ansSb_ite | apply sb_id) | exact partsIn_trans hl rfl | (refine sb_blowRun ?_ (by with_reducible assumption) ?_) | split | with_reducible apply ansSb_mk | with_reducible apply AnsParts.st | with_reducible apply AnsParts.after

theorem sb_blowOr {pl : List Part} {z : State} {s : State} {io : CmdIo} {l : List (Nat × Word)} {f : State → Ans} (hk : sameBut pl z s) (hf : ∀ s, sameBut pl z s → AnsParts pl z (f s)) (hl : partsIn [.events, .fus, .cus, .can0, .can1, .voe, .hif, .evr, .flt, .free] pl = true) :
    AnsParts pl z (blowOr s io l f) := by
  unfold blowOr
  try dsimp only
  repeat' first | (with_reducible first | assumption | rfl | intro _ | apply sb_blowPart | apply sb_ite | apply hf | apply ansSb_ite | apply sb_id) | exact partsIn_trans hl rfl | split | with_reducible apply ansSb_mk | with_reducible apply AnsParts.st | with_reducible apply AnsParts.after

theorem sb_blowReady {pl : List Part} {z : State} {s : State} {a : Ans} (hk : sameBut pl z s) (ha : AnsParts pl z a) (hl : partsIn [] pl = true) :
    AnsParts pl z (blowReady s a) := by
  unfold blowReady
  repeat' first | (with_reducible first | assumption | rfl | intro _ | apply sb_Ans.aborted | apply sb_Ans.notReady | apply sb_ite | apply ha | apply ansSb_ite | apply sb_id) | exact partsIn_trans hl rfl | split | with_reducible apply ansSb_mk | with_reducible apply AnsParts.st | with_reducible apply AnsParts.after

theorem sb_cusEnrolCmd {pl : List Part} {z : State} {s : State} {_fn : Nat} {d : Bytes} {io : CmdIo} (hk : sameBut pl z s) (hl : partsIn [.events, .fus, .cus, .can0, .can1, .voe, .hif, .evr, .flt, .free] pl = true) :
    AnsParts pl z (cusEnrolCmd s _fn d io) := by
  unfold cusEnrolCmd
  try dsimp only
  repeat' first | (with_reducible first | assumption | rfl | intro _ | apply sb_withLatch | apply sb_blowReady | apply sb_blowOr | apply sb_latchConsume | apply sb_Ans.bad | apply sb_Ans.denied | apply sb_ite | apply ansSb_ite | apply sb_id) | exact partsIn_trans hl rfl | split | with_reducible apply ansSb_mk | with_reducible apply AnsParts.st | with_reducible apply AnsParts.after

theorem sb_cusRevokeCmd {pl : List Part} {z : State} {s : State} {_fn : Nat} {d : Bytes} {io : CmdIo} (hk : sameBut pl z s) (hl : partsIn [.events, .fus, .cus, .can0, .can1, .voe, .hif, .evr, .flt, .free] pl = true) :
    AnsParts pl z (cusRevokeCmd s _fn d io) := by
  unfold cusRevokeCmd
  try dsimp only
  repeat' first | (with_reducible first | assumption | rfl | intro _ | apply sb_withLatch | apply sb_blowReady | apply sb_blowOr | apply sb_latchConsume | apply sb_Ans.bad | apply sb_Ans.denied | apply sb_ite | apply ansSb_ite | apply sb_id) | exact partsIn_trans hl rfl | split | with_reducible apply ansSb_mk | with_reducible apply AnsParts.st | with_reducible apply AnsParts.after

theorem sb_faultEnableCmd {pl : List Part} {z : State} {s : State} {_fn : Nat} {d : Bytes} {_io : CmdIo} (hk : sameBut pl z s) (hl : partsIn [.events, .cus, .can0, .can1, .voe, .hif, .evr, .flt] pl = true) :
    AnsParts pl z (faultEnableCmd s _fn d _io) := by
  unfold faultEnableCmd
  dsimp only
  repeat' first | (with_reducible first | assumption | rfl | intro _ | apply sb_blkFlt | apply sb_latchConsume | apply sb_withLatch | apply sb_ite | apply ansSb_ite | apply sb_Ans.bad | apply sb_id) | exact partsIn_trans hl rfl | split | with_reducible apply ansSb_mk | with_reducible apply AnsParts.st | with_reducible apply AnsParts.after

theorem sb_newRoot {pl : List Part} {z : State} {s : State} {vr : Bytes} (hk : sameBut pl z s) (hl : partsIn [.vlt] pl = true) :
    sameBut pl z (newRoot s vr) := by
  unfold newRoot
  dsimp only
  repeat' first | (with_reducible first | assumption | rfl | intro _ | apply sb_blkVlt) | exact partsIn_trans hl rfl | split

theorem sb_recommissionCmd {pl : List Part} {z : State} {s : State} {fn : Nat} {d : Bytes} {io : CmdIo} (hk : sameBut pl z s) (hl : partsIn [.events, .glb, .mode, .clk, .fus, .cfg, .mpu, .fwl, .vlt, .cus, .can0, .can1, .voe, .eng, .pke, .rng, .hif, .spi0, .spi1, .flash, .tmp, .snf, .evr, .upd, .flt, .cores, .sram, .free] pl = true) :
    AnsParts pl z (recommissionCmd s fn d io) := by
  unfold recommissionCmd
  try dsimp only
  repeat' first | (with_reducible first | assumption | rfl | intro _ | apply sb_withLatch | apply sb_withRandom | apply sb_newRoot | apply sb_stickyConsume | apply sb_latchConsume | apply sb_snuffFlagClear | apply sb_cmdReset | apply sb_blowOr | apply sb_Ans.aborted | apply sb_ite | apply ansSb_ite | apply sb_id) | exact partsIn_trans hl rfl | split | with_reducible apply ansSb_mk | with_reducible apply AnsParts.st | with_reducible apply AnsParts.after

theorem sb_retireCmd {pl : List Part} {z : State} {s : State} {_fn : Nat} {_d : Bytes} {io : CmdIo} (hk : sameBut pl z s) (hl : partsIn [.events, .glb, .mode, .clk, .fus, .cfg, .mpu, .fwl, .vlt, .cus, .can0, .can1, .voe, .eng, .pke, .rng, .hif, .spi0, .spi1, .flash, .tmp, .snf, .evr, .upd, .flt, .cores, .sram, .free] pl = true) :
    AnsParts pl z (retireCmd s _fn _d io) := by
  unfold retireCmd
  try dsimp only
  repeat' first | (with_reducible first | assumption | rfl | intro _ | apply sb_withLatch | apply sb_blowReady | apply sb_stickyConsume | apply sb_latchConsume | apply sb_snuffTrig | apply sb_retireEnd | apply sb_ite | apply ansSb_ite | apply sb_id) | exact partsIn_trans hl rfl | split | with_reducible apply ansSb_mk | with_reducible apply AnsParts.st | with_reducible apply AnsParts.after

theorem sb_commissionCmd {pl : List Part} {z : State} {s : State} {fn : Nat} {d : Bytes} {io : CmdIo} (hk : sameBut pl z s) (hl : partsIn [.events, .glb, .mode, .clk, .fus, .cfg, .mpu, .fwl, .vlt, .cus, .can0, .can1, .voe, .eng, .pke, .rng, .hif, .spi0, .spi1, .flash, .tmp, .evr, .upd, .flt, .cores, .sram, .free] pl = true) :
    AnsParts pl z (commissionCmd s fn d io) := by
  unfold commissionCmd
  try dsimp only
  repeat' first | (with_reducible first | assumption | rfl | intro _ | apply sb_blkEvr | apply sb_withLatch | apply sb_withRandom | apply sb_latchConsume | apply sb_blowOr | apply sb_newRoot | apply sb_cmdReset | apply sb_Ans.aborted | apply sb_ite | apply ansSb_ite | apply sb_id) | exact partsIn_trans hl rfl | split | with_reducible apply ansSb_mk | with_reducible apply AnsParts.st | with_reducible apply AnsParts.after

theorem sb_execCustodyRequest {pl : List Part} {z : State} {fn r : Nat} {io : CmdIo} {s : State} (hk : sameBut pl z s) (hl : partsIn [.events, .cus, .can0, .can1, .voe, .eng, .rng, .hif, .evr, .flt] pl = true) :
    OutParts pl z (execCustodyRequest fn r io s) := by
  unfold execCustodyRequest
  repeat' first | (with_reducible first | assumption | rfl | intro _ | apply sb_custodyRequestCmd | apply sb_serveCmd | apply outSb_next) | exact partsIn_trans hl rfl | split

theorem sb_execCustodyCancel {pl : List Part} {z : State} {fn r : Nat} {io : CmdIo} {s : State} (hk : sameBut pl z s) (hl : partsIn [.events, .cus, .can0, .can1, .voe, .hif, .evr, .flt] pl = true) :
    OutParts pl z (execCustodyCancel fn r io s) := by
  unfold execCustodyCancel
  repeat' first | (with_reducible first | assumption | rfl | intro _ | apply sb_custodyCancelCmd | apply sb_serveCmd | apply outSb_next) | exact partsIn_trans hl rfl | split

theorem sb_execCustodyStatus {pl : List Part} {z : State} {fn r : Nat} {io : CmdIo} {s : State} (hk : sameBut pl z s) (hl : partsIn [.events, .hif, .evr, .flt] pl = true) :
    OutParts pl z (execCustodyStatus fn r io s) := by
  unfold execCustodyStatus
  repeat' first | (with_reducible first | assumption | rfl | intro _ | apply sb_serveCmd | apply sb_custodyStatusCmd | apply outSb_next) | exact partsIn_trans hl rfl | split

theorem sb_execOwnerCreate {pl : List Part} {z : State} {fn r : Nat} {io : CmdIo} {s : State} (hk : sameBut pl z s) (hl : partsIn [.events, .vlt, .cus, .can0, .can1, .voe, .hif, .evr, .flt] pl = true) :
    OutParts pl z (execOwnerCreate fn r io s) := by
  unfold execOwnerCreate
  repeat' first | (with_reducible first | assumption | rfl | intro _ | apply sb_ownerCreateCmd | apply sb_serveCmd | apply outSb_next) | exact partsIn_trans hl rfl | split

theorem sb_execOwnerDelete {pl : List Part} {z : State} {fn r : Nat} {io : CmdIo} {s : State} (hk : sameBut pl z s) (hl : partsIn [.events, .cus, .can0, .can1, .voe, .hif, .evr, .flt] pl = true) :
    OutParts pl z (execOwnerDelete fn r io s) := by
  unfold execOwnerDelete
  repeat' first | (with_reducible first | assumption | rfl | intro _ | apply sb_serveCmd | apply sb_ownerDeleteCmd | apply outSb_next) | exact partsIn_trans hl rfl | split

theorem sb_execKeyExport {pl : List Part} {z : State} {fn r : Nat} {io : CmdIo} {s : State} (hk : sameBut pl z s) (hl : partsIn [.events, .vlt, .cus, .can0, .can1, .voe, .eng, .rng, .hif, .evr, .flt] pl = true) :
    OutParts pl z (execKeyExport fn r io s) := by
  unfold execKeyExport
  repeat' first | (with_reducible first | assumption | rfl | intro _ | apply sb_serveCmd | apply sb_keyExportCmd | apply outSb_next) | exact partsIn_trans hl rfl | split

theorem sb_execKeyRestore {pl : List Part} {z : State} {fn r : Nat} {io : CmdIo} {s : State} (hk : sameBut pl z s) (hl : partsIn [.events, .vlt, .cus, .can0, .can1, .voe, .hif, .spi0, .flash, .evr, .flt] pl = true) :
    OutParts pl z (execKeyRestore fn r io s) := by
  unfold execKeyRestore
  repeat' first | (with_reducible first | assumption | rfl | intro _ | apply sb_keyRestoreCmd | apply sb_serveCmd | apply outSb_next) | exact partsIn_trans hl rfl | split

theorem sb_execSnuff {pl : List Part} {z : State} {fn r : Nat} {io : CmdIo} {s : State} (hk : sameBut pl z s) (hl : partsIn [.events, .cus, .can0, .can1, .voe, .hif, .tmp, .snf, .evr, .flt] pl = true) :
    OutParts pl z (execSnuff fn r io s) := by
  unfold execSnuff
  repeat' first | (with_reducible first | assumption | rfl | intro _ | apply sb_serveCmd | apply sb_snuffCmd | apply outSb_next) | exact partsIn_trans hl rfl | split

theorem sb_execDebugAuth {pl : List Part} {z : State} {fn r : Nat} {io : CmdIo} {s : State} (hk : sameBut pl z s) (hl : partsIn [.events, .mode, .cus, .can0, .can1, .voe, .hif, .evr, .flt] pl = true) :
    OutParts pl z (execDebugAuth fn r io s) := by
  unfold execDebugAuth
  repeat' first | (with_reducible first | assumption | rfl | intro _ | apply sb_debugAuthCmd | apply sb_serveCmd | apply outSb_next) | exact partsIn_trans hl rfl | split

theorem sb_execCusEnrol {pl : List Part} {z : State} {fn r : Nat} {io : CmdIo} {s : State} (hk : sameBut pl z s) (hl : partsIn [.events, .fus, .cus, .can0, .can1, .voe, .hif, .evr, .flt, .free] pl = true) :
    OutParts pl z (execCusEnrol fn r io s) := by
  unfold execCusEnrol
  repeat' first | (with_reducible first | assumption | rfl | intro _ | apply sb_serveCmd | apply sb_cusEnrolCmd | apply outSb_next) | exact partsIn_trans hl rfl | split

theorem sb_execCusRevoke {pl : List Part} {z : State} {fn r : Nat} {io : CmdIo} {s : State} (hk : sameBut pl z s) (hl : partsIn [.events, .fus, .cus, .can0, .can1, .voe, .hif, .evr, .flt, .free] pl = true) :
    OutParts pl z (execCusRevoke fn r io s) := by
  unfold execCusRevoke
  repeat' first | (with_reducible first | assumption | rfl | intro _ | apply sb_serveCmd | apply sb_cusRevokeCmd | apply outSb_next) | exact partsIn_trans hl rfl | split

theorem sb_execFaultEnable {pl : List Part} {z : State} {fn r : Nat} {io : CmdIo} {s : State} (hk : sameBut pl z s) (hl : partsIn [.events, .cus, .can0, .can1, .voe, .hif, .evr, .flt] pl = true) :
    OutParts pl z (execFaultEnable fn r io s) := by
  unfold execFaultEnable
  repeat' first | (with_reducible first | assumption | rfl | intro _ | apply sb_faultEnableCmd | apply sb_serveCmd | apply outSb_next) | exact partsIn_trans hl rfl | split

theorem sb_execRecommission {pl : List Part} {z : State} {fn r : Nat} {io : CmdIo} {s : State} (hk : sameBut pl z s) (hl : partsIn [.events, .glb, .mode, .clk, .fus, .cfg, .mpu, .fwl, .vlt, .cus, .can0, .can1, .voe, .eng, .pke, .rng, .hif, .spi0, .spi1, .flash, .tmp, .snf, .evr, .upd, .flt, .cores, .sram, .free] pl = true) :
    OutParts pl z (execRecommission fn r io s) := by
  unfold execRecommission
  repeat' first | (with_reducible first | assumption | rfl | intro _ | apply sb_serveCmd | apply sb_recommissionCmd | apply outSb_next) | exact partsIn_trans hl rfl | split

theorem sb_execRetire {pl : List Part} {z : State} {fn r : Nat} {io : CmdIo} {s : State} (hk : sameBut pl z s) (hl : partsIn [.events, .glb, .mode, .clk, .fus, .cfg, .mpu, .fwl, .vlt, .cus, .can0, .can1, .voe, .eng, .pke, .rng, .hif, .spi0, .spi1, .flash, .tmp, .snf, .evr, .upd, .flt, .cores, .sram, .free] pl = true) :
    OutParts pl z (execRetire fn r io s) := by
  unfold execRetire
  repeat' first | (with_reducible first | assumption | rfl | intro _ | apply sb_retireCmd | apply sb_serveCmd | apply outSb_next) | exact partsIn_trans hl rfl | split

theorem sb_execCommission {pl : List Part} {z : State} {fn r : Nat} {io : CmdIo} {s : State} (hk : sameBut pl z s) (hl : partsIn [.events, .glb, .mode, .clk, .fus, .cfg, .mpu, .fwl, .vlt, .cus, .can0, .can1, .voe, .eng, .pke, .rng, .hif, .spi0, .spi1, .flash, .tmp, .evr, .upd, .flt, .cores, .sram, .free] pl = true) :
    OutParts pl z (execCommission fn r io s) := by
  unfold execCommission
  repeat' first | (with_reducible first | assumption | rfl | intro _ | apply sb_commissionCmd | apply sb_serveCmd | apply outSb_next) | exact partsIn_trans hl rfl | split

/-! ### Machine/Idle.lean -/

theorem sb_idleCount {pl : List Part} {z s : State} (h : sameBut pl z s) (hl : partsIn [.events, .glb, .mode, .tmp] pl = true) : sameBut pl z (idleCount s) := by
  exact sb_blkTmp (sb_blkMode (sb_blkGlbE h (partsIn_trans hl rfl)) (partsIn_trans hl rfl)) (partsIn_trans hl rfl)

/-! ### Machine/Power.lean -/

theorem sb_execBatteryPowerOn {pl : List Part} {z : State} {s : State} (hk : sameBut pl z s) (hl : partsIn [.events, .mode, .vlt, .can0, .can1, .voe, .rng, .tmp, .snf, .evr] pl = true) :
    OutParts pl z (execBatteryPowerOn s) := by
  unfold execBatteryPowerOn
  dsimp only
  repeat' first | (with_reducible first | assumption | rfl | intro _ | apply sb_blkMode | apply sb_armedAct | apply sb_batteryLost | apply sb_ite | apply outSb_ite | apply outSb_next) | exact partsIn_trans hl rfl | split

theorem sb_execVbatLoss {pl : List Part} {z : State} {s : State} (hk : sameBut pl z s) (hl : partsIn [.events, .mode, .vlt, .can0, .can1, .voe, .rng, .tmp, .snf, .evr] pl = true) :
    OutParts pl z (execVbatLoss s) := by
  unfold execVbatLoss
  try dsimp only
  repeat' first | (with_reducible first | assumption | rfl | intro _ | apply sb_blkMode | apply sb_batteryLost | apply sb_sourceOn | apply sb_ite | apply outSb_ite | apply outSb_next) | exact partsIn_trans hl rfl | split

theorem sb_noBattery {pl : List Part} {z : State} {s : State} (hk : sameBut pl z s) (hl : partsIn [.tmp] pl = true) :
    sameBut pl z (noBattery s) := by
  unfold noBattery
  repeat' first | (with_reducible first | assumption | rfl | intro _ | apply sb_blkTmp | apply sb_ite) | exact partsIn_trans hl rfl | split

theorem sb_execPowerOnReset {pl : List Part} {z : State} {io : SupplyEnv} {s : State} (hk : sameBut pl z s) (hl : partsIn [.events, .glb, .mode, .clk, .fus, .cfg, .mpu, .fwl, .vlt, .cus, .can0, .can1, .voe, .eng, .pke, .rng, .hif, .spi0, .spi1, .flash, .tmp, .evr, .upd, .flt, .cores, .sram, .free] pl = true) :
    OutParts pl z (execPowerOnReset io s) := by
  unfold execPowerOnReset
  try dsimp only
  repeat' first | (with_reducible first | assumption | rfl | intro _ | apply sb_blkMode | apply sb_blkTmp | apply sb_powerOnReset | apply sb_noBattery | apply sb_ite | apply outSb_ite | apply outSb_next) | exact partsIn_trans hl rfl | split

theorem sb_pulseCut {pl : List Part} {z : State} {s : State} (hk : sameBut pl z s) (hl : partsIn [.fus, .free] pl = true) :
    sameBut pl z (pulseCut s) := by
  unfold pulseCut
  repeat' first | (with_reducible first | assumption | rfl | intro _ | apply sb_pulseCell | apply sb_ite) | exact partsIn_trans hl rfl | split

theorem sb_execMainSupplyLoss {pl : List Part} {z : State} {s : State} (hk : sameBut pl z s) (hl : partsIn [.events, .glb, .mode, .clk, .fus, .cfg, .mpu, .fwl, .vlt, .cus, .can0, .can1, .voe, .eng, .pke, .rng, .hif, .spi0, .spi1, .flash, .tmp, .snf, .evr, .upd, .flt, .cores, .sram, .free] pl = true) :
    OutParts pl z (execMainSupplyLoss s) := by
  unfold execMainSupplyLoss
  try dsimp only
  repeat' first | (with_reducible first | assumption | rfl | intro _ | apply sb_blkTmp | apply sb_coreLost | apply sb_pulseCut | apply sb_logHold | apply sb_batteryLost | apply sb_ite | apply outSb_ite | apply outSb_next) | exact partsIn_trans hl rfl | split

theorem sb_execNrstAssert {pl : List Part} {z : State} {s : State} (hk : sameBut pl z s) (hl : partsIn [.events, .glb, .mode, .clk, .fus, .cfg, .mpu, .fwl, .vlt, .cus, .can0, .can1, .voe, .eng, .pke, .rng, .hif, .spi0, .spi1, .flash, .tmp, .evr, .upd, .flt, .cores, .sram, .free] pl = true) :
    OutParts pl z (execNrstAssert s) := by
  unfold execNrstAssert
  dsimp only
  repeat' first | (with_reducible first | assumption | rfl | intro _ | apply sb_blkMode | apply sb_nrstTake | apply sb_onFus | apply sb_ite | apply outSb_ite | apply outSb_next) | exact partsIn_trans hl rfl | split

theorem sb_execNrstRelease {pl : List Part} {z : State} {s : State} (hk : sameBut pl z s) (hl : partsIn [.events, .mode, .tmp, .evr] pl = true) :
    OutParts pl z (execNrstRelease s) := by
  unfold execNrstRelease
  repeat' first | (with_reducible first | assumption | rfl | intro _ | apply sb_blkMode | apply sb_nrstFree | apply sb_ite | apply outSb_ite | apply outSb_next) | exact partsIn_trans hl rfl | split

theorem sb_execWatchdogTimeout {pl : List Part} {z : State} {k : Fin 12} {s : State} (hk : sameBut pl z s) (hl : partsIn [.events, .glb, .mode, .clk, .fus, .cfg, .mpu, .fwl, .vlt, .cus, .can0, .can1, .voe, .eng, .pke, .rng, .hif, .spi0, .spi1, .flash, .tmp, .evr, .upd, .flt, .cores, .sram, .free] pl = true) :
    OutParts pl z (execWatchdogTimeout k s) := by
  unfold execWatchdogTimeout
  try dsimp only
  repeat' first | (with_reducible first | assumption | rfl | intro _ | apply sb_blkMode | apply sb_deviceReset | apply sb_ite | apply outSb_ite | apply outSb_next) | exact partsIn_trans hl rfl | split

theorem sb_execModeWdtKick {pl : List Part} {z : State} {v : Word} {s : State} (hk : sameBut pl z s) (hl : partsIn [.events, .mode, .evr] pl = true) :
    OutParts pl z (execModeWdtKick v s) := by
  unfold execModeWdtKick
  repeat' first | (with_reducible first | assumption | rfl | intro _ | apply sb_blkMode | apply sb_logD | apply sb_ite | apply outSb_ite | apply outSb_next) | exact partsIn_trans hl rfl | split

theorem sb_execWdtLock {pl : List Part} {z : State} {s : State} (hk : sameBut pl z s) (hl : partsIn [.mode] pl = true) :
    OutParts pl z (execWdtLock s) := by
  unfold execWdtLock
  repeat' first | (with_reducible first | assumption | rfl | intro _ | apply sb_blkMode | apply sb_ite | apply outSb_ite | apply outSb_next) | exact partsIn_trans hl rfl | split

theorem sb_rstCtl {pl : List Part} {z : State} {s : State} {v : Word} (hk : sameBut pl z s) (hl : partsIn [.events, .glb, .mode, .clk, .fus, .cfg, .mpu, .fwl, .vlt, .cus, .can0, .can1, .voe, .eng, .pke, .rng, .hif, .spi0, .spi1, .flash, .tmp, .evr, .upd, .flt, .cores, .sram, .free] pl = true) :
    sameBut pl z (rstCtl s v) := by
  unfold rstCtl
  repeat' first | (with_reducible first | assumption | rfl | intro _ | apply sb_blkMode | apply sb_deviceReset | apply sb_ite) | exact partsIn_trans hl rfl | split

theorem sb_rstCtlWrite {pl : List Part} {z : State} {s : State} {v : Word} (hk : sameBut pl z s) (hl : partsIn [.events, .glb, .mode, .clk, .fus, .cfg, .mpu, .fwl, .vlt, .cus, .can0, .can1, .voe, .eng, .pke, .rng, .hif, .spi0, .spi1, .flash, .tmp, .evr, .upd, .flt, .cores, .sram, .free] pl = true) :
    sameBut pl z (rstCtlWrite s v) := by
  unfold rstCtlWrite
  repeat' first | (with_reducible first | assumption | rfl | intro _ | apply sb_rstCtl | apply sb_logOther | apply sb_ite) | exact partsIn_trans hl rfl | split

theorem sb_execSwrst {pl : List Part} {z : State} {v : Word} {s : State} (hk : sameBut pl z s) (hl : partsIn [.events, .glb, .mode, .clk, .fus, .cfg, .mpu, .fwl, .vlt, .cus, .can0, .can1, .voe, .eng, .pke, .rng, .hif, .spi0, .spi1, .flash, .tmp, .evr, .upd, .flt, .cores, .sram, .free] pl = true) :
    OutParts pl z (execSwrst v s) := by
  unfold execSwrst
  repeat' first | (with_reducible first | assumption | rfl | intro _ | apply sb_rstCtlWrite | apply sb_ite | apply outSb_ite | apply outSb_next) | exact partsIn_trans hl rfl | split

theorem sb_execRecov {pl : List Part} {z : State} {v : Word} {s : State} (hk : sameBut pl z s) (hl : partsIn [.events, .glb, .mode, .clk, .fus, .cfg, .mpu, .fwl, .vlt, .cus, .can0, .can1, .voe, .eng, .pke, .rng, .hif, .spi0, .spi1, .flash, .tmp, .evr, .upd, .flt, .cores, .sram, .free] pl = true) :
    OutParts pl z (execRecov v s) := by
  unfold execRecov
  repeat' first | (with_reducible first | assumption | rfl | intro _ | apply sb_rstCtlWrite | apply sb_ite | apply outSb_ite | apply outSb_next) | exact partsIn_trans hl rfl | split

/-! ### Machine/Serial.lean -/

theorem sb_spi0Dma {pl : List Part} {z : State} {s : State} {o : FlashOp} (hk : sameBut pl z s) (hl : partsIn [.events, .mpu, .fwl, .spi0, .evr] pl = true) :
    sameBut pl z (spi0Dma s o) := by
  unfold spi0Dma
  repeat' first | (with_reducible first | assumption | rfl | intro _ | apply sb_blkSpi0 | apply sb_spi0End | apply sb_refuseAcc | apply sb_ite) | exact partsIn_trans hl rfl | split

theorem sb_spi0Retry {pl : List Part} {z : State} {s : State} (hk : sameBut pl z s) (hl : partsIn [.events, .mpu, .fwl, .spi0, .evr] pl = true) :
    sameBut pl z (spi0Retry s) := by
  unfold spi0Retry
  repeat' first | (with_reducible first | assumption | rfl | intro _ | apply sb_spi0Dma | apply sb_ite) | exact partsIn_trans hl rfl | split

theorem sb_spi0Go {pl : List Part} {z : State} {s : State} (hk : sameBut pl z s) (hl : partsIn [.events, .mpu, .fwl, .spi0, .evr] pl = true) :
    sameBut pl z (spi0Go s) := by
  unfold spi0Go
  try dsimp only
  repeat' first | (with_reducible first | assumption | rfl | intro _ | apply sb_blkSpi0 | apply sb_logOther | apply sb_spi0Dma | apply sb_ite) | exact partsIn_trans hl rfl | split

theorem sb_execSpi0Go {pl : List Part} {z : State} {s : State} (hk : sameBut pl z s) (hl : partsIn [.events, .mpu, .fwl, .spi0, .evr] pl = true) :
    OutParts pl z (execSpi0Go s) := by
  unfold execSpi0Go
  repeat' first | (with_reducible first | assumption | rfl | intro _ | apply sb_spi0Go | apply sb_onE | apply outSb_next) | exact partsIn_trans hl rfl | split

theorem sb_spi0Effect {pl : List Part} {z : State} {s : State} {o : FlashOp} (hk : sameBut pl z s) (hl : partsIn [.flash, .sram] pl = true) :
    sameBut pl z (spi0Effect s o) := by
  unfold spi0Effect
  dsimp only
  repeat' first | (with_reducible first | assumption | rfl | intro _ | apply sb_flashProgram | apply sb_sramWrite | apply sb_flashErase | apply sb_ite) | exact partsIn_trans hl rfl | split

theorem sb_execSpi0CmdEnd {pl : List Part} {z : State} {ok : Bool} {s : State} (hk : sameBut pl z s) (hl : partsIn [.spi0, .flash, .sram, .free] pl = true) :
    OutParts pl z (execSpi0CmdEnd ok s) := by
  unfold execSpi0CmdEnd
  repeat' first | (with_reducible first | assumption | rfl | intro _ | apply sb_spi0End | apply sb_spi0Effect | apply sb_tearProgram | apply sb_ite | apply outSb_ite | apply outSb_next) | exact partsIn_trans hl rfl | split

theorem sb_execSpi0Timeout {pl : List Part} {z : State} {s : State} (hk : sameBut pl z s) (hl : partsIn [.spi0, .flash, .sram, .free] pl = true) :
    OutParts pl z (execSpi0Timeout s) := by
  unfold execSpi0Timeout
  repeat' first | (with_reducible first | assumption | rfl | intro _ | apply sb_spi0Cut | apply sb_ite | apply outSb_ite | apply outSb_next) | exact partsIn_trans hl rfl | split

theorem sb_execSpi0Abort {pl : List Part} {z : State} {s : State} (hk : sameBut pl z s) (hl : partsIn [.events, .mpu, .fwl, .spi0, .flash, .evr, .sram, .free] pl = true) :
    OutParts pl z (execSpi0Abort s) := by
  unfold execSpi0Abort
  repeat' first | (with_reducible first | assumption | rfl | intro _ | apply sb_spi0Cut | apply sb_onE | apply outSb_next) | exact partsIn_trans hl rfl | split

theorem sb_execSpi1Tx {pl : List Part} {z : State} {v : Word} {s : State} (hk : sameBut pl z s) (hl : partsIn [.events, .mpu, .fwl, .spi1, .evr] pl = true) :
    OutParts pl z (execSpi1Tx v s) := by
  unfold execSpi1Tx
  repeat' first | (with_reducible first | assumption | rfl | intro _ | apply sb_blkSpi1 | apply sb_onE | apply sb_ite | apply outSb_ite | apply outSb_next) | exact partsIn_trans hl rfl | split

theorem sb_execSpi1WordComplete {pl : List Part} {z : State} {v : Word} {s : State} (hk : sameBut pl z s) (hl : partsIn [.spi1] pl = true) :
    OutParts pl z (execSpi1WordComplete v s) := by
  unfold execSpi1WordComplete
  repeat' first | (with_reducible first | assumption | rfl | intro _ | apply sb_blkSpi1 | apply sb_ite | apply outSb_ite | apply outSb_next) | exact partsIn_trans hl rfl | split

theorem sb_execSpi1SelectRelease {pl : List Part} {z : State} {n : Nat} {v : Word} {s : State} (hk : sameBut pl z s) (hl : partsIn [.spi1] pl = true) :
    OutParts pl z (execSpi1SelectRelease n v s) := by
  unfold execSpi1SelectRelease
  repeat' first | (with_reducible first | assumption | rfl | intro _ | apply sb_blkSpi1 | apply sb_ite | apply outSb_ite | apply outSb_next) | exact partsIn_trans hl rfl | split

theorem sb_execSpi1Rx {pl : List Part} {z : State} {s : State} (hk : sameBut pl z s) (hl : partsIn [.events, .mpu, .fwl, .spi1, .evr] pl = true) :
    OutParts pl z (execSpi1Rx s) := by
  unfold execSpi1Rx
  repeat' first | (with_reducible first | assumption | rfl | intro _ | apply sb_blkSpi1 | apply sb_onE | apply outSb_next) | exact partsIn_trans hl rfl | split

theorem sb_execSpi1SelectAssert {pl : List Part} {z : State} {s : State} (hk : sameBut pl z s) (hl : partsIn [.spi1] pl = true) :
    OutParts pl z (execSpi1SelectAssert s) := by
  unfold execSpi1SelectAssert
  repeat' first | (with_reducible first | assumption | rfl | intro _ | apply sb_blkSpi1 | apply sb_ite | apply outSb_ite | apply outSb_next) | exact partsIn_trans hl rfl | split

theorem sb_spi1Leave {pl : List Part} {z : State} {s : State} (hk : sameBut pl z s) (hl : partsIn [.spi1, .free] pl = true) :
    sameBut pl z (spi1Leave s) := by
  unfold spi1Leave
  try dsimp only
  repeat' first | (with_reducible first | assumption | rfl | intro _ | apply sb_blkSpi1 | apply sb_freeBytes_p | apply sb_ite) | exact partsIn_trans hl rfl | (refine sb_freeBytes ?_ (by with_reducible assumption) ?_) | split

theorem sb_spi1Watch {pl : List Part} {z : State} {s : State} (hk : sameBut pl z s) (hl : partsIn [.spi1, .free] pl = true) :
    sameBut pl z (spi1Watch s) := by
  unfold spi1Watch
  try dsimp only
  repeat' first | (with_reducible first | assumption | rfl | intro _ | apply sb_blkSpi1 | apply sb_spi1Leave | apply sb_ite) | exact partsIn_trans hl rfl | split

theorem sb_spi1Park {pl : List Part} {z : State} {s : State} (hk : sameBut pl z s) (hl : partsIn [.spi1, .free] pl = true) :
    sameBut pl z (spi1Park s) := by
  unfold spi1Park
  try dsimp only
  repeat' first | (with_reducible first | assumption | rfl | intro _ | apply sb_blkSpi1 | apply sb_spi1Leave | apply sb_ite) | exact partsIn_trans hl rfl | split

theorem sb_spi1Unpark {pl : List Part} {z : State} {s : State} (hk : sameBut pl z s) (hl : partsIn [.spi1, .free] pl = true) :
    sameBut pl z (spi1Unpark s) := by
  unfold spi1Unpark
  repeat' first | (with_reducible first | assumption | rfl | intro _ | apply sb_blkSpi1 | apply sb_spi1Watch | apply sb_ite) | exact partsIn_trans hl rfl | split

/-! ### Machine/Clocks.lean -/

theorem sb_onClk {pl : List Part} {z : State} {s : State} {f : Clk → Clk} (hk : sameBut pl z s) (hl : partsIn [.clk] pl = true) :
    sameBut pl z (onClk s f) := by
  unfold onClk
  repeat' first | (with_reducible first | assumption | rfl | intro _ | apply sb_blkClk) | exact partsIn_trans hl rfl | split

theorem sb_relockAccept {pl : List Part} {z : State} {s : State} {p : Pll} {x : Word} (hk : sameBut pl z s) (hl : partsIn [.events, .mode, .clk, .hif, .evr, .flt] pl = true) :
    sameBut pl z (relockAccept s p x) := by
  unfold relockAccept
  dsimp only
  repeat' first | (with_reducible first | assumption | rfl | intro _ | apply sb_dimCancel | apply sb_onClk | apply sb_announce | apply sb_ite) | exact partsIn_trans hl rfl | split

theorem sb_relockGo {pl : List Part} {z : State} {s : State} {p : Pll} (hk : sameBut pl z s) (hl : partsIn [.events, .mode, .clk, .mpu, .fwl, .hif, .evr, .flt] pl = true) :
    sameBut pl z (relockGo s p) := by
  unfold relockGo
  repeat' first | (with_reducible first | assumption | rfl | intro _ | apply sb_relockAccept | apply sb_refuseWrite | apply sb_ite) | exact partsIn_trans hl rfl | split

theorem sb_execRelockGoA {pl : List Part} {z : State} {s : State} (hk : sameBut pl z s) (hl : partsIn [.events, .mode, .clk, .mpu, .fwl, .hif, .evr, .flt] pl = true) :
    OutParts pl z (execRelockGoA s) := by
  unfold execRelockGoA
  repeat' first | (with_reducible first | assumption | rfl | intro _ | apply sb_relockGo | apply sb_ite | apply outSb_ite | apply outSb_next) | exact partsIn_trans hl rfl | split

theorem sb_execRelockGoB {pl : List Part} {z : State} {s : State} (hk : sameBut pl z s) (hl : partsIn [.events, .mode, .clk, .mpu, .fwl, .hif, .evr, .flt] pl = true) :
    OutParts pl z (execRelockGoB s) := by
  unfold execRelockGoB
  repeat' first | (with_reducible first | assumption | rfl | intro _ | apply sb_relockGo | apply sb_ite | apply outSb_ite | apply outSb_next) | exact partsIn_trans hl rfl | split

theorem sb_parkBoth {pl : List Part} {z : State} {s : State} (hk : sameBut pl z s) (hl : partsIn [.can0, .can1] pl = true) :
    sameBut pl z (parkBoth s) := by
  unfold parkBoth
  repeat' first | (with_reducible first | assumption | rfl | intro _ | apply sb_blkCan0 | apply sb_blkCan1) | exact partsIn_trans hl rfl | split

theorem sb_startPll {pl : List Part} {z : State} {s : State} {p : Pll} (hk : sameBut pl z s) (hl : partsIn [.clk, .can0, .can1] pl = true) :
    sameBut pl z (startPll s p) := by
  unfold startPll
  try dsimp only
  repeat' first | (with_reducible first | assumption | rfl | intro _ | apply sb_onClk | apply sb_parkBoth | apply sb_ite) | exact partsIn_trans hl rfl | split

theorem sb_execRelockStart {pl : List Part} {z : State} {s : State} (hk : sameBut pl z s) (hl : partsIn [.clk, .can0, .can1] pl = true) :
    OutParts pl z (execRelockStart s) := by
  unfold execRelockStart
  repeat' first | (with_reducible first | assumption | rfl | intro _ | apply sb_startPll | apply sb_onClk | apply sb_ite | apply outSb_ite | apply outSb_next) | exact partsIn_trans hl rfl | split

theorem sb_holdClear {pl : List Part} {z : State} {s : State} (hk : sameBut pl z s) (hl : partsIn [.events, .mode, .clk, .spi1, .tmp, .evr, .free] pl = true) :
    sameBut pl z (holdClear s) := by
  unfold holdClear
  try dsimp only
  repeat' first | (with_reducible first | assumption | rfl | intro _ | apply sb_blkMode | apply sb_alarmClear | apply sb_onClk | apply sb_spi1Unpark | apply sb_ite) | exact partsIn_trans hl rfl | split

theorem sb_execRelockLockShown {pl : List Part} {z : State} {p : Pll} {s : State} (hk : sameBut pl z s) (hl : partsIn [.events, .mode, .clk, .spi1, .tmp, .evr, .free] pl = true) :
    OutParts pl z (execRelockLockShown p s) := by
  unfold execRelockLockShown
  try dsimp only
  repeat' first | (with_reducible first | assumption | rfl | intro _ | apply sb_holdClear | apply sb_onClk | apply sb_ite | apply outSb_ite | apply outSb_next) | exact partsIn_trans hl rfl | split

theorem sb_execRampStep {pl : List Part} {z : State} {p : Pll} {s : State} (hk : sameBut pl z s) (hl : partsIn [.clk] pl = true) :
    OutParts pl z (execRampStep p s) := by
  unfold execRampStep
  try dsimp only
  repeat' first | (with_reducible first | assumption | rfl | intro _ | apply sb_onClk | apply sb_ite | apply outSb_ite | apply outSb_next) | exact partsIn_trans hl rfl | split

theorem sb_lossPark {pl : List Part} {z : State} {s : State} (hk : sameBut pl z s) (hl : partsIn [.events, .can0, .can1, .spi0, .spi1, .flash, .tmp, .evr, .sram, .free] pl = true) :
    sameBut pl z (lossPark s) := by
  unfold lossPark
  try dsimp only
  repeat' first | (with_reducible first | assumption | rfl | intro _ | apply sb_alarmSet | apply sb_spi0Cut | apply sb_spi1Park | apply sb_parkBoth | apply sb_ite) | exact partsIn_trans hl rfl | split

theorem sb_lossStop {pl : List Part} {z : State} {s : State} (hk : sameBut pl z s) (hl : partsIn [.events, .mode, .cus, .eng, .pke, .rng, .hif, .evr, .flt, .cores, .sram, .free] pl = true) :
    sameBut pl z (lossStop s) := by
  unfold lossStop
  try dsimp only
  repeat' first | (with_reducible first | assumption | rfl | intro _ | apply sb_blkMode | apply sb_onRng | apply sb_abortEngines | apply sb_abortCommands | apply sb_abortTrips | apply sb_wakeTrigger | apply sb_ite) | exact partsIn_trans hl rfl | split

theorem sb_lossActions {pl : List Part} {z : State} {s : State} (hk : sameBut pl z s) (hl : partsIn [.events, .mode, .cus, .can0, .can1, .eng, .pke, .rng, .hif, .spi0, .spi1, .flash, .tmp, .evr, .flt, .cores, .sram, .free] pl = true) :
    sameBut pl z (lossActions s) := by
  unfold lossActions
  dsimp only
  repeat' first | (with_reducible first | assumption | rfl | intro _ | apply sb_logSD | apply sb_lossStop | apply sb_lossPark) | exact partsIn_trans hl rfl | split

theorem sb_execRelockFail {pl : List Part} {z : State} {p : Pll} {s : State} (hk : sameBut pl z s) (hl : partsIn [.events, .mode, .clk, .cus, .can0, .can1, .eng, .pke, .rng, .hif, .spi0, .spi1, .flash, .tmp, .evr, .flt, .cores, .sram, .free] pl = true) :
    OutParts pl z (execRelockFail p s) := by
  unfold execRelockFail
  try dsimp only
  repeat' first | (with_reducible first | assumption | rfl | intro _ | apply sb_lossActions | apply sb_onClk | apply sb_ite | apply outSb_ite | apply outSb_next) | exact partsIn_trans hl rfl | split

theorem sb_execLossOfLock {pl : List Part} {z : State} {a b : Bool} {s : State} (hk : sameBut pl z s) (hl : partsIn [.events, .mode, .clk, .cus, .can0, .can1, .eng, .pke, .rng, .hif, .spi0, .spi1, .flash, .tmp, .evr, .flt, .cores, .sram, .free] pl = true) :
    OutParts pl z (execLossOfLock a b s) := by
  unfold execLossOfLock
  try dsimp only
  repeat' first | (with_reducible first | assumption | rfl | intro _ | apply sb_lossActions | apply sb_onClk | apply sb_ite | apply outSb_ite | apply outSb_next) | exact partsIn_trans hl rfl | split

theorem sb_execDegrade {pl : List Part} {z : State} {s : State} (hk : sameBut pl z s) (hl : partsIn [.clk] pl = true) :
    OutParts pl z (execDegrade s) := by
  unfold execDegrade
  repeat' first | (with_reducible first | assumption | rfl | intro _ | apply sb_onClk | apply sb_ite | apply outSb_ite | apply outSb_next) | exact partsIn_trans hl rfl | split

theorem sb_execXaLost {pl : List Part} {z : State} {s : State} (hk : sameBut pl z s) (hl : partsIn [.events, .glb, .mode, .clk, .cus, .can0, .can1, .eng, .pke, .rng, .hif, .spi0, .spi1, .flash, .tmp, .evr, .flt, .cores, .sram, .free] pl = true) :
    OutParts pl z (execXaLost s) := by
  unfold execXaLost
  try dsimp only
  repeat' first | (with_reducible first | assumption | rfl | intro _ | apply sb_onClk | apply sb_lossActions | apply sb_ite | apply outSb_ite | apply outSb_next) | refine sb_blkGlb ?_ ⟨rfl, rfl, rfl, rfl, rfl⟩ ?_ | refine sb_blkEv ?_ rfl ?_ | apply sb_blkGlbE | exact partsIn_trans hl rfl | split

theorem sb_execXaFreqCheck {pl : List Part} {z : State} {n : Nat} {s : State} (hk : sameBut pl z s) (hl : partsIn [.glb, .clk] pl = true) :
    OutParts pl z (execXaFreqCheck n s) := by
  unfold execXaFreqCheck
  try dsimp only
  repeat' first | (with_reducible first | assumption | rfl | intro _ | apply sb_onClk | apply sb_ite | apply outSb_ite | apply outSb_next) | refine sb_blkGlb ?_ ⟨rfl, rfl, rfl, rfl, rfl⟩ ?_ | refine sb_blkEv ?_ rfl ?_ | apply sb_blkGlbE | exact partsIn_trans hl rfl | split

theorem sb_execXbCheck {pl : List Part} {z : State} {n : Nat} {s : State} (hk : sameBut pl z s) (hl : partsIn [.clk, .tmp] pl = true) :
    OutParts pl z (execXbCheck n s) := by
  unfold execXbCheck
  dsimp only
  repeat' first | (with_reducible first | assumption | rfl | intro _ | apply sb_blkTmp | apply sb_onClk | apply sb_ite | apply outSb_ite | apply outSb_next) | exact partsIn_trans hl rfl | split

theorem sb_execXbLost {pl : List Part} {z : State} {s : State} (hk : sameBut pl z s) (hl : partsIn [.events, .tmp, .evr] pl = true) :
    OutParts pl z (execXbLost s) := by
  unfold execXbLost
  repeat' first | (with_reducible first | assumption | rfl | intro _ | apply sb_blkTmp | apply sb_logS | apply sb_ite | apply outSb_ite | apply outSb_next) | exact partsIn_trans hl rfl | split

theorem sb_trimStep {pl : List Part} {z : State} {s : State} {m : Option (Nat × Nat)} (hk : sameBut pl z s) (hl : partsIn [.clk] pl = true) :
    sameBut pl z (trimStep s m) := by
  unfold trimStep
  try dsimp only
  repeat' first | (with_reducible first | assumption | rfl | intro _ | apply sb_onClk | apply sb_ite) | exact partsIn_trans hl rfl | split

theorem sb_holdAttempts {pl : List Part} {z : State} {s : State} (hk : sameBut pl z s) (hl : partsIn [.clk] pl = true) :
    sameBut pl z (holdAttempts s) := by
  unfold holdAttempts
  try dsimp only
  repeat' first | (with_reducible first | assumption | rfl | intro _ | apply sb_onClk | apply sb_ite) | exact partsIn_trans hl rfl | split

/-! ### Machine/Can.lean -/

theorem sb_onCan {pl : List Part} {z : State} {s : State} {ch : Nat} {f : CanCh → CanCh} (hk : sameBut pl z s) (hl : partsIn [.can0, .can1] pl = true) :
    sameBut pl z (onCan s ch f) := by
  unfold onCan
  repeat' first | (with_reducible first | assumption | rfl | intro _ | apply sb_setCan) | exact partsIn_trans hl rfl | split

theorem sb_canMode {pl : List Part} {z : State} {s : State} {ch m : Nat} (hk : sameBut pl z s) (hl : partsIn [.events, .mpu, .fwl, .can0, .can1, .evr] pl = true) :
    sameBut pl z (canMode s ch m) := by
  unfold canMode
  dsimp only
  repeat' first | (with_reducible first | assumption | rfl | intro _ | apply sb_refuseWrite | apply sb_setCan | apply sb_ite) | exact partsIn_trans hl rfl | split

theorem sb_execCanMode {pl : List Part} {z : State} {ch m : Nat} {s : State} (hk : sameBut pl z s) (hl : partsIn [.events, .mpu, .fwl, .can0, .can1, .evr] pl = true) :
    OutParts pl z (execCanMode ch m s) := by
  unfold execCanMode
  repeat' first | (with_reducible first | assumption | rfl | intro _ | apply sb_canMode | apply sb_onE | apply sb_pickTx | apply outSb_next) | exact partsIn_trans hl rfl | split

theorem sb_startHello {pl : List Part} {z : State} {s : State} {ch : Nat} (hk : sameBut pl z s) (hl : partsIn [.can0, .can1, .voe, .eng, .rng] pl = true) :
    sameBut pl z (startHello s ch) := by
  unfold startHello
  repeat' first | (with_reducible first | assumption | rfl | intro _ | apply sb_sendHello) | exact partsIn_trans hl rfl | split

theorem sb_execBusIntegration {pl : List Part} {z : State} {ch : Nat} {s : State} (hk : sameBut pl z s) (hl : partsIn [.can0, .can1, .voe, .eng, .rng] pl = true) :
    OutParts pl z (execBusIntegration ch s) := by
  unfold execBusIntegration
  dsimp only
  repeat' first | (with_reducible first | assumption | rfl | intro _ | apply sb_pickTx | apply sb_setCan | apply sb_startHello | apply sb_ite | apply outSb_ite | apply outSb_next) | exact partsIn_trans hl rfl | split

theorem sb_execTxreq {pl : List Part} {z : State} {ch : Nat} {m : Byte} {s : State} (hk : sameBut pl z s) (hl : partsIn [.events, .mpu, .fwl, .can0, .can1, .evr] pl = true) :
    OutParts pl z (execTxreq ch m s) := by
  unfold execTxreq
  try dsimp only
  repeat' first | (with_reducible first | assumption | rfl | intro _ | apply sb_onE | apply sb_pickTx | apply sb_onCan | apply sb_ite | apply outSb_ite | apply outSb_next) | exact partsIn_trans hl rfl | split

theorem sb_execTxabort {pl : List Part} {z : State} {ch : Nat} {m : Byte} {s : State} (hk : sameBut pl z s) (hl : partsIn [.events, .mpu, .fwl, .can0, .can1, .evr] pl = true) :
    OutParts pl z (execTxabort ch m s) := by
  unfold execTxabort
  repeat' first | (with_reducible first | assumption | rfl | intro _ | apply sb_onE | apply sb_onCan | apply outSb_next) | exact partsIn_trans hl rfl | split

theorem sb_execBorReq {pl : List Part} {z : State} {ch : Nat} {s : State} (hk : sameBut pl z s) (hl : partsIn [.events, .mpu, .fwl, .can0, .can1, .evr] pl = true) :
    OutParts pl z (execBorReq ch s) := by
  unfold execBorReq
  repeat' first | (with_reducible first | assumption | rfl | intro _ | apply sb_onCan | apply sb_onE | apply sb_ite | apply outSb_ite | apply outSb_next) | exact partsIn_trans hl rfl | split

theorem sb_execRxpop {pl : List Part} {z : State} {ch : Nat} {s : State} (hk : sameBut pl z s) (hl : partsIn [.events, .mpu, .fwl, .can0, .can1, .evr, .cores] pl = true) :
    OutParts pl z (execRxpop ch s) := by
  unfold execRxpop
  try dsimp only
  repeat' first | (with_reducible first | assumption | rfl | intro _ | apply sb_onE | apply sb_canIrq | apply sb_onCan | apply sb_ite | apply outSb_ite | apply outSb_next) | exact partsIn_trans hl rfl | split

theorem sb_recGood {pl : List Part} {z : State} {s : State} {ch : Nat} (hk : sameBut pl z s) (hl : partsIn [.can0, .can1, .free] pl = true) :
    sameBut pl z (recGood s ch) := by
  unfold recGood
  dsimp only
  repeat' first | (with_reducible first | assumption | rfl | intro _ | apply sb_setCan | apply sb_freeBytes_p | apply sb_ite) | exact partsIn_trans hl rfl | (refine sb_freeBytes ?_ (by with_reducible assumption) ?_) | split

theorem sb_tecUp {pl : List Part} {z : State} {s : State} {ch n : Nat} (hk : sameBut pl z s) (hl : partsIn [.events, .can0, .can1, .evr] pl = true) :
    sameBut pl z (tecUp s ch n) := by
  unfold tecUp
  try dsimp only
  repeat' first | (with_reducible first | assumption | rfl | intro _ | apply sb_logD | apply sb_setCan | apply sb_ite) | exact partsIn_trans hl rfl | split

theorem sb_execReceiveError {pl : List Part} {z : State} {ch n : Nat} {s : State} (hk : sameBut pl z s) (hl : partsIn [.can0, .can1] pl = true) :
    OutParts pl z (execReceiveError ch n s) := by
  unfold execReceiveError
  dsimp only
  repeat' first | (with_reducible first | assumption | rfl | intro _ | apply sb_setCan | apply sb_ite | apply outSb_ite | apply outSb_next) | exact partsIn_trans hl rfl | split

theorem sb_execBusOffRecovery {pl : List Part} {z : State} {ch : Nat} {s : State} (hk : sameBut pl z s) (hl : partsIn [.events, .can0, .can1, .evr] pl = true) :
    OutParts pl z (execBusOffRecovery ch s) := by
  unfold execBusOffRecovery
  dsimp only
  repeat' first | (with_reducible first | assumption | rfl | intro _ | apply sb_pickTx | apply sb_setCan | apply sb_logD | apply sb_ite | apply outSb_ite | apply outSb_next) | exact partsIn_trans hl rfl | split

theorem sb_canFlush {pl : List Part} {z : State} {s : State} {ch : Nat} (hk : sameBut pl z s) (hl : partsIn [.can0, .can1, .flt] pl = true) :
    sameBut pl z (canFlush s ch) := by
  unfold canFlush
  dsimp only
  repeat' first | (with_reducible first | assumption | rfl | intro _ | apply sb_blkFlt | apply sb_onCan | apply sb_foldl) | exact partsIn_trans hl rfl | split

theorem sb_rxDeliver {pl : List Part} {z : State} {s : State} {ch : Nat} {e : RxEnt} (hk : sameBut pl z s) (hl : partsIn [.events, .can0, .can1, .evr, .flt] pl = true) :
    sameBut pl z (rxDeliver s ch e) := by
  unfold rxDeliver
  try dsimp only
  repeat' first | (with_reducible first | assumption | rfl | intro _ | apply sb_blkFlt | apply sb_canFlush | apply sb_onCan | apply sb_fltCount | apply sb_ite) | exact partsIn_trans hl rfl | split

theorem sb_rxConflict {pl : List Part} {z : State} {s : State} {ch : Nat} {f : CanFrame} (hk : sameBut pl z s) (hl : partsIn [.events, .can1, .evr] pl = true) :
    sameBut pl z (rxConflict s ch f) := by
  unfold rxConflict
  repeat' first | (with_reducible first | assumption | rfl | intro _ | apply sb_blkCan1 | apply sb_logS | apply sb_ite) | exact partsIn_trans hl rfl | split

theorem sb_rxFilter {pl : List Part} {z : State} {s : State} {ch : Nat} {e : RxEnt} (hk : sameBut pl z s) (hl : partsIn [.events, .can0, .can1, .evr, .flt] pl = true) :
    sameBut pl z (rxFilter s ch e) := by
  unfold rxFilter
  repeat' first | (with_reducible first | assumption | rfl | intro _ | apply sb_onCan | apply sb_rxDeliver | apply sb_ite) | exact partsIn_trans hl rfl | split

theorem sb_txOk {pl : List Part} {z : State} {s : State} {ch b : Nat} (hk : sameBut pl z s) (hl : partsIn [.events, .can0, .can1, .voe, .hif, .evr, .flt] pl = true) :
    sameBut pl z (txOk s ch b) := by
  unfold txOk
  dsimp only
  repeat' first | (with_reducible first | assumption | rfl | intro _ | apply sb_rxFilter | apply sb_setCan | apply sb_voeSent | apply sb_ite) | exact partsIn_trans hl rfl | split

theorem sb_txFailed {pl : List Part} {z : State} {s : State} {ch b : Nat} {other : Bool} (hk : sameBut pl z s) (hl : partsIn [.events, .cus, .can0, .can1, .voe, .hif, .evr, .flt] pl = true) :
    sameBut pl z (txFailed s ch b other) := by
  unfold txFailed
  dsimp only
  repeat' first | (with_reducible first | assumption | rfl | intro _ | apply sb_setCan | apply sb_voeNoAck | apply sb_ite) | exact partsIn_trans hl rfl | split

theorem sb_txLost {pl : List Part} {z : State} {s : State} {ch b : Nat} (hk : sameBut pl z s) (hl : partsIn [.can0, .can1] pl = true) :
    sameBut pl z (txLost s ch b) := by
  unfold txLost
  dsimp only
  repeat' first | (with_reducible first | assumption | rfl | intro _ | apply sb_onCan | apply sb_ite) | exact partsIn_trans hl rfl | split

theorem sb_txNoAck {pl : List Part} {z : State} {s : State} {ch : Nat} (hk : sameBut pl z s) (hl : partsIn [.events, .can0, .can1, .evr] pl = true) :
    sameBut pl z (txNoAck s ch) := by
  unfold txNoAck
  repeat' first | (with_reducible first | assumption | rfl | intro _ | apply sb_tecUp | apply sb_ite) | exact partsIn_trans hl rfl | split

theorem sb_txStamp {pl : List Part} {z : State} {s : State} {ch sof : Nat} (hk : sameBut pl z s) (hl : partsIn [.can0, .can1] pl = true) :
    sameBut pl z (txStamp s ch sof) := by
  unfold txStamp
  try dsimp only
  repeat' first | (with_reducible first | assumption | rfl | intro _ | apply sb_onCan | apply sb_ite) | exact partsIn_trans hl rfl | split

theorem sb_lostAttempt {pl : List Part} {z : State} {s : State} {ch : Nat} (hk : sameBut pl z s) (hl : partsIn [.can0, .can1] pl = true) :
    sameBut pl z (lostAttempt s ch) := by
  unfold lostAttempt
  try dsimp only
  repeat' first | (with_reducible first | assumption | rfl | intro _ | apply sb_txLost | apply sb_onCan | apply sb_ite) | exact partsIn_trans hl rfl | split

theorem sb_frameOver {pl : List Part} {z : State} {s : State} {ch : Nat} (hk : sameBut pl z s) (hl : partsIn [.can0, .can1, .voe] pl = true) :
    sameBut pl z (frameOver s ch) := by
  unfold frameOver
  try dsimp only
  repeat' first | (with_reducible first | assumption | rfl | intro _ | apply sb_onCan | apply sb_pickTx | apply sb_drainOut | apply sb_ite) | exact partsIn_trans hl rfl | split

theorem sb_execFrameReceived {pl : List Part} {z : State} {ch : Nat} {f : CanFrame} {sof : Nat} {s : State} (hk : sameBut pl z s) (hl : partsIn [.events, .mode, .can0, .can1, .voe, .rng, .evr, .flt, .cores, .free] pl = true) :
    OutParts pl z (execFrameReceived ch f sof s) := by
  unfold execFrameReceived
  try dsimp only
  repeat' first | (with_reducible first | assumption | rfl | intro _ | apply sb_lostAttempt | apply sb_txStamp | apply sb_recGood | apply sb_onCan | apply sb_rxConflict | apply sb_canIrq | apply sb_rxFilter | apply sb_wakeTrigger | apply sb_frameOver | apply sb_ite | apply outSb_ite | apply outSb_next) | exact partsIn_trans hl rfl | split

theorem sb_execFrameTxEnd {pl : List Part} {z : State} {ch : Nat} {e : TxEnd} {sof : Nat} {s : State} (hk : sameBut pl z s) (hl : partsIn [.events, .cus, .can0, .can1, .voe, .hif, .evr, .flt, .cores] pl = true) :
    OutParts pl z (execFrameTxEnd ch e sof s) := by
  unfold execFrameTxEnd
  try dsimp only
  repeat' first | (with_reducible first | assumption | rfl | intro _ | apply sb_onCan | apply sb_txStamp | apply sb_canIrq | apply sb_txOk | apply sb_txFailed | apply sb_txNoAck | apply sb_tecUp | apply sb_txLost | apply sb_frameOver | apply sb_ite | apply outSb_ite | apply outSb_next) | exact partsIn_trans hl rfl | split

end Sys2Proof.Machine
end

