-- ==== Sys2Proof/Laws/SameUpdate.lean ====
section
/-! SUPPORT. Which parts of State each operation may change: Update. -/
namespace Sys2Proof.Machine

/-! ### Machine/Layer.lean -/

theorem sb_putBudgets {pl : List Part} {z s : State} {b : List Bud} (h : sameBut pl z s) (hb : budOk b = true) (hl : partsIn [.glb] pl = true) : sameBut pl z (putBudgets s b) :=
  sb_blkGlb h ⟨rfl, rfl, rfl, rfl, rfl⟩ hl

theorem sb_putBcnCfg {pl : List Part} {z : State} {s : State} {w : Word} (hk : sameBut pl z s) (hl : partsIn [.glb] pl = true) :
    sameBut pl z (putBcnCfg s w) := by
  unfold putBcnCfg
  dsimp only
  repeat' first | (with_reducible first | assumption | rfl | intro _ | apply sb_ite) | refine sb_blkGlb ?_ ⟨rfl, rfl, rfl, rfl, rfl⟩ ?_ | refine sb_blkEv ?_ rfl ?_ | apply sb_blkGlbE | exact partsIn_trans hl rfl | split

theorem sb_putPll {pl : List Part} {z : State} {s : State} {v : Bytes} (hk : sameBut pl z s) (hl : partsIn [.clk] pl = true) :
    sameBut pl z (putPll s v) := by
  unfold putPll
  try dsimp only
  repeat' first | (with_reducible first | assumption | rfl | intro _ | apply sb_onClk | apply sb_ite) | exact partsIn_trans hl rfl | split

theorem sb_putTamperParam {pl : List Part} {z : State} {s : State} {v : Bytes} (hk : sameBut pl z s) (hl : partsIn [.tmp] pl = true) :
    sameBut pl z (putTamperParam s v) := by
  unfold putTamperParam
  try dsimp only
  repeat' first | (with_reducible first | assumption | rfl | intro _ | apply sb_blkTmp | apply sb_ite) | exact partsIn_trans hl rfl | split

theorem sb_putDefault {pl : List Part} {z : State} {s : State} {t : Nat} (hk : sameBut pl z s) (hl : partsIn [.tmp] pl = true) :
    sameBut pl z (putDefault s t) := by
  unfold putDefault
  try dsimp only
  repeat' first | (with_reducible first | assumption | rfl | intro _ | apply sb_blkTmp | apply sb_ite) | exact partsIn_trans hl rfl | split

theorem sb_putField {pl : List Part} {z s : State} {t : Nat} {v : Bytes} (h : sameBut pl z s) (ok : t ≠ 4 ∨ fieldOk s t v = true) (hl : partsIn [.glb, .mode, .clk, .cfg, .can0, .can1, .pke, .spi0, .tmp] pl = true) :
    sameBut pl z (putField s t v) := by
  unfold putField
  dsimp only
  split
  · exact sb_putPll h (partsIn_trans hl rfl)
  · exact sb_putBcnCfg h (partsIn_trans hl rfl)
  · exact sb_onClk h (partsIn_trans hl rfl)
  · rcases ok with ok | ok
    · exact absurd rfl ok
    · exact sb_putBudgets h ok (partsIn_trans hl rfl)
  · exact sb_blkGlb h ⟨rfl, rfl, rfl, rfl, rfl⟩ (partsIn_trans hl rfl)
  · exact sb_blkMode h (partsIn_trans hl rfl)
  · exact sb_blkMode h (partsIn_trans hl rfl)
  · exact sb_blkSpi0 h (partsIn_trans hl rfl)
  · exact sb_blkCfg h (partsIn_trans hl rfl)
  · exact sb_blkCfg h (partsIn_trans hl rfl)
  · exact sb_blkTmp h (partsIn_trans hl rfl)
  · exact sb_putTamperParam h (partsIn_trans hl rfl)
  · exact sb_blkCan0 h (partsIn_trans hl rfl)
  · exact sb_blkCan1 h (partsIn_trans hl rfl)
  · exact sb_blkPke h (partsIn_trans hl rfl)
  · exact sb_blkCfg h (partsIn_trans hl rfl)
  · exact h

theorem sb_noteSrc {pl : List Part} {z : State} {s : State} {t src : Nat} (hk : sameBut pl z s) (hl : partsIn [.cfg] pl = true) :
    sameBut pl z (noteSrc s t src) := by
  unfold noteSrc
  repeat' first | (with_reducible first | assumption | rfl | intro _ | apply sb_blkCfg) | exact partsIn_trans hl rfl | split

theorem sb_settle {pl : List Part} {z s : State} {t : Nat} {iv : Option Bytes} (h : sameBut pl z s) (hl : partsIn [.events, .glb, .mode, .clk, .cfg, .can0, .can1, .pke, .spi0, .tmp, .evr] pl = true) : sameBut pl z (settle s t iv) := by
  have img : ∀ (locked : Bool) (s : State), sameBut pl z s → sameBut pl z (match iv with
      | none => putDefault s t
      | some v =>
        if locked = true then s
        else if fieldOk s t v = true then noteSrc (putField s t v) t 2
        else logOther (putDefault (s.setCfg { s.cfg with range := true }) t) .cfg (leBytes 8 t)) := by
    intro locked s h
    split
    · exact sb_putDefault h (partsIn_trans hl rfl)
    · split
      · exact h
      · split
        · exact sb_noteSrc (sb_putField h (.inr ‹_›) (partsIn_trans hl rfl)) (partsIn_trans hl rfl)
        · exact sb_logOther (sb_putDefault (sb_blkCfg h (partsIn_trans hl rfl)) (partsIn_trans hl rfl)) (partsIn_trans hl rfl)
  unfold settle
  split
  · exact sb_noteSrc (sb_blkCfg h (partsIn_trans hl rfl)) (partsIn_trans hl rfl)
  · cases ho : ovrWord s t with
    | none => exact img _ _ h
    | some w =>
      have ht : t ≠ 4 := by
        intro e
        subst e
        exact absurd ho (by simp [ovrWord, overridable])
      exact img _ _ (sb_noteSrc (sb_putField h (.inl ht) (partsIn_trans hl rfl)) (partsIn_trans hl rfl))

theorem sb_layerAll {pl : List Part} {z : State} {s : State} {im : List (Nat × Bytes)} (hk : sameBut pl z s) (hl : partsIn [.events, .glb, .mode, .clk, .cfg, .can0, .can1, .voe, .pke, .rng, .spi0, .tmp, .snf, .evr] pl = true) :
    sameBut pl z (layerAll s im) := by
  unfold layerAll
  dsimp only
  repeat' first | (with_reducible first | assumption | rfl | intro _ | apply sb_respAct | apply sb_settle | apply sb_foldl) | exact partsIn_trans hl rfl | split

theorem sb_cfgK3 {pl : List Part} {z : State} {s : State} (hk : sameBut pl z s) (hl : partsIn [.clk, .cfg] pl = true) :
    sameBut pl z (cfgK3 s) := by
  unfold cfgK3
  repeat' first | (with_reducible first | assumption | rfl | intro _ | apply sb_blkCfg | apply sb_onClk) | exact partsIn_trans hl rfl | split

theorem sb_cfgK7 {pl : List Part} {z : State} {s : State} (hk : sameBut pl z s) (hl : partsIn [.events, .glb, .mode, .clk, .cfg, .can0, .can1, .voe, .pke, .rng, .spi0, .tmp, .snf, .evr] pl = true) :
    sameBut pl z (cfgK7 s) := by
  unfold cfgK7
  dsimp only
  repeat' first | (with_reducible first | assumption | rfl | intro _ | apply sb_blkCfg | apply sb_layerAll | apply sb_logOther | apply sb_ite | apply optSb_getD) | exact partsIn_trans hl rfl | split

/-! ### Machine/Images.lean -/

theorem sb_slotErase {pl : List Part} {z : State} {s : State} {kind slot : Nat} (hk : sameBut pl z s) (hl : partsIn [.flash] pl = true) :
    sameBut pl z (slotErase s kind slot) := by
  unfold slotErase
  repeat' first | (with_reducible first | assumption | rfl | intro _ | apply sb_flashErase) | exact partsIn_trans hl rfl | split

theorem sb_slotWrite {pl : List Part} {z : State} {s : State} {dur : Bytes} {kind slot gen : Nat} {iv img : Bytes} (hk : sameBut pl z s) (hl : partsIn [.flash] pl = true) :
    sameBut pl z (slotWrite s dur kind slot gen iv img) := by
  unfold slotWrite
  dsimp only
  repeat' first | (with_reducible first | assumption | rfl | intro _ | apply sb_slotErase | apply sb_flashProgram) | exact partsIn_trans hl rfl | split

theorem sb_recWrite {pl : List Part} {z : State} {s : State} {sf pr flags schema : Nat} (hk : sameBut pl z s) (hl : partsIn [.flash] pl = true) :
    sameBut pl z (recWrite s sf pr flags schema) := by
  unfold recWrite
  dsimp only
  repeat' first | (with_reducible first | assumption | rfl | intro _ | apply sb_flashProgram | apply sb_flashErase | apply sb_ite) | exact partsIn_trans hl rfl | split

theorem sb_loadCode {pl : List Part} {z : State} {s : State} {kind : Nat} {b : Bytes} (hk : sameBut pl z s) (hl : partsIn [.sram] pl = true) :
    sameBut pl z (loadCode s kind b) := by
  unfold loadCode
  repeat' first | (with_reducible first | assumption | rfl | intro _ | apply sb_sramWrite) | exact partsIn_trans hl rfl | split

theorem sb_pairRun {pl : List Part} {z : State} {s : State} {f p : Img} (hk : sameBut pl z s) (hl : partsIn [.mode, .upd] pl = true) :
    sameBut pl z (pairRun s f p) := by
  unfold pairRun
  repeat' first | (with_reducible first | assumption | rfl | intro _ | apply sb_blkMode | apply sb_blkUpd) | exact partsIn_trans hl rfl | split

theorem sb_tryPairs {pl : List Part} {z : State} {s : State} {l : List ActRec} (h : sameBut pl z s) (hl : partsIn [.mode, .upd, .sram] pl = true) : sameBut pl z (tryPairs s l) := by
  induction l generalizing s with
  | nil => exact h
  | cons r t ih =>
    unfold tryPairs
    split
    · exact ih (sb_blkUpd h (partsIn_trans hl rfl))
    · exact sb_pairRun (sb_loadCode (sb_loadCode h (partsIn_trans hl rfl)) (partsIn_trans hl rfl)) (partsIn_trans hl rfl)

theorem sb_heldPair {pl : List Part} {z : State} {s : State} {f p : Img} (hk : sameBut pl z s) (hl : partsIn [.mode, .upd] pl = true) :
    sameBut pl z (heldPair s f p) := by
  unfold heldPair
  dsimp only
  repeat' first | (with_reducible first | assumption | rfl | intro _ | apply sb_pairRun | apply sb_ite) | exact partsIn_trans hl rfl | split

theorem sb_kindleK9 {pl : List Part} {z : State} {s : State} (hk : sameBut pl z s) (hl : partsIn [.mode, .upd, .sram] pl = true) :
    sameBut pl z (kindleK9 s) := by
  unfold kindleK9
  dsimp only
  repeat' first | (with_reducible first | assumption | rfl | intro _ | apply sb_blkUpd | apply sb_heldPair | apply sb_tryPairs | apply sb_ite) | exact partsIn_trans hl rfl | split

theorem sb_rbcOwed {pl : List Part} {z : State} {s : State} (hk : sameBut pl z s) (hl : partsIn [.upd] pl = true) :
    sameBut pl z (rbcOwed s) := by
  unfold rbcOwed
  repeat' first | (with_reducible first | assumption | rfl | intro _ | apply sb_blkUpd | apply sb_ite) | exact partsIn_trans hl rfl | split

theorem sb_rbcRaise {pl : List Part} {z : State} {s : State} (hk : sameBut pl z s) (hl : partsIn [.events, .fus, .cus, .can0, .can1, .voe, .hif, .evr, .upd, .flt, .free] pl = true) :
    sameBut pl z (rbcRaise s) := by
  unfold rbcRaise
  try dsimp only
  repeat' first | (with_reducible first | assumption | rfl | intro _ | apply sb_blkUpd | apply sb_logOtherS | apply sb_rbcOwed | apply sb_freeBytes_p | apply sb_blowRun_p | apply sb_onFus | apply sb_ite) | exact partsIn_trans hl rfl | (refine sb_freeBytes ?_ (by with_reducible assumption) ?_) | (refine sb_blowRun ?_ (by with_reducible assumption) ?_) | split

/-! ### Machine/CmdUpdate.lean -/

theorem sb_stageBeginCmd {pl : List Part} {z : State} {s : State} {_fn : Nat} {d : Bytes} {_io : CmdIo} (hk : sameBut pl z s) (hl : partsIn [.flash, .upd] pl = true) :
    AnsParts pl z (stageBeginCmd s _fn d _io) := by
  unfold stageBeginCmd
  dsimp only
  repeat' first | (with_reducible first | assumption | rfl | intro _ | apply sb_blkUpd | apply sb_slotErase | apply sb_ite | apply ansSb_ite | apply sb_Ans.bad | apply sb_Ans.denied | apply sb_id) | exact partsIn_trans hl rfl | split | with_reducible apply ansSb_mk | with_reducible apply AnsParts.st | with_reducible apply AnsParts.after

theorem sb_stageCode {pl : List Part} {z : State} {s : State} {g : Staging} {a : Nat} (hk : sameBut pl z s) (hl : partsIn [.sram] pl = true) :
    sameBut pl z (stageCode s g a) := by
  unfold stageCode
  dsimp only
  repeat' first | (with_reducible first | assumption | rfl | intro _ | apply sb_sramWrite) | exact partsIn_trans hl rfl | split

theorem sb_stageDataCmd {pl : List Part} {z : State} {s : State} {_fn : Nat} {d : Bytes} {io : CmdIo} (hk : sameBut pl z s) (hl : partsIn [.upd, .sram] pl = true) :
    AnsParts pl z (stageDataCmd s _fn d io) := by
  unfold stageDataCmd
  dsimp only
  repeat' first | (with_reducible first | assumption | rfl | intro _ | apply sb_blkUpd | apply sb_stageCode | apply sb_ite | apply ansSb_ite | apply sb_Ans.bad | apply sb_Ans.denied | apply sb_id) | exact partsIn_trans hl rfl | split | with_reducible apply ansSb_mk | with_reducible apply AnsParts.st | with_reducible apply AnsParts.after

theorem sb_stageFail {pl : List Part} {z : State} {s : State} {code : Nat} (hk : sameBut pl z s) (hl : partsIn [.upd] pl = true) :
    AnsParts pl z (stageFail s code) := by
  unfold stageFail
  repeat' first | (with_reducible first | assumption | rfl | intro _ | apply sb_blkUpd | apply sb_ite | apply ansSb_ite | apply sb_id) | exact partsIn_trans hl rfl | split | with_reducible apply ansSb_mk | with_reducible apply AnsParts.st | with_reducible apply AnsParts.after

theorem sb_stageDone {pl : List Part} {z : State} {s : State} {h : Bytes} (hk : sameBut pl z s) (hl : partsIn [] pl = true) :
    AnsParts pl z (stageDone s h) := by
  unfold stageDone
  repeat' first | (with_reducible first | assumption | rfl | intro _ | apply sb_id) | exact partsIn_trans hl rfl | split | with_reducible apply ansSb_mk

theorem sb_stageVerifyCmd {pl : List Part} {z : State} {s : State} {_fn : Nat} {d : Bytes} {io : CmdIo} (hk : sameBut pl z s) (hl : partsIn [.flash, .upd, .free] pl = true) :
    AnsParts pl z (stageVerifyCmd s _fn d io) := by
  unfold stageVerifyCmd
  dsimp only
  repeat' first | (with_reducible first | assumption | rfl | intro _ | apply sb_blkUpd | apply sb_freeBytes_p | apply sb_slotWrite | apply sb_Ans.denied | apply sb_stageFail | apply sb_stageDone | apply sb_ite | apply ansSb_ite | apply sb_Ans.aborted | apply sb_Ans.bad | apply sb_id) | exact partsIn_trans hl rfl | (refine sb_freeBytes ?_ (by with_reducible assumption) ?_) | split | with_reducible apply ansSb_mk | with_reducible apply AnsParts.st | with_reducible apply AnsParts.after

theorem sb_actAccept {pl : List Part} {z : State} {s : State} {kind : Nat} {x : Word} {raiseIt : Bool} (hk : sameBut pl z s) (hl : partsIn [.events, .mode, .hif, .evr, .upd, .flt] pl = true) :
    sameBut pl z (actAccept s kind x raiseIt) := by
  unfold actAccept
  dsimp only
  repeat' first | (with_reducible first | assumption | rfl | intro _ | apply sb_blkUpd | apply sb_announceCmd | apply sb_ite) | exact partsIn_trans hl rfl | split

theorem sb_activateService {pl : List Part} {z : State} {s : State} {kind : Nat} {x : Word} {raiseIt : Bool} (hk : sameBut pl z s) (hl : partsIn [.events, .mode, .hif, .evr, .upd, .flt] pl = true) :
    AnsParts pl z (activateService s kind x raiseIt) := by
  unfold activateService
  repeat' first | (with_reducible first | assumption | rfl | intro _ | apply sb_actAccept | apply sb_ite | apply ansSb_ite | apply sb_Ans.aborted | apply sb_Ans.denied | apply sb_Ans.late | apply sb_Ans.stop | apply sb_id) | exact partsIn_trans hl rfl | split | with_reducible apply ansSb_mk | with_reducible apply AnsParts.st | with_reducible apply AnsParts.after

theorem sb_activateLoader {pl : List Part} {z : State} {s : State} {kind : Nat} {x : Word} (hk : sameBut pl z s) (hl : partsIn [.events, .glb, .mode, .clk, .fus, .cfg, .mpu, .fwl, .vlt, .cus, .can0, .can1, .voe, .eng, .pke, .rng, .hif, .spi0, .spi1, .flash, .tmp, .evr, .upd, .flt, .cores, .sram, .free] pl = true) :
    AnsParts pl z (activateLoader s kind x) := by
  unfold activateLoader
  repeat' first | (with_reducible first | assumption | rfl | intro _ | apply sb_blkUpd | apply sb_cmdReset | apply sb_recWrite | apply sb_ite | apply ansSb_ite | apply sb_Ans.aborted | apply sb_Ans.denied | apply sb_Ans.late | apply sb_Ans.stop | apply sb_id) | exact partsIn_trans hl rfl | split | with_reducible apply ansSb_mk | with_reducible apply AnsParts.st | with_reducible apply AnsParts.after

theorem sb_activateCmd {pl : List Part} {z : State} {s : State} {_fn : Nat} {d : Bytes} {_io : CmdIo} (hk : sameBut pl z s) (hl : partsIn [.events, .glb, .mode, .clk, .fus, .cfg, .mpu, .fwl, .vlt, .cus, .can0, .can1, .voe, .eng, .pke, .rng, .hif, .spi0, .spi1, .flash, .tmp, .evr, .upd, .flt, .cores, .sram, .free] pl = true) :
    AnsParts pl z (activateCmd s _fn d _io) := by
  unfold activateCmd
  dsimp only
  repeat' first | (with_reducible first | assumption | rfl | intro _ | apply sb_activateService | apply sb_activateLoader | apply sb_ite | apply ansSb_ite | apply sb_Ans.bad | apply sb_id) | exact partsIn_trans hl rfl | split | with_reducible apply ansSb_mk

theorem sb_activateCancelCmd {pl : List Part} {z : State} {s : State} {_fn : Nat} {d : Bytes} {_io : CmdIo} (hk : sameBut pl z s) (hl : partsIn [.events, .mode, .evr, .upd] pl = true) :
    AnsParts pl z (activateCancelCmd s _fn d _io) := by
  unfold activateCancelCmd
  dsimp only
  repeat' first | (with_reducible first | assumption | rfl | intro _ | apply sb_blkUpd | apply sb_annClear | apply sb_ite | apply ansSb_ite | apply sb_Ans.bad | apply sb_Ans.denied | apply sb_id) | exact partsIn_trans hl rfl | split | with_reducible apply ansSb_mk | with_reducible apply AnsParts.st | with_reducible apply AnsParts.after

theorem sb_imageInfoCmd {pl : List Part} {z : State} {s : State} {_fn : Nat} {_d : Bytes} {_io : CmdIo} (hk : sameBut pl z s) (hl : partsIn [] pl = true) :
    AnsParts pl z (imageInfoCmd s _fn _d _io) := by
  unfold imageInfoCmd
  repeat' first | (with_reducible first | assumption | rfl | intro _ | apply sb_id) | exact partsIn_trans hl rfl | split | with_reducible apply ansSb_mk

theorem sb_configWriteCmd {pl : List Part} {z : State} {s : State} {_fn : Nat} {d : Bytes} {io : CmdIo} (hk : sameBut pl z s) (hl : partsIn [.flash] pl = true) :
    AnsParts pl z (configWriteCmd s _fn d io) := by
  unfold configWriteCmd
  dsimp only
  repeat' first | (with_reducible first | assumption | rfl | intro _ | apply sb_flashProgram | apply sb_flashErase | apply sb_ite | apply ansSb_ite | apply sb_Ans.aborted | apply sb_Ans.bad | apply sb_Ans.denied | apply sb_id) | exact partsIn_trans hl rfl | split | with_reducible apply ansSb_mk

theorem sb_tokenUse {pl : List Part} {z : State} {s : State} {t : Bytes} (hk : sameBut pl z s) (hl : partsIn [.rng] pl = true) :
    sameBut pl z (tokenUse s t) := by
  unfold tokenUse
  repeat' first | (with_reducible first | assumption | rfl | intro _ | apply sb_onRng | apply sb_ite) | exact partsIn_trans hl rfl | split

theorem sb_withToken {pl : List Part} {z : State} {s : State} {typ : Nat} {t : Bytes} {ok : Bool} {f : State → Ans} (hk : sameBut pl z s) (hf : ∀ s, sameBut pl z s → AnsParts pl z (f s)) (hl : partsIn [.rng] pl = true) :
    AnsParts pl z (withToken s typ t ok f) := by
  unfold withToken
  repeat' first | (with_reducible first | assumption | rfl | intro _ | apply sb_tokenUse | apply sb_ite | apply ansSb_ite | apply hf | apply sb_Ans.denied | apply sb_id) | exact partsIn_trans hl rfl | split | with_reducible apply ansSb_mk

theorem sb_reencrypt {pl : List Part} {z : State} {s : State} {dur : Bytes} (hk : sameBut pl z s) (hl : partsIn [.fus, .flash, .free] pl = true) :
    sameBut pl z (reencrypt s dur) := by
  unfold reencrypt
  try dsimp only
  repeat' first | (with_reducible first | assumption | rfl | intro _ | apply sb_freeBytes_p | apply sb_slotWrite | apply sb_recWrite | apply sb_onFus | apply sb_ite) | exact partsIn_trans hl rfl | (refine sb_freeBytes ?_ (by with_reducible assumption) ?_) | split

theorem sb_provisionCmd {pl : List Part} {z : State} {s : State} {fn : Nat} {d : Bytes} {io : CmdIo} (hk : sameBut pl z s) (hl : partsIn [.events, .fus, .cus, .can0, .can1, .voe, .eng, .rng, .hif, .flash, .evr, .flt, .free] pl = true) :
    AnsParts pl z (provisionCmd s fn d io) := by
  unfold provisionCmd
  try dsimp only
  repeat' first | (with_reducible first | assumption | rfl | intro _ | apply sb_withToken | apply sb_withRandom | apply sb_blowPart | apply sb_reencrypt | apply sb_Ans.bad | apply sb_Ans.denied | apply sb_Ans.aborted | apply sb_Ans.notReady | apply sb_ite | apply ansSb_ite | apply sb_id) | exact partsIn_trans hl rfl | split | with_reducible apply ansSb_mk | with_reducible apply AnsParts.st | with_reducible apply AnsParts.after

theorem sb_tokenChallengeCmd {pl : List Part} {z : State} {s : State} {fn : Nat} {d : Bytes} {_io : CmdIo} (hk : sameBut pl z s) (hl : partsIn [.eng, .rng] pl = true) :
    AnsParts pl z (tokenChallengeCmd s fn d _io) := by
  unfold tokenChallengeCmd
  repeat' first | (with_reducible first | assumption | rfl | intro _ | apply sb_onRng | apply sb_withRandom | apply sb_id) | exact partsIn_trans hl rfl | split | with_reducible apply ansSb_mk | with_reducible apply AnsParts.st | with_reducible apply AnsParts.after

theorem sb_debugOpen {pl : List Part} {z : State} {s : State} {lv : Dbg} (hk : sameBut pl z s) (hl : partsIn [.mode, .vlt, .spi0, .upd] pl = true) :
    sameBut pl z (debugOpen s lv) := by
  unfold debugOpen
  try dsimp only
  repeat' first | (with_reducible first | assumption | rfl | intro _ | apply sb_blkVlt | apply sb_blkMode | apply sb_blkUpd | apply sb_setDb | apply sb_deriveAll | apply sb_ite) | exact partsIn_trans hl rfl | split

theorem sb_tokenApplyCmd {pl : List Part} {z : State} {s : State} {_fn : Nat} {d : Bytes} {io : CmdIo} (hk : sameBut pl z s) (hl : partsIn [.events, .mode, .vlt, .rng, .hif, .spi0, .evr, .upd, .flt] pl = true) :
    AnsParts pl z (tokenApplyCmd s _fn d io) := by
  unfold tokenApplyCmd
  try dsimp only
  repeat' first | (with_reducible first | assumption | rfl | intro _ | apply sb_withToken | apply sb_toMode | apply sb_debugOpen | apply sb_debugAnnounce | apply sb_Ans.bad | apply sb_ite | apply ansSb_ite | apply sb_id) | exact partsIn_trans hl rfl | split | with_reducible apply ansSb_mk | with_reducible apply AnsParts.st | with_reducible apply AnsParts.after

theorem sb_factoryFuseCmd {pl : List Part} {z : State} {s : State} {_fn : Nat} {d : Bytes} {io : CmdIo} (hk : sameBut pl z s) (hl : partsIn [.events, .fus, .cus, .can0, .can1, .voe, .rng, .hif, .evr, .flt, .free] pl = true) :
    AnsParts pl z (factoryFuseCmd s _fn d io) := by
  unfold factoryFuseCmd
  try dsimp only
  repeat' first | (with_reducible first | assumption | rfl | intro _ | apply sb_withToken | apply sb_blowOr | apply sb_Ans.bad | apply sb_Ans.denied | apply sb_Ans.aborted | apply sb_ite | apply ansSb_ite | apply sb_id) | exact partsIn_trans hl rfl | split | with_reducible apply ansSb_mk | with_reducible apply AnsParts.st | with_reducible apply AnsParts.after

theorem sb_fuseProgramCmd {pl : List Part} {z : State} {s : State} {_fn : Nat} {d : Bytes} {io : CmdIo} (hk : sameBut pl z s) (hl : partsIn [.events, .fus, .cus, .can0, .can1, .voe, .rng, .hif, .evr, .flt, .free] pl = true) :
    AnsParts pl z (fuseProgramCmd s _fn d io) := by
  unfold fuseProgramCmd
  try dsimp only
  repeat' first | (with_reducible first | assumption | rfl | intro _ | apply sb_blowOr | apply sb_withToken | apply sb_withLatch | apply sb_blowReady | apply sb_latchConsume | apply sb_Ans.bad | apply sb_Ans.denied | apply sb_Ans.aborted | apply sb_ite | apply ansSb_ite | apply sb_id) | exact partsIn_trans hl rfl | split | with_reducible apply ansSb_mk | with_reducible apply AnsParts.st | with_reducible apply AnsParts.after

theorem sb_execFuseProgram {pl : List Part} {z : State} {fn r : Nat} {io : CmdIo} {s : State} (hk : sameBut pl z s) (hl : partsIn [.events, .fus, .cus, .can0, .can1, .voe, .rng, .hif, .evr, .flt, .free] pl = true) :
    OutParts pl z (execFuseProgram fn r io s) := by
  unfold execFuseProgram
  repeat' first | (with_reducible first | assumption | rfl | intro _ | apply sb_fuseProgramCmd | apply sb_serveCmd | apply outSb_next) | exact partsIn_trans hl rfl | split

theorem sb_execStageBegin {pl : List Part} {z : State} {fn r : Nat} {io : CmdIo} {s : State} (hk : sameBut pl z s) (hl : partsIn [.events, .hif, .flash, .evr, .upd, .flt] pl = true) :
    OutParts pl z (execStageBegin fn r io s) := by
  unfold execStageBegin
  repeat' first | (with_reducible first | assumption | rfl | intro _ | apply sb_serveCmd | apply sb_stageBeginCmd | apply outSb_next) | exact partsIn_trans hl rfl | split

theorem sb_execStageData {pl : List Part} {z : State} {fn r : Nat} {io : CmdIo} {s : State} (hk : sameBut pl z s) (hl : partsIn [.events, .hif, .evr, .upd, .flt, .sram] pl = true) :
    OutParts pl z (execStageData fn r io s) := by
  unfold execStageData
  repeat' first | (with_reducible first | assumption | rfl | intro _ | apply sb_stageDataCmd | apply sb_serveCmd | apply outSb_next) | exact partsIn_trans hl rfl | split

theorem sb_execStageVerify {pl : List Part} {z : State} {fn r : Nat} {io : CmdIo} {s : State} (hk : sameBut pl z s) (hl : partsIn [.events, .hif, .flash, .evr, .upd, .flt, .free] pl = true) :
    OutParts pl z (execStageVerify fn r io s) := by
  unfold execStageVerify
  repeat' first | (with_reducible first | assumption | rfl | intro _ | apply sb_stageVerifyCmd | apply sb_serveCmd | apply outSb_next) | exact partsIn_trans hl rfl | split

theorem sb_execActivate {pl : List Part} {z : State} {fn r : Nat} {io : CmdIo} {s : State} (hk : sameBut pl z s) (hl : partsIn [.events, .glb, .mode, .clk, .fus, .cfg, .mpu, .fwl, .vlt, .cus, .can0, .can1, .voe, .eng, .pke, .rng, .hif, .spi0, .spi1, .flash, .tmp, .evr, .upd, .flt, .cores, .sram, .free] pl = true) :
    OutParts pl z (execActivate fn r io s) := by
  unfold execActivate
  repeat' first | (with_reducible first | assumption | rfl | intro _ | apply sb_activateCmd | apply sb_serveCmd | apply outSb_next) | exact partsIn_trans hl rfl | split

theorem sb_execActivateCancel {pl : List Part} {z : State} {fn r : Nat} {io : CmdIo} {s : State} (hk : sameBut pl z s) (hl : partsIn [.events, .mode, .hif, .evr, .upd, .flt] pl = true) :
    OutParts pl z (execActivateCancel fn r io s) := by
  unfold execActivateCancel
  repeat' first | (with_reducible first | assumption | rfl | intro _ | apply sb_serveCmd | apply sb_activateCancelCmd | apply outSb_next) | exact partsIn_trans hl rfl | split

theorem sb_execImageInfo {pl : List Part} {z : State} {fn r : Nat} {io : CmdIo} {s : State} (hk : sameBut pl z s) (hl : partsIn [.events, .hif, .evr, .flt] pl = true) :
    OutParts pl z (execImageInfo fn r io s) := by
  unfold execImageInfo
  repeat' first | (with_reducible first | assumption | rfl | intro _ | apply sb_imageInfoCmd | apply sb_serveCmd | apply outSb_next) | exact partsIn_trans hl rfl | split

theorem sb_execConfigWrite {pl : List Part} {z : State} {fn r : Nat} {io : CmdIo} {s : State} (hk : sameBut pl z s) (hl : partsIn [.events, .hif, .flash, .evr, .flt] pl = true) :
    OutParts pl z (execConfigWrite fn r io s) := by
  unfold execConfigWrite
  repeat' first | (with_reducible first | assumption | rfl | intro _ | apply sb_serveCmd | apply sb_configWriteCmd | apply outSb_next) | exact partsIn_trans hl rfl | split

theorem sb_execProvision {pl : List Part} {z : State} {fn r : Nat} {io : CmdIo} {s : State} (hk : sameBut pl z s) (hl : partsIn [.events, .fus, .cus, .can0, .can1, .voe, .eng, .rng, .hif, .flash, .evr, .flt, .free] pl = true) :
    OutParts pl z (execProvision fn r io s) := by
  unfold execProvision
  repeat' first | (with_reducible first | assumption | rfl | intro _ | apply sb_serveCmd | apply sb_provisionCmd | apply outSb_next) | exact partsIn_trans hl rfl | split

theorem sb_execTokenChallenge {pl : List Part} {z : State} {fn r : Nat} {io : CmdIo} {s : State} (hk : sameBut pl z s) (hl : partsIn [.events, .eng, .rng, .hif, .evr, .flt] pl = true) :
    OutParts pl z (execTokenChallenge fn r io s) := by
  unfold execTokenChallenge
  repeat' first | (with_reducible first | assumption | rfl | intro _ | apply sb_tokenChallengeCmd | apply sb_serveCmd | apply outSb_next) | exact partsIn_trans hl rfl | split

theorem sb_execTokenApply {pl : List Part} {z : State} {fn r : Nat} {io : CmdIo} {s : State} (hk : sameBut pl z s) (hl : partsIn [.events, .mode, .vlt, .rng, .hif, .spi0, .evr, .upd, .flt] pl = true) :
    OutParts pl z (execTokenApply fn r io s) := by
  unfold execTokenApply
  repeat' first | (with_reducible first | assumption | rfl | intro _ | apply sb_tokenApplyCmd | apply sb_serveCmd | apply outSb_next) | exact partsIn_trans hl rfl | split

theorem sb_execFactoryFuse {pl : List Part} {z : State} {fn r : Nat} {io : CmdIo} {s : State} (hk : sameBut pl z s) (hl : partsIn [.events, .fus, .cus, .can0, .can1, .voe, .rng, .hif, .evr, .flt, .free] pl = true) :
    OutParts pl z (execFactoryFuse fn r io s) := by
  unfold execFactoryFuse
  repeat' first | (with_reducible first | assumption | rfl | intro _ | apply sb_serveCmd | apply sb_factoryFuseCmd | apply outSb_next) | exact partsIn_trans hl rfl | split

/-! ### Machine/RegRead.lean -/

theorem sb_regReadEffect {pl : List Part} {z : State} {s : State} {a : Nat} (hk : sameBut pl z s) (hl : partsIn [.glb, .rng, .spi1] pl = true) :
    sameBut pl z (regReadEffect s a) := by
  unfold regReadEffect
  dsimp only
  repeat' first | (with_reducible first | assumption | rfl | intro _ | apply sb_blkSpi1 | apply sb_onRng | apply sb_ite) | refine sb_blkGlb ?_ ⟨rfl, rfl, rfl, rfl, rfl⟩ ?_ | refine sb_blkEv ?_ rfl ?_ | apply sb_blkGlbE | exact partsIn_trans hl rfl | split

/-! ### Machine/Recorder.lean -/

theorem sb_sendMsix {pl : List Part} {z : State} {s : State} {fn vec : Nat} (hk : sameBut pl z s) (hl : partsIn [.hif] pl = true) :
    sameBut pl z (sendMsix s fn vec) := by
  unfold sendMsix
  dsimp only
  repeat' first | (with_reducible first | assumption | rfl | intro _ | apply sb_setFn | apply sb_emitOut | apply sb_ite) | exact partsIn_trans hl rfl | split

theorem sb_routeEvent {pl : List Part} {z : State} {s : State} {e : Event} (hk : sameBut pl z s) (hl : partsIn [.events, .hif, .evr] pl = true) :
    sameBut pl z (routeEvent s e) := by
  unfold routeEvent
  dsimp only
  repeat' first | (with_reducible first | assumption | rfl | intro _ | apply sb_irq | apply sb_sendMsix | apply sb_writeDiag | apply sb_writeSec | apply sb_ite) | exact partsIn_trans hl rfl | split

theorem sb_refillQueue {pl : List Part} {z : State} {s : State} (hk : sameBut pl z s) (hl : partsIn [.events] pl = true) :
    sameBut pl z (refillQueue s) := by
  unfold refillQueue
  repeat' first | (with_reducible first | assumption | rfl | intro _ | apply sb_foldl | apply sb_ite) | refine sb_blkGlb ?_ ⟨rfl, rfl, rfl, rfl, rfl⟩ ?_ | refine sb_blkEv ?_ rfl ?_ | apply sb_blkGlbE | exact partsIn_trans hl rfl | split

theorem sb_execEventAccept {pl : List Part} {z : State} {s : State} (hk : sameBut pl z s) (hl : partsIn [.events, .glb, .hif, .evr] pl = true) :
    OutParts pl z (execEventAccept s) := by
  unfold execEventAccept
  dsimp only
  repeat' first | (with_reducible first | assumption | rfl | intro _ | apply sb_routeEvent | apply sb_refillQueue | apply sb_ite | apply outSb_ite | apply outSb_next) | refine sb_blkGlb ?_ ⟨rfl, rfl, rfl, rfl, rfl⟩ ?_ | refine sb_blkEv ?_ rfl ?_ | apply sb_blkGlbE | exact partsIn_trans hl rfl | split

/-! ### Machine/Kindle.lean -/

theorem sb_kindleK1 {pl : List Part} {z : State} {s : State} (hk : sameBut pl z s) (hl : partsIn [.clk, .mpu, .rng, .hif] pl = true) :
    sameBut pl z (kindleK1 s) := by
  unfold kindleK1
  dsimp only
  repeat' first | (with_reducible first | assumption | rfl | intro _ | apply sb_setMpuUnit | apply sb_onRng | apply sb_onClk | apply sb_emitOut | apply sb_foldl) | exact partsIn_trans hl rfl | split

theorem sb_kindleK2 {pl : List Part} {z : State} {s : State} (hk : sameBut pl z s) (hl : partsIn [.events, .mode, .clk, .fus, .cfg, .can0, .can1, .voe, .rng, .tmp, .snf, .evr] pl = true) :
    sameBut pl z (kindleK2 s) := by
  unfold kindleK2
  try dsimp only
  repeat' first | (with_reducible first | assumption | rfl | intro _ | apply sb_cfgK3 | apply sb_fuseKindle | apply sb_onClk | apply sb_armedAct | apply sb_disarm | apply sb_ite) | exact partsIn_trans hl rfl | split

theorem sb_noteFail {pl : List Part} {z : State} {s : State} {c : Nat} (hk : sameBut pl z s) (hl : partsIn [.mode] pl = true) :
    sameBut pl z (noteFail s c) := by
  unfold noteFail
  repeat' first | (with_reducible first | assumption | rfl | intro _ | apply sb_blkMode | apply sb_ite) | exact partsIn_trans hl rfl | split

theorem sb_kindleK5 {pl : List Part} {z : State} {s : State} {fail : List Nat} (hk : sameBut pl z s) (hl : partsIn [.events, .mode, .evr] pl = true) :
    sameBut pl z (kindleK5 s fail) := by
  unfold kindleK5
  dsimp only
  repeat' first | (with_reducible first | assumption | rfl | intro _ | apply sb_blkMode | apply sb_noteFail | apply sb_logOther | apply sb_foldl) | exact partsIn_trans hl rfl | split

theorem sb_kindleK6 {pl : List Part} {z : State} {s : State} (hk : sameBut pl z s) (hl : partsIn [.clk] pl = true) :
    sameBut pl z (kindleK6 s) := by
  unfold kindleK6
  repeat' first | (with_reducible first | assumption | rfl | intro _ | apply sb_onClk) | exact partsIn_trans hl rfl | split

theorem sb_kindleK7 {pl : List Part} {z : State} {s : State} (hk : sameBut pl z s) (hl : partsIn [.events, .glb, .mode, .clk, .cfg, .can0, .can1, .voe, .pke, .rng, .spi0, .tmp, .snf, .evr] pl = true) :
    sameBut pl z (kindleK7 s) := by
  unfold kindleK7
  dsimp only
  repeat' first | (with_reducible first | assumption | rfl | intro _ | apply sb_noteFail | apply sb_cfgK7 | apply sb_ite) | exact partsIn_trans hl rfl | split

theorem sb_kindleK8 {pl : List Part} {z : State} {bad : List Nat} {s : State} (hk : sameBut pl z s) (hl : partsIn [.events, .mode, .vlt, .voe, .tmp, .snf, .evr] pl = true) :
    sameBut pl z (kindleK8 bad s) := by
  unfold kindleK8
  try dsimp only
  repeat' first | (with_reducible first | assumption | rfl | intro _ | apply sb_blkMode | apply sb_blkVlt | apply sb_logOtherS | apply sb_onVoe | apply sb_snuffTrig | apply sb_vaultKindle | apply sb_deriveAll | apply sb_ite) | exact partsIn_trans hl rfl | split

theorem sb_kindleK9to11 {pl : List Part} {z : State} {s : State} (hk : sameBut pl z s) (hl : partsIn [.events, .mode, .spi0, .flash, .tmp, .evr, .upd, .cores, .sram] pl = true) :
    sameBut pl z (kindleK9to11 s) := by
  unfold kindleK9to11
  try dsimp only
  repeat' first | (with_reducible first | assumption | rfl | intro _ | apply sb_blkTmp | apply sb_kindleK9 | apply sb_noteFail | apply sb_dbRecover | apply sb_setCore | apply sb_foldl | apply sb_ite) | exact partsIn_trans hl rfl | split

theorem sb_kindleRun {pl : List Part} {z : State} {s : State} (hk : sameBut pl z s) (hl : partsIn [.events, .glb, .mode, .mpu, .fwl, .evr] pl = true) :
    sameBut pl z (kindleRun s) := by
  unfold kindleRun
  dsimp only
  repeat' first | (with_reducible first | assumption | rfl | intro _ | apply sb_blkMode | apply sb_bcnStart | apply sb_refuseWrite | apply sb_ite) | exact partsIn_trans hl rfl | split

theorem sb_vppEntry {pl : List Part} {z : State} {s : State} (hk : sameBut pl z s) (hl : partsIn [.events, .evr] pl = true) :
    sameBut pl z (vppEntry s) := by
  unfold vppEntry
  repeat' first | (with_reducible first | assumption | rfl | intro _ | apply sb_logOther | apply sb_ite) | exact partsIn_trans hl rfl | split

theorem sb_kindleSupply {pl : List Part} {z : State} {e : KindleEnv} {s : State} (hk : sameBut pl z s) (hl : partsIn [.events, .mode, .tmp, .evr] pl = true) :
    sameBut pl z (kindleSupply e s) := by
  unfold kindleSupply
  try dsimp only
  repeat' first | (with_reducible first | assumption | rfl | intro _ | apply sb_blkMode | apply sb_vppEntry | apply sb_alarmClear | apply sb_ite) | exact partsIn_trans hl rfl | split

theorem sb_kindleSteps {pl : List Part} {z : State} {e : KindleEnv} {s : State} (hk : sameBut pl z s) (hl : partsIn [.events, .glb, .mode, .clk, .fus, .cfg, .mpu, .vlt, .can0, .can1, .voe, .pke, .rng, .hif, .spi0, .flash, .tmp, .snf, .evr, .upd, .cores, .sram] pl = true) :
    sameBut pl z (kindleSteps e s) := by
  unfold kindleSteps
  try dsimp only
  repeat' first | (with_reducible first | assumption | rfl | intro _ | apply sb_blkMode | apply sb_kindleSupply | apply sb_noteFail | apply sb_onFus | apply sb_kindleK5 | apply sb_kindleK2 | apply sb_kindleK1 | apply sb_kindleK9to11 | apply sb_kindleK8 | apply sb_kindleK7 | apply sb_kindleK6 | apply sb_ite) | exact partsIn_trans hl rfl | split

theorem sb_execKindle {pl : List Part} {z : State} {e : KindleEnv} {s : State} (hk : sameBut pl z s) (hl : partsIn [.events, .glb, .mode, .clk, .fus, .cfg, .mpu, .fwl, .vlt, .can0, .can1, .voe, .pke, .rng, .hif, .spi0, .flash, .tmp, .snf, .evr, .upd, .cores, .sram] pl = true) :
    OutParts pl z (execKindle e s) := by
  unfold execKindle
  try dsimp only
  repeat' first | (with_reducible first | assumption | rfl | intro _ | apply sb_kindleSteps | apply sb_kindleRun | apply sb_ite | apply outSb_ite | apply outSb_next) | exact partsIn_trans hl rfl | split

theorem sb_execVsnuffWaitExpiry {pl : List Part} {z : State} {s : State} (hk : sameBut pl z s) (hl : partsIn [.events, .glb, .mode, .mpu, .fwl, .tmp, .evr] pl = true) :
    OutParts pl z (execVsnuffWaitExpiry s) := by
  unfold execVsnuffWaitExpiry
  repeat' first | (with_reducible first | assumption | rfl | intro _ | apply sb_alarmSet | apply sb_noteFail | apply sb_kindleRun | apply sb_logOtherS | apply sb_ite | apply outSb_ite | apply outSb_next) | exact partsIn_trans hl rfl | split

theorem sb_execVsnuffOk {pl : List Part} {z : State} {s : State} (hk : sameBut pl z s) (hl : partsIn [.events, .glb, .mode, .mpu, .fwl, .tmp, .evr] pl = true) :
    OutParts pl z (execVsnuffOk s) := by
  unfold execVsnuffOk
  dsimp only
  repeat' first | (with_reducible first | assumption | rfl | intro _ | apply sb_blkMode | apply sb_kindleRun | apply sb_alarmClear | apply sb_ite | apply outSb_ite | apply outSb_next) | exact partsIn_trans hl rfl | split

theorem sb_retiredDebug {pl : List Part} {z : State} {s : State} (hk : sameBut pl z s) (hl : partsIn [.events, .mode, .evr] pl = true) :
    sameBut pl z (retiredDebug s) := by
  unfold retiredDebug
  repeat' first | (with_reducible first | assumption | rfl | intro _ | apply sb_blkMode | apply sb_toMode) | exact partsIn_trans hl rfl | split

theorem sb_enterRecovery {pl : List Part} {z : State} {s : State} (hk : sameBut pl z s) (hl : partsIn [.events, .mode, .evr] pl = true) :
    sameBut pl z (enterRecovery s) := by
  unfold enterRecovery
  repeat' first | (with_reducible first | assumption | rfl | intro _ | apply sb_toMode | apply sb_ite) | exact partsIn_trans hl rfl | split

theorem sb_kindleDest {pl : List Part} {z : State} {s : State} (hk : sameBut pl z s) (hl : partsIn [.events, .mode, .evr] pl = true) :
    sameBut pl z (kindleDest s) := by
  unfold kindleDest
  repeat' first | (with_reducible first | assumption | rfl | intro _ | apply sb_retiredDebug | apply sb_enterRecovery | apply sb_toMode | apply sb_ite) | exact partsIn_trans hl rfl | split

theorem sb_execKindleEnd {pl : List Part} {z : State} {s : State} (hk : sameBut pl z s) (hl : partsIn [.events, .mode, .evr] pl = true) :
    OutParts pl z (execKindleEnd s) := by
  unfold execKindleEnd
  repeat' first | (with_reducible first | assumption | rfl | intro _ | apply sb_blkMode | apply sb_kindleDest | apply sb_ite | apply outSb_ite | apply outSb_next) | exact partsIn_trans hl rfl | split

/-! ### Machine/Tick.lean -/

theorem sb_beaconDone {pl : List Part} {z : State} {refused : Bool} {s : State} {w : Wait} (hk : sameBut pl z s) (hl : partsIn [.events, .hif, .evr, .flt] pl = true) :
    sameBut pl z (beaconDone refused s w) := by
  unfold beaconDone
  dsimp only
  repeat' first | (with_reducible first | assumption | rfl | intro _ | apply sb_endWait | apply sb_ite) | exact partsIn_trans hl rfl | split

theorem sb_edgeGroups {pl : List Part} {z : State} {s : State} (hk : sameBut pl z s) (hl : partsIn [.events, .glb, .clk, .vlt, .hif, .evr, .flt] pl = true) :
    sameBut pl z (edgeGroups s) := by
  unfold edgeGroups
  dsimp only
  repeat' first | (with_reducible first | assumption | rfl | intro _ | apply sb_applyGroups | apply sb_applyShadows | apply sb_beaconDone | apply sb_foldl) | exact partsIn_trans hl rfl | split

theorem sb_liveDone {pl : List Part} {z : State} {s : State} {w : Wait} (hk : sameBut pl z s) (hl : partsIn [.events, .hif, .evr, .flt] pl = true) :
    sameBut pl z (liveDone s w) := by
  unfold liveDone
  dsimp only
  repeat' first | (with_reducible first | assumption | rfl | intro _ | apply sb_endWait | apply sb_ite) | exact partsIn_trans hl rfl | split

theorem sb_edgeKeys {pl : List Part} {z : State} {s : State} (hk : sameBut pl z s) (hl : partsIn [.events, .vlt, .hif, .evr, .flt] pl = true) :
    sameBut pl z (edgeKeys s) := by
  unfold edgeKeys
  dsimp only
  repeat' first | (with_reducible first | assumption | rfl | intro _ | apply sb_liveDone | apply sb_keySwitch | apply sb_applyUnpins | apply sb_foldl) | exact partsIn_trans hl rfl | split

theorem sb_ringEdge {pl : List Part} {z : State} {s : State} {k : Nat} (hk : sameBut pl z s) (hl : partsIn [.events, .hif, .evr] pl = true) :
    sameBut pl z (ringEdge s k) := by
  unfold ringEdge
  try dsimp only
  repeat' first | (with_reducible first | assumption | rfl | intro _ | apply sb_flushReorder | apply sb_emitOut | apply sb_irq | apply sb_setRing | apply sb_ite) | exact partsIn_trans hl rfl | split

theorem sb_recorderEdge {pl : List Part} {z : State} {s : State} (hk : sameBut pl z s) (hl : partsIn [.events, .evr] pl = true) :
    sameBut pl z (recorderEdge s) := by
  unfold recorderEdge
  dsimp only
  repeat' first | (with_reducible first | assumption | rfl | intro _ | apply sb_blkEvr | apply sb_irq | apply sb_ite) | exact partsIn_trans hl rfl | split

theorem sb_coreEdge {pl : List Part} {z : State} {s : State} {c : Nat} (hk : sameBut pl z s) (hl : partsIn [.cores] pl = true) :
    sameBut pl z (coreEdge s c) := by
  unfold coreEdge
  dsimp only
  repeat' first | (with_reducible first | assumption | rfl | intro _ | apply sb_setCore) | exact partsIn_trans hl rfl | split

theorem sb_peerEdge {pl : List Part} {z : State} {s : State} {k : Nat} (hk : sameBut pl z s) (hl : partsIn [.can0, .can1, .voe, .eng, .rng] pl = true) :
    sameBut pl z (peerEdge s k) := by
  unfold peerEdge
  try dsimp only
  repeat' first | (with_reducible first | assumption | rfl | intro _ | apply sb_setPeer | apply sb_sendHello | apply sb_sendAck | apply sb_ite) | exact partsIn_trans hl rfl | split

theorem sb_voeEdge {pl : List Part} {z : State} {s : State} (hk : sameBut pl z s) (hl : partsIn [.cus, .can0, .can1, .voe, .eng, .rng, .flt, .cores] pl = true) :
    sameBut pl z (voeEdge s) := by
  unfold voeEdge
  try dsimp only
  repeat' first | (with_reducible first | assumption | rfl | intro _ | apply sb_onVoe | apply sb_onCus | apply sb_peerEdge | apply sb_canIrq | apply sb_canFlush | apply sb_foldl | apply sb_ite) | exact partsIn_trans hl rfl | split

theorem sb_meshSeed {pl : List Part} {z : State} {s : State} (hk : sameBut pl z s) (hl : partsIn [.eng, .rng, .tmp] pl = true) :
    sameBut pl z (meshSeed s) := by
  unfold meshSeed
  try dsimp only
  repeat' first | (with_reducible first | assumption | rfl | intro _ | apply sb_blkTmp | apply sb_ite) | exact partsIn_trans hl rfl | (refine sb_rngInternal ?_ (by with_reducible assumption) ?_) | split

theorem sb_timerEdge {pl : List Part} {z : State} {s : State} (hk : sameBut pl z s) (hl : partsIn [.fus, .rng] pl = true) :
    sameBut pl z (timerEdge s) := by
  unfold timerEdge
  try dsimp only
  repeat' first | (with_reducible first | assumption | rfl | intro _ | apply sb_onRng | apply sb_rereadEdge | apply sb_onFus | apply sb_ite) | exact partsIn_trans hl rfl | split

theorem sb_dimEnter {pl : List Part} {z : State} {s : State} (hk : sameBut pl z s) (hl : partsIn [.events, .mode, .clk, .can0, .can1, .rng, .hif, .evr, .flt] pl = true) :
    sameBut pl z (dimEnter s) := by
  unfold dimEnter
  try dsimp only
  repeat' first | (with_reducible first | assumption | rfl | intro _ | apply sb_blkMode | apply sb_onCan | apply sb_onRng | apply sb_onClk | apply sb_endWaits | apply sb_toMode | apply sb_ite) | exact partsIn_trans hl rfl | split

theorem sb_dimEdge {pl : List Part} {z : State} {s : State} (hk : sameBut pl z s) (hl : partsIn [.events, .mode, .clk, .can0, .can1, .rng, .hif, .evr, .flt] pl = true) :
    sameBut pl z (dimEdge s) := by
  unfold dimEdge
  repeat' first | (with_reducible first | assumption | rfl | intro _ | apply sb_blkMode | apply sb_dimEnter | apply sb_ite) | exact partsIn_trans hl rfl | split

theorem sb_edgeTime {pl : List Part} {z : State} {s : State} (hk : sameBut pl z s) (hl : partsIn [.glb] pl = true) :
    sameBut pl z (edgeTime s) := by
  unfold edgeTime
  repeat' first | (with_reducible first | assumption | rfl | intro _) | refine sb_blkGlb ?_ ⟨rfl, rfl, rfl, rfl, rfl⟩ ?_ | refine sb_blkEv ?_ rfl ?_ | apply sb_blkGlbE | exact partsIn_trans hl rfl | split

theorem sb_edgeClk {pl : List Part} {z : State} {s : State} {e : TickEnv} (hk : sameBut pl z s) (hl : partsIn [.mode, .clk, .fus] pl = true) :
    sameBut pl z (edgeClk s e) := by
  unfold edgeClk
  repeat' first | (with_reducible first | assumption | rfl | intro _ | apply sb_blkMode | apply sb_holdAttempts | apply sb_trimStep | apply sb_tempStep | apply sb_ite) | exact partsIn_trans hl rfl | split

theorem sb_edgeAdmit {pl : List Part} {z : State} {s : State} (hk : sameBut pl z s) (hl : partsIn [.glb, .mode, .hif] pl = true) :
    sameBut pl z (edgeAdmit s) := by
  unfold edgeAdmit
  dsimp only
  repeat' first | (with_reducible first | assumption | rfl | intro _ | apply sb_blkMode | apply sb_refill | apply sb_admitCarried) | exact partsIn_trans hl rfl | split

theorem sb_edgeRaise {pl : List Part} {z : State} {s : State} (hk : sameBut pl z s) (hl : partsIn [.events, .fus, .cus, .can0, .can1, .voe, .hif, .evr, .upd, .flt, .free] pl = true) :
    sameBut pl z (edgeRaise s) := by
  unfold edgeRaise
  repeat' first | (with_reducible first | assumption | rfl | intro _ | apply sb_blkUpd | apply sb_rbcRaise | apply sb_ite) | exact partsIn_trans hl rfl | split

theorem sb_edgeRest {pl : List Part} {z : State} {s : State} (hk : sameBut pl z s) (hl : partsIn [.events, .fus, .cus, .can0, .can1, .voe, .eng, .pke, .rng, .hif, .tmp, .evr, .upd, .flt, .cores, .free] pl = true) :
    sameBut pl z (edgeRest s) := by
  unfold edgeRest
  try dsimp only
  repeat' first | (with_reducible first | assumption | rfl | intro _ | apply sb_pkeZero | apply sb_ringEdge | apply sb_coreEdge | apply sb_recorderEdge | apply sb_timerEdge | apply sb_voeEdge | apply sb_meshSeed | apply sb_edgeRaise | apply sb_foldl | apply sb_ite) | exact partsIn_trans hl rfl | split

theorem sb_execTickEdge {pl : List Part} {z : State} {e : TickEnv} {s : State} (hk : sameBut pl z s) (hl : partsIn [.events, .glb, .mode, .clk, .fus, .vlt, .cus, .can0, .can1, .voe, .eng, .pke, .rng, .hif, .tmp, .evr, .upd, .flt, .cores, .sram, .free] pl = true) :
    OutParts pl z (execTickEdge e s) := by
  unfold execTickEdge
  repeat' first | (with_reducible first | assumption | rfl | intro _ | apply sb_dimEdge | apply sb_edgeRest | apply sb_edgeAdmit | apply sb_ownerEdge | apply sb_edgeKeys | apply sb_edgeGroups | apply sb_edgeClk | apply sb_edgeTime | apply sb_ite | apply outSb_ite | apply outSb_next) | exact partsIn_trans hl rfl | split

/-! ### Machine/Modes.lean -/

theorem sb_handoverIn {pl : List Part} {z : State} {s : State} {c : Nat} (hk : sameBut pl z s) (hl : partsIn [.cores, .sram] pl = true) :
    sameBut pl z (handoverIn s c) := by
  unfold handoverIn
  dsimp only
  repeat' first | (with_reducible first | assumption | rfl | intro _ | apply sb_onCore | apply sb_enclExit | apply sb_ite) | exact partsIn_trans hl rfl | split

theorem sb_pauseStart {pl : List Part} {z : State} {s : State} (hk : sameBut pl z s) (hl : partsIn [.events, .cus, .eng, .pke, .hif, .evr, .upd, .flt, .cores, .sram, .free] pl = true) :
    sameBut pl z (pauseStart s) := by
  unfold pauseStart
  dsimp only
  repeat' first | (with_reducible first | assumption | rfl | intro _ | apply sb_blkUpd | apply sb_handoverIn | apply sb_abortCommands | apply sb_abortEngines) | exact partsIn_trans hl rfl | split

theorem sb_pauseSwitch {pl : List Part} {z : State} {s : State} {kind : Nat} {i : Img} (hk : sameBut pl z s) (hl : partsIn [.flash, .upd, .sram] pl = true) :
    sameBut pl z (pauseSwitch s kind i) := by
  unfold pauseSwitch
  dsimp only
  repeat' first | (with_reducible first | assumption | rfl | intro _ | apply sb_blkUpd | apply sb_recWrite | apply sb_sramWrite | apply sb_ite) | exact partsIn_trans hl rfl | split

theorem sb_startSf {pl : List Part} {z : State} {s : State} {i : Img} (hk : sameBut pl z s) (hl : partsIn [.events, .cus, .can0, .can1, .voe, .hif, .evr, .flt, .cores] pl = true) :
    sameBut pl z (startSf s i) := by
  unfold startSf
  dsimp only
  repeat' first | (with_reducible first | assumption | rfl | intro _ | apply sb_onCore | apply sb_custCancelAll | apply sb_foldl) | exact partsIn_trans hl rfl | split

theorem sb_startPr {pl : List Part} {z : State} {s : State} {i : Img} (hk : sameBut pl z s) (hl : partsIn [.cores, .sram] pl = true) :
    sameBut pl z (startPr s i) := by
  unfold startPr
  dsimp only
  repeat' first | (with_reducible first | assumption | rfl | intro _ | apply sb_pctxPut | apply sb_onCore | apply sb_partDown | apply sb_foldl) | exact partsIn_trans hl rfl | split

theorem sb_activationRun {pl : List Part} {z : State} {s : State} {kind : Nat} (hk : sameBut pl z s) (hl : partsIn [.events, .cus, .can0, .can1, .voe, .eng, .pke, .hif, .flash, .evr, .upd, .flt, .cores, .sram, .free] pl = true) :
    sameBut pl z (activationRun s kind) := by
  unfold activationRun
  dsimp only
  repeat' first | (with_reducible first | assumption | rfl | intro _ | apply sb_pauseSwitch | apply sb_startPr | apply sb_startSf | apply sb_pauseStart | apply sb_ite) | exact partsIn_trans hl rfl | split

theorem sb_execAnnounceWindowStart {pl : List Part} {z : State} {s : State} (hk : sameBut pl z s) (hl : partsIn [.events, .mode, .cus, .can0, .can1, .voe, .eng, .pke, .hif, .flash, .evr, .upd, .flt, .cores, .sram, .free] pl = true) :
    OutParts pl z (execAnnounceWindowStart s) := by
  unfold execAnnounceWindowStart
  dsimp only
  repeat' first | (with_reducible first | assumption | rfl | intro _ | apply sb_blkMode | apply sb_logMode | apply sb_activationRun | apply sb_ite | apply outSb_ite | apply outSb_next) | exact partsIn_trans hl rfl | split

theorem sb_handoverOut {pl : List Part} {z : State} {s : State} {c : Nat} (hk : sameBut pl z s) (hl : partsIn [.cores] pl = true) :
    sameBut pl z (handoverOut s c) := by
  unfold handoverOut
  repeat' first | (with_reducible first | assumption | rfl | intro _ | apply sb_onCore | apply sb_ite) | exact partsIn_trans hl rfl | split

theorem sb_execImageReady {pl : List Part} {z : State} {s : State} (hk : sameBut pl z s) (hl : partsIn [.upd, .cores] pl = true) :
    OutParts pl z (execImageReady s) := by
  unfold execImageReady
  repeat' first | (with_reducible first | assumption | rfl | intro _ | apply sb_blkUpd | apply sb_handoverOut | apply sb_ite | apply outSb_ite | apply outSb_next) | exact partsIn_trans hl rfl | split

theorem sb_execActivationConfirm {pl : List Part} {z : State} {s : State} (hk : sameBut pl z s) (hl : partsIn [.events, .fus, .cus, .can0, .can1, .voe, .hif, .flash, .evr, .upd, .flt, .free] pl = true) :
    OutParts pl z (execActivationConfirm s) := by
  unfold execActivationConfirm
  dsimp only
  repeat' first | (with_reducible first | assumption | rfl | intro _ | apply sb_blkUpd | apply sb_rbcRaise | apply sb_recWrite | apply sb_ite | apply outSb_ite | apply outSb_next) | exact partsIn_trans hl rfl | split

theorem sb_execDimEntryCancel {pl : List Part} {z : State} {s : State} (hk : sameBut pl z s) (hl : partsIn [.events, .mode, .hif, .evr, .flt] pl = true) :
    OutParts pl z (execDimEntryCancel s) := by
  unfold execDimEntryCancel
  repeat' first | (with_reducible first | assumption | rfl | intro _ | apply sb_dimCancel | apply sb_ite | apply outSb_ite | apply outSb_next) | exact partsIn_trans hl rfl | split

theorem sb_execWake {pl : List Part} {z : State} {s : State} (hk : sameBut pl z s) (hl : partsIn [.mode, .rng] pl = true) :
    OutParts pl z (execWake s) := by
  unfold execWake
  repeat' first | (with_reducible first | assumption | rfl | intro _ | apply sb_wakeTrigger | apply sb_ite | apply outSb_ite | apply outSb_next) | exact partsIn_trans hl rfl | split

theorem sb_enginesFail {pl : List Part} {z : State} {s : State} {l : List Nat} (hk : sameBut pl z s) (hl : partsIn [.events, .mode, .tmp, .evr] pl = true) :
    sameBut pl z (enginesFail s l) := by
  unfold enginesFail
  dsimp only
  repeat' first | (with_reducible first | assumption | rfl | intro _ | apply sb_blkMode | apply sb_alarmSet | apply sb_logOther | apply sb_foldl | apply sb_ite) | exact partsIn_trans hl rfl | split

theorem sb_execDimWakeComplete {pl : List Part} {z : State} {fail : List Nat} {s : State} (hk : sameBut pl z s) (hl : partsIn [.events, .glb, .mode, .clk, .hif, .tmp, .evr] pl = true) :
    OutParts pl z (execDimWakeComplete fail s) := by
  unfold execDimWakeComplete
  try dsimp only
  repeat' first | (with_reducible first | assumption | rfl | intro _ | apply sb_blkMode | apply sb_onClk | apply sb_enginesFail | apply sb_admitCarried | apply sb_toMode | apply sb_ite | apply outSb_ite | apply outSb_next) | exact partsIn_trans hl rfl | split

theorem sb_activationDrop {pl : List Part} {z : State} {s : State} (hk : sameBut pl z s) (hl : partsIn [.upd] pl = true) :
    sameBut pl z (activationDrop s) := by
  unfold activationDrop
  repeat' first | (with_reducible first | assumption | rfl | intro _ | apply sb_blkUpd) | exact partsIn_trans hl rfl | split

theorem sb_debugRun {pl : List Part} {z : State} {s : State} {lv : Dbg} (hk : sameBut pl z s) (hl : partsIn [.events, .mode, .vlt, .cus, .can0, .can1, .voe, .eng, .pke, .rng, .hif, .spi0, .evr, .upd, .flt, .cores, .sram, .free] pl = true) :
    sameBut pl z (debugRun s lv) := by
  unfold debugRun
  try dsimp only
  repeat' first | (with_reducible first | assumption | rfl | intro _ | apply sb_blkMode | apply sb_abortCommands | apply sb_abortEngines | apply sb_onRng | apply sb_custCancelAll | apply sb_activationDrop | apply sb_debugOpen | apply sb_logMode | apply sb_toMode | apply sb_ite) | exact partsIn_trans hl rfl | split

theorem sb_execDebugSwitch {pl : List Part} {z : State} {s : State} (hk : sameBut pl z s) (hl : partsIn [.events, .mode, .vlt, .cus, .can0, .can1, .voe, .eng, .pke, .rng, .hif, .spi0, .evr, .upd, .flt, .cores, .sram, .free] pl = true) :
    OutParts pl z (execDebugSwitch s) := by
  unfold execDebugSwitch
  repeat' first | (with_reducible first | assumption | rfl | intro _ | apply sb_debugRun | apply sb_ite | apply outSb_ite | apply outSb_next) | exact partsIn_trans hl rfl | split

end Sys2Proof.Machine
end

