-- ==== Sys2Proof/Laws/SameAccess.lean ====
section
/-! SUPPORT. Which parts of State each operation may change: Access. -/
namespace Sys2Proof.Machine

/-! ### Machine/RegWrite.lean -/

theorem sb_halted {pl : List Part} {z : State} {stopped : Bool} {s : State} (hk : sameBut pl z s) (hl : partsIn [] pl = true) :
    WrParts pl z (halted stopped s) := by
  unfold halted
  repeat' first | (with_reducible first | assumption | rfl | intro _ | apply sb_ite | apply wrSb_ite | apply wrSb_ok | apply wrSb_bad) | exact partsIn_trans hl rfl | split

theorem sb_unlocked {pl : List Part} {z : State} {isOpen : Bool} {s : State} (hk : sameBut pl z s) (hl : partsIn [] pl = true) :
    WrParts pl z (unlocked isOpen s) := by
  unfold unlocked
  repeat' first | (with_reducible first | assumption | rfl | intro _ | apply sb_ite | apply wrSb_ite | apply wrSb_ok | apply wrSb_bad) | exact partsIn_trans hl rfl | split

theorem sb_after {pl : List Part} {z s : State} {o : Host.Outcome State Fault Refusal} (ho : OutParts pl z o) (h : sameBut pl z s) (hl : partsIn [] pl = true) :
    sameBut pl z (after o s) := by
  unfold after
  split
  · exact ho.next _ rfl
  · exact h

theorem sb_wrBcnCfg {pl : List Part} {z : State} {s : State} {v : Word} (hk : sameBut pl z s) (hl : partsIn [.glb] pl = true) :
    WrParts pl z (wrBcnCfg s v) := by
  unfold wrBcnCfg
  dsimp only
  repeat' first | (with_reducible first | assumption | rfl | intro _ | apply sb_ite | apply wrSb_ite | apply wrSb_ok | apply wrSb_bad) | refine sb_blkGlb ?_ ⟨rfl, rfl, rfl, rfl, rfl⟩ ?_ | refine sb_blkEv ?_ rfl ?_ | apply sb_blkGlbE | exact partsIn_trans hl rfl | split

theorem sb_shadowNow {pl : List Part} {z s : State} (h : sameBut pl z s) (hl : partsIn [.glb] pl = true) : sameBut pl z (shadowNow s) := by
  unfold shadowNow
  dsimp only
  have hc := caps_clamped s.glb.capsSh
  split
  · exact h
  · split
    · rename_i hb
      exact sb_blkGlb (sb_blkGlb h ⟨rfl, rfl, rfl, rfl, rfl⟩ (partsIn_trans hl rfl)) ⟨rfl, rfl, rfl, rfl, rfl⟩ (partsIn_trans hl rfl)
    · exact sb_blkGlb h ⟨rfl, rfl, rfl, rfl, rfl⟩ (partsIn_trans hl rfl)

theorem sb_wrCommit {pl : List Part} {z : State} {s : State} {v : Word} (hk : sameBut pl z s) (hl : partsIn [.events, .glb, .evr] pl = true) :
    sameBut pl z (wrCommit s v) := by
  unfold wrCommit
  dsimp only
  repeat' first | (with_reducible first | assumption | rfl | intro _ | apply sb_execBudgetCommit | apply sb_after | apply sb_execTripcapCommit | apply sb_ite) | exact partsIn_trans hl rfl | split

theorem sb_wrCap {pl : List Part} {z : State} {s : State} {k : Nat} {v : Word} (hk : sameBut pl z s) (hl : partsIn [.glb] pl = true) :
    sameBut pl z (wrCap s k v) := by
  unfold wrCap
  dsimp only
  repeat' first | (with_reducible first | assumption | rfl | intro _ | apply sb_shadowNow) | refine sb_blkGlb ?_ ⟨rfl, rfl, rfl, rfl, rfl⟩ ?_ | refine sb_blkEv ?_ rfl ?_ | apply sb_blkGlbE | exact partsIn_trans hl rfl | split

theorem sb_wrGlb {pl : List Part} {z : State} {s : State} {o : Nat} {v : Word} (hk : sameBut pl z s) (hl : partsIn [.events, .glb, .evr] pl = true) :
    WrParts pl z (wrGlb s o v) := by
  unfold wrGlb
  repeat' first | (with_reducible first | assumption | rfl | intro _ | apply sb_halted | apply sb_bcnStart | apply sb_wrBcnCfg | apply sb_wrCap | apply sb_shadowNow | apply sb_wrCommit | apply sb_tripLat | apply sb_Ans.bad | apply sb_ite | apply wrSb_ite | apply wrSb_ok | apply wrSb_bad | apply sb_id) | refine sb_blkGlb ?_ ⟨rfl, rfl, rfl, rfl, rfl⟩ ?_ | refine sb_blkEv ?_ rfl ?_ | apply sb_blkGlbE | exact partsIn_trans hl rfl | split | with_reducible apply ansSb_mk | with_reducible apply AnsParts.st | with_reducible apply AnsParts.after

theorem sb_wrWdt {pl : List Part} {z : State} {s : State} {v : Word} (hk : sameBut pl z s) (hl : partsIn [.mode] pl = true) :
    WrParts pl z (wrWdt s v) := by
  unfold wrWdt
  repeat' first | (with_reducible first | assumption | rfl | intro _ | apply sb_blkMode | apply sb_unlocked | apply wrSb_ok | apply wrSb_bad) | exact partsIn_trans hl rfl | split

theorem sb_wrMode {pl : List Part} {z : State} {s : State} {o : Nat} {v : Word} (hk : sameBut pl z s) (hl : partsIn [.events, .glb, .mode, .clk, .fus, .cfg, .mpu, .fwl, .vlt, .cus, .can0, .can1, .voe, .eng, .pke, .rng, .hif, .spi0, .spi1, .flash, .tmp, .evr, .upd, .flt, .cores, .sram, .free] pl = true) :
    WrParts pl z (wrMode s o v) := by
  unfold wrMode
  dsimp only
  repeat' first | (with_reducible first | assumption | rfl | intro _ | apply sb_blkMode | apply sb_wakeTrigger | apply sb_execModeWdtKick | apply sb_wrWdt | apply sb_after | apply sb_rstCtlWrite | apply sb_ite | apply wrSb_ite | apply wrSb_ok | apply wrSb_bad) | exact partsIn_trans hl rfl | split

theorem sb_wrGate {pl : List Part} {z : State} {s : State} {v : Word} (hk : sameBut pl z s) (hl : partsIn [.clk] pl = true) :
    WrParts pl z (wrGate s v) := by
  unfold wrGate
  dsimp only
  repeat' first | (with_reducible first | assumption | rfl | intro _ | apply sb_onClk | apply sb_halted | apply wrSb_ok | apply wrSb_bad) | exact partsIn_trans hl rfl | split

theorem sb_wrRelock {pl : List Part} {z : State} {s : State} {v : Word} (hk : sameBut pl z s) (hl : partsIn [.events, .mode, .clk, .hif, .evr, .flt] pl = true) :
    WrParts pl z (wrRelock s v) := by
  unfold wrRelock
  dsimp only
  repeat' first | (with_reducible first | assumption | rfl | intro _ | apply sb_relockAccept | apply sb_ite | apply wrSb_ite | apply wrSb_ok | apply wrSb_bad) | exact partsIn_trans hl rfl | split

theorem sb_wrHoldCtl {pl : List Part} {z : State} {s : State} {v : Word} (hk : sameBut pl z s) (hl : partsIn [.clk] pl = true) :
    sameBut pl z (wrHoldCtl s v) := by
  unfold wrHoldCtl
  repeat' first | (with_reducible first | assumption | rfl | intro _ | apply sb_onClk) | exact partsIn_trans hl rfl | split

theorem sb_wrTrim {pl : List Part} {z : State} {s : State} {v : Word} (hk : sameBut pl z s) (hl : partsIn [.clk] pl = true) :
    sameBut pl z (wrTrim s v) := by
  unfold wrTrim
  dsimp only
  repeat' first | (with_reducible first | assumption | rfl | intro _ | apply sb_onClk | apply sb_ite) | exact partsIn_trans hl rfl | split

theorem sb_wrClk {pl : List Part} {z : State} {s : State} {o : Nat} {v : Word} (hk : sameBut pl z s) (hl : partsIn [.events, .mode, .clk, .hif, .evr, .flt] pl = true) :
    WrParts pl z (wrClk s o v) := by
  unfold wrClk
  repeat' first | (with_reducible first | assumption | rfl | intro _ | apply sb_wrRelock | apply sb_onClk | apply sb_wrGate | apply sb_wrHoldCtl | apply sb_wrTrim | apply wrSb_ok | apply wrSb_bad) | exact partsIn_trans hl rfl | split

theorem sb_wrFus {pl : List Part} {z : State} {s : State} {o : Nat} {v : Word} (hk : sameBut pl z s) (hl : partsIn [.events, .fus, .cus, .can0, .can1, .voe, .hif, .evr, .flt] pl = true) :
    WrParts pl z (wrFus s o v) := by
  unfold wrFus
  repeat' first | (with_reducible first | assumption | rfl | intro _ | apply sb_halted | apply sb_onFus | apply sb_execFusRereadNow | apply sb_after | apply sb_execFusePgmGo | apply sb_ite | apply wrSb_ite | apply wrSb_ok | apply wrSb_bad) | exact partsIn_trans hl rfl | split

theorem sb_wrCfg {pl : List Part} {z : State} {s : State} {o : Nat} {v : Word} (hk : sameBut pl z s) (hl : partsIn [.cfg] pl = true) :
    WrParts pl z (wrCfg s o v) := by
  unfold wrCfg
  repeat' first | (with_reducible first | assumption | rfl | intro _ | apply sb_blkCfg | apply wrSb_ok | apply wrSb_bad) | exact partsIn_trans hl rfl | split

theorem sb_wrMpu {pl : List Part} {z : State} {s : State} {o : Nat} {v : Word} (hk : sameBut pl z s) (hl : partsIn [.mpu] pl = true) :
    WrParts pl z (wrMpu s o v) := by
  unfold wrMpu
  try dsimp only
  repeat' first | (with_reducible first | assumption | rfl | intro _ | apply sb_setMpuUnit | apply sb_halted | apply sb_ite | apply wrSb_ite | apply wrSb_ok | apply wrSb_bad) | exact partsIn_trans hl rfl | split

theorem sb_holdWrite {pl : List Part} {z : State} {s : State} {v : Word} (hk : sameBut pl z s) (hl : partsIn [.fwl] pl = true) :
    sameBut pl z (holdWrite s v) := by
  unfold holdWrite
  dsimp only
  repeat' first | (with_reducible first | assumption | rfl | intro _ | apply sb_blkFwl | apply sb_foldl | apply sb_ite) | exact partsIn_trans hl rfl | split

theorem sb_wrRule {pl : List Part} {z : State} {s : State} {o : Nat} {v : Word} (hk : sameBut pl z s) (hl : partsIn [.fwl] pl = true) :
    WrParts pl z (wrRule s o v) := by
  unfold wrRule
  dsimp only
  repeat' first | (with_reducible first | assumption | rfl | intro _ | apply sb_blkFwl | apply sb_halted | apply sb_ite | apply wrSb_ite | apply wrSb_ok | apply wrSb_bad) | exact partsIn_trans hl rfl | split

theorem sb_wrFwl {pl : List Part} {z : State} {s : State} {o : Nat} {v : Word} (hk : sameBut pl z s) (hl : partsIn [.fwl] pl = true) :
    WrParts pl z (wrFwl s o v) := by
  unfold wrFwl
  repeat' first | (with_reducible first | assumption | rfl | intro _ | apply sb_blkFwl | apply sb_holdWrite | apply sb_wrRule | apply sb_ite | apply wrSb_ite | apply wrSb_ok | apply wrSb_bad) | exact partsIn_trans hl rfl | split

theorem sb_wrVltStat {pl : List Part} {z : State} {s : State} {v : Word} (hk : sameBut pl z s) (hl : partsIn [.events, .vlt, .tmp, .evr] pl = true) :
    sameBut pl z (wrVltStat s v) := by
  unfold wrVltStat
  dsimp only
  repeat' first | (with_reducible first | assumption | rfl | intro _ | apply sb_blkVlt | apply sb_alarmClear | apply sb_ite) | exact partsIn_trans hl rfl | split

theorem sb_wrPinCap {pl : List Part} {z : State} {s : State} {v : Word} (hk : sameBut pl z s) (hl : partsIn [.vlt] pl = true) :
    sameBut pl z (wrPinCap s v) := by
  unfold wrPinCap
  dsimp only
  repeat' first | (with_reducible first | assumption | rfl | intro _ | apply sb_blkVlt | apply sb_ite) | exact partsIn_trans hl rfl | split

theorem sb_wrVlt {pl : List Part} {z : State} {s : State} {o : Nat} {v : Word} (hk : sameBut pl z s) (hl : partsIn [.events, .vlt, .tmp, .evr] pl = true) :
    WrParts pl z (wrVlt s o v) := by
  unfold wrVlt
  repeat' first | (with_reducible first | assumption | rfl | intro _ | apply sb_blkVlt | apply sb_wrPinCap | apply sb_wrVltStat | apply wrSb_ok | apply wrSb_bad) | exact partsIn_trans hl rfl | split

theorem sb_wrCusCtl {pl : List Part} {z : State} {s : State} {v : Word} (hk : sameBut pl z s) (hl : partsIn [.events, .mpu, .fwl, .cus, .can0, .can1, .voe, .eng, .rng, .hif, .evr, .flt] pl = true) :
    sameBut pl z (wrCusCtl s v) := by
  unfold wrCusCtl
  dsimp only
  repeat' first | (with_reducible first | assumption | rfl | intro _ | apply sb_after | apply sb_execCustCommit | apply sb_execCustVerify | apply sb_execCustCancel | apply sb_ite) | exact partsIn_trans hl rfl | split

theorem sb_wrCus {pl : List Part} {z : State} {s : State} {o : Nat} {v : Word} (hk : sameBut pl z s) (hl : partsIn [.events, .mpu, .fwl, .cus, .can0, .can1, .voe, .eng, .rng, .hif, .evr, .flt] pl = true) :
    WrParts pl z (wrCus s o v) := by
  unfold wrCus
  try dsimp only
  repeat' first | (with_reducible first | assumption | rfl | intro _ | apply sb_unlocked | apply sb_onCus | apply sb_wrCusCtl | apply sb_ite | apply wrSb_ite | apply wrSb_ok | apply wrSb_bad) | exact partsIn_trans hl rfl | split

theorem sb_wrTxBuf {pl : List Part} {z : State} {s : State} {ch o : Nat} {v : Word} (hk : sameBut pl z s) (hl : partsIn [.can0, .can1] pl = true) :
    WrParts pl z (wrTxBuf s ch o v) := by
  unfold wrTxBuf
  try dsimp only
  repeat' first | (with_reducible first | assumption | rfl | intro _ | apply sb_halted | apply sb_onCan | apply sb_ite | apply wrSb_ite | apply wrSb_ok | apply wrSb_bad) | exact partsIn_trans hl rfl | split

theorem sb_wrCanCtl {pl : List Part} {z : State} {s : State} {ch : Nat} {v : Word} (hk : sameBut pl z s) (hl : partsIn [.events, .mpu, .fwl, .can0, .can1, .evr] pl = true) :
    WrParts pl z (wrCanCtl s ch v) := by
  unfold wrCanCtl
  dsimp only
  repeat' first | (with_reducible first | assumption | rfl | intro _ | apply sb_execBorReq | apply sb_execCanMode | apply sb_after | apply sb_ite | apply wrSb_ite | apply wrSb_ok | apply wrSb_bad) | exact partsIn_trans hl rfl | split

theorem sb_wrCan {pl : List Part} {z : State} {s : State} {ch o : Nat} {v : Word} (hk : sameBut pl z s) (hl : partsIn [.events, .mpu, .fwl, .can0, .can1, .evr, .cores] pl = true) :
    WrParts pl z (wrCan s ch o v) := by
  unfold wrCan
  try dsimp only
  repeat' first | (with_reducible first | assumption | rfl | intro _ | apply sb_onCan | apply sb_wrCanCtl | apply sb_halted | apply sb_after | apply sb_execTxreq | apply sb_execTxabort | apply sb_execRxpop | apply sb_wrTxBuf | apply sb_ite | apply wrSb_ite | apply wrSb_ok | apply wrSb_bad) | exact partsIn_trans hl rfl | split

theorem sb_wrEng {pl : List Part} {z : State} {s : State} {o : Nat} {v : Word} (hk : sameBut pl z s) (hl : partsIn [.events, .eng, .evr, .cores] pl = true) :
    WrParts pl z (wrEng s o v) := by
  unfold wrEng
  repeat' first | (with_reducible first | assumption | rfl | intro _ | apply sb_blkEng | apply sb_engPost | apply sb_engPop | apply sb_ite | apply wrSb_ite | apply wrSb_ok | apply wrSb_bad) | exact partsIn_trans hl rfl | split

theorem sb_wrPke {pl : List Part} {z : State} {s : State} {o : Nat} {v : Word} (hk : sameBut pl z s) (hl : partsIn [.events, .pke, .evr, .cores] pl = true) :
    WrParts pl z (wrPke s o v) := by
  unfold wrPke
  repeat' first | (with_reducible first | assumption | rfl | intro _ | apply sb_blkPke | apply sb_pkePost | apply sb_pkePop | apply sb_ite | apply wrSb_ite | apply wrSb_ok | apply wrSb_bad) | exact partsIn_trans hl rfl | split

theorem sb_wrRng {pl : List Part} {z : State} {s : State} {o : Nat} {v : Word} (hk : sameBut pl z s) (hl : partsIn [.events, .mpu, .fwl, .rng, .evr] pl = true) :
    WrParts pl z (wrRng s o v) := by
  unfold wrRng
  repeat' first | (with_reducible first | assumption | rfl | intro _ | apply sb_onRng | apply sb_unlocked | apply sb_after | apply sb_execRawCapture | apply wrSb_ok | apply wrSb_bad) | exact partsIn_trans hl rfl | split

theorem sb_wrHif {pl : List Part} {z : State} {s : State} {o : Nat} {v : Word} (hk : sameBut pl z s) (hl : partsIn [.events, .hif, .evr, .flt, .cores] pl = true) :
    WrParts pl z (wrHif s o v) := by
  unfold wrHif
  try dsimp only
  repeat' first | (with_reducible first | assumption | rfl | intro _ | apply sb_blkHif | apply sb_after | apply sb_execHifStgTake | apply sb_execHifCplGo | apply sb_execHifMbxDone | apply sb_setFn | apply sb_ite | apply wrSb_ite | apply wrSb_ok | apply wrSb_bad) | exact partsIn_trans hl rfl | split

theorem sb_wrFlt {pl : List Part} {z : State} {s : State} {o : Nat} {v : Word} (hk : sameBut pl z s) (hl : partsIn [.events, .mpu, .fwl, .evr, .flt] pl = true) :
    WrParts pl z (wrFlt s o v) := by
  unfold wrFlt
  dsimp only
  repeat' first | (with_reducible first | assumption | rfl | intro _ | apply sb_blkFlt | apply sb_execFltEn | apply sb_halted | apply sb_after | apply sb_ite | apply wrSb_ite | apply wrSb_ok | apply wrSb_bad) | exact partsIn_trans hl rfl | split

theorem sb_wrSpi0 {pl : List Part} {z : State} {s : State} {o : Nat} {v : Word} (hk : sameBut pl z s) (hl : partsIn [.events, .mpu, .fwl, .spi0, .flash, .evr, .sram, .free] pl = true) :
    WrParts pl z (wrSpi0 s o v) := by
  unfold wrSpi0
  dsimp only
  repeat' first | (with_reducible first | assumption | rfl | intro _ | apply sb_blkSpi0 | apply sb_spi0Cut | apply sb_spi0Go | apply sb_halted | apply sb_ite | apply wrSb_ite | apply wrSb_ok | apply wrSb_bad) | exact partsIn_trans hl rfl | split

theorem sb_wrSpi1 {pl : List Part} {z : State} {s : State} {o : Nat} {v : Word} (hk : sameBut pl z s) (hl : partsIn [.events, .mpu, .fwl, .spi1, .evr, .free] pl = true) :
    WrParts pl z (wrSpi1 s o v) := by
  unfold wrSpi1
  try dsimp only
  repeat' first | (with_reducible first | assumption | rfl | intro _ | apply sb_blkSpi1 | apply sb_halted | apply sb_after | apply sb_execSpi1Tx | apply sb_spi1Watch | apply sb_ite | apply wrSb_ite | apply wrSb_ok | apply wrSb_bad) | exact partsIn_trans hl rfl | split

theorem sb_wrTmp {pl : List Part} {z : State} {s : State} {o : Nat} {v : Word} (hk : sameBut pl z s) (hl : partsIn [.events, .tmp, .evr] pl = true) :
    WrParts pl z (wrTmp s o v) := by
  unfold wrTmp
  try dsimp only
  repeat' first | (with_reducible first | assumption | rfl | intro _ | apply sb_blkTmp | apply sb_after | apply sb_execTmpSticky | apply sb_execTmpHold | apply sb_unlocked | apply sb_execTmpCtlLock | apply sb_ite | apply wrSb_ite | apply wrSb_ok | apply wrSb_bad) | exact partsIn_trans hl rfl | split

theorem sb_wrEvr {pl : List Part} {z : State} {s : State} {o : Nat} {v : Word} (hk : sameBut pl z s) (hl : partsIn [.events, .evr] pl = true) :
    WrParts pl z (wrEvr s o v) := by
  unfold wrEvr
  repeat' first | (with_reducible first | assumption | rfl | intro _ | apply sb_blkEvr | apply sb_irq | apply wrSb_ok | apply wrSb_bad) | exact partsIn_trans hl rfl | split

theorem sb_wrUpd {pl : List Part} {z : State} {s : State} {o : Nat} {v : Word} (hk : sameBut pl z s) (hl : partsIn [.upd] pl = true) :
    WrParts pl z (wrUpd s o v) := by
  unfold wrUpd
  repeat' first | (with_reducible first | assumption | rfl | intro _ | apply sb_blkUpd | apply sb_ite | apply wrSb_ite | apply wrSb_ok | apply wrSb_bad) | exact partsIn_trans hl rfl | split

theorem sb_wrBlock {pl : List Part} {z : State} {s : State} {b o : Nat} {v : Word} (hk : sameBut pl z s) (hl : partsIn [.events, .glb, .mode, .clk, .fus, .cfg, .mpu, .fwl, .vlt, .cus, .can0, .can1, .voe, .eng, .pke, .rng, .hif, .spi0, .spi1, .flash, .tmp, .evr, .upd, .flt, .cores, .sram, .free] pl = true) :
    WrParts pl z (wrBlock s b o v) := by
  unfold wrBlock
  repeat' first | (with_reducible first | assumption | rfl | intro _ | apply sb_wrHif | apply sb_wrEng | apply sb_wrGlb | apply sb_wrClk | apply sb_wrFwl | apply sb_wrRng | apply sb_wrCus | apply sb_wrUpd | apply sb_wrSpi1 | apply sb_wrTmp | apply sb_wrSpi0 | apply sb_wrCfg | apply sb_wrVlt | apply sb_wrMpu | apply sb_wrCan | apply sb_wrFlt | apply sb_wrFus | apply sb_wrMode | apply sb_wrPke | apply sb_wrEvr | apply sb_ite | apply wrSb_ite | apply wrSb_ok | apply wrSb_bad) | exact partsIn_trans hl rfl | split

theorem sb_regWrite {pl : List Part} {z : State} {s : State} {a : Nat} {v : Word} (hk : sameBut pl z s) (hl : partsIn [.events, .glb, .mode, .clk, .fus, .cfg, .mpu, .fwl, .vlt, .cus, .can0, .can1, .voe, .eng, .pke, .rng, .hif, .spi0, .spi1, .flash, .tmp, .evr, .upd, .flt, .cores, .sram, .free] pl = true) :
    WrParts pl z (regWrite s a v) := by
  unfold regWrite
  dsimp only
  repeat' first | (with_reducible first | assumption | rfl | intro _ | apply sb_wrBlock | apply sb_ite | apply wrSb_ite | apply wrSb_ok | apply wrSb_bad) | exact partsIn_trans hl rfl | split

theorem sb_hostWr {pl : List Part} {z s : State} {a : Nat} {r : WrRes} (hr : WrParts pl z r) (h : sameBut pl z s) (hl : partsIn [.events, .evr] pl = true) : sameBut pl z (hostWr s a r) := by
  unfold hostWr
  split
  · exact hr.ok _ rfl
  · exact sb_logRefused h (partsIn_trans hl rfl)

theorem sb_fltHostWrite {pl : List Part} {z : State} {s : State} {a : Nat} {v : Word} (hk : sameBut pl z s) (hl : partsIn [.events, .glb, .mode, .clk, .fus, .cfg, .mpu, .fwl, .vlt, .cus, .can0, .can1, .voe, .eng, .pke, .rng, .hif, .spi0, .spi1, .flash, .tmp, .evr, .upd, .flt, .cores, .sram, .free] pl = true) :
    sameBut pl z (fltHostWrite s a v) := by
  unfold fltHostWrite
  repeat' first | (with_reducible first | assumption | rfl | intro _ | apply sb_hostWr | apply sb_regWrite | apply sb_refuseAcc | apply sb_ite) | exact partsIn_trans hl rfl | split

theorem sb_bar0Write {pl : List Part} {z : State} {s : State} {o : Nat} {v : Word} (hk : sameBut pl z s) (hl : partsIn [.events, .glb, .mode, .clk, .fus, .cfg, .mpu, .fwl, .vlt, .cus, .can0, .can1, .voe, .eng, .pke, .rng, .hif, .spi0, .spi1, .flash, .tmp, .evr, .upd, .flt, .cores, .sram, .free] pl = true) :
    sameBut pl z (bar0Write s o v) := by
  unfold bar0Write
  repeat' first | (with_reducible first | assumption | rfl | intro _ | apply sb_blkHif | apply sb_hostWr | apply sb_regWrite | apply sb_after | apply sb_execHifRingAlloc | apply sb_fltHostWrite | apply sb_ite) | exact partsIn_trans hl rfl | split

theorem sb_ringCtl {pl : List Part} {z : State} {s : State} {fn r : Nat} {v : Word} (hk : sameBut pl z s) (hl : partsIn [.events, .glb, .hif, .evr] pl = true) :
    sameBut pl z (ringCtl s fn r v) := by
  unfold ringCtl
  repeat' first | (with_reducible first | assumption | rfl | intro _ | apply sb_execRingEnable | apply sb_after | apply sb_execRingReset | apply sb_ringClear | apply sb_ite) | exact partsIn_trans hl rfl | split

theorem sb_ringWrite {pl : List Part} {z : State} {s : State} {fn r p : Nat} {v : Word} (hk : sameBut pl z s) (hl : partsIn [.events, .glb, .hif, .evr] pl = true) :
    sameBut pl z (ringWrite s fn r p v) := by
  unfold ringWrite
  dsimp only
  repeat' first | (with_reducible first | assumption | rfl | intro _ | apply sb_setRing | apply sb_logRefused | apply sb_ringCtl | apply sb_ite) | exact partsIn_trans hl rfl | split

theorem sb_pendSend {pl : List Part} {z : State} {s : State} {fn : Nat} (hk : sameBut pl z s) (hl : partsIn [.hif] pl = true) :
    sameBut pl z (pendSend s fn) := by
  unfold pendSend
  dsimp only
  repeat' first | (with_reducible first | assumption | rfl | intro _ | apply sb_sendMsix | apply sb_setFn | apply sb_foldl | apply sb_ite) | exact partsIn_trans hl rfl | split

theorem sb_msixWrite {pl : List Part} {z : State} {s : State} {fn k : Nat} {v : Word} (hk : sameBut pl z s) (hl : partsIn [.hif] pl = true) :
    sameBut pl z (msixWrite s fn k v) := by
  unfold msixWrite
  dsimp only
  repeat' first | (with_reducible first | assumption | rfl | intro _ | apply sb_pendSend | apply sb_setFn) | exact partsIn_trans hl rfl | split

theorem sb_mbxCtl {pl : List Part} {z : State} {s : State} {fn : Nat} {v : Word} (hk : sameBut pl z s) (hl : partsIn [.hif, .cores] pl = true) :
    sameBut pl z (mbxCtl s fn v) := by
  unfold mbxCtl
  dsimp only
  repeat' first | (with_reducible first | assumption | rfl | intro _ | apply sb_execMbxSend | apply sb_after | apply sb_setFn | apply sb_ite) | exact partsIn_trans hl rfl | split

theorem sb_pageWrite {pl : List Part} {z : State} {s : State} {fn o : Nat} {v : Word} (hk : sameBut pl z s) (hl : partsIn [.events, .glb, .mode, .rng, .hif, .evr, .flt, .cores] pl = true) :
    sameBut pl z (pageWrite s fn o v) := by
  unfold pageWrite
  repeat' first | (with_reducible first | assumption | rfl | intro _ | apply sb_blkHif | apply sb_msixWrite | apply sb_execCqHead | apply sb_mbxCtl | apply sb_setFn | apply sb_after | apply sb_ringWrite | apply sb_execSqTail | apply sb_ite) | exact partsIn_trans hl rfl | split

/-! ### Machine/Access.lean -/

theorem sb_readEffect {pl : List Part} {z : State} {s : State} {a n : Nat} (hk : sameBut pl z s) (hl : partsIn [.glb, .rng, .spi1] pl = true) :
    sameBut pl z (readEffect s a n) := by
  unfold readEffect
  repeat' first | (with_reducible first | assumption | rfl | intro _ | apply sb_regReadEffect | apply sb_foldl | apply sb_ite) | exact partsIn_trans hl rfl | split

theorem sb_regsWrite {pl : List Part} {z s : State} {a : Nat} {b : Bytes} (h : sameBut pl z s) (hl : partsIn [.events, .glb, .mode, .clk, .fus, .cfg, .mpu, .fwl, .vlt, .cus, .can0, .can1, .voe, .eng, .pke, .rng, .hif, .spi0, .spi1, .flash, .tmp, .evr, .upd, .flt, .cores, .sram, .free] pl = true) : WrParts pl z (regsWrite s a b) := by
  have aux : ∀ (l : List Nat) (r : WrRes), WrParts pl z r → WrParts pl z (l.foldl (fun r k => match r with
      | .ok s => regWrite s (a + 4 * k) (wordOf (leAt b (4 * k) 4))
      | e => e) r) := by
    intro l
    induction l with
    | nil => exact fun r hr => hr
    | cons k l ih =>
      intro r hr
      refine ih _ ?_
      cases r with
      | ok t => exact sb_regWrite (hr.ok t rfl) (partsIn_trans hl rfl)
      | bad n => exact wrSb_bad
  exact aux _ _ (wrSb_ok h)

theorem sb_storeBytes {pl : List Part} {z : State} {s : State} {a : Nat} {b : Bytes} (hk : sameBut pl z s) (hl : partsIn [.events, .glb, .mode, .clk, .fus, .cfg, .mpu, .fwl, .vlt, .cus, .can0, .can1, .voe, .eng, .pke, .rng, .hif, .spi0, .spi1, .flash, .tmp, .evr, .upd, .flt, .cores, .sram, .free] pl = true) :
    WrParts pl z (storeBytes s a b) := by
  unfold storeBytes
  repeat' first | (with_reducible first | assumption | rfl | intro _ | apply sb_setPke | apply sb_regsWrite | apply sb_sramWrite | apply sb_ite | apply wrSb_ite | apply wrSb_ok | apply wrSb_bad) | exact partsIn_trans hl rfl | split

theorem sb_jtagAnswer {pl : List Part} {z : State} {s : State} {b : BusReq} {err : Bool} {data : Bytes} (hk : sameBut pl z s) (hl : partsIn [.mode] pl = true) :
    sameBut pl z (jtagAnswer s b err data) := by
  unfold jtagAnswer
  repeat' first | (with_reducible first | assumption | rfl | intro _ | apply sb_blkMode | apply sb_ite) | exact partsIn_trans hl rfl | split

theorem sb_denyAcc {pl : List Part} {z : State} {s : State} {b : BusReq} {a : Acc} {src idx : Nat} (hk : sameBut pl z s) (hl : partsIn [.events, .mode, .mpu, .fwl, .evr, .cores, .sram] pl = true) :
    sameBut pl z (denyAcc s b a src idx) := by
  unfold denyAcc
  try dsimp only
  repeat' first | (with_reducible first | assumption | rfl | intro _ | apply sb_refuseAcc | apply sb_raise | apply sb_jtagAnswer | apply sb_ite) | exact partsIn_trans hl rfl | split

theorem sb_accEffect {pl : List Part} {z s : State} {b : BusReq} {a : Acc} (h : sameBut pl z s) (hl : partsIn [.events, .glb, .mode, .clk, .fus, .cfg, .mpu, .fwl, .vlt, .cus, .can0, .can1, .voe, .eng, .pke, .rng, .hif, .spi0, .spi1, .flash, .tmp, .evr, .upd, .flt, .cores, .sram, .free] pl = true) : sameBut pl z (accEffect s b a) := by
  unfold accEffect
  split
  · split
    · rename_i t e
      exact sb_jtagAnswer ((sb_storeBytes h (partsIn_trans hl rfl)).ok t e) (partsIn_trans hl rfl)
    · exact sb_logRefused (sb_denyAcc h (partsIn_trans hl rfl)) (partsIn_trans hl rfl)
  · dsimp only
    split
    · exact sb_onCore (sb_readEffect h (partsIn_trans hl rfl)) (partsIn_trans hl rfl)
    · exact sb_jtagAnswer (sb_readEffect h (partsIn_trans hl rfl)) (partsIn_trans hl rfl)
  · exact h

theorem sb_stallAcc {pl : List Part} {z : State} {s : State} {b : BusReq} {a : Acc} (hk : sameBut pl z s) (hl : partsIn [.mpu, .fwl] pl = true) :
    sameBut pl z (stallAcc s b a) := by
  unfold stallAcc
  repeat' first | (with_reducible first | assumption | rfl | intro _ | apply sb_blkMpu | apply sb_blkFwl | apply sb_ite) | exact partsIn_trans hl rfl | split

theorem sb_endAcc {pl : List Part} {z s : State} {b : BusReq} {a : Acc} {c : Check} (h : sameBut pl z s) (hl : partsIn [.events, .glb, .mode, .clk, .fus, .cfg, .mpu, .fwl, .vlt, .cus, .can0, .can1, .voe, .eng, .pke, .rng, .hif, .spi0, .spi1, .flash, .tmp, .evr, .upd, .flt, .cores, .sram, .free] pl = true) : sameBut pl z (endAcc s b a c) := by
  cases c with
  | ok => exact sb_accEffect h (partsIn_trans hl rfl)
  | stall => exact sb_stallAcc h (partsIn_trans hl rfl)
  | deny x y => exact sb_denyAcc h (partsIn_trans hl rfl)

theorem sb_resolveAcc {pl : List Part} {z : State} {s : State} {b : BusReq} {a : Acc} (hk : sameBut pl z s) (hl : partsIn [.events, .glb, .mode, .clk, .fus, .cfg, .mpu, .fwl, .vlt, .cus, .can0, .can1, .voe, .eng, .pke, .rng, .hif, .spi0, .spi1, .flash, .tmp, .evr, .upd, .flt, .cores, .sram, .free] pl = true) :
    sameBut pl z (resolveAcc s b a) := by
  unfold resolveAcc
  repeat' first | (with_reducible first | assumption | rfl | intro _ | apply sb_endAcc | apply sb_ite) | exact partsIn_trans hl rfl | split

theorem sb_coreResolve {pl : List Part} {z : State} {s : State} {c : Nat} {b : BusReq} (hk : sameBut pl z s) (hl : partsIn [.events, .glb, .mode, .clk, .fus, .cfg, .mpu, .fwl, .vlt, .cus, .can0, .can1, .voe, .eng, .pke, .rng, .hif, .spi0, .spi1, .flash, .tmp, .evr, .upd, .flt, .cores, .sram, .free] pl = true) :
    sameBut pl z (coreResolve s c b) := by
  unfold coreResolve
  try dsimp only
  repeat' first | (with_reducible first | assumption | rfl | intro _ | apply sb_resolveAcc | apply sb_raise | apply sb_translate_p | apply sb_denyAcc | apply sb_stallAcc | apply sb_ite) | exact partsIn_trans hl rfl | (refine sb_translate ?_ (by with_reducible assumption) ?_) | split

theorem sb_resumeAcc {pl : List Part} {z : State} {s : State} {p : BusReq × Acc} (hk : sameBut pl z s) (hl : partsIn [.events, .glb, .mode, .clk, .fus, .cfg, .mpu, .fwl, .vlt, .cus, .can0, .can1, .voe, .eng, .pke, .rng, .hif, .spi0, .spi1, .flash, .tmp, .evr, .upd, .flt, .cores, .sram, .free] pl = true) :
    sameBut pl z (resumeAcc s p) := by
  unfold resumeAcc
  repeat' first | (with_reducible first | assumption | rfl | intro _ | apply sb_coreResolve | apply sb_endAcc | apply sb_ite) | exact partsIn_trans hl rfl | split

theorem sb_releaseStalled {pl : List Part} {z : State} {s : State} (hk : sameBut pl z s) (hl : partsIn [.events, .glb, .mode, .clk, .fus, .cfg, .mpu, .fwl, .vlt, .cus, .can0, .can1, .voe, .eng, .pke, .rng, .hif, .spi0, .spi1, .flash, .tmp, .evr, .upd, .flt, .cores, .sram, .free] pl = true) :
    sameBut pl z (releaseStalled s) := by
  unfold releaseStalled
  try dsimp only
  repeat' first | (with_reducible first | assumption | rfl | intro _ | apply sb_blkFwl | apply sb_blkMpu | apply sb_resolveAcc | apply sb_spi0Retry | apply sb_resumeAcc | apply sb_foldl | apply sb_ite) | exact partsIn_trans hl rfl | split

theorem sb_settleAcc {pl : List Part} {z : State} {s t : State} (hk : sameBut pl z s) (ht : sameBut pl z t) (hl : partsIn [.events, .glb, .mode, .clk, .fus, .cfg, .mpu, .fwl, .vlt, .cus, .can0, .can1, .voe, .eng, .pke, .rng, .hif, .spi0, .spi1, .flash, .tmp, .evr, .upd, .flt, .cores, .sram, .free] pl = true) :
    sameBut pl z (settleAcc s t) := by
  unfold settleAcc
  repeat' first | (with_reducible first | assumption | rfl | intro _ | apply sb_releaseStalled | apply sb_ite) | exact partsIn_trans hl rfl | split

theorem sb_runAcc {pl : List Part} {z : State} {s : State} {b : BusReq} {a : Acc} (hk : sameBut pl z s) (hl : partsIn [.events, .glb, .mode, .clk, .fus, .cfg, .mpu, .fwl, .vlt, .cus, .can0, .can1, .voe, .eng, .pke, .rng, .hif, .spi0, .spi1, .flash, .tmp, .evr, .upd, .flt, .cores, .sram, .free] pl = true) :
    sameBut pl z (runAcc s b a) := by
  unfold runAcc
  repeat' first | (with_reducible first | assumption | rfl | intro _ | apply sb_settleAcc | apply sb_resolveAcc | apply sb_ite) | exact partsIn_trans hl rfl | split

theorem sb_coreAccess {pl : List Part} {z : State} {s : State} {c : Nat} {b : BusReq} (hk : sameBut pl z s) (hl : partsIn [.events, .glb, .mode, .clk, .fus, .cfg, .mpu, .fwl, .vlt, .cus, .can0, .can1, .voe, .eng, .pke, .rng, .hif, .spi0, .spi1, .flash, .tmp, .evr, .upd, .flt, .cores, .sram, .free] pl = true) :
    sameBut pl z (coreAccess s c b) := by
  unfold coreAccess
  repeat' first | (with_reducible first | assumption | rfl | intro _ | apply sb_settleAcc | apply sb_coreResolve | apply sb_ite) | exact partsIn_trans hl rfl | split

theorem sb_execBusAccess {pl : List Part} {z : State} {b : BusReq} {s : State} (hk : sameBut pl z s) (hl : partsIn [.events, .glb, .mode, .clk, .fus, .cfg, .mpu, .fwl, .vlt, .cus, .can0, .can1, .voe, .eng, .pke, .rng, .hif, .spi0, .spi1, .flash, .tmp, .evr, .upd, .flt, .cores, .sram, .free] pl = true) :
    OutParts pl z (execBusAccess b s) := by
  unfold execBusAccess
  try dsimp only
  repeat' first | (with_reducible first | assumption | rfl | intro _ | apply sb_instr | apply sb_coreAccess | apply sb_runAcc | apply sb_ite | apply outSb_ite | apply outSb_next) | exact partsIn_trans hl rfl | split

theorem sb_execRegisterWrite {pl : List Part} {z : State} {src : RegSrc} {a v : Word} {s : State} (hk : sameBut pl z s) (hl : partsIn [.events, .glb, .mode, .clk, .fus, .cfg, .mpu, .fwl, .vlt, .cus, .can0, .can1, .voe, .eng, .pke, .rng, .hif, .spi0, .spi1, .flash, .tmp, .evr, .upd, .flt, .cores, .sram, .free] pl = true) :
    OutParts pl z (execRegisterWrite src a v s) := by
  unfold execRegisterWrite
  repeat' first | (with_reducible first | assumption | rfl | intro _ | apply sb_runAcc | apply sb_instr | apply sb_bar0Write | apply sb_pageWrite | apply sb_ite | apply outSb_ite | apply outSb_next) | exact partsIn_trans hl rfl | split

theorem sb_execMpuCtlEn {pl : List Part} {z : State} {k : Nat} {v : Word} {s : State} (hk : sameBut pl z s) (hl : partsIn [.events, .glb, .mode, .clk, .fus, .cfg, .mpu, .fwl, .vlt, .cus, .can0, .can1, .voe, .eng, .pke, .rng, .hif, .spi0, .spi1, .flash, .tmp, .evr, .upd, .flt, .cores, .sram, .free] pl = true) :
    OutParts pl z (execMpuCtlEn k v s) := by
  unfold execMpuCtlEn
  repeat' first | (with_reducible first | assumption | rfl | intro _ | apply sb_setMpuUnit | apply sb_releaseStalled | apply sb_ite | apply outSb_ite | apply outSb_next) | exact partsIn_trans hl rfl | split

theorem sb_execFwlHold {pl : List Part} {z : State} {v : Word} {s : State} (hk : sameBut pl z s) (hl : partsIn [.events, .glb, .mode, .clk, .fus, .cfg, .mpu, .fwl, .vlt, .cus, .can0, .can1, .voe, .eng, .pke, .rng, .hif, .spi0, .spi1, .flash, .tmp, .evr, .upd, .flt, .cores, .sram, .free] pl = true) :
    OutParts pl z (execFwlHold v s) := by
  unfold execFwlHold
  repeat' first | (with_reducible first | assumption | rfl | intro _ | apply sb_holdWrite | apply sb_releaseStalled | apply sb_ite | apply outSb_ite | apply outSb_next) | exact partsIn_trans hl rfl | split

theorem sb_laneStallEnd {pl : List Part} {z : State} {src : Nat} {f : Acc → Bool} {s : State} {e : Nat} (hk : sameBut pl z s) (hl : partsIn [.events, .mpu, .fwl, .eng, .evr] pl = true) :
    sameBut pl z (laneStallEnd src f s e) := by
  unfold laneStallEnd
  repeat' first | (with_reducible first | assumption | rfl | intro _ | apply sb_setLane | apply sb_refuseAcc | apply sb_ite) | exact partsIn_trans hl rfl | split

theorem sb_spi0StallEnd {pl : List Part} {z : State} {src : Nat} {f : Acc → Bool} {s : State} (hk : sameBut pl z s) (hl : partsIn [.events, .mpu, .fwl, .spi0, .evr] pl = true) :
    sameBut pl z (spi0StallEnd src f s) := by
  unfold spi0StallEnd
  repeat' first | (with_reducible first | assumption | rfl | intro _ | apply sb_spi0End | apply sb_refuseAcc | apply sb_ite) | exact partsIn_trans hl rfl | split

theorem sb_dmaStallEnd {pl : List Part} {z : State} {s : State} {src : Nat} {f : Acc → Bool} (hk : sameBut pl z s) (hl : partsIn [.events, .mpu, .fwl, .eng, .spi0, .evr] pl = true) :
    sameBut pl z (dmaStallEnd s src f) := by
  unfold dmaStallEnd
  repeat' first | (with_reducible first | assumption | rfl | intro _ | apply sb_spi0StallEnd | apply sb_laneStallEnd | apply sb_foldl | apply sb_ite) | exact partsIn_trans hl rfl | split

theorem sb_execMpuStallTimeout {pl : List Part} {z : State} {k : Nat} {s : State} (hk : sameBut pl z s) (hl : partsIn [.events, .mode, .mpu, .fwl, .eng, .spi0, .evr, .cores, .sram] pl = true) :
    OutParts pl z (execMpuStallTimeout k s) := by
  unfold execMpuStallTimeout
  try dsimp only
  repeat' first | (with_reducible first | assumption | rfl | intro _ | apply sb_blkMpu | apply sb_dmaStallEnd | apply sb_denyAcc | apply sb_ite | apply outSb_ite | apply outSb_next) | exact partsIn_trans hl rfl | split

theorem sb_execFirewallHoldTimeout {pl : List Part} {z : State} {t : Nat} {s : State} (hk : sameBut pl z s) (hl : partsIn [.events, .mode, .mpu, .fwl, .eng, .spi0, .evr, .cores, .sram] pl = true) :
    OutParts pl z (execFirewallHoldTimeout t s) := by
  unfold execFirewallHoldTimeout
  try dsimp only
  repeat' first | (with_reducible first | assumption | rfl | intro _ | apply sb_blkFwl | apply sb_dmaStallEnd | apply sb_denyAcc | apply sb_ite | apply outSb_ite | apply outSb_next) | exact partsIn_trans hl rfl | split

/-! ### Machine/CmdAdmin.lean -/

theorem sb_recReadCmd {pl : List Part} {z : State} {s : State} {_fn : Nat} {d : Bytes} {_io : CmdIo} (hk : sameBut pl z s) (hl : partsIn [] pl = true) :
    AnsParts pl z (recReadCmd s _fn d _io) := by
  unfold recReadCmd
  dsimp only
  repeat' first | (with_reducible first | assumption | rfl | intro _ | apply sb_ite | apply ansSb_ite | apply sb_Ans.bad | apply sb_id) | exact partsIn_trans hl rfl | split | with_reducible apply ansSb_mk | with_reducible apply AnsParts.st | with_reducible apply AnsParts.after

theorem sb_recMarkCmd {pl : List Part} {z : State} {s : State} {fn : Nat} {d : Bytes} {io : CmdIo} (hk : sameBut pl z s) (hl : partsIn [.events, .evr] pl = true) :
    AnsParts pl z (recMarkCmd s fn d io) := by
  unfold recMarkCmd
  repeat' first | (with_reducible first | assumption | rfl | intro _ | apply sb_report | apply sb_Ans.bad | apply sb_ite | apply ansSb_ite | apply sb_id) | exact partsIn_trans hl rfl | split | with_reducible apply ansSb_mk | with_reducible apply AnsParts.st | with_reducible apply AnsParts.after

theorem sb_selftestCmd {pl : List Part} {z : State} {s : State} {_fn : Nat} {d : Bytes} {io : CmdIo} (hk : sameBut pl z s) (hl : partsIn [.events, .mode, .tmp, .evr] pl = true) :
    AnsParts pl z (selftestCmd s _fn d io) := by
  unfold selftestCmd
  dsimp only
  repeat' first | (with_reducible first | assumption | rfl | intro _ | apply sb_enginesFail | apply sb_id) | exact partsIn_trans hl rfl | split | with_reducible apply ansSb_mk

theorem sb_dimCmdRun {pl : List Part} {z : State} {s : State} {_fn : Nat} {_d : Bytes} {_io : CmdIo} (hk : sameBut pl z s) (hl : partsIn [.mode] pl = true) :
    AnsParts pl z (dimCmdRun s _fn _d _io) := by
  unfold dimCmdRun
  repeat' first | (with_reducible first | assumption | rfl | intro _ | apply sb_blkMode | apply sb_ite | apply ansSb_ite | apply sb_Ans.denied | apply sb_id | apply optSb_getD) | exact partsIn_trans hl rfl | split | with_reducible apply ansSb_mk | with_reducible apply AnsParts.st | with_reducible apply AnsParts.after

theorem sb_recoveryCmd {pl : List Part} {z : State} {s : State} {_fn : Nat} {_d : Bytes} {_io : CmdIo} (hk : sameBut pl z s) (hl : partsIn [.events, .glb, .mode, .clk, .fus, .cfg, .mpu, .fwl, .vlt, .cus, .can0, .can1, .voe, .eng, .pke, .rng, .hif, .spi0, .spi1, .flash, .tmp, .evr, .upd, .flt, .cores, .sram, .free] pl = true) :
    AnsParts pl z (recoveryCmd s _fn _d _io) := by
  unfold recoveryCmd
  repeat' first | (with_reducible first | assumption | rfl | intro _ | apply sb_blkMode | apply sb_cmdReset | apply sb_after | apply sb_ite | apply ansSb_ite | apply sb_Ans.denied | apply sb_id) | exact partsIn_trans hl rfl | split | with_reducible apply ansSb_mk | with_reducible apply AnsParts.st | with_reducible apply AnsParts.after

theorem sb_pllShadows {pl : List Part} {z : State} {s : State} {d : Bytes} (hk : sameBut pl z s) (hl : partsIn [.clk] pl = true) :
    sameBut pl z (pllShadows s d) := by
  unfold pllShadows
  dsimp only
  repeat' first | (with_reducible first | assumption | rfl | intro _ | apply sb_onClk) | exact partsIn_trans hl rfl | split

theorem sb_pllSetCmd {pl : List Part} {z : State} {s : State} {_fn : Nat} {d : Bytes} {_io : CmdIo} (hk : sameBut pl z s) (hl : partsIn [.events, .mode, .clk, .hif, .evr, .flt] pl = true) :
    AnsParts pl z (pllSetCmd s _fn d _io) := by
  unfold pllSetCmd
  dsimp only
  repeat' first | (with_reducible first | assumption | rfl | intro _ | apply sb_pllShadows | apply sb_relockAccept | apply sb_ite | apply ansSb_ite | apply sb_Ans.bad | apply sb_Ans.denied | apply sb_Ans.late | apply sb_id) | exact partsIn_trans hl rfl | split | with_reducible apply ansSb_mk

theorem sb_beaconSetCmd {pl : List Part} {z : State} {s : State} {_fn : Nat} {d : Bytes} {io : CmdIo} (hk : sameBut pl z s) (hl : partsIn [.glb] pl = true) :
    AnsParts pl z (beaconSetCmd s _fn d io) := by
  unfold beaconSetCmd
  dsimp only
  repeat' first | (with_reducible first | assumption | rfl | intro _ | apply sb_ite | apply ansSb_ite | apply sb_Ans.bad | apply sb_id) | refine sb_blkGlb ?_ ⟨rfl, rfl, rfl, rfl, rfl⟩ ?_ | refine sb_blkEv ?_ rfl ?_ | apply sb_blkGlbE | exact partsIn_trans hl rfl | split | with_reducible apply ansSb_mk | with_reducible apply AnsParts.st | with_reducible apply AnsParts.after

theorem sb_swResetCmd {pl : List Part} {z : State} {s : State} {_fn : Nat} {_d : Bytes} {_io : CmdIo} (hk : sameBut pl z s) (hl : partsIn [.events, .glb, .mode, .clk, .fus, .cfg, .mpu, .fwl, .vlt, .cus, .can0, .can1, .voe, .eng, .pke, .rng, .hif, .spi0, .spi1, .flash, .tmp, .evr, .upd, .flt, .cores, .sram, .free] pl = true) :
    AnsParts pl z (swResetCmd s _fn _d _io) := by
  unfold swResetCmd
  repeat' first | (with_reducible first | assumption | rfl | intro _ | apply sb_cmdReset | apply sb_after | apply sb_id) | exact partsIn_trans hl rfl | split | with_reducible apply ansSb_mk

theorem sb_execRecRead {pl : List Part} {z : State} {fn r : Nat} {io : CmdIo} {s : State} (hk : sameBut pl z s) (hl : partsIn [.events, .hif, .evr, .flt] pl = true) :
    OutParts pl z (execRecRead fn r io s) := by
  unfold execRecRead
  repeat' first | (with_reducible first | assumption | rfl | intro _ | apply sb_recReadCmd | apply sb_serveCmd | apply outSb_next) | exact partsIn_trans hl rfl | split

theorem sb_execRecMark {pl : List Part} {z : State} {fn r : Nat} {io : CmdIo} {s : State} (hk : sameBut pl z s) (hl : partsIn [.events, .hif, .evr, .flt] pl = true) :
    OutParts pl z (execRecMark fn r io s) := by
  unfold execRecMark
  repeat' first | (with_reducible first | assumption | rfl | intro _ | apply sb_serveCmd | apply sb_recMarkCmd | apply outSb_next) | exact partsIn_trans hl rfl | split

theorem sb_execSelftest {pl : List Part} {z : State} {fn r : Nat} {io : CmdIo} {s : State} (hk : sameBut pl z s) (hl : partsIn [.events, .mode, .hif, .tmp, .evr, .flt] pl = true) :
    OutParts pl z (execSelftest fn r io s) := by
  unfold execSelftest
  repeat' first | (with_reducible first | assumption | rfl | intro _ | apply sb_serveCmd | apply sb_selftestCmd | apply outSb_next) | exact partsIn_trans hl rfl | split

theorem sb_execDimCmd {pl : List Part} {z : State} {fn r : Nat} {io : CmdIo} {s : State} (hk : sameBut pl z s) (hl : partsIn [.events, .mode, .hif, .evr, .flt] pl = true) :
    OutParts pl z (execDimCmd fn r io s) := by
  unfold execDimCmd
  repeat' first | (with_reducible first | assumption | rfl | intro _ | apply sb_serveCmd | apply sb_dimCmdRun | apply outSb_next) | exact partsIn_trans hl rfl | split

theorem sb_execRecovery {pl : List Part} {z : State} {fn r : Nat} {io : CmdIo} {s : State} (hk : sameBut pl z s) (hl : partsIn [.events, .glb, .mode, .clk, .fus, .cfg, .mpu, .fwl, .vlt, .cus, .can0, .can1, .voe, .eng, .pke, .rng, .hif, .spi0, .spi1, .flash, .tmp, .evr, .upd, .flt, .cores, .sram, .free] pl = true) :
    OutParts pl z (execRecovery fn r io s) := by
  unfold execRecovery
  repeat' first | (with_reducible first | assumption | rfl | intro _ | apply sb_recoveryCmd | apply sb_serveCmd | apply outSb_next) | exact partsIn_trans hl rfl | split

theorem sb_execPllSet {pl : List Part} {z : State} {fn r : Nat} {io : CmdIo} {s : State} (hk : sameBut pl z s) (hl : partsIn [.events, .mode, .clk, .hif, .evr, .flt] pl = true) :
    OutParts pl z (execPllSet fn r io s) := by
  unfold execPllSet
  repeat' first | (with_reducible first | assumption | rfl | intro _ | apply sb_pllSetCmd | apply sb_serveCmd | apply outSb_next) | exact partsIn_trans hl rfl | split

theorem sb_execBeaconSet {pl : List Part} {z : State} {fn r : Nat} {io : CmdIo} {s : State} (hk : sameBut pl z s) (hl : partsIn [.events, .glb, .hif, .evr, .flt] pl = true) :
    OutParts pl z (execBeaconSet fn r io s) := by
  unfold execBeaconSet
  repeat' first | (with_reducible first | assumption | rfl | intro _ | apply sb_beaconSetCmd | apply sb_serveCmd | apply outSb_next) | exact partsIn_trans hl rfl | split

theorem sb_execSwReset {pl : List Part} {z : State} {fn r : Nat} {io : CmdIo} {s : State} (hk : sameBut pl z s) (hl : partsIn [.events, .glb, .mode, .clk, .fus, .cfg, .mpu, .fwl, .vlt, .cus, .can0, .can1, .voe, .eng, .pke, .rng, .hif, .spi0, .spi1, .flash, .tmp, .evr, .upd, .flt, .cores, .sram, .free] pl = true) :
    OutParts pl z (execSwReset fn r io s) := by
  unfold execSwReset
  repeat' first | (with_reducible first | assumption | rfl | intro _ | apply sb_swResetCmd | apply sb_serveCmd | apply outSb_next) | exact partsIn_trans hl rfl | split

end Sys2Proof.Machine
end

