-- ==== Sys2Proof/WellFormed.lean ====
section
/-! DEFINITION. Which terms of Instr stand for a command that the hardware can meet: lengths and ranges of operands that the
types do not hold. The meanings are total and do not rest on it (log 2). -/
namespace Sys2Proof

/-- The FAIL codes of the engines and stored tests (04 R112). -/
def katCodesOk (l : List Nat) : Bool := l.all fun c => 1 ≤ c && c ≤ 10

/-- A detected IO level: 1.8 V or 3.3 V (04 R90). -/
def ioLevelOk (v : BitVec 2) : Bool := v = 1 || v = 2

/-- What the supplies show. -/
def SupplyEnv.wf (e : SupplyEnv) : Bool := ioLevelOk e.ioA && ioLevelOk e.ioB

/-- The data lengths that a DLC names (11 R267). -/
def dlcBytes (fd : Bool) (dlc : Nat) : Nat :=
  if dlc ≤ 8 then dlc else if fd then [12, 16, 20, 24, 32, 48, 64].getD (dlc - 9) 64 else 8

/-- A frame: identifier, DLC and data agree, and only an FD frame switches the bit rate or carries ESI (11 R267). -/
def CanFrame.wf (f : CanFrame) : Bool :=
  f.id < (if f.ext then 2 ^ 29 else 2 ^ 11) && f.dlc ≤ 15 && f.data.length = dlcBytes f.fd f.dlc && (f.fd || (!f.brs && !f.esi))

/-- A descriptor is 64 bytes (14 R345). -/
def descWf (d : Bytes) : Bool := d.length = 64

/-- A bus request: 1 to 64 bytes within one granule for a DMA initiator or the debugger, 1, 2, 4 or 8 for a core; its data
as long as its size (08 R202). -/
def BusReq.wf (b : BusReq) : Bool :=
  (if b.init.val ≤ 1 then b.size = 1 || b.size = 2 || b.size = 4 || b.size = 8
   else 1 ≤ b.size && b.size ≤ 64 && b.addr.toNat % 64 + b.size ≤ 64 && (b.kind = .load || b.kind = .store))
  && (b.kind ≠ .store || b.data.length = b.size)

/-- A Snuff's measures are within the fields of SNF_TIME and SNF_VLOW (17, Registers). -/
def SnuffEnv.wf (e : SnuffEnv) : Bool := e.before < 2 ^ 16 && e.after < 2 ^ 16 && (e.never &&& ~~~ e.failing) = 0

/-- Receive errors taken together: at most the 255 that a counter shows (11 R274). -/
def smallErr (n : Nat) : Bool := n ≤ 255

/-- The operands of a command are within their ranges. Commands that are not named have operands whose types say all. -/
def Instr.wf : Instr → Bool
  | .powerOnReset io => io.wf
  | .kindle e => katCodesOk e.katFail && e.zfail.all (· < 1024)
  | .tickOverrun _ _ d => descWf d
  | .tripDescArrival _ _ d => descWf d
  | .descFetchComplete _ _ d => descWf d
  | .vfEnable _ n _ => n ≤ 15
  | .frameReceived _ f _ => f.wf
  | .frameTxEnd _ (.error n) _ => n ≤ 32
  | .receiveError _ n => smallErr n
  | .startupTestPass osc => osc.length ≤ 4096
  | .conditioningBlock osc => osc.length ≤ 2048
  | .spi1SelectRelease n _ => n < 32
  | .snuffTrigger e => e.wf
  | .dimWakeComplete l => katCodesOk l
  | .busAccess b => b.wf
  | .registerWrite _ a _ => a.toNat % 4 = 0
  | .linkUp width speed _ => (width = 1 || width = 2) && 1 ≤ speed && speed ≤ 3
  | .batteryPowerOn | .vbatLoss | .mainSupplyLoss | .nrstAssert | .nrstRelease | .watchdogTimeout _ | .modeWdtKick _
  | .wdtLock | .swrst _ | .recov _ | .endpointReset | .vsnuffWaitExpiry | .xaFreqCheck _ | .xbCheck _ | .xbLost
  | .kindleEnd | .bcnRun _ | .tickEdge _ | .syncInEdge _ | .syncHoldover | .glbTickRead | .glbTripLatClear
  | .budgetCommit | .tripcapCommit | .quantumBoundary _ | .announceWindowStart | .announceWindowEnd | .sqTail _ _ _
  | .tripMacStart _ _ _ _ _ | .tripMacEnd _ | .hostReadError _ _ _ | .cqHead _ _ _ | .ringEnable _ _ | .ringReset _ _
  | .functionLevelReset _ | .d3hotEntry _ | .d3hotExit _ | .hifRingAlloc _ _ | .hifStgTake | .hifCplGo _ | .mbxSend _
  | .hifMbxDone _ | .fltEn | .relockGoA | .relockGoB | .relockStart | .relockLockShown _ | .relockFail _
  | .rampStep _ | .lossOfLock _ _ | .degrade | .xaLost | .rereadInterval | .fusRereadNow | .fuseRereadPass
  | .fuseWordReread _ _ _ | .fusePgmGo _ _ | .fusePulseEnd _ _ _ | .wgateCall _ | .wgateReturn _ | .tret _
  | .eenter _ _ _ | .eexit _ | .crd _ _ _ | .cwr _ _ _ | .tfence _ _ | .ecall _ | .ebreak _ | .interruptTaken _
  | .query _ | .partLoad _ | .partUnload _ | .enclCreate _ | .enclAdd _ | .enclSeal _ | .enclDestroy _
  | .enclReport _ | .pkeRaw _ | .irqRaise _ | .mpuCtlEn _ _ | .mpuStallTimeout _ | .fwlHold _
  | .firewallHoldTimeout _ | .zeroizeReadback _ _ | .seasonWindowOpen _ | .seasonRollover _ | .seasonWindowEnd _
  | .generateCommitExpiry _ | .custCommit _ | .custCancel _ | .custVerify _ | .custodyVerifyEnd | .requestExpiry
  | .requestRepeat | .approval | .refusal | .credential _ | .canMode _ _ | .txreq _ _ | .txabort _ _ | .borReq _
  | .rxpop _ | .frameTxEnd _ _ _ | .busOffRecovery _ | .voethData _ | .voethAck _ | .hello _ | .voeRto _ _
  | .helloTimer _ | .align | .alignTimer | .seasonPropose | .seasonAnswer | .mirrorSeasonCancel | .seasonState
  | .engPostGo _ | .engineOpEnd _ | .engRespop | .pkePostGo _ | .pkeResident _ | .pkeOpEnd _ | .pkeRespop
  | .healthTestFailure _ | .reseedTickDue | .reseed | .rawCapture _ | .spi0Go | .spi0CmdEnd _
  | .spi0Timeout | .spi0Abort | .backgroundErase _ | .spi1Tx _ | .spi1WordComplete _ | .spi1Rx | .tamperSourceAct _
  | .tmpHold _ | .tmpSticky _ | .tmpCtlLock _ | .eventAccept | .imageReady | .activationConfirm | .dimEntryCancel
  | .wake | .debugSwitch | .aesEcbEncrypt _ _ _ | .aesEcbDecrypt _ _ _ | .aesCbcEncrypt _ _ _ | .aesCbcDecrypt _ _ _
  | .aesCtrEncrypt _ _ _ | .aesCtrDecrypt _ _ _ | .hmacSha256Generate _ _ _ | .hmacSha256Verify _ _ _
  | .hmacSha384512Generate _ _ _ | .hmacSha384512Verify _ _ _ | .aesGmacGenerate _ _ _ | .aesGmacVerify _ _ _
  | .aesGcmEncrypt _ _ _ | .aesGcmDecrypt _ _ _ | .aesCmacGenerate _ _ _ | .aesCmacVerify _ _ _ | .hashCmd _ _ _
  | .ecdsaSign _ _ _ | .ecdsaVerify _ _ _ | .ed25519Sign _ _ _ | .ed25519Verify _ _ _ | .mlDsa65Sign _ _ _
  | .mlDsa65Verify _ _ _ | .hybridVerify _ _ _ | .ecdhDerive _ _ _ | .rsaSign _ _ _ | .rsaVerify _ _ _
  | .rsaOaepDecrypt _ _ _ | .publicKeyRead _ _ _ | .random _ _ _ | .keyGenerate _ _ _ | .keyImport _ _ _
  | .keyDerive _ _ _ | .keyZeroize _ _ _ | .assocSet _ _ _ | .keyCommit _ _ _ | .keyPin _ _ _ | .keyUnpin _ _ _
  | .seasonSchedule _ _ _ | .seasonCancel _ _ _ | .keyInfo _ _ _ | .dbImport _ _ _ | .dbLoad _ _ _ | .dbDelete _ _ _
  | .dbInfo _ _ _ | .custodyRequest _ _ _ | .custodyCancel _ _ _ | .custodyStatus _ _ _ | .ownerCreate _ _ _
  | .ownerDelete _ _ _ | .keyExport _ _ _ | .keyRestore _ _ _ | .snuff _ _ _ | .debugAuth _ _ _ | .cusEnrol _ _ _
  | .cusRevoke _ _ _ | .fuseProgram _ _ _ | .faultEnable _ _ _ | .recommission _ _ _ | .retire _ _ _
  | .commission _ _ _ | .stageBegin _ _ _ | .stageData _ _ _ | .stageVerify _ _ _ | .activate _ _ _
  | .activateCancel _ _ _ | .imageInfo _ _ _ | .configWrite _ _ _ | .provision _ _ _ | .tokenChallenge _ _ _
  | .tokenApply _ _ _ | .factoryFuse _ _ _ | .recRead _ _ _ | .recMark _ _ _ | .selftest _ _ _ | .dimCmd _ _ _
  | .recovery _ _ _ | .pllSet _ _ _ | .beaconSet _ _ _ | .swReset _ _ _ | .busIntegration _ | .conditionInactive _
  | .vsnuffOk | .haltRequest _ | .debuggerResume _ | .illegalInstruction _ | .spi1SelectAssert => true

end Sys2Proof
end

