-- ==== Sys2Proof/Tests/Slice0.lean ====
section
/-! SUPPORT. Small states, the well-formedness smoke, a witness for the hypotheses of every statement, and results of the
spec's own worked cases. -/
namespace Sys2Proof.Tests
open Sys2Proof Sys2Proof.Machine

/-- The main domain runs in SERVICE, at tick 100. -/
def up : State := (State.reset.setMode { mode := .service }).setGlb { run := true, tick := 100 }
/-- No supply. -/
def off0 : State := State.reset.setMode { mode := .off, vbatIn := false }
/-- VIGIL. -/
def vig0 : State := State.reset.setMode { mode := .vigil }
/-- PF ring 3 in this state, in SERVICE. -/
def rg (g : Ring) : State := up.setHif { up.hif with rings := [(3, g)] }
/-- A 64-byte descriptor: opcode, KEY, LEN, IN, OUT, AUX, AUX_LEN, TAGLEN and the operand bytes. -/
def dsc (op key len inn out aux auxLen tag : Nat) (o : Bytes) : Bytes :=
  leBytes 2 op ++ leBytes 2 0 ++ leBytes 4 7 ++ leBytes 4 key ++ leBytes 4 len ++ leBytes 8 inn ++ leBytes 8 out
    ++ leBytes 8 aux ++ leBytes 2 auxLen ++ leBytes 1 tag ++ leBytes 1 0 ++ slice o 0 20
/-- The descriptor runs in slot 0 of PF ring 3. -/
def jb (cls : Nat) (d : Bytes) : State := rg { en := true, cls := cls, running := [⟨0, d, [], false⟩] }
/-- A LIVE key of the PF in slot 0, association 1, with its material pinned in the cache. -/
def kv (usage alg : Nat) (s : State) : State :=
  s.setVlt { s.vlt with slots := [(0, { usage := usage, alg := alg, state := 1, assoc := 1 })], cache := [⟨0, 0, { usage := usage, alg := alg, state := 1, assoc := 1 }, List.replicate 32 1, true, false⟩] }
/-- The trip of slot 0 of PF ring 3, its reads issued, with this descriptor and this MAC unit. -/
def tp (d : Option Bytes) (u : Option Nat) : Trip :=
  { fn := 0, ring := 3, slot := 0, adm := ⟨100, 0⟩, desc := d, tags := some 2, unit := u }
/-- A trip in flight on PF ring 3, class TRIP. -/
def tr (d : Option Bytes) : State :=
  (rg { en := true, cls := 0, obs := 1, running := match d with | some d => [⟨0, d, [], false⟩] | none => [] }).setHif { (rg { en := true, cls := 0, obs := 1, running := match d with | some d => [⟨0, d, [], false⟩] | none => [] }).hif with trips := [tp d none] }
/-- Every block clocked. -/
def ong : State := up.setClk { up.clk with gate := 0x3FFFFF }
/-- `kv` for a descriptor running in slot 0 of PF ring 3, with association 1 of owner 0. -/
def aw (usage : Nat) (d : Bytes) : State :=
  (kv usage 0 (jb 3 d)).setVlt { (kv usage 0 (jb 3 d)).vlt with assocs := [(1, some ⟨0, usage, 0, false⟩)] }
/-- The latch stands for an operation whose record holds these PARAM bytes. -/
def ltj (op : Nat) (param : Bytes) (s : State) : State :=
  s.setCus { s.cus with state := 1, latch := { isSet := true, op := op, slotA := 0, slotB := 1, reqNo := 1, record := List.replicate 48 0 ++ slice param 0 32 ++ List.replicate 32 0 }, req := List.replicate 48 0 ++ slice param 0 32 ++ List.replicate 32 0 }
/-- The same with the descriptor running in slot 0 of PF ring 3. -/
def lt (op : Nat) (param : Bytes) (d : Bytes) : State := ltj op param (jb 3 d)
/-- Core 0 in this state, in SERVICE, partition 1 valid. -/
def co (x : Core) : State := setCore (up.setCores { up.cores with pctx := [(1, 0x10000003)] }) 0 x
/-- Core 0 runs the firmware after a WGATE call from partition 1 with these registers. -/
def sv (l : Level) (regs : Tab DWord) : State := co { mon := { cause := 0x10 }, part := 1, wsave := { level := l, part := 1, x := regs, call := true } }

/-! ### Well-formedness: one ill-formed term for each check -/

/-- A bus request of core 0. -/
def busQ : BusReq := ⟨0, .load, 0x10000000, 4, [], 1, false, 0, false⟩

theorem test_wf_io_level : (Instr.powerOnReset ⟨0, 1, .absent, true, false⟩).wf = false := by decide
theorem test_wf_io_level_b : (Instr.powerOnReset ⟨1, 3, .absent, true, false⟩).wf = false := by decide
theorem test_wf_kat_code : (Instr.kindle ⟨[11], .absent, true, 25, 8000, []⟩).wf = false := by decide
theorem test_wf_kat_code_wake : (Instr.dimWakeComplete [0]).wf = false := by decide
theorem test_wf_descriptor : (Instr.tickOverrun 0 3 [0]).wf = false ∧ (Instr.tripDescArrival 0 3 [0]).wf = false
    ∧ (Instr.descFetchComplete 0 3 []).wf = false := by decide
theorem test_wf_num_vfs : (Instr.vfEnable true 16 true).wf = false := by decide
theorem test_wf_frame_id : (Instr.frameReceived 0 ⟨2 ^ 29, true, true, true, 0, [], false⟩ 0).wf = false
    ∧ (Instr.frameReceived 0 ⟨2 ^ 11, false, true, true, 0, [], false⟩ 0).wf = false := by decide
theorem test_wf_frame_dlc : (Instr.frameReceived 0 ⟨1, true, true, true, 16, List.replicate 64 0, false⟩ 0).wf = false := by decide
theorem test_wf_frame_data : (Instr.frameReceived 0 ⟨1, true, true, true, 9, List.replicate 9 0, false⟩ 0).wf = false := by decide
theorem test_wf_frame_brs : (Instr.frameReceived 0 ⟨1, true, false, true, 0, [], false⟩ 0).wf = false := by decide
theorem test_wf_receive_error : (Instr.receiveError 0 256).wf = false := by decide
theorem test_wf_block : (Instr.conditioningBlock (List.replicate 2049 0)).wf = false := by decide +kernel
theorem test_wf_frame_esi : (Instr.frameReceived 0 ⟨1, true, false, false, 0, [], true⟩ 0).wf = false := by decide
theorem test_wf_error_steps : (Instr.frameTxEnd 0 (.error 33) 0).wf = false := by decide
theorem test_wf_startup : (Instr.startupTestPass (List.replicate 4097 0)).wf = false := by decide +kernel
theorem test_wf_zfail : (Instr.kindle ⟨[], .absent, true, 25, 8000, [1024]⟩).wf = false := by decide
theorem test_wf_edges : (Instr.spi1SelectRelease 32 0).wf = false := by decide
theorem test_wf_snuff : (Instr.snuffTrigger ⟨0, 1, true, 10, 900, 850⟩).wf = false
    ∧ (Instr.snuffTrigger ⟨0, 0, true, 10, 2 ^ 16, 850⟩).wf = false := by decide
theorem test_wf_core_size : (Instr.busAccess { busQ with size := 3 }).wf = false := by decide
theorem test_wf_store_data : (Instr.busAccess { busQ with kind := .store }).wf = false := by decide
theorem test_wf_granule : (Instr.busAccess { busQ with init := 3, addr := 0x1000003F, size := 2 }).wf = false := by decide
theorem test_wf_dma_kind : (Instr.busAccess { busQ with init := 3, kind := .fetch }).wf = false := by decide
theorem test_wf_word_address : (Instr.registerWrite .bar0 0x40000102 0).wf = false := by decide
theorem test_wf_link : (Instr.linkUp 4 3 false).wf = false ∧ (Instr.linkUp 2 4 false).wf = false := by decide
theorem test_wf_good : (Instr.busAccess busQ).wf = true ∧ (Instr.linkUp 2 3 true).wf = true
    ∧ (Instr.frameReceived 0 ⟨1, true, true, true, 9, List.replicate 12 0, false⟩ 0).wf = true := by decide

/-! ### Worked cases of the spec and of the standards it names -/

/-- No row of the table has bits, so no word spells a command. -/
theorem test_no_word_spells_a_command : decodeTableWord 8 0x5A = none := by decide
/-- 02 R39: 250 µs at PERIOD 3 are 6250 counts of 40 ns. -/
theorem test_period : ticksN (up.setGlb { up.glb with period := 3 }) = 6250 := by decide
/-- 11, Worked case: 160 cycles of 12.5 ns in a nominal bit, 40 in a data bit, within the limits of R268. -/
theorem test_bit_times : ntCycles 0x007E1F1F = 160 ∧ dtCycles 0x00A01E77 = 40 ∧ timingOk 0x007E1F1F 0x00A01E77 = true := by
  decide
/-- 11, Worked case: d = 128,693,760 with a residual of −8 counts. -/
theorem test_alignment : nearest ((171905536 - 43211776) * 6250 + (3105 - 3113)) 6250 = 128693760 := by decide
/-- 11 R276: the frames of an APPROVAL, a CREDENTIAL and a REQUEST. -/
theorem test_fragments : fragCount 5462 = 98 ∧ fragCount 2049 = 37 ∧ fragCount 112 = 2 := by decide
/-- FIPS 197, appendix C.1. -/
theorem test_aes_128 : aesEnc [0x00, 0x01, 0x02, 0x03, 0x04, 0x05, 0x06, 0x07, 0x08, 0x09, 0x0A, 0x0B, 0x0C, 0x0D, 0x0E, 0x0F]
      [0x00, 0x11, 0x22, 0x33, 0x44, 0x55, 0x66, 0x77, 0x88, 0x99, 0xAA, 0xBB, 0xCC, 0xDD, 0xEE, 0xFF]
    = [0x69, 0xC4, 0xE0, 0xD8, 0x6A, 0x7B, 0x04, 0x30, 0xD8, 0xCD, 0xB7, 0x80, 0x70, 0xB4, 0xC5, 0x5A] := by decide +kernel
/-- FIPS 180-4: the digest of "abc". -/
theorem test_sha_256 : (sha256 (ascii "abc")).take 8 = [0xBA, 0x78, 0x16, 0xBF, 0x8F, 0x01, 0xCF, 0xEA] := by decide +kernel
/-- A step runs the command in front. -/
theorem test_step_front : step (up.setPending [.wdtLock]) = .next (up.setMode { up.mode with wdtLock := true }) := rfl


/-! ### Witnesses -/

/-- Every hypothesis of StepRunsFront is met. -/
theorem wit_StepRunsFront :
    ∃ (s : State), (s.pending = []) :=
  ⟨(State.reset), by decide⟩

/-- Every hypothesis of KeyCheckValue is met, clause by clause. -/
theorem wit_KeyCheckValue :
    (∃ (alg : Nat) (m : Bytes), (alg ≤ 2))
    ∧ (∃ (alg : Nat) (m : Bytes), (2 < alg)) :=
  ⟨⟨(2), ([]), by decide⟩,
   ⟨(3), ([]), by decide⟩⟩

/-- Every hypothesis of FetchesOutsideRefused is met. -/
theorem wit_FetchesOutsideRefused :
    ∃ (s : State) (a : Acc), (a.kind = 2) ∧ (targetOf a.addr ≠ some 0) ∧ (targetOf a.addr ≠ some 1) :=
  ⟨(up), ({ init := 0, kind := 2, addr := 0x40000000, size := 4, secure := true, level := 3, owner := 0 }), by decide⟩

/-- Every hypothesis of MemoryWrites is met, clause by clause. -/
theorem wit_MemoryWrites :
    (∃ (s : State) (k j n : Nat) (b : Bytes), (j + n ≤ k ∨ k + b.length ≤ j))
    ∧ (∃ (s : State) (d k e j n : Nat) (b : Bytes), (d * 2 ^ 32 + k + b.length ≤ e * 2 ^ 32 + j ∨ e * 2 ^ 32 + j + n ≤ d * 2 ^ 32 + k))
    ∧ (∃ (s : State) (k : Nat) (b : Bytes), (s.memWf = true)) :=
  ⟨⟨(up), (8), (0), (8), ([1, 2]), by decide⟩,
   ⟨(up), (0), (8), (0), (0), (8), ([1, 2]), by decide⟩,
   ⟨(State.reset), (0), ([1]), by decide⟩⟩

/-- Every hypothesis of StepKeepsInv is met. -/
theorem wit_StepKeepsInv :
    ∃ (s t : State), (s.Inv) ∧ (step s = .next t) :=
  ⟨((State.reset.setPending [.wdtLock])), ((State.reset.setMode { State.reset.mode with wdtLock := true })), ⟨by decide, by decide⟩, rfl⟩

/-- Every hypothesis of LatchOnlySetByVerify is met. -/
theorem wit_LatchOnlySetByVerify :
    ∃ (c : Instr) (s t : State), (exec c s = .next t) ∧ (c ≠ .custodyVerifyEnd ∨ (custChecks s (approvalAt s 0) (approvalAt s 0x1800)).isSome = true) ∧ (t.cus.latch.isSet = true) :=
  ⟨(.wdtLock), ((up.setCus { up.cus with latch := { isSet := true, op := 1, slotA := 0, slotB := 1, reqNo := 1 } })), (((up.setCus { up.cus with latch := { isSet := true, op := 1, slotA := 0, slotB := 1, reqNo := 1 } }).setMode { up.mode with wdtLock := true })), rfl, Or.inl (by decide), by decide⟩

/-- Every hypothesis of CommandFrames is met. -/
theorem wit_CommandFrames :
    ∃ (c : Instr) (s t : State), (exec c s = .next t) :=
  ⟨(.wdtLock), ((up.setCus { up.cus with latch := { isSet := true, op := 1, slotA := 0, slotB := 1, reqNo := 1 } })), (((up.setCus { up.cus with latch := { isSet := true, op := 1, slotA := 0, slotB := 1, reqNo := 1 } }).setMode { up.mode with wdtLock := true })), rfl⟩

/-- Every hypothesis of SupplyEvents is met, clause by clause. -/
theorem wit_SupplyEvents :
    (∃ (s : State), (s.mode.mode = .off))
    ∧ (∃ (s : State), (s.mode.mode = .off) ∧ (s.tmp.cond = 0))
    ∧ (∃ (s : State), (s.mode.mode ≠ .off))
    ∧ (∃ (s : State), (s.mode.mode = .vigil))
    ∧ (∃ (s : State), (s.mode.mode = .off))
    ∧ (∃ (s : State), (s.mode.mode ≠ .vigil) ∧ (s.mode.mode ≠ .off))
    ∧ (∃ (s : State) (io : SupplyEnv), (s.mode.mode = .off ∨ s.mode.mode = .vigil))
    ∧ (∃ (s : State) (io : SupplyEnv), (s.mode.mode = .off ∨ s.mode.mode = .vigil) ∧ (io.nrstLow = true))
    ∧ (∃ (s : State), (s.mode.mode ≠ .off) ∧ (s.mode.mode ≠ .vigil) ∧ (s.mode.vbatIn = true))
    ∧ (∃ (s : State), (s.mode.mode ≠ .off) ∧ (s.mode.mode ≠ .vigil) ∧ (s.mode.vbatIn = false))
    ∧ (∃ (s : State), (s.fus.pgm = none))
    ∧ (∃ (s : State), (mainUp s = true) ∧ (s.fus.pgm = none))
    ∧ (∃ (s : State), (mainUp s = true) ∧ (s.fus.pgm.isSome = true))
    ∧ (∃ (s : State), (s.mode.inReset = true))
    ∧ (∃ (s : State), (s.mode.inReset = false)) :=
  ⟨⟨(off0), by decide⟩,
   ⟨(off0), by decide⟩,
   ⟨(up), by decide⟩,
   ⟨(vig0), by decide⟩,
   ⟨(off0), by decide⟩,
   ⟨(up), by decide⟩,
   ⟨(vig0), (⟨1, 2, .absent, true, false⟩), by decide⟩,
   ⟨(vig0), (⟨1, 2, .absent, true, true⟩), by decide⟩,
   ⟨(up), by decide⟩,
   ⟨(up.setMode { up.mode with vbatIn := false }), by decide⟩,
   ⟨(up), by decide⟩,
   ⟨(up), by decide⟩,
   ⟨(up.setFus { up.fus with pgm := some { words := [0], bits := 0 } }), by decide⟩,
   ⟨(up.setMode { up.mode with inReset := true, nrstLow := true }), by decide⟩,
   ⟨(up), by decide⟩⟩

/-- Every hypothesis of DeviceResets is met, clause by clause. -/
theorem wit_DeviceResets :
    (∃ (s : State) (k : Fin 12), (wdtRuns s = true) ∧ (max 1 s.mode.wdtTimeout ≤ s.mode.wdtCount) ∧ (inKindle s = false))
    ∧ (∃ (s : State) (k : Fin 12), (wdtRuns s = true) ∧ (max 1 s.mode.wdtTimeout ≤ s.mode.wdtCount) ∧ (inKindle s = true) ∧ (s.mode.kindleStep = 0))
    ∧ (∃ (s : State) (k : Fin 12), (wdtRuns s = true) ∧ (max 1 s.mode.wdtTimeout ≤ s.mode.wdtCount) ∧ (inKindle s = true) ∧ (s.mode.kindleStep = 12))
    ∧ (∃ (s : State), (mainUp s = true))
    ∧ (∃ (s : State) (v : Word), (mainUp s = true) ∧ (v ≠ 0x5A5A))
    ∧ (∃ (s : State), (mainUp s = true))
    ∧ (∃ (s : State) (v : Word), (mainUp s = true) ∧ (fld v 24 8 = 0xA5) ∧ (bit v 1 = false) ∧ (bit v 0 = true))
    ∧ (∃ (s : State) (v : Word), (mainUp s = true) ∧ (fld v 24 8 = 0xA5) ∧ (bit v 1 = true))
    ∧ (∃ (s : State) (v : Word), (mainUp s = true) ∧ (fld v 24 8 ≠ 0xA5))
    ∧ (∃ (s : State) (v : Word), (mainUp s = true) ∧ (fld v 24 8 = 0xA5)) :=
  ⟨⟨(up.setMode { up.mode with wdtCount := 65535 }), (3), by decide⟩,
   ⟨(State.reset.setMode { State.reset.mode with wdtCount := 65535 }), (3), by decide⟩,
   ⟨(State.reset.setMode { State.reset.mode with wdtCount := 65535, kindleStep := 12 }), (3), by decide⟩,
   ⟨(up), by decide⟩,
   ⟨(up), (7), by decide⟩,
   ⟨(up), by decide⟩,
   ⟨(up), (0xA5000001), by decide⟩,
   ⟨(up), (0xA5000002), by decide⟩,
   ⟨(up), (1), by decide⟩,
   ⟨(up), (0xA5000001), by decide⟩⟩

/-- Every hypothesis of KindleStepsAndEnd is met, clause by clause. -/
theorem wit_KindleStepsAndEnd :
    (∃ (s : State) (e : KindleEnv), (inKindle s = true) ∧ (s.mode.inReset = false) ∧ (s.mode.kindleStep = 0) ∧ (e.vsnuffOk = false))
    ∧ (∃ (s : State) (e : KindleEnv), (inKindle s = true) ∧ (s.mode.inReset = false) ∧ (s.mode.kindleStep = 0) ∧ (e.vsnuffOk = true))
    ∧ (∃ (s : State), (bcnCfgOk s.glb = true))
    ∧ (∃ (s : State), (kindleWaits s = true))
    ∧ (∃ (s : State), (kindleWaits s = false))
    ∧ (∃ (s : State), (kindleWaits s = true) ∧ (bcnCfgOk s.glb = true))
    ∧ (∃ (s : State), (s.mode.mode = .kindle) ∧ (s.mode.inReset = false) ∧ (s.mode.kindled = true) ∧ (s.glb.run = true) ∧ (1 ≤ s.glb.tick.toNat) ∧ (s.mode.katFail = [])) :=
  ⟨⟨(State.reset), (⟨[], .absent, false, 25, 9000, []⟩), by decide⟩,
   ⟨(State.reset), (⟨[], .absent, true, 25, 9000, []⟩), by decide⟩,
   ⟨(State.reset), by decide⟩,
   ⟨(State.reset.setMode { kindleStep := 12 }), by decide⟩,
   ⟨(up), by decide⟩,
   ⟨(State.reset.setMode { kindleStep := 12 }), by decide⟩,
   ⟨((State.reset.setMode { kindled := true, pairOk := true }).setGlb { run := true, tick := 1 }), by decide⟩⟩

/-- Every hypothesis of BeaconPeriod is met, clause by clause. -/
theorem wit_BeaconPeriod :
    (∃ (s : State), (s.glb.period ≤ 18))
    ∧ (∃ (s : State) (v : Word), (mainUp s = true) ∧ (s.glb.run = false) ∧ (bit v 0 = true) ∧ (19 ≤ s.glb.period)) :=
  ⟨⟨(up), by decide⟩,
   ⟨(State.reset.setGlb { period := 19 }), (1), by decide⟩⟩

/-- Every hypothesis of BeaconStartsAndSync is met, clause by clause. -/
theorem wit_BeaconStartsAndSync :
    (∃ (s : State) (v : Word), (s.mode.mode = .kindle) ∧ (s.mode.inReset = false) ∧ (s.glb.run = false) ∧ (bit v 0 = true) ∧ (bcnCfgOk s.glb = true))
    ∧ (∃ (s : State) (v : Word), (mainUp s = true) ∧ (s.glb.run = true) ∧ (bit v 0 = false))
    ∧ (∃ (s : State) (v : Word), (mainUp s = true) ∧ (s.glb.run = true) ∧ (bit v 0 = true))
    ∧ (∃ (s : State) (v : Word), (mainUp s = true) ∧ (s.glb.run = false) ∧ (bit v 0 = true) ∧ (bcnCfgOk s.glb = false))
    ∧ (∃ (s : State) (half : Bool), (2 * s.glb.sub + b2n half ≤ ticksN s))
    ∧ (∃ (s : State) (half : Bool), (ticksN s < 2 * s.glb.sub + b2n half))
    ∧ (∃ (s : State) (half : Bool), (inHoldoff s = true))
    ∧ (∃ (s : State) (half : Bool), (s.glb.lock = .free))
    ∧ (∃ (s : State) (half : Bool), (mainUp s = true) ∧ (s.glb.run = true) ∧ (inHoldoff s = false) ∧ (s.glb.lock = .acquire) ∧ ((edgeNear s half).2.natAbs ≤ 10) ∧ (s.glb.acq = 2))
    ∧ (∃ (s : State) (half : Bool), (mainUp s = true) ∧ (s.glb.run = true) ∧ (inHoldoff s = false) ∧ (s.glb.lock = .acquire) ∧ (10 < (edgeNear s half).2.natAbs ∨ s.glb.acq < 2))
    ∧ (∃ (s : State) (half : Bool), (mainUp s = true) ∧ (s.glb.run = true) ∧ (inHoldoff s = false) ∧ (s.glb.lock = .locked) ∧ ((edgeNear s half).2.natAbs ≤ 250) ∧ (((edgeNear s half).1 - s.glb.syncRef).toNat % syncTicks s = 0))
    ∧ (∃ (s : State) (half : Bool), (mainUp s = true) ∧ (s.glb.run = true) ∧ (inHoldoff s = false) ∧ (s.glb.lock = .locked) ∧ (250 < (edgeNear s half).2.natAbs ∨ ((edgeNear s half).1 - s.glb.syncRef).toNat % syncTicks s ≠ 0))
    ∧ (∃ (s : State) (half : Bool), (mainUp s = true) ∧ (s.glb.run = true) ∧ (inHoldoff s = false) ∧ (s.glb.lock = .holdover))
    ∧ (∃ (s : State), (mainUp s = true) ∧ (s.glb.run = true) ∧ (s.glb.lock = .locked) ∧ (missLimit s.glb.src ≤ s.glb.miss))
    ∧ (∃ (s : State), (s.glb.miss < missLimit s.glb.src)) :=
  ⟨⟨(State.reset), (1), by decide⟩,
   ⟨(up), (0), by decide⟩,
   ⟨(up), (1), by decide⟩,
   ⟨(State.reset.setGlb { src := 3 }), (1), by decide⟩,
   ⟨(up), (true), by decide⟩,
   ⟨(up.setGlb { up.glb with sub := 6249 }), (true), by decide⟩,
   ⟨(up.setGlb { up.glb with lastSync := some ⟨100, 0⟩ }), (false), by decide⟩,
   ⟨(up), (false), by decide⟩,
   ⟨(up.setGlb { up.glb with lock := .acquire, acq := 2, sub := 2 }), (false), by decide⟩,
   ⟨(up.setGlb { up.glb with lock := .acquire }), (false), by decide⟩,
   ⟨(up.setGlb { up.glb with lock := .locked, sub := 250 / 2 }), (false), by decide⟩,
   ⟨(up.setGlb { up.glb with lock := .locked, sub := 125 }), (true), by decide⟩,
   ⟨(up.setGlb { up.glb with lock := .holdover }), (false), by decide⟩,
   ⟨(up.setGlb { up.glb with lock := .locked, miss := 8 }), by decide⟩,
   ⟨(up.setGlb { up.glb with lock := .locked, miss := 7 }), by decide⟩⟩

/-- Every hypothesis of TickEdgeAndGroups is met, clause by clause. -/
theorem wit_TickEdgeAndGroups :
    (∃ (s : State) (e : TickEnv), (mainUp s = true) ∧ (s.glb.run = true) ∧ (s.glb.sub + 1 = ticksN s))
    ∧ (∃ (s : State) (e : TickEnv), (mainUp s = true) ∧ (s.glb.run = true) ∧ (s.glb.sub + 1 = ticksN s))
    ∧ (∃ (s : State), (mainUp s = true))
    ∧ (∃ (s : State), (mainUp s = true))
    ∧ (∃ (s : State), (mainUp s = true) ∧ (s.glb.run = true))
    ∧ (∃ (s : State), (mainUp s = true) ∧ (s.glb.run = true))
    ∧ (∃ (s : State) (b : List Bud), (s.glb.budCommit = some b) ∧ (s.glb.capsCommit = none) ∧ (budOk b = true))
    ∧ (∃ (s : State) (b : List Bud), (s.glb.budCommit = some b) ∧ (s.glb.capsCommit = none) ∧ (budOk b = false))
    ∧ (∃ (s : State) (l : List Nat), (s.glb.budCommit = none) ∧ (s.glb.capsCommit = some l))
    ∧ (∃ (s : State), (mainUp s = true) ∧ (s.glb.run = false))
    ∧ (∃ (s : State) (b : List Bud) (l : List Nat), (s.glb.budCommit = some b) ∧ (s.glb.capsCommit = some l) ∧ (budOk b = true)) :=
  ⟨⟨(up.setGlb { up.glb with sub := 6249 }), (⟨25, none, .absent⟩), by decide⟩,
   ⟨(up.setGlb { up.glb with sub := 6249 }), (⟨25, none, .absent⟩), by decide⟩,
   ⟨(up), by decide⟩,
   ⟨(up), by decide⟩,
   ⟨(up), by decide⟩,
   ⟨(up), by decide⟩,
   ⟨(up.setGlb { up.glb with budCommit := some [] }), ([]), by decide⟩,
   ⟨(up.setGlb { up.glb with budCommit := some [⟨33, 0, 0⟩] }), ([⟨33, 0, 0⟩]), by decide⟩,
   ⟨(up.setGlb { up.glb with capsCommit := some [25] }), ([25]), by decide⟩,
   ⟨(State.reset), by decide⟩,
   ⟨(up.setGlb { up.glb with budCommit := some [], capsCommit := some [25] }), ([]), ([25]), by decide⟩⟩

/-- Every hypothesis of CrystalChecksAndRelocks is met, clause by clause. -/
theorem wit_CrystalChecksAndRelocks :
    (∃ (s : State) (n : Nat), (s.mode.mode = .kindle) ∧ (mainUp s = true) ∧ (s.clk.xaUsed = false) ∧ (2425 ≤ n) ∧ (n ≤ 2575))
    ∧ (∃ (s : State) (n : Nat), (s.mode.mode = .kindle) ∧ (mainUp s = true) ∧ (s.clk.xaUsed = false) ∧ (n < 2425 ∨ 2575 < n))
    ∧ (∃ (s : State) (n : Nat), (mainUp s = true) ∧ (30313 ≤ n) ∧ (n ≤ 32187))
    ∧ (∃ (s : State) (n : Nat), (mainUp s = true) ∧ (n < 30313 ∨ 32187 < n))
    ∧ (∃ (s : State), (s.mode.mode = .vigil) ∧ (s.tmp.xb = true))
    ∧ (∃ (s : State), (s.tmp.xb = false))
    ∧ (∃ (s : State), (mainUp s = true) ∧ (s.glb.run = true) ∧ (relockOk s .a s.clk.relockTick = true) ∧ (s.mode.hold = false) ∧ (s.mode.dimPend = none))
    ∧ (∃ (s : State), (mainUp s = true) ∧ (s.glb.run = true) ∧ (relockOk s .b s.clk.relockTick = true) ∧ (s.mode.hold = false) ∧ (s.mode.dimPend = none))
    ∧ (∃ (s : State), (mainUp s = true) ∧ (s.glb.run = true) ∧ (relockOk s .a s.clk.relockTick = false))
    ∧ (∃ (s : State), (mainUp s = true) ∧ (s.glb.run = true) ∧ (relockOk s .b s.clk.relockTick = false))
    ∧ (∃ (s : State), (mainUp s = true) ∧ (s.glb.run = true) ∧ (relockOk s .a s.clk.relockTick = true) ∧ (s.mode.hold = true))
    ∧ (∃ (s : State) (p : Pll), (leadOk s s.clk.relockTick = false ∨ relockCfgOk s p = false ∨ relockBusy s.clk = true))
    ∧ (∃ (s : State) (r : Relock), (mainUp s = true) ∧ (s.clk.relock = some r) ∧ (r.started = false) ∧ (r.pll = .a) ∧ (tickReached r.start s.glb.tick = true) ∧ (s.hif.trips = []))
    ∧ (∃ (s : State) (r : Relock), (mainUp s = true) ∧ (s.clk.relock = some r) ∧ (r.started = false) ∧ (r.pll = .b) ∧ (tickReached r.start s.glb.tick = true) ∧ (s.hif.trips = []))
    ∧ (∃ (s : State), (mainUp s = true) ∧ (relocking s.clk .a = true) ∧ (s.clk.selA = false) ∧ (s.mode.hold = false))
    ∧ (∃ (s : State), (mainUp s = true) ∧ (relocking s.clk .b = true) ∧ (s.clk.selB = false) ∧ (s.mode.hold = false))
    ∧ (∃ (s : State), (mainUp s = true) ∧ (relocking s.clk .b = true) ∧ (s.clk.selB = false) ∧ (s.mode.hold = true) ∧ (s.clk.lockA = true))
    ∧ (∃ (s : State), (mainUp s = true) ∧ (s.clk.selA = true) ∧ (2 < s.clk.rampA))
    ∧ (∃ (s : State), (mainUp s = true) ∧ (s.clk.selB = true) ∧ (2 < s.clk.rampB))
    ∧ (∃ (s : State) (p : Pll), (mainUp s = true) ∧ (pllSel s.clk p = true) ∧ (pllRamp s.clk p ≤ 2))
    ∧ (∃ (s : State) (p : Pll), (mainUp s = true) ∧ (relocking s.clk p = true) ∧ (pllSel s.clk p = false)) :=
  ⟨⟨(State.reset), (2425), by decide⟩,
   ⟨(State.reset), (2424), by decide⟩,
   ⟨(State.reset), (30313), by decide⟩,
   ⟨(State.reset), (32188), by decide⟩,
   ⟨(vig0.setTmp { xb := true }), by decide⟩,
   ⟨(vig0), by decide⟩,
   ⟨(up.setClk { up.clk with relockTick := 102 }), by decide⟩,
   ⟨(up.setClk { up.clk with relockTick := 102 }), by decide⟩,
   ⟨(up), by decide⟩,
   ⟨(up), by decide⟩,
   ⟨((up.setClk { up.clk with relockTick := 102 }).setMode { up.mode with hold := true }), by decide⟩,
   ⟨(up), (.a), by decide⟩,
   ⟨(up.setClk { up.clk with relock := some ⟨.a, 100, false, false⟩ }), (⟨.a, 100, false, false⟩), by decide⟩,
   ⟨(up.setClk { up.clk with relock := some ⟨.b, 100, false, false⟩ }), (⟨.b, 100, false, false⟩), by decide⟩,
   ⟨(up.setClk { up.clk with relock := some ⟨.a, 100, true, false⟩ }), by decide⟩,
   ⟨(up.setClk { up.clk with relock := some ⟨.b, 100, true, false⟩ }), by decide⟩,
   ⟨((up.setClk { up.clk with attB := true, lockA := true }).setMode { up.mode with hold := true }), by decide⟩,
   ⟨(up.setClk { selA := true, rampA := 3 }), by decide⟩,
   ⟨(up.setClk { selB := true, rampB := 4 }), by decide⟩,
   ⟨(up.setClk { selB := true, relock := some ⟨.b, 100, true, false⟩ }), (.b), by decide⟩,
   ⟨(up.setClk { up.clk with relock := some ⟨.a, 100, true, false⟩ }), (.a), by decide⟩⟩

/-- Every hypothesis of ClockLosses is met, clause by clause. -/
theorem wit_ClockLosses :
    (∃ (s : State) (b : Bool), (mainUp s = true) ∧ (s.clk.lockA = true) ∧ ((b && s.clk.lockB) = false))
    ∧ (∃ (s : State) (a : Bool), (mainUp s = true) ∧ (s.clk.lockB = true) ∧ ((a && s.clk.lockA) = false))
    ∧ (∃ (s : State), (mainUp s = true) ∧ (s.clk.lockA = true) ∧ (s.clk.lockB = true))
    ∧ (∃ (s : State) (a b : Bool), ((a && s.clk.lockA) = false) ∧ ((b && s.clk.lockB) = false))
    ∧ (∃ (s : State), (mainUp s = true) ∧ (s.clk.xaUsed = true) ∧ (s.clk.xaFb = false))
    ∧ (∃ (s : State), (s.clk.xaFb = true))
    ∧ (∃ (s : State), (mainUp s = true)) :=
  ⟨⟨(up.setClk { lockA := true }), (true), by decide⟩,
   ⟨(up.setClk { lockB := true }), (true), by decide⟩,
   ⟨(up.setClk { lockA := true, lockB := true }), by decide⟩,
   ⟨(up), (true), (true), by decide⟩,
   ⟨(up.setClk { xaUsed := true }), by decide⟩,
   ⟨(up.setClk { xaFb := true }), by decide⟩,
   ⟨(up), by decide⟩⟩

/-- Every hypothesis of Doorbells is met, clause by clause. -/
theorem wit_Doorbells :
    (∃ (s : State) (fn : Fin 16) (r : Fin 8) (v : Word), (doorbellSeen s fn = false))
    ∧ (∃ (s : State) (fn : Fin 16) (r : Fin 8) (v : Word), (doorbellSeen s fn = true) ∧ (s.mode.mode ≠ .dim) ∧ (s.mode.dimPend = none) ∧ (ringRuns (getRing s (ringKey fn r)) = false))
    ∧ (∃ (s : State) (fn : Fin 16) (r : Fin 8) (v : Word), (doorbellSeen s fn = true) ∧ (s.mode.mode ≠ .dim) ∧ (s.mode.dimPend = none) ∧ (ringRuns (getRing s (ringKey fn r)) = true) ∧ (65536 ≤ v.toNat))
    ∧ (∃ (s : State) (fn : Fin 16) (r : Fin 8) (v : Word), (doorbellSeen s fn = true) ∧ (s.mode.mode ≠ .dim) ∧ (s.mode.dimPend = none) ∧ (ringRuns (getRing s (ringKey fn r)) = true) ∧ (v.toNat < 65536) ∧ (BitVec.ofNat 16 v.toNat = (getRing s (ringKey fn r)).obs))
    ∧ (∃ (s : State) (fn : Fin 16) (r : Fin 8) (v : Word), (doorbellSeen s fn = true) ∧ (s.mode.mode ≠ .dim) ∧ (s.mode.dimPend = none) ∧ (ringRuns (getRing s (ringKey fn r)) = true) ∧ (v.toNat < 65536) ∧ (BitVec.ofNat 16 v.toNat ≠ (getRing s (ringKey fn r)).obs) ∧ (tailValid (getRing s (ringKey fn r)) (BitVec.ofNat 16 v.toNat) = true) ∧ ((getRing s (ringKey fn r)).cls ≠ 0))
    ∧ (∃ (s : State) (fn : Fin 16) (r : Fin 8) (v : Word), (doorbellSeen s fn = true) ∧ (s.mode.mode ≠ .dim) ∧ (s.mode.dimPend = none) ∧ (ringRuns (getRing s (ringKey fn r)) = true) ∧ (v.toNat < 65536) ∧ (BitVec.ofNat 16 v.toNat ≠ (getRing s (ringKey fn r)).obs) ∧ (tailValid (getRing s (ringKey fn r)) (BitVec.ofNat 16 v.toNat) = true) ∧ ((getRing s (ringKey fn r)).cls = 0))
    ∧ (∃ (s : State) (fn : Fin 16) (r : Fin 8) (v : Word), (doorbellSeen s fn = true) ∧ (s.mode.mode ≠ .dim) ∧ (s.mode.dimPend = none) ∧ (ringRuns (getRing s (ringKey fn r)) = true) ∧ (v.toNat < 65536) ∧ (BitVec.ofNat 16 v.toNat ≠ (getRing s (ringKey fn r)).obs) ∧ (tailValid (getRing s (ringKey fn r)) (BitVec.ofNat 16 v.toNat) = false))
    ∧ (∃ (s : State) (l : List Cand), (seenNow s = []))
    ∧ (∃ (s : State) (c : Cand), (ringCarried s c = false) ∧ (canAdmit s c.fn c.ring = true))
    ∧ (∃ (s : State) (c : Cand), (ringCarried s c = true ∨ canAdmit s c.fn c.ring = false))
    ∧ (∃ (s : State) (fn ring : Nat), (s.mode.hold = true ∨ s.glb.tokens = 0 ∨ capOf s fn ≤ tget 0 s.glb.used fn ∨ ringRuns (getRing s (ringKey fn ring)) = false))
    ∧ (∃ (s : State) (fn : Fin 16) (r : Fin 8) (v : Word), (doorbellSeen s fn = true) ∧ (s.mode.mode = .dim) ∧ (s.mode.wake = none))
    ∧ (∃ (s : State) (fn : Fin 16) (r : Fin 8) (v : Word), (doorbellSeen s fn = true) ∧ (s.mode.dimPend.isSome = true)) :=
  ⟨⟨(off0), (0), (0), (1), by decide⟩,
   ⟨(up), (0), (3), (1), by decide⟩,
   ⟨(rg { en := true }), (0), (3), (65536), by decide⟩,
   ⟨(rg { en := true }), (0), (3), (0), by decide⟩,
   ⟨(rg { en := true, cls := 3 }), (0), (3), (2), by decide⟩,
   ⟨(rg { en := true, cls := 0 }), (0), (3), (2), by decide⟩,
   ⟨(rg { en := true, cls := 0 }), (0), (3), (17), by decide⟩,
   ⟨(up), ([⟨0, 3, 0, ⟨100, 0⟩⟩]), by decide⟩,
   ⟨(rg { en := true, cls := 0, obs := 1 }), (⟨0, 3, 0, ⟨100, 0⟩⟩), by decide⟩,
   ⟨(State.reset), (⟨0, 3, 0, ⟨100, 0⟩⟩), by decide⟩,
   ⟨(up.setMode { up.mode with hold := true }), (0), (3), by decide⟩,
   ⟨((rg { en := true, cls := 3 }).setMode { (rg { en := true, cls := 3 }).mode with mode := .dim }), (0), (3), (2), by decide⟩,
   ⟨((rg { en := true, cls := 3 }).setMode { (rg { en := true, cls := 3 }).mode with dimPend := some 2 }), (0), (3), (2), by decide⟩⟩

/-- Every hypothesis of Fetches is met, clause by clause. -/
theorem wit_Fetches :
    (∃ (s : State) (fn : Fin 16) (r : Fin 8) (d : Bytes), (canFetch s fn r = false))
    ∧ (∃ (s : State) (fn : Fin 16) (r : Fin 8) (d : Bytes), (canFetch s fn r = true))
    ∧ (∃ (s : State) (k fn cls : Nat) (d : Bytes), (idCheck s k d = .run) ∧ (descCheck s fn cls d = none))
    ∧ (∃ (s : State) (k fn cls : Nat) (d : Bytes) (n : Nat), (idCheck s k d = .run) ∧ (descCheck s fn cls d = some n))
    ∧ (∃ (s : State) (fn cls : Nat) (d : Bytes), (rowOf (dOp d) = none))
    ∧ (∃ (s : State) (k : Nat) (slot : Half) (t : List (Nat × Half)) (x : Staged), (s.hif.stgOrder = (k, slot) :: t) ∧ ((getRing s k).staged.find? (·.slot = slot) = some x))
    ∧ (∃ (s : State), (s.hif.stgOrder = []))
    ∧ (∃ (s : State) (fn : Fin 16) (r : Fin 8) (slot : Half), (s.hif.trips = []) ∧ (s.glb.overruns = []) ∧ (canFetch s fn r = true) ∧ ((getRing s (ringKey fn r)).cons = slot))
    ∧ (∃ (s : State) (fn : Fin 16) (r : Fin 8) (slot : Half) (x : Staged), (s.hif.trips = []) ∧ (s.glb.overruns = []) ∧ (canFetch s fn r = false) ∧ (runningAt s (ringKey fn r) slot = some x) ∧ (s.hif.waits = []))
    ∧ (∃ (s : State) (fn : Fin 16) (r : Fin 8) (d : Bytes), (canFetch s fn r = true) ∧ (verdict (consStep s (ringKey fn r)) (ringKey fn r) fn (getRing s (ringKey fn r)).cls (slice d 0 64) = .run))
    ∧ (∃ (s : State) (fn : Fin 16) (r : Fin 8) (slot : Half) (t : Trip), (s.hif.trips.find? (fun t => t.fn = fn.val && t.ring = r.val && t.slot = slot) = some t) ∧ (t.desc = none))
    ∧ (∃ (s : State) (fn : Fin 16) (r : Fin 8) (slot : Half), (s.hif.trips = []) ∧ (s.glb.overruns.any (fun c => c.fn = fn.val && c.ring = r.val && c.slot = slot) = true))
    ∧ (∃ (s : State) (fn : Fin 16) (r : Fin 8) (slot : Half) (t : Trip) (x : Staged) (d : Bytes), (s.hif.trips.find? (fun t => t.fn = fn.val && t.ring = r.val && t.slot = slot) = some t) ∧ (t.desc = some d) ∧ (runningAt s (ringKey fn r) slot = some x) ∧ ((tripReady s fn r slot).isSome = true)) :=
  ⟨⟨(up), (0), (3), ([]), by decide⟩,
   ⟨(rg { en := true, cls := 3, obs := 1 }), (0), (3), ([]), by decide⟩,
   ⟨(rg { en := true, cls := 3, obs := 1 }), (3), (0), (3), (dsc 0x40 0 16 0 64 0 0 0 []), by decide⟩,
   ⟨(rg { en := true, cls := 3, obs := 1 }), (3), (0), (3), (dsc 0 0 16 0 64 0 0 0 []), (0x11), by decide⟩,
   ⟨(up), (0), (3), ([]), by decide⟩,
   ⟨((rg { en := true, staged := [⟨0, [], [], false⟩] }).setHif { (rg { en := true, staged := [⟨0, [], [], false⟩] }).hif with stgOrder := [(3, 0)] }), (3), (0), ([]), (⟨0, [], [], false⟩), by decide⟩,
   ⟨(up), by decide⟩,
   ⟨(rg { en := true, cls := 3, obs := 1 }), (0), (3), (0), by decide⟩,
   ⟨(jb 3 []), (0), (3), (0), (⟨0, [], [], false⟩), by decide⟩,
   ⟨(rg { en := true, cls := 3, obs := 1 }), (0), (3), (dsc 0x40 0 16 0 64 0 0 0 []), by decide⟩,
   ⟨(tr none), (0), (3), (0), (tp none none), by decide⟩,
   ⟨(up.setGlb { up.glb with overruns := [⟨0, 3, 0, ⟨90, 0⟩⟩] }), (0), (3), (0), by decide⟩,
   ⟨(tr (some [])), (0), (3), (0), (tp (some []) none), (⟨0, [], [], false⟩), ([]), by decide⟩⟩

/-- Every hypothesis of Completions is met, clause by clause. -/
theorem wit_Completions :
    (∃ (s : State) (k : Nat) (c : Cpl), (cqSpace (getRing s k) = true) ∧ ((getRing s k).holding = []) ∧ (fltActive s k = false) ∧ (s.hif.reorder = []) ∧ ((getRing s k).irq ≠ 0))
    ∧ (∃ (s : State) (k : Nat) (c : Cpl), (cqSpace (getRing s k) = false ∨ (getRing s k).holding ≠ []))
    ∧ (∃ (s : State) (fn : Fin 16) (r : Fin 8) (v : Word), (pageLive s fn = true) ∧ ((getRing s (ringKey fn r)).en = true) ∧ (ringSize (getRing s (ringKey fn r)) < idxSub (getRing s (ringKey fn r)).cqw (BitVec.ofNat 16 v.toNat)))
    ∧ (∃ (s : State) (fn : Fin 16) (r : Fin 8) (v : Word), (pageLive s fn = true) ∧ ((getRing s (ringKey fn r)).en = true) ∧ (idxSub (getRing s (ringKey fn r)).cqw (BitVec.ofNat 16 v.toNat) ≤ ringSize (getRing s (ringKey fn r))))
    ∧ (∃ (s : State) (k n : Nat) (c : Cpl) (t : List Cpl), ((getRing s k).holding = c :: t) ∧ (cqSpace (getRing s k) = true))
    ∧ (∃ (s : State) (v : Word) (k : Nat) (x : Staged), ((List.range 128).find? (fun k => (getRing s k).en && (getRing s k).cls ≠ 0 && (getRing s k).ctx = fld v 0 16) = some k) ∧ ((getRing s k).running.find? (fun x => x.slot = (cplRegs s).slot && dReq x.desc = (cplRegs s).reqId) = some x) ∧ (s.tmp.trig = none))
    ∧ (∃ (s : State) (v : Word), ((List.range 128).find? (fun k => (getRing s k).en && (getRing s k).cls ≠ 0 && (getRing s k).ctx = fld v 0 16) = none))
    ∧ (∃ (s : State) (v : Word) (k : Nat), ((List.range 128).find? (fun k => (getRing s k).en && (getRing s k).cls ≠ 0 && (getRing s k).ctx = fld v 0 16) = some k) ∧ ((getRing s k).running.find? (fun x => x.slot = (cplRegs s).slot && dReq x.desc = (cplRegs s).reqId) = none))
    ∧ (∃ (s : State) (v : Word) (k : Nat) (x : Staged), ((List.range 128).find? (fun k => (getRing s k).en && (getRing s k).cls ≠ 0 && (getRing s k).ctx = fld v 0 16) = some k) ∧ ((getRing s k).running.find? (fun x => x.slot = (cplRegs s).slot && dReq x.desc = (cplRegs s).reqId) = some x) ∧ (s.tmp.trig.isSome = true))
    ∧ (∃ (s : State) (fn : Fin 16) (r : Fin 8) (v : Word), (pageLive s fn = false ∨ (getRing s (ringKey fn r)).en = false)) :=
  ⟨⟨(rg { en := true, irq := 1 }), (3), ({}), by decide⟩,
   ⟨(rg { cqw := 16 }), (3), ({}), by decide⟩,
   ⟨(rg { en := true }), (0), (3), (1), by decide⟩,
   ⟨(rg { en := true, cqw := 5 }), (0), (3), (5), by decide⟩,
   ⟨(rg { holding := [{}] }), (3), (0), ({}), ([]), by decide⟩,
   ⟨(jb 3 []), (0), (3), (⟨0, [], [], false⟩), by decide⟩,
   ⟨(up), (0), by decide⟩,
   ⟨(rg { en := true, cls := 3 }), (0), (3), by decide⟩,
   ⟨((jb 3 []).setTmp { trig := some (1, 2) }), (0), (3), (⟨0, [], [], false⟩), by decide⟩,
   ⟨(up), (0), (3), (0), by decide⟩⟩

/-- Every hypothesis of RingsAndFunctions is met, clause by clause. -/
theorem wit_RingsAndFunctions :
    (∃ (s : State) (fn : Fin 16) (r : Fin 8), (pageLive s fn = true) ∧ ((getRing s (ringKey fn r)).en = false) ∧ (ringCfgOk (getRing s (ringKey fn r)) = true) ∧ (enabledOf s fn < s.hif.alloc.getD fn 0) ∧ (enabledRings s < 64))
    ∧ (∃ (s : State) (fn : Fin 16) (r : Fin 8), (pageLive s fn = true) ∧ ((getRing s (ringKey fn r)).en = false) ∧ (ringCfgOk (getRing s (ringKey fn r)) = false))
    ∧ (∃ (s : State) (fn : Fin 16) (r : Fin 8), (pageLive s fn = true) ∧ ((getRing s (ringKey fn r)).en = false) ∧ (ringCfgOk (getRing s (ringKey fn r)) = true) ∧ (s.hif.alloc.getD fn 0 ≤ enabledOf s fn))
    ∧ (∃ (s : State) (fn : Fin 16) (r : Fin 8), (pageLive s fn = true))
    ∧ (∃ (s : State) (fn : Fin 16), (mainUp s = true) ∧ (fn ≠ 0) ∧ (s.hif.vfEnable = true) ∧ (fn ≤ s.hif.numVfs))
    ∧ (∃ (s : State), (mainUp s = true))
    ∧ (∃ (s : State) (fn r : Nat), (r < 8))
    ∧ (∃ (s : State) (fn : Fin 16), (fnThere s fn = true))
    ∧ (∃ (s : State) (fn : Fin 16) (r : Nat), ((getFn s fn).d3 = true))
    ∧ (∃ (s : State) (fn : Fin 16), ((getFn s fn).d3 = true))
    ∧ (∃ (s : State) (fn : Fin 16), (mainUp s = true) ∧ (fn ≠ 0) ∧ (s.hif.vfEnable = true) ∧ (fn ≤ s.hif.numVfs) ∧ ((getFn s fn).d3 = true))
    ∧ (∃ (s : State), (mainUp s = true))
    ∧ (∃ (s : State) (w p : Nat) (ext : Bool), (mainUp s = true) ∧ (s.hif.linkUp = false) ∧ (w = 1 ∨ w = 2) ∧ (w ≤ fld s.cfg.pcie 0 2) ∧ (1 ≤ p) ∧ (p ≤ fld s.cfg.pcie 2 2))
    ∧ (∃ (s : State) (n : Nat) (ari : Bool), (mainUp s = true) ∧ (1 ≤ n) ∧ (n ≤ totalVfs s) ∧ (n ≤ 7 ∨ ari = true) ∧ (s.mode.mode = .service ∨ s.mode.mode = .dim ∨ s.mode.mode = .debug))
    ∧ (∃ (s : State) (n : Nat) (ari : Bool), (mainUp s = true))
    ∧ (∃ (s : State) (fn : Fin 16), (fnThere s fn = false))
    ∧ (∃ (s : State) (fn : Fin 16) (r : Fin 8), (pageLive s fn = false)) :=
  ⟨⟨(up), (0), (3), by decide⟩,
   ⟨(rg { log2 := 3 }), (0), (3), by decide⟩,
   ⟨(up.setHif { up.hif with alloc := [] }), (0), (3), by decide⟩,
   ⟨(up), (0), (3), by decide⟩,
   ⟨(up.setHif { up.hif with vfEnable := true, numVfs := 2 }), (1), by decide⟩,
   ⟨(up), by decide⟩,
   ⟨(up), (1), (3), by decide⟩,
   ⟨(up), (0), by decide⟩,
   ⟨(up.setHif { up.hif with fns := [(1, { d3 := true })] }), (1), (0), by decide⟩,
   ⟨(up.setHif { up.hif with fns := [(1, { d3 := true })] }), (1), by decide⟩,
   ⟨(up.setHif { up.hif with vfEnable := true, numVfs := 2, fns := [(1, { d3 := true })] }), (1), by decide⟩,
   ⟨(up), by decide⟩,
   ⟨(up), (2), (3), (true), by decide⟩,
   ⟨(up), (7), (false), by decide⟩,
   ⟨(up.setHif { up.hif with vfEnable := true, numVfs := 7 }), (0), (false), by decide⟩,
   ⟨(up), (1), by decide⟩,
   ⟨(up), (1), (0), by decide⟩⟩

/-- Every hypothesis of VfEnableNeedsAri is met, clause by clause. -/
theorem wit_VfEnableNeedsAri :
    (∃ (s : State) (n : Nat), (7 < n) ∧ (s.hif.vfEnable = false))
    ∧ (∃ (s : State) (n : Nat), (7 < n) ∧ (mainUp s = true)) :=
  ⟨⟨(up), (8), by decide⟩,
   ⟨(up), (8), by decide⟩⟩

/-- Every hypothesis of AllowancesMailboxes is met, clause by clause. -/
theorem wit_AllowancesMailboxes :
    (∃ (s : State) (v : Word), (mainUp s = true) ∧ ((allocWord v ++ s.hif.alloc.drop 8).sum ≤ 64) ∧ ((∀ f ∈ List.range 16, enabledOf s f ≤ (allocWord v ++ s.hif.alloc.drop 8).getD f 0)))
    ∧ (∃ (s : State) (v : Word), (mainUp s = true) ∧ ((s.hif.alloc.take 8 ++ allocWord v).sum ≤ 64) ∧ ((∀ f ∈ List.range 16, enabledOf s f ≤ (s.hif.alloc.take 8 ++ allocWord v).getD f 0)))
    ∧ (∃ (s : State) (v : Word), (mainUp s = true) ∧ (64 < (allocWord v ++ s.hif.alloc.drop 8).sum))
    ∧ (∃ (s : State) (n : Fin 16), (n ≠ 0) ∧ (pageLive s n = true))
    ∧ (∃ (s : State) (n k : Nat), ((getCore s k).part = n) ∧ ((getCore s k).level = .sup ∨ (getCore s k).level = .user))
    ∧ (∃ (s : State) (n k : Nat), ((getCore s k).part ≠ n))
    ∧ (∃ (s : State) (v : Word), (mainUp s = true))
    ∧ (∃ (s : State), (mainUp s = true) ∧ (gateOk s 21 = true))
    ∧ (∃ (s : State), (mainUp s = true) ∧ (gateOk s 21 = false)) :=
  ⟨⟨(up), (8), by decide⟩,
   ⟨(up), (1), by decide⟩,
   ⟨(up.setHif { up.hif with alloc := [0,0,0,0,0,0,0,0,8,8,8,8,8,8,8,8] }), (8), by decide⟩,
   ⟨((up.setHif { up.hif with vfEnable := true, numVfs := 1 }).setVlt { up.vlt with exist := 2 }), (1), by decide⟩,
   ⟨(setCore up 0 { getCore up 0 with level := .sup, part := 2 }), (2), (0), by decide⟩,
   ⟨(up), (3), (0), by decide⟩,
   ⟨(up), (4), by decide⟩,
   ⟨(up.setClk { up.clk with gate := 0x3FFFFF }), by decide⟩,
   ⟨(up.setClk { up.clk with gate := 0 }), by decide⟩⟩

/-- Every hypothesis of TripAdmission is met, clause by clause. -/
theorem wit_TripAdmission :
    (∃ (s : State) (fn : Fin 16) (r : Fin 8) (d : Bytes), (tripWaiting s fn r = none))
    ∧ (∃ (s : State) (fn : Fin 16) (r : Fin 8) (d : Bytes) (t : Trip), (tripWaiting s fn r = some t) ∧ (t.muted = false) ∧ (t.ends = 0) ∧ (s.tmp.trig = none) ∧ (verdict (consStep s (ringKey fn r)) (ringKey fn r) fn 0 (slice d 0 64) = .run) ∧ (tripCheck (consStep s (ringKey fn r)) (slice d 0 64) = some 0x12))
    ∧ (∃ (s : State) (fn : Fin 16) (r : Fin 8) (d : Bytes) (t : Trip), (tripWaiting s fn r = some t) ∧ (t.muted = false) ∧ (t.ends ≠ 0) ∧ (s.tmp.trig = none))
    ∧ (∃ (s : State) (fn : Fin 16) (r : Fin 8) (d : Bytes) (t : Trip), (tripWaiting s fn r = some t) ∧ (t.muted = false) ∧ (s.tmp.trig.isSome = true))
    ∧ (∃ (s : State) (fn : Fin 16) (r : Fin 8) (d : Bytes) (t : Trip), (tripWaiting s fn r = some t) ∧ (t.muted = false) ∧ (t.ends = 0) ∧ (s.tmp.trig = none) ∧ (verdict (consStep s (ringKey fn r)) (ringKey fn r) fn 0 (slice d 0 64) = .run) ∧ (tripCheck (consStep s (ringKey fn r)) (slice d 0 64) = none))
    ∧ (∃ (s : State) (t : Trip) (u : Nat), (s.hif.trips.find? (fun t => t.desc.isSome && t.unit.isNone && t.ends = 0) = some t) ∧ (freeUnit s = some u))
    ∧ (∃ (s : State) (u v : Nat), (freeUnit s = some u))
    ∧ (∃ (s : State) (fn : Fin 16) (r : Fin 8) (slot : Half) (msg aux : Bytes) (t : Trip) (d : Bytes) (u : Nat), (tripReady (assignUnits s) fn r slot = some (t, d)) ∧ (t.unit = some u) ∧ (s.tmp.trig = none))
    ∧ (∃ (s : State) (fn : Fin 16) (r : Fin 8) (slot : Half) (msg aux : Bytes) (t : Trip) (d : Bytes), (tripReady (assignUnits s) fn r slot = some (t, d)) ∧ (t.unit = none))
    ∧ (∃ (s : State) (t : Trip) (d msg aux : Bytes) (e : CacheEnt), (fastEntry s (dKey d) = some e) ∧ (policy s t.fn (dOp d) e = 0) ∧ (isVerify (dOp d) = false))
    ∧ (∃ (s : State) (t : Trip) (d msg aux : Bytes) (e : CacheEnt), (fastEntry s (dKey d) = some e) ∧ (policy s t.fn (dOp d) e = 0) ∧ (isVerify (dOp d) = true))
    ∧ (∃ (s : State) (t : Trip) (d msg aux : Bytes) (e : CacheEnt), (fastEntry s (dKey d) = some e) ∧ (policy s t.fn (dOp d) e ≠ 0))
    ∧ (∃ (s : State) (u : Fin 6), (s.tmp.trig.isSome = true ∨ tget none s.eng.units u = none))
    ∧ (∃ (s : State) (u : Fin 6) (j : MacJob) (t : Trip) (x : Staged) (n : Nat), (s.tmp.trig = none) ∧ (tget none s.eng.units u = some j) ∧ (s.hif.trips.find? (isTrip j.fn j.ring j.slot) = some t) ∧ (runningAt s (ringKey j.fn j.ring) j.slot = some x) ∧ (j.squash = false) ∧ (j.holds = some n) ∧ (j.tag ≠ []))
    ∧ (∃ (s : State) (u : Fin 6) (j : MacJob) (t : Trip) (x : Staged) (n : Nat), (s.tmp.trig = none) ∧ (tget none s.eng.units u = some j) ∧ (s.hif.trips.find? (isTrip j.fn j.ring j.slot) = some t) ∧ (runningAt s (ringKey j.fn j.ring) j.slot = some x) ∧ (j.squash = false) ∧ (j.holds = some n) ∧ (j.tag = []))
    ∧ (∃ (s : State) (u : Fin 6) (j : MacJob) (t : Trip) (x : Staged), (s.tmp.trig = none) ∧ (tget none s.eng.units u = some j) ∧ (s.hif.trips.find? (isTrip j.fn j.ring j.slot) = some t) ∧ (runningAt s (ringKey j.fn j.ring) j.slot = some x) ∧ (j.squash = true) ∧ (j.tag = []))
    ∧ (∃ (s : State) (fn : Fin 16) (r : Fin 8) (d : Bytes) (k : Cand), (s.glb.overruns.find? (fun c => c.fn = fn.val && c.ring = r.val) = some k) ∧ (tripServed s = true) ∧ (ringOpen s fn r = true) ∧ (sharedTag s = true) ∧ ((getRing s (ringKey fn r)).holding.length < 32)) :=
  ⟨⟨(up), (0), (3), ([]), by decide⟩,
   ⟨(tr none), (0), (3), (dsc 8 1 64 0 64 0 0 32 []), (tp none none), by decide⟩,
   ⟨((tr none).setHif { (tr none).hif with trips := [{ tp none none with ends := 0x20 }] }), (0), (3), (dsc 8 1 64 0 64 0 0 32 []), ({ tp none none with ends := 0x20 }), by decide⟩,
   ⟨((tr none).setTmp { trig := some (1, 2) }), (0), (3), (dsc 8 1 64 0 64 0 0 32 []), (tp none none), by decide⟩,
   ⟨(kv 4 3 (tr none)), (0), (3), (dsc 8 0x1FFFF 64 64 64 0 0 32 []), (tp none none), by decide⟩,
   ⟨(tr (some [])), (tp (some []) none), (0), by decide⟩,
   ⟨(up), (0), (0), by decide⟩,
   ⟨(kv 4 3 (tr (some (dsc 8 0x1FFFF 64 64 64 0 0 32 [])))), (0), (3), (0), ([]), ([]), (tp (some (dsc 8 0x1FFFF 64 64 64 0 0 32 [])) (some 0)), (dsc 8 0x1FFFF 64 64 64 0 0 32 []), (0), by decide⟩,
   ⟨((kv 4 3 (tr (some (dsc 8 0x1FFFF 64 64 64 0 0 32 [])))).setMode { (kv 4 3 (tr (some (dsc 8 0x1FFFF 64 64 64 0 0 32 [])))).mode with gatedEng := [8] }), (0), (3), (0), ([]), ([]), (tp (some (dsc 8 0x1FFFF 64 64 64 0 0 32 [])) none), (dsc 8 0x1FFFF 64 64 64 0 0 32 []), by decide⟩,
   ⟨(kv 4 3 up), (tp none none), (dsc 8 0x1FFFF 64 64 64 0 0 32 []), ([]), ([]), (⟨0, 0, { usage := 4, alg := 3, state := 1, assoc := 1 }, List.replicate 32 1, true, false⟩), by decide⟩,
   ⟨(kv 5 3 up), (tp none none), (dsc 9 0x1FFFF 64 64 0 64 32 32 []), ([]), ([]), (⟨0, 0, { usage := 5, alg := 3, state := 1, assoc := 1 }, List.replicate 32 1, true, false⟩), by decide⟩,
   ⟨(kv 3 3 up), (tp none none), (dsc 8 0x1FFFF 64 64 64 0 0 32 []), ([]), ([]), (⟨0, 0, { usage := 3, alg := 3, state := 1, assoc := 1 }, List.replicate 32 1, true, false⟩), by decide⟩,
   ⟨(up), (0), by decide⟩,
   ⟨(((jb 0 []).setHif { (jb 0 []).hif with trips := [tp (some []) (some 0)] }).setEng { up.eng with units := [(0, some ⟨0, 3, 0, 0, [1], false, 0, 0, ⟨100, 0⟩, false, some 5⟩)] }), (0), (⟨0, 3, 0, 0, [1], false, 0, 0, ⟨100, 0⟩, false, some 5⟩), (tp (some []) (some 0)), (⟨0, [], [], false⟩), (5), by decide⟩,
   ⟨(((jb 0 []).setHif { (jb 0 []).hif with trips := [tp (some []) (some 0)] }).setEng { up.eng with units := [(0, some ⟨0, 3, 0, 0, [], true, 0, 0, ⟨100, 0⟩, false, some 5⟩)] }), (0), (⟨0, 3, 0, 0, [], true, 0, 0, ⟨100, 0⟩, false, some 5⟩), (tp (some []) (some 0)), (⟨0, [], [], false⟩), (5), by decide⟩,
   ⟨(((jb 0 []).setHif { (jb 0 []).hif with trips := [tp (some []) (some 0)] }).setEng { up.eng with units := [(0, some ⟨0, 3, 0, 0x10, [], false, 0, 0, ⟨100, 0⟩, true, some 5⟩)] }), (0), (⟨0, 3, 0, 0x10, [], false, 0, 0, ⟨100, 0⟩, true, some 5⟩), (tp (some []) (some 0)), (⟨0, [], [], false⟩), by decide⟩,
   ⟨((rg { en := true, cls := 0, obs := 1 }).setGlb { up.glb with overruns := [⟨0, 3, 0, ⟨90, 0⟩⟩] }), (0), (3), ([]), (⟨0, 3, 0, ⟨90, 0⟩⟩), by decide⟩⟩

/-- Every hypothesis of Windows is met, clause by clause. -/
theorem wit_Windows :
    (∃ (s : State), (mainUp s = true) ∧ (windowDue s = true) ∧ (s.mode.annCause = 1) ∧ (s.hif.trips = []))
    ∧ (∃ (s : State), (mainUp s = true) ∧ (windowDue s = true) ∧ (s.mode.annCause = 2 ∨ s.mode.annCause = 3) ∧ (s.hif.trips = []))
    ∧ (∃ (s : State), (windowDue s = false ∨ s.hif.trips ≠ []))
    ∧ (∃ (s : State), (mainUp s = true) ∧ (windowInForce s = true) ∧ (tickReached (s.mode.annStart + wordOf s.mode.annLen) s.glb.tick = true))
    ∧ (∃ (s : State) (f r : Nat), (windowInForce s = true ∨ windowDue s = true))
    ∧ (∃ (s : State) (t : Word) (f p : Img), (mainUp s = true) ∧ (s.upd.confirmAt = some t) ∧ (s.upd.runSf = some f) ∧ (s.upd.runPr = some p) ∧ (s.upd.trial = true) ∧ (tickReached t s.glb.tick = true) ∧ (s.upd.actRaise = false))
    ∧ (∃ (s : State), (mainUp s = true) ∧ (s.mode.dimPend = some 0))
    ∧ (∃ (s : State), (mainUp s = true) ∧ (s.mode.mode = .dim) ∧ (s.mode.wake = none))
    ∧ (∃ (s : State), (s.mode.mode ≠ .dim))
    ∧ (∃ (s : State) (l : List Nat), (mainUp s = true) ∧ (wakeDue s = true) ∧ (engNumbers.filter l.contains ≠ []))
    ∧ (∃ (s : State), (mainUp s = true) ∧ (wakeDue s = true))
    ∧ (∃ (s : State) (lv : Dbg), (mainUp s = true) ∧ (windowDue s = true) ∧ (s.mode.dbgPend = some lv) ∧ (s.mode.annCause = 4) ∧ (s.mode.mode = .service) ∧ (s.hif.trips = []) ∧ (s.fus.dbgdis = false))
    ∧ (∃ (s : State), (s.fus.dbgdis = true ∨ s.mode.dbgPend = none))
    ∧ (∃ (s : State) (t : Word) (f p : Img), (mainUp s = true) ∧ (s.upd.confirmAt = some t) ∧ (s.upd.runSf = some f) ∧ (s.upd.runPr = some p) ∧ (s.upd.trial = true) ∧ (tickReached t s.glb.tick = true) ∧ (s.upd.actRaise = true))
    ∧ (∃ (s : State), (s.upd.confirmAt = none)) :=
  ⟨⟨(up.setMode { up.mode with annCause := 1, annLen := 1, annStart := 100 }), by decide⟩,
   ⟨(up.setMode { up.mode with annCause := 2, annLen := 1, annStart := 100 }), by decide⟩,
   ⟨(up), by decide⟩,
   ⟨(up.setMode { up.mode with annCause := 1, annIn := true, annLen := 1, annStart := 99 }), by decide⟩,
   ⟨(up.setMode { up.mode with annCause := 1, annIn := true }), (0), (0), by decide⟩,
   ⟨(up.setUpd { up.upd with confirmAt := some 100, runSf := some { kind := 0, slot := 0, hdr := [] }, runPr := some { kind := 0, slot := 0, hdr := [] }, trial := true }), (100), ({ kind := 0, slot := 0, hdr := [] }), ({ kind := 0, slot := 0, hdr := [] }), by decide⟩,
   ⟨(up.setMode { up.mode with dimPend := some 0 }), by decide⟩,
   ⟨(up.setMode { up.mode with mode := .dim }), by decide⟩,
   ⟨(up), by decide⟩,
   ⟨(up.setMode { up.mode with mode := .dim, wake := some ⟨0, 0⟩ }), ([3]), by decide⟩,
   ⟨(up.setMode { up.mode with mode := .dim, wake := some ⟨0, 0⟩ }), by decide⟩,
   ⟨(up.setMode { up.mode with annCause := 4, annStart := 100, dbgPend := some .opened }), (.opened), by decide⟩,
   ⟨(up), by decide⟩,
   ⟨(up.setUpd { up.upd with confirmAt := some 100, runSf := some { kind := 0, slot := 0, hdr := [] }, runPr := some { kind := 0, slot := 0, hdr := [] }, trial := true, actRaise := true }), (100), ({ kind := 0, slot := 0, hdr := [] }), ({ kind := 0, slot := 0, hdr := [] }), by decide⟩,
   ⟨(up), by decide⟩⟩

/-- Every hypothesis of QuantaAndLanes is met, clause by clause. -/
theorem wit_QuantaAndLanes :
    (∃ (s : State) (e : Fin 8) (k : Nat), (mainUp s = true) ∧ (s.glb.run = true) ∧ (engClocked s e = true) ∧ (s.tmp.trig = none) ∧ (e.val < 6) ∧ ([1, 2, 3].find? (fun k => hasWork s e k && 0 < budOf (s.glb.budNow.getD e {}) k) = some k))
    ∧ (∃ (s : State) (e : Fin 8) (k : Nat), (mainUp s = true) ∧ (s.glb.run = true) ∧ (engClocked s e = true) ∧ (s.tmp.trig = none) ∧ (e.val < 6) ∧ ([1, 2, 3].find? (fun k => hasWork s e k && 0 < budOf (s.glb.budNow.getD e {}) k) = none) ∧ ([1, 2, 3].find? (fun k => hasWork s e k) = some k))
    ∧ (∃ (s : State) (e : Fin 8), (mainUp s = true) ∧ (s.glb.run = true) ∧ (engClocked s e = true) ∧ (s.tmp.trig = none) ∧ (e.val < 6) ∧ ([1, 2, 3].find? (fun k => hasWork s e k) = none))
    ∧ (∃ (s : State), (mainUp s = true) ∧ (s.glb.run = true) ∧ (engClocked s 6 = true) ∧ (s.tmp.trig = none) ∧ (s.cus.run = 3))
    ∧ (∃ (s : State) (e k : Nat), (e < 6) ∧ (¬(e = 0 ∧ k = 3 ∧ nextFn s e k = 0 ∧ 0 < s.eng.house)))
    ∧ (∃ (s : State) (o : LaneOp) (e cls fn : Nat), ((getLane s e).find? (fun o => o.cls = cls && laneFn o = fn) = some o))
    ∧ (∃ (s : State) (e : Fin 8) (k : Nat), (mainUp s = true) ∧ (s.glb.run = true) ∧ (engClocked s e = true) ∧ (s.tmp.trig = none) ∧ (6 ≤ e.val) ∧ (¬(e.val = 6 ∧ s.cus.run = 3)) ∧ ([1, 2, 3].find? (fun k => hasWork (pkeZero s (e - 6)) e k && 0 < budOf (s.glb.budNow.getD e {}) k) = some k))
    ∧ (∃ (s : State) (e : Fin 8), (mainUp s = true) ∧ (s.glb.run = true) ∧ (engClocked s e = true) ∧ (s.tmp.trig = none) ∧ (6 ≤ e.val) ∧ (¬(e.val = 6 ∧ s.cus.run = 3)) ∧ ([1, 2, 3].find? (fun k => hasWork (pkeZero s (e - 6)) e k) = none))
    ∧ (∃ (s : State) (e : Fin 8), (mainUp s = false ∨ s.glb.run = false ∨ engClocked s e = false ∨ s.tmp.trig.isSome = true))
    ∧ (∃ (s : State) (v : Word), (mainUp s = true) ∧ (gateOk s 11 = true) ∧ (fld v 4 2 ≠ 0) ∧ (fld v 0 3 ≤ 5) ∧ ((getLane s (fld v 0 3)).length < 16) ∧ (s.mode.gatedEng.contains (fld v 0 3) = false))
    ∧ (∃ (s : State) (v : Word), (mainUp s = true) ∧ (gateOk s 11 = true) ∧ (fld v 4 2 = 0 ∨ 5 < fld v 0 3 ∨ 16 ≤ (getLane s (fld v 0 3)).length ∨ s.mode.gatedEng.contains (fld v 0 3) = true))
    ∧ (∃ (s : State) (v : Word), (mainUp s = true) ∧ (gateOk s 11 = false))
    ∧ (∃ (s : State) (e : Fin 6) (o : LaneOp), (mainUp s = true) ∧ (engClocked s e = true) ∧ (s.tmp.trig = none) ∧ (s.eng.res.length < 16) ∧ ((getLane s e).find? (·.last) = some o))
    ∧ (∃ (s : State) (e : Fin 6), (mainUp s = false ∨ engClocked s e = false ∨ s.tmp.trig.isSome = true ∨ 16 ≤ s.eng.res.length ∨ (getLane s e).find? (·.last) = none))
    ∧ (∃ (s : State) (e : Nat) (o : LaneOp), ((laneFinish s e { o with stall := none }).1.stall.isSome = false) ∧ ((laneFinish s e { o with stall := none }).1.bad = false))
    ∧ (∃ (s : State) (e : Nat) (o : LaneOp), ((laneFinish s e { o with stall := none }).1.stall.isSome = false) ∧ ((laneFinish s e { o with stall := none }).1.bad = true))
    ∧ (∃ (s : State), (mainUp s = true) ∧ (gateOk s 11 = true))
    ∧ (∃ (s : State), (mainUp s = true) ∧ (gateOk s 11 = false)) :=
  ⟨⟨((ong.setEng { ong.eng with lanes := [(0, [{ words := [], cls := 1 }])] }).setGlb { ong.glb with budNow := [⟨1, 0, 0⟩] }), (0), (1), by decide⟩,
   ⟨((ong.setEng { ong.eng with lanes := [(0, [{ words := [], cls := 1 }])] }).setGlb { ong.glb with budNow := [⟨0, 0, 0⟩] }), (0), (1), by decide⟩,
   ⟨(ong), (0), by decide⟩,
   ⟨(ong.setCus { ong.cus with run := 3 }), by decide⟩,
   ⟨(up), (0), (1), by decide⟩,
   ⟨(ong.setEng { ong.eng with lanes := [(0, [{ words := [], cls := 1 }])] }), ({ words := [], cls := 1 }), (0), (1), (0), by decide⟩,
   ⟨((setPke ong 1 { resident := [{ words := [], cls := 1 }] }).setGlb { ong.glb with budNow := List.replicate 8 ⟨1, 0, 0⟩ }), (7), (1), by decide⟩,
   ⟨(ong), (6), by decide⟩,
   ⟨(off0), (0), by decide⟩,
   ⟨(ong), (0x10), by decide⟩,
   ⟨(ong), (0), by decide⟩,
   ⟨(up.setClk { up.clk with gate := 0 }), (0x10), by decide⟩,
   ⟨(ong.setEng { ong.eng with lanes := [(0, [{ words := [], cls := 1, started := true, last := true }])] }), (0), ({ words := [], cls := 1, started := true, last := true }), by decide⟩,
   ⟨(ong), (0), by decide⟩,
   ⟨(ong), (0), ({ words := [2], cls := 1, started := true, last := true }), by decide⟩,
   ⟨(up), (0), ({ words := [], cls := 1, started := true, last := true, bad := true }), by decide⟩,
   ⟨(ong), by decide⟩,
   ⟨(up.setClk { up.clk with gate := 0 }), by decide⟩⟩

/-- Every hypothesis of PkeCommands is met, clause by clause. -/
theorem wit_PkeCommands :
    (∃ (s : State) (v : Word), (mainUp s = true) ∧ (gateOk s 12 = true) ∧ (fld v 4 2 ≠ 0) ∧ ((getPke s (fld v 0 1)).waiting.length < 16) ∧ (s.mode.gatedEng.contains (6 + fld v 0 1) = false))
    ∧ (∃ (s : State) (v : Word), (mainUp s = true) ∧ (gateOk s 12 = true) ∧ (fld v 4 2 = 0 ∨ 16 ≤ (getPke s (fld v 0 1)).waiting.length ∨ s.mode.gatedEng.contains (6 + fld v 0 1) = true))
    ∧ (∃ (s : State) (p : Fin 2) (o : PkeOp), (mainUp s = true) ∧ (engClocked s (6 + p) = true) ∧ (s.tmp.trig = none) ∧ (s.cus.run < 2) ∧ (pkeNext (getPke (pkeZero s p) p) = some o) ∧ (pkeFits (getPke (pkeZero s p) p) o = true))
    ∧ (∃ (s : State) (p : Fin 2) (o : PkeOp), (mainUp s = true) ∧ (engClocked s (6 + p) = true) ∧ (s.tmp.trig = none) ∧ (s.cus.run < 2) ∧ (pkeNext (getPke (pkeZero s p) p) = some o) ∧ (pkeFits (getPke (pkeZero s p) p) o = false))
    ∧ (∃ (s : State) (p : Fin 2), (mainUp s = false ∨ engClocked s (6 + p) = false ∨ s.tmp.trig.isSome = true ∨ (p.val = 0 ∧ 2 ≤ s.cus.run)))
    ∧ (∃ (s : State), (mainUp s = true) ∧ (engClocked s 6 = true) ∧ (s.tmp.trig = none) ∧ (s.cus.run = 1) ∧ (pkeNext (getPke (pkeZero s 0) 0) = none) ∧ ((getPke (pkeZero s 0) 0).resident = []))
    ∧ (∃ (s : State) (p : Fin 2) (o : PkeOp), (mainUp s = true) ∧ (engClocked s (6 + p) = true) ∧ (s.tmp.trig = none) ∧ (s.pke.res.length < 16) ∧ ((getPke s p).resident.find? (·.last) = some o))
    ∧ (∃ (s : State) (p : Fin 2), (mainUp s = false ∨ engClocked s (6 + p) = false ∨ s.tmp.trig.isSome = true ∨ 16 ≤ s.pke.res.length ∨ (getPke s p).resident.find? (·.last) = none))
    ∧ (∃ (s : State) (p : Nat) (o : PkeOp) (h : Nat), (o.raw = some h))
    ∧ (∃ (s : State) (p : Nat) (o : PkeOp), (o.raw = none) ∧ ((pkeNames o).all (o.slots.contains ·) = true))
    ∧ (∃ (s : State) (p : Nat) (o : PkeOp), (o.raw = none) ∧ ((pkeNames o).all (o.slots.contains ·) = false))
    ∧ (∃ (s : State), (mainUp s = true) ∧ (gateOk s 12 = true))
    ∧ (∃ (s : State), (mainUp s = true) ∧ (gateOk s 12 = false))
    ∧ (∃ (s : State) (v : Word), (mainUp s = true) ∧ (gateOk s 12 = false)) :=
  ⟨⟨(ong), (0x10), by decide⟩,
   ⟨(ong), (0), by decide⟩,
   ⟨(setPke ong 1 { waiting := [{ words := [0x0001], cls := 1 }] }), (1), ({ words := [0x0001], cls := 1 }), by decide⟩,
   ⟨(setPke ong 1 { waiting := [{ words := [0x0001], cls := 1 }], alloc := BitVec.allOnes 48 }), (1), ({ words := [0x0001], cls := 1 }), by decide⟩,
   ⟨(off0), (1), by decide⟩,
   ⟨(ong.setCus { ong.cus with run := 1 }), by decide⟩,
   ⟨(setPke ong 0 { resident := [{ words := [], cls := 1, quanta := 1, last := true, raw := some 3 }] }), (0), ({ words := [], cls := 1, quanta := 1, last := true, raw := some 3 }), by decide⟩,
   ⟨(ong), (0), by decide⟩,
   ⟨(ong), (0), ({ words := [], cls := 1, raw := some 3 }), (3), by decide⟩,
   ⟨(ong), (0), ({ words := [0x0001], cls := 1, quanta := 1, slots := [0] }), by decide⟩,
   ⟨(ong), (0), ({ words := [0x0001], cls := 1, quanta := 1, slots := [] }), by decide⟩,
   ⟨(ong), by decide⟩,
   ⟨(up.setClk { up.clk with gate := 0 }), by decide⟩,
   ⟨(up.setClk { up.clk with gate := 0 }), (0x10), by decide⟩⟩

/-- Every hypothesis of FuseBits is met, clause by clause. -/
theorem wit_FuseBits :
    (∃ (w : FuseWord) (i : Nat), (i < 32))
    ∧ (∃ (s : State) (w : Nat) (b : Word) (i : Nat), (b.getLsbD i = true)) :=
  ⟨⟨(⟨1, 1, 0⟩), (0), by decide⟩,
   ⟨(up), (0), (1), (0), by decide⟩⟩

/-- Every hypothesis of FusePasses is met, clause by clause. -/
theorem wit_FusePasses :
    (∃ (s : State), (mainUp s = true) ∧ (2 ^ 20 ≤ s.fus.sincePass) ∧ (s.glb.run = true))
    ∧ (∃ (s : State), (mainUp s = true) ∧ (2 ^ 20 ≤ s.fus.sincePass) ∧ (s.glb.run = false))
    ∧ (∃ (s : State), (mainUp s = false ∨ s.glb.run = false))
    ∧ (∃ (s : State), (mainUp s = false ∨ s.glb.run = false ∨ s.fus.rereadDue = false))
    ∧ (∃ (s : State), (s.fus.sincePass < 2 ^ 20))
    ∧ (∃ (s : State), (mainUp s = true) ∧ (s.glb.run = true))
    ∧ (∃ (s : State), (mainUp s = true) ∧ (s.glb.run = true) ∧ (s.fus.rereadDue = true) ∧ (s.fus.rereadRun = false) ∧ (s.fus.pgm = none))
    ∧ (∃ (s : State), (s.fus.rereadRun = true ∨ s.fus.pgm.isSome = true))
    ∧ (∃ (s : State) (x y z : Word), (mainUp s = true) ∧ (s.fus.rereadRun = true) ∧ (s.fus.rereadNext < 511) ∧ (fuseAt s.fus.rereadNext = (.none, s.fus.rereadNext, 0)))
    ∧ (∃ (s : State) (x y z : Word), (mainUp s = true) ∧ (s.fus.rereadRun = true) ∧ (s.fus.rereadNext = 511) ∧ (fuseCell s 511 = ⟨x, y, z⟩))
    ∧ (∃ (s : State) (x y z : Word), (mainUp s = true) ∧ (s.fus.rereadRun = true) ∧ (s.fus.rereadNext < 511) ∧ ((fuseAt s.fus.rereadNext).1 = .sec) ∧ (lastCopy s.fus.rereadNext = true))
    ∧ (∃ (s : State) (x y z : Word), (mainUp s = true) ∧ (s.fus.rereadRun = true) ∧ (s.fus.rereadNext < 511) ∧ ((fuseAt s.fus.rereadNext).1 = .key) ∧ (lastCopy s.fus.rereadNext = true))
    ∧ (∃ (s : State) (x y z : Word), (mainUp s = false ∨ s.fus.rereadRun = false))
    ∧ (∃ (m a b : Word) (i : Nat), (i < 32) ∧ (a.getLsbD i = m.getLsbD i))
    ∧ (∃ (s : State) (v : Word) (au : PgmAuth), (mainUp s = true) ∧ (fld v 24 8 = 0x3C) ∧ (bit v 0 = true) ∧ (s.fus.pgm = none) ∧ ((fuseAt s.fus.pgmAddr).2.1 = s.fus.pgmAddr) ∧ ((∀ n, au ≠ .latch n)) ∧ (pgmAllowed s s.fus.pgmAddr s.fus.pgmData au = true) ∧ (pgmRecord s s.fus.pgmAddr s.fus.pgmData au = true))
    ∧ (∃ (s : State) (v : Word) (n : Byte), (mainUp s = true) ∧ (fld v 24 8 = 0x3C) ∧ (bit v 0 = true) ∧ (s.fus.pgm = none) ∧ ((fuseAt s.fus.pgmAddr).2.1 = s.fus.pgmAddr) ∧ (pgmAllowed s s.fus.pgmAddr s.fus.pgmData (.latch n) = true) ∧ (pgmRecord s s.fus.pgmAddr s.fus.pgmData (.latch n) = true) ∧ (vppOk s = true) ∧ (rngReady s.rng = true) ∧ (s.cus.latch.used = false))
    ∧ (∃ (s : State) (v : Word) (n : Byte), (mainUp s = true) ∧ (vppOk s = false ∨ rngReady s.rng = false) ∧ (s.cus.latch.used = false))
    ∧ (∃ (s : State) (v : Word) (au : PgmAuth), (fld v 24 8 ≠ 0x3C ∨ bit v 0 = false ∨ s.fus.pgm.isSome = true ∨ (fuseAt s.fus.pgmAddr).2.1 ≠ s.fus.pgmAddr ∨ pgmAllowed s s.fus.pgmAddr s.fus.pgmData au = false ∨ pgmRecord s s.fus.pgmAddr s.fus.pgmData au = false))
    ∧ (∃ (s : State), (s.fus.lc = .retired))
    ∧ (∃ (s : State) (x y z : Word) (o : PgmOp) (w k : Nat) (l : List Nat), (s.fus.pgm = some o) ∧ (o.words = w :: k :: l) ∧ (s.fus.nrstStop = false) ∧ (s.snf.flag = false) ∧ (within o.bits (stable1 ⟨x, y, z⟩) = true))
    ∧ (∃ (s : State) (x y z : Word) (o : PgmOp) (w : Nat), (s.fus.pgm = some o) ∧ (o.words = [w]) ∧ (s.fus.nrstStop = false) ∧ (s.snf.flag = false) ∧ (within o.bits (stable1 ⟨x, y, z⟩) = true))
    ∧ (∃ (s : State) (x y z : Word) (o : PgmOp) (w : Nat) (l : List Nat), (s.fus.pgm = some o) ∧ (o.words = w :: l) ∧ (s.fus.nrstStop = true))
    ∧ (∃ (s : State) (x y z : Word), (s.fus.pgm = none))
    ∧ (∃ (s : State) (x y z : Word) (o : PgmOp) (w : Nat) (l : List Nat), (s.fus.pgm = some o) ∧ (o.words = w :: l) ∧ (s.fus.nrstStop = false) ∧ (s.snf.flag = false) ∧ (within o.bits (stable1 ⟨x, y, z⟩) = false) ∧ (o.pulses < 3))
    ∧ (∃ (s : State) (x y z : Word) (o : PgmOp) (w : Nat) (l : List Nat), (s.fus.pgm = some o) ∧ (o.words = w :: l) ∧ (s.fus.nrstStop = false) ∧ (s.snf.flag = false) ∧ (within o.bits (stable1 ⟨x, y, z⟩) = false) ∧ (3 ≤ o.pulses)) :=
  ⟨⟨(up.setFus { up.fus with sincePass := 1048576 }), by decide⟩,
   ⟨((up.setFus { up.fus with sincePass := 1048576 }).setGlb {}), by decide⟩,
   ⟨(off0), by decide⟩,
   ⟨(up), by decide⟩,
   ⟨(up), by decide⟩,
   ⟨(up), by decide⟩,
   ⟨(up.setFus { up.fus with rereadQ := true, rereadDue := true }), by decide⟩,
   ⟨(up.setFus { up.fus with rereadRun := true }), by decide⟩,
   ⟨(up.setFus { up.fus with rereadRun := true, rereadNext := 15 }), (1), (1), (1), by decide⟩,
   ⟨(up.setFus { up.fus with rereadRun := true, rereadNext := 511 }), (0), (0), (0), by decide⟩,
   ⟨(up.setFus { up.fus with rereadRun := true, rereadNext := 8 }), (0), (0), (0), by decide⟩,
   ⟨(up.setFus { up.fus with rereadRun := true, rereadNext := 36 }), (0), (0), (0), by decide⟩,
   ⟨(up), (0), (0), (0), by decide⟩,
   ⟨(1), (1), (0), (0), by decide⟩,
   ⟨(up.setFus { up.fus with pgmAddr := 0, pgmData := 1 }), (0x3C000001), (.provisioning), by refine ⟨?_, ?_, ?_, ?_, ?_, ?_, ?_, ?_⟩ <;> first | decide | (intro n; exact PgmAuth.noConfusion)⟩,
   ⟨((((up.setMode { up.mode with vpp := .inRange }).setFus { up.fus with lc := .commissioned, pgmAddr := 6, pgmData := 1 }).setRng { up.rng with inst := true }).setCus { up.cus with latch := { op := 9, isSet := true, record := List.replicate 0x30 0 ++ [6, 0, 0, 0, 1] } }), (0x3C000001), (9), by decide⟩,
   ⟨(up), (0x3C000001), (9), by decide⟩,
   ⟨(up), (0), (.factory), by decide⟩,
   ⟨(up.setFus { up.fus with lc := .retired }), by decide⟩,
   ⟨(up.setFus { up.fus with pgm := some { words := [0, 1, 2], bits := 1 } }), (1), (1), (1), ({ words := [0, 1, 2], bits := 1 }), (0), (1), ([2]), by decide⟩,
   ⟨(up.setFus { up.fus with pgm := some { words := [2], bits := 1 } }), (1), (1), (1), ({ words := [2], bits := 1 }), (2), by decide⟩,
   ⟨(up.setFus { up.fus with nrstStop := true, pgm := some { words := [0, 1, 2], bits := 1 } }), (0), (0), (0), ({ words := [0, 1, 2], bits := 1 }), (0), ([1, 2]), by decide⟩,
   ⟨(up), (0), (0), (0), by decide⟩,
   ⟨(up.setFus { up.fus with pgm := some { words := [0, 1, 2], bits := 1 } }), (0), (0), (0), ({ words := [0, 1, 2], bits := 1 }), (0), ([1, 2]), by decide⟩,
   ⟨(up.setFus { up.fus with pgm := some { words := [0, 1, 2], bits := 1, pulses := 3 } }), (0), (0), (0), ({ words := [0, 1, 2], bits := 1, pulses := 3 }), (0), ([1, 2]), by decide⟩⟩

/-- Every hypothesis of Entropy is met, clause by clause. -/
theorem wit_Entropy :
    (∃ (s : State) (osc : List (BitVec 16)), (mainUp s = true) ∧ (s.rng.run = true) ∧ (s.rng.restart = true))
    ∧ (∃ (s : State) (osc : List (BitVec 16)), (mainUp s = false ∨ s.rng.run = false ∨ s.rng.restart = false))
    ∧ (∃ (s : State) (o : BitVec 16), (s.rng.phase ≠ 3))
    ∧ (∃ (s : State) (o : BitVec 16), (s.rng.phase = 3))
    ∧ (∃ (s : State) (b : Bool), (s.rng.cap = false) ∧ (s.rng.failed = false) ∧ (s.rng.restart = true) ∧ (healthBad (healthStep s.rng b) = 0))
    ∧ (∃ (s : State) (b : Bool), (s.rng.cap = false) ∧ (s.rng.failed = false) ∧ (healthBad (healthStep s.rng b) ≠ 0))
    ∧ (∃ (s : State) (osc : List (BitVec 16)), (mainUp s = true) ∧ (s.rng.run = true) ∧ (s.rng.restart = false))
    ∧ (∃ (s : State) (osc : List (BitVec 16)), (mainUp s = false ∨ s.rng.run = false ∨ s.rng.restart = true))
    ∧ (∃ (s : State) (b : Bool), (s.rng.cap = true))
    ∧ (∃ (s : State) (b : Bool), (s.rng.pool.length ≤ 96) ∧ (s.rng.blk.length < 511))
    ∧ (∃ (s : State), (s.rng.blk.length = 512) ∧ (s.clk.rootGated = false) ∧ (s.rng.inst = true))
    ∧ (∃ (s : State) (b : Bool), (96 < s.rng.pool.length))
    ∧ (∃ (s : State) (k : Fin 4), (mainUp s = true) ∧ (s.rng.run = true) ∧ (s.rng.failed = false) ∧ (k ≠ 0))
    ∧ (∃ (s : State) (k : Fin 4), (mainUp s = false ∨ s.rng.run = false ∨ s.rng.failed = true ∨ k = 0))
    ∧ (∃ (s : State), (mainUp s = true) ∧ (s.rng.inst = true) ∧ (2 ^ (10 + s.rng.tickLog) ≤ s.rng.ticks))
    ∧ (∃ (s : State), (mainUp s = false ∨ s.rng.inst = false ∨ s.rng.ticks < 2 ^ (10 + s.rng.tickLog)))
    ∧ (∃ (s : State), (mainUp s = true) ∧ (rngReady s.rng = true) ∧ (dueNow s.rng = true) ∧ (48 ≤ s.rng.pool.length))
    ∧ (∃ (s : State), (mainUp s = false ∨ rngReady s.rng = false ∨ dueNow s.rng = false ∨ s.rng.pool.length < 48))
    ∧ (∃ (s : State) (v : Word), (mainUp s = true) ∧ (gateOk s 13 = true) ∧ (s.fus.lc = .blank ∨ s.mode.dbg = .opened))
    ∧ (∃ (s : State) (v : Word), (mainUp s = true) ∧ (gateOk s 13 = true) ∧ (s.fus.lc ≠ .blank) ∧ (s.mode.dbg ≠ .opened))
    ∧ (∃ (s : State) (v : Word), (mainUp s = true) ∧ (gateOk s 13 = false))
    ∧ (∃ (s : State) (a : Bytes) (n : Nat), (rngReady s.rng = false)) :=
  ⟨⟨(up.setRng { up.rng with run := true, restart := true }), ([1, 2, 3, 0xFFFF, 7]), by decide⟩,
   ⟨(up.setRng { up.rng with run := true, restart := false }), ([1]), by decide⟩,
   ⟨(up), (5), by decide⟩,
   ⟨(up.setRng { up.rng with phase := 3 }), (5), by decide⟩,
   ⟨(up.setRng { up.rng with restart := true, cap := false }), (true), by decide⟩,
   ⟨(up.setRng { up.rng with cap := false, runLen := 32, lastBit := true }), (true), by decide⟩,
   ⟨(up.setRng { up.rng with run := true, restart := false }), ([1, 2, 3, 0xFFFF, 7]), by decide⟩,
   ⟨(up.setRng { up.rng with run := false }), ([1]), by decide⟩,
   ⟨(up.setRng { up.rng with run := true, cap := true }), (true), by decide⟩,
   ⟨(up.setRng { up.rng with inst := true }), (true), by decide⟩,
   ⟨(up.setRng { up.rng with inst := true, blk := List.replicate 512 true }), List.length_replicate .., by decide, by decide⟩,
   ⟨(up.setRng { up.rng with inst := true, pool := List.replicate 128 0 }), (true), (Nat.lt_of_lt_of_eq (by decide) (List.length_replicate ..).symm : 96 < (List.replicate 128 (0 : Byte)).length)⟩,
   ⟨(up.setRng { up.rng with run := true }), (1), by decide⟩,
   ⟨(off0), (1), by decide⟩,
   ⟨(up.setRng { up.rng with inst := true, tickLog := 0, ticks := 1024 }), by decide⟩,
   ⟨(off0), by decide⟩,
   ⟨(up.setRng { up.rng with inst := true, due := true, pool := List.replicate 48 0 }), by decide⟩,
   ⟨(off0), by decide⟩,
   ⟨(ong), (1), by decide⟩,
   ⟨(ong.setFus { ong.fus with lc := .commissioned }), (1), by decide⟩,
   ⟨(up.setClk { up.clk with gate := 0 }), (1), by decide⟩,
   ⟨(up), ([]), (16), by decide⟩⟩

/-- Every hypothesis of AesAndGcmCommands is met, clause by clause. -/
theorem wit_AesAndGcmCommands :
    (∃ (s : State) (fn : Fin 16) (r : Fin 8) (io : CmdIo) (x : Staged) (h : Slot) (key : Bytes) (t : State), (jobOf s fn r 0x01 = some x) ∧ (engDown s aesLanes = false) ∧ (useKey s fn (dKey x.desc) 0 algAes = .inr (h, key, t)) ∧ (dAuxLen x.desc = 0) ∧ (blockLen (dLen x.desc) = true))
    ∧ (∃ (s : State) (fn : Fin 16) (r : Fin 8) (io : CmdIo) (x : Staged) (h : Slot) (key : Bytes) (t : State), (jobOf s fn r 0x02 = some x) ∧ (engDown s aesLanes = false) ∧ (useKey s fn (dKey x.desc) 1 algAes = .inr (h, key, t)) ∧ (dAuxLen x.desc = 0) ∧ (blockLen (dLen x.desc) = true))
    ∧ (∃ (s : State) (fn : Fin 16) (r : Fin 8) (io : CmdIo) (x : Staged) (h : Slot) (key : Bytes) (t : State), (jobOf s fn r 0x03 = some x) ∧ (engDown s aesLanes = false) ∧ (useKey s fn (dKey x.desc) 0 algAes = .inr (h, key, t)) ∧ (dAuxLen x.desc = 16) ∧ (blockLen (dLen x.desc) = true))
    ∧ (∃ (s : State) (fn : Fin 16) (r : Fin 8) (io : CmdIo) (x : Staged) (h : Slot) (key : Bytes) (t : State), (jobOf s fn r 0x04 = some x) ∧ (engDown s aesLanes = false) ∧ (useKey s fn (dKey x.desc) 1 algAes = .inr (h, key, t)) ∧ (dAuxLen x.desc = 16) ∧ (blockLen (dLen x.desc) = true))
    ∧ (∃ (s : State) (fn : Fin 16) (r : Fin 8) (io : CmdIo) (x : Staged) (h : Slot) (key : Bytes) (t : State), (jobOf s fn r 0x05 = some x) ∧ (engDown s aesLanes = false) ∧ (useKey s fn (dKey x.desc) 0 algAes = .inr (h, key, t)) ∧ (dAuxLen x.desc = 16) ∧ (dLen x.desc ≤ 2 ^ 30))
    ∧ (∃ (s : State) (fn : Fin 16) (r : Fin 8) (io : CmdIo) (x : Staged) (h : Slot) (key : Bytes) (t : State), (jobOf s fn r 0x06 = some x) ∧ (engDown s aesLanes = false) ∧ (useKey s fn (dKey x.desc) 1 algAes = .inr (h, key, t)) ∧ (dAuxLen x.desc = 16) ∧ (dLen x.desc ≤ 2 ^ 30))
    ∧ (∃ (s : State) (fn : Fin 16) (r : Fin 8) (io : CmdIo) (x : Staged) (h : Slot) (key : Bytes) (t : State), (jobOf s fn r 0x0E = some x) ∧ (engDown s aesLanes = false) ∧ (useKey s fn (dKey x.desc) 0 algAes = .inr (h, key, t)) ∧ (12 ≤ dTag x.desc) ∧ (dTag x.desc ≤ 16) ∧ (dOpndN x.desc 0 4 ≤ dLen x.desc) ∧ (dOpndN x.desc 0 4 ≤ 2 ^ 30) ∧ (dLen x.desc - dOpndN x.desc 0 4 ≤ 2 ^ 30) ∧ (dOpnd x.desc 4 = 0) ∧ (dAuxLen x.desc = 12))
    ∧ (∃ (s : State) (fn : Fin 16) (r : Fin 8) (io : CmdIo) (x : Staged) (h : Slot) (key : Bytes) (t : State), (jobOf s fn r 0x0E = some x) ∧ (engDown s aesLanes = false) ∧ (useKey s fn (dKey x.desc) 0 algAes = .inr (h, key, t)) ∧ (12 ≤ dTag x.desc) ∧ (dTag x.desc ≤ 16) ∧ (dOpndN x.desc 0 4 ≤ dLen x.desc) ∧ (dOpndN x.desc 0 4 ≤ 2 ^ 30) ∧ (dLen x.desc - dOpndN x.desc 0 4 ≤ 2 ^ 30) ∧ (dOpnd x.desc 4 = 1) ∧ (dAuxLen x.desc = 0))
    ∧ (∃ (s : State) (fn : Fin 16) (r : Fin 8) (io : CmdIo) (x : Staged) (h : Slot) (key : Bytes) (t : State), (jobOf s fn r 0x0F = some x) ∧ (engDown s aesLanes = false) ∧ (useKey s fn (dKey x.desc) 1 algAes = .inr (h, key, t)) ∧ (12 ≤ dTag x.desc) ∧ (dTag x.desc ≤ 16) ∧ (dOpndN x.desc 0 4 ≤ dLen x.desc) ∧ (dOpndN x.desc 0 4 ≤ 2 ^ 30) ∧ (dLen x.desc - dOpndN x.desc 0 4 ≤ 2 ^ 30) ∧ (dAuxLen x.desc = 12 + dTag x.desc))
    ∧ (∃ (s : State) (fn : Fin 16) (r : Fin 8) (io : CmdIo) (x : Staged), (jobOf s fn r 0x14 = some x) ∧ (dOpnd x.desc 0 ≤ 4) ∧ (engDown s hashLanes = false))
    ∧ (∃ (s : State) (fn : Fin 16) (r : Fin 8) (io : CmdIo) (x : Staged), (jobOf s fn r 0x14 = some x) ∧ (4 < dOpnd x.desc 0)) :=
  ⟨⟨(kv 0 0 (jb 3 (dsc 0x01 0x1FFFF 16 0 64 0 0 0 []))), (0), (3), (⟨[], [], 0⟩), (⟨0, (dsc 0x01 0x1FFFF 16 0 64 0 0 0 []), [], false⟩), ({ usage := 0, alg := 0, state := 1, assoc := 1 }), (List.replicate 32 1), (kv 0 0 (jb 3 (dsc 0x01 0x1FFFF 16 0 64 0 0 0 []))), by decide⟩,
   ⟨(kv 1 1 (jb 3 (dsc 0x02 0x1FFFF 32 0 64 0 0 0 []))), (0), (3), (⟨[], [], 0⟩), (⟨0, (dsc 0x02 0x1FFFF 32 0 64 0 0 0 []), [], false⟩), ({ usage := 1, alg := 1, state := 1, assoc := 1 }), (List.replicate 32 1), (kv 1 1 (jb 3 (dsc 0x02 0x1FFFF 32 0 64 0 0 0 []))), by decide⟩,
   ⟨(kv 0 2 (jb 3 (dsc 0x03 0x1FFFF 16 0 64 0 16 0 []))), (0), (3), (⟨[], [], 0⟩), (⟨0, (dsc 0x03 0x1FFFF 16 0 64 0 16 0 []), [], false⟩), ({ usage := 0, alg := 2, state := 1, assoc := 1 }), (List.replicate 32 1), (kv 0 2 (jb 3 (dsc 0x03 0x1FFFF 16 0 64 0 16 0 []))), by decide⟩,
   ⟨(kv 1 0 (jb 3 (dsc 0x04 0x1FFFF 16 0 64 0 16 0 []))), (0), (3), (⟨[], [], 0⟩), (⟨0, (dsc 0x04 0x1FFFF 16 0 64 0 16 0 []), [], false⟩), ({ usage := 1, alg := 0, state := 1, assoc := 1 }), (List.replicate 32 1), (kv 1 0 (jb 3 (dsc 0x04 0x1FFFF 16 0 64 0 16 0 []))), by decide⟩,
   ⟨(kv 0 0 (jb 3 (dsc 0x05 0x1FFFF 1 0 64 0 16 0 []))), (0), (3), (⟨[], [], 0⟩), (⟨0, (dsc 0x05 0x1FFFF 1 0 64 0 16 0 []), [], false⟩), ({ usage := 0, alg := 0, state := 1, assoc := 1 }), (List.replicate 32 1), (kv 0 0 (jb 3 (dsc 0x05 0x1FFFF 1 0 64 0 16 0 []))), by decide⟩,
   ⟨(kv 1 0 (jb 3 (dsc 0x06 0x1FFFF 0 0 64 0 16 0 []))), (0), (3), (⟨[], [], 0⟩), (⟨0, (dsc 0x06 0x1FFFF 0 0 64 0 16 0 []), [], false⟩), ({ usage := 1, alg := 0, state := 1, assoc := 1 }), (List.replicate 32 1), (kv 1 0 (jb 3 (dsc 0x06 0x1FFFF 0 0 64 0 16 0 []))), by decide⟩,
   ⟨(kv 0 0 (jb 3 (dsc 0x0E 0x1FFFF 20 0 64 0 12 16 [4]))), (0), (3), (⟨[], [], 0⟩), (⟨0, (dsc 0x0E 0x1FFFF 20 0 64 0 12 16 [4]), [], false⟩), ({ usage := 0, alg := 0, state := 1, assoc := 1 }), (List.replicate 32 1), (kv 0 0 (jb 3 (dsc 0x0E 0x1FFFF 20 0 64 0 12 16 [4]))), by decide⟩,
   ⟨(kv 0 0 (jb 3 (dsc 0x0E 0x1FFFF 20 0 64 0 0 16 [4, 0, 0, 0, 1]))), (0), (3), (⟨[], [], 0⟩), (⟨0, (dsc 0x0E 0x1FFFF 20 0 64 0 0 16 [4, 0, 0, 0, 1]), [], false⟩), ({ usage := 0, alg := 0, state := 1, assoc := 1 }), (List.replicate 32 1), (kv 0 0 (jb 3 (dsc 0x0E 0x1FFFF 20 0 64 0 0 16 [4, 0, 0, 0, 1]))), by decide⟩,
   ⟨(kv 1 0 (jb 3 (dsc 0x0F 0x1FFFF 20 0 64 0 28 16 [4]))), (0), (3), (⟨[], [], 0⟩), (⟨0, (dsc 0x0F 0x1FFFF 20 0 64 0 28 16 [4]), [], false⟩), ({ usage := 1, alg := 0, state := 1, assoc := 1 }), (List.replicate 32 1), (kv 1 0 (jb 3 (dsc 0x0F 0x1FFFF 20 0 64 0 28 16 [4]))), by decide⟩,
   ⟨((jb 3 (dsc 0x14 0 3 0 64 0 0 0 [4]))), (0), (3), (⟨[], [], 0⟩), (⟨0, (dsc 0x14 0 3 0 64 0 0 0 [4]), [], false⟩), by decide⟩,
   ⟨((jb 3 (dsc 0x14 0 0 0 64 0 0 0 [5]))), (0), (3), (⟨[], [], 0⟩), (⟨0, (dsc 0x14 0 0 0 64 0 0 0 [5]), [], false⟩), by decide⟩⟩

/-- Every hypothesis of MacCommands is met, clause by clause. -/
theorem wit_MacCommands :
    (∃ (s : State) (fn : Fin 16) (r : Fin 8) (io : CmdIo) (x : Staged) (h : Slot) (key : Bytes) (t : State), (jobOf s fn r 0x08 = some x) ∧ (engDown s hashLanes = false) ∧ (useKey s fn (dKey x.desc) 4 (· = 3) = .inr (h, key, t)) ∧ (dOpnd x.desc 0 ≤ 1) ∧ (10 ≤ dTag x.desc) ∧ (dTag x.desc ≤ 32) ∧ (dAuxLen x.desc = 0))
    ∧ (∃ (s : State) (fn : Fin 16) (r : Fin 8) (io : CmdIo) (x : Staged) (h : Slot) (key : Bytes) (t : State), (jobOf s fn r 0x09 = some x) ∧ (engDown s hashLanes = false) ∧ (useKey s fn (dKey x.desc) 5 (· = 3) = .inr (h, key, t)) ∧ (dOpnd x.desc 0 ≤ 1) ∧ (10 ≤ dTag x.desc) ∧ (dTag x.desc ≤ 32) ∧ (dAuxLen x.desc = dTag x.desc))
    ∧ (∃ (s : State) (fn : Fin 16) (r : Fin 8) (io : CmdIo) (x : Staged) (h : Slot) (key : Bytes) (t : State), (jobOf s fn r 0x0A = some x) ∧ (engDown s hashLanes = false) ∧ (useKey s fn (dKey x.desc) 4 (· = 4) = .inr (h, key, t)) ∧ (dOpnd x.desc 0 ≤ 1) ∧ (10 ≤ dTag x.desc) ∧ (dTag x.desc ≤ (if dOpnd x.desc 0 = 0 then 48 else 64)) ∧ (dAuxLen x.desc = 0))
    ∧ (∃ (s : State) (fn : Fin 16) (r : Fin 8) (io : CmdIo) (x : Staged) (h : Slot) (key : Bytes) (t : State), (jobOf s fn r 0x0B = some x) ∧ (engDown s hashLanes = false) ∧ (useKey s fn (dKey x.desc) 5 (· = 4) = .inr (h, key, t)) ∧ (dOpnd x.desc 0 ≤ 1) ∧ (10 ≤ dTag x.desc) ∧ (dTag x.desc ≤ (if dOpnd x.desc 0 = 0 then 48 else 64)) ∧ (dAuxLen x.desc = dTag x.desc))
    ∧ (∃ (s : State) (fn : Fin 16) (r : Fin 8) (io : CmdIo) (x : Staged) (h : Slot) (key : Bytes) (t : State), (jobOf s fn r 0x0C = some x) ∧ (engDown s aesLanes = false) ∧ (useKey s fn (dKey x.desc) 4 algAes = .inr (h, key, t)) ∧ (gcmTagLen (dTag x.desc) = true) ∧ (dLen x.desc ≤ 2 ^ 30) ∧ (dAuxLen x.desc = 12))
    ∧ (∃ (s : State) (fn : Fin 16) (r : Fin 8) (io : CmdIo) (x : Staged) (h : Slot) (key : Bytes) (t : State), (jobOf s fn r 0x0D = some x) ∧ (engDown s aesLanes = false) ∧ (useKey s fn (dKey x.desc) 5 algAes = .inr (h, key, t)) ∧ (gcmTagLen (dTag x.desc) = true) ∧ (dLen x.desc ≤ 2 ^ 30) ∧ (dAuxLen x.desc = 12 + dTag x.desc))
    ∧ (∃ (s : State) (fn : Fin 16) (r : Fin 8) (io : CmdIo) (x : Staged) (h : Slot) (key : Bytes) (t : State), (jobOf s fn r 0x10 = some x) ∧ (engDown s aesLanes = false) ∧ (useKey s fn (dKey x.desc) 4 algAes = .inr (h, key, t)) ∧ (8 ≤ dTag x.desc) ∧ (dTag x.desc ≤ 16) ∧ (dLen x.desc ≤ 2 ^ 30) ∧ (dAuxLen x.desc = 0))
    ∧ (∃ (s : State) (fn : Fin 16) (r : Fin 8) (io : CmdIo) (x : Staged) (h : Slot) (key : Bytes) (t : State), (jobOf s fn r 0x11 = some x) ∧ (engDown s aesLanes = false) ∧ (useKey s fn (dKey x.desc) 5 algAes = .inr (h, key, t)) ∧ (8 ≤ dTag x.desc) ∧ (dTag x.desc ≤ 16) ∧ (dLen x.desc ≤ 2 ^ 30) ∧ (dAuxLen x.desc = dTag x.desc)) :=
  ⟨⟨(kv 4 3 (jb 3 (dsc 0x08 0x1FFFF 3 0 64 0 0 16 []))), (0), (3), (⟨[], [], 0⟩), (⟨0, (dsc 0x08 0x1FFFF 3 0 64 0 0 16 []), [], false⟩), ({ usage := 4, alg := 3, state := 1, assoc := 1 }), (List.replicate 32 1), (kv 4 3 (jb 3 (dsc 0x08 0x1FFFF 3 0 64 0 0 16 []))), by decide⟩,
   ⟨(kv 5 3 (jb 3 (dsc 0x09 0x1FFFF 3 0 64 0 16 16 []))), (0), (3), (⟨[], [], 0⟩), (⟨0, (dsc 0x09 0x1FFFF 3 0 64 0 16 16 []), [], false⟩), ({ usage := 5, alg := 3, state := 1, assoc := 1 }), (List.replicate 32 1), (kv 5 3 (jb 3 (dsc 0x09 0x1FFFF 3 0 64 0 16 16 []))), by decide⟩,
   ⟨(kv 4 4 (jb 3 (dsc 0x0A 0x1FFFF 3 0 64 0 0 64 [1]))), (0), (3), (⟨[], [], 0⟩), (⟨0, (dsc 0x0A 0x1FFFF 3 0 64 0 0 64 [1]), [], false⟩), ({ usage := 4, alg := 4, state := 1, assoc := 1 }), (List.replicate 32 1), (kv 4 4 (jb 3 (dsc 0x0A 0x1FFFF 3 0 64 0 0 64 [1]))), by decide⟩,
   ⟨(kv 5 4 (jb 3 (dsc 0x0B 0x1FFFF 3 0 64 0 48 48 []))), (0), (3), (⟨[], [], 0⟩), (⟨0, (dsc 0x0B 0x1FFFF 3 0 64 0 48 48 []), [], false⟩), ({ usage := 5, alg := 4, state := 1, assoc := 1 }), (List.replicate 32 1), (kv 5 4 (jb 3 (dsc 0x0B 0x1FFFF 3 0 64 0 48 48 []))), by decide⟩,
   ⟨(kv 4 0 (jb 3 (dsc 0x0C 0x1FFFF 3 0 64 0 12 8 []))), (0), (3), (⟨[], [], 0⟩), (⟨0, (dsc 0x0C 0x1FFFF 3 0 64 0 12 8 []), [], false⟩), ({ usage := 4, alg := 0, state := 1, assoc := 1 }), (List.replicate 32 1), (kv 4 0 (jb 3 (dsc 0x0C 0x1FFFF 3 0 64 0 12 8 []))), by decide⟩,
   ⟨(kv 5 0 (jb 3 (dsc 0x0D 0x1FFFF 3 0 64 0 28 16 []))), (0), (3), (⟨[], [], 0⟩), (⟨0, (dsc 0x0D 0x1FFFF 3 0 64 0 28 16 []), [], false⟩), ({ usage := 5, alg := 0, state := 1, assoc := 1 }), (List.replicate 32 1), (kv 5 0 (jb 3 (dsc 0x0D 0x1FFFF 3 0 64 0 28 16 []))), by decide⟩,
   ⟨(kv 4 0 (jb 3 (dsc 0x10 0x1FFFF 3 0 64 0 0 8 []))), (0), (3), (⟨[], [], 0⟩), (⟨0, (dsc 0x10 0x1FFFF 3 0 64 0 0 8 []), [], false⟩), ({ usage := 4, alg := 0, state := 1, assoc := 1 }), (List.replicate 32 1), (kv 4 0 (jb 3 (dsc 0x10 0x1FFFF 3 0 64 0 0 8 []))), by decide⟩,
   ⟨(kv 5 0 (jb 3 (dsc 0x11 0x1FFFF 3 0 64 0 16 16 []))), (0), (3), (⟨[], [], 0⟩), (⟨0, (dsc 0x11 0x1FFFF 3 0 64 0 16 16 []), [], false⟩), ({ usage := 5, alg := 0, state := 1, assoc := 1 }), (List.replicate 32 1), (kv 5 0 (jb 3 (dsc 0x11 0x1FFFF 3 0 64 0 16 16 []))), by decide⟩⟩

/-- Every hypothesis of RefusalsAndAnswers is met, clause by clause. -/
theorem wit_RefusalsAndAnswers :
    (∃ (s : State) (fn usage : Nat) (d : Bytes) (engs : List Nat) (alg : Nat → Bool) (f : State → Slot → Bytes → Ans), (engDown s engs = true))
    ∧ (∃ (s : State) (fn usage k : Nat) (d : Bytes) (engs : List Nat) (alg : Nat → Bool) (f : State → Slot → Bytes → Ans) (t : State), (engDown s engs = false) ∧ (useKey s fn (dKey d) usage alg = .inl (k, t)))
    ∧ (∃ (s : State) (owner usage : Nat) (h : Word) (alg : Nat → Bool), (resolve s h = none))
    ∧ (∃ (s : State) (owner usage n : Nat) (h : Word) (alg : Nat → Bool) (y : Slot), (resolve s h = some (n, y)) ∧ (y.owner ≠ owner ∨ y.usage ≠ usage % 8 ∨ alg y.alg = false))
    ∧ (∃ (s : State) (owner usage n : Nat) (h : Word) (alg : Nat → Bool) (y : Slot), (resolve s h = some (n, y)) ∧ (y.owner = owner) ∧ (y.usage = usage % 8) ∧ (alg y.alg = true) ∧ (servesNow s y (accepting usage) = false))
    ∧ (∃ (s : State) (owner usage n : Nat) (h : Word) (alg : Nat → Bool) (y : Slot) (e : CacheEnt), (resolve s h = some (n, y)) ∧ (y.owner = owner) ∧ (y.usage = usage % 8) ∧ (alg y.alg = true) ∧ (servesNow s y (accepting usage) = true) ∧ (cacheOf s n = some e))
    ∧ (∃ (s : State) (fn r op : Nat) (f : State → Bytes → Ans), (jobOf s fn r op = none))
    ∧ (∃ (s : State) (fn r op : Nat) (x : Staged), (jobOf s fn r op = some x))
    ∧ (∃ (k : Nat) (x : Staged) (a : Ans), (a.wait = none) ∧ (a.status ≠ 0 ∨ a.out = [] ∨ x.muted = true))
    ∧ (∃ (k : Nat) (x : Staged) (a : Ans), (a.wait = none) ∧ (a.status = 0) ∧ (a.out ≠ []) ∧ (x.muted = false))
    ∧ (∃ (k : Nat) (x : Staged) (a : Ans) (t : WaitTag), (a.wait = some t)) :=
  ⟨⟨(up.setMode { up.mode with gatedEng := [4, 5] }), (0), (0), ([]), (hashLanes), (fun _ => true), (fun s _ _ => .stop s 0), by decide⟩,
   ⟨(up), (0), (0), (0x12), ([]), (hashLanes), (fun _ => true), (fun s _ _ => .stop s 0), (up), by decide⟩,
   ⟨(up), (0), (0), (0), (fun _ => true), by decide⟩,
   ⟨(kv 0 0 up), (0), (1), (0), (0x1FFFF), (fun _ => true), ({ usage := 0, alg := 0, state := 1, assoc := 1 }), by decide⟩,
   ⟨((kv 0 0 up).setVlt { (kv 0 0 up).vlt with slots := [(0, { state := 1, assoc := 1, role := 1, sn := 2 })] }), (0), (0), (0), (0x10002), (fun _ => true), ({ state := 1, assoc := 1, role := 1, sn := 2 }), by decide⟩,
   ⟨(kv 0 0 up), (0), (0), (0), (0x1FFFF), (fun _ => true), ({ usage := 0, alg := 0, state := 1, assoc := 1 }), ({ slot := 0, hdr := { usage := 0, alg := 0, state := 1, assoc := 1 }, mat := List.replicate 32 1, pin := true }), by decide⟩,
   ⟨(up), (0), (3), (0x14), (fun s _ => .stop s 0), by decide⟩,
   ⟨(jb 3 (dsc 0x14 0 0 0 64 0 0 0 [])), (0), (3), (0x14), (⟨0, (dsc 0x14 0 0 0 64 0 0 0 []), [], false⟩), by decide⟩,
   ⟨(3), (⟨0, (dsc 0x14 0 0 0 64 0 0 0 []), [], false⟩), (.stop up 0x11), by decide⟩,
   ⟨(3), (⟨0, (dsc 0x14 0 0 0 64 0 0 0 []), [], false⟩), ({ st := up, out := [1] }), by decide⟩,
   ⟨(3), (⟨0, (dsc 0x14 0 0 0 64 0 0 0 []), [], false⟩), ({ st := up, wait := some (.live 1) }), (.live 1), by decide⟩⟩

/-- Every hypothesis of SignAndVerifyCommands is met, clause by clause. -/
theorem wit_SignAndVerifyCommands :
    (∃ (s : State) (fn : Fin 16) (r : Fin 8) (io : CmdIo) (x : Staged) (h : Slot) (key : Bytes) (t : State), (jobOf s fn r 0x20 = some x) ∧ (engLacks s pkeEngs = false) ∧ (useKey s fn (dKey x.desc) 6 (fun a => a = 5 || a = 6) = .inr (h, key, t)) ∧ (dOpnd x.desc 0 = 0))
    ∧ (∃ (s : State) (fn : Fin 16) (r : Fin 8) (io : CmdIo) (x : Staged) (h : Slot) (key : Bytes) (t : State), (jobOf s fn r 0x20 = some x) ∧ (engLacks s pkeEngs = false) ∧ (useKey s fn (dKey x.desc) 6 (fun a => a = 5 || a = 6) = .inr (h, key, t)) ∧ (dOpnd x.desc 0 = 1) ∧ (dLen x.desc = coordLen h.alg))
    ∧ (∃ (s : State) (fn : Fin 16) (r : Fin 8) (io : CmdIo) (x : Staged) (h : Slot) (key : Bytes) (t : State), (jobOf s fn r 0x20 = some x) ∧ (engLacks s pkeEngs = false) ∧ (useKey s fn (dKey x.desc) 6 (fun a => a = 5 || a = 6) = .inr (h, key, t)) ∧ (dOpnd x.desc 0 = 1) ∧ (dLen x.desc ≠ coordLen h.alg))
    ∧ (∃ (s : State) (fn : Fin 16) (r : Fin 8) (io : CmdIo) (x : Staged) (h : Slot) (key : Bytes) (t : State), (jobOf s fn r 0x22 = some x) ∧ (engLacks s pkeEngs = false) ∧ (useKey s fn (dKey x.desc) 6 (· = 7) = .inr (h, key, t)) ∧ (dLen x.desc ≤ 65536))
    ∧ (∃ (s : State) (fn : Fin 16) (r : Fin 8) (io : CmdIo) (x : Staged) (h : Slot) (key : Bytes) (t : State), (jobOf s fn r 0x24 = some x) ∧ (engLacks s pkeEngs = false) ∧ (useKey s fn (dKey x.desc) 6 (· = 8) = .inr (h, key, t)) ∧ (dAuxLen x.desc = dOpnd x.desc 3))
    ∧ (∃ (s : State) (fn : Fin 16) (r : Fin 8) (io : CmdIo) (x : Staged), (jobOf s fn r 0x21 = some x) ∧ (engDown s pkeEngs = false) ∧ (dOpnd x.desc 0 = 0) ∧ (dOpnd x.desc 2 = 1 ∨ dOpnd x.desc 2 = 2) ∧ (dAuxLen x.desc = 4 * coordLen (dOpnd x.desc 2 + 4) + 1))
    ∧ (∃ (s : State) (fn : Fin 16) (r : Fin 8) (io : CmdIo) (x : Staged), (jobOf s fn r 0x21 = some x) ∧ (engDown s pkeEngs = false) ∧ (dOpnd x.desc 0 = 1) ∧ (dOpnd x.desc 2 = 1 ∨ dOpnd x.desc 2 = 2) ∧ (dLen x.desc = coordLen (dOpnd x.desc 2 + 4)) ∧ (dAuxLen x.desc = 4 * coordLen (dOpnd x.desc 2 + 4) + 1))
    ∧ (∃ (s : State) (fn : Fin 16) (r : Fin 8) (io : CmdIo) (x : Staged), (jobOf s fn r 0x23 = some x) ∧ (engDown s pkeEngs = false) ∧ (dAuxLen x.desc = 96))
    ∧ (∃ (s : State) (fn : Fin 16) (r : Fin 8) (io : CmdIo) (x : Staged), (jobOf s fn r 0x23 = some x) ∧ (dAuxLen x.desc ≠ 96))
    ∧ (∃ (s : State) (fn : Fin 16) (r : Fin 8) (io : CmdIo) (x : Staged), (jobOf s fn r 0x25 = some x) ∧ (engDown s pkeEngs = false) ∧ (dAuxLen x.desc = 5261 + dOpnd x.desc 3))
    ∧ (∃ (s : State) (fn : Fin 16) (r : Fin 8) (io : CmdIo) (x : Staged), (jobOf s fn r 0x26 = some x) ∧ (engDown s pkeEngs = false) ∧ (dAuxLen x.desc = 5454 + dOpnd x.desc 3) ∧ (ecdsaVerify p384 ((auxOf x.desc io).take 97) (slice (auxOf x.desc io) 2049 96) (sha384 (inOf x.desc io)) ≠ 0))
    ∧ (∃ (s : State) (fn : Fin 16) (r : Fin 8) (io : CmdIo) (x : Staged), (jobOf s fn r 0x26 = some x) ∧ (engDown s pkeEngs = false) ∧ (dAuxLen x.desc = 5454 + dOpnd x.desc 3))
    ∧ (∃ (s : State) (fn : Fin 16) (r : Fin 8) (io : CmdIo) (x : Staged), (jobOf s fn r 0x20 = some x) ∧ (engLacks s pkeEngs = true) ∧ (dOpnd x.desc 0 ≤ 1))
    ∧ (∃ (s : State) (fn : Fin 16) (r : Fin 8) (io : CmdIo) (x : Staged), (jobOf s fn r 0x22 = some x) ∧ (engLacks s pkeEngs = true) ∧ (dLen x.desc ≤ 65536))
    ∧ (∃ (s : State) (fn : Fin 16) (r : Fin 8) (io : CmdIo) (x : Staged), (jobOf s fn r 0x24 = some x) ∧ (engLacks s pkeEngs = true) ∧ (dAuxLen x.desc = dOpnd x.desc 3)) :=
  ⟨⟨(kv 6 5 (jb 3 (dsc 0x20 0x1FFFF 3 0 64 0 0 0 []))), (0), (3), (⟨[], [], 0⟩), (⟨0, (dsc 0x20 0x1FFFF 3 0 64 0 0 0 []), [], false⟩), ({ usage := 6, alg := 5, state := 1, assoc := 1 }), (List.replicate 32 1), (kv 6 5 (jb 3 (dsc 0x20 0x1FFFF 3 0 64 0 0 0 []))), by decide⟩,
   ⟨(kv 6 5 (jb 3 (dsc 0x20 0x1FFFF 32 0 64 0 0 0 [1]))), (0), (3), (⟨[], [], 0⟩), (⟨0, (dsc 0x20 0x1FFFF 32 0 64 0 0 0 [1]), [], false⟩), ({ usage := 6, alg := 5, state := 1, assoc := 1 }), (List.replicate 32 1), (kv 6 5 (jb 3 (dsc 0x20 0x1FFFF 32 0 64 0 0 0 [1]))), by decide⟩,
   ⟨(kv 6 6 (jb 3 (dsc 0x20 0x1FFFF 32 0 64 0 0 0 [1]))), (0), (3), (⟨[], [], 0⟩), (⟨0, (dsc 0x20 0x1FFFF 32 0 64 0 0 0 [1]), [], false⟩), ({ usage := 6, alg := 6, state := 1, assoc := 1 }), (List.replicate 32 1), (kv 6 6 (jb 3 (dsc 0x20 0x1FFFF 32 0 64 0 0 0 [1]))), by decide⟩,
   ⟨(kv 6 7 (jb 3 (dsc 0x22 0x1FFFF 3 0 64 0 0 0 []))), (0), (3), (⟨[], [], 0⟩), (⟨0, (dsc 0x22 0x1FFFF 3 0 64 0 0 0 []), [], false⟩), ({ usage := 6, alg := 7, state := 1, assoc := 1 }), (List.replicate 32 1), (kv 6 7 (jb 3 (dsc 0x22 0x1FFFF 3 0 64 0 0 0 []))), by decide⟩,
   ⟨(kv 6 8 (jb 3 (dsc 0x24 0x1FFFF 3 0 64 0 2 0 [0, 0, 0, 2]))), (0), (3), (⟨[], [], 0⟩), (⟨0, (dsc 0x24 0x1FFFF 3 0 64 0 2 0 [0, 0, 0, 2]), [], false⟩), ({ usage := 6, alg := 8, state := 1, assoc := 1 }), (List.replicate 32 1), (kv 6 8 (jb 3 (dsc 0x24 0x1FFFF 3 0 64 0 2 0 [0, 0, 0, 2]))), by decide⟩,
   ⟨((jb 3 (dsc 0x21 0 3 0 64 0 193 0 [0, 0, 2]))), (0), (3), (⟨[], [], 0⟩), (⟨0, (dsc 0x21 0 3 0 64 0 193 0 [0, 0, 2]), [], false⟩), by decide⟩,
   ⟨((jb 3 (dsc 0x21 0 32 0 64 0 129 0 [1, 0, 1]))), (0), (3), (⟨[], [], 0⟩), (⟨0, (dsc 0x21 0 32 0 64 0 129 0 [1, 0, 1]), [], false⟩), by decide⟩,
   ⟨((jb 3 (dsc 0x23 0 3 0 64 0 96 0 []))), (0), (3), (⟨[], [], 0⟩), (⟨0, (dsc 0x23 0 3 0 64 0 96 0 []), [], false⟩), by decide⟩,
   ⟨((jb 3 (dsc 0x23 0 3 0 64 0 95 0 []))), (0), (3), (⟨[], [], 0⟩), (⟨0, (dsc 0x23 0 3 0 64 0 95 0 []), [], false⟩), by decide⟩,
   ⟨((jb 3 (dsc 0x25 0 3 0 64 0 5261 0 []))), (0), (3), (⟨[], [], 0⟩), (⟨0, (dsc 0x25 0 3 0 64 0 5261 0 []), [], false⟩), by decide⟩,
   ⟨((jb 3 (dsc 0x26 0 3 0 64 0 5454 0 []))), (0), (3), (⟨[], [], 0⟩), (⟨0, (dsc 0x26 0 3 0 64 0 5454 0 []), [], false⟩), by decide⟩,
   ⟨(jb 3 (dsc 0x26 0 3 0 64 0 5454 0 [])), (0), (3), (⟨[], [], 0⟩), (⟨0, (dsc 0x26 0 3 0 64 0 5454 0 []), [], false⟩), by decide⟩,
   ⟨((jb 3 (dsc 0x20 0x1FFFF 3 0 64 0 0 0 [])).setMode { (jb 3 (dsc 0x20 0x1FFFF 3 0 64 0 0 0 [])).mode with gatedEng := [7] }), (0), (3), (⟨[], [], 0⟩), (⟨0, (dsc 0x20 0x1FFFF 3 0 64 0 0 0 []), [], false⟩), by decide⟩,
   ⟨((jb 3 (dsc 0x22 0x1FFFF 3 0 64 0 0 0 [])).setMode { (jb 3 (dsc 0x22 0x1FFFF 3 0 64 0 0 0 [])).mode with gatedEng := [7] }), (0), (3), (⟨[], [], 0⟩), (⟨0, (dsc 0x22 0x1FFFF 3 0 64 0 0 0 []), [], false⟩), by decide⟩,
   ⟨((jb 3 (dsc 0x24 0x1FFFF 3 0 64 0 2 0 [0, 0, 0, 2])).setMode { (jb 3 (dsc 0x24 0x1FFFF 3 0 64 0 2 0 [0, 0, 0, 2])).mode with gatedEng := [7] }), (0), (3), (⟨[], [], 0⟩), (⟨0, (dsc 0x24 0x1FFFF 3 0 64 0 2 0 [0, 0, 0, 2]), [], false⟩), by decide⟩⟩

/-- Every hypothesis of RsaAndPublicCommands is met, clause by clause. -/
theorem wit_RsaAndPublicCommands :
    (∃ (s : State) (fn : Fin 16) (r : Fin 8) (io : CmdIo) (x : Staged), (jobOf s fn r 0x2A = some x) ∧ (dOpnd x.desc 0 = 0 ∨ (dOpnd x.desc 0 = 1 ∧ dLen x.desc = 32)) ∧ (engDown s pkeEngs = false) ∧ (dOpnd x.desc 1 = 0) ∧ (dOpnd x.desc 6 = 1))
    ∧ (∃ (s : State) (fn : Fin 16) (r : Fin 8) (io : CmdIo) (x : Staged), (jobOf s fn r 0x2A = some x) ∧ (dOpnd x.desc 0 = 0 ∨ (dOpnd x.desc 0 = 1 ∧ dLen x.desc = 32)) ∧ (engDown s pkeEngs = false) ∧ (dOpnd x.desc 1 = 1) ∧ (dOpnd x.desc 6 = 1))
    ∧ (∃ (s : State) (fn : Fin 16) (r : Fin 8) (io : CmdIo) (x : Staged), (jobOf s fn r 0x2B = some x) ∧ (dOpnd x.desc 0 = 0 ∨ (dOpnd x.desc 0 = 1 ∧ dLen x.desc = 32)) ∧ (engDown s pkeEngs = false) ∧ (dOpnd x.desc 2 = 1) ∧ (dAuxLen x.desc = 516))
    ∧ (∃ (s : State) (fn : Fin 16) (r : Fin 8) (io : CmdIo) (x : Staged), (jobOf s fn r 0x2B = some x) ∧ (dOpnd x.desc 0 = 0 ∨ (dOpnd x.desc 0 = 1 ∧ dLen x.desc = 32)) ∧ (engDown s pkeEngs = false) ∧ (dOpnd x.desc 2 = 2) ∧ (dAuxLen x.desc = 1028))
    ∧ (∃ (s : State) (fn : Fin 16) (r : Fin 8) (io : CmdIo) (x : Staged), (jobOf s fn r 0x2B = some x) ∧ (dOpnd x.desc 2 ≠ 1) ∧ (dOpnd x.desc 2 ≠ 2))
    ∧ (∃ (s : State) (fn : Fin 16) (r : Fin 8) (io : CmdIo) (x : Staged), (jobOf s fn r 0x2C = some x) ∧ (dAuxLen x.desc ≤ 255) ∧ (dLen x.desc = 256 ∨ dLen x.desc = 512) ∧ (engDown s pkeEngs = false) ∧ (dOpnd x.desc 6 = 1))
    ∧ (∃ (s : State) (fn : Fin 16) (r : Fin 8) (io : CmdIo) (x : Staged) (h : Slot) (key : Bytes) (t : State), (jobOf s fn r 0x2E = some x) ∧ (engDown s pkeEngs = false) ∧ (useKey s fn (dKey x.desc) 14 (fun a => 5 ≤ a && a ≤ 8) = .inr (h, key, t)) ∧ ((resolve s (dKey x.desc)).any (fun p => p.2.usage = 7) = false) ∧ (dOpnd x.desc 6 = 0) ∧ (dOpndN x.desc 4 2 = 0))
    ∧ (∃ (s : State) (fn : Fin 16) (r : Fin 8) (io : CmdIo) (x : Staged) (h : Slot) (key : Bytes) (t : State), (jobOf s fn r 0x2E = some x) ∧ (engDown s pkeEngs = false) ∧ (useKey s fn (dKey x.desc) 15 (fun a => 5 ≤ a && a ≤ 8) = .inr (h, key, t)) ∧ ((resolve s (dKey x.desc)).any (fun p => p.2.usage = 7) = true) ∧ (dOpnd x.desc 6 = 0) ∧ (dOpndN x.desc 4 2 = 0))
    ∧ (∃ (s : State) (fn : Fin 16) (r : Fin 8) (io : CmdIo) (x : Staged), (jobOf s fn r 0x2E = some x) ∧ (engDown s pkeEngs = false) ∧ (dOpnd x.desc 6 = 1) ∧ (dKey x.desc = 0))
    ∧ (∃ (alg : Nat) (m : Bytes), (alg = 5))
    ∧ (∃ (alg : Nat) (m : Bytes), (alg = 6))
    ∧ (∃ (alg : Nat) (m : Bytes), (alg = 7))
    ∧ (∃ (alg : Nat) (m : Bytes), (alg ≤ 4 ∨ alg = 9))
    ∧ (∃ (s : State) (fn : Fin 16) (r : Fin 8) (io : CmdIo) (x : Staged), (jobOf s fn r 0x40 = some x) ∧ (0 < dLen x.desc) ∧ (dLen x.desc ≤ 65536))
    ∧ (∃ (s : State) (fn : Fin 16) (r : Fin 8) (io : CmdIo) (x : Staged), (jobOf s fn r 0x40 = some x) ∧ (dLen x.desc = 0 ∨ 65536 < dLen x.desc)) :=
  ⟨⟨((jb 3 (dsc 0x2A 0 3 0 64 0 0 0 [0, 0, 0, 0, 0, 0, 1]))), (0), (3), (⟨[], [], 0⟩), (⟨0, (dsc 0x2A 0 3 0 64 0 0 0 [0, 0, 0, 0, 0, 0, 1]), [], false⟩), by decide⟩,
   ⟨((jb 3 (dsc 0x2A 0 3 0 64 0 0 0 [0, 1, 0, 0, 0, 0, 1]))), (0), (3), (⟨[], [], 0⟩), (⟨0, (dsc 0x2A 0 3 0 64 0 0 0 [0, 1, 0, 0, 0, 0, 1]), [], false⟩), by decide⟩,
   ⟨((jb 3 (dsc 0x2B 0 3 0 64 0 516 0 [0, 0, 1]))), (0), (3), (⟨[], [], 0⟩), (⟨0, (dsc 0x2B 0 3 0 64 0 516 0 [0, 0, 1]), [], false⟩), by decide⟩,
   ⟨((jb 3 (dsc 0x2B 0 3 0 64 0 1028 0 [0, 0, 2]))), (0), (3), (⟨[], [], 0⟩), (⟨0, (dsc 0x2B 0 3 0 64 0 1028 0 [0, 0, 2]), [], false⟩), by decide⟩,
   ⟨((jb 3 (dsc 0x2B 0 3 0 64 0 0 0 []))), (0), (3), (⟨[], [], 0⟩), (⟨0, (dsc 0x2B 0 3 0 64 0 0 0 []), [], false⟩), by decide⟩,
   ⟨((jb 3 (dsc 0x2C 0 256 0 64 0 0 0 [0, 0, 0, 0, 0, 0, 1]))), (0), (3), (⟨[], [], 0⟩), (⟨0, (dsc 0x2C 0 256 0 64 0 0 0 [0, 0, 0, 0, 0, 0, 1]), [], false⟩), by decide⟩,
   ⟨(kv 6 5 (jb 3 (dsc 0x2E 0x1FFFF 0 0 64 0 0 0 []))), (0), (3), (⟨[], [], 0⟩), (⟨0, (dsc 0x2E 0x1FFFF 0 0 64 0 0 0 []), [], false⟩), ({ usage := 6, alg := 5, state := 1, assoc := 1 }), (List.replicate 32 1), (kv 6 5 (jb 3 (dsc 0x2E 0x1FFFF 0 0 64 0 0 0 []))), by decide⟩,
   ⟨(kv 7 6 (jb 3 (dsc 0x2E 0x1FFFF 0 0 64 0 0 0 []))), (0), (3), (⟨[], [], 0⟩), (⟨0, (dsc 0x2E 0x1FFFF 0 0 64 0 0 0 []), [], false⟩), ({ usage := 7, alg := 6, state := 1, assoc := 1 }), (List.replicate 32 1), (kv 7 6 (jb 3 (dsc 0x2E 0x1FFFF 0 0 64 0 0 0 []))), by decide⟩,
   ⟨((jb 3 (dsc 0x2E 0 0 0 64 0 0 0 [0, 0, 0, 0, 0, 0, 1]))), (0), (3), (⟨[], [], 0⟩), (⟨0, (dsc 0x2E 0 0 0 64 0 0 0 [0, 0, 0, 0, 0, 0, 1]), [], false⟩), by decide⟩,
   ⟨(5), ([]), by decide⟩,
   ⟨(6), ([]), by decide⟩,
   ⟨(7), ([]), by decide⟩,
   ⟨(9), ([]), by decide⟩,
   ⟨((jb 3 (dsc 0x40 0 65536 0 64 0 0 0 []))), (0), (3), (⟨[], [], 0⟩), (⟨0, (dsc 0x40 0 65536 0 64 0 0 0 []), [], false⟩), by decide⟩,
   ⟨((jb 3 (dsc 0x40 0 0 0 64 0 0 0 []))), (0), (3), (⟨[], [], 0⟩), (⟨0, (dsc 0x40 0 0 0 64 0 0 0 []), [], false⟩), by decide⟩⟩

/-- Every hypothesis of KeyChecks is met, clause by clause. -/
theorem wit_KeyChecks :
    (∃ (s : State) (fn : Nat) (d : Bytes), (specOk d = false ∨ specAlg s (specOf d) = false))
    ∧ (∃ (s : State) (fn : Nat) (d : Bytes), (specOk d = true) ∧ (specAlg s (specOf d) = true) ∧ (specPre s fn (specOf d) = false))
    ∧ (∃ (s : State) (fn : Nat) (d : Bytes), (specOk d = true) ∧ (specAlg s (specOf d) = true) ∧ (specPre s fn (specOf d) = true) ∧ (quotaOk s fn (dOpnd d 5 = 2) = false ∨ pinOk s fn (specPins s (specOf d)) = false))
    ∧ (∃ (s : State) (fn n : Nat) (d : Bytes), (specOk d = true) ∧ (specAlg s (specOf d) = true) ∧ (specPre s fn (specOf d) = true) ∧ (quotaOk s fn (dOpnd d 5 = 2) = true) ∧ (pinOk s fn (specPins s (specOf d)) = true) ∧ (freeFor s fn = some n))
    ∧ (∃ (s : State) (fn n : Nat) (d : Bytes) (m : Bytes), (getAssoc s (specOf d).assoc = none))
    ∧ (∃ (s : State) (fn n : Nat) (d : Bytes) (m : Bytes), (kcvOf (specOf d).alg m = (specOf d).kcv))
    ∧ (∃ (s : State) (fn n : Nat) (d : Bytes) (m : Bytes), (kcvOf (specOf d).alg m ≠ (specOf d).kcv))
    ∧ (∃ (s : State) (n : Nat), ((getSlot s n).state ≠ 0)) :=
  ⟨⟨(up), (0), ([]), by decide⟩,
   ⟨(up), (0), ((dsc 0x50 0 0 0 64 0 0 0 [5, 0, 0, 0, 0, 1, 0, 0])), by decide⟩,
   ⟨(up), (1), ((dsc 0x50 0 0 0 64 0 0 0 [5, 0, 0, 0, 0, 0, 0xFF, 0xFF])), by decide⟩,
   ⟨(up), (0), (3), ((dsc 0x50 0 0 0 64 0 0 0 [5, 0, 0, 0, 0, 0, 0xFF, 0xFF])), by decide⟩,
   ⟨(up), (0), (3), ((dsc 0x50 0 0 0 64 0 0 0 [5, 0, 0, 0, 0, 0, 0xFF, 0xFF])), (List.replicate 16 1), by decide⟩,
   ⟨(up), (0), (3), ((dsc 0x51 0 0 0 64 0 0 0 [5, 0, 3, 4, 0, 0, 0xFF, 0xFF, 222, 37, 24])), ([]), by decide +kernel⟩,
   ⟨(up), (0), (3), ((dsc 0x51 0 0 0 64 0 0 0 [5, 0, 3, 4, 0, 0, 0xFF, 0xFF, 0, 37, 24])), ([]), by decide +kernel⟩,
   ⟨(kv 0 0 up), (0), by decide⟩⟩

/-- Every hypothesis of KeyMaking is met, clause by clause. -/
theorem wit_KeyMaking :
    (∃ (s : State) (fn : Fin 16) (r : Fin 8) (io : CmdIo) (x : Staged) (n : Nat), (jobOf s fn r 0x50 = some x) ∧ (specOk x.desc = true) ∧ (dOpndN x.desc 8 3 = 0) ∧ ((newKeyCheck s fn x.desc).getRight? = some n) ∧ (engDown s aesLanes = false) ∧ (engDown s pkeEngs = false))
    ∧ (∃ (s : State) (fn : Fin 16) (r : Fin 8) (io : CmdIo) (x : Staged) (n : Nat), (jobOf s fn r 0x51 = some x) ∧ (specOk x.desc = true) ∧ (dLen x.desc = blobLen (algLen (specOf x.desc).alg)) ∧ ((newKeyCheck s fn x.desc).getRight? = some n) ∧ (engDown s aesLanes = false))
    ∧ (∃ (s : State) (fn : Fin 16) (r : Fin 8) (io : CmdIo) (x : Staged) (n : Nat), (jobOf s fn r 0x52 = some x) ∧ (dAuxLen x.desc ≤ 64) ∧ ((newKeyCheck s fn x.desc).getRight? = some n) ∧ (engDown s aesLanes = false) ∧ (engDown s [4] = false))
    ∧ (∃ (s : State) (fn : Fin 16) (r : Fin 8) (io : CmdIo) (x : Staged) (n : Nat) (h : Slot) (key : Bytes) (t : State), (jobOf s fn r 0x28 = some x) ∧ ((newKeyCheck s fn x.desc).getRight? = some n) ∧ (engDown s pkeEngs = false) ∧ (useKey s fn (dKey x.desc) 7 (fun a => a = 5 || a = 6) = .inr (h, key, t)) ∧ (dAuxLen x.desc = 65 ∨ dAuxLen x.desc = 97) ∧ (dAuxLen x.desc = 2 * coordLen h.alg + 1))
    ∧ (∃ (s : State) (fn : Fin 16) (r : Fin 8) (io : CmdIo) (x : Staged) (n : Nat), (jobOf s fn r 0x5D = some x) ∧ ((newKeyCheck s fn x.desc).getRight? = some n) ∧ (s.spi0.db.isOpen = true) ∧ (rngReady s.rng = true) ∧ (engDown s aesLanes = false))
    ∧ (∃ (s : State) (fn : Fin 16) (r : Fin 8) (io : CmdIo) (x : Staged), (jobOf s fn r 0x50 = some x) ∧ (specOk x.desc = true) ∧ (specAlg s (specOf x.desc) = true) ∧ (specPre s fn (specOf x.desc) = false) ∧ (dOpndN x.desc 8 3 = 0)) :=
  ⟨⟨(jb 3 (dsc 0x50 0 0 0 64 0 0 0 [5, 0, 0, 0, 0, 0, 0xFF, 0xFF])), (0), (3), (⟨[], [], 0⟩), (⟨0, (dsc 0x50 0 0 0 64 0 0 0 [5, 0, 0, 0, 0, 0, 0xFF, 0xFF]), [], false⟩), (3), by decide⟩,
   ⟨(kv 2 0 (jb 3 (dsc 0x51 0x1FFFF 24 0 64 0 0 0 [5, 0, 0, 0, 0, 0, 0xFF, 0xFF]))), (0), (3), (⟨[], [], 0⟩), (⟨0, (dsc 0x51 0x1FFFF 24 0 64 0 0 0 [5, 0, 0, 0, 0, 0, 0xFF, 0xFF]), [], false⟩), (3), by decide⟩,
   ⟨(kv 3 9 (jb 3 (dsc 0x52 0x1FFFF 0 0 64 0 0 0 [5, 0, 0, 0, 0, 0, 0xFF, 0xFF]))), (0), (3), (⟨[], [], 0⟩), (⟨0, (dsc 0x52 0x1FFFF 0 0 64 0 0 0 [5, 0, 0, 0, 0, 0, 0xFF, 0xFF]), [], false⟩), (3), by decide⟩,
   ⟨(kv 7 5 (jb 3 (dsc 0x28 0x1FFFF 0 0 64 0 65 0 [5, 0, 0, 0, 0, 0, 0xFF, 0xFF]))), (0), (3), (⟨[], [], 0⟩), (⟨0, (dsc 0x28 0x1FFFF 0 0 64 0 65 0 [5, 0, 0, 0, 0, 0, 0xFF, 0xFF]), [], false⟩), (3), ({ usage := 7, alg := 5, state := 1, assoc := 1 }), (List.replicate 32 1), (kv 7 5 (jb 3 (dsc 0x28 0x1FFFF 0 0 64 0 65 0 [5, 0, 0, 0, 0, 0, 0xFF, 0xFF]))), by decide⟩,
   ⟨(((jb 3 (dsc 0x5D 0 0 0 64 0 0 0 [5, 0, 0, 0, 0, 0, 0xFF, 0xFF])).setSpi0 { (jb 3 (dsc 0x5D 0 0 0 64 0 0 0 [5, 0, 0, 0, 0, 0, 0xFF, 0xFF])).spi0 with db := { (jb 3 (dsc 0x5D 0 0 0 64 0 0 0 [5, 0, 0, 0, 0, 0, 0xFF, 0xFF])).spi0.db with isOpen := true } }).setRng { inst := true }), (0), (3), (⟨[], [], 0⟩), (⟨0, (dsc 0x5D 0 0 0 64 0 0 0 [5, 0, 0, 0, 0, 0, 0xFF, 0xFF]), [], false⟩), (3), by decide⟩,
   ⟨((jb 3 (dsc 0x50 0 0 0 64 0 0 0 [5, 0, 0, 0, 0, 1, 0, 0]))), (0), (3), (⟨[], [], 0⟩), (⟨0, (dsc 0x50 0 0 0 64 0 0 0 [5, 0, 0, 0, 0, 1, 0, 0]), [], false⟩), by decide⟩⟩

/-- Every hypothesis of KeyCare is met, clause by clause. -/
theorem wit_KeyCare :
    (∃ (s : State) (fn : Fin 16) (r : Fin 8) (io : CmdIo) (x : Staged) (a : Nat) (y : Assoc), (jobOf s fn r 0x53 = some x) ∧ (dOpndN x.desc 0 2 = a) ∧ (a < 4096) ∧ (getAssoc s a = some y) ∧ (y.owner = fn) ∧ ((assocSlots s a).filter (fun p => dOpndN x.desc 6 2 = 0xFFFF || p.2.sn = dOpndN x.desc 6 2) ≠ []))
    ∧ (∃ (s : State) (fn : Fin 16) (r : Fin 8) (io : CmdIo) (x : Staged) (a : Nat) (y : Assoc), (jobOf s fn r 0x53 = some x) ∧ (dOpndN x.desc 0 2 = a) ∧ (a < 4096) ∧ (getAssoc s a = some y) ∧ (y.owner = fn) ∧ ((assocSlots s a).filter (fun p => dOpndN x.desc 6 2 = 0xFFFF || p.2.sn = dOpndN x.desc 6 2) = []))
    ∧ (∃ (s : State) (fn : Fin 16) (r : Fin 8) (io : CmdIo) (x : Staged) (a : Nat) (y : Assoc), (jobOf s fn r 0x54 = some x) ∧ (dOpndN x.desc 0 2 = a) ∧ (a < 4096) ∧ (getAssoc s a = some y) ∧ (y.owner = fn) ∧ (dOpnd x.desc 4 = 0 ∨ dOpnd x.desc 4 = 2))
    ∧ (∃ (s : State) (fn : Fin 16) (r : Fin 8) (io : CmdIo) (x : Staged) (a : Nat) (y : Assoc) (o : KeyOp), (jobOf s fn r 0x55 = some x) ∧ (dOpndN x.desc 0 2 = a) ∧ (a < 4096) ∧ (getAssoc s a = some y) ∧ (y.owner = fn) ∧ (s.vlt.keyOps.find? (fun o => o.assoc = a && !o.armed && (getSlot s o.slot).sn = dOpndN x.desc 6 2) = some o) ∧ (o.deadline.any (fun t => tickReached t s.glb.tick) = false) ∧ (o.kcv = leBytes 3 (dOpndN x.desc 8 3)))
    ∧ (∃ (s : State) (fn : Fin 16) (r : Fin 8) (io : CmdIo) (x : Staged) (a : Nat) (y : Assoc) (o : KeyOp), (jobOf s fn r 0x55 = some x) ∧ (dOpndN x.desc 0 2 = a) ∧ (a < 4096) ∧ (getAssoc s a = some y) ∧ (y.owner = fn) ∧ (s.vlt.keyOps.find? (fun o => o.assoc = a && !o.armed && (getSlot s o.slot).sn = dOpndN x.desc 6 2) = some o) ∧ (o.deadline.any (fun t => tickReached t s.glb.tick) = false) ∧ (o.kcv ≠ leBytes 3 (dOpndN x.desc 8 3)))
    ∧ (∃ (s : State) (fn : Fin 16) (r : Fin 8) (io : CmdIo) (x : Staged) (a : Nat) (y : Assoc), (jobOf s fn r 0x57 = some x) ∧ (dOpndN x.desc 0 2 = a) ∧ (a < 4096) ∧ (getAssoc s a = some y) ∧ (y.owner = fn) ∧ (liveSlots s a ≠ []) ∧ (pinOk s fn (pinsMore s a (liveSlots s a)) = true) ∧ (((liveSlots s a).foldl pinSlot (s, 0)).2 ≠ 0))
    ∧ (∃ (s : State) (fn : Fin 16) (r : Fin 8) (io : CmdIo) (x : Staged) (a : Nat) (y : Assoc), (jobOf s fn r 0x57 = some x) ∧ (dOpndN x.desc 0 2 = a) ∧ (a < 4096) ∧ (getAssoc s a = some y) ∧ (y.owner = fn) ∧ (liveSlots s a ≠ []) ∧ (pinOk s fn (pinsMore s a (liveSlots s a)) = false))
    ∧ (∃ (s : State) (fn : Fin 16) (r : Fin 8) (io : CmdIo) (x : Staged) (a : Nat) (y : Assoc), (jobOf s fn r 0x58 = some x) ∧ (dOpndN x.desc 0 2 = a) ∧ (a < 4096) ∧ (getAssoc s a = some y) ∧ (y.owner = fn))
    ∧ (∃ (s : State) (fn : Fin 16) (r : Fin 8) (io : CmdIo) (x : Staged) (a : Nat) (y : Assoc), (jobOf s fn r 0x5B = some x) ∧ (dOpndN x.desc 0 2 = a) ∧ (a < 4096) ∧ (getAssoc s a = some y) ∧ (y.owner = fn))
    ∧ (∃ (s : State) (fn : Nat) (d : Bytes) (f : Nat → Assoc → Ans), (dOpndN d 0 2 < 4096) ∧ (getAssoc s (dOpndN d 0 2) = none))
    ∧ (∃ (s : State) (fn : Nat) (d : Bytes) (f : Nat → Assoc → Ans) (y : Assoc), (dOpndN d 0 2 < 4096) ∧ (getAssoc s (dOpndN d 0 2) = some y) ∧ (y.owner ≠ fn))
    ∧ (∃ (s : State) (o : KeyOp), (o.kind ≠ 2 ∨ assocPinned s o.assoc = false)) :=
  ⟨⟨(aw 0 (dsc 0x53 0 0 0 64 0 0 0 [1, 0, 0, 0, 0, 0, 0xFF, 0xFF])), (0), (3), (⟨[], [], 0⟩), (⟨0, (dsc 0x53 0 0 0 64 0 0 0 [1, 0, 0, 0, 0, 0, 0xFF, 0xFF]), [], false⟩), (1), (⟨0, 0, 0, false⟩), by decide⟩,
   ⟨(aw 0 (dsc 0x53 0 0 0 64 0 0 0 [1, 0, 0, 0, 0, 0, 7, 0])), (0), (3), (⟨[], [], 0⟩), (⟨0, (dsc 0x53 0 0 0 64 0 0 0 [1, 0, 0, 0, 0, 0, 7, 0]), [], false⟩), (1), (⟨0, 0, 0, false⟩), by decide⟩,
   ⟨(aw 0 (dsc 0x54 0 0 0 64 0 0 0 [1, 0, 0, 0, 2])), (0), (3), (⟨[], [], 0⟩), (⟨0, (dsc 0x54 0 0 0 64 0 0 0 [1, 0, 0, 0, 2]), [], false⟩), (1), (⟨0, 0, 0, false⟩), by decide⟩,
   ⟨((aw 0 (dsc 0x55 0 0 0 64 0 0 0 [1, 0, 0, 0, 0, 0, 0, 0, 1])).setVlt { (aw 0 []).vlt with keyOps := [{ slot := 5, assoc := 1, kind := 0, old := none, armed := false, kcv := [1, 0, 0], deadline := some 4000, pinned := false }] }), (0), (3), (⟨[], [], 0⟩), (⟨0, (dsc 0x55 0 0 0 64 0 0 0 [1, 0, 0, 0, 0, 0, 0, 0, 1]), [], false⟩), (1), (⟨0, 0, 0, false⟩), ({ slot := 5, assoc := 1, kind := 0, old := none, armed := false, kcv := [1, 0, 0], deadline := some 4000, pinned := false }), by decide⟩,
   ⟨((aw 0 (dsc 0x55 0 0 0 64 0 0 0 [1, 0, 0, 0, 0, 0, 0, 0, 2])).setVlt { (aw 0 []).vlt with keyOps := [{ slot := 5, assoc := 1, kind := 0, old := none, armed := false, kcv := [1, 0, 0], deadline := some 4000, pinned := false }] }), (0), (3), (⟨[], [], 0⟩), (⟨0, (dsc 0x55 0 0 0 64 0 0 0 [1, 0, 0, 0, 0, 0, 0, 0, 2]), [], false⟩), (1), (⟨0, 0, 0, false⟩), ({ slot := 5, assoc := 1, kind := 0, old := none, armed := false, kcv := [1, 0, 0], deadline := some 4000, pinned := false }), by decide⟩,
   ⟨(aw 0 (dsc 0x57 0 0 0 64 0 0 0 [1, 0, 0, 0, 0, 0, 0xFF, 0xFF])), (0), (3), (⟨[], [], 0⟩), (⟨0, (dsc 0x57 0 0 0 64 0 0 0 [1, 0, 0, 0, 0, 0, 0xFF, 0xFF]), [], false⟩), (1), (⟨0, 0, 0, false⟩), by decide⟩,
   ⟨(((aw 0 (dsc 0x57 0 0 0 64 0 0 0 [1, 0, 0, 0, 0, 0, 0xFF, 0xFF])).setVlt { (aw 0 []).vlt with pincap := [], cache := [] })), (0), (3), (⟨[], [], 0⟩), (⟨0, (dsc 0x57 0 0 0 64 0 0 0 [1, 0, 0, 0, 0, 0, 0xFF, 0xFF]), [], false⟩), (1), (⟨0, 0, 0, false⟩), by decide⟩,
   ⟨(aw 0 (dsc 0x58 0 0 0 64 0 0 0 [1, 0, 0, 0, 0, 0, 0xFF, 0xFF])), (0), (3), (⟨[], [], 0⟩), (⟨0, (dsc 0x58 0 0 0 64 0 0 0 [1, 0, 0, 0, 0, 0, 0xFF, 0xFF]), [], false⟩), (1), (⟨0, 0, 0, false⟩), by decide⟩,
   ⟨(aw 0 (dsc 0x5B 0 0 0 64 0 0 0 [1, 0, 0, 0, 0, 0, 0xFF, 0xFF])), (0), (3), (⟨[], [], 0⟩), (⟨0, (dsc 0x5B 0 0 0 64 0 0 0 [1, 0, 0, 0, 0, 0, 0xFF, 0xFF]), [], false⟩), (1), (⟨0, 0, 0, false⟩), by decide⟩,
   ⟨(up), (0), ([]), (fun _ _ => .stop up 0), by decide⟩,
   ⟨(aw 0 []), (1), ((dsc 0x53 0 0 0 64 0 0 0 [1, 0, 0, 0, 0, 0, 0xFF, 0xFF])), (fun _ _ => .stop up 0), (⟨0, 0, 0, false⟩), by decide⟩,
   ⟨(up), ({ slot := 5, assoc := 1, kind := 0, old := none, armed := false, kcv := [1, 0, 0], deadline := some 4000, pinned := false }), by decide⟩⟩

/-- Every hypothesis of SeasonCommands is met, clause by clause. -/
theorem wit_SeasonCommands :
    (∃ (s : State) (fn : Fin 16) (r : Fin 8) (io : CmdIo) (x : Staged) (a : Nat) (y : Assoc), (jobOf s fn r 0x59 = some x) ∧ (dOpndN x.desc 0 2 = a) ∧ (a < 4096) ∧ (getAssoc s a = some y) ∧ (y.owner = fn) ∧ (nextKey s a = none ∨ (seasonOf s a).isSome = true))
    ∧ (∃ (s : State) (fn : Fin 16) (r : Fin 8) (io : CmdIo) (x : Staged) (a : Nat) (y : Assoc), (jobOf s fn r 0x59 = some x) ∧ (dOpndN x.desc 0 2 = a) ∧ (a < 4096) ∧ (getAssoc s a = some y) ∧ (y.owner = fn) ∧ ((nextKey s a).any (fun p => p.2.1.sn = dOpndN x.desc 6 2) = true) ∧ (seasonOf s a = none) ∧ (tickFuture (wordOf (dOpndN x.desc 12 4)) s.glb.tick = false ∨ tickFuture (wordOf (dOpndN x.desc 12 4) - wordOf (dOpndN x.desc 16 2)) s.glb.tick = false))
    ∧ (∃ (s : State) (fn : Fin 16) (r : Fin 8) (io : CmdIo) (x : Staged) (a : Nat) (y : Assoc), (jobOf s fn r 0x59 = some x) ∧ (dOpndN x.desc 0 2 = a) ∧ (a < 4096) ∧ (getAssoc s a = some y) ∧ (y.owner = fn) ∧ ((nextKey s a).any (fun p => p.2.1.sn = dOpndN x.desc 6 2) = true) ∧ (seasonOf s a = none) ∧ (tickFuture (wordOf (dOpndN x.desc 12 4)) s.glb.tick = true) ∧ (tickFuture (wordOf (dOpndN x.desc 12 4) - wordOf (dOpndN x.desc 16 2)) s.glb.tick = true) ∧ (y.mirror = false))
    ∧ (∃ (s : State) (fn : Fin 16) (r : Fin 8) (io : CmdIo) (x : Staged) (a : Nat) (y : Assoc), (jobOf s fn r 0x59 = some x) ∧ (dOpndN x.desc 0 2 = a) ∧ (a < 4096) ∧ (getAssoc s a = some y) ∧ (y.owner = fn) ∧ ((nextKey s a).any (fun p => p.2.1.sn = dOpndN x.desc 6 2) = true) ∧ (seasonOf s a = none) ∧ (tickFuture (wordOf (dOpndN x.desc 12 4)) s.glb.tick = true) ∧ (tickFuture (wordOf (dOpndN x.desc 12 4) - wordOf (dOpndN x.desc 16 2)) s.glb.tick = true) ∧ (y.mirror = true))
    ∧ (∃ (s : State) (fn : Fin 16) (r : Fin 8) (io : CmdIo) (x : Staged) (a : Nat) (y : Assoc) (z : Season), (jobOf s fn r 0x5A = some x) ∧ (dOpndN x.desc 0 2 = a) ∧ (a < 4096) ∧ (getAssoc s a = some y) ∧ (y.owner = fn) ∧ (seasonOf s a = some z) ∧ (z.opened = false) ∧ (z.rolled = false) ∧ (tickReached (seasonOpenAt z) s.glb.tick = false) ∧ (y.mirror = false))
    ∧ (∃ (s : State) (fn : Fin 16) (r : Fin 8) (io : CmdIo) (x : Staged) (a : Nat) (y : Assoc) (z : Season), (jobOf s fn r 0x5A = some x) ∧ (dOpndN x.desc 0 2 = a) ∧ (a < 4096) ∧ (getAssoc s a = some y) ∧ (y.owner = fn) ∧ (seasonOf s a = some z) ∧ (z.opened = false) ∧ (z.rolled = false) ∧ (tickReached (seasonOpenAt z) s.glb.tick = false) ∧ (y.mirror = true))
    ∧ (∃ (s : State) (fn : Fin 16) (r : Fin 8) (io : CmdIo) (x : Staged) (a : Nat) (y : Assoc), (jobOf s fn r 0x5A = some x) ∧ (dOpndN x.desc 0 2 = a) ∧ (a < 4096) ∧ (getAssoc s a = some y) ∧ (y.owner = fn) ∧ ((seasonOf s a).any (fun z => !(z.opened || z.rolled || tickReached (seasonOpenAt z) s.glb.tick)) = false))
    ∧ (∃ (s : State) (p : Proposal) (typ : Nat) (pay : Bytes), (mirrorUp s = false ∨ (getPeer s 1 (twinNode s)).lost = true ∨ s.can1.alone = true))
    ∧ (∃ (s : State) (p : Proposal) (typ : Nat) (pay : Bytes), ((getPeer s 1 (twinNode s)).isOpen = true)) :=
  ⟨⟨(aw 0 (dsc 0x59 0 0 0 64 0 0 0 [1, 0, 0, 0, 0, 0, 0xFF, 0xFF])), (0), (3), (⟨[], [], 0⟩), (⟨0, (dsc 0x59 0 0 0 64 0 0 0 [1, 0, 0, 0, 0, 0, 0xFF, 0xFF]), [], false⟩), (1), (⟨0, 0, 0, false⟩), by decide⟩,
   ⟨((aw 0 (dsc 0x59 0 0 0 64 0 0 0 [1, 0, 0, 0, 0, 0, 1, 0, 0, 0, 0, 0, 100])).setVlt { (aw 0 []).vlt with slots := [(0, { state := 1, assoc := 1 }), (1, { state := 1, assoc := 1, role := 1, sn := 1 })] }), (0), (3), (⟨[], [], 0⟩), (⟨0, (dsc 0x59 0 0 0 64 0 0 0 [1, 0, 0, 0, 0, 0, 1, 0, 0, 0, 0, 0, 100]), [], false⟩), (1), (⟨0, 0, 0, false⟩), by decide⟩,
   ⟨((aw 0 (dsc 0x59 0 0 0 64 0 0 0 [1, 0, 0, 0, 0, 0, 1, 0, 0, 0, 0, 0, 200, 0, 0, 0, 10])).setVlt { (aw 0 []).vlt with slots := [(0, { state := 1, assoc := 1 }), (1, { state := 1, assoc := 1, role := 1, sn := 1 })] }), (0), (3), (⟨[], [], 0⟩), (⟨0, (dsc 0x59 0 0 0 64 0 0 0 [1, 0, 0, 0, 0, 0, 1, 0, 0, 0, 0, 0, 200, 0, 0, 0, 10]), [], false⟩), (1), (⟨0, 0, 0, false⟩), by decide⟩,
   ⟨((aw 0 (dsc 0x59 0 0 0 64 0 0 0 [1, 0, 0, 0, 0, 0, 1, 0, 0, 0, 0, 0, 200, 0, 0, 0, 10])).setVlt { (aw 0 []).vlt with assocs := [(1, some ⟨0, 0, 0, true⟩)], slots := [(0, { state := 1, assoc := 1 }), (1, { state := 1, assoc := 1, role := 1, sn := 1 })] }), (0), (3), (⟨[], [], 0⟩), (⟨0, (dsc 0x59 0 0 0 64 0 0 0 [1, 0, 0, 0, 0, 0, 1, 0, 0, 0, 0, 0, 200, 0, 0, 0, 10]), [], false⟩), (1), (⟨0, 0, 0, true⟩), by decide⟩,
   ⟨((aw 0 (dsc 0x5A 0 0 0 64 0 0 0 [1, 0, 0, 0, 0, 0, 0xFF, 0xFF])).setVlt { (aw 0 []).vlt with seasons := [{ assoc := 1, x := 200, ovlen := 10 }] }), (0), (3), (⟨[], [], 0⟩), (⟨0, (dsc 0x5A 0 0 0 64 0 0 0 [1, 0, 0, 0, 0, 0, 0xFF, 0xFF]), [], false⟩), (1), (⟨0, 0, 0, false⟩), ({ assoc := 1, x := 200, ovlen := 10 }), by decide⟩,
   ⟨((aw 0 (dsc 0x5A 0 0 0 64 0 0 0 [1, 0, 0, 0, 0, 0, 0xFF, 0xFF])).setVlt { (aw 0 []).vlt with assocs := [(1, some ⟨0, 0, 0, true⟩)], seasons := [{ assoc := 1, x := 200, ovlen := 10 }] }), (0), (3), (⟨[], [], 0⟩), (⟨0, (dsc 0x5A 0 0 0 64 0 0 0 [1, 0, 0, 0, 0, 0, 0xFF, 0xFF]), [], false⟩), (1), (⟨0, 0, 0, true⟩), ({ assoc := 1, x := 200, ovlen := 10 }), by decide⟩,
   ⟨(aw 0 (dsc 0x5A 0 0 0 64 0 0 0 [1, 0, 0, 0, 0, 0, 0xFF, 0xFF])), (0), (3), (⟨[], [], 0⟩), (⟨0, (dsc 0x5A 0 0 0 64 0 0 0 [1, 0, 0, 0, 0, 0, 0xFF, 0xFF]), [], false⟩), (1), (⟨0, 0, 0, false⟩), by decide⟩,
   ⟨(up), ({ assoc := 1, sn := 1 }), (0x21), ([]), by decide⟩,
   ⟨(up.setVoe { up.voe with peers := [(peerKey 1 (twinNode up), { isOpen := true })] }), ({ assoc := 1, sn := 1 }), (0x21), ([]), by decide⟩⟩

/-- Every hypothesis of DatabaseCommands is met, clause by clause. -/
theorem wit_DatabaseCommands :
    (∃ (s : State) (fn : Fin 16) (r : Fin 8) (io : CmdIo) (x : Staged) (h : Slot) (key : Bytes) (t : State), (jobOf s fn r 0x5C = some x) ∧ (dOpnd x.desc 2 ≤ 11) ∧ (dOpnd x.desc 3 ≤ 7) ∧ (algUsage (dOpnd x.desc 2) (dOpnd x.desc 3) = true) ∧ (dOpnd x.desc 4 ≤ 1) ∧ (dLen x.desc = blobLen (algLen (dOpnd x.desc 2))) ∧ (s.spi0.db.isOpen = true) ∧ (dbEntry s (dOpndN x.desc 12 2) = none) ∧ (engDown s aesLanes = false) ∧ (useKey s fn (dKey x.desc) 2 algAes = .inr (h, key, t)))
    ∧ (∃ (s : State) (fn : Fin 16) (r : Fin 8) (io : CmdIo) (x : Staged), (jobOf s fn r 0x5C = some x) ∧ (dOpnd x.desc 2 ≤ 11) ∧ (dOpnd x.desc 3 ≤ 7) ∧ (algUsage (dOpnd x.desc 2) (dOpnd x.desc 3) = true) ∧ (dOpnd x.desc 4 ≤ 1) ∧ (dLen x.desc = blobLen (algLen (dOpnd x.desc 2))) ∧ (s.spi0.db.isOpen = false ∨ (dbEntry s (dOpndN x.desc 12 2)).isSome = true))
    ∧ (∃ (s : State) (fn : Fin 16) (r : Fin 8) (io : CmdIo) (x : Staged), (jobOf s fn r 0x5E = some x) ∧ (s.spi0.db.isOpen = true))
    ∧ (∃ (s : State) (fn : Fin 16) (r : Fin 8) (io : CmdIo) (x : Staged), (jobOf s fn r 0x5E = some x) ∧ (s.spi0.db.isOpen = false))
    ∧ (∃ (s : State) (fn : Fin 16) (r : Fin 8) (io : CmdIo) (x : Staged), (jobOf s fn r 0x5F = some x)) :=
  ⟨⟨((kv 2 0 (jb 3 (dsc 0x5C 0x1FFFF 24 0 64 0 0 0 []))).setSpi0 { (kv 2 0 (jb 3 (dsc 0x5C 0x1FFFF 24 0 64 0 0 0 []))).spi0 with db := { (kv 2 0 (jb 3 (dsc 0x5C 0x1FFFF 24 0 64 0 0 0 []))).spi0.db with isOpen := true } }), (0), (3), (⟨[], [], 0⟩), (⟨0, (dsc 0x5C 0x1FFFF 24 0 64 0 0 0 []), [], false⟩), ({ usage := 2, alg := 0, state := 1, assoc := 1 }), (List.replicate 32 1), ((kv 2 0 (jb 3 (dsc 0x5C 0x1FFFF 24 0 64 0 0 0 []))).setSpi0 { (kv 2 0 (jb 3 (dsc 0x5C 0x1FFFF 24 0 64 0 0 0 []))).spi0 with db := { (kv 2 0 (jb 3 (dsc 0x5C 0x1FFFF 24 0 64 0 0 0 []))).spi0.db with isOpen := true } }), by decide⟩,
   ⟨((jb 3 (dsc 0x5C 0 24 0 64 0 0 0 []))), (0), (3), (⟨[], [], 0⟩), (⟨0, (dsc 0x5C 0 24 0 64 0 0 0 []), [], false⟩), by decide⟩,
   ⟨(((jb 3 (dsc 0x5E 0 0 0 64 0 0 0 []))).setSpi0 { up.spi0 with db := { up.spi0.db with isOpen := true } }), (0), (3), (⟨[], [], 0⟩), (⟨0, (dsc 0x5E 0 0 0 64 0 0 0 []), [], false⟩), by decide⟩,
   ⟨((jb 3 (dsc 0x5E 0 0 0 64 0 0 0 []))), (0), (3), (⟨[], [], 0⟩), (⟨0, (dsc 0x5E 0 0 0 64 0 0 0 []), [], false⟩), by decide⟩,
   ⟨((jb 3 (dsc 0x5F 0 0 0 64 0 0 0 []))), (0), (3), (⟨[], [], 0⟩), (⟨0, (dsc 0x5F 0 0 0 64 0 0 0 []), [], false⟩), by decide⟩⟩

/-- Every hypothesis of CustodyAndOwnerCommands is met, clause by clause. -/
theorem wit_CustodyAndOwnerCommands :
    (∃ (s : State) (fn : Fin 16) (r : Fin 8) (io : CmdIo) (x : Staged), (jobOf s fn r 0x70 = some x) ∧ (dAuxLen x.desc = 64) ∧ (1 ≤ dOpnd x.desc 0) ∧ (dOpnd x.desc 0 ≤ 0x0D))
    ∧ (∃ (s : State) (fn : Fin 16) (r : Fin 8) (io : CmdIo) (x : Staged), (jobOf s fn r 0x70 = some x) ∧ (dAuxLen x.desc ≠ 64 ∨ dOpnd x.desc 0 = 0 ∨ 0x0D < dOpnd x.desc 0))
    ∧ (∃ (s : State), (custOpAllowed (custCancelAll s 4 0xA) (reqOp (custCancelAll s 4 0xA)) = false))
    ∧ (∃ (s : State) (fn : Fin 16) (r : Fin 8) (io : CmdIo) (x : Staged), (jobOf s fn r 0x71 = some x))
    ∧ (∃ (s : State) (fn : Fin 16) (r : Fin 8) (io : CmdIo) (x : Staged), (jobOf s fn r 0x72 = some x))
    ∧ (∃ (s : State), (s.cus.latch.isSet = true))
    ∧ (∃ (s : State) (fn : Fin 16) (r : Fin 8) (io : CmdIo) (x : Staged), (jobOf s fn r 0x73 = some x) ∧ (latchFor s 0x01 = true) ∧ (1 ≤ dOpnd x.desc 0) ∧ (dOpnd x.desc 0 ≤ 15) ∧ (paramB s 0 = dOpnd x.desc 0) ∧ (ownerExists s (dOpnd x.desc 0) = false) ∧ (s.vlt.epochs.getD (dOpnd x.desc 0) 0 ≠ 0xFFFFFFFF))
    ∧ (∃ (s : State) (fn : Fin 16) (r : Fin 8) (io : CmdIo) (x : Staged), (jobOf s fn r 0x73 = some x) ∧ (latchFor s 0x01 = true) ∧ (1 ≤ dOpnd x.desc 0) ∧ (dOpnd x.desc 0 ≤ 15) ∧ (paramB s 0 = dOpnd x.desc 0) ∧ (ownerExists s (dOpnd x.desc 0) = true))
    ∧ (∃ (s : State) (fn : Fin 16) (r : Fin 8) (io : CmdIo) (x : Staged), (jobOf s fn r 0x74 = some x) ∧ (latchFor s 0x02 = true) ∧ (1 ≤ dOpnd x.desc 0) ∧ (dOpnd x.desc 0 ≤ 15) ∧ (paramB s 0 = dOpnd x.desc 0) ∧ (ownerExists s (dOpnd x.desc 0) = true))
    ∧ (∃ (s : State) (fn : Fin 16) (r : Fin 8) (io : CmdIo) (x : Staged), (jobOf s fn r 0x75 = some x) ∧ (latchFor s 0x03 = true) ∧ (dOpnd x.desc 1 = 0) ∧ (dOpndN x.desc 4 2 = 0) ∧ (dAuxLen x.desc = 97) ∧ (paramB s 1 = 0) ∧ (leAt (reqParam s) 4 4 = (dKey x.desc).toNat))
    ∧ (∃ (s : State) (fn : Fin 16) (r : Fin 8) (io : CmdIo) (x : Staged) (n : Nat), (jobOf s fn r 0x76 = some x) ∧ (latchFor s 0x04 = true) ∧ (specOk x.desc = true) ∧ (0x81 ≤ dLen x.desc) ∧ (leAt (reqParam s) 4 4 = (dKey x.desc).toNat) ∧ (byteAt (inOf x.desc io) 4 = paramB s 0) ∧ ((newKeyCheck s (paramB s 0) x.desc).getRight? = some n))
    ∧ (∃ (s : State) (op : Nat) (same : Bool) (f : Ans), (latchFor s op = false ∨ same = false))
    ∧ (∃ (s : State) (d : Bytes) (n : Nat) (y : Slot), (dOpnd d 1 = 0) ∧ (resolve s (dKey d) = some (n, y)) ∧ (y.owner = paramB s 0) ∧ (servesNow s y true = true))
    ∧ (∃ (s : State) (d : Bytes), (dOpnd d 1 = 0) ∧ (resolve s (dKey d) = none)) :=
  ⟨⟨((jb 3 (dsc 0x70 0 0 0 64 0 64 0 [5]))), (0), (3), (⟨[], [], 0⟩), (⟨0, (dsc 0x70 0 0 0 64 0 64 0 [5]), [], false⟩), by decide⟩,
   ⟨((jb 3 (dsc 0x70 0 0 0 64 0 0 0 []))), (0), (3), (⟨[], [], 0⟩), (⟨0, (dsc 0x70 0 0 0 64 0 0 0 []), [], false⟩), by decide⟩,
   ⟨(up), by decide⟩,
   ⟨((jb 3 (dsc 0x71 0 0 0 64 0 0 0 []))), (0), (3), (⟨[], [], 0⟩), (⟨0, (dsc 0x71 0 0 0 64 0 0 0 []), [], false⟩), by decide⟩,
   ⟨((jb 3 (dsc 0x72 0 0 0 64 0 0 0 []))), (0), (3), (⟨[], [], 0⟩), (⟨0, (dsc 0x72 0 0 0 64 0 0 0 []), [], false⟩), by decide⟩,
   ⟨(lt 5 [] []), by decide⟩,
   ⟨((lt 1 [4] (dsc 0x73 0 0 0 64 0 0 0 [4]))), (0), (3), (⟨[], [], 0⟩), (⟨0, (dsc 0x73 0 0 0 64 0 0 0 [4]), [], false⟩), by decide⟩,
   ⟨(((lt 1 [4] (dsc 0x73 0 0 0 64 0 0 0 [4]))).setVlt { up.vlt with exist := 16 }), (0), (3), (⟨[], [], 0⟩), (⟨0, (dsc 0x73 0 0 0 64 0 0 0 [4]), [], false⟩), by decide⟩,
   ⟨(((lt 2 [4] (dsc 0x74 0 0 0 64 0 0 0 [4]))).setVlt { up.vlt with exist := 16 }), (0), (3), (⟨[], [], 0⟩), (⟨0, (dsc 0x74 0 0 0 64 0 0 0 [4]), [], false⟩), by decide⟩,
   ⟨((lt 3 [0, 0, 0, 0, 0xFF, 0xFF, 1, 0] (dsc 0x75 0x1FFFF 0 0 64 0 97 0 []))), (0), (3), (⟨[], [], 0⟩), (⟨0, (dsc 0x75 0x1FFFF 0 0 64 0 97 0 []), [], false⟩), by decide⟩,
   ⟨((lt 4 [0, 0, 0, 0, 0xFF, 0xFF, 1, 0] (dsc 0x76 0x1FFFF 129 0 64 0 0 0 [5, 0, 0, 0, 0, 0, 0xFF, 0xFF]))), (0), (3), (⟨[], [], 0⟩), (⟨0, (dsc 0x76 0x1FFFF 129 0 64 0 0 0 [5, 0, 0, 0, 0, 0, 0xFF, 0xFF]), [], false⟩), (3), by decide⟩,
   ⟨(up), (1), (true), (.stop up 0), by decide⟩,
   ⟨(kv 0 0 up), ((dsc 0x75 0x1FFFF 0 0 64 0 97 0 [])), (0), ({ usage := 0, alg := 0, state := 1, assoc := 1 }), by decide⟩,
   ⟨(up), ((dsc 0x75 0x1FFFF 0 0 64 0 97 0 [])), by decide⟩⟩

/-- Every hypothesis of CustodyActions is met, clause by clause. -/
theorem wit_CustodyActions :
    (∃ (s : State) (fn : Fin 16) (r : Fin 8) (io : CmdIo) (x : Staged), (jobOf s fn r 0x77 = some x) ∧ (latchFor s 0x05 = true))
    ∧ (∃ (s : State) (fn : Fin 16) (r : Fin 8) (io : CmdIo) (x : Staged), (jobOf s fn r 0x78 = some x) ∧ (latchFor s 0x06 = true) ∧ (dOpnd x.desc 0 = 1 ∨ dOpnd x.desc 0 = 2) ∧ (paramB s 0 = dOpnd x.desc 0) ∧ (s.fus.dbgdis = false) ∧ (s.mode.mode = .service) ∧ (annFree s = true))
    ∧ (∃ (s : State) (fn : Fin 16) (r : Fin 8) (io : CmdIo) (x : Staged), (jobOf s fn r 0x78 = some x) ∧ (latchFor s 0x06 = true) ∧ (dOpnd x.desc 0 = 1 ∨ dOpnd x.desc 0 = 2) ∧ (s.fus.dbgdis = true ∨ s.mode.mode ≠ .service ∨ annFree s = false))
    ∧ (∃ (s : State) (fn : Fin 16) (r : Fin 8) (io : CmdIo) (x : Staged), (jobOf s fn r 0x79 = some x) ∧ (latchFor s 0x07 = true) ∧ (dOpnd x.desc 0 ≤ 7) ∧ (paramB s 0 = dOpnd x.desc 0) ∧ (cusEnrolledBits s (dOpnd x.desc 0) = 0) ∧ ((List.range 8).any (fun k => cusEnrolledBits s k ≠ 0 && slotDigest s k = reqArg s) = false) ∧ (s.mode.vpp = .inRange) ∧ (rngReady s.rng = true))
    ∧ (∃ (s : State) (fn : Fin 16) (r : Fin 8) (io : CmdIo) (x : Staged), (jobOf s fn r 0x79 = some x) ∧ (latchFor s 0x07 = true) ∧ (dOpnd x.desc 0 ≤ 7) ∧ (enrolClash s (dOpnd x.desc 0) (reqArg s) = true))
    ∧ (∃ (s : State) (fn : Fin 16) (r : Fin 8) (io : CmdIo) (x : Staged), (jobOf s fn r 0x7A = some x) ∧ (latchFor s 0x08 = true) ∧ (dOpnd x.desc 0 ≤ 7) ∧ (paramB s 0 = dOpnd x.desc 0) ∧ (2 ≤ ((usableSlots s).filter (· ≠ dOpnd x.desc 0)).length) ∧ (s.mode.vpp = .inRange) ∧ (rngReady s.rng = true))
    ∧ (∃ (s : State) (fn : Fin 16) (r : Fin 8) (io : CmdIo) (x : Staged), (jobOf s fn r 0x7A = some x) ∧ (latchFor s 0x08 = true) ∧ (dOpnd x.desc 0 ≤ 7) ∧ (((usableSlots s).filter (· ≠ dOpnd x.desc 0)).length < 2))
    ∧ (∃ (s : State) (fn : Fin 16) (r : Fin 8) (io : CmdIo) (x : Staged), (jobOf s fn r 0x7C = some x) ∧ (latchFor s 0x0A = true) ∧ (dOpnd x.desc 2 ≤ 3) ∧ (leAt (reqParam s) 0 2 = dOpndN x.desc 0 2) ∧ (paramB s 2 = dOpnd x.desc 2))
    ∧ (∃ (s : State) (fn : Fin 16) (r : Fin 8) (io : CmdIo) (x : Staged), (jobOf s fn r 0x7D = some x) ∧ (latchFor s 0x0B = true) ∧ (s.mode.mode = .snuffed) ∧ (s.mode.rootlock = false) ∧ (s.cus.latch.form = true) ∧ (s.mode.vpp = .inRange))
    ∧ (∃ (s : State) (fn : Fin 16) (r : Fin 8) (io : CmdIo) (x : Staged), (jobOf s fn r 0x7D = some x) ∧ (latchFor s 0x0B = true) ∧ (s.mode.mode = .snuffed) ∧ (s.mode.rootlock = false) ∧ (s.cus.latch.form = true) ∧ (s.mode.vpp ≠ .inRange))
    ∧ (∃ (s : State) (fn : Fin 16) (r : Fin 8) (io : CmdIo) (x : Staged), (jobOf s fn r 0x7D = some x) ∧ (latchFor s 0x0B = true) ∧ (s.mode.mode = .snuffed) ∧ (s.mode.rootlock = false) ∧ (s.cus.latch.form = false))
    ∧ (∃ (s : State) (fn : Fin 16) (r : Fin 8) (io : CmdIo) (x : Staged), (jobOf s fn r 0x7E = some x) ∧ (latchFor s 0x0C = true) ∧ (s.mode.vpp = .inRange) ∧ (rngReady s.rng = true))
    ∧ (∃ (s : State) (fn : Fin 16) (r : Fin 8) (io : CmdIo) (x : Staged), (jobOf s fn r 0x7E = some x) ∧ (latchFor s 0x0C = true) ∧ (s.mode.vpp ≠ .inRange))
    ∧ (∃ (s : State) (a : Ans), (s.mode.vpp ≠ .inRange))
    ∧ (∃ (s : State) (a : Ans), (s.mode.vpp = .inRange) ∧ (rngReady s.rng = false))
    ∧ (∃ (s : State) (fn : Fin 16) (r : Fin 8) (io : CmdIo) (x : Staged), (jobOf s fn r 0x7F = some x) ∧ (latchFor s 0x0D = true) ∧ (s.fus.lc = .provisioned) ∧ (s.mode.mode = .service) ∧ (s.mode.vpp = .inRange)) :=
  ⟨⟨((lt 5 [] (dsc 0x77 0 0 0 64 0 0 0 []))), (0), (3), (⟨[], [], 0⟩), (⟨0, (dsc 0x77 0 0 0 64 0 0 0 []), [], false⟩), by decide⟩,
   ⟨((((lt 6 [2] (dsc 0x78 0 0 0 64 0 0 0 [2]))).setFus { up.fus with dbgdis := false })), (0), (3), (⟨[], [], 0⟩), (⟨0, (dsc 0x78 0 0 0 64 0 0 0 [2]), [], false⟩), by decide⟩,
   ⟨((((lt 6 [2] (dsc 0x78 0 0 0 64 0 0 0 [2]))).setFus { up.fus with dbgdis := true })), (0), (3), (⟨[], [], 0⟩), (⟨0, (dsc 0x78 0 0 0 64 0 0 0 [2]), [], false⟩), by decide⟩,
   ⟨((((lt 7 [3] (dsc 0x79 0 0 0 64 0 0 0 [3]))).setMode { up.mode with vpp := .inRange }).setRng { up.rng with inst := true }), (0), (3), (⟨[], [], 0⟩), (⟨0, (dsc 0x79 0 0 0 64 0 0 0 [3]), [], false⟩), by decide⟩,
   ⟨((lt 7 [3] (dsc 0x79 0 0 0 64 0 0 0 [3])).setFus { up.fus with cusCtl := [(3, 0xFF)] }), (0), (3), (⟨[], [], 0⟩), (⟨0, (dsc 0x79 0 0 0 64 0 0 0 [3]), [], false⟩), by decide⟩,
   ⟨(((((lt 8 [3] (dsc 0x7A 0 0 0 64 0 0 0 [3]))).setMode { up.mode with vpp := .inRange }).setFus { up.fus with cusCtl := [(0, 0xFF), (1, 0xFF), (2, 0xFF)] }).setRng { up.rng with inst := true }), (0), (3), (⟨[], [], 0⟩), (⟨0, (dsc 0x7A 0 0 0 64 0 0 0 [3]), [], false⟩), by decide⟩,
   ⟨((lt 8 [3] (dsc 0x7A 0 0 0 64 0 0 0 [3]))), (0), (3), (⟨[], [], 0⟩), (⟨0, (dsc 0x7A 0 0 0 64 0 0 0 [3]), [], false⟩), by decide⟩,
   ⟨((lt 10 [1, 0, 3] (dsc 0x7C 0 0 0 64 0 0 0 [1, 0, 3]))), (0), (3), (⟨[], [], 0⟩), (⟨0, (dsc 0x7C 0 0 0 64 0 0 0 [1, 0, 3]), [], false⟩), by decide⟩,
   ⟨(((((lt 11 [] (dsc 0x7D 0 0 0 64 0 0 0 []))).setMode { up.mode with vpp := .inRange, mode := .snuffed }).setFus { up.fus with lc := .provisioned }).setCus { (lt 11 [] []).cus with latch := { (lt 11 [] []).cus.latch with form := true } }), (0), (3), (⟨[], [], 0⟩), (⟨0, (dsc 0x7D 0 0 0 64 0 0 0 []), [], false⟩), by decide⟩,
   ⟨(((((lt 11 [] (dsc 0x7D 0 0 0 64 0 0 0 []))).setMode { up.mode with vpp := .absent, mode := .snuffed }).setFus { up.fus with lc := .provisioned }).setCus { (lt 11 [] []).cus with latch := { (lt 11 [] []).cus.latch with form := true } }), (0), (3), (⟨[], [], 0⟩), (⟨0, (dsc 0x7D 0 0 0 64 0 0 0 []), [], false⟩), by decide⟩,
   ⟨((((lt 11 [] (dsc 0x7D 0 0 0 64 0 0 0 []))).setMode { up.mode with mode := .snuffed }).setFus { up.fus with lc := .blank }), (0), (3), (⟨[], [], 0⟩), (⟨0, (dsc 0x7D 0 0 0 64 0 0 0 []), [], false⟩), by decide⟩,
   ⟨((((lt 12 [] (dsc 0x7E 0 0 0 64 0 0 0 []))).setMode { up.mode with vpp := .inRange }).setRng { up.rng with inst := true }), (0), (3), (⟨[], [], 0⟩), (⟨0, (dsc 0x7E 0 0 0 64 0 0 0 []), [], false⟩), by decide⟩,
   ⟨((((lt 12 [] (dsc 0x7E 0 0 0 64 0 0 0 []))).setMode { up.mode with vpp := .absent })), (0), (3), (⟨[], [], 0⟩), (⟨0, (dsc 0x7E 0 0 0 64 0 0 0 []), [], false⟩), by decide⟩,
   ⟨(up.setMode { up.mode with vpp := .absent }), (.stop up 0), by decide⟩,
   ⟨(up.setMode { up.mode with vpp := .inRange }), (.stop up 0), by decide⟩,
   ⟨((((lt 13 [] (dsc 0x7F 0 0 0 64 0 0 0 []))).setMode { up.mode with vpp := .inRange }).setFus { up.fus with lc := .provisioned }), (0), (3), (⟨[], [], 0⟩), (⟨0, (dsc 0x7F 0 0 0 64 0 0 0 []), [], false⟩), by decide⟩⟩

/-- Every hypothesis of UpdateCommands is met, clause by clause. -/
theorem wit_UpdateCommands :
    (∃ (s : State) (fn : Fin 16) (r : Fin 8) (io : CmdIo) (x : Staged), (jobOf s fn r 0x80 = some x) ∧ (dOpnd x.desc 0 ≤ 1) ∧ (145 ≤ dOpndN x.desc 4 4) ∧ (dOpndN x.desc 4 4 ≤ 0x100000) ∧ (s.upd.trial = false) ∧ (s.mode.mode = .service))
    ∧ (∃ (s : State) (fn : Fin 16) (r : Fin 8) (io : CmdIo) (x : Staged), (jobOf s fn r 0x80 = some x) ∧ (dOpnd x.desc 0 ≤ 1) ∧ (145 ≤ dOpndN x.desc 4 4) ∧ (dOpndN x.desc 4 4 ≤ 0x100000) ∧ (s.upd.trial = true ∨ s.mode.mode = .debug))
    ∧ (∃ (s : State) (fn : Fin 16) (r : Fin 8) (io : CmdIo) (x : Staged) (g : Staging), (jobOf s fn r 0x81 = some x) ∧ (0 < dLen x.desc) ∧ (dLen x.desc ≤ 65536) ∧ (s.upd.staging = some g) ∧ (dOpndN x.desc 4 4 ≤ g.got.length) ∧ (dOpndN x.desc 4 4 + dLen x.desc ≤ g.total) ∧ (g.got.length + dLen x.desc ≤ 0xC0))
    ∧ (∃ (s : State) (fn : Fin 16) (r : Fin 8) (io : CmdIo) (x : Staged) (g : Staging), (jobOf s fn r 0x81 = some x) ∧ (0 < dLen x.desc) ∧ (dLen x.desc ≤ 65536) ∧ (s.upd.staging = some g) ∧ (g.got.length < dOpndN x.desc 4 4))
    ∧ (∃ (s : State) (fn : Fin 16) (r : Fin 8) (io : CmdIo) (x : Staged) (g : Staging), (jobOf s fn r 0x82 = some x) ∧ (dOpnd x.desc 0 ≤ 1) ∧ (s.upd.staging = some g) ∧ (g.kind = dOpnd x.desc 0) ∧ (loaderDown s = false) ∧ (s.fus.lc ≠ .retired))
    ∧ (∃ (s : State) (fn : Fin 16) (r : Fin 8) (io : CmdIo) (x : Staged) (i : Img), (jobOf s fn r 0x83 = some x) ∧ (dOpnd x.desc 0 ≤ 1) ∧ (dOpnd x.desc 8 = 0) ∧ (s.mode.mode = .service) ∧ (s.upd.trial = false) ∧ (s.upd.pending = none) ∧ (s.upd.paused = false) ∧ (stagedOf s (dOpnd x.desc 0) = some i) ∧ (annFree s = true) ∧ (actLead s (wordOf (dOpndN x.desc 4 4)) = true) ∧ (stagePair s (dOpnd x.desc 0) i.hdr = 0))
    ∧ (∃ (s : State) (fn : Fin 16) (r : Fin 8) (io : CmdIo) (x : Staged), (jobOf s fn r 0x83 = some x) ∧ (dOpnd x.desc 0 ≤ 1) ∧ (dOpnd x.desc 8 = 0) ∧ (s.mode.mode = .service) ∧ (s.upd.trial = false) ∧ (s.upd.pending = none) ∧ (s.upd.paused = false) ∧ ((stagedOf s (dOpnd x.desc 0)).isSome = true) ∧ (annFree s = true) ∧ (actLead s (wordOf (dOpndN x.desc 4 4)) = false))
    ∧ (∃ (s : State) (fn : Fin 16) (r : Fin 8) (io : CmdIo) (x : Staged), (jobOf s fn r 0x85 = some x))
    ∧ (∃ (s : State) (fn : Fin 16) (r : Fin 8) (io : CmdIo) (x : Staged), (jobOf s fn r 0x86 = some x) ∧ (64 ≤ dLen x.desc) ∧ (dLen x.desc ≤ 65536)) :=
  ⟨⟨((jb 3 (dsc 0x80 0 0 0 64 0 0 0 [1, 0, 0, 0, 0, 16]))), (0), (3), (⟨[], [], 0⟩), (⟨0, (dsc 0x80 0 0 0 64 0 0 0 [1, 0, 0, 0, 0, 16]), [], false⟩), by decide⟩,
   ⟨((((jb 3 (dsc 0x80 0 0 0 64 0 0 0 [1, 0, 0, 0, 0, 16]))).setUpd { up.upd with trial := true })), (0), (3), (⟨[], [], 0⟩), (⟨0, (dsc 0x80 0 0 0 64 0 0 0 [1, 0, 0, 0, 0, 16]), [], false⟩), by decide⟩,
   ⟨((((jb 3 (dsc 0x81 0 100 0 64 0 0 0 []))).setUpd { up.upd with staging := some { kind := 1, total := 4096, got := [1, 2] } })), (0), (3), (⟨[], [], 0⟩), (⟨0, (dsc 0x81 0 100 0 64 0 0 0 []), [], false⟩), ({ kind := 1, total := 4096, got := [1, 2] }), by decide⟩,
   ⟨((((jb 3 (dsc 0x81 0 100 0 64 0 0 0 [0, 0, 0, 0, 9]))).setUpd { up.upd with staging := some { kind := 1, total := 4096, got := [1, 2] } })), (0), (3), (⟨[], [], 0⟩), (⟨0, (dsc 0x81 0 100 0 64 0 0 0 [0, 0, 0, 0, 9]), [], false⟩), ({ kind := 1, total := 4096, got := [1, 2] }), by decide⟩,
   ⟨((((jb 3 (dsc 0x82 0 0 0 64 0 0 0 [1]))).setUpd { up.upd with staging := some { kind := 1, total := 4096, got := [1, 2] } })), (0), (3), (⟨[], [], 0⟩), (⟨0, (dsc 0x82 0 0 0 64 0 0 0 [1]), [], false⟩), ({ kind := 1, total := 4096, got := [1, 2] }), by decide⟩,
   ⟨((((jb 3 (dsc 0x83 0 0 0 64 0 0 0 [1, 0, 0, 0, 200]))).setUpd { up.upd with staged := [(1, some { kind := 1, slot := 0 })] })), (0), (3), (⟨[], [], 0⟩), (⟨0, (dsc 0x83 0 0 0 64 0 0 0 [1, 0, 0, 0, 200]), [], false⟩), ({ kind := 1, slot := 0 }), by decide⟩,
   ⟨((((jb 3 (dsc 0x83 0 0 0 64 0 0 0 [1, 0, 0, 0, 103]))).setUpd { up.upd with staged := [(1, some { kind := 1, slot := 0 })] })), (0), (3), (⟨[], [], 0⟩), (⟨0, (dsc 0x83 0 0 0 64 0 0 0 [1, 0, 0, 0, 103]), [], false⟩), by decide⟩,
   ⟨((jb 3 (dsc 0x85 0 0 0 64 0 0 0 []))), (0), (3), (⟨[], [], 0⟩), (⟨0, (dsc 0x85 0 0 0 64 0 0 0 []), [], false⟩), by decide⟩,
   ⟨((jb 3 (dsc 0x86 0 5600 0 64 0 0 0 []))), (0), (3), (⟨[], [], 0⟩), (⟨0, (dsc 0x86 0 5600 0 64 0 0 0 []), [], false⟩), by decide⟩⟩

/-- Every hypothesis of CancelActivation is met, clause by clause. -/
theorem wit_CancelActivation :
    (∃ (s : State) (fn : Fin 16) (r : Fin 8) (io : CmdIo) (x : Staged), (jobOf s fn r 0x84 = some x) ∧ (dOpnd x.desc 0 ≤ 1) ∧ (s.upd.pending = some (dOpnd x.desc 0)) ∧ (tickReached s.upd.actTick s.glb.tick = false))
    ∧ (∃ (s : State) (fn : Fin 16) (r : Fin 8) (io : CmdIo) (x : Staged), (jobOf s fn r 0x84 = some x) ∧ (dOpnd x.desc 0 ≤ 2) ∧ (tickReached s.upd.actTick s.glb.tick = true)) :=
  ⟨⟨((((jb 3 (dsc 0x84 0 0 0 64 0 0 0 [1]))).setUpd { up.upd with pending := some 1, actTick := 200 })), (0), (3), (⟨[], [], 0⟩), (⟨0, (dsc 0x84 0 0 0 64 0 0 0 [1]), [], false⟩), by decide⟩,
   ⟨((jb 3 (dsc 0x84 0 0 0 64 0 0 0 [1]))), (0), (3), (⟨[], [], 0⟩), (⟨0, (dsc 0x84 0 0 0 64 0 0 0 [1]), [], false⟩), by decide⟩⟩

/-- Every hypothesis of TokenCommands is met, clause by clause. -/
theorem wit_TokenCommands :
    (∃ (s : State) (fn : Fin 16) (r : Fin 8) (io : CmdIo) (x : Staged), (jobOf s fn r 0x89 = some x))
    ∧ (∃ (s : State) (fn : Fin 16) (r : Fin 8) (io : CmdIo) (x : Staged), (jobOf s fn r 0x88 = some x) ∧ (dLen x.desc = 5586) ∧ (s.fus.lc = .blank) ∧ (s.mode.vpp = .inRange) ∧ (rngReady s.rng = true))
    ∧ (∃ (s : State) (fn : Fin 16) (r : Fin 8) (io : CmdIo) (x : Staged), (jobOf s fn r 0x8A = some x) ∧ (dLen x.desc = 5586) ∧ (s.mode.mode = .recovery) ∧ (s.fus.dbgdis = false))
    ∧ (∃ (s : State) (fn : Fin 16) (r : Fin 8) (io : CmdIo) (x : Staged), (jobOf s fn r 0x8A = some x) ∧ (dLen x.desc = 5586) ∧ (s.mode.mode = .service) ∧ (s.fus.dbgdis = false) ∧ (annFree s = true))
    ∧ (∃ (s : State) (fn : Fin 16) (r : Fin 8) (io : CmdIo) (x : Staged), (jobOf s fn r 0x8B = some x) ∧ (dLen x.desc = 5586) ∧ (s.fus.lc = .blank) ∧ (s.mode.vpp = .inRange))
    ∧ (∃ (s : State) (fn : Fin 16) (r : Fin 8) (io : CmdIo) (x : Staged), (jobOf s fn r 0x8B = some x) ∧ (dLen x.desc = 5586) ∧ (s.fus.lc ≠ .blank))
    ∧ (∃ (s : State) (fn : Fin 16) (r : Fin 8) (io : CmdIo) (x : Staged), (jobOf s fn r 0x7B = some x) ∧ (dAuxLen x.desc = 0) ∧ (s.fus.lc = .blank ∨ s.fus.lc = .provisioned) ∧ (384 ≤ dOpndN x.desc 0 2) ∧ (dOpndN x.desc 0 2 < 448) ∧ (s.mode.vpp = .inRange) ∧ (pgmAllowed s (dOpndN x.desc 0 2) (wordOf (dOpndN x.desc 4 4)) .none = true))
    ∧ (∃ (s : State) (fn : Fin 16) (r : Fin 8) (io : CmdIo) (x : Staged), (jobOf s fn r 0x7B = some x) ∧ (dAuxLen x.desc = 5586) ∧ (s.fus.lc = .blank ∨ s.fus.lc = .provisioned) ∧ (dOpndN x.desc 0 2 = 6) ∧ (pgmAllowed s 6 (wordOf (dOpndN x.desc 4 4)) .factory = true) ∧ (s.mode.vpp = .inRange))
    ∧ (∃ (s : State) (fn : Fin 16) (r : Fin 8) (io : CmdIo) (x : Staged), (jobOf s fn r 0x7B = some x) ∧ (dAuxLen x.desc = 0) ∧ (s.fus.lc = .commissioned) ∧ (dOpndN x.desc 0 2 = 3 ∨ dOpndN x.desc 0 2 = 6) ∧ (latchFor s 0x09 = true) ∧ (pgmRecord s (dOpndN x.desc 0 2) (wordOf (dOpndN x.desc 4 4)) (.latch 0x09) = true) ∧ (pgmAllowed s (dOpndN x.desc 0 2) (wordOf (dOpndN x.desc 4 4)) (.latch 0x09) = true) ∧ (s.mode.vpp = .inRange) ∧ (rngReady s.rng = true)) :=
  ⟨⟨((jb 3 (dsc 0x89 0 0 0 64 0 0 0 []))), (0), (3), (⟨[], [], 0⟩), (⟨0, (dsc 0x89 0 0 0 64 0 0 0 []), [], false⟩), by decide⟩,
   ⟨(((((jb 3 (dsc 0x88 0 5586 0 64 0 0 0 []))).setMode { up.mode with vpp := .inRange }).setFus { up.fus with lc := .blank }).setRng { inst := true }), (0), (3), (⟨[], [], 0⟩), (⟨0, (dsc 0x88 0 5586 0 64 0 0 0 []), [], false⟩), by decide⟩,
   ⟨(((((jb 3 (dsc 0x8A 0 5586 0 64 0 0 0 []))).setMode { up.mode with mode := .recovery }).setFus { up.fus with dbgdis := false })), (0), (3), (⟨[], [], 0⟩), (⟨0, (dsc 0x8A 0 5586 0 64 0 0 0 []), [], false⟩), by decide⟩,
   ⟨(((((jb 3 (dsc 0x8A 0 5586 0 64 0 0 0 []))).setMode { up.mode with mode := .service }).setFus { up.fus with dbgdis := false })), (0), (3), (⟨[], [], 0⟩), (⟨0, (dsc 0x8A 0 5586 0 64 0 0 0 []), [], false⟩), by decide⟩,
   ⟨(((((jb 3 (dsc 0x8B 0 5586 0 64 0 0 0 []))).setMode { up.mode with vpp := .inRange }).setFus { up.fus with lc := .blank })), (0), (3), (⟨[], [], 0⟩), (⟨0, (dsc 0x8B 0 5586 0 64 0 0 0 []), [], false⟩), by decide⟩,
   ⟨((((jb 3 (dsc 0x8B 0 5586 0 64 0 0 0 []))).setFus { up.fus with lc := .commissioned })), (0), (3), (⟨[], [], 0⟩), (⟨0, (dsc 0x8B 0 5586 0 64 0 0 0 []), [], false⟩), by decide⟩,
   ⟨(((((jb 3 (dsc 0x7B 0 0 0 64 0 0 0 [128, 1, 0, 0, 1]))).setMode { up.mode with vpp := .inRange }).setFus { up.fus with lc := .blank })), (0), (3), (⟨[], [], 0⟩), (⟨0, (dsc 0x7B 0 0 0 64 0 0 0 [128, 1, 0, 0, 1]), [], false⟩), by decide⟩,
   ⟨(((((jb 3 (dsc 0x7B 0 0 0 64 0 5586 0 [6, 0, 0, 0, 1]))).setMode { up.mode with vpp := .inRange }).setFus { up.fus with lc := .blank })), (0), (3), (⟨[], [], 0⟩), (⟨0, (dsc 0x7B 0 0 0 64 0 5586 0 [6, 0, 0, 0, 1]), [], false⟩), by decide⟩,
   ⟨((((ltj 9 [3, 0, 0, 0, 1] ((jb 3 (dsc 0x7B 0 0 0 64 0 0 0 [3, 0, 0, 0, 1])))).setMode { up.mode with vpp := .inRange }).setFus { up.fus with lc := .commissioned }).setRng { up.rng with inst := true }), (0), (3), (⟨[], [], 0⟩), (⟨0, (dsc 0x7B 0 0 0 64 0 0 0 [3, 0, 0, 0, 1]), [], false⟩), by decide⟩⟩

/-- Every hypothesis of AdminCommands is met, clause by clause. -/
theorem wit_AdminCommands :
    (∃ (s : State) (fn : Fin 16) (r : Fin 8) (io : CmdIo) (x : Staged), (jobOf s fn r 0x90 = some x) ∧ (dOpnd x.desc 0 ≤ 1) ∧ (1 ≤ dOpndN x.desc 8 2) ∧ (dOpndN x.desc 8 2 ≤ 64))
    ∧ (∃ (s : State) (fn : Fin 16) (r : Fin 8) (io : CmdIo) (x : Staged), (jobOf s fn r 0x91 = some x) ∧ (dAuxLen x.desc = 16))
    ∧ (∃ (s : State) (fn : Fin 16) (r : Fin 8) (io : CmdIo) (x : Staged), (jobOf s fn r 0x92 = some x))
    ∧ (∃ (s : State) (fn : Fin 16) (r : Fin 8) (io : CmdIo) (x : Staged), (jobOf s fn r 0xA0 = some x) ∧ (s.mode.dimEn = true) ∧ (annFree s = true) ∧ (s.mode.mode = .service))
    ∧ (∃ (s : State) (fn : Fin 16) (r : Fin 8) (io : CmdIo) (x : Staged), (jobOf s fn r 0xA0 = some x) ∧ (s.mode.dimEn = false ∨ annFree s = false ∨ s.mode.mode ≠ .service))
    ∧ (∃ (s : State) (fn : Fin 16) (r : Fin 8) (io : CmdIo) (x : Staged), (jobOf s fn r 0xA1 = some x) ∧ (s.mode.mode = .service ∨ s.mode.mode = .debug))
    ∧ (∃ (s : State) (fn : Fin 16) (r : Fin 8) (io : CmdIo) (x : Staged), (jobOf s fn r 0xA2 = some x) ∧ (dOpnd x.desc 0 ≤ 1) ∧ (leadOk s (wordOf (dOpndN x.desc 16 4)) = true) ∧ (relockOk (pllShadows s x.desc) (if dOpnd x.desc 0 = 0 then .a else .b) (wordOf (dOpndN x.desc 16 4)) = true))
    ∧ (∃ (s : State) (fn : Fin 16) (r : Fin 8) (io : CmdIo) (x : Staged), (jobOf s fn r 0xA2 = some x) ∧ (dOpnd x.desc 0 ≤ 1) ∧ (leadOk s (wordOf (dOpndN x.desc 16 4)) = false))
    ∧ (∃ (s : State) (fn : Fin 16) (r : Fin 8) (io : CmdIo) (x : Staged), (jobOf s fn r 0xA3 = some x) ∧ (dAuxLen x.desc = 32) ∧ (dOpnd x.desc 0 = 7))
    ∧ (∃ (s : State) (fn : Fin 16) (r : Fin 8) (io : CmdIo) (x : Staged), (jobOf s fn r 0xA3 = some x) ∧ (dAuxLen x.desc = 32) ∧ (dOpnd x.desc 0 = 0))
    ∧ (∃ (s : State) (fn : Fin 16) (r : Fin 8) (io : CmdIo) (x : Staged), (jobOf s fn r 0xA4 = some x)) :=
  ⟨⟨((jb 3 (dsc 0x90 0 0 0 64 0 0 0 [1, 0, 0, 0, 0, 0, 0, 0, 3]))), (0), (3), (⟨[], [], 0⟩), (⟨0, (dsc 0x90 0 0 0 64 0 0 0 [1, 0, 0, 0, 0, 0, 0, 0, 3]), [], false⟩), by decide⟩,
   ⟨((jb 3 (dsc 0x91 0 0 0 64 0 16 0 []))), (0), (3), (⟨[], [], 0⟩), (⟨0, (dsc 0x91 0 0 0 64 0 16 0 []), [], false⟩), by decide⟩,
   ⟨((jb 3 (dsc 0x92 0 0 0 64 0 0 0 []))), (0), (3), (⟨[], [], 0⟩), (⟨0, (dsc 0x92 0 0 0 64 0 0 0 []), [], false⟩), by decide⟩,
   ⟨((((jb 3 (dsc 0xA0 0 0 0 64 0 0 0 []))).setMode { up.mode with dimEn := true })), (0), (3), (⟨[], [], 0⟩), (⟨0, (dsc 0xA0 0 0 0 64 0 0 0 []), [], false⟩), by decide⟩,
   ⟨((((jb 3 (dsc 0xA0 0 0 0 64 0 0 0 []))).setMode { up.mode with dimEn := false })), (0), (3), (⟨[], [], 0⟩), (⟨0, (dsc 0xA0 0 0 0 64 0 0 0 []), [], false⟩), by decide⟩,
   ⟨((jb 3 (dsc 0xA1 0 0 0 64 0 0 0 []))), (0), (3), (⟨[], [], 0⟩), (⟨0, (dsc 0xA1 0 0 0 64 0 0 0 []), [], false⟩), by decide⟩,
   ⟨((jb 3 (dsc 0xA2 0 0 0 64 0 0 0 [0, 0, 0, 0, 64, 2, 0, 0, 0, 0, 0, 0, 0, 0, 0, 0, 200]))), (0), (3), (⟨[], [], 0⟩), (⟨0, (dsc 0xA2 0 0 0 64 0 0 0 [0, 0, 0, 0, 64, 2, 0, 0, 0, 0, 0, 0, 0, 0, 0, 0, 200]), [], false⟩), by decide⟩,
   ⟨((jb 3 (dsc 0xA2 0 0 0 64 0 0 0 []))), (0), (3), (⟨[], [], 0⟩), (⟨0, (dsc 0xA2 0 0 0 64 0 0 0 []), [], false⟩), by decide⟩,
   ⟨((jb 3 (dsc 0xA3 0 0 0 64 0 32 0 [7]))), (0), (3), (⟨[], [], 0⟩), (⟨0, (dsc 0xA3 0 0 0 64 0 32 0 [7]), [], false⟩), by decide⟩,
   ⟨((jb 3 (dsc 0xA3 0 0 0 64 0 32 0 []))), (0), (3), (⟨[], [], 0⟩), (⟨0, (dsc 0xA3 0 0 0 64 0 32 0 []), [], false⟩), by decide⟩,
   ⟨((jb 3 (dsc 0xA4 0 0 0 64 0 0 0 []))), (0), (3), (⟨[], [], 0⟩), (⟨0, (dsc 0xA4 0 0 0 64 0 0 0 []), [], false⟩), by decide⟩⟩

/-- Every hypothesis of WorldAndEnclaveCrossings is met, clause by clause. -/
theorem wit_WorldAndEnclaveCrossings :
    (∃ (s : State) (c : Fin 2), (coreRuns s c = true) ∧ (partGone s c = false) ∧ ((getCore s c).level = .hyp ∨ (getCore s c).level = .sup))
    ∧ (∃ (s : State) (c : Fin 2), (coreRuns s c = true) ∧ (partGone s c = false) ∧ ((getCore s c).level = .user))
    ∧ (∃ (s : State) (c : Fin 2), (coreRuns s c = true) ∧ (partGone s c = false) ∧ ((getCore s c).level = .mon) ∧ ((getCore s c).wsave.async = false) ∧ (returnOk (getCore s c).wsave.level (getCore s c).wsave.part = true))
    ∧ (∃ (s : State) (c : Fin 2), (coreRuns s c = true) ∧ (partGone s c = false) ∧ ((getCore s c).level = .mon) ∧ ((getCore s c).wsave.async = true))
    ∧ (∃ (s : State) (c : Fin 2), (coreRuns s c = true) ∧ (partGone s c = false) ∧ ((getCore s c).level = .mon) ∧ ((getCore s c).wsave.async = true) ∧ (returnOk (getCore s c).wsave.level (getCore s c).wsave.part = true))
    ∧ (∃ (s : State) (c : Fin 2), (coreRuns s c = true) ∧ (partGone s c = false) ∧ ((getCore s c).level = .sup ∨ (getCore s c).level = .hyp) ∧ (returnOk (trapRegs (getCore s c) (getCore s c).level).prev (getCore s c).part = true))
    ∧ (∃ (s : State) (c : Fin 2), (coreRuns s c = true) ∧ (partGone s c = false) ∧ ((getCore s c).level = .user))
    ∧ (∃ (s : State) (c : Fin 2) (f : State → State), (coreRuns s c = false))
    ∧ (∃ (s : State) (c : Fin 2) (rs1 rs2 : Fin 32) (k : Nat), (coreRuns s c = true) ∧ (partGone s c = false) ∧ ((getCore s c).level = .user) ∧ ((getCore s c).part ≠ 0) ∧ ((getCore s c).encl = none) ∧ (eenterStatus s (getCore s c) c (xReg (getCore s c) rs1).toNat (xReg (getCore s c) rs2).toNat = some k))
    ∧ (∃ (s : State) (c : Fin 2) (rs1 rs2 : Fin 32), (coreRuns s c = true) ∧ (partGone s c = false) ∧ ((getCore s c).level = .user) ∧ ((getCore s c).part ≠ 0) ∧ ((getCore s c).encl = none) ∧ (eenterStatus s (getCore s c) c (xReg (getCore s c) rs1).toNat (xReg (getCore s c) rs2).toNat = none) ∧ ((xReg (getCore s c) rs2).toNat ≠ 4))
    ∧ (∃ (s : State) (c : Fin 2) (rs1 rs2 : Fin 32), (coreRuns s c = true) ∧ (partGone s c = false) ∧ ((getCore s c).level = .user) ∧ ((getCore s c).part ≠ 0) ∧ ((getCore s c).encl = none) ∧ (eenterStatus s (getCore s c) c (xReg (getCore s c) rs1).toNat (xReg (getCore s c) rs2).toNat = none) ∧ ((xReg (getCore s c) rs2).toNat = 4))
    ∧ (∃ (s : State) (c : Fin 2) (rs1 rs2 : Fin 32), (coreRuns s c = true) ∧ (partGone s c = false) ∧ ((getCore s c).level ≠ .user ∨ (getCore s c).part = 0 ∨ (getCore s c).encl.isSome = true))
    ∧ (∃ (s : State) (c : Fin 2) (e : Nat), (coreRuns s c = true) ∧ (partGone s c = false) ∧ ((getCore s c).level = .user) ∧ ((getCore s c).encl = some e) ∧ ((getEncl s e).state ≠ 3))
    ∧ (∃ (s : State) (c : Fin 2), (coreRuns s c = true) ∧ (partGone s c = false) ∧ ((getCore s c).level ≠ .user ∨ (getCore s c).encl = none))
    ∧ (∃ (s : State) (c : Fin 2), (coreRuns s c = true) ∧ (partGone s c = false) ∧ ((getCore s c).level = .mon))
    ∧ (∃ (s : State) (c : Fin 2), (coreRuns s c = true) ∧ (partGone s c = false) ∧ ((getCore s c).level ≠ .mon))
    ∧ (∃ (s : State) (c : Fin 2), (coreRuns s c = true) ∧ (partGone s c = false) ∧ ((getCore s c).level = .mon) ∧ ((getCore s c).wsave.async = false))
    ∧ (∃ (s : State) (c : Fin 2) (rs1 rs2 : Fin 32), (coreRuns s c = false))
    ∧ (∃ (s : State) (c : Fin 2) (e : Nat), (coreRuns s c = true) ∧ (partGone s c = false) ∧ ((getCore s c).level = .user) ∧ ((getCore s c).encl = some e) ∧ ((getEncl s e).state = 3)) :=
  ⟨⟨(co { level := .sup, part := 1 }), (0), by decide⟩,
   ⟨(co { level := .user, part := 1 }), (0), by decide⟩,
   ⟨(sv .sup []), (0), by decide⟩,
   ⟨(co { wsave := { async := true } }), (0), by decide⟩,
   ⟨(co { wsave := { async := true, level := .hyp } }), (0), by decide⟩,
   ⟨(co { level := .sup, part := 1 }), (0), by decide⟩,
   ⟨(co { level := .user, part := 1 }), (0), by decide⟩,
   ⟨(up.setMode { up.mode with mode := .dim }), (0), (fun s => s), by decide⟩,
   ⟨(co { level := .user, part := 1, x := [(5, 9)] }), (0), (5), (0), (5), by decide⟩,
   ⟨((co { level := .user, part := 1, x := [(5, 3)] }).setCores { (co { level := .user, part := 1, x := [(5, 3)] }).cores with encl := [(3, { state := 2, part := 1, base := 0x8000, entries := [0x1000], saved := [], inside := [], pages := [(0, 400)] })] }), (0), (5), (0), by decide⟩,
   ⟨((co { level := .user, part := 1, x := [(5, 3), (6, 4)] }).setCores { (co { level := .user, part := 1, x := [(5, 3), (6, 4)] }).cores with encl := [(3, { state := 2, part := 1, base := 0x8000, entries := [0x1000], saved := [0], inside := [], pages := [(0, 400)] })] }), (0), (5), (6), by decide⟩,
   ⟨(up), (0), (5), (6), by decide⟩,
   ⟨((co { level := .user, part := 1, encl := some 3 }).setCores { (co { level := .user, part := 1, encl := some 3 }).cores with encl := [(3, { state := 2, part := 1, inside := [0] })] }), (0), (3), by decide⟩,
   ⟨(up), (0), by decide⟩,
   ⟨(co {}), (0), by decide⟩,
   ⟨(co { level := .hyp }), (0), by decide⟩,
   ⟨(co {}), (0), by decide⟩,
   ⟨(up.setMode { up.mode with mode := .dim }), (0), (5), (6), by decide⟩,
   ⟨((co { level := .user, part := 1, encl := some 3 }).setCores { (co { level := .user, part := 1, encl := some 3 }).cores with encl := [(3, { state := 3, part := 1, inside := [0, 1] })] }), (0), (3), by decide⟩⟩

/-- Every hypothesis of CoreRegisters is met, clause by clause. -/
theorem wit_CoreRegisters :
    (∃ (s : State) (c : Fin 2) (rd : Fin 32) (n : BitVec 12) (v : DWord) (t : State), (coreRuns s c = true) ∧ (partGone s c = false) ∧ (ccrRead s (getCore s c) c n.toNat = some (v, t)))
    ∧ (∃ (s : State) (c : Fin 2) (rd : Fin 32) (n : BitVec 12), (coreRuns s c = true) ∧ (partGone s c = false) ∧ (ccrRead s (getCore s c) c n.toNat = none))
    ∧ (∃ (s : State) (c : Fin 2) (n : BitVec 12) (rs1 : Fin 32) (t : State), (coreRuns s c = true) ∧ (partGone s c = false) ∧ (ccrWrite s (getCore s c) c n.toNat (xReg (getCore s c) rs1) = some t))
    ∧ (∃ (s : State) (c : Fin 2) (n : BitVec 12) (rs1 : Fin 32), (coreRuns s c = true) ∧ (partGone s c = false) ∧ (ccrWrite s (getCore s c) c n.toNat (xReg (getCore s c) rs1) = none) ∧ ((getCore s c).level ≠ .mon))
    ∧ (∃ (s : State) (c : Fin 2) (n : BitVec 12) (rs1 : Fin 32), (coreRuns s c = true) ∧ (partGone s c = false) ∧ (ccrWrite s (getCore s c) c n.toNat (xReg (getCore s c) rs1) = none))
    ∧ (∃ (s : State) (c : Fin 2) (rs1 : Fin 32), (coreRuns s c = true) ∧ (partGone s c = false) ∧ ((getCore s c).level = .hyp))
    ∧ (∃ (s : State) (c : Fin 2) (rs1 : Fin 32), (coreRuns s c = true) ∧ (partGone s c = false) ∧ ((getCore s c).level = .sup))
    ∧ (∃ (s : State) (c : Fin 2) (rs1 : Fin 32), (coreRuns s c = true) ∧ (partGone s c = false) ∧ ((getCore s c).level = .mon ∨ (getCore s c).level = .user))
    ∧ (∃ (s : State) (c : Fin 2) (code : Nat) (info : DWord), ((getCore s c).encl = none))
    ∧ (∃ (s : State) (c : Fin 2), (coreRuns s c = true) ∧ (partGone s c = false))
    ∧ (∃ (s : State) (c : Fin 2), (coreRuns s c = true) ∧ (partGone s c = false) ∧ (debugAttached s = false))
    ∧ (∃ (s : State) (c : Fin 2), (coreRuns s c = true) ∧ (partGone s c = false) ∧ (debugAttached s = true))
    ∧ (∃ (s : State) (c : Fin 2), (coreRuns s c = true) ∧ (partGone s c = false))
    ∧ (∃ (s : State) (c : Fin 2) (k : Nat), (coreRuns s c = true) ∧ (nextIrq (getCore s c) = some (.mon, k)) ∧ ((getCore s c).encl = none))
    ∧ (∃ (s : State) (c : Fin 2) (k : Nat) (l : Level), (coreRuns s c = true) ∧ (nextIrq (getCore s c) = some (l, k)) ∧ (l ≠ .mon) ∧ ((getCore s c).encl = none))
    ∧ (∃ (s : State) (c : Fin 2), (coreRuns s c = false))
    ∧ (∃ (s : State) (c : Fin 2), (coreRuns s c = true) ∧ (nextIrq (getCore s c) = none))
    ∧ (∃ (x : Core), (x.level = .mon) ∧ (lowestPend x.ipendMon x.imaskMon = none))
    ∧ (∃ (x : Core) (k : Nat), (lowestPend x.ipendMon x.imaskMon = some k))
    ∧ (∃ (x : Core) (k : Nat), (lowestPend x.ipendMon x.imaskMon = none) ∧ (x.level ≠ .mon) ∧ (lowestPend x.ipendHyp x.imaskHyp = some k))
    ∧ (∃ (x : Core) (k : Nat), (lowestPend x.ipendMon x.imaskMon = none) ∧ (x.level = .sup ∨ x.level = .user) ∧ (lowestPend x.ipendHyp x.imaskHyp = none) ∧ (lowestPend x.ipendSup x.imaskSup = some k))
    ∧ (∃ (s : State) (c : Fin 2), (mainUp s = true) ∧ (s.mode.dbg ≠ .closed) ∧ (s.mode.port = true))
    ∧ (∃ (s : State) (c : Fin 2), (mainUp s = true) ∧ (s.mode.dbg ≠ .closed) ∧ (s.mode.port = true))
    ∧ (∃ (s : State) (c : Fin 2), (mainUp s = false ∨ s.mode.dbg = .closed ∨ s.mode.port = false)) :=
  ⟨⟨(up), (0), (5), (0x68), (0), (up), by decide⟩,
   ⟨(up), (0), (5), (0x18), by decide⟩,
   ⟨(co { level := .sup, part := 1, x := [(5, 7)] }), (0), (2), (5), (co { level := .sup, part := 1, x := [(5, 7)], uscratch := 7 }), by decide⟩,
   ⟨(co { level := .sup, part := 1 }), (0), (0x20), (5), by decide⟩,
   ⟨(co { level := .sup, part := 1 }), (0), (0x20), (5), by decide⟩,
   ⟨(co { level := .hyp }), (0), (0), by decide⟩,
   ⟨(co { level := .sup, part := 1 }), (0), (0), by decide⟩,
   ⟨(co {}), (0), (0), by decide⟩,
   ⟨(co { level := .user, part := 1 }), (0), (8), (0), by decide⟩,
   ⟨(up), (0), by decide⟩,
   ⟨(up), (0), by decide⟩,
   ⟨(up.setMode { up.mode with mode := .debug, dbg := .opened, port := true }), (0), by decide⟩,
   ⟨(up), (0), by decide⟩,
   ⟨(co { level := .hyp, ipendMon := 8 }), (0), (3), by decide⟩,
   ⟨(co { level := .sup, part := 1, ipendSup := 2 }), (0), (1), (.sup), by decide⟩,
   ⟨(up.setMode { up.mode with mode := .dim }), (0), by decide⟩,
   ⟨(up), (0), by decide⟩,
   ⟨({}), by decide⟩,
   ⟨({ level := .hyp, ipendMon := 8 }), (3), by decide⟩,
   ⟨({ level := .sup, ipendHyp := 8 }), (3), by decide⟩,
   ⟨({ level := .sup, ipendSup := 2 }), (1), by decide⟩,
   ⟨(up.setMode { up.mode with mode := .debug, dbg := .opened, port := true }), (0), by decide⟩,
   ⟨(up.setMode { up.mode with mode := .debug, dbg := .opened, port := true }), (0), by decide⟩,
   ⟨(up), (0), by decide⟩⟩

/-- Every hypothesis of PartitionInUse is met, clause by clause. -/
theorem wit_PartitionInUse :
    (∃ (s : State) (c : Fin 2) (n : Fin 16) (rs1 : Fin 32), (coreRuns s c = true) ∧ (partGone s c = false) ∧ ((getCore s c).level = .mon) ∧ ((getCore s 0).part = n ∨ (getCore s 1).part = n))
    ∧ (∃ (s : State) (c : Fin 2) (n : Nat), (asks s c 2 = true) ∧ (callReg (getCore s c) 10 = n) ∧ (1 ≤ n) ∧ (n ≤ 15) ∧ ((getCore s 0).part = n ∨ (getCore s 1).part = n)) :=
  ⟨⟨(co { part := 1 }), (0), (1), (5), by decide⟩,
   ⟨(sv .hyp [(10, 1), (17, 2)]), (0), (1), by decide⟩⟩

/-- Every hypothesis of Services is met, clause by clause. -/
theorem wit_Services :
    (∃ (s : State) (c : Fin 2), (asks s c 0x00 = true))
    ∧ (∃ (s : State) (c : Fin 2), (asks s c 0x01 = true) ∧ (1 ≤ callReg (getCore s c) 10) ∧ (callReg (getCore s c) 10 ≤ 15) ∧ (callReg (getCore s c) 11 < 2 ^ 20) ∧ (callReg (getCore s c) 12 < 2) ∧ (ownerExists s (callReg (getCore s c) 10) = true) ∧ (partInUse s (callReg (getCore s c) 10) = false))
    ∧ (∃ (s : State) (c : Fin 2), (asks s c 0x02 = true) ∧ (1 ≤ callReg (getCore s c) 10) ∧ (callReg (getCore s c) 10 ≤ 15) ∧ (partInUse s (callReg (getCore s c) 10) = false))
    ∧ (∃ (s : State) (c : Fin 2) (e : Nat), (asks s c 0x10 = true) ∧ (callReg (getCore s c) 10 % 4096 = 0) ∧ (callReg (getCore s c) 10 < 2 ^ 32) ∧ ((pctxOf s (getCore s c).wsave.part).getLsbD 1 = true) ∧ ((List.range 64).find? (fun e => (getEncl s e).state = 0) = some e))
    ∧ (∃ (s : State) (c : Fin 2), (asks s c 0x11 = true) ∧ (enclStatus s (getCore s c) (callReg (getCore s c) 10) [1] = none) ∧ (callReg (getCore s c) 11 % 4096 = 0) ∧ (callReg (getCore s c) 12 % 4096 = 0) ∧ (callReg (getCore s c) 12 < 256 * 4096) ∧ (enclPermOk (callReg (getCore s c) 12) (callReg (getCore s c) 13) = true) ∧ ((getEncl s (callReg (getCore s c) 10)).pages.any (·.1 = callReg (getCore s c) 12 / 4096) = false) ∧ ((getEncl s (callReg (getCore s c) 10)).base.toNat + callReg (getCore s c) 12 < 2 ^ 32))
    ∧ (∃ (s : State) (c : Fin 2), (asks s c 0x12 = true) ∧ (enclStatus s (getCore s c) (callReg (getCore s c) 10) [1] = none) ∧ ([callReg (getCore s c) 11, callReg (getCore s c) 12, callReg (getCore s c) 13, callReg (getCore s c) 14].all (entryOk s (getEncl s (callReg (getCore s c) 10))) = true) ∧ ((getEncl s (callReg (getCore s c) 10)).pages.any (·.1 = 0) = true))
    ∧ (∃ (s : State) (c : Fin 2), (asks s c 0x13 = true) ∧ (enclStatus s (getCore s c) (callReg (getCore s c) 10) [1, 2] = none))
    ∧ (∃ (s : State) (c : Fin 2), (asks s c 0x14 = true) ∧ (enclStatus s (getCore s c) (callReg (getCore s c) 10) [1, 2, 3] = none))
    ∧ (∃ (s : State) (c : Fin 2), (asks s c 0x20 = true) ∧ (callReg (getCore s c) 10 < 2) ∧ (callReg (getCore s c) 11 % 64 = 0) ∧ (1 ≤ callReg (getCore s c) 12) ∧ (callReg (getCore s c) 12 ≤ 64) ∧ (tget none s.pke.raw (getCore s c).wsave.part = none) ∧ (callReg (getCore s c) 10 ≠ 0 ∨ s.cus.run = 0) ∧ ((getPke s (callReg (getCore s c) 10)).waiting.length < 16) ∧ (gateOk s 12 = true))
    ∧ (∃ (s : State) (c : Fin 2), (asks s c 0x20 = true) ∧ (callReg (getCore s c) 10 < 2) ∧ (callReg (getCore s c) 11 % 64 = 0) ∧ (1 ≤ callReg (getCore s c) 12) ∧ (callReg (getCore s c) 12 ≤ 64) ∧ (callReg (getCore s c) 10 = 0) ∧ (s.cus.run ≠ 0))
    ∧ (∃ (s : State) (c : Fin 2) (j : RawJob) (acc : Bytes), (asks s c 0x20 = true) ∧ (callReg (getCore s c) 10 < 2) ∧ (callReg (getCore s c) 11 % 64 = 0) ∧ (1 ≤ callReg (getCore s c) 12) ∧ (callReg (getCore s c) 12 ≤ 64) ∧ (callReg (getCore s c) 10 ≠ 0 ∨ s.cus.run = 0) ∧ (tget none s.pke.raw (getCore s c).wsave.part = some j) ∧ (j.acc = some acc) ∧ (j.inst = callReg (getCore s c) 10) ∧ (j.addr = callReg (getCore s c) 11))
    ∧ (∃ (s : State) (c : Fin 2), (asks s c 0x30 = true) ∧ (16 ≤ callReg (getCore s c) 10) ∧ (callReg (getCore s c) 10 < 64))
    ∧ (∃ (s : State) (c : Fin 2), (asks s c 0x30 = true) ∧ (callReg (getCore s c) 10 < 16 ∨ 64 ≤ callReg (getCore s c) 10))
    ∧ (∃ (s : State) (c : Fin 2) (i : Instr), (i ∈ [.query c, .partLoad c, .partUnload c, .enclCreate c, .enclAdd c, .enclSeal c, .enclDestroy c, .enclReport c, .pkeRaw c, .irqRaise c]) ∧ (coreRuns s c = true) ∧ ((getCore s c).level = .mon) ∧ ((getCore s c).wsave.call = true) ∧ (callReg (getCore s c) 17 ∉ serviceNums))
    ∧ (∃ (s : State) (c : Fin 2) (i : Instr) (k : Nat), ((i, k) ∈ [(Instr.query c, 0), (.partLoad c, 1), (.partUnload c, 2), (.enclCreate c, 0x10), (.enclAdd c, 0x11), (.enclSeal c, 0x12), (.enclDestroy c, 0x13), (.enclReport c, 0x14), (.pkeRaw c, 0x20), (.irqRaise c, 0x30)]) ∧ (coreRuns s c = true) ∧ ((getCore s c).level = .mon) ∧ ((getCore s c).wsave.call = true) ∧ (callReg (getCore s c) 17 = k) ∧ (serviceLevel k (getCore s c).wsave.level = false))
    ∧ (∃ (s : State) (c : Fin 2) (i : Instr), (i ∈ [.query c, .partLoad c, .partUnload c, .enclCreate c, .enclAdd c, .enclSeal c, .enclDestroy c, .enclReport c, .pkeRaw c, .irqRaise c]) ∧ (coreRuns s c = false ∨ (getCore s c).level ≠ .mon ∨ (getCore s c).wsave.call = false)) :=
  ⟨⟨((sv .sup [(17, 0)])), (0), by decide⟩,
   ⟨((((sv .hyp [(10, 2), (11, 0x10000), (12, 1), (17, 1)])).setVlt { up.vlt with exist := 4 })), (0), by decide⟩,
   ⟨((sv .hyp [(10, 2), (17, 2)])), (0), by decide⟩,
   ⟨((sv .sup [(10, 0x8000), (17, 0x10)])), (0), (0), by decide⟩,
   ⟨((((sv .sup [(10, 3), (11, 0x1000), (12, 0x1000), (13, 3), (17, 0x11)])).setCores { (sv .sup [(10, 3), (11, 0x1000), (12, 0x1000), (13, 3), (17, 0x11)]).cores with encl := [(3, { state := 1, part := 1, base := 0x8000, pages := [(0, 400)] })] })), (0), by decide⟩,
   ⟨((((sv .sup [(10, 3), (17, 0x12)])).setCores { (sv .sup [(10, 3), (17, 0x12)]).cores with encl := [(3, { state := 1, part := 1, base := 0x8000, pages := [(0, 400)] })] })), (0), by decide⟩,
   ⟨((((sv .sup [(10, 3), (17, 0x13)])).setCores { (sv .sup [(10, 3), (17, 0x13)]).cores with encl := [(3, { state := 2, part := 1, base := 0x8000, pages := [(0, 400)] })] })), (0), by decide⟩,
   ⟨((((sv .sup [(10, 3), (17, 0x14)])).setCores { (sv .sup [(10, 3), (17, 0x14)]).cores with encl := [(3, { state := 2, part := 1, base := 0x8000, pages := [(0, 400)] })] })), (0), by decide⟩,
   ⟨((((sv .sup [(10, 1), (11, 0x40), (12, 1), (17, 0x20)])).setClk { up.clk with gate := 0x3FFFFF })), (0), by decide⟩,
   ⟨(((sv .sup [(10, 0), (11, 0x40), (12, 1), (17, 0x20)])).setCus { up.cus with run := 1 }), (0), by decide⟩,
   ⟨(((sv .sup [(10, 1), (11, 0x40), (12, 1), (17, 0x20)])).setPke { up.pke with raw := [(1, some { inst := 1, addr := 0x40, steps := 1, acc := some [] })] }), (0), ({ inst := 1, addr := 0x40, steps := 1, acc := some [] }), ([]), by decide⟩,
   ⟨((sv .sup [(10, 20), (17, 0x30)])), (0), by decide⟩,
   ⟨((sv .sup [(10, 15), (17, 0x30)])), (0), by decide⟩,
   ⟨((sv .sup [(17, 7)])), (0), (.enclSeal 0), by decide⟩,
   ⟨((sv .sup [(17, 2)])), (0), (.partUnload 0), (2), by decide⟩,
   ⟨(up), (0), (.query 0), by decide⟩⟩

/-- Every hypothesis of Accesses is met, clause by clause. -/
theorem wit_Accesses :
    (∃ (s : State) (b : BusReq), (mainUp s = true) ∧ (reqOk b = true) ∧ (2 ≤ b.init.val) ∧ (b.init.val ≤ 4) ∧ (b.normal = false))
    ∧ (∃ (s : State) (b : BusReq), (mainUp s = true) ∧ (reqOk b = true) ∧ (b.init.val = 4) ∧ (b.normal = true))
    ∧ (∃ (s : State) (b : BusReq), (mainUp s = true) ∧ (reqOk b = true) ∧ (b.init.val = 5 ∨ b.init.val = 6))
    ∧ (∃ (s : State) (b : BusReq), (mainUp s = true) ∧ (reqOk b = true) ∧ (b.init.val = 7) ∧ (debugAttached s = true))
    ∧ (∃ (s : State) (b : BusReq), (mainUp s = false ∨ reqOk b = false ∨ (b.init.val = 7 ∧ debugAttached s = false) ∨ (b.init.val ≤ 1 ∧ coreRuns s b.init.val = false)))
    ∧ (∃ (s t : State), (t.fwl.hold = s.fwl.hold) ∧ (mpuEns t = mpuEns s))
    ∧ (∃ (s : State) (b : BusReq), (mainUp s = true) ∧ (reqOk b = true) ∧ (b.init.val ≤ 1) ∧ (coreRuns s b.init.val = true) ∧ (partGone s b.init.val = false))
    ∧ (∃ (s : State) (b : BusReq) (c : Fin 2), ((getCore s c).level = .mon ∨ (getCore s c).level = .hyp) ∧ (b.kind = .load ∨ b.kind = .store) ∧ (b.addr.toNat % b.size = 0))
    ∧ (∃ (s : State) (b : BusReq) (a : Acc), (accCheck s a = .ok))
    ∧ (∃ (s : State) (b : BusReq) (a : Acc) (src idx : Nat), (accCheck s a = .deny src idx))
    ∧ (∃ (s : State) (b : BusReq) (a : Acc) (k : Nat), (b.kind = .store) ∧ (b.init.val ≠ 7) ∧ (targetOf a.addr = some 1) ∧ (a.addr = 0x10000000 + k))
    ∧ (∃ (s : State) (b : BusReq) (a : Acc), (b.kind = .load) ∧ (b.init.val ≤ 1))
    ∧ (∃ (s : State) (b : BusReq) (a : Acc), (b.kind = .load) ∧ (b.init.val = 7))
    ∧ (∃ (s : State) (b : BusReq) (a : Acc), (b.kind = .fetch ∨ b.kind = .walk))
    ∧ (∃ (s : State) (b : BusReq) (a : Acc), (accCheck s a = .stall) ∧ (2 ≤ a.init) ∧ (a.init ≤ 6) ∧ ((getMpu s a.init).en = false))
    ∧ (∃ (s : State) (k : Fin 8) (v : Word), (mainUp s = true))
    ∧ (∃ (s : State) (v : Word), (mainUp s = true))
    ∧ (∃ (s : State) (k : Fin 8) (b : BusReq) (a : Acc), (s.mpu.stalled.find? (fun p => p.2.init = k.val) = some (b, a)))
    ∧ (∃ (s : State) (k : Fin 26) (b : BusReq) (a : Acc), (s.fwl.stalled.find? (fun p => targetOf p.2.addr = some k.val) = some (b, a)))
    ∧ (∃ (s : State) (k : Fin 8), (s.mpu.stalled.find? (fun p => p.2.init = k.val) = none))
    ∧ (∃ (s : State) (k : Fin 26), (s.fwl.stalled.find? (fun p => targetOf p.2.addr = some k.val) = none))
    ∧ (∃ (s : State) (e src : Nat) (f : Acc → Bool) (o : LaneOp) (a : Acc), (laneStalled s e src f = some (o, a)))
    ∧ (∃ (s : State) (k : Fin 8) (a v : Word), (mainUp s = true) ∧ (a.toNat % 4 = 0) ∧ (2 ≤ k.val) ∧ (k.val ≠ 7))
    ∧ (∃ (s : State) (k : Fin 8) (a v : Word), (mainUp s = true) ∧ (a.toNat % 4 = 0) ∧ (k.val ≤ 1) ∧ (coreRuns s k.val = true) ∧ (partGone s k.val = false))
    ∧ (∃ (s : State) (b : BusReq) (a : Acc) (t : State), (b.kind = .store) ∧ (b.init.val ≠ 7) ∧ (b.size = 4) ∧ (a.addr % 4 = 0) ∧ (0x40000000 ≤ a.addr) ∧ (a.addr < 0x40016000) ∧ (regWrite s a.addr (wordOf (leAt (slice b.data 0 4) 0 4)) = .ok t))
    ∧ (∃ (s : State) (v : Word), (mainUp s = true) ∧ (pageLive s 0 = true))
    ∧ (∃ (s : State) (fn : Fin 16) (v : Word), (mainUp s = true) ∧ (fnThere s fn = true)) :=
  ⟨⟨(up), ({ init := 3, kind := .store, addr := 0x10000040, size := 4, data := [1, 2, 3, 4], rd := 0, signed := false, owner := 0 }), by decide⟩,
   ⟨(up), ({ init := 4, kind := .store, addr := 0x10000040, size := 4, data := [1, 2, 3, 4], rd := 0, signed := false, owner := 0, normal := true }), by decide⟩,
   ⟨(up), ({ init := 5, kind := .store, addr := 0x10000040, size := 4, data := [1, 2, 3, 4], rd := 0, signed := false, owner := 0 }), by decide⟩,
   ⟨(up.setMode { up.mode with dbg := .opened, port := true }), ({ init := 7, kind := .store, addr := 0x10000040, size := 4, data := [1, 2, 3, 4], rd := 0, signed := false, owner := 0 }), by decide⟩,
   ⟨(up), ({ init := 7, kind := .store, addr := 0x10000040, size := 4, data := [1, 2, 3, 4], rd := 0, signed := false, owner := 0 }), by decide⟩,
   ⟨(up), (up), by decide⟩,
   ⟨(up), ({ init := 0, kind := .store, addr := 0x10000040, size := 4, data := [1, 2, 3, 4], rd := 0, signed := false, owner := 0 }), by decide⟩,
   ⟨(up), ({ init := 3, kind := .store, addr := 0x10000040, size := 4, data := [1, 2, 3, 4], rd := 0, signed := false, owner := 0 }), (0), by decide⟩,
   ⟨(up), ({ init := 3, kind := .store, addr := 0x10000040, size := 4, data := [1, 2, 3, 4], rd := 0, signed := false, owner := 0 }), ({ init := 0, kind := 1, addr := 0x10000040, size := 4, secure := true, level := 3, owner := 0 }), by decide⟩,
   ⟨(up), ({ init := 3, kind := .store, addr := 0x10000040, size := 4, data := [1, 2, 3, 4], rd := 0, signed := false, owner := 0 }), ({ init := 0, kind := 0, addr := 0x10000040, size := 4, secure := false, level := 0, owner := 1 }), (3), (0), by decide⟩,
   ⟨(up), ({ init := 3, kind := .store, addr := 0x10000040, size := 4, data := [1, 2, 3, 4], rd := 0, signed := false, owner := 0 }), (dmaAcc 3 0 true true 0x10000040 4), (0x40), by decide⟩,
   ⟨(up), ({ init := 0, kind := .load, addr := 0x10000040, size := 4, data := [1, 2, 3, 4], rd := 0, signed := false, owner := 0 }), (dmaAcc 0 0 false true 0x10000040 4), by decide⟩,
   ⟨(up.setMode { up.mode with dbg := .opened, port := true }), ({ init := 7, kind := .load, addr := 0x10000040, size := 4, data := [1, 2, 3, 4], rd := 0, signed := false, owner := 0 }), (debugAcc up .load 0x10000040 4), by decide⟩,
   ⟨(up), ({ init := 0, kind := .fetch, addr := 0x10000040, size := 4, data := [1, 2, 3, 4], rd := 0, signed := false, owner := 0 }), (dmaAcc 0 0 false true 0x10000040 4), by decide⟩,
   ⟨(up.setMpu { units := [(3, { en := false })] }), ({ init := 3, kind := .store, addr := 0x10000040, size := 4, data := [1, 2, 3, 4], rd := 0, signed := false, owner := 0 }), (dmaAcc 3 0 true true 0x10000040 4), by decide⟩,
   ⟨(up), (3), (1), by decide⟩,
   ⟨(up), (1), by decide⟩,
   ⟨(up.setMpu { stalled := [({ init := 3, kind := .store, addr := 0x10000040, size := 4, data := [1, 2, 3, 4], rd := 0, signed := false, owner := 0 }, dmaAcc 3 0 true true 0x10000040 4)] }), (3), ({ init := 3, kind := .store, addr := 0x10000040, size := 4, data := [1, 2, 3, 4], rd := 0, signed := false, owner := 0 }), (dmaAcc 3 0 true true 0x10000040 4), by decide⟩,
   ⟨(up.setFwl { up.fwl with stalled := [({ init := 3, kind := .store, addr := 0x10000040, size := 4, data := [1, 2, 3, 4], rd := 0, signed := false, owner := 0 }, dmaAcc 3 0 true true 0x10000040 4)] }), (1), ({ init := 3, kind := .store, addr := 0x10000040, size := 4, data := [1, 2, 3, 4], rd := 0, signed := false, owner := 0 }), (dmaAcc 3 0 true true 0x10000040 4), by decide⟩,
   ⟨(up), (3), by decide⟩,
   ⟨(up), (3), by decide⟩,
   ⟨(ong.setEng { ong.eng with lanes := [(0, [{ words := [], cls := 1, started := true, stall := some (dmaAcc 3 0 true true 0x10000040 4) }])] }), (0), (3), (fun _ => true), ({ words := [], cls := 1, started := true, stall := some (dmaAcc 3 0 true true 0x10000040 4) }), (dmaAcc 3 0 true true 0x10000040 4), by decide⟩,
   ⟨(up), (3), (0x10000040), (1), by decide⟩,
   ⟨(up), (0), (0x10000040), (1), by decide⟩,
   ⟨(ong), ({ init := 0, kind := .store, addr := 0x40000104, size := 4, data := [], rd := 0, signed := false, owner := 0 }), (dmaAcc 0 0 true true 0x40000000 4), (ong), by decide⟩,
   ⟨(up), (0), by decide⟩,
   ⟨(up), (0), (0), by decide⟩⟩

/-- Every hypothesis of VaultEvents is met, clause by clause. -/
theorem wit_VaultEvents :
    (∃ (s : State) (n : Fin 1024) (ok : Bool), (mainUp s = true) ∧ ((getSlot s n).state = 3) ∧ (macHolds s n = false))
    ∧ (∃ (s : State) (n : Nat), ((getSlot s n).state = 3))
    ∧ (∃ (s : State) (n : Nat), ((getSlot s n).state = 3) ∧ (s.vlt.zTry.contains n = false))
    ∧ (∃ (s : State) (n : Nat), ((getSlot s n).state = 3) ∧ (s.vlt.zTry.contains n = true))
    ∧ (∃ (s : State) (a : BitVec 12) (x : Season), (seasonOf s a.toNat = some x) ∧ (mainUp s = true) ∧ (s.glb.run = true) ∧ (x.opened = false) ∧ (tickReached (x.x - wordOf x.ovlen) s.glb.tick = true))
    ∧ (∃ (s : State) (a : BitVec 12) (x : Season), (seasonOf s a.toNat = some x) ∧ (mainUp s = true) ∧ (s.glb.run = true) ∧ (x.rolled = false) ∧ (tickReached x.x s.glb.tick = true))
    ∧ (∃ (s : State) (a : BitVec 12) (x : Season), (seasonOf s a.toNat = some x) ∧ (mainUp s = true) ∧ (s.glb.run = true) ∧ (x.rolled = true) ∧ (tickReached (x.x + wordOf x.ovlen) s.glb.tick = true))
    ∧ (∃ (s : State) (a : BitVec 12) (x : Season), (seasonOf s a.toNat = some x) ∧ (tickReached (x.x - wordOf x.ovlen) s.glb.tick = false) ∧ (tickReached x.x s.glb.tick = false) ∧ (tickReached (x.x + wordOf x.ovlen) s.glb.tick = false))
    ∧ (∃ (s : State) (n : Nat) (x : Slot) (a : Nat), ((assocSlots s a).find? (fun p => p.2.state = 1 && p.2.role = 2) = some (n, x)))
    ∧ (∃ (s : State) (n : Fin 1024) (o : KeyOp) (d : Word), (s.vlt.keyOps.find? (fun o => o.slot = n.val) = some o) ∧ (o.deadline = some d) ∧ (o.armed = false) ∧ ((getSlot s n).state = 2) ∧ (mainUp s = true) ∧ (s.glb.run = true) ∧ (tickReached d s.glb.tick = true))
    ∧ (∃ (s : State) (n : Fin 1024) (ok : Bool), (mainUp s = false ∨ (getSlot s n).state ≠ 3 ∨ macHolds s n = true))
    ∧ (∃ (s : State) (a : BitVec 12), (seasonOf s a.toNat = none))
    ∧ (∃ (s : State) (n : Fin 1024), (s.vlt.keyOps.find? (fun o => o.slot = n.val) = none ∨ (getSlot s n).state ≠ 2)) :=
  ⟨⟨(up.setVlt { up.vlt with slots := [(40, { state := 3, owner := 1, assoc := 5 })] }), (40), (true), by decide⟩,
   ⟨(up.setVlt { up.vlt with slots := [(40, { state := 3 })] }), (40), by decide⟩,
   ⟨(up.setVlt { up.vlt with slots := [(40, { state := 3 })] }), (40), by decide⟩,
   ⟨(up.setVlt { up.vlt with slots := [(40, { state := 3 })], zTry := [40] }), (40), by decide⟩,
   ⟨(up.setVlt { up.vlt with seasons := [{ assoc := 1, x := 110, ovlen := 10 }] }), (1), ({ assoc := 1, x := 110, ovlen := 10 }), by decide⟩,
   ⟨(up.setVlt { up.vlt with seasons := [{ assoc := 1, x := 100, ovlen := 10, opened := true }] }), (1), ({ assoc := 1, x := 100, ovlen := 10, opened := true }), by decide⟩,
   ⟨(up.setVlt { up.vlt with seasons := [{ assoc := 1, x := 90, ovlen := 10, opened := true, rolled := true }] }), (1), ({ assoc := 1, x := 90, ovlen := 10, opened := true, rolled := true }), by decide⟩,
   ⟨(up.setVlt { up.vlt with seasons := [{ assoc := 1, x := 190, ovlen := 10 }] }), (1), ({ assoc := 1, x := 190, ovlen := 10 }), by decide⟩,
   ⟨(up.setVlt { up.vlt with slots := [(40, { state := 1, role := 2, assoc := 1 })] }), (40), ({ state := 1, role := 2, assoc := 1 }), (1), by decide⟩,
   ⟨(up.setVlt { up.vlt with slots := [(40, { state := 2 })], keyOps := [{ slot := 40, assoc := 1, kind := 0, old := none, armed := false, kcv := [], deadline := some 90, pinned := false }] }), (40), ({ slot := 40, assoc := 1, kind := 0, old := none, armed := false, kcv := [], deadline := some 90, pinned := false }), (90), by decide⟩,
   ⟨(up), (40), (true), by decide⟩,
   ⟨(up), (1), by decide⟩,
   ⟨(up), (40), by decide⟩⟩

/-- Every hypothesis of CustodyEvents is met, clause by clause. -/
theorem wit_CustodyEvents :
    (∃ (s : State) (v : Word), (mainUp s = true) ∧ (gateOk s 8 = true) ∧ (fld v 24 8 = 0xC5) ∧ (bit v 0 = true))
    ∧ (∃ (s : State) (v : Word), (mainUp s = true) ∧ (gateOk s 8 = true) ∧ (fld v 24 8 = 0xC5) ∧ (bit v 1 = true))
    ∧ (∃ (s : State) (v : Word), (mainUp s = true) ∧ (gateOk s 8 = true) ∧ (fld v 24 8 = 0xC5) ∧ (bit v 2 = true) ∧ (s.cus.run = 0))
    ∧ (∃ (s : State) (v : Word), (mainUp s = true) ∧ (gateOk s 8 = true) ∧ (fld v 24 8 ≠ 0xC5))
    ∧ (∃ (s : State) (v : Word), (mainUp s = true) ∧ (gateOk s 8 = true))
    ∧ (∃ (s : State) (v : Word), (mainUp s = true) ∧ (gateOk s 8 = false))
    ∧ (∃ (s : State), (mainUp s = true) ∧ (s.cus.run = 2) ∧ (engClocked s 6 = true) ∧ (s.tmp.trig = none))
    ∧ (∃ (s : State), (mainUp s = false ∨ s.cus.run ≠ 2 ∨ engClocked s 6 = false ∨ s.tmp.trig.isSome = true))
    ∧ (∃ (s : State) (a b : Bytes), (s.cus.reqOpen = false ∨ tickReached (reqExpires s) s.glb.tick = true))
    ∧ (∃ (s : State), (mainUp s = true) ∧ (s.glb.run = true) ∧ (s.cus.reqOpen = true) ∧ (tickReached (reqExpires s) s.glb.tick = true))
    ∧ (∃ (s : State), (mainUp s = true) ∧ (s.glb.run = true) ∧ (s.cus.latch.isSet = true) ∧ (tickReached (latchExpires s) s.glb.tick = true))
    ∧ (∃ (s : State), (s.cus.reqOpen = false ∨ tickReached (reqExpires s) s.glb.tick = false) ∧ (s.cus.latch.isSet = false ∨ tickReached (latchExpires s) s.glb.tick = false))
    ∧ (∃ (s : State), (s.cus.reqOpen = true) ∧ (voeRuns s 0 = true) ∧ (4096 ≤ s.cus.repTicks))
    ∧ (∃ (s : State), (s.cus.reqOpen = false ∨ voeRuns s 0 = false ∨ s.cus.repTicks < 4096))
    ∧ (∃ (s t : State) (m : Msg), (inboxTake s 0 0x11 = some (m, t)) ∧ (namesRequest t (wordOf (leAt (slice m.pay 0 5462) 4 4)) = true))
    ∧ (∃ (s t : State) (m : Msg), (inboxTake s 0 0x11 = some (m, t)) ∧ (namesRequest t (wordOf (leAt (slice m.pay 0 5462) 4 4)) = false))
    ∧ (∃ (s t : State) (m : Msg), (inboxTake s 0 0x12 = some (m, t)) ∧ (namesRequest t (wordOf (leAt m.pay 0 4)) = true))
    ∧ (∃ (s t : State) (m : Msg), (inboxTake s 0 0x12 = some (m, t)) ∧ (namesRequest t (wordOf (leAt m.pay 0 4)) = false))
    ∧ (∃ (s t : State) (m : Msg) (n : Fin 8), (inboxTake s 0 0x14 = some (m, t)) ∧ (t.cus.candLock = false))
    ∧ (∃ (s t : State) (m : Msg) (n : Fin 8), (inboxTake s 0 0x14 = some (m, t)) ∧ (t.cus.candLock = true)) :=
  ⟨⟨(ong), (0xC5000001), by decide⟩,
   ⟨(ong), (0xC5000002), by decide⟩,
   ⟨(ong), (0xC5000004), by decide⟩,
   ⟨(ong), (1), by decide⟩,
   ⟨(ong), (0xC5000000), by decide⟩,
   ⟨(up.setClk { up.clk with gate := 0 }), (1), by decide⟩,
   ⟨(ong.setCus { ong.cus with run := 2 }), by decide⟩,
   ⟨(ong), by decide⟩,
   ⟨(up), ([]), ([]), by decide⟩,
   ⟨(up.setCus { up.cus with reqOpen := true }), by decide⟩,
   ⟨(up.setCus { up.cus with latch := { isSet := true, op := 0x0A, used := true } }), by decide⟩,
   ⟨(up), by decide⟩,
   ⟨(ong.setCus { ong.cus with reqOpen := true, repTicks := 4096 }), by decide⟩,
   ⟨(ong), by decide⟩,
   ⟨(((ong.setVoe { ong.voe with inbox := [⟨0, 2, 0x11, [], ⟨0, 0⟩⟩] }).setCus { ong.cus with reqOpen := true, candLock := false })), (((ong.setVoe { ong.voe with inbox := [] }).setCus { ong.cus with reqOpen := true, candLock := false })), (⟨0, 2, 0x11, [], ⟨0, 0⟩⟩), by decide⟩,
   ⟨(((ong.setVoe { ong.voe with inbox := [⟨0, 2, 0x11, [], ⟨0, 0⟩⟩] }).setCus { ong.cus with reqOpen := false, candLock := false })), (((ong.setVoe { ong.voe with inbox := [] }).setCus { ong.cus with reqOpen := false, candLock := false })), (⟨0, 2, 0x11, [], ⟨0, 0⟩⟩), by decide⟩,
   ⟨(((ong.setVoe { ong.voe with inbox := [⟨0, 2, 0x12, [], ⟨0, 0⟩⟩] }).setCus { ong.cus with reqOpen := true, candLock := false })), (((ong.setVoe { ong.voe with inbox := [] }).setCus { ong.cus with reqOpen := true, candLock := false })), (⟨0, 2, 0x12, [], ⟨0, 0⟩⟩), by decide⟩,
   ⟨(((ong.setVoe { ong.voe with inbox := [⟨0, 2, 0x12, [], ⟨0, 0⟩⟩] }).setCus { ong.cus with reqOpen := false, candLock := false })), (((ong.setVoe { ong.voe with inbox := [] }).setCus { ong.cus with reqOpen := false, candLock := false })), (⟨0, 2, 0x12, [], ⟨0, 0⟩⟩), by decide⟩,
   ⟨(((ong.setVoe { ong.voe with inbox := [⟨0, 2, 0x14, [], ⟨0, 0⟩⟩] }).setCus { ong.cus with reqOpen := true, candLock := false })), (((ong.setVoe { ong.voe with inbox := [] }).setCus { ong.cus with reqOpen := true, candLock := false })), (⟨0, 2, 0x14, [], ⟨0, 0⟩⟩), (2), by decide⟩,
   ⟨(((ong.setVoe { ong.voe with inbox := [⟨0, 2, 0x14, [], ⟨0, 0⟩⟩] }).setCus { ong.cus with reqOpen := true, candLock := true })), (((ong.setVoe { ong.voe with inbox := [] }).setCus { ong.cus with reqOpen := true, candLock := true })), (⟨0, 2, 0x14, [], ⟨0, 0⟩⟩), (2), by decide⟩⟩

/-- Every hypothesis of CanControl is met, clause by clause. -/
theorem wit_CanControl :
    (∃ (s : State) (ch : Fin 2) (m : Fin 4), (mainUp s = true) ∧ (gateOk s (9 + ch.val) = true) ∧ (m ≠ 0) ∧ ((getCan s ch).mode = 0) ∧ (timingOk (getCan s ch).nbt (getCan s ch).dbt = true))
    ∧ (∃ (s : State) (ch : Fin 2) (m : Fin 4), (mainUp s = true) ∧ (gateOk s (9 + ch.val) = true) ∧ (m ≠ 0) ∧ ((getCan s ch).mode = 0) ∧ (timingOk (getCan s ch).nbt (getCan s ch).dbt = false))
    ∧ (∃ (s : State) (ch : Fin 2) (m : Fin 4), (mainUp s = true) ∧ (gateOk s (9 + ch.val) = true) ∧ (m ≠ 0) ∧ ((getCan s ch).mode ≠ 0))
    ∧ (∃ (s : State) (ch : Fin 2), (mainUp s = true) ∧ (gateOk s (9 + ch.val) = true) ∧ ((getCan s ch).onBus = none))
    ∧ (∃ (s : State) (ch : Fin 2), (mainUp s = true) ∧ (gateOk s (9 + ch.val) = true) ∧ ((getCan s ch).onBus.isSome = true))
    ∧ (∃ (s : State) (ch : Fin 2) (m : Byte), (mainUp s = true) ∧ (gateOk s (9 + ch.val) = true))
    ∧ (∃ (d : Bool) (x : CanCh) (m : Byte) (b : Fin 8), (m.getLsbD b = true) ∧ ((getTx x b).pend = false))
    ∧ (∃ (d : Bool) (x : CanCh) (m : Byte) (b : Fin 8), (m.getLsbD b = false ∨ (getTx x b).pend = true))
    ∧ (∃ (s : State) (ch : Fin 2) (m : Byte), (mainUp s = true) ∧ (gateOk s (9 + ch.val) = true))
    ∧ (∃ (x : CanCh) (m : Byte) (b : Fin 8), (m.getLsbD b = true) ∧ ((getTx x b).pend = true) ∧ (x.onBus ≠ some b.val))
    ∧ (∃ (s : State) (ch : Fin 2), (mainUp s = true) ∧ (gateOk s (9 + ch.val) = true) ∧ ((getCan s ch).state = 2) ∧ ((getCan s ch).borAuto = false))
    ∧ (∃ (s : State) (ch : Fin 2), (mainUp s = true) ∧ (gateOk s (9 + ch.val) = true))
    ∧ (∃ (s : State) (ch : Fin 2), ((getCan s ch).mode ≠ 0) ∧ ((getCan s ch).synced = false) ∧ (canRuns s ch = true) ∧ (canClocked s = true) ∧ ((getCan s ch).parked = true))
    ∧ (∃ (s : State) (ch : Fin 2), ((getCan s ch).mode ≠ 0) ∧ ((getCan s ch).synced = false) ∧ (canRuns s ch = true) ∧ (canClocked s = true) ∧ ((getCan s ch).parked = false))
    ∧ (∃ (s : State) (ch : Fin 2) (m : Fin 4) (b : Byte), (mainUp s = false))
    ∧ (∃ (x : CanCh) (m : Byte) (b : Fin 8), (m.getLsbD b = true) ∧ ((getTx x b).pend = true) ∧ (x.onBus = some b.val))
    ∧ (∃ (x : CanCh) (m : Byte) (b : Fin 8), (m.getLsbD b = false ∨ (getTx x b).pend = false))
    ∧ (∃ (s : State) (ch : Fin 2), (mainUp s = true) ∧ (gateOk s (9 + ch.val) = true) ∧ ((getCan s ch).state ≠ 2 ∨ (getCan s ch).borAuto = true))
    ∧ (∃ (s : State) (ch : Fin 2) (m : Fin 4) (b : Byte), (mainUp s = true) ∧ (gateOk s (9 + ch.val) = false))
    ∧ (∃ (s : State) (ch : Fin 2), ((getCan s ch).mode = 0 ∨ (getCan s ch).synced = true ∨ canRuns s ch = false ∨ canClocked s = false))
    ∧ (∃ (s : State) (ch : Fin 2) (b : Nat), ((getCan s ch).onBus = none) ∧ (canRuns s ch = true) ∧ (canStart s (getCan s ch) = true) ∧ (offered (decide (s.mode.mode = .dim)) (getCan s ch) = some b))
    ∧ (∃ (s : State) (ch : Fin 2), ((getCan s ch).onBus.isSome = true ∨ canRuns s ch = false ∨ canStart s (getCan s ch) = false ∨ offered (decide (s.mode.mode = .dim)) (getCan s ch) = none))
    ∧ (∃ (d : Bool) (x : CanCh) (b : Fin 8), (offered d x = some b.val))
    ∧ (∃ (d : Bool) (x : CanCh) (b k : Fin 8), (offered d x = some b.val) ∧ ((getTx x k).pend = true) ∧ ((d && (getTx x k).late) = false)) :=
  ⟨⟨(ong), (0), (1), by decide⟩,
   ⟨(ong.setCan0 { ong.can0 with nbt := 0 }), (0), (1), by decide⟩,
   ⟨(ong.setCan0 { ong.can0 with mode := 1 }), (0), (2), by decide⟩,
   ⟨(ong.setCan0 { ong.can0 with mode := 1 }), (0), by decide⟩,
   ⟨(ong.setCan0 { ong.can0 with mode := 1, onBus := some 3 }), (0), by decide⟩,
   ⟨(ong), (0), (1), by decide⟩,
   ⟨(true), ({}), (1), (0), by decide⟩,
   ⟨(false), ({}), (0), (0), by decide⟩,
   ⟨(ong), (0), (1), by decide⟩,
   ⟨({ tx := [(0, { pend := true })] }), (1), (0), by decide⟩,
   ⟨(ong.setCan0 { ong.can0 with state := 2, borAuto := false }), (0), by decide⟩,
   ⟨(ong), (0), by decide⟩,
   ⟨((ong.setClk { ong.clk with lockB := true }).setCan0 { (ong.setClk { ong.clk with lockB := true }).can0 with mode := 1, parked := true }), (0), by decide⟩,
   ⟨((ong.setClk { ong.clk with lockB := true }).setCan0 { (ong.setClk { ong.clk with lockB := true }).can0 with mode := 1 }), (0), by decide⟩,
   ⟨(off0), (0), (1), (0), by decide⟩,
   ⟨({ tx := [(0, { pend := true })], onBus := some 0 }), (1), (0), by decide⟩,
   ⟨({}), (1), (0), by decide⟩,
   ⟨(ong), (0), by decide⟩,
   ⟨(up.setClk { up.clk with gate := 0 }), (0), (1), (0), by decide⟩,
   ⟨(up), (0), by decide⟩,
   ⟨(ong.setCan0 { ong.can0 with mode := 1, synced := true, tx := [(0, { pend := true })] }), (0), (0), by decide⟩,
   ⟨(up), (0), by decide⟩,
   ⟨(true), ({ tx := [(0, { pend := true, late := true }), (2, { pend := true })] }), (2), by decide⟩,
   ⟨(true), ({ tx := [(0, { pend := true, late := true }), (2, { pend := true }), (3, { pend := true })] }), (2), (3), by decide⟩⟩

/-- Every hypothesis of CanFrames is met, clause by clause. -/
theorem wit_CanFrames :
    (∃ (s : State) (ch : Fin 2) (f : CanFrame) (n : Nat) (c : CanCh), (getCan s ch = c) ∧ (c.mode ≠ 0) ∧ (c.mode ≠ 3) ∧ (c.synced = true) ∧ (c.state ≠ 2) ∧ (canRuns s ch = true) ∧ (c.onBus = none))
    ∧ (∃ (x : CanCh) (e : RxEnt), (x.fifo.length < 16))
    ∧ (∃ (x : CanCh) (e : RxEnt), (16 ≤ x.fifo.length))
    ∧ (∃ (s : State) (ch : Fin 2) (e : RxEnt), (e.frame.fd = true) ∧ (e.frame.ext = true) ∧ (fltMatches (getCan s ch) e.frame.id = true) ∧ (fltActiveCan s ch = false) ∧ (s.flt.canHeld = []))
    ∧ (∃ (s : State) (ch : Fin 2) (e : RxEnt), ((e.frame.fd && e.frame.ext && fltMatches (getCan s ch) e.frame.id) = false))
    ∧ (∃ (s : State) (ch : Fin 2), ((getCan s ch).recv ≤ 127))
    ∧ (∃ (s : State) (ch : Fin 2), (127 < (getCan s ch).recv))
    ∧ (∃ (s : State) (ch : Fin 2) (b n : Nat), ((getCan s ch).onBus = some b))
    ∧ (∃ (s : State) (ch : Fin 2) (b n : Nat), ((getCan s ch).onBus = some b))
    ∧ (∃ (s : State) (ch : Fin 2) (b n k : Nat), ((getCan s ch).onBus = some b))
    ∧ (∃ (s : State) (ch : Fin 2) (b n : Nat), ((getCan s ch).onBus = some b))
    ∧ (∃ (s : State) (ch : Fin 2) (b : Nat) (x : TxBuf), (getTx (getCan s ch) b = x) ∧ (idKind x.frame.id ≠ 0) ∧ ((getCan s ch).mode ≠ 3))
    ∧ (∃ (s : State) (ch : Fin 2) (b : Nat), ((getTx (getCan s ch) b).abortReq = false))
    ∧ (∃ (s : State) (ch : Fin 2) (b : Nat), (txLimit (getCan s ch) { getTx (getCan s ch) b with tries := (getTx (getCan s ch) b).tries + 1 } = true))
    ∧ (∃ (s : State) (ch : Fin 2), ((getCan s ch).state = 1))
    ∧ (∃ (s : State) (ch : Fin 2), ((getCan s ch).state ≠ 1))
    ∧ (∃ (s : State) (ch : Fin 2) (n : Nat), ((getCan s ch).tec + 8 * n ≤ 255))
    ∧ (∃ (s : State) (ch : Fin 2) (n : Nat), (255 < (getCan s ch).tec + 8 * n))
    ∧ (∃ (x : CanCh), (x.state ≠ 2))
    ∧ (∃ (s : State) (ch : Fin 2) (b : Nat), (txLimit (getCan s ch) { getTx (getCan s ch) b with tries := (getTx (getCan s ch) b).tries + 1 } = true) ∧ ((getTx (getCan s ch) b).otherErr = false))
    ∧ (∃ (s : State) (ch : Fin 2), ((getCan s ch).state = 2) ∧ ((getCan s ch).borRun = true) ∧ (canRuns s ch = true) ∧ ((getCan s ch).mode ≠ 0) ∧ ((getCan s ch).parked = false))
    ∧ (∃ (s : State) (ch : Fin 2) (n : Nat) (c : CanCh), (getCan s ch = c) ∧ (c.mode ≠ 0) ∧ (c.mode ≠ 3) ∧ (c.synced = true) ∧ (c.state ≠ 2) ∧ (canRuns s ch = true))
    ∧ (∃ (s : State) (ch : Fin 2) (f : CanFrame) (n b : Nat) (c : CanCh), (getCan s ch = c) ∧ (c.mode ≠ 0) ∧ (c.mode ≠ 3) ∧ (c.synced = true) ∧ (c.state ≠ 2) ∧ (canRuns s ch = true) ∧ (c.onBus = some b))
    ∧ (∃ (s : State) (ch : Fin 2) (f : CanFrame) (n : Nat), ((getCan s ch).mode = 0 ∨ (getCan s ch).mode = 3 ∨ (getCan s ch).synced = false ∨ (getCan s ch).state = 2 ∨ canRuns s ch = false))
    ∧ (∃ (s : State) (ch : Fin 2) (e : TxEnd) (n : Nat), ((getCan s ch).onBus = none))
    ∧ (∃ (s : State) (ch : Fin 2), ((getCan s ch).state ≠ 2 ∨ (getCan s ch).borRun = false ∨ canRuns s ch = false ∨ (getCan s ch).mode = 0 ∨ (getCan s ch).parked = true))
    ∧ (∃ (s : State) (ch : Fin 2) (b : Nat), ((getTx (getCan s ch) b).abortReq = true))
    ∧ (∃ (s : State) (ch : Fin 2) (b : Nat) (o : Bool), (txLimit (getCan s ch) { getTx (getCan s ch) b with tries := (getTx (getCan s ch) b).tries + 1 } = false) ∧ ((getTx (getCan s ch) b).abortReq = false))
    ∧ (∃ (s : State) (ch : Fin 2) (b : Nat) (o : Bool), (txLimit (getCan s ch) { getTx (getCan s ch) b with tries := (getTx (getCan s ch) b).tries + 1 } = false) ∧ ((getTx (getCan s ch) b).abortReq = true))
    ∧ (∃ (s : State) (ch : Fin 2) (b : Nat), (txLimit (getCan s ch) { getTx (getCan s ch) b with tries := (getTx (getCan s ch) b).tries + 1 } = true) ∧ ((getTx (getCan s ch) b).otherErr = true))
    ∧ (∃ (s : State) (ch : Fin 2), (voeRuns s ch = true))
    ∧ (∃ (s : State) (ch : Fin 2), (voeRuns s ch = false))
    ∧ (∃ (s : State) (n : Nat), (n ≤ s.glb.sub))
    ∧ (∃ (s : State) (ch : Fin 2) (b : Nat) (x : TxBuf), (getTx (getCan s ch) b = x) ∧ (idKind x.frame.id ≠ 0) ∧ ((getCan s ch).mode = 3)) :=
  ⟨⟨(ong.setCan0 { ong.can0 with mode := 1, synced := true }), (0), ({ id := 0x12345678, ext := true, fd := true, brs := true, dlc := 1, data := [5] }), (3), ({ ong.can0 with mode := 1, synced := true }), by decide⟩,
   ⟨({}), (⟨{ id := 0x12345678, ext := true, fd := true, brs := true, dlc := 1, data := [5] }, ⟨1, 2⟩⟩), by decide⟩,
   ⟨({ fifo := List.replicate 16 ⟨{ id := 0x12345678, ext := true, fd := true, brs := true, dlc := 1, data := [5] }, ⟨1, 2⟩⟩ }), (⟨{ id := 0x12345678, ext := true, fd := true, brs := true, dlc := 1, data := [5] }, ⟨1, 2⟩⟩), by decide⟩,
   ⟨(ong.setCan0 { ong.can0 with fltId := [(0, 0x92345678)], fltMask := [(0, 0x1FFFFFFF)] }), (0), (⟨{ id := 0x12345678, ext := true, fd := true, brs := true, dlc := 1, data := [5] }, ⟨1, 2⟩⟩), by decide⟩,
   ⟨(ong), (0), (⟨{ id := 0x12345678, ext := true, fd := true, brs := true, dlc := 1, data := [5] }, ⟨1, 2⟩⟩), by decide⟩,
   ⟨(up), (0), by decide⟩,
   ⟨(ong.setCan0 { ong.can0 with recv := 200 }), (0), by decide⟩,
   ⟨(ong.setCan0 { ong.can0 with mode := 1, synced := true, onBus := some 0 }), (0), (0), (2), by decide⟩,
   ⟨(ong.setCan0 { ong.can0 with mode := 1, synced := true, onBus := some 0 }), (0), (0), (2), by decide⟩,
   ⟨(ong.setCan0 { ong.can0 with mode := 1, synced := true, onBus := some 0 }), (0), (0), (2), (1), by decide⟩,
   ⟨(ong.setCan0 { ong.can0 with mode := 1, synced := true, onBus := some 0 }), (0), (0), (2), by decide⟩,
   ⟨(ong.setCan0 { ong.can0 with tx := [(0, { frame := { id := 0x05000000, ext := true, fd := true, brs := true, dlc := 0, data := [] }, pend := true })], tec := 3 }), (0), (0), ({ frame := { id := 0x05000000, ext := true, fd := true, brs := true, dlc := 0, data := [] }, pend := true }), by decide⟩,
   ⟨(up), (0), (0), by decide⟩,
   ⟨(ong.setCan0 { ong.can0 with tx := [(0, { tries := 15 })] }), (0), (0), by decide⟩,
   ⟨(ong.setCan0 { ong.can0 with state := 1, tec := 128 }), (0), by decide⟩,
   ⟨(up), (0), by decide⟩,
   ⟨(up), (0), (1), by decide⟩,
   ⟨(ong.setCan0 { ong.can0 with state := 1, tec := 248 }), (0), (1), by decide⟩,
   ⟨({}), by decide⟩,
   ⟨(ong.setCan0 { ong.can0 with tx := [(0, { tries := 15 })] }), (0), (0), by decide⟩,
   ⟨(ong.setCan0 { ong.can0 with mode := 1, state := 2, borRun := true }), (0), by decide⟩,
   ⟨(ong.setCan0 { ong.can0 with mode := 1, synced := true }), (0), (8), ({ ong.can0 with mode := 1, synced := true }), by decide⟩,
   ⟨(ong.setCan0 { ong.can0 with mode := 1, synced := true, onBus := some 2 }), (0), ({ id := 0x12345678, ext := true, fd := true, brs := true, dlc := 1, data := [5] }), (3), (2), ({ ong.can0 with mode := 1, synced := true, onBus := some 2 }), by decide⟩,
   ⟨(up), (0), ({ id := 0x12345678, ext := true, fd := true, brs := true, dlc := 1, data := [5] }), (3), by decide⟩,
   ⟨(up), (0), (.ok), (3), by decide⟩,
   ⟨(up), (0), by decide⟩,
   ⟨(ong.setCan0 { ong.can0 with tx := [(0, { pend := true, abortReq := true })] }), (0), (0), by decide⟩,
   ⟨(ong.setCan0 { ong.can0 with tx := [(0, { tries := 1 })] }), (0), (0), (false), by decide⟩,
   ⟨(ong.setCan0 { ong.can0 with tx := [(0, { tries := 1, abortReq := true })] }), (0), (0), (false), by decide⟩,
   ⟨(ong.setCan0 { ong.can0 with tx := [(0, { tries := 15, otherErr := true })] }), (0), (0), by decide⟩,
   ⟨(ong.setCan0 { ong.can0 with mode := 1 }), (0), by decide⟩,
   ⟨(up.setMode { up.mode with mode := .dim }), (0), by decide⟩,
   ⟨(up), (0), by decide⟩,
   ⟨(ong.setCan0 { ong.can0 with mode := 3, tx := [(0, { frame := { id := 0x05000000, ext := true, fd := true, brs := true, dlc := 0, data := [] }, pend := true })], tec := 3 }), (0), (0), ({ frame := { id := 0x05000000, ext := true, fd := true, brs := true, dlc := 0, data := [] }, pend := true }), by decide⟩⟩

/-- Every hypothesis of VoethFrames is met, clause by clause. -/
theorem wit_VoethFrames :
    (∃ (s : State) (ch : Fin 2) (e : RxEnt) (l : List RxEnt), (voeRuns s ch = true) ∧ ((getCan s ch).fifo = e :: l) ∧ (voeFor s ch e.frame = true))
    ∧ (∃ (s : State) (ch : Fin 2) (f : CanFrame), (3 ≤ idKind f.id ∨ 5 ≤ idPri f.id ∨ (idDst f.id ≠ ownNode s ch ∧ idDst f.id ≠ 0xFF)))
    ∧ (∃ (s t : State) (ch : Fin 2) (e : RxEnt) (p : Peer), (voeTake s ch 0 = (some e, t)) ∧ (getPeer t ch (idSrc e.frame.id) = p) ∧ (idDst e.frame.id ≠ 0xFF) ∧ (ch = 0 ∨ tagOk t (session t) e.frame = true) ∧ (p.gotHello = true) ∧ ((leAt e.frame.data 0 2 + 65536 - p.exp) % 65536 = 0))
    ∧ (∃ (s t : State) (ch : Fin 2) (e : RxEnt) (p : Peer), (voeTake s ch 0 = (some e, t)) ∧ (getPeer t ch (idSrc e.frame.id) = p) ∧ (idDst e.frame.id ≠ 0xFF) ∧ (ch = 0 ∨ tagOk t (session t) e.frame = true) ∧ (p.gotHello = true) ∧ (65504 ≤ (leAt e.frame.data 0 2 + 65536 - p.exp) % 65536 ∨ (1 ≤ (leAt e.frame.data 0 2 + 65536 - p.exp) % 65536 ∧ (leAt e.frame.data 0 2 + 65536 - p.exp) % 65536 ≤ 7)))
    ∧ (∃ (s t : State) (ch : Fin 2) (e : RxEnt) (p : Peer), (voeTake s ch 0 = (some e, t)) ∧ (getPeer t ch (idSrc e.frame.id) = p) ∧ (idDst e.frame.id ≠ 0xFF) ∧ (ch = 0 ∨ tagOk t (session t) e.frame = true) ∧ (p.gotHello = false ∨ (8 ≤ (leAt e.frame.data 0 2 + 65536 - p.exp) % 65536 ∧ (leAt e.frame.data 0 2 + 65536 - p.exp) % 65536 ≤ 65503)))
    ∧ (∃ (s t : State) (e : RxEnt), (voeTake s 1 0 = (some e, t)) ∧ (idDst e.frame.id ≠ 0xFF) ∧ (tagOk t (session t) e.frame = false))
    ∧ (∃ (s : State) (src : Nat) (e : RxEnt), (leAt e.frame.data 4 2 = 0) ∧ (leAt e.frame.data 6 2 = 1))
    ∧ (∃ (s t u : State) (ch : Fin 2) (e : RxEnt) (p : Peer), (voeTake s ch 1 = (some e, t)) ∧ (ackHello t ch (idSrc e.frame.id) (leAt e.frame.data 0 2) = u) ∧ (getPeer u ch (idSrc e.frame.id) = p) ∧ ((p.unacked.filter fun v => (leAt e.frame.data 0 2 + 65536 - v.1) % 65536 = 0 || 32768 ≤ (leAt e.frame.data 0 2 + 65536 - v.1) % 65536).length < p.unacked.length))
    ∧ (∃ (s t u : State) (ch : Fin 2) (e : RxEnt), (voeTake s ch 1 = (some e, t)) ∧ (ackHello t ch (idSrc e.frame.id) (leAt e.frame.data 0 2) = u) ∧ ((getPeer u ch (idSrc e.frame.id)).unacked = []))
    ∧ (∃ (s : State) (ch src next : Nat) (p : Peer), (getPeer s ch src = p) ∧ (p.ownAcked = false) ∧ (p.ownNonce ≠ []) ∧ (p.ownStart = next))
    ∧ (∃ (s : State) (ch node : Nat) (p : Peer), (getPeer s ch node = p) ∧ (p.gotHello = true) ∧ (p.ownAcked = true) ∧ (p.isOpen = false))
    ∧ (∃ (s t u v : State) (ch : Fin 2) (e : RxEnt), (voeTake s ch 2 = (some e, t)) ∧ (ch = 0 ∨ tagOk t (List.replicate 16 0) e.frame = true) ∧ ((getPeer t ch (idSrc e.frame.id)).isOpen = true) ∧ (sessionEnd t ch (idSrc e.frame.id) = v) ∧ (setPeer v ch (idSrc e.frame.id) { getPeer v ch (idSrc e.frame.id) with gotHello := true, lost := false, exp := leAt e.frame.data 0 2, peerNonce := slice e.frame.data 4 8, part := none } = u))
    ∧ (∃ (s t u : State) (ch : Fin 2) (e : RxEnt) (p : Peer), (voeTake s ch 2 = (some e, t)) ∧ (getPeer t ch (idSrc e.frame.id) = p) ∧ (ch = 0 ∨ tagOk t (List.replicate 16 0) e.frame = true) ∧ (p.isOpen = false) ∧ (p.lost = false) ∧ (p.ownNonce ≠ [] ∨ (ch = 0 ∧ (getPeer t 0 0xFF).ownNonce ≠ [])) ∧ (setPeer t ch (idSrc e.frame.id) { p with gotHello := true, lost := false, exp := leAt e.frame.data 0 2, peerNonce := slice e.frame.data 4 8, part := none } = u))
    ∧ (∃ (s t : State) (e : RxEnt), (voeTake s 1 2 = (some e, t)) ∧ (tagOk t (List.replicate 16 0) e.frame = false))
    ∧ (∃ (s : State) (ch : Fin 2) (n : Byte) (p : Peer), (voeRuns s ch = true) ∧ (linkIdle s ch = false) ∧ (getPeer s ch n.toNat = p) ∧ (p.isOpen = true) ∧ (p.unacked ≠ []) ∧ (rtoTicks s ≤ p.rto) ∧ (p.rounds < 5))
    ∧ (∃ (s : State) (ch : Fin 2) (n : Byte) (p : Peer), (voeRuns s ch = true) ∧ (linkIdle s ch = false) ∧ (getPeer s ch n.toNat = p) ∧ (p.isOpen = true) ∧ (p.unacked ≠ []) ∧ (rtoTicks s ≤ p.rto) ∧ (5 ≤ p.rounds))
    ∧ (∃ (s : State) (ch : Fin 2), (voeRuns s ch = true) ∧ (4096 ≤ s.voe.helloAge.getD ch 0))
    ∧ (∃ (s t u : State) (ch : Fin 2) (e : RxEnt) (p : Peer), (voeTake s ch 2 = (some e, t)) ∧ (getPeer t ch (idSrc e.frame.id) = p) ∧ (ch = 0 ∨ tagOk t (List.replicate 16 0) e.frame = true) ∧ (p.isOpen = false) ∧ (p.lost = true ∨ (p.ownNonce = [] ∧ (ch = 1 ∨ (getPeer t 0 0xFF).ownNonce = []))) ∧ (setPeer t ch (idSrc e.frame.id) { p with gotHello := true, lost := false, exp := leAt e.frame.data 0 2, peerNonce := slice e.frame.data 4 8, part := none } = u))
    ∧ (∃ (s : State) (ch : Fin 2) (e : RxEnt) (l : List RxEnt) (k : Nat), ((getCan s ch).fifo = e :: l) ∧ (voeFor s ch e.frame = false) ∧ (voeRuns s ch = true))
    ∧ (∃ (s : State) (ch : Fin 2) (e : RxEnt) (l : List RxEnt) (k : Nat), ((getCan s ch).fifo = e :: l) ∧ (voeFor s ch e.frame = true) ∧ (voeRuns s ch = true) ∧ (idKind e.frame.id ≠ k))
    ∧ (∃ (s : State) (ch : Fin 2) (k : Nat), ((getCan s ch).fifo = []) ∧ (voeRuns s ch = true))
    ∧ (∃ (s : State) (ch : Fin 2) (k : Nat), (voeRuns s ch = false))
    ∧ (∃ (s t : State) (ch : Fin 2), (voeTake s ch 0 = (none, t)))
    ∧ (∃ (s t : State) (ch : Fin 2), (voeTake s ch 1 = (none, t)))
    ∧ (∃ (s t : State) (ch : Fin 2), (voeTake s ch 2 = (none, t)))
    ∧ (∃ (s t : State) (ch : Fin 2) (e : RxEnt), (voeTake s ch 0 = (some e, t)) ∧ (idDst e.frame.id = 0xFF))
    ∧ (∃ (s t u : State) (ch : Fin 2) (e : RxEnt) (p : Peer), (voeTake s ch 1 = (some e, t)) ∧ (ackHello t ch (idSrc e.frame.id) (leAt e.frame.data 0 2) = u) ∧ (getPeer u ch (idSrc e.frame.id) = p) ∧ ((p.unacked.filter fun v => (leAt e.frame.data 0 2 + 65536 - v.1) % 65536 = 0 || 32768 ≤ (leAt e.frame.data 0 2 + 65536 - v.1) % 65536).length = p.unacked.length))
    ∧ (∃ (s : State) (src next : Nat) (p b : Peer), (getPeer s 0 src = p) ∧ (getPeer s 0 0xFF = b) ∧ (p.ownAcked = false) ∧ (p.ownNonce = []) ∧ (b.ownNonce ≠ []) ∧ (next = b.ownStart))
    ∧ (∃ (s : State) (ch src next : Nat) (p : Peer), (getPeer s ch src = p) ∧ (p.ownAcked = true ∨ (p.ownNonce ≠ [] ∧ next ≠ p.ownStart) ∨ (p.ownNonce = [] ∧ (ch ≠ 0 ∨ (getPeer s 0 0xFF).ownNonce = [] ∨ next ≠ (getPeer s 0 0xFF).ownStart))))
    ∧ (∃ (s : State) (ch node : Nat) (p : Peer), (getPeer s ch node = p) ∧ (p.gotHello = false ∨ p.ownAcked = false ∨ p.isOpen = true))
    ∧ (∃ (s : State) (ch : Fin 2) (n : Byte) (p : Peer), (getPeer s ch n.toNat = p) ∧ (voeRuns s ch = false ∨ linkIdle s ch = true ∨ p.isOpen = false ∨ p.unacked = [] ∨ p.rto < rtoTicks s))
    ∧ (∃ (s : State) (ch : Fin 2), (voeRuns s ch = false ∨ s.voe.helloAge.getD ch 0 < 4096))
    ∧ (∃ (s : State) (ch node : Nat), (voeRuns s ch = false ∨ linkIdle s ch = true))
    ∧ (∃ (s : State) (src : Nat) (e : RxEnt), (leAt e.frame.data 4 2 = 0) ∧ (leAt e.frame.data 6 2 = 1)) :=
  ⟨⟨(((ong.setCan0 { ong.can0 with fifo := [⟨⟨0xc012000, true, true, true, 1, [0], false⟩, ⟨1, 2⟩⟩] }).setVoe { ong.voe with peers := tput {} [] 32 {} })), (0), (⟨⟨0xc012000, true, true, true, 1, [0], false⟩, ⟨1, 2⟩⟩), ([]), by decide⟩,
   ⟨(ong), (0), (⟨0x14012000, true, true, true, 1, [0], false⟩), by decide⟩,
   ⟨(((ong.setCan0 { ong.can0 with fifo := [⟨⟨0xc012000, true, true, true, 8, [0, 0, 17, 0, 0, 0, 1, 0], false⟩, ⟨1, 2⟩⟩] }).setVoe { ong.voe with peers := tput {} [] 32 { gotHello := true } })), (((ong.setCan0 { ong.can0 with fifo := [] }).setVoe { ong.voe with peers := tput {} [] 32 { gotHello := true } })), (0), (⟨⟨0xc012000, true, true, true, 8, [0, 0, 17, 0, 0, 0, 1, 0], false⟩, ⟨1, 2⟩⟩), ({ gotHello := true }), by decide⟩,
   ⟨(((ong.setCan0 { ong.can0 with fifo := [⟨⟨0xc012000, true, true, true, 8, [7, 0, 17, 0, 0, 0, 1, 0], false⟩, ⟨1, 2⟩⟩] }).setVoe { ong.voe with peers := tput {} [] 32 { gotHello := true } })), (((ong.setCan0 { ong.can0 with fifo := [] }).setVoe { ong.voe with peers := tput {} [] 32 { gotHello := true } })), (0), (⟨⟨0xc012000, true, true, true, 8, [7, 0, 17, 0, 0, 0, 1, 0], false⟩, ⟨1, 2⟩⟩), ({ gotHello := true }), by decide⟩,
   ⟨(((ong.setCan0 { ong.can0 with fifo := [⟨⟨0xc012000, true, true, true, 8, [8, 0, 17, 0, 0, 0, 1, 0], false⟩, ⟨1, 2⟩⟩] }).setVoe { ong.voe with peers := tput {} [] 32 { gotHello := true } })), (((ong.setCan0 { ong.can0 with fifo := [] }).setVoe { ong.voe with peers := tput {} [] 32 { gotHello := true } })), (0), (⟨⟨0xc012000, true, true, true, 8, [8, 0, 17, 0, 0, 0, 1, 0], false⟩, ⟨1, 2⟩⟩), ({ gotHello := true }), by decide⟩,
   ⟨((ong.setCan1 { ong.can1 with fifo := [⟨⟨0x8010200, true, true, true, 1, [0], false⟩, ⟨1, 2⟩⟩] })), (ong), (⟨⟨0x8010200, true, true, true, 1, [0], false⟩, ⟨1, 2⟩⟩), by decide⟩,
   ⟨(ong), (0x20), (⟨⟨0xc012000, true, true, true, 8, [0, 0, 17, 0, 0, 0, 1, 0], false⟩, ⟨1, 2⟩⟩), by decide⟩,
   ⟨(((ong.setCan0 { ong.can0 with fifo := [⟨⟨0x5012000, true, true, true, 4, [1, 0, 0, 0], false⟩, ⟨1, 2⟩⟩] }).setVoe { ong.voe with peers := tput {} [] 32 { isOpen := true, unacked := [(0, [])] } })), (((ong.setCan0 { ong.can0 with fifo := [] }).setVoe { ong.voe with peers := tput {} [] 32 { isOpen := true, unacked := [(0, [])] } })), (((ong.setCan0 { ong.can0 with fifo := [] }).setVoe { ong.voe with peers := tput {} [] 32 { isOpen := true, unacked := [(0, [])] } })), (0), (⟨⟨0x5012000, true, true, true, 4, [1, 0, 0, 0], false⟩, ⟨1, 2⟩⟩), ({ isOpen := true, unacked := [(0, [])] }), by decide⟩,
   ⟨(((ong.setCan0 { ong.can0 with fifo := [⟨⟨0x5012000, true, true, true, 4, [1, 0, 0, 0], false⟩, ⟨1, 2⟩⟩] }).setVoe { ong.voe with peers := tput {} [] 32 {} })), (((ong.setCan0 { ong.can0 with fifo := [] }).setVoe { ong.voe with peers := tput {} [] 32 {} })), (((ong.setCan0 { ong.can0 with fifo := [] }).setVoe { ong.voe with peers := tput {} [] 32 {} })), (0), (⟨⟨0x5012000, true, true, true, 4, [1, 0, 0, 0], false⟩, ⟨1, 2⟩⟩), by decide⟩,
   ⟨(((ong.setCan0 { ong.can0 with fifo := [] }).setVoe { ong.voe with peers := tput {} [] 32 { ownNonce := [1], ownStart := 5 } })), (0), (32), (5), ({ ownNonce := [1], ownStart := 5 }), by decide⟩,
   ⟨(((ong.setCan0 { ong.can0 with fifo := [] }).setVoe { ong.voe with peers := tput {} [] 32 { gotHello := true, ownAcked := true } })), (0), (32), ({ gotHello := true, ownAcked := true }), by decide⟩,
   ⟨(((ong.setCan0 { ong.can0 with fifo := [⟨⟨0x6012000, true, true, true, 6, [5, 0, 0, 0, 1, 2], false⟩, ⟨1, 2⟩⟩] }).setVoe { ong.voe with peers := tput {} [] 32 { isOpen := true } })), (((ong.setCan0 { ong.can0 with fifo := [] }).setVoe { ong.voe with peers := tput {} [] 32 { isOpen := true } })), (((ong.setCan0 { ong.can0 with fifo := [] }).setVoe { ong.voe with peers := tput {} [] 32 { gotHello := true, exp := 5, peerNonce := slice [1, 2] 0 8 } })), (((ong.setCan0 { ong.can0 with fifo := [] }).setVoe { ong.voe with peers := tput {} [] 32 {} })), (0), (⟨⟨0x6012000, true, true, true, 6, [5, 0, 0, 0, 1, 2], false⟩, ⟨1, 2⟩⟩), by decide⟩,
   ⟨(((ong.setCan0 { ong.can0 with fifo := [⟨⟨0x6012000, true, true, true, 6, [5, 0, 0, 0, 1, 2], false⟩, ⟨1, 2⟩⟩] }).setVoe { ong.voe with peers := tput {} [] 32 { ownNonce := [1] } })), (((ong.setCan0 { ong.can0 with fifo := [] }).setVoe { ong.voe with peers := tput {} [] 32 { ownNonce := [1] } })), (((ong.setCan0 { ong.can0 with fifo := [] }).setVoe { ong.voe with peers := tput {} [] 32 { ownNonce := [1], gotHello := true, exp := 5, peerNonce := slice [1, 2] 0 8 } })), (0), (⟨⟨0x6012000, true, true, true, 6, [5, 0, 0, 0, 1, 2], false⟩, ⟨1, 2⟩⟩), ({ ownNonce := [1] }), by decide⟩,
   ⟨((ong.setCan1 { ong.can1 with fifo := [⟨⟨0x6010200, true, true, true, 1, [0], false⟩, ⟨1, 2⟩⟩] })), (ong), (⟨⟨0x6010200, true, true, true, 1, [0], false⟩, ⟨1, 2⟩⟩), by decide⟩,
   ⟨(((ong.setCan0 { ong.can0 with fifo := [] }).setVoe { ong.voe with peers := tput {} [] 32 { isOpen := true, unacked := [(0, [])], rto := 20 } })), (0), (32), ({ isOpen := true, unacked := [(0, [])], rto := 20 }), by decide⟩,
   ⟨(((ong.setCan0 { ong.can0 with fifo := [] }).setVoe { ong.voe with peers := tput {} [] 32 { isOpen := true, unacked := [(0, [])], rto := 20, rounds := 5 } })), (0), (32), ({ isOpen := true, unacked := [(0, [])], rto := 20, rounds := 5 }), by decide⟩,
   ⟨(ong.setVoe { ong.voe with helloAge := [4096, 0] }), (0), by decide⟩,
   ⟨(((ong.setCan0 { ong.can0 with fifo := [⟨⟨0x6012000, true, true, true, 6, [5, 0, 0, 0, 1, 2], false⟩, ⟨1, 2⟩⟩] }).setVoe { ong.voe with peers := tput {} [] 32 { lost := true } })), (((ong.setCan0 { ong.can0 with fifo := [] }).setVoe { ong.voe with peers := tput {} [] 32 { lost := true } })), (((ong.setCan0 { ong.can0 with fifo := [] }).setVoe { ong.voe with peers := tput {} [] 32 { gotHello := true, exp := 5, peerNonce := slice [1, 2] 0 8 } })), (0), (⟨⟨0x6012000, true, true, true, 6, [5, 0, 0, 0, 1, 2], false⟩, ⟨1, 2⟩⟩), ({ lost := true }), by decide⟩,
   ⟨(ong.setCan0 { ong.can0 with fifo := [⟨⟨0x14012000, true, true, true, 1, [0], false⟩, ⟨1, 2⟩⟩] }), (0), (⟨⟨0x14012000, true, true, true, 1, [0], false⟩, ⟨1, 2⟩⟩), ([]), (0), by decide⟩,
   ⟨(ong.setCan0 { ong.can0 with fifo := [⟨⟨0xc012000, true, true, true, 1, [0], false⟩, ⟨1, 2⟩⟩] }), (0), (⟨⟨0xc012000, true, true, true, 1, [0], false⟩, ⟨1, 2⟩⟩), ([]), (1), by decide⟩,
   ⟨(ong), (0), (1), by decide⟩,
   ⟨(off0), (0), (1), by decide⟩,
   ⟨(ong), (ong), (0), by decide⟩,
   ⟨(ong), (ong), (0), by decide⟩,
   ⟨(ong), (ong), (0), by decide⟩,
   ⟨(ong.setCan0 { ong.can0 with fifo := [⟨⟨0x8ff2000, true, true, true, 1, [0], false⟩, ⟨1, 2⟩⟩] }), (ong), (0), (⟨⟨0x8ff2000, true, true, true, 1, [0], false⟩, ⟨1, 2⟩⟩), by decide⟩,
   ⟨(((ong.setCan0 { ong.can0 with fifo := [⟨⟨0x5012000, true, true, true, 4, [1, 0, 0, 0], false⟩, ⟨1, 2⟩⟩] }).setVoe { ong.voe with peers := tput {} [] 32 { isOpen := true, unacked := [(1, [])] } })), (((ong.setCan0 { ong.can0 with fifo := [] }).setVoe { ong.voe with peers := tput {} [] 32 { isOpen := true, unacked := [(1, [])] } })), (((ong.setCan0 { ong.can0 with fifo := [] }).setVoe { ong.voe with peers := tput {} [] 32 { isOpen := true, unacked := [(1, [])] } })), (0), (⟨⟨0x5012000, true, true, true, 4, [1, 0, 0, 0], false⟩, ⟨1, 2⟩⟩), ({ isOpen := true, unacked := [(1, [])] }), by decide⟩,
   ⟨(ong.setVoe { ong.voe with peers := tput {} [] 255 { ownNonce := [1], ownStart := 5 } }), (32), (5), ({}), ({ ownNonce := [1], ownStart := 5 }), by decide⟩,
   ⟨(ong), (0), (32), (5), ({}), by decide⟩,
   ⟨(ong), (0), (32), ({}), by decide⟩,
   ⟨(ong), (0), (32), ({}), by decide⟩,
   ⟨(ong), (0), by decide⟩,
   ⟨(off0), (0), (32), by decide⟩,
   ⟨(ong), (2), (⟨⟨0x8010200, true, true, true, 12, [0, 0, 17, 0, 0, 0, 1, 0], false⟩, ⟨1, 2⟩⟩), by decide⟩⟩

/-- Every hypothesis of MirrorMessages is met, clause by clause. -/
theorem wit_MirrorMessages :
    (∃ (s t : State) (m : Msg), (inboxTake s 1 0x20 = some (m, t)) ∧ (t.voe.peerAlign = none))
    ∧ (∃ (s t : State) (m : Msg) (r : Stamp), (inboxTake s 1 0x20 = some (m, t)) ∧ (t.voe.peerAlign = some r) ∧ (wordOf (leAt m.pay 4 4) = 0) ∧ (leAt m.pay 8 2 = 0))
    ∧ (∃ (s t : State) (m : Msg) (r : Stamp) (delta d : Int), (inboxTake s 1 0x20 = some (m, t)) ∧ (t.voe.peerAlign = some r) ∧ (wordOf (leAt m.pay 4 4) ≠ 0 ∨ leAt m.pay 8 2 ≠ 0) ∧ (delta = (wordOf (leAt m.pay 4 4) - r.tick).toInt * ticksN t + ((leAt m.pay 8 2 : Int) - r.count)) ∧ (d = nearest delta (ticksN t)))
    ∧ (∃ (i : Int) (n : Nat), (0 < n))
    ∧ (∃ (s : State) (a sn : Nat) (k : Bytes) (x : Word) (ov r : Nat), (proposeCheck s a sn k x ov = r))
    ∧ (∃ (s t : State) (m : Msg), (inboxTake s 1 0x21 = some (m, t)) ∧ (proposeCheck t (leAt m.pay 0 2 % 4096) (leAt m.pay 2 2) (slice m.pay 4 3) (wordOf (leAt m.pay 8 4)) (leAt m.pay 12 2) ≠ 0))
    ∧ (∃ (s t : State) (m : Msg), (inboxTake s 1 0x21 = some (m, t)) ∧ (proposeCheck t (leAt m.pay 0 2 % 4096) (leAt m.pay 2 2) (slice m.pay 4 3) (wordOf (leAt m.pay 8 4)) (leAt m.pay 12 2) = 0))
    ∧ (∃ (s t : State) (m : Msg) (p : Proposal), (inboxTake s 1 0x22 = some (m, t)) ∧ (t.voe.proposals.find? (fun p => p.assoc = (leAt m.pay 0 2 % 4096) && p.sn = leAt m.pay 2 2) = some p) ∧ (byteAt m.pay 4 = 0) ∧ (p.cancel = false))
    ∧ (∃ (s t : State) (m : Msg) (p : Proposal), (inboxTake s 1 0x22 = some (m, t)) ∧ (t.voe.proposals.find? (fun p => p.assoc = (leAt m.pay 0 2 % 4096) && p.sn = leAt m.pay 2 2) = some p) ∧ (byteAt m.pay 4 = 0) ∧ (p.cancel = true))
    ∧ (∃ (s t : State) (m : Msg) (p : Proposal), (inboxTake s 1 0x22 = some (m, t)) ∧ (t.voe.proposals.find? (fun p => p.assoc = (leAt m.pay 0 2 % 4096) && p.sn = leAt m.pay 2 2) = some p) ∧ (byteAt m.pay 4 ≠ 0))
    ∧ (∃ (s t : State) (m : Msg), (inboxTake s 1 0x23 = some (m, t)) ∧ (isMirrored t (leAt m.pay 0 2 % 4096) = false))
    ∧ (∃ (s t : State) (m : Msg) (x : Season), (inboxTake s 1 0x23 = some (m, t)) ∧ (isMirrored t (leAt m.pay 0 2 % 4096) = true) ∧ (seasonOf t (leAt m.pay 0 2 % 4096) = some x) ∧ (x.opened = false) ∧ (tickReached (seasonOpenAt x) t.glb.tick = false))
    ∧ (∃ (s t : State) (m : Msg) (x : Season), (inboxTake s 1 0x23 = some (m, t)) ∧ (isMirrored t (leAt m.pay 0 2 % 4096) = true) ∧ (seasonOf t (leAt m.pay 0 2 % 4096) = some x) ∧ (x.opened = true ∨ tickReached (seasonOpenAt x) t.glb.tick = true))
    ∧ (∃ (s t : State) (m : Msg) (y : Season), (inboxTake s 1 0x24 = some (m, t)) ∧ (seasonOf t (leAt m.pay 0 2 % 4096) = some y) ∧ (t.voe.aligned = false ∨ y.x = fromTwin t (wordOf (leAt m.pay 8 4))) ∧ (y.ovlen = leAt m.pay 12 2))
    ∧ (∃ (s t : State) (m : Msg) (y : Season), (inboxTake s 1 0x24 = some (m, t)) ∧ (seasonOf t (leAt m.pay 0 2 % 4096) = some y) ∧ ((t.voe.aligned = true ∧ y.x ≠ fromTwin t (wordOf (leAt m.pay 8 4))) ∨ y.ovlen ≠ leAt m.pay 12 2))
    ∧ (∃ (s t : State) (m : Msg) (n : Nat) (h : Slot) (x : Word), (inboxTake s 1 0x24 = some (m, t)) ∧ (seasonOf t (leAt m.pay 0 2 % 4096) = none) ∧ (t.voe.aligned = true) ∧ (isMirrored t (leAt m.pay 0 2 % 4096) = true) ∧ (nextKey t (leAt m.pay 0 2 % 4096) = some (n, h, slice m.pay 4 3)) ∧ (h.sn = leAt m.pay 2 2) ∧ (x = fromTwin t (wordOf (leAt m.pay 8 4))) ∧ (tickFuture x t.glb.tick = true) ∧ (tickReached (x - wordOf (leAt m.pay 12 2)) t.glb.tick = false))
    ∧ (∃ (s : State), (voeRuns s 1 = true) ∧ ((getPeer s 1 (twinNode s)).isOpen = true) ∧ (2 ^ 14 ≤ s.voe.alignAge))
    ∧ (∃ (s : State), (inboxTake s 1 0x20 = none))
    ∧ (∃ (s : State), (inboxTake s 1 0x21 = none))
    ∧ (∃ (s : State), (inboxTake s 1 0x22 = none))
    ∧ (∃ (s : State), (inboxTake s 1 0x23 = none))
    ∧ (∃ (s : State), (inboxTake s 1 0x24 = none))
    ∧ (∃ (s : State) (ch typ : Nat) (m : Msg) (l : List Msg), (voeRuns s ch = true) ∧ (s.voe.inbox = m :: l) ∧ (m.ch = ch) ∧ (m.typ = typ))
    ∧ (∃ (s t : State) (m : Msg), (inboxTake s 1 0x22 = some (m, t)) ∧ (t.voe.proposals.find? (fun p => p.assoc = (leAt m.pay 0 2 % 4096) && p.sn = leAt m.pay 2 2) = none))
    ∧ (∃ (s t : State) (m : Msg), (inboxTake s 1 0x23 = some (m, t)) ∧ (isMirrored t (leAt m.pay 0 2 % 4096) = true) ∧ (seasonOf t (leAt m.pay 0 2 % 4096) = none))
    ∧ (∃ (s t : State) (m : Msg), (inboxTake s 1 0x24 = some (m, t)) ∧ (seasonOf t (leAt m.pay 0 2 % 4096) = none) ∧ (t.voe.aligned = false ∨ isMirrored t (leAt m.pay 0 2 % 4096) = false ∨ nextKey t (leAt m.pay 0 2 % 4096) = none ∨ tickFuture (fromTwin t (wordOf (leAt m.pay 8 4))) t.glb.tick = false))
    ∧ (∃ (s t : State) (m : Msg) (n : Nat) (h : Slot) (k : Bytes), (inboxTake s 1 0x24 = some (m, t)) ∧ (seasonOf t (leAt m.pay 0 2 % 4096) = none) ∧ (nextKey t (leAt m.pay 0 2 % 4096) = some (n, h, k)) ∧ (k ≠ slice m.pay 4 3 ∨ h.sn ≠ leAt m.pay 2 2))
    ∧ (∃ (s t : State) (m : Msg) (n : Nat) (h : Slot) (x : Word), (inboxTake s 1 0x24 = some (m, t)) ∧ (seasonOf t (leAt m.pay 0 2 % 4096) = none) ∧ (t.voe.aligned = true) ∧ (isMirrored t (leAt m.pay 0 2 % 4096) = true) ∧ (nextKey t (leAt m.pay 0 2 % 4096) = some (n, h, slice m.pay 4 3)) ∧ (h.sn = leAt m.pay 2 2) ∧ (x = fromTwin t (wordOf (leAt m.pay 8 4))) ∧ (tickFuture x t.glb.tick = true) ∧ (tickReached (x - wordOf (leAt m.pay 12 2)) t.glb.tick = true))
    ∧ (∃ (s : State), (voeRuns s 1 = false ∨ (getPeer s 1 (twinNode s)).isOpen = false ∨ s.voe.alignAge < 2 ^ 14))
    ∧ (∃ (s : State) (a sn : Nat) (k : Bytes) (x : Word) (ov n : Nat) (h : Slot), (s.voe.aligned = true) ∧ (isMirrored s a = true) ∧ (nextKey s a = some (n, h, k)) ∧ (h.sn = sn) ∧ ((seasonOf s a).isSome = true ∨ (assocSlots s a).any (fun p => p.2.state = 1 && p.2.role = 2) = true))
    ∧ (∃ (s : State) (a sn : Nat) (k : Bytes) (x : Word) (ov n : Nat) (h : Slot), (s.voe.aligned = true) ∧ (isMirrored s a = true) ∧ (nextKey s a = some (n, h, k)) ∧ (h.sn = sn) ∧ (seasonOf s a = none) ∧ ((assocSlots s a).any (fun p => p.2.state = 1 && p.2.role = 2) = false))
    ∧ (∃ (s : State) (a sn : Nat) (k c : Bytes) (x : Word) (ov n : Nat) (h : Slot), (s.voe.aligned = true) ∧ (isMirrored s a = true) ∧ (nextKey s a = some (n, h, c)) ∧ (h.sn ≠ sn ∨ c ≠ k))
    ∧ (∃ (s : State) (a sn : Nat) (k : Bytes) (x : Word) (ov : Nat), (s.voe.aligned = true) ∧ (isMirrored s a = true) ∧ (nextKey s a = none)) :=
  ⟨⟨((ong.setVoe { ong.voe with inbox := [⟨1, 2, 0x20, [], ⟨100, 50⟩⟩] })), ((ong.setVoe { ong.voe with inbox := [] })), (⟨1, 2, 0x20, [], ⟨100, 50⟩⟩), by decide⟩,
   ⟨((ong.setVoe { ong.voe with inbox := [⟨1, 2, 0x20, [], ⟨100, 50⟩⟩], peerAlign := some ⟨90, 40⟩ })), ((ong.setVoe { ong.voe with inbox := [], peerAlign := some ⟨90, 40⟩ })), (⟨1, 2, 0x20, [], ⟨100, 50⟩⟩), (⟨90, 40⟩), by decide⟩,
   ⟨((ong.setVoe { ong.voe with inbox := [⟨1, 2, 0x20, [2, 0, 0, 0, 90, 0, 0, 0, 48, 0], ⟨100, 50⟩⟩], peerAlign := some ⟨90, 40⟩ })), ((ong.setVoe { ong.voe with inbox := [], peerAlign := some ⟨90, 40⟩ })), (⟨1, 2, 0x20, [2, 0, 0, 0, 90, 0, 0, 0, 48, 0], ⟨100, 50⟩⟩), (⟨90, 40⟩), (8), (0), by decide⟩,
   ⟨(-8), (6250), by decide⟩,
   ⟨(ong), (1), (1), ([]), (0), (0), (5), by decide⟩,
   ⟨((ong.setVoe { ong.voe with inbox := [⟨1, 2, 0x21, [], ⟨100, 50⟩⟩] })), ((ong.setVoe { ong.voe with inbox := [] })), (⟨1, 2, 0x21, [], ⟨100, 50⟩⟩), by decide⟩,
   ⟨(((ong.setVoe { ong.voe with inbox := [⟨1, 2, 0x21, [1, 0, 1, 0, 222, 37, 24, 0, 200, 0, 0, 0, 10, 0], ⟨100, 50⟩⟩], aligned := true }).setVlt { ong.vlt with assocs := [(1, some ⟨0, 0, 0, true⟩)], slots := [(40, { usage := 0, alg := 3, state := 1, assoc := 1, role := 1, sn := 1 })], cache := [⟨0, 40, { usage := 0, alg := 3, state := 1, assoc := 1, role := 1, sn := 1 }, List.replicate 32 1, true, false⟩] })), (((ong.setVoe { ong.voe with inbox := [], aligned := true }).setVlt { ong.vlt with assocs := [(1, some ⟨0, 0, 0, true⟩)], slots := [(40, { usage := 0, alg := 3, state := 1, assoc := 1, role := 1, sn := 1 })], cache := [⟨0, 40, { usage := 0, alg := 3, state := 1, assoc := 1, role := 1, sn := 1 }, List.replicate 32 1, true, false⟩] })), (⟨1, 2, 0x21, [1, 0, 1, 0, 222, 37, 24, 0, 200, 0, 0, 0, 10, 0], ⟨100, 50⟩⟩), by decide +kernel⟩,
   ⟨((ong.setVoe { ong.voe with inbox := [⟨1, 2, 0x22, [1, 0, 1, 0, 0], ⟨100, 50⟩⟩], proposals := [{ assoc := 1, sn := 1, x := 200, ovlen := 10, cancel := false }] })), ((ong.setVoe { ong.voe with inbox := [], proposals := [{ assoc := 1, sn := 1, x := 200, ovlen := 10, cancel := false }] })), (⟨1, 2, 0x22, [1, 0, 1, 0, 0], ⟨100, 50⟩⟩), ({ assoc := 1, sn := 1, x := 200, ovlen := 10, cancel := false }), by decide⟩,
   ⟨((ong.setVoe { ong.voe with inbox := [⟨1, 2, 0x22, [1, 0, 1, 0, 0], ⟨100, 50⟩⟩], proposals := [{ assoc := 1, sn := 1, x := 200, ovlen := 10, cancel := true }] })), ((ong.setVoe { ong.voe with inbox := [], proposals := [{ assoc := 1, sn := 1, x := 200, ovlen := 10, cancel := true }] })), (⟨1, 2, 0x22, [1, 0, 1, 0, 0], ⟨100, 50⟩⟩), ({ assoc := 1, sn := 1, x := 200, ovlen := 10, cancel := true }), by decide⟩,
   ⟨((ong.setVoe { ong.voe with inbox := [⟨1, 2, 0x22, [1, 0, 1, 0, 3], ⟨100, 50⟩⟩], proposals := [{ assoc := 1, sn := 1, x := 200, ovlen := 10, cancel := true }] })), ((ong.setVoe { ong.voe with inbox := [], proposals := [{ assoc := 1, sn := 1, x := 200, ovlen := 10, cancel := true }] })), (⟨1, 2, 0x22, [1, 0, 1, 0, 3], ⟨100, 50⟩⟩), ({ assoc := 1, sn := 1, x := 200, ovlen := 10, cancel := true }), by decide⟩,
   ⟨((ong.setVoe { ong.voe with inbox := [⟨1, 2, 0x23, [], ⟨100, 50⟩⟩] })), ((ong.setVoe { ong.voe with inbox := [] })), (⟨1, 2, 0x23, [], ⟨100, 50⟩⟩), by decide⟩,
   ⟨(((ong.setVoe { ong.voe with inbox := [⟨1, 2, 0x23, [1, 0, 1, 0], ⟨100, 50⟩⟩] }).setVlt { ong.vlt with seasons := [{ assoc := 1, x := 190, ovlen := 10 }], assocs := [(1, some ⟨0, 0, 0, true⟩)] })), (((ong.setVoe { ong.voe with inbox := [] }).setVlt { ong.vlt with seasons := [{ assoc := 1, x := 190, ovlen := 10 }], assocs := [(1, some ⟨0, 0, 0, true⟩)] })), (⟨1, 2, 0x23, [1, 0, 1, 0], ⟨100, 50⟩⟩), ({ assoc := 1, x := 190, ovlen := 10 }), by decide⟩,
   ⟨(((ong.setVoe { ong.voe with inbox := [⟨1, 2, 0x23, [1, 0, 1, 0], ⟨100, 50⟩⟩] }).setVlt { ong.vlt with seasons := [{ assoc := 1, x := 105, ovlen := 10 }], assocs := [(1, some ⟨0, 0, 0, true⟩)] })), (((ong.setVoe { ong.voe with inbox := [] }).setVlt { ong.vlt with seasons := [{ assoc := 1, x := 105, ovlen := 10 }], assocs := [(1, some ⟨0, 0, 0, true⟩)] })), (⟨1, 2, 0x23, [1, 0, 1, 0], ⟨100, 50⟩⟩), ({ assoc := 1, x := 105, ovlen := 10 }), by decide⟩,
   ⟨(((ong.setVoe { ong.voe with inbox := [⟨1, 2, 0x24, [1, 0, 1, 0, 0, 0, 0, 0, 190, 0, 0, 0, 10, 0], ⟨100, 50⟩⟩], aligned := true }).setVlt { ong.vlt with seasons := [{ assoc := 1, x := 190, ovlen := 10 }], assocs := [(1, some ⟨0, 0, 0, true⟩)] })), (((ong.setVoe { ong.voe with inbox := [], aligned := true }).setVlt { ong.vlt with seasons := [{ assoc := 1, x := 190, ovlen := 10 }], assocs := [(1, some ⟨0, 0, 0, true⟩)] })), (⟨1, 2, 0x24, [1, 0, 1, 0, 0, 0, 0, 0, 190, 0, 0, 0, 10, 0], ⟨100, 50⟩⟩), ({ assoc := 1, x := 190, ovlen := 10 }), by decide⟩,
   ⟨(((ong.setVoe { ong.voe with inbox := [⟨1, 2, 0x24, [1, 0, 1, 0, 0, 0, 0, 0, 191, 0, 0, 0, 10, 0], ⟨100, 50⟩⟩], aligned := true }).setVlt { ong.vlt with seasons := [{ assoc := 1, x := 190, ovlen := 10 }], assocs := [(1, some ⟨0, 0, 0, true⟩)] })), (((ong.setVoe { ong.voe with inbox := [], aligned := true }).setVlt { ong.vlt with seasons := [{ assoc := 1, x := 190, ovlen := 10 }], assocs := [(1, some ⟨0, 0, 0, true⟩)] })), (⟨1, 2, 0x24, [1, 0, 1, 0, 0, 0, 0, 0, 191, 0, 0, 0, 10, 0], ⟨100, 50⟩⟩), ({ assoc := 1, x := 190, ovlen := 10 }), by decide⟩,
   ⟨(((ong.setVoe { ong.voe with inbox := [⟨1, 2, 0x24, [1, 0, 1, 0, 222, 37, 24, 0, 200, 0, 0, 0, 10, 0], ⟨100, 50⟩⟩], aligned := true }).setVlt { ong.vlt with assocs := [(1, some ⟨0, 0, 0, true⟩)], slots := [(40, { usage := 0, alg := 3, state := 1, assoc := 1, role := 1, sn := 1 })], cache := [⟨0, 40, { usage := 0, alg := 3, state := 1, assoc := 1, role := 1, sn := 1 }, List.replicate 32 1, true, false⟩] })), (((ong.setVoe { ong.voe with inbox := [], aligned := true }).setVlt { ong.vlt with assocs := [(1, some ⟨0, 0, 0, true⟩)], slots := [(40, { usage := 0, alg := 3, state := 1, assoc := 1, role := 1, sn := 1 })], cache := [⟨0, 40, { usage := 0, alg := 3, state := 1, assoc := 1, role := 1, sn := 1 }, List.replicate 32 1, true, false⟩] })), (⟨1, 2, 0x24, [1, 0, 1, 0, 222, 37, 24, 0, 200, 0, 0, 0, 10, 0], ⟨100, 50⟩⟩), (40), ({ usage := 0, alg := 3, state := 1, assoc := 1, role := 1, sn := 1 }), (200), by decide +kernel⟩,
   ⟨(ong.setVoe { ong.voe with peers := [(258, { isOpen := true })], alignAge := 16384 }), by decide⟩,
   ⟨(ong), by decide⟩,
   ⟨(ong), by decide⟩,
   ⟨(ong), by decide⟩,
   ⟨(ong), by decide⟩,
   ⟨(ong), by decide⟩,
   ⟨(ong.setVoe { ong.voe with inbox := [⟨1, 2, 0x20, [], ⟨100, 50⟩⟩] }), (1), (0x20), (⟨1, 2, 0x20, [], ⟨100, 50⟩⟩), ([]), by decide⟩,
   ⟨(ong.setVoe { ong.voe with inbox := [⟨1, 2, 0x22, [1, 0, 1, 0, 0], ⟨100, 50⟩⟩] }), (ong.setVoe { ong.voe with inbox := [] }), (⟨1, 2, 0x22, [1, 0, 1, 0, 0], ⟨100, 50⟩⟩), by decide⟩,
   ⟨((ong.setVoe { ong.voe with inbox := [⟨1, 2, 0x23, [1, 0, 1, 0], ⟨100, 50⟩⟩] }).setVlt { ong.vlt with assocs := [(1, some ⟨0, 0, 0, true⟩)] }), ((ong.setVoe { ong.voe with inbox := [] }).setVlt { ong.vlt with assocs := [(1, some ⟨0, 0, 0, true⟩)] }), (⟨1, 2, 0x23, [1, 0, 1, 0], ⟨100, 50⟩⟩), by decide⟩,
   ⟨(ong.setVoe { ong.voe with inbox := [⟨1, 2, 0x24, [1, 0, 1, 0], ⟨100, 50⟩⟩] }), (ong.setVoe { ong.voe with inbox := [] }), (⟨1, 2, 0x24, [1, 0, 1, 0], ⟨100, 50⟩⟩), by decide⟩,
   ⟨((ong.setVoe { ong.voe with inbox := [⟨1, 2, 0x24, [1, 0, 2, 0, 222, 37, 24], ⟨100, 50⟩⟩], aligned := true }).setVlt { ong.vlt with assocs := [(1, some ⟨0, 0, 0, true⟩)], slots := [(40, { usage := 0, alg := 3, state := 1, assoc := 1, role := 1, sn := 1 })], cache := [⟨0, 40, { usage := 0, alg := 3, state := 1, assoc := 1, role := 1, sn := 1 }, List.replicate 32 1, true, false⟩] }), ((ong.setVoe { ong.voe with inbox := [], aligned := true }).setVlt { ong.vlt with assocs := [(1, some ⟨0, 0, 0, true⟩)], slots := [(40, { usage := 0, alg := 3, state := 1, assoc := 1, role := 1, sn := 1 })], cache := [⟨0, 40, { usage := 0, alg := 3, state := 1, assoc := 1, role := 1, sn := 1 }, List.replicate 32 1, true, false⟩] }), (⟨1, 2, 0x24, [1, 0, 2, 0, 222, 37, 24], ⟨100, 50⟩⟩), (40), ({ usage := 0, alg := 3, state := 1, assoc := 1, role := 1, sn := 1 }), ([222, 37, 24]), by decide +kernel⟩,
   ⟨((ong.setVoe { ong.voe with inbox := [⟨1, 2, 0x24, [1, 0, 1, 0, 222, 37, 24, 0, 150, 0, 0, 0, 100, 0], ⟨100, 50⟩⟩], aligned := true }).setVlt { ong.vlt with assocs := [(1, some ⟨0, 0, 0, true⟩)], slots := [(40, { usage := 0, alg := 3, state := 1, assoc := 1, role := 1, sn := 1 })], cache := [⟨0, 40, { usage := 0, alg := 3, state := 1, assoc := 1, role := 1, sn := 1 }, List.replicate 32 1, true, false⟩] }), ((ong.setVoe { ong.voe with inbox := [], aligned := true }).setVlt { ong.vlt with assocs := [(1, some ⟨0, 0, 0, true⟩)], slots := [(40, { usage := 0, alg := 3, state := 1, assoc := 1, role := 1, sn := 1 })], cache := [⟨0, 40, { usage := 0, alg := 3, state := 1, assoc := 1, role := 1, sn := 1 }, List.replicate 32 1, true, false⟩] }), (⟨1, 2, 0x24, [1, 0, 1, 0, 222, 37, 24, 0, 150, 0, 0, 0, 100, 0], ⟨100, 50⟩⟩), (40), ({ usage := 0, alg := 3, state := 1, assoc := 1, role := 1, sn := 1 }), (150), by decide +kernel⟩,
   ⟨(ong), by decide⟩,
   ⟨((ong.setVoe { ong.voe with aligned := true }).setVlt { ong.vlt with assocs := [(1, some ⟨0, 0, 0, true⟩)], seasons := [{ assoc := 1, x := 190, ovlen := 10 }], slots := [(40, { usage := 0, alg := 3, state := 1, assoc := 1, role := 1, sn := 1 })], cache := [⟨0, 40, { usage := 0, alg := 3, state := 1, assoc := 1, role := 1, sn := 1 }, List.replicate 32 1, true, false⟩] }), (1), (1), ([222, 37, 24]), (200), (10), (40), ({ usage := 0, alg := 3, state := 1, assoc := 1, role := 1, sn := 1 }), by decide +kernel⟩,
   ⟨((ong.setVoe { ong.voe with aligned := true }).setVlt { ong.vlt with assocs := [(1, some ⟨0, 0, 0, true⟩)], slots := [(40, { usage := 0, alg := 3, state := 1, assoc := 1, role := 1, sn := 1 })], cache := [⟨0, 40, { usage := 0, alg := 3, state := 1, assoc := 1, role := 1, sn := 1 }, List.replicate 32 1, true, false⟩] }), (1), (1), ([222, 37, 24]), (200), (10), (40), ({ usage := 0, alg := 3, state := 1, assoc := 1, role := 1, sn := 1 }), by decide +kernel⟩,
   ⟨((ong.setVoe { ong.voe with aligned := true }).setVlt { ong.vlt with assocs := [(1, some ⟨0, 0, 0, true⟩)], slots := [(40, { usage := 0, alg := 3, state := 1, assoc := 1, role := 1, sn := 1 })], cache := [⟨0, 40, { usage := 0, alg := 3, state := 1, assoc := 1, role := 1, sn := 1 }, List.replicate 32 1, true, false⟩] }), (1), (2), ([222, 37, 24]), ([222, 37, 24]), (200), (10), (40), ({ usage := 0, alg := 3, state := 1, assoc := 1, role := 1, sn := 1 }), by decide +kernel⟩,
   ⟨((ong.setVoe { ong.voe with aligned := true }).setVlt { ong.vlt with assocs := [(1, some ⟨0, 0, 0, true⟩)] }), (1), (1), ([1]), (200), (10), by decide⟩⟩

/-- Every hypothesis of SerialPorts is met, clause by clause. -/
theorem wit_SerialPorts :
    (∃ (s : State), (mainUp s = true) ∧ (gateOk s 15 = true) ∧ (s.spi0.cur.isSome = true))
    ∧ (∃ (s : State), (mainUp s = true) ∧ (gateOk s 15 = true) ∧ (s.spi0.cur = none) ∧ (spi0Moves s.spi0.cmdOp = false))
    ∧ (∃ (s t : State), (mainUp s = true) ∧ (gateOk s 15 = true) ∧ (s.spi0.cur = none) ∧ (spi0Moves s.spi0.cmdOp = true) ∧ (s.setSpi0 { s.spi0 with done := false, err := 0, cur := some (spi0Cmd s) } = t) ∧ (dmaCheck t 5 0 (s.spi0.cmdOp ≠ 1) true s.spi0.sram.toNat (spi0Len s) = .ok) ∧ (inSram s.spi0.sram.toNat (spi0Len s) = true))
    ∧ (∃ (s t : State) (a : Acc) (src idx : Nat), (mainUp s = true) ∧ (gateOk s 15 = true) ∧ (s.spi0.cur = none) ∧ (spi0Moves s.spi0.cmdOp = true) ∧ (s.setSpi0 { s.spi0 with done := false, err := 0, cur := some (spi0Cmd s) } = t) ∧ (dmaCheck t 5 0 (s.spi0.cmdOp ≠ 1) true s.spi0.sram.toNat (spi0Len s) = .deny a src idx))
    ∧ (∃ (s : State) (ok : Bool) (o : FlashOp), (s.spi0.cur = some o) ∧ (s.spi0.stall = none) ∧ (ok = true ∨ o.op ≠ 1))
    ∧ (∃ (s : State) (o : FlashOp), (s.spi0.cur = some o) ∧ (s.spi0.stall = none) ∧ (o.op = 1))
    ∧ (∃ (s : State) (o : FlashOp), (o.op = 0))
    ∧ (∃ (s : State) (o : FlashOp), (o.op = 1))
    ∧ (∃ (s : State) (o : FlashOp), (o.op = 2))
    ∧ (∃ (old new free : Bytes) (k : Nat) (i : Nat) (x y : Byte), ((tornProgram old new free)[k]? = some x) ∧ (old[k]? = some y) ∧ (x.getLsbD i = true))
    ∧ (∃ (old new free : Bytes) (k : Nat) (i : Nat) (x y n : Byte), ((tornProgram old new free)[k]? = some x) ∧ (old[k]? = some y) ∧ (new[k]? = some n) ∧ (x.getLsbD i = false) ∧ (y.getLsbD i = true))
    ∧ (∃ (old free : Bytes) (k : Nat) (i : Nat) (x y : Byte), ((tornErase old free)[k]? = some x) ∧ (old[k]? = some y) ∧ (y.getLsbD i = true))
    ∧ (∃ (s : State) (o : FlashOp), (s.spi0.cur = some o) ∧ (s.spi0.stall = none) ∧ (o.op = 1 ∨ o.op = 2))
    ∧ (∃ (s : State), (mainUp s = true) ∧ (gateOk s 15 = true) ∧ (s.spi0.cur = none))
    ∧ (∃ (s : State) (o : FlashOp), (mainUp s = true) ∧ (gateOk s 15 = true) ∧ (s.spi0.cur = some o) ∧ (s.spi0.stall = none) ∧ (o.op = 0))
    ∧ (∃ (s : State) (o : FlashOp), (mainUp s = true) ∧ (gateOk s 15 = true) ∧ (s.spi0.cur = some o) ∧ (s.spi0.stall = none) ∧ (o.op = 1))
    ∧ (∃ (s : State) (w : Word), (mainUp s = true) ∧ (s.spi0.db.isOpen = true) ∧ (s.spi0.cur = none) ∧ (s.mode.dimPend = none))
    ∧ (∃ (s : State) (v : Word), (mainUp s = true) ∧ (gateOk s 16 = true) ∧ (s.spi1.tx.length < 16))
    ∧ (∃ (s : State) (v : Word), (mainUp s = true) ∧ (gateOk s 16 = true) ∧ (16 ≤ s.spi1.tx.length))
    ∧ (∃ (s : State) (v h : Word) (t : List Word), (mainUp s = true) ∧ (s.spi1.tx = h :: t) ∧ (spi1Open s.spi1 = true) ∧ (s.spi1.rx.length < 16))
    ∧ (∃ (s : State) (v h : Word) (t : List Word), (mainUp s = true) ∧ (s.spi1.tx = h :: t) ∧ (spi1Open s.spi1 = true) ∧ (16 ≤ s.spi1.rx.length))
    ∧ (∃ (s : State) (v : Word), (s.spi1.tx = [] ∨ spi1Open s.spi1 = false))
    ∧ (∃ (n : Nat) (v : Word), (n ≤ 32))
    ∧ (∃ (s : State) (n : Nat) (v h : Word) (t : List Word), (mainUp s = true) ∧ (s.spi1.csmonEn = true) ∧ (spi1Own s.spi1 = false) ∧ (s.spi1.selected = true) ∧ (s.spi1.tx = h :: t) ∧ (1 ≤ n) ∧ (n ≤ s.spi1.wlen) ∧ (s.spi1.rx.length < 16))
    ∧ (∃ (s : State) (v : Word), (mainUp s = true) ∧ (s.spi1.csmonEn = true) ∧ (spi1Own s.spi1 = false) ∧ (s.spi1.selected = true))
    ∧ (∃ (s : State), (mainUp s = true) ∧ (s.spi1.csmonEn = true) ∧ (spi1Own s.spi1 = false) ∧ (s.spi1.stopped = false))
    ∧ (∃ (s : State), (mainUp s = true) ∧ (gateOk s 16 = true))
    ∧ (∃ (s t : State) (a : Acc), (mainUp s = true) ∧ (gateOk s 15 = true) ∧ (s.spi0.cur = none) ∧ (spi0Moves s.spi0.cmdOp = true) ∧ (s.setSpi0 { s.spi0 with done := false, err := 0, cur := some (spi0Cmd s) } = t) ∧ (dmaCheck t 5 0 (s.spi0.cmdOp ≠ 1) true s.spi0.sram.toNat (spi0Len s) = .stall a))
    ∧ (∃ (s t : State), (mainUp s = true) ∧ (gateOk s 15 = true) ∧ (s.spi0.cur = none) ∧ (spi0Moves s.spi0.cmdOp = true) ∧ (s.setSpi0 { s.spi0 with done := false, err := 0, cur := some (spi0Cmd s) } = t) ∧ (dmaCheck t 5 0 (s.spi0.cmdOp ≠ 1) true s.spi0.sram.toNat (spi0Len s) = .ok) ∧ (inSram s.spi0.sram.toNat (spi0Len s) = false))
    ∧ (∃ (s : State) (ok : Bool), (s.spi0.stall.isSome = true))
    ∧ (∃ (s : State) (o : FlashOp), (s.spi0.cur = some o) ∧ (o.op ≠ 1) ∧ (o.op ≠ 2))
    ∧ (∃ (s : State), (s.spi1.csmonEn = false ∨ spi1Own s.spi1 = true ∨ mainUp s = false))
    ∧ (∃ (s : State) (n : Nat) (v : Word), (s.spi1.csmonEn = false ∨ spi1Own s.spi1 = true ∨ s.spi1.selected = false ∨ mainUp s = false))
    ∧ (∃ (s : State), (s.spi1.stopped = true))
    ∧ (∃ (s : State) (v : Word), (mainUp s = true) ∧ (gateOk s 15 = false) ∧ (gateOk s 16 = false))
    ∧ (∃ (s : State) (v : Word), (mainUp s = false))
    ∧ (∃ (s : State) (w : Word), (s.spi0.db.isOpen = false ∨ s.spi0.cur.isSome = true ∨ s.mode.dimPend ≠ none))
    ∧ (∃ (s : State) (o : FlashOp), (mainUp s = true) ∧ (gateOk s 15 = true) ∧ (s.spi0.cur = some o) ∧ (s.spi0.stall = none) ∧ (o.op = 2))
    ∧ (∃ (s : State), (s.spi1.csmonEn = true) ∧ (spi1Own s.spi1 = true) ∧ (s.spi1.selected = false) ∧ (spi1Level s.spi1 = true))
    ∧ (∃ (s : State) (o : FlashOp), (mainUp s = true) ∧ (gateOk s 15 = true) ∧ (s.spi0.cur = some o) ∧ (s.spi0.stall.isSome = true))
    ∧ (∃ (s : State) (o : FlashOp), (s.spi0.cur = some o) ∧ (s.spi0.stall.isSome = true) ∧ (o.op = 1 ∨ o.op = 2)) :=
  ⟨⟨(ong.setSpi0 { ong.spi0 with cur := some { sel := 0, op := 0, addr := 4096, len := 4, sram := 0x10000000 } }), by decide⟩,
   ⟨(ong.setSpi0 { ong.spi0 with cmdOp := 2 }), by decide⟩,
   ⟨(((ong.setMpu { units := [(5, { en := true, regions := [(0, { base := 0x10000000, limit := 0x101FFFFF, attr := 0x100F })] })] }).setSpi0 { (ong.setMpu { units := [(5, { en := true, regions := [(0, { base := 0x10000000, limit := 0x101FFFFF, attr := 0x100F })] })] }).spi0 with cmdOp := 0, len := 4, sram := 0x10000000 })), (((ong.setMpu { units := [(5, { en := true, regions := [(0, { base := 0x10000000, limit := 0x101FFFFF, attr := 0x100F })] })] }).setSpi0 { (ong.setMpu { units := [(5, { en := true, regions := [(0, { base := 0x10000000, limit := 0x101FFFFF, attr := 0x100F })] })] }).spi0 with cmdOp := 0, len := 4, sram := 0x10000000 }).setSpi0 { ((ong.setMpu { units := [(5, { en := true, regions := [(0, { base := 0x10000000, limit := 0x101FFFFF, attr := 0x100F })] })] }).setSpi0 { (ong.setMpu { units := [(5, { en := true, regions := [(0, { base := 0x10000000, limit := 0x101FFFFF, attr := 0x100F })] })] }).spi0 with cmdOp := 0, len := 4, sram := 0x10000000 }).spi0 with done := false, err := 0, cur := some (spi0Cmd ((ong.setMpu { units := [(5, { en := true, regions := [(0, { base := 0x10000000, limit := 0x101FFFFF, attr := 0x100F })] })] }).setSpi0 { (ong.setMpu { units := [(5, { en := true, regions := [(0, { base := 0x10000000, limit := 0x101FFFFF, attr := 0x100F })] })] }).spi0 with cmdOp := 0, len := 4, sram := 0x10000000 })) }), by decide⟩,
   ⟨(((ong.setMpu { units := [(5, { en := true, regions := [(0, { base := 0, limit := 0x101FFFFF, attr := 0x100F })] })] }).setSpi0 { (ong.setMpu { units := [(5, { en := true, regions := [(0, { base := 0, limit := 0x101FFFFF, attr := 0x100F })] })] }).spi0 with cmdOp := 0, len := 4, sram := 0x20000000 })), (((ong.setMpu { units := [(5, { en := true, regions := [(0, { base := 0, limit := 0x101FFFFF, attr := 0x100F })] })] }).setSpi0 { (ong.setMpu { units := [(5, { en := true, regions := [(0, { base := 0, limit := 0x101FFFFF, attr := 0x100F })] })] }).spi0 with cmdOp := 0, len := 4, sram := 0x20000000 }).setSpi0 { ((ong.setMpu { units := [(5, { en := true, regions := [(0, { base := 0, limit := 0x101FFFFF, attr := 0x100F })] })] }).setSpi0 { (ong.setMpu { units := [(5, { en := true, regions := [(0, { base := 0, limit := 0x101FFFFF, attr := 0x100F })] })] }).spi0 with cmdOp := 0, len := 4, sram := 0x20000000 }).spi0 with done := false, err := 0, cur := some (spi0Cmd ((ong.setMpu { units := [(5, { en := true, regions := [(0, { base := 0, limit := 0x101FFFFF, attr := 0x100F })] })] }).setSpi0 { (ong.setMpu { units := [(5, { en := true, regions := [(0, { base := 0, limit := 0x101FFFFF, attr := 0x100F })] })] }).spi0 with cmdOp := 0, len := 4, sram := 0x20000000 })) }), ({ init := 5, kind := 1, addr := 0x20000000, size := 4, secure := true, level := 0, owner := 0, encl := none }), (2), (0), by decide⟩,
   ⟨(ong.setSpi0 { ong.spi0 with cur := some { sel := 0, op := 2, addr := 4096, len := 4, sram := 0x10000000 } }), (false), ({ sel := 0, op := 2, addr := 4096, len := 4, sram := 0x10000000 }), by decide⟩,
   ⟨(ong.setSpi0 { ong.spi0 with cur := some { sel := 0, op := 1, addr := 4096, len := 4, sram := 0x10000000 } }), ({ sel := 0, op := 1, addr := 4096, len := 4, sram := 0x10000000 }), by decide⟩,
   ⟨(up), ({ sel := 0, op := 0, addr := 4096, len := 4, sram := 0x10000000 }), by decide⟩,
   ⟨(up), ({ sel := 0, op := 1, addr := 4096, len := 4, sram := 0x10000000 }), by decide⟩,
   ⟨(up), ({ sel := 0, op := 2, addr := 4096, len := 4, sram := 0x10000000 }), by decide⟩,
   ⟨([3]), ([1]), ([2]), (0), (1), (3), (3), by decide⟩,
   ⟨([3]), ([1]), ([0]), (0), (1), (1), (3), (1), by decide⟩,
   ⟨([3]), ([4]), (0), (1), (7), (3), by decide⟩,
   ⟨(ong.setSpi0 { ong.spi0 with cur := some { sel := 0, op := 2, addr := 4096, len := 4, sram := 0x10000000 } }), ({ sel := 0, op := 2, addr := 4096, len := 4, sram := 0x10000000 }), by decide⟩,
   ⟨(ong), by decide⟩,
   ⟨(ong.setSpi0 { ong.spi0 with cur := some { sel := 0, op := 0, addr := 4096, len := 4, sram := 0x10000000 } }), ({ sel := 0, op := 0, addr := 4096, len := 4, sram := 0x10000000 }), by decide⟩,
   ⟨(ong.setSpi0 { ong.spi0 with cur := some { sel := 0, op := 1, addr := 4096, len := 4, sram := 0x10000000 } }), ({ sel := 0, op := 1, addr := 4096, len := 4, sram := 0x10000000 }), by decide⟩,
   ⟨(up.setSpi0 { up.spi0 with db := { up.spi0.db with isOpen := true } }), (0x700), by decide⟩,
   ⟨(ong), (5), by decide⟩,
   ⟨(ong.setSpi1 { ong.spi1 with tx := List.replicate 16 0 }), (5), by decide⟩,
   ⟨(ong.setSpi1 { ong.spi1 with tx := [5] }), (7), (5), ([]), by decide⟩,
   ⟨(ong.setSpi1 { ong.spi1 with tx := [5], rx := List.replicate 16 (0, false, 8) }), (7), (5), ([]), by decide⟩,
   ⟨(ong), (7), by decide⟩,
   ⟨(8), (0x12345678), by decide⟩,
   ⟨(ong.setSpi1 { ong.spi1 with csmonEn := true, selected := true, wlen := 15, tx := [5] }), (3), (7), (5), ([]), by decide⟩,
   ⟨(ong.setSpi1 { ong.spi1 with csmonEn := true, selected := true, tx := [5] }), (7), by decide⟩,
   ⟨(ong.setSpi1 { ong.spi1 with csmonEn := true }), by decide⟩,
   ⟨(ong.setSpi1 { ong.spi1 with rx := [(5, false, 8)] }), by decide⟩,
   ⟨((ong.setSpi0 { ong.spi0 with cmdOp := 0, len := 4, sram := 0x10000000 })), ((ong.setSpi0 { ong.spi0 with cmdOp := 0, len := 4, sram := 0x10000000 }).setSpi0 { (ong.setSpi0 { ong.spi0 with cmdOp := 0, len := 4, sram := 0x10000000 }).spi0 with done := false, err := 0, cur := some (spi0Cmd (ong.setSpi0 { ong.spi0 with cmdOp := 0, len := 4, sram := 0x10000000 })) }), ({ init := 5, kind := 1, addr := 0x10000000, size := 4, secure := true, level := 0, owner := 0, encl := none }), by decide⟩,
   ⟨(((ong.setMpu { units := [(5, { en := true, regions := [(0, { base := 0, limit := 0x101FFFFF, attr := 0x100F })] })] }).setSpi0 { (ong.setMpu { units := [(5, { en := true, regions := [(0, { base := 0, limit := 0x101FFFFF, attr := 0x100F })] })] }).spi0 with cmdOp := 0, len := 4, sram := 0 })), (((ong.setMpu { units := [(5, { en := true, regions := [(0, { base := 0, limit := 0x101FFFFF, attr := 0x100F })] })] }).setSpi0 { (ong.setMpu { units := [(5, { en := true, regions := [(0, { base := 0, limit := 0x101FFFFF, attr := 0x100F })] })] }).spi0 with cmdOp := 0, len := 4, sram := 0 }).setSpi0 { ((ong.setMpu { units := [(5, { en := true, regions := [(0, { base := 0, limit := 0x101FFFFF, attr := 0x100F })] })] }).setSpi0 { (ong.setMpu { units := [(5, { en := true, regions := [(0, { base := 0, limit := 0x101FFFFF, attr := 0x100F })] })] }).spi0 with cmdOp := 0, len := 4, sram := 0 }).spi0 with done := false, err := 0, cur := some (spi0Cmd ((ong.setMpu { units := [(5, { en := true, regions := [(0, { base := 0, limit := 0x101FFFFF, attr := 0x100F })] })] }).setSpi0 { (ong.setMpu { units := [(5, { en := true, regions := [(0, { base := 0, limit := 0x101FFFFF, attr := 0x100F })] })] }).spi0 with cmdOp := 0, len := 4, sram := 0 })) }), by decide⟩,
   ⟨(ong.setSpi0 { ong.spi0 with cur := some { sel := 0, op := 0, addr := 4096, len := 4, sram := 0x10000000 }, stall := some { init := 5, kind := 1, addr := 0x10000000, size := 4, secure := true, level := 0, owner := 0, encl := none } }), (true), by decide⟩,
   ⟨(ong.setSpi0 { ong.spi0 with cur := some { sel := 0, op := 0, addr := 4096, len := 4, sram := 0x10000000 } }), ({ sel := 0, op := 0, addr := 4096, len := 4, sram := 0x10000000 }), by decide⟩,
   ⟨(ong), by decide⟩,
   ⟨(ong), (3), (7), by decide⟩,
   ⟨(ong.setSpi1 { ong.spi1 with csmonEn := true, stopped := true }), by decide⟩,
   ⟨(up.setClk { up.clk with gate := 0 }), (3), by decide⟩,
   ⟨(off0), (3), by decide⟩,
   ⟨(up), (3), by decide⟩,
   ⟨(ong.setSpi0 { ong.spi0 with cur := some { sel := 0, op := 2, addr := 4096, len := 4, sram := 0x10000000 } }), ({ sel := 0, op := 2, addr := 4096, len := 4, sram := 0x10000000 }), by decide⟩,
   ⟨(ong.setSpi1 { ong.spi1 with csmonEn := true, selected := false, dir := 1, gpioOut := 1, csmon := 0 }), by decide⟩,
   ⟨(ong.setSpi0 { ong.spi0 with cur := some { sel := 0, op := 2, addr := 4096, len := 4, sram := 0x10000000 }, stall := some { init := 5, kind := 1, addr := 0x10000000, size := 4, secure := true, level := 0, owner := 0, encl := none } }), ({ sel := 0, op := 2, addr := 4096, len := 4, sram := 0x10000000 }), by decide⟩,
   ⟨(ong.setSpi0 { ong.spi0 with cur := some { sel := 0, op := 2, addr := 4096, len := 4, sram := 0x10000000 }, stall := some { init := 5, kind := 1, addr := 0x10000000, size := 4, secure := true, level := 0, owner := 0, encl := none } }), ({ sel := 0, op := 2, addr := 4096, len := 4, sram := 0x10000000 }), by decide⟩⟩

/-- Every hypothesis of TamperSources is met, clause by clause. -/
theorem wit_TamperSources :
    (∃ (s : State) (k : Fin 13), (armed s k = true) ∧ (watched s k = true) ∧ (s.tmp.active.getLsbD k = false))
    ∧ (∃ (s : State) (k : Fin 13), (armed s k = false ∨ watched s k = false ∨ s.tmp.active.getLsbD k = true))
    ∧ (∃ (s : State) (k : Nat), (respNow s k = 0))
    ∧ (∃ (s : State) (k : Nat), (respNow s k = 1))
    ∧ (∃ (s : State) (k : Nat), (respNow s k = 2))
    ∧ (∃ (s : State) (v : Word), (mainUp s = true) ∧ (s.tmp.holdLock = false))
    ∧ (∃ (s : State) (v : Word), (mainUp s = false ∨ s.tmp.holdLock = true))
    ∧ (∃ (s : State) (v : Word), (mainUp s = true) ∧ (s.fus.lc = .blank))
    ∧ (∃ (s : State) (v : Word), (mainUp s = false ∨ s.fus.lc ≠ .blank))
    ∧ (∃ (s : State) (v : Word), (mainUp s = true) ∧ (fld v 24 8 = 0x7A) ∧ (bit v 0 = true))
    ∧ (∃ (s : State) (v : Word), (mainUp s = false ∨ fld v 24 8 ≠ 0x7A ∨ bit v 0 = false))
    ∧ (∃ (s : State) (k : Nat), (k < 4))
    ∧ (∃ (s : State) (k : Nat), (4 ≤ k))
    ∧ (∃ (s : State) (a b : Nat), (s.snf.flag = false) ∧ (s.tmp.trig = none) ∧ (a ≠ 3)) :=
  ⟨⟨(up), (3), by decide⟩,
   ⟨(off0), (3), by decide⟩,
   ⟨((up.setTmp { up.tmp with resp := 0 })), (3), by decide⟩,
   ⟨((up.setTmp { up.tmp with resp := 0x40 })), (3), by decide⟩,
   ⟨(((up.setFus { up.fus with lc := .commissioned }).setTmp { (up.setFus { up.fus with lc := .commissioned }).tmp with resp := 0x80 })), (3), by decide⟩,
   ⟨(up), (5), by decide⟩,
   ⟨(up.setTmp { up.tmp with holdLock := true }), (5), by decide⟩,
   ⟨(up), (5), by decide⟩,
   ⟨(up.setFus { up.fus with lc := .commissioned }), (5), by decide⟩,
   ⟨(up), (0x7A000001), by decide⟩,
   ⟨(up), (1), by decide⟩,
   ⟨(up), (2), by decide⟩,
   ⟨(up), (5), by decide⟩,
   ⟨(up), (1), (3), by decide⟩⟩

/-- Every hypothesis of SnuffRun is met, clause by clause. -/
theorem wit_SnuffRun :
    (∃ (s : State) (a b : Nat), (s.snf.flag = true ∨ s.tmp.trig.isSome = true))
    ∧ (∃ (s : State) (a b : Nat), (s.snf.flag = false) ∧ (s.tmp.trig = none))
    ∧ (∃ (s : State) (e : SnuffEnv) (n : Nat) (k : Nat), (s.tmp.trig = some (k, n)) ∧ (k ≠ 3) ∧ ((s.snf.vigil && e.vlow) = false))
    ∧ (∃ (s : State) (e : SnuffEnv) (n k : Nat), (s.tmp.trig = some (k, n)) ∧ (k ≠ 3) ∧ (mainUp s = true))
    ∧ (∃ (s : State) (k : Nat), (mainUp s = true))
    ∧ (∃ (s : State) (e : SnuffEnv), (s.tmp.trig = none))
    ∧ (∃ (s : State) (e : Event) (l : List Event), (mainUp s = true) ∧ (s.glb.queue = e :: l))
    ∧ (∃ (s : State), (mainUp s = true) ∧ (s.upd.paused = true))
    ∧ (∃ (s : State), (mainUp s = false ∨ s.upd.paused = false))
    ∧ (∃ (s : State) (k : Nat), (mainUp s = false))
    ∧ (∃ (s : State), (mainUp s = false ∨ s.glb.queue = [])) :=
  ⟨⟨(up.setSnf { up.snf with flag := true }), (1), (3), by decide⟩,
   ⟨(up), (1), (3), by decide⟩,
   ⟨((up.setTmp { up.tmp with trig := some (1, 3) })), (⟨0, 0, false, 300, 900, 850⟩), (3), (1), by decide⟩,
   ⟨((up.setTmp { up.tmp with trig := some (1, 3) })), (⟨0, 0, false, 300, 900, 850⟩), (3), (1), by decide⟩,
   ⟨(up), (1), by decide⟩,
   ⟨(up), (⟨0, 0, false, 300, 900, 850⟩), by decide⟩,
   ⟨(up.setGlb { up.glb with queue := [{ kind := .irq 0 11 }] }), ({ kind := .irq 0 11 }), ([]), by decide⟩,
   ⟨(up.setUpd { up.upd with paused := true }), by decide⟩,
   ⟨(up), by decide⟩,
   ⟨(off0), (1), by decide⟩,
   ⟨(up), by decide⟩⟩

end Sys2Proof.Tests
end

section
/-! The statements of 01_architecture.md: the register reads of block 0 (R21, R38). -/
namespace Sys2Proof.Machine

/-- Block 0 of the internal map is GLB_ (R21). -/
@[simp] theorem rdBlock_glb (s : State) (o : Nat) : rdBlock s 0 o = rdGlb s o := rfl

/-- GLB_CAP stands at offset 0x008 of GLB_ and takes nothing from the state. -/
@[simp] theorem rdGlb_cap (s : State) : rdGlb s 0x008 = glbCap := rfl

/-- Settles O2: block 0 reads GLB_, its offset 0x008 reads GLB_CAP, and GLB_CAP is the constant of R38. -/
theorem capRegister : Obligations.CapRegister := by
  unfold Obligations.CapRegister
  intro s
  calc rdBlock s 0 0x008
      _ = rdGlb s 0x008 := rdBlock_glb s 0x008
      _ = glbCap := rdGlb_cap s
      _ = 0x000B224F := rfl

end Sys2Proof.Machine
end

section
/-! The statements of 02_beacon_tick.md: the length of a tick and the RUN write (R39, R41). -/
namespace Sys2Proof.Machine

/-- The command BCN_RUN is the write of GLB_BCN_CFG.RUN. -/
theorem exec_bcnRun (v : Word) (s : State) : exec (.bcnRun v) s = execBcnRun v s := rfl

/-- A count is 40 ns, so the counts of a tick add up to P_T in ns (R39). -/
theorem forty_mul_ticksN (s : State) : 40 * ticksN s = 1000 * (100 + 50 * s.glb.period) := by
  unfold ticksN
  omega

/-- The codes of PERIOD from 19 on belong to no permitted configuration, whatever the source (R39). -/
theorem bcnCfgOk_eq_false_of_period {g : Glb} (h : 19 ≤ g.period) : bcnCfgOk g = false := by
  have hp : ¬ g.period ≤ 18 := by omega
  simp [bcnCfgOk, hp]

/-- A RUN = 1 write to a stopped beacon with a forbidden configuration is refused (R41). -/
theorem execBcnRun_forbidden {v : Word} {s : State} (hup : mainUp s = true) (hrun : s.glb.run = false)
    (hv : bit v 0 = true) (hcfg : bcnCfgOk s.glb = false) :
    execBcnRun v s = .next (refuseWrite s 0x40000100 0xA) := by
  simp [execBcnRun, hup, hrun, hv, hcfg]

/-- Settles O13: the tick's length is R39's formula, and a PERIOD of 19 to 31 makes the RUN write a refused one, which
starts nothing. -/
theorem beaconPeriod : Obligations.BeaconPeriod := by
  unfold Obligations.BeaconPeriod
  refine ⟨fun s _ => forty_mul_ticksN s, fun s v hup hrun hv hper => ?_⟩
  have hcfg : bcnCfgOk s.glb = false := bcnCfgOk_eq_false_of_period hper
  have hexec : exec (.bcnRun v) s = .next (refuseWrite s 0x40000100 0xA) :=
    (exec_bcnRun v s).trans (execBcnRun_forbidden hup hrun hv hcfg)
  exact ⟨_, hexec, refuseWrite_sameBut s 0x40000100 0xA⟩

end Sys2Proof.Machine
end

section
/-! The statements of 06_fuses_and_configuration.md: the bits of one copy at its three references (R138). -/
namespace Sys2Proof.Machine

/-- A bit is stable at 1 when it reads 1 at each reference (R138). -/
theorem stable1_getLsbD_iff (c : FuseWord) (i : Nat) :
    (stable1 c).getLsbD i = true ↔
      (c.nom.getLsbD i = true ∧ c.low.getLsbD i = true ∧ c.high.getLsbD i = true) := by
  simp [stable1, and_assoc]

/-- A bit of the word is stable at 0 when it reads 0 at each reference (R138). The bound is needed: past bit 31 the
readings are 0 but stable0 has no bit. -/
theorem stable0_getLsbD_iff (c : FuseWord) {i : Nat} (hi : i < 32) :
    (stable0 c).getLsbD i = true ↔
      (c.nom.getLsbD i = false ∧ c.low.getLsbD i = false ∧ c.high.getLsbD i = false) := by
  simp [stable0, hi, and_assoc]

/-- A bit of the word is marginal when it is stable at neither value. -/
theorem margBits_getLsbD_iff (c : FuseWord) {i : Nat} (hi : i < 32) :
    (margBits c).getLsbD i = true ↔
      ¬ ((stable1 c).getLsbD i = true ∨ (stable0 c).getLsbD i = true) := by
  simp [margBits, hi]

/-- Three readings agree exactly when they are all 1 or all 0. -/
theorem readings_agree_iff (x y z : Bool) :
    (x = y ∧ y = z) ↔ (x = true ∧ y = true ∧ z = true) ∨ (x = false ∧ y = false ∧ z = false) := by
  revert x y z
  decide

/-- A bit of the word is marginal exactly when its three readings do not agree (R138). -/
theorem margBits_getLsbD_iff_disagree (c : FuseWord) {i : Nat} (hi : i < 32) :
    (margBits c).getLsbD i = true ↔
      ¬ (c.nom.getLsbD i = c.low.getLsbD i ∧ c.low.getLsbD i = c.high.getLsbD i) := by
  rw [margBits_getLsbD_iff c hi, stable1_getLsbD_iff, stable0_getLsbD_iff c hi, readings_agree_iff]

/-- A blown copy reads, at each reference, what it read before with the blown bits added. -/
theorem fuseCell_blowCell_same (s : State) (w : Nat) (b : Word) :
    fuseCell (blowCell s w b) w =
      ⟨(fuseCell s w).nom ||| b, (fuseCell s w).low ||| b, (fuseCell s w).high ||| b⟩ := by
  simp only [blowCell, onFus, fuseCell, State.setFus_fus, tget_tput_same]

/-- A blown bit is stable at 1, whatever it read before (R138). -/
theorem stable1_blowCell_getLsbD (s : State) (w : Nat) {b : Word} {i : Nat} (hb : b.getLsbD i = true) :
    (stable1 (fuseCell (blowCell s w b) w)).getLsbD i = true := by
  rw [fuseCell_blowCell_same, stable1_getLsbD_iff]
  simp [hb]

/-- Settles O28: the three classes of a bit are told apart by its readings, and a blown bit is stable at 1. -/
theorem fuseBits : Obligations.FuseBits := by
  unfold Obligations.FuseBits
  refine ⟨fun c i hi => ?_, fun s w b i hb => ?_⟩
  · exact ⟨stable1_getLsbD_iff c i, stable0_getLsbD_iff c hi, margBits_getLsbD_iff_disagree c hi⟩
  · exact (stable1_getLsbD_iff _ i).mp (stable1_blowCell_getLsbD s w hb)

end Sys2Proof.Machine
end

section
/-! The statements of 07_worlds_and_partitions.md: instructions of a running core, services of the secure firmware, and
the context entry of a partition in use (R163, R164, R171, R198). -/
namespace Sys2Proof.Machine

/-- The command CWR is the core control register write of 07 R164. -/
theorem exec_cwr (c : Fin 2) (n : BitVec 12) (rs1 : Fin 32) (s : State) :
    exec (.cwr c n rs1) s = execCwr c n rs1 s := rfl

/-- The command PART_UNLOAD is the service of 07 R196. -/
theorem exec_partUnload (c : Fin 2) (s : State) : exec (.partUnload c) s = execPartUnload c s := rfl

/-- An instruction takes effect on a core that runs, in a partition that stands. -/
theorem instr_of_runs {s : State} {c : Nat} {f : State → State} (hr : coreRuns s c = true)
    (hp : partGone s c = false) : instr s c f = f s := by
  simp [instr, hr, hp]

/-- A register write that its level does not allow is an illegal instruction (R163, R164). -/
theorem execCwr_of_refused {s : State} {c : Nat} {n : BitVec 12} {rs1 : Nat} (hr : coreRuns s c = true)
    (hp : partGone s c = false) (hw : ccrWrite s (getCore s c) c n.toNat (xReg (getCore s c) rs1) = none) :
    execCwr c n rs1 s = .next (illegal (pctxLog s (getCore s c) n.toNat) c) := by
  simp only [execCwr, instr_of_runs hr hp, hw]

/-- A partition is in use when the PARTSEL of either core names it (R198). -/
theorem partInUse_iff {s : State} {n : Nat} :
    partInUse s n = true ↔ ((getCore s 0).part = n ∨ (getCore s 1).part = n) := by
  simp [partInUse]

/-- The sixteen registers PCTX0 to PCTX15 stand from 0x40 on (R164). -/
theorem toNat_pctxReg (n : Fin 16) : (0x40 + n.val : BitVec 12).toNat = 0x40 + n.val := by
  have hn : n.val < 16 := n.isLt
  have hreg : (0x40 + n.val : BitVec 12) = BitVec.ofNat 12 (0x40 + n.val) := (BitVec.ofNat_add 0x40 n.val).symm
  rw [hreg, BitVec.toNat_ofNat]
  omega

/-- PCTXn is written by the Monitor alone, and only while partition n is not in use (R164, R174, R198). -/
theorem ccrWrite_pctx {s : State} {x : Core} {c n : Nat} {v : DWord} (hn : n < 16) :
    ccrWrite s x c (0x40 + n) v =
      if x.level = .mon then (if partInUse s n then none else some (pctxPut s n v)) else none := by
  have hlt : 0x40 + n < 0x50 := by omega
  have hne {m : Nat} (hm : m < 0x40) : 0x40 + n ≠ m := by omega
  have hge {m : Nat} (hm : m ≤ 0x40) : decide (0x40 + n < m) = false := by simpa using Nat.le_add_right_of_le hm
  simp [ccrWrite, hlt, hne, hge]

/-- The refused write of an entry in use writes its diagnostics entry at Monitor level (R198). -/
theorem pctxLog_of_inUse {s : State} {x : Core} {n : Nat} (hx : x.level = .mon) (hn : n < 16)
    (hu : partInUse s n = true) :
    pctxLog s x (0x40 + n) = logOther s .firmware (leBytes 8 (0x40 + n)) := by
  have hlt : 0x40 + n < 0x50 := by omega
  simp [pctxLog, hx, hlt, hu]

/-- The Monitor's write of PCTXn is an illegal instruction while partition n is in use (R198). -/
theorem execCwr_pctx_of_inUse {s : State} {c : Nat} {n : Fin 16} {rs1 : Nat} (hr : coreRuns s c = true)
    (hp : partGone s c = false) (hmon : (getCore s c).level = .mon) (hu : partInUse s n = true) :
    execCwr c (0x40 + n.val) rs1 s = .next (illegal (logOther s .firmware (leBytes 8 (0x40 + n.val))) c) := by
  have hw : ccrWrite s (getCore s c) c (0x40 + n.val : BitVec 12).toNat (xReg (getCore s c) rs1) = none := by
    rw [toNat_pctxReg, ccrWrite_pctx n.isLt, if_pos hmon, if_pos hu]
  rw [execCwr_of_refused hr hp hw, toNat_pctxReg, pctxLog_of_inUse hmon n.isLt hu]

/-- A service asked for from a level that may ask for it is served for the caller (R171, R172). -/
theorem serve_of_asks {s : State} {c num : Nat} {f : Core → State} (h : asks s c num = true)
    (hnum : num ∈ serviceNums) : serve s c num f = f (getCore s c) := by
  simp only [asks, Bool.and_eq_true, Bool.not_eq_true', decide_eq_true_eq] at h
  obtain ⟨⟨⟨⟨⟨hr, hmon⟩, -⟩, hcall⟩, hnumber⟩, hlevel⟩ := h
  simp [serve, hr, hmon, hcall, hnumber, hlevel, hnum]

/-- PART_UNLOAD of a partition in use clears nothing: it writes the diagnostics entry and answers 4 (R198). -/
theorem execPartUnload_of_inUse {s : State} {c n : Nat} (h : asks s c 2 = true)
    (hreg : callReg (getCore s c) 10 = n) (h1 : 1 ≤ n) (h15 : n ≤ 15) (hu : partInUse s n = true) :
    execPartUnload c s = .next (answer (logOther s .firmware (leBytes 8 (0x40 + n))) c 4 0) := by
  have hserve {f : Core → State} : serve s c 0x02 f = f (getCore s c) := serve_of_asks h (by decide)
  have hrange : ¬ (n = 0 ∨ 15 < n) := by omega
  have hlog : pctxLog s { getCore s c with level := .mon } (0x40 + n) =
      logOther s .firmware (leBytes 8 (0x40 + n)) := pctxLog_of_inUse rfl (by omega) hu
  simp [execPartUnload, hserve, hreg, hrange, hu, hlog]

/-- Settles O49: a PCTXn write of the Monitor and PART_UNLOAD both find partition n in use, so neither reaches
pctxPut; the diagnostics entry leaves the cores, and with them the sixteen entries, as they were. -/
theorem partitionInUse : Obligations.PartitionInUse := by
  unfold Obligations.PartitionInUse
  refine ⟨fun s c n rs1 hr hp hmon hpart => ⟨?_, logOther_cores ..⟩, fun s c n ha hreg h1 h15 hpart => ?_⟩
  · exact (exec_cwr ..).trans (execCwr_pctx_of_inUse hr hp hmon (partInUse_iff.mpr hpart))
  · exact (exec_partUnload c s).trans (execPartUnload_of_inUse ha hreg h1 h15 (partInUse_iff.mpr hpart))

end Sys2Proof.Machine
end

section
/-! The statements of 08_access_checks.md: the executable range, the first of the checks of R208 (R203). -/
namespace Sys2Proof.Machine

/-- The executable range fails exactly for a fetch outside mask ROM and system SRAM (R203). -/
theorem fetchRange_eq_false_iff (a : Acc) :
    fetchRange a = false ↔ a.kind = 2 ∧ targetOf a.addr ≠ some 0 ∧ targetOf a.addr ≠ some 1 := by
  simp [fetchRange, and_assoc]

/-- The executable range is checked before the regions and the map: its failure alone decides (R208). -/
theorem issueCheck_of_fetchRange_eq_false {s : State} {a : Acc} (h : fetchRange a = false) :
    issueCheck s a = .deny 5 0 := by
  simp [issueCheck, h]

/-- A refusal where the access is issued is the one reported: the target's checks are not reached (R208). -/
theorem accCheck_of_issueCheck_deny {s : State} {a : Acc} {src idx : Nat} (h : issueCheck s a = .deny src idx) :
    accCheck s a = .deny src idx := by
  simp [accCheck, h]

/-- Settles O4: such a fetch fails the executable range, which is checked ahead of every region. -/
theorem fetchesOutsideRefused : Obligations.FetchesOutsideRefused := by
  unfold Obligations.FetchesOutsideRefused
  intro s a hfetch hrom hsram
  have hrange : fetchRange a = false := (fetchRange_eq_false_iff a).mpr ⟨hfetch, hrom, hsram⟩
  have hissue : issueCheck s a = .deny 5 0 := issueCheck_of_fetchRange_eq_false hrange
  exact accCheck_of_issueCheck_deny hissue

end Sys2Proof.Machine
end

section
/-! The statements of 09_key_vault.md: the key check value (R228). -/
namespace Sys2Proof.Machine

/-- leBytes n writes n bytes, whatever the value. -/
@[simp] theorem length_leBytes (n v : Nat) : (leBytes n v).length = n := by
  induction n generalizing v with
  | zero => rfl
  | succ n ih => simp only [leBytes, List.length_cons, ih]

/-- beBytes n writes n bytes, whatever the value. -/
@[simp] theorem length_beBytes (n v : Nat) : (beBytes n v).length = n := by
  simp [beBytes]

/-- The rounds of SHA-2 keep the number of working variables. -/
@[simp] theorem length_sha2Rounds (a : Sha2) (ks ws vs : List Nat) :
    (sha2Rounds a ks ws vs).length = vs.length := by
  fun_induction sha2Rounds a ks ws vs with
  | case1 k ks w ws va vb vc vd ve vf vg vh t1 t2 ih => exact ih
  | case2 => rfl

/-- A block of SHA-2 keeps the number of chaining words. -/
@[simp] theorem length_sha2Block (a : Sha2) (h ws : List Nat) : (sha2Block a h ws).length = h.length := by
  simp [sha2Block]

/-- The blocks of a message keep the number of chaining words. -/
@[simp] theorem length_sha2Blocks (a : Sha2) (n : Nat) (h : List Nat) (b : Bytes) :
    (sha2Blocks a n h b).length = h.length := by
  induction n generalizing h b with
  | zero => rfl
  | succ n ih => simp only [sha2Blocks, ih, length_sha2Block]

/-- A SHA-2 digest has its n bytes when the chaining words hold that many. -/
theorem length_sha2 {a : Sha2} {h : List Nat} {n : Nat} (b : Bytes) (hn : n ≤ h.length * (a.w / 8)) :
    (sha2 a h n b).length = n := by
  simpa [sha2] using hn

/-- A SHA-256 digest is 32 bytes (FIPS 180-4). -/
@[simp] theorem length_sha256 (b : Bytes) : (sha256 b).length = 32 :=
  length_sha2 b (by decide)

/-- The 10 ASCII bytes that begin the hashed form (R228). -/
theorem ascii_stoltoKcv :
    ascii "STOLTO-KCV" = [0x53, 0x54, 0x4F, 0x4C, 0x54, 0x4F, 0x2D, 0x4B, 0x43, 0x56] := by
  decide

/-- The KCV of an AES key is read off the encryption of the zero block (R228). -/
theorem kcvOf_of_le_two {alg : Nat} (m : Bytes) (h : alg ≤ 2) :
    kcvOf alg m = (aesEnc m (List.replicate 16 0)).take 3 :=
  if_pos h

/-- The KCV of any other key is read off a hash that binds it to its ALG (R228). -/
theorem kcvOf_of_two_lt {alg : Nat} (m : Bytes) (h : 2 < alg) :
    kcvOf alg m = (sha256 (ascii "STOLTO-KCV" ++ [BitVec.ofNat 8 alg] ++ m)).take 3 :=
  if_neg (by omega)

/-- A hashed KCV is 3 bytes, since the digest is longer (R228). -/
theorem length_kcvOf_of_two_lt {alg : Nat} (m : Bytes) (h : 2 < alg) : (kcvOf alg m).length = 3 := by
  simp [kcvOf_of_two_lt m h]

/-- Settles O3: ALG 2 is the last that encrypts; past it the digest's 32 bytes give the 3 of the KCV. -/
theorem keyCheckValue : Obligations.KeyCheckValue := by
  unfold Obligations.KeyCheckValue
  refine ⟨fun alg m haes => kcvOf_of_le_two m haes, fun alg m hhash => ⟨?_, length_kcvOf_of_two_lt m hhash⟩⟩
  rw [← ascii_stoltoKcv]
  exact kcvOf_of_two_lt m hhash

end Sys2Proof.Machine
end

section
/-! The statements of 14_host_rings.md: VF Enable and ARI Capable Hierarchy (R330). -/
namespace Sys2Proof.Machine

/-- The command VF_ENABLE is the write of the SR-IOV control word. -/
theorem exec_vfEnable (on : Bool) (n : Nat) (ari : Bool) (s : State) :
    exec (.vfEnable on n ari) s = execVfEnable on n ari s := rfl

/-- With the main domain down no write reaches the SR-IOV control word. -/
theorem exec_vfEnable_of_mainDown {s : State} (on : Bool) (n : Nat) (ari : Bool) (hdown : mainUp s = false) :
    exec (.vfEnable on n ari) s = .next s := by
  simp [exec_vfEnable, execVfEnable, hdown]

/-- Without ARI, a write that asks for more than 7 VFs sets ARI Capable Hierarchy to 0 and does nothing else (R330). -/
theorem exec_vfEnable_without_ari {s : State} {n : Nat} (hup : mainUp s = true) (hn : 7 < n) :
    exec (.vfEnable true n false) s = .next (s.setHif { s.hif with ari := false }) := by
  simp [exec_vfEnable, execVfEnable, hup, hn]

/-- Settles O22: with the main domain up the write changes ARI Capable Hierarchy alone, and with it down nothing, so
VF Enable and NumVFs stay as they were. -/
theorem vfEnableNeedsAri : Obligations.VfEnableNeedsAri := by
  unfold Obligations.VfEnableNeedsAri
  refine ⟨fun s n hn hoff => ?_, fun s n hn hup => ?_⟩
  · cases hup : mainUp s with
    | false => exact ⟨s, exec_vfEnable_of_mainDown true n false hup, hoff, sameBut_refl [.hif] s⟩
    | true => exact ⟨_, exec_vfEnable_without_ari hup hn, hoff, sb_blkHif (sameBut_refl [.hif] s) rfl⟩
  · exact ⟨_, exec_vfEnable_without_ari hup hn, rfl, rfl, rfl⟩

end Sys2Proof.Machine
end

section
/-! The statements of 19_firmware_update.md: ACTIVATE_CANCEL before and from the edge of X (R461). -/
namespace Sys2Proof.Machine

/-- A host command whose descriptor is there to serve ends with what its run answers for that descriptor. -/
theorem serveCmd_of_jobOf {s : State} {fn r op : Nat} {x : Staged} (f : State → Bytes → Ans)
    (hjob : jobOf s fn r op = some x) : serveCmd s fn r op f = conclude (ringKey fn r) x (f s x.desc) := by
  simp [serveCmd, hjob]

/-- The command ACTIVATE_CANCEL puts into effect what activateCancelCmd answers for the descriptor of opcode 0x84. -/
theorem exec_activateCancel_of_jobOf {s : State} {fn : Fin 16} {r : Fin 8} {x : Staged} (io : CmdIo)
    (hjob : jobOf s fn r 0x84 = some x) :
    exec (.activateCancel fn r io) s =
      .next (conclude (ringKey fn r) x (activateCancelCmd s fn x.desc io)) :=
  congrArg Host.Outcome.next (serveCmd_of_jobOf _ hjob)

/-- Before the edge of X the pending image is not pending any more and its announcement is cleared (R461). -/
theorem activateCancelCmd_before_edge {s : State} {d : Bytes} (fn : Nat) (io : CmdIo) (hkind : dOpnd d 0 ≤ 1)
    (hpend : s.upd.pending = some (dOpnd d 0)) (hedge : tickReached s.upd.actTick s.glb.tick = false) :
    activateCancelCmd s fn d io =
      { st := annClear (s.setUpd { s.upd with pending := none, actTick := 0, actRaise := false }) } := by
  have himage : ¬ 2 < dOpnd d 0 := by omega
  have hannounced : dOpnd d 0 ≠ 2 := by omega
  simp [activateCancelCmd, himage, hannounced, hpend, hedge]

/-- From the edge of X the command is DENIED, whatever is pending (R461). -/
theorem activateCancelCmd_from_edge {s : State} {d : Bytes} (fn : Nat) (io : CmdIo) (hkind : dOpnd d 0 ≤ 2)
    (hedge : tickReached s.upd.actTick s.glb.tick = true) : activateCancelCmd s fn d io = .denied s := by
  have himage : ¬ 2 < dOpnd d 0 := by omega
  simp [activateCancelCmd, himage, hedge]

/-- A cleared announcement reads CAUSE 0, LEN 0 and INFORCE 0; every other mode field stays (R87). -/
@[simp] theorem annClear_mode (s : State) :
    (annClear s).mode = { s.mode with annCause := 0, annLen := 0, annIn := false } := by
  simp [annClear]

/-- Clearing an announcement leaves the update block, and with it the staged images, as it was. -/
@[simp] theorem annClear_upd (s : State) : (annClear s).upd = s.upd := by
  simp [annClear]

/-- Settles O44: the edge of X decides which of its two answers the command gives; the first clears the announcement,
which leaves the staged images alone, and the second leaves the state as it was. -/
theorem cancelActivation : Obligations.CancelActivation := by
  unfold Obligations.CancelActivation
  refine ⟨fun s fn r io x hjob hkind hpend hedge => ?_, fun s => ⟨?_, ?_, annClear_upd s⟩,
    fun s fn r io x hjob hkind hedge => ?_⟩
  · rw [exec_activateCancel_of_jobOf io hjob, activateCancelCmd_before_edge fn io hkind hpend hedge]
  · rw [annClear_mode]
  · rw [annClear_mode]
  · rw [exec_activateCancel_of_jobOf io hjob, activateCancelCmd_from_edge fn io hkind hedge, Ans.denied]

end Sys2Proof.Machine
end

section
/-! What every command does: it goes on, changes only its own parts, keeps the invariant and sets no latch but by a
verification (01_architecture.md, 10_custody_and_dual_control.md). -/
namespace Sys2Proof.Machine

set_option Elab.async false

/-- A next state is gone on to. -/
theorem goesOn_next (t : State) : ∃ u, (Host.Outcome.next t : Host.Outcome State Fault Refusal) = .next u := ⟨t, rfl⟩

/-- A choice goes on where both its branches do. -/
theorem goesOn_ite {c : Prop} [Decidable c] {a b : Host.Outcome State Fault Refusal}
    (h1 : ∃ t, a = .next t) (h2 : ∃ t, b = .next t) : ∃ t, (if c then a else b) = .next t := by
  split
  · exact h1
  · exact h2

/-- No branch of any command's meaning ends in a fault or a refusal; the cases named choose by a match. -/
theorem exec_goesOn (c : Instr) (s : State) : ∃ t, exec c s = .next t := by
  cases c
  case syncInEdge | quantumBoundary | fusePgmGo | frameReceived | tickOverrun | tripDescArrival | tripMacStart |
      tripMacEnd | descFetchComplete | hostReadError | hifStgTake | hifCplGo | relockStart | fusePulseEnd |
      seasonWindowOpen | seasonRollover | seasonWindowEnd | generateCommitExpiry | custodyVerifyEnd | approval |
      refusal | credential | frameTxEnd | voethData | voethAck | hello | align | seasonPropose | seasonAnswer |
      mirrorSeasonCancel | seasonState | engineOpEnd | pkeResident | pkeOpEnd | spi0CmdEnd | spi0Timeout |
      spi1WordComplete | snuffTrigger | eventAccept | activationConfirm | debugSwitch | interruptTaken =>
    simp only [exec, execSyncInEdge, execQuantumBoundary, execFusePgmGo, execFrameReceived, execTickOverrun,
      execTripDescArrival, execTripMacStart, execTripMacEnd, execDescFetchComplete, execHostReadError, execHifStgTake,
      execHifCplGo, execRelockStart, execFusePulseEnd, execSeasonWindowOpen, execSeasonRollover, execSeasonWindowEnd,
      execGenerateCommitExpiry, execCustodyVerifyEnd, execApproval, execRefusal, execCredential, execFrameTxEnd,
      execVoethData, execVoethAck, execHello, execAlign, execSeasonPropose, execSeasonAnswer, execMirrorSeasonCancel,
      execSeasonState, execEngineOpEnd, execPkeResident, execPkeOpEnd, execSpi0CmdEnd, execSpi0Timeout,
      execSpi1WordComplete, execSnuffTrigger, execEventAccept, execActivationConfirm, execDebugSwitch,
      execInterruptTaken]
    repeat' first | exact goesOn_next _ | apply goesOn_ite | split
  all_goals repeat' first | exact goesOn_next _ | apply goesOn_ite

/-- Every command changes only the parts that touches lists for it. -/
theorem exec_parts (c : Instr) (s : State) : OutParts (touches c) s (exec c s) :=
  match c with
  | .batteryPowerOn => sb_execBatteryPowerOn (sameBut_refl _ s) rfl
  | .vbatLoss => sb_execVbatLoss (sameBut_refl _ s) rfl
  | .powerOnReset .. => sb_execPowerOnReset (sameBut_refl _ s) rfl
  | .mainSupplyLoss => sb_execMainSupplyLoss (sameBut_refl _ s) rfl
  | .nrstAssert => sb_execNrstAssert (sameBut_refl _ s) rfl
  | .nrstRelease => sb_execNrstRelease (sameBut_refl _ s) rfl
  | .watchdogTimeout .. => sb_execWatchdogTimeout (sameBut_refl _ s) rfl
  | .modeWdtKick .. => sb_execModeWdtKick (sameBut_refl _ s) rfl
  | .wdtLock => sb_execWdtLock (sameBut_refl _ s) rfl
  | .swrst .. => sb_execSwrst (sameBut_refl _ s) rfl
  | .recov .. => sb_execRecov (sameBut_refl _ s) rfl
  | .endpointReset => sb_execEndpointReset (sameBut_refl _ s) rfl
  | .kindle .. => sb_execKindle (sameBut_refl _ s) rfl
  | .vsnuffWaitExpiry => sb_execVsnuffWaitExpiry (sameBut_refl _ s) rfl
  | .xaFreqCheck .. => sb_execXaFreqCheck (sameBut_refl _ s) rfl
  | .xbCheck .. => sb_execXbCheck (sameBut_refl _ s) rfl
  | .xbLost => sb_execXbLost (sameBut_refl _ s) rfl
  | .kindleEnd => sb_execKindleEnd (sameBut_refl _ s) rfl
  | .bcnRun .. => sb_execBcnRun (sameBut_refl _ s) rfl
  | .tickEdge .. => sb_execTickEdge (sameBut_refl _ s) rfl
  | .tickOverrun .. => sb_execTickOverrun (sameBut_refl _ s) rfl
  | .syncInEdge .. => sb_execSyncInEdge (sameBut_refl _ s) rfl
  | .syncHoldover => sb_execSyncHoldover (sameBut_refl _ s) rfl
  | .glbTickRead => sb_execGlbTickRead (sameBut_refl _ s) rfl
  | .glbTripLatClear => sb_execGlbTripLatClear (sameBut_refl _ s) rfl
  | .budgetCommit => sb_execBudgetCommit (sameBut_refl _ s) rfl
  | .tripcapCommit => sb_execTripcapCommit (sameBut_refl _ s) rfl
  | .quantumBoundary .. => sb_execQuantumBoundary (sameBut_refl _ s) rfl
  | .announceWindowStart => sb_execAnnounceWindowStart (sameBut_refl _ s) rfl
  | .announceWindowEnd => sb_execAnnounceWindowEnd (sameBut_refl _ s) rfl
  | .sqTail .. => sb_execSqTail (sameBut_refl _ s) rfl
  | .tripDescArrival .. => sb_execTripDescArrival (sameBut_refl _ s) rfl
  | .tripMacStart .. => sb_execTripMacStart (sameBut_refl _ s) rfl
  | .tripMacEnd .. => sb_execTripMacEnd (sameBut_refl _ s) rfl
  | .descFetchComplete .. => sb_execDescFetchComplete (sameBut_refl _ s) rfl
  | .hostReadError .. => sb_execHostReadError (sameBut_refl _ s) rfl
  | .cqHead .. => sb_execCqHead (sameBut_refl _ s) rfl
  | .ringEnable .. => sb_execRingEnable (sameBut_refl _ s) rfl
  | .ringReset .. => sb_execRingReset (sameBut_refl _ s) rfl
  | .functionLevelReset .. => sb_execFunctionLevelReset (sameBut_refl _ s) rfl
  | .d3hotEntry .. => sb_execD3hotEntry (sameBut_refl _ s) rfl
  | .d3hotExit .. => sb_execD3hotExit (sameBut_refl _ s) rfl
  | .vfEnable .. => sb_execVfEnable (sameBut_refl _ s) rfl
  | .hifRingAlloc .. => sb_execHifRingAlloc (sameBut_refl _ s) rfl
  | .hifStgTake => sb_execHifStgTake (sameBut_refl _ s) rfl
  | .hifCplGo .. => sb_execHifCplGo (sameBut_refl _ s) rfl
  | .mbxSend .. => sb_execMbxSend (sameBut_refl _ s) rfl
  | .hifMbxDone .. => sb_execHifMbxDone (sameBut_refl _ s) rfl
  | .fltEn => sb_execFltEn (sameBut_refl _ s) rfl
  | .relockGoA => sb_execRelockGoA (sameBut_refl _ s) rfl
  | .relockGoB => sb_execRelockGoB (sameBut_refl _ s) rfl
  | .relockStart => sb_execRelockStart (sameBut_refl _ s) rfl
  | .relockLockShown .. => sb_execRelockLockShown (sameBut_refl _ s) rfl
  | .relockFail .. => sb_execRelockFail (sameBut_refl _ s) rfl
  | .rampStep .. => sb_execRampStep (sameBut_refl _ s) rfl
  | .lossOfLock .. => sb_execLossOfLock (sameBut_refl _ s) rfl
  | .degrade => sb_execDegrade (sameBut_refl _ s) rfl
  | .xaLost => sb_execXaLost (sameBut_refl _ s) rfl
  | .rereadInterval => sb_execRereadInterval (sameBut_refl _ s) rfl
  | .fusRereadNow => sb_execFusRereadNow (sameBut_refl _ s) rfl
  | .fuseRereadPass => sb_execFuseRereadPass (sameBut_refl _ s) rfl
  | .fuseWordReread .. => sb_execFuseWordReread (sameBut_refl _ s) rfl
  | .fusePgmGo .. => sb_execFusePgmGo (sameBut_refl _ s) rfl
  | .fusePulseEnd .. => sb_execFusePulseEnd (sameBut_refl _ s) rfl
  | .wgateCall .. => sb_execWgateCall (sameBut_refl _ s) rfl
  | .wgateReturn .. => sb_execWgateReturn (sameBut_refl _ s) rfl
  | .tret .. => sb_execTret (sameBut_refl _ s) rfl
  | .eenter .. => sb_execEenter (sameBut_refl _ s) rfl
  | .eexit .. => sb_execEexit (sameBut_refl _ s) rfl
  | .crd .. => sb_execCrd (sameBut_refl _ s) rfl
  | .cwr .. => sb_execCwr (sameBut_refl _ s) rfl
  | .tfence .. => sb_execTfence (sameBut_refl _ s) rfl
  | .ecall .. => sb_execEcall (sameBut_refl _ s) rfl
  | .ebreak .. => sb_execEbreak (sameBut_refl _ s) rfl
  | .interruptTaken .. => sb_execInterruptTaken (sameBut_refl _ s) rfl
  | .query .. => sb_execQuery (sameBut_refl _ s) rfl
  | .partLoad .. => sb_execPartLoad (sameBut_refl _ s) rfl
  | .partUnload .. => sb_execPartUnload (sameBut_refl _ s) rfl
  | .enclCreate .. => sb_execEnclCreate (sameBut_refl _ s) rfl
  | .enclAdd .. => sb_execEnclAdd (sameBut_refl _ s) rfl
  | .enclSeal .. => sb_execEnclSeal (sameBut_refl _ s) rfl
  | .enclDestroy .. => sb_execEnclDestroy (sameBut_refl _ s) rfl
  | .enclReport .. => sb_execEnclReport (sameBut_refl _ s) rfl
  | .pkeRaw .. => sb_execPkeRaw (sameBut_refl _ s) rfl
  | .irqRaise .. => sb_execIrqRaise (sameBut_refl _ s) rfl
  | .mpuCtlEn .. => sb_execMpuCtlEn (sameBut_refl _ s) rfl
  | .mpuStallTimeout .. => sb_execMpuStallTimeout (sameBut_refl _ s) rfl
  | .fwlHold .. => sb_execFwlHold (sameBut_refl _ s) rfl
  | .firewallHoldTimeout .. => sb_execFirewallHoldTimeout (sameBut_refl _ s) rfl
  | .zeroizeReadback .. => sb_execZeroizeReadback (sameBut_refl _ s) rfl
  | .seasonWindowOpen .. => sb_execSeasonWindowOpen (sameBut_refl _ s) rfl
  | .seasonRollover .. => sb_execSeasonRollover (sameBut_refl _ s) rfl
  | .seasonWindowEnd .. => sb_execSeasonWindowEnd (sameBut_refl _ s) rfl
  | .generateCommitExpiry .. => sb_execGenerateCommitExpiry (sameBut_refl _ s) rfl
  | .custCommit .. => sb_execCustCommit (sameBut_refl _ s) rfl
  | .custCancel .. => sb_execCustCancel (sameBut_refl _ s) rfl
  | .custVerify .. => sb_execCustVerify (sameBut_refl _ s) rfl
  | .custodyVerifyEnd => sb_execCustodyVerifyEnd (sameBut_refl _ s) rfl
  | .requestExpiry => sb_execRequestExpiry (sameBut_refl _ s) rfl
  | .requestRepeat => sb_execRequestRepeat (sameBut_refl _ s) rfl
  | .approval => sb_execApproval (sameBut_refl _ s) rfl
  | .refusal => sb_execRefusal (sameBut_refl _ s) rfl
  | .credential .. => sb_execCredential (sameBut_refl _ s) rfl
  | .canMode .. => sb_execCanMode (sameBut_refl _ s) rfl
  | .txreq .. => sb_execTxreq (sameBut_refl _ s) rfl
  | .txabort .. => sb_execTxabort (sameBut_refl _ s) rfl
  | .borReq .. => sb_execBorReq (sameBut_refl _ s) rfl
  | .rxpop .. => sb_execRxpop (sameBut_refl _ s) rfl
  | .frameReceived .. => sb_execFrameReceived (sameBut_refl _ s) rfl
  | .frameTxEnd .. => sb_execFrameTxEnd (sameBut_refl _ s) rfl
  | .busOffRecovery .. => sb_execBusOffRecovery (sameBut_refl _ s) rfl
  | .voethData .. => sb_execVoethData (sameBut_refl _ s) rfl
  | .voethAck .. => sb_execVoethAck (sameBut_refl _ s) rfl
  | .hello .. => sb_execHello (sameBut_refl _ s) rfl
  | .voeRto .. => sb_execVoeRto (sameBut_refl _ s) rfl
  | .helloTimer .. => sb_execHelloTimer (sameBut_refl _ s) rfl
  | .align => sb_execAlign (sameBut_refl _ s) rfl
  | .alignTimer => sb_execAlignTimer (sameBut_refl _ s) rfl
  | .seasonPropose => sb_execSeasonPropose (sameBut_refl _ s) rfl
  | .seasonAnswer => sb_execSeasonAnswer (sameBut_refl _ s) rfl
  | .mirrorSeasonCancel => sb_execMirrorSeasonCancel (sameBut_refl _ s) rfl
  | .seasonState => sb_execSeasonState (sameBut_refl _ s) rfl
  | .engPostGo .. => sb_execEngPostGo (sameBut_refl _ s) rfl
  | .engineOpEnd .. => sb_execEngineOpEnd (sameBut_refl _ s) rfl
  | .engRespop => sb_execEngRespop (sameBut_refl _ s) rfl
  | .pkePostGo .. => sb_execPkePostGo (sameBut_refl _ s) rfl
  | .pkeResident .. => sb_execPkeResident (sameBut_refl _ s) rfl
  | .pkeOpEnd .. => sb_execPkeOpEnd (sameBut_refl _ s) rfl
  | .pkeRespop => sb_execPkeRespop (sameBut_refl _ s) rfl
  | .startupTestPass .. => sb_execStartupTestPass (sameBut_refl _ s) rfl
  | .conditioningBlock .. => sb_execConditioningBlock (sameBut_refl _ s) rfl
  | .healthTestFailure .. => sb_execHealthTestFailure (sameBut_refl _ s) rfl
  | .reseedTickDue => sb_execReseedTickDue (sameBut_refl _ s) rfl
  | .reseed => sb_execReseed (sameBut_refl _ s) rfl
  | .rawCapture .. => sb_execRawCapture (sameBut_refl _ s) rfl
  | .spi0Go => sb_execSpi0Go (sameBut_refl _ s) rfl
  | .spi0CmdEnd .. => sb_execSpi0CmdEnd (sameBut_refl _ s) rfl
  | .spi0Timeout => sb_execSpi0Timeout (sameBut_refl _ s) rfl
  | .spi0Abort => sb_execSpi0Abort (sameBut_refl _ s) rfl
  | .backgroundErase .. => sb_execBackgroundErase (sameBut_refl _ s) rfl
  | .spi1Tx .. => sb_execSpi1Tx (sameBut_refl _ s) rfl
  | .spi1WordComplete .. => sb_execSpi1WordComplete (sameBut_refl _ s) rfl
  | .spi1SelectRelease .. => sb_execSpi1SelectRelease (sameBut_refl _ s) rfl
  | .spi1Rx => sb_execSpi1Rx (sameBut_refl _ s) rfl
  | .tamperSourceAct .. => sb_execTamperSourceAct (sameBut_refl _ s) rfl
  | .tmpHold .. => sb_execTmpHold (sameBut_refl _ s) rfl
  | .tmpSticky .. => sb_execTmpSticky (sameBut_refl _ s) rfl
  | .tmpCtlLock .. => sb_execTmpCtlLock (sameBut_refl _ s) rfl
  | .snuffTrigger .. => sb_execSnuffTrigger (sameBut_refl _ s) rfl
  | .eventAccept => sb_execEventAccept (sameBut_refl _ s) rfl
  | .imageReady => sb_execImageReady (sameBut_refl _ s) rfl
  | .activationConfirm => sb_execActivationConfirm (sameBut_refl _ s) rfl
  | .dimEntryCancel => sb_execDimEntryCancel (sameBut_refl _ s) rfl
  | .wake => sb_execWake (sameBut_refl _ s) rfl
  | .dimWakeComplete .. => sb_execDimWakeComplete (sameBut_refl _ s) rfl
  | .debugSwitch => sb_execDebugSwitch (sameBut_refl _ s) rfl
  | .registerWrite .. => sb_execRegisterWrite (sameBut_refl _ s) rfl
  | .aesEcbEncrypt .. => sb_execAesEcbEncrypt (sameBut_refl _ s) rfl
  | .aesEcbDecrypt .. => sb_execAesEcbDecrypt (sameBut_refl _ s) rfl
  | .aesCbcEncrypt .. => sb_execAesCbcEncrypt (sameBut_refl _ s) rfl
  | .aesCbcDecrypt .. => sb_execAesCbcDecrypt (sameBut_refl _ s) rfl
  | .aesCtrEncrypt .. => sb_execAesCtrEncrypt (sameBut_refl _ s) rfl
  | .aesCtrDecrypt .. => sb_execAesCtrDecrypt (sameBut_refl _ s) rfl
  | .hmacSha256Generate .. => sb_execHmacSha256Generate (sameBut_refl _ s) rfl
  | .hmacSha256Verify .. => sb_execHmacSha256Verify (sameBut_refl _ s) rfl
  | .hmacSha384512Generate .. => sb_execHmacSha384512Generate (sameBut_refl _ s) rfl
  | .hmacSha384512Verify .. => sb_execHmacSha384512Verify (sameBut_refl _ s) rfl
  | .aesGmacGenerate .. => sb_execAesGmacGenerate (sameBut_refl _ s) rfl
  | .aesGmacVerify .. => sb_execAesGmacVerify (sameBut_refl _ s) rfl
  | .aesGcmEncrypt .. => sb_execAesGcmEncrypt (sameBut_refl _ s) rfl
  | .aesGcmDecrypt .. => sb_execAesGcmDecrypt (sameBut_refl _ s) rfl
  | .aesCmacGenerate .. => sb_execAesCmacGenerate (sameBut_refl _ s) rfl
  | .aesCmacVerify .. => sb_execAesCmacVerify (sameBut_refl _ s) rfl
  | .hashCmd .. => sb_execHashCmd (sameBut_refl _ s) rfl
  | .ecdsaSign .. => sb_execEcdsaSign (sameBut_refl _ s) rfl
  | .ecdsaVerify .. => sb_execEcdsaVerify (sameBut_refl _ s) rfl
  | .ed25519Sign .. => sb_execEd25519Sign (sameBut_refl _ s) rfl
  | .ed25519Verify .. => sb_execEd25519Verify (sameBut_refl _ s) rfl
  | .mlDsa65Sign .. => sb_execMlDsa65Sign (sameBut_refl _ s) rfl
  | .mlDsa65Verify .. => sb_execMlDsa65Verify (sameBut_refl _ s) rfl
  | .hybridVerify .. => sb_execHybridVerify (sameBut_refl _ s) rfl
  | .ecdhDerive .. => sb_execEcdhDerive (sameBut_refl _ s) rfl
  | .rsaSign .. => sb_execRsaSign (sameBut_refl _ s) rfl
  | .rsaVerify .. => sb_execRsaVerify (sameBut_refl _ s) rfl
  | .rsaOaepDecrypt .. => sb_execRsaOaepDecrypt (sameBut_refl _ s) rfl
  | .publicKeyRead .. => sb_execPublicKeyRead (sameBut_refl _ s) rfl
  | .random .. => sb_execRandom (sameBut_refl _ s) rfl
  | .keyGenerate .. => sb_execKeyGenerate (sameBut_refl _ s) rfl
  | .keyImport .. => sb_execKeyImport (sameBut_refl _ s) rfl
  | .keyDerive .. => sb_execKeyDerive (sameBut_refl _ s) rfl
  | .keyZeroize .. => sb_execKeyZeroize (sameBut_refl _ s) rfl
  | .assocSet .. => sb_execAssocSet (sameBut_refl _ s) rfl
  | .keyCommit .. => sb_execKeyCommit (sameBut_refl _ s) rfl
  | .keyPin .. => sb_execKeyPin (sameBut_refl _ s) rfl
  | .keyUnpin .. => sb_execKeyUnpin (sameBut_refl _ s) rfl
  | .seasonSchedule .. => sb_execSeasonSchedule (sameBut_refl _ s) rfl
  | .seasonCancel .. => sb_execSeasonCancel (sameBut_refl _ s) rfl
  | .keyInfo .. => sb_execKeyInfo (sameBut_refl _ s) rfl
  | .dbImport .. => sb_execDbImport (sameBut_refl _ s) rfl
  | .dbLoad .. => sb_execDbLoad (sameBut_refl _ s) rfl
  | .dbDelete .. => sb_execDbDelete (sameBut_refl _ s) rfl
  | .dbInfo .. => sb_execDbInfo (sameBut_refl _ s) rfl
  | .custodyRequest .. => sb_execCustodyRequest (sameBut_refl _ s) rfl
  | .custodyCancel .. => sb_execCustodyCancel (sameBut_refl _ s) rfl
  | .custodyStatus .. => sb_execCustodyStatus (sameBut_refl _ s) rfl
  | .ownerCreate .. => sb_execOwnerCreate (sameBut_refl _ s) rfl
  | .ownerDelete .. => sb_execOwnerDelete (sameBut_refl _ s) rfl
  | .keyExport .. => sb_execKeyExport (sameBut_refl _ s) rfl
  | .keyRestore .. => sb_execKeyRestore (sameBut_refl _ s) rfl
  | .snuff .. => sb_execSnuff (sameBut_refl _ s) rfl
  | .debugAuth .. => sb_execDebugAuth (sameBut_refl _ s) rfl
  | .cusEnrol .. => sb_execCusEnrol (sameBut_refl _ s) rfl
  | .cusRevoke .. => sb_execCusRevoke (sameBut_refl _ s) rfl
  | .fuseProgram .. => sb_execFuseProgram (sameBut_refl _ s) rfl
  | .faultEnable .. => sb_execFaultEnable (sameBut_refl _ s) rfl
  | .recommission .. => sb_execRecommission (sameBut_refl _ s) rfl
  | .retire .. => sb_execRetire (sameBut_refl _ s) rfl
  | .commission .. => sb_execCommission (sameBut_refl _ s) rfl
  | .stageBegin .. => sb_execStageBegin (sameBut_refl _ s) rfl
  | .stageData .. => sb_execStageData (sameBut_refl _ s) rfl
  | .stageVerify .. => sb_execStageVerify (sameBut_refl _ s) rfl
  | .activate .. => sb_execActivate (sameBut_refl _ s) rfl
  | .activateCancel .. => sb_execActivateCancel (sameBut_refl _ s) rfl
  | .imageInfo .. => sb_execImageInfo (sameBut_refl _ s) rfl
  | .configWrite .. => sb_execConfigWrite (sameBut_refl _ s) rfl
  | .provision .. => sb_execProvision (sameBut_refl _ s) rfl
  | .tokenChallenge .. => sb_execTokenChallenge (sameBut_refl _ s) rfl
  | .tokenApply .. => sb_execTokenApply (sameBut_refl _ s) rfl
  | .factoryFuse .. => sb_execFactoryFuse (sameBut_refl _ s) rfl
  | .recRead .. => sb_execRecRead (sameBut_refl _ s) rfl
  | .recMark .. => sb_execRecMark (sameBut_refl _ s) rfl
  | .selftest .. => sb_execSelftest (sameBut_refl _ s) rfl
  | .dimCmd .. => sb_execDimCmd (sameBut_refl _ s) rfl
  | .recovery .. => sb_execRecovery (sameBut_refl _ s) rfl
  | .pllSet .. => sb_execPllSet (sameBut_refl _ s) rfl
  | .beaconSet .. => sb_execBeaconSet (sameBut_refl _ s) rfl
  | .swReset .. => sb_execSwReset (sameBut_refl _ s) rfl
  | .busIntegration .. => sb_execBusIntegration (sameBut_refl _ s) rfl
  | .receiveError .. => sb_execReceiveError (sameBut_refl _ s) rfl
  | .conditionInactive .. => sb_execConditionInactive (sameBut_refl _ s) rfl
  | .vsnuffOk => sb_execVsnuffOk (sameBut_refl _ s) rfl
  | .haltRequest .. => sb_execHaltRequest (sameBut_refl _ s) rfl
  | .debuggerResume .. => sb_execDebuggerResume (sameBut_refl _ s) rfl
  | .busAccess .. => sb_execBusAccess (sameBut_refl _ s) rfl
  | .illegalInstruction .. => sb_execIllegalInstruction (sameBut_refl _ s) rfl
  | .spi1SelectAssert => sb_execSpi1SelectAssert (sameBut_refl _ s) rfl
  | .linkUp .. => sb_execLinkUp (sameBut_refl _ s) rfl

/-- Every command but the end of a custody verification keeps what Keeps says. -/
theorem exec_keeps {c : Instr} (hc : c ≠ .custodyVerifyEnd) (s : State) : OutKeeps s (exec c s) :=
  match c with
  | .batteryPowerOn => keeps_execBatteryPowerOn (.refl s)
  | .vbatLoss => keeps_execVbatLoss (.refl s)
  | .powerOnReset .. => keeps_execPowerOnReset (.refl s)
  | .mainSupplyLoss => keeps_execMainSupplyLoss (.refl s)
  | .nrstAssert => keeps_execNrstAssert (.refl s)
  | .nrstRelease => keeps_execNrstRelease (.refl s)
  | .watchdogTimeout .. => keeps_execWatchdogTimeout (.refl s)
  | .modeWdtKick .. => keeps_execModeWdtKick (.refl s)
  | .wdtLock => keeps_execWdtLock (.refl s)
  | .swrst .. => keeps_execSwrst (.refl s)
  | .recov .. => keeps_execRecov (.refl s)
  | .endpointReset => keeps_execEndpointReset (.refl s)
  | .kindle .. => keeps_execKindle (.refl s)
  | .vsnuffWaitExpiry => keeps_execVsnuffWaitExpiry (.refl s)
  | .xaFreqCheck .. => keeps_execXaFreqCheck (.refl s)
  | .xbCheck .. => keeps_execXbCheck (.refl s)
  | .xbLost => keeps_execXbLost (.refl s)
  | .kindleEnd => keeps_execKindleEnd (.refl s)
  | .bcnRun .. => keeps_execBcnRun (.refl s)
  | .tickEdge .. => keeps_execTickEdge (.refl s)
  | .tickOverrun .. => keeps_execTickOverrun (.refl s)
  | .syncInEdge .. => keeps_execSyncInEdge (.refl s)
  | .syncHoldover => keeps_execSyncHoldover (.refl s)
  | .glbTickRead => keeps_execGlbTickRead (.refl s)
  | .glbTripLatClear => keeps_execGlbTripLatClear (.refl s)
  | .budgetCommit => keeps_execBudgetCommit (.refl s)
  | .tripcapCommit => keeps_execTripcapCommit (.refl s)
  | .quantumBoundary .. => keeps_execQuantumBoundary (.refl s)
  | .announceWindowStart => keeps_execAnnounceWindowStart (.refl s)
  | .announceWindowEnd => keeps_execAnnounceWindowEnd (.refl s)
  | .sqTail .. => keeps_execSqTail (.refl s)
  | .tripDescArrival .. => keeps_execTripDescArrival (.refl s)
  | .tripMacStart .. => keeps_execTripMacStart (.refl s)
  | .tripMacEnd .. => keeps_execTripMacEnd (.refl s)
  | .descFetchComplete .. => keeps_execDescFetchComplete (.refl s)
  | .hostReadError .. => keeps_execHostReadError (.refl s)
  | .cqHead .. => keeps_execCqHead (.refl s)
  | .ringEnable .. => keeps_execRingEnable (.refl s)
  | .ringReset .. => keeps_execRingReset (.refl s)
  | .functionLevelReset .. => keeps_execFunctionLevelReset (.refl s)
  | .d3hotEntry .. => keeps_execD3hotEntry (.refl s)
  | .d3hotExit .. => keeps_execD3hotExit (.refl s)
  | .vfEnable .. => keeps_execVfEnable (.refl s)
  | .hifRingAlloc .. => keeps_execHifRingAlloc (.refl s)
  | .hifStgTake => keeps_execHifStgTake (.refl s)
  | .hifCplGo .. => keeps_execHifCplGo (.refl s)
  | .mbxSend .. => keeps_execMbxSend (.refl s)
  | .hifMbxDone .. => keeps_execHifMbxDone (.refl s)
  | .fltEn => keeps_execFltEn (.refl s)
  | .relockGoA => keeps_execRelockGoA (.refl s)
  | .relockGoB => keeps_execRelockGoB (.refl s)
  | .relockStart => keeps_execRelockStart (.refl s)
  | .relockLockShown .. => keeps_execRelockLockShown (.refl s)
  | .relockFail .. => keeps_execRelockFail (.refl s)
  | .rampStep .. => keeps_execRampStep (.refl s)
  | .lossOfLock .. => keeps_execLossOfLock (.refl s)
  | .degrade => keeps_execDegrade (.refl s)
  | .xaLost => keeps_execXaLost (.refl s)
  | .rereadInterval => keeps_execRereadInterval (.refl s)
  | .fusRereadNow => keeps_execFusRereadNow (.refl s)
  | .fuseRereadPass => keeps_execFuseRereadPass (.refl s)
  | .fuseWordReread .. => keeps_execFuseWordReread (.refl s)
  | .fusePgmGo .. => keeps_execFusePgmGo (.refl s)
  | .fusePulseEnd .. => keeps_execFusePulseEnd (.refl s)
  | .wgateCall .. => keeps_execWgateCall (.refl s)
  | .wgateReturn .. => keeps_execWgateReturn (.refl s)
  | .tret .. => keeps_execTret (.refl s)
  | .eenter .. => keeps_execEenter (.refl s)
  | .eexit .. => keeps_execEexit (.refl s)
  | .crd .. => keeps_execCrd (.refl s)
  | .cwr .. => keeps_execCwr (.refl s)
  | .tfence .. => keeps_execTfence (.refl s)
  | .ecall .. => keeps_execEcall (.refl s)
  | .ebreak .. => keeps_execEbreak (.refl s)
  | .interruptTaken .. => keeps_execInterruptTaken (.refl s)
  | .query .. => keeps_execQuery (.refl s)
  | .partLoad .. => keeps_execPartLoad (.refl s)
  | .partUnload .. => keeps_execPartUnload (.refl s)
  | .enclCreate .. => keeps_execEnclCreate (.refl s)
  | .enclAdd .. => keeps_execEnclAdd (.refl s)
  | .enclSeal .. => keeps_execEnclSeal (.refl s)
  | .enclDestroy .. => keeps_execEnclDestroy (.refl s)
  | .enclReport .. => keeps_execEnclReport (.refl s)
  | .pkeRaw .. => keeps_execPkeRaw (.refl s)
  | .irqRaise .. => keeps_execIrqRaise (.refl s)
  | .mpuCtlEn .. => keeps_execMpuCtlEn (.refl s)
  | .mpuStallTimeout .. => keeps_execMpuStallTimeout (.refl s)
  | .fwlHold .. => keeps_execFwlHold (.refl s)
  | .firewallHoldTimeout .. => keeps_execFirewallHoldTimeout (.refl s)
  | .zeroizeReadback .. => keeps_execZeroizeReadback (.refl s)
  | .seasonWindowOpen .. => keeps_execSeasonWindowOpen (.refl s)
  | .seasonRollover .. => keeps_execSeasonRollover (.refl s)
  | .seasonWindowEnd .. => keeps_execSeasonWindowEnd (.refl s)
  | .generateCommitExpiry .. => keeps_execGenerateCommitExpiry (.refl s)
  | .custCommit .. => keeps_execCustCommit (.refl s)
  | .custCancel .. => keeps_execCustCancel (.refl s)
  | .custVerify .. => keeps_execCustVerify (.refl s)
  | .custodyVerifyEnd => absurd rfl hc
  | .requestExpiry => keeps_execRequestExpiry (.refl s)
  | .requestRepeat => keeps_execRequestRepeat (.refl s)
  | .approval => keeps_execApproval (.refl s)
  | .refusal => keeps_execRefusal (.refl s)
  | .credential .. => keeps_execCredential (.refl s)
  | .canMode .. => keeps_execCanMode (.refl s)
  | .txreq .. => keeps_execTxreq (.refl s)
  | .txabort .. => keeps_execTxabort (.refl s)
  | .borReq .. => keeps_execBorReq (.refl s)
  | .rxpop .. => keeps_execRxpop (.refl s)
  | .frameReceived .. => keeps_execFrameReceived (.refl s)
  | .frameTxEnd .. => keeps_execFrameTxEnd (.refl s)
  | .busOffRecovery .. => keeps_execBusOffRecovery (.refl s)
  | .voethData .. => keeps_execVoethData (.refl s)
  | .voethAck .. => keeps_execVoethAck (.refl s)
  | .hello .. => keeps_execHello (.refl s)
  | .voeRto .. => keeps_execVoeRto (.refl s)
  | .helloTimer .. => keeps_execHelloTimer (.refl s)
  | .align => keeps_execAlign (.refl s)
  | .alignTimer => keeps_execAlignTimer (.refl s)
  | .seasonPropose => keeps_execSeasonPropose (.refl s)
  | .seasonAnswer => keeps_execSeasonAnswer (.refl s)
  | .mirrorSeasonCancel => keeps_execMirrorSeasonCancel (.refl s)
  | .seasonState => keeps_execSeasonState (.refl s)
  | .engPostGo .. => keeps_execEngPostGo (.refl s)
  | .engineOpEnd .. => keeps_execEngineOpEnd (.refl s)
  | .engRespop => keeps_execEngRespop (.refl s)
  | .pkePostGo .. => keeps_execPkePostGo (.refl s)
  | .pkeResident .. => keeps_execPkeResident (.refl s)
  | .pkeOpEnd .. => keeps_execPkeOpEnd (.refl s)
  | .pkeRespop => keeps_execPkeRespop (.refl s)
  | .startupTestPass .. => keeps_execStartupTestPass (.refl s)
  | .conditioningBlock .. => keeps_execConditioningBlock (.refl s)
  | .healthTestFailure .. => keeps_execHealthTestFailure (.refl s)
  | .reseedTickDue => keeps_execReseedTickDue (.refl s)
  | .reseed => keeps_execReseed (.refl s)
  | .rawCapture .. => keeps_execRawCapture (.refl s)
  | .spi0Go => keeps_execSpi0Go (.refl s)
  | .spi0CmdEnd .. => keeps_execSpi0CmdEnd (.refl s)
  | .spi0Timeout => keeps_execSpi0Timeout (.refl s)
  | .spi0Abort => keeps_execSpi0Abort (.refl s)
  | .backgroundErase .. => keeps_execBackgroundErase (.refl s)
  | .spi1Tx .. => keeps_execSpi1Tx (.refl s)
  | .spi1WordComplete .. => keeps_execSpi1WordComplete (.refl s)
  | .spi1SelectRelease .. => keeps_execSpi1SelectRelease (.refl s)
  | .spi1Rx => keeps_execSpi1Rx (.refl s)
  | .tamperSourceAct .. => keeps_execTamperSourceAct (.refl s)
  | .tmpHold .. => keeps_execTmpHold (.refl s)
  | .tmpSticky .. => keeps_execTmpSticky (.refl s)
  | .tmpCtlLock .. => keeps_execTmpCtlLock (.refl s)
  | .snuffTrigger .. => keeps_execSnuffTrigger (.refl s)
  | .eventAccept => keeps_execEventAccept (.refl s)
  | .imageReady => keeps_execImageReady (.refl s)
  | .activationConfirm => keeps_execActivationConfirm (.refl s)
  | .dimEntryCancel => keeps_execDimEntryCancel (.refl s)
  | .wake => keeps_execWake (.refl s)
  | .dimWakeComplete .. => keeps_execDimWakeComplete (.refl s)
  | .debugSwitch => keeps_execDebugSwitch (.refl s)
  | .registerWrite .. => keeps_execRegisterWrite (.refl s)
  | .aesEcbEncrypt .. => keeps_execAesEcbEncrypt (.refl s)
  | .aesEcbDecrypt .. => keeps_execAesEcbDecrypt (.refl s)
  | .aesCbcEncrypt .. => keeps_execAesCbcEncrypt (.refl s)
  | .aesCbcDecrypt .. => keeps_execAesCbcDecrypt (.refl s)
  | .aesCtrEncrypt .. => keeps_execAesCtrEncrypt (.refl s)
  | .aesCtrDecrypt .. => keeps_execAesCtrDecrypt (.refl s)
  | .hmacSha256Generate .. => keeps_execHmacSha256Generate (.refl s)
  | .hmacSha256Verify .. => keeps_execHmacSha256Verify (.refl s)
  | .hmacSha384512Generate .. => keeps_execHmacSha384512Generate (.refl s)
  | .hmacSha384512Verify .. => keeps_execHmacSha384512Verify (.refl s)
  | .aesGmacGenerate .. => keeps_execAesGmacGenerate (.refl s)
  | .aesGmacVerify .. => keeps_execAesGmacVerify (.refl s)
  | .aesGcmEncrypt .. => keeps_execAesGcmEncrypt (.refl s)
  | .aesGcmDecrypt .. => keeps_execAesGcmDecrypt (.refl s)
  | .aesCmacGenerate .. => keeps_execAesCmacGenerate (.refl s)
  | .aesCmacVerify .. => keeps_execAesCmacVerify (.refl s)
  | .hashCmd .. => keeps_execHashCmd (.refl s)
  | .ecdsaSign .. => keeps_execEcdsaSign (.refl s)
  | .ecdsaVerify .. => keeps_execEcdsaVerify (.refl s)
  | .ed25519Sign .. => keeps_execEd25519Sign (.refl s)
  | .ed25519Verify .. => keeps_execEd25519Verify (.refl s)
  | .mlDsa65Sign .. => keeps_execMlDsa65Sign (.refl s)
  | .mlDsa65Verify .. => keeps_execMlDsa65Verify (.refl s)
  | .hybridVerify .. => keeps_execHybridVerify (.refl s)
  | .ecdhDerive .. => keeps_execEcdhDerive (.refl s)
  | .rsaSign .. => keeps_execRsaSign (.refl s)
  | .rsaVerify .. => keeps_execRsaVerify (.refl s)
  | .rsaOaepDecrypt .. => keeps_execRsaOaepDecrypt (.refl s)
  | .publicKeyRead .. => keeps_execPublicKeyRead (.refl s)
  | .random .. => keeps_execRandom (.refl s)
  | .keyGenerate .. => keeps_execKeyGenerate (.refl s)
  | .keyImport .. => keeps_execKeyImport (.refl s)
  | .keyDerive .. => keeps_execKeyDerive (.refl s)
  | .keyZeroize .. => keeps_execKeyZeroize (.refl s)
  | .assocSet .. => keeps_execAssocSet (.refl s)
  | .keyCommit .. => keeps_execKeyCommit (.refl s)
  | .keyPin .. => keeps_execKeyPin (.refl s)
  | .keyUnpin .. => keeps_execKeyUnpin (.refl s)
  | .seasonSchedule .. => keeps_execSeasonSchedule (.refl s)
  | .seasonCancel .. => keeps_execSeasonCancel (.refl s)
  | .keyInfo .. => keeps_execKeyInfo (.refl s)
  | .dbImport .. => keeps_execDbImport (.refl s)
  | .dbLoad .. => keeps_execDbLoad (.refl s)
  | .dbDelete .. => keeps_execDbDelete (.refl s)
  | .dbInfo .. => keeps_execDbInfo (.refl s)
  | .custodyRequest .. => keeps_execCustodyRequest (.refl s)
  | .custodyCancel .. => keeps_execCustodyCancel (.refl s)
  | .custodyStatus .. => keeps_execCustodyStatus (.refl s)
  | .ownerCreate .. => keeps_execOwnerCreate (.refl s)
  | .ownerDelete .. => keeps_execOwnerDelete (.refl s)
  | .keyExport .. => keeps_execKeyExport (.refl s)
  | .keyRestore .. => keeps_execKeyRestore (.refl s)
  | .snuff .. => keeps_execSnuff (.refl s)
  | .debugAuth .. => keeps_execDebugAuth (.refl s)
  | .cusEnrol .. => keeps_execCusEnrol (.refl s)
  | .cusRevoke .. => keeps_execCusRevoke (.refl s)
  | .fuseProgram .. => keeps_execFuseProgram (.refl s)
  | .faultEnable .. => keeps_execFaultEnable (.refl s)
  | .recommission .. => keeps_execRecommission (.refl s)
  | .retire .. => keeps_execRetire (.refl s)
  | .commission .. => keeps_execCommission (.refl s)
  | .stageBegin .. => keeps_execStageBegin (.refl s)
  | .stageData .. => keeps_execStageData (.refl s)
  | .stageVerify .. => keeps_execStageVerify (.refl s)
  | .activate .. => keeps_execActivate (.refl s)
  | .activateCancel .. => keeps_execActivateCancel (.refl s)
  | .imageInfo .. => keeps_execImageInfo (.refl s)
  | .configWrite .. => keeps_execConfigWrite (.refl s)
  | .provision .. => keeps_execProvision (.refl s)
  | .tokenChallenge .. => keeps_execTokenChallenge (.refl s)
  | .tokenApply .. => keeps_execTokenApply (.refl s)
  | .factoryFuse .. => keeps_execFactoryFuse (.refl s)
  | .recRead .. => keeps_execRecRead (.refl s)
  | .recMark .. => keeps_execRecMark (.refl s)
  | .selftest .. => keeps_execSelftest (.refl s)
  | .dimCmd .. => keeps_execDimCmd (.refl s)
  | .recovery .. => keeps_execRecovery (.refl s)
  | .pllSet .. => keeps_execPllSet (.refl s)
  | .beaconSet .. => keeps_execBeaconSet (.refl s)
  | .swReset .. => keeps_execSwReset (.refl s)
  | .busIntegration .. => keeps_execBusIntegration (.refl s)
  | .receiveError .. => keeps_execReceiveError (.refl s)
  | .conditionInactive .. => keeps_execConditionInactive (.refl s)
  | .vsnuffOk => keeps_execVsnuffOk (.refl s)
  | .haltRequest .. => keeps_execHaltRequest (.refl s)
  | .debuggerResume .. => keeps_execDebuggerResume (.refl s)
  | .busAccess .. => keeps_execBusAccess (.refl s)
  | .illegalInstruction .. => keeps_execIllegalInstruction (.refl s)
  | .spi1SelectAssert => keeps_execSpi1SelectAssert (.refl s)
  | .linkUp .. => keeps_execLinkUp (.refl s)

/-- A custody verification whose checks fail clears the latch, so it sets none. -/
theorem custodyVerifyEnd_keeps_of_failed {s : State}
    (hfail : (custChecks s (approvalAt s 0) (approvalAt s 0x1800)).isSome = true) :
    OutKeeps s (execCustodyVerifyEnd s) := by
  obtain ⟨⟨res, w⟩, hres⟩ := Option.isSome_iff_exists.mp hfail
  unfold execCustodyVerifyEnd
  refine outKeeps_ite (fun _ => outKeeps_next (.refl s)) fun _ => ?_
  simp only [hres]
  exact outKeeps_next (keeps_reqClose (keeps_latchClear (keeps_onCus (keeps_custRunOver (.refl s)) fun _ => rfl)))

/-- Every command keeps the invariant of the state. -/
theorem exec_keeps_inv {c : Instr} {s t : State} (hs : s.Inv) (e : exec c s = .next t) : t.Inv := by
  obtain ⟨hmem, hgroups⟩ := hs
  by_cases hc : c = .custodyVerifyEnd
  · subst hc
    obtain ⟨-, hm, hg⟩ := custodyVerifyEnd_rest (.refl s) e
    exact ⟨hm hmem, hg hgroups⟩
  · have hk : Keeps s t := (exec_keeps hc s).next t e
    exact ⟨hk.mem hmem, hk.groups hgroups⟩

/-- Settles O1: a step is a choice on the queue. -/
theorem stepRunsFront : Obligations.StepRunsFront := by
  unfold Obligations.StepRunsFront
  refine ⟨fun c s q => rfl, fun s hq => ?_⟩
  simp [step, hq]

/-- Settles O6: every field that the statement names stands at its default. -/
theorem resetInv : Obligations.ResetInv := by
  unfold Obligations.ResetInv State.Inv
  decide

/-- Settles O7: a step is a command on the rest of the queue or one idle count, and either keeps the invariant. -/
theorem stepKeepsInv : Obligations.StepKeepsInv := by
  unfold Obligations.StepKeepsInv
  intro s t hs e
  cases hq : s.pending with
  | nil =>
    obtain rfl : idleCount s = t := by simpa [step, hq] using e
    have hk : Keeps s (idleCount s) := keeps_idleCount (.refl s)
    exact ⟨hk.mem hs.1, hk.groups hs.2⟩
  | cons c q =>
    have hrest : (s.setPending q).Inv := hs
    exact exec_keeps_inv hrest (by simpa [step, hq] using e)

/-- Settles O8: every command but the end of a verification keeps the latch, and that end does where a check fails. -/
theorem latchOnlySetByVerify : Obligations.LatchOnlySetByVerify := by
  unfold Obligations.LatchOnlySetByVerify
  intro c s t e hnot hset
  have hk : OutKeeps s (exec c s) := by
    by_cases hc : c = .custodyVerifyEnd
    · subst hc
      exact custodyVerifyEnd_keeps_of_failed (hnot.resolve_left (not_not_intro rfl))
    · exact exec_keeps hc s
  exact (hk.next t e).latch hset

/-- Settles O9: each command's own lemma names the parts it may change, and no branch of one stops. -/
theorem commandFrames : Obligations.CommandFrames := by
  unfold Obligations.CommandFrames
  have hframe (c : Instr) (s t : State) (e : exec c s = .next t) : sameBut (touches c) s t := (exec_parts c s).next t e
  refine ⟨hframe, fun c s => ?_⟩
  obtain ⟨t, e⟩ := exec_goesOn c s
  exact ⟨t, e, hframe c s t e⟩

end Sys2Proof.Machine
end

section
/-! The memories: what a write, a program and an erase leave at each address (01_architecture.md R20,
16_serial_flash_ports.md R399). -/
namespace Sys2Proof.Machine

set_option Elab.async false

section
variable {α : Type}

/-- A read gives as many values as were asked for. -/
@[simp] theorem length_tgetN (d : α) (t : Tab α) (k n : Nat) : (tgetN d t k n).length = n := by
  induction n generalizing k with
  | zero => rfl
  | succ n ih => simp [tgetN, ih]

/-- Two tables that agree on a range read alike there. -/
theorem tgetN_congr {d : α} {t u : Tab α} {k n : Nat} (h : ∀ i, k ≤ i → i < k + n → tget d t i = tget d u i) :
    tgetN d t k n = tgetN d u k n := by
  induction n generalizing k with
  | zero => rfl
  | succ n ih =>
    simp only [tgetN, List.cons.injEq]
    exact ⟨h k (by omega) (by omega), ih fun i hi hlt => h i (by omega) (by omega)⟩

/-- A range that reads the default at every key reads as copies of the default. -/
theorem tgetN_eq_replicate {d : α} {t : Tab α} {k n : Nat} (h : ∀ i, k ≤ i → i < k + n → tget d t i = d) :
    tgetN d t k n = List.replicate n d := by
  induction n generalizing k with
  | zero => rfl
  | succ n ih =>
    simp only [tgetN, List.replicate_succ, List.cons.injEq]
    exact ⟨h k (by omega) (by omega), ih fun i hi hlt => h i (by omega) (by omega)⟩

/-- A range reads as it was written. -/
theorem tgetN_tputN_same [DecidableEq α] (d : α) (t : Tab α) (k : Nat) (vs : List α) :
    tgetN d (tputN d t k vs) k vs.length = vs := by
  induction vs generalizing t k with
  | nil => rfl
  | cons v vs ih =>
    have hfirst : tget d (tputN d (tput d t k v) (k + 1) vs) k = v := by
      rw [tget_tputN_ne d _ _ _ vs (by omega), tget_tput_same]
    simp only [tputN, List.length_cons, tgetN, hfirst, ih]

/-- A range apart from the one written reads as before. -/
theorem tgetN_tputN_of_disjoint [DecidableEq α] (d : α) (t : Tab α) {k j n : Nat} {vs : List α}
    (h : j + n ≤ k ∨ k + vs.length ≤ j) : tgetN d (tputN d t k vs) j n = tgetN d t j n :=
  tgetN_congr fun i hi hlt => tget_tputN_ne d t k i vs (by omega)

/-- A key in a cleared range reads the default. -/
theorem tget_tclear_of_mem (d : α) (t : Tab α) {k n i : Nat} (hk : k ≤ i) (hn : i < k + n) :
    tget d (tclear t k n) i = d := by
  induction t with
  | nil => rfl
  | cons p t ih =>
    obtain ⟨j, v⟩ := p
    by_cases hj : j < k ∨ k + n ≤ j
    · have hne : j ≠ i := by omega
      simpa [tclear, hj, tget, hne] using ih
    · simpa [tclear, hj] using ih

end

/-- SRAM reads as written (R20). -/
theorem sramRead_sramWrite_same (s : State) (k : Nat) (b : Bytes) : sramRead (sramWrite s k b) k b.length = b := by
  simp [sramRead, sramWrite, tgetN_tputN_same]

/-- SRAM outside the written bytes reads as before (R20). -/
theorem sramRead_sramWrite_of_disjoint (s : State) {k j n : Nat} {b : Bytes} (h : j + n ≤ k ∨ k + b.length ≤ j) :
    sramRead (sramWrite s k b) j n = sramRead s j n :=
  tgetN_tputN_of_disjoint 0 s.sram h

/-- A program leaves each byte with the bits that it and the old byte have in common (R399). -/
theorem flashRead_flashProgram_same (s : State) (d k : Nat) (b : Bytes) :
    flashRead (flashProgram s d k b) d k b.length = List.zipWith (· &&& ·) (flashRead s d k b.length) b := by
  have hlen : (List.zipWith (· &&& ·) (flashRead s d k b.length) b).length = b.length := by simp [flashRead]
  have hsame := tgetN_tputN_same 0xFF s.flash (d * 2 ^ 32 + k) (List.zipWith (· &&& ·) (flashRead s d k b.length) b)
  rw [hlen] at hsame
  exact hsame

/-- Flash outside the programmed bytes, on any device, reads as before (R399). -/
theorem flashRead_flashProgram_of_disjoint (s : State) {d k e j n : Nat} {b : Bytes}
    (h : d * 2 ^ 32 + k + b.length ≤ e * 2 ^ 32 + j ∨ e * 2 ^ 32 + j + n ≤ d * 2 ^ 32 + k) :
    flashRead (flashProgram s d k b) e j n = flashRead s e j n := by
  have hlen : (List.zipWith (· &&& ·) (flashRead s d k b.length) b).length = b.length := by simp [flashRead]
  have hdisjoint := h
  rw [← hlen] at hdisjoint
  simp only [flashProgram, flashRead, State.setFlash_flash]
  exact tgetN_tputN_of_disjoint 0xFF s.flash hdisjoint.symm

/-- An erased range reads 0xFF. -/
theorem flashRead_flashErase_same (s : State) (d k n : Nat) :
    flashRead (flashErase s d k n) d k n = List.replicate n 0xFF := by
  simp only [flashErase, flashRead, State.setFlash_flash]
  exact tgetN_eq_replicate fun i hi hlt => tget_tclear_of_mem 0xFF s.flash hi hlt

/-- Settles O5: the memories are sparse tables, and each write keeps a table's canonical form. -/
theorem memoryWrites : Obligations.MemoryWrites := by
  unfold Obligations.MemoryWrites
  refine ⟨sramRead_sramWrite_same, fun s k j n b h => sramRead_sramWrite_of_disjoint s h, flashRead_flashProgram_same,
    fun s d k e j n b h => flashRead_flashProgram_of_disjoint s h, flashRead_flashErase_same, fun s k b hs => ?_⟩
  obtain ⟨hsram, hflash⟩ := Bool.and_eq_true_iff.mp hs
  refine ⟨Bool.and_eq_true_iff.mpr ⟨twf_tputN 0 s.sram k b hsram, hflash⟩, ?_, ?_⟩
  · exact Bool.and_eq_true_iff.mpr ⟨hsram, twf_tputN 0xFF s.flash _ _ hflash⟩
  · exact Bool.and_eq_true_iff.mpr ⟨hsram, twf_tclear 0xFF s.flash _ _ hflash⟩

end Sys2Proof.Machine
end

section
/-! A frame read part by part, and how a command's frame is had from its meaning (01_architecture.md). -/
namespace Sys2Proof.Machine

set_option Elab.async false

/-- The parts that an operation names are its own. -/
theorem partsIn_refl (l : List Part) : partsIn l l = true := by
  simp [partsIn]

section
variable {l : List Part} {s t : State}

theorem sameBut.mode_eq (h : sameBut l s t) (hp : Part.mode ∉ l := by decide) : t.mode = s.mode := h.2 .mode hp
theorem sameBut.clk_eq (h : sameBut l s t) (hp : Part.clk ∉ l := by decide) : t.clk = s.clk := h.2 .clk hp
theorem sameBut.fus_eq (h : sameBut l s t) (hp : Part.fus ∉ l := by decide) : t.fus = s.fus := h.2 .fus hp
theorem sameBut.cfg_eq (h : sameBut l s t) (hp : Part.cfg ∉ l := by decide) : t.cfg = s.cfg := h.2 .cfg hp
theorem sameBut.mpu_eq (h : sameBut l s t) (hp : Part.mpu ∉ l := by decide) : t.mpu = s.mpu := h.2 .mpu hp
theorem sameBut.fwl_eq (h : sameBut l s t) (hp : Part.fwl ∉ l := by decide) : t.fwl = s.fwl := h.2 .fwl hp
theorem sameBut.vlt_eq (h : sameBut l s t) (hp : Part.vlt ∉ l := by decide) : t.vlt = s.vlt := h.2 .vlt hp
theorem sameBut.cus_eq (h : sameBut l s t) (hp : Part.cus ∉ l := by decide) : t.cus = s.cus := h.2 .cus hp
theorem sameBut.can0_eq (h : sameBut l s t) (hp : Part.can0 ∉ l := by decide) : t.can0 = s.can0 := h.2 .can0 hp
theorem sameBut.can1_eq (h : sameBut l s t) (hp : Part.can1 ∉ l := by decide) : t.can1 = s.can1 := h.2 .can1 hp
theorem sameBut.voe_eq (h : sameBut l s t) (hp : Part.voe ∉ l := by decide) : t.voe = s.voe := h.2 .voe hp
theorem sameBut.eng_eq (h : sameBut l s t) (hp : Part.eng ∉ l := by decide) : t.eng = s.eng := h.2 .eng hp
theorem sameBut.pke_eq (h : sameBut l s t) (hp : Part.pke ∉ l := by decide) : t.pke = s.pke := h.2 .pke hp
theorem sameBut.rng_eq (h : sameBut l s t) (hp : Part.rng ∉ l := by decide) : t.rng = s.rng := h.2 .rng hp
theorem sameBut.hif_eq (h : sameBut l s t) (hp : Part.hif ∉ l := by decide) : t.hif = s.hif := h.2 .hif hp
theorem sameBut.spi0_eq (h : sameBut l s t) (hp : Part.spi0 ∉ l := by decide) : t.spi0 = s.spi0 := h.2 .spi0 hp
theorem sameBut.spi1_eq (h : sameBut l s t) (hp : Part.spi1 ∉ l := by decide) : t.spi1 = s.spi1 := h.2 .spi1 hp
theorem sameBut.flash_eq (h : sameBut l s t) (hp : Part.flash ∉ l := by decide) : t.flash = s.flash := h.2 .flash hp
theorem sameBut.tmp_eq (h : sameBut l s t) (hp : Part.tmp ∉ l := by decide) : t.tmp = s.tmp := h.2 .tmp hp
theorem sameBut.snf_eq (h : sameBut l s t) (hp : Part.snf ∉ l := by decide) : t.snf = s.snf := h.2 .snf hp
theorem sameBut.evr_eq (h : sameBut l s t) (hp : Part.evr ∉ l := by decide) : t.evr = s.evr := h.2 .evr hp
theorem sameBut.upd_eq (h : sameBut l s t) (hp : Part.upd ∉ l := by decide) : t.upd = s.upd := h.2 .upd hp
theorem sameBut.flt_eq (h : sameBut l s t) (hp : Part.flt ∉ l := by decide) : t.flt = s.flt := h.2 .flt hp
theorem sameBut.cores_eq (h : sameBut l s t) (hp : Part.cores ∉ l := by decide) : t.cores = s.cores := h.2 .cores hp
theorem sameBut.sram_eq (h : sameBut l s t) (hp : Part.sram ∉ l := by decide) : t.sram = s.sram := h.2 .sram hp
theorem sameBut.free_eq (h : sameBut l s t) (hp : Part.free ∉ l := by decide) : t.free = s.free := h.2 .free hp

/-- With the rest of GLB_ kept, GLB_ stands but for the events that wait. -/
theorem sameBut.calm_eq (h : sameBut l s t) (hp : Part.glb ∉ l := by decide) : t.glb.calm = s.glb.calm := h.2 .glb hp

theorem sameBut.run_eq (h : sameBut l s t) (hp : Part.glb ∉ l := by decide) : t.glb.run = s.glb.run := by
  change t.glb.calm.run = s.glb.calm.run
  rw [h.calm_eq hp]
theorem sameBut.period_eq (h : sameBut l s t) (hp : Part.glb ∉ l := by decide) : t.glb.period = s.glb.period := by
  change t.glb.calm.period = s.glb.calm.period
  rw [h.calm_eq hp]
theorem sameBut.src_eq (h : sameBut l s t) (hp : Part.glb ∉ l := by decide) : t.glb.src = s.glb.src := by
  change t.glb.calm.src = s.glb.calm.src
  rw [h.calm_eq hp]
theorem sameBut.fircTb_eq (h : sameBut l s t) (hp : Part.glb ∉ l := by decide) : t.glb.fircTb = s.glb.fircTb := by
  change t.glb.calm.fircTb = s.glb.calm.fircTb
  rw [h.calm_eq hp]
theorem sameBut.lock_eq (h : sameBut l s t) (hp : Part.glb ∉ l := by decide) : t.glb.lock = s.glb.lock := by
  change t.glb.calm.lock = s.glb.calm.lock
  rw [h.calm_eq hp]
theorem sameBut.tick_eq (h : sameBut l s t) (hp : Part.glb ∉ l := by decide) : t.glb.tick = s.glb.tick := by
  change t.glb.calm.tick = s.glb.calm.tick
  rw [h.calm_eq hp]
theorem sameBut.sub_eq (h : sameBut l s t) (hp : Part.glb ∉ l := by decide) : t.glb.sub = s.glb.sub := by
  change t.glb.calm.sub = s.glb.calm.sub
  rw [h.calm_eq hp]
theorem sameBut.syncRef_eq (h : sameBut l s t) (hp : Part.glb ∉ l := by decide) : t.glb.syncRef = s.glb.syncRef := by
  change t.glb.calm.syncRef = s.glb.calm.syncRef
  rw [h.calm_eq hp]
theorem sameBut.tokens_eq (h : sameBut l s t) (hp : Part.glb ∉ l := by decide) : t.glb.tokens = s.glb.tokens := by
  change t.glb.calm.tokens = s.glb.calm.tokens
  rw [h.calm_eq hp]
theorem sameBut.used_eq (h : sameBut l s t) (hp : Part.glb ∉ l := by decide) : t.glb.used = s.glb.used := by
  change t.glb.calm.used = s.glb.calm.used
  rw [h.calm_eq hp]
theorem sameBut.caps_eq (h : sameBut l s t) (hp : Part.glb ∉ l := by decide) : t.glb.caps = s.glb.caps := by
  change t.glb.calm.caps = s.glb.calm.caps
  rw [h.calm_eq hp]
theorem sameBut.bud_eq (h : sameBut l s t) (hp : Part.glb ∉ l := by decide) : t.glb.bud = s.glb.bud := by
  change t.glb.calm.bud = s.glb.calm.bud
  rw [h.calm_eq hp]
theorem sameBut.carried_eq (h : sameBut l s t) (hp : Part.glb ∉ l := by decide) : t.glb.carried = s.glb.carried := by
  change t.glb.calm.carried = s.glb.calm.carried
  rw [h.calm_eq hp]
theorem sameBut.overruns_eq (h : sameBut l s t) (hp : Part.glb ∉ l := by decide) : t.glb.overruns = s.glb.overruns := by
  change t.glb.calm.overruns = s.glb.calm.overruns
  rw [h.calm_eq hp]

/-- With the events and the rest of GLB_ both kept, GLB_ stands. -/
theorem sameBut.glb_eq (h : sameBut l s t) (he : Part.events ∉ l := by decide) (hg : Part.glb ∉ l := by decide) :
    t.glb = s.glb := by
  have hcalm := h.calm_eq hg
  obtain ⟨hqueue, hheld, hdrop, hlost, hrst⟩ := h.2 .events he
  cases ht : t.glb
  cases hs : s.glb
  simp_all [Glb.calm]

/-- A command whose meaning is the next state t leads to t. -/
theorem leads_of_exec {c : Instr} {P : State → Prop} (h : exec c s = .next t) (hP : P t) : leads c s P := ⟨t, h, hP⟩

end

end Sys2Proof.Machine
end

section
/-! The statements of 04_power_reset_kindle.md and 21_pins_electrical_board.md on supplies and NRST (R84, R88 to R100,
R109). -/
namespace Sys2Proof.Machine

set_option Elab.async false

/-- The wake trigger is for DIM alone. -/
theorem wakeTrigger_of_ne_dim {s : State} (cause : Nat) (hmode : s.mode.mode ≠ .dim) : wakeTrigger s cause = s := by
  simp [wakeTrigger, hmode]

/-- A change of the tamper block is that change, whatever ALARM_N does. -/
@[simp] theorem withAlarm_tmp (s : State) (t : Tmp) : (withAlarm s t).tmp = t := by
  simp only [withAlarm]
  split
  · rfl
  · split <;> simp

@[simp] theorem withAlarm_mode (s : State) (t : Tmp) : (withAlarm s t).mode = s.mode :=
  (sb_withAlarm (sameBut_refl _ s) (partsIn_refl _)).mode_eq

@[simp] theorem snuffTrig_mode (s : State) (cause source : Nat) : (snuffTrig s cause source).mode = s.mode :=
  (sb_snuffTrig (sameBut_refl _ s) (partsIn_refl _)).mode_eq

@[simp] theorem trigLogged_tmp (s : State) (cause : Nat) : (trigLogged s cause).tmp = s.tmp :=
  (sb_trigLogged (sameBut_refl _ s) (partsIn_refl _)).tmp_eq

@[simp] theorem sendAlarm_mode (s : State) (src : Nat) (x : Stamp) : (sendAlarm s src x).mode = s.mode :=
  (sb_sendAlarm (sameBut_refl _ s) (partsIn_refl _)).mode_eq

@[simp] theorem sendAlarm_tmp (s : State) (src : Nat) (x : Stamp) : (sendAlarm s src x).tmp = s.tmp :=
  (sb_sendAlarm (sameBut_refl _ s) (partsIn_refl _)).tmp_eq

@[simp] theorem wakeTrigger_tmp (s : State) (cause : Nat) : (wakeTrigger s cause).tmp = s.tmp :=
  (sb_wakeTrigger (sameBut_refl _ s) (partsIn_refl _)).tmp_eq

/-- Outside DIM a source that acts leaves the mode fields: what it logs, asserts and sends is elsewhere (R409). -/
theorem tamperAct_mode {s : State} (k : Nat) (hmode : s.mode.mode ≠ .dim) : (tamperAct s k).mode = s.mode := by
  have halarm (s : State) (h : s.mode.mode ≠ .dim) : (tamperAlarm s k).mode = s.mode := by
    simp only [tamperAlarm]
    split <;> rw [wakeTrigger_of_ne_dim] <;> simp [h]
  simp only [tamperAct]
  split <;> split <;> simp [halarm, hmode]

/-- A source that acts leaves the conditions as they stand. -/
theorem tamperAct_cond (s : State) (k : Nat) : (tamperAct s k).tmp.cond = s.tmp.cond := by
  have hsnuff (s : State) : (snuffTrig s 1 k).tmp.cond = s.tmp.cond := by
    simp only [snuffTrig]
    split <;> simp
  have halarm (s : State) : (tamperAlarm s k).tmp.cond = s.tmp.cond := by
    simp only [tamperAlarm]
    split <;> simp
  simp only [tamperAct]
  split <;> split <;> simp [hsnuff, halarm]

/-- The condition of a source stands from its event on (R403). -/
theorem sourceOn_cond (s : State) (k : Nat) : (sourceOn s k).tmp.cond = s.tmp.cond ||| srcBit k := by
  have hmissed (s : State) : (missed s k).tmp.cond = s.tmp.cond := by
    unfold missed
    split <;> simp [meshMiss]
  simp only [sourceOn]
  split <;> simp [tamperAct_cond, hmissed]

/-- Outside DIM the sources that act as their conditions stand leave the mode fields. -/
theorem armedAct_mode {s : State} (hmode : s.mode.mode ≠ .dim) : (armedAct s).mode = s.mode := by
  refine List.foldlRecOn (motive := fun t : State => t.mode = s.mode) _ _ rfl fun t ht k _ => ?_
  split
  · exact (tamperAct_mode k (by rwa [ht])).trans ht
  · exact ht

/-- With no condition standing no source acts. -/
theorem armedAct_of_cond_zero {s : State} (hcond : s.tmp.cond = 0) : armedAct s = s :=
  List.foldl_fixed' (fun k => by simp [hcond]) _

/-- The security log of a pulse cut, its vault and what has left the device stand: it writes fuse cells alone. -/
theorem pulseCut_sameBut (s : State) : sameBut [.fus, .free] s (pulseCut s) := sb_pulseCut (sameBut_refl _ s) rfl

/-- The flash command that a reset cuts touches neither the vault, the fuses nor the recorder. -/
theorem spi0Cut_sameBut (s : State) (err : Nat) : sameBut [.spi0, .flash, .sram, .free] s (spi0Cut s err) :=
  sb_spi0Cut (sameBut_refl _ s) rfl

/-- With no pulse running the loss of a supply cuts none (R109). -/
theorem pulseCut_of_idle {s : State} (hpgm : s.fus.pgm = none) : pulseCut s = s := by
  simp [pulseCut, hpgm]

/-- The loss of the main supplies enters VIGIL, and the battery domain, the cells and what has left the device stay
(R84, R89). -/
theorem coreLost_keeps (s : State) :
    (coreLost s).mode.mode = .vigil ∧ (coreLost s).mode.vbatIn = s.mode.vbatIn ∧ (coreLost s).hif.out = s.hif.out
      ∧ (coreLost s).sram = [] ∧ (coreLost s).vlt.slots = s.vlt.slots ∧ (coreLost s).fus.cells = s.fus.cells
      ∧ (coreLost s).tmp.sticky = s.tmp.sticky ∧ (coreLost s).snf = s.snf := by
  have hcut := spi0Cut_sameBut s 2
  simp [coreLost, coreCleared, fusReset, vltReset, tmpLoss, hcut.hif_eq, hcut.vlt_eq, hcut.fus_eq, hcut.tmp_eq, hcut.snf_eq]

/-- The loss of the main supplies, before the battery domain is looked at: the entry of a NRST hold that it ends, and
the core domain's loss (R84, R99). -/
def mainLost (s : State) : State :=
  let t := coreLost (pulseCut s)
  if s.tmp.nrstRun then (logHold t true).setTmp { (logHold t true).tmp with nrstRun := false } else t

/-- The command MAIN_SUPPLY_LOSS with the main supplies valid (R89, R92). -/
theorem exec_mainSupplyLoss {s : State} (hoff : s.mode.mode ≠ .off) (hvigil : s.mode.mode ≠ .vigil) :
    exec .mainSupplyLoss s = .next (if s.mode.vbatIn then mainLost s else batteryLost (mainLost s)) := by
  have hvbat : (mainLost s).mode.vbatIn = s.mode.vbatIn := by
    have hcut : (pulseCut s).mode = s.mode := (pulseCut_sameBut s).mode_eq
    unfold mainLost
    split <;> simp [logHold, (coreLost_keeps (pulseCut s)).2.1, hcut]
  rw [← hvbat]
  simp [exec, execMainSupplyLoss, hoff, hvigil, mainLost]

/-- The state in which the battery domain starts: its content lost, VIGIL entered, VBAT in range (R94). -/
def batteryStarted (s : State) : State :=
  (batteryLost s).setMode { (batteryLost s).mode with mode := .vigil, vbatIn := true, vbatOk := true }

/-- The command BATTERY_POWER_ON from OFF: the battery domain starts, and sources whose conditions stand act. -/
theorem exec_batteryPowerOn_of_off {s : State} (hoff : s.mode.mode = .off) :
    exec .batteryPowerOn s = .next (armedAct (batteryStarted s)) := by
  simp [exec, execBatteryPowerOn, hoff, batteryStarted]

/-- The core domain's state as the main supplies come: what POWER_ON_RESET gives before NRST is looked at (R88, R90). -/
def poweredOn (io : SupplyEnv) (s : State) : State :=
  noBattery ((powerOnReset s).setMode (supplyShown io (powerOnReset s).mode))

/-- The command POWER_ON_RESET from OFF or VIGIL; NRST low holds the main domain in reset (R100). -/
theorem exec_powerOnReset {s : State} {io : SupplyEnv} (hmode : s.mode.mode = .off ∨ s.mode.mode = .vigil) :
    exec (.powerOnReset io) s =
      .next (if io.nrstLow then
          ((poweredOn io s).setTmp { (poweredOn io s).tmp with nrst := 0, nfrac := 0, nrstRun := true }).setMode
            { (poweredOn io s).mode with inReset := true, nrstLow := true }
        else poweredOn io s) := by
  have hnot : ¬ (s.mode.mode ≠ .off ∧ s.mode.mode ≠ .vigil) := by rintro ⟨h1, h2⟩; simp_all
  by_cases hlow : io.nrstLow = true <;> simp [exec, execPowerOnReset, hnot, hlow, poweredOn]

/-- What a power-on reset shows, clears and keeps (R88, R90, R94; 18 R428, R429). -/
theorem poweredOn_keeps (io : SupplyEnv) (s : State) :
    (poweredOn io s).mode.mode = .kindle ∧ (poweredOn io s).mode.cause = 0 ∧ (poweredOn io s).mode.inReset = false
      ∧ (poweredOn io s).mode.vddioA = io.ioA ∧ (poweredOn io s).mode.vddioB = io.ioB
      ∧ (poweredOn io s).mode.vpp = io.vpp ∧ (poweredOn io s).mode.vbatOk = io.vbat
      ∧ (poweredOn io s).evr.pcyc = (s.evr.pcyc + 1) % 65536 ∧ (poweredOn io s).evr.diag = []
      ∧ (poweredOn io s).evr.sec = s.evr.sec ∧ (poweredOn io s).vlt.slots = s.vlt.slots
      ∧ (poweredOn io s).fus.cells = s.fus.cells ∧ (poweredOn io s).sram = []
      ∧ (poweredOn io s).glb.run = false ∧ (poweredOn io s).glb.tick = 0 := by
  have hcut := spi0Cut_sameBut s 2
  have hfree (s : State) : sameBut [.tmp] s (noBattery s) := by
    unfold noBattery
    split
    · exact sameBut_refl _ s
    · exact sb_blkTmp (sameBut_refl _ s) rfl
  simp [poweredOn, (hfree _).mode_eq, (hfree _).evr_eq, (hfree _).vlt_eq, (hfree _).fus_eq, (hfree _).sram_eq,
    (hfree _).glb_eq, supplyShown, powerOnReset, coreCleared, modeReset, evrReset, fusReset, vltReset, glbReset,
    hcut.evr_eq, hcut.vlt_eq, hcut.fus_eq, logMode, logD, report_evr, mainUp]

/-- Settles O10: each supply event is its command's case, and a tamper source that acts leaves the mode and the vault. -/
theorem supplyEvents : Obligations.SupplyEvents := by
  unfold Obligations.SupplyEvents
  refine ⟨?_, ?_, ?_, ?_, ?_, ?_, ?_, ?_, ?_, ?_, ?_, ?_, ?_, ?_, ?_⟩
  · intro s hoff
    have hmode := armedAct_mode (s := batteryStarted s) (by simp [batteryStarted])
    have hvlt := (sb_armedAct (sameBut_refl _ (batteryStarted s)) (partsIn_refl _)).vlt_eq
    refine leads_of_exec (exec_batteryPowerOn_of_off hoff) ?_
    rw [hmode, hvlt]
    simp [batteryStarted, batteryLost]
  · intro s hoff hcond
    have hact : armedAct (batteryStarted s) = batteryStarted s := armedAct_of_cond_zero hcond
    refine leads_of_exec (exec_batteryPowerOn_of_off hoff) ?_
    rw [hact]
    exact ⟨rfl, rfl, rfl, sb_blkMode (sb_batteryLost (sameBut_refl _ s) (partsIn_refl _)) rfl⟩
  · intro s hoff
    simp [exec, execBatteryPowerOn, hoff]
  · intro s hvigil
    refine leads_of_exec (by simp [exec, execVbatLoss, hvigil]; rfl) ?_
    exact ⟨rfl, rfl, rfl, rfl, rfl, rfl, sb_batteryLost (sb_blkMode (sameBut_refl _ s) rfl) (partsIn_refl _)⟩
  · intro s hoff
    simp [exec, execVbatLoss, hoff]
  · intro s hvigil hoff
    refine ⟨by simp [exec, execVbatLoss, hvigil, hoff], ?_, ?_⟩
    · rw [sourceOn_cond]
      simp [srcBit]
    · exact (sb_sourceOn (sameBut_refl _ _) (partsIn_refl _)).vlt_eq
  · intro s io hmode
    obtain ⟨hkindle, hcause, hreset, hioA, hioB, hvpp, hvbat, hpcyc, hdiag, hsec, hslots, hcells, hsram, hrun, htick⟩ :=
      poweredOn_keeps io s
    refine leads_of_exec (exec_powerOnReset hmode) ?_
    cases hlow : io.nrstLow <;> simp [*]
  · intro s io hmode hlow
    refine leads_of_exec (exec_powerOnReset hmode) ?_
    simp [hlow]
  · intro s hoff hvigil hvbat
    refine leads_of_exec (exec_mainSupplyLoss hoff hvigil) ?_
    obtain ⟨hmode, -, hout, hsram, hslots, hcells, hsticky, hsnf⟩ := coreLost_keeps (pulseCut s)
    have hcut := pulseCut_sameBut s
    simp only [hvbat, if_true, mainLost]
    split <;> simp [logHold, hcut.hif_eq, hcut.vlt_eq, hcut.tmp_eq, hcut.snf_eq, *]
  · intro s hoff hvigil hvbat
    refine leads_of_exec (exec_mainSupplyLoss hoff hvigil) ?_
    obtain ⟨-, -, hout, hsram, -, hcells, -, -⟩ := coreLost_keeps (pulseCut s)
    have hcut := pulseCut_sameBut s
    simp only [hvbat, Bool.false_eq_true, if_false, mainLost]
    split <;> simp [batteryLost, logHold, hcut.hif_eq, *]
  · intro s hpgm
    rw [pulseCut_of_idle hpgm]
  · intro s hup hpgm
    have hcut := spi0Cut_sameBut (s.setMode { s.mode with nrstLow := true }) 2
    refine leads_of_exec (by simp [exec, execNrstAssert, hup, hpgm]; rfl) ?_
    simp [nrstTake, coreCleared, modeReset, fusReset, vltReset, hcut.hif_eq, hcut.vlt_eq, hcut.fus_eq]
  · intro s hup hpgm
    refine leads_of_exec (by simp [exec, execNrstAssert, hup, hpgm]; rfl) ?_
    have hreset : s.mode.inReset = false := by simp_all [mainUp]
    exact ⟨hreset, rfl, rfl, sb_onFus (sb_blkMode (sameBut_refl _ s) rfl) rfl⟩
  · intro s hreset
    refine leads_of_exec (by simp [exec, execNrstRelease, hreset]; rfl) ?_
    exact ⟨by simp [nrstFree], by simp [nrstFree], by simp [nrstFree], sb_nrstFree (sameBut_refl _ s) rfl⟩
  · intro s hreset
    simp [exec, execNrstRelease, hreset]

end Sys2Proof.Machine
end

section
/-! The statements of 04_power_reset_kindle.md on resets and the watchdog (R94, R96, R113). -/
namespace Sys2Proof.Machine

set_option Elab.async false

/-- What a device reset enters, keeps and clears (R94). -/
theorem deviceReset_keeps (s : State) (cause : Nat) :
    (deviceReset s cause).mode.mode = .kindle ∧ (deviceReset s cause).mode.cause = cause
      ∧ (deviceReset s cause).mode.recovReq = s.mode.recovReq
      ∧ (deviceReset s cause).vlt.slots = s.vlt.slots ∧ (deviceReset s cause).vlt.seasons = s.vlt.seasons
      ∧ (deviceReset s cause).vlt.assocs = s.vlt.assocs ∧ (deviceReset s cause).fus.cells = s.fus.cells
      ∧ (deviceReset s cause).evr.sec = s.evr.sec ∧ (deviceReset s cause).evr.diag = s.evr.diag
      ∧ (deviceReset s cause).tmp.sticky = s.tmp.sticky ∧ (deviceReset s cause).snf = s.snf
      ∧ (deviceReset s cause).hif.out = s.hif.out
      ∧ (deviceReset s cause).hif.rings = [] ∧ (deviceReset s cause).hif.trips = []
      ∧ (deviceReset s cause).cores = State.reset.cores ∧ (deviceReset s cause).glb.run = false
      ∧ (deviceReset s cause).cus = State.reset.cus ∧ (deviceReset s cause).eng = State.reset.eng := by
  have hcut := spi0Cut_sameBut s 2
  simp [deviceReset, coreCleared, modeReset, evrReset, fusReset, vltReset, glbReset, logMode, logD, report_evr, mainUp,
    hcut.evr_eq, hcut.vlt_eq, hcut.fus_eq, hcut.tmp_eq, hcut.snf_eq, hcut.hif_eq]

/-- The watchdog resets where it runs and its count has reached the timeout, 0 counting as 1 (R96, R113). -/
theorem exec_watchdogTimeout {s : State} {k : Fin 12} (hruns : wdtRuns s = true)
    (hcount : max 1 s.mode.wdtTimeout ≤ s.mode.wdtCount) :
    exec (.watchdogTimeout k) s = .next (deviceReset (s.setMode { s.mode with
      recovReq := s.mode.recovReq || ((wdtAt s k).isSome && s.mode.wdtStep = wdtAt s k), wdtStep := wdtAt s k }) 3) := by
  have hreached : ¬ s.mode.wdtCount < max 1 s.mode.wdtTimeout := by omega
  simp [exec, execWatchdogTimeout, hruns, hreached]

/-- Settles O11: a reset clears all but what R94 keeps, and each cause leads to it by its own command. -/
theorem deviceResets : Obligations.DeviceResets := by
  unfold Obligations.DeviceResets
  refine ⟨deviceReset_keeps, ?_, ?_, ?_, ?_, ?_, ?_, ?_, ?_, ?_, ?_⟩
  · intro s k hruns hcount hkindle
    simp [exec_watchdogTimeout hruns hcount, wdtAt, hkindle]
  · intro s k hruns hcount hkindle hstep
    simp [exec_watchdogTimeout hruns hcount, wdtAt, hkindle, hstep]
  · intro s k hruns hcount hkindle hstep
    simp [exec_watchdogTimeout hruns hcount, wdtAt, hkindle, hstep]
  · intro s hup
    simp [exec, execModeWdtKick, hup]
  · intro s v hup hkick
    refine leads_of_exec (t := logD s .mode 2 (leBytes 8 v.toNat)) ?_ ?_
    · simp only [exec, execModeWdtKick, hup, if_neg hkick, Bool.not_true, Bool.false_eq_true, if_false]
    · exact sb_logD (sameBut_refl _ s) rfl
  · intro s hup
    simp [exec, execWdtLock, hup]
  · intro s v hup hkey hrecov hswrst
    simp [exec, execSwrst, hup, rstCtlWrite, rstKeyed, hkey, rstCtl, hrecov, hswrst]
  · intro s v hup hkey hrecov
    simp [exec, execRecov, hup, rstCtlWrite, rstKeyed, hkey, rstCtl, hrecov]
  · intro s v hup hkey
    refine ⟨rfl, leads_of_exec (by simp [exec, execSwrst, hup, rstCtlWrite, rstKeyed, hkey]; rfl) ?_⟩
    exact sb_logOther (sameBut_refl _ s) rfl
  · intro s v hup hkey
    rfl

end Sys2Proof.Machine
end

section
/-! The statements of 04_power_reset_kindle.md on KINDLE: VSNUFF_OK through its steps, the start of the beacon and the
destination (R101, R114; 03 R75; 02 R41). -/
namespace Sys2Proof.Machine

set_option Elab.async false

/-- A trigger of the wake leaves VSNUFF_OK. -/
@[simp] theorem wakeTrigger_vsnuffOk (s : State) (c : Nat) : (wakeTrigger s c).mode.vsnuffOk = s.mode.vsnuffOk := by
  unfold wakeTrigger
  split <;> simp [onRng]

/-- A source that acts leaves VSNUFF_OK. -/
@[simp] theorem tamperAct_vsnuffOk (s : State) (k : Nat) : (tamperAct s k).mode.vsnuffOk = s.mode.vsnuffOk := by
  have halarm (s : State) : (tamperAlarm s k).mode.vsnuffOk = s.mode.vsnuffOk := by
    simp only [tamperAlarm]
    split <;> simp
  simp only [tamperAct]
  split <;> split <;> simp [halarm]

/-- A fold of steps that each leave VSNUFF_OK leaves it. -/
theorem foldl_vsnuffOk {α : Type} {f : State → α → State} (hf : ∀ s a, (f s a).mode.vsnuffOk = s.mode.vsnuffOk)
    (l : List α) (s : State) : (l.foldl f s).mode.vsnuffOk = s.mode.vsnuffOk :=
  List.foldlRecOn (motive := fun t : State => t.mode.vsnuffOk = s.mode.vsnuffOk) l f rfl
    fun t ht a _ => (hf t a).trans ht

/-- The sources that act as they become armed leave VSNUFF_OK. -/
@[simp] theorem armedAct_vsnuffOk (s : State) : (armedAct s).mode.vsnuffOk = s.mode.vsnuffOk :=
  foldl_vsnuffOk (fun s k => by split <;> simp) _ s

/-- The sources that act under a new response leave VSNUFF_OK. -/
@[simp] theorem respAct_vsnuffOk (s : State) (old : Nat → Nat) : (respAct s old).mode.vsnuffOk = s.mode.vsnuffOk :=
  foldl_vsnuffOk (fun s k => by split <;> simp) _ s

/-- A failure noted leaves VSNUFF_OK. -/
@[simp] theorem noteFail_vsnuffOk (s : State) (c : Nat) : (noteFail s c).mode.vsnuffOk = s.mode.vsnuffOk := by
  unfold noteFail
  split <;> simp

/-- A field applied at K7 leaves VSNUFF_OK: of MODE_ the layers set the watchdog and DIM only (R149). -/
@[simp] theorem putField_vsnuffOk (s : State) (t : Nat) (v : Bytes) :
    (putField s t v).mode.vsnuffOk = s.mode.vsnuffOk := by
  unfold putField
  dsimp only
  split <;> simp [putPll, putBcnCfg, putBudgets, putTamperParam, onClk]

/-- A field settled at K7 leaves VSNUFF_OK. -/
theorem settle_vsnuffOk (s : State) (t : Nat) (iv : Option Bytes) :
    (settle s t iv).mode.vsnuffOk = s.mode.vsnuffOk := by
  have hdefault (s : State) : (putDefault s t).mode = s.mode := (sb_putDefault (sameBut_refl _ s) (partsIn_refl _)).mode_eq
  unfold settle noteSrc
  dsimp only
  repeat' split
  all_goals simp [hdefault]

/-- K7 leaves VSNUFF_OK. -/
@[simp] theorem cfgK7_vsnuffOk (s : State) : (cfgK7 s).mode.vsnuffOk = s.mode.vsnuffOk := by
  have hlayer (s : State) (l : List (Nat × Bytes)) : (layerAll s l).mode.vsnuffOk = s.mode.vsnuffOk := by
    rw [layerAll, respAct_vsnuffOk]
    exact foldl_vsnuffOk (fun s t => settle_vsnuffOk s t _) _ s
  unfold cfgK7
  split
  · simp [hlayer]
  · dsimp only
    split <;> simp [hlayer]

/-- The choice of a pair leaves VSNUFF_OK. -/
theorem tryPairs_vsnuffOk (s : State) (l : List ActRec) : (tryPairs s l).mode.vsnuffOk = s.mode.vsnuffOk := by
  induction l generalizing s with
  | nil => rfl
  | cons r t ih =>
    unfold tryPairs
    split
    · rw [ih]; rfl
    · rfl

/-- K9 leaves VSNUFF_OK. -/
@[simp] theorem kindleK9_vsnuffOk (s : State) : (kindleK9 s).mode.vsnuffOk = s.mode.vsnuffOk := by
  unfold kindleK9 heldPair
  dsimp only
  split
  · rfl
  · split
    · split <;> rfl
    · exact tryPairs_vsnuffOk _ _

/-- The supplies show VSNUFF_OK at the start of KINDLE (R114). -/
theorem kindleSupply_vsnuffOk (e : KindleEnv) (s : State) : (kindleSupply e s).mode.vsnuffOk = e.vsnuffOk := by
  have hentry (s : State) : (vppEntry s).mode = s.mode := (sb_vppEntry (sameBut_refl _ s) (partsIn_refl _)).mode_eq
  have hclear (s : State) : (alarmClear s .vsnuff).mode = s.mode := (alarmClear_sameBut s .vsnuff).mode_eq
  unfold kindleSupply
  dsimp only
  split <;> simp [hentry, hclear]

@[simp] theorem kindleK1_vsnuffOk (s : State) : (kindleK1 s).mode.vsnuffOk = s.mode.vsnuffOk := by
  rw [(sb_kindleK1 (sameBut_refl _ s) (partsIn_refl _)).mode_eq]

@[simp] theorem kindleK2_vsnuffOk (s : State) : (kindleK2 s).mode.vsnuffOk = s.mode.vsnuffOk := by
  have hfuse (s : State) : (fuseKindle s).mode = s.mode := (sb_fuseKindle (sameBut_refl _ s) (partsIn_refl _)).mode_eq
  have hk3 (s : State) : (cfgK3 s).mode = s.mode := (sb_cfgK3 (sameBut_refl _ s) (partsIn_refl _)).mode_eq
  simp [kindleK2, disarm, onClk, hfuse, hk3]

@[simp] theorem kindleK5_vsnuffOk (s : State) (l : List Nat) : (kindleK5 s l).mode.vsnuffOk = s.mode.vsnuffOk :=
  foldl_vsnuffOk (fun _ _ => by simp) _ _

@[simp] theorem kindleK7_vsnuffOk (s : State) : (kindleK7 s).mode.vsnuffOk = s.mode.vsnuffOk := by
  unfold kindleK7
  dsimp only
  split <;> simp

@[simp] theorem kindleK8_vsnuffOk (bad : List Nat) (s : State) : (kindleK8 bad s).mode.vsnuffOk = s.mode.vsnuffOk := by
  have hvault (s : State) : (vaultKindle bad s).mode = s.mode := (sb_vaultKindle (sameBut_refl _ s) (partsIn_refl _)).mode_eq
  have hderive (s : State) : (deriveAll s).mode = s.mode := (sb_deriveAll (sameBut_refl _ s) (partsIn_refl _)).mode_eq
  unfold kindleK8
  dsimp only
  split <;> simp [hvault, hderive, onVoe]

/-- The handover places the cores alone. -/
theorem handover_sameBut (s : State) :
    sameBut [.cores] s ((List.range 2).foldl (fun s c => setCore s c (handCore s (getCore s c))) s) :=
  sb_foldl (fun s c h => sb_setCore h rfl) (sameBut_refl _ s)

@[simp] theorem kindleK9to11_vsnuffOk (s : State) : (kindleK9to11 s).mode.vsnuffOk = s.mode.vsnuffOk := by
  have hdb (s : State) : (dbRecover s).mode = s.mode := (sb_dbRecover (sameBut_refl _ s) (partsIn_refl _)).mode_eq
  unfold kindleK9to11
  dsimp only
  rw [(handover_sameBut _).mode_eq, State.setTmp_mode, hdb]
  split <;> simp

/-- The tamper configuration is locked before the handover (17 R410, log 114). -/
theorem kindleK9to11_lock (s : State) : (kindleK9to11 s).tmp.lock = true := by
  unfold kindleK9to11
  dsimp only
  rw [(handover_sameBut _).tmp_eq]
  rfl

/-- K1 to K11 end with the step at 12, their time recorded, the watchdog restarted, VSNUFF_OK as the supplies show it
and the tamper configuration locked (R101, R114; 17 R410, log 114). -/
theorem kindleSteps_shows (e : KindleEnv) (s : State) :
    (kindleSteps e s).mode.kindleStep = 12 ∧ (kindleSteps e s).mode.kindleTime = e.micros
      ∧ (kindleSteps e s).mode.wdtCount = 0 ∧ (kindleSteps e s).mode.vsnuffOk = e.vsnuffOk
      ∧ (kindleSteps e s).tmp.lock = true := by
  unfold kindleSteps
  dsimp only
  rw [State.setMode_mode, State.setMode_tmp]
  refine ⟨rfl, rfl, rfl, ?_, kindleK9to11_lock _⟩
  simp only [kindleK9to11_vsnuffOk, kindleK8_vsnuffOk, kindleK7_vsnuffOk, kindleK6, onClk, State.setClk_mode,
    kindleK5_vsnuffOk, kindleK2_vsnuffOk, kindleK1_vsnuffOk, onFus, State.setFus_mode]
  split <;> simp [kindleSupply_vsnuffOk]

/-- K12 starts the beacon at tick 0 in a permitted configuration (02 R41). -/
theorem kindleRun_of_cfgOk {s : State} (hcfg : bcnCfgOk s.glb = true) :
    (kindleRun s).mode = { s.mode with kindled := true } ∧ (kindleRun s).glb.run = true ∧ (kindleRun s).glb.tick = 0
      ∧ (kindleRun s).glb.sub = 0 ∧ (kindleRun s).glb.lock = (if s.glb.src = 0 then .free else .acquire)
      ∧ sameBut [.mode, .glb, .events, .evr] s (kindleRun s) := by
  have hframe : sameBut [.mode, .glb, .events, .evr] s (bcnStart s) := sb_bcnStart (sameBut_refl _ s) rfl
  have hmode : (bcnStart s).mode = s.mode := (sb_bcnStart (sameBut_refl _ s) (partsIn_refl _)).mode_eq
  simp only [kindleRun, hcfg, if_true]
  refine ⟨by rw [State.setMode_mode, hmode], ?_, ?_, ?_, ?_, sb_blkMode hframe rfl⟩
  all_goals
    simp only [bcnStart, State.setMode_glb]
    repeat' split
    all_goals simp [logD]

/-- The beacon's configuration is no part of the events, so logging and alarms leave it permitted. -/
theorem bcnCfgOk_of_sameBut {l : List Part} {s t : State} (h : sameBut l s t) (hglb : Part.glb ∉ l := by decide) :
    bcnCfgOk t.glb = bcnCfgOk s.glb := by
  have hcalm := h.calm_eq hglb
  change bcnCfgOk t.glb.calm = bcnCfgOk s.glb.calm
  rw [hcalm]

/-- The wait for VSNUFF that expires asserts ALARM_N and is logged, and K12 goes on (R114). -/
def vsnuffExpired (s : State) : State := logOtherS (alarmSet (noteFail s 0x12) .vsnuff) .rom (leBytes 8 0x12)

theorem vsnuffExpired_sameBut (s : State) : sameBut [.events, .mode, .tmp, .evr] s (vsnuffExpired s) :=
  sb_logOtherS (sb_alarmSet (sb_noteFail (sameBut_refl _ s) rfl) rfl) rfl

/-- Settles O12: the steps show what they end with, and the first condition of R75 that holds names the destination. -/
theorem kindleStepsAndEnd : Obligations.KindleStepsAndEnd := by
  unfold Obligations.KindleStepsAndEnd
  refine ⟨?_, ?_, ?_, ?_, ?_, ?_, ?_⟩
  · intro s e hkindle hreset hstep hsnuff
    obtain ⟨h12, htime, hwdt, hok, hlock⟩ := kindleSteps_shows e s
    exact ⟨by simp [exec, execKindle, hkindle, hreset, hstep, hsnuff], h12, htime, hwdt, hok.trans hsnuff, hlock⟩
  · intro s e hkindle hreset hstep hsnuff
    simp [exec, execKindle, hkindle, hreset, hstep, hsnuff]
  · exact fun s hcfg => kindleRun_of_cfgOk hcfg
  · intro s hwaits
    simp [exec, execVsnuffOk, hwaits]
  · intro s hwaits
    simp [exec, execVsnuffOk, hwaits]
  · intro s hwaits hcfg
    have hexpired := vsnuffExpired_sameBut s
    obtain ⟨hmode, hrun, htick, -, -, hframe⟩ := kindleRun_of_cfgOk ((bcnCfgOk_of_sameBut hexpired).trans hcfg)
    refine leads_of_exec (t := kindleRun (vsnuffExpired s)) (by simp [exec, execVsnuffWaitExpiry, hwaits, vsnuffExpired]) ?_
    refine ⟨by rw [hmode], hrun, htick, ?_, hframe.vlt_eq.trans hexpired.vlt_eq, hframe.fus_eq.trans hexpired.fus_eq⟩
    rw [hframe.tmp_eq, vsnuffExpired, logOtherS_tmp]
    exact alarmSet_alarm _ _
  · intro s hmode hreset hkindled hrun htick hkat
    refine leads_of_exec (t := kindleDest (s.setMode { s.mode with wdtStep := none })) ?_ ?_
    · simp [exec, execKindleEnd, hmode, hreset, hkindled, hrun, htick]
    · have hframe (m : Mode) (k : Nat) (v : ModeSt) :
          sameBut [.mode, .events, .evr] s (toMode (s.setMode v) m k) := sb_toMode (sb_blkMode (sameBut_refl _ s) rfl) rfl
      simp only [kindleDest, needsRecovery, enterRecovery, retiredDebug, State.setMode_mode, State.setMode_fus,
        State.setMode_snf, hkat, List.isEmpty_nil, Bool.and_true, Bool.not_true, Bool.or_false]
      repeat' split
      all_goals simp_all [modeCode]

end Sys2Proof.Machine
end

section
/-! The statements of 02_beacon_tick.md on the beacon's start and SYNC_IN (R41 to R44; 21 R488). -/
namespace Sys2Proof.Machine

set_option Elab.async false

/-- The beacon starts at tick 0, in FREE or ACQUIRE by its lock source, with its period as it stands (R41, R43). -/
theorem bcnStart_shows (s : State) :
    (bcnStart s).glb.run = true ∧ (bcnStart s).glb.tick = 0 ∧ (bcnStart s).glb.sub = 0
      ∧ (bcnStart s).glb.lock = (if s.glb.src = 0 then .free else .acquire)
      ∧ (bcnStart s).glb.period = s.glb.period := by
  simp only [bcnStart]
  repeat' split
  all_goals simp [logD]

/-- A refused register write leaves GLB_ but for its event. -/
theorem refuseWrite_run (s : State) (a x : Nat) : (refuseWrite s a x).glb.run = s.glb.run :=
  (refuseWrite_sameBut s a x).run_eq

/-- A SYNC_IN edge that is taken, by the state of the lock (R43). -/
theorem exec_syncInEdge {s : State} {half : Bool} (hup : mainUp s = true) (hrun : s.glb.run = true)
    (hholdoff : inHoldoff s = false) :
    exec (.syncInEdge half) s = .next (match s.glb.lock with
      | .free => s
      | .acquire => acquireEdge s (edgeNear s half)
      | .holdover => acquireEdge (setLock (s.setGlb { s.glb with acq := 0 }) .acquire) (edgeNear s half)
      | .locked =>
        if syncExpected s (edgeNear s half) then
          syncAccept s (edgeNear s half) (lockedRate (edgeNear s half).2) s.glb.acq
        else s.setGlb { s.glb with stray := satInc 0xFFFF s.glb.stray }) := by
  cases hlock : s.glb.lock <;> simp [exec, execSyncInEdge, hup, hrun, hholdoff, hlock]
  split <;> rfl

/-- The correction in ACQUIRE is 80 ns per tick either way (R43). -/
theorem natAbs_acquireRate_le (ph : Int) : (acquireRate ph).natAbs ≤ 80 := by
  unfold acquireRate
  split <;> decide

/-- The correction in LOCKED is bounded by 80 ns per tick (R43). -/
theorem natAbs_lockedRate_le (ph : Int) : (lockedRate ph).natAbs ≤ 80 := by
  unfold lockedRate
  omega

/-- An event leaves the tick from which the next SYNC_IN edge is expected. -/
@[simp] theorem report_glb_syncRef (s : State) (e : Event) : (report s e).glb.syncRef = s.glb.syncRef := by
  change (report s e).glb.calm.syncRef = s.glb.calm.syncRef
  rw [report_calm]

section
variable (s : State) (l : Lock)
@[simp] theorem setLock_lock : (setLock s l).glb.lock = l := by simp [setLock, logD]
@[simp] theorem setLock_acq : (setLock s l).glb.acq = s.glb.acq := by simp [setLock, logD]
@[simp] theorem setLock_tick : (setLock s l).glb.tick = s.glb.tick := by simp [setLock, logD]
@[simp] theorem setLock_sub : (setLock s l).glb.sub = s.glb.sub := by simp [setLock, logD]
@[simp] theorem setLock_rate : (setLock s l).glb.rate = s.glb.rate := by simp [setLock, logD]
@[simp] theorem setLock_phaseErr : (setLock s l).glb.phaseErr = s.glb.phaseErr := by simp [setLock, logD]
@[simp] theorem setLock_syncRef : (setLock s l).glb.syncRef = s.glb.syncRef := by simp [setLock, logD]
@[simp] theorem setLock_lastSync : (setLock s l).glb.lastSync = s.glb.lastSync := by simp [setLock, logD]
end

/-- An edge accepted in ACQUIRE that is the third in a row locks; it leaves the tick and the count (R43). -/
theorem acquireEdge_of_third {s : State} {e : Word × Int} (hphase : e.2.natAbs ≤ 10) (hacq : s.glb.acq = 2) :
    acquireEdge s e = setLock (syncAccept s e (acquireRate e.2) 3) .locked := by
  simp [acquireEdge, hphase, hacq]

/-- Any other edge accepted in ACQUIRE counts, or starts the count again (R43). -/
theorem acquireEdge_of_not_third {s : State} {e : Word × Int} (h : 10 < e.2.natAbs ∨ s.glb.acq < 2) :
    acquireEdge s e = syncAccept s e (acquireRate e.2) (if e.2.natAbs ≤ 10 then s.glb.acq + 1 else 0) := by
  have hcount : ¬ 3 ≤ if e.2.natAbs ≤ 10 then s.glb.acq + 1 else 0 := by split <;> omega
  simp [acquireEdge, hcount]

/-- An edge in HOLDOVER is the first of the three of ACQUIRE (R43, log 93). -/
theorem acquireEdge_of_holdover (s : State) (e : Word × Int) :
    let t := acquireEdge (setLock (s.setGlb { s.glb with acq := 0 }) .acquire) e
    t.glb.lock = .acquire ∧ t.glb.acq = (if e.2.natAbs ≤ 10 then 1 else 0) ∧ t.glb.tick = s.glb.tick
      ∧ sameBut [.glb, .events, .evr] s t := by
  rw [acquireEdge_of_not_third (Or.inr (by simp))]
  exact ⟨by simp [syncAccept], by simp [syncAccept], by simp [syncAccept],
    sb_syncAccept (sb_setLock (sb_blkGlb (sameBut_refl _ s) ⟨rfl, rfl, rfl, rfl, rfl⟩ rfl) rfl) rfl⟩

/-- Settles O14: the RUN write and each lock state of a SYNC_IN edge by their cases. -/
theorem beaconStartsAndSync : Obligations.BeaconStartsAndSync := by
  unfold Obligations.BeaconStartsAndSync
  refine ⟨?_, ?_, ?_, ?_, ?_, ?_, ?_, ?_, ?_, ?_, ?_, ?_, ?_, ?_, ?_⟩
  · intro s v hmode hreset hrun hbit hcfg
    obtain ⟨hrun', htick, hsub, hlock, hperiod⟩ := bcnStart_shows s
    refine leads_of_exec (t := bcnStart s) ?_ ⟨hrun', htick, hsub, hlock, hperiod, sb_bcnStart (sameBut_refl _ s) rfl⟩
    simp [exec, execBcnRun, mainUp, inKindle, hmode, hreset, hrun, hbit, hcfg]
  · intro s v hup hrun hbit
    refine leads_of_exec (t := refuseWrite s 0x40000100 0xA) (by simp [exec, execBcnRun, hup, hrun, hbit]) ?_
    exact ⟨(refuseWrite_run ..).trans hrun, sb_refuseWrite (sameBut_refl _ s) rfl⟩
  · intro s v hup hrun hbit
    simp [exec, execBcnRun, hup, hrun, hbit]
  · intro s v hup hrun hbit hcfg
    refine leads_of_exec (t := refuseWrite s 0x40000100 0xA) (by simp [exec, execBcnRun, hup, hrun, hbit, hcfg]) ?_
    exact ⟨(refuseWrite_run ..).trans hrun, sb_refuseWrite (sameBut_refl _ s) rfl⟩
  · intro s half hfirst
    simp only [edgeNear, if_pos hfirst]
  · intro s half hlast
    simp only [edgeNear, if_neg (Nat.not_le.mpr hlast)]
  · intro s half hholdoff
    simp [exec, execSyncInEdge, hholdoff]
  · intro s half hlock
    simp [exec, execSyncInEdge, hlock]
  · intro s half hup hrun hholdoff hlock hphase hacq
    refine leads_of_exec (exec_syncInEdge hup hrun hholdoff) ?_
    simp only [hlock, acquireEdge_of_third hphase hacq]
    exact ⟨setLock_lock .., setLock_phaseErr .., setLock_syncRef .., setLock_tick .., setLock_sub .., setLock_lastSync ..,
      sb_setLock (sb_syncAccept (sameBut_refl _ s) rfl) rfl⟩
  · intro s half hup hrun hholdoff hlock hcount
    refine leads_of_exec (exec_syncInEdge hup hrun hholdoff) ?_
    simp only [hlock, acquireEdge_of_not_third hcount]
    exact ⟨hlock, rfl, rfl, rfl, rfl, natAbs_acquireRate_le _, rfl, sb_syncAccept (sameBut_refl _ s) rfl⟩
  · intro s half hup hrun hholdoff hlock hphase hexpected
    refine leads_of_exec (exec_syncInEdge hup hrun hholdoff) ?_
    simp only [hlock, syncExpected, hphase, hexpected, decide_true, Bool.and_true, if_true]
    exact ⟨hlock, rfl, rfl, rfl, rfl, natAbs_lockedRate_le _, rfl, sb_syncAccept (sameBut_refl _ s) rfl⟩
  · intro s half hup hrun hholdoff hlock hstray
    have hnot : syncExpected s (edgeNear s half) = false := by
      simp only [syncExpected, Bool.and_eq_false_iff, decide_eq_false_iff_not]
      exact hstray.imp (fun h => by omega) id
    simp [exec_syncInEdge hup hrun hholdoff, hlock, hnot]
  · intro s half hup hrun hholdoff hlock
    refine leads_of_exec (exec_syncInEdge hup hrun hholdoff) ?_
    simp only [hlock]
    exact acquireEdge_of_holdover s (edgeNear s half)
  · intro s hup hrun hlock hmiss
    refine leads_of_exec (t := setLock s .holdover) (by simp [exec, execSyncHoldover, hup, hrun, hlock, hmiss]) ?_
    exact ⟨setLock_lock .., setLock_tick .., setLock_sub .., setLock_rate .., sb_setLock (sameBut_refl _ s) rfl⟩
  · intro s hmiss
    simp [exec, execSyncHoldover, hmiss]

end Sys2Proof.Machine
end

section
/-! The statement of 02_beacon_tick.md on the tick edge (R47): an edge may program fuses, by the raise of an activation
that is due at it (19 R451, R454). -/
namespace Sys2Proof.Machine

set_option Elab.async false

/-- A write never lists the default, and lists no entry of another key. -/
theorem mem_of_mem_tput_default {α : Type} [DecidableEq α] {d : α} {t : Tab α} {j k : Nat} {v : α}
    (h : (j, d) ∈ tput d t k v) : (j, d) ∈ t ∧ j ≠ k := by
  have hne (hmem : (j, d) ∈ tdel t k) : j ≠ k := fun hjk => not_mem_tdel t k d (hjk ▸ hmem)
  by_cases hv : v = d
  · have hmem : (j, d) ∈ tdel t k := by simpa [tput, hv] using h
    exact ⟨mem_tdel hmem, hne hmem⟩
  · rw [tput, if_neg hv] at h
    rcases mem_tins h with heq | hmem
    · exact absurd (congrArg Prod.snd heq).symm hv
    · exact ⟨mem_tdel hmem, hne hmem⟩

/-- Pulses on word w, landed or not, list neither w nor another word as blank anew. -/
theorem not_blank_pulseCell {s : State} {j w : Nat} (b : Word) (h : (j, {}) ∉ s.fus.cells ∨ j = w) :
    (j, {}) ∉ (pulseCell s w b).fus.cells := fun hmem => by
  obtain ⟨hold, hne⟩ := mem_of_mem_tput_default hmem
  exact h.elim (absurd hold) (absurd · hne)

theorem not_blank_blowCell {s : State} {j w : Nat} (b : Word) (h : (j, {}) ∉ s.fus.cells ∨ j = w) :
    (j, {}) ∉ (blowCell s w b).fus.cells := fun hmem => by
  obtain ⟨hold, hne⟩ := mem_of_mem_tput_default hmem
  exact h.elim (absurd hold) (absurd · hne)

/-- A copy of RBC takes effect nowhere but in its cell. -/
theorem blowCopy_of_rbc {s : State} {w : Nat} (b : Word) (hw : w = 9 ∨ w = 11 ∨ w = 13) :
    blowCopy s w b = blowCell s w b := by
  rcases hw with rfl | rfl | rfl <;> simp [blowCopy, lastCopy, fuseAt, cusEffect]

/-- Once no entry lists word 9 as blank, programming copies of RBC lists it so at no point where it may stop. -/
theorem not_blank_blowRun_rbc {l : List (Nat × Word)} (hl : ∀ p ∈ l, p.1 = 9 ∨ p.1 = 11 ∨ p.1 = 13) (s : State) (k : Nat)
    (h : (9, {}) ∉ s.fus.cells) : (9, {}) ∉ (blowRun s k l).1.fus.cells := by
  induction l generalizing s k with
  | nil => exact h
  | cons p l ih =>
    obtain ⟨w, b⟩ := p
    obtain ⟨hw, hrest⟩ := List.forall_mem_cons.mp hl
    unfold blowRun
    split
    · have hpulse := not_blank_pulseCell (w := w) b (.inl h)
      simpa only [onFus, State.setFus_fus] using hpulse
    · refine ih hrest _ _ ?_
      rw [blowCopy_of_rbc b hw]
      exact not_blank_blowCell b (.inl h)

/-- Programming that begins with the first copy of RBC leaves no entry that lists word 9 as blank. -/
theorem not_blank_blowRun_first {l : List (Nat × Word)} (hl : ∀ p ∈ l, p.1 = 9 ∨ p.1 = 11 ∨ p.1 = 13) (s : State)
    (k : Nat) (b : Word) : (9, {}) ∉ (blowRun s k ((9, b) :: l)).1.fus.cells := by
  unfold blowRun
  split
  · have hpulse := not_blank_pulseCell (s := s) (j := 9) b (.inr rfl)
    simpa only [onFus, State.setFus_fus] using hpulse
  · refine not_blank_blowRun_rbc hl _ _ ?_
    rw [blowCopy_of_rbc b (.inl rfl)]
    exact not_blank_blowCell b (.inr rfl)

/-- A raise of the rollback counter from 0 to 1 with VPP_FUSE in range pulses the first copy of RBC. -/
theorem not_blank_rbcRaise {s : State} (hfloor : pairFloor s = 1) (hrbc : s.fus.rbc = 0) (hlc : rbcLc s = true)
    (hvpp : vppOk s = true) : (9, {}) ∉ (rbcRaise s).fus.cells := by
  have hnow : rbcNow s = 0 := by simp [rbcNow, rbcValue, hrbc]
  have hcopies : blowCopies [(9, 1), (10, 0)] = [(9, 1), (11, 1), (13, 1)] := by decide
  have hrun := not_blank_blowRun_first (l := [(11, 1), (13, 1)]) (by decide) (freeBytes s 1).2
    (leNat (freeBytes s 1).1 % 16) 1
  rw [← hcopies] at hrun
  simp only [rbcRaise, hfloor, hnow, hlc, hvpp, hrbc]
  have hwords : (9, ((((rbcThermo 1 ||| (0 : BitVec 64)) &&& ~~~0) >>> (32 * 0)).setWidth 32 : Word)) = (9, 1) := by decide
  have hzero : (10, ((((rbcThermo 1 ||| (0 : BitVec 64)) &&& ~~~0) >>> (32 * 1)).setWidth 32 : Word)) = (10, 0) := by decide
  simp only [hwords, hzero]
  rw [if_neg (by decide), if_neg (by decide)]
  split <;> (rename_i heq; rw [heq] at hrun; exact hrun)

/-- An image of security version 1. -/
def raiseImg (kind : Nat) : Img := { kind := kind, slot := 0, hdr := List.replicate 12 0 ++ [1] }

/-- The last count of tick 0 in SERVICE, with the raise of an accepted activation due at the edge; word 9 is listed as
blank. -/
def raiseDue : State :=
  { State.reset with
    glb := { run := true, sub := 6249 }
    mode := { mode := .service }
    fus := { cells := [(9, {})], lc := .provisioned }
    upd := { pending := some 2, actTick := 1, runSf := some (raiseImg 0), runPr := some (raiseImg 1) } }

/-- The edge finds VPP_FUSE in range. -/
def raiseEnv : TickEnv := { temp := 25, trim := none, vpp := .inRange }

/-- The state that the edge reaches before the raise. -/
def beforeRaise : State :=
  let u := edgeAdmit (ownerEdge (edgeKeys (edgeGroups (edgeClk (edgeTime raiseDue) raiseEnv))))
  coreEdge (coreEdge ((List.range 128).foldl ringEdge (pkeZero (pkeZero u 0) 1)) 0) 1

/-- The edge leaves the cells as the raise left them. -/
theorem exec_tickEdge_raiseDue_cells {t : State} (h : exec (.tickEdge raiseEnv) raiseDue = .next t) :
    t.fus.cells = (edgeRaise beforeRaise).fus.cells := by
  have hexec : exec (.tickEdge raiseEnv) raiseDue =
      .next (dimEdge (recorderEdge (timerEdge (voeEdge (meshSeed (edgeRaise beforeRaise)))))) := by
    have hdue : (mainUp raiseDue && raiseDue.glb.run && raiseDue.glb.sub + 1 = ticksN raiseDue) = true := by
      decide +kernel
    rw [exec, execTickEdge, hdue, if_pos rfl, edgeRest]
    simp only [beforeRaise]
  rw [← Host.Outcome.next.inj (hexec.symm.trans h)]
  rw [(sb_dimEdge (sameBut_refl _ _) (partsIn_refl _)).fus_eq, (sb_recorderEdge (sameBut_refl _ _) (partsIn_refl _)).fus_eq]
  have htimer (s : State) : (timerEdge s).fus.cells = s.fus.cells := rfl
  rw [htimer, (sb_voeEdge (sameBut_refl _ _) (partsIn_refl _)).fus_eq,
    (sb_meshSeed (sameBut_refl _ _) (partsIn_refl _)).fus_eq]

/-- Refutes O15: the second clause says that an edge leaves the fuse cells, but a raise that is due at it pulses the
first copy of RBC, which a cell table that lists that word as blank does not survive. -/
theorem not_tickEdgeAndGroups : ¬ Obligations.TickEdgeAndGroups := by
  unfold Obligations.TickEdgeAndGroups
  rintro ⟨-, hedge, -⟩
  obtain ⟨t, hexec, -, -, -, -, hcells, -⟩ := hedge raiseDue raiseEnv (by decide +kernel) rfl (by decide +kernel)
  have hraise : (edgeRaise beforeRaise).fus.cells = [(9, {})] := (exec_tickEdge_raiseDue_cells hexec).symm.trans hcells
  have hpend : beforeRaise.upd.pending = some 2 := by decide +kernel
  have hdue : tickReached beforeRaise.upd.actTick beforeRaise.glb.tick = true := by decide +kernel
  have hblank : (9, {}) ∉ (edgeRaise beforeRaise).fus.cells := by
    simp only [edgeRaise, hpend, hdue, decide_true, Bool.and_self, if_true]
    exact not_blank_rbcRaise (by decide +kernel) (by decide +kernel) (by decide +kernel) (by decide +kernel)
  rw [hraise] at hblank
  exact hblank (List.mem_singleton.mpr rfl)

end Sys2Proof.Machine
end

section
/-! The statements of 05_clocks.md on crystal checks and relocks (R117 to R131). -/
namespace Sys2Proof.Machine

set_option Elab.async false

/-- The settings of a relock are applied at its GO write where R117 to R119, the lead and the other relocks allow it. -/
theorem relockOk_eq_false {s : State} {p : Pll} {x : Word}
    (h : leadOk s x = false ∨ relockCfgOk s p = false ∨ relockBusy s.clk = true) : relockOk s p x = false := by
  rcases h with h | h | h <;> simp [relockOk, h]

/-- An accepted relock stands with its start and is announced with cause 1 (R123). -/
theorem relockAccept_announced {s : State} (p : Pll) (x : Word) (hhold : s.mode.hold = false)
    (hdim : s.mode.dimPend = none) :
    let t := relockAccept s p x
    t.clk = { s.clk with relock := some { pll := p, start := x, started := false, ended := false } } ∧ t.mode.annCause = 1
      ∧ t.mode.annStart = x ∧ t.mode.annLen = relockLen s ∧ t.mode.annIn = false
      ∧ sameBut [.events, .evr, .mode, .clk] s t := by
  have haccept : relockAccept s p x =
      announce (s.setClk { s.clk with relock := some { pll := p, start := x } }) 1 (relockLen s) x := by
    have hpend (t : State) (c l : Nat) : (announce t c l x).mode.dimPend = t.mode.dimPend := by simp [announce]
    simp [relockAccept, onClk, hhold, hpend, hdim]
    rfl
  have hframe : sameBut [.events, .evr, .mode, .clk] s (relockAccept s p x) := by
    rw [haccept]
    exact sb_announce (sb_blkClk (sameBut_refl _ s) rfl) rfl
  intro t
  refine ⟨?_, ?_, ?_, ?_, ?_, hframe⟩ <;> simp [t, haccept, announce]

/-- A GO write that is accepted (R123). -/
theorem relockGo_of_ok {s : State} {p : Pll} (h : relockOk s p s.clk.relockTick = true) :
    relockGo s p = relockAccept s p s.clk.relockTick := by
  simp [relockGo, h]

/-- A GO write that is refused writes nothing but its fault and its event (R123). -/
theorem relockGo_of_not_ok {s : State} {p : Pll} (h : relockOk s p s.clk.relockTick = false) :
    sameBut [.events, .evr, .mpu, .fwl] s (relockGo s p) := by
  have hrefuse : relockGo s p = refuseWrite s 0x40002040 0xA := by simp [relockGo, h]
  rw [hrefuse]
  exact sb_refuseWrite (sameBut_refl _ s) rfl

/-- A relock that ends is no longer under way, announced or not (R124, R126, R127). -/
theorem relocking_relockEnd (b : Bool) (c : Clk) (p : Pll) : relocking (relockEnd b c p) p = false := by
  cases hr : c.relock with
  | none => cases p <;> simp [relocking, relockEnd, hr]
  | some r =>
    by_cases hp : r.started = true ∧ r.pll = p
    · cases p <;> cases b <;> simp [relocking, relockEnd, hr, hp]
    · have hnot : (r.started && decide (r.pll = p)) = false := by simpa using hp
      have hended : (r.started && !r.ended && decide (r.pll = p)) = false := by
        rw [Bool.and_right_comm, hnot, Bool.false_and]
      cases p <;> simp [relocking, relockEnd, hr, hnot, hended]

/-- The end of a relock leaves where the domains run and their ramp. -/
theorem relockEnd_keeps (b : Bool) (c : Clk) (p q : Pll) :
    pllSel (relockEnd b c p) q = pllSel c q ∧ pllRamp (relockEnd b c p) q = pllRamp c q := by
  unfold relockEnd
  cases p <;> cases q <;> (dsimp only; split <;> (try split) <;> exact ⟨rfl, rfl⟩)

/-- A relock fails, or a PLL is lost: its flag is set, its domains leave it and its relock is over (R126, R128). -/
theorem losePll_shows (b : Bool) (c : Clk) :
    (losePll b c .a).lolA = true ∧ (losePll b c .a).selA = false ∧ (losePll b c .a).lockA = false
      ∧ relocking (losePll b c .a) .a = false ∧ (losePll b c .b).lolB = true ∧ (losePll b c .b).selB = false
      ∧ (losePll b c .b).lockB = false ∧ relocking (losePll b c .b) .b = false :=
  ⟨rfl, rfl, rfl, relocking_relockEnd b c .a, rfl, rfl, rfl, relocking_relockEnd b c .b⟩

/-- A ramp step leaves where the domains run. -/
theorem pllSel_rampDown (c : Clk) (p : Pll) : pllSel (rampDown c p) p = pllSel c p := by
  cases p <;> rfl

/-- From ÷2 a ramp step reaches ÷1 (R124). -/
theorem pllRamp_rampDown_of_le {c : Clk} {p : Pll} (h : pllRamp c p ≤ 2) : pllRamp (rampDown c p) p = 1 := by
  cases p <;> simp only [pllRamp, rampDown] at * <;> omega

/-- A ramp step of a PLL that its domains run from (R124). -/
theorem exec_rampStep {s : State} {p : Pll} (hup : mainUp s = true) (hsel : pllSel s.clk p = true) :
    exec (.rampStep p) s = .next (if pllRamp (rampDown s.clk p) p = 1 then
        s.setClk (relockEnd (relockAnn s) (rampDown s.clk p) p) else s.setClk (rampDown s.clk p)) := by
  simp only [exec, execRampStep, hup, hsel, Bool.and_self, if_true]
  rfl

/-- The ramp step that reaches ÷1 ends the relock (R124). -/
theorem exec_rampStep_last {s : State} {p : Pll} (hup : mainUp s = true) (hsel : pllSel s.clk p = true)
    (hramp : pllRamp s.clk p ≤ 2) :
    exec (.rampStep p) s = .next (s.setClk (relockEnd (relockAnn s) (rampDown s.clk p) p)) := by
  rw [exec_rampStep hup hsel, if_pos (pllRamp_rampDown_of_le hramp)]

/-- The word that a release ends leaves the park of the selects as it is. -/
theorem spi1Release_stopped (p : Spi1) (n : Nat) (v : Word) : (spi1Release p n v).stopped = p.stopped := by
  unfold spi1Release
  split
  · rfl
  · dsimp only
    split
    · rfl
    · unfold spi1Push
      split <;> rfl

/-- A watched select that follows its registers leaves the park of the selects as it is. -/
@[simp] theorem spi1Watch_stopped (s : State) : (spi1Watch s).spi1.stopped = s.spi1.stopped := by
  unfold spi1Watch
  dsimp only
  split
  · rfl
  · split
    · exact spi1Release_stopped ..
    · rfl

/-- With both PLLs locked SERVICE-HOLD ends: the selects go back to software and admission resumes (R129). -/
theorem holdClear_of_locked {s : State} (hhold : s.mode.hold = true) (hlocks : (s.clk.lockA && s.clk.lockB) = true) :
    let t := holdClear s
    t.clk = { s.clk with degrade := false } ∧ t.mode.hold = false ∧ t.mode.resume = true ∧ t.spi1.stopped = false
      ∧ t.vlt = s.vlt ∧ t.hif = s.hif := by
  have halarm (s : State) : sameBut [.events, .evr, .tmp] s (alarmClear s .lol) := alarmClear_sameBut s .lol
  have hspi (s : State) : sameBut [.spi1, .free] s (spi1Unpark s) := sb_spi1Unpark (sameBut_refl _ s) rfl
  simp only [holdClear, hhold, Bool.true_and, hlocks, if_true]
  refine ⟨?_, rfl, rfl, ?_, ?_, ?_⟩
  · simp [(hspi _).clk_eq, onClk, (halarm s).clk_eq]
  · simp [spi1Unpark]
  · simp [(hspi _).vlt_eq, onClk, (halarm s).vlt_eq]
  · simp [(hspi _).hif_eq, onClk, (halarm s).hif_eq]

/-- Settles O16: each check and each step of a relock by its case. -/
theorem crystalChecksAndRelocks : Obligations.CrystalChecksAndRelocks := by
  unfold Obligations.CrystalChecksAndRelocks
  refine ⟨?_, ?_, ?_, ?_, ?_, ?_, ?_, ?_, ?_, ?_, ?_, ?_, ?_, ?_, ?_, ?_, ?_, ?_, ?_, ?_, ?_, ?_⟩
  · intro s n hmode hup hused hlo hhi
    have hmin : min 65535 n = n := by omega
    simp [exec, execXaFreqCheck, hmode, hup, hused, hlo, hhi, onClk, hmin]
  · intro s n hmode hup hused hout
    have hnot : ¬ (2425 ≤ n ∧ n ≤ 2575) := by omega
    refine leads_of_exec (by simp only [exec, execXaFreqCheck, hmode, hup, hused, if_neg hnot]; rfl) ?_
    exact ⟨rfl, rfl, rfl, rfl, rfl, rfl, rfl, rfl, rfl, rfl, rfl,
      sb_blkGlb (sb_blkClk (sb_blkClk (sameBut_refl _ s) rfl) rfl) ⟨rfl, rfl, rfl, rfl, rfl⟩ rfl⟩
  · intro s n hup hlo hhi
    have hmin : min 65535 n = n := by omega
    simp [exec, execXbCheck, hup, hlo, hhi, onClk, hmin]
  · intro s n hup hout
    have hnot : (decide (30313 ≤ n) && decide (n ≤ 32187)) = false := by
      rw [Bool.and_eq_false_iff]
      simpa using hout
    simp [exec, execXbCheck, hup, onClk, hnot]
  · intro s hmode hxb
    refine leads_of_exec (t := logS (s.setTmp { s.tmp with xb := false }) .clk 2 []) ?_ ?_
    · simp [exec, execXbLost, hmode, hxb]
    · exact ⟨by simp, sb_logS (sb_blkTmp (sameBut_refl _ s) rfl) rfl⟩
  · intro s hxb
    simp [exec, execXbLost, hxb]
  · intro s hup hrun hok hhold hdim
    refine leads_of_exec (by simp [exec, execRelockGoA, hup, hrun, relockGo_of_ok hok]; rfl) ?_
    exact relockAccept_announced .a s.clk.relockTick hhold hdim
  · intro s hup hrun hok hhold hdim
    refine leads_of_exec (by simp [exec, execRelockGoB, hup, hrun, relockGo_of_ok hok]; rfl) ?_
    obtain ⟨hclk, hcause, hstart, -, -, hframe⟩ := relockAccept_announced .b s.clk.relockTick hhold hdim
    exact ⟨hclk, hcause, hstart, hframe⟩
  · intro s hup hrun hok
    exact leads_of_exec (by simp [exec, execRelockGoA, hup, hrun]) (relockGo_of_not_ok hok)
  · intro s hup hrun hok
    exact leads_of_exec (by simp [exec, execRelockGoB, hup, hrun]) (relockGo_of_not_ok hok)
  · intro s hup hrun hok hhold
    simp [exec, execRelockGoA, hup, hrun, relockGo_of_ok hok, relockAccept, onClk, hhold]
  · exact fun s p h => relockOk_eq_false h
  · intro s r hup hrelock hstarted hpll hdue htrips
    simp [exec, execRelockStart, hup, hrelock, hstarted, hpll, hdue, htrips, startPll, onClk]
  · intro s r hup hrelock hstarted hpll hdue htrips
    refine leads_of_exec (by simp [exec, execRelockStart, hup, hrelock, hstarted, hpll, hdue, htrips]; rfl) ?_
    exact ⟨by simp [onClk, startPll, parkBoth, hpll], rfl, rfl, sb_onClk (sb_startPll (sameBut_refl _ s) rfl) rfl⟩
  · intro s hup hrelocking hsel hhold
    simp [exec, execRelockLockShown, hup, hrelocking, pllSel, hsel, holdClear, onClk, hhold]
  · intro s hup hrelocking hsel hhold
    simp [exec, execRelockLockShown, hup, hrelocking, pllSel, hsel, holdClear, onClk, hhold]
  · intro s hup hrelocking hsel hhold hlock
    refine leads_of_exec (by simp [exec, execRelockLockShown, hup, hrelocking, pllSel, hsel]; rfl) ?_
    obtain ⟨hclk, hmode, hresume, hspi, hvlt, hhif⟩ :=
      holdClear_of_locked (s := s.setClk { s.clk with lockB := true, selB := true }) hhold (by simp [hlock])
    exact ⟨congrArg Clk.lockB hclk, congrArg Clk.selB hclk, hmode, hresume, congrArg Clk.degrade hclk, hspi, hvlt, hhif⟩
  · intro s hup hsel hramp
    have hne : max 1 (s.clk.rampA - 1) ≠ 1 := by omega
    simp [exec_rampStep hup, pllSel, hsel, rampDown, pllRamp, hne]
  · intro s hup hsel hramp
    have hne : max 1 (s.clk.rampB - 1) ≠ 1 := by omega
    simp [exec_rampStep hup, pllSel, hsel, rampDown, pllRamp, hne]
  · intro s p hup hsel hramp
    refine leads_of_exec (exec_rampStep_last hup hsel hramp) ?_
    obtain ⟨hsel', hramp'⟩ := relockEnd_keeps (relockAnn s) (rampDown s.clk p) p p
    exact ⟨relocking_relockEnd .., hsel'.trans ((pllSel_rampDown ..).trans hsel), hramp'.trans (pllRamp_rampDown_of_le hramp),
      sb_blkClk (sameBut_refl _ s) rfl⟩
  · intro s p hup hrelocking hsel
    simp [exec, execRelockFail, hup, hrelocking, hsel, onClk, relockAnn]
  · exact fun s => losePll_shows true s.clk

end Sys2Proof.Machine
end

section
/-! The statements of 05_clocks.md on losses of lock and of the crystal (R128, R130). -/
namespace Sys2Proof.Machine

set_option Elab.async false

/-- A cut ends the flash command that runs (16 R400). -/
theorem spi0Cut_cur (s : State) (err : Nat) : (spi0Cut s err).spi0.cur = none := by
  unfold spi0Cut
  split
  · assumption
  · rfl

/-- Step 2 of R128: the cause of ALARM_N, SPI1's park, both transmitters, the end of the flash command. -/
theorem lossPark_shows (s : State) :
    (lossPark s).can0 = parkCan s.can0 ∧ (lossPark s).can1 = parkCan s.can1 ∧ (lossPark s).spi1.stopped = true
      ∧ (lossPark s).spi0.cur = none ∧ Alarm.lol.num ∈ (lossPark s).tmp.alarm := by
  have halarm := alarmSet_sameBut s .lol
  have hcut := spi0Cut_sameBut (alarmSet s .lol) 4
  have hpark := sb_spi1Park (sameBut_refl _ (spi0Cut (alarmSet s .lol) 4)) (partsIn_refl _)
  simp only [lossPark, parkBoth, State.setCan1_can0, State.setCan0_can0, State.setCan1_can1, State.setCan1_spi1, State.setCan0_spi1, State.setCan1_spi0, State.setCan0_spi0, State.setCan1_tmp, State.setCan0_tmp,
    hpark.can0_eq, hpark.can1_eq, hpark.spi0_eq, hpark.tmp_eq, hcut.can0_eq, hcut.can1_eq, hcut.tmp_eq, halarm.can0_eq,
    halarm.can1_eq]
  exact ⟨trivial, trivial, rfl, spi0Cut_cur .., alarmSet_alarm s .lol⟩

/-- The actions of a loss of lock: SERVICE-HOLD, ALARM_N, everything parked; the clock settings, the vault and the fuses
stay (R128). -/
theorem lossActions_shows (s : State) :
    (lossActions s).mode.hold = true ∧ Alarm.lol.num ∈ (lossActions s).tmp.alarm ∧ (lossActions s).clk = s.clk
      ∧ (lossActions s).can0 = parkCan s.can0 ∧ (lossActions s).can1 = parkCan s.can1
      ∧ (lossActions s).spi1.stopped = true ∧ (lossActions s).spi0.cur = none
      ∧ (lossActions s).vlt.slots = s.vlt.slots ∧ (lossActions s).fus = s.fus := by
  obtain ⟨hcan0, hcan1, hspi1, hspi0, halarm⟩ := lossPark_shows s
  have hpark := sb_lossPark (sameBut_refl _ s) (partsIn_refl _)
  have hstop := sb_lossStop (sameBut_refl _ (lossPark s)) (partsIn_refl _)
  have hhold (t : State) : (wakeTrigger t 7).mode.hold = t.mode.hold := by
    unfold wakeTrigger
    split <;> simp [onRng]
  simp only [lossActions, logSD_mode, logSD_tmp, logSD_clk, logSD_can0, logSD_can1, logSD_spi1, logSD_spi0, logSD_vlt,
    logSD_fus, hstop.tmp_eq, hstop.clk_eq, hstop.can0_eq, hstop.can1_eq, hstop.spi1_eq, hstop.spi0_eq, hstop.vlt_eq,
    hstop.fus_eq, hpark.clk_eq, hpark.vlt_eq, hpark.fus_eq]
  refine ⟨?_, halarm, trivial, hcan0, hcan1, hspi1, hspi0, trivial, trivial⟩
  simp [lossStop, hhold]

/-- The actions of a loss of lock leave the timebase. -/
theorem lossActions_fircTb (s : State) : (lossActions s).glb.fircTb = s.glb.fircTb :=
  (sb_lossActions (sameBut_refl _ s) (partsIn_refl _)).fircTb_eq

/-- CLK_ as XA is lost, before the PLLs are: the fallback rows in the shadows, every relock ended or dropped (R130). -/
def xaFallback (s : State) : Clk :=
  fallbackShadows { s.clk with
    xaLost := true, xaFb := true, fbA := true, fbB := true
    relock := if relockAnn s then s.clk.relock.map fun r => { r with ended := true } else none }

/-- What a loss of XA leaves of CLK_: no relock runs, both PLLs are lost and the shadows hold the fallback rows (R130). -/
def xaLostClk (s : State) : Clk :=
  losePll (relockAnn s) (losePll (relockAnn s) (xaFallback s) .a) .b

/-- The state as XA is lost, before the actions of a loss of lock (R130). -/
def xaLostState (s : State) : State := (s.setGlb { s.glb with fircTb := true }).setClk (xaLostClk s)

/-- The command XA_LOST, where XA is in use (R130). -/
theorem exec_xaLost {s : State} (hup : mainUp s = true) (hused : s.clk.xaUsed = true) (hfb : s.clk.xaFb = false) :
    exec .xaLost s = .next (lossActions (xaLostState s)) := by
  simp only [exec, execXaLost, hup, hused, hfb, Bool.not_false, Bool.and_self, if_true]
  rfl

/-- With every relock ended none is under way but an attempt. -/
theorem relocking_of_ended {c : Clk} {p : Pll} (hended : relockLive c = false)
    (hatt : (match p with | .a => c.attA | .b => c.attB) = false) : relocking c p = false := by
  cases hr : c.relock with
  | none => cases p <;> simp_all [relocking]
  | some r => cases p <;> simp_all [relocking, relockLive]

/-- The end of a relock makes none live. -/
theorem relockLive_relockEnd {c : Clk} (b : Bool) (p : Pll) (h : relockLive c = false) :
    relockLive (relockEnd b c p) = false := by
  cases hr : c.relock with
  | none => cases p <;> simp [relockLive, relockEnd, hr]
  | some r =>
    have hended : r.ended = true := by simpa [relockLive, hr] using h
    by_cases hp : r.started = true ∧ r.pll = p
    · cases p <;> cases b <;> simp [relockLive, relockEnd, hr, hp]
    · have hnot : (r.started && decide (r.pll = p)) = false := by simpa using hp
      cases p <;> simp [relockLive, relockEnd, hr, hnot, hended]

/-- What a loss of XA leaves of CLK_: its flags, both PLLs lost, the fallback rows, no relock under way (R130). -/
theorem xaLostClk_shows (s : State) :
    (xaLostClk s).xaLost = true ∧ (xaLostClk s).xaFb = true ∧ (xaLostClk s).selA = false ∧ (xaLostClk s).selB = false
      ∧ (xaLostClk s).lockA = false ∧ (xaLostClk s).lockB = false ∧ (xaLostClk s).lolA = true ∧ (xaLostClk s).lolB = true
      ∧ (xaLostClk s).pllA = { prediv := 1, odiv := 2, ndiv := 50 }
      ∧ (xaLostClk s).pllB = { prediv := 1, odiv := 5, ndiv := 75 } ∧ (xaLostClk s).div = {}
      ∧ relocking (xaLostClk s) .a = false ∧ relocking (xaLostClk s) .b = false := by
  have hlive : relockLive (xaFallback s) = false := by
    cases hr : s.clk.relock <;> cases hann : relockAnn s <;> simp [xaFallback, relockLive, fallbackShadows, hr, hann]
  have hlost (c : Clk) (p : Pll) (h : relockLive c = false) : relockLive (losePll (relockAnn s) c p) = false := by
    have hend := relockLive_relockEnd (relockAnn s) p h
    cases p <;> exact hend
  have hboth : relockLive (xaLostClk s) = false := hlost _ _ (hlost _ _ hlive)
  have hkeeps (c : Clk) (p : Pll) :
      (losePll (relockAnn s) c p).xaLost = c.xaLost ∧ (losePll (relockAnn s) c p).xaFb = c.xaFb
        ∧ (losePll (relockAnn s) c p).pllA = c.pllA ∧ (losePll (relockAnn s) c p).pllB = c.pllB
        ∧ (losePll (relockAnn s) c p).div = c.div := by
    cases p <;> (simp only [losePll, relockEnd]; split <;> (try split) <;> exact ⟨rfl, rfl, rfl, rfl, rfl⟩)
  obtain ⟨hlostA, hfbA, haA, hbA, hdA⟩ := hkeeps (xaFallback s) .a
  obtain ⟨hlostB, hfbB, haB, hbB, hdB⟩ := hkeeps (losePll (relockAnn s) (xaFallback s) .a) .b
  have hselA : (xaLostClk s).selA = false ∧ (xaLostClk s).lockA = false ∧ (xaLostClk s).lolA = true ∧ (xaLostClk s).attA = false := by
    simp only [xaLostClk, losePll, relockEnd]
    split <;> (try split) <;> exact ⟨rfl, rfl, rfl, rfl⟩
  obtain ⟨hsel, hlock, hlol, hatt⟩ := hselA
  exact ⟨hlostB.trans hlostA, hfbB.trans hfbA, hsel, rfl, hlock, rfl, hlol, rfl, haB.trans haA, hbB.trans hbA,
    hdB.trans hdA, relocking_of_ended hboth hatt, relocking_of_ended hboth rfl⟩

/-- Settles O17: each loss is losePll of the PLLs that were locked, followed by the actions of R128. -/
theorem clockLosses : Obligations.ClockLosses := by
  unfold Obligations.ClockLosses
  refine ⟨?_, ?_, ?_, ?_, ?_, ?_, lossActions_shows, ?_⟩
  · intro s b hup hlock hother
    simp [exec, execLossOfLock, hup, hlock, hother, onClk, relockAnn]
  · intro s a hup hlock hother
    simp [exec, execLossOfLock, hup, hlock, hother, onClk, relockAnn]
  · intro s hup ha hb
    simp [exec, execLossOfLock, hup, ha, hb, onClk, relockAnn]
  · intro s a b ha hb
    simp [exec, execLossOfLock, ha, hb]
  · intro s hup hused hfb
    obtain ⟨hhold, halarm, hclk, -, -, -, -, hslots, hfus⟩ :=
      lossActions_shows (xaLostState s)
    refine leads_of_exec (exec_xaLost hup hused hfb) ?_
    obtain ⟨h1, h2, h3, h4, h5, h6, h7, h8, h9, h10, h11, h12, h13⟩ := xaLostClk_shows s
    have htb : (lossActions (xaLostState s)).glb.fircTb = true := lossActions_fircTb (xaLostState s)
    have hxa : (lossActions (xaLostState s)).clk = xaLostClk s := hclk
    simp only [hxa]
    exact ⟨h1, h2, h3, h4, h5, h6, h7, h8, h9, h10, h11, h12, h13, htb, hhold, halarm, hslots, hfus⟩
  · intro s hfb
    simp [exec, execXaLost, hfb]
  · intro s hup
    simp [exec, execDegrade, hup, onClk]

end Sys2Proof.Machine
end

section
/-! The rings of the host interface, and what a tail write does (14_host_rings.md R337 to R343; 02_beacon_tick.md R51). -/
namespace Sys2Proof.Machine

set_option Elab.async false

@[simp] theorem getRing_setRing_same (s : State) (k : Nat) (g : Ring) : getRing (setRing s k g) k = g := by
  simp [getRing, setRing]

/-- A write with one default leaves the other keys alone under any default. -/
theorem tget_tput_ne_default {α : Type} [DecidableEq α] (d e : α) (t : Tab α) {k j : Nat} (v : α) (h : j ≠ k) :
    tget e (tput d t k v) j = tget e t j := by
  by_cases hv : v = d
  · simp [tput, hv, tget_tdel_ne e t h]
  · simp [tput, hv, tget_tins_ne e _ v h, tget_tdel_ne e t h]

theorem getRing_setRing_ne (s : State) {k j : Nat} (g : Ring) (h : j ≠ k) : getRing (setRing s k g) j = getRing s j := by
  simp [getRing, setRing, tget_tput_ne_default _ _ _ _ h]

/-- The rings are of the host interface: what leaves it leaves them. -/
theorem getRing_of_hif {s t : State} (h : t.hif = s.hif) (k : Nat) : getRing t k = getRing s k := by
  simp [getRing, h]

@[simp] theorem getRing_irq (s : State) (fn vec k : Nat) : getRing (irq s fn vec) k = getRing s k :=
  getRing_of_hif (irq_hif ..) k

/-- A tail write of a function in D0 with neither DIM nor a DIM entry in the way, which acts by the ring alone (R340). -/
theorem exec_sqTail_awake {s : State} {fn : Fin 16} (r : Fin 8) (v : Word) (hseen : doorbellSeen s fn = true)
    (hmode : s.mode.mode ≠ .dim) (hpend : s.mode.dimPend = none) :
    exec (.sqTail fn r v) s
      = if !ringRuns (getRing s (ringKey fn r)) then .next (setRing s (ringKey fn r)
            { (getRing s (ringKey fn r)) with lost := satInc 0xFFFF (getRing s (ringKey fn r)).lost })
        else if 65536 ≤ v.toNat then .next (ringStop s (ringKey fn r) 1)
        else if BitVec.ofNat 16 v.toNat = (getRing s (ringKey fn r)).obs then .next s
        else if tailValid (getRing s (ringKey fn r)) (BitVec.ofNat 16 v.toNat) then .next (publish s fn r (BitVec.ofNat 16 v.toNat))
        else .next (ringStop s (ringKey fn r) 1) := by
  show execSqTail fn r v s = _
  simp only [execSqTail, hseen, wakeTrigger_of_ne_dim 6 hmode, hpend]
  rfl

/-- What a tail write leaves: the state woken and with its DIM entry cancelled, but for the rings and their candidates. -/
theorem exec_sqTail_sameBut {s : State} {fn : Fin 16} (r : Fin 8) (v : Word) (hseen : doorbellSeen s fn = true) :
    leads (.sqTail fn r v) s fun t =>
      sameBut [.events, .glb, .hif, .evr]
        (if (wakeTrigger s 6).mode.dimPend.isSome then dimCancel (wakeTrigger s 6) else wakeTrigger s 6) t := by
  show ∃ t, execSqTail fn r v s = .next t ∧ _
  simp only [execSqTail, hseen, Bool.not_true, Bool.false_eq_true, if_false]
  generalize (if (wakeTrigger s 6).mode.dimPend.isSome then dimCancel (wakeTrigger s 6) else wakeTrigger s 6) = z
  have hz := sameBut_refl [.events, .glb, .hif, .evr] z
  split
  · exact ⟨_, rfl, sb_setRing hz rfl⟩
  · split
    · exact ⟨_, rfl, sb_ringStop hz rfl⟩
    · split
      · exact ⟨_, rfl, hz⟩
      · split
        · exact ⟨_, rfl, sb_publish hz rfl⟩
        · exact ⟨_, rfl, sb_ringStop hz rfl⟩

@[simp] theorem wakeTrigger_dimPend (s : State) (cause : Nat) : (wakeTrigger s cause).mode.dimPend = s.mode.dimPend := by
  unfold wakeTrigger
  split <;> rfl

@[simp] theorem wakeTrigger_mode_mode (s : State) (cause : Nat) : (wakeTrigger s cause).mode.mode = s.mode.mode := by
  unfold wakeTrigger
  split <;> rfl

/-- In DIM a trigger with no wake before it notes the wake and starts the entropy source (M7, R107). -/
theorem wakeTrigger_in_dim {s : State} (cause : Nat) (hmode : s.mode.mode = .dim) (hwake : s.mode.wake = none) :
    wakeTrigger s cause = onRng (s.setMode { s.mode with wake := some (now s), wakeCause := cause }) rngStart := by
  simp [wakeTrigger, hmode, hwake]

/-- A DIM entry cancelled shows its cause and stays in the mode (R80). -/
theorem dimCancel_mode (s : State) : (dimCancel s).mode =
    { s.mode with dimPend := none, cause := 0x0F, causeFrom := modeCode s.mode.mode, causeTo := modeCode s.mode.mode,
                  causeTick := s.glb.tick } := by
  show (endWaits (logMode (s.setMode _)) .dim _).mode = _
  rw [(sb_endWaits (sameBut_refl _ _) (partsIn_refl _)).mode_eq, (sb_logMode (sameBut_refl _ _) (partsIn_refl _)).mode_eq]
  rfl

theorem dimCancel_rng (s : State) : (dimCancel s).rng = s.rng :=
  (sb_dimCancel (sameBut_refl _ s) (partsIn_refl _)).rng_eq

/-- Issuing reads gives tags and leaves what each trip is. -/
theorem issueFrom_map {α : Type} (f : Trip → α) (hf : ∀ (t : Trip) (n : Option Nat), f { t with tags := n } = f t) :
    ∀ (room : Nat) (l : List Trip), (issueFrom room l).map f = l.map f
  | _, [] => rfl
  | room, t :: l => by
    simp only [issueFrom]
    split <;> simp [issueFrom_map f hf, hf]

/-- A token, a count of its function and a trip at the end of the queue: an admission (R51). -/
theorem admitOne_shows (s : State) (c : Cand) :
    (admitOne s c).glb.tokens = s.glb.tokens - 1 ∧ tget 0 (admitOne s c).glb.used c.fn = tget 0 s.glb.used c.fn + 1
      ∧ (admitOne s c).hif.trips.map (fun t => (t.fn, t.ring, t.slot, t.adm, t.obs))
        = s.hif.trips.map (fun t => (t.fn, t.ring, t.slot, t.adm, t.obs)) ++ [(c.fn, c.ring, c.slot, now s, c.obs)]
      ∧ (admitOne s c).glb.carried = s.glb.carried := by
  refine ⟨rfl, ?_, ?_, rfl⟩
  · simp [admitOne, issueReads]
  · simp [admitOne, issueReads, issueFrom_map, now]

theorem observe_of_carries {s : State} {c : Cand} (h : ringCarried s c = true ∨ canAdmit s c.fn c.ring = false) :
    observe s c = carry s c := by
  obtain h | h := h <;> simp [observe, h]

theorem canAdmit_eq_false {s : State} {fn ring : Nat}
    (h : s.mode.hold = true ∨ s.glb.tokens = 0 ∨ capOf s fn ≤ tget 0 s.glb.used fn ∨ ringRuns (getRing s (ringKey fn ring)) = false) :
    canAdmit s fn ring = false := by
  obtain h | h | h | h := h
  · simp [canAdmit, admissionRuns, h]
  · simp [canAdmit, h]
  · simp [canAdmit, Nat.not_lt.mpr h]
  · simp [canAdmit, ringOpen, h]

/-- Settles O18: on a live page a tail write is decided by the ring, its value and the space. -/
theorem doorbells : Obligations.Doorbells := by
  unfold Obligations.Doorbells
  refine ⟨?_, ?_, ?_, ?_, ?_, ?_, ?_, ?_, ?_, ?_, ?_, ?_, ?_, ?_⟩
  · intro s fn r v hseen
    simp [exec, execSqTail, hseen]
  · intro s fn r v hseen hmode hpend hruns
    simp [exec_sqTail_awake r v hseen hmode hpend, hruns]
  · intro s fn r v hseen hmode hpend hruns hv
    simp [exec_sqTail_awake r v hseen hmode hpend, hruns, hv]
  · intro s fn r v hseen hmode hpend hruns hv hobs
    rw [exec_sqTail_awake r v hseen hmode hpend]
    simp [hruns, Nat.not_le.mpr hv, ← hobs]
  · intro s fn r v hseen hmode hpend hruns hv hobs hvalid hcls
    rw [exec_sqTail_awake r v hseen hmode hpend, if_neg (by simp [hruns]), if_neg (Nat.not_le.mpr hv), if_neg hobs, if_pos hvalid]
    simp only [publish, if_neg hcls]
  · intro s fn r v hseen hmode hpend hruns hv hobs hvalid hcls
    rw [exec_sqTail_awake r v hseen hmode hpend, if_neg (by simp [hruns]), if_neg (Nat.not_le.mpr hv), if_neg hobs, if_pos hvalid]
    simp only [publish, if_pos hcls]
    rfl
  · intro s fn r v hseen hmode hpend hruns hv hobs hvalid
    rw [exec_sqTail_awake r v hseen hmode hpend, if_neg (by simp [hruns]), if_neg (Nat.not_le.mpr hv), if_neg hobs,
      if_neg (by rw [hvalid]; decide)]
  · intro s l hseen
    simp [observeAll, hseen]
  · intro s c hcarried hadmit
    have hobserve : observe s c = admitOne s c := by simp [observe, hcarried, hadmit]
    rw [hobserve]
    exact admitOne_shows s c
  · intro s c h
    exact observe_of_carries h
  · intro s fn ring h
    exact canAdmit_eq_false h
  · intro s k err
    simp [ringStop]
  · intro s fn r v hseen hdim hwake
    obtain ⟨t, ht, hsame⟩ := exec_sqTail_sameBut r v hseen
    refine leads_of_exec ht ?_
    rw [hsame.mode_eq, hsame.rng_eq]
    split
    · rw [dimCancel_mode, dimCancel_rng, wakeTrigger_in_dim 6 hdim hwake]
      exact ⟨hdim, rfl, rfl, rfl⟩
    · rw [wakeTrigger_in_dim 6 hdim hwake]
      exact ⟨hdim, rfl, rfl, rfl⟩
  · intro s fn r v hseen hpend
    obtain ⟨t, ht, hsame⟩ := exec_sqTail_sameBut r v hseen
    refine leads_of_exec ht ?_
    rw [hsame.mode_eq, if_pos (by simpa using hpend), dimCancel_mode]
    exact ⟨rfl, rfl, wakeTrigger_mode_mode s 6⟩

end Sys2Proof.Machine
end

section
/-! Descriptors that arrive, and completions on their way out (14_host_rings.md R343 to R354). -/
namespace Sys2Proof.Machine

set_option Elab.async false

/-- A fetch that is allowed is decided by the verdict on its 64 bytes (R346, R354). -/
theorem exec_descFetchComplete {s : State} {fn : Fin 16} {r : Fin 8} (d : Bytes) (hfetch : canFetch s fn r = true) :
    exec (.descFetchComplete fn r d) s
      = .next (match verdict (consStep s (ringKey fn r)) (ringKey fn r) fn (getRing s (ringKey fn r)).cls (slice d 0 64) with
         | .dup c => formUnstored (consStep s (ringKey fn r)) (ringKey fn r) (dupOf c (getRing s (ringKey fn r)).cons (dNoIrq (slice d 0 64)))
         | .refuse st => refuseDesc (consStep s (ringKey fn r)) (ringKey fn r) (getRing s (ringKey fn r)).cons (slice d 0 64) st
         | .bad => formUnstored (consStep s (ringKey fn r)) (ringKey fn r) (stampCpl (consStep s (ringKey fn r)) (cplOf (slice d 0 64) (getRing s (ringKey fn r)).cons 0x11))
         | .behind => attachDup (consStep s (ringKey fn r)) (ringKey fn r) (getRing s (ringKey fn r)).cons (slice d 0 64)
         | .run => stage (consStep s (ringKey fn r)) (ringKey fn r) (getRing s (ringKey fn r)).cons (slice d 0 64)) := by
  show execDescFetchComplete fn r d s = _
  simp only [execDescFetchComplete, hfetch, Bool.not_true, Bool.false_eq_true, if_false]
  cases verdict (consStep s (ringKey fn r)) (ringKey fn r) fn (getRing s (ringKey fn r)).cls (slice d 0 64) <;> rfl

/-- A descriptor staged behind the advance of CONS (R344). -/
theorem stage_consStep_shows (s : State) (k : Nat) (slot : Half) (d : Bytes) :
    (getRing (stage (consStep s k) k slot d) k).cons = (getRing s k).cons + 1
      ∧ (getRing (stage (consStep s k) k slot d) k).staged = (getRing s k).staged ++ [{ slot := slot, desc := d }]
      ∧ (stage (consStep s k) k slot d).hif.stgOrder = s.hif.stgOrder ++ [(k, slot)]
      ∧ (stage (consStep s k) k slot d).hif.out = s.hif.out
      ∧ sameBut [.hif] s (stage (consStep s k) k slot d) := by
  have hring : getRing (stage (consStep s k) k slot d) k
      = getRing (setRing (consStep s k) k { getRing (consStep s k) k with
          staged := (getRing (consStep s k) k).staged ++ [{ slot := slot, desc := d }] }) k := rfl
  rw [hring]
  refine ⟨?_, ?_, rfl, rfl, sb_stage (sb_consStep (sameBut_refl _ s) rfl) rfl⟩ <;> simp [consStep]

/-- Settles O19: what the checks say of a fetched descriptor decides what becomes of it. -/
theorem fetches : Obligations.Fetches := by
  unfold Obligations.Fetches
  refine ⟨?_, ?_, ?_, ?_, ?_, ?_, ?_, ?_, ?_, ?_, ?_, ?_, ?_⟩
  · intro s fn r d hfetch
    simp [exec, execDescFetchComplete, hfetch]
  · intro s fn r d hfetch
    exact exec_descFetchComplete d hfetch
  · intro s k fn cls d hid hdesc
    simp [verdict, hid, hdesc]
  · intro s k fn cls d n hid hdesc
    simp [verdict, hid, hdesc]
  · intro s fn cls d hrow
    simp [descCheck, hrow]
  · intro s k slot t x horder hfind
    have hring : getRing (s.setHif { s.hif with stgOrder := t }) k = getRing s k := rfl
    show execHifStgTake s = _
    simp only [execHifStgTake, horder, takeStaged, hring, hfind]
    rfl
  · intro s horder
    simp [exec, execHifStgTake, horder]
  · intro s fn r slot htrips hover hfetch hcons
    simp [exec, execHostReadError, htrips, hover, hfetch, hcons]
  · intro s fn r slot x htrips hover hfetch hrun hwaits
    simp [exec, execHostReadError, htrips, hover, hfetch, hrun, hwaits]
  · intro s fn r d hfetch hverdict
    refine leads_of_exec (exec_descFetchComplete d hfetch) ?_
    rw [hverdict]
    exact stage_consStep_shows s _ _ _
  · intro s fn r slot t hfind hdesc
    show execHostReadError fn r slot s = _
    simp only [execHostReadError, hfind, hdesc]
  · intro s fn r slot htrips hover
    show execHostReadError fn r slot s = _
    simp only [execHostReadError, htrips, List.find?_nil, hover, if_true]
  · intro s fn r slot t x d hfind hdesc hrun hready
    show execHostReadError fn r slot s = _
    simp only [execHostReadError, hfind, hdesc, hrun, hready, if_true]

/-- With nothing held back by a reorder rule there is nothing to write after a completion (R362). -/
theorem flushReorder_of_nil {s : State} (k : Nat) (h : s.hif.reorder = []) : flushReorder s k = s := by
  have hsame : s.setHif { s.hif with reorder := [] } = s := by
    conv_rhs => rw [← show s.setHif s.hif = s from rfl]
    rw [← h]
  simp [flushReorder, h, hsame]

/-- A completion on a ring with space, nothing held and no provocation is written, and moves the write index (R349). -/
theorem deliverCpl_of_space {s : State} {k : Nat} (c : Cpl) (hspace : cqSpace (getRing s k) = true)
    (hheld : (getRing s k).holding = []) (hflt : fltActive s k = false) (hreorder : s.hif.reorder = [])
    (hirq : (getRing s k).irq ≠ 0) :
    deliverCpl s k c = setRing (emitOut s (.cpl (k / 8) (k % 8) ((getRing s k).cqw.toNat % ringSize (getRing s k))
        (cqPhase (getRing s k)) (cplBytes c (cqPhase (getRing s k))))) k
      { getRing s k with cqw := (getRing s k).cqw + 1, wrote := true, changed := true } := by
  have hwrite : deliverCpl s k c = flushReorder (writeCpl s k c (cplBytes c (cqPhase (getRing s k)))) k := by
    simp [deliverCpl, hspace, hheld, emitCpl, hflt]
  have hnoirq : ((getRing s k).irq = 0 && !c.noIrq) = true → False := by simp [hirq]
  rw [hwrite, writeCpl]
  simp only [if_neg hnoirq]
  exact flushReorder_of_nil k hreorder

@[simp] theorem logDW_hif (s : State) (b : Blk) (code who : Nat) (arg : Bytes) : (logDW s b code who arg).hif = s.hif :=
  report_hif ..

/-- A completion with no space, or behind one that waits, is held (R350). -/
theorem deliverCpl_of_full {s : State} {k : Nat} (c : Cpl)
    (h : cqSpace (getRing s k) = false ∨ (getRing s k).holding ≠ []) : deliverCpl s k c = holdCpl s k c := by
  obtain h | h := h <;> simp [deliverCpl, h]

/-- The taken descriptor that a write of HIF_CPL_GO names, by its context, ends with the register words (R349). -/
theorem exec_hifCplGo {s : State} {v : Word} {k : Nat} {x : Staged}
    (hk : (List.range 128).find? (fun k => (getRing s k).en && (getRing s k).cls ≠ 0 && (getRing s k).ctx = fld v 0 16) = some k)
    (hx : (getRing s k).running.find? (fun x => x.slot = (cplRegs s).slot && dReq x.desc = (cplRegs s).reqId) = some x) :
    exec (.hifCplGo v) s = .next (endRunning s k x (cplInSnuff s x (cplRegs s))) := by
  show execHifCplGo v s = _
  simp only [execHifCplGo, hk, hx]

theorem length_heldInsert (h : Half) (c : Cpl) : ∀ l : List Cpl, (heldInsert h c l).length = l.length + 1
  | [] => rfl
  | x :: t => by
    simp only [heldInsert]
    split <;> simp [length_heldInsert h c t]

/-- Settles O20: a completion ends its descriptor, enters the store and is written or held. -/
theorem completions : Obligations.Completions := by
  unfold Obligations.Completions
  refine ⟨?_, ?_, ?_, ?_, ?_, ?_, ?_, ?_, ?_, ?_, ?_, ?_, ?_⟩
  · intro s k x c
    rfl
  · intro s k hash c
    rfl
  · intro s k c hspace hheld hflt hreorder hirq
    rw [deliverCpl_of_space c hspace hheld hflt hreorder hirq]
    refine ⟨rfl, ?_, ?_, sb_setRing (sb_emitOut (sameBut_refl _ s) rfl) rfl⟩ <;> simp [hheld]
  · intro s k c h
    rw [deliverCpl_of_full c h]
    refine ⟨?_, ?_⟩
    · rw [holdCpl, getRing_of_hif (logDW_hif ..)]
      simp
    · rw [holdCpl, logDW_hif]
      rfl
  · intro s fn r v hlive hen hbeyond
    simp only [exec, execCqHead, hlive, hen, if_pos hbeyond]
    rfl
  · intro s fn r v hlive hen hwithin
    simp only [exec, execCqHead, hlive, hen, if_neg (Nat.not_lt.mpr hwithin)]
    rfl
  · intro s k n c t hheld hspace
    simp [drainHeld, hheld, hspace]
  · intro s v k x hk hx htrig
    simp [exec_hifCplGo hk hx, cplInSnuff, htrig]
  · intro s v hk
    show execHifCplGo v s = _
    simp only [execHifCplGo, hk]
  · intro s v k hk hx
    show execHifCplGo v s = _
    simp only [execHifCplGo, hk, hx]
  · intro s v k x hk hx htrig
    simp [exec_hifCplGo hk hx, cplInSnuff, htrig]
  · intro s fn r v h
    obtain h | h := h <;> simp [exec, execCqHead, h]
  · intro c h t
    exact ⟨rfl, rfl, by simp [holdPut, length_heldInsert]⟩

end Sys2Proof.Machine
end

section
/-! Rings and functions: enables, resets, power states, the link, allowances and mailboxes (14_host_rings.md R329 to
R338, R356 to R362). -/
namespace Sys2Proof.Machine

set_option Elab.async false

/-- What each step of a fold keeps, the fold keeps. -/
theorem foldl_keeps {α β : Type} (p : State → β) {f : State → α → State} (hf : ∀ s a, p (f s a) = p s) (s : State) :
    ∀ l : List α, p (l.foldl f s) = p s
  | [] => rfl
  | a :: l => (foldl_keeps p hf (f s a) l).trans (hf s a)

@[simp] theorem getFn_setFn_same (s : State) (f : Nat) (x : Fn) : getFn (setFn s f x) f = x := by
  simp [getFn, setFn]

theorem getFn_setFn_ne (s : State) {f g : Nat} (x : Fn) (h : g ≠ f) : getFn (setFn s f x) g = getFn s g := by
  simp [getFn, setFn, tget_tput_ne _ _ _ h]

theorem getFn_of_hif {s t : State} (h : t.hif = s.hif) (f : Nat) : getFn t f = getFn s f := by
  simp [getFn, h]

/-- The part of the host interface that no reset of a ring touches. -/
def fnPart (s : State) : Tab Fn × List OutWrite × Bool × Bool × Nat :=
  (s.hif.fns, s.hif.out, s.hif.vfEnable, s.hif.ari, s.hif.numVfs)

/-- The reset of one ring of a function that is reset: the ring cleared with its store (R359). -/
def ringWipe (fn : Nat) (s : State) (r : Nat) : State :=
  setRing (ringClear s fn r) (ringKey fn r) { ringD (ringKey fn r) with state := 1, changed := false }

theorem fnRingsClear_eq (s : State) (fn : Nat) : fnRingsClear s fn = (List.range 8).foldl (ringWipe fn) s := rfl

theorem ringWipe_fnPart (fn : Nat) (s : State) (r : Nat) : fnPart (ringWipe fn s r) = fnPart s := rfl

theorem fnRingsClear_fnPart (s : State) (fn : Nat) : fnPart (fnRingsClear s fn) = fnPart s := by
  rw [fnRingsClear_eq, foldl_keeps fnPart (ringWipe_fnPart fn)]

theorem fnRingsClear_fns (s : State) (fn : Nat) : (fnRingsClear s fn).hif.fns = s.hif.fns :=
  congrArg Prod.fst (fnRingsClear_fnPart s fn)

/-- The function's rings cleared, then its trips and its own state (R359). -/
theorem fnClear_eq (s : State) (fn : Nat) : fnClear s fn =
    setFn ((fnRingsClear s fn).setHif { (fnRingsClear s fn).hif with
      trips := (fnRingsClear s fn).hif.trips.filter fun t => t.fn ≠ fn }) fn {} := by
  simp only [fnClear]

/-- A function reset of R359 clears that function and no other. -/
theorem getFn_fnClear (s : State) (fn f : Nat) : getFn (fnClear s fn) f = if f = fn then {} else getFn s f := by
  have hrings : getFn (fnRingsClear s fn) f = getFn s f := by
    simp only [getFn, fnRingsClear_fns]
  rw [fnClear_eq, ← hrings]
  generalize fnRingsClear s fn = z
  split
  · rename_i h
    rw [h, getFn_setFn_same]
  · rename_i h
    rw [getFn_setFn_ne _ _ h]
    rfl

/-- A reset of a function lets nothing leave the device, and leaves VF Enable, ARI and NumVFs. -/
theorem fnClear_control (s : State) (fn : Nat) : (fnPart (fnClear s fn)).2 = (fnPart s).2 := by
  rw [fnClear_eq, ← fnRingsClear_fnPart s fn]
  generalize fnRingsClear s fn = z
  rfl

/-- After resets of several functions each of them is clear and the others stand. -/
theorem getFn_foldl_fnClear (f : Nat) : ∀ (l : List Nat) (s : State),
    getFn (l.foldl fnClear s) f = if f ∈ l then {} else getFn s f
  | [], s => by simp
  | g :: l, s => by
    rw [List.foldl_cons, getFn_foldl_fnClear f l, getFn_fnClear]
    by_cases hl : f ∈ l <;> by_cases hg : f = g <;> simp [hl, hg]

/-- The virtual functions. -/
def vfs : List Nat := (List.range 15).map (· + 1)

theorem vfsOff_eq (s : State) :
    vfsOff s = (vfs.foldl fnClear s).setHif { (vfs.foldl fnClear s).hif with vfEnable := false } := by
  simp only [vfsOff, vfs]

theorem getFn_vfsOff (s : State) (f : Nat) : getFn (vfsOff s) f = if f ∈ vfs then {} else getFn s f := by
  rw [vfsOff_eq, ← getFn_foldl_fnClear f vfs]
  generalize vfs.foldl fnClear s = z
  rfl

/-- The clearing of VF Enable clears VF Enable, and leaves what has left the device, ARI and NumVFs (R359, log 109). -/
theorem vfsOff_control (s : State) :
    (vfsOff s).hif.vfEnable = false ∧ (vfsOff s).hif.out = s.hif.out ∧ (vfsOff s).hif.ari = s.hif.ari
      ∧ (vfsOff s).hif.numVfs = s.hif.numVfs := by
  have h := foldl_keeps (fun s => (fnPart s).2) fnClear_control s vfs
  rw [vfsOff_eq]
  generalize vfs.foldl fnClear s = z at h ⊢
  simp only [fnPart, Prod.mk.injEq] at h
  obtain ⟨hout, -, hari, hnum⟩ := h
  exact ⟨rfl, hout, hari, hnum⟩

/-- A reset of a ring is of that ring (R358). -/
theorem getRing_ringClear_ne (s : State) (fn r : Nat) {k : Nat} (h : k ≠ ringKey fn r) :
    getRing (ringClear s fn r) k = getRing s k := getRing_setRing_ne _ _ h

theorem getRing_foldl_ringWipe (fn : Nat) (r : Nat) : ∀ (l : List Nat) (s : State),
    getRing (l.foldl (ringWipe fn) s) (ringKey fn r)
      = if r ∈ l then { ringD (ringKey fn r) with state := 1 } else getRing s (ringKey fn r)
  | [], s => by simp
  | q :: l, s => by
    rw [List.foldl_cons, getRing_foldl_ringWipe fn r l]
    by_cases hq : r = q
    · rw [hq]
      simp [ringWipe, ringD]
    · have hkey : ringKey fn r ≠ ringKey fn q := by simp only [ringKey]; omega
      simp [ringWipe, getRing_setRing_ne _ _ hkey, getRing_ringClear_ne _ _ _ hkey, hq]

/-- In D3hot a function neither fetches nor admits nor sees a doorbell (R360). -/
theorem d3_serves_nothing {s : State} {fn : Nat} (r : Nat) (h : (getFn s fn).d3 = true) :
    canFetch s fn r = false ∧ canAdmit s fn r = false ∧ doorbellSeen s fn = false := by
  simp [canFetch, canAdmit, ringOpen, doorbellSeen, h]

theorem fnThere_of_vf {s : State} {fn : Nat} (hup : mainUp s = true) (hvf : s.hif.vfEnable = true)
    (hnum : fn ≤ s.hif.numVfs) : fnThere s fn = true := by
  simp [fnThere, hup, hvf, hnum]

/-- The reset of a virtual function that is there is the function reset of R359. -/
theorem execFunctionLevelReset_vf {s : State} {fn : Nat} (hthere : fnThere s fn = true) (hfn : fn ≠ 0) :
    execFunctionLevelReset fn s = .next (fnClear s fn) := by
  simp [execFunctionLevelReset, hthere, hfn]

theorem execFunctionLevelReset_pf {s : State} (hup : mainUp s = true) :
    execFunctionLevelReset 0 s = .next (vfsOff (fnClear s 0)) := by
  simp [execFunctionLevelReset, fnThere, hup]

/-- Settles O21: an enable starts a ring, a reset clears it, and a function reset clears all that the function has. -/
theorem ringsAndFunctions : Obligations.RingsAndFunctions := by
  unfold Obligations.RingsAndFunctions
  refine ⟨?_, ?_, ?_, ?_, ?_, ?_, ?_, ?_, ?_, ?_, ?_, ?_, ?_, ?_, ?_, ?_, ?_, ?_⟩
  · intro s fn r hlive hen hcfg halloc hctx
    simp only [exec, execRingEnable, hlive, hen, hcfg]
    rw [if_neg (by decide), if_neg (by decide), if_neg]
    simpa using ⟨halloc, hctx⟩
  · intro s fn r hlive hen hcfg
    simp [exec, execRingEnable, hlive, hen, hcfg]
  · intro s fn r hlive hen hcfg halloc
    simp only [exec, execRingEnable, hlive, hen, hcfg]
    rw [if_neg (by decide), if_neg (by decide), if_pos]
    rw [decide_eq_true halloc, Bool.true_or]
  · intro s fn r hlive
    refine leads_of_exec (t := ringClear s fn r) (by simp [exec, execRingReset, hlive]) ?_
    refine ⟨?_, ?_, ?_, ?_, ?_, ?_, ?_, rfl, rfl⟩ <;> simp [ringClear]
  · intro s fn hup hfn hvf hnum
    exact execFunctionLevelReset_vf (fnThere_of_vf hup hvf hnum) (by simpa using hfn)
  · intro s hup
    refine leads_of_exec (execFunctionLevelReset_pf hup) ?_
    obtain ⟨hvf, hout, -, -⟩ := vfsOff_control (fnClear s 0)
    refine ⟨hvf, ?_, hout⟩
    rw [getFn_vfsOff, if_neg (by decide), getFn_fnClear, if_pos rfl]
  · intro s fn
    refine ⟨by rw [getFn_fnClear, if_pos rfl], ?_⟩
    rw [fnClear_eq]
    generalize fnRingsClear s fn = z
    rfl
  · intro s fn r hr
    rw [fnRingsClear_eq, getRing_foldl_ringWipe, if_pos (List.mem_range.mpr hr)]
  · intro s fn hthere
    simp [exec, execD3hotEntry, hthere]
  · intro s fn r hd3
    exact d3_serves_nothing r hd3
  · intro s fn hd3
    simp [exec, execD3hotExit, hd3]
  · intro s fn hup hfn hvf hnum hd3
    refine leads_of_exec (t := fnClear s fn) ?_ ?_
    · simp only [exec, execD3hotExit, hd3, if_true]
      exact execFunctionLevelReset_vf (fnThere_of_vf hup hvf hnum) (by simpa using hfn)
    · rw [getFn_fnClear, if_pos rfl]
  · intro s hup
    refine leads_of_exec (t := (endpointClear s).setHif { (endpointClear s).hif with linkUp := false, width := 0, speed := 0 })
      (by simp [exec, execEndpointReset, hup]) ?_
    have hsame : sameBut [.glb, .hif] s (endpointClear s) := sb_endpointClear (sameBut_refl _ s) rfl
    refine ⟨rfl, rfl, rfl, rfl, rfl, rfl, ?_, ?_⟩
    · rw [State.setHif_mode, hsame.mode_eq]
    · rw [State.setHif_vlt, hsame.vlt_eq]
  · intro s w p ext hup hlink hw hwmax hp hpmax
    have hw' : (decide (w = 1) || decide (w = 2)) = true := by simpa using hw
    simp [exec, execLinkUp, hup, hlink, hw', hwmax, hp, hpmax]
  · intro s n ari hup hn hmax hari hmode
    have hari' : ¬ (7 < n ∧ ari = false) := by
      rintro ⟨h7, hoff⟩
      rcases hari with h | h
      · omega
      · rw [hoff] at h
        exact absurd h (by decide)
    simp only [exec, execVfEnable, hup]
    rw [if_neg (by decide), if_neg (by decide), if_neg]
    · rfl
    · have htotal : totalVfs (s.setHif { s.hif with ari := ari }) = totalVfs s := rfl
      rcases hmode with h | h | h <;> simp [h, htotal, Nat.not_lt.mpr hmax, Nat.ne_of_gt hn] <;>
        simpa using hari'
  · intro s n ari hup
    refine leads_of_exec (t := vfsOff (s.setHif { s.hif with ari := ari })) (by simp [exec, execVfEnable, hup]) ?_
    obtain ⟨hvf, -, hari, hnum⟩ := vfsOff_control (s.setHif { s.hif with ari := ari })
    refine ⟨hvf, hari, hnum, ?_, ?_⟩
    · simp only [List.all_eq_true, decide_eq_true_eq]
      intro f hf
      exact (getFn_vfsOff _ f).trans (if_pos hf)
    · rw [getFn_vfsOff, if_neg (by decide)]
      rfl
  · intro s fn hthere
    simp [exec, execFunctionLevelReset, execD3hotEntry, hthere]
  · intro s fn r hlive
    simp [exec, execRingEnable, execRingReset, hlive]

@[simp] theorem getCore_setCore_same (s : State) (c : Nat) (x : Core) : getCore (setCore s c x) c = x := by
  simp [getCore, setCore]

theorem getCore_setCore_ne (s : State) {c d : Nat} (x : Core) (h : d ≠ c) : getCore (setCore s c x) d = getCore s d := by
  simp [getCore, setCore, tget_tput_ne _ _ _ h]

/-- Allowances that sum to at most 64 and cover the enabled rings are applied (R338). -/
theorem execHifRingAlloc_of_fits {s : State} {k : Nat} {v : Word} {a : List Nat} (hup : mainUp s = true)
    (ha : a = if k = 0 then allocWord v ++ s.hif.alloc.drop 8 else s.hif.alloc.take 8 ++ allocWord v)
    (hsum : a.sum ≤ 64) (hcover : ∀ f ∈ List.range 16, enabledOf s f ≤ a.getD f 0) :
    execHifRingAlloc k v s = .next (s.setHif { s.hif with alloc := a }) := by
  have hfits : (decide (64 < a.sum) || (List.range 16).any fun f => a.getD f 0 < enabledOf s f) = false := by
    rw [Bool.or_eq_false_iff, decide_eq_false_iff_not, List.any_eq_false]
    refine ⟨Nat.not_lt.mpr hsum, fun f hf => ?_⟩
    rw [decide_eq_true_eq]
    exact Nat.not_lt.mpr (hcover f hf)
  rw [execHifRingAlloc, ← ha]
  simp only [hup, hfits]
  rfl

theorem length_allocWord (v : Word) : (allocWord v).length = 8 := by simp [allocWord]

theorem allocWord_le {v : Word} {x : Nat} (h : x ∈ allocWord v) : x ≤ 8 := by
  simp only [allocWord, List.mem_map] at h
  obtain ⟨j, -, rfl⟩ := h
  exact Nat.min_le_left ..

/-- Settles O23: allowances are applied whole or not at all, and mailboxes answer by the cores and the function. -/
theorem allowancesMailboxes : Obligations.AllowancesMailboxes := by
  unfold Obligations.AllowancesMailboxes
  refine ⟨?_, ?_, ?_, ?_, ?_, ?_, ?_, ?_, ?_, ?_, ?_⟩
  · intro s v hup hsum hcover
    exact execHifRingAlloc_of_fits hup (by simp) hsum hcover
  · intro s v hup hsum hcover
    exact execHifRingAlloc_of_fits hup (by simp) hsum hcover
  · intro s v hup hsum
    show execHifRingAlloc 0 v s = _
    simp only [execHifRingAlloc, if_true, hup, hsum, decide_true, Bool.true_or]
    rfl
  · intro v
    exact ⟨length_allocWord v, fun x hx => allocWord_le hx⟩
  · intro s n hn hlive
    simp [exec, execMbxSend, hn, hlive]
  · intro s n k hpart hlevel
    have hlevel' : ((getCore s k).part = n && (decide ((getCore s k).level = .sup) || decide ((getCore s k).level = .user))) = true := by
      simpa using ⟨hpart, hlevel⟩
    simp only [mbxRaise, if_pos hlevel']
    simp
  · intro s n k hpart
    simp [mbxRaise, hpart]
  · intro s v hup
    simp [exec, execHifMbxDone, hup]
  · intro s n
    have hfn : getFn (mbxAnswer s n) n = getFn (setFn s n { getFn s n with reply := true }) n :=
      getFn_of_hif (irq_hif ..) n
    rw [hfn, getFn_setFn_same]
  · intro s hup hgate
    simp [exec, execFltEn, onE, hup, hgate]
  · intro s hup hgate
    refine leads_of_exec (t := refuseAcc s (fwAcc 0x40015000) 9 0) (by simp [exec, execFltEn, onE, hup, hgate]) ?_
    exact (sb_refuseAcc (sameBut_refl _ s) (partsIn_refl _)).flt_eq

end Sys2Proof.Machine
end

section
/-! Trips: the descriptor check, the units and the end of a MAC (02_beacon_tick.md R50 to R60; 12_crypto_engines.md R296
to R299; 14_host_rings.md R355). -/
namespace Sys2Proof.Machine

set_option Elab.async false

/-! ### What the reads and the units of trips leave -/

theorem assignUnit_keeps (s : State) :
    (assignUnit s).hif.rings = s.hif.rings ∧ (assignUnit s).hif.out = s.hif.out := by
  unfold assignUnit
  split <;> exact ⟨rfl, rfl⟩

/-- The part of the host interface that no assignment of a unit touches. -/
def ringsOut (s : State) : Tab Ring × List OutWrite := (s.hif.rings, s.hif.out)

theorem assignUnits_ringsOut (s : State) : ringsOut (assignUnits s) = ringsOut s :=
  foldl_keeps ringsOut (f := fun s _ => assignUnit s)
    (fun s _ => Prod.ext (assignUnit_keeps s).1 (assignUnit_keeps s).2) s (List.range 6)

theorem assignUnits_rings (s : State) : (assignUnits s).hif.rings = s.hif.rings :=
  congrArg Prod.fst (assignUnits_ringsOut s)

theorem assignUnits_out (s : State) : (assignUnits s).hif.out = s.hif.out :=
  congrArg Prod.snd (assignUnits_ringsOut s)

theorem assignUnits_sameBut (s : State) : sameBut [.hif] s (assignUnits s) :=
  sb_assignUnits (sameBut_refl _ s) rfl

/-- What a trip is but for its reads and its unit. -/
def tripWhat (t : Trip) : Nat × Nat × Half × Option Bytes := (t.fn, t.ring, t.slot, t.desc)

theorem assignUnit_trips (s : State) : (assignUnit s).hif.trips.map tripWhat = s.hif.trips.map tripWhat := by
  unfold assignUnit
  split
  · simp only [State.setHif_hif, List.map_map]
    refine List.map_congr_left fun t _ => ?_
    simp only [Function.comp]
    split <;> rfl
  · rfl

theorem assignUnits_trips (s : State) : (assignUnits s).hif.trips.map tripWhat = s.hif.trips.map tripWhat :=
  foldl_keeps (fun s => s.hif.trips.map tripWhat) (f := fun s _ => assignUnit s) (fun s _ => assignUnit_trips s) s (List.range 6)

theorem issueReads_trips {α : Type} (f : Trip → α) (hf : ∀ (t : Trip) (n : Option Nat), f { t with tags := n } = f t) (s : State) :
    (issueReads s).hif.trips.map f = s.hif.trips.map f := issueFrom_map f hf _ _

theorem length_issueReads_trips (s : State) : (issueReads s).hif.trips.length = s.hif.trips.length := by
  rw [← List.length_map (f := fun t => t.fn), issueReads_trips _ fun _ _ => rfl, List.length_map]

/-! ### The store of a ring while completions leave -/

theorem writeCpl_store (s : State) (k j : Nat) (c : Cpl) (b : Bytes) :
    (getRing (writeCpl s k c b) j).store = (getRing s j).store := by
  have hring : getRing (writeCpl s k c b) j
      = getRing (setRing s k { getRing s k with cqw := (getRing s k).cqw + 1, wrote := true, changed := true }) j := by
    simp only [writeCpl]
    split
    · rw [getRing_irq]
      rfl
    · rfl
  rw [hring]
  by_cases h : j = k
  · rw [h, getRing_setRing_same]
  · rw [getRing_setRing_ne _ _ h]

theorem holdCpl_store (s : State) (k j : Nat) (c : Cpl) : (getRing (holdCpl s k c) j).store = (getRing s j).store := by
  rw [holdCpl, getRing_of_hif (logDW_hif ..)]
  by_cases h : j = k
  · rw [h, getRing_setRing_same]
  · rw [getRing_setRing_ne _ _ h]

theorem writeBack_store (k : Nat) (s : State) (c : Cpl) (j : Nat) :
    (getRing (writeBack k s c) j).store = (getRing s j).store := by
  simp only [writeBack]
  split
  · exact writeCpl_store ..
  · exact holdCpl_store ..

theorem flushReorder_store (s : State) (k j : Nat) : (getRing (flushReorder s k) j).store = (getRing s j).store := by
  have hwrites := foldl_keeps (f := fun s (p : Nat × Cpl) => writeBack k s p.2) (fun s => (getRing s j).store)
    (fun s p => writeBack_store k s p.2 j) (s.setHif { s.hif with reorder := s.hif.reorder.filter fun p => p.1 ≠ k })
  simp only [flushReorder, hwrites]
  rfl

theorem fltCount_hif (s : State) (who rule act : Nat) : (fltCount s who rule act).hif = s.hif := logDW_hif ..

theorem emitCpl_store (s : State) (k j : Nat) (c : Cpl) : (getRing (emitCpl s k c) j).store = (getRing s j).store := by
  have hcount (s : State) (who rule act : Nat) : getRing (fltCount s who rule act) j = getRing s j :=
    getRing_of_hif (fltCount_hif ..) j
  have hflt (x : Flt) : getRing (s.setFlt x) j = getRing s j := rfl
  have hreorder (s : State) (l : List (Nat × Cpl)) : getRing (s.setHif { s.hif with reorder := l }) j = getRing s j := rfl
  simp only [emitCpl]
  split
  · split
    · split
      · rw [flushReorder_store, writeCpl_store, hcount, hflt]
      · split
        · rw [hreorder, hcount, hflt]
        · rw [hcount, hflt]
    · rw [flushReorder_store, writeCpl_store, hflt]
  · rw [flushReorder_store, writeCpl_store]

/-- Delivery of a completion leaves the request-ID store, which its formation enters (R349, R353). -/
theorem deliverCpl_store (s : State) (k j : Nat) (c : Cpl) : (getRing (deliverCpl s k c) j).store = (getRing s j).store := by
  simp only [deliverCpl]
  split
  · exact emitCpl_store ..
  · exact holdCpl_store ..

theorem refuseDesc_store (s : State) (k : Nat) (slot : Half) (d : Bytes) (st : Nat) :
    (getRing (refuseDesc s k slot d st) k).store
      = storePut (getRing s k).store ⟨dHash d, { cplOf d slot st with tick := s.glb.tick, count := s.glb.sub }⟩ := by
  simp only [refuseDesc, formCpl, Bool.false_eq_true, if_false, List.foldl_nil, deliverCpl_store, getRing_setRing_same, stampCpl]

/-! ### The units -/

/-- The unit that is free is the lowest-numbered free one (R297). -/
theorem freeUnit_eq_some {s : State} {u : Nat} (h : freeUnit s = some u) :
    unitBusy s u = false ∧ u < 6 ∧ ∀ v < u, unitBusy s v = true := by
  simp only [freeUnit] at h
  split at h
  · exact absurd h (by simp)
  · rw [List.find?_range_eq_some] at h
    obtain ⟨hfree, hu, hbelow⟩ := h
    exact ⟨by simpa using hfree, List.mem_range.mp hu, fun v hv => by simpa using hbelow v hv⟩

/-! ### Arrival of a descriptor -/

/-- The state of a descriptor that passed the check, its payload reads issued (R355). -/
def tripPassed (s : State) (k : Nat) (t : Trip) (d : Bytes) : State :=
  issueReads ((consStep s k).setHif { (consStep s k).hif with trips := (consStep s k).hif.trips.map fun y =>
    if y = t then { y with desc := some d, tags := none } else y })

section
variable {s : State} {fn : Fin 16} {r : Fin 8} {t : Trip} (d : Bytes) (hwait : tripWaiting s fn r = some t)
  (hmuted : t.muted = false)
include hwait hmuted

/-- An operation caught by a loss of lock, or by a Snuff, ends with that status at the arrival of its descriptor (R36, R60). -/
theorem exec_tripDescArrival_of_ends
    (hends : (if s.tmp.trig.isSome then 0x3F else t.ends) ≠ 0) :
    exec (.tripDescArrival fn r d) s = .next (refuseDesc (tripDrop (consStep s (ringKey fn r)) fn r t.slot) (ringKey fn r) t.slot
      (slice d 0 64) (if s.tmp.trig.isSome then 0x3F else t.ends)) := by
  show execTripDescArrival fn r d s = _
  simp only [execTripDescArrival, hwait, hmuted, Bool.false_eq_true, if_false]
  rw [if_pos]
  · rfl
  · exact hends

variable (hends : t.ends = 0) (htrig : s.tmp.trig = none)
  (hverdict : verdict (consStep s (ringKey fn r)) (ringKey fn r) fn 0 (slice d 0 64) = .run)
include hends htrig hverdict

/-- A descriptor that fails the descriptor check completes with its status (R296). -/
theorem exec_tripDescArrival_of_check {st : Nat} (hcheck : tripCheck (consStep s (ringKey fn r)) (slice d 0 64) = some st) :
    exec (.tripDescArrival fn r d) s = .next (refuseDesc (tripLat (tripDrop (consStep s (ringKey fn r)) fn r t.slot)
      (ringKey fn r) t.adm) (ringKey fn r) t.slot (slice d 0 64) st) := by
  have htrig' : (consStep s (ringKey fn r)).tmp.trig = none := htrig
  show execTripDescArrival fn r d s = _
  simp only [execTripDescArrival, hwait, hmuted, Bool.false_eq_true, if_false, htrig', hends, hverdict, hcheck]
  rfl

/-- A descriptor that passes runs, and its unit is taken where one is free (R296, R297). -/
theorem exec_tripDescArrival_of_pass (hcheck : tripCheck (consStep s (ringKey fn r)) (slice d 0 64) = none) :
    exec (.tripDescArrival fn r d) s = .next (assignUnits (setRing (tripPassed s (ringKey fn r) t (slice d 0 64)) (ringKey fn r)
      { getRing (tripPassed s (ringKey fn r) t (slice d 0 64)) (ringKey fn r) with
        running := (getRing (tripPassed s (ringKey fn r) t (slice d 0 64)) (ringKey fn r)).running
          ++ [{ slot := t.slot, desc := slice d 0 64, muted := false }] })) := by
  have htrig' : (consStep s (ringKey fn r)).tmp.trig = none := htrig
  show execTripDescArrival fn r d s = _
  simp only [execTripDescArrival, hwait, hmuted, Bool.false_eq_true, if_false, htrig', hends, hverdict, hcheck]
  rfl
end

theorem getRing_tripPassed (s : State) (k : Nat) (t : Trip) (d : Bytes) :
    getRing (tripPassed s k t d) k = { getRing s k with cons := (getRing s k).cons + 1, changed := true } :=
  getRing_setRing_same s k _

theorem tripPassed_trips (s : State) (k : Nat) (t : Trip) (d : Bytes) :
    (tripPassed s k t d).hif.trips.map tripWhat
      = s.hif.trips.map fun y => (y.fn, y.ring, y.slot, if y = t then some d else y.desc) := by
  rw [tripPassed, issueReads_trips _ fun _ _ => rfl]
  simp only [State.setHif_hif, List.map_map]
  refine List.map_congr_left fun y _ => ?_
  simp only [Function.comp, tripWhat]
  split <;> rfl

/-- What a passed descriptor leaves: it runs on its ring, its trip holds it, and nothing has left the device. -/
theorem tripPassed_shows (s : State) (k : Nat) (t : Trip) (d : Bytes) (x : Staged) :
    let u := assignUnits (setRing (tripPassed s k t d) k
      { getRing (tripPassed s k t d) k with running := (getRing (tripPassed s k t d) k).running ++ [x] })
    (getRing u k).running = (getRing s k).running ++ [x] ∧ (getRing u k).cons = (getRing s k).cons + 1
      ∧ u.hif.trips.map tripWhat = s.hif.trips.map (fun y => (y.fn, y.ring, y.slot, if y = t then some d else y.desc))
      ∧ u.hif.out = s.hif.out ∧ sameBut [.hif] s u := by
  intro u
  have hring : getRing u k = getRing (setRing (tripPassed s k t d) k
      { getRing (tripPassed s k t d) k with running := (getRing (tripPassed s k t d) k).running ++ [x] }) k := by
    simp only [getRing, u, assignUnits_rings]
  rw [hring, getRing_setRing_same, getRing_tripPassed]
  refine ⟨rfl, rfl, ?_, ?_, ?_⟩
  · exact (assignUnits_trips _).trans (tripPassed_trips s k t d)
  · exact (assignUnits_out _).trans rfl
  · exact sb_assignUnits (sb_setRing (sb_issueReads (sb_blkHif (sb_consStep (sameBut_refl _ s) rfl) rfl) rfl) rfl) rfl

/-! ### The MAC -/

/-- The unit of a MAC free again and its commit counted and logged with the key it used (R298, R299). -/
def macCommitted (s : State) (u : Nat) (j : MacJob) (n : Nat) : State :=
  logDW (s.setEng { s.eng with units := tput none s.eng.units u none, fpCnt := satInc 0xFFFFFFFF s.eng.fpCnt }) .eng 1
    (whoFn j.fn) (leBytes 4 n ++ leBytes 4 6)

/-- A MAC starts on the unit that its trip has taken (R297). -/
theorem exec_tripMacStart {s : State} {fn : Fin 16} {r : Fin 8} {slot : Half} {t : Trip} {d : Bytes} {u : Nat} (msg aux : Bytes)
    (hready : tripReady (assignUnits s) fn r slot = some (t, d)) (hunit : t.unit = some u) (htrig : s.tmp.trig = none) :
    exec (.tripMacStart fn r slot msg aux) s = .next (readsDone ((assignUnits s).setEng { (assignUnits s).eng with
      units := tput none (assignUnits s).eng.units u (some (macJob (assignUnits s) t d msg aux)) }) fn r slot) := by
  have htrig' : (assignUnits s).tmp.trig = none := by rw [(assignUnits_sameBut s).tmp_eq, htrig]
  show execTripMacStart fn r slot msg aux s = _
  simp only [execTripMacStart, hready, hunit, htrig']
  rfl

theorem runningAt_logDW (s : State) (b : Blk) (code who : Nat) (arg : Bytes) (k : Nat) (slot : Half) :
    runningAt (logDW s b code who arg) k slot = runningAt s k slot := by
  simp only [runningAt, getRing_of_hif (logDW_hif ..)]

theorem runningAt_setEng (s : State) (e : Eng) (k : Nat) (slot : Half) : runningAt (s.setEng e) k slot = runningAt s k slot := rfl

section
variable {s : State} {u : Fin 6} {j : MacJob} {t : Trip} {x : Staged} (htrig : s.tmp.trig = none)
  (hunit : tget none s.eng.units u = some j) (htrip : s.hif.trips.find? (isTrip j.fn j.ring j.slot) = some t)
  (hrun : runningAt s (ringKey j.fn j.ring) j.slot = some x)
include htrig hunit htrip hrun

/-- A committed result is logged with the key it used, and ends its trip (R298, R299). -/
theorem exec_tripMacEnd_commit {n : Nat} (hsquash : j.squash = false) (hholds : j.holds = some n) :
    exec (.tripMacEnd u) s = .next (tripEnd
      (if j.tag.isEmpty then macCommitted s u j n else emitOut (macCommitted s u j n) (.data j.out j.tag))
      t x { cplOf x.desc j.slot j.cpl with vfy := j.vfy, outLen := wordOf j.tag.length }) := by
  show execTripMacEnd u s = _
  simp only [execTripMacEnd, htrig, hunit, hsquash, hholds, Bool.false_eq_true, if_false]
  simp only [logDW_hif, runningAt_logDW, runningAt_setEng, State.setEng_hif, htrip, hrun, macCommitted]
  rfl

/-- A squashed result ends its trip with no output (R298). -/
theorem exec_tripMacEnd_squash (hsquash : j.squash = true) (htag : j.tag = []) :
    exec (.tripMacEnd u) s = .next (tripEnd
      (s.setEng { s.eng with units := tput none s.eng.units u none, fpSq := satInc 0xFFFFFFFF s.eng.fpSq }) t x
      { cplOf x.desc j.slot j.cpl with vfy := j.vfy, outLen := 0 }) := by
  show execTripMacEnd u s = _
  simp only [execTripMacEnd, htrig, hunit, hsquash, if_true, htag]
  cases j.holds <;>
    (simp only [State.setEng_hif, runningAt_setEng, htrip, hrun]
     rfl)
end

/-- Settles O24: a trip is decided at the arrival of its descriptor, at the start of its MAC and at the end of its unit. -/
theorem tripAdmission : Obligations.TripAdmission := by
  unfold Obligations.TripAdmission
  refine ⟨?_, ?_, ?_, ?_, ?_, ?_, ?_, ?_, ?_, ?_, ?_, ?_, ?_, ?_, ?_, ?_, ?_, ?_, ?_⟩
  · intro s fn r d hwait
    simp [exec, execTripDescArrival, hwait]
  · intro s fn r d t hwait hmuted hends htrig hverdict hcheck
    exact exec_tripDescArrival_of_check d hwait hmuted hends htrig hverdict hcheck
  · intro s fn r d t hwait hmuted hends htrig
    simpa [htrig] using exec_tripDescArrival_of_ends d hwait hmuted (by simpa [htrig] using hends)
  · intro s fn r d t hwait hmuted htrig
    simpa [htrig] using exec_tripDescArrival_of_ends d hwait hmuted (by simp [htrig])
  · intro s fn r slot
    refine ⟨?_, ?_, rfl, sb_tripDrop (sameBut_refl _ s) rfl⟩
    · have hany (l : List Trip) : l.any (isTrip fn r slot)
          = (l.map tripWhat).any fun p => p.1 = fn && p.2.1 = r && p.2.2.1 = slot := by
        rw [List.any_map]
        rfl
      rw [hany, tripDrop, issueReads_trips _ fun _ _ => rfl, ← hany]
      simp only [isTrip, List.any_eq_false]
      intro t ht
      have hother := (List.mem_filter.mp ht).2
      rw [Bool.not_eq_true'] at hother
      rw [hother]
      exact Bool.false_ne_true
    · rw [tripDrop, length_issueReads_trips]
      rfl
  · intro s fn r d t hwait hmuted hends htrig hverdict hcheck
    refine leads_of_exec (exec_tripDescArrival_of_pass d hwait hmuted hends htrig hverdict hcheck) ?_
    exact tripPassed_shows s _ t _ _
  · intro s t u htrip hunit
    simp only [assignUnit, htrip, hunit]
  · intro s u v hunit
    obtain ⟨hfree, hu, hbelow⟩ := freeUnit_eq_some hunit
    exact ⟨hfree, hu, hbelow v⟩
  · intro s fn r slot msg aux t d u hready hunit htrig
    refine leads_of_exec (exec_tripMacStart msg aux hready hunit htrig) ?_
    have hrings := assignUnits_rings s
    have hout := assignUnits_out s
    have heng := (assignUnits_sameBut s).eng_eq
    have hsame : sameBut [.eng, .hif] s (assignUnits s) := sb_assignUnits (sameBut_refl _ s) rfl
    generalize assignUnits s = z at hrings hout heng hsame ⊢
    exact ⟨by rw [← heng]; rfl, hrings, hout, sb_readsDone (sb_blkEng hsame rfl) rfl⟩
  · intro s fn r slot msg aux t d hready hunit
    show execTripMacStart fn r slot msg aux s = _
    simp only [execTripMacStart, hready, hunit]
  · intro s t d msg aux e hentry hpolicy hop
    simp [macJob, hentry, hpolicy, hop]
  · intro s t d msg aux e hentry hpolicy hop
    simp [macJob, hentry, hpolicy, hop]
  · intro s t d msg aux e hentry hpolicy
    simp [macJob, hentry, hpolicy]
  · intro s u h
    obtain h | h := h <;> simp [exec, execTripMacEnd, h]
  · intro s u j t x n htrig hunit htrip hrun hsquash hholds htag
    rw [exec_tripMacEnd_commit htrig hunit htrip hrun hsquash hholds, if_neg (by simpa using htag)]
    rfl
  · intro s u j t x n htrig hunit htrip hrun hsquash hholds htag
    rw [exec_tripMacEnd_commit htrig hunit htrip hrun hsquash hholds, if_pos (by simp [htag]), htag]
    rfl
  · intro s u j t x htrig hunit htrip hrun hsquash htag
    exact exec_tripMacEnd_squash htrig hunit htrip hrun hsquash htag
  · intro s fn r d k hover hserved hopen htag hheld
    show execTickOverrun fn r d s = _
    simp only [execTickOverrun, hover, hserved, hopen, htag]
    rw [if_neg (by simp [hheld])]
  · intro s k slot d st
    exact refuseDesc_store s k slot d st

end Sys2Proof.Machine
end

section
/-! Announced windows, DIM and its wake, the debug switch and the confirmation of an activation (02_beacon_tick.md R61,
R62; 03_modes_and_lifecycle.md R73, R78, R80, R87; 19_firmware_update.md R452 to R455). -/
namespace Sys2Proof.Machine

set_option Elab.async false

/-- A request that closes leaves the latch. -/
@[simp] theorem reqClose_latch (s : State) (st wait : Nat) : (reqClose s st wait).cus.latch = s.cus.latch := by
  unfold reqClose
  split
  · dsimp only
    rw [(sb_endWaits (sameBut_refl _ _) (partsIn_refl _)).cus_eq, (sb_sendStatus (sameBut_refl _ _) (partsIn_refl _)).cus_eq]
    rfl
  · rfl

/-- A latch that is cleared is not set (R252). -/
@[simp] theorem latchClear_latch_isSet (s : State) : (latchClear s).cus.latch.isSet = false := by
  unfold latchClear
  split
  · rfl
  · rename_i h
    simpa using h

@[simp] theorem custCancelAll_latch_isSet (s : State) (st res : Nat) : (custCancelAll s st res).cus.latch.isSet = false := by
  simp [custCancelAll]

/-- While a window is in force, or due, no candidate is admitted (R62). -/
theorem canAdmit_in_window {s : State} (fn ring : Nat) (h : windowInForce s = true ∨ windowDue s = true) :
    canAdmit s fn ring = false := by
  obtain h | h := h <;> simp [canAdmit, admissionRuns, h]

@[simp] theorem recWrite_upd (s : State) (sf pr flags schema : Nat) : (recWrite s sf pr flags schema).upd = s.upd :=
  (sb_recWrite (sameBut_refl _ s) (partsIn_refl _)).upd_eq

/-- At its tick an activation in trial is confirmed, with the raise that was asked for (R454, R455). -/
theorem exec_activationConfirm {s : State} {t : Word} {f p : Img} (hup : mainUp s = true) (hconfirm : s.upd.confirmAt = some t)
    (hsf : s.upd.runSf = some f) (hpr : s.upd.runPr = some p) (htrial : s.upd.trial = true)
    (htick : tickReached t s.glb.tick = true) :
    exec .activationConfirm s = .next (if s.upd.actRaise
      then rbcRaise ((recWrite s f.slot p.slot 2 s.upd.schema).setUpd { (recWrite s f.slot p.slot 2 s.upd.schema).upd with
        trial := false, confirmAt := none, actRaise := false })
      else (recWrite s f.slot p.slot 2 s.upd.schema).setUpd { (recWrite s f.slot p.slot 2 s.upd.schema).upd with
        trial := false, confirmAt := none, actRaise := false }) := by
  show execActivationConfirm s = _
  simp only [execActivationConfirm, hconfirm, hsf, hpr, hup, htrial, htick, recWrite_upd]
  rfl

/-- Engines that fail their test at a wake from DIM are gated, under ALARM_N and SERVICE-HOLD (R107). -/
theorem enginesFail_shows {s : State} {l : List Nat} (hmode : s.mode.mode = .dim) (hl : l ≠ []) :
    (enginesFail s l).mode = { s.mode with gatedEng := s.mode.gatedEng ++ l, hold := true }
      ∧ (enginesFail s l).clk = s.clk ∧ Alarm.wake.num ∈ (enginesFail s l).tmp.alarm := by
  have hlog (z : State) : (l.foldl (fun s e => logOther s .eng (leBytes 8 e)) z).mode = z.mode
      ∧ (l.foldl (fun s e => logOther s .eng (leBytes 8 e)) z).clk = z.clk
      ∧ (l.foldl (fun s e => logOther s .eng (leBytes 8 e)) z).tmp = z.tmp := by
    have h := foldl_keeps (fun s => (s.mode, s.clk, s.tmp)) (f := fun s e => logOther s .eng (leBytes 8 e))
      (fun s e => by simp only [logOther, logD_mode, logD_clk, logD_tmp]) z l
    simp only [Prod.mk.injEq] at h
    exact h
  simp only [enginesFail, List.isEmpty_iff, if_neg hl]
  obtain ⟨hm, hc, ht⟩ := hlog (alarmSet (s.setMode { s.mode with
    gatedEng := s.mode.gatedEng ++ l, hold := s.mode.hold || s.mode.mode = .service || s.mode.mode = .dim }) .wake)
  have hsame := alarmSet_sameBut (s.setMode { s.mode with
    gatedEng := s.mode.gatedEng ++ l, hold := s.mode.hold || s.mode.mode = .service || s.mode.mode = .dim }) .wake
  refine ⟨?_, ?_, ?_⟩
  · rw [hm, hsame.mode_eq]
    simp [hmode]
  · rw [hc, hsame.clk_eq]
    rfl
  · rw [ht]
    exact alarmSet_alarm _ _

/-- A wake is due in DIM alone. -/
theorem mode_of_wakeDue {s : State} (h : wakeDue s = true) : s.mode.mode = .dim := by
  unfold wakeDue at h
  split at h
  · simp only [Bool.and_eq_true, decide_eq_true_eq] at h
    exact h.1.1
  · exact absurd h Bool.false_ne_true

/-- A wake that is due ends in SERVICE, its clocks back and its failed engines handled (R107). -/
theorem exec_dimWakeComplete {s : State} (l : List Nat) (hup : mainUp s = true) (hdue : wakeDue s = true) :
    leads (.dimWakeComplete l) s fun t =>
      let z := enginesFail (onClk s fun c => { c with rootGated := false }) (engNumbers.filter l.contains)
      t.mode = { z.mode with wake := none, mode := .service, cause := z.mode.wakeCause, causeFrom := modeCode z.mode.mode,
                             causeTo := modeCode .service, causeTick := z.glb.tick }
        ∧ t.clk = z.clk ∧ t.tmp = z.tmp := by
  refine leads_of_exec (t := admitCarried (toMode ((enginesFail (onClk s fun c => { c with rootGated := false })
    (engNumbers.filter l.contains)).setMode { (enginesFail (onClk s fun c => { c with rootGated := false })
    (engNumbers.filter l.contains)).mode with wake := none }) .service (enginesFail (onClk s fun c => { c with rootGated := false })
    (engNumbers.filter l.contains)).mode.wakeCause)) ?_ ?_
  · show execDimWakeComplete l s = _
    simp only [execDimWakeComplete, hup, hdue]
    rfl
  · generalize enginesFail (onClk s fun c => { c with rootGated := false }) (engNumbers.filter l.contains) = z
    intro z'
    have hsame := sb_admitCarried (sameBut_refl [.glb, .hif] (toMode (z.setMode { z.mode with wake := none }) .service z.mode.wakeCause)) rfl
    have hmode : sameBut [.events, .mode, .evr] z (toMode (z.setMode { z.mode with wake := none }) .service z.mode.wakeCause) :=
      sb_toMode (sb_blkMode (sameBut_refl _ z) rfl) rfl
    refine ⟨?_, ?_, ?_⟩
    · rw [hsame.mode_eq, toMode_mode]
      rfl
    · rw [hsame.clk_eq, hmode.clk_eq]
    · rw [hsame.tmp_eq, hmode.tmp_eq]

/-- What the steps of the debug switch leave: the debug mode at its level, no latch and an empty pool (R73). -/
theorem debugRun_shows (s : State) (lv : Dbg) :
    (debugRun s lv).mode.mode = .debug ∧ (debugRun s lv).mode.cause = 8 ∧ (debugRun s lv).mode.dbg = lv
      ∧ (debugRun s lv).mode.annIn = true ∧ (debugRun s lv).cus.latch.isSet = false ∧ (debugRun s lv).rng.pool = [] := by
  have hopen (z : State) : (custCancelAll (activationDrop (debugOpen z lv)) 4 0xA).mode.dbg = lv := by
    rw [(sb_custCancelAll (sameBut_refl _ _) (partsIn_refl _)).mode_eq, (sb_activationDrop (sameBut_refl _ _) (partsIn_refl _)).mode_eq]
    show (deriveAll _).mode.dbg = lv
    rw [(sb_deriveAll (sameBut_refl _ _) (partsIn_refl _)).mode_eq]
    rfl
  have hrng (z : State) : (custCancelAll (activationDrop (debugOpen z lv)) 4 0xA).rng = z.rng :=
    (sb_custCancelAll (sb_activationDrop (sb_debugOpen (sameBut_refl
      [.events, .mode, .vlt, .spi0, .upd, .cus, .can0, .can1, .voe, .hif, .evr, .flt] z) rfl) rfl) rfl).rng_eq
  have hlatch (z : State) : (custCancelAll (activationDrop (debugOpen z lv)) 4 0xA).cus.latch.isSet = false :=
    custCancelAll_latch_isSet ..
  have hpool : (onRng (abortCommands (abortEngines s 3) usesEngine 0x21) rngZero).rng.pool = [] := rfl
  simp only [debugRun]
  generalize onRng (abortCommands (abortEngines s 3) usesEngine 0x21) rngZero = z at hpool ⊢
  have hdbg := hopen z
  have hz := hrng z
  have hset := hlatch z
  generalize custCancelAll (activationDrop (debugOpen z lv)) 4 0xA = y at hdbg hz hset ⊢
  have hlog : sameBut [.events, .mode, .evr] y (toMode (logMode (y.setMode { y.mode with annIn := true })) .debug 8) :=
    sb_toMode (sb_logMode (sb_blkMode (sameBut_refl _ y) rfl) rfl) rfl
  have hmode : (logMode (y.setMode { y.mode with annIn := true })).mode = { y.mode with annIn := true } :=
    (sb_logMode (sameBut_refl _ _) (partsIn_refl _)).mode_eq
  refine ⟨?_, ?_, ?_, ?_, ?_, ?_⟩
  · rw [toMode_mode]
  · rw [toMode_mode]
  · rw [toMode_mode, hmode]
    exact hdbg
  · rw [toMode_mode, hmode]
  · rw [hlog.cus_eq, hset]
  · rw [hlog.rng_eq, hz, hpool]

/-- Settles O25: each window, wake and switch runs at its edge, and its steps give what they name. -/
theorem windows : Obligations.Windows := by
  unfold Obligations.Windows
  refine ⟨?_, ?_, ?_, ?_, ?_, ?_, ?_, ?_, ?_, ?_, ?_, ?_, ?_, ?_, ?_, ?_⟩
  · intro s hup hdue hcause htrips
    simp [exec, execAnnounceWindowStart, hup, hdue, hcause, htrips]
  · intro s hup hdue hcause htrips
    obtain hcause | hcause := hcause <;> simp [exec, execAnnounceWindowStart, hup, hdue, hcause, htrips]
  · intro s h
    obtain h | h := h <;> simp [exec, execAnnounceWindowStart, h]
  · intro s hup hforce hend
    simp [exec, execAnnounceWindowEnd, hup, hforce, hend]
  · intro s
    have hmode : (annClear s).mode = { s.mode with annCause := 0, annLen := 0, annIn := false } :=
      (sb_logMode (sameBut_refl _ _) (partsIn_refl _)).mode_eq
    rw [hmode]
    exact ⟨rfl, rfl, rfl, rfl⟩
  · intro s f r h
    exact canAdmit_in_window f r h
  · intro s t f p hup hconfirm hsf hpr htrial htick hraise
    rw [exec_activationConfirm hup hconfirm hsf hpr htrial htick, if_neg (by simp [hraise])]
  · intro s hup hpend
    simp [exec, execDimEntryCancel, hup, hpend]
  · intro s hup hdim hwake
    refine ⟨?_, rfl⟩
    rw [← wakeTrigger_in_dim 7 hdim hwake]
    simp [exec, execWake, hup]
  · intro s hmode
    simp [exec, execWake, wakeTrigger_of_ne_dim 7 hmode]
  · intro s l hup hdue hfail
    obtain ⟨t, ht, hmode, hclk, htmp⟩ := exec_dimWakeComplete l hup hdue
    obtain ⟨hm, hc, ha⟩ := enginesFail_shows (s := onClk s fun c => { c with rootGated := false }) (mode_of_wakeDue hdue) hfail
    refine leads_of_exec ht ?_
    rw [hmode, hclk, htmp, hm, hc]
    exact ⟨rfl, rfl, rfl, rfl, rfl, ha⟩
  · intro s hup hdue
    obtain ⟨t, ht, hmode, hclk, -⟩ := exec_dimWakeComplete [] hup hdue
    refine leads_of_exec ht ?_
    rw [hmode, hclk]
    exact ⟨rfl, rfl, rfl, rfl⟩
  · intro s lv hup hdue hpend hcause hmode htrips hdbg
    refine ⟨?_, debugRun_shows s lv⟩
    simp [exec, execDebugSwitch, hpend, hup, hdue, hcause, hmode, htrips, hdbg]
  · intro s h
    obtain h | h := h
    · cases hpend : s.mode.dbgPend <;> simp [exec, execDebugSwitch, hpend, h]
    · simp [exec, execDebugSwitch, h]
  · intro s t f p hup hconfirm hsf hpr htrial htick hraise
    rw [exec_activationConfirm hup hconfirm hsf hpr htrial htick, if_pos hraise]
  · intro s hconfirm
    simp [exec, execActivationConfirm, hconfirm]

end Sys2Proof.Machine
end

section
/-! Quanta of the lanes (12_crypto_engines.md R288, R289; 08_access_checks.md R202, R211). -/
namespace Sys2Proof.Machine

set_option Elab.async false

/-- An HMAC verification on hash lane 5 under the key of cache entry 0, its expected tag at the start of system SRAM. -/
def verifyOp : LaneOp := { words := [0x1045, 0, 0, 0, 0, 0x10000000, 0, 0], cls := 1 }

/-- SERVICE with that operation on its lane, while the MPU of the lanes lets no access pass. -/
def verifyBarred : State :=
  { State.reset with
    mode := { mode := .service }
    mpu := { units := [(3, { en := true })] }
    vlt := { cache := [{ slot := 0, hdr := {}, mat := [0] }] }
    eng := { lanes := [(5, [verifyOp])] } }

/-- The refused read of the expected tag is handed to the arbiter as an event. -/
theorem laneRun_verifyBarred_queue : (laneRun verifyBarred 5 1 0).glb.queue.length = 1 := by
  decide +kernel

/-- Refutes O26: the sixth clause says that a quantum of a lane leaves GLB_, but one whose operand access is refused
hands its event to the arbiter, whose queue is of GLB_. -/
theorem not_quantaAndLanes : ¬ Obligations.QuantaAndLanes := by
  unfold Obligations.QuantaAndLanes
  rintro ⟨-, -, -, -, -, hquantum, -⟩
  obtain ⟨hglb, -, -⟩ := hquantum verifyBarred verifyOp 5 1 0 (by decide +kernel)
  have hqueue := laneRun_verifyBarred_queue
  rw [hglb] at hqueue
  exact absurd hqueue (by decide +kernel)

end Sys2Proof.Machine
end

section
/-! The big-number engines: posts, residency, ends and records (12_crypto_engines.md R291, R301 to R305). -/
namespace Sys2Proof.Machine

set_option Elab.async false

@[simp] theorem getPke_setPke_same (s : State) (p : Nat) (i : PkeInst) : getPke (setPke s p i) p = i := by
  simp [getPke, setPke]

/-- An engine is of PKE_: what leaves PKE_ leaves it. -/
theorem getPke_of_pke {s t : State} (h : t.pke = s.pke) (p : Nat) : getPke t p = getPke s p := by
  simp [getPke, h]

section
variable {s : State} {p : Nat} (hup : mainUp s = true) (hclk : engClocked s (6 + p) = true) (htrig : s.tmp.trig = none)
include hup hclk htrig

/-- A clocked engine that no custody-verify run holds zeroes the slots of ended operations, then takes the operation
whose turn it is, or a custody-verify run (R301). -/
theorem execPkeResident_of_clocked (hrun : s.cus.run < 2) :
    execPkeResident p s = match pkeNext (getPke (pkeZero s p) p) with
      | some o => if pkeFits (getPke (pkeZero s p) p) o then
          .next (setPke (pkeZero s p) p { getPke (pkeZero s p) p with
            waiting := (getPke (pkeZero s p) p).waiting.erase o
            resident := (getPke (pkeZero s p) p).resident ++ [{ o with slots := pkeWants (getPke (pkeZero s p) p) o }]
            alloc := (pkeWants (getPke (pkeZero s p) p) o).foldl (fun a k => a ||| BitVec.ofNat 48 (2 ^ k)) (getPke (pkeZero s p) p).alloc })
        else .next (pkeZero s p)
      | none => if p = 0 && (pkeZero s p).cus.run = 1 && (getPke (pkeZero s p) p).resident.isEmpty then
          .next (pkeSeed ((setPke (pkeZero s p) 0 { getPke (pkeZero s p) p with cv := true, alloc := BitVec.allOnes 48 }).setCus
            { (pkeZero s p).cus with run := 2 }))
        else .next (pkeZero s p) := by
  have hfree : (!mainUp s || !engClocked s (6 + p) || s.tmp.trig.isSome || (p = 0 && decide (2 ≤ s.cus.run))) = false := by
    simp [hup, hclk, htrig, Nat.not_le.mpr hrun]
  simp only [execPkeResident, hfree]
  rfl

/-- The operation that ran the last quantum ends while there is room for its record (R291). -/
theorem execPkeOpEnd_of_clocked {o : PkeOp} (hroom : s.pke.res.length < 16) (ho : (getPke s p).resident.find? (·.last) = some o) :
    execPkeOpEnd p s = .next (pkeDone s p o) := by
  simp only [execPkeOpEnd, ho]
  rw [if_neg]
  simp [hup, hclk, htrig, Nat.not_le.mpr hroom]
end

/-- A register access to a gated block is refused (05 R131). -/
theorem onE_of_gated {s : State} {b addr : Nat} (f : State → State) (hup : mainUp s = true) (hgate : gateOk s b = false) :
    onE s b addr f = refuseAcc s (fwAcc addr) 9 0 := by
  simp [onE, hup, hgate]

theorem onE_of_open {s : State} {b addr : Nat} (f : State → State) (hup : mainUp s = true) (hgate : gateOk s b = true) :
    onE s b addr f = f s := by
  simp [onE, hup, hgate]

/-- A read of the result port takes the head record alone (R291). -/
theorem pkePop_shows (s : State) : (pkePop s).pke.res = s.pke.res.drop 1 ∧ (pkePop s).pke.inst = s.pke.inst := by
  unfold pkePop
  dsimp only
  split
  · rw [(sb_monLower (sameBut_refl _ _) (partsIn_refl _)).pke_eq]
    exact ⟨rfl, rfl⟩
  · exact ⟨rfl, rfl⟩

/-- Settles O27: posts wait for their turn, residents end with their records, and a gated block refuses. -/
theorem pkeCommands : Obligations.PkeCommands := by
  unfold Obligations.PkeCommands
  refine ⟨?_, ?_, ?_, ?_, ?_, ?_, ?_, ?_, ?_, ?_, ?_, ?_, ?_, ?_, ?_⟩
  · intro s v hup hgate hcls hroom hopen
    rw [exec, execPkePostGo, onE_of_open _ hup hgate, pkePost]
    simp only [hcls, hopen, decide_eq_false (Nat.not_le.mpr hroom)]
    rfl
  · intro s v hup hgate h
    rw [exec, execPkePostGo, onE_of_open _ hup hgate, pkePost]
    rw [if_pos]
    simpa only [Bool.or_eq_true, decide_eq_true_eq, or_assoc] using h
  · intro s p o hup hclk htrig hrun hnext hfits
    rw [exec, execPkeResident_of_clocked hup hclk htrig hrun]
    simp only [hnext, hfits, if_true]
  · intro s p o hup hclk htrig hrun hnext hfits
    rw [exec, execPkeResident_of_clocked hup hclk htrig hrun]
    simp only [hnext, hfits, Bool.false_eq_true, if_false]
  · intro s p h
    show execPkeResident p s = _
    rw [execPkeResident, if_pos]
    simpa only [Bool.or_eq_true, Bool.and_eq_true, Bool.not_eq_true', decide_eq_true_eq, or_assoc] using h
  · intro s hup hclk htrig hrun hnext hres
    have hzero : (pkeZero s 0).cus = s.cus := (sb_pkeZero (sameBut_refl _ s) (partsIn_refl _)).cus_eq
    refine leads_of_exec (t := pkeSeed ((setPke (pkeZero s 0) 0 { getPke (pkeZero s 0) 0 with
      cv := true, alloc := BitVec.allOnes 48 }).setCus { (pkeZero s 0).cus with run := 2 }))
      ((execPkeResident_of_clocked (p := 0) hup hclk htrig (by omega)).trans ?_) ?_
    · simp only [hnext, hzero, hrun, hres]
      rfl
    · generalize hz : (setPke (pkeZero s 0) 0 { getPke (pkeZero s 0) 0 with cv := true, alloc := BitVec.allOnes 48 }).setCus
        { (pkeZero s 0).cus with run := 2 } = z
      have hseed : sameBut [.eng, .rng] z (pkeSeed z) := sb_pkeSeed (sameBut_refl _ z) rfl
      rw [hseed.cus_eq, getPke_of_pke hseed.pke_eq, ← hz]
      refine ⟨rfl, ?_, ?_, ?_⟩
      · show (pkeZero s 0).cus.latch = _
        rw [hzero]
      · exact congrArg PkeInst.cv (getPke_setPke_same ..)
      · exact congrArg PkeInst.alloc (getPke_setPke_same ..)
  · intro s p o hup hclk htrig hroom ho
    exact execPkeOpEnd_of_clocked hup hclk htrig hroom ho
  · intro s p h
    show execPkeOpEnd p s = _
    simp only [execPkeOpEnd]
    obtain h | h | h | h | h := h <;> simp [h]
  · intro s p o h hraw
    simp only [pkeDone, hraw]
  · intro s p o hraw hslots
    simp only [pkeDone, hraw, hslots, if_true]
  · intro s p o hraw hslots
    simp only [pkeDone, hraw, hslots, Bool.false_eq_true, if_false]
  · intro s p o
    rw [pkeRelease, getPke_setPke_same]
    exact ⟨rfl, rfl⟩
  · intro s hup hgate
    refine leads_of_exec (t := pkePop s) ?_ (pkePop_shows s)
    rw [exec, execPkeRespop, onE_of_open _ hup hgate]
  · intro s hup hgate
    rw [exec, execPkeRespop, onE_of_gated _ hup hgate]
  · intro s v hup hgate
    rw [exec, execPkePostGo, onE_of_gated _ hup hgate]

end Sys2Proof.Machine
end

section
/-! Re-read passes and the programming of fuses (06_fuses_and_configuration.md R143 to R146; 10_custody_and_dual_control.md
R251, R253). -/
namespace Sys2Proof.Machine

set_option Elab.async false

/-! ### Passes -/

/-- A word of a pass is read, the pass moves on, and what the readings mean follows (R144). -/
theorem exec_fuseWordReread {s : State} (x y z : Word) (hup : mainUp s = true) (hrun : s.fus.rereadRun = true) :
    exec (.fuseWordReread x y z) s =
      let t := passNext (onFus s fun f => { f with cells := tput {} f.cells s.fus.rereadNext ⟨x, y, z⟩ })
      if (fuseAt s.fus.rereadNext).1 = .cfg then
        .next (if fuseCell s s.fus.rereadNext = ⟨x, y, z⟩ then t else cfgFlag t s.fus.rereadNext)
      else if !lastCopy s.fus.rereadNext then .next t
      else if (fuseAt s.fus.rereadNext).1 = .sec then .next (secPass t (fuseAt s.fus.rereadNext).2.1)
      else .next (keyPass t (fuseAt s.fus.rereadNext).2.1) := by
  show execFuseWordReread x y z s = _
  simp only [execFuseWordReread, hup, hrun]
  rfl

/-- Before word 511 a pass moves on to the next word. -/
theorem passNext_of_lt {s : State} (h : s.fus.rereadNext < 511) :
    passNext s = s.setFus { s.fus with rereadNext := s.fus.rereadNext + 1 } := by
  simp [passNext, onFus, Nat.ne_of_lt h]

/-- A value in force that is the secure one of its bit stays it (R144). -/
theorem getLsbD_tighter {m a : Word} (b : Word) {i : Nat} (hi : i < 32) (h : a.getLsbD i = m.getLsbD i) :
    (tighter m a b).getLsbD i = m.getLsbD i := by
  simp only [tighter, BitVec.getLsbD_or, BitVec.getLsbD_and, BitVec.getLsbD_not, hi, decide_true, Bool.true_and, h]
  cases m.getLsbD i <;> simp

/-! ### Programming -/

@[simp] theorem latchUse_fus (s : State) : (latchUse s).fus = s.fus :=
  (sb_latchUse (sameBut_refl _ s) (partsIn_refl _)).fus_eq

@[simp] theorem latchClear_fus (s : State) : (latchClear s).fus = s.fus :=
  (sb_latchClear (sameBut_refl _ s) (partsIn_refl _)).fus_eq

theorem pgmAllowed_of_retired {s : State} (a : Nat) (b : Word) (au : PgmAuth) (h : s.fus.lc = .retired) :
    pgmAllowed s a b au = false := by
  simp [pgmAllowed, h]

/-- A request that its key, its word, its authority or its record does not carry blows nothing (R145). -/
theorem execFusePgmGo_refused {s : State} {v : Word} {au : PgmAuth}
    (h : fld v 24 8 ≠ 0x3C ∨ bit v 0 = false ∨ s.fus.pgm.isSome = true ∨ (fuseAt s.fus.pgmAddr).2.1 ≠ s.fus.pgmAddr
      ∨ pgmAllowed s s.fus.pgmAddr s.fus.pgmData au = false ∨ pgmRecord s s.fus.pgmAddr s.fus.pgmData au = false) :
    execFusePgmGo v au s = .next s := by
  simp only [execFusePgmGo]
  split
  · rfl
  · rename_i hkey
    rw [if_neg]
    simp only [Bool.or_eq_true, Bool.not_eq_true', decide_eq_true_eq, not_or, Bool.not_eq_false, Bool.not_eq_true] at hkey
    obtain ⟨⟨⟨-, hcode⟩, hgo⟩, hidle⟩ := hkey
    obtain h | h | h | h | h | h := h <;> simp_all

section
variable {s : State} {v : Word} {au : PgmAuth} (hup : mainUp s = true) (hcode : fld v 24 8 = 0x3C) (hgo : bit v 0 = true)
  (hidle : s.fus.pgm = none) (haddr : (fuseAt s.fus.pgmAddr).2.1 = s.fus.pgmAddr)
  (hallowed : pgmAllowed s s.fus.pgmAddr s.fus.pgmData au = true) (hrecord : pgmRecord s s.fus.pgmAddr s.fus.pgmData au = true)
include hup hcode hgo hidle haddr hallowed hrecord

/-- A request that its authority carries starts with copy A; under the latch, once what a ceremony needs is there (R145,
R253). -/
theorem execFusePgmGo_carried :
    execFusePgmGo v au s = match au with
      | .latch _ => if ceremonyReady s then .next (onFus (if s.cus.latch.used then s else latchUse s) fun f =>
            { f with pgm := some { words := pgmCopies s.fus.pgmAddr, bits := f.pgmData, latched := true } }) else .next s
      | _ => .next (onFus s fun f => { f with pgm := some { words := pgmCopies s.fus.pgmAddr, bits := f.pgmData, latched := false } }) := by
  have hkey : (!mainUp s || decide (fld v 24 8 ≠ 0x3C) || !bit v 0 || s.fus.pgm.isSome) = false := by
    simp [hup, hcode, hgo, hidle]
  simp only [execFusePgmGo, hkey, haddr, hallowed, hrecord]
  cases au <;> rfl
end

/-- At the end of a pulse the word is read back, and the readings decide what follows (R146). -/
theorem execFusePulseEnd_of_word {s : State} (x y z : Word) {o : PgmOp} {w : Nat} {l : List Nat} (ho : s.fus.pgm = some o)
    (hw : o.words = w :: l) (hflag : s.snf.flag = false) :
    execFusePulseEnd x y z s =
      let t := s.setFus { s.fus with cells := tput {} s.fus.cells w ⟨x, y, z⟩ }
      if s.fus.nrstStop then .next (nrstTake (pgmEnd t o (fuseAt w).2.1 false))
      else if within o.bits (stable1 ⟨x, y, z⟩) then
        (match l with
         | [] => .next (cusEffect (pgmEnd t o (fuseAt w).2.1 false) (fuseAt w).2.1)
         | _ => .next (t.setFus { t.fus with pgm := some { o with words := l, pulses := 0 } }))
      else if o.pulses < 3 then .next (t.setFus { t.fus with pgm := some { o with pulses := o.pulses + 1 } })
      else .next (pgmEnd t o (fuseAt w).2.1 true) := by
  simp only [execFusePulseEnd, ho, hw, onFus, hflag, State.setFus_snf, State.setFus_fus, Bool.false_and, Bool.false_eq_true, if_false]
  cases l <;> rfl

/-- The end of a programming operation that failed (R146). -/
theorem pgmEnd_failed (s : State) (o : PgmOp) (a : Nat) :
    (pgmEnd s o a true).fus = { s.fus with pgm := none, pgmFail := true } := by
  simp only [pgmEnd]
  split <;> simp [onFus]

/-- Settles O29: a pass reads word by word, and programming needs its key, its word, its authority and its record. -/
theorem fusePasses : Obligations.FusePasses := by
  unfold Obligations.FusePasses
  refine ⟨?_, ?_, ?_, ?_, ?_, ?_, ?_, ?_, ?_, ?_, ?_, ?_, ?_, ?_, ?_, ?_, ?_, ?_, ?_, ?_, ?_, ?_, ?_, ?_, ?_, ?_, ?_⟩
  · intro s hup hdue hrun
    have hboth : (mainUp s && decide (2 ^ 20 ≤ s.fus.sincePass)) = true := by rw [hup, decide_eq_true hdue]; rfl
    simp only [exec, execRereadInterval, if_pos hboth, fuseTrigger, hrun, if_true, onFus]
  · intro s hup hdue hrun
    have hboth : (mainUp s && decide (2 ^ 20 ≤ s.fus.sincePass)) = true := by rw [hup, decide_eq_true hdue]; rfl
    simp only [exec, execRereadInterval, if_pos hboth, fuseTrigger, hrun, Bool.false_eq_true, if_false]
  · intro s h
    obtain h | h := h <;> simp [exec, execFusRereadNow, fuseTrigger, h]
  · intro s h
    obtain h | h | h := h <;> simp [exec, execFuseRereadPass, h]
  · intro s
    rfl
  · intro s hearly
    rw [exec, execRereadInterval, if_neg]
    rw [decide_eq_false (Nat.not_le.mpr hearly), Bool.and_false]
    exact Bool.false_ne_true
  · intro s hup hrun
    simp [exec, execFusRereadNow, hup, fuseTrigger, hrun, onFus]
  · intro s hup hrun hdue hidle hpgm
    simp [exec, execFuseRereadPass, hup, hrun, hdue, hidle, hpgm, onFus]
  · intro s h
    obtain h | h := h
    · simp [exec, execFuseRereadPass, h]
    · have hpgm : s.fus.pgm.isNone = false := by rw [Option.isNone_eq_false_iff]; exact h
      simp [exec, execFuseRereadPass, hpgm]
  · intro s x y z hup hrun hnext hat
    have hlast : lastCopy s.fus.rereadNext = false := by simp [lastCopy, hat]
    simp only [exec_fuseWordReread x y z hup hrun, hat, hlast]
    rw [passNext_of_lt (by exact hnext)]
    rfl
  · intro s x y z hup hrun hnext hsame
    have hcfg : (fuseAt 511).1 = .cfg := by decide
    refine leads_of_exec (t := passNext (onFus s fun f => { f with cells := tput {} f.cells s.fus.rereadNext ⟨x, y, z⟩ })) ?_ ?_
    · simp only [exec_fuseWordReread x y z hup hrun, hnext, hcfg, hsame, if_true]
    · have hend (t : State) (h : t.fus.rereadNext = 511) : (passNext t).fus.rereadRun = false
          ∧ (passNext t).fus.rereadNext = 0 ∧ (passNext t).fus.passes = satInc 255 t.fus.passes := by
        simp [passNext, h, onFus]
      exact hend _ hnext
  · intro s x y z hup hrun hnext hsec hlast
    simp only [exec_fuseWordReread x y z hup hrun, hsec, hlast]
    rw [passNext_of_lt (by exact hnext)]
    rfl
  · intro s x y z hup hrun hnext hkey hlast
    simp only [exec_fuseWordReread x y z hup hrun, hkey, hlast]
    rw [passNext_of_lt (by exact hnext)]
    rfl
  · intro s x y z h
    obtain h | h := h <;> simp [exec, execFuseWordReread, h]
  · intro m a b i hi h
    exact getLsbD_tighter b hi h
  · intro s v au hup hcode hgo hidle haddr hau hallowed hrecord
    rw [exec, execFusePgmGo_carried hup hcode hgo hidle haddr hallowed hrecord]
    cases au with
    | latch n => exact absurd rfl (hau n)
    | _ => rfl
  · intro s v n hup hcode hgo hidle haddr hallowed hrecord hvpp hrng hused
    rw [exec, execFusePgmGo_carried hup hcode hgo hidle haddr hallowed hrecord]
    simp [ceremonyReady, hvpp, hrng, hused, onFus]
  · intro s v n hup h hused
    have hready : ceremonyReady s = false := by
      obtain h | h := h <;> simp [ceremonyReady, hused, h]
    show execFusePgmGo v (.latch n) s = _
    simp only [execFusePgmGo, hready]
    split <;> (try split) <;> rfl
  · intro s v au h
    exact execFusePgmGo_refused h
  · intro s h a b au
    exact pgmAllowed_of_retired a b au h
  · intro s x y z o w k l ho hw hnrst hflag hgood
    rw [exec, execFusePulseEnd_of_word x y z ho hw hflag]
    simp [hnrst, hgood]
  · intro s x y z o w ho hw hnrst hflag hgood
    rw [exec, execFusePulseEnd_of_word x y z ho hw hflag]
    simp [hnrst, hgood]
  · intro s x y z o w l ho hw hnrst
    show execFusePulseEnd x y z s = _
    simp [execFusePulseEnd, ho, hw, hnrst, onFus]
  · intro s x y z ho
    simp [exec, execFusePulseEnd, ho]
  · intro s x y z o w l ho hw hnrst hflag hbad hpulses
    rw [exec, execFusePulseEnd_of_word x y z ho hw hflag]
    simp [hnrst, hbad, hpulses]
  · intro s x y z o w l ho hw hnrst hflag hbad hpulses
    rw [exec, execFusePulseEnd_of_word x y z ho hw hflag]
    simp [hnrst, hbad, Nat.not_lt.mpr hpulses]
  · intro s o a
    rw [pgmEnd_failed]
    exact ⟨rfl, rfl, rfl⟩

end Sys2Proof.Machine
end

section
/-! The phase of the sampler (13_entropy.md R313). -/
namespace Sys2Proof.Machine

set_option Elab.async false

/-- Raw capture with the phase at 7, from which a shift comes to a phase of 0. -/
def phaseSeven : State := { State.reset with rng := { phase := 7, cap := true } }

/-- The sampler counts its phase modulo 4, so from 7 on a shift gives a sample. -/
theorem rawIn_phaseSeven_captures : (rawIn phaseSeven 0).rng.capData.length = 1 := by
  decide +kernel

/-- Refutes O30: the third clause says that a raw clock with a phase other than 3 only shifts, but the phase is any
number, and from a phase of 7 the shift comes to 0 modulo 4 and gives a sample. -/
theorem not_entropy : ¬ Obligations.Entropy := by
  unfold Obligations.Entropy
  rintro ⟨-, -, hshift, -⟩
  have hcaptured := rawIn_phaseSeven_captures
  rw [hshift phaseSeven 0 (by decide)] at hcaptured
  exact absurd hcaptured (by decide)

end Sys2Proof.Machine
end

section
/-! Host commands on the lanes: AES, GCM, HASH and the MACs (15_command_set.md R365 to R370; 12_crypto_engines.md R292,
R295). -/
namespace Sys2Proof.Machine

set_option Elab.async false

/-! ### How a command row runs -/

/-- A command row serves the descriptor that is there for it with what its body answers (R365). -/
theorem exec_serves {c : Instr} {s : State} {fn r op : Nat} {x : Staged} {f : State → Bytes → Ans} {a : Ans}
    (hexec : exec c s = .next (serveCmd s fn r op f)) (hjob : jobOf s fn r op = some x) (hans : f s x.desc = a) :
    exec c s = .next (conclude (ringKey fn r) x a) := by
  rw [hexec, serveCmd_of_jobOf f hjob, hans]

@[simp] theorem length_slice (b : Bytes) (k n : Nat) : (slice b k n).length = n := by
  simp only [slice, List.length_append, List.length_replicate, List.length_take, List.length_drop]
  omega

@[simp] theorem length_inOf (d : Bytes) (io : CmdIo) : (inOf d io).length = dLen d := length_slice ..

@[simp] theorem length_auxOf (d : Bytes) (io : CmdIo) : (auxOf d io).length = dAuxLen d := length_slice ..

theorem auxOf_take {d : Bytes} {n : Nat} (io : CmdIo) (h : dAuxLen d ≤ n) : (auxOf d io).take n = auxOf d io :=
  List.take_of_length_le (by rw [length_auxOf]; exact h)

/-- What AUX holds past its first k bytes, over the n bytes that it has there. -/
theorem auxOf_drop_take {d : Bytes} {k n : Nat} (io : CmdIo) (h : dAuxLen d = k + n) :
    ((auxOf d io).drop k).take n = (auxOf d io).drop k :=
  List.take_of_length_le (by rw [List.length_drop, length_auxOf]; omega)

section
variable {s t : State} {fn usage : Nat} {d : Bytes} {ok : Bool} {engs : List Nat} {alg : Nat → Bool} {h : Slot} {key : Bytes}
  {f : State → Slot → Bytes → Ans} (hok : ok = true) (heng : engDown s engs = false)
include hok heng

/-- A keyed command in order, with an engine of its kind, runs with the material that its handle finds (R346, R366). -/
theorem keyed_of_use (huse : useKey s fn (dKey d) usage alg = .inr (h, key, t)) :
    keyed s fn d ok engs usage alg f = f t h key := by
  simp [keyed, hok, heng, withKey, huse]

/-- A handle that does not serve ends a keyed command with its status. -/
theorem keyed_of_refused {k : Nat} (huse : useKey s fn (dKey d) usage alg = .inl (k, t)) :
    keyed s fn d ok engs usage alg f = .stop t k := by
  simp [keyed, hok, heng, withKey, huse]
end

/-! ### What the AES lanes give -/

section
variable (d key iv expect aad data : Bytes)

theorem aesLane_ecb (dec : Bool) : (aesLane (cmdArgs 0 dec d key iv expect aad data) []).1
    = ecb (if dec then aesDecK (aesKeys key) else aesEncK (aesKeys key)) (data.length / 16) data := rfl

theorem aesLane_cbcEnc : (aesLane (cmdArgs 1 false d key iv expect aad data) []).1
    = cbcEnc (aesEncK (aesKeys key)) (data.length / 16) iv data := rfl

theorem aesLane_cbcDec : (aesLane (cmdArgs 1 true d key iv expect aad data) []).1
    = cbcDec (aesDecK (aesKeys key)) (data.length / 16) iv data := rfl

theorem aesLane_ctr (dec : Bool) : (aesLane (cmdArgs 2 dec d key iv expect aad data) []).1
    = ctrMode (aesEncK (aesKeys key)) 16 ((data.length + 15) / 16) iv data := rfl

theorem aesLane_gcmEnc : (aesLane (cmdArgs 3 false d key iv expect aad data) []).1
    = gcmCrypt key (iv.take 12) data ++ (gcmTag key (iv.take 12) aad (gcmCrypt key (iv.take 12) data)).take (dTag d) := rfl

theorem aesLane_gcmDec : aesLane (cmdArgs 3 true d key iv expect aad data) []
    = (gcmCrypt key (iv.take 12) data, decide ((gcmTag key (iv.take 12) aad data).take (dTag d) = expect.take (dTag d))) := rfl

theorem aesLane_gmac : (aesLane (cmdArgs 4 false d key iv expect aad data) []).1
    = (gcmTag key (iv.take 12) aad []).take (dTag d) := rfl

theorem aesLane_gmacVerify : (aesLane (cmdArgs 4 true d key iv expect aad data) []).2
    = decide ((gcmTag key (iv.take 12) aad []).take (dTag d) = expect.take (dTag d)) := rfl

theorem aesLane_cmac : (aesLane (cmdArgs 5 false d key iv expect aad data) []).1 = (cmac key data).take (dTag d) := rfl

theorem aesLane_cmacVerify : (aesLane (cmdArgs 5 true d key iv expect aad data) []).2
    = decide ((cmac key data).take (dTag d) = expect.take (dTag d)) := rfl

theorem hashLane_hmac256 : (hashLane (cmdArgs 5 false d key iv expect aad data)).1 = (hmac256 key data).take (dTag d) := rfl

theorem hashLane_hmac256Verify : (hashLane (cmdArgs 5 true d key iv expect aad data)).2
    = decide ((hmac256 key data).take (dTag d) = expect.take (dTag d)) := rfl

theorem hashLane_hmac384 : (hashLane (cmdArgs 6 false d key iv expect aad data)).1 = (hmac384 key data).take (dTag d) := rfl

theorem hashLane_hmac384Verify : (hashLane (cmdArgs 6 true d key iv expect aad data)).2
    = decide ((hmac384 key data).take (dTag d) = expect.take (dTag d)) := rfl

theorem hashLane_hmac512 : (hashLane (cmdArgs 7 false d key iv expect aad data)).1 = (hmac512 key data).take (dTag d) := rfl

theorem hashLane_hmac512Verify : (hashLane (cmdArgs 7 true d key iv expect aad data)).2
    = decide ((hmac512 key data).take (dTag d) = expect.take (dTag d)) := rfl
end

/-- A verification says its outcome in VFY and in RESULT byte 0 (R365). -/
theorem verified_of_check (s : State) (p : Prop) [Decidable p] :
    Ans.verified s (if decide p then 0 else 1) = { st := s, vfy := decide p, result := if p then 0 else 1 } := by
  by_cases hp : p <;> simp [Ans.verified, hp]

theorem gcmOk_of_limits {d : Bytes} (htag : 12 ≤ dTag d) (htag' : dTag d ≤ 16) (haad : dOpndN d 0 4 ≤ dLen d)
    (haad' : dOpndN d 0 4 ≤ 2 ^ 30) (hdata : dLen d - dOpndN d 0 4 ≤ 2 ^ 30) : gcmOk d = true := by
  simp only [gcmOk, gcmAad, Bool.and_eq_true, decide_eq_true_eq]
  exact ⟨⟨⟨⟨htag, htag'⟩, decide_eq_true haad⟩, decide_eq_true haad'⟩, decide_eq_true hdata⟩

section
variable {s t : State} {fn : Nat} {d : Bytes} {h : Slot} {key : Bytes} (io : CmdIo) (heng : engDown s aesLanes = false)
include heng

/-- An AES block command in order gives what its lane computes under the key (R370). -/
theorem aesBlockCmd_of_use {func usage ivLen : Nat} {dec : Bool} (huse : useKey s fn (dKey d) usage algAes = .inr (h, key, t))
    (haux : dAuxLen d = ivLen) (hlen : if func = 2 then dLen d ≤ 2 ^ 30 else blockLen (dLen d) = true) :
    aesBlockCmd func dec usage ivLen s fn d io
      = { st := t, out := (aesLane (cmdArgs func dec d key (auxOf d io) [] [] (inOf d io)) []).1 } := by
  refine keyed_of_use ?_ heng huse
  rw [decide_eq_true haux, Bool.true_and]
  by_cases hfunc : func = 2
  · rw [if_pos hfunc] at hlen ⊢
    exact decide_eq_true hlen
  · rwa [if_neg hfunc] at hlen ⊢

/-- A GCM decryption in order gives the plaintext when its tag holds, and says when it does not (R370). -/
theorem gcmDecCmd_of_use (huse : useKey s fn (dKey d) 1 algAes = .inr (h, key, t)) (hok : gcmOk d = true)
    (haux : dAuxLen d = 12 + dTag d) :
    gcmDecCmd s fn d io =
      let tag := (gcmTag key ((auxOf d io).take 12) ((inOf d io).take (dOpndN d 0 4)) ((inOf d io).drop (dOpndN d 0 4))).take (dTag d)
      { st := t, vfy := decide (tag = (auxOf d io).drop 12), result := if tag = (auxOf d io).drop 12 then 0 else 1,
        out := if tag = (auxOf d io).drop 12 then gcmCrypt key ((auxOf d io).take 12) ((inOf d io).drop (dOpndN d 0 4)) else [] } := by
  refine (keyed_of_use ?_ heng huse).trans ?_
  · rw [hok, decide_eq_true haux]
    rfl
  · simp only [aesLane_gcmDec, gcmAad, List.take_take, Nat.min_self, auxOf_drop_take io haux]
    rw [verified_of_check]
    simp only [decide_eq_true_eq]
end

/-- Settles O31: a command in order ends with what its lane gives for its input, its key and its AUX. -/
theorem aesAndGcmCommands : Obligations.AesAndGcmCommands := by
  unfold Obligations.AesAndGcmCommands
  refine ⟨?_, ?_, ?_, ?_, ?_, ?_, ?_, ?_, ?_, ?_, ?_⟩
  · intro s fn r io x h key t hjob heng huse haux hlen
    refine exec_serves rfl hjob ((aesBlockCmd_of_use (func := 0) io heng huse haux hlen).trans ?_)
    rw [aesLane_ecb, length_inOf]
    rfl
  · intro s fn r io x h key t hjob heng huse haux hlen
    refine exec_serves rfl hjob ((aesBlockCmd_of_use (func := 0) io heng huse haux hlen).trans ?_)
    rw [aesLane_ecb, length_inOf]
    rfl
  · intro s fn r io x h key t hjob heng huse haux hlen
    refine exec_serves rfl hjob ((aesBlockCmd_of_use (func := 1) io heng huse haux hlen).trans ?_)
    rw [aesLane_cbcEnc, length_inOf]
  · intro s fn r io x h key t hjob heng huse haux hlen
    refine exec_serves rfl hjob ((aesBlockCmd_of_use (func := 1) io heng huse haux hlen).trans ?_)
    rw [aesLane_cbcDec, length_inOf]
  · intro s fn r io x h key t hjob heng huse haux hlen
    refine exec_serves rfl hjob ((aesBlockCmd_of_use (func := 2) io heng huse haux hlen).trans ?_)
    rw [aesLane_ctr, length_inOf]
  · intro s fn r io x h key t hjob heng huse haux hlen
    refine exec_serves rfl hjob ((aesBlockCmd_of_use (func := 2) io heng huse haux hlen).trans ?_)
    rw [aesLane_ctr, length_inOf]
  · intro s fn r io x h key t hjob heng huse htag htag' haad haad' hdata hmode haux
    have hok := gcmOk_of_limits htag htag' haad haad' hdata
    refine exec_serves rfl hjob ((keyed_of_use (by simp [hok, hmode, haux]) heng huse).trans ?_)
    simp only [hmode, if_true, aesLane_gcmEnc, gcmAad, auxOf_take io (Nat.le_of_eq haux)]
  · intro s fn r io x h key t hjob heng huse htag htag' haad haad' hdata hmode haux
    have hok := gcmOk_of_limits htag htag' haad haad' hdata
    refine exec_serves rfl hjob ((keyed_of_use (by simp [hok, hmode, haux]) heng huse).trans ?_)
    simp only [hmode, withRandom, aesLane_gcmEnc, gcmAad]
    cases rngDraw t (addOf fn (dOp x.desc) (dReq x.desc)) 12 (dPr x.desc) <;> rfl
  · intro s fn r io x h key t hjob heng huse htag htag' haad haad' hdata haux
    exact exec_serves rfl hjob (gcmDecCmd_of_use io heng huse (gcmOk_of_limits htag htag' haad haad' hdata) haux)
  · intro s fn r io x hjob hfunc heng
    refine exec_serves rfl hjob ?_
    rw [hashBody, if_neg (Nat.not_lt.mpr hfunc), if_neg (by rw [heng]; exact Bool.false_ne_true)]
    have hcases : dOpnd x.desc 0 = 0 ∨ dOpnd x.desc 0 = 1 ∨ dOpnd x.desc 0 = 2 ∨ dOpnd x.desc 0 = 3 ∨ dOpnd x.desc 0 = 4 := by
      omega
    obtain h | h | h | h | h := hcases <;> (rw [h]; rfl)
  · intro s fn r io x hjob hfunc
    refine exec_serves rfl hjob ?_
    rw [hashBody, if_pos hfunc]
    rfl

/-! ### The MACs -/

section
variable {s t : State} {fn : Nat} {d : Bytes} {h : Slot} {key : Bytes} (io : CmdIo)

/-- An HMAC generation in order gives the first TAGLEN bytes of the code (R370). -/
theorem hmacCmd_generate {alg : Nat} (heng : engDown s hashLanes = false)
    (huse : useKey s fn (dKey d) 4 (· = alg) = .inr (h, key, t)) (hopnd : dOpnd d 0 ≤ 1) (htag : 10 ≤ dTag d)
    (htag' : dTag d ≤ (hmacOf alg d).1) (haux : dAuxLen d = 0) :
    hmacCmd alg false s fn d io
      = { st := t, out := (hashLane (cmdArgs (hmacOf alg d).2 false d key [] (auxOf d io) [] (inOf d io))).1 } := by
  refine (keyed_of_use (ok := decide (dOpnd d 0 ≤ 1) && decide (10 ≤ dTag d) && decide (dTag d ≤ (hmacOf alg d).1)
    && decide (dAuxLen d = 0)) ?_ heng huse).trans rfl
  simp [hopnd, htag, htag', haux]

/-- An HMAC verification in order says whether the code is that in AUX; the opcode of HMAC-SHA-256 has no reason (R365). -/
theorem hmacCmd_verify {alg : Nat} (heng : engDown s hashLanes = false)
    (huse : useKey s fn (dKey d) 5 (· = alg) = .inr (h, key, t)) (hopnd : dOpnd d 0 ≤ 1) (htag : 10 ≤ dTag d)
    (htag' : dTag d ≤ (hmacOf alg d).1) (haux : dAuxLen d = dTag d) :
    hmacCmd alg true s fn d io =
      let ok := (hashLane (cmdArgs (hmacOf alg d).2 true d key [] (auxOf d io) [] (inOf d io))).2
      if alg = 3 then .checked t ok else .verified t (if ok then 0 else 1) := by
  refine (keyed_of_use (ok := decide (dOpnd d 0 ≤ 1) && decide (10 ≤ dTag d) && decide (dTag d ≤ (hmacOf alg d).1)
    && decide (dAuxLen d = dTag d)) ?_ heng huse).trans rfl
  rw [haux]
  simp [hopnd, htag, htag']

variable (heng : engDown s aesLanes = false)
include heng

/-- A GMAC command in order: the first TAGLEN bytes of the tag of its input, or whether AUX holds them (R370). -/
theorem gmacCmd_of_use {ver : Bool} (huse : useKey s fn (dKey d) (if ver then 5 else 4) algAes = .inr (h, key, t))
    (htag : gcmTagLen (dTag d) = true) (hlen : dLen d ≤ 2 ^ 30) (haux : dAuxLen d = if ver then 12 + dTag d else 12) :
    gmacCmd ver s fn d io =
      let o := aesLane (cmdArgs 4 ver d key ((auxOf d io).take 12) ((auxOf d io).drop 12) (inOf d io) []) []
      if ver then .checked t o.2 else { st := t, out := o.1 } := by
  refine (keyed_of_use ?_ heng huse).trans rfl
  rw [htag, decide_eq_true hlen, decide_eq_true haux]
  rfl

/-- A CMAC command in order: the first TAGLEN bytes of the code of its input, or whether AUX holds them (R370). -/
theorem cmacCmd_of_use {ver : Bool} (huse : useKey s fn (dKey d) (if ver then 5 else 4) algAes = .inr (h, key, t))
    (htag : 8 ≤ dTag d) (htag' : dTag d ≤ 16) (hlen : dLen d ≤ 2 ^ 30) (haux : dAuxLen d = if ver then dTag d else 0) :
    cmacCmd ver s fn d io =
      let o := aesLane (cmdArgs 5 ver d key [] (auxOf d io) [] (inOf d io)) []
      if ver then .verified t (if o.2 then 0 else 1) else { st := t, out := o.1 } := by
  refine (keyed_of_use ?_ heng huse).trans rfl
  rw [decide_eq_true htag, decide_eq_true htag', decide_eq_true hlen, decide_eq_true haux]
  rfl
end

/-- Settles O32: a MAC command in order gives its code, or says whether AUX holds it. -/
theorem macCommands : Obligations.MacCommands := by
  unfold Obligations.MacCommands
  refine ⟨?_, ?_, ?_, ?_, ?_, ?_, ?_, ?_⟩
  · intro s fn r io x h key t hjob heng huse hopnd htag htag' haux
    exact exec_serves rfl hjob (hmacCmd_generate io heng huse hopnd htag htag' haux)
  · intro s fn r io x h key t hjob heng huse hopnd htag htag' haux
    refine exec_serves rfl hjob ((hmacCmd_verify io heng huse hopnd htag htag' haux).trans ?_)
    show Ans.checked t (hashLane (cmdArgs 5 true x.desc key [] (auxOf x.desc io) [] (inOf x.desc io))).2 = _
    rw [hashLane_hmac256Verify, auxOf_take io (Nat.le_of_eq haux)]
    rfl
  · intro s fn r io x h key t hjob heng huse hopnd htag htag' haux
    have hfunc : hmacOf 4 x.desc = if dOpnd x.desc 0 = 0 then (48, 6) else (64, 7) := rfl
    refine exec_serves rfl hjob ((hmacCmd_generate io heng huse hopnd htag ?_ haux).trans ?_)
    · rw [hfunc]
      split at htag' <;> simp [*]
    · rw [hfunc]
      split
      · rw [hashLane_hmac384]
      · rw [hashLane_hmac512]
  · intro s fn r io x h key t hjob heng huse hopnd htag htag' haux
    have hfunc : hmacOf 4 x.desc = if dOpnd x.desc 0 = 0 then (48, 6) else (64, 7) := rfl
    refine exec_serves rfl hjob ((hmacCmd_verify io heng huse hopnd htag ?_ haux).trans ?_)
    · rw [hfunc]
      split at htag' <;> simp [*]
    · rw [hfunc]
      simp only [Nat.reduceEqDiff, if_false]
      split
      · rw [hashLane_hmac384Verify, auxOf_take io (Nat.le_of_eq haux), verified_of_check]
      · rw [hashLane_hmac512Verify, auxOf_take io (Nat.le_of_eq haux), verified_of_check]
  · intro s fn r io x h key t hjob heng huse htag hlen haux
    refine exec_serves rfl hjob ((gmacCmd_of_use (ver := false) io heng huse htag hlen haux).trans ?_)
    simp only [Bool.false_eq_true, if_false, aesLane_gmac, auxOf_take io (Nat.le_of_eq haux)]
  · intro s fn r io x h key t hjob heng huse htag hlen haux
    refine exec_serves rfl hjob ((gmacCmd_of_use (ver := true) io heng huse htag hlen haux).trans ?_)
    simp only [if_true, aesLane_gmacVerify, List.take_take, Nat.min_self, auxOf_drop_take io haux]
    rfl
  · intro s fn r io x h key t hjob heng huse htag htag' hlen haux
    exact exec_serves rfl hjob ((cmacCmd_of_use (ver := false) io heng huse htag htag' hlen haux).trans rfl)
  · intro s fn r io x h key t hjob heng huse htag htag' hlen haux
    refine exec_serves rfl hjob ((cmacCmd_of_use (ver := true) io heng huse htag htag' hlen haux).trans ?_)
    simp only [if_true, aesLane_cmacVerify, auxOf_take io (Nat.le_of_eq haux), verified_of_check]

end Sys2Proof.Machine
end

section
/-! How a command is refused and answered, and the asymmetric and random families (15_command_set.md R365, R366, R371 to
R373; 09_key_vault.md R219, R226). -/
namespace Sys2Proof.Machine

set_option Elab.async false

/-! ### Refusals and answers -/

/-- A handle that names a slot is used when the slot is the owner's, serves in usage and algorithm and serves now (R219,
R226, R232). -/
theorem useKey_of_resolve {s : State} {owner usage n : Nat} {h : Word} {alg : Nat → Bool} {y : Slot}
    (hresolve : resolve s h = some (n, y)) :
    useKey s owner h usage alg =
      if y.owner ≠ owner then .inl (0x10, s)
      else if y.usage ≠ usage % 8 || !alg y.alg then .inl (0x10, s)
      else if !servesNow s y (accepting usage) then .inl (0x12, s)
      else match slotUse s n y with
        | .inl e => .inl e
        | .inr (m, s') => .inr (y, m, s') := by
  simp only [useKey, hresolve] <;> rfl

/-- A slot whose material is cached is used through its entry, which becomes the last used one (R234). -/
theorem slotUse_of_cached {s : State} {n : Nat} {e : CacheEnt} (y : Slot) (hcache : cacheOf s n = some e) :
    slotUse s n y = .inr (e.mat, s.setVlt { s.vlt with cache := s.vlt.cache.filter (·.slot ≠ n) ++ [e] }) := by
  simp [slotUse, cacheLoad, hcache]

/-- The descriptor that a command row finds is a taken one of its ring with its opcode, which does not wait (R363). -/
theorem jobOf_eq_some {s : State} {fn r op : Nat} {x : Staged} (h : jobOf s fn r op = some x) :
    (getRing s (ringKey fn r)).cls ≠ 0 ∧ x ∈ (getRing s (ringKey fn r)).running ∧ dOp x.desc = op
      ∧ isWaiting s (ringKey fn r) x.slot = false ∧ s.tmp.trig = none := by
  simp only [jobOf] at h
  split at h
  · exact absurd h (by simp)
  · rename_i hserved
    split at h
    · rename_i y hfind
      split at h
      · exact absurd h (by simp)
      · obtain rfl : y = x := Option.some.inj h
        have hy := List.find?_some hfind
        simp only [Bool.and_eq_true, decide_eq_true_eq, Bool.not_eq_true'] at hy
        simp only [Bool.or_eq_true, decide_eq_true_eq, not_or, Bool.not_eq_true, Option.isSome_eq_false_iff,
          Option.isNone_iff_eq_none] at hserved
        exact ⟨hserved.1.1.1.1, List.mem_of_find?_eq_some hfind, hy.1, hy.2, hserved.1.1.1.2⟩
    · exact absurd h (by simp)

section
variable {k : Nat} {x : Staged} {a : Ans} (hwait : a.wait = none)
include hwait

/-- An answer without a wait forms its completion, after the output where there is one to give (R349, R365). -/
theorem conclude_of_no_wait :
    conclude k x a = a.after (endRunning (if a.status ≠ 0 || a.out.isEmpty || x.muted then a.st
      else emitOut a.st (.data (BitVec.ofNat 64 (dOut x.desc)) a.out)) k x (cplAns x a)) := by
  simp only [conclude, hwait]
end

/-- Settles O33: the checks decide in their order, and an answer gives its output before its completion. -/
theorem refusalsAndAnswers : Obligations.RefusalsAndAnswers := by
  unfold Obligations.RefusalsAndAnswers
  refine ⟨?_, ?_, ?_, ?_, ?_, ?_, ?_, ?_, ?_, ?_, ?_, ?_, ?_⟩
  · intro s fn usage d engs alg f
    rfl
  · intro s fn usage d engs alg f heng
    simp [keyed, heng, Ans.aborted]
  · intro s fn usage k d engs alg f t heng huse
    exact keyed_of_refused rfl heng huse
  · intro s owner usage h alg hresolve
    simp [useKey, hresolve]
  · intro s owner usage n h alg y hresolve hother
    rw [useKey_of_resolve hresolve]
    split
    · rfl
    · rename_i howner
      rw [if_pos]
      obtain h | h | h := hother
      · exact absurd h howner
      · simp [h]
      · simp [h]
  · intro s owner usage n h alg y hresolve howner husage halg hserves
    simp [useKey_of_resolve hresolve, howner, husage, halg, hserves]
  · intro s owner usage n h alg y e hresolve howner husage halg hserves hcache
    simp [useKey_of_resolve hresolve, howner, husage, halg, hserves, slotUse_of_cached y hcache]
  · intro s fn r op f hjob
    simp [serveCmd, hjob]
  · intro s fn r op x hjob
    exact jobOf_eq_some hjob
  · intro k x a hwait hnone
    rw [conclude_of_no_wait hwait, if_pos]
    obtain h | h | h := hnone <;> simp [h]
  · intro k x a hwait hstatus hout hmuted
    rw [conclude_of_no_wait hwait, if_neg]
    simp [hstatus, hout, hmuted]
  · intro k x a t hwait
    simp only [conclude, hwait]
  · intro x a
    exact ⟨rfl, rfl, rfl, rfl, rfl, rfl, rfl⟩

/-! ### Signatures -/

section
variable {s t : State} {fn : Nat} {d : Bytes} {h : Slot} {key : Bytes} (io : CmdIo)

/-- An engine of a list none of which is gated is there. -/
theorem engDown_of_not_engLacks {l : List Nat} (hl : l ≠ []) (h : engLacks s l = false) : engDown s l = false := by
  rw [engLacks, List.any_eq_false] at h
  rw [engDown, ← Bool.not_eq_true, List.all_eq_true]
  intro hall
  obtain ⟨e, he⟩ := List.exists_mem_of_ne_nil l hl
  exact h e he (hall e he)

variable (heng : engLacks s pkeEngs = false)
include heng

/-- An ECDSA signature in order: its message's digest, a drawn nonce, and a check before its release (R372, R309). -/
theorem ecdsaSignCmd_of_use (huse : useKey s fn (dKey d) 6 (fun a => a = 5 || a = 6) = .inr (h, key, t))
    (hmode : dOpnd d 0 ≤ 1) :
    ecdsaSignCmd s fn d io = match ecMsg h.alg d io with
      | none => .bad t
      | some m => withRandom t fn d (scalarBytes h.alg) fun u b =>
        if ecdsaVerify (curveOf h.alg) (ecPub (curveOf h.alg) (beNat key))
            (ecdsaSignK (curveOf h.alg) (beNat key) (Config.nonceFrom h.alg b) m) m = 0
        then { st := u, out := ecdsaSignK (curveOf h.alg) (beNat key) (Config.nonceFrom h.alg b) m } else .aborted u := by
  rw [ecdsaSignCmd, if_neg (by simp [heng])]
  exact keyed_of_use (decide_eq_true hmode) (engDown_of_not_engLacks (by decide) heng) huse

theorem edSignCmd_of_use (huse : useKey s fn (dKey d) 6 (· = 7) = .inr (h, key, t)) (hlen : dLen d ≤ 65536) :
    edSignCmd s fn d io = if edVerify (edPub key) (edSign key (inOf d io)) (inOf d io) = 0
      then { st := t, out := edSign key (inOf d io) } else .aborted t := by
  rw [edSignCmd, if_neg (by simp [heng])]
  exact keyed_of_use (decide_eq_true hlen) (engDown_of_not_engLacks (by decide) heng) huse

theorem mlSignCmd_of_use (huse : useKey s fn (dKey d) 6 (· = 8) = .inr (h, key, t)) (haux : dAuxLen d = dOpnd d 3) :
    mlSignCmd s fn d io = withRandom t fn d 32 fun u rnd => match Config.mlDsaSign key (auxOf d io) (inOf d io) rnd with
      | none => .aborted u
      | some sig => if Config.mlDsaVerify (Config.mlDsaPub key) (auxOf d io) (inOf d io) sig
          then { st := u, out := slice sig 0 3309 } else .aborted u := by
  rw [mlSignCmd, if_neg (by simp [heng])]
  exact keyed_of_use (decide_eq_true haux) (engDown_of_not_engLacks (by decide) heng) huse
end

/-- HMODE 0 gives the digest of the message (R372). -/
theorem ecMsg_digest {alg : Nat} {d : Bytes} (io : CmdIo) (hmode : dOpnd d 0 = 0) :
    ecMsg alg d io = some (if alg = 5 then sha256 (inOf d io) else sha384 (inOf d io)) := by
  simp [ecMsg, hmode]

/-- HMODE 1 takes the input as the digest where it has its length (R372). -/
theorem ecMsg_given {alg : Nat} {d : Bytes} (io : CmdIo) (hmode : dOpnd d 0 = 1) :
    ecMsg alg d io = if dLen d = coordLen alg then some (inOf d io) else none := by
  simp [ecMsg, hmode]

/-- Random bytes that a command draws, or its wait (R323). -/
theorem withRandom_eq (s : State) (fn : Nat) (d : Bytes) (n : Nat) (f : State → Bytes → Ans) :
    withRandom s fn d n f = match rngDraw s (addOf fn (dOp d) (dReq d)) n (dPr d) with
      | .inr (b, u) => f u b
      | .inl w => .notReady s w := by
  simp only [withRandom]
  cases rngDraw s (addOf fn (dOp d) (dReq d)) n (dPr d) <;> rfl

/-- An ECDSA verification in order says what the signature check says (R365, R372). -/
theorem ecdsaVerifyCmd_of_msg {s : State} {fn : Nat} {d m : Bytes} (io : CmdIo) (heng : engDown s pkeEngs = false)
    (halg : dOpnd d 2 = 1 ∨ dOpnd d 2 = 2) (haux : dAuxLen d = 4 * coordLen (dOpnd d 2 + 4) + 1)
    (hm : ecMsg (dOpnd d 2 + 4) d io = some m) :
    ecdsaVerifyCmd s fn d io = .verified s (ecdsaVerify (curveOf (dOpnd d 2 + 4))
      ((auxOf d io).take (2 * coordLen (dOpnd d 2 + 4) + 1)) ((auxOf d io).drop (2 * coordLen (dOpnd d 2 + 4) + 1)) m) := by
  have hok : (!(decide (dOpnd d 2 = 1) || decide (dOpnd d 2 = 2)) || decide (dAuxLen d ≠ 4 * coordLen (dOpnd d 2 + 4) + 1))
      = false := by
    obtain h | h := halg <;> simp [haux, h]
  simp only [ecdsaVerifyCmd, hok, hm, heng]
  rfl

/-- Settles O34: a signature is checked before its release, and a verification says what it found. -/
theorem signAndVerifyCommands : Obligations.SignAndVerifyCommands := by
  unfold Obligations.SignAndVerifyCommands
  refine ⟨?_, ?_, ?_, ?_, ?_, ?_, ?_, ?_, ?_, ?_, ?_, ?_, ?_, ?_, ?_⟩
  · intro s fn r io x h key t hjob heng huse hmode
    refine exec_serves rfl hjob ((ecdsaSignCmd_of_use io heng huse (by omega)).trans ?_)
    rw [ecMsg_digest io hmode]
    exact withRandom_eq ..
  · intro s fn r io x h key t hjob heng huse hmode hlen
    refine exec_serves rfl hjob ((ecdsaSignCmd_of_use io heng huse (by omega)).trans ?_)
    rw [ecMsg_given io hmode, if_pos hlen]
    exact withRandom_eq ..
  · intro s fn r io x h key t hjob heng huse hmode hlen
    refine exec_serves rfl hjob ((ecdsaSignCmd_of_use io heng huse (by omega)).trans ?_)
    rw [ecMsg_given io hmode, if_neg hlen]
    rfl
  · intro s fn r io x h key t hjob heng huse hlen
    exact exec_serves rfl hjob (edSignCmd_of_use io heng huse hlen)
  · intro s fn r io x h key t hjob heng huse haux
    refine exec_serves rfl hjob ((mlSignCmd_of_use io heng huse haux).trans ((withRandom_eq ..).trans ?_))
    cases rngDraw t (addOf fn (dOp x.desc) (dReq x.desc)) 32 (dPr x.desc) with
    | inl w => rfl
    | inr p => cases h : Config.mlDsaSign key (auxOf x.desc io) (inOf x.desc io) p.1 <;> simp only [h] <;> rfl
  · intro s fn r io x hjob heng hmode halg haux
    refine exec_serves rfl hjob ((ecdsaVerifyCmd_of_msg io heng halg haux (ecMsg_digest io hmode)).trans ?_)
    have hdigest : (dOpnd x.desc 2 + 4 = 5) = (dOpnd x.desc 2 = 1) := by simp
    simp only [Ans.verified, hdigest]
  · intro s fn r io x hjob heng hmode halg hlen haux
    exact exec_serves rfl hjob
      (ecdsaVerifyCmd_of_msg io heng halg haux ((ecMsg_given io hmode).trans (if_pos hlen)))
  · intro s fn r io x hjob heng haux
    refine exec_serves rfl hjob ?_
    rw [edVerifyCmd, if_neg (by simp [haux]), if_neg (by simp [heng])]
    rfl
  · intro s fn r io x hjob haux
    refine exec_serves rfl hjob ?_
    rw [edVerifyCmd, if_pos haux]
    rfl
  · intro s fn r io x hjob heng haux
    refine exec_serves rfl hjob ?_
    rw [mlVerifyCmd, if_neg (by simp [haux]), if_neg (by simp [heng])]
    rfl
  · intro s fn r io x hjob heng haux hec
    refine exec_serves rfl hjob ?_
    rw [hybridCmd, if_neg (by simp [haux]), if_neg (by simp [heng])]
    simp only [if_pos hec, Ans.verified, decide_eq_false hec]
  · intro s fn r io x hjob heng haux
    refine exec_serves rfl hjob ?_
    rw [hybridCmd, if_neg (by simp [haux]), if_neg (by simp [heng])]
    rfl
  · intro s fn r io x hjob heng hmode
    refine exec_serves rfl hjob ?_
    rw [ecdsaSignCmd, if_pos (by rw [heng, decide_eq_true hmode]; rfl)]
    rfl
  · intro s fn r io x hjob heng hlen
    refine exec_serves rfl hjob ?_
    rw [edSignCmd, if_pos (by rw [heng, decide_eq_true hlen]; rfl)]
    rfl
  · intro s fn r io x hjob heng haux
    refine exec_serves rfl hjob ?_
    rw [mlSignCmd, if_pos (by rw [heng, decide_eq_true haux]; rfl)]
    rfl

/-! ### RSA, public keys and random bytes -/

/-- The digest that an RSA command signs or verifies (R372 HMODE). -/
theorem rsaMsg_eq {d : Bytes} (io : CmdIo) (hmode : dOpnd d 0 = 0 ∨ (dOpnd d 0 = 1 ∧ dLen d = 32)) :
    rsaMsg d io = some (if dOpnd d 0 = 0 then sha256 (inOf d io) else inOf d io) := by
  obtain h | ⟨h, hlen⟩ := hmode
  · simp [rsaMsg, h]
  · simp [rsaMsg, h, hlen]

/-- The object that an RSA command names, on an engine that is not gated (R309). -/
theorem withRsa_eq (s : State) (fn : Nat) (d : Bytes) (usage : Nat) (f : Nat → Bytes → Ans) :
    withRsa s fn d usage f = if dOpnd d 6 ≠ 1 then .stop s 0x11 else if engDown s pkeEngs = true then .stop s 0x21
      else match objOpen s fn (dOpndN d 4 2) (· = usage) (fun a => a = 10 || a = 11) with
        | .inr (h, m) => f (rsaLen (byteAt h 3)) m
        | .inl k => .stop s k := by
  simp only [withRsa, Ans.bad, Ans.aborted]
  cases objOpen s fn (dOpndN d 4 2) (· = usage) (fun a => a = 10 || a = 11) <;> rfl

/-- Why an RSA verification ends as it does (R365, R309). -/
def rsaWhy (k n e sg : Nat) (m : Bytes) : Nat :=
  let em := beBytes k (rsaPow n e sg)
  if rsaPubOk k n e = false then 2 else if n ≤ sg then 3
  else if em = pkcs1Pad k m ∨ (Config.rsaPss = true ∧ pssCheck k m em = true) then 0 else 1

/-- An RSA verification in order says why it ends as it does. -/
theorem rsaVerifyCmd_of_msg {s : State} {fn : Nat} {d m : Bytes} {k : Nat} (io : CmdIo) (heng : engDown s pkeEngs = false)
    (halg : dOpnd d 2 = 1 ∨ dOpnd d 2 = 2) (hk : k = if dOpnd d 2 = 1 then 256 else 512) (haux : dAuxLen d = 2 * k + 4)
    (hm : rsaMsg d io = some m) :
    rsaVerifyCmd s fn d io = .verified s (rsaWhy k (beNat ((auxOf d io).take k)) (beNat (slice (auxOf d io) k 4))
      (beNat ((auxOf d io).drop (k + 4))) m) := by
  have hok : (!(decide (dOpnd d 2 = 1) || decide (dOpnd d 2 = 2)) || decide (dAuxLen d ≠ 2 * k + 4)) = false := by
    obtain h | h := halg <;> simp [haux, h]
  simp only [rsaVerifyCmd, ← hk, hok, hm, heng, rsaWhy, Bool.false_eq_true, if_false]
  cases rsaPubOk k (beNat ((auxOf d io).take k)) (beNat (slice (auxOf d io) k 4)) with
  | false => rfl
  | true =>
    simp only [Bool.not_true, Bool.false_eq_true, if_false, Bool.true_eq_false]
    split
    · rfl
    · simp only [Bool.or_eq_true, Bool.and_eq_true, decide_eq_true_eq]

/-- The public part that a command gives of a key, or DENIED (R372). -/
theorem pubReadCmd_of_use {s t : State} {fn : Nat} {d : Bytes} {h : Slot} {key : Bytes} (io : CmdIo)
    (heng : engDown s pkeEngs = false)
    (huse : useKey s fn (dKey d) (if (resolve s (dKey d)).any (fun p => p.2.usage = 7) then 15 else 14)
      (fun a => 5 ≤ a && a ≤ 8) = .inr (h, key, t))
    (hkind : dOpnd d 6 = 0) (hobj : dOpndN d 4 2 = 0) :
    pubReadCmd s fn d io = match pubOf h.alg key with
      | some p => { st := t, out := p }
      | none => .stop t 0x10 := by
  have husage : (match resolve s (dKey d) with
      | some p => if p.2.usage = 7 then 15 else 14
      | none => 14) = if (resolve s (dKey d)).any (fun p => p.2.usage = 7) then 15 else 14 := by
    cases resolve s (dKey d) <;> simp
  rw [pubReadCmd, if_neg (by rw [hkind]; decide)]
  refine (keyed_of_use (by rw [hkind, hobj]; rfl) heng (husage ▸ huse)).trans ?_
  rfl

/-- Settles O35: each command ends with what its object, its key or the generator gives. -/
theorem rsaAndPublicCommands : Obligations.RsaAndPublicCommands := by
  unfold Obligations.RsaAndPublicCommands
  refine ⟨?_, ?_, ?_, ?_, ?_, ?_, ?_, ?_, ?_, ?_, ?_, ?_, ?_, ?_, ?_, ?_⟩
  · intro s fn r io x hjob hmode heng hpad hobj
    refine exec_serves rfl hjob ?_
    simp only [rsaSignCmd, rsaMsg_eq io hmode, hpad]
    rw [if_neg (by decide), withRsa_eq, if_neg (by simp [hobj]), if_neg (by simp [heng])]
    rfl
  · intro s fn r io x hjob hmode heng hpad hobj
    refine exec_serves rfl hjob ?_
    simp only [rsaSignCmd, rsaMsg_eq io hmode, hpad]
    rw [if_neg (by decide), withRsa_eq, if_neg (by simp [hobj]), if_neg (by simp [heng])]
    simp only [Nat.one_ne_zero, if_false, withRandom_eq] <;> rfl
  · intro s fn r io x hjob hmode heng halg haux
    exact exec_serves rfl hjob
      (rsaVerifyCmd_of_msg (k := 256) io heng (.inl halg) (by rw [halg]; rfl) haux (rsaMsg_eq io hmode))
  · intro s fn r io x hjob hmode heng halg haux
    exact exec_serves rfl hjob
      (rsaVerifyCmd_of_msg (k := 512) io heng (.inr halg) (by rw [halg]; rfl) haux (rsaMsg_eq io hmode))
  · intro s fn r io x hjob h1 h2
    refine exec_serves rfl hjob ?_
    simp only [rsaVerifyCmd, decide_eq_false h1, decide_eq_false h2]
    rfl
  · intro s fn r io x hjob haux hlen heng hobj
    refine exec_serves rfl hjob ?_
    have hok : (decide (255 < dAuxLen x.desc) || !(decide (dLen x.desc = 256) || decide (dLen x.desc = 512))) = false := by
      obtain h | h := hlen <;> simp [haux, h]
    simp only [rsaOaepCmd, hok]
    rw [if_neg Bool.false_ne_true, withRsa_eq, if_neg (by simp [hobj]), if_neg (by simp [heng])]
    rfl
  · intro s fn d f
    exact withRsa_eq ..
  · intro s fn r io x h key t hjob heng huse hagree hkind hobj
    exact exec_serves rfl hjob (pubReadCmd_of_use io heng (by rw [hagree]; exact huse) hkind hobj)
  · intro s fn r io x h key t hjob heng huse hagree hkind hobj
    exact exec_serves rfl hjob (pubReadCmd_of_use io heng (by rw [hagree]; exact huse) hkind hobj)
  · intro s fn r io x hjob heng hkind hkey
    refine exec_serves rfl hjob ?_
    rw [pubReadCmd, if_pos hkind, if_neg (by simp [hkey]), if_neg (by simp [heng])]
    cases objOpen s fn (dOpndN x.desc 4 2) (fun _ => true) (fun a => 5 ≤ a && a ≠ 9) <;> rfl
  · intro alg m halg
    rw [halg]
    rfl
  · intro alg m halg
    rw [halg]
    rfl
  · intro alg m halg
    rw [halg]
    rfl
  · intro alg m halg
    have h5 : ¬ (alg = 5 ∨ alg = 6) := by omega
    have h10 : ¬ (alg = 10 ∨ alg = 11) := by omega
    simp only [pubOf, Bool.or_eq_true, decide_eq_true_eq, if_neg h5, if_neg h10, if_neg (show ¬ alg = 7 by omega),
      if_neg (show ¬ alg = 8 by omega)]
  · intro s fn r io x hjob hpos hmax
    refine exec_serves rfl hjob ?_
    rw [randomCmd, if_neg (by simp [hmax, Nat.ne_of_gt hpos])]
    exact withRandom_eq ..
  · intro s fn r io x hjob h
    refine exec_serves rfl hjob ?_
    rw [randomCmd, if_pos (by simpa using h)]
    rfl

end Sys2Proof.Machine
end

section
/-! The checks before a new key is made, its way through the slot state machine, and the commands that make a key
(15 R374, R375, 09 R220, R229). -/
namespace Sys2Proof.Machine

set_option Elab.async false

/-! ### The slot a new key takes -/

theorem newKeyCheck_of_bad {s : State} {d : Bytes} (fn : Nat) (h : specOk d = false ∨ specAlg s (specOf d) = false) :
    newKeyCheck s fn d = .inl (.stop s 0x11) := by
  rw [newKeyCheck, if_pos (by obtain h | h := h <;> simp [h])]
  rfl

section
variable {s : State} {fn : Nat} {d : Bytes} (hok : specOk d = true) (halg : specAlg s (specOf d) = true)
include hok halg

theorem newKeyCheck_of_not_specPre (hpre : specPre s fn (specOf d) = false) :
    newKeyCheck s fn d = .inl (.precond s (specOf d).assoc) := by
  rw [newKeyCheck, if_neg (by simp [hok, halg]), if_pos (by simp [hpre])]

variable (hpre : specPre s fn (specOf d) = true)
include hpre

theorem newKeyCheck_of_no_quota
    (h : quotaOk s fn (dOpnd d 5 = 2) = false ∨ pinOk s fn (specPins s (specOf d)) = false) :
    newKeyCheck s fn d = .inl (.stop s 0x13) := by
  have hno : (!quotaOk s fn (decide ((specOf d).role = 2)) || !pinOk s fn (specPins s (specOf d))) = true := by
    obtain h | h := h
    · rw [show quotaOk s fn (decide ((specOf d).role = 2)) = false from h]; rfl
    · simp [h]
  rw [newKeyCheck, if_neg (by simp [hok, halg]), if_neg (by simp [hpre]), if_pos hno]

theorem newKeyCheck_of_free {n : Nat} (hquota : quotaOk s fn (dOpnd d 5 = 2) = true)
    (hpin : pinOk s fn (specPins s (specOf d)) = true) (hfree : freeFor s fn = some n) :
    newKeyCheck s fn d = .inr n := by
  have hyes : (!quotaOk s fn (decide ((specOf d).role = 2)) || !pinOk s fn (specPins s (specOf d))) = false := by
    rw [show quotaOk s fn (decide ((specOf d).role = 2)) = true from hquota, hpin]
    rfl
  rw [newKeyCheck, if_neg (by simp [hok, halg]), if_neg (by simp [hpre]), if_neg (by simp [hyes]), hfree]
end

/-- The slot that an owner is given is FREE and of its range (R215, R221). -/
theorem freeFor_some {s : State} {fn n : Nat} (h : freeFor s fn = some n) :
    (getSlot s n).state = 0 ∧ (if fn = 0 then 3 ≤ n ∧ n ≤ 31 else 32 ≤ n ∧ n ≤ 1023) := by
  rw [freeFor] at h
  have hmem := List.mem_of_find?_eq_some h
  have hslot := List.find?_some h
  simp only [Bool.and_eq_true, decide_eq_true_eq] at hslot
  refine ⟨hslot.1, ?_⟩
  split_ifs at hmem ⊢ <;>
  · obtain ⟨i, hi, rfl⟩ := List.mem_map.1 hmem
    have := List.mem_range.1 hi
    omega

/-! ### A key pending, and a key given up -/

theorem getSlot_putSlot_same (s : State) (n : Nat) (x : Slot) : getSlot (putSlot s n x) n = x := tget_tput_same ..

/-- The header that a new key's slot is given (R229): kind is the role of its operation. -/
def pendHdr (s : State) (owner usage alg assoc sn : Nat) (exp : Bool) (kind : Nat) : Slot :=
  { owner := owner, usage := usage, exp := exp, alg := alg, state := 2, root := s.vlt.root, assoc := assoc
    role := if kind = 1 then 1 else 0, sn := sn }

theorem getSlot_pendKey (s : State) (n owner usage alg assoc sn : Nat) (exp : Bool) (mat : Bytes) (op : KeyOp) :
    getSlot (pendKey s n owner usage alg assoc sn exp mat op) n
      = { pendHdr s owner usage alg assoc sn exp op.kind with
          body := sealBody s n (pendHdr s owner usage alg assoc sn exp op.kind) mat } := by
  refine Eq.trans (congrArg (tget freeSlot · n) ?_) (getSlot_putSlot_same s n _)
  simp only [pendKey]
  cases op.old with
  | none => rfl
  | some o => exact (apply_ite (fun t : State => t.vlt.slots) ..).trans (ite_self _)

theorem journalAssoc_vlt (s : State) (a : Nat) : (journalAssoc s a).vlt = s.vlt :=
  (sb_journalAssoc (sameBut_refl _ s) (partsIn_refl _)).vlt_eq

/-- A generated key stays PENDING in its slot; nothing is waited for. -/
theorem newKey_generated (s : State) (fn n : Nat) (d m : Bytes) :
    getSlot (newKey s fn d n m true).st n
        = { pendHdr s fn (specOf d).usage (specOf d).alg (specOf d).assoc
              (if (specOf d).role = 0 then 0 else snNext (specOf d).expSn) ((specOf d).kflags % 2 = 1) (specOf d).role with
            body := sealBody s n (pendHdr s fn (specOf d).usage (specOf d).alg (specOf d).assoc
              (if (specOf d).role = 0 then 0 else snNext (specOf d).expSn) ((specOf d).kflags % 2 = 1) (specOf d).role) m }
      ∧ (newKey s fn d n m true).wait = none ∧ (newKey s fn d n m true).status = 0 := by
  refine ⟨?_, rfl, rfl⟩
  refine Eq.trans ?_ (getSlot_pendKey s n fn (specOf d).usage (specOf d).alg (specOf d).assoc
    (if (specOf d).role = 0 then 0 else snNext (specOf d).expSn) ((specOf d).kflags % 2 = 1) m
    { slot := n, assoc := (specOf d).assoc, kind := (specOf d).role
      old := if (specOf d).role = 2 then (roleSlot s (specOf d).assoc 0).map (·.1) else none, armed := !true
      kcv := kcvOf (specOf d).alg m, deadline := if true then some (s.glb.tick + 4096) else none
      pinned := (specOf d).kflags / 4 % 2 = 1 })
  simp only [newKey, if_true, getSlot]
  split
  · split
    · rw [journalAssoc_vlt]
      rfl
    · rfl
  · rfl

theorem newKey_armed {d m : Bytes} (s : State) (fn n : Nat) (h : kcvOf (specOf d).alg m = (specOf d).kcv) :
    (newKey s fn d n m false).wait = some (.live n) := by
  simp [newKey, h]

theorem newKey_denied {d m : Bytes} (s : State) (fn n : Nat) (h : kcvOf (specOf d).alg m ≠ (specOf d).kcv) :
    (newKey s fn d n m false).wait = none ∧ (newKey s fn d n m false).status = 0x10 := by
  simp [newKey, h, Ans.denied, Ans.stop]

/-- A key given up is ZEROIZING, its body gone unless a fast-path operation holds it, and out of the cache (R229, R33). -/
theorem dropKey_shows {s : State} {n : Nat} (h : (getSlot s n).state ≠ 0) :
    (getSlot (dropKey s n) n).state = 3 ∧ (macHolds s n = false → (getSlot (dropKey s n) n).body = [])
      ∧ (dropKey s n).vlt.cache = s.vlt.cache.filter (·.slot ≠ n) := by
  have hslot : getSlot (dropKey s n) n
      = { getSlot s n with state := 3, body := if macHolds s n then (getSlot s n).body else [] } := by
    refine Eq.trans ?_ (getSlot_putSlot_same s n _)
    simp only [dropKey, zeroize, if_neg h]
    rfl
  refine ⟨by rw [hslot], fun hmac => by rw [hslot]; simp [hmac], ?_⟩
  simp only [dropKey, zeroize, if_neg h]
  rfl

/-- Settles O36: each check of a new key's specification in its order, and what its slot holds. -/
theorem keyChecks : Obligations.KeyChecks := by
  unfold Obligations.KeyChecks
  refine ⟨?_, ?_, ?_, ?_, ?_, ?_, ?_, ?_⟩
  · intro s fn d h
    exact newKeyCheck_of_bad fn h
  · intro s fn d hok halg hpre
    exact newKeyCheck_of_not_specPre hok halg hpre
  · intro s fn d hok halg hpre h
    exact newKeyCheck_of_no_quota hok halg hpre h
  · intro s fn n d hok halg hpre hquota hpin hfree
    exact ⟨newKeyCheck_of_free hok halg hpre hquota hpin hfree, freeFor_some hfree⟩
  · intro s fn n d m _
    exact newKey_generated s fn n d m
  · intro s fn n d m h
    exact newKey_armed s fn n h
  · intro s fn n d m h
    exact newKey_denied s fn n h
  · intro s n h
    exact dropKey_shows h

/-! ### The commands that make a key -/

theorem newKeyCheck_eq_inr {s : State} {fn n : Nat} {d : Bytes} (h : (newKeyCheck s fn d).getRight? = some n) :
    newKeyCheck s fn d = .inr n := Sum.getRight?_eq_some_iff.1 h

/-- What a keyed command answers, by what its handle finds. -/
theorem withKey_eq (s : State) (fn : Nat) (d : Bytes) (usage : Nat) (alg : Nat → Bool)
    (f : State → Slot → Bytes → Ans) :
    withKey s fn d usage alg f = match useKey s fn (dKey d) usage alg with
      | .inr (x, key, t) => f t x key
      | .inl (k, t) => .stop t k := by
  simp only [withKey]
  cases useKey s fn (dKey d) usage alg <;> rfl

/-- Settles O37: each command makes its key from the material that its source gives. -/
theorem keyMaking : Obligations.KeyMaking := by
  unfold Obligations.KeyMaking
  refine ⟨?_, ?_, ?_, ?_, ?_, ?_⟩
  · intro s fn r io x n hjob hok hkcv hslot haes hpke
    refine exec_serves rfl hjob ?_
    rw [keyGenerateCmd, if_neg (by simp [hkcv]), newKeyCheck_eq_inr hslot]
    simp only [haes, hpke, Bool.and_false, Bool.or_false, Bool.false_eq_true, if_false, withRandom_eq,
      Bool.or_eq_true, decide_eq_true_eq] <;> rfl
  · intro s fn r io x n hjob hok hlen hslot haes
    refine exec_serves rfl hjob ?_
    rw [keyImportCmd, if_neg (by simp [hlen]), newKeyCheck_eq_inr hslot]
    simp only [haes, Bool.false_eq_true, if_false, withKey_eq]
    obtain ⟨k, t⟩ | ⟨h, key, t⟩ := useKey s fn (dKey x.desc) 2 algAes
    · rfl
    · simp only
      cases kwpUnwrap key (inOf x.desc io) <;> rfl
  · intro s fn r io x n hjob haux hslot haes hkdf
    refine exec_serves rfl hjob ?_
    rw [keyDeriveCmd, if_neg (by omega), newKeyCheck_eq_inr hslot]
    simp only [haes, hkdf, Bool.or_false, Bool.false_eq_true, if_false, withKey_eq, length_auxOf] <;> rfl
  · intro s fn r io x n h key t hjob hslot hpke huse haux hlen
    refine exec_serves rfl hjob ?_
    rw [ecdhCmd, newKeyCheck_eq_inr hslot]
    refine (keyed_of_use (by simpa using haux) hpke huse).trans ?_
    rw [if_neg (by simp [hlen])]
    cases ecdhZ (curveOf h.alg) (beNat key) (auxOf x.desc io) <;> rfl
  · intro s fn r io x n hjob hslot hopen hrng haes
    refine exec_serves rfl hjob ?_
    rw [dbLoadCmd, newKeyCheck_eq_inr hslot]
    simp only [hopen, hrng, haes, Bool.not_true, Bool.false_eq_true, if_false, objId]
    cases objOpen s fn (dOpndN x.desc 12 2) (· = (specOf x.desc).usage) (· = (specOf x.desc).alg) with
    | inl k => rfl
    | inr p => simp only [Bool.and_eq_true, decide_eq_true_eq]; rfl
  · intro s fn r io x hjob hok halg hpre hkcv
    refine exec_serves rfl hjob ?_
    rw [keyGenerateCmd, if_neg (by simp [hkcv]), newKeyCheck_of_not_specPre hok halg hpre]

end Sys2Proof.Machine
end

section
/-! The commands on an association, on its seasons and on the key database (15 R375 to R377, R383, 16 R396). -/
namespace Sys2Proof.Machine

set_option Elab.async false

/-! ### The association that a command names -/

theorem withAssoc_of_none {s : State} {fn : Nat} {d : Bytes} (f : Nat → Assoc → Ans) (h : dOpndN d 0 2 < 4096)
    (hnone : getAssoc s (dOpndN d 0 2) = none) : withAssoc s fn d f = .stop s 0x12 := by
  rw [withAssoc, if_neg (by simp [assocOk, h]), hnone]
  rfl

theorem withAssoc_of_other {s : State} {fn : Nat} {d : Bytes} {y : Assoc} (f : Nat → Assoc → Ans)
    (h : dOpndN d 0 2 < 4096) (hy : getAssoc s (dOpndN d 0 2) = some y) (hown : y.owner ≠ fn) :
    withAssoc s fn d f = .stop s 0x10 := by
  rw [withAssoc, if_neg (by simp [assocOk, h]), hy]
  exact if_pos hown

/-- The owner's association reaches the command. -/
theorem withAssoc_of_own {s : State} {fn a : Nat} {d : Bytes} {y : Assoc} (f : Nat → Assoc → Ans)
    (ha : dOpndN d 0 2 = a) (hlt : a < 4096) (hy : getAssoc s a = some y) (hown : y.owner = fn) :
    withAssoc s fn d f = f a y := by
  subst ha
  rw [withAssoc, if_neg (by simp [assocOk, hlt]), hy]
  exact if_neg (not_not_intro hown)

/-- A generated key that can still be committed is armed when its KCV agrees, and given up otherwise (R378). -/
theorem keyCommitCmd_of_waiting {s : State} {fn a : Nat} {d : Bytes} {y : Assoc} {o : KeyOp} (io : CmdIo)
    (ha : dOpndN d 0 2 = a) (hlt : a < 4096) (hy : getAssoc s a = some y) (hown : y.owner = fn)
    (hop : s.vlt.keyOps.find? (fun o => o.assoc = a && !o.armed && (getSlot s o.slot).sn = dOpndN d 6 2) = some o)
    (htime : o.deadline.any (fun t => tickReached t s.glb.tick) = false) :
    keyCommitCmd s fn d io = if o.kcv ≠ leBytes 3 (dOpndN d 8 3) then .stop (dropKey s o.slot) 0x10 else
      { st := stageKey (s.setVlt { s.vlt with keyOps := s.vlt.keyOps.map fun (q : KeyOp) =>
          if q.slot = o.slot then { q with armed := true, deadline := none } else q }) o
        wait := some (.live o.slot) } := by
  have hlate : (match o.deadline with
      | some t => tickReached t s.glb.tick
      | none => false) = false := by
    cases hd : o.deadline <;> simp_all
  rw [keyCommitCmd, withAssoc_of_own _ ha hlt hy hown, hop]
  exact (if_neg fun h => Bool.false_ne_true (hlate.symm.trans h)).trans rfl

theorem stageKey_of_not_pinned {s : State} {o : KeyOp} (h : o.kind ≠ 2 ∨ assocPinned s o.assoc = false) :
    stageKey s o = s :=
  if_neg (by obtain h | h := h <;> simp [h])

/-- Settles O38: each command on the association that it names for its owner. -/
theorem keyCare : Obligations.KeyCare := by
  unfold Obligations.KeyCare
  refine ⟨?_, ?_, ?_, ?_, ?_, ?_, ?_, ?_, ?_, ?_, ?_, ?_⟩
  · intro s fn r io x a y hjob ha hlt hy hown hsome
    refine exec_serves rfl hjob ?_
    rw [keyZeroizeCmd, withAssoc_of_own _ ha hlt hy hown]
    simp only
  · intro s fn r io x a y hjob ha hlt hy hown hnone
    refine exec_serves rfl hjob ?_
    rw [keyZeroizeCmd, withAssoc_of_own _ ha hlt hy hown]
    simp only [hnone]
    rfl
  · intro s fn r io x a y hjob ha hlt hy hown hmode
    refine exec_serves rfl hjob ?_
    rw [assocSetCmd, if_neg (by obtain h | h := hmode <;> simp [h]), withAssoc_of_own _ ha hlt hy hown]
    rfl
  · intro s fn r io x a y o hjob ha hlt hy hown hop htime hkcv
    exact exec_serves rfl hjob
      ((keyCommitCmd_of_waiting io ha hlt hy hown hop htime).trans (if_neg (not_not_intro hkcv)))
  · intro s fn r io x a y o hjob ha hlt hy hown hop htime hkcv
    exact exec_serves rfl hjob ((keyCommitCmd_of_waiting io ha hlt hy hown hop htime).trans (if_pos hkcv))
  · intro s fn r io x a y hjob ha hlt hy hown hlive hpin hn
    refine exec_serves rfl hjob ?_
    rw [keyPinCmd, withAssoc_of_own _ ha hlt hy hown, if_neg (by simpa using hlive), if_neg (by simp [hpin])]
    exact if_neg hn
  · intro s fn r io x a y hjob ha hlt hy hown hlive hpin
    refine exec_serves rfl hjob ?_
    rw [keyPinCmd, withAssoc_of_own _ ha hlt hy hown, if_neg (by simpa using hlive), if_pos (by simp [hpin])]
  · intro s fn r io x a y hjob ha hlt hy hown
    exact exec_serves rfl hjob (withAssoc_of_own _ ha hlt hy hown)
  · intro s fn r io x a y hjob ha hlt hy hown
    exact exec_serves rfl hjob (withAssoc_of_own _ ha hlt hy hown)
  · intro s fn d f h hnone
    exact withAssoc_of_none f h hnone
  · intro s fn d f y h hy hown
    exact withAssoc_of_other f h hy hown
  · intro s o h
    exact stageKey_of_not_pinned h

/-! ### Schedules -/

/-- A schedule of the next key of an association that has none, by its ticks and the mirror mode (R383). -/
theorem seasonScheduleCmd_of_next {s : State} {fn a : Nat} {d : Bytes} {y : Assoc} (io : CmdIo)
    (ha : dOpndN d 0 2 = a) (hlt : a < 4096) (hy : getAssoc s a = some y) (hown : y.owner = fn)
    (hnext : (nextKey s a).any (fun p => p.2.1.sn = dOpndN d 6 2) = true) (hnone : seasonOf s a = none) :
    seasonScheduleCmd s fn d io = let t := wordOf (dOpndN d 12 4); let ov := dOpndN d 16 2
      if !tickFuture t s.glb.tick || !tickFuture (t - wordOf ov) s.glb.tick then
        .late s (s.glb.tick + 1 + wordOf ov)
      else if y.mirror then mirrorAsk s { assoc := a, sn := dOpndN d 6 2, x := t, ovlen := ov } 0x21
        (seasonMsg a (dOpndN d 6 2) ((nextKey s a).elim [] (·.2.2)) t ov)
      else { st := seasonSet s a t ov, result := t.setWidth 64 } := by
  rw [seasonScheduleCmd, withAssoc_of_own _ ha hlt hy hown]
  cases hk : nextKey s a with
  | none => simp [hk] at hnext
  | some p =>
    have hsn : p.2.1.sn = dOpndN d 6 2 := by simpa [hk] using hnext
    simp [hsn, hnone]

/-- A cancel of a schedule whose window has not opened, by the mirror mode. -/
theorem seasonCancelCmd_of_ahead {s : State} {fn a : Nat} {d : Bytes} {y : Assoc} {z : Season} (io : CmdIo)
    (ha : dOpndN d 0 2 = a) (hlt : a < 4096) (hy : getAssoc s a = some y) (hown : y.owner = fn)
    (hz : seasonOf s a = some z) (hopen : z.opened = false) (hroll : z.rolled = false)
    (hahead : tickReached (seasonOpenAt z) s.glb.tick = false) :
    seasonCancelCmd s fn d io = if y.mirror then
        mirrorAsk s { assoc := a, sn := (nextKey s a).elim 0xFFFF (·.2.1.sn), cancel := true } 0x23
          (leBytes 2 a ++ leBytes 2 ((nextKey s a).elim 0xFFFF (·.2.1.sn)))
      else { st := seasonDrop s a } := by
  rw [seasonCancelCmd, withAssoc_of_own _ ha hlt hy hown, hz]
  cases nextKey s a <;> simp [hopen, hroll, hahead]

theorem mirrorAsk_of_no_link {s : State} (p : Proposal) (typ : Nat) (pay : Bytes)
    (h : mirrorUp s = false ∨ (getPeer s 1 (twinNode s)).lost = true ∨ s.can1.alone = true) :
    mirrorAsk s p typ pay = .stop s 0x14 :=
  if_pos (by obtain h | h | h := h <;> simp [h])

/-- With a session open the twin is asked and the command waits for its answer. -/
theorem mirrorAsk_of_open {s : State} (p : Proposal) (typ : Nat) (pay : Bytes)
    (hopen : (getPeer s 1 (twinNode s)).isOpen = true)
    (h : ¬ (mirrorUp s = false ∨ (getPeer s 1 (twinNode s)).lost = true ∨ s.can1.alone = true)) :
    mirrorAsk s p typ pay
      = { st := mirrorQueue (s.setVoe { s.voe with proposals := s.voe.proposals ++ [p] })
            (fun q => q ++ [mirrorMsg typ pay]), wait := some (.mirror p.assoc) } := by
  have hlink : (!mirrorUp s || (getPeer s 1 (twinNode s)).lost || s.can1.alone) = false := by
    simp only [not_or, Bool.not_eq_false, Bool.not_eq_true] at h
    obtain ⟨hup, hlost, halone⟩ := h
    simp [hup, hlost, halone]
  simp only [mirrorAsk, hlink, hopen, Bool.not_true, Bool.false_and, Bool.false_eq_true, if_false]
  rfl

/-- Settles O39: schedules and cancels, by the ticks, the schedule there and the mirror mode. -/
theorem seasonCommands : Obligations.SeasonCommands := by
  unfold Obligations.SeasonCommands
  refine ⟨?_, ?_, ?_, ?_, ?_, ?_, ?_, ?_, ?_⟩
  · intro s fn r io x a y hjob ha hlt hy hown h
    refine exec_serves rfl hjob ?_
    rw [seasonScheduleCmd, withAssoc_of_own _ ha hlt hy hown]
    cases hk : nextKey s a with
    | none => rfl
    | some p =>
      have hset : (seasonOf s a).isSome = true := by simpa [hk] using h
      simp [hset, Ans.precond]
  · intro s fn r io x a y hjob ha hlt hy hown hnext hnone h
    refine exec_serves rfl hjob ((seasonScheduleCmd_of_next io ha hlt hy hown hnext hnone).trans ?_)
    exact if_pos (by obtain h | h := h <;> simp [h])
  · intro s fn r io x a y hjob ha hlt hy hown hnext hnone hend hstart hmirror
    refine exec_serves rfl hjob ((seasonScheduleCmd_of_next io ha hlt hy hown hnext hnone).trans ?_)
    simp [hend, hstart, hmirror]
  · intro s fn r io x a y hjob ha hlt hy hown hnext hnone hend hstart hmirror
    refine exec_serves rfl hjob ((seasonScheduleCmd_of_next io ha hlt hy hown hnext hnone).trans ?_)
    simp [hend, hstart, hmirror]
  · intro s fn r io x a y z hjob ha hlt hy hown hz hopen hroll hahead hmirror
    refine exec_serves rfl hjob ((seasonCancelCmd_of_ahead io ha hlt hy hown hz hopen hroll hahead).trans ?_)
    exact if_neg (by simp [hmirror])
  · intro s fn r io x a y z hjob ha hlt hy hown hz hopen hroll hahead hmirror
    refine exec_serves rfl hjob ((seasonCancelCmd_of_ahead io ha hlt hy hown hz hopen hroll hahead).trans ?_)
    exact if_pos hmirror
  · intro s fn r io x a y hjob ha hlt hy hown h
    refine exec_serves rfl hjob ?_
    rw [seasonCancelCmd, withAssoc_of_own _ ha hlt hy hown]
    cases hz : seasonOf s a with
    | none => rfl
    | some z => exact if_pos (by simpa [hz, or_iff_not_imp_left] using h)
  · intro s p typ pay h
    exact mirrorAsk_of_no_link p typ pay h
  · intro s p typ pay hopen
    split_ifs with h
    · exact mirrorAsk_of_no_link p typ pay h
    · exact mirrorAsk_of_open p typ pay hopen h

/-! ### The key database -/

/-- The checks of DB_IMPORT's operands (R375). -/
theorem dbImport_operands_ok {d : Bytes} (halg : dOpnd d 2 ≤ 11) (husage : dOpnd d 3 ≤ 7)
    (hpair : algUsage (dOpnd d 2) (dOpnd d 3) = true) (hexp : dOpnd d 4 ≤ 1)
    (hlen : dLen d = blobLen (algLen (dOpnd d 2))) :
    (decide (11 < dOpnd d 2) || decide (7 < dOpnd d 3) || !algUsage (dOpnd d 2) (dOpnd d 3) || decide (1 < dOpnd d 4)
      || decide (dLen d ≠ blobLen (algLen (dOpnd d 2)))) = false := by
  simp [halg, husage, hpair, hexp, hlen]

/-- The object that a command names, for its owner. -/
theorem withObj_eq (s : State) (fn : Nat) (d : Bytes) (f : Bytes → Ans) :
    withObj s fn d f = match dbFind s (dOpndN d 12 2) with
      | none => .stop s 0x12
      | some b => if byteAt b 2 ≠ fn then .stop s 0x10 else f b := rfl

/-- Settles O40: each database command, by what is stored under its OBJ_ID. -/
theorem databaseCommands : Obligations.DatabaseCommands := by
  unfold Obligations.DatabaseCommands
  refine ⟨?_, ?_, ?_, ?_, ?_⟩
  · intro s fn r io x h key t hjob halg husage hpair hexp hlen hopen hfree haes huse
    refine exec_serves rfl hjob ?_
    simp only [dbImportCmd, dbImport_operands_ok halg husage hpair hexp hlen, hopen, objId, hfree, haes, withKey_eq, huse,
      withRandom_eq]
    cases kwpUnwrap key (inOf x.desc io) with
    | none => rfl
    | some m =>
      by_cases hm : m.length ≠ algLen (dOpnd x.desc 2)
      · exact (if_pos hm).trans (if_pos hm).symm
      · refine (if_neg hm).trans (Eq.trans ?_ (if_neg hm).symm)
        cases rngDraw t (addOf fn (dOp x.desc) (dReq x.desc)) 12 (dPr x.desc) <;> rfl
  · intro s fn r io x hjob halg husage hpair hexp hlen h
    refine exec_serves rfl hjob ?_
    simp only [dbImportCmd, dbImport_operands_ok halg husage hpair hexp hlen]
    rw [if_neg Bool.false_ne_true, if_pos (by obtain h | h := h <;> simp [h, objId])]
    rfl
  · intro s fn r io x hjob hopen
    refine exec_serves rfl hjob ?_
    rw [dbDeleteCmd, if_neg (by simp [hopen])]
    exact withObj_eq ..
  · intro s fn r io x hjob hopen
    refine exec_serves rfl hjob ?_
    rw [dbDeleteCmd, if_pos (by simp [hopen])]
    rfl
  · intro s fn r io x hjob
    exact exec_serves rfl hjob (withObj_eq ..)

end Sys2Proof.Machine
end

section
/-! The custody family and the ceremonies under the two-key latch (15 R379, 10 R246 to R262). -/
namespace Sys2Proof.Machine

set_option Elab.async false

/-! ### The latch that a command needs -/

theorem latchFor_iff (s : State) (op : Nat) :
    latchFor s op = true ↔ (s.cus.latch.isSet = true ∧ s.cus.latch.op = op ∧ s.cus.latch.used = false) := by
  simp [latchFor, latchHolds, and_assoc]

theorem withLatch_of_not {s : State} {op : Nat} {same : Bool} (f : Ans) (h : latchFor s op = false ∨ same = false) :
    withLatch s op same f = .stop s 0x10 :=
  if_neg (by obtain h | h := h <;> simp [h])

theorem withLatch_of_set {s : State} {op : Nat} {same : Bool} (f : Ans) (h : latchFor s op = true) (hsame : same = true) :
    withLatch s op same f = f :=
  if_pos (by simp [h, hsame])

/-- Under the latch a command whose last comparison is the digest of its bytes goes on when they agree. -/
theorem withLatch_of_digest {s : State} {op : Nat} {same : Bool} {h a : Bytes} (f : Ans) (hset : latchFor s op = true)
    (hsame : same = true) : withLatch s op (same && h = a) f = if h ≠ a then .stop s 0x10 else f := by
  by_cases heq : h = a
  · rw [withLatch_of_set f hset (by simp [hsame, heq]), if_neg (not_not_intro heq)]
  · rw [withLatch_of_not f (.inr (by simp [heq])), if_pos heq]

/-! ### Requests -/

/-- A request whose operation is not allowed is refused with only its form entered (R246). -/
theorem custCommitRun_of_not_allowed {s u : State} (hu : custCancelAll s 4 0xA = u)
    (h : custOpAllowed u (reqOp u) = false) :
    custCommitRun s = (u.setCus { u.cus with form := commForm u (reqOp u) }, 0x10, 0) := by
  simp only [custCommitRun, hu]
  refine if_pos ?_
  have hkeep : custOpAllowed (onCus u fun c => { c with form := commForm u (reqOp u) }) (reqOp u)
      = custOpAllowed u (reqOp u) := rfl
  rw [hkeep, h]
  rfl

/-- A request of 64 bytes with an operation of the table enters the record and is committed. -/
theorem custodyRequestCmd_of_ok {s u : State} {d : Bytes} (fn : Nat) (io : CmdIo) (haux : dAuxLen d = 64)
    (hlo : 1 ≤ dOpnd d 0) (hhi : dOpnd d 0 ≤ 0x0D) (hu : custCancelAll s 4 0xA = u) :
    custodyRequestCmd s fn d io = let v := u.setCus { u.cus with
        req := leBytes 1 (dOpnd d 0) ++ List.replicate 47 0 ++ (auxOf d io).take 32 ++ (auxOf d io).drop 32
        candCfgk := if commForm u (dOpnd d 0) then (auxOf d io).drop 32 else u.cus.candCfgk }
      let w := custCommitRun v
      if w.2.1 = 0 then { st := w.1, wait := some .request } else if w.2.1 = 2 then .notReady w.1 w.2.2
      else .stop w.1 w.2.1 := by
  have hslice : slice (auxOf d io) 32 32 = (auxOf d io).drop 32 := by
    simp [slice, haux, List.take_of_length_le]
  have h0 : dOpnd d 0 ≠ 0 := by omega
  rw [custodyRequestCmd, if_neg (by simp [haux, h0, hhi])]
  simp only [hu, hslice]
  rfl

/-! ### Exports -/

/-- A handle of the owner that the record names is used as any firmware-class use does (R257). -/
theorem exportKey_of_resolve {s : State} {d : Bytes} {n : Nat} {y : Slot} (hobj : dOpnd d 1 = 0)
    (hres : resolve s (dKey d) = some (n, y)) (hown : y.owner = paramB s 0) (hserves : servesNow s y true = true) :
    exportKey s d = match slotUse s n y with
      | .inl e => .inl e
      | .inr (m, u) => .inr (y.owner, y.alg, y.usage, y.exp, m, u) := by
  rw [exportKey, if_pos hobj, hres]
  simp only
  rw [if_neg (not_not_intro hown), if_neg (by simp [hserves]), ← hown] <;> cases slotUse s n y <;> rfl

/-- Settles O41: requests, owners, exports and restores, each under the latch that its record names. -/
theorem custodyAndOwnerCommands : Obligations.CustodyAndOwnerCommands := by
  unfold Obligations.CustodyAndOwnerCommands
  refine ⟨?_, ?_, ?_, ?_, ?_, ?_, ?_, ?_, ?_, ?_, ?_, ?_, ?_, ?_, ?_⟩
  · intro s fn r io x hjob haux hlo hhi
    exact exec_serves rfl hjob (custodyRequestCmd_of_ok fn io haux hlo hhi rfl)
  · intro s fn r io x hjob h
    refine exec_serves rfl hjob ?_
    rw [custodyRequestCmd, if_pos (by obtain h | h | h := h <;> simp [h])]
    rfl
  · intro s h
    exact custCommitRun_of_not_allowed rfl h
  · intro s fn r io x hjob
    exact exec_serves rfl hjob rfl
  · intro s fn r io x hjob
    exact exec_serves rfl hjob rfl
  · intro s _
    exact custCancelAll_latch_isSet ..
  · intro s fn r io x hjob hlatch hlo hhi hparam hnew hepoch
    refine exec_serves rfl hjob ?_
    rw [ownerCreateCmd, if_neg (by simp [hhi, Nat.ne_of_gt hlo]), withLatch_of_set _ hlatch (by simp [hparam]),
      if_neg (by simp [hnew])]
    exact if_neg hepoch
  · intro s fn r io x hjob hlatch hlo hhi hparam hold
    refine exec_serves rfl hjob ?_
    rw [ownerCreateCmd, if_neg (by simp [hhi, Nat.ne_of_gt hlo]), withLatch_of_set _ hlatch (by simp [hparam])]
    exact if_pos hold
  · intro s fn r io x hjob hlatch hlo hhi hparam hold
    refine exec_serves rfl hjob ?_
    rw [ownerDeleteCmd, if_neg (by simp [hhi, Nat.ne_of_gt hlo]), withLatch_of_set _ hlatch (by simp [hparam])]
    exact if_neg (by simp [hold])
  · intro s fn r io x hjob hlatch hobj hid haux hparam hname
    refine exec_serves rfl hjob ?_
    rw [keyExportCmd, if_neg (by simp [hobj, hid, haux]),
      withLatch_of_digest _ hlatch (by simp [hobj, hparam, hname])]
    refine if_congr Iff.rfl rfl ?_
    cases exportKey s x.desc with
    | inl k => rfl
    | inr p =>
      obtain ⟨owner, alg, usage, exp, m, v⟩ := p
      simp only [withRandom_eq, Bool.not_eq_true', Option.isNone_iff_eq_none]
      refine if_congr Iff.rfl rfl (if_congr Iff.rfl rfl (if_congr Iff.rfl rfl ?_))
      rw [show scalarBytes 6 = 56 from rfl]
      cases rngDraw v (addOf fn (dOp x.desc) (dReq x.desc)) 56 (dPr x.desc) with
      | inl w => rfl
      | inr q =>
        simp only
        cases ecdhZ p384 (Config.scalarFrom 6 q.1) (auxOf x.desc io) <;> rfl
  · intro s fn r io x n hjob hlatch hok hlen hname howner hslot
    refine exec_serves rfl hjob ?_
    rw [keyRestoreCmd, if_neg (by simp [hok]; omega), withLatch_of_digest _ hlatch (by simp [hname, howner])]
    refine if_congr Iff.rfl rfl ?_
    simp only [newKeyCheck_eq_inr hslot, withKey_eq]
    cases useKey s (paramB s 0) (dKey x.desc) 7 (· = 6) with
    | inl k => rfl
    | inr p =>
      obtain ⟨y, key, t⟩ := p
      refine if_congr Iff.rfl rfl ?_
      cases ecdhZ p384 (beNat key) (slice (inOf x.desc io) 0x10 97) with
      | none => rfl
      | some z =>
        simp only
        cases kwpUnwrap (exportKek z (inOf x.desc io)) ((inOf x.desc io).drop 0x71) with
        | none => rfl
        | some m => exact if_congr (by simp [or_assoc]) rfl rfl
  · intro s op same f h
    exact withLatch_of_not f h
  · intro s op
    exact latchFor_iff s op
  · intro s d n y hobj hres hown hserves
    exact exportKey_of_resolve hobj hres hown hserves
  · intro s d hobj hres
    rw [exportKey, if_pos hobj, hres]

/-! ### Ceremonies that blow fuses -/

theorem blowReady_of_ready {s : State} (a : Ans) (hvpp : s.mode.vpp = .inRange) (hrng : rngReady s.rng = true) :
    blowReady s a = a := by
  rw [blowReady, if_neg (by simp [vppOk, hvpp]), if_neg (by simp [hrng])]

theorem blowReady_of_no_vpp {s : State} (a : Ans) (hvpp : s.mode.vpp ≠ .inRange) : blowReady s a = .stop s 0x21 :=
  if_pos (by simp [vppOk, hvpp])

theorem blowReady_of_no_random {s : State} (a : Ans) (hvpp : s.mode.vpp = .inRange) (hrng : rngReady s.rng = false) :
    blowReady s a = .notReady s (rngWait s (rngRemain s.rng)) := by
  rw [blowReady, if_neg (by simp [vppOk, hvpp]), if_pos (by simp [hrng])]

/-- Words blown by a command: the copy that fails ends it. -/
theorem blowOr_eq (s : State) (io : CmdIo) (l : List (Nat × Word)) (f : State → Ans) :
    blowOr s io l f = match blowRun s io.fail.toNat (blowCopies l) with
      | (u, none) => .stop u 0x21
      | (u, some _) => f u := by
  simp only [blowOr, blowPart]
  obtain ⟨u, _ | k⟩ := blowRun s io.fail.toNat (blowCopies l) <;> rfl

/-- Settles O42: each ceremony under its latch, what it blows and what it starts. -/
theorem custodyActions : Obligations.CustodyActions := by
  unfold Obligations.CustodyActions
  refine ⟨?_, ?_, ?_, ?_, ?_, ?_, ?_, ?_, ?_, ?_, ?_, ?_, ?_, ?_, ?_, ?_⟩
  · intro s fn r io x hjob hlatch
    exact exec_serves rfl hjob (withLatch_of_set _ hlatch rfl)
  · intro s fn r io x hjob hlatch hn hparam hdbg hmode hann
    refine exec_serves rfl hjob ?_
    rw [debugAuthCmd, if_neg (by obtain h | h := hn <;> simp [h]),
      withLatch_of_set _ hlatch (by simp [hparam, hdbg, hmode, hann])]
  · intro s fn r io x hjob hlatch hn h
    refine exec_serves rfl hjob ?_
    rw [debugAuthCmd, if_neg (by obtain h | h := hn <;> simp [h])]
    exact withLatch_of_not _ (.inr (by obtain h | h | h := h <;> simp [h]))
  · intro s fn r io x hjob hlatch hn hparam hfree hclash hvpp hrng
    refine exec_serves rfl hjob ?_
    rw [cusEnrolCmd, if_neg (by omega), withLatch_of_set _ hlatch (by simp [hparam])]
    simp only
    rw [if_neg (by rw [enrolClash, hclash, hfree]; decide), blowReady_of_ready _ hvpp hrng, blowOr_eq]
    rfl
  · intro s fn r io x hjob hlatch hn hclash
    refine exec_serves rfl hjob ?_
    rw [cusEnrolCmd, if_neg (by omega)]
    simp only [hclash, if_true]
    exact ite_self _
  · intro s fn r io x hjob hlatch hn hparam hleft hvpp hrng
    refine exec_serves rfl hjob ?_
    rw [cusRevokeCmd, if_neg (by omega), withLatch_of_set _ hlatch (by simp [hparam]),
      if_neg (by simp only [revokeShort, decide_eq_true_eq]; omega), blowReady_of_ready _ hvpp hrng, blowOr_eq] <;> rfl
  · intro s fn r io x hjob hlatch hn hshort
    refine exec_serves rfl hjob ?_
    rw [cusRevokeCmd, if_neg (by omega)]
    simp only [show revokeShort s (dOpnd x.desc 0) = true from decide_eq_true hshort, if_true]
    exact ite_self _
  · intro s fn r io x hjob hlatch hch hfns hparam
    refine exec_serves rfl hjob ?_
    rw [faultEnableCmd, if_neg (by omega), withLatch_of_set _ hlatch (by simp [hfns, hparam])]
  · intro s fn r io x hjob hlatch hmode hlock hform hvpp
    refine exec_serves rfl hjob ?_
    rw [recommissionCmd, withLatch_of_set _ hlatch (by simp [hmode, hlock])]
    simp only [hform, vppOk, hvpp, withRandom_eq, blowOr_eq]
    cases rngDraw s (addOf fn (dOp x.desc) (dReq x.desc)) 32 (dPr x.desc) <;> rfl
  · intro s fn r io x hjob hlatch hmode hlock hform hvpp
    refine exec_serves rfl hjob ?_
    rw [recommissionCmd, withLatch_of_set _ hlatch (by simp [hmode, hlock])]
    exact if_pos (by simp [hform, vppOk, hvpp])
  · intro s fn r io x hjob hlatch hmode hlock hform
    refine exec_serves rfl hjob ?_
    rw [recommissionCmd, withLatch_of_set _ hlatch (by simp [hmode, hlock])]
    simp only [hform, withRandom_eq]
    cases rngDraw s (addOf fn (dOp x.desc) (dReq x.desc)) 32 (dPr x.desc) <;> rfl
  · intro s fn r io x hjob hlatch hvpp hrng
    refine exec_serves rfl hjob ?_
    rw [retireCmd, withLatch_of_set _ hlatch rfl, blowReady_of_ready _ hvpp hrng]
  · intro s fn r io x hjob hlatch hvpp
    refine exec_serves rfl hjob ?_
    rw [retireCmd, withLatch_of_set _ hlatch rfl, blowReady_of_no_vpp _ hvpp]
  · intro s a hvpp
    rw [blowReady_of_no_vpp a hvpp]
    exact ⟨rfl, rfl⟩
  · intro s a hvpp hrng
    exact blowReady_of_no_random a hvpp hrng
  · intro s fn r io x hjob hlatch hlc hmode hvpp
    refine exec_serves rfl hjob ?_
    rw [commissionCmd, withLatch_of_set _ hlatch (by simp [hlc, hmode])]
    simp only [vppOk, hvpp, withRandom_eq, blowOr_eq]
    cases rngDraw s (addOf fn (dOp x.desc) (dReq x.desc)) 32 (dPr x.desc) <;> rfl

end Sys2Proof.Machine
end

section
/-! Staging and activation of images, the configuration image, tokens and fuse commands (19 R449 to R461, 06 R145, R156,
15 R381). -/
namespace Sys2Proof.Machine

set_option Elab.async false

/-! ### Staging and activation -/

theorem flashRead_congr {s t : State} (hflash : t.flash = s.flash) : flashRead t = flashRead s := by
  funext sel k n
  simp only [flashRead, hflash]

theorem recsValid_congr {s t : State} (hflash : t.flash = s.flash) : recsValid t = recsValid s := by
  funext dur
  simp only [recsValid, flashRead_congr hflash]

/-- The slot not in use is read from flash under the device unique root. -/
theorem freeSide_congr {s t : State} (hflash : t.flash = s.flash) (hfus : t.fus = s.fus) (kind : Nat) :
    freeSide t kind = freeSide s kind := by
  unfold freeSide
  rw [recsValid_congr hflash, hfus]

theorem freeSide_setUpd (s : State) (u : Upd) (kind : Nat) : freeSide (s.setUpd u) kind = freeSide s kind := by
  apply freeSide_congr
  · rfl
  · rfl

/-- A staging in SERVICE starts afresh and erases the slot not in use (R449). -/
theorem stageBeginCmd_of_service {s : State} {d : Bytes} (fn : Nat) (io : CmdIo) (hkind : dOpnd d 0 ≤ 1)
    (hlo : 145 ≤ dOpndN d 4 4) (hhi : dOpndN d 4 4 ≤ 0x100000) (htrial : s.upd.trial = false)
    (hmode : s.mode.mode = .service) :
    stageBeginCmd s fn d io = { st := slotErase (s.setUpd { s.upd with
      staging := some { kind := dOpnd d 0, total := dOpndN d 4 4 }, staged := [] }) (dOpnd d 0) (freeSide s (dOpnd d 0)) } := by
  rw [stageBeginCmd, if_neg (by simp [hkind, hlo, hhi]), if_neg (by simp [htrial, hmode])]
  simp only [hmode, reduceCtorEq, if_false]
  rw [if_neg (by simp [noFlash, hmode]), freeSide_setUpd]

/-- A chunk that reaches no further than the image's header is kept, less the bytes that are there already (R449). -/
theorem stageDataCmd_of_header {s : State} {d : Bytes} {g : Staging} (fn : Nat) (io : CmdIo) (hpos : 0 < dLen d)
    (hmax : dLen d ≤ 65536) (hg : s.upd.staging = some g) (hoff : dOpndN d 4 4 ≤ g.got.length)
    (htotal : dOpndN d 4 4 + dLen d ≤ g.total) (hhdr : g.got.length + dLen d ≤ 0xC0) :
    stageDataCmd s fn d io = { st := s.setUpd { s.upd with
      staging := some { g with got := g.got ++ (inOf d io).drop (g.got.length - dOpndN d 4 4) } } } := by
  rw [stageDataCmd, if_neg (by simp [hmax, Nat.ne_of_gt hpos]), hg]
  simp only
  rw [if_neg (by simp; omega), if_pos (by simp; omega)]

/-- The verification of an open staging, by its package, its image and its pair (R449). -/
theorem stageVerifyCmd_of_staging {s : State} {d : Bytes} {g : Staging} (fn : Nat) (io : CmdIo) (hkind : dOpnd d 0 ≤ 1)
    (hg : s.upd.staging = some g) (hsame : g.kind = dOpnd d 0) (hload : loaderDown s = false)
    (hlc : s.fus.lc ≠ .retired) :
    stageVerifyCmd s fn d io = match pkgOpen s (dOpnd d 0) g.got with
      | none => stageFail s 1
      | some b => if g.got.length ≠ g.total then stageFail s 1
        else if imgCheckAll s (dOpnd d 0) b ≠ 0 then stageFail s (imgCheckAll s (dOpnd d 0) b)
        else if stagePair s (dOpnd d 0) b ≠ 0 then stageFail s (stagePair s (dOpnd d 0) b)
        else if noFlash s = true then
          stageDone (s.setUpd { s.upd with
            staging := none
            staged := tput none s.upd.staged (dOpnd d 0) (some (imgOf (dOpnd d 0) (freeSide s (dOpnd d 0)) b)) }) b
        else if io.fail ≠ 0 then stageFail s 0xB
        else
          let u := slotWrite (freeBytes s 12).2 (freeBytes s 12).2.fus.dur (dOpnd d 0) (freeSide s (dOpnd d 0))
            (nextGen (freeBytes s 12).2 (dOpnd d 0)) (freeBytes s 12).1 b
          stageDone (u.setUpd { u.upd with
            staging := none
            staged := tput none u.upd.staged (dOpnd d 0) (some (imgOf (dOpnd d 0) (freeSide s (dOpnd d 0)) b)) }) b := by
  simp only [stageVerifyCmd, hg]
  rw [if_neg (by omega), if_neg (not_not_intro hsame), if_neg (by simp [hload]), if_neg hlc] <;>
    cases pkgOpen s (dOpnd d 0) g.got <;> rfl

section
variable {s : State} {i : Img} {k : Nat} {y : Word} (hmode : s.mode.mode = .service) (htrial : s.upd.trial = false)
  (hpend : s.upd.pending = none) (hpause : s.upd.paused = false) (hkind : k ≤ 1) (hann : annFree s = true)
include hmode htrial hpend hpause hkind hann

/-- An activation in SERVICE without a raise, of an image that is staged, by its lead and its pair (R451). -/
theorem activateService_of_staged (hi : stagedOf s k = some i) :
    activateService s k y false = if actLead s y = false then .late s (s.glb.tick + 4)
      else if stagePair s k i.hdr ≠ 0 then .stop s 0x30
      else { st := actAccept s k y false, result := y.setWidth 64 } := by
  have h2 : k ≠ 2 := by omega
  rw [activateService, if_neg (by simp [hmode, htrial, hpend, hpause]), if_neg (by simp [hi, hann]),
    if_neg (by simp [h2]), hi]
  simp only [Bool.not_eq_true', h2, ne_eq, not_false_eq_true, decide_true, Bool.true_and, decide_eq_true_eq,
    Bool.false_and, Bool.false_eq_true, if_false]
end

/-- Settles O43: each command of the update family, by what is staged and what is announced. -/
theorem updateCommands : Obligations.UpdateCommands := by
  unfold Obligations.UpdateCommands
  refine ⟨?_, ?_, ?_, ?_, ?_, ?_, ?_, ?_, ?_, ?_⟩
  · intro s fn r io x hjob hkind hlo hhi htrial hmode
    exact exec_serves rfl hjob (stageBeginCmd_of_service fn io hkind hlo hhi htrial hmode)
  · intro s fn r io x hjob hkind hlo hhi h
    refine exec_serves rfl hjob ?_
    rw [stageBeginCmd, if_neg (by simp [hkind, hlo, hhi]), if_pos (by obtain h | h := h <;> simp [h])]
    rfl
  · intro s fn r io x g hjob hpos hmax hg hoff htotal hhdr
    exact exec_serves rfl hjob (stageDataCmd_of_header fn io hpos hmax hg hoff htotal hhdr)
  · intro s fn r io x g hjob hpos hmax hg hoff
    refine exec_serves rfl hjob ?_
    rw [stageDataCmd, if_neg (by simp [hmax, Nat.ne_of_gt hpos]), hg]
    exact if_pos (by simp [hoff])
  · intro s fn r io x g hjob hkind hg hsame hload hlc
    exact exec_serves rfl hjob (stageVerifyCmd_of_staging fn io hkind hg hsame hload hlc)
  · intro s code
    simp [stageFail]
  · intro s fn r io x i hjob hkind hraise hmode htrial hpend hpause hi hann hlead hpair
    refine exec_serves rfl hjob ?_
    rw [activateCmd, if_neg (by simp [hraise]; omega), if_neg (by simp [hmode]), hraise]
    refine (activateService_of_staged hmode htrial hpend hpause hkind hann hi).trans ?_
    rw [if_neg (by simp [hlead]), if_neg (not_not_intro hpair), actAccept, if_neg (by omega)]
    rfl
  · intro s fn r io x hjob hkind hraise hmode htrial hpend hpause hi hann hlead
    refine exec_serves rfl hjob ?_
    obtain ⟨i, hi⟩ := Option.isSome_iff_exists.1 hi
    rw [activateCmd, if_neg (by simp [hraise]; omega), if_neg (by simp [hmode]), hraise]
    exact (activateService_of_staged hmode htrial hpend hpause hkind hann hi).trans (if_pos hlead)
  · intro s fn r io x hjob
    exact exec_serves rfl hjob rfl
  · intro s fn r io x hjob hlo hhi
    refine exec_serves rfl hjob ?_
    rw [configWriteCmd, if_neg (by simp [hlo, hhi]), length_inOf]
    exact if_congr (by simp [or_assoc]) rfl rfl

/-! ### Tokens and fuse commands -/

@[simp] theorem tokenUse_mode (s : State) (t : Bytes) : (tokenUse s t).mode = s.mode := by
  rw [tokenUse]; split <;> rfl

@[simp] theorem tokenUse_glb (s : State) (t : Bytes) : (tokenUse s t).glb = s.glb := by
  rw [tokenUse]; split <;> rfl

/-- A token lets its command go on when it verifies and the command's own condition holds; either way it is used up. -/
theorem withToken_eq (s : State) (typ : Nat) (t : Bytes) (ok : Bool) (f : State → Ans) :
    withToken s typ t ok f = if tokenOk s typ t = true ∧ ok = true then f (tokenUse s t) else .stop (tokenUse s t) 0x10 :=
  if_congr (by simp) rfl rfl

/-- The condition of TOKEN_APPLY besides the token (R381, 03 R71). -/
theorem tokenApplyCmd_eq {s : State} {d : Bytes} (fn : Nat) (io : CmdIo) (hlen : dLen d = 5586)
    (hdbg : s.fus.dbgdis = false)
    (hmode : s.mode.mode = .recovery ∨ s.mode.mode = .service ∧ annFree s = true) :
    tokenApplyCmd s fn d io = if tokenOk s 2 (inOf d io) = true
        ∧ (byteAt (inOf d io) 5 = 1 ∨ byteAt (inOf d io) 5 = 2) ∧ dbgCode s.mode.dbg ≤ byteAt (inOf d io) 5 then
        if s.mode.mode = .recovery then
          { st := toMode (debugOpen (tokenUse s (inOf d io)) (dbgOf (byteAt (inOf d io) 5))) .recovery 8 }
        else { st := debugAnnounce (tokenUse s (inOf d io)) (byteAt (inOf d io) 5)
               result := (s.glb.tick + 5).setWidth 64 }
      else .stop (tokenUse s (inOf d io)) 0x10 := by
  have hplace : (decide (s.mode.mode = .recovery) || (decide (s.mode.mode = .service) && annFree s)) = true := by
    obtain h | ⟨h, hann⟩ := hmode <;> simp [*]
  rw [tokenApplyCmd, if_neg (not_not_intro hlen), withToken_eq]
  refine if_congr ?_ ?_ rfl
  · simp [hdbg, hplace]
  · simp only [tokenUse_mode, tokenUse_glb]

/-- Settles O45: the tokens, and what each command of the family blows under its authority. -/
theorem tokenCommands : Obligations.TokenCommands := by
  unfold Obligations.TokenCommands
  refine ⟨?_, ?_, ?_, ?_, ?_, ?_, ?_, ?_, ?_⟩
  · intro s fn r io x hjob
    refine exec_serves rfl hjob ?_
    rw [tokenChallengeCmd, withRandom_eq]
    cases rngDraw s (addOf fn (dOp x.desc) (dReq x.desc)) 8 (dPr x.desc) <;> rfl
  · intro s fn r io x hjob hlen hlc hvpp hrng
    refine exec_serves rfl hjob ?_
    rw [provisionCmd, if_neg (not_not_intro hlen), if_neg (not_not_intro hlc), if_neg (by simp [vppOk, hvpp]),
      if_neg (by simp [hrng]), withToken_eq]
    generalize inOf x.desc io = t
    cases tokenOk s 1 t with
    | false => rfl
    | true =>
      rw [if_pos ⟨rfl, rfl⟩, if_neg (by simp), withRandom_eq]
      cases rngDraw (tokenUse s t) (addOf fn (dOp x.desc) (dReq x.desc)) 32 (dPr x.desc) with
      | inl w => rfl
      | inr p =>
        simp only [blowPart]
        obtain ⟨v, _ | k⟩ := blowRun p.2 io.fail.toNat (blowCopies (bytesWords 16 p.1
          ++ bytesWords 40 (slice t 0x20 32) ++ bytesWords 64 (slice t 0x40 32)))
        · rfl
        · simp only
          obtain ⟨w, _ | k⟩ := blowRun (if noFlash v = true then v else reencrypt v (keyBytes v 16 8)) k
            (blowCopies [(0, lcGroup 0)]) <;> rfl
  · intro s fn r io x hjob hlen hmode hdbg
    refine exec_serves rfl hjob ((tokenApplyCmd_eq fn io hlen hdbg (.inl hmode)).trans ?_)
    rw [if_pos hmode]
  · intro s fn r io x hjob hlen hmode hdbg hann
    refine exec_serves rfl hjob ((tokenApplyCmd_eq fn io hlen hdbg (.inr ⟨hmode, hann⟩)).trans ?_)
    rw [if_neg (by simp [hmode] : ¬ s.mode.mode = .recovery)]
  · intro s fn r io x hjob hlen hlc hvpp
    refine exec_serves rfl hjob ?_
    rw [factoryFuseCmd, if_neg (not_not_intro hlen), if_neg (not_not_intro hlc), if_neg (by simp [vppOk, hvpp]),
      withToken_eq, blowOr_eq] <;> rfl
  · intro s fn r io x hjob hlen hlc
    refine exec_serves rfl hjob ?_
    rw [factoryFuseCmd, if_neg (not_not_intro hlen), if_pos hlc]
    rfl
  · intro s fn r io x hjob haux hlc hlo hhi hvpp hallow
    refine exec_serves rfl hjob ?_
    have hearly : (decide (s.fus.lc = .blank) || decide (s.fus.lc = .provisioned)) = true := by
      obtain h | h := hlc <;> simp [h]
    rw [fuseProgramCmd, if_neg (by simp [haux])]
    simp only [hearly]
    rw [if_pos (by simp [hlo, hhi]), if_neg (by simp [haux]), if_neg (by simp [hallow]),
      if_neg (by simp [vppOk, hvpp]), blowOr_eq] <;> rfl
  · intro s fn r io x hjob haux hlc h6 hallow hvpp
    refine exec_serves rfl hjob ?_
    have hearly : (decide (s.fus.lc = .blank) || decide (s.fus.lc = .provisioned)) = true := by
      obtain h | h := hlc <;> simp [h]
    rw [fuseProgramCmd, if_neg (by simp [haux])]
    simp only [hearly, h6]
    rw [if_neg (by simp), if_pos (by simp), if_neg (by simp [haux, hallow]), if_neg (by simp [vppOk, hvpp]),
      withToken_eq, blowOr_eq]
    exact if_congr (by simp) rfl rfl
  · intro s fn r io x hjob haux hlc ha hlatch hrec hallow hvpp hrng
    refine exec_serves rfl hjob ?_
    have hlate : (decide (s.fus.lc = .blank) || decide (s.fus.lc = .provisioned)) = false := by simp [hlc]
    rw [fuseProgramCmd, if_neg (by simp [haux])]
    simp only [hlate, Bool.false_and]
    rw [if_neg (by simp), if_neg (by simp), if_pos (by obtain h | h := ha <;> simp [hlc, h]), if_neg (by simp [haux]),
      withLatch_of_set _ hlatch (Bool.and_eq_true_iff.2 ⟨hrec, hallow⟩), blowReady_of_ready _ hvpp hrng, blowOr_eq] <;> rfl

end Sys2Proof.Machine
end

section
/-! The recorder, self-test, mode and clock commands (15 R382, 03 M6, M10, 05 R123, 02 R53). -/
namespace Sys2Proof.Machine

set_option Elab.async false

theorem pllSetCmd_of_lead {s : State} {d : Bytes} (fn : Nat) (io : CmdIo) (hpll : dOpnd d 0 ≤ 1)
    (hlead : leadOk s (wordOf (dOpndN d 16 4)) = true)
    (hok : relockOk (pllShadows s d) (if dOpnd d 0 = 0 then .a else .b) (wordOf (dOpndN d 16 4)) = true) :
    pllSetCmd s fn d io = { st := relockAccept (pllShadows s d) (if dOpnd d 0 = 0 then .a else .b) (wordOf (dOpndN d 16 4))
                            result := (wordOf (dOpndN d 16 4)).setWidth 64 } := by
  rw [pllSetCmd, if_neg (by omega), if_neg (by simp [hlead]), if_neg (by simp [hok])]

/-- The groups that BEACON_SET names, one bit each (02 R53). -/
theorem beaconSetCmd_of_all {s : State} {d : Bytes} (fn : Nat) (io : CmdIo) (haux : dAuxLen d = 32) (hall : dOpnd d 0 = 7) :
    beaconSetCmd s fn d io = let bud := (List.range 3).map fun k => budWord (valW (auxOf d io) k)
      let caps := (List.range 4).flatMap fun k => capWord (valW (auxOf d io) (3 + k))
      { st := s.setGlb { s.glb with
          budSh := bud, budCommit := some bud, capsSh := caps, capsCommit := some caps
          maxwaitSh := leAt (auxOf d io) 28 4 % 16 }
        wait := some .beacon } := by
  rw [beaconSetCmd, if_neg (by simp [haux, hall]), hall]
  rfl

/-- Settles O46: each command of the recorder, diagnostics and mode-control family. -/
theorem adminCommands : Obligations.AdminCommands := by
  unfold Obligations.AdminCommands
  refine ⟨?_, ?_, ?_, ?_, ?_, ?_, ?_, ?_, ?_, ?_, ?_⟩
  · intro s fn r io x hjob hchan hlo hhi
    exact exec_serves rfl hjob (if_neg (by simp [hchan, hhi, Nat.ne_of_gt hlo]))
  · intro s fn r io x hjob haux
    refine exec_serves rfl hjob ?_
    rw [recMarkCmd, if_neg (not_not_intro haux)]
    rfl
  · intro s fn r io x hjob
    exact exec_serves rfl hjob rfl
  · intro s fn r io x hjob hen hann hmode
    exact exec_serves rfl hjob (if_neg (by simp [hen, hann, hmode]))
  · intro s fn r io x hjob h
    exact exec_serves rfl hjob (if_pos (by obtain h | h | h := h <;> simp [h]))
  · intro s fn r io x hjob hmode
    exact exec_serves rfl hjob (if_neg (by obtain h | h := hmode <;> simp [h]))
  · intro s fn r io x hjob hpll hlead hok
    exact exec_serves rfl hjob (pllSetCmd_of_lead fn io hpll hlead hok)
  · intro s fn r io x hjob hpll hlead
    refine exec_serves rfl hjob ?_
    rw [pllSetCmd, if_neg (by omega), if_pos (by simp [hlead])]
    rfl
  · intro s fn r io x hjob haux hall
    exact exec_serves rfl hjob (beaconSetCmd_of_all fn io haux hall)
  · intro s fn r io x hjob haux hnone
    refine exec_serves rfl hjob ?_
    rw [beaconSetCmd, if_neg (by simp [haux, hnone]), hnone]
    rfl
  · intro s fn r io x hjob
    exact exec_serves rfl hjob rfl

end Sys2Proof.Machine
end

section
/-! World and enclave crossings, core control registers, exceptions, interrupts and the debugger (07 R161 to R197). -/
namespace Sys2Proof.Machine

set_option Elab.async false

/-! ### What the operations on a core leave -/

@[simp] theorem getCore_onCore_same (s : State) (c : Nat) (f : Core → Core) : getCore (onCore s c f) c = f (getCore s c) :=
  getCore_setCore_same ..

/-- Entering a context only touches the predictor and buffer state. -/
theorem enterCtx_eq (x : Core) : enterCtx x = { x with tagged := (enterCtx x).tagged } := by
  unfold enterCtx
  split <;> rfl

/-- A halt that was held back only touches the halt flags. -/
theorem haltDue_eq (x : Core) : haltDue x = { x with halted := (haltDue x).halted, haltReq := (haltDue x).haltReq } := by
  unfold haltDue
  split <;> rfl

/-- What a core's events count, only its counters keep. -/
theorem getCore_pmcEvent (s : State) (c code : Nat) : ∃ p, getCore (pmcEvent s c code) c = { getCore s c with pmc := p } := by
  have hfold : ∀ (l : List Nat) (x : Core), ∃ p, l.foldl (fun x k =>
      if pmcCode x k = code then { x with pmc := tput 0 x.pmc (2 + k) (tget 0 x.pmc (2 + k) + 1) } else x) x
        = { x with pmc := p } := by
    intro l
    induction l with
    | nil => exact fun x => ⟨x.pmc, rfl⟩
    | cons k l ih =>
      intro x
      rw [List.foldl_cons]
      split
      · obtain ⟨p, hp⟩ := ih { x with pmc := tput 0 x.pmc (2 + k) (tget 0 x.pmc (2 + k) + 1) }
        exact ⟨p, hp⟩
      · exact ih x
  rw [pmcEvent]
  split
  · obtain ⟨p, hp⟩ := hfold (List.range 4) (getCore s c)
    exact ⟨p, by rw [getCore_setCore_same, hp]⟩
  · exact ⟨_, rfl⟩

/-- What a core did while it counted enters its counters; the enclaves and the memory stay. -/
theorem pmcRun_shows (s : State) (c : Nat) : (∃ p, getCore (pmcRun s c) c = { getCore s c with pmc := p })
    ∧ getEncl (pmcRun s c) = getEncl s ∧ sramRead (pmcRun s c) = sramRead s := by
  unfold pmcRun
  split
  · exact ⟨⟨_, getCore_onCore_same ..⟩, rfl, rfl⟩
  · exact ⟨⟨_, rfl⟩, rfl, rfl⟩

@[simp] theorem getEncl_setEncl_same (s : State) (e : Nat) (d : Encl) : getEncl (setEncl s e d) e = d := tget_tput_same ..

theorem getEncl_setCore (s : State) (c : Nat) (x : Core) : getEncl (setCore s c x) = getEncl s := rfl

theorem getCore_setEncl (s : State) (e : Nat) (d : Encl) : getCore (setEncl s e d) = getCore s := rfl

theorem getEncl_onCore (s : State) (c : Nat) (f : Core → Core) : getEncl (onCore s c f) = getEncl s := rfl

/-- The pages of a destroyed enclave go; the cores stay as they are. -/
theorem getCore_enclGone (s : State) (e : Nat) : getCore (enclGone s e) = getCore s := by
  simp only [enclGone]
  split
  · rw [getCore_setEncl]
    refine foldl_keeps getCore ?_ s (getEncl s e).pages
    exact fun _ _ => rfl
  · rfl

theorem enclGone_of_standing {s : State} {e : Nat} (h : (getEncl s e).state ≠ 3) : enclGone s e = s :=
  if_neg (by simp [h])

/-! ### Instructions -/

/-- An instruction runs on a core that executes, in a partition that stands. -/
theorem exec_of_runs {i : Instr} {s : State} {c : Nat} {f : State → State} (hexec : exec i s = .next (instr s c f))
    (hr : coreRuns s c = true) (hp : partGone s c = false) : exec i s = .next (f s) := by
  rw [hexec, instr_of_runs hr hp]

/-- No instruction runs on a core that does not execute. -/
theorem instr_of_not_runs {s : State} {c : Nat} (f : State → State) (h : coreRuns s c = false) : instr s c f = s :=
  if_pos (by simp [h])

theorem exec_of_not_runs {i : Instr} {s : State} {c : Nat} {f : State → State} (hexec : exec i s = .next (instr s c f))
    (hr : coreRuns s c = false) : exec i s = .next s := by
  rw [hexec, instr_of_not_runs f hr]

/-! ### World crossings -/

theorem monEnter_shows (x : Core) (k : Nat) : (monEnter x k).level = .mon ∧ (monEnter x k).pc = x.mon.base
    ∧ (monEnter x k).mon.cause = BitVec.ofNat 64 k ∧ (monEnter x k).x = x.x ∧ (monEnter x k).wsave = x.wsave := by
  rw [monEnter, enterCtx_eq]
  exact ⟨rfl, rfl, rfl, rfl, rfl⟩

/-- The return of a call resumes after it with a0 and a1 (R168). -/
theorem wgateReturn_leads {s : State} {c : Fin 2} (hr : coreRuns s c = true) (hp : partGone s c = false)
    (hlevel : (getCore s c).level = .mon) (hasync : (getCore s c).wsave.async = false)
    (hok : returnOk (getCore s c).wsave.level (getCore s c).wsave.part = true) :
    leads (.wgateReturn c) s fun t => (getCore t c).level = (getCore s c).wsave.level
      ∧ (getCore t c).part = (getCore s c).wsave.part ∧ (getCore t c).pc = (getCore s c).wsave.pc + 4
      ∧ (getCore t c).x = (getCore s c).x.filter (fun p => p.1 = 10 || p.1 = 11) ∧ (getCore t c).resv = none := by
  refine leads_of_exec (t := onCore s c fun x => haltDue (enterCtx { scrub (leaveCtx x) with
      level := (getCore s c).wsave.level, part := (getCore s c).wsave.part, pc := (getCore s c).wsave.pc + 4
      wsave := { (getCore s c).wsave with call := false } })) ((exec_of_runs rfl hr hp).trans (congrArg _ ?_)) ?_
  · rw [if_neg (not_not_intro hlevel), if_neg (by simp [hasync, hok])]
  · rw [getCore_onCore_same, haltDue_eq, enterCtx_eq]
    exact ⟨rfl, rfl, rfl, rfl, rfl⟩

/-- TRET after an asynchronous entry restores the world exactly (R170). -/
theorem tret_leads_async {s : State} {c : Fin 2} (hr : coreRuns s c = true) (hp : partGone s c = false)
    (hlevel : (getCore s c).level = .mon) (hasync : (getCore s c).wsave.async = true)
    (hok : returnOk (getCore s c).wsave.level (getCore s c).wsave.part = true) :
    leads (.tret c) s fun t => (getCore t c).x = (getCore s c).wsave.x ∧ (getCore t c).pc = (getCore s c).wsave.pc
      ∧ (getCore t c).level = (getCore s c).wsave.level ∧ (getCore t c).part = (getCore s c).wsave.part := by
  refine leads_of_exec (t := onCore s c asyncReturn) ((exec_of_runs rfl hr hp).trans (congrArg _ ?_)) ?_
  · simp [hlevel, hasync, hok]
  · rw [getCore_onCore_same, asyncReturn, haltDue_eq, enterCtx_eq]
    exact ⟨rfl, rfl, rfl, rfl⟩

/-- TRET at Hypervisor or Supervisor level resumes where the trap left (R188). -/
theorem tret_leads_trap {s : State} {c : Fin 2} (hr : coreRuns s c = true) (hp : partGone s c = false)
    (hlevel : (getCore s c).level = .sup ∨ (getCore s c).level = .hyp)
    (hok : returnOk (trapRegs (getCore s c) (getCore s c).level).prev (getCore s c).part = true) :
    leads (.tret c) s fun t => (getCore t c).pc = (trapRegs (getCore s c) (getCore s c).level).pc
      ∧ (getCore t c).level = (trapRegs (getCore s c) (getCore s c).level).prev ∧ (getCore t c).x = (getCore s c).x := by
  refine leads_of_exec (t := onCore s c trapReturn) ((exec_of_runs rfl hr hp).trans (congrArg _ ?_)) ?_
  · obtain h | h := hlevel <;> · rw [h] at hok; simp [h, hok]
  · rw [getCore_onCore_same]
    exact ⟨rfl, rfl, rfl⟩

/-! ### Enclave crossings -/

section
variable {s : State} {c : Fin 2} {rs1 rs2 : Fin 32} (hr : coreRuns s c = true) (hp : partGone s c = false)
  (hlevel : (getCore s c).level = .user) (hpart : (getCore s c).part ≠ 0) (hout : (getCore s c).encl = none)
include hr hp hlevel hpart hout

/-- A refused entry answers its status and goes on. -/
theorem exec_eenter_of_refused {k : Nat}
    (hk : eenterStatus s (getCore s c) c (xReg (getCore s c) rs1).toNat (xReg (getCore s c) rs2).toNat = some k) :
    exec (.eenter c rs1 rs2) s = .next (onCore s c fun x => nextPc (xPut (xPut x 10 (BitVec.ofNat 64 k)) 11 0)) := by
  refine (exec_of_runs rfl hr hp).trans (congrArg _ ?_)
  rw [if_neg (by simp [hlevel, hpart, hout])]
  simp only [hk]

variable (hk : eenterStatus s (getCore s c) c (xReg (getCore s c) rs1).toNat (xReg (getCore s c) rs2).toNat = none)
include hk

/-- Entry 0 to 3 starts at its offset of the enclave (R182). -/
theorem eenter_leads_entry (h4 : (xReg (getCore s c) rs2).toNat ≠ 4) :
    leads (.eenter c rs1 rs2) s fun t =>
      (getCore t c).pc = (getEncl s (xReg (getCore s c) rs1).toNat).base
          + BitVec.ofNat 64 ((getEncl s (xReg (getCore s c) rs1).toNat).entries.getD (xReg (getCore s c) rs2).toNat 0)
      ∧ (getCore t c).encl = some (xReg (getCore s c) rs1).toNat ∧ (getCore t c).exitRet = (getCore s c).pc + 4
      ∧ (getCore t c).x = (getCore s c).x
      ∧ (getEncl t (xReg (getCore s c) rs1).toNat).inside
          = (getEncl s (xReg (getCore s c) rs1).toNat).inside.filter (· ≠ c.val) ++ [c.val] := by
  generalize hE : (xReg (getCore s c) rs1).toNat = E at hk ⊢
  generalize hK : (xReg (getCore s c) rs2).toNat = K at hk h4 ⊢
  obtain ⟨⟨p, hcore⟩, hencl, -⟩ := pmcRun_shows s c
  refine leads_of_exec (t := setCore (setEncl (pmcRun s c) E { getEncl s E with
      inside := (getEncl s E).inside.filter (· ≠ c.val) ++ [c.val] }) c
        (enterCtx { leaveCtx { getCore s c with pmc := p } with
          encl := some E, exitRet := (getCore s c).pc + 4
          pc := (getEncl s E).base + BitVec.ofNat 64 ((getEncl s E).entries.getD K 0) }))
    ((exec_of_runs rfl hr hp).trans (congrArg _ ?_)) ?_
  · rw [if_neg (by simp [hlevel, hpart, hout])]
    simp only [hE, hK, hk, hcore, hencl, if_neg h4]
  · rw [getCore_setCore_same, enterCtx_eq, getEncl_setCore, getEncl_setEncl_same]
    exact ⟨rfl, rfl, rfl, rfl, rfl⟩

/-- Entry 4 resumes what the core saved (R182). -/
theorem eenter_leads_resume (h4 : (xReg (getCore s c) rs2).toNat = 4) :
    leads (.eenter c rs1 rs2) s fun t =>
      (getCore t c).pc = BitVec.ofNat 64
          (leAt (sramRead s (ctlPage (getEncl s (xReg (getCore s c) rs1).toNat) + 0x100 * c) 256) 0 8)
      ∧ (getCore t c).encl = some (xReg (getCore s c) rs1).toNat
      ∧ (getCore t c).x = slotRegs (sramRead s (ctlPage (getEncl s (xReg (getCore s c) rs1).toNat) + 0x100 * c) 256)
      ∧ (getEncl t (xReg (getCore s c) rs1).toNat).saved
          = (getEncl s (xReg (getCore s c) rs1).toNat).saved.filter (· ≠ c.val) := by
  rw [h4] at hk
  generalize hE : (xReg (getCore s c) rs1).toNat = E at hk ⊢
  obtain ⟨⟨p, hcore⟩, hencl, hsram⟩ := pmcRun_shows s c
  generalize hb : sramRead s (ctlPage (getEncl s E) + 0x100 * c) 256 = b
  refine leads_of_exec (t := setCore (setEncl (pmcRun s c) E { getEncl s E with
      saved := (getEncl s E).saved.filter (· ≠ c.val)
      inside := (getEncl s E).inside.filter (· ≠ c.val) ++ [c.val] }) c
        (enterCtx { leaveCtx { getCore s c with pmc := p } with
          encl := some E, exitRet := (getCore s c).pc + 4, pc := BitVec.ofNat 64 (leAt b 0 8), x := slotRegs b }))
    ((exec_of_runs rfl hr hp).trans (congrArg _ ?_)) ?_
  · rw [if_neg (by simp [hlevel, hpart, hout])]
    simp only [hE, hk, h4, hcore, hencl, hsram, hb, if_true]
  · rw [getCore_setCore_same, enterCtx_eq, getEncl_setCore, getEncl_setEncl_same]
    exact ⟨rfl, rfl, rfl, rfl⟩
end

/-- EEXIT leaves the enclave for the exit return address with a0 and a1 (R183). -/
theorem exec_eexit_of_inside {s : State} {c : Fin 2} {e : Nat} (hr : coreRuns s c = true) (hp : partGone s c = false)
    (hlevel : (getCore s c).level = .user) (hin : (getCore s c).encl = some e) :
    exec (.eexit c) s = .next (enclGone (onCore (setEncl s e { getEncl s e with
      inside := (getEncl s e).inside.filter (· ≠ c.val) }) c fun x =>
        enterCtx { scrub (leaveCtx x) with encl := none, pc := x.exitRet }) e) := by
  refine (exec_of_runs rfl hr hp).trans (congrArg _ ?_)
  simp only [hlevel, hin]

/-- Settles O47: each crossing, where it is allowed and where it is an illegal instruction. -/
theorem worldAndEnclaveCrossings : Obligations.WorldAndEnclaveCrossings := by
  unfold Obligations.WorldAndEnclaveCrossings
  refine ⟨?_, ?_, ?_, ?_, ?_, ?_, ?_, ?_, ?_, ?_, ?_, ?_, ?_, ?_, ?_, ?_, ?_, ?_, ?_, ?_, ?_⟩
  · intro s c hr hp hlevel
    refine (exec_of_runs rfl hr hp).trans (congrArg _ ?_)
    obtain h | h := hlevel <;> simp only [h]
  · intro x k
    exact monEnter_shows x k
  · intro x a e
    exact ⟨rfl, rfl⟩
  · intro s c hr hp hlevel
    refine (exec_of_runs rfl hr hp).trans (congrArg _ ?_)
    simp only [hlevel]
    rfl
  · intro s c hr hp hlevel hasync hok
    exact wgateReturn_leads hr hp hlevel hasync hok
  · intro s c hr hp hlevel hasync
    refine (exec_of_runs rfl hr hp).trans (congrArg _ ?_)
    rw [if_neg (not_not_intro hlevel), if_pos (by simp [hasync])]
    rfl
  · intro s c hr hp hlevel hasync hok
    exact tret_leads_async hr hp hlevel hasync hok
  · intro s c hr hp hlevel hok
    exact tret_leads_trap hr hp hlevel hok
  · intro s c hr hp hlevel
    refine (exec_of_runs rfl hr hp).trans (congrArg _ ?_)
    simp only [hlevel]
    rfl
  · intro s c f hr
    exact instr_of_not_runs f hr
  · intro s c rs1 rs2 k hr hp hlevel hpart hout hk
    exact exec_eenter_of_refused hr hp hlevel hpart hout hk
  · intro s c rs1 rs2 hr hp hlevel hpart hout hk h4
    exact eenter_leads_entry hr hp hlevel hpart hout hk h4
  · intro s c rs1 rs2 hr hp hlevel hpart hout hk h4
    exact eenter_leads_resume hr hp hlevel hpart hout hk h4
  · intro s c rs1 rs2 hr hp h
    refine (exec_of_runs rfl hr hp).trans (congrArg _ ?_)
    rw [if_pos (by obtain h | h | h := h <;> simp [h])]
    rfl
  · intro s c e hr hp hlevel hin hstate
    refine leads_of_exec (exec_eexit_of_inside hr hp hlevel hin) ?_
    rw [enclGone_of_standing (by rw [getEncl_onCore, getEncl_setEncl_same]; exact hstate), getCore_onCore_same,
      enterCtx_eq, getEncl_onCore, getEncl_setEncl_same]
    exact ⟨rfl, rfl, rfl, rfl⟩
  · intro s c hr hp h
    refine (exec_of_runs rfl hr hp).trans (congrArg _ ?_)
    simp only
    split
    · obtain h | h := h <;> simp_all
    · rfl
  · intro s c hr hp hlevel
    refine (exec_of_runs rfl hr hp).trans (congrArg _ ?_)
    simp only [hlevel]
  · intro s c hr hp hlevel
    refine (exec_of_runs rfl hr hp).trans (congrArg _ ?_)
    rw [if_pos hlevel]
  · intro s c hr hp hlevel hasync
    refine (exec_of_runs rfl hr hp).trans (congrArg _ ?_)
    simp only [hlevel, hasync]
    rfl
  · intro s c rs1 rs2 hr
    exact ⟨exec_of_not_runs rfl hr, exec_of_not_runs rfl hr, exec_of_not_runs rfl hr, exec_of_not_runs rfl hr,
      exec_of_not_runs rfl hr⟩
  · intro s c e hr hp hlevel hin _
    refine leads_of_exec (exec_eexit_of_inside hr hp hlevel hin) ?_
    rw [getCore_enclGone, getCore_onCore_same, enterCtx_eq]
    exact ⟨rfl, rfl⟩

end Sys2Proof.Machine
end

section
/-! Core control registers, exceptions, interrupts, the debugger and the boundary scan (07 R163, R164, R187, R188, R197,
21 R472, R475). -/
namespace Sys2Proof.Machine

set_option Elab.async false

/-! ### Exceptions -/

theorem trapRegs_putTrap_same (x : Core) (l : Level) (t : TrapRegs) : trapRegs (putTrap x l t) l = t := by
  cases l <;> rfl

/-- A trap writes the registers of its level and starts at its TBASE; the general registers stay (R188). -/
theorem trapTo_shows (x : Core) (l : Level) (code : Nat) (info : DWord) :
    (trapTo x l code info).level = l ∧ (trapTo x l code info).pc = (trapRegs x l).base
      ∧ (trapRegs (trapTo x l code info) l).cause = BitVec.ofNat 64 code
      ∧ (trapRegs (trapTo x l code info) l).pc = x.pc ∧ (trapRegs (trapTo x l code info) l).info = info
      ∧ (trapTo x l code info).x = x.x := by
  cases l <;> exact ⟨rfl, rfl, rfl, rfl, rfl, rfl⟩

theorem trapRegs_enterCtx (x : Core) (l : Level) : trapRegs (enterCtx x) l = trapRegs x l := by
  rw [enterCtx_eq]
  cases l <;> rfl

/-- An exception outside an enclave is taken at its level. -/
theorem getCore_raise {s : State} {c : Nat} (code : Nat) (info : DWord) (hout : (getCore s c).encl = none) :
    getCore (raise s c code info) c = enterCtx (trapTo (getCore s c) (excLevel (getCore s c).level code false) code info) := by
  simp only [raise, hout]
  exact getCore_onCore_same ..

theorem raise_shows {s : State} {c : Nat} {l : Level} (code : Nat) (info : DWord) (hout : (getCore s c).encl = none)
    (hl : l = excLevel (getCore s c).level code false) :
    (getCore (raise s c code info) c).level = l ∧ (getCore (raise s c code info) c).pc = (trapRegs (getCore s c) l).base
      ∧ (trapRegs (getCore (raise s c code info) c) l).cause = BitVec.ofNat 64 code
      ∧ (trapRegs (getCore (raise s c code info) c) l).pc = (getCore s c).pc
      ∧ (trapRegs (getCore (raise s c code info) c) l).info = info
      ∧ (getCore (raise s c code info) c).x = (getCore s c).x := by
  rw [getCore_raise code info hout, trapRegs_enterCtx, ← hl, enterCtx_eq]
  exact trapTo_shows ..

/-! ### Interrupts -/

/-- Outside an enclave an interrupt counts and is taken. -/
theorem exec_interruptTaken_outside {s : State} {c : Fin 2} {k : Nat} {l : Level} (hr : coreRuns s c = true)
    (hirq : nextIrq (getCore s c) = some (l, k)) (hout : (getCore s c).encl = none) :
    exec (.interruptTaken c) s = .next (match (generalizing := false) l with
      | .mon => secureEntry (pmcEvent s c 7) c k false
      | l => normalEntry (pmcEvent s c 7) c k l) := by
  obtain ⟨p, hp⟩ := getCore_pmcEvent s c 7
  have hleave : leaveEncl (pmcEvent s c 7) c k = pmcEvent s c 7 := by
    rw [leaveEncl, hp]
    simp only [hout]
  show execInterruptTaken c s = _
  rw [execInterruptTaken, if_neg (by simp [hr]), hirq]
  simp only [hout, hleave]
  rfl

/-- Settles O48: each register access, exception, interrupt and debugger request. -/
theorem coreRegisters : Obligations.CoreRegisters := by
  unfold Obligations.CoreRegisters
  refine ⟨?_, ?_, ?_, ?_, ?_, ?_, ?_, ?_, ?_, ?_, ?_, ?_, ?_, ?_, ?_, ?_, ?_, ?_, ?_, ?_, ?_, ?_, ?_, ?_, ?_, ?_, ?_, ?_⟩
  · intro s c rd n v t hr hp hread
    refine (exec_of_runs rfl hr hp).trans (congrArg _ ?_)
    simp only [hread]
  · intro s c rd n hr hp hread
    refine (exec_of_runs rfl hr hp).trans (congrArg _ ?_)
    simp only [hread]
    rfl
  · intro s c n rs1 t hr hp hwrite
    refine (exec_of_runs rfl hr hp).trans (congrArg _ ?_)
    simp only [hwrite]
  · intro s c n rs1 hr hp hwrite hlevel
    refine (exec_cwr ..).trans ((execCwr_of_refused hr hp hwrite).trans ?_)
    rw [pctxLog, if_neg (by simp [hlevel])]
    rfl
  · intro s c n rs1 hr hp hwrite
    exact (exec_cwr ..).trans (execCwr_of_refused hr hp hwrite)
  · intro s c rs1 hr hp hlevel
    refine (exec_of_runs rfl hr hp).trans (congrArg _ ?_)
    simp only [hlevel]
    by_cases h0 : (xReg (getCore s c) rs1).toNat = 0 <;> simp [h0, tlbDrop]
  · intro s c rs1 hr hp hlevel
    refine (exec_of_runs rfl hr hp).trans (congrArg _ ?_)
    simp only [hlevel]
    rfl
  · intro s c rs1 hr hp hlevel
    refine (exec_of_runs rfl hr hp).trans (congrArg _ ?_)
    obtain h | h := hlevel <;> simp only [h] <;> rfl
  · intro s c code info hout
    exact raise_shows code info hout rfl
  · intro s c hr hp
    exact exec_of_runs (f := fun s => raise s c (if (getCore s c).level = .hyp then 1 else 8) 0) rfl hr hp
  · intro s c hr hp hdbg
    refine (exec_of_runs rfl hr hp).trans (congrArg _ ?_)
    exact if_neg (by simp [hdbg])
  · intro s c hr hp hdbg
    refine (exec_of_runs rfl hr hp).trans (congrArg _ ?_)
    exact if_pos hdbg
  · intro s c hr hp
    exact exec_of_runs (f := fun s => illegal s c) rfl hr hp
  · intro l code
    exact ⟨rfl, rfl, by decide, by decide, by decide, by decide⟩
  · intro s c k hr hirq hout
    exact exec_interruptTaken_outside hr hirq hout
  · intro s c k l hr hirq hl hout
    refine (exec_interruptTaken_outside hr hirq hout).trans ?_
    cases l with
    | mon => exact absurd rfl hl
    | hyp => rfl
    | sup => rfl
    | user => rfl
  · intro s c hr
    exact ⟨if_pos (by simp [hr]), exec_of_not_runs rfl hr, exec_of_not_runs rfl hr, exec_of_not_runs rfl hr⟩
  · intro s c hr hirq
    show execInterruptTaken c s = _
    rw [execInterruptTaken, if_neg (by simp [hr]), hirq]
  · intro x hlevel hmon
    simp [nextIrq, hlevel, hmon]
  · intro x k hmon
    simp [nextIrq, hmon]
  · intro x k hmon hlevel hhyp
    simp [nextIrq, hmon, hlevel, hhyp]
  · intro x k hmon hlevel hhyp hsup
    obtain h | h := hlevel <;> simp [nextIrq, hmon, h, hhyp, hsup]
  · intro s c hup hdbg hport
    show Host.Outcome.next (if mainUp s && debugAttached s then haltCore s c else s) = _
    rw [if_pos (by simp [hup, debugAttached, hdbg, hport])]
    rfl
  · intro s c hup hdbg hport
    show Host.Outcome.next (if mainUp s && debugAttached s then _ else s) = _
    rw [if_pos (by simp [hup, debugAttached, hdbg, hport])]
  · intro s c h
    have hno : (mainUp s && debugAttached s) = false := by obtain h | h | h := h <;> simp [debugAttached, h]
    exact ⟨congrArg _ (if_neg (by simp [hno])), congrArg _ (if_neg (by simp [hno]))⟩
  · decide
  · intro s
    exact ⟨congrArg TapPath.id (by decide), rfl, rfl⟩
  · intro s
    simp [tapAllows, debugAttached]

end Sys2Proof.Machine
end

section
/-! The services behind the gate (07 R171 to R173, R178 to R181, R191, R194 to R198, 12 R305). -/
namespace Sys2Proof.Machine

set_option Elab.async false

/-! ### A service and its answer -/

/-- A service that may be asked for runs for the caller. -/
theorem exec_of_asks {i : Instr} {s : State} {c num : Nat} {f : Core → State} (hexec : exec i s = .next (serve s c num f))
    (h : asks s c num = true) (hnum : num ∈ serviceNums) : exec i s = .next (f (getCore s c)) := by
  rw [hexec, serve_of_asks h hnum]

section
variable {s : State} {c num : Nat} (f : Core → State)

theorem serve_of_not_called (h : coreRuns s c = false ∨ (getCore s c).level ≠ .mon ∨ (getCore s c).wsave.call = false) :
    serve s c num f = s :=
  if_pos (by obtain h | h | h := h <;> simp [h])

variable (hr : coreRuns s c = true) (hlevel : (getCore s c).level = .mon) (hcall : (getCore s c).wsave.call = true)
include hr hlevel hcall

theorem serve_of_unknown (h : callReg (getCore s c) 17 ∉ serviceNums) : serve s c num f = answer s c 1 0 := by
  simp only [serve]
  rw [if_neg (by simp [hr, hlevel, hcall]), if_pos (by simpa using h)]

theorem serve_of_not_allowed (hnum : callReg (getCore s c) 17 = num) (hknown : num ∈ serviceNums)
    (h : serviceLevel num (getCore s c).wsave.level = false) : serve s c num f = answer s c 2 0 := by
  simp only [serve]
  rw [if_neg (by simp [hr, hlevel, hcall]), if_neg (by simpa [hnum] using hknown), if_neg (not_not_intro hnum),
    if_pos (by simp [h])]
end

/-- The ten commands that are services, with their numbers (R171). -/
def serviceCmds (c : Fin 2) : List (Instr × Nat) :=
  [(.query c, 0), (.partLoad c, 1), (.partUnload c, 2), (.enclCreate c, 0x10), (.enclAdd c, 0x11), (.enclSeal c, 0x12),
    (.enclDestroy c, 0x13), (.enclReport c, 0x14), (.pkeRaw c, 0x20), (.irqRaise c, 0x30)]

/-- Each of them is a service of its number. -/
theorem exec_serviceCmds (s : State) (c : Fin 2) :
    ∀ p ∈ serviceCmds c, p.2 ∈ serviceNums ∧ ∃ f, exec p.1 s = .next (serve s c p.2 f) := by
  simp only [serviceCmds, List.forall_mem_cons, List.not_mem_nil, false_imp_iff, implies_true, and_true]
  exact ⟨⟨by decide, _, rfl⟩, ⟨by decide, _, rfl⟩, ⟨by decide, _, rfl⟩, ⟨by decide, _, rfl⟩, ⟨by decide, _, rfl⟩,
    ⟨by decide, _, rfl⟩, ⟨by decide, _, rfl⟩, ⟨by decide, _, rfl⟩, ⟨by decide, _, rfl⟩, ⟨by decide, _, rfl⟩⟩

/-- A command of the list without its number. -/
theorem exists_serviceCmds {c : Fin 2} {i : Instr} (h : i ∈ (serviceCmds c).map Prod.fst) : ∃ k, (i, k) ∈ serviceCmds c := by
  obtain ⟨p, hp, rfl⟩ := List.mem_map.1 h
  exact ⟨p.2, hp⟩

/-- The status and the result are in a0 and a1 (R167). -/
theorem xReg_answer (s : State) (c k v : Nat) : xReg (getCore (answer s c k v) c) 10 = BitVec.ofNat 64 k
    ∧ xReg (getCore (answer s c k v) c) 11 = BitVec.ofNat 64 v := by
  simp only [answer, getCore_onCore_same, xReg, xPut, Nat.reduceEqDiff, if_false]
  exact ⟨(tget_tput_ne _ _ _ (by decide)).trans (tget_tput_same ..), tget_tput_same ..⟩

/-! ### The services -/

/-- The operands of ENCL_ADD (R180). -/
theorem enclAdd_operands_ok {d : Encl} {src off perm : Nat} (hsrc : src % 4096 = 0) (hoff : off % 4096 = 0)
    (hmax : off < 256 * 4096) (hperm : enclPermOk off perm = true) (hnew : d.pages.any (·.1 = off / 4096) = false)
    (hend : d.base.toNat + off < 2 ^ 32) :
    (decide (off % 4096 ≠ 0) || decide (src % 4096 ≠ 0) || decide (256 * 4096 ≤ off) || !enclPermOk off perm
      || d.pages.any (·.1 = off / 4096) || decide (2 ^ 32 ≤ d.base.toNat + off)) = false := by
  rw [hnew]
  simp only [hsrc, hoff, hperm, decide_eq_false (Nat.not_le.2 hmax), decide_eq_false (Nat.not_le.2 hend)]
  rfl

/-- The operands of PKE_RAW (R305). -/
theorem pkeRaw_operands_ok {p a k : Nat} (hp : p < 2) (ha : a % 64 = 0) (hlo : 1 ≤ k) (hhi : k ≤ 64) :
    (decide (2 ≤ p) || decide (a % 64 ≠ 0) || decide (k = 0) || decide (64 < k)) = false := by
  simp [ha, hp, hhi, Nat.ne_of_gt hlo]

/-- The answer of ENCL_REPORT: the measurement was written or its address refused it. -/
def reportAnswer (s : State) (c : Nat) : Option State → State
  | some t => answer t c 0 0
  | none => answer s c 3 0

/-- Settles O50: each service, its answer, and who may ask for it. -/
theorem services : Obligations.Services := by
  unfold Obligations.Services
  refine ⟨?_, ?_, ?_, ?_, ?_, ?_, ?_, ?_, ?_, ?_, ?_, ?_, ?_, ?_, ?_, ?_, ?_⟩
  · intro s c hasks
    exact exec_of_asks (f := fun _ => answer s c 0 (Config.serviceAbi.toNat + 65536 * (fwAbi s % 65536))) rfl hasks
      (by decide)
  · intro s c hasks hlo hhi hppn hdram hown huse
    refine (exec_of_asks rfl hasks (by decide)).trans (congrArg _ ?_)
    rw [if_neg (by simp only [Bool.or_eq_true, decide_eq_true_eq]; omega), if_neg (by simp [hown]), if_neg (by simp [huse])]
  · intro s c hasks hlo hhi huse
    refine (exec_of_asks rfl hasks (by decide)).trans (congrArg _ ?_)
    rw [if_neg (by simp only [Bool.or_eq_true, decide_eq_true_eq]; omega), if_neg (by simp [huse])]
    rfl
  · intro s c e hasks halign hmax hencl hfree
    refine (exec_of_asks rfl hasks (by decide)).trans (congrArg _ ?_)
    rw [if_neg (by rw [hencl]; simp only [halign, decide_eq_false (Nat.not_le.2 hmax)]; decide), hfree]
  · intro s c hasks hstat h1 h2 h3 h4 h5 h6
    refine (exec_of_asks rfl hasks (by decide)).trans (congrArg _ ?_)
    simp only [hstat, enclAdd_operands_ok h1 h2 h3 h4 h5 h6]
    refine (if_neg Bool.false_ne_true).trans ?_
    generalize freePages s = ps
    cases gpaRead s (getCore s c).wsave.part (callReg (getCore s c) 11) 4096 with
    | none => rfl
    | some page =>
      cases ps[leNat (freeBytes s 2).1 % max 1 ps.length]? with
      | none => rfl
      | some p =>
        rfl
  · intro s c hasks hstat hentries hctl
    refine (exec_of_asks rfl hasks (by decide)).trans (congrArg _ ?_)
    simp only [hstat]
    rw [if_neg (by rw [hentries, hctl]; decide)]
  · intro s c hasks hstat
    refine (exec_of_asks rfl hasks (by decide)).trans (congrArg _ ?_)
    simp only [hstat]
  · intro s c hasks hstat
    refine (exec_of_asks rfl hasks (by decide)).trans (congrArg _ (?_ : _ = reportAnswer s c _))
    simp only [hstat]
    rfl
  · intro s c hasks hp ha hlo hhi hraw hcus hroom hgate
    refine (exec_of_asks rfl hasks (by decide)).trans (congrArg _ ?_)
    rw [if_neg (by rw [pkeRaw_operands_ok hp ha hlo hhi]; decide), if_neg (by obtain h | h := hcus <;> simp [h]), hraw]
    simp only
    rw [if_neg (by simp [hroom, hgate])]
    rfl
  · intro s c hasks hp ha hlo hhi hzero hrun
    refine (exec_of_asks rfl hasks (by decide)).trans (congrArg _ ?_)
    rw [if_neg (by rw [pkeRaw_operands_ok hp ha hlo hhi]; decide), if_pos (by simp [hzero, hrun])]
  · intro s c j acc hasks hp ha hlo hhi hcus hraw hacc hinst haddr
    refine (exec_of_asks rfl hasks (by decide)).trans (congrArg _ ?_)
    rw [if_neg (by rw [pkeRaw_operands_ok hp ha hlo hhi]; decide), if_neg (by obtain h | h := hcus <;> simp [h]), hraw]
    simp only [hacc]
    rw [if_neg (by simp [hinst, haddr])]
    rfl
  · intro s c hasks hlo hhi
    refine (exec_of_asks rfl hasks (by decide)).trans (congrArg _ ?_)
    rw [if_neg (by simp only [Bool.or_eq_true, decide_eq_true_eq]; omega)]
  · intro s c hasks h
    refine (exec_of_asks rfl hasks (by decide)).trans (congrArg _ ?_)
    rw [if_pos (by simpa using h)]
  · intro s c i hi hr hlevel hcall hnum
    obtain ⟨k, hk⟩ := exists_serviceCmds hi
    obtain ⟨-, f, hf⟩ := exec_serviceCmds s c _ hk
    exact hf.trans (congrArg _ (serve_of_unknown f hr hlevel hcall hnum))
  · intro s c i k hi hr hlevel hcall hnum hallow
    obtain ⟨hknown, f, hf⟩ := exec_serviceCmds s c _ hi
    exact hf.trans (congrArg _ (serve_of_not_allowed f hr hlevel hcall hnum hknown hallow))
  · intro s c i hi h
    obtain ⟨k, hk⟩ := exists_serviceCmds hi
    obtain ⟨-, f, hf⟩ := exec_serviceCmds s c _ hk
    exact hf.trans (congrArg _ (serve_of_not_called f h))
  · intro s c k v
    exact xReg_answer s c k v

end Sys2Proof.Machine
end

section
/-! Accesses to the internal map: their initiators, their effect, refusals and stalls (08 R199 to R213, 07 R161). -/
namespace Sys2Proof.Machine

set_option Elab.async false

/-! ### The initiators -/

theorem exec_busAccess_of_dma {s : State} {b : BusReq} (hup : mainUp s = true) (hok : reqOk b = true)
    (hlo : 2 ≤ b.init.val) (hhi : b.init.val ≠ 7) : exec (.busAccess b) s = .next (runAcc s b (dmaReq b)) := by
  show execBusAccess b s = _
  rw [execBusAccess, if_neg (by simp [hup, hok]), if_neg (by omega), if_neg hhi]

theorem exec_registerWrite_bus {s : State} {k : Fin 8} {a v : Word} (hup : mainUp s = true) (halign : a.toNat % 4 = 0) :
    exec (.registerWrite (.bus k) a v) s = .next (
      if k.val ≤ 1 then instr s k.val fun s => runAcc s (wordStore k a v) (coreAcc s k.val .store a.toNat 4)
      else if k.val = 7 then
        (if debugAttached s then runAcc s (wordStore k a v) (debugAcc s .store a.toNat 4) else s)
      else runAcc s (wordStore k a v) (dmaAcc k.val 0 true true a.toNat 4)) := by
  show execRegisterWrite (.bus k) a v s = _
  rw [execRegisterWrite, if_neg (by simp [hup])]
  simp only [halign, ne_eq, not_true_eq_false, if_false]

/-- At Monitor and Hypervisor level an aligned access of a core goes to its physical address (R161, R175). -/
theorem coreAccess_physical {s : State} {b : BusReq} {c : Nat} (hlevel : (getCore s c).level = .mon ∨ (getCore s c).level = .hyp)
    (hkind : b.kind = .load ∨ b.kind = .store) (halign : b.addr.toNat % b.size = 0) :
    coreAccess s c b = runAcc s b (coreAcc s c b.kind b.addr.toNat b.size) := by
  have htrans : translate wordPeek s c b.addr.toNat (kindCode b.kind) = (.ok b.addr.toNat 15, s) :=
    if_pos (by obtain h | h := hlevel <;> simp [h])
  unfold coreAccess runAcc coreResolve
  obtain h | h := hkind <;>
  · rw [h] at htrans ⊢
    simp [halign, htrans]

/-! ### The effect of an access -/

/-- A store's answer concerns the debugger only. -/
theorem jtagAnswer_of_ne {s : State} {b : BusReq} (err : Bool) (l : Bytes) (h : b.init.val ≠ 7) : jtagAnswer s b err l = s :=
  if_neg h

theorem accEffect_of_stored {s t : State} {b : BusReq} {a : Acc} (hkind : b.kind = .store) (hinit : b.init.val ≠ 7)
    (h : storeBytes s a.addr (slice b.data 0 b.size) = .ok t) : accEffect s b a = t := by
  simp only [accEffect, hkind, h]
  exact jtagAnswer_of_ne false [] hinit

theorem storeBytes_sram {s : State} {a k : Nat} (bytes : Bytes) (htarget : targetOf a = some 1) (ha : a = 0x10000000 + k) :
    storeBytes s a bytes = .ok (sramWrite s k bytes) := by
  subst ha
  simp only [storeBytes, htarget, Nat.add_sub_cancel_left]

/-- A byte that a write covers reads as written. -/
theorem tget_tputN_of_mem {α : Type} [DecidableEq α] (d : α) {l : List α} :
    ∀ (t : Tab α) (k : Nat) {j : Nat}, j < l.length → tget d (tputN d t k l) (k + j) = l.getD j d := by
  induction l with
  | nil => exact fun t k j h => absurd h (Nat.not_lt_zero j)
  | cons v l ih =>
    intro t k j h
    rw [tputN]
    cases j with
    | zero => exact (tget_tputN_ne d _ _ k l (.inl (Nat.lt_succ_self k))).trans (tget_tput_same ..)
    | succ j =>
      have hj := ih (tput d t k v) (k + 1) (j := j) (by simpa using h)
      rw [show k + (j + 1) = k + 1 + j by omega, hj]
      rfl

theorem targetOf_register {a : Nat} (hlo : 0x40000000 ≤ a) (hhi : a < 0x40016000) :
    targetOf a = some (4 + (a - 0x40000000) / 4096) := by
  unfold targetOf
  rw [if_pos (by simp [hlo, hhi])]

/-- Words stored in turn by any write (R209). -/
def storeWords (put : State → Nat → Word → WrRes) (s : State) (a n : Nat) (bytes : Bytes) : WrRes :=
  (List.range n).foldl (fun r k => match r with
    | .ok s => put s (a + 4 * k) (wordOf (leAt bytes (4 * k) 4))
    | e => e) (.ok s)

theorem storeWords_one (put : State → Nat → Word → WrRes) (s : State) (a : Nat) (bytes : Bytes) :
    storeWords put s a 1 bytes = put s a (wordOf (leAt bytes 0 4)) := rfl

theorem regsWrite_eq (s : State) (a : Nat) (bytes : Bytes) :
    regsWrite s a bytes = storeWords regWrite s a (bytes.length / 4) bytes := rfl

/-- A store of four bytes is one register write. -/
theorem regsWrite_word (s : State) (a : Nat) {bytes : Bytes} (hlen : bytes.length = 4) :
    regsWrite s a bytes = regWrite s a (wordOf (leAt bytes 0 4)) := by
  rw [regsWrite_eq, hlen]
  exact storeWords_one regWrite s a bytes

/-- An aligned word stored at a register's address is a write of that register (log 53). -/
theorem storeBytes_register {s : State} {a : Nat} {bytes : Bytes} (hlo : 0x40000000 ≤ a) (hhi : a < 0x40016000)
    (halign : a % 4 = 0) (hlen : bytes.length = 4) :
    storeBytes s a bytes = regWrite s a (wordOf (leAt bytes 0 4)) := by
  have htarget : ∃ n, targetOf a = some (n + 4) := ⟨_, (targetOf_register hlo hhi).trans (congrArg some (Nat.add_comm ..))⟩
  obtain ⟨n, hn⟩ := htarget
  simp only [storeBytes, hn]
  rw [if_pos (by simp [halign, hlen]), regsWrite_word s a hlen]

/-! ### Stalls -/

theorem resolveAcc_of_stall {s : State} {b : BusReq} {a : Acc} (h : accCheck s a = .stall) (hlo : 2 ≤ a.init)
    (hhi : a.init ≤ 6) (hoff : (getMpu s a.init).en = false) :
    resolveAcc s b a = s.setMpu { s.mpu with stalled := s.mpu.stalled ++ [(b, a)] } := by
  rw [resolveAcc, h]
  exact if_pos (by simp [stallSrc, hlo, hhi, hoff])

/-- Settles O51: each initiator's access, its effect, its refusal and its stall. -/
theorem accesses : Obligations.Accesses := by
  unfold Obligations.Accesses
  refine ⟨?_, ?_, ?_, ?_, ?_, ?_, ?_, ?_, ?_, ?_, ?_, ?_, ?_, ?_, ?_, ?_, ?_, ?_, ?_, ?_, ?_, ?_, ?_, ?_, ?_, ?_, ?_⟩
  · intro s b hup hok hlo hhi hsec
    refine (exec_busAccess_of_dma hup hok hlo (by omega)).trans ?_
    rw [dmaReq, if_neg (by omega), hsec, Bool.not_false, Bool.or_true]
  · intro s b hup hok hinit hnormal
    refine (exec_busAccess_of_dma hup hok (by omega) (by omega)).trans ?_
    rw [dmaReq, hinit, hnormal]
    rfl
  · intro s b hup hok hinit
    refine (exec_busAccess_of_dma hup hok (by omega) (by omega)).trans ?_
    have h4 : b.init.val ≠ 4 := by omega
    rw [dmaReq, if_pos (by omega), decide_eq_true h4, Bool.true_or]
  · intro s b hup hok hinit hdbg
    show execBusAccess b s = _
    rw [execBusAccess, if_neg (by simp [hup, hok]), if_neg (by omega), if_pos hinit, if_pos hdbg]
  · intro s b h
    show execBusAccess b s = _
    rw [execBusAccess]
    split_ifs with hno hcore hjtag hdbg
    · rfl
    · rw [instr_of_not_runs _ (by obtain h | h | h | h := h <;> simp_all)]
    · obtain h | h | h | h := h <;> simp_all
    · rfl
    · obtain h | h | h | h := h <;> simp_all
  · intro s t hhold hens
    exact if_neg (by simp [hhold, hens])
  · intro s b hup hok hinit hr hp
    show execBusAccess b s = _
    rw [execBusAccess, if_neg (by simp [hup, hok]), if_pos hinit, instr_of_runs hr hp]
  · intro s b c hlevel hkind halign
    exact coreAccess_physical hlevel hkind halign
  · intro s b a h
    rw [resolveAcc, h]
    rfl
  · intro s b a src idx h
    rw [resolveAcc, h]
    rfl
  · intro s b a k hkind hinit htarget ha
    rw [accEffect_of_stored hkind hinit (storeBytes_sram _ htarget ha)]
    refine ⟨?_, ?_, ?_⟩
    · intro j hj
      exact tget_tputN_of_mem 0 s.sram k (by simpa using hj)
    · intro j hj
      exact tget_tputN_ne _ _ _ _ _ (by simpa using hj)
    · exact sb_sramWrite (sameBut_refl _ s) (partsIn_refl _)
  · intro s b a hkind hinit
    simp only [accEffect, hkind, if_pos hinit]
  · intro s b a hkind hinit
    simp only [accEffect, hkind]
    rw [if_neg (by omega)]
    exact if_pos hinit
  · intro s b a hkind
    obtain h | h := hkind <;> simp only [accEffect, h]
  · intro s b a h hlo hhi hoff
    exact resolveAcc_of_stall h hlo hhi hoff
  · intro s k v hup
    exact congrArg _ (if_neg (by simp [hup]))
  · intro s v hup
    exact congrArg _ (if_neg (by simp [hup]))
  · intro s k b a h
    show execMpuStallTimeout k s = _
    simp only [execMpuStallTimeout, h]
  · intro s k b a h
    show execFirewallHoldTimeout k s = _
    simp only [execFirewallHoldTimeout, h]
  · intro s k h
    show execMpuStallTimeout k s = _
    simp only [execMpuStallTimeout, h]
    rfl
  · intro s k h
    show execFirewallHoldTimeout k s = _
    simp only [execFirewallHoldTimeout, h]
    rfl
  · intro s e src f o a h
    simp only [laneStallEnd, h]
  · intro s k a v hup halign hlo hne
    rw [exec_registerWrite_bus hup halign, if_neg (by omega), if_neg hne]
  · intro s k a v hup halign hcore hr hp
    rw [exec_registerWrite_bus hup halign, if_pos hcore, instr_of_runs hr hp]
  · intro s b a t hkind hinit hsize halign hlo hhi hw
    refine accEffect_of_stored hkind hinit ?_
    rw [hsize]
    exact (storeBytes_register hlo hhi halign (length_slice ..)).trans hw
  · intro s v hup hlive
    show execRegisterWrite .bar0 0x120 v s = _
    rw [execRegisterWrite, if_neg (by simp [hup])]
    simp only [bar0Write, hlive]
    rfl
  · intro s fn v hup hthere
    show execRegisterWrite (.page fn) 0x101 v s = _
    rw [execRegisterWrite, if_neg (by simp [hup])]
    simp only [pageWrite, hthere]
    rfl

end Sys2Proof.Machine
end

section
/-! Readbacks of zeroized slots, seasons, and the expiry of generated keys (09 R229, R231, R239, 15 R378). -/
namespace Sys2Proof.Machine

set_option Elab.async false

/-! ### Readbacks -/

/-- What ends an association leaves slots, quarantine and the ZFAIL flag. -/
theorem assocCheck_keeps (s : State) (a : Nat) : (assocCheck s a).vlt.slots = s.vlt.slots
    ∧ (assocCheck s a).vlt.quar = s.vlt.quar ∧ (assocCheck s a).vlt.zfail = s.vlt.zfail
    ∧ (assocCheck s a).tmp = s.tmp := by
  rw [assocCheck]
  split <;> exact ⟨rfl, rfl, rfl, rfl⟩

/-- The slot freed, its readbacks forgotten. -/
def slotFreed (s : State) (n : Nat) : State :=
  (putSlot s n freeSlot).setVlt { (putSlot s n freeSlot).vlt with zTry := (putSlot s n freeSlot).vlt.zTry.filter (· ≠ n) }

theorem getSlot_of_freed {s t : State} {n : Nat} (h : t.vlt.slots = (slotFreed s n).vlt.slots) : getSlot t n = freeSlot :=
  (congrArg (tget freeSlot · n) h).trans (tget_tput_same freeSlot s.vlt.slots n freeSlot)

section
variable {s : State} {n : Nat} (h : (getSlot s n).state = 3)
include h

theorem readback_true : readback s n true = assocCheck (spareBack (slotFreed s n) n) (getSlot s n).assoc :=
  if_neg (not_not_intro h)

/-- A pass frees the slot. -/
theorem readback_of_pass : getSlot (readback s n true) n = freeSlot ∧ (readback s n true).vlt.quar = s.vlt.quar := by
  obtain ⟨hslots, hquar, -, -⟩ := assocCheck_keeps (spareBack (slotFreed s n) n) (getSlot s n).assoc
  rw [readback_true h, hquar]
  exact ⟨getSlot_of_freed hslots, rfl⟩

theorem readback_of_first_failure (hfirst : s.vlt.zTry.contains n = false) :
    readback s n false = s.setVlt { s.vlt with zTry := s.vlt.zTry ++ [n] } :=
  (if_neg (not_not_intro h)).trans (if_neg (Bool.eq_false_iff.1 hfirst))

theorem readback_false_again (hagain : s.vlt.zTry.contains n = true) :
    readback s n false = assocCheck (spareBack (quarantine (slotFreed s n) n) n) (getSlot s n).assoc :=
  (if_neg (not_not_intro h)).trans (if_pos hagain)
end

theorem alarmSet_mem (s : State) (a : Alarm) : a.num ∈ (alarmSet s a).tmp.alarm := by
  rw [alarmSet]
  split
  · exact List.contains_iff_mem.1 (by assumption)
  · simp

theorem alarmSet_vlt (s : State) (a : Alarm) : (alarmSet s a).vlt = s.vlt :=
  (sb_alarmSet (sameBut_refl _ s) (partsIn_refl _)).vlt_eq

/-- A quarantined slot is listed and shown, and asserts the alarm (R239). -/
theorem quarantine_shows (s : State) (n : Nat) : (quarantine s n).vlt = { s.vlt with quar := s.vlt.quar ++ [n], zfail := true }
    ∧ Alarm.zfail.num ∈ (quarantine s n).tmp.alarm := by
  simp only [quarantine, logSW, report_vlt, report_tmp, alarmSet_vlt, State.setVlt_vlt, alarmSet_mem, and_self]

/-- A second failure quarantines the slot. -/
theorem readback_of_second_failure {s : State} {n : Nat} (h : (getSlot s n).state = 3) (hagain : s.vlt.zTry.contains n = true) :
    (readback s n false).vlt.quar = s.vlt.quar ++ [n] ∧ (readback s n false).vlt.zfail = true
      ∧ Alarm.zfail.num ∈ (readback s n false).tmp.alarm ∧ (getSlot (readback s n false) n).state = 0 := by
  obtain ⟨hvlt, halarm⟩ := quarantine_shows (slotFreed s n) n
  obtain ⟨hslots, hquar, hfail, htmp⟩ := assocCheck_keeps (spareBack (quarantine (slotFreed s n) n) n) (getSlot s n).assoc
  rw [readback_false_again h hagain, hquar, hfail, htmp]
  have hkeep : (spareBack (quarantine (slotFreed s n) n) n).vlt.slots = (slotFreed s n).vlt.slots := by
    show (quarantine (slotFreed s n) n).vlt.slots = _
    rw [hvlt]
  have hfree := getSlot_of_freed (hslots.trans hkeep)
  exact ⟨congrArg Vlt.quar hvlt, congrArg Vlt.zfail hvlt, halarm, congrArg Slot.state hfree⟩

/-! ### Seasons -/

theorem edgesRun_of_run {s : State} (hup : mainUp s = true) (hrun : s.glb.run = true) : edgesRun s = true := by
  simp [edgesRun, hup, hrun]

/-- Settles O52: readbacks, the edges of a season, and the expiry of a generated key. -/
theorem vaultEvents : Obligations.VaultEvents := by
  unfold Obligations.VaultEvents
  refine ⟨?_, ?_, ?_, ?_, ?_, ?_, ?_, ?_, ?_, ?_, ?_, ?_, ?_⟩
  · intro s n ok hup hstate hmac
    show execZeroizeReadback n ok s = _
    simp only [execZeroizeReadback]
    exact if_neg (by simp [hup, hstate, hmac])
  · intro s n h
    exact readback_of_pass h
  · intro s n h hfirst
    exact readback_of_first_failure h hfirst
  · intro s n h hagain
    exact readback_of_second_failure h hagain
  · intro s a x hx hup hrun hopen htick
    show execSeasonWindowOpen a s = _
    simp only [execSeasonWindowOpen, hx]
    exact if_pos (by simpa [edgesRun_of_run hup hrun, hopen, seasonOpenAt] using htick)
  · intro s a x hx hup hrun hroll htick
    show execSeasonRollover a s = _
    simp only [execSeasonRollover, hx]
    exact if_pos (by simpa [edgesRun_of_run hup hrun, hroll] using htick)
  · intro s a x hx hup hrun hroll htick
    show execSeasonWindowEnd a s = _
    simp only [execSeasonWindowEnd, hx]
    exact if_pos (by simpa [edgesRun_of_run hup hrun, hroll, seasonEndAt] using htick)
  · intro s a x hx hopen hx' hend
    refine ⟨?_, ?_, ?_⟩
    · show execSeasonWindowOpen a s = _
      simp only [execSeasonWindowOpen, hx, seasonOpenAt, hopen]
      exact if_neg (by simp)
    · show execSeasonRollover a s = _
      simp only [execSeasonRollover, hx, hx']
      exact if_neg (by simp)
    · show execSeasonWindowEnd a s = _
      simp only [execSeasonWindowEnd, hx, seasonEndAt, hend]
      exact if_neg (by simp)
  · intro s n x a h
    simp only [dropRetiring, h]
  · intro s n o d ho hd harmed hstate hup hrun htick
    show execGenerateCommitExpiry n s = _
    simp only [execGenerateCommitExpiry, ho, hd]
    exact if_pos (by simp [harmed, hstate, edgesRun_of_run hup hrun, htick])
  · intro s n ok h
    show execZeroizeReadback n ok s = _
    simp only [execZeroizeReadback]
    exact if_pos (by obtain h | h | h := h <;> simp [h])
  · intro s a h
    refine ⟨?_, ?_, ?_⟩
    · show execSeasonWindowOpen a s = _
      simp only [execSeasonWindowOpen, h]
    · show execSeasonRollover a s = _
      simp only [execSeasonRollover, h]
    · show execSeasonWindowEnd a s = _
      simp only [execSeasonWindowEnd, h]
  · intro s n h
    show execGenerateCommitExpiry n s = _
    simp only [execGenerateCommitExpiry]
    split
    · split
      · exact if_neg (by obtain h | h := h <;> simp_all)
      · rfl
    · rfl

end Sys2Proof.Machine
end

section
/-! The custody request, its messages and its verification (10 R243 to R254, R263, R264). -/
namespace Sys2Proof.Machine

set_option Elab.async false

/-! ### The verification -/

theorem bothOk_eq_none_iff (res : Nat) (f : Bytes → Bool) (a b : Bytes) :
    bothOk res f a b = none ↔ f a = true ∧ f b = true := by
  cases ha : f a <;> cases hb : f b <;> simp [bothOk, ha, hb]

/-- The checks of R248 pass when each of them does. -/
theorem custChecks_eq_none_iff (s : State) (a b : Bytes) : custChecks s a b = none ↔ s.cus.reqOpen = true
    ∧ tickReached (reqExpires s) s.glb.tick = false ∧ wordOf (leAt a 4 4) = reqNoOf s ∧ byteAt a 1 = 1
    ∧ wordOf (leAt b 4 4) = reqNoOf s ∧ byteAt b 1 = 1 ∧ byteAt a 0 ≠ byteAt b 0
    ∧ approvalSlotOk s (byteAt a 0) = true ∧ approvalSlotOk s (byteAt b 0) = true
    ∧ approvalDigest a = approvalRef s (byteAt a 0) ∧ approvalDigest b = approvalRef s (byteAt b 0)
    ∧ approvalDigest a ≠ approvalDigest b ∧ approvalEc s a = true ∧ approvalEc s b = true
    ∧ approvalMl s a = true ∧ approvalMl s b = true := by
  by_cases hopen : (!s.cus.reqOpen || tickReached (reqExpires s) s.glb.tick) = true
  · rw [custChecks, if_pos hopen]
    simp only [reduceCtorEq, false_iff, not_and]
    intro h1 h2
    simp [h1, h2] at hopen
  · rw [custChecks, if_neg hopen]
    simp only [Bool.or_eq_true, Bool.not_eq_true', not_or, Bool.not_eq_false, Bool.not_eq_true] at hopen
    obtain ⟨hreq, htick⟩ := hopen
    by_cases hslot : byteAt a 0 = byteAt b 0
    · simp [hreq, htick, hslot]
    · by_cases hdig : approvalDigest a = approvalDigest b
      · simp [hreq, htick, hslot, hdig]
      · simp [hreq, htick, bothOk_eq_none_iff, hslot, hdig, and_assoc]

/-- A passing run sets the latch for what the record names, unused. -/
theorem latchSet_latch (s : State) (a b : Nat) : (latchSet s a b).cus.latch
    = { isSet := true, op := reqOp s, slotA := a, slotB := b, reqNo := reqNoOf s, record := s.cus.req, form := s.cus.form
        used := false } := by
  simp only [latchSet, (sb_sendStatus (sameBut_refl _ _) (partsIn_refl _)).cus_eq]
  split <;> simp [logLatch, onCus]

/-- Settles O53: CUS_CTL, the end of a verification, the expiries and the messages. -/
theorem custodyEvents : Obligations.CustodyEvents := by
  unfold Obligations.CustodyEvents
  refine ⟨?_, ?_, ?_, ?_, ?_, ?_, ?_, ?_, ?_, ?_, ?_, ?_, ?_, ?_, ?_, ?_, ?_, ?_, ?_, ?_, ?_, ?_, ?_⟩
  · intro s v hup hgate hkey hbit
    exact congrArg _ ((onE_of_open _ hup hgate).trans (if_pos (by simp [custKeyed, hkey, hbit])))
  · intro s v hup hgate hkey hbit
    exact congrArg _ ((onE_of_open _ hup hgate).trans (if_pos (by simp [custKeyed, hkey, hbit])))
  · intro s v hup hgate hkey hbit hrun
    exact congrArg _ ((onE_of_open _ hup hgate).trans (if_pos (by simp [custKeyed, hkey, hbit, hrun])))
  · intro s v hup hgate hkey
    refine ⟨?_, ?_, ?_⟩ <;>
      exact congrArg _ ((onE_of_open _ hup hgate).trans (if_neg (by simp [custKeyed, hkey])))
  · intro s v hup hgate
    refine ⟨fun h => ?_, fun h => ?_, fun h => ?_⟩
    · exact congrArg _ ((onE_of_open _ hup hgate).trans (if_neg (by simp [h])))
    · exact congrArg _ ((onE_of_open _ hup hgate).trans (if_neg (by simp [h])))
    · exact congrArg _ ((onE_of_open _ hup hgate).trans (if_neg (by obtain h | h := h <;> simp [h])))
  · intro s v hup hgate
    exact ⟨congrArg _ (onE_of_gated _ hup hgate), congrArg _ (onE_of_gated _ hup hgate), congrArg _ (onE_of_gated _ hup hgate)⟩
  · intro s hup hrun hclk htrig
    show execCustodyVerifyEnd s = _
    rw [execCustodyVerifyEnd, if_neg (by simp [hup, hrun, hclk, htrig])]
    simp only
    cases custChecks s (approvalAt s 0) (approvalAt s 0x1800) <;> rfl
  · intro s h
    show execCustodyVerifyEnd s = _
    exact if_pos (by obtain h | h | h | h := h <;> simp [h])
  · intro s a b
    exact latchSet_latch s a b
  · intro s a b h
    exact if_pos (by obtain h | h := h <;> simp [h])
  · intro s a b
    exact custChecks_eq_none_iff s a b
  · intro s hup hrun hopen htick
    exact if_pos (by simp [edgesRun_of_run hup hrun, hopen, htick])
  · intro s hup hrun hset htick
    exact if_pos (by simp [edgesRun_of_run hup hrun, hset, htick])
  · intro s hreq hlatch
    refine if_neg ?_
    obtain h | h := hreq <;> obtain h' | h' := hlatch <;> simp [h, h']
  · intro s hopen hruns hrep
    exact if_pos (by simp [hopen, hruns, hrep])
  · intro s h
    exact if_neg (by obtain h | h | h := h <;> simp [h])
  · intro s t m hmsg hnames
    show execApproval s = _
    simp only [execApproval, hmsg, hnames]
    rfl
  · intro s t m hmsg hnames
    show execApproval s = _
    simp only [execApproval, hmsg, hnames]
    rfl
  · intro s t m hmsg hnames
    show execRefusal s = _
    simp only [execRefusal, hmsg, hnames]
    rfl
  · intro s t m hmsg hnames
    show execRefusal s = _
    simp only [execRefusal, hmsg, hnames]
    rfl
  · intro s n
    refine ⟨fun h => ?_, fun h => ?_, fun h => ?_⟩
    · show execApproval s = _
      simp only [execApproval, h]
    · show execRefusal s = _
      simp only [execRefusal, h]
    · show execCredential n s = _
      simp only [execCredential, h]
  · intro s t m n hmsg hlock
    show execCredential n s = _
    simp only [execCredential, hmsg]
    exact if_neg (ne_true_of_eq_false hlock)
  · intro s t m n hmsg hlock
    show execCredential n s = _
    simp only [execCredential, hmsg, hlock]
    rfl

end Sys2Proof.Machine
end

section
/-! Control of the CAN controllers: modes, transmit requests and aborts, the buffer offered (11 R266 to R273, R286). -/
namespace Sys2Proof.Machine

set_option Elab.async false

@[simp] theorem getCan_setCan_same (s : State) (ch : Nat) (c : CanCh) : getCan (setCan s ch c) ch = c := by
  by_cases h : ch = 0 <;> simp [getCan, setCan, h]

@[simp] theorem getTx_putTx_same (c : CanCh) (b : Nat) (x : TxBuf) : getTx (putTx c b x) b = x :=
  tget_tput_same ..

theorem getTx_putTx_ne (c : CanCh) {b k : Nat} (x : TxBuf) (h : k ≠ b) : getTx (putTx c b x) k = getTx c k :=
  tget_tput_ne _ _ _ h

/-! ### Requests and aborts: a fold over the buffers named -/

theorem mem_bitsOf {n v k : Nat} : k ∈ bitsOf n v ↔ k < n ∧ v.testBit k = true := by
  simp [bitsOf]

theorem nodup_bitsOf (n v : Nat) : (bitsOf n v).Nodup := List.nodup_range.filter _

theorem mem_bitsOf_of_getLsbD {m : Byte} {b : Fin 8} (h : m.getLsbD b = true) : b.val ∈ bitsOf 8 m.toNat :=
  mem_bitsOf.2 ⟨b.isLt, h⟩

theorem not_mem_bitsOf_of_getLsbD {m : Byte} {b : Fin 8} (h : m.getLsbD b = false) : b.val ∉ bitsOf 8 m.toNat :=
  fun hb => Bool.noConfusion (h.symm.trans (mem_bitsOf.1 hb).2)

section
variable {f : CanCh → Nat → CanCh} (hne : ∀ c {b k}, k ≠ b → getTx (f c b) k = getTx c k)
include hne

theorem getTx_foldl_of_not_mem {b : Nat} : ∀ (l : List Nat) (c : CanCh), b ∉ l → getTx (l.foldl f c) b = getTx c b
  | [], _, _ => rfl
  | a :: l, c, h => by
    obtain ⟨hba, hl⟩ := List.ne_and_not_mem_of_not_mem_cons h
    exact (getTx_foldl_of_not_mem l (f c a) hl).trans (hne c hba)

/-- A buffer named once is changed as its own step changes it; what else that step reads (`p`) no step changes. -/
theorem getTx_foldl_of_mem {α : Type} {p : CanCh → α} (hp : ∀ c b, p (f c b) = p c) {g : α → TxBuf → TxBuf} {b : Nat}
    (hg : ∀ c, getTx (f c b) b = g (p c) (getTx c b)) :
    ∀ (l : List Nat) (c : CanCh), l.Nodup → b ∈ l → getTx (l.foldl f c) b = g (p c) (getTx c b)
  | [], _, _, h => absurd h List.not_mem_nil
  | a :: l, c, hnodup, h => by
    obtain ⟨hal, hl⟩ := List.nodup_cons.1 hnodup
    by_cases hba : b = a
    · subst hba
      exact (getTx_foldl_of_not_mem hne l (f c b) hal).trans (hg c)
    · rw [List.foldl_cons, getTx_foldl_of_mem hp hg l (f c a) hl ((List.mem_cons.1 h).resolve_left hba), hp, hne c hba]
end

/-- One buffer requested (R270). -/
def reqTx (dim : Bool) (x : TxBuf) : TxBuf :=
  if x.pend then x else { x with pend := true, tries := 0, otherErr := false, abortReq := false, late := dim }

/-- One buffer aborted, `on` the buffer on the bus (R270). -/
def abortTx (b : Nat) (on : Option Nat) (x : TxBuf) : TxBuf :=
  if !x.pend then x else if on = some b then { x with abortReq := true } else { x with pend := false, aborted := true }

theorem putTx_if_ne {p : Prop} [Decidable p] (c : CanCh) {b k : Nat} (x : TxBuf) (h : k ≠ b) :
    getTx (if p then c else putTx c b x) k = getTx c k := by
  split
  · rfl
  · exact getTx_putTx_ne c x h

theorem putTx_if_same {p : Prop} [Decidable p] (c : CanCh) (b : Nat) (x : TxBuf) :
    getTx (if p then c else putTx c b x) b = if p then getTx c b else x := by
  split
  · rfl
  · exact getTx_putTx_same c b x

/-- The step of a request. -/
def reqAt (d : Bool) (c : CanCh) (b : Nat) : CanCh :=
  if (getTx c b).pend then c
  else putTx c b { getTx c b with pend := true, tries := 0, otherErr := false, abortReq := false, late := d }

theorem getTx_txReq (d : Bool) {m : Byte} (c : CanCh) {b : Nat} (h : b ∈ bitsOf 8 m.toNat) :
    getTx (txReq d m c) b = reqTx d (getTx c b) :=
  getTx_foldl_of_mem (f := reqAt d) (p := fun _ => ()) (g := fun _ => reqTx d) (fun c _ _ hk => putTx_if_ne c _ hk)
    (fun _ _ => rfl) (fun c => putTx_if_same c b _) _ c (nodup_bitsOf ..) h

theorem getTx_txReq_of_not_mem (d : Bool) {m : Byte} (c : CanCh) {b : Nat} (h : b ∉ bitsOf 8 m.toNat) :
    getTx (txReq d m c) b = getTx c b :=
  getTx_foldl_of_not_mem (f := reqAt d) (fun c _ _ hk => putTx_if_ne c _ hk) _ c h

/-- The step of an abort. -/
def abortAt (c : CanCh) (b : Nat) : CanCh := if !(getTx c b).pend then c else putTx c b (abortTx b c.onBus (getTx c b))

theorem txAbort_eq (m : Byte) (c : CanCh) : txAbort m c = (bitsOf 8 m.toNat).foldl abortAt c := by
  have hstep (c : CanCh) (b : Nat) : (if (!(getTx c b).pend) = true then c
      else if c.onBus = some b then putTx c b { getTx c b with abortReq := true }
      else putTx c b { getTx c b with pend := false, aborted := true }) = abortAt c b := by
    unfold abortAt abortTx
    split
    · rfl
    · split <;> rfl
  exact congrArg (fun f => (bitsOf 8 m.toNat).foldl f c) (funext fun c => funext fun b => hstep c b)

theorem abortAt_onBus (c : CanCh) (b : Nat) : (abortAt c b).onBus = c.onBus := by
  unfold abortAt
  split <;> rfl

theorem getTx_abortAt_same (c : CanCh) (b : Nat) : getTx (abortAt c b) b = abortTx b c.onBus (getTx c b) := by
  refine (putTx_if_same c b _).trans ?_
  by_cases h : (!(getTx c b).pend) = true
  · rw [if_pos h, abortTx, if_pos h]
  · exact if_neg h

theorem getTx_txAbort {m : Byte} (c : CanCh) {b : Nat} (h : b ∈ bitsOf 8 m.toNat) :
    getTx (txAbort m c) b = abortTx b c.onBus (getTx c b) :=
  (congrArg (getTx · b) (txAbort_eq m c)).trans
    (getTx_foldl_of_mem (g := abortTx b) (fun c _ _ hk => putTx_if_ne c _ hk) abortAt_onBus
      (getTx_abortAt_same · b) _ c (nodup_bitsOf ..) h)

theorem getTx_txAbort_of_not_mem {m : Byte} (c : CanCh) {b : Nat} (h : b ∉ bitsOf 8 m.toNat) :
    getTx (txAbort m c) b = getTx c b :=
  (congrArg (getTx · b) (txAbort_eq m c)).trans (getTx_foldl_of_not_mem (fun c _ _ hk => putTx_if_ne c _ hk) _ c h)

/-! ### The buffer offered -/

/-- The better of the buffer found so far and the next one, by identifier (R269). -/
def offerNext (id : Nat → Nat) (o : Option Nat) (b : Nat) : Option Nat := match o with
  | none => some b
  | some a => if id b < id a then some b else some a

/-- The buffers that may be offered. -/
def offerable (dim : Bool) (c : CanCh) : List Nat := (pendingTx c).filter fun b => !(dim && (getTx c b).late)

theorem offered_eq (dim : Bool) (c : CanCh) :
    offered dim c = (offerable dim c).foldl (offerNext fun b => (getTx c b).frame.id) none := rfl

theorem mem_offerable {dim : Bool} {c : CanCh} {b : Nat} :
    b ∈ offerable dim c ↔ b < 8 ∧ (getTx c b).pend = true ∧ (dim && (getTx c b).late) = false := by
  simp only [offerable, pendingTx, List.mem_filter, List.mem_range, Bool.not_eq_true', and_assoc]

theorem pairwise_offerable (dim : Bool) (c : CanCh) : (offerable dim c).Pairwise (· < ·) :=
  (List.pairwise_lt_range.filter _).filter _

/-- b comes before k: a lower identifier, or the same and no higher buffer. -/
def Precedes (id : Nat → Nat) (b k : Nat) : Prop := id b ≤ id k ∧ (id k ≠ id b ∨ b ≤ k)

theorem Precedes.trans {id : Nat → Nat} {a b c : Nat} (hab : Precedes id a b) (hbc : Precedes id b c) :
    Precedes id a c := by
  unfold Precedes at *
  omega

/-- Over ascending buffers the fold ends with the first of them. -/
theorem foldl_offerNext (id : Nat → Nat) : ∀ (l : List Nat) (a : Nat), (a :: l).Pairwise (· < ·) →
    ∃ r ∈ a :: l, l.foldl (offerNext id) (some a) = some r ∧ ∀ k ∈ a :: l, Precedes id r k
  | [], a, _ => ⟨a, by simp, rfl, by simp [Precedes]⟩
  | b :: l, a, h => by
    obtain ⟨hab, hbl⟩ := List.pairwise_cons.1 h
    have hlt := hab b (by simp)
    by_cases hid : id b < id a
    · obtain ⟨r, hr, hfold, hall⟩ := foldl_offerNext id l b hbl
      refine ⟨r, List.mem_cons_of_mem a hr, (congrArg (l.foldl (offerNext id)) (if_pos hid)).trans hfold, fun k hk => ?_⟩
      rcases List.mem_cons.1 hk with rfl | hk
      · exact (hall b (by simp)).trans ⟨hid.le, .inl hid.ne'⟩
      · exact hall k hk
    · obtain ⟨r, hr, hfold, hall⟩ := foldl_offerNext id l a
        (List.pairwise_cons.2 ⟨fun x hx => hab x (List.mem_cons_of_mem b hx), (List.pairwise_cons.1 hbl).2⟩)
      refine ⟨r, ?_, (congrArg (l.foldl (offerNext id)) (if_neg hid)).trans hfold, fun k hk => ?_⟩
      · rcases List.mem_cons.1 hr with rfl | hr <;> simp [*]
      · rcases List.mem_cons.1 hk with rfl | hk
        · exact hall k (by simp)
        · rcases List.mem_cons.1 hk with rfl | hk
          · exact (hall a (by simp)).trans ⟨Nat.le_of_not_lt hid, .inr hlt.le⟩
          · exact hall k (by simp [hk])

theorem offered_some {dim : Bool} {c : CanCh} {b : Nat} (h : offered dim c = some b) :
    b ∈ offerable dim c ∧ ∀ k ∈ offerable dim c, Precedes (fun b => (getTx c b).frame.id) b k := by
  rw [offered_eq] at h
  have hlt := pairwise_offerable dim c
  revert h hlt
  cases offerable dim c with
  | nil => exact fun h _ => nomatch h
  | cons a l =>
    intro h hlt
    obtain ⟨r, hr, hfold, hall⟩ := foldl_offerNext (fun b => (getTx c b).frame.id) l a hlt
    obtain rfl : b = r := Option.some.inj (h.symm.trans hfold)
    exact ⟨hr, hall⟩

/-! ### The next frame -/

theorem pickTx_of_not {s : State} {ch : Nat} (h : (getCan s ch).onBus.isSome = true ∨ canRuns s ch = false
    ∨ canStart s (getCan s ch) = false ∨ offered (decide (s.mode.mode = .dim)) (getCan s ch) = none) : pickTx s ch = s := by
  simp only [pickTx]
  rcases h with h | h | h | h
  · exact if_pos (by simp [h])
  · exact if_pos (by simp [h])
  · exact if_pos (by simp [h])
  · split
    · rfl
    · rw [h]

theorem pickTx_of_offered {s : State} {ch b : Nat} (hbus : (getCan s ch).onBus = none) (hruns : canRuns s ch = true)
    (hstart : canStart s (getCan s ch) = true) (hoff : offered (decide (s.mode.mode = .dim)) (getCan s ch) = some b) :
    pickTx s ch = setCan s ch { putTx (getCan s ch) b { getTx (getCan s ch) b with
      frame := { (getTx (getCan s ch) b).frame with esi := decide ((getCan s ch).state = 1) } } with onBus := some b } := by
  simp only [pickTx]
  refine (if_neg (by simp [hbus, hruns, hstart])).trans ?_
  rw [hoff]

/-! ### Modes and integration -/

theorem canMode_of_stopped {s : State} {ch m : Nat} (hm : m ≠ 0) (hmode : (getCan s ch).mode = 0) :
    canMode s ch m = if timingOk (getCan s ch).nbt (getCan s ch).dbt then setCan s ch { getCan s ch with mode := m, synced := false }
      else refuseWrite s (canBase ch) 0xA :=
  (if_neg hm).trans (if_pos hmode)

theorem canMode_of_running {s : State} {ch m : Nat} (hm : m ≠ 0) (hmode : (getCan s ch).mode ≠ 0) :
    canMode s ch m = setCan s ch { getCan s ch with mode := m, stopReq := false } :=
  (if_neg hm).trans (if_neg hmode)

theorem canMode_zero (s : State) (ch : Nat) : canMode s ch 0 = setCan s ch
    (if (getCan s ch).onBus.isSome then { getCan s ch with stopReq := true } else canStop (getCan s ch)) := rfl

/-- A write of the mode reaches an ungated controller, and the next frame is offered. -/
theorem exec_canMode {s : State} {ch : Fin 2} (m : Fin 4) {t : State} (hup : mainUp s = true)
    (hgate : gateOk s (9 + ch.val) = true) (h : canMode s ch m = t) : exec (.canMode ch m) s = .next (pickTx t ch) :=
  (congrArg Host.Outcome.next (onE_of_open _ hup hgate)).trans (congrArg (fun t => Host.Outcome.next (pickTx t ch)) h)

theorem execBusIntegration_of {s : State} {ch : Nat} (hmode : (getCan s ch).mode ≠ 0) (hsync : (getCan s ch).synced = false)
    (hruns : canRuns s ch = true) (hclock : canClocked s = true) :
    execBusIntegration ch s = .next (pickTx (if (getCan s ch).parked
      then setCan s ch { getCan s ch with synced := true, parked := false }
      else startHello (setCan s ch { getCan s ch with synced := true, parked := false }) ch) ch) :=
  if_pos (by simp [hmode, hsync, hruns, hclock])

/-- Settles O54: the fold over the buffers named changes each as its own step does, and the fold that offers a buffer
keeps the first in the order of identifier and number. -/
theorem canControl : Obligations.CanControl := by
  unfold Obligations.CanControl
  refine ⟨?_, ?_, ?_, ?_, ?_, ?_, ?_, ?_, ?_, ?_, ?_, ?_, ?_, ?_, ?_, ?_, ?_, ?_, ?_, ?_, ?_, ?_, ?_, ?_, ?_, ?_⟩
  · intro s ch m hup hgate hm hmode htim
    exact exec_canMode m hup hgate ((canMode_of_stopped (Fin.val_ne_of_ne hm) hmode).trans (if_pos htim))
  · intro s ch m hup hgate hm hmode htim
    exact exec_canMode m hup hgate
      ((canMode_of_stopped (Fin.val_ne_of_ne hm) hmode).trans (if_neg (ne_true_of_eq_false htim)))
  · intro s ch m hup hgate hm hmode
    exact exec_canMode m hup hgate (canMode_of_running (Fin.val_ne_of_ne hm) hmode)
  · intro s ch hup hgate hbus
    exact exec_canMode 0 hup hgate ((canMode_zero s ch).trans (congrArg _ (if_neg (by simp [hbus]))))
  · intro s ch hup hgate hbus
    exact exec_canMode 0 hup hgate ((canMode_zero s ch).trans (congrArg _ (if_pos hbus)))
  · intro s ch m hup hgate
    exact congrArg Host.Outcome.next (onE_of_open _ hup hgate)
  · intro d x m b hm hpend
    exact (getTx_txReq d x (mem_bitsOf_of_getLsbD hm)).trans (if_neg (ne_true_of_eq_false hpend))
  · intro d x m b h
    by_cases hb : b.val ∈ bitsOf 8 m.toNat
    · have hpend := h.resolve_left fun hm => not_mem_bitsOf_of_getLsbD hm hb
      exact (getTx_txReq d x hb).trans (if_pos hpend)
    · exact getTx_txReq_of_not_mem d x hb
  · intro s ch m hup hgate
    exact congrArg Host.Outcome.next (onE_of_open _ hup hgate)
  · intro x m b hm hpend hbus
    exact (getTx_txAbort x (mem_bitsOf_of_getLsbD hm)).trans ((if_neg (by simp [hpend])).trans (if_neg hbus))
  · intro s ch hup hgate hoff hauto
    exact congrArg Host.Outcome.next ((onE_of_open _ hup hgate).trans (congrArg _ (if_pos (by simp [hoff, hauto]))))
  · intro s ch hup hgate
    exact congrArg Host.Outcome.next (onE_of_open _ hup hgate)
  · intro s ch hmode hsync hruns hclock hparked
    exact (execBusIntegration_of hmode hsync hruns hclock).trans (congrArg (fun t => Host.Outcome.next (pickTx t ch)) (if_pos hparked))
  · intro s ch hmode hsync hruns hclock hparked
    exact (execBusIntegration_of hmode hsync hruns hclock).trans
      (congrArg (fun t => Host.Outcome.next (pickTx t ch)) (if_neg (ne_true_of_eq_false hparked)))
  · intro s ch m b hup
    have hdown (b addr : Nat) (f : State → State) : onE s b addr f = s := if_pos (by simp [hup])
    exact ⟨congrArg _ (hdown ..), congrArg _ (hdown ..), congrArg _ (hdown ..), congrArg _ (hdown ..), congrArg _ (hdown ..)⟩
  · intro x m b hm hpend hbus
    exact (getTx_txAbort x (mem_bitsOf_of_getLsbD hm)).trans ((if_neg (by simp [hpend])).trans (if_pos hbus))
  · intro x m b h
    by_cases hb : b.val ∈ bitsOf 8 m.toNat
    · have hpend := h.resolve_left fun hm => not_mem_bitsOf_of_getLsbD hm hb
      exact (getTx_txAbort x hb).trans (if_pos (by simp [hpend]))
    · exact getTx_txAbort_of_not_mem x hb
  · intro s ch hup hgate h
    have hnot : ¬ ((decide ((getCan s ch).state = 2) && !(getCan s ch).borAuto) = true) := by
      rcases h with h | h <;> simp [h]
    exact congrArg Host.Outcome.next ((onE_of_open _ hup hgate).trans (congrArg _ (if_neg hnot)))
  · intro s ch m b hup hgate
    have hgated (addr : Nat) (f : State → State) : onE s (9 + ch.val) addr f = refuseAcc s (fwAcc addr) 9 0 :=
      onE_of_gated f hup hgate
    exact ⟨congrArg _ (hgated ..), congrArg _ (hgated ..), congrArg _ (hgated ..), congrArg _ (hgated ..),
      congrArg _ (hgated ..)⟩
  · intro s ch h
    refine if_neg ?_
    rcases h with h | h | h | h <;> simp [h]
  · exact fun _ => rfl
  · intro s ch
    exact if_congr List.isEmpty_iff rfl rfl
  · exact fun s ch b => pickTx_of_offered
  · exact fun s ch => pickTx_of_not
  · intro d x b h
    exact (mem_offerable.1 (offered_some h).1).2
  · intro d x b k h hpend hlate
    exact (offered_some h).2 k (mem_offerable.2 ⟨k.isLt, hpend, hlate⟩)

end Sys2Proof.Machine
end

section
/-! Frames on the CAN controllers: reception, ends of attempts, the error counters and bus-off (11 R267 to R274). -/
namespace Sys2Proof.Machine

set_option Elab.async false

@[simp] theorem setCan_setCan_same (s : State) (ch : Nat) (c d : CanCh) : setCan (setCan s ch c) ch d = setCan s ch d := by
  unfold setCan
  split <;> rfl

@[simp] theorem setCan_getCan (s : State) (ch : Nat) : setCan s ch (getCan s ch) = s := by
  unfold setCan getCan
  split <;> rfl

theorem voeRuns_setCan (s : State) (ch : Nat) (c : CanCh) : voeRuns (setCan s ch c) ch = voeRuns s ch := by
  unfold setCan
  split <;> rfl

/-! ### Reception -/

theorem rxFilter_of_not {s : State} {ch : Nat} {e : RxEnt}
    (h : (e.frame.fd && e.frame.ext && fltMatches (getCan s ch) e.frame.id) = false) :
    rxFilter s ch e = setCan s ch { getCan s ch with disc := satInc 0xFFFF (getCan s ch).disc } :=
  if_neg (ne_true_of_eq_false h)

/-- With no frame held back there is nothing to deliver. -/
theorem canFlush_of_nil {s : State} {ch : Nat} (h : s.flt.canHeld = []) : canFlush s ch = s := by
  have hflt : s.setFlt { s.flt with canHeld := [] } = s := by rw [← h]; rfl
  simp only [canFlush, h, List.filter_nil, List.foldl_nil, onCan, hflt, setCan_getCan]

theorem setCan_flt (s : State) (ch : Nat) (c : CanCh) : (setCan s ch c).flt = s.flt := by
  unfold setCan
  split <;> rfl

theorem rxFilter_of_match {s : State} {ch : Nat} {e : RxEnt} (hfd : e.frame.fd = true) (hext : e.frame.ext = true)
    (hmatch : fltMatches (getCan s ch) e.frame.id = true) (hflt : fltActiveCan s ch = false) (hheld : s.flt.canHeld = []) :
    rxFilter s ch e = setCan s ch (rxPush (getCan s ch) e) := by
  refine (if_pos (by simp [hfd, hext, hmatch])).trans ((if_pos (by simp [hflt])).trans ?_)
  exact canFlush_of_nil ((congrArg Flt.canHeld (setCan_flt ..)).trans hheld)

theorem recGood_of_low {s : State} {ch : Nat} (h : (getCan s ch).recv ≤ 127) :
    recGood s ch = setCan s ch (canState { getCan s ch with recv := (getCan s ch).recv - 1 }) :=
  if_neg (Nat.not_lt.2 h)

theorem canState_recv (c : CanCh) : (canState c).recv = c.recv := by
  unfold canState
  split <;> rfl

theorem recv_recGood_of_high {s : State} {ch : Nat} (h : 127 < (getCan s ch).recv) :
    (getCan (recGood s ch) ch).recv = 119 + byteAt (freeBytes s 1).1 0 % 9 := by
  rw [recGood, if_pos h]
  exact (congrArg CanCh.recv (getCan_setCan_same ..)).trans (canState_recv _)

/-- The controller takes part as a receiver. -/
def Receives (s : State) (ch : Nat) : Prop :=
  ((getCan s ch).mode ≠ 0 && (getCan s ch).mode ≠ 3 && (getCan s ch).synced && (getCan s ch).state ≠ 2 && canRuns s ch) = true

theorem receives_of {s : State} {ch : Nat} (hmode : (getCan s ch).mode ≠ 0) (hloop : (getCan s ch).mode ≠ 3)
    (hsync : (getCan s ch).synced = true) (hstate : (getCan s ch).state ≠ 2) (hruns : canRuns s ch = true) :
    Receives s ch := by
  simp [Receives, hmode, hloop, hsync, hstate, hruns]

theorem not_receives {s : State} {ch : Nat} (h : (getCan s ch).mode = 0 ∨ (getCan s ch).mode = 3
    ∨ (getCan s ch).synced = false ∨ (getCan s ch).state = 2 ∨ canRuns s ch = false) : ¬ Receives s ch := by
  rcases h with h | h | h | h | h <;> simp [Receives, h]

/-- What a received frame does once an own attempt on the bus has been dealt with. -/
def received (s : State) (ch : Nat) (f : CanFrame) (sof : Stamp) : State :=
  let t := rxConflict (recGood (setCan s ch { getCan s ch with alone := false }) ch) ch f
  let u := canIrq (rxFilter t ch ⟨f, sof⟩) ch
  frameOver (if rxWakes u ch f then wakeTrigger u 7 else u) ch

/-- The stamp of a start-of-frame edge rests on the tick, the count and the period. -/
theorem sameBut.stampBefore_eq {l : List Part} {s t : State} (n : Nat) (h : sameBut l s t)
    (hp : Part.glb ∉ l := by decide) : stampBefore t n = stampBefore s n := by
  rw [stampBefore, stampBefore, ticksN, ticksN, h.sub_eq hp, h.tick_eq hp, h.period_eq hp]

/-- Neither the error counters nor an address conflict move the tick. -/
theorem stampBefore_rxConflict (s : State) (ch : Nat) (c : CanCh) (f : CanFrame) (n : Nat) :
    stampBefore (rxConflict (recGood (setCan s ch c) ch) ch f) n = stampBefore s n :=
  (sb_rxConflict (pl := [.can0, .can1, .free, .events, .evr])
    (sb_recGood (sb_setCan (sameBut_refl _ s) rfl) rfl) rfl).stampBefore_eq n

/-! ### Ends of attempts -/

/-- The attempt of buffer b has ended: its frame is stamped and the bus is free. -/
def attemptEnded (s : State) (ch b n : Nat) : State :=
  setCan s ch { putTx (getCan s ch) b { getTx (getCan s ch) b with stamp := stampBefore s n } with onBus := none }

theorem txStamp_of_none {s : State} {ch : Nat} (n : Nat) (h : (getCan s ch).onBus = none) : txStamp s ch n = s := by
  unfold txStamp
  rw [h]

theorem txStamp_of_some {s : State} {ch b : Nat} (n : Nat) (h : (getCan s ch).onBus = some b) :
    txStamp s ch n = setCan s ch (putTx (getCan s ch) b { getTx (getCan s ch) b with stamp := stampBefore s n }) := by
  unfold txStamp
  rw [h]
  rfl

theorem txStamp_onBus_none {s : State} {ch b : Nat} (n : Nat) (h : (getCan s ch).onBus = some b) :
    onCan (txStamp s ch n) ch (fun c => { c with onBus := none }) = attemptEnded s ch b n := by
  rw [txStamp_of_some n h, onCan, getCan_setCan_same, setCan_setCan_same, attemptEnded]

theorem lostAttempt_of_none {s : State} {ch : Nat} (h : (getCan s ch).onBus = none) : lostAttempt s ch = s := by
  unfold lostAttempt
  rw [h]

theorem lostAttempt_txStamp {s : State} {ch b : Nat} (n : Nat) (h : (getCan s ch).onBus = some b) :
    lostAttempt (txStamp s ch n) ch = txLost (attemptEnded s ch b n) ch b := by
  have hbus : (getCan (txStamp s ch n) ch).onBus = some b := by
    rw [txStamp_of_some n h, getCan_setCan_same]
    exact h
  rw [← txStamp_onBus_none n h]
  unfold lostAttempt
  rw [hbus]

theorem exec_frameReceived {s : State} {ch : Fin 2} (f : CanFrame) (n : Nat) {t : State} (h : Receives s ch.val)
    (hlost : lostAttempt (txStamp s ch n) ch = t) :
    exec (.frameReceived ch f n) s = .next (received t ch f (stampBefore t n)) := by
  subst hlost
  refine (if_pos h).trans (congrArg (fun a => Host.Outcome.next (frameOver
    (let u := canIrq (rxFilter _ ch ⟨f, a⟩) ch; if rxWakes u ch f then wakeTrigger u 7 else u) ch)) ?_)
  exact stampBefore_rxConflict ..

theorem stampBefore_attemptEnded_lost (s : State) (ch b n : Nat) :
    stampBefore (txLost (attemptEnded s ch b n) ch b) n = stampBefore s n :=
  (sb_txLost (pl := [.can0, .can1]) (sb_setCan (sameBut_refl _ s) rfl) rfl).stampBefore_eq n

/-- What the end of an attempt does with the state in which its frame is stamped and off the bus (R270 to R274). -/
def attemptResult (u : State) (ch b : Nat) : TxEnd → State
  | .ok => canIrq (txOk u ch b) ch
  | .noAck => txFailed (txNoAck u ch) ch b false
  | .error n => txFailed (tecUp u ch n) ch b true
  | .lost => txLost u ch b

theorem execFrameTxEnd_of_some {s : State} {ch b : Nat} (e : TxEnd) (n : Nat) (h : (getCan s ch).onBus = some b) :
    execFrameTxEnd ch e n s = .next (frameOver (attemptResult (attemptEnded s ch b n) ch b e) ch) := by
  rw [← txStamp_onBus_none n h]
  simp only [execFrameTxEnd, h]
  cases e <;> rfl

theorem execFrameTxEnd_of_none {s : State} {ch : Nat} (e : TxEnd) (n : Nat) (h : (getCan s ch).onBus = none) :
    execFrameTxEnd ch e n s = .next s := by
  simp only [execFrameTxEnd, h]

theorem txLost_eq (s : State) (ch b : Nat) : txLost s ch b = setCan s ch (if (getTx (getCan s ch) b).abortReq
    then putTx (getCan s ch) b { getTx (getCan s ch) b with pend := false, aborted := true, abortReq := false }
    else getCan s ch) := rfl

/-- A frame of another KIND than DATA tells the secure firmware nothing. -/
theorem voeSent_of_kind {s : State} {ch : Nat} {x : TxBuf} (h : idKind x.frame.id ≠ 0) : voeSent s ch x = s :=
  if_pos h

/-! ### Failed attempts -/

section
variable {s : State} {ch b : Nat} (o : Bool)

/-- A buffer after one more attempt that failed (R274). -/
def failedOnce (x : TxBuf) (o : Bool) : TxBuf := { x with tries := x.tries + 1, otherErr := x.otherErr || o }

theorem txLimit_failedOnce (c : CanCh) (x : TxBuf) : txLimit c (failedOnce x o) = txLimit c { x with tries := x.tries + 1 } :=
  rfl

theorem txFailed_of_limit_other
    (hlim : txLimit (getCan s ch) { getTx (getCan s ch) b with tries := (getTx (getCan s ch) b).tries + 1 } = true)
    (herr : ((getTx (getCan s ch) b).otherErr || o) = true) :
    txFailed s ch b o = setCan s ch (putTx (getCan s ch) b
      { failedOnce (getTx (getCan s ch) b) o with pend := false, aborted := true, abortReq := false }) :=
  (if_pos hlim).trans (if_pos herr)

theorem txFailed_of_limit_noAck
    (hlim : txLimit (getCan s ch) { getTx (getCan s ch) b with tries := (getTx (getCan s ch) b).tries + 1 } = true)
    (herr : ((getTx (getCan s ch) b).otherErr || o) = false) :
    txFailed s ch b o = voeNoAck (setCan s ch { putTx (getCan s ch) b { failedOnce (getTx (getCan s ch) b) o with
      pend := false, noAck := true, abortReq := false } with alone := true }) ch (getTx (getCan s ch) b).frame :=
  (if_pos hlim).trans (if_neg (ne_true_of_eq_false herr))

theorem txFailed_of_below
    (hlim : txLimit (getCan s ch) { getTx (getCan s ch) b with tries := (getTx (getCan s ch) b).tries + 1 } = false) :
    txFailed s ch b o = if (getTx (getCan s ch) b).abortReq
      then setCan s ch (putTx (getCan s ch) b
        { failedOnce (getTx (getCan s ch) b) o with pend := false, aborted := true, abortReq := false })
      else setCan s ch (putTx (getCan s ch) b (failedOnce (getTx (getCan s ch) b) o)) :=
  if_neg (ne_true_of_eq_false hlim)
end

/-- Settles O55: each clause is one branch of the reception or of the end of an attempt, read on the controller alone. -/
theorem canFrames : Obligations.CanFrames := by
  unfold Obligations.CanFrames
  refine ⟨?_, ?_, ?_, ?_, ?_, ?_, ?_, ?_, ?_, ?_, ?_, ?_, ?_, ?_, ?_, ?_, ?_, ?_, ?_, ?_, ?_, ?_, ?_, ?_, ?_, ?_, ?_, ?_,
    ?_, ?_, ?_, ?_, ?_, ?_, ?_⟩
  · intro s ch f n c hc hmode hloop hsync hstate hruns hbus
    subst hc
    exact exec_frameReceived f n (receives_of hmode hloop hsync hstate hruns)
      ((lostAttempt_of_none ((congrArg (fun t => (getCan t ch).onBus) (txStamp_of_none n hbus)).trans hbus)).trans
        (txStamp_of_none n hbus))
  · exact fun x e h => if_pos h
  · intro x e h
    have hpush : rxPush x e = { x with rxovf := true, rxlost := satInc 0xFFFF x.rxlost } := if_neg (Nat.not_lt.2 h)
    rw [hpush]
    exact ⟨rfl, rfl, rfl⟩
  · exact fun s ch e => rxFilter_of_match
  · exact fun s ch e => rxFilter_of_not
  · exact fun s ch => recGood_of_low
  · intro s ch h
    rw [recv_recGood_of_high h]
    omega
  · intro s ch b n hbus
    exact execFrameTxEnd_of_some .ok n hbus
  · intro s ch b n hbus
    exact execFrameTxEnd_of_some .noAck n hbus
  · intro s ch b n k hbus
    exact execFrameTxEnd_of_some (.error k) n hbus
  · intro s ch b n hbus
    exact execFrameTxEnd_of_some .lost n hbus
  · intro s ch b x hx hkind hmode
    subst hx
    exact (voeSent_of_kind hkind).trans (if_neg hmode)
  · intro s ch b habort
    exact congrArg (setCan s ch) (if_neg (ne_true_of_eq_false habort))
  · intro s ch b hlim
    refine (txFailed_of_limit_other true hlim (Bool.or_true _)).trans ?_
    simp only [failedOnce, Bool.or_true]
  · exact fun s ch h => if_pos h
  · exact fun s ch h => if_neg h
  · exact fun s ch n h => if_neg (Nat.not_lt.2 h)
  · exact fun s ch n h => if_pos h
  · intro x h
    refine (if_neg h).trans ?_
    simp only [Bool.or_eq_true, decide_eq_true_eq]
  · exact fun _ _ => rfl
  · intro s ch b hlim herr
    refine (txFailed_of_limit_noAck false hlim (by simp [herr])).trans ?_
    simp only [failedOnce, Bool.or_false]
  · intro s ch hstate hrun hruns hmode hparked
    exact if_pos (by simp [hstate, hrun, hruns, hmode, hparked])
  · intro s ch n c hc hmode hloop hsync hstate hruns
    subst hc
    exact if_pos (receives_of hmode hloop hsync hstate hruns)
  · intro s ch f n b c hc hmode hloop hsync hstate hruns hbus
    subst hc
    refine (exec_frameReceived f n (receives_of hmode hloop hsync hstate hruns) (lostAttempt_txStamp n hbus)).trans ?_
    rw [stampBefore_attemptEnded_lost]
    rfl
  · intro s ch f n h
    exact ⟨if_neg (not_receives h), if_neg (not_receives h)⟩
  · exact fun s ch e n h => execFrameTxEnd_of_none e n h
  · intro s ch h
    refine if_neg ?_
    rcases h with h | h | h | h | h <;> simp [h]
  · intro s ch b habort
    exact congrArg (setCan s ch) (if_pos habort)
  · intro s ch b o hlim habort
    exact (txFailed_of_below o hlim).trans (if_neg (ne_true_of_eq_false habort))
  · intro s ch b o hlim habort
    exact (txFailed_of_below o hlim).trans (if_pos habort)
  · intro s ch b hlim herr
    refine (txFailed_of_limit_other false hlim (by simp [herr])).trans ?_
    simp only [failedOnce, Bool.or_false]
  · intro s ch hruns
    exact congrArg (pickTx · ch.val) (if_pos ((voeRuns_setCan ..).trans hruns))
  · intro s ch hruns
    exact congrArg (pickTx · ch.val) (if_neg (ne_true_of_eq_false ((voeRuns_setCan ..).trans hruns)))
  · exact fun s n h => if_pos h
  · intro s ch b x hx hkind hmode
    subst hx
    exact (voeSent_of_kind hkind).trans (if_pos hmode)

end Sys2Proof.Machine
end

section
/-! Voeth frames: what is taken from the FIFO, DATA in its order, ACK, HELLO and the time-outs (11 R275 to R282). -/
namespace Sys2Proof.Machine

set_option Elab.async false

/-! ### Peers -/

@[simp] theorem getPeer_setPeer_same (s : State) (ch node : Nat) (p : Peer) : getPeer (setPeer s ch node p) ch node = p :=
  tget_tput_same ..

theorem fin_eq_zero_or_one (ch : Fin 2) : ch.val = 0 ∨ ch.val = 1 := by omega

/-! ### What Voeth takes from the FIFO -/

theorem voeFor_eq_false {s : State} {ch : Nat} {f : CanFrame}
    (h : 3 ≤ idKind f.id ∨ 5 ≤ idPri f.id ∨ (idDst f.id ≠ ownNode s ch ∧ idDst f.id ≠ 0xFF)) : voeFor s ch f = false := by
  rcases h with h | h | ⟨hown, hall⟩
  · simp [voeFor, Nat.not_lt.2 h]
  · simp [voeFor, Nat.not_lt.2 h]
  · simp [voeFor, hown, hall]

/-- The FIFO of a controller has no part in what a frame is for. -/
theorem voeFor_setCan_fifo (s : State) (ch : Nat) (l : List RxEnt) (f : CanFrame) :
    voeFor (setCan s ch { getCan s ch with fifo := l }) ch f = voeFor s ch f := by
  unfold setCan getCan
  split <;> rfl

theorem voeTrim_eq {s : State} {ch : Nat} {l : List RxEnt}
    (h : (getCan s ch).fifo.dropWhile (fun e => !voeFor s ch e.frame) = l) :
    voeTrim s ch = setCan s ch { getCan s ch with fifo := l } :=
  congrArg (fun l => setCan s ch { getCan s ch with fifo := l }) h

/-- With nothing to discard at the head, the FIFO stands. -/
theorem voeTrim_of_head {s : State} {ch : Nat}
    (h : (getCan s ch).fifo.dropWhile (fun e => !voeFor s ch e.frame) = (getCan s ch).fifo) : voeTrim s ch = s :=
  (voeTrim_eq h).trans (setCan_getCan s ch)

section
variable {s : State} {ch k : Nat} {e : RxEnt} {l : List RxEnt} (hruns : voeRuns s ch = true)
include hruns

/-- What is taken from a FIFO from whose head nothing is discarded. -/
theorem voeTake_of_trimmed (h : voeTrim s ch = s) : voeTake s ch k = match (getCan s ch).fifo with
    | e :: t => if idKind e.frame.id = k then (some e, canIrq (setCan s ch { getCan s ch with fifo := t }) ch)
      else (none, canIrq s ch)
    | [] => (none, canIrq s ch) := by
  unfold voeTake
  refine (if_neg (by simp [hruns])).trans ?_
  simp only [h] <;> cases (getCan s ch).fifo <;> rfl

theorem voeTake_of_nil (hfifo : (getCan s ch).fifo = []) : voeTake s ch k = (none, canIrq s ch) := by
  rw [voeTake_of_trimmed hruns (voeTrim_of_head (by rw [hfifo]; rfl)), hfifo]

theorem voeTake_of_head (hfifo : (getCan s ch).fifo = e :: l) (hfor : voeFor s ch e.frame = true) :
    voeTake s ch k = if idKind e.frame.id = k then (some e, canIrq (setCan s ch { getCan s ch with fifo := l }) ch)
      else (none, canIrq s ch) := by
  rw [voeTake_of_trimmed hruns (voeTrim_of_head (by simp [hfifo, hfor])), hfifo]

/-- A frame that is not for Voeth goes from the head, whatever is asked for. -/
theorem voeTake_of_discarded (hfifo : (getCan s ch).fifo = e :: l) (hfor : voeFor s ch e.frame = false) :
    voeTake s ch k = voeTake (setCan s ch { getCan s ch with fifo := l }) ch k := by
  have htrim : voeTrim s ch = voeTrim (setCan s ch { getCan s ch with fifo := l }) ch := by
    rw [voeTrim_eq (l := l.dropWhile fun e => !voeFor s ch e.frame) (by simp [hfifo, hfor]), voeTrim]
    simp only [getCan_setCan_same, setCan_setCan_same, voeFor_setCan_fifo]
  have hon : ¬ ((!voeRuns s ch) = true) := by simp [hruns]
  unfold voeTake
  rw [htrim, voeRuns_setCan, if_neg hon, if_neg hon]
end

theorem voeTake_of_not_runs {s : State} {ch k : Nat} (h : voeRuns s ch = false) : voeTake s ch k = (none, s) :=
  if_pos (by simp [h])

/-! ### DATA -/

/-- What a DATA frame taken from the FIFO does (R278, R282). -/
def dataTaken (t : State) (ch : Nat) (e : RxEnt) : State :=
  let src := idSrc e.frame.id
  let k := (leAt e.frame.data 0 2 + 65536 - (getPeer t ch src).exp) % 65536
  if idDst e.frame.id = 0xFF then t
  else if ch = 1 && !tagOk t (session t) e.frame then voeBad t ch true
  else if !(getPeer t ch src).gotHello then voeBad t ch false
  else if k = 0 then dataAccept t ch src e
  else if 65504 ≤ k ∨ k ≤ 7 then setPeer t ch src { getPeer t ch src with ackDue := true }
  else voeBad t ch false

theorem execVoethData_of_some {s t : State} {ch : Nat} {e : RxEnt} (h : voeTake s ch 0 = (some e, t)) :
    execVoethData ch s = .next (dataTaken t ch e) := by
  simp only [execVoethData, h, dataTaken]
  repeat' split
  all_goals rfl

theorem execVoethData_of_none {s t : State} {ch : Nat} (h : voeTake s ch 0 = (none, t)) : execVoethData ch s = .next t := by
  simp only [execVoethData, h]

section
variable {t : State} {ch : Fin 2} {e : RxEnt} (hdst : idDst e.frame.id ≠ 0xFF)
include hdst

/-- A frame for this node whose tag holds, where one is asked for. -/
theorem dataTaken_of_tag (htag : ch = 0 ∨ tagOk t (session t) e.frame = true) :
    dataTaken t ch e = if !(getPeer t ch (idSrc e.frame.id)).gotHello then voeBad t ch false
      else if (leAt e.frame.data 0 2 + 65536 - (getPeer t ch (idSrc e.frame.id)).exp) % 65536 = 0
        then dataAccept t ch (idSrc e.frame.id) e
      else if 65504 ≤ (leAt e.frame.data 0 2 + 65536 - (getPeer t ch (idSrc e.frame.id)).exp) % 65536
          ∨ (leAt e.frame.data 0 2 + 65536 - (getPeer t ch (idSrc e.frame.id)).exp) % 65536 ≤ 7
        then setPeer t ch (idSrc e.frame.id) { getPeer t ch (idSrc e.frame.id) with ackDue := true }
      else voeBad t ch false := by
  refine (if_neg hdst).trans (if_neg ?_)
  rcases htag with rfl | h
  · simp
  · simp [h]

theorem dataTaken_of_bad_tag (htag : tagOk t (session t) e.frame = false) : dataTaken t 1 e = voeBad t 1 true :=
  (if_neg hdst).trans (if_pos (by simp [htag]))
end

section
variable (s : State) (ch src : Nat) (e : RxEnt)

/-- The payload of a DATA frame (R276, R282). -/
def dataPay (ch : Nat) (d : Bytes) : Bytes := if ch = 1 then (d.drop 8).take (d.length - 24) else d.drop 8

/-- The peer after a DATA frame in order. -/
def peerAdvanced (p : Peer) (part : Option (Nat × Nat × Nat × Bytes)) : Peer :=
  { p with exp := (p.exp + 1) % 65536, ackDue := true, part := part }

theorem getPeer_dataAccept : ∃ part, getPeer (dataAccept s ch src e) ch src = peerAdvanced (getPeer s ch src) part := by
  refine ⟨(assemble (getPeer s ch src).part (byteAt e.frame.data 2) (leAt e.frame.data 4 2) (leAt e.frame.data 6 2)
    (dataPay ch e.frame.data)).2, ?_⟩
  simp only [dataAccept]
  split <;> exact getPeer_setPeer_same ..

theorem assemble_single (part : Option (Nat × Nat × Nat × Bytes)) (typ : Nat) (pay : Bytes) :
    assemble part typ 0 1 pay = (some (typ, pay), none) := rfl

theorem inbox_dataAccept_of_single (hfrag : leAt e.frame.data 4 2 = 0) (hn : leAt e.frame.data 6 2 = 1) :
    (dataAccept s ch src e).voe.inbox
      = s.voe.inbox ++ [⟨ch, src, byteAt e.frame.data 2, dataPay ch e.frame.data, e.stamp⟩] := by
  simp only [dataAccept, hfrag, hn, assemble_single]
  rfl
end

/-! ### ACK -/

/-- The unacknowledged frames that NEXT leaves. -/
def unackedFrom (next : Nat) (l : List (Nat × Bytes)) : List (Nat × Bytes) :=
  l.filter fun u => (next + 65536 - u.1) % 65536 = 0 || 32768 ≤ (next + 65536 - u.1) % 65536

theorem execVoethAck_of_none {s t : State} {ch : Nat} (h : voeTake s ch 1 = (none, t)) : execVoethAck ch s = .next t := by
  simp only [execVoethAck, h]

theorem execVoethAck_of_some {s t u : State} {ch : Nat} {e : RxEnt} {p : Peer} (h : voeTake s ch 1 = (some e, t))
    (hu : ackHello t ch (idSrc e.frame.id) (leAt e.frame.data 0 2) = u) (hp : getPeer u ch (idSrc e.frame.id) = p) :
    execVoethAck ch s = if (unackedFrom (leAt e.frame.data 0 2) p.unacked).length < p.unacked.length
      then .next (flushPeer (setPeer u ch (idSrc e.frame.id) { p with
        unacked := unackedFrom (leAt e.frame.data 0 2) p.unacked, rounds := 0, rto := 0 }) (idSrc e.frame.id) p.queue.length)
      else .next u := by
  subst hp hu
  simp only [execVoethAck, h]
  rfl

theorem ackHello_of_own {s : State} {ch src next : Nat} (hacked : (getPeer s ch src).ownAcked = false)
    (hnonce : (getPeer s ch src).ownNonce ≠ []) (hnext : (getPeer s ch src).ownStart = next) :
    ackHello s ch src next = openCheck (setPeer s ch src { getPeer s ch src with ownAcked := true }) ch src :=
  if_pos (by simp [hacked, hnonce, hnext])

theorem ackHello_of_broadcast {s : State} {src next : Nat} (hacked : (getPeer s 0 src).ownAcked = false)
    (hnone : (getPeer s 0 src).ownNonce = []) (hnonce : (getPeer s 0 0xFF).ownNonce ≠ [])
    (hnext : next = (getPeer s 0 0xFF).ownStart) :
    ackHello s 0 src next = openCheck (setPeer s 0 src { getPeer s 0 src with
      ownAcked := true, ownNonce := (getPeer s 0 0xFF).ownNonce, ownStart := (getPeer s 0 0xFF).ownStart }) 0 src :=
  (if_neg (by simp [hnone])).trans (if_pos (by simp [hacked, hnone, hnonce, hnext]))

theorem ackHello_of_other {s : State} {ch src next : Nat} (h : (getPeer s ch src).ownAcked = true
    ∨ ((getPeer s ch src).ownNonce ≠ [] ∧ next ≠ (getPeer s ch src).ownStart)
    ∨ ((getPeer s ch src).ownNonce = [] ∧ (ch ≠ 0 ∨ (getPeer s 0 0xFF).ownNonce = [] ∨ next ≠ (getPeer s 0 0xFF).ownStart))) :
    ackHello s ch src next = s := by
  rcases h with h | ⟨hnonce, hnext⟩ | ⟨hnone, hb⟩
  · exact (if_neg (by simp [h])).trans (if_neg (by simp [h]))
  · exact (if_neg (by simp [hnext])).trans (if_neg (by simp [hnonce]))
  · refine (if_neg (by simp [hnone])).trans (if_neg ?_)
    by_cases hch : ch = 0
    · subst hch
      rcases hb with hb | hb | hb <;> simp_all
    · simp [hch]

theorem openCheck_of_crossed {s : State} {ch node : Nat} (hgot : (getPeer s ch node).gotHello = true)
    (hacked : (getPeer s ch node).ownAcked = true) (hopen : (getPeer s ch node).isOpen = false) :
    openCheck s ch node = sessionOpen s ch node :=
  if_pos (by simp [hgot, hacked, hopen])

theorem openCheck_of_not {s : State} {ch node : Nat} (h : (getPeer s ch node).gotHello = false
    ∨ (getPeer s ch node).ownAcked = false ∨ (getPeer s ch node).isOpen = true) : openCheck s ch node = s := by
  refine if_neg ?_
  rcases h with h | h | h <;> simp [h]

/-! ### HELLO -/

/-- An own HELLO answers one received (R280). -/
def helloAgain (t : State) (ch : Nat) (p : Peer) : Bool :=
  p.isOpen || p.lost || (p.ownNonce.isEmpty && (ch = 1 || (getPeer t 0 0xFF).ownNonce.isEmpty))

/-- The peer known by its HELLO. -/
def greet (v : State) (ch : Nat) (e : RxEnt) : State :=
  setPeer v ch (idSrc e.frame.id) { getPeer v ch (idSrc e.frame.id) with
    gotHello := true, lost := false, exp := leAt e.frame.data 0 2, peerNonce := slice e.frame.data 4 8, part := none }

theorem execHello_of_none {s t : State} {ch : Nat} (h : voeTake s ch 2 = (none, t)) : execHello ch s = .next t := by
  simp only [execHello, h]

theorem execHello_of_bad_tag {s t : State} {e : RxEnt} (h : voeTake s 1 2 = (some e, t))
    (htag : tagOk t (List.replicate 16 0) e.frame = false) : execHello 1 s = .next (voeBad t 1 true) := by
  simp only [execHello, h]
  exact if_pos (by rw [htag]; rfl)

/-- A session that the HELLO finds open ends; the HELLO is acknowledged. -/
def helloAcked (t : State) (ch : Nat) (e : RxEnt) : State :=
  sendAck (greet (if (getPeer t ch (idSrc e.frame.id)).isOpen then sessionEnd t ch (idSrc e.frame.id) else t) ch e)
    ch (idSrc e.frame.id)

theorem execHello_of_some {s t : State} {ch : Fin 2} {e : RxEnt} (h : voeTake s ch 2 = (some e, t))
    (htag : ch = 0 ∨ tagOk t (List.replicate 16 0) e.frame = true) :
    execHello ch s = .next (openCheck (if helloAgain t ch (getPeer t ch (idSrc e.frame.id))
      then sendHello (helloAcked t ch e) ch (idSrc e.frame.id) else helloAcked t ch e) ch (idSrc e.frame.id)) := by
  simp only [execHello, h]
  refine (if_neg ?_).trans rfl
  rcases htag with rfl | h
  · simp
  · rw [h]
    simp

theorem helloAcked_of_open {t : State} {ch : Nat} {e : RxEnt} (h : (getPeer t ch (idSrc e.frame.id)).isOpen = true) :
    helloAcked t ch e = sendAck (greet (sessionEnd t ch (idSrc e.frame.id)) ch e) ch (idSrc e.frame.id) :=
  congrArg (fun v => sendAck (greet v ch e) ch (idSrc e.frame.id)) (if_pos h)

theorem helloAcked_of_closed {t : State} {ch : Nat} {e : RxEnt} (h : (getPeer t ch (idSrc e.frame.id)).isOpen = false) :
    helloAcked t ch e = sendAck (greet t ch e) ch (idSrc e.frame.id) :=
  congrArg (fun v => sendAck (greet v ch e) ch (idSrc e.frame.id)) (if_neg (ne_true_of_eq_false h))

section
variable {t : State} {ch : Nat} {p : Peer}

theorem helloAgain_of_open (h : p.isOpen = true) : helloAgain t ch p = true := by simp [helloAgain, h]

theorem helloAgain_of_lost_or_none (h : p.lost = true ∨ (p.ownNonce = [] ∧ (ch = 1 ∨ (getPeer t 0 0xFF).ownNonce = []))) :
    helloAgain t ch p = true := by
  rcases h with h | ⟨hnone, h | h⟩ <;> simp [helloAgain, *]

theorem helloAgain_eq_false (hopen : p.isOpen = false) (hlost : p.lost = false)
    (h : p.ownNonce ≠ [] ∨ (ch ≠ 1 ∧ (getPeer t 0 0xFF).ownNonce ≠ [])) : helloAgain t ch p = false := by
  rcases h with h | ⟨hch, h⟩ <;> simp [helloAgain, *]
end

/-! ### Time-outs -/

theorem execVoeRto_of_not {s : State} {ch : Nat} {n : Byte} (h : voeRuns s ch = false ∨ linkIdle s ch = true
    ∨ (getPeer s ch n.toNat).isOpen = false ∨ (getPeer s ch n.toNat).unacked = [] ∨ (getPeer s ch n.toNat).rto < rtoTicks s) :
    execVoeRto ch n s = .next s := by
  refine if_pos ?_
  rcases h with h | h | h | h | h <;> simp [h]

theorem execVoeRto_of_due {s : State} {ch : Nat} {n : Byte} (hruns : voeRuns s ch = true) (hidle : linkIdle s ch = false)
    (hopen : (getPeer s ch n.toNat).isOpen = true) (hun : (getPeer s ch n.toNat).unacked ≠ [])
    (hrto : rtoTicks s ≤ (getPeer s ch n.toNat).rto) :
    execVoeRto ch n s = if 5 ≤ (getPeer s ch n.toNat).rounds then .next (peerLost s ch n.toNat)
      else .next (resend (setPeer s ch n.toNat { getPeer s ch n.toNat with
        rounds := (getPeer s ch n.toNat).rounds + 1, rto := 0 }) ch n.toNat) :=
  if_neg (by simp [hruns, hidle, hopen, hun, hrto])

theorem linkIdle_one (s : State) : linkIdle s 1 = true ↔ mirrorKey s 4 = none ∨ mirrorKey s 5 = none := by
  cases h4 : mirrorKey s 4 <;> cases h5 : mirrorKey s 5 <;> simp [linkIdle, mirrorUp, h4, h5]

/-- Settles O56: what is taken from the FIFO rests on its head, and each row then is one branch on the peer's state. -/
theorem voethFrames : Obligations.VoethFrames := by
  unfold Obligations.VoethFrames
  refine ⟨?_, ?_, ?_, ?_, ?_, ?_, ?_, ?_, ?_, ?_, ?_, ?_, ?_, ?_, ?_, ?_, ?_, ?_, ?_, ?_, ?_, ?_, ?_, ?_, ?_, ?_, ?_, ?_,
    ?_, ?_, ?_, ?_, ?_, ?_, ?_, ?_, ?_, ?_, ?_⟩
  · intro s ch e l hruns hfifo hfor
    exact (voeTake_of_head hruns hfifo hfor).trans (if_pos rfl)
  · exact fun s ch f => voeFor_eq_false
  · intro s t ch e p htake hp hdst htag hgot hk
    subst hp
    refine (execVoethData_of_some htake).trans (congrArg Host.Outcome.next ?_)
    exact (dataTaken_of_tag hdst htag).trans ((if_neg (by simp [hgot])).trans (if_pos hk))
  · intro s t ch e p htake hp hdst htag hgot hk
    subst hp
    refine (execVoethData_of_some htake).trans (congrArg Host.Outcome.next ?_)
    refine (dataTaken_of_tag hdst htag).trans ((if_neg (by simp [hgot])).trans ((if_neg ?_).trans (if_pos ?_)))
    · omega
    · exact hk.imp id (·.2)
  · intro s t ch e p htake hp hdst htag hbad
    subst hp
    refine (execVoethData_of_some htake).trans (congrArg Host.Outcome.next ((dataTaken_of_tag hdst htag).trans ?_))
    split
    · rfl
    · next hgot =>
      have hk := hbad.resolve_left (by simpa using hgot)
      exact (if_neg (by omega)).trans (if_neg (by omega))
  · intro s t e htake hdst htag
    exact (execVoethData_of_some htake).trans (congrArg Host.Outcome.next (dataTaken_of_bad_tag hdst htag))
  · intro s ch src e
    obtain ⟨part, h⟩ := getPeer_dataAccept s ch src e
    rw [h]
    exact ⟨rfl, rfl⟩
  · exact fun s src e => inbox_dataAccept_of_single s 0 src e
  · intro s t u ch e p htake hu hp hlt
    exact (execVoethAck_of_some htake hu hp).trans (if_pos hlt)
  · intro s t u ch e htake hu hun
    refine (execVoethAck_of_some htake hu rfl).trans (if_neg ?_)
    simp [hun]
  · intro s ch src next p hp hacked hnonce hnext
    subst hp
    exact ackHello_of_own hacked hnonce hnext
  · intro s ch node p hp hgot hacked hopen
    subst hp
    exact openCheck_of_crossed hgot hacked hopen
  · intro s t u v ch e htake htag hopen hv hu
    subst hu hv
    rw [← greet, ← helloAcked_of_open hopen]
    exact (execHello_of_some htake htag).trans
      (congrArg (fun u => Host.Outcome.next (openCheck u _ _)) (if_pos (helloAgain_of_open hopen)))
  · intro s t u ch e p htake hp htag hopen hlost hnonce hu
    subst hp hu
    rw [← greet, ← helloAcked_of_closed hopen]
    have hagain := helloAgain_eq_false (t := t) (ch := ch) hopen hlost
      (hnonce.imp id fun ⟨hch, h⟩ => ⟨by simp [hch], h⟩)
    exact (execHello_of_some htake htag).trans
      (congrArg (fun u => Host.Outcome.next (openCheck u _ _)) (if_neg (ne_true_of_eq_false hagain)))
  · intro s t e htake htag
    exact execHello_of_bad_tag htake htag
  · intro s ch n p hruns hidle hp hopen hun hrto hrounds
    subst hp
    exact (execVoeRto_of_due hruns hidle hopen hun hrto).trans (if_neg (Nat.not_le.2 hrounds))
  · intro s ch n p hruns hidle hp hopen hun hrto hrounds
    subst hp
    exact (execVoeRto_of_due hruns hidle hopen hun hrto).trans (if_pos hrounds)
  · intro s ch hruns hage
    exact if_neg (by rw [hruns, decide_eq_false (Nat.not_lt.2 hage)]; simp)
  · intro s t u ch e p htake hp htag hopen hlost hu
    subst hp hu
    rw [← greet, ← helloAcked_of_closed hopen]
    have hagain := helloAgain_of_lost_or_none (t := t) (ch := ch)
      (hlost.imp id fun ⟨hnone, h⟩ => ⟨hnone, h.imp (congrArg Fin.val) id⟩)
    exact (execHello_of_some htake htag).trans
      (congrArg (fun u => Host.Outcome.next (openCheck u _ _)) (if_pos hagain))
  · exact fun s ch e l k hfifo hfor hruns => voeTake_of_discarded hruns hfifo hfor
  · intro s ch e l k hfifo hfor hruns hk
    exact (voeTake_of_head hruns hfifo hfor).trans (if_neg hk)
  · exact fun s ch k hfifo hruns => voeTake_of_nil hruns hfifo
  · exact fun s ch k => voeTake_of_not_runs
  · exact fun s t ch => execVoethData_of_none
  · exact fun s t ch => execVoethAck_of_none
  · exact fun s t ch => execHello_of_none
  · intro s t ch e htake hdst
    exact (execVoethData_of_some htake).trans (congrArg Host.Outcome.next (if_pos hdst))
  · intro s t u ch e p htake hu hp heq
    exact (execVoethAck_of_some htake hu hp).trans (if_neg heq.not_lt)
  · intro s src next p b hp hb hacked hnone hnonce hnext
    subst hp hb
    exact ackHello_of_broadcast hacked hnone hnonce hnext
  · intro s ch src next p hp h
    subst hp
    exact ackHello_of_other h
  · intro s ch node p hp h
    subst hp
    exact openCheck_of_not h
  · intro s ch n p hp h
    subst hp
    exact execVoeRto_of_not h
  · intro s ch h
    refine if_pos ?_
    rcases h with h | h
    · simp [h]
    · rw [decide_eq_true h, Bool.or_true]
  · exact fun _ => rfl
  · exact fun s => ⟨rfl, linkIdle_one s⟩
  · intro s ch node h
    refine if_pos ?_
    rcases h with h | h <;> simp [h]
  · exact fun _ _ => rfl
  · exact fun _ _ _ => rfl
  · exact fun s src e => inbox_dataAccept_of_single s 1 src e

end Sys2Proof.Machine
end

section
/-! The messages of the mirror link: alignment and the agreement on seasons (11 R282 to R285). -/
namespace Sys2Proof.Machine

set_option Elab.async false

/-! ### Alignment -/

/-- The nearest whole number is within one half. -/
theorem nearest_within (i : Int) {n : Nat} (hn : 0 < n) :
    2 * i - n ≤ 2 * nearest i n * n ∧ 2 * nearest i n * n ≤ 2 * i + n := by
  have hpos : (0 : Int) < 2 * n := by omega
  have hsum := Int.mul_fdiv_add_fmod (2 * i + n) (2 * n)
  have hlo := Int.fmod_nonneg_of_pos (2 * i + n) hpos
  have hhi := Int.fmod_lt_of_pos (2 * i + n) hpos
  have hcomm : 2 * nearest i n * n = 2 * n * (2 * i + n).fdiv (2 * n) := by
    rw [nearest]
    ring
  omega

/-- The stamp of the twin's ALIGN kept (R283). -/
def alignKept (t : State) (m : Msg) : State := t.setVoe { t.voe with peerAlign := some m.stamp }

/-- The first ALIGN of a session, and one that carries no stamp, only leave their own. -/
theorem execAlign_of_unmatched {s t : State} {m : Msg} (hmsg : inboxTake s 1 0x20 = some (m, t))
    (h : t.voe.peerAlign = none ∨ (wordOf (leAt m.pay 4 4) = 0 ∧ leAt m.pay 8 2 = 0)) :
    execAlign s = .next (alignKept t m) := by
  simp only [execAlign, hmsg]
  rcases h with h | h
  · rw [h]
    rfl
  · cases t.voe.peerAlign with
    | none => rfl
    | some r => exact if_pos h

theorem execAlign_of_matched {s t : State} {m : Msg} {r : Stamp} (hmsg : inboxTake s 1 0x20 = some (m, t))
    (hprev : t.voe.peerAlign = some r) (hstamp : ¬ (wordOf (leAt m.pay 4 4) = 0 ∧ leAt m.pay 8 2 = 0)) :
    execAlign s = .next (
      let delta : Int := (wordOf (leAt m.pay 4 4) - r.tick).toInt * ticksN t + ((leAt m.pay 8 2 : Int) - r.count)
      let d := nearest delta (ticksN t)
      t.setVoe { t.voe with
        peerAlign := some m.stamp
        aligned := byteAt m.pay 0 = t.glb.period && (delta - d * ticksN t).natAbs ≤ 250
        offset := if byteAt m.pay 0 = t.glb.period && (delta - d * ticksN t).natAbs ≤ 250 then d else t.voe.offset }) := by
  simp only [execAlign, hmsg, hprev]
  exact (if_neg hstamp).trans rfl

/-! ### Proposals -/

section
variable {s : State} {a sn ov n : Nat} {k c : Bytes} {x : Word} {h : Slot}

theorem proposeCheck_of_not_aligned (hal : s.voe.aligned = false) : proposeCheck s a sn k x ov = 5 :=
  if_pos (by simp [hal])

section
variable (hal : s.voe.aligned = true)
include hal

theorem proposeCheck_of_not_mirrored (hm : isMirrored s a = false) : proposeCheck s a sn k x ov = 1 :=
  (if_neg (by simp [hal])).trans (if_pos (by simp [hm]))

variable (hm : isMirrored s a = true)
include hm

theorem proposeCheck_of_no_key (hkey : nextKey s a = none) : proposeCheck s a sn k x ov = 2 := by
  refine (if_neg (by simp [hal])).trans ((if_neg (by simp [hm])).trans ?_)
  rw [hkey]

theorem proposeCheck_of_key (hkey : nextKey s a = some (n, h, c)) : proposeCheck s a sn k x ov =
    if h.sn ≠ sn || c ≠ k then 2
    else if (seasonOf s a).isSome || (assocSlots s a).any (fun p => p.2.state = 1 && p.2.role = 2) then 4
    else if !proposeCheck.leadOkTick s (fromTwin s x - wordOf ov) then 3
    else 0 := by
  refine (if_neg (by simp [hal])).trans ((if_neg (by simp [hm])).trans ?_)
  rw [hkey]

theorem proposeCheck_of_other_key (hkey : nextKey s a = some (n, h, c)) (hne : h.sn ≠ sn ∨ c ≠ k) :
    proposeCheck s a sn k x ov = 2 :=
  (proposeCheck_of_key hal hm hkey).trans (if_pos (by simpa using hne))

variable (hkey : nextKey s a = some (n, h, k)) (hsn : h.sn = sn)
include hkey hsn

theorem proposeCheck_of_season (hsea : (seasonOf s a).isSome = true
    ∨ (assocSlots s a).any (fun p => p.2.state = 1 && p.2.role = 2) = true) : proposeCheck s a sn k x ov = 4 :=
  (proposeCheck_of_key hal hm hkey).trans ((if_neg (by simp [hsn])).trans (if_pos (by rw [Bool.or_eq_true]; exact hsea)))

theorem proposeCheck_of_free (hsea : seasonOf s a = none)
    (hret : (assocSlots s a).any (fun p => p.2.state = 1 && p.2.role = 2) = false) : proposeCheck s a sn k x ov =
    if 2 ≤ (fromTwin s x - wordOf ov - s.glb.tick).toNat ∧ (fromTwin s x - wordOf ov - s.glb.tick).toNat < 2 ^ 31 then 0
    else 3 := by
  refine (proposeCheck_of_key hal hm hkey).trans ((if_neg (by simp [hsn])).trans ((if_neg ?_).trans ?_))
  · rw [hret, hsea]
    simp
  · simp only [proposeCheck.leadOkTick, Bool.not_eq_true', Bool.and_eq_false_iff, decide_eq_false_iff_not, ← not_and_or,
      ite_not]
end

/-- The first failure in the order of R284, and what agreement rests on. -/
theorem proposeCheck_order {r : Nat} (hr : proposeCheck s a sn k x ov = r) :
    (r = 5 ↔ s.voe.aligned = false) ∧ (s.voe.aligned = true → (r = 1 ↔ isMirrored s a = false))
    ∧ (r = 0 → s.voe.aligned = true ∧ isMirrored s a = true ∧ (∃ n h, nextKey s a = some (n, h, k) ∧ h.sn = sn)
      ∧ seasonOf s a = none ∧ 2 ≤ (fromTwin s x - wordOf ov - s.glb.tick).toNat) := by
  subst hr
  cases hal : s.voe.aligned with
  | false => simp [proposeCheck_of_not_aligned hal]
  | true =>
    cases hm : isMirrored s a with
    | false => simp [proposeCheck_of_not_mirrored hal hm]
    | true =>
      cases hkey : nextKey s a with
      | none => simp [proposeCheck_of_no_key hal hm hkey]
      | some p =>
        obtain ⟨n, h, c⟩ := p
        rw [proposeCheck_of_key hal hm hkey]
        split
        · simp
        next hsame =>
        split
        · simp
        next hsea =>
        cases hlead : proposeCheck.leadOkTick s (fromTwin s x - wordOf ov) with
        | false => simp
        | true =>
          simp only [proposeCheck.leadOkTick, Bool.and_eq_true, decide_eq_true_eq] at hlead
          simp_all
end

/-! ### Messages on seasons -/

section
variable {s t : State} {m : Msg}

theorem execSeasonPropose_of {r : Nat} (hmsg : inboxTake s 1 0x21 = some (m, t))
    (hr : proposeCheck t (leAt m.pay 0 2 % 4096) (leAt m.pay 2 2) (slice m.pay 4 3) (wordOf (leAt m.pay 8 4))
      (leAt m.pay 12 2) = r) :
    execSeasonPropose s = .next (sendAnswer (if r = 0 then seasonSet t (leAt m.pay 0 2 % 4096)
      (fromTwin t (wordOf (leAt m.pay 8 4))) (leAt m.pay 12 2) else t) (leAt m.pay 0 2 % 4096) (leAt m.pay 2 2) r) := by
  subst hr
  simp only [execSeasonPropose, hmsg]

/-- An answer's proposal, off the list (R284). -/
def answered (t : State) (p : Proposal) : State := t.setVoe { t.voe with proposals := t.voe.proposals.erase p }

theorem execSeasonAnswer_of {p : Proposal} (hmsg : inboxTake s 1 0x22 = some (m, t))
    (hp : t.voe.proposals.find? (fun p => p.assoc = (leAt m.pay 0 2 % 4096) && p.sn = leAt m.pay 2 2) = some p) :
    execSeasonAnswer s = if byteAt m.pay 4 ≠ 0
      then .next (endWaits (answered t p) (.mirror (leAt m.pay 0 2 % 4096)) fun c =>
        { c with status := 0x10, detail := BitVec.ofNat 16 (byteAt m.pay 4) })
      else .next (endWaits (if p.cancel then seasonDrop (answered t p) (leAt m.pay 0 2 % 4096)
          else seasonSet (answered t p) (leAt m.pay 0 2 % 4096) p.x p.ovlen)
        (.mirror (leAt m.pay 0 2 % 4096)) fun c => if p.cancel then c else { c with result := p.x.setWidth 64 }) := by
  simp only [execSeasonAnswer, hmsg, hp]
  rfl

theorem execMirrorSeasonCancel_of (hmsg : inboxTake s 1 0x23 = some (m, t))
    (hm : isMirrored t (leAt m.pay 0 2 % 4096) = true) : execMirrorSeasonCancel s =
    match seasonOf t (leAt m.pay 0 2 % 4096) with
      | some x => if x.opened || tickReached (seasonOpenAt x) t.glb.tick
          then .next (sendAnswer t (leAt m.pay 0 2 % 4096) (leAt m.pay 2 2) 3)
          else .next (sendAnswer (seasonDrop t (leAt m.pay 0 2 % 4096)) (leAt m.pay 0 2 % 4096) (leAt m.pay 2 2) 0)
      | none => .next (sendAnswer t (leAt m.pay 0 2 % 4096) (leAt m.pay 2 2) 0) := by
  simp only [execMirrorSeasonCancel, hmsg]
  refine (if_neg (by simp [hm])).trans ?_
  cases seasonOf t (leAt m.pay 0 2 % 4096) <;> rfl

theorem execSeasonState_of_season {y : Season} (hmsg : inboxTake s 1 0x24 = some (m, t))
    (hy : seasonOf t (leAt m.pay 0 2 % 4096) = some y) : execSeasonState s =
    .next (if y.ovlen ≠ leAt m.pay 12 2 || (t.voe.aligned && y.x ≠ fromTwin t (wordOf (leAt m.pay 8 4)))
      then logOther t .vlt (leBytes 8 (leAt m.pay 0 2 % 4096)) else t) := by
  simp only [execSeasonState, hmsg, hy]

/-- The next key is the one that the twin names. -/
def sameNext (t : State) (m : Msg) : Bool := match nextKey t (leAt m.pay 0 2 % 4096) with
  | some (_, k, c) => k.sn = leAt m.pay 2 2 && c = slice m.pay 4 3
  | none => false

theorem sameNext_of_key {n : Nat} {h : Slot} {c : Bytes} (hkey : nextKey t (leAt m.pay 0 2 % 4096) = some (n, h, c)) :
    sameNext t m = (decide (h.sn = leAt m.pay 2 2) && decide (c = slice m.pay 4 3)) := by
  unfold sameNext
  rw [hkey]

theorem sameNext_of_none (hkey : nextKey t (leAt m.pay 0 2 % 4096) = none) : sameNext t m = false := by
  unfold sameNext
  rw [hkey]

/-- What SEASON_STATE does without an own schedule (R285). -/
theorem execSeasonState_of_none (hmsg : inboxTake s 1 0x24 = some (m, t))
    (hy : seasonOf t (leAt m.pay 0 2 % 4096) = none) : execSeasonState s =
    let a := leAt m.pay 0 2 % 4096
    let x := fromTwin t (wordOf (leAt m.pay 8 4))
    let ov := leAt m.pay 12 2
    if t.voe.aligned && isMirrored t a && sameNext t m && tickFuture x t.glb.tick
      then .next (logOther (if tickReached (x - wordOf ov) t.glb.tick
        then setSeason (seasonSet t a x ov) { assoc := a, x := x, ovlen := ov, opened := true } else seasonSet t a x ov)
        .vlt (leBytes 8 a))
      else .next t := by
  simp only [execSeasonState, hmsg, hy]
  rfl

theorem execSeasonState_of_adopted {n : Nat} {h : Slot} (hmsg : inboxTake s 1 0x24 = some (m, t))
    (hy : seasonOf t (leAt m.pay 0 2 % 4096) = none) (hal : t.voe.aligned = true)
    (hm : isMirrored t (leAt m.pay 0 2 % 4096) = true)
    (hkey : nextKey t (leAt m.pay 0 2 % 4096) = some (n, h, slice m.pay 4 3)) (hsn : h.sn = leAt m.pay 2 2)
    (hfut : tickFuture (fromTwin t (wordOf (leAt m.pay 8 4))) t.glb.tick = true) : execSeasonState s =
    .next (logOther (if tickReached (fromTwin t (wordOf (leAt m.pay 8 4)) - wordOf (leAt m.pay 12 2)) t.glb.tick
      then setSeason (seasonSet t (leAt m.pay 0 2 % 4096) (fromTwin t (wordOf (leAt m.pay 8 4))) (leAt m.pay 12 2))
        { assoc := leAt m.pay 0 2 % 4096, x := fromTwin t (wordOf (leAt m.pay 8 4)), ovlen := leAt m.pay 12 2, opened := true }
      else seasonSet t (leAt m.pay 0 2 % 4096) (fromTwin t (wordOf (leAt m.pay 8 4))) (leAt m.pay 12 2))
      .vlt (leBytes 8 (leAt m.pay 0 2 % 4096))) :=
  (execSeasonState_of_none hmsg hy).trans (if_pos (by simp [hal, hm, sameNext_of_key hkey, hsn, hfut]))

theorem execSeasonState_of_not (hmsg : inboxTake s 1 0x24 = some (m, t))
    (hy : seasonOf t (leAt m.pay 0 2 % 4096) = none) (h : t.voe.aligned = false
      ∨ isMirrored t (leAt m.pay 0 2 % 4096) = false ∨ sameNext t m = false
      ∨ tickFuture (fromTwin t (wordOf (leAt m.pay 8 4))) t.glb.tick = false) : execSeasonState s = .next t := by
  refine (execSeasonState_of_none hmsg hy).trans (if_neg ?_)
  rcases h with h | h | h | h <;> simp [h]
end

theorem inboxTake_of_head {s : State} {ch typ : Nat} {m : Msg} {l : List Msg} (hruns : voeRuns s ch = true)
    (hin : s.voe.inbox = m :: l) (hch : m.ch = ch) (htyp : m.typ = typ) :
    inboxTake s ch typ = some (m, s.setVoe { s.voe with inbox := l }) := by
  unfold inboxTake
  refine (if_neg (by simp [hruns])).trans ?_
  have hfind : s.voe.inbox.find? (fun m => m.ch = ch && m.typ = typ) = some m := by
    rw [hin]
    exact List.find?_cons_of_pos (by simp [hch, htyp])
  rw [hfind]
  exact congrArg (fun l => some (m, s.setVoe { s.voe with inbox := l })) (by rw [hin, List.erase_cons_head])

/-- Settles O57: the checks on a proposal in their order, and one branch for each message of the link. -/
theorem mirrorMessages : Obligations.MirrorMessages := by
  unfold Obligations.MirrorMessages
  refine ⟨?_, ?_, ?_, ?_, ?_, ?_, ?_, ?_, ?_, ?_, ?_, ?_, ?_, ?_, ?_, ?_, ?_, ?_, ?_, ?_, ?_, ?_, ?_, ?_, ?_, ?_, ?_, ?_,
    ?_, ?_, ?_, ?_, ?_, ?_⟩
  · exact fun s t m hmsg hprev => execAlign_of_unmatched hmsg (.inl hprev)
  · exact fun s t m r hmsg _ hpt hpc => execAlign_of_unmatched hmsg (.inr ⟨hpt, hpc⟩)
  · intro s t m r delta d hmsg hprev hstamp hdelta hd
    subst hd hdelta
    exact execAlign_of_matched hmsg hprev fun h => hstamp.elim (· h.1) (· h.2)
  · exact fun i n => nearest_within i
  · exact fun s a sn k x ov r => proposeCheck_order
  · intro s t m hmsg hr
    exact (execSeasonPropose_of hmsg rfl).trans (congrArg (fun u => Host.Outcome.next (sendAnswer u _ _ _)) (if_neg hr))
  · exact fun s t m hmsg hr => execSeasonPropose_of hmsg hr
  · intro s t m p hmsg hp hres hcan
    refine (execSeasonAnswer_of hmsg hp).trans ((if_neg (not_not_intro hres)).trans ?_)
    simp only [hcan, Bool.false_eq_true, if_false]
    rfl
  · intro s t m p hmsg hp hres hcan
    refine (execSeasonAnswer_of hmsg hp).trans ((if_neg (not_not_intro hres)).trans ?_)
    simp only [hcan, if_true]
    rfl
  · exact fun s t m p hmsg hp hres => (execSeasonAnswer_of hmsg hp).trans (if_pos hres)
  · intro s t m hmsg hm
    show execMirrorSeasonCancel s = _
    simp only [execMirrorSeasonCancel, hmsg]
    exact if_pos (by simp [hm])
  · intro s t m x hmsg hm hx hopened hreached
    refine (execMirrorSeasonCancel_of hmsg hm).trans ?_
    rw [hx]
    exact if_neg (by simp [hopened, hreached])
  · intro s t m x hmsg hm hx h
    refine (execMirrorSeasonCancel_of hmsg hm).trans ?_
    rw [hx]
    exact if_pos (by simpa using h)
  · intro s t m y hmsg hy hx hov
    refine (execSeasonState_of_season hmsg hy).trans (congrArg Host.Outcome.next (if_neg ?_))
    rcases hx with h | h <;> simp [hov, h]
  · intro s t m y hmsg hy h
    refine (execSeasonState_of_season hmsg hy).trans (congrArg Host.Outcome.next (if_pos ?_))
    rcases h with ⟨hal, hx⟩ | hov
    · simp [hal, hx]
    · simp [hov]
  · intro s t m n h x hmsg hy hal hm hkey hsn hx hfut hreached
    subst hx
    exact (execSeasonState_of_adopted hmsg hy hal hm hkey hsn hfut).trans
      (congrArg (fun u => Host.Outcome.next (logOther u _ _)) (if_neg (ne_true_of_eq_false hreached)))
  · intro s hruns hopen hage
    exact if_pos (by simpa [hruns, hopen] using hage)
  · intro s h
    show execAlign s = _
    simp only [execAlign, h]
  · intro s h
    show execSeasonPropose s = _
    simp only [execSeasonPropose, h]
  · intro s h
    show execSeasonAnswer s = _
    simp only [execSeasonAnswer, h]
  · intro s h
    show execMirrorSeasonCancel s = _
    simp only [execMirrorSeasonCancel, h]
  · intro s h
    show execSeasonState s = _
    simp only [execSeasonState, h]
  · exact fun s ch typ m l => inboxTake_of_head
  · intro s t m hmsg hp
    show execSeasonAnswer s = _
    simp only [execSeasonAnswer, hmsg, hp]
  · intro s t m hmsg hm hx
    refine (execMirrorSeasonCancel_of hmsg hm).trans ?_
    rw [hx]
  · intro s t m hmsg hy h
    exact execSeasonState_of_not hmsg hy (h.imp id (.imp id (.imp sameNext_of_none id)))
  · intro s t m n h k hmsg hy hkey hne
    refine execSeasonState_of_not hmsg hy (.inr (.inr (.inl ((sameNext_of_key hkey).trans ?_))))
    rcases hne with hne | hne <;> simp [hne]
  · intro s t m n h x hmsg hy hal hm hkey hsn hx hfut hreached
    subst hx
    exact (execSeasonState_of_adopted hmsg hy hal hm hkey hsn hfut).trans
      (congrArg (fun u => Host.Outcome.next (logOther u _ _)) (if_pos hreached))
  · intro s h
    refine if_neg ?_
    rcases h with h | h | h
    · simp [h]
    · simp [h]
    · rw [decide_eq_false (Nat.not_le.2 h), Bool.and_false]
      exact Bool.false_ne_true
  · exact fun s a sn k x ov n h hal hm hkey hsn => proposeCheck_of_season hal hm hkey hsn
  · exact fun s a sn k x ov n h hal hm hkey hsn => proposeCheck_of_free hal hm hkey hsn
  · exact fun s a sn k c x ov n h hal hm hkey => proposeCheck_of_other_key hal hm hkey
  · exact fun s a sn k x ov => proposeCheck_of_no_key
  · exact fun _ _ => rfl

end Sys2Proof.Machine
end

section
/-! The serial ports: flash commands on SPI0, what a cut leaves, and the words of SPI1 (16 R385 to R390, R399 to R401). -/
namespace Sys2Proof.Machine

set_option Elab.async false

/-! ### SPI0: starts -/

/-- The command recorded, its DONE and its error cleared (R388). -/
def spi0Started (s : State) : State := s.setSpi0 { s.spi0 with done := false, err := 0, cur := some (spi0Cmd s) }

theorem spi0Go_of_idle {s : State} (h : s.spi0.cur = none) : spi0Go s = spi0Dma (spi0Started s) (spi0Cmd s) :=
  (if_neg (by simp [h])).trans rfl

section
variable {s : State} {o : FlashOp}

theorem spi0Dma_of_still (hop : spi0Moves o.op = false) : spi0Dma s o = s.setSpi0 { s.spi0 with stall := none } := by
  simp [spi0Dma, hop]

variable (hop : spi0Moves o.op = true)
include hop

theorem spi0Dma_of_ok (hdma : dmaCheck s 5 0 (o.op ≠ 1) true o.sram o.len = .ok) :
    spi0Dma s o = if inSram o.sram o.len then s.setSpi0 { s.spi0 with stall := none } else spi0End s 3 := by
  unfold spi0Dma
  rw [if_pos hop, hdma]
  cases inSram o.sram o.len
  · exact if_pos (by simp [hop])
  · exact if_neg (by simp)

theorem spi0Dma_of_stall {a : Acc} (hdma : dmaCheck s 5 0 (o.op ≠ 1) true o.sram o.len = .stall a) :
    spi0Dma s o = s.setSpi0 { s.spi0 with stall := some a } := by
  unfold spi0Dma
  rw [if_pos hop, hdma]

theorem spi0Dma_of_deny {a : Acc} {src idx : Nat} (hdma : dmaCheck s 5 0 (o.op ≠ 1) true o.sram o.len = .deny a src idx) :
    spi0Dma s o = spi0End (refuseAcc s a src idx) 3 := by
  unfold spi0Dma
  rw [if_pos hop, hdma]
end

/-- SPI0_GO on an ungated idle port starts the command. -/
theorem exec_spi0Go_of_idle {s : State} (hup : mainUp s = true) (hgate : gateOk s 15 = true) (hcur : s.spi0.cur = none)
    {u : State} (h : spi0Dma (spi0Started s) (spi0Cmd s) = u) : exec .spi0Go s = .next u :=
  congrArg Host.Outcome.next ((onE_of_open _ hup hgate).trans ((spi0Go_of_idle hcur).trans h))

/-! ### SPI0: ends and cuts -/

section
variable {s : State} {o : FlashOp}

theorem execSpi0CmdEnd_of_none (ok : Bool) (h : s.spi0.cur = none) : execSpi0CmdEnd ok s = .next s := by
  simp only [execSpi0CmdEnd, h]

theorem execSpi0CmdEnd_of_stalled (ok : Bool) (h : s.spi0.stall.isSome = true) : execSpi0CmdEnd ok s = .next s := by
  simp only [execSpi0CmdEnd]
  split
  · rfl
  · exact if_pos h

theorem execSpi0CmdEnd_of_some (ok : Bool) (hcur : s.spi0.cur = some o) (hstall : s.spi0.stall = none) :
    execSpi0CmdEnd ok s = if ok || o.op ≠ 1 then .next (spi0End (spi0Effect s o) 0)
      else .next (spi0End (tearProgram s o) 5) := by
  simp only [execSpi0CmdEnd, hcur]
  exact if_neg (by simp [hstall])

theorem spi0Cut_of_none (err : Nat) (h : s.spi0.cur = none) : spi0Cut s err = s := by
  unfold spi0Cut
  rw [h]

theorem spi0Cut_of_stalled (err : Nat) (hcur : s.spi0.cur = some o) (hstall : s.spi0.stall.isSome = true) :
    spi0Cut s err = spi0End s err := by
  simp only [spi0Cut, hcur, hstall, if_true]

theorem spi0Cut_of_some (err : Nat) (hcur : s.spi0.cur = some o) (hstall : s.spi0.stall = none) : spi0Cut s err =
    spi0End (if o.op = 0 then cutRead s o else if o.op = 1 then tearProgram s o
      else if o.op = 2 then tearErase s o else s) err := by
  simp only [spi0Cut, hcur]
  exact congrArg (spi0End · err) (if_neg (by simp [hstall]))

theorem spi0Cut_of_read (err : Nat) (hcur : s.spi0.cur = some o) (hstall : s.spi0.stall = none) (hop : o.op = 0) :
    spi0Cut s err = spi0End (cutRead s o) err :=
  (spi0Cut_of_some err hcur hstall).trans (congrArg (spi0End · err) (if_pos hop))

theorem spi0Cut_of_program (err : Nat) (hcur : s.spi0.cur = some o) (hstall : s.spi0.stall = none) (hop : o.op = 1) :
    spi0Cut s err = spi0End (tearProgram s o) err :=
  (spi0Cut_of_some err hcur hstall).trans (congrArg (spi0End · err) ((if_neg (by omega)).trans (if_pos hop)))

theorem spi0Cut_of_erase (err : Nat) (hcur : s.spi0.cur = some o) (hstall : s.spi0.stall = none) (hop : o.op = 2) :
    spi0Cut s err = spi0End (tearErase s o) err :=
  (spi0Cut_of_some err hcur hstall).trans
    (congrArg (spi0End · err) ((if_neg (by omega)).trans ((if_neg (by omega)).trans (if_pos hop))))

theorem execSpi0Timeout_of_some (hcur : s.spi0.cur = some o) : execSpi0Timeout s =
    if o.op = 1 || o.op = 2 then .next (spi0Cut s 1) else .next s := by
  simp only [execSpi0Timeout, hcur]

theorem execSpi0Timeout_of_writes (hcur : s.spi0.cur = some o) (hop : o.op = 1 ∨ o.op = 2) :
    execSpi0Timeout s = .next (spi0Cut s 1) :=
  (execSpi0Timeout_of_some hcur).trans (if_pos (by simpa using hop))

theorem execSpi0Timeout_of_none (h : s.spi0.cur = none) : execSpi0Timeout s = .next s := by
  simp only [execSpi0Timeout, h]

theorem exec_spi0Abort {t : State} (hup : mainUp s = true) (hgate : gateOk s 15 = true) (h : spi0Cut s 2 = t) :
    exec .spi0Abort s = .next t :=
  congrArg Host.Outcome.next ((onE_of_open _ hup hgate).trans h)

theorem spi0Effect_of_read (h : o.op = 0) :
    spi0Effect s o = sramWrite s (o.sram - 0x10000000) (flashRead s o.sel o.addr o.len) := if_pos h

theorem spi0Effect_of_program (h : o.op = 1) :
    spi0Effect s o = flashProgram s o.sel o.addr (sramRead s (o.sram - 0x10000000) o.len) :=
  (if_neg (by omega)).trans (if_pos h)

theorem spi0Effect_of_erase (h : o.op = 2) : spi0Effect s o = flashErase s o.sel (o.addr / 4096 * 4096) 4096 :=
  (if_neg (by omega)).trans ((if_neg (by omega)).trans (if_pos h))
end

/-! ### What R399 allows of a torn byte -/

section
variable {old new free : Bytes} {k : Nat} {x y : Byte}

theorem tornProgram_at (hx : (tornProgram old new free)[k]? = some x) (hy : old[k]? = some y) :
    ∃ n f, new[k]? = some n ∧ free[k]? = some f ∧ x = y &&& (n ||| f) := by
  obtain ⟨a, b, ha, hb, rfl⟩ := List.getElem?_zipWith_eq_some.1 hx
  obtain ⟨n, f, hn, hf, rfl⟩ := List.getElem?_zipWith_eq_some.1 hb
  obtain rfl := Option.some.inj (ha.symm.trans hy)
  exact ⟨n, f, hn, hf, rfl⟩

theorem tornErase_at (hx : (tornErase old free)[k]? = some x) (hy : old[k]? = some y) : ∃ f, x = y ||| f := by
  obtain ⟨a, f, ha, -, rfl⟩ := List.getElem?_zipWith_eq_some.1 hx
  obtain rfl := Option.some.inj (ha.symm.trans hy)
  exact ⟨f, rfl⟩
end

/-- A cut read leaves the bytes that had arrived, some number of those asked for. -/
theorem cutRead_prefix (s : State) (o : FlashOp) : ∃ n ≤ o.len, cutRead s o = sramWrite (s.setFree (s.free + 1))
    (o.sram - 0x10000000) (flashRead (s.setFree (s.free + 1)) o.sel o.addr n) :=
  ⟨leNat (freeBytes s 4).1 % (o.len + 1), Nat.le_of_lt_succ (Nat.mod_lt _ (Nat.succ_pos _)), rfl⟩

/-! ### The erase ahead of use -/

theorem execBackgroundErase_of_not {s : State} {w : Word} (h : mainUp s = false ∨ s.spi0.db.isOpen = false
    ∨ s.spi0.cur.isSome = true ∨ s.mode.dimPend ≠ none) : execBackgroundErase w s = .next s := by
  refine if_neg ?_
  rcases h with h | h | h | h
  · simp [h]
  · simp [h]
  · simp [Option.isSome_iff_ne_none.1 h]
  · simp [h]

/-- A page that may be erased ahead of use (R395). -/
def erasable (s : State) (w : Word) : Bool :=
  isPage s w.toNat && !s.spi0.db.retired.contains w.toNat && !s.spi0.db.erased.contains w.toNat
    && !pageNamed s (dbFk s) w.toNat

theorem execBackgroundErase_of {s : State} (w : Word) (hup : mainUp s = true) (hopen : s.spi0.db.isOpen = true)
    (hcur : s.spi0.cur = none) (hdim : s.mode.dimPend = none) : execBackgroundErase w s =
    .next (if erasable s w then setDb (flashErase s (pageSel w.toNat) (pageOff w.toNat) 4096)
      { s.spi0.db with erased := s.spi0.db.erased ++ [w.toNat] } else s) := by
  cases he : erasable s w with
  | true =>
    simp only [erasable, Bool.and_eq_true] at he
    obtain ⟨⟨⟨hpage, hret⟩, her⟩, hnamed⟩ := he
    exact if_pos (by simp only [hup, hopen, hdim, hcur, hpage, hret, her, hnamed, decide_true, Bool.and_true])
  | false =>
    refine if_neg fun h => ?_
    simp only [Bool.and_eq_true] at h
    obtain ⟨⟨⟨⟨-, hpage⟩, hret⟩, her⟩, hnamed⟩ := h
    simp only [erasable, hpage, hret, her, hnamed, Bool.and_true] at he
    exact absurd he (by decide)

/-! ### SPI1 -/

section
variable {p : Spi1} {w : Word} {part : Bool} {bits : Nat}

theorem spi1Push_of_room (h : p.rx.length < 16) : spi1Push p w part bits = { p with rx := p.rx ++ [(w, part, bits)] } :=
  if_pos h

theorem spi1Push_of_full (h : 16 ≤ p.rx.length) : spi1Push p w part bits = { p with rxovf := true } :=
  if_neg (Nat.not_lt.2 h)
end

section
variable {s : State} {v h : Word} {t : List Word}

theorem execSpi1WordComplete_of_cons (htx : s.spi1.tx = h :: t) : execSpi1WordComplete v s =
    if mainUp s && spi1Open s.spi1
      then .next (s.setSpi1 (spi1Push { s.spi1 with tx := t } (lowBits (s.spi1.wlen + 1) v) false (s.spi1.wlen + 1)))
      else .next s := by
  simp only [execSpi1WordComplete, htx]

theorem execSpi1WordComplete_of_not (hno : s.spi1.tx = [] ∨ mainUp s = false ∨ spi1Open s.spi1 = false) :
    execSpi1WordComplete v s = .next s := by
  cases htx : s.spi1.tx with
  | nil => simp only [execSpi1WordComplete, htx]
  | cons h t =>
    refine (execSpi1WordComplete_of_cons htx).trans (if_neg ?_)
    rcases hno with hno | hno | hno
    · exact absurd (hno.symm.trans htx) (List.cons_ne_nil h t).symm
    · simp [hno]
    · simp [hno]

theorem spi1Release_of_word {p : Spi1} {n : Nat} (htx : p.tx = h :: t) (hn : 1 ≤ n) (hlen : n ≤ p.wlen) :
    spi1Release p n v = spi1Push { p with selected := false, tx := t } (lowBits n v) true n := by
  unfold spi1Release
  rw [htx]
  exact if_neg (by omega)

theorem spi1Release_zero (p : Spi1) : spi1Release p 0 v = { p with selected := false } := by
  unfold spi1Release
  split
  · rfl
  · exact if_pos (.inl rfl)

theorem execSpi1SelectRelease_of {n : Nat} (hup : mainUp s = true) (hmon : s.spi1.csmonEn = true)
    (hown : spi1Own s.spi1 = false) (hsel : s.spi1.selected = true) :
    execSpi1SelectRelease n v s = .next (s.setSpi1 (spi1Release s.spi1 n v)) :=
  if_pos (by simp [hup, hmon, hown, hsel])

theorem execSpi1SelectRelease_of_not {n : Nat} (hno : s.spi1.csmonEn = false ∨ spi1Own s.spi1 = true
    ∨ s.spi1.selected = false ∨ mainUp s = false) : execSpi1SelectRelease n v s = .next s := by
  refine if_neg ?_
  rcases hno with h | h | h | h <;> simp [h]

theorem execSpi1SelectAssert_of_not (hno : s.spi1.csmonEn = false ∨ spi1Own s.spi1 = true ∨ s.spi1.stopped = true
    ∨ mainUp s = false) : execSpi1SelectAssert s = .next s := by
  refine if_neg ?_
  rcases hno with h | h | h | h <;> simp [h]
end

theorem lowBits_eq_and {n : Nat} (v : Word) (h : n ≤ 32) : lowBits n v = v &&& BitVec.ofNat 32 (2 ^ n - 1) := by
  have hpow : 2 ^ n ≤ 2 ^ 32 := Nat.pow_le_pow_right (by decide) h
  have hpos : 0 < 2 ^ n := Nat.two_pow_pos n
  have hmask : (BitVec.ofNat 32 (2 ^ n - 1)).toNat = 2 ^ n - 1 := Nat.mod_eq_of_lt (by omega)
  have hlow : (lowBits n v).toNat = v.toNat % 2 ^ n :=
    Nat.mod_eq_of_lt ((Nat.mod_lt _ hpos).trans_le hpow)
  refine BitVec.eq_of_toNat_eq ?_
  rw [hlow, BitVec.toNat_and, hmask, Nat.and_two_pow_sub_one_eq_mod]

/-- Settles O58: one branch of a port for each clause, and a torn byte read bit by bit. -/
theorem serialPorts : Obligations.SerialPorts := by
  unfold Obligations.SerialPorts
  refine ⟨?_, ?_, ?_, ?_, ?_, ?_, ?_, ?_, ?_, ?_, ?_, ?_, ?_, ?_, ?_, ?_, ?_, ?_, ?_, ?_, ?_, ?_, ?_, ?_, ?_, ?_, ?_, ?_,
    ?_, ?_, ?_, ?_, ?_, ?_, ?_, ?_, ?_, ?_, ?_, ?_, ?_, ?_, ?_⟩
  · intro s hup hgate hcur
    exact congrArg Host.Outcome.next ((onE_of_open _ hup hgate).trans (if_pos hcur))
  · intro s hup hgate hcur hop
    exact exec_spi0Go_of_idle hup hgate hcur (spi0Dma_of_still (o := spi0Cmd s) hop)
  · intro s t hup hgate hcur hop ht hdma hin
    obtain rfl : spi0Started s = t := ht
    exact exec_spi0Go_of_idle hup hgate hcur ((spi0Dma_of_ok (o := spi0Cmd s) hop hdma).trans (if_pos hin))
  · intro s t a src idx hup hgate hcur hop ht hdma
    obtain rfl : spi0Started s = t := ht
    exact exec_spi0Go_of_idle hup hgate hcur (spi0Dma_of_deny (o := spi0Cmd s) hop hdma)
  · intro s ok o hcur hstall hok
    exact (execSpi0CmdEnd_of_some ok hcur hstall).trans (if_pos (by simpa using hok))
  · intro s o hcur hstall hop
    exact (execSpi0CmdEnd_of_some false hcur hstall).trans (if_neg (by simp [hop]))
  · exact fun s o => spi0Effect_of_read
  · exact fun s o => spi0Effect_of_program
  · exact fun s o => spi0Effect_of_erase
  · intro old new free k i x y hx hy hbit
    obtain ⟨n, f, -, -, rfl⟩ := tornProgram_at hx hy
    rw [BitVec.getLsbD_and, Bool.and_eq_true] at hbit
    exact hbit.1
  · intro old new free k i x y n hx hy hn hbit hold
    obtain ⟨n', f, hn', -, rfl⟩ := tornProgram_at hx hy
    obtain rfl := Option.some.inj (hn.symm.trans hn')
    rw [BitVec.getLsbD_and, hold, Bool.true_and, BitVec.getLsbD_or, Bool.or_eq_false_iff] at hbit
    exact hbit.1
  · intro old free k i x y hx hy hbit
    obtain ⟨f, rfl⟩ := tornErase_at hx hy
    rw [BitVec.getLsbD_or, hbit, Bool.true_or]
  · intro s o hcur hstall hop
    refine (execSpi0Timeout_of_writes hcur hop).trans (congrArg Host.Outcome.next ?_)
    rcases hop with hop | hop
    · exact (spi0Cut_of_program 1 hcur hstall hop).trans (congrArg (spi0End · 1) (if_pos hop).symm)
    · exact (spi0Cut_of_erase 1 hcur hstall hop).trans (congrArg (spi0End · 1) (if_neg (by omega)).symm)
  · intro s hup hgate hcur
    exact ⟨exec_spi0Abort hup hgate (spi0Cut_of_none 2 hcur), execSpi0Timeout_of_none hcur,
      execSpi0CmdEnd_of_none true hcur⟩
  · exact fun s o hup hgate hcur hstall hop => exec_spi0Abort hup hgate (spi0Cut_of_read 2 hcur hstall hop)
  · exact fun s o hup hgate hcur hstall hop => exec_spi0Abort hup hgate (spi0Cut_of_program 2 hcur hstall hop)
  · exact cutRead_prefix
  · exact fun s w => execBackgroundErase_of w
  · intro s v hup hgate hroom
    exact congrArg Host.Outcome.next ((onE_of_open _ hup hgate).trans (if_pos hroom))
  · intro s v hup hgate hfull
    exact congrArg Host.Outcome.next ((onE_of_open _ hup hgate).trans (if_neg (Nat.not_lt.2 hfull)))
  · intro s v h t hup htx hopen hroom
    exact (execSpi1WordComplete_of_cons htx).trans ((if_pos (by simp [hup, hopen])).trans
      (congrArg (fun p => Host.Outcome.next (s.setSpi1 p)) (spi1Push_of_room hroom)))
  · intro s v h t hup htx hopen hfull
    exact (execSpi1WordComplete_of_cons htx).trans ((if_pos (by simp [hup, hopen])).trans
      (congrArg (fun p => Host.Outcome.next (s.setSpi1 p)) (spi1Push_of_full hfull)))
  · exact fun s v h => execSpi1WordComplete_of_not (h.imp id .inr)
  · exact fun n v => lowBits_eq_and v
  · intro s n v h t hup hmon hown hsel htx hn hlen hroom
    exact (execSpi1SelectRelease_of hup hmon hown hsel).trans (congrArg (fun p => Host.Outcome.next (s.setSpi1 p))
      ((spi1Release_of_word htx hn hlen).trans (spi1Push_of_room hroom)))
  · intro s v hup hmon hown hsel
    exact (execSpi1SelectRelease_of hup hmon hown hsel).trans
      (congrArg (fun p => Host.Outcome.next (s.setSpi1 p)) (spi1Release_zero _))
  · intro s hup hmon hown hstop
    exact if_pos (by simp [hup, hmon, hown, hstop])
  · intro s hup hgate
    exact congrArg Host.Outcome.next (onE_of_open _ hup hgate)
  · intro s t a hup hgate hcur hop ht hdma
    obtain rfl : spi0Started s = t := ht
    exact exec_spi0Go_of_idle hup hgate hcur (spi0Dma_of_stall (o := spi0Cmd s) hop hdma)
  · intro s t hup hgate hcur hop ht hdma hout
    obtain rfl : spi0Started s = t := ht
    exact exec_spi0Go_of_idle hup hgate hcur ((spi0Dma_of_ok (o := spi0Cmd s) hop hdma).trans (if_neg (ne_true_of_eq_false hout)))
  · exact fun s ok => execSpi0CmdEnd_of_stalled ok
  · intro s o hcur h1 h2
    exact (execSpi0Timeout_of_some hcur).trans (if_neg (by simp [h1, h2]))
  · intro s h
    refine ⟨execSpi1SelectAssert_of_not ?_, execSpi1SelectRelease_of_not ?_⟩
    · exact h.imp id (.imp id .inr)
    · exact h.imp id (.imp id .inr)
  · exact fun s n v => execSpi1SelectRelease_of_not
  · exact fun s h => execSpi1SelectAssert_of_not (.inr (.inr (.inl h)))
  · intro s v hup h15 h16
    have hgated {b : Nat} (hb : gateOk s b = false) (addr : Nat) (f : State → State) :
        onE s b addr f = refuseAcc s (fwAcc addr) 9 0 := onE_of_gated f hup hb
    exact ⟨congrArg _ (hgated h15 ..), congrArg _ (hgated h15 ..), congrArg _ (hgated h16 ..), congrArg _ (hgated h16 ..)⟩
  · intro s v hup
    have hdown (b addr : Nat) (f : State → State) : onE s b addr f = s := if_pos (by simp [hup])
    exact ⟨congrArg _ (hdown ..), congrArg _ (hdown ..), congrArg _ (hdown ..), congrArg _ (hdown ..),
      execSpi1WordComplete_of_not (.inr (.inl hup)), execBackgroundErase_of_not (.inl hup)⟩
  · exact fun s w h => execBackgroundErase_of_not (.inr h)
  · exact fun s o hup hgate hcur hstall hop => exec_spi0Abort hup hgate (spi0Cut_of_erase 2 hcur hstall hop)
  · exact fun p => ⟨rfl, rfl, rfl⟩
  · intro s hmon hown hsel hlevel
    exact (if_neg (by simp [hmon, hown, hsel, hlevel])).trans (if_neg (ne_true_of_eq_false hsel))
  · exact fun s o hup hgate hcur hstall => exec_spi0Abort hup hgate (spi0Cut_of_stalled 2 hcur hstall)
  · intro s o hcur hstall hop
    exact (execSpi0Timeout_of_writes hcur hop).trans (congrArg Host.Outcome.next (spi0Cut_of_stalled 1 hcur hstall))

end Sys2Proof.Machine
end

section
/-! Tamper sources: how one acts, what its response adds, and the writes of TMP_ (17 R402 to R412). -/
namespace Sys2Proof.Machine

set_option Elab.async false

/-! ### A source acts -/

/-- The condition of source k shown. -/
def condShown (s : State) (k : Nat) : State := s.setTmp { s.tmp with cond := s.tmp.cond ||| srcBit k }

theorem sourceOn_of_acts {s : State} {k : Nat} (harmed : armed s k = true) (hwatched : watched s k = true)
    (hactive : s.tmp.active.getLsbD k = false) : sourceOn s k = tamperAct (missed (condShown s k) k) k :=
  if_pos (Bool.and_eq_true_iff.2 ⟨Bool.and_eq_true_iff.2 ⟨harmed, hwatched⟩, congrArg (!·) hactive⟩)

theorem sourceOn_of_still {s : State} {k : Nat} (h : armed s k = false ∨ watched s k = false ∨ s.tmp.active.getLsbD k = true) :
    sourceOn s k = condShown s k := by
  refine if_neg fun hacts => ?_
  obtain ⟨⟨harmed, hwatched⟩, hactive⟩ := by simpa only [Bool.and_eq_true] using hacts
  rcases h with h | h | h
  · exact Bool.false_ne_true (h.symm.trans harmed)
  · exact Bool.false_ne_true (h.symm.trans hwatched)
  · exact Bool.false_ne_true ((congrArg (!·) h).symm.trans hactive)

/-- The source acted and logged, before its response adds anything (R409, R412). -/
def sourceLogged (s : State) (k r : Nat) : State :=
  logS (s.setTmp { s.tmp with active := s.tmp.active ||| srcBit k, sticky := s.tmp.sticky ||| srcBit k }) .tmp (k + 1) (leBytes 8 r)

theorem tamperAct_eq {s : State} {k r : Nat} (hr : respNow s k = r) : tamperAct s k =
    if r = 2 then snuffTrig (if 1 ≤ r then tamperAlarm (sourceLogged s k r) k else sourceLogged s k r) 1 k
    else if 1 ≤ r then tamperAlarm (sourceLogged s k r) k else sourceLogged s k r := by
  subst hr
  rfl

/-! ### Responses -/

theorem respOf_le (s : State) (k : Nat) : respOf s k ≤ 2 := Nat.min_le_left ..

theorem respNow_le (s : State) (k : Nat) : respNow s k ≤ 2 ∧ (snuffCell s.mode.mode s.fus.lc = false → respNow s k ≤ 1) := by
  have hle := respOf_le s k
  unfold respNow
  split
  · next hcell => exact ⟨hle, fun h => absurd (h.symm.trans hcell) Bool.false_ne_true⟩
  · omega

theorem srcBit_getLsbD : ∀ k : Fin 13, (srcBit k).getLsbD k = true := by decide

theorem or_srcBit_ne_zero (h : BitVec 13) (k : Fin 13) : h ||| srcBit k ≠ 0 := by
  intro hzero
  have hbit : (h ||| srcBit k).getLsbD k = true := by rw [BitVec.getLsbD_or, srcBit_getLsbD, Bool.or_true]
  rw [hzero] at hbit
  exact absurd hbit (by simp)

theorem tamperAlarm_tmp (s : State) (k : Nat) : (tamperAlarm s k).tmp = { s.tmp with hold := s.tmp.hold ||| srcBit k } := by
  simp only [tamperAlarm, wakeTrigger_tmp, sendAlarm_tmp]
  split
  · exact (irq_tmp ..).trans (withAlarm_tmp ..)
  · exact withAlarm_tmp ..

theorem alarmOn_tamperAlarm (s : State) (k : Fin 13) : alarmOn (tamperAlarm s k) = true := by
  rw [alarmOn, tamperAlarm_tmp]
  exact Bool.or_eq_true_iff.2 (.inl (decide_eq_true (or_srcBit_ne_zero _ k)))

theorem watched_iff (s : State) (k : Fin 13) :
    watched s k = true ↔ s.mode.mode ≠ .off ∧ (s.mode.mode = .vigil → k ≠ 8 ∧ k ≠ 9) := by
  simp [watched, Fin.ext_iff, imp_iff_not_or]

/-! ### Meshes and the Snuff's hold -/

theorem missed_of_mesh {s : State} {k : Nat} (h : k < 4) :
    missed s k = s.setTmp (meshMiss s.tmp k (fld s.tmp.mesh 16 3 + 1)) := if_pos h

theorem snuffTrig_of_first {s : State} (a b : Nat) (hflag : s.snf.flag = false) (htrig : s.tmp.trig = none) :
    (snuffTrig s a b).tmp = { s.tmp with hold := 0x1FFF, trig := some (a, b), holdLock := a ≠ 3 }
    ∧ (snuffTrig s a b).snf.flag = true ∧ (snuffTrig s a b).snf.cause = a ∧ (snuffTrig s a b).snf.source = b := by
  have hfirst : ¬ ((s.snf.flag || s.tmp.trig.isSome) = true) := by simp [hflag, htrig]
  rw [snuffTrig, if_neg hfirst]
  refine ⟨withAlarm_tmp .., ?_⟩
  rw [(sb_withAlarm (sameBut_refl _ _) (partsIn_refl _)).snf_eq]
  exact ⟨rfl, rfl, rfl⟩

/-- Settles O59: a source acts by its response, and each write of TMP_ is one branch. -/
theorem tamperSources : Obligations.TamperSources := by
  unfold Obligations.TamperSources
  refine ⟨?_, ?_, ?_, ?_, ?_, ?_, ?_, ?_, ?_, ?_, ?_, ?_, ?_, ?_, ?_, ?_, ?_, ?_, ?_, ?_⟩
  · exact fun s k harmed hwatched hactive => congrArg Host.Outcome.next (sourceOn_of_acts harmed hwatched hactive)
  · exact fun s k h => congrArg Host.Outcome.next (sourceOn_of_still h)
  · exact fun s k hr => tamperAct_eq hr
  · exact fun s k hr => tamperAct_eq hr
  · exact fun s k hr => (tamperAct_eq hr).trans
      ((if_pos rfl).trans (congrArg (snuffTrig · 1 k) (if_pos (by decide))))
  · intro s k
    exact ⟨congrArg Tmp.hold (tamperAlarm_tmp s k), alarmOn_tamperAlarm s k⟩
  · exact respNow_le
  · exact fun _ _ => rfl
  · exact watched_iff
  · exact fun _ _ => rfl
  · intro s v hup hlock
    exact if_neg (by simp [hup, hlock])
  · intro s v h
    refine if_pos ?_
    rcases h with h | h <;> simp [h]
  · intro s v hup hlc
    exact if_pos (by simp [hup, hlc])
  · intro s v h
    refine if_neg ?_
    rcases h with h | h <;> simp [h]
  · intro s v hup hkey hbit
    exact if_pos (by simp [hup, hkey, hbit])
  · intro s v h
    refine if_neg ?_
    rcases h with h | h | h <;> simp [h]
  · intro s k hk
    rw [missed_of_mesh hk]
    rfl
  · exact fun s k hk => if_neg (Nat.not_lt.2 hk)
  · intro s a b hflag htrig ha
    rw [(snuffTrig_of_first a b hflag htrig).1]
    exact decide_eq_true ha
  · exact fun _ => ⟨rfl, rfl⟩

end Sys2Proof.Machine
end

section
/-! The Snuff: its trigger, what its run clears and where it ends (17 R413 to R420). -/
namespace Sys2Proof.Machine

set_option Elab.async false

theorem snuffTrig_of_again {s : State} (a b : Nat) (h : s.snf.flag = true ∨ s.tmp.trig.isSome = true) :
    snuffTrig s a b = if a = 1 then s else logOtherS s .snf (leBytes 8 a) :=
  if_pos (Bool.or_eq_true_iff.2 h)

/-! ### The banks -/

theorem bankZero_true (s : State) : bankZero s true = (s.setFree (s.free + 1)).setVlt
    (vaultZero s.vlt ((freeBytes s 48).1.take 32) ((freeBytes s 48).1.drop 32)) := rfl

theorem bankZero_false (s : State) :
    bankZero s false = s.setVlt (vaultZero s.vlt (List.replicate 32 0) (List.replicate 16 0)) := rfl

/-- A bank whose content decayed holds free bytes, as many as before (R416). -/
theorem bankZero_clears (s : State) (d : Bool) : (bankZero s d).vlt.slots = [] ∧ (bankZero s d).vlt.cache = []
    ∧ (bankZero s d).vlt.vrOk = false ∧ (bankZero s d).vlt.vr.length = 32 := by
  cases d with
  | true =>
    refine ⟨rfl, rfl, rfl, ?_⟩
    rw [bankZero_true]
    change ((freeBytes s 48).1.take 32).length = 32
    simp [freeBytes]
  | false => exact ⟨rfl, rfl, rfl, List.length_replicate⟩

/-! ### What ends beside the banks, in its order -/

/-- Custody ended: what was open is cancelled, a run zeroed on PKE0 shows its result. -/
def custodyEnded (s : State) : State :=
  if (custCancelAll s 4 0xB).cus.run = 3 then custStop (custCancelAll s 4 0xB) else custCancelAll s 4 0xB

/-- The random state zeroed and the database closed, with the engines of DIM back. -/
def randomEnded (s : State) : State := setDb (snuffUngate (onRng (custodyEnded s) rngZero)) {}

/-- A DIM entry and a debug switch that wait cancelled. -/
def entriesEnded (s : State) : State :=
  debugCancel (if (randomEnded s).mode.dimPend.isSome then dimCancel (randomEnded s) else randomEnded s)

/-- Debug closed, with the test root and a wake. -/
def debugEnded (s : State) : State :=
  (entriesEnded s).setMode { (entriesEnded s).mode with dbg := .closed, port := false, testroot := false, wake := none }

theorem snuffRest_eq (s : State) :
    snuffRest s = (debugEnded s).setVlt { (debugEnded s).vlt with root := rootInForce (debugEnded s) } := rfl

/-- The parts that custody leaves. -/
theorem custodyEnded_sameBut (s : State) :
    sameBut [.events, .cus, .can0, .can1, .voe, .hif, .evr, .flt, .pke] s (custodyEnded s) := by
  have hcancel : sameBut [.events, .cus, .can0, .can1, .voe, .hif, .evr, .flt, .pke] s (custCancelAll s 4 0xB) :=
    sb_custCancelAll (sameBut_refl _ s) rfl
  unfold custodyEnded
  split
  · exact sb_custStop hcancel rfl
  · exact hcancel

theorem randomEnded_sameBut (s : State) : sameBut [.clk, .rng, .spi0] (custodyEnded s) (randomEnded s) :=
  sb_setDb (sb_snuffUngate (sb_onRng (sameBut_refl _ _) rfl) rfl) rfl

theorem entriesEnded_sameBut (s : State) : sameBut [.events, .mode, .hif, .evr, .flt] (randomEnded s) (entriesEnded s) := by
  unfold entriesEnded
  split
  · exact sb_debugCancel (sb_dimCancel (sameBut_refl _ _) rfl) rfl
  · exact sb_debugCancel (sameBut_refl _ _) rfl

/-- A start of the source leaves the random state (R326). -/
theorem rngStarted_keeps (r : Rng) : (if r.run then r else rngStart r).key = r.key
    ∧ (if r.run then r else rngStart r).v = r.v ∧ (if r.run then r else rngStart r).pool = r.pool := by
  split <;> exact ⟨rfl, rfl, rfl⟩

/-- The engines that come back leave the random state zeroed: a start clears the source alone. -/
theorem snuffUngate_rng (s : State) : (snuffUngate s).rng.key = s.rng.key ∧ (snuffUngate s).rng.v = s.rng.v
    ∧ (snuffUngate s).rng.pool = s.rng.pool := by
  unfold snuffUngate
  split
  · exact rngStarted_keeps s.rng
  · exact ⟨rfl, rfl, rfl⟩

theorem snuffRest_rng (s : State) : (snuffRest s).rng.key = List.replicate 32 0
    ∧ (snuffRest s).rng.v = List.replicate 16 0 ∧ (snuffRest s).rng.pool = [] := by
  obtain ⟨hkey, hv, hpool⟩ := snuffUngate_rng (onRng (custodyEnded s) rngZero)
  have hrng : (snuffRest s).rng = (snuffUngate (onRng (custodyEnded s) rngZero)).rng := (entriesEnded_sameBut s).rng_eq
  rw [hrng]
  exact ⟨hkey, hv, hpool⟩

theorem debugCancel_mode_mode (s : State) : (debugCancel s).mode.mode = s.mode.mode
    ∧ (debugCancel s).mode.inReset = s.mode.inReset := by
  unfold debugCancel
  split
  · simp
  · exact ⟨rfl, rfl⟩

theorem entriesEnded_mode (s : State) : (entriesEnded s).mode.mode = s.mode.mode
    ∧ (entriesEnded s).mode.inReset = s.mode.inReset := by
  have hmode : (randomEnded s).mode = s.mode := (randomEnded_sameBut s).mode_eq.trans (custodyEnded_sameBut s).mode_eq
  obtain ⟨hm, hr⟩ := debugCancel_mode_mode
    (if (randomEnded s).mode.dimPend.isSome then dimCancel (randomEnded s) else randomEnded s)
  rw [entriesEnded, hm, hr]
  split
  · rw [dimCancel_mode, hmode]
    exact ⟨rfl, rfl⟩
  · rw [hmode]
    exact ⟨rfl, rfl⟩

theorem mainUp_snuffRest (s : State) : mainUp (snuffRest s) = mainUp s := by
  obtain ⟨hmode, hreset⟩ := entriesEnded_mode s
  change (decide ((entriesEnded s).mode.mode ≠ .off) && decide ((entriesEnded s).mode.mode ≠ .vigil)
    && !(entriesEnded s).mode.inReset) = mainUp s
  rw [hmode, hreset]
  rfl

/-- Of the vault only the root in force changes. -/
theorem snuffRest_vlt (s : State) : (snuffRest s).vlt = { s.vlt with root := rootInForce (debugEnded s) } := by
  have hvlt : (debugEnded s).vlt = s.vlt :=
    (entriesEnded_sameBut s).vlt_eq.trans ((randomEnded_sameBut s).vlt_eq.trans (custodyEnded_sameBut s).vlt_eq)
  rw [snuffRest_eq, State.setVlt_vlt, hvlt]

/-! ### The run -/

/-- The banks cleared and every operation in flight ended. -/
def snuffFlown (s : State) (e : SnuffEnv) : State :=
  tamperFlight (bankZero (snuffLatch s e) ((snuffLatch s e).snf.decay && e.never.getLsbD 0))

/-- The run over and logged. -/
def snuffLogged (u : State) : State :=
  let t := u.setTmp { u.tmp with trig := none }
  logS t .snf 1 (leBytes 4 (snfStat t.snf) ++ leBytes 4 t.snf.time)

theorem execSnuffTrigger_of {s : State} (e : SnuffEnv) {n k : Nat} (htrig : s.tmp.trig = some (k, n)) :
    execSnuffTrigger e s = .next (if k = 3 then retireEnd (snuffedEnter (snuffLogged (snuffRest (snuffFlown s e))) k)
      else snuffedEnter (snuffLogged (snuffRest (snuffFlown s e))) k) := by
  unfold execSnuffTrigger snuffLogged snuffFlown
  simp only [htrig]

theorem exec_snuffTrigger {s : State} (e : SnuffEnv) {n k : Nat} (htrig : s.tmp.trig = some (k, n)) (hk : k ≠ 3) :
    exec (.snuffTrigger e) s = .next (snuffedEnter (snuffLogged (snuffRest (snuffFlown s e))) k) :=
  (execSnuffTrigger_of e htrig).trans (congrArg Host.Outcome.next (if_neg hk))

theorem tamperFlight_sameBut (s : State) :
    sameBut [.events, .cus, .eng, .pke, .hif, .evr, .flt, .cores, .sram, .free] s (tamperFlight s) :=
  sb_tamperFlight (sameBut_refl _ s) rfl

theorem snuffedEnter_sameBut (s : State) (k : Nat) : sameBut [.events, .glb, .mode, .hif, .evr] s (snuffedEnter s k) :=
  sb_snuffedEnter (sameBut_refl _ s) rfl

theorem snuffedEnter_of_up {s : State} (k : Nat) (hup : mainUp s = true) :
    snuffedEnter s k = toMode (vfsOff s) .snuffed (snuffCause k) := if_neg (by simp [hup])

theorem snuffedEnter_of_down {s : State} (k : Nat) (hdown : mainUp s = false) : snuffedEnter s k = s :=
  if_pos (by simp [hdown])

theorem snuffCause_eq (k : Nat) : snuffCause k = if k = 1 ∨ k = 4 then 0x0B else 0x0C := by
  simp only [snuffCause, Bool.or_eq_true, decide_eq_true_eq]

/-- The mode entered leaves debug as it is. -/
theorem snuffedEnter_dbg (s : State) (k : Nat) : (snuffedEnter s k).mode.dbg = s.mode.dbg := by
  cases hup : mainUp s with
  | true =>
    have hmode : (vfsOff s).mode = s.mode := (sb_vfsOff (sameBut_refl _ s) (partsIn_refl _)).mode_eq
    rw [snuffedEnter_of_up k hup, toMode_mode, hmode]
  | false => rw [snuffedEnter_of_down k hup]

theorem snuffFlown_vlt {s : State} {e : SnuffEnv} (h : (s.snf.vigil && e.vlow) = false) :
    (snuffFlown s e).vlt = vaultZero (snuffLatch s e).vlt (List.replicate 32 0) (List.replicate 16 0) := by
  have hdecay : ((snuffLatch s e).snf.decay && e.never.getLsbD 0) = false := by
    change (((e.vlow && s.snf.vigil) && decide (e.never &&& 3 ≠ 0)) && e.never.getLsbD 0) = false
    rw [Bool.and_comm e.vlow, h, Bool.false_and, Bool.false_and]
  rw [snuffFlown, (tamperFlight_sameBut _).vlt_eq, hdecay]
  rfl

theorem snuffFlown_mode (s : State) (e : SnuffEnv) : (snuffFlown s e).mode = (snuffLatch s e).mode :=
  (tamperFlight_sameBut _).mode_eq.trans (sb_bankZero (sameBut_refl _ _) (partsIn_refl _)).mode_eq

theorem snuffFlown_snf (s : State) (e : SnuffEnv) : (snuffFlown s e).snf = (snuffLatch s e).snf :=
  (tamperFlight_sameBut _).snf_eq.trans (sb_bankZero (sameBut_refl _ _) (partsIn_refl _)).snf_eq

theorem mainUp_snuffFlown (s : State) (e : SnuffEnv) : mainUp (snuffFlown s e) = mainUp s := by
  rw [mainUp, snuffFlown_mode]
  rfl

theorem mainUp_snuffLogged (s : State) : mainUp (snuffLogged s) = mainUp s := by
  rw [mainUp, snuffLogged, logS_mode]
  rfl

/-- What stands when the run is over (R414 to R417). -/
theorem snuffRun_clears {s : State} {e : SnuffEnv} {u t : State} (hu : u = snuffRest (snuffFlown s e)) {k : Nat}
    (ht : t = snuffedEnter (snuffLogged u) k) : t.vlt = u.vlt ∧ t.rng = u.rng ∧ t.mode.dbg = .closed ∧ t.tmp.trig = none
      ∧ t.snf.late = decide (400 < e.time) := by
  have hsame := snuffedEnter_sameBut (snuffLogged u) k
  rw [← ht] at hsame
  refine ⟨hsame.vlt_eq.trans (logS_vlt ..), hsame.rng_eq.trans (logS_rng ..), ?_, ?_, ?_⟩
  · rw [ht, snuffedEnter_dbg, snuffLogged, logS_mode, hu]
    rfl
  · rw [hsame.tmp_eq, snuffLogged, logS_tmp, State.setTmp_tmp]
  · rw [hsame.snf_eq, snuffLogged, logS_snf, State.setTmp_snf, hu,
      (sb_snuffRest (sameBut_refl _ (snuffFlown s e)) (partsIn_refl _)).snf_eq, snuffFlown_snf]
    rfl

/-- Settles O60: the vault is zeroed before what ends beside it, which leaves all of it but the root in force. -/
theorem snuffRun : Obligations.SnuffRun := by
  unfold Obligations.SnuffRun
  refine ⟨?_, ?_, ?_, ?_, ?_, ?_, ?_, ?_, ?_, ?_, ?_, ?_, ?_⟩
  · exact fun s a b => snuffTrig_of_again a b
  · intro s a b hflag htrig
    obtain ⟨htmp, hset, hcause, hsource⟩ := snuffTrig_of_first a b hflag htrig
    exact ⟨hset, hcause, hsource, congrArg Tmp.hold htmp, congrArg Tmp.trig htmp⟩
  · intro s e n k htrig hk hlow
    refine leads_of_exec (exec_snuffTrigger e htrig hk) ?_
    obtain ⟨hvlt, hrng, hdbg, htrig', hlate⟩ := snuffRun_clears (s := s) (e := e) rfl (k := k) rfl
    obtain ⟨hkey, hv, hpool⟩ := snuffRest_rng (snuffFlown s e)
    rw [hvlt, hrng, snuffRest_vlt, snuffFlown_vlt hlow]
    exact ⟨rfl, rfl, rfl, rfl, rfl, rfl, rfl, rfl, hkey, hv, hpool, hdbg, htrig', hlate⟩
  · intro s e n k htrig hk hup
    refine leads_of_exec (exec_snuffTrigger e htrig hk) ?_
    have hstill : mainUp (snuffLogged (snuffRest (snuffFlown s e))) = true :=
      (mainUp_snuffLogged _).trans ((mainUp_snuffRest _).trans ((mainUp_snuffFlown s e).trans hup))
    rw [snuffedEnter_of_up k hstill, toMode_mode]
    exact ⟨rfl, snuffCause_eq k⟩
  · exact bankZero_clears
  · intro s k hup
    rw [snuffedEnter_of_up k hup, snuffCause_eq]
  · intro s e h
    show execSnuffTrigger e s = _
    simp only [execSnuffTrigger, h]
  · intro s e l hup hq
    show execEventAccept s = _
    simp only [execEventAccept, hq]
    exact if_neg (by simp [hup])
  · intro s hup hpaused
    exact if_pos (by simp [hup, hpaused])
  · intro s h
    refine if_neg ?_
    rcases h with h | h <;> simp [h]
  · exact fun s k => snuffedEnter_of_down k
  · exact fun s e => ⟨rfl, rfl, rfl, rfl⟩
  · intro s h
    show execEventAccept s = _
    rcases h with h | h
    · simp only [execEventAccept]
      split
      · rfl
      · exact if_pos (by simp [h])
    · simp only [execEventAccept, h]

end Sys2Proof.Machine
end
